-- ==== Sys2Proof/Word.lean ====
section
/-! DEFINITION. The word types of the GK480-1 and their plainest arithmetic (spec file 01, R3 to R9: widths, sext and zext). -/

namespace Sys2Proof

/-- A 64-bit machine word: a general register, a program counter, a CSR. -/
abbrev Word := BitVec 64

/-- One byte of memory. -/
abbrev Byte := BitVec 8

/-- A 32-bit headland word, slot word or side word. -/
abbrev Word32 := BitVec 32

/-- A general register number: its 5-bit field selects g0 to g31 (R31). -/
abbrev Reg := BitVec 5

/-- A token's 128-byte payload as one number: bit 0 is the lowest bit of lane 0 (R83). -/
abbrev Payload := BitVec 1024

/-- A token tag (R86). -/
abbrev Tag := BitVec 64

end Sys2Proof
end

