-- ==== Sys2Proof/Syntax.lean ====
section
/-! DEFINITION. The instructions of the GK480-1 as syntax: one constructor for every row of the opcode table. Headland words
(R30 to R42), fabric slot words (R43 to R51) and the steps of the other agents (spec file 95). -/

namespace Sys2Proof

/-- The scope of a fence or an atomic (R36, R242). -/
inductive Scope where
  | plot | bed | field | device | system
  deriving DecidableEq, Repr

/-- The access width of LD and ST (R35). -/
inductive MemSize where
  | byte | half | word | dword
  deriving DecidableEq, Repr

/-- The access width of AMO and CAS (R36). -/
inductive AmoSize where
  | word | dword
  deriving DecidableEq, Repr

/-- The kind of a CSR word that writes: CSRW, CSRS or CSRC (R37). -/
inductive CsrOp where
  | write | set | clear
  deriving DecidableEq, Repr

/-- The per-place registers whose writes R325 checks. -/
inductive PlaceReg where
  | tcfg | tlocal | tedge | tassign
  deriving DecidableEq, Repr

/-- The region level of FALLOW (R39, R171). -/
inductive FallowLevel where
  | bed | field | part
  deriving DecidableEq, Repr

/-- The level of CLEAN, INVAL and CLINV (R39, R231). -/
inductive CacheLevel where
  | l1 | edge | all
  deriving DecidableEq, Repr

/-- The sweep states P0 to P4 (R187). -/
inductive SweepState where
  | p0 | p1 | p2 | p3 | p4
  deriving DecidableEq, Repr

/-- The fields of a slot word and its side word (R43). -/
structure SlotFields where
  action : BitVec 4
  srcA : BitVec 4
  srcB : BitVec 4
  dst0 : BitVec 6
  dst1 : BitVec 6
  qual : BitVec 8
  extra : BitVec 8
  ext : BitVec 16
  deriving DecidableEq, Repr

/-- One instruction, one slot operation, or one step of another agent. -/
inductive Instr where
  -- ALU group, three operands: gd, ga, gb (R54 to R56).
  | add (d a b : Reg)
  | sub (d a b : Reg)
  | and (d a b : Reg)
  | or (d a b : Reg)
  | xor (d a b : Reg)
  | andn (d a b : Reg)
  | shl (d a b : Reg)
  | shr (d a b : Reg)
  | sar (d a b : Reg)
  | slt (d a b : Reg)
  | sltu (d a b : Reg)
  | min (d a b : Reg)
  | max (d a b : Reg)
  | minu (d a b : Reg)
  | maxu (d a b : Reg)
  | mul (d a b : Reg)
  | mulh (d a b : Reg)
  | mulhu (d a b : Reg)
  | mulhsu (d a b : Reg)
  | div (d a b : Reg)
  | divu (d a b : Reg)
  | rem (d a b : Reg)
  | remu (d a b : Reg)
  -- ALU group, two operands (R57).
  | clz (d a : Reg)
  | ctz (d a : Reg)
  | popc (d a : Reg)
  | bswap (d a : Reg)
  | sextb (d a : Reg)
  | sexth (d a : Reg)
  | sextw (d a : Reg)
  | zextb (d a : Reg)
  | zexth (d a : Reg)
  | zextw (d a : Reg)
  -- Immediate group (R58).
  | addi (d a : Reg) (imm : BitVec 16)
  | andi (d a : Reg) (imm : BitVec 16)
  | ori (d a : Reg) (imm : BitVec 16)
  | xori (d a : Reg) (imm : BitVec 16)
  | slti (d a : Reg) (imm : BitVec 16)
  | sltiu (d a : Reg) (imm : BitVec 16)
  | shli (d a : Reg) (amt : BitVec 6)
  | shri (d a : Reg) (amt : BitVec 6)
  | sari (d a : Reg) (amt : BitVec 6)
  | lui (d : Reg) (imm : BitVec 16)
  | lus (d : Reg) (imm : BitVec 16)
  | addpc (d : Reg) (imm : BitVec 16)
  -- Loads and stores (R59).
  | ld (sz : MemSize) (sx : Bool) (d a : Reg) (off : BitVec 13)
  | st (sz : MemSize) (d a : Reg) (off : BitVec 13)
  -- AMO and CAS (R222 to R225).
  | amoAdd (sc : Scope) (sz : AmoSize) (d a b : Reg)
  | amoAnd (sc : Scope) (sz : AmoSize) (d a b : Reg)
  | amoOr (sc : Scope) (sz : AmoSize) (d a b : Reg)
  | amoXor (sc : Scope) (sz : AmoSize) (d a b : Reg)
  | amoMin (sc : Scope) (sz : AmoSize) (d a b : Reg)
  | amoMax (sc : Scope) (sz : AmoSize) (d a b : Reg)
  | amoMinu (sc : Scope) (sz : AmoSize) (d a b : Reg)
  | amoMaxu (sc : Scope) (sz : AmoSize) (d a b : Reg)
  | amoSwap (sc : Scope) (sz : AmoSize) (d a b : Reg)
  | amoIncw (sc : Scope) (sz : AmoSize) (d a b : Reg)
  | amoBfadd (sc : Scope) (sz : AmoSize) (d a b : Reg)
  | amoFmin (sc : Scope) (d a b : Reg)
  | amoFmax (sc : Scope) (d a b : Reg)
  | amoFadd (sc : Scope) (d a b : Reg)
  | cas (sc : Scope) (sz : AmoSize) (d a b : Reg)
  -- Branches and jumps (R63, R64).
  | beq (a b : Reg) (off : BitVec 16)
  | bne (a b : Reg) (off : BitVec 16)
  | blt (a b : Reg) (off : BitVec 16)
  | bge (a b : Reg) (off : BitVec 16)
  | bltu (a b : Reg) (off : BitVec 16)
  | bgeu (a b : Reg) (off : BitVec 16)
  | jal (d : Reg) (off : BitVec 21)
  | jalr (d a : Reg) (imm : BitVec 16)
  -- CSR group (R66). The words of a CSR write whose register has effects of its own are the constructors from tstatWrite to twaysWrite.
  | csrr (d : Reg) (n : BitVec 12)
  | csrw (d a : Reg) (n : BitVec 12)
  | csrs (d a : Reg) (n : BitVec 12)
  | csrc (d a : Reg) (n : BitVec 12)
  -- CSR writes with effects of their own.
  | tstatWrite (k : CsrOp) (d a : Reg)
  | tlbiWrite (k : CsrOp) (d a : Reg)
  | trunWrite (k : CsrOp) (d a : Reg)
  | rotctlArm (d a : Reg)
  | armWithdraw (d a : Reg)
  | soleWrite (d a : Reg)
  | barcfgWrite (k : CsrOp) (n : BitVec 4) (d a : Reg)
  | occWrite (k : CsrOp) (n : BitVec 4) (d a : Reg)
  | placeRegisterWrite (k : CsrOp) (r : PlaceReg) (d a : Reg)
  | twaysWrite (k : CsrOp) (d a : Reg)
  -- SYNC group (R226 to R230).
  | fenceAcq (sc : Scope)
  | fenceRel (sc : Scope)
  | fenceFull (sc : Scope)
  | wait (d a b : Reg)
  | waite (d a b : Reg)
  | bar (d a : Reg)
  | barw (d a : Reg)
  | barq (d a : Reg)
  | hold (d : Reg)
  -- THREAD group (R68 to R71).
  | spawn (d a b : Reg)
  | pause (a : Reg)
  -- FABRIC group (R164 to R174).
  | inj (d a b : Reg)
  | recv (d : Reg)
  | ctxa (d a : Reg)
  | ctxf (a : Reg)
  | sow (d a b : Reg)
  | swap (d a : Reg)
  | fallow (lvl : FallowLevel) (d a : Reg)
  | haltr (d a : Reg)
  | resumer (d a : Reg)
  | ecfgw (d a b : Reg)
  | ecfgr (d a : Reg)
  -- BOARD group (R212 to R220, R294 to R304).
  | boardRead (d a b : Reg)
  | boardFilter (d a b : Reg)
  | boardSum (d a b : Reg)
  | boardFeed (d a b : Reg)
  | boardUpdate (d a b : Reg)
  | boardAtom (d a b : Reg)
  | boardFill (d a b : Reg)
  | boardDrain (d a b : Reg)
  | boardDigest (d a b : Reg)
  | boardCancel (d a : Reg)
  -- CACHE group (R231).
  | clean (lvl : CacheLevel) (a b : Reg)
  | inval (lvl : CacheLevel) (a b : Reg)
  | clinv (lvl : CacheLevel) (a b : Reg)
  -- GEN group (R309 to R311).
  | gstart (d a : Reg)
  | gstop (d a : Reg)
  | gstat (d a : Reg)
  -- COLL group (R383 to R391).
  | allredOrd (d a b : Reg)
  | allredExact (d a b : Reg)
  | bcast (d a b : Reg)
  | allgath (d a b : Reg)
  | redscatOrd (d a b : Reg)
  | redscatExact (d a b : Reg)
  | digset (d a b : Reg)
  | digcmp (d a b : Reg)
  -- TWIN group (R307, R308).
  | tcommit (d a : Reg)
  | tabort (d a : Reg)
  | normrd (high : Bool) (n : BitVec 4) (d : Reg)
  | normclr (n : BitVec 4)
  -- SYS group (R72 to R76).
  | trap (imm : BitVec 16)
  | svc (imm : BitVec 16)
  -- Slot opcodes, dataflow (R127 to R133, R237).
  | copy (f : SlotFields)
  | steer (f : SlotFields)
  | merge (f : SlotFields)
  | gate (f : SlotFields)
  | sink (f : SlotFields)
  | const (f : SlotFields)
  | iter (f : SlotFields)
  | count (f : SlotFields)
  | comb (f : SlotFields)
  | reap (f : SlotFields)
  | tagix (f : SlotFields)
  | loop (f : SlotFields)
  | eos (f : SlotFields)
  | mail (f : SlotFields)
  | ord (f : SlotFields)
  -- Slot opcodes, integer (R134, R135).
  | slotAdd (f : SlotFields)
  | slotSub (f : SlotFields)
  | slotMul (f : SlotFields)
  | slotMulh (f : SlotFields)
  | mad (f : SlotFields)
  | slotAnd (f : SlotFields)
  | slotOr (f : SlotFields)
  | slotXor (f : SlotFields)
  | slotAndn (f : SlotFields)
  | slotShl (f : SlotFields)
  | slotShr (f : SlotFields)
  | slotSar (f : SlotFields)
  | slotMin (f : SlotFields)
  | slotMax (f : SlotFields)
  | abs (f : SlotFields)
  | neg (f : SlotFields)
  | cmp (f : SlotFields)
  | sel (f : SlotFields)
  | slotClz (f : SlotFields)
  | slotPopc (f : SlotFields)
  | adds (f : SlotFields)
  | subs (f : SlotFields)
  | avg (f : SlotFields)
  | dot4 (f : SlotFields)
  | bext (f : SlotFields)
  | bins (f : SlotFields)
  | rotl (f : SlotFields)
  | satn (f : SlotFields)
  -- Slot opcodes, floating point (R136, R137).
  | fadd (f : SlotFields)
  | fsub (f : SlotFields)
  | fmul (f : SlotFields)
  | ffma (f : SlotFields)
  | fmin (f : SlotFields)
  | fmax (f : SlotFields)
  | fabs (f : SlotFields)
  | fneg (f : SlotFields)
  | fcmp (f : SlotFields)
  | fclass (f : SlotFields)
  | frcp (f : SlotFields)
  | frsq (f : SlotFields)
  | fsqrt (f : SlotFields)
  | fexp2 (f : SlotFields)
  | flog2 (f : SlotFields)
  | ftanh (f : SlotFields)
  -- Slot opcodes, conversion and status (R138 to R142).
  | cvt (f : SlotFields)
  | packq (f : SlotFields)
  | unpackq (f : SlotFields)
  | plane (f : SlotFields)
  | had (f : SlotFields)
  | setfpc (f : SlotFields)
  | getfpf (f : SlotFields)
  | clrfpf (f : SlotFields)
  -- Slot opcodes, lanes (R143 to R147).
  | perm (f : SlotFields)
  | bfly (f : SlotFields)
  | rot (f : SlotFields)
  | slotBcast (f : SlotFields)
  | join (f : SlotFields)
  | split (f : SlotFields)
  | rsum (f : SlotFields)
  | rmax (f : SlotFields)
  | rmin (f : SlotFields)
  | laneix (f : SlotFields)
  | frsum (f : SlotFields)
  -- Slot opcodes, modular (R159, R160).
  | madd (f : SlotFields)
  | msub (f : SlotFields)
  | mmul (f : SlotFields)
  | mmac (f : SlotFields)
  | mct (f : SlotFields)
  | mgs (f : SlotFields)
  | mred (f : SlotFields)
  | mneg (f : SlotFields)
  -- Slot opcodes, matrix and corner turn (R149 to R158).
  | mma (f : SlotFields)
  | mmas (f : SlotFields)
  | accrd (f : SlotFields)
  | accclr (f : SlotFields)
  | cturn (f : SlotFields)
  -- Slot opcodes, memory (R221, R232 to R236).
  | lds (f : SlotFields)
  | sts (f : SlotFields)
  | ldsv (f : SlotFields)
  | stsv (f : SlotFields)
  | atoms (f : SlotFields)
  | bufw (f : SlotFields)
  | bufr (f : SlotFields)
  | etas (f : SlotFields)
  | etld (f : SlotFields)
  | etst (f : SlotFields)
  | boards (f : SlotFields)
  -- Steps of the other agents (spec file 95).
  | tokenArrival
  | reload
  | reapToken
  | reapFilterRetire
  | fallowReport
  | matchExhausted
  | mailboxAccept
  | injectionRelease
  | iterEmit
  | accrdRow
  | cturnEmit
  | ordArcSend
  | swapActivate
  | swapTimeout
  | stepBoundary
  | guard
  | rowCommit
  | tlbInvalidationDone
  | loadReturn
  | dividerDone
  | storeBufferDrain
  | waitWake
  | waitTimeout
  | pauseExpiry
  | holdExpiry
  | asyncTrapEntry
  | generatorBlock
  | collectiveComplete
  | linkDown
  | passMarker
  | sweepStateAnnounce
  | thermalSlowdown
  | thermalSpeedup
  | layerPark
  | layerUnpark
  | layerPowerOff
  | powerRequest
  | plotWake
  | coreWatchdog
  | edgeLineError
  | startRecord
  | readNotices
  | breakClaim
  | breakRelease
  | breakResume
  | partitionReset
  | deviceReset
  | takeResetLock
  | dropResetLock
  | loadFirmware
  | powerOn
  | powerOff
  | checkpoint
  | checkpointRelease
  | boot
  | startTimeout
  | unassignedHeadlandWord
  | fetchFault
  | ucPageReread
  | runtimeThreadRestart
  | poisonMarkClear
  | groupTableWrite
  | frameMaskWrite
  | linkUp
  | hostMemoryAccess
  -- The headland instructions without a field (R70, R72 to R76, R230): they stand last because a constructor with fields must have an index below 244.
  | unhold
  | exit
  | yield
  | eret
  | halt
  | brk
  | donate
  deriving DecidableEq, Repr

end Sys2Proof
end

