-- ==== Sys2Proof/Config.lean ====
section
/-! DEFINITION. What an implementation fixes and the free values: constants without a body, of which no proof can see a value. -/

namespace Sys2Proof.Config

/-- A 64-bit value the spec leaves open (R386: a destination after outcome 2 or 3; a reason code or image bytes without a number): `freeWord n` is the n-th one drawn
(log entry 6). -/
opaque freeWord : Nat → Word

/-- A byte of a corner-turn buffer that a store wrote while the buffer was live (R157, log entry 6). -/
opaque freeByte : Nat → Byte

/-- R137: the device's fixed value of FRCP for an operand, within the bound the rule states (log entry 7). -/
opaque frcp : Nat → Nat

/-- R137: the device's fixed value of FRSQ for an operand, within the bound the rule states (log entry 7). -/
opaque frsq : Nat → Nat

/-- R137: the device's fixed value of FEXP2 for an operand (log entry 7). -/
opaque fexp2 : Nat → Nat

/-- R137: the device's fixed value of FLOG2 for an operand (log entry 7). -/
opaque flog2 : Nat → Nat

/-- R137: the device's fixed value of FTANH for an operand (log entry 7). -/
opaque ftanh : Nat → Nat

end Sys2Proof.Config
end

