-- ==== Sys2Proof/WellFormed.lean ====
section
/-! DEFINITION. The checks an instruction term must pass to stand for a word of the spec's encodings or for a step that can be
asked for: what the field types do not already say. -/

namespace Sys2Proof

/-- The CSR indices whose writes are constructors of their own (R209, R228, R324, R325, R334, R335, R357). -/
def isSpecialCsr (n : BitVec 12) : Bool :=
  n == 0x001 || n == 0x111 || n == 0x118 || n == 0x121 || n == 0x123 || n == 0x124 || n == 0x125 || n == 0x127 || n == 0x129 ||
  n.extractLsb' 4 8 == 0x05 || n.extractLsb' 4 8 == 0x07

/-- R46: the destination codes that are not rejected. -/
def dstLegal (d : BitVec 6) : Bool :=
  d.extractLsb' 5 1 == 0#1 || d.extractLsb' 4 2 == 0b10#2 || d == 0b110000#6 || d == 0b111111#6

/-- R45, R46, R48: the fields of a slot word that no opcode may hold. -/
def SlotFields.wf (f : SlotFields) : Bool :=
  f.action.toNat < 10 && f.srcA != 7 && f.srcB != 7 && dstLegal f.dst0 && dstLegal f.dst1

/-- An instruction term that stands for a word of the spec or for a step of another agent. -/
def Instr.wf : Instr → Bool
  | .add _ _ _ => true
  | .sub _ _ _ => true
  | .and _ _ _ => true
  | .or _ _ _ => true
  | .xor _ _ _ => true
  | .andn _ _ _ => true
  | .shl _ _ _ => true
  | .shr _ _ _ => true
  | .sar _ _ _ => true
  | .slt _ _ _ => true
  | .sltu _ _ _ => true
  | .min _ _ _ => true
  | .max _ _ _ => true
  | .minu _ _ _ => true
  | .maxu _ _ _ => true
  | .mul _ _ _ => true
  | .mulh _ _ _ => true
  | .mulhu _ _ _ => true
  | .mulhsu _ _ _ => true
  | .div _ _ _ => true
  | .divu _ _ _ => true
  | .rem _ _ _ => true
  | .remu _ _ _ => true
  | .clz _ _ => true
  | .ctz _ _ => true
  | .popc _ _ => true
  | .bswap _ _ => true
  | .sextb _ _ => true
  | .sexth _ _ => true
  | .sextw _ _ => true
  | .zextb _ _ => true
  | .zexth _ _ => true
  | .zextw _ _ => true
  | .addi _ _ _ => true
  | .andi _ _ _ => true
  | .ori _ _ _ => true
  | .xori _ _ _ => true
  | .slti _ _ _ => true
  | .sltiu _ _ _ => true
  | .shli _ _ _ => true
  | .shri _ _ _ => true
  | .sari _ _ _ => true
  | .lui _ _ => true
  | .lus _ _ => true
  | .addpc _ _ => true
  | .ld sz sx _ _ _ => !(sz == .dword && sx)
  | .st _ _ _ _ => true
  | .amoAdd _ _ _ _ _ => true
  | .amoAnd _ _ _ _ _ => true
  | .amoOr _ _ _ _ _ => true
  | .amoXor _ _ _ _ _ => true
  | .amoMin _ _ _ _ _ => true
  | .amoMax _ _ _ _ _ => true
  | .amoMinu _ _ _ _ _ => true
  | .amoMaxu _ _ _ _ _ => true
  | .amoSwap _ _ _ _ _ => true
  | .amoIncw _ _ _ _ _ => true
  | .amoBfadd _ _ _ _ _ => true
  | .amoFmin _ _ _ _ => true
  | .amoFmax _ _ _ _ => true
  | .amoFadd _ _ _ _ => true
  | .cas _ _ _ _ _ => true
  | .beq _ _ _ => true
  | .bne _ _ _ => true
  | .blt _ _ _ => true
  | .bge _ _ _ => true
  | .bltu _ _ _ => true
  | .bgeu _ _ _ => true
  | .jal _ _ => true
  | .jalr _ _ _ => true
  | .csrr _ _ => true
  | .csrw _ _ n => !isSpecialCsr n
  | .csrs _ _ n => !isSpecialCsr n
  | .csrc _ _ n => !isSpecialCsr n
  | .tstatWrite _ _ _ => true
  | .tlbiWrite _ _ _ => true
  | .trunWrite _ _ _ => true
  | .rotctlArm _ _ => true
  | .armWithdraw _ _ => true
  | .soleWrite _ _ => true
  | .barcfgWrite _ _ _ _ => true
  | .occWrite _ _ _ _ => true
  | .placeRegisterWrite _ _ _ _ => true
  | .twaysWrite _ _ _ => true
  | .fenceAcq _ => true
  | .fenceRel _ => true
  | .fenceFull _ => true
  | .wait _ _ _ => true
  | .waite _ _ _ => true
  | .bar _ _ => true
  | .barw _ _ => true
  | .barq _ _ => true
  | .hold _ => true
  | .unhold => true
  | .spawn _ _ _ => true
  | .exit => true
  | .yield => true
  | .pause _ => true
  | .inj _ _ _ => true
  | .recv _ => true
  | .ctxa _ _ => true
  | .ctxf _ => true
  | .sow _ _ _ => true
  | .swap _ _ => true
  | .fallow _ _ _ => true
  | .haltr _ _ => true
  | .resumer _ _ => true
  | .ecfgw _ _ _ => true
  | .ecfgr _ _ => true
  | .boardRead _ _ _ => true
  | .boardFilter _ _ _ => true
  | .boardSum _ _ _ => true
  | .boardFeed _ _ _ => true
  | .boardUpdate _ _ _ => true
  | .boardAtom _ _ _ => true
  | .boardFill _ _ _ => true
  | .boardDrain _ _ _ => true
  | .boardDigest _ _ _ => true
  | .boardCancel _ _ => true
  | .clean _ _ _ => true
  | .inval _ _ _ => true
  | .clinv _ _ _ => true
  | .gstart _ _ => true
  | .gstop _ _ => true
  | .gstat _ _ => true
  | .allredOrd _ _ _ => true
  | .allredExact _ _ _ => true
  | .bcast _ _ _ => true
  | .allgath _ _ _ => true
  | .redscatOrd _ _ _ => true
  | .redscatExact _ _ _ => true
  | .digset _ _ _ => true
  | .digcmp _ _ _ => true
  | .tcommit _ _ => true
  | .tabort _ _ => true
  | .normrd _ _ _ => true
  | .normclr _ => true
  | .trap _ => true
  | .svc _ => true
  | .eret => true
  | .halt => true
  | .brk => true
  | .donate => true
  | .copy f => f.wf
  | .steer f => f.wf
  | .merge f => f.wf
  | .gate f => f.wf
  | .sink f => f.wf
  | .const f => f.wf
  | .iter f => f.wf
  | .count f => f.wf
  | .comb f => f.wf
  | .reap f => f.wf
  | .tagix f => f.wf
  | .loop f => f.wf
  | .eos f => f.wf
  | .mail f => f.wf
  | .ord f => f.wf
  | .slotAdd f => f.wf
  | .slotSub f => f.wf
  | .slotMul f => f.wf
  | .slotMulh f => f.wf
  | .mad f => f.wf
  | .slotAnd f => f.wf
  | .slotOr f => f.wf
  | .slotXor f => f.wf
  | .slotAndn f => f.wf
  | .slotShl f => f.wf
  | .slotShr f => f.wf
  | .slotSar f => f.wf
  | .slotMin f => f.wf
  | .slotMax f => f.wf
  | .abs f => f.wf
  | .neg f => f.wf
  | .cmp f => f.wf
  | .sel f => f.wf
  | .slotClz f => f.wf
  | .slotPopc f => f.wf
  | .adds f => f.wf
  | .subs f => f.wf
  | .avg f => f.wf
  | .dot4 f => f.wf
  | .bext f => f.wf
  | .bins f => f.wf
  | .rotl f => f.wf
  | .satn f => f.wf
  | .fadd f => f.wf
  | .fsub f => f.wf
  | .fmul f => f.wf
  | .ffma f => f.wf
  | .fmin f => f.wf
  | .fmax f => f.wf
  | .fabs f => f.wf
  | .fneg f => f.wf
  | .fcmp f => f.wf
  | .fclass f => f.wf
  | .frcp f => f.wf
  | .frsq f => f.wf
  | .fsqrt f => f.wf
  | .fexp2 f => f.wf
  | .flog2 f => f.wf
  | .ftanh f => f.wf
  | .cvt f => f.wf
  | .packq f => f.wf
  | .unpackq f => f.wf
  | .plane f => f.wf
  | .had f => f.wf
  | .setfpc f => f.wf
  | .getfpf f => f.wf
  | .clrfpf f => f.wf
  | .perm f => f.wf
  | .bfly f => f.wf
  | .rot f => f.wf
  | .slotBcast f => f.wf
  | .join f => f.wf
  | .split f => f.wf
  | .rsum f => f.wf
  | .rmax f => f.wf
  | .rmin f => f.wf
  | .laneix f => f.wf
  | .frsum f => f.wf
  | .madd f => f.wf
  | .msub f => f.wf
  | .mmul f => f.wf
  | .mmac f => f.wf
  | .mct f => f.wf
  | .mgs f => f.wf
  | .mred f => f.wf
  | .mneg f => f.wf
  | .mma f => f.wf
  | .mmas f => f.wf
  | .accrd f => f.wf
  | .accclr f => f.wf
  | .cturn f => f.wf
  | .lds f => f.wf
  | .sts f => f.wf
  | .ldsv f => f.wf
  | .stsv f => f.wf
  | .atoms f => f.wf
  | .bufw f => f.wf
  | .bufr f => f.wf
  | .etas f => f.wf
  | .etld f => f.wf
  | .etst f => f.wf
  | .boards f => f.wf
  | .tokenArrival => true
  | .reload => true
  | .reapToken => true
  | .reapFilterRetire => true
  | .fallowReport => true
  | .matchExhausted => true
  | .mailboxAccept => true
  | .injectionRelease => true
  | .iterEmit => true
  | .accrdRow => true
  | .cturnEmit => true
  | .ordArcSend => true
  | .swapActivate => true
  | .swapTimeout => true
  | .stepBoundary => true
  | .guard => true
  | .rowCommit => true
  | .tlbInvalidationDone => true
  | .loadReturn => true
  | .dividerDone => true
  | .storeBufferDrain => true
  | .waitWake => true
  | .waitTimeout => true
  | .pauseExpiry => true
  | .holdExpiry => true
  | .asyncTrapEntry => true
  | .generatorBlock => true
  | .collectiveComplete => true
  | .linkDown => true
  | .passMarker => true
  | .sweepStateAnnounce => true
  | .thermalSlowdown => true
  | .thermalSpeedup => true
  | .layerPark => true
  | .layerUnpark => true
  | .layerPowerOff => true
  | .powerRequest => true
  | .plotWake => true
  | .coreWatchdog => true
  | .edgeLineError => true
  | .startRecord => true
  | .readNotices => true
  | .breakClaim => true
  | .breakRelease => true
  | .breakResume => true
  | .partitionReset => true
  | .deviceReset => true
  | .takeResetLock => true
  | .dropResetLock => true
  | .loadFirmware => true
  | .powerOn => true
  | .powerOff => true
  | .checkpoint => true
  | .checkpointRelease => true
  | .boot => true
  | .startTimeout => true
  | .unassignedHeadlandWord => true
  | .fetchFault => true
  | .ucPageReread => true
  | .runtimeThreadRestart => true
  | .poisonMarkClear => true
  | .groupTableWrite => true
  | .frameMaskWrite => true
  | .linkUp => true
  | .hostMemoryAccess => true

end Sys2Proof
end

