-- ==== Sys2Proof/Decode.lean ====
section
/-! DEFINITION. The decoder of headland words (R30 to R42) and of slot words (R43 to R49), total and rejecting by name, and after
it the encoder of both. -/

namespace Sys2Proof

/-- R42: why a headland word names no instruction. All four raise the same ILLEGAL trap. -/
inductive DecodeReject where
  | unassignedMajor | unassignedFunc | mustBeZero | rejectedCombination
  deriving DecidableEq, Repr

/-- R50, R169: why a slot word is refused: its opcode, a source select, a destination or the tag action. -/
inductive SlotReject where
  | opcode | source | destination | action
  deriving DecidableEq, Repr

/-! ### Fields of a headland word (R30) -/

def major (w : Word32) : BitVec 6 := w.extractLsb' 26 6
def fieldD (w : Word32) : Reg := w.extractLsb' 21 5
def fieldA (w : Word32) : Reg := w.extractLsb' 16 5
def fieldB (w : Word32) : Reg := w.extractLsb' 11 5
def fieldFunc (w : Word32) : BitVec 11 := w.extractLsb' 0 11
def fieldImm (w : Word32) : BitVec 16 := w.extractLsb' 0 16
def fieldOff21 (w : Word32) : BitVec 21 := w.extractLsb' 0 21
def fieldOff13 (w : Word32) : BitVec 13 := w.extractLsb' 0 13
def fieldSize (w : Word32) : BitVec 2 := w.extractLsb' 14 2
def fieldSx (w : Word32) : BitVec 1 := w.extractLsb' 13 1
def fieldKind (w : Word32) : BitVec 6 := w.extractLsb' 5 6
def fieldQual (w : Word32) : BitVec 5 := w.extractLsb' 0 5
def fieldSys (w : Word32) : BitVec 10 := w.extractLsb' 16 10

/-- R42: `i` if the fields that must be 0 are 0. -/
def needZero (zero : Bool) (i : Instr) : Except DecodeReject Instr :=
  if zero then .ok i else .error .mustBeZero

/-- R36: the scope code 0 to 4. -/
def decodeScope (s : BitVec 3) : Option Scope :=
  match s.toNat with
  | 0 => some .plot
  | 1 => some .bed
  | 2 => some .field
  | 3 => some .device
  | 4 => some .system
  | _ => none

def encodeScope : Scope → BitVec 3
  | .plot => 0
  | .bed => 1
  | .field => 2
  | .device => 3
  | .system => 4

/-- R36: the size code of AMO and CAS. -/
def decodeAmoSize (z : BitVec 2) : Option AmoSize :=
  match z.toNat with
  | 2 => some .word
  | 3 => some .dword
  | _ => none

def encodeAmoSize : AmoSize → BitVec 2
  | .word => 2
  | .dword => 3

/-- R35: the size code of LD and ST. -/
def decodeMemSize (z : BitVec 2) : MemSize :=
  match z.toNat with
  | 0 => .byte
  | 1 => .half
  | 2 => .word
  | _ => .dword

def encodeMemSize : MemSize → BitVec 2
  | .byte => 0
  | .half => 1
  | .word => 2
  | .dword => 3

/-- R33: the ALU group. -/
def decodeAlu (func : BitVec 11) (d a b : Reg) : Except DecodeReject Instr :=
  match func.toNat with
  | 0 => .ok (.add d a b)
  | 1 => .ok (.sub d a b)
  | 2 => .ok (.and d a b)
  | 3 => .ok (.or d a b)
  | 4 => .ok (.xor d a b)
  | 5 => .ok (.andn d a b)
  | 6 => .ok (.shl d a b)
  | 7 => .ok (.shr d a b)
  | 8 => .ok (.sar d a b)
  | 9 => .ok (.slt d a b)
  | 10 => .ok (.sltu d a b)
  | 11 => .ok (.min d a b)
  | 12 => .ok (.max d a b)
  | 13 => .ok (.minu d a b)
  | 14 => .ok (.maxu d a b)
  | 16 => .ok (.mul d a b)
  | 17 => .ok (.mulh d a b)
  | 18 => .ok (.mulhu d a b)
  | 19 => .ok (.mulhsu d a b)
  | 20 => .ok (.div d a b)
  | 21 => .ok (.divu d a b)
  | 22 => .ok (.rem d a b)
  | 23 => .ok (.remu d a b)
  | 32 => needZero (b == 0) (.clz d a)
  | 33 => needZero (b == 0) (.ctz d a)
  | 34 => needZero (b == 0) (.popc d a)
  | 35 => needZero (b == 0) (.bswap d a)
  | 36 => needZero (b == 0) (.sextb d a)
  | 37 => needZero (b == 0) (.sexth d a)
  | 38 => needZero (b == 0) (.sextw d a)
  | 39 => needZero (b == 0) (.zextb d a)
  | 40 => needZero (b == 0) (.zexth d a)
  | 41 => needZero (b == 0) (.zextw d a)
  | _ => .error .unassignedFunc

/-- R36: the AMO group. -/
def decodeAmo (op : BitVec 6) (sc : Scope) (sz : AmoSize) (d a b : Reg) : Except DecodeReject Instr :=
  match op.toNat with
  | 0 => .ok (.amoAdd sc sz d a b)
  | 1 => .ok (.amoAnd sc sz d a b)
  | 2 => .ok (.amoOr sc sz d a b)
  | 3 => .ok (.amoXor sc sz d a b)
  | 4 => .ok (.amoMin sc sz d a b)
  | 5 => .ok (.amoMax sc sz d a b)
  | 6 => .ok (.amoMinu sc sz d a b)
  | 7 => .ok (.amoMaxu sc sz d a b)
  | 8 => .ok (.amoSwap sc sz d a b)
  | 9 => .ok (.amoIncw sc sz d a b)
  | 10 => .ok (.amoBfadd sc sz d a b)
  | 11 => if sz = .word then .ok (.amoFmin sc d a b) else .error .rejectedCombination
  | 12 => if sz = .word then .ok (.amoFmax sc d a b) else .error .rejectedCombination
  | 13 => if sz = .word then .ok (.amoFadd sc d a b) else .error .rejectedCombination
  | _ => .error .unassignedFunc

/-- R37: a CSR word that writes: the registers whose writes have effects of their own are constructors of their own. -/
def decodeCsrWrite (k : CsrOp) (d a : Reg) (n : BitVec 12) : Instr :=
  match isSpecialCsr n, n.toNat with
  | false, _ =>
    match k with
    | .write => .csrw d a n
    | .set => .csrs d a n
    | .clear => .csrc d a n
  | true, 0x001 => .tstatWrite k d a
  | true, 0x111 =>
    match k with
    | .write => .soleWrite d a
    | .set => .rotctlArm d a
    | .clear => .armWithdraw d a
  | true, 0x118 => .tlbiWrite k d a
  | true, 0x121 => .placeRegisterWrite k .tcfg d a
  | true, 0x123 => .placeRegisterWrite k .tlocal d a
  | true, 0x124 => .placeRegisterWrite k .tedge d a
  | true, 0x125 => .twaysWrite k d a
  | true, 0x127 => .placeRegisterWrite k .tassign d a
  | true, 0x129 => .trunWrite k d a
  | true, m => if m / 16 = 5 then .barcfgWrite k (n.extractLsb' 0 4) d a else .occWrite k (n.extractLsb' 0 4) d a

/-- R37: the CSR group. -/
def decodeCsr (w : Word32) : Except DecodeReject Instr :=
  let n := w.extractLsb' 0 12
  if w.extractLsb' 12 2 ≠ 0 then .error .mustBeZero
  else
    match (fieldSize w).toNat with
    | 0 => needZero (fieldA w == 0) (.csrr (fieldD w) n)
    | 1 => .ok (decodeCsrWrite .write (fieldD w) (fieldA w) n)
    | 2 => .ok (decodeCsrWrite .set (fieldD w) (fieldA w) n)
    | _ => .ok (decodeCsrWrite .clear (fieldD w) (fieldA w) n)

/-- R38: a FENCE word: func[4:3] is the kind, func[2:0] the scope. -/
def decodeFence (func : BitVec 11) : Except DecodeReject Instr :=
  match decodeScope (func.extractLsb' 0 3), (func.extractLsb' 3 2).toNat with
  | some sc, 1 => .ok (.fenceAcq sc)
  | some sc, 2 => .ok (.fenceRel sc)
  | some sc, 3 => .ok (.fenceFull sc)
  | _, _ => .error .unassignedFunc

/-- R38: the SYNC group. -/
def decodeSync (func : BitVec 11) (d a b : Reg) : Except DecodeReject Instr :=
  match func.toNat with
  | 0x020 => .ok (.wait d a b)
  | 0x021 => .ok (.waite d a b)
  | 0x030 => needZero (b == 0) (.bar d a)
  | 0x031 => needZero (b == 0) (.barw d a)
  | 0x032 => needZero (b == 0) (.barq d a)
  | 0x040 => needZero (a == 0 && b == 0) (.hold d)
  | 0x041 => needZero (d == 0 && a == 0 && b == 0) .unhold
  | n =>
    if n < 0x20 then
      if d == 0 && a == 0 && b == 0 then decodeFence func else .error .mustBeZero
    else .error .unassignedFunc

/-- R38: the THREAD group. -/
def decodeThread (func : BitVec 11) (d a b : Reg) : Except DecodeReject Instr :=
  match func.toNat with
  | 0 => .ok (.spawn d a b)
  | 1 => needZero (d == 0 && a == 0 && b == 0) .exit
  | 2 => needZero (d == 0 && a == 0 && b == 0) .yield
  | 3 => needZero (d == 0 && b == 0) (.pause a)
  | _ => .error .unassignedFunc

/-- R39: `i` if qual is 0 and the registers shown as 0 are 0. -/
def needQual0 (q : BitVec 5) (zero : Bool) (i : Instr) : Except DecodeReject Instr :=
  if q = 0 then needZero zero i else .error .unassignedFunc

/-- R39: the FABRIC group. -/
def decodeFabric (kind : BitVec 6) (q : BitVec 5) (d a b : Reg) : Except DecodeReject Instr :=
  match kind.toNat with
  | 0 => needQual0 q true (.inj d a b)
  | 1 => needQual0 q (a == 0 && b == 0) (.recv d)
  | 2 => needQual0 q (b == 0) (.ctxa d a)
  | 3 => needQual0 q (d == 0 && b == 0) (.ctxf a)
  | 4 => needQual0 q true (.sow d a b)
  | 5 => needQual0 q (b == 0) (.swap d a)
  | 6 =>
    match q.toNat with
    | 0 => needZero (b == 0) (.fallow .bed d a)
    | 1 => needZero (b == 0) (.fallow .field d a)
    | 2 => needZero (b == 0) (.fallow .part d a)
    | _ => .error .unassignedFunc
  | 7 => needQual0 q (b == 0) (.haltr d a)
  | 8 => needQual0 q (b == 0) (.resumer d a)
  | 9 => needQual0 q true (.ecfgw d a b)
  | 10 => needQual0 q (b == 0) (.ecfgr d a)
  | _ => .error .unassignedFunc

/-- R39: the BOARD group. -/
def decodeBoard (kind : BitVec 6) (q : BitVec 5) (d a b : Reg) : Except DecodeReject Instr :=
  match kind.toNat with
  | 0 => needQual0 q true (.boardRead d a b)
  | 1 => needQual0 q true (.boardFilter d a b)
  | 2 => needQual0 q true (.boardSum d a b)
  | 3 => needQual0 q true (.boardFeed d a b)
  | 4 => needQual0 q true (.boardUpdate d a b)
  | 5 => needQual0 q true (.boardAtom d a b)
  | 6 => needQual0 q true (.boardFill d a b)
  | 7 => needQual0 q true (.boardDrain d a b)
  | 8 => needQual0 q true (.boardDigest d a b)
  | 9 => needQual0 q (b == 0) (.boardCancel d a)
  | _ => .error .unassignedFunc

/-- R39: the qual code of a cache level. -/
def decodeCacheLevel (q : BitVec 5) : Option CacheLevel :=
  match q.toNat with
  | 0 => some .l1
  | 1 => some .edge
  | 2 => some .all
  | _ => none

def encodeCacheLevel : CacheLevel → BitVec 5
  | .l1 => 0
  | .edge => 1
  | .all => 2

/-- R39: the CACHE group. -/
def decodeCache (kind : BitVec 6) (q : BitVec 5) (d a b : Reg) : Except DecodeReject Instr :=
  match decodeCacheLevel q, kind.toNat with
  | some l, 0 => needZero (d == 0) (.clean l a b)
  | some l, 1 => needZero (d == 0) (.inval l a b)
  | some l, 2 => needZero (d == 0) (.clinv l a b)
  | _, _ => .error .unassignedFunc

/-- R39: the GEN group. -/
def decodeGen (kind : BitVec 6) (q : BitVec 5) (d a b : Reg) : Except DecodeReject Instr :=
  match kind.toNat with
  | 0 => needQual0 q (b == 0) (.gstart d a)
  | 1 => needQual0 q (b == 0) (.gstop d a)
  | 2 => needQual0 q (b == 0) (.gstat d a)
  | _ => .error .unassignedFunc

/-- R39: the COLL group. -/
def decodeColl (kind : BitVec 6) (q : BitVec 5) (d a b : Reg) : Except DecodeReject Instr :=
  match kind.toNat, q.toNat with
  | 0, 0 => .ok (.allredOrd d a b)
  | 0, 1 => .ok (.allredExact d a b)
  | 1, 0 => .ok (.bcast d a b)
  | 2, 0 => .ok (.allgath d a b)
  | 3, 0 => .ok (.redscatOrd d a b)
  | 3, 1 => .ok (.redscatExact d a b)
  | 4, 0 => .ok (.digset d a b)
  | 5, 0 => .ok (.digcmp d a b)
  | _, _ => .error .unassignedFunc

/-- R39: the TWIN group. -/
def decodeTwin (kind : BitVec 6) (q : BitVec 5) (d a b : Reg) : Except DecodeReject Instr :=
  match kind.toNat with
  | 0 => needQual0 q (b == 0) (.tcommit d a)
  | 1 => needQual0 q (b == 0) (.tabort d a)
  | 2 => needZero (a == 0 && b == 0) (.normrd (q.extractLsb' 4 1 == 1) (q.extractLsb' 0 4) d)
  | 3 =>
    if q.extractLsb' 4 1 == 0 then needZero (d == 0 && a == 0 && b == 0) (.normclr (q.extractLsb' 0 4))
    else .error .unassignedFunc
  | _ => .error .unassignedFunc

/-- R40: the SYS group. -/
def decodeSys (func : BitVec 10) (imm : BitVec 16) : Except DecodeReject Instr :=
  match func.toNat with
  | 0 => .ok (.trap imm)
  | 1 => .ok (.svc imm)
  | 2 => needZero (imm == 0) .eret
  | 3 => needZero (imm == 0) .halt
  | 4 => needZero (imm == 0) .brk
  | 5 => needZero (imm == 0) .donate
  | _ => .error .unassignedFunc

/-- R34: a shift by an immediate: imm16[15:6] must be 0. -/
def decodeShift (w : Word32) (mk : Reg → Reg → BitVec 6 → Instr) : Except DecodeReject Instr :=
  needZero (w.extractLsb' 6 10 == 0) (mk (fieldD w) (fieldA w) (w.extractLsb' 0 6))

/-- R32: the decoder of a headland word. -/
def decodeWord (w : Word32) : Except DecodeReject Instr :=
  match (major w).toNat with
  | 0x00 => decodeAlu (fieldFunc w) (fieldD w) (fieldA w) (fieldB w)
  | 0x01 => .ok (.addi (fieldD w) (fieldA w) (fieldImm w))
  | 0x02 => .ok (.andi (fieldD w) (fieldA w) (fieldImm w))
  | 0x03 => .ok (.ori (fieldD w) (fieldA w) (fieldImm w))
  | 0x04 => .ok (.xori (fieldD w) (fieldA w) (fieldImm w))
  | 0x05 => .ok (.slti (fieldD w) (fieldA w) (fieldImm w))
  | 0x06 => .ok (.sltiu (fieldD w) (fieldA w) (fieldImm w))
  | 0x07 => decodeShift w .shli
  | 0x08 => decodeShift w .shri
  | 0x09 => decodeShift w .sari
  | 0x0A => needZero (fieldA w == 0) (.lui (fieldD w) (fieldImm w))
  | 0x0B => needZero (fieldA w == 0) (.lus (fieldD w) (fieldImm w))
  | 0x0C => needZero (fieldA w == 0) (.addpc (fieldD w) (fieldImm w))
  | 0x10 =>
    if decodeMemSize (fieldSize w) = .dword ∧ fieldSx w = 1 then .error .rejectedCombination
    else .ok (.ld (decodeMemSize (fieldSize w)) (fieldSx w == 1) (fieldD w) (fieldA w) (fieldOff13 w))
  | 0x11 =>
    if fieldSx w = 1 then .error .rejectedCombination
    else .ok (.st (decodeMemSize (fieldSize w)) (fieldD w) (fieldA w) (fieldOff13 w))
  | 0x12 =>
    match decodeScope (w.extractLsb' 8 3), decodeAmoSize (w.extractLsb' 6 2) with
    | some sc, some sz => decodeAmo (w.extractLsb' 0 6) sc sz (fieldD w) (fieldA w) (fieldB w)
    | _, _ => .error .unassignedFunc
  | 0x13 =>
    match decodeScope (w.extractLsb' 8 3), decodeAmoSize (w.extractLsb' 6 2) with
    | some sc, some sz => needZero (w.extractLsb' 0 6 == 0) (.cas sc sz (fieldD w) (fieldA w) (fieldB w))
    | _, _ => .error .unassignedFunc
  | 0x14 => .ok (.beq (fieldD w) (fieldA w) (fieldImm w))
  | 0x15 => .ok (.bne (fieldD w) (fieldA w) (fieldImm w))
  | 0x16 => .ok (.blt (fieldD w) (fieldA w) (fieldImm w))
  | 0x17 => .ok (.bge (fieldD w) (fieldA w) (fieldImm w))
  | 0x18 => .ok (.bltu (fieldD w) (fieldA w) (fieldImm w))
  | 0x19 => .ok (.bgeu (fieldD w) (fieldA w) (fieldImm w))
  | 0x1A => .ok (.jal (fieldD w) (fieldOff21 w))
  | 0x1B => .ok (.jalr (fieldD w) (fieldA w) (fieldImm w))
  | 0x20 => decodeCsr w
  | 0x21 => decodeSync (fieldFunc w) (fieldD w) (fieldA w) (fieldB w)
  | 0x22 => decodeThread (fieldFunc w) (fieldD w) (fieldA w) (fieldB w)
  | 0x23 => decodeFabric (fieldKind w) (fieldQual w) (fieldD w) (fieldA w) (fieldB w)
  | 0x24 => decodeBoard (fieldKind w) (fieldQual w) (fieldD w) (fieldA w) (fieldB w)
  | 0x25 => decodeCache (fieldKind w) (fieldQual w) (fieldD w) (fieldA w) (fieldB w)
  | 0x26 => decodeGen (fieldKind w) (fieldQual w) (fieldD w) (fieldA w) (fieldB w)
  | 0x27 => decodeColl (fieldKind w) (fieldQual w) (fieldD w) (fieldA w) (fieldB w)
  | 0x28 => decodeTwin (fieldKind w) (fieldQual w) (fieldD w) (fieldA w) (fieldB w)
  | 0x3F => decodeSys (fieldSys w) (fieldImm w)
  | _ => .error .unassignedMajor

/-! ### Slot words (R43 to R49) -/

/-- R43: the fields of a slot word and its side word. -/
def slotFieldsOf (slot side : Word32) : SlotFields :=
  { action := slot.extractLsb' 20 4, srcA := slot.extractLsb' 16 4, srcB := slot.extractLsb' 12 4,
    dst0 := slot.extractLsb' 6 6, dst1 := slot.extractLsb' 0 6,
    qual := side.extractLsb' 24 8, extra := side.extractLsb' 16 8, ext := side.extractLsb' 0 16 }

/-- R49: the slot opcode map. -/
def slotOfOpcode (opcode : Nat) (f : SlotFields) : Option Instr :=
  match opcode with
  | 0x01 => some (.copy f)
  | 0x02 => some (.steer f)
  | 0x03 => some (.merge f)
  | 0x04 => some (.gate f)
  | 0x05 => some (.sink f)
  | 0x06 => some (.const f)
  | 0x07 => some (.iter f)
  | 0x08 => some (.count f)
  | 0x09 => some (.comb f)
  | 0x0A => some (.reap f)
  | 0x0B => some (.tagix f)
  | 0x0C => some (.loop f)
  | 0x0D => some (.eos f)
  | 0x0E => some (.mail f)
  | 0x0F => some (.ord f)
  | 0x10 => some (.slotAdd f)
  | 0x11 => some (.slotSub f)
  | 0x12 => some (.slotMul f)
  | 0x13 => some (.slotMulh f)
  | 0x14 => some (.mad f)
  | 0x15 => some (.slotAnd f)
  | 0x16 => some (.slotOr f)
  | 0x17 => some (.slotXor f)
  | 0x18 => some (.slotAndn f)
  | 0x19 => some (.slotShl f)
  | 0x1A => some (.slotShr f)
  | 0x1B => some (.slotSar f)
  | 0x1C => some (.slotMin f)
  | 0x1D => some (.slotMax f)
  | 0x1E => some (.abs f)
  | 0x1F => some (.neg f)
  | 0x20 => some (.cmp f)
  | 0x21 => some (.sel f)
  | 0x22 => some (.slotClz f)
  | 0x23 => some (.slotPopc f)
  | 0x24 => some (.adds f)
  | 0x25 => some (.subs f)
  | 0x26 => some (.avg f)
  | 0x27 => some (.dot4 f)
  | 0x28 => some (.bext f)
  | 0x29 => some (.bins f)
  | 0x2A => some (.rotl f)
  | 0x2B => some (.satn f)
  | 0x30 => some (.fadd f)
  | 0x31 => some (.fsub f)
  | 0x32 => some (.fmul f)
  | 0x33 => some (.ffma f)
  | 0x34 => some (.fmin f)
  | 0x35 => some (.fmax f)
  | 0x36 => some (.fabs f)
  | 0x37 => some (.fneg f)
  | 0x38 => some (.fcmp f)
  | 0x39 => some (.fclass f)
  | 0x3A => some (.frcp f)
  | 0x3B => some (.frsq f)
  | 0x3C => some (.fsqrt f)
  | 0x3D => some (.fexp2 f)
  | 0x3E => some (.flog2 f)
  | 0x3F => some (.ftanh f)
  | 0x40 => some (.cvt f)
  | 0x41 => some (.packq f)
  | 0x42 => some (.unpackq f)
  | 0x43 => some (.plane f)
  | 0x44 => some (.had f)
  | 0x45 => some (.setfpc f)
  | 0x46 => some (.getfpf f)
  | 0x47 => some (.clrfpf f)
  | 0x50 => some (.perm f)
  | 0x51 => some (.bfly f)
  | 0x52 => some (.rot f)
  | 0x53 => some (.slotBcast f)
  | 0x54 => some (.join f)
  | 0x55 => some (.split f)
  | 0x56 => some (.rsum f)
  | 0x57 => some (.rmax f)
  | 0x58 => some (.rmin f)
  | 0x59 => some (.laneix f)
  | 0x5A => some (.frsum f)
  | 0x60 => some (.madd f)
  | 0x61 => some (.msub f)
  | 0x62 => some (.mmul f)
  | 0x63 => some (.mmac f)
  | 0x64 => some (.mct f)
  | 0x65 => some (.mgs f)
  | 0x66 => some (.mred f)
  | 0x67 => some (.mneg f)
  | 0x70 => some (.mma f)
  | 0x71 => some (.mmas f)
  | 0x72 => some (.accrd f)
  | 0x73 => some (.accclr f)
  | 0x74 => some (.cturn f)
  | 0x80 => some (.lds f)
  | 0x81 => some (.sts f)
  | 0x82 => some (.ldsv f)
  | 0x83 => some (.stsv f)
  | 0x84 => some (.atoms f)
  | 0x85 => some (.bufw f)
  | 0x86 => some (.bufr f)
  | 0x90 => some (.etas f)
  | 0x91 => some (.etld f)
  | 0x92 => some (.etst f)
  | 0x93 => some (.boards f)
  | _ => none

/-- R50: the decoder of a slot word and its side word. The empty slot, all zero, is no instruction: it never fires (R49). -/
def decodeSlot (slot side : Word32) : Except SlotReject Instr :=
  let f := slotFieldsOf slot side
  match slotOfOpcode (slot.extractLsb' 24 8).toNat f with
  | none => .error .opcode
  | some i =>
    if f.srcA = 7 ∨ f.srcB = 7 then .error .source
    else if ¬ (dstLegal f.dst0 && dstLegal f.dst1) then .error .destination
    else if 10 ≤ f.action.toNat then .error .action
    else .ok i

/-! ### The encoder -/

/-- R30: the format HR. -/
def wordHR (op : BitVec 6) (d a b : Reg) (func : BitVec 11) : Word32 := op ++ d ++ a ++ b ++ func
/-- R30: the formats HI and HB. -/
def wordHI (op : BitVec 6) (d a : Reg) (imm : BitVec 16) : Word32 := op ++ d ++ a ++ imm
/-- R30: the format HJ. -/
def wordHJ (op : BitVec 6) (d : Reg) (off : BitVec 21) : Word32 := op ++ d ++ off
/-- R30: the format HM. -/
def wordHM (op : BitVec 6) (d a : Reg) (z : BitVec 2) (x : BitVec 1) (off : BitVec 13) : Word32 := op ++ d ++ a ++ z ++ x ++ off
/-- R30: the format HC. -/
def wordHC (op : BitVec 6) (d a b : Reg) (kind : BitVec 6) (q : BitVec 5) : Word32 := op ++ d ++ a ++ b ++ kind ++ q
/-- R30: the format HS. -/
def wordHS (func : BitVec 10) (imm : BitVec 16) : Word32 := 0x3F#6 ++ func ++ imm
/-- R36: an AMO or CAS word. -/
def wordAmo (op : BitVec 6) (d a b : Reg) (sc : Scope) (z : BitVec 2) (f : BitVec 6) : Word32 :=
  op ++ d ++ a ++ b ++ encodeScope sc ++ z ++ f
/-- R37: a CSR word. -/
def wordCsr (kind : BitVec 2) (d a : Reg) (n : BitVec 12) : Word32 := 0x20#6 ++ d ++ a ++ kind ++ 0#2 ++ n
/-- R34: a shift by an immediate. -/
def wordShift (op : BitVec 6) (d a : Reg) (amt : BitVec 6) : Word32 := op ++ d ++ a ++ 0#10 ++ amt
/-- R38: a FENCE word. -/
def wordFence (kind : BitVec 2) (sc : Scope) : Word32 := 0x21#6 ++ 0#15 ++ 0#6 ++ kind ++ encodeScope sc

/-- R37: the kind code of a CSR write. -/
def encodeCsrOp : CsrOp → BitVec 2
  | .write => 1
  | .set => 2
  | .clear => 3

/-- R323: the index of a per-place register. -/
def PlaceReg.index : PlaceReg → BitVec 12
  | .tcfg => 0x121
  | .tlocal => 0x123
  | .tedge => 0x124
  | .tassign => 0x127

def bit1 (b : Bool) : BitVec 1 := if b then 1 else 0

/-- The word of a headland instruction (R30 to R41); `none` for slot operations and steps of other agents. -/
def encode : Instr → Option Word32
  | .add d a b => some (wordHR 0 d a b 0x000)
  | .sub d a b => some (wordHR 0 d a b 0x001)
  | .and d a b => some (wordHR 0 d a b 0x002)
  | .or d a b => some (wordHR 0 d a b 0x003)
  | .xor d a b => some (wordHR 0 d a b 0x004)
  | .andn d a b => some (wordHR 0 d a b 0x005)
  | .shl d a b => some (wordHR 0 d a b 0x006)
  | .shr d a b => some (wordHR 0 d a b 0x007)
  | .sar d a b => some (wordHR 0 d a b 0x008)
  | .slt d a b => some (wordHR 0 d a b 0x009)
  | .sltu d a b => some (wordHR 0 d a b 0x00A)
  | .min d a b => some (wordHR 0 d a b 0x00B)
  | .max d a b => some (wordHR 0 d a b 0x00C)
  | .minu d a b => some (wordHR 0 d a b 0x00D)
  | .maxu d a b => some (wordHR 0 d a b 0x00E)
  | .mul d a b => some (wordHR 0 d a b 0x010)
  | .mulh d a b => some (wordHR 0 d a b 0x011)
  | .mulhu d a b => some (wordHR 0 d a b 0x012)
  | .mulhsu d a b => some (wordHR 0 d a b 0x013)
  | .div d a b => some (wordHR 0 d a b 0x014)
  | .divu d a b => some (wordHR 0 d a b 0x015)
  | .rem d a b => some (wordHR 0 d a b 0x016)
  | .remu d a b => some (wordHR 0 d a b 0x017)
  | .clz d a => some (wordHR 0 d a 0 0x020)
  | .ctz d a => some (wordHR 0 d a 0 0x021)
  | .popc d a => some (wordHR 0 d a 0 0x022)
  | .bswap d a => some (wordHR 0 d a 0 0x023)
  | .sextb d a => some (wordHR 0 d a 0 0x024)
  | .sexth d a => some (wordHR 0 d a 0 0x025)
  | .sextw d a => some (wordHR 0 d a 0 0x026)
  | .zextb d a => some (wordHR 0 d a 0 0x027)
  | .zexth d a => some (wordHR 0 d a 0 0x028)
  | .zextw d a => some (wordHR 0 d a 0 0x029)
  | .addi d a imm => some (wordHI 0x01 d a imm)
  | .andi d a imm => some (wordHI 0x02 d a imm)
  | .ori d a imm => some (wordHI 0x03 d a imm)
  | .xori d a imm => some (wordHI 0x04 d a imm)
  | .slti d a imm => some (wordHI 0x05 d a imm)
  | .sltiu d a imm => some (wordHI 0x06 d a imm)
  | .shli d a amt => some (wordShift 0x07 d a amt)
  | .shri d a amt => some (wordShift 0x08 d a amt)
  | .sari d a amt => some (wordShift 0x09 d a amt)
  | .lui d imm => some (wordHI 0x0A d 0 imm)
  | .lus d imm => some (wordHI 0x0B d 0 imm)
  | .addpc d imm => some (wordHI 0x0C d 0 imm)
  | .ld sz sx d a off => some (wordHM 0x10 d a (encodeMemSize sz) (bit1 sx) off)
  | .st sz d a off => some (wordHM 0x11 d a (encodeMemSize sz) 0 off)
  | .amoAdd sc sz d a b => some (wordAmo 0x12 d a b sc (encodeAmoSize sz) 0)
  | .amoAnd sc sz d a b => some (wordAmo 0x12 d a b sc (encodeAmoSize sz) 1)
  | .amoOr sc sz d a b => some (wordAmo 0x12 d a b sc (encodeAmoSize sz) 2)
  | .amoXor sc sz d a b => some (wordAmo 0x12 d a b sc (encodeAmoSize sz) 3)
  | .amoMin sc sz d a b => some (wordAmo 0x12 d a b sc (encodeAmoSize sz) 4)
  | .amoMax sc sz d a b => some (wordAmo 0x12 d a b sc (encodeAmoSize sz) 5)
  | .amoMinu sc sz d a b => some (wordAmo 0x12 d a b sc (encodeAmoSize sz) 6)
  | .amoMaxu sc sz d a b => some (wordAmo 0x12 d a b sc (encodeAmoSize sz) 7)
  | .amoSwap sc sz d a b => some (wordAmo 0x12 d a b sc (encodeAmoSize sz) 8)
  | .amoIncw sc sz d a b => some (wordAmo 0x12 d a b sc (encodeAmoSize sz) 9)
  | .amoBfadd sc sz d a b => some (wordAmo 0x12 d a b sc (encodeAmoSize sz) 10)
  | .amoFmin sc d a b => some (wordAmo 0x12 d a b sc 2 11)
  | .amoFmax sc d a b => some (wordAmo 0x12 d a b sc 2 12)
  | .amoFadd sc d a b => some (wordAmo 0x12 d a b sc 2 13)
  | .cas sc sz d a b => some (wordAmo 0x13 d a b sc (encodeAmoSize sz) 0)
  | .beq a b off => some (wordHI 0x14 a b off)
  | .bne a b off => some (wordHI 0x15 a b off)
  | .blt a b off => some (wordHI 0x16 a b off)
  | .bge a b off => some (wordHI 0x17 a b off)
  | .bltu a b off => some (wordHI 0x18 a b off)
  | .bgeu a b off => some (wordHI 0x19 a b off)
  | .jal d off => some (wordHJ 0x1A d off)
  | .jalr d a imm => some (wordHI 0x1B d a imm)
  | .csrr d n => some (wordCsr 0 d 0 n)
  | .csrw d a n => some (wordCsr 1 d a n)
  | .csrs d a n => some (wordCsr 2 d a n)
  | .csrc d a n => some (wordCsr 3 d a n)
  | .tstatWrite k d a => some (wordCsr (encodeCsrOp k) d a 0x001)
  | .tlbiWrite k d a => some (wordCsr (encodeCsrOp k) d a 0x118)
  | .trunWrite k d a => some (wordCsr (encodeCsrOp k) d a 0x129)
  | .rotctlArm d a => some (wordCsr 2 d a 0x111)
  | .armWithdraw d a => some (wordCsr 3 d a 0x111)
  | .soleWrite d a => some (wordCsr 1 d a 0x111)
  | .barcfgWrite k n d a => some (wordCsr (encodeCsrOp k) d a (0x05#8 ++ n))
  | .occWrite k n d a => some (wordCsr (encodeCsrOp k) d a (0x07#8 ++ n))
  | .placeRegisterWrite k r d a => some (wordCsr (encodeCsrOp k) d a r.index)
  | .twaysWrite k d a => some (wordCsr (encodeCsrOp k) d a 0x125)
  | .fenceAcq sc => some (wordFence 1 sc)
  | .fenceRel sc => some (wordFence 2 sc)
  | .fenceFull sc => some (wordFence 3 sc)
  | .wait d a b => some (wordHR 0x21 d a b 0x020)
  | .waite d a b => some (wordHR 0x21 d a b 0x021)
  | .bar d a => some (wordHR 0x21 d a 0 0x030)
  | .barw d a => some (wordHR 0x21 d a 0 0x031)
  | .barq d a => some (wordHR 0x21 d a 0 0x032)
  | .hold d => some (wordHR 0x21 d 0 0 0x040)
  | .unhold => some (wordHR 0x21 0 0 0 0x041)
  | .spawn d a b => some (wordHR 0x22 d a b 0x000)
  | .exit => some (wordHR 0x22 0 0 0 0x001)
  | .yield => some (wordHR 0x22 0 0 0 0x002)
  | .pause a => some (wordHR 0x22 0 a 0 0x003)
  | .inj d a b => some (wordHC 0x23 d a b 0 0)
  | .recv d => some (wordHC 0x23 d 0 0 1 0)
  | .ctxa d a => some (wordHC 0x23 d a 0 2 0)
  | .ctxf a => some (wordHC 0x23 0 a 0 3 0)
  | .sow d a b => some (wordHC 0x23 d a b 4 0)
  | .swap d a => some (wordHC 0x23 d a 0 5 0)
  | .fallow lvl d a => some (wordHC 0x23 d a 0 6 (match lvl with | .bed => 0 | .field => 1 | .part => 2))
  | .haltr d a => some (wordHC 0x23 d a 0 7 0)
  | .resumer d a => some (wordHC 0x23 d a 0 8 0)
  | .ecfgw d a b => some (wordHC 0x23 d a b 9 0)
  | .ecfgr d a => some (wordHC 0x23 d a 0 10 0)
  | .boardRead d a b => some (wordHC 0x24 d a b 0 0)
  | .boardFilter d a b => some (wordHC 0x24 d a b 1 0)
  | .boardSum d a b => some (wordHC 0x24 d a b 2 0)
  | .boardFeed d a b => some (wordHC 0x24 d a b 3 0)
  | .boardUpdate d a b => some (wordHC 0x24 d a b 4 0)
  | .boardAtom d a b => some (wordHC 0x24 d a b 5 0)
  | .boardFill d a b => some (wordHC 0x24 d a b 6 0)
  | .boardDrain d a b => some (wordHC 0x24 d a b 7 0)
  | .boardDigest d a b => some (wordHC 0x24 d a b 8 0)
  | .boardCancel d a => some (wordHC 0x24 d a 0 9 0)
  | .clean lvl a b => some (wordHC 0x25 0 a b 0 (encodeCacheLevel lvl))
  | .inval lvl a b => some (wordHC 0x25 0 a b 1 (encodeCacheLevel lvl))
  | .clinv lvl a b => some (wordHC 0x25 0 a b 2 (encodeCacheLevel lvl))
  | .gstart d a => some (wordHC 0x26 d a 0 0 0)
  | .gstop d a => some (wordHC 0x26 d a 0 1 0)
  | .gstat d a => some (wordHC 0x26 d a 0 2 0)
  | .allredOrd d a b => some (wordHC 0x27 d a b 0 0)
  | .allredExact d a b => some (wordHC 0x27 d a b 0 1)
  | .bcast d a b => some (wordHC 0x27 d a b 1 0)
  | .allgath d a b => some (wordHC 0x27 d a b 2 0)
  | .redscatOrd d a b => some (wordHC 0x27 d a b 3 0)
  | .redscatExact d a b => some (wordHC 0x27 d a b 3 1)
  | .digset d a b => some (wordHC 0x27 d a b 4 0)
  | .digcmp d a b => some (wordHC 0x27 d a b 5 0)
  | .tcommit d a => some (wordHC 0x28 d a 0 0 0)
  | .tabort d a => some (wordHC 0x28 d a 0 1 0)
  | .normrd high n d => some (wordHC 0x28 d 0 0 2 (bit1 high ++ n))
  | .normclr n => some (wordHC 0x28 0 0 0 3 (0#1 ++ n))
  | .trap imm => some (wordHS 0 imm)
  | .svc imm => some (wordHS 1 imm)
  | .eret => some (wordHS 2 0)
  | .halt => some (wordHS 3 0)
  | .brk => some (wordHS 4 0)
  | .donate => some (wordHS 5 0)
  | .copy _ => none
  | .steer _ => none
  | .merge _ => none
  | .gate _ => none
  | .sink _ => none
  | .const _ => none
  | .iter _ => none
  | .count _ => none
  | .comb _ => none
  | .reap _ => none
  | .tagix _ => none
  | .loop _ => none
  | .eos _ => none
  | .mail _ => none
  | .ord _ => none
  | .slotAdd _ => none
  | .slotSub _ => none
  | .slotMul _ => none
  | .slotMulh _ => none
  | .mad _ => none
  | .slotAnd _ => none
  | .slotOr _ => none
  | .slotXor _ => none
  | .slotAndn _ => none
  | .slotShl _ => none
  | .slotShr _ => none
  | .slotSar _ => none
  | .slotMin _ => none
  | .slotMax _ => none
  | .abs _ => none
  | .neg _ => none
  | .cmp _ => none
  | .sel _ => none
  | .slotClz _ => none
  | .slotPopc _ => none
  | .adds _ => none
  | .subs _ => none
  | .avg _ => none
  | .dot4 _ => none
  | .bext _ => none
  | .bins _ => none
  | .rotl _ => none
  | .satn _ => none
  | .fadd _ => none
  | .fsub _ => none
  | .fmul _ => none
  | .ffma _ => none
  | .fmin _ => none
  | .fmax _ => none
  | .fabs _ => none
  | .fneg _ => none
  | .fcmp _ => none
  | .fclass _ => none
  | .frcp _ => none
  | .frsq _ => none
  | .fsqrt _ => none
  | .fexp2 _ => none
  | .flog2 _ => none
  | .ftanh _ => none
  | .cvt _ => none
  | .packq _ => none
  | .unpackq _ => none
  | .plane _ => none
  | .had _ => none
  | .setfpc _ => none
  | .getfpf _ => none
  | .clrfpf _ => none
  | .perm _ => none
  | .bfly _ => none
  | .rot _ => none
  | .slotBcast _ => none
  | .join _ => none
  | .split _ => none
  | .rsum _ => none
  | .rmax _ => none
  | .rmin _ => none
  | .laneix _ => none
  | .frsum _ => none
  | .madd _ => none
  | .msub _ => none
  | .mmul _ => none
  | .mmac _ => none
  | .mct _ => none
  | .mgs _ => none
  | .mred _ => none
  | .mneg _ => none
  | .mma _ => none
  | .mmas _ => none
  | .accrd _ => none
  | .accclr _ => none
  | .cturn _ => none
  | .lds _ => none
  | .sts _ => none
  | .ldsv _ => none
  | .stsv _ => none
  | .atoms _ => none
  | .bufw _ => none
  | .bufr _ => none
  | .etas _ => none
  | .etld _ => none
  | .etst _ => none
  | .boards _ => none
  | .tokenArrival => none
  | .reload => none
  | .reapToken => none
  | .reapFilterRetire => none
  | .fallowReport => none
  | .matchExhausted => none
  | .mailboxAccept => none
  | .injectionRelease => none
  | .iterEmit => none
  | .accrdRow => none
  | .cturnEmit => none
  | .ordArcSend => none
  | .swapActivate => none
  | .swapTimeout => none
  | .stepBoundary => none
  | .guard => none
  | .rowCommit => none
  | .tlbInvalidationDone => none
  | .loadReturn => none
  | .dividerDone => none
  | .storeBufferDrain => none
  | .waitWake => none
  | .waitTimeout => none
  | .pauseExpiry => none
  | .holdExpiry => none
  | .asyncTrapEntry => none
  | .generatorBlock => none
  | .collectiveComplete => none
  | .linkDown => none
  | .passMarker => none
  | .sweepStateAnnounce => none
  | .thermalSlowdown => none
  | .thermalSpeedup => none
  | .layerPark => none
  | .layerUnpark => none
  | .layerPowerOff => none
  | .powerRequest => none
  | .plotWake => none
  | .coreWatchdog => none
  | .edgeLineError => none
  | .startRecord => none
  | .readNotices => none
  | .breakClaim => none
  | .breakRelease => none
  | .breakResume => none
  | .partitionReset => none
  | .deviceReset => none
  | .takeResetLock => none
  | .dropResetLock => none
  | .loadFirmware => none
  | .powerOn => none
  | .powerOff => none
  | .checkpoint => none
  | .checkpointRelease => none
  | .boot => none
  | .startTimeout => none
  | .unassignedHeadlandWord => none
  | .fetchFault => none
  | .ucPageReread => none
  | .runtimeThreadRestart => none
  | .poisonMarkClear => none
  | .groupTableWrite => none
  | .frameMaskWrite => none
  | .linkUp => none
  | .hostMemoryAccess => none

/-- The opcode byte of a slot operation (R49). -/
def slotOpcode : Instr → Option (BitVec 8 × SlotFields)
  | .copy f => some (0x01, f)
  | .steer f => some (0x02, f)
  | .merge f => some (0x03, f)
  | .gate f => some (0x04, f)
  | .sink f => some (0x05, f)
  | .const f => some (0x06, f)
  | .iter f => some (0x07, f)
  | .count f => some (0x08, f)
  | .comb f => some (0x09, f)
  | .reap f => some (0x0A, f)
  | .tagix f => some (0x0B, f)
  | .loop f => some (0x0C, f)
  | .eos f => some (0x0D, f)
  | .mail f => some (0x0E, f)
  | .ord f => some (0x0F, f)
  | .slotAdd f => some (0x10, f)
  | .slotSub f => some (0x11, f)
  | .slotMul f => some (0x12, f)
  | .slotMulh f => some (0x13, f)
  | .mad f => some (0x14, f)
  | .slotAnd f => some (0x15, f)
  | .slotOr f => some (0x16, f)
  | .slotXor f => some (0x17, f)
  | .slotAndn f => some (0x18, f)
  | .slotShl f => some (0x19, f)
  | .slotShr f => some (0x1A, f)
  | .slotSar f => some (0x1B, f)
  | .slotMin f => some (0x1C, f)
  | .slotMax f => some (0x1D, f)
  | .abs f => some (0x1E, f)
  | .neg f => some (0x1F, f)
  | .cmp f => some (0x20, f)
  | .sel f => some (0x21, f)
  | .slotClz f => some (0x22, f)
  | .slotPopc f => some (0x23, f)
  | .adds f => some (0x24, f)
  | .subs f => some (0x25, f)
  | .avg f => some (0x26, f)
  | .dot4 f => some (0x27, f)
  | .bext f => some (0x28, f)
  | .bins f => some (0x29, f)
  | .rotl f => some (0x2A, f)
  | .satn f => some (0x2B, f)
  | .fadd f => some (0x30, f)
  | .fsub f => some (0x31, f)
  | .fmul f => some (0x32, f)
  | .ffma f => some (0x33, f)
  | .fmin f => some (0x34, f)
  | .fmax f => some (0x35, f)
  | .fabs f => some (0x36, f)
  | .fneg f => some (0x37, f)
  | .fcmp f => some (0x38, f)
  | .fclass f => some (0x39, f)
  | .frcp f => some (0x3A, f)
  | .frsq f => some (0x3B, f)
  | .fsqrt f => some (0x3C, f)
  | .fexp2 f => some (0x3D, f)
  | .flog2 f => some (0x3E, f)
  | .ftanh f => some (0x3F, f)
  | .cvt f => some (0x40, f)
  | .packq f => some (0x41, f)
  | .unpackq f => some (0x42, f)
  | .plane f => some (0x43, f)
  | .had f => some (0x44, f)
  | .setfpc f => some (0x45, f)
  | .getfpf f => some (0x46, f)
  | .clrfpf f => some (0x47, f)
  | .perm f => some (0x50, f)
  | .bfly f => some (0x51, f)
  | .rot f => some (0x52, f)
  | .slotBcast f => some (0x53, f)
  | .join f => some (0x54, f)
  | .split f => some (0x55, f)
  | .rsum f => some (0x56, f)
  | .rmax f => some (0x57, f)
  | .rmin f => some (0x58, f)
  | .laneix f => some (0x59, f)
  | .frsum f => some (0x5A, f)
  | .madd f => some (0x60, f)
  | .msub f => some (0x61, f)
  | .mmul f => some (0x62, f)
  | .mmac f => some (0x63, f)
  | .mct f => some (0x64, f)
  | .mgs f => some (0x65, f)
  | .mred f => some (0x66, f)
  | .mneg f => some (0x67, f)
  | .mma f => some (0x70, f)
  | .mmas f => some (0x71, f)
  | .accrd f => some (0x72, f)
  | .accclr f => some (0x73, f)
  | .cturn f => some (0x74, f)
  | .lds f => some (0x80, f)
  | .sts f => some (0x81, f)
  | .ldsv f => some (0x82, f)
  | .stsv f => some (0x83, f)
  | .atoms f => some (0x84, f)
  | .bufw f => some (0x85, f)
  | .bufr f => some (0x86, f)
  | .etas f => some (0x90, f)
  | .etld f => some (0x91, f)
  | .etst f => some (0x92, f)
  | .boards f => some (0x93, f)
  | _ => none

/-- The slot word and side word of a slot operation (R43). -/
def encodeSlot (i : Instr) : Option (Word32 × Word32) :=
  (slotOpcode i).map fun p =>
    (p.1 ++ p.2.action ++ p.2.srcA ++ p.2.srcB ++ p.2.dst0 ++ p.2.dst1, p.2.qual ++ p.2.extra ++ p.2.ext)

/-- The instruction whose bits are `w`, numbered from the least significant bit of its first word: a headland word of 32 bits, or a slot word
with its side word above it. -/
def decodeTableWord (nbits w : Nat) : Option Instr :=
  if nbits ≤ 32 then (decodeWord (BitVec.ofNat 32 w)).toOption
  else if nbits ≤ 64 then (decodeSlot (BitVec.ofNat 32 w) (BitVec.ofNat 32 (w / 2 ^ 32))).toOption
  else none

end Sys2Proof
end

