-- ==== Sys2Proof/Machine/Space.lean ====
section
/-! DEFINITION. Where each memory of the device stands in the one table of bytes (log entry 8): hub physical addresses as they are,
every other memory at a base above them. -/

namespace Sys2Proof.Machine

/-- R16, R321, R77, R185, R285: how many dies, cores, threads, elements, tiles and so on the device has. -/
def numCores : Nat := 32
def numThreads : Nat := 128
def numElems : Nat := 4096
def numTiles : Nat := 256
def numGens : Nat := 2048
def numParts : Nat := 32

/-- R376, R377: bytes of hub memory, which the physical addresses begin with; above it lies the window to the host's memory, below 2^52. -/
def hubMemory : Nat := 2 ^ 37
def hostEnd : Nat := 2 ^ 52

/-- R21: a core's local memory, 512 KiB. -/
def localBytes : Nat := 0x80000
def localBase (core : Nat) : Nat := 2 ^ 52 + core * 2 ^ 19

/-- R77: an element's scratchpad, 512 KiB. -/
def scratchBytes : Nat := 0x80000
def scratchBase (elem : Nat) : Nat := 2 ^ 53 + elem * 2 ^ 19

/-- R202: a tile's stream store, 3968 KiB. -/
def streamBytes : Nat := 3968 * 1024
def streamBase (tile : Nat) : Nat := 2 ^ 54 + tile * 2 ^ 22

/-- R185: a plot's memory, 64 MiB. -/
def plotBase (plot : Nat) : Nat := 2 ^ 55 + plot * 2 ^ 26

/-- R289: the seed area above a plot, 256 KiB. -/
def seedBytes : Nat := 0x40000
def seedBase (plot : Nat) : Nat := 2 ^ 56 + plot * 2 ^ 18

/-- R16: a thread is numbered 4 x core + thread, a core 8 x die + strip. -/
def coreOf (thread : Nat) : Nat := thread / 4
def dieOfCore (core : Nat) : Nat := core / 8
def stripOfCore (core : Nat) : Nat := core % 8

/-- An element is numbered 1024 x die + 32 x y + x. -/
def elemKey (die x y : Nat) : Nat := die * 1024 + y * 32 + x
def elemDie (e : Nat) : Nat := e / 1024
def elemX (e : Nat) : Nat := e % 32
def elemY (e : Nat) : Nat := e / 32 % 32

/-- R321: the core of the strip that holds an element. -/
def coreOfElem (e : Nat) : Nat := elemDie e * 8 + elemX e / 4

/-- R285: an edge tile is numbered 64 x die + 2 x column + (0 north, 1 south); generator g of it 8 x tile + g. -/
def tileKey (die x south : Nat) : Nat := die * 64 + x * 2 + south
def tileDie (t : Nat) : Nat := t / 64
def tileX (t : Nat) : Nat := t / 2 % 32
def coreOfTile (t : Nat) : Nat := tileDie t * 8 + tileX t / 4

end Sys2Proof.Machine
end

