-- ==== Sys2Proof/Machine/Table.lean ====
section
/-! DEFINITION. Tables keyed by numbers, in one canonical order, and memory as a table of bytes: reading and writing one byte and
little-endian words (R59). -/

namespace Sys2Proof.Machine

/-- A table: pairs of a key and a value. A key that is not listed reads as the default that the reader names. -/
abbrev Table (α : Type) := List (Nat × α)

namespace Table

variable {α : Type}

/-- The value at key `k`, `none` where the table lists none. -/
def find? : Table α → Nat → Option α
  | [], _ => none
  | (j, v) :: m, k => if j = k then some v else find? m k

/-- The value at key `k`, `d` where the table lists none. -/
def getD (m : Table α) (k : Nat) (d : α) : α := (find? m k).getD d

/-- The table without key `k`. -/
def erase : Table α → Nat → Table α
  | [], _ => []
  | (j, v) :: m, k => if j = k then erase m k else (j, v) :: erase m k

/-- Puts a pair before the first larger key. -/
def insertAt : Table α → Nat → α → Table α
  | [], k, v => [(k, v)]
  | (j, w) :: m, k, v => if k < j then (k, v) :: (j, w) :: m else (j, w) :: insertAt m k v

/-- The table with the value `v` at key `k`. -/
def put (m : Table α) (k : Nat) (v : α) : Table α := insertAt (erase m k) k v

/-- The table with the value `v` at key `k`, where a key that is not listed reads as `d`: no entry is kept that equals `d`. -/
def putD [DecidableEq α] (m : Table α) (k : Nat) (v d : α) : Table α :=
  if v = d then erase m k else put m k v

/-- Keys strictly rise. -/
def sorted : Table α → Bool
  | [] => true
  | [_] => true
  | (j, _) :: (k, v) :: m => decide (j < k) && sorted ((k, v) :: m)

end Table

/-- What a byte of memory that nothing has written reads as (log entry 3, DESIGN CHOICE). -/
def unwrittenByte : Byte := 0

namespace Memory

/-- The byte at address `a`. -/
def get (m : List Host.Cell) (a : Nat) : Byte := Table.getD m a unwrittenByte

/-- Memory with byte `v` at address `a`. -/
def set (m : List Host.Cell) (a : Nat) (v : Byte) : List Host.Cell := Table.putD m a v unwrittenByte

/-- The canonical form: addresses strictly rising, no entry equal to what an unlisted address reads as. -/
def wf (m : List Host.Cell) : Bool := Table.sorted m && m.all (fun c => c.2 != unwrittenByte)

/-- R59: the `n` bytes at `a` as a number, the byte at the lowest address least significant. -/
def read (m : List Host.Cell) (a : Nat) : Nat → Nat
  | 0 => 0
  | n + 1 => (get m a).toNat + 256 * read m (a + 1) n

/-- R59: stores the low `n` bytes of `v` at `a`, least significant byte first. -/
def write (m : List Host.Cell) (a : Nat) : Nat → Nat → List Host.Cell
  | 0, _ => m
  | n + 1, v => write (set m a (BitVec.ofNat 8 v)) (a + 1) n (v / 256)

/-- The `n` bytes at `a`, lowest address first. -/
def bytes (m : List Host.Cell) (a : Nat) : Nat → List Byte
  | 0 => []
  | n + 1 => get m a :: bytes m (a + 1) n

/-- Stores a list of bytes at `a`. -/
def writeBytes (m : List Host.Cell) (a : Nat) : List Byte → List Host.Cell
  | [] => m
  | b :: bs => writeBytes (set m a b) (a + 1) bs

end Memory

end Sys2Proof.Machine
end

