-- ==== Sys2Proof/Machine/Types.lean ====
section
/-! DEFINITION. The parts of the machine's state that belong to the headland: threads, cores, tenants' places and partitions. -/

namespace Sys2Proof.Machine

/-- The two masters of the management controller (R379): the host over CXL and the side-band port. -/
inductive Master where
  | host | sideBand
  deriving DecidableEq, Repr

/-- What a break claim is placed on (R356, R379): a tenant's place of a partition, or a core. -/
inductive ClaimTarget where
  | tenant (part place : Nat)
  | core (core : Nat)
  deriving DecidableEq, Repr

/-- The power state of a plot (R292). -/
inductive PowerState where
  | active | selfRefresh | powerDown
  deriving DecidableEq, Repr

/-- R17: the states of a thread. -/
inductive RunState where
  | free | ready | waiting | resting | stopped
  deriving DecidableEq, Repr

/-- R354: what a WAITING thread waits for. -/
inductive WaitCode where
  | none | wait | waite | recv | barw | admission | pause | swap | twin | sow | haltr | resumer | fence | injFull | collLimit
  deriving DecidableEq, Repr

/-- R354: a thread's wait: its kind, the words it needs, the cycle at which a PAUSE or a WAITTMO ends, and the number of the
barrier, request or plane it waits for. -/
structure WaitSt where
  code : WaitCode := .none
  addr : Word := 0
  value : Word := 0
  deadline : Option Nat := Option.none
  gd : Reg := 0
  id : Nat := 0
  word : Word32 := 0
  /-- The word that a sleeping WAIT or WAITE read last (`none`: it reads again next), and when it read it. -/
  last : Option Word := Option.none
  readAt : Nat := 0
  /-- R227: where the word that it watches stands, and whether its page is uncached. -/
  pa : Nat := 0
  uncached : Bool := false
  deriving DecidableEq, Repr

/-- R24: a fault record, FREC0 to FREC7. -/
structure FaultRec where
  f0 : Word := 0
  f1 : Word := 0
  f2 : Word := 0
  f3 : Word := 0
  f4 : Word := 0
  f5 : Word := 0
  f6 : Word := 0
  f7 : Word := 0
  deriving DecidableEq, Repr

/-- R342: a pending asynchronous trap: its code, its record and whether its value is FREC0 (R26: fabric and engine faults) or 0. -/
structure PendTrap where
  code : Nat
  frec : FaultRec
  fabric : Bool
  deriving DecidableEq, Repr

/-- R60: a load from translated memory on its way: the register it writes, its value and the cycle at which it returns. -/
structure LoadSt where
  gd : Reg
  value : Word
  readyAt : Nat
  deriving DecidableEq, Repr

/-- R16 to R27, R323, R324: a headland thread. -/
structure ThreadSt where
  /-- g1 to g31; an unlisted register holds 0. -/
  gpr : Table Word := []
  pc : Word := 0
  run : RunState := .free
  wait : WaitSt := {}
  /-- R354, R355: of a RESTING thread, the state with which it was saved. -/
  savedRun : RunState := .free
  /-- R354, R71: of a RESTING thread, the cycle in which its record was written. -/
  savedAt : Nat := 0
  /-- R73, R326: where a STOPPED thread resumes. -/
  resume : Word := 0
  tenant : Nat := 0
  ae : Bool := false
  pmode : Bool := false
  exl : Bool := false
  mode : Bool := false
  tvec : BitVec 62 := 0
  epc : Word := 0
  ecause : Word := 0
  eval : Word := 0
  escratch : Word := 0
  frec : FaultRec := {}
  waittmo : Word := 0
  /-- R230, R333: the cycle at which the open hold was granted. -/
  hold : Option Nat := none
  broken : Bool := false
  sepc : Word := 0
  scause : Word := 0
  seval : Word := 0
  sscratch : Word := 0
  sfrec : FaultRec := {}
  spmode : Bool := false
  sexl : Bool := false
  tsel : BitVec 4 := 0
  /-- R342: pending asynchronous traps, oldest first, and whether one was dropped since the last delivery. -/
  pend : List PendTrap := []
  lost : Bool := false
  /-- R342, R355: of a thread whose record is saved: asynchronous traps that have arisen since. -/
  late : List PendTrap := []
  loads : List LoadSt := []
  /-- R215: the sequence number of the thread's next request. -/
  seq : Nat := 0
  /-- R65: the branch predictor's counters and the return stack. -/
  predictor : Table (BitVec 2) := []
  returns : List Word := []
  /-- R70: the cycle up to which a YIELD keeps the thread from issuing before others. -/
  yieldUntil : Nat := 0
  /-- R53, R65, R68: the first cycle in which the thread may issue after a trap, a return, a misprediction or its SPAWN. -/
  notBefore : Nat := 0
  /-- R17, R53: registers whose multiply or local load has issued and whose result is not ready before the cycle named. -/
  busy : List (Reg × Nat) := []
  /-- R215: the register that a request's boarding will write. -/
  boardGd : Option (Reg × Nat) := none
  /-- R329, R354: while the thread rests: the value with which its waiting instruction has completed, and the rider id that boarded. -/
  grant : Option Word := none
  boardVal : Option Word := none
  /-- R356: stopped by BRK under a break claim of the side-band. -/
  brkStop : Bool := false
  deriving DecidableEq, Repr

/-- R243: a buffered store: whose it is, the access context, the physical address, the width in bytes and the bytes. -/
structure StoreSt where
  thread : Nat
  addr : Nat
  size : Nat
  value : Nat
  tenant : Nat
  uncached : Bool
  since : Nat
  deriving DecidableEq, Repr

/-- R205: a line of a level-1 cache: the line's address, its tenant, its bytes as one number and which bytes are dirty. -/
structure LineSt where
  line : Nat
  tenant : Nat
  data : Nat
  dirty : Nat
  deriving DecidableEq, Repr

/-- R204: a way of a set of an edge-cache slice: its way number, the line's address, the tenant that filled it, its bytes as one number
and which bytes are dirty. -/
structure WaySt where
  way : Nat
  line : Nat
  tenant : Nat
  data : Nat
  dirty : Nat
  deriving DecidableEq, Repr

/-- R208, R321: an entry of a TLB: the partition whose translation it is (log entry 27), the ASID, the virtual and physical page numbers, the level of its leaf and its permission bits; how many
riders pin it and whether an invalidation covered it while pinned (R209, R210). -/
structure TlbEntry where
  part : Nat
  asid : Nat
  vpn : Nat
  level : Nat
  ppn : Nat
  perms : Nat
  pins : Nat := 0
  stale : Bool := false
  deriving DecidableEq, Repr

/-- R53: the divider of a core. -/
structure DivSt where
  thread : Nat
  gd : Reg
  value : Word
  readyAt : Nat
  deriving DecidableEq, Repr

/-- R343, R344: a notice as it was written to a core's ring; the hub runtime and the side-band port read the same records. -/
structure NoticeSt where
  core : Nat
  word0 : Word
  word1 : Word
  detail0 : Word
  detail1 : Word
  deriving DecidableEq, Repr

/-- R378: a start record as the supervisor's thread 0 receives it: the tenant's place, the core's strip within the partition and the thread to start,
the entry address, argument, stack top and completion word, and the words with the bits that are to be 0. -/
structure StartRec where
  place : Nat
  strip : Nat
  thread : Nat
  entry : Word
  arg : Word
  stack : Word
  done : Word
  words : List Word
  deriving DecidableEq, Repr

/-- R16, R18, R366: a headland core. -/
structure CoreSt where
  issuePtr : Nat := 0
  stvec : BitVec 62 := 0
  stores : List StoreSt := []
  l1d : List LineSt := []
  l1i : List LineSt := []
  tlb : List TlbEntry := []
  divider : Option DivSt := none
  inReset : Bool := false
  /-- R215: the requests of the strip's BOARDS slots that have joined a queue. -/
  boardsSeq : Nat := 0
  /-- R366: the heartbeat watch: whether it is armed, the value last sampled and how many samples found it unchanged. -/
  beatArmed : Bool := false
  beatLast : Word := 0
  beatSame : Nat := 0
  beatAt : Nat := 0
  /-- R379: the master that holds a break claim on the core. -/
  claim : Option Master := none
  /-- R378: the start records that the hub runtime has passed to thread 0. -/
  starts : List StartRec := []
  /-- R228: the number, from 1, of the cycle in which the core last issued before its turn, with a write of a barrier. -/
  ahead : Nat := 0
  deriving DecidableEq, Repr

/-- R83 to R86: a token. -/
structure Token where
  tag : Tag
  kind : Nat
  valid : Nat
  width : Nat
  payload : Payload
  deriving DecidableEq, Repr

/-- R164: a token of INJ on its way into a plane: its route word and the token. -/
structure InjEntry where
  route : Word
  token : Token
  thread : Nat
  deriving DecidableEq, Repr

/-- R324, R325: what a core keeps for a tenant place. -/
structure CorePlaceSt where
  tthr : BitVec 4 := 0
  tlocal : Word := 0
  /-- R325: the place holds the window that `tlocal` names. -/
  held : Bool := false
  /-- R335: lookups that hit and that missed, per slice, and what a supervisor's write added to the computed counts. -/
  hits : Table Nat := []
  misses : Table Nat := []
  linesAdd : Table Nat := []
  outsideAdd : Table Nat := []
  mailbox : List Token := []
  injq : List InjEntry := []
  /-- R164: when the injection queue last released a token. -/
  injLast : Option Nat := none
  /-- R163: the plane word of the tenant's home plane on this core. -/
  home : Option Word := none
  /-- R22: ASID and PTBASE, of which each core has a copy for each tenant. -/
  asid : Word := 0
  ptbase : Word := 0
  deriving DecidableEq, Repr

/-- R388, R390: a harvest slot. -/
structure HarvestSt where
  step : Nat := 0
  digest : Nat := 0
  norm : Nat := 0
  sat : Bool := false
  deriving DecidableEq, Repr

/-- R322 to R325: a tenant place of a partition. -/
structure PlaceSt where
  tcfg : Word := 0
  tedge : Word := 0
  tways : Word := 0
  tquota : Word := 0
  tassign : Word := 0
  divmark : Bool := false
  harvest : Table HarvestSt := []
  /-- R379: the master that holds a break claim on the tenant. -/
  claim : Option Master := none
  /-- R236: TEDGE as the elements keep it: loaded at the tenant's last slot edge. -/
  edgeHeld : Word := 0
  /-- R331: the tenant has been saved at a guard, so that its records stand in its save areas. -/
  saved : Bool := false
  deriving DecidableEq, Repr

/-- R228, R229: a barrier. -/
structure BarrierSt where
  strips : BitVec 32 := 0
  threads : BitVec 4 := 0
  count : Nat := 0
  arrived : Nat := 0
  broken : Bool := false
  dead : Nat := 0
  phase : Nat := 0
  /-- The threads that have arrived in this phase. -/
  members : List Nat := []
  deriving DecidableEq, Repr

/-- R88, R89: an entry of the colour table. -/
inductive ColourSt where
  | free
  | context (tenant width : Nat) (released : Bool)
  | frame (tenant width : Nat) (caller : Tag) (returned : Bool)
  deriving DecidableEq, Repr

/-- R333: a donation: the entry, and the pass and cursor of its edge. -/
structure DonationSt where
  entry : Nat
  pass : Nat
  cursor : Nat
  inForce : Bool
  deriving DecidableEq, Repr

/-- R120, R280: a norm register: the exact sum of squares and its saturation mark. -/
structure NormSt where
  value : Nat := 0
  sat : Bool := false
  deriving DecidableEq, Repr

/-- R209: an invalidation in progress. -/
structure TlbiSt where
  op : Nat
  asid : Nat
  vpn : Nat
  deriving DecidableEq, Repr

/-- R321 to R329: a partition. -/
structure PartSt where
  dies : BitVec 4 := 0
  strips : BitVec 8 := 0
  armst : BitVec 3 := 0
  sole : BitVec 8 := 0
  soleNow : BitVec 8 := 0
  gang : Bool := false
  on : Bool := false
  arm : Bool := false
  shadow : Table Word := []
  /-- R328: the table that was accepted and waits for its wrap; R337: one accepted too late for the coming wrap, which waits for the wrap after it. -/
  armed : Table Word := []
  armedNext : Option (Table Word) := none
  /-- R328, R337: a value of SOLE written too late for the coming wrap. -/
  soleNext : Option (BitVec 8) := none
  active : Table Word := []
  donation : Option DonationSt := none
  /-- R330: a guard has begun and its edge has not come. -/
  inGuard : Bool := false
  /-- R353: the pass whose wrap a waiting table lets go by, since a hold was open when its guard would have begun. -/
  armSkip : Option Nat := none
  sptbase : Word := 0
  sasid : Word := 0
  sways : Word := 0xFFFF
  tlbi : Option TlbiSt := none
  colours : Table ColourSt := []
  norms : Table NormSt := []
  digests : Table Nat := []
  barriers : Table BarrierSt := []
  /-- R102: the quiescence tree has reported the partition fallow. -/
  reported : Bool := false
  /-- R279: the TCOMMITs and TABORTs that have boarded: the tenant, the precedence key and the card, newest first. -/
  twinOps : List (Nat × List Nat × List Word) := []
  deriving DecidableEq, Repr

/-- R174, R200: the scratchpad window and the spill area of a place in an element, in bytes. -/
structure WindowSt where
  scrbase : Nat := 0
  scrlim : Nat := 0
  spillbase : Nat := 0
  spilllim : Nat := 0
  deriving DecidableEq, Repr

/-- R191: the phases of a rider: waiting in its tenant's admission queue, admitted, or aboard. -/
inductive RiderPhase where
  | waiting | admitted | aboard
  deriving DecidableEq, Repr

/-- R210: a pinned page of a rider's or generator's hub range: its partition and ASID, the virtual address and level of the page, its physical address,
its permission bits, and whether an invalidation has covered it. -/
structure PinSt where
  part : Nat
  asid : Nat
  va : Nat
  level : Nat
  pa : Nat
  perms : Nat
  stale : Bool := false
  deriving DecidableEq, Repr

/-- R197, R309, R384: where a completion value goes: a byte address of local memory, a scratchpad or hub memory, or a route. -/
inductive DoneAt where
  | direct (addr : Nat)
  | translated (addr : Nat) (uncached : Bool)
  | route (word : Word)
  deriving DecidableEq, Repr

/-- R191 to R221, R307: a rider, from the moment its request joins the admission queue; a TCOMMIT or TABORT is of kind 10 or 11. -/
structure RiderSt where
  kind : Nat
  part : Nat
  tenant : Nat
  place : Nat
  /-- R192: the core and source of the boarding key; the order of joining is the rider's number in the table. -/
  core : Nat
  source : Nat
  /-- The issuing thread with the register it writes, or the issuing slot with its result tag and width (R221). -/
  thread : Nat := 0
  gd : Reg := 0
  elem : Nat := 0
  slot : Nat := 0
  tag : Tag := 0
  width : Nat := 0
  id : Word
  /-- R212, R220: where the card stands, the address that named it, and its eight words. -/
  cardAt : Nat
  cardVa : Nat
  card : List Word
  value : Word
  done : DoneAt
  phase : RiderPhase := .waiting
  admittedAt : Nat := 0
  /-- R191: the boarding step, counted in steps since reset, and the boarding rank. -/
  s0 : Nat := 0
  b : Nat := 0
  /-- R196: aboard for a second pass. -/
  second : Bool := false
  /-- R210: the pages of its hub range, and whether they are pinned. -/
  pins : List PinSt := []
  pinned : Bool := false
  /-- R213, R296: status bits [31:0]. -/
  status : Nat := 0
  /-- R217, R218: survivor counts and accumulators, by plot. -/
  counts : Table Nat := []
  accs : Table (List Nat) := []
  /-- R196: rank visits refused on the first pass, with the first token refused; of these, those not delivered yet; those refused again; and those with tokens never delivered. -/
  refused : List (Nat × Nat × Nat) := []
  again : List (Nat × Nat) := []
  twice : List (Nat × Nat) := []
  dropped : List (Nat × Nat) := []
  /-- R292, R363: visits held by a parked layer or a sleeping plot: plot and rank. -/
  held : List (Nat × Nat) := []
  /-- R220: a CANCEL takes effect at the next boundary. -/
  cancelled : Bool := false
  /-- R281, R283: the partials of norm (and NaN or infinity) and digest; R282: the clip factor. -/
  normPart : Nat := 0
  normInf : Bool := false
  digPart : Nat := 0
  clip : Nat := 0
  /-- R390: the DIGCMPs that a TCOMMIT waits for. -/
  waitDig : List Nat := []
  /-- R195: the cycle in which the request joined its queue. -/
  joinedAt : Nat := 0
  deriving DecidableEq, Repr

end Sys2Proof.Machine
end

