-- ==== Sys2Proof/Machine/FabricTypes.lean ====
section
/-! DEFINITION. The parts of the machine's state that belong to the fabric: planes, tokens in elements, the network, fields. -/

namespace Sys2Proof.Machine

/-- R77, R80: the swapped state of an element: one copy of a plane. -/
structure PlaneSt where
  /-- Slots s0 to s15: the slot word in [31:0], the side word in [63:32]. -/
  slots : Table Word := []
  lits : Table Word := []
  routes : Table Word := []
  bed : Nat := 0
  fpc : Nat := 0
  /-- R80: modulus-file entries that the plane carries. -/
  mods : Table Nat := []
  deriving DecidableEq, Repr

/-- R90, R350: a token in a matching store, with its arrival stamp; RETRY marks an operand that RESUMER restored (R340, R347). -/
structure StoreTok where
  slot : Nat
  pos : Nat
  token : Token
  stamp : Nat
  faulted : Bool := false
  retry : Bool := false
  deriving DecidableEq, Repr

/-- R100, R130: an entry of COMB: how many tokens it has taken, the largest VALID among them (the lanes below it hold a contribution), the
payload so far, whether every token was EOS, and the stamp of the last token. -/
structure CombSt where
  slot : Nat
  tag : Tag
  width : Nat
  taken : Nat
  valid : Nat
  payload : Nat
  allEos : Bool
  stamp : Nat
  deriving DecidableEq, Repr

/-- R132: an entry of LOOP: the instance's key, the oldest unfinished iteration and the next one to let in. -/
structure LoopSt where
  slot : Nat
  key : Tag
  i : Nat
  x : Nat
  deriving DecidableEq, Repr

/-- R95: a reap filter: the loop instance's key, its level, the first field it destroys and how many. -/
structure ReapSt where
  key : Tag
  first : Nat
  count : Nat
  level : Nat
  deriving DecidableEq, Repr

/-- R91: a token in an output queue: its destination code (R46), when its result is ready, the slot that sent it, and when that issued. -/
structure OutTok where
  dst : Nat
  token : Token
  readyAt : Nat
  slot : Nat := 0
  /-- R85: the cycle in which it issued. -/
  issued : Nat := 0
  deriving DecidableEq, Repr

/-- R149: an accumulator: its cells that are not +0, by 32 x row + column, and its pass state; R156: when its last firing has applied. -/
structure AccSt where
  cells : Table Nat := []
  next : Nat := 0
  sampled : Bool := false
  fpc : Nat := 0
  appliedAt : Nat := 0
  deriving DecidableEq, Repr

/-- R128: an ITER that has issued: which slot, the firing tag, the next k, n and the token it sends. -/
structure IterSt where
  slot : Nat
  tag : Tag
  k : Nat
  n : Nat
  token : Token
  at_ : Nat
  deriving DecidableEq, Repr

/-- R154: an ACCRD that has issued: the firing tag, the next row, the FPC in force, the literal with the tensor scales, its format and
accumulator, and when its next row may be sent. -/
structure AccrdSt where
  slot : Nat
  tag : Tag
  row : Nat
  fpc : Nat
  scale : Option Nat
  fmt : Nat
  acc : Nat
  clear : Bool
  at_ : Nat
  deriving DecidableEq, Repr

/-- R157, R158: a corner-turn buffer: the slot, the tile's key and number, which rows are in, whether it emits, from which token on and
since when, the tile's width, an EOS to send after it, and the bytes that STS or STSV wrote while it was live. -/
structure CturnSt where
  slot : Nat
  key : Tag
  tile : Nat
  rows : Nat
  emitting : Bool
  next : Nat
  width : Nat
  at_ : Nat
  eos : Option Token
  spoiled : List Nat := []
  deriving DecidableEq, Repr

/-- R221, R237: the one outstanding request of a BOARDS or ORD slot: its result tag, the width of the result, the value once it has
arrived, when its result may be sent and when it issued. -/
structure PendSt where
  tag : Tag
  width : Nat
  isOrd : Bool
  value : Option Word
  at_ : Nat
  issued : Nat
  deriving DecidableEq, Repr

/-- Where a token on the network is bound. -/
inductive Bound where
  | elem (e slot pos : Nat)
  | scale (e slot pos : Nat)
  | tile (t port : Nat)
  | share (e : Nat)
  deriving DecidableEq, Repr

/-- R85: a token on the network or on its way to a local destination: the element it left (or 2^16 + core of an injection, 2^17 +
generator, 2^18 + plot of a FEED), where it is bound, when it arrives, and whether it made the element evict a token (R97). -/
structure FlightSt where
  src : Nat
  bound : Bound
  token : Token
  at_ : Nat
  isLocal : Bool := false
  evicted : Bool := false
  /-- R196: of a FEED token: the rider, the plot, the rank and the token's number in the rank. -/
  feed : Option (Nat × Nat × Nat × Nat) := none
  /-- R226, R243: of a token of INJ: the thread that injected it. -/
  thread : Option Nat := none
  /-- R85: the cycle in which it issued. -/
  issued : Nat := 0
  deriving DecidableEq, Repr

/-- R97: a record of the spill area: its number, and when it was written (of a saved or halted element, how long before); RETRY marks an operand
that RESUMER restored (R346, R347). -/
structure SpillSt where
  record : Nat
  since : Nat
  retry : Bool := false
  deriving DecidableEq, Repr

/-- R77: an element. -/
structure ElemSt where
  active : PlaneSt := {}
  shadow : PlaneSt := {}
  /-- The plane words under which the two copies were activated and sown, and the tenant of the active plane. -/
  activeOf : Option Word := none
  shadowOf : Option Word := none
  owner : Nat := 0
  /-- R330, R332: the tenant that sowed the shadow copy, and the tenant that has sown, swapped or configured the element since it was last empty. -/
  shadowBy : Nat := 0
  usedBy : Option Nat := none
  /-- R111: FPF; R112, R142: the flags of firings that have not completed, each with the cycle in which its firing does, and the cycle in which the last
  floating-point firing completes. -/
  fpf : Nat := 0
  fpfDue : List (Nat × Nat) := []
  fpDone : Nat := 0
  modq : Table Nat := []
  /-- The matching store: tokens by arrival. -/
  store : List StoreTok := []
  combs : List CombSt := []
  loops : List LoopSt := []
  reaps : List ReapSt := []
  outq : List OutTok := []
  scaleq : List OutTok := []
  accs : Table AccSt := []
  iter : Option IterSt := none
  accrd : Option AccrdSt := none
  cturn : Table CturnSt := []
  /-- R201: the tag that holds the buffer of a BUFW slot. -/
  bufs : Table Tag := []
  pend : Table PendSt := []
  spills : List SpillSt := []
  /-- R97: the spill records that tokens of their keys have asked for, in that order: they reload next. -/
  reloadNext : List Nat := []
  /-- R78: the cycles from which on the ports are free, and the first cycle of the next MMA or MMAS (R156). -/
  vcFree : Nat := 0
  mxFree : Nat := 0
  spFree : Nat := 0
  mmaFree : Nat := 0
  /-- R237, R238: the cycle by which every slot memory operation issued so far is performed. -/
  memDone : Nat := 0
  /-- R102: the cycle by which every firing issued so far has completed. -/
  doneAt : Nat := 0
  /-- R103: mail tokens that have left the output queue and are on their way to the mailbox; `readyAt` is when they left. -/
  mailq : List OutTok := []
  /-- R330: of a saved element, the tokens captured in the network that are bound for it, and those that it sent to a tile or the share unit. -/
  captured : List FlightSt := []
  /-- R219: EOS tokens of FEED riders that have left for a saved element. -/
  owed : List FlightSt := []
  deriving DecidableEq, Repr

/-- R101, R345, R172: a field: its plane word and tenant, the core and thread of its SWAP, whether HALTR holds it, the fault that halts
it and whether its trap or notice has been delivered, when it last issued and since when a spill area of it is full (R98), and what the quiescence tree has reported (R102, R171). -/
structure FieldSt where
  word : Word := 0
  tenant : Nat := 0
  homeCore : Nat := 0
  homeThread : Nat := 0
  halted : Bool := false
  fault : Option (Nat × FaultRec) := none
  faultAt : Nat := 0
  posted : Bool := false
  lastIssue : Nat := 0
  fullSince : Option Nat := none
  reported : Bool := false
  bedsReported : List Nat := []
  deriving DecidableEq, Repr

end Sys2Proof.Machine
end

