-- ==== Sys2Proof/Machine/EngineTypes.lean ====
section
/-! DEFINITION. The parts of the machine's state that belong to the engines, the links and the hub: twin rows, plots and layers, generators,
collectives, links and the management controller. -/

namespace Sys2Proof.Machine

/-- R277, R279: the twin state of a layer pair of a rank of a plot: selector, pending bit, and the precedence key of the TCOMMIT that
flipped the selector last (`[]`: none). -/
structure TwinSt where
  sel : Bool := false
  pend : Bool := false
  flip : List Nat := []
  deriving DecidableEq, Repr

/-- R292: a plot's power: its state, and a deferred request with the step in which it was made. -/
structure PlotSt where
  power : PowerState := .active
  deferred : Option (PowerState × Nat) := none
  deriving DecidableEq, Repr

/-- R362 to R364: the states of a physical layer of a die. -/
inductive LayerMode where
  | swept | parked | off
  deriving DecidableEq, Repr

/-- R362: a physical layer of a die: its state, a deferred park or an unpark that waits, its temperature in 0.25 degree units, for how long it has
been parked in nanoseconds, and the pass since which a parked layer has read below 85 degrees. -/
structure LayerSt where
  mode : LayerMode := .swept
  parkNext : Bool := false
  unparkNext : Bool := false
  temp : Nat := 0
  parkedNs : Nat := 0
  coolFrom : Option Nat := none
  deriving DecidableEq, Repr

/-- R285 to R288, R309 to R311: a generator: its card, whose it is, STATE of R311, its loop indices, the blocks moved, whether an EOS is to
be sent, when it last moved a block, where its completion value goes, and the state with which its completion is still to be written. -/
structure GenSt where
  card : List Word := []
  tenant : Nat := 0
  place : Nat := 0
  core : Nat := 0
  state : Nat := 0
  i0 : Nat := 0
  i1 : Nat := 0
  i2 : Nat := 0
  i3 : Nat := 0
  blocks : Nat := 0
  eosDue : Bool := false
  movedAt : Nat := 0
  done : DoneAt := .direct 0
  pins : List PinSt := []
  owed : Option Nat := none
  deriving DecidableEq, Repr

/-- R383: a collective group as the hub runtime has configured it: the owning tenant, the runtime's name of the group, this partition's
rank, the members (device and partition, by rank), the reduction tree (node P + i combines the nodes listed at i; the last is the root), the
links that its traffic uses; and the member's count of linked collectives. -/
structure GroupSt where
  tenant : Nat
  key : Nat
  rank : Nat
  members : List (Nat × Nat)
  tree : List (List Nat)
  links : List Nat
  seq : Nat := 0
  deriving DecidableEq, Repr

/-- R383, R389: what a member brings to a collective: its descriptor as far as descriptors must agree, and its vector, one number for each
element of its rectangle, or for DIGCMP its harvest value. -/
structure MemberSt where
  rank : Nat
  descr : List Nat
  vector : List Nat
  deriving DecidableEq, Repr

/-- R386: the outcome of a collective for one member. -/
structure CollResult where
  outcome : Nat
  maj : Nat
  flags : Nat
  vector : List Nat
  detail : Word
  deriving DecidableEq, Repr

/-- R384 to R386: a collective in flight, with the group's entry as it stood at issue. -/
structure CollSt where
  part : Nat
  tenant : Nat
  place : Nat
  core : Nat
  thread : Nat
  kind : Nat
  exact : Bool
  group : Nat
  index : Nat
  descr : List Word
  descrAt : Nat
  conf : GroupSt
  elems : List Nat
  mine : MemberSt
  value : Word
  done : DoneAt
  /-- R391: for each element, what its destination bytes held at issue, and the free values that they hold until completion. -/
  before : List (Nat × Nat) := []
  result : Option CollResult := none
  deriving DecidableEq, Repr

/-- R380, R382: a Volten link: whether it is up, the device at its far end, the lowest-numbered device that is reached over it, and the last pass marker
that came over it. -/
structure LinkSt where
  up : Bool := false
  peer : Nat := 0
  low : Nat := 0
  pass : Nat := 0
  cursor : Nat := 0
  deriving DecidableEq, Repr

/-- R336: a guard or edge event that the hub receives. -/
structure HubEvent where
  edge : Bool
  part : Nat
  entry : Nat
  outgoing : Nat
  incoming : Nat
  pass : Nat
  cursor : Nat
  deriving DecidableEq, Repr

/-- R367, R379: how far the device has come. -/
inductive StartPhase where
  | running | starting | recovery
  deriving DecidableEq, Repr

/-- R392: a checkpoint: none, asked for, with the selectors frozen, and with the last byte acknowledged. -/
inductive CkptPhase where
  | none | asked | frozen | acked
  deriving DecidableEq, Repr

/-- R392: the copy of a checkpoint: the layers asked for and the ranks that the tier takes in a pass; the next rank, how many this pass can still take, the
next 32 MiB of hub memory; and what the tier has received: the rows, at (8 x plot + logical layer) x 4096 + rank, and the bytes of hub memory. -/
structure CopySt where
  mask : Nat := 0
  share : Nat := 1
  rank : Nat := 0
  left : Nat := 0
  piece : Nat := 0
  rows : Table Nat := []
  mem : List Host.Cell := []
  deriving DecidableEq, Repr

/-- R362, R367, R379, R381, R382, R392: the hub. `hostLock` and `sideLock` are the masters' reset locks; `reply` is the management controller's answer to the last request, and `refused` whether it
refused it; `hotPass` is the last pass in which the governor knew of a layer at 80 degrees or more. -/
structure HubSt where
  phase : StartPhase := .running
  failures : Nat := 0
  reason : Nat := 0
  firmware : Nat := 0
  hostLock : Bool := false
  sideLock : Bool := false
  reply : List Word := []
  refused : Bool := false
  device : BitVec 10 := 0
  links : Table LinkSt := []
  masks : Table Nat := []
  locked : Bool := false
  trimmed : Bool := false
  asked : Option SweepState := none
  hotPass : Nat := 0
  ckpt : CkptPhase := .none
  copy : CopySt := {}
  events : List HubEvent := []
  deriving DecidableEq, Repr

end Sys2Proof.Machine
end

