-- ==== Sys2Proof/Machine/State.lean ====
section
/-! DEFINITION. The state of the machine as plain data, the reasons a step can stop, and the state right after reset. -/

namespace Sys2Proof.Machine

/-- Why the machine stops with a fault. -/
inductive Fault where
  /-- Raised by every step while the device is powered off (R379): nothing runs until POWER_ON. Safe: the spec gives the device no
  step then. -/
  | poweredOff
  deriving DecidableEq, Repr

/-- Why a step is refused. -/
inductive Refusal where
  /-- Raised by the dispatch of an instruction that has no meaning yet. Safe: nothing can be proved of a refused instruction. -/
  | notModelled (mnemonic : String)
  /-- Raised by a step of another agent that the agenda asks for when its condition does not hold: the spec has no such step
  then. Safe: the machine itself never takes such a step. -/
  | notEnabled
  deriving DecidableEq, Repr

/-- Who acts next and on what: the thread of a headland instruction, the element, slot and tag of a firing, or what a step of another
agent is about. -/
structure Focus where
  thread : Nat := 0
  elem : Nat := 0
  slot : Nat := 0
  tag : Tag := 0
  /-- The element or other source a step takes something from. -/
  src : Nat := 0
  core : Nat := 0
  place : Nat := 0
  part : Nat := 0
  /-- A field, plot, generator, collective, row, page, filter, buffer or store, by its number. -/
  index : Nat := 0
  die : Nat := 0
  layer : Nat := 0
  link : Nat := 0
  master : Master := .host
  target : ClaimTarget := .core 0
  power : PowerState := .active
  sweep : SweepState := .p0
  flag : Bool := false
  addr : Nat := 0
  pc : Word := 0
  word : Word32 := 0
  words : List Word := []
  bytes : List Byte := []
  /-- R383: what members on other devices bring to a collective; an entry of the group table. -/
  remote : List MemberSt := []
  group : Option GroupSt := none
  /-- R393: a boot's supervisor image for each partition, and the links that it trains. -/
  images : List (List Byte) := []
  links : Table LinkSt := []
  deriving DecidableEq, Repr

/-- An activity of the schedule: a step of another agent, the firing of a slot, or the issue of a core. -/
inductive Act where
  | event (i : Instr) (f : Focus)
  | fire (elem slot : Nat) (tag : Tag)
  | issue (core : Nat)
  deriving DecidableEq, Repr

/-- The state of the machine. -/
structure State where
  /-- R22: headland cycles since reset. -/
  cycle : Nat
  /-- R23, R186: the rank being visited, the cycles elapsed in the step and the passes completed. -/
  cursor : Nat
  stepCyc : Nat
  passNo : Nat
  /-- R187: the sweep state in force and the one that takes effect at the wrap. -/
  sweep : SweepState
  sweepNext : Option SweepState
  /-- R382: the pass at whose start an announced sweep state takes effect (0: the next wrap). -/
  sweepPass : Nat
  /-- All bytes: hub memory, local memories, scratchpads, stream stores, plots and seed areas, each at its base (Machine/Space.lean). -/
  mem : List Host.Cell
  threads : Table ThreadSt
  cores : Table CoreSt
  corePlaces : Table CorePlaceSt
  places : Table PlaceSt
  parts : Table PartSt
  /-- R203, R204: the sets of the edge-cache slices, at 512 x core + 64 x slice + set, most recently used way first. -/
  slices : Table (List WaySt)
  /-- R208: the last-level TLB of each die, most recently used entry first. -/
  llTlb : Table (List TlbEntry)
  /-- R174, R322: windows of place `n` in element `e`, at 16 x e + n. -/
  windows : Table WindowSt
  /-- R77: the elements, and by 16 x element + place what a resting tenant has there (R331) and what HALTR took out (R172). -/
  elems : Table ElemSt
  savedElems : Table ElemSt
  haltElems : Table ElemSt
  /-- R101: fields, by 256 x origin element + tenant; R85: tokens on the network, by the order in which they left, and the next number. -/
  fields : Table FieldSt
  flights : Table FlightSt
  flightNext : Nat
  /-- R191, R195: riders and waiting requests of the device, by the order in which they joined their queues, and the next number. -/
  riders : Table RiderSt
  riderNext : Nat
  /-- R361: hub pages marked retired, hub lines marked poisoned; R359: 8-byte words with an uncorrectable error, by their address / 8. -/
  retired : List Nat
  poisoned : List Nat
  badWords : List Nat
  /-- R340, R360: retired pages of which another tenant held a line. -/
  shared : List Nat
  /-- R277: the twin state, at (4 x plot + pair) x 4096 + rank. -/
  twins : Table TwinSt
  /-- R211, R358: physical rows, at (8 x plot + layer) x 4096 + rank: those with an uncorrectable error that the scrub has not met, and the
  poisoned ones. -/
  rowErrors : List Nat
  rowPoison : List Nat
  /-- R256, R274: rows accepted and not committed, with the step of their acceptance; rows in the parking buffers. -/
  rowBufs : Table Nat
  parkedRows : List Nat
  /-- R292: plots; R362: physical layers, at 8 x die + layer. -/
  plots : Table PlotSt
  layers : Table LayerSt
  /-- R285: generators, at 8 x tile + number. -/
  gens : Table GenSt
  /-- R383: the group tables, at 256 x partition + group; R385: collectives in flight, by their order of issue, and the next number. -/
  groups : Table GroupSt
  colls : Table CollSt
  collNext : Nat
  hub : HubSt
  /-- R379: powered on. -/
  powered : Bool
  /-- R343, R344: every notice since reset, oldest first. -/
  notices : List NoticeSt
  /-- The model's own: who acts, the activities to come, whose core issues next, and the number of free values drawn (log entries 5
  and 6). -/
  focus : Focus
  agenda : List Act
  turn : Nat
  freeCount : Nat
  deriving DecidableEq, Repr

/-- R29: a thread right after reset: thread 0 of a core is READY in supervisor mode at pc 0, the others are FREE. -/
def ThreadSt.reset (k : Nat) : ThreadSt :=
  if k % 4 = 0 then { run := .ready, mode := true } else {}

/-- R321, R324: at reset the hub has made one partition of all four dies (log entry 4). -/
def PartSt.reset (p : Nat) : PartSt :=
  if p = 0 then { dies := 0xF, strips := 0xFF } else {}

/-- The machine right after reset. -/
def State.reset : State where
  cycle := 0
  cursor := 0
  stepCyc := 0
  passNo := 0
  sweep := .p0
  sweepNext := none
  sweepPass := 0
  mem := []
  threads := []
  cores := []
  corePlaces := []
  places := []
  parts := []
  slices := []
  llTlb := []
  windows := []
  elems := []
  savedElems := []
  haltElems := []
  fields := []
  flights := []
  flightNext := 0
  riders := []
  riderNext := 0
  retired := []
  poisoned := []
  badWords := []
  shared := []
  twins := []
  rowErrors := []
  rowPoison := []
  rowBufs := []
  parkedRows := []
  plots := []
  layers := []
  gens := []
  groups := []
  colls := []
  collNext := 0
  hub := {}
  powered := true
  notices := []
  focus := {}
  agenda := []
  turn := 0
  freeCount := 0

end Sys2Proof.Machine
end

