-- ==== Sys2Proof/Machine/Ops.lean ====
section
/-! DEFINITION. The named operations over the machine's registers, threads, places and rotation, taking an exception and returning
from one, and the notice ring. -/

namespace Sys2Proof.Machine

/-- One step's outcome. -/
abbrev Out := Host.Outcome State Fault Refusal

/-- An outcome with the next state changed by `f`. -/
def mapNext (f : State → State) : Out → Out
  | .next s => .next (f s)
  | .fault r => .fault r
  | .refused r => .refused r

/-! ### Bit fields -/

/-- Bits [lo + n - 1 : lo] of a number. -/
def bits (w lo n : Nat) : Nat := w / 2 ^ lo % 2 ^ n

/-- Bits [lo + n - 1 : lo] of a word, as a number. -/
def fld (w : Word) (lo n : Nat) : Nat := bits w.toNat lo n

/-- The word with the number `v` in bits [lo + n - 1 : lo]. -/
def setFld (w : Word) (lo n v : Nat) : Word :=
  BitVec.ofNat 64 (w.toNat - bits w.toNat lo n * 2 ^ lo + v % 2 ^ n * 2 ^ lo)

/-- A number as a word. -/
def wd (n : Nat) : Word := BitVec.ofNat 64 n

/-- 1 or 0. -/
def b2n (b : Bool) : Nat := if b then 1 else 0

/-! ### Threads, cores, places, partitions -/

/-- R321: core `c` belongs to the partition. -/
def PartSt.hasCore (p : PartSt) (c : Nat) : Bool := p.dies.getLsbD (dieOfCore c) && p.strips.getLsbD (stripOfCore c)

namespace State

def thread (s : State) (k : Nat) : ThreadSt := Table.getD s.threads k (ThreadSt.reset k)
def setThread (s : State) (k : Nat) (t : ThreadSt) : State := { s with threads := Table.put s.threads k t }
def modThread (s : State) (k : Nat) (f : ThreadSt → ThreadSt) : State := s.setThread k (f (s.thread k))

def core (s : State) (c : Nat) : CoreSt := Table.getD s.cores c {}
def setCore (s : State) (c : Nat) (x : CoreSt) : State := { s with cores := Table.put s.cores c x }
def modCore (s : State) (c : Nat) (f : CoreSt → CoreSt) : State := s.setCore c (f (s.core c))

def part (s : State) (p : Nat) : PartSt := Table.getD s.parts p (PartSt.reset p)
def setPart (s : State) (p : Nat) (x : PartSt) : State := { s with parts := Table.put s.parts p x }
def modPart (s : State) (p : Nat) (f : PartSt → PartSt) : State := s.setPart p (f (s.part p))

/-- R322: place `n` of partition `p`. -/
def place (s : State) (p n : Nat) : PlaceSt := Table.getD s.places (p * 16 + n) {}
def setPlace (s : State) (p n : Nat) (x : PlaceSt) : State := { s with places := Table.put s.places (p * 16 + n) x }
def modPlace (s : State) (p n : Nat) (f : PlaceSt → PlaceSt) : State := s.setPlace p n (f (s.place p n))

/-- R323: what core `c` keeps for place `n`. -/
def corePlace (s : State) (c n : Nat) : CorePlaceSt := Table.getD s.corePlaces (c * 16 + n) {}
def setCorePlace (s : State) (c n : Nat) (x : CorePlaceSt) : State :=
  { s with corePlaces := Table.put s.corePlaces (c * 16 + n) x }
def modCorePlace (s : State) (c n : Nat) (f : CorePlaceSt → CorePlaceSt) : State := s.setCorePlace c n (f (s.corePlace c n))

/-! ### The acting thread -/

/-- The thread that acts. -/
def me (s : State) : Nat := s.focus.thread
def cur (s : State) : ThreadSt := s.thread s.me
def modMe (s : State) (f : ThreadSt → ThreadSt) : State := s.modThread s.me f
def myCore (s : State) : Nat := coreOf s.me

/-- R16: a general register of thread `k`; g0 reads as zero. -/
def gprOf (s : State) (k : Nat) (r : Reg) : Word := if r = 0 then 0 else Table.getD (s.thread k).gpr r.toNat 0

/-- R16: a general register of the acting thread. -/
def gpr (s : State) (r : Reg) : Word := s.gprOf s.me r

/-- R16: thread `k` with general register `r` written; a write to g0 is discarded. -/
def setGprOf (s : State) (k : Nat) (r : Reg) (v : Word) : State :=
  if r = 0 then s else s.modThread k fun t => { t with gpr := Table.putD t.gpr r.toNat v 0 }

/-- R16: the acting thread with general register `r` written. -/
def setGpr (s : State) (r : Reg) (v : Word) : State := s.setGprOf s.me r v

/-- The program counter of the acting thread. -/
def pc (s : State) : Word := s.cur.pc
def setPc (s : State) (v : Word) : State := s.modMe fun t => { t with pc := v }

/-- The acting thread goes on to the next word. -/
def advance (s : State) : State := s.setPc (s.pc + 4)

/-- R17, R53: the result of the acting thread's instruction is ready `lat` cycles after its issue: until then an instruction that needs
register `d` waits. -/
def mark (s : State) (d : Reg) (lat : Nat) : State :=
  s.modMe fun t => { t with busy := (d, s.cycle + lat) :: t.busy.filter fun b => b.1 != d && decide (s.cycle < b.2) }

/-- The instruction completes: gd receives `v` and the thread goes on. -/
def finish (s : State) (d : Reg) (v : Word) : Out := .next ((s.setGpr d v).advance)

/-- The instruction completes with a result that is ready `lat` cycles after its issue. -/
def finishLate (s : State) (d : Reg) (v : Word) (lat : Nat) : Out := .next (((s.setGpr d v).mark d lat).advance)

/-- Draws the next free value (log entry 6). -/
def drawFree (s : State) : Word × State := (Config.freeWord s.freeCount, { s with freeCount := s.freeCount + 1 })

/-! ### Partitions and places -/

/-- R321: the partition of core `c`. -/
def partOf (s : State) (c : Nat) : Nat := ((List.range numParts).find? fun p => (s.part p).hasCore c).getD numParts

/-- R322: the place that holds tenant `t`; place 0 is the supervisor. -/
def placeOf (s : State) (p t : Nat) : Option Nat :=
  if t = 0 then some 0
  else (List.range' 1 15).find? fun n => fld (s.place p n).tcfg 63 1 == 1 && fld (s.place p n).tcfg 0 8 == t

/-- The acting thread's partition. -/
def myPart (s : State) : Nat := s.partOf s.myCore

/-- The acting thread's place: 0 in supervisor mode (R20, R327), else the place of its tenant. -/
def myPlace (s : State) : Nat := if s.cur.mode then 0 else (s.placeOf s.myPart s.cur.tenant).getD 0

/-- R22, R327: the address-space identifier of a place of a partition on core `c`: SASID for the supervisor's. -/
def placeAsid (s : State) (c p place : Nat) : Nat := if place = 0 then fld (s.part p).sasid 0 13 else fld (s.corePlace c place).asid 0 13

/-- R327: the address-space identifier of a thread's translated accesses. -/
def asidOf (s : State) (k : Nat) : Nat :=
  let p := s.partOf (coreOf k)
  s.placeAsid (coreOf k) p (if (s.thread k).mode then 0 else (s.placeOf p (s.thread k).tenant).getD 0)

end State

/-! ### The sweep and the rotation (R23, R187, R329) -/

/-- R187: cycles per step in each sweep state. -/
def stepLenOf : SweepState → Nat
  | .p0 => 768
  | .p1 => 1536
  | .p2 => 1024
  | .p3 => 2048
  | .p4 => 2304

namespace State

/-- R23: cycles of the current step. -/
def stepLen (s : State) : Nat := stepLenOf s.sweep

/-- R324: fields of a rotation entry. -/
def rotValid (w : Word) : Bool := fld w 63 1 == 1
def rotDonee (w : Word) : Nat := fld w 40 8
def rotOwner (w : Word) : Nat := fld w 32 8
def rotEnd (w : Word) : Nat := fld w 12 12
def rotStart (w : Word) : Nat := fld w 0 12

/-- R329: the valid entry of the active table that holds rank `c`: its number and its word. -/
def entryAt (s : State) (p c : Nat) : Option (Nat × Word) :=
  if (s.part p).on then
    List.find? (fun e => rotValid e.2 && decide (rotStart e.2 ≤ c) && decide (c ≤ rotEnd e.2)) (s.part p).active
  else none

/-- R333: a donation of the entry `n` is in force. -/
def donated (s : State) (p n : Nat) : Bool :=
  match (s.part p).donation with
  | some d => d.inForce && d.entry == n
  | none => false

/-- R329: the running tenant of a partition while the cursor is at `c`. -/
def runningAt (s : State) (p c : Nat) : Nat :=
  if (s.part p).on then
    match s.entryAt p c with
    | some (n, w) => if s.donated p n then rotDonee w else rotOwner w
    | none => 0
  else (s.part p).soleNow.toNat

/-- R189, R329: the tenant that holds rank `c` of a partition, whatever is donated. -/
def ownerAt (s : State) (p c : Nat) : Nat :=
  if (s.part p).on then
    match s.entryAt p c with
    | some (_, w) => rotOwner w
    | none => 0
  else (s.part p).soleNow.toNat

/-- R329: the running tenant of a partition. -/
def running (s : State) (p : Nat) : Nat := s.runningAt p s.cursor

/-- R17, R329: a tenant's threads may issue: it is the running tenant and its guard has not begun. -/
def tenantRuns (s : State) (p t : Nat) : Bool := s.running p == t && !(s.part p).inGuard

/-- R24: PASSNO [51:12] and CURSOR [11:0]. -/
def when (s : State) : Word := wd (s.passNo % 2 ^ 40 * 4096 + s.cursor)

/-- R203: the slice of its strip to which a physical address hashes. -/
def edgeSlice (pa : Nat) : Nat := (bits pa 13 3).xor ((bits pa 16 3).xor (bits pa 19 3))

/-! ### The notice ring (R343, R344) -/

/-- R343: writes a notice to core `c`: the record, and then WRIDX; the hub runtime and the side-band port receive the same record. -/
def notice (s : State) (c kind code tenant x y layer thread : Nat) (d0 d1 : Word) : State :=
  let ring := localBase c + 0x7F000
  let w0 := kind + code * 2 ^ 8 + tenant * 2 ^ 16 + dieOfCore c * 2 ^ 24 + x * 2 ^ 26 + y * 2 ^ 31 + layer * 2 ^ 36 +
    stripOfCore c * 2 ^ 40 + thread * 2 ^ 43
  let n := Memory.read s.mem ring 8
  let rd := Memory.read s.mem (ring + 0x18) 8
  let lostBefore := Memory.read s.mem (ring + 8) 8
  let full := decide (127 ≤ (n + 2 ^ 64 - rd) % 2 ^ 64)
  let a := ring + 0x20 + 32 * (n % 127)
  let m := Memory.write (Memory.write (Memory.write (Memory.write s.mem a 8 w0) (a + 8) 8 s.when.toNat) (a + 16) 8 d0.toNat)
    (a + 24) 8 d1.toNat
  let m := if full then Memory.write m (ring + 8) 8 (lostBefore + 1) else m
  { s with mem := Memory.write m ring 8 (n + 1),
           notices := s.notices ++ [{ core := c, word0 := wd w0, word1 := s.when, detail0 := d0, detail1 := d1 }] }

/-- R344: a notice about a thread of its own core. -/
def threadNotice (s : State) (k kind code : Nat) (d0 d1 : Word) : State :=
  s.notice (coreOf k) kind code (s.thread k).tenant 0 0 0 (k % 4) d0 d1

end State

/-! ### Taking an exception (R25, R26, R326, R356) and returning from one (R27, R75) -/

/-- R339: the fault codes. -/
def codeILLEGAL : Nat := 0x01
def codePRIV : Nat := 0x02
def codeMISALIGN : Nat := 0x03
def codePAGE : Nat := 0x04
def codeACCESS : Nat := 0x05
def codeBOUND : Nat := 0x06
def codeTAGDEPTH : Nat := 0x08
def codeMATCHEXHAUSTED : Nat := 0x09
def codeCOLOUREXHAUSTED : Nat := 0x0A
def codePLANEINVALID : Nat := 0x0B
def codeMODQ : Nat := 0x0C
def codeOVERRUN : Nat := 0x0D
def codeBARRIERBROKEN : Nat := 0x0E
def codePOISON : Nat := 0x11
def codeWATCHDOG : Nat := 0x14
def codeTRAP : Nat := 0x15
def codeSVC : Nat := 0x16
def codeBREAK : Nat := 0x17

/-- R340: FLAGS bits of FREC0, as bit numbers. -/
def flagHELD : Nat := 16
def flagFHALT : Nat := 17
def flagMULTI : Nat := 18
def flagLOST : Nat := 19
def flagSHARED : Nat := 21
def flagRETIRED : Nat := 22
def flagRETRY : Nat := 23
def flagESC : Nat := 24

/-- FREC0 with a FLAGS bit set. -/
def FaultRec.flag (f : FaultRec) (n : Nat) : FaultRec := { f with f0 := setFld f.f0 n 1 1 }

namespace State

/-- R24, R341: the record of a fault of headland thread `k`: code, FREC2, instruction word and operand. -/
def headlandRec (s : State) (k code : Nat) (f2 : Word) (word : Word32) (operand : Word) : FaultRec :=
  { f0 := wd code,
    f1 := wd (3 * 2 ^ 22 + stripOfCore (coreOf k) * 2 ^ 19 + k % 4 * 2 ^ 17),
    f2 := f2, f3 := word.setWidth 64, f4 := 0, f5 := operand, f6 := s.when,
    f7 := wd (s.asidOf k * 2 ^ 32 + (s.thread k).tenant) }

/-- R340: the codes of FREC0's SOURCE, bits [11:8], as `trapRec` takes them with a code. -/
def sourceEdge : Nat := 3

/-- R24, R340, R341: the record of a synchronous trap of thread `k`. The code may carry FREC0's FLAGS and SOURCE above its 8 bits, and above bit 32
the physical address of an edge tile's line: the record is then that tile's, and EVAL alone holds `value`. -/
def trapRec (s : State) (k code : Nat) (word : Word32) (value : Word) : FaultRec :=
  if bits code 8 4 = sourceEdge then
    let pa := code / 2 ^ 32
    let n := edgeSlice pa
    { s.headlandRec k (code % 2 ^ 32) 0 0 (wd pa) with
      f1 := wd (dieOfCore (coreOf k) * 2 ^ 38 + (4 * stripOfCore (coreOf k) + n % 4) * 2 ^ 33 + n / 4 * 2 ^ 28 + 3 * 2 ^ 22) }
  else s.headlandRec k code 0 word value

/-- R53: cycles from a trap or a return to the first instruction at the new pc. -/
def trapGap : Nat := 3

/-- R17, R73: a thread stops; the supervisor must act. -/
def stopThread (s : State) (k : Nat) (at_ : Word) : State :=
  s.modThread k fun t => { t with run := .stopped, wait := {}, resume := at_, pc := at_ }

/-- R326, R356: a trap goes to the supervisor: the supervisor's trap registers are written and the thread enters supervisor mode at
the supervisor vector. A synchronous trap of a thread whose SEXL is 1 stops it; an escalation without STVEC stops it. -/
def toSupervisor (s : State) (k : Nat) (async : Bool) (code : Nat) (value : Word) (rec_ : FaultRec) (fabric : Bool) : State :=
  let t := s.thread k
  let cause := wd (b2n async * 2 ^ 63 + code)
  if t.sexl then (s.stopThread k t.pc).threadNotice k 2 code t.pc cause
  else
    let r := if t.mode then rec_ else rec_.flag flagESC
    let s1 := s.setThread k
      { t with sepc := t.pc, scause := cause, seval := if fabric then r.f0 else value, sfrec := r, run := .ready, wait := {},
               notBefore := s.cycle + trapGap }
    let vec := (s.core (coreOf k)).stvec
    if !t.mode && vec == 0 then (s1.stopThread k t.pc).threadNotice k 2 code t.pc cause
    else s1.modThread k fun t' => { t' with spmode := t.mode, sexl := true, mode := true, pc := vec ++ 0#2 }

/-- R26: trap entry of thread `k`; `value` is EVAL, or FREC0 for fabric and engine faults. -/
def trapThread (s : State) (k : Nat) (async : Bool) (code : Nat) (value : Word) (rec_ : FaultRec) (fabric : Bool) : State :=
  let t := s.thread k
  if t.mode || code == codeSVC || t.tvec == 0 || t.exl then s.toSupervisor k async code value rec_ fabric
  else
    s.setThread k
      { t with epc := t.pc, ecause := wd (b2n async * 2 ^ 63 + code), eval := if fabric then rec_.f0 else value, frec := rec_,
               pmode := false, exl := true, pc := t.tvec ++ 0#2, run := .ready, wait := {}, notBefore := s.cycle + trapGap }

/-- R25, R26: the instruction of thread `k` raises a synchronous trap; EVAL is `value`, and so is FREC5 of a headland fault. -/
def trapAt (s : State) (k : Nat) (word : Word32) (code : Nat) (value : Word) : State :=
  s.trapThread k false (code % 256) value (s.trapRec k code word value) false

/-- R25, R26: the acting thread's instruction raises a synchronous trap. -/
def raise (s : State) (word : Word32) (code : Nat) (value : Word) : Out := .next (s.trapAt s.me word code value)

/-- R26, R164, R167: a synchronous trap of an instruction that meets the fabric: EVAL is FREC0, FREC2 is `f2` and FREC5 `operand`. -/
def raiseFabric (s : State) (word : Word32) (code : Nat) (f2 operand : Word) : Out :=
  .next (s.trapThread s.me false code 0 (s.headlandRec s.me code f2 word operand) true)

/-- R42: ILLEGAL and PRIV give the instruction word in EVAL. -/
def raiseIllegal (s : State) (word : Word32) : Out := s.raise word codeILLEGAL (word.setWidth 64)
def raisePriv (s : State) (word : Word32) : Out := s.raise word codePRIV (word.setWidth 64)

/-- R354, R357: the record of thread `k` stands in its save area, from which it will be restored: it rests, or it was STOPPED at its tenant's guard. -/
def recordKept (s : State) (k : Nat) : Bool :=
  let t := s.thread k
  t.run == .resting || (t.run == .stopped && !t.mode && t.tenant != 0 && (s.place (s.partOf (coreOf k)) ((s.placeOf (s.partOf (coreOf k)) t.tenant).getD 0)).saved)

/-- R342: makes an asynchronous trap pending; a fifth is dropped and marks the next one delivered. A trap for a thread whose record is saved waits beside
the record (R355). -/
def postAsync (s : State) (k code : Nat) (rec_ : FaultRec) (fabric : Bool) : State :=
  let kept := s.recordKept k
  s.modThread k fun t =>
    let n := t.pend.length + t.late.length
    if 4 ≤ n then { t with lost := true }
    else
      let p : PendTrap := { code := code, frec := rec_, fabric := fabric }
      if kept then { t with late := t.late ++ [p] } else { t with pend := t.pend ++ [p] }

/-- R25: a pending asynchronous trap of thread `k` can be taken. While a hold is open it stays pending (R230). -/
def takeable (s : State) (k : Nat) : Bool :=
  let t := s.thread k
  !t.pend.isEmpty && t.ae && !t.exl && !t.sexl && t.hold.isNone

/-- R342, R71: the waits that a thread leaves for a pending trap. -/
def breakable : WaitCode → Bool
  | .wait | .waite | .recv | .pause => true
  | _ => false

/-- R25: a pending asynchronous trap can be taken now: the thread stands at an instruction boundary or in a wait it leaves. A held SOW completes
first (R342). -/
def asyncDue (s : State) (k : Nat) : Bool :=
  let t := s.thread k
  s.takeable k && ((t.run == .ready && t.wait.code != .sow) || (t.run == .waiting && breakable t.wait.code))

/-- R25, R342: takes the oldest pending asynchronous trap of thread `k`. A PAUSE ends there, with EPC after it (R71). -/
def takeAsync (s : State) (k : Nat) : State :=
  let t := s.thread k
  match t.pend with
  | [] => s
  | p :: rest =>
    let pc := if t.run == .waiting && t.wait.code == .pause then t.pc + 4 else t.pc
    let r := if t.lost then p.frec.flag flagLOST else p.frec
    let s1 := s.setThread k { t with pend := rest, lost := false, pc := pc, run := .ready, wait := {} }
    s1.trapThread k true p.code 0 r p.fabric

/-- R23: TSTAT of thread `k`. -/
def tstat (s : State) (k : Nat) : Word :=
  let t := s.thread k
  wd (b2n (!t.pend.isEmpty) * 16 + b2n t.ae * 8 + b2n t.pmode * 4 + b2n t.exl * 2 + b2n t.mode)

/-- R416: a thread that returns to tenant mode while its tenant is not running rests. -/
def readyOrResting (s : State) (k : Nat) : RunState :=
  let t := s.thread k
  if t.mode || s.tenantRuns (s.partOf (coreOf k)) t.tenant then .ready else .resting

/-- Threads that wait with a given code run their instruction again: a fence (R226), INJ on a full queue (R164), a ninth collective
(R385), TLBI during an invalidation (R209), SOW during a SWAP, which keeps the cycle of its first issue (R169). -/
def retryWaiters (s : State) (code : WaitCode) : State :=
  (List.range numThreads).foldl (fun st k =>
    if (st.thread k).run == .waiting && (st.thread k).wait.code == code then
      st.modThread k fun t => { t with run := .ready, wait := if code = .sow then t.wait else {} }
    else st) s

end State

end Sys2Proof.Machine
end

