-- ==== Sys2Proof/Machine/Alu.lean ====
section
/-! DEFINITION. The ALU group (R54 to R57) and the immediate group (R58): one meaning per instruction over `State.finish`. The divide
forms go through the core's divider (R53). -/

namespace Sys2Proof.Machine

/-- 1 if the condition holds, else 0. -/
def ofBool (b : Bool) : Word := if b then 1 else 0

/-- R57: the number of zero bits above the highest set bit among the low `n` bits. -/
def clzBits (v : Nat) : Nat → Nat
  | 0 => 0
  | n + 1 => if v / 2 ^ n % 2 = 1 then 0 else 1 + clzBits v n

/-- R57: the number of zero bits below the lowest set bit, at most `n`. -/
def ctzBits (v : Nat) : Nat → Nat
  | 0 => 0
  | n + 1 => if v % 2 = 1 then 0 else 1 + ctzBits (v / 2) n

/-- R57: the number of set bits among the low `n` bits. -/
def popBits (v : Nat) : Nat → Nat
  | 0 => 0
  | n + 1 => v % 2 + popBits (v / 2) n

/-- R57: the low `n` bytes in reverse order. -/
def swapBytes (v : Nat) : Nat → Nat
  | 0 => 0
  | n + 1 => v % 256 * 256 ^ n + swapBytes (v / 256) n

/-- R58: sext(imm16, 16). -/
def sext16 (imm : BitVec 16) : Word := imm.signExtend 64

/-- R58: zext(imm16, 16). -/
def zext16 (imm : BitVec 16) : Word := imm.setWidth 64

/-- R54: a shift by a register uses bits [5:0] only. -/
def shiftAmount (b : Word) : Nat := b.toNat % 64

/-! ### The values (R54 to R57) -/

def divValue (a b : Word) : Word :=
  if b = 0 then BitVec.allOnes 64
  else if a = BitVec.intMin 64 ∧ b = BitVec.allOnes 64 then a
  else BitVec.ofInt 64 (a.toInt.tdiv b.toInt)

def divuValue (a b : Word) : Word :=
  if b = 0 then BitVec.allOnes 64 else BitVec.ofNat 64 (a.toNat / b.toNat)

def remValue (a b : Word) : Word :=
  if b = 0 then a
  else if a = BitVec.intMin 64 ∧ b = BitVec.allOnes 64 then 0
  else BitVec.ofInt 64 (a.toInt - b.toInt * a.toInt.tdiv b.toInt)

def remuValue (a b : Word) : Word :=
  if b = 0 then a else BitVec.ofNat 64 (a.toNat % b.toNat)

/-- R53: significant bits of a magnitude. -/
def sigBits (n : Nat) : Nat := 64 - clzBits n 64

/-- R53: cycles of a division: 20 + 3 x ceil(n / 4), 20 when the divisor is 0. -/
def divLatency (magnitude : Nat) (b : Word) : Nat :=
  if b = 0 then 20 else 20 + 3 * ((sigBits magnitude + 3) / 4)

/-- R53: the magnitude of a signed dividend. -/
def magnitude (a : Word) : Nat := a.toInt.natAbs

/-- R53: starts the core's divider, which delivers `v` to gd after `lat` cycles (DIVIDER_DONE); the thread goes on. A divider still busy
with an earlier division delivers that one first: the issue rule waits for it. -/
def startDivider (s : State) (d : Reg) (v : Word) (lat : Nat) : Out :=
  let s1 := match (s.core s.myCore).divider with
    | some x => s.setGprOf x.thread x.gd x.value
    | none => s
  .next ((s1.modCore s.myCore fun c =>
    { c with divider := some { thread := s.me, gd := d, value := v, readyAt := s.cycle + lat } }).advance)

/-- R54. -/
def valueAdd (a b : Word) : Word := a + b
/-- R54. -/
def valueSub (a b : Word) : Word := a - b
/-- R54. -/
def valueAnd (a b : Word) : Word := a &&& b
/-- R54. -/
def valueOr (a b : Word) : Word := a ||| b
/-- R54. -/
def valueXor (a b : Word) : Word := a ^^^ b
/-- R54. -/
def valueAndn (a b : Word) : Word := a &&& ~~~b
/-- R54. -/
def valueShl (a b : Word) : Word := a <<< shiftAmount b
/-- R54. -/
def valueShr (a b : Word) : Word := a >>> shiftAmount b
/-- R54. -/
def valueSar (a b : Word) : Word := a.sshiftRight (shiftAmount b)
/-- R54. -/
def valueSlt (a b : Word) : Word := ofBool (a.slt b)
/-- R54. -/
def valueSltu (a b : Word) : Word := ofBool (a.ult b)
/-- R54. -/
def valueMin (a b : Word) : Word := if b.slt a then b else a
/-- R54. -/
def valueMax (a b : Word) : Word := if a.slt b then b else a
/-- R54. -/
def valueMinu (a b : Word) : Word := if b.ult a then b else a
/-- R54. -/
def valueMaxu (a b : Word) : Word := if a.ult b then b else a
/-- R55. -/
def valueMul (a b : Word) : Word := BitVec.ofInt 64 (a.toInt * b.toInt)
/-- R55. -/
def valueMulh (a b : Word) : Word := BitVec.ofInt 64 (a.toInt * b.toInt / 2 ^ 64)
/-- R55. -/
def valueMulhu (a b : Word) : Word := BitVec.ofNat 64 (a.toNat * b.toNat / 2 ^ 64)
/-- R55. -/
def valueMulhsu (a b : Word) : Word := BitVec.ofInt 64 (a.toInt * b.toNat / 2 ^ 64)

/-- R53: cycles of a multiplication. -/
def mulLatency : Nat := 3

/-! ### Three operands (R54 to R56) -/

/-- ADD, R54. -/
def execAdd (d a b : Reg) (s : State) : Out := s.finish d (valueAdd (s.gpr a) (s.gpr b))

/-- SUB, R54. -/
def execSub (d a b : Reg) (s : State) : Out := s.finish d (valueSub (s.gpr a) (s.gpr b))

/-- AND, R54. -/
def execAnd (d a b : Reg) (s : State) : Out := s.finish d (valueAnd (s.gpr a) (s.gpr b))

/-- OR, R54. -/
def execOr (d a b : Reg) (s : State) : Out := s.finish d (valueOr (s.gpr a) (s.gpr b))

/-- XOR, R54. -/
def execXor (d a b : Reg) (s : State) : Out := s.finish d (valueXor (s.gpr a) (s.gpr b))

/-- ANDN, R54. -/
def execAndn (d a b : Reg) (s : State) : Out := s.finish d (valueAndn (s.gpr a) (s.gpr b))

/-- SHL, R54. -/
def execShl (d a b : Reg) (s : State) : Out := s.finish d (valueShl (s.gpr a) (s.gpr b))

/-- SHR, R54. -/
def execShr (d a b : Reg) (s : State) : Out := s.finish d (valueShr (s.gpr a) (s.gpr b))

/-- SAR, R54. -/
def execSar (d a b : Reg) (s : State) : Out := s.finish d (valueSar (s.gpr a) (s.gpr b))

/-- SLT, R54. -/
def execSlt (d a b : Reg) (s : State) : Out := s.finish d (valueSlt (s.gpr a) (s.gpr b))

/-- SLTU, R54. -/
def execSltu (d a b : Reg) (s : State) : Out := s.finish d (valueSltu (s.gpr a) (s.gpr b))

/-- MIN, R54. -/
def execMin (d a b : Reg) (s : State) : Out := s.finish d (valueMin (s.gpr a) (s.gpr b))

/-- MAX, R54. -/
def execMax (d a b : Reg) (s : State) : Out := s.finish d (valueMax (s.gpr a) (s.gpr b))

/-- MINU, R54. -/
def execMinu (d a b : Reg) (s : State) : Out := s.finish d (valueMinu (s.gpr a) (s.gpr b))

/-- MAXU, R54. -/
def execMaxu (d a b : Reg) (s : State) : Out := s.finish d (valueMaxu (s.gpr a) (s.gpr b))

/-- MUL, R55. -/
def execMul (d a b : Reg) (s : State) : Out := s.finishLate d (valueMul (s.gpr a) (s.gpr b)) mulLatency

/-- MULH, R55. -/
def execMulh (d a b : Reg) (s : State) : Out := s.finishLate d (valueMulh (s.gpr a) (s.gpr b)) mulLatency

/-- MULHU, R55. -/
def execMulhu (d a b : Reg) (s : State) : Out := s.finishLate d (valueMulhu (s.gpr a) (s.gpr b)) mulLatency

/-- MULHSU, R55. -/
def execMulhsu (d a b : Reg) (s : State) : Out := s.finishLate d (valueMulhsu (s.gpr a) (s.gpr b)) mulLatency

/-- DIV, R56, R53. -/
def execDiv (d a b : Reg) (s : State) : Out :=
  startDivider s d (divValue (s.gpr a) (s.gpr b)) (divLatency (magnitude (s.gpr a)) (s.gpr b))

/-- DIVU, R56, R53. -/
def execDivu (d a b : Reg) (s : State) : Out :=
  startDivider s d (divuValue (s.gpr a) (s.gpr b)) (divLatency ((s.gpr a).toNat) (s.gpr b))

/-- REM, R56, R53. -/
def execRem (d a b : Reg) (s : State) : Out :=
  startDivider s d (remValue (s.gpr a) (s.gpr b)) (divLatency (magnitude (s.gpr a)) (s.gpr b))

/-- REMU, R56, R53. -/
def execRemu (d a b : Reg) (s : State) : Out :=
  startDivider s d (remuValue (s.gpr a) (s.gpr b)) (divLatency ((s.gpr a).toNat) (s.gpr b))

/-! ### Two operands (R57) -/

/-- R57. -/
def valueClz (a : Word) : Word := wd (clzBits a.toNat 64)

/-- CLZ, R57. -/
def execClz (d a : Reg) (s : State) : Out := s.finish d (valueClz (s.gpr a))

/-- R57. -/
def valueCtz (a : Word) : Word := wd (ctzBits a.toNat 64)

/-- CTZ, R57. -/
def execCtz (d a : Reg) (s : State) : Out := s.finish d (valueCtz (s.gpr a))

/-- R57. -/
def valuePopc (a : Word) : Word := wd (popBits a.toNat 64)

/-- POPC, R57. -/
def execPopc (d a : Reg) (s : State) : Out := s.finish d (valuePopc (s.gpr a))

/-- R57. -/
def valueBswap (a : Word) : Word := wd (swapBytes a.toNat 8)

/-- BSWAP, R57. -/
def execBswap (d a : Reg) (s : State) : Out := s.finish d (valueBswap (s.gpr a))

/-- R57. -/
def valueSextb (a : Word) : Word := (a.setWidth 8).signExtend 64

/-- SEXTB, R57. -/
def execSextb (d a : Reg) (s : State) : Out := s.finish d (valueSextb (s.gpr a))

/-- R57. -/
def valueSexth (a : Word) : Word := (a.setWidth 16).signExtend 64

/-- SEXTH, R57. -/
def execSexth (d a : Reg) (s : State) : Out := s.finish d (valueSexth (s.gpr a))

/-- R57. -/
def valueSextw (a : Word) : Word := (a.setWidth 32).signExtend 64

/-- SEXTW, R57. -/
def execSextw (d a : Reg) (s : State) : Out := s.finish d (valueSextw (s.gpr a))

/-- R57. -/
def valueZextb (a : Word) : Word := (a.setWidth 8).setWidth 64

/-- ZEXTB, R57. -/
def execZextb (d a : Reg) (s : State) : Out := s.finish d (valueZextb (s.gpr a))

/-- R57. -/
def valueZexth (a : Word) : Word := (a.setWidth 16).setWidth 64

/-- ZEXTH, R57. -/
def execZexth (d a : Reg) (s : State) : Out := s.finish d (valueZexth (s.gpr a))

/-- R57. -/
def valueZextw (a : Word) : Word := (a.setWidth 32).setWidth 64

/-- ZEXTW, R57. -/
def execZextw (d a : Reg) (s : State) : Out := s.finish d (valueZextw (s.gpr a))

/-! ### The immediate group (R58) -/

/-- ADDI, R58. -/
def execAddi (d a : Reg) (imm : BitVec 16) (s : State) : Out := s.finish d (s.gpr a + sext16 imm)

/-- ANDI, R58. -/
def execAndi (d a : Reg) (imm : BitVec 16) (s : State) : Out := s.finish d (s.gpr a &&& zext16 imm)

/-- ORI, R58. -/
def execOri (d a : Reg) (imm : BitVec 16) (s : State) : Out := s.finish d (s.gpr a ||| zext16 imm)

/-- XORI, R58. -/
def execXori (d a : Reg) (imm : BitVec 16) (s : State) : Out := s.finish d (s.gpr a ^^^ zext16 imm)

/-- SLTI, R58. -/
def execSlti (d a : Reg) (imm : BitVec 16) (s : State) : Out := s.finish d (ofBool ((s.gpr a).slt (sext16 imm)))

/-- SLTIU, R58. -/
def execSltiu (d a : Reg) (imm : BitVec 16) (s : State) : Out := s.finish d (ofBool ((s.gpr a).ult (sext16 imm)))

/-- SHLI, R58. -/
def execShli (d a : Reg) (amt : BitVec 6) (s : State) : Out := s.finish d (s.gpr a <<< amt.toNat)

/-- SHRI, R58. -/
def execShri (d a : Reg) (amt : BitVec 6) (s : State) : Out := s.finish d (s.gpr a >>> amt.toNat)

/-- SARI, R58. -/
def execSari (d a : Reg) (amt : BitVec 6) (s : State) : Out := s.finish d ((s.gpr a).sshiftRight amt.toNat)

/-- LUI, R58: sext(imm16, 16) x 2^16. -/
def execLui (d : Reg) (imm : BitVec 16) (s : State) : Out := s.finish d (sext16 imm <<< 16)

/-- LUS, R58: gd := gd << 16 | imm16. -/
def execLus (d : Reg) (imm : BitVec 16) (s : State) : Out := s.finish d (s.gpr d <<< 16 ||| zext16 imm)

/-- ADDPC, R58: pc + sext(imm16, 16) x 4. -/
def execAddpc (d : Reg) (imm : BitVec 16) (s : State) : Out := s.finish d (s.pc + sext16 imm * 4)

end Sys2Proof.Machine
end

