-- ==== Sys2Proof/Machine/Flags.lean ====
section
/-! DEFINITION. Floating-point formats (R104, R108), exact values, rounding and flags (R109 to R111), and the operations that every unit
shares: sums, products, fused sums, quotients, roots, comparisons. -/

namespace Sys2Proof.Machine

/-- R111: flag bits as FPF numbers them. -/
def fNV : Nat := 1
def fDZ : Nat := 2
def fOF : Nat := 4
def fUF : Nat := 8
def fNX : Nat := 16
def fUFS : Nat := 32

/-- R110: rounding modes. -/
inductive Rounding where
  | rne | rtz | rup | rdn
  deriving DecidableEq, Repr

/-- R110: the mode that a 2-bit code names. -/
def roundingOf (n : Nat) : Rounding :=
  match n % 4 with
  | 0 => .rne
  | 1 => .rtz
  | 2 => .rup
  | _ => .rdn

/-- R108: how a format uses its highest codes. -/
inductive Special where
  | ieee | e4m3 | e2m1
  deriving DecidableEq, Repr

/-- R108: a signed floating-point format: exponent and fraction widths and bias. -/
structure FloatFmt where
  ebits : Nat
  mbits : Nat
  bias : Nat
  special : Special
  deriving DecidableEq, Repr

def fmtF32 : FloatFmt := { ebits := 8, mbits := 23, bias := 127, special := .ieee }
def fmtF16 : FloatFmt := { ebits := 5, mbits := 10, bias := 15, special := .ieee }
def fmtBf16 : FloatFmt := { ebits := 8, mbits := 7, bias := 127, special := .ieee }
def fmtE4m3 : FloatFmt := { ebits := 4, mbits := 3, bias := 7, special := .e4m3 }
def fmtE5m2 : FloatFmt := { ebits := 5, mbits := 2, bias := 15, special := .ieee }
def fmtE2m1 : FloatFmt := { ebits := 2, mbits := 1, bias := 1, special := .e2m1 }

/-- The width of a format in bits. -/
def FloatFmt.width (f : FloatFmt) : Nat := 1 + f.ebits + f.mbits

/-- The code of infinity, or the first code above the finite ones. -/
def FloatFmt.infCode (f : FloatFmt) : Nat := (2 ^ f.ebits - 1) * 2 ^ f.mbits

/-- R108: the largest finite code. -/
def FloatFmt.maxCode (f : FloatFmt) : Nat :=
  match f.special with
  | .ieee => f.infCode - 1
  | .e4m3 => 0x7E
  | .e2m1 => 0x7

/-- R108: the canonical NaN (e2m1 has none and takes +0, R109). -/
def FloatFmt.nan (f : FloatFmt) : Nat :=
  match f.special with
  | .ieee => f.infCode + 2 ^ (f.mbits - 1)
  | .e4m3 => 0x7F
  | .e2m1 => 0

/-- R108: the sign bit of a code. -/
def FloatFmt.sign (f : FloatFmt) (c : Nat) : Bool := c / 2 ^ (f.ebits + f.mbits) % 2 == 1

/-- A code with a sign. -/
def FloatFmt.withSign (f : FloatFmt) (neg : Bool) (c : Nat) : Nat := c + (if neg then 2 ^ (f.ebits + f.mbits) else 0)

/-- What a code stands for: a NaN, an infinity, or (-1)^neg x mant x 2^exp. -/
inductive FVal where
  | nan (neg signalling : Bool)
  | inf (neg : Bool)
  | fin (neg : Bool) (mant : Nat) (exp : Int)
  deriving DecidableEq, Repr

/-- R108: the value of a code. In f32, f16 and bf16 a NaN with a clear top fraction bit signals; every NaN of e4m3 and e5m2 is quiet. -/
def FloatFmt.decode (f : FloatFmt) (code : Nat) : FVal :=
  let neg := f.sign code
  let e := code / 2 ^ f.mbits % 2 ^ f.ebits
  let m := code % 2 ^ f.mbits
  let mag := code % 2 ^ (f.ebits + f.mbits)
  let value := if e = 0 then FVal.fin neg m (1 - (f.bias : Int) - f.mbits)
    else .fin neg (2 ^ f.mbits + m) ((e : Int) - f.bias - f.mbits)
  match f.special with
  | .ieee =>
    if e = 2 ^ f.ebits - 1 then
      if m = 0 then .inf neg else .nan neg (f.mbits != 2 && m < 2 ^ (f.mbits - 1))
    else value
  | .e4m3 => if mag = 0x7F then .nan neg false else value
  | .e2m1 => value

/-- R108: the value of an e8m0 code: 2^(E - 127), or NaN. -/
def decodeE8m0 (code : Nat) : FVal := if code = 0xFF then .nan false false else .fin false 1 ((code : Int) - 127)

/-- R110: DAZ reads a subnormal as zero of its sign. -/
def FloatFmt.daz (f : FloatFmt) (on : Bool) (code : Nat) : Nat :=
  if on && code / 2 ^ f.mbits % 2 ^ f.ebits == 0 then f.withSign (f.sign code) 0 else code

/-- A result and the flags it raises. -/
structure FRes where
  bits : Nat
  flags : Nat
  deriving DecidableEq, Repr

/-- The number of significant bits. -/
def bitLen (n : Nat) : Nat := if n = 0 then 0 else n.log2 + 1

/-- R110: rounds mant / 2^shift to a whole number: the number, and whether it differs. -/
def roundShift (rm : Rounding) (neg : Bool) (mant shift : Nat) : Nat × Bool :=
  let q := mant / 2 ^ shift
  let r := mant % 2 ^ shift
  let half := 2 ^ shift / 2
  let up := match rm with
    | .rne => decide (half < r) || (decide (r = half) && q % 2 == 1)
    | .rtz => false
    | .rup => !neg && r != 0
    | .rdn => neg && r != 0
  if r = 0 then (q, false) else (if up then q + 1 else q, true)

/-- Rounds mant x 2^exp to a multiple of 2^lsb: the multiple, and whether it differs. -/
def roundAt (rm : Rounding) (neg : Bool) (mant : Nat) (exp lsb : Int) : Nat × Bool :=
  if lsb ≤ exp then (mant * 2 ^ (exp - lsb).toNat, false) else roundShift rm neg mant (lsb - exp).toNat

/-- R109: what an overflow gives. -/
def FloatFmt.overflow (f : FloatFmt) (rm : Rounding) (neg : Bool) : FRes :=
  let toInf := match f.special, rm with
    | .ieee, .rne => true
    | .ieee, .rtz => false
    | .ieee, .rup => !neg
    | .ieee, .rdn => neg
    | _, _ => false
  { bits := f.withSign neg (if toInf then f.infCode else f.maxCode), flags := fOF ||| fNX }

/-- R109 to R111: rounds (-1)^neg x mant x 2^exp to a format. UF marks a result that is tiny after rounding and inexact; FTZ flushes a
subnormal result. -/
def FloatFmt.round (f : FloatFmt) (rm : Rounding) (ftz neg : Bool) (mant : Nat) (exp : Int) : FRes :=
  if mant = 0 then { bits := f.withSign neg 0, flags := 0 }
  else
    let e : Int := (bitLen mant : Int) - 1 + exp
    let emin : Int := 1 - (f.bias : Int)
    let lsb := max e emin - f.mbits
    let r := roundAt rm neg mant exp lsb
    let code := (lsb + f.mbits + f.bias - 1).toNat * 2 ^ f.mbits + r.1
    let free := roundAt rm neg mant exp (e - f.mbits)
    let tiny := decide (e < emin) && !(decide (e + 1 = emin) && free.1 == 2 ^ (f.mbits + 1))
    if f.maxCode < code then f.overflow rm neg
    else if ftz && code < 2 ^ f.mbits && code != 0 then { bits := f.withSign neg 0, flags := fUF ||| fNX }
    else { bits := f.withSign neg code, flags := (if r.2 then fNX else 0) ||| (if tiny && r.2 then fUF else 0) }

/-- R109: infinity of a format; e4m3 and e2m1 have none and take their largest value, with OF. -/
def FloatFmt.infinity (f : FloatFmt) (neg : Bool) : FRes :=
  match f.special with
  | .ieee => { bits := f.withSign neg f.infCode, flags := 0 }
  | _ => { bits := f.withSign neg f.maxCode, flags := fOF }

/-- The canonical NaN with a flag word. -/
def FloatFmt.nanRes (f : FloatFmt) (flags : Nat) : FRes := { bits := f.nan, flags := flags }

/-- R111: NV of a signalling NaN. -/
def nvOf : FVal → Nat
  | .nan _ true => fNV
  | _ => 0

def FVal.isNan : FVal → Bool
  | .nan _ _ => true
  | _ => false

def FVal.neg : FVal → FVal
  | .nan n q => .nan n q
  | .inf n => .inf (!n)
  | .fin n m e => .fin (!n) m e

/-- The sign of an exact zero sum of two values: theirs if they agree, else + (- under RDN). -/
def zeroSign (rm : Rounding) (a b : Bool) : Bool := if a = b then a else rm == .rdn

/-- A whole number times 2^e, from a signed magnitude. -/
def signedMant (neg : Bool) (m : Nat) : Int := if neg then -(m : Int) else m

/-- The exact sum of two finite values. -/
def sumFin (rm : Rounding) (na : Bool) (ma : Nat) (ea : Int) (nb : Bool) (mb : Nat) (eb : Int) : Bool × Nat × Int :=
  let e := min ea eb
  let v := signedMant na ma * 2 ^ (ea - e).toNat + signedMant nb mb * 2 ^ (eb - e).toNat
  if v = 0 then (if ma = 0 ∧ mb = 0 then zeroSign rm na nb else if rm == .rdn then true else false, 0, e)
  else (decide (v < 0), v.natAbs, e)

/-- The sum of two values, rounded once. -/
def fAddV (f : FloatFmt) (rm : Rounding) (ftz : Bool) (a b : FVal) : FRes :=
  match a, b with
  | .nan _ _, _ => f.nanRes (nvOf a ||| nvOf b)
  | _, .nan _ _ => f.nanRes (nvOf b)
  | .inf na, .inf nb => if na = nb then f.infinity na else f.nanRes fNV
  | .inf na, .fin _ _ _ => f.infinity na
  | .fin _ _ _, .inf nb => f.infinity nb
  | .fin na ma ea, .fin nb mb eb =>
    let r := sumFin rm na ma ea nb mb eb
    f.round rm ftz r.1 r.2.1 r.2.2

/-- The product of two values, exact: a value, and NV for 0 x infinity. -/
def mulV (a b : FVal) : FVal × Nat :=
  match a, b with
  | .nan n _, _ => (.nan n false, nvOf a ||| nvOf b)
  | _, .nan n _ => (.nan n false, nvOf b)
  | .inf na, .inf nb => (.inf (na != nb), 0)
  | .inf na, .fin nb m _ => if m = 0 then (.nan false false, fNV) else (.inf (na != nb), 0)
  | .fin na m _, .inf nb => if m = 0 then (.nan false false, fNV) else (.inf (na != nb), 0)
  | .fin na ma ea, .fin nb mb eb => (.fin (na != nb) (ma * mb) (ea + eb), 0)

/-- A value rounded once to a format. -/
def FloatFmt.ofVal (f : FloatFmt) (rm : Rounding) (ftz : Bool) : FVal → FRes
  | .nan _ s => f.nanRes (if s then fNV else 0)
  | .inf n => f.infinity n
  | .fin n m e => f.round rm ftz n m e

/-- The product of two values, rounded once. -/
def fMulV (f : FloatFmt) (rm : Rounding) (ftz : Bool) (a b : FVal) : FRes :=
  let p := mulV a b
  let r := f.ofVal rm ftz p.1
  { r with flags := r.flags ||| p.2 }

/-- a x b + c, rounded once. -/
def fFmaV (f : FloatFmt) (rm : Rounding) (ftz : Bool) (a b c : FVal) : FRes :=
  let p := mulV a b
  let r := fAddV f rm ftz p.1 c
  { r with flags := r.flags ||| p.2 ||| nvOf c }

/-- The quotient of two values, rounded once. -/
def fDivV (f : FloatFmt) (rm : Rounding) (ftz : Bool) (a b : FVal) : FRes :=
  match a, b with
  | .nan _ _, _ => f.nanRes (nvOf a ||| nvOf b)
  | _, .nan _ _ => f.nanRes (nvOf b)
  | .inf _, .inf _ => f.nanRes fNV
  | .inf na, .fin nb _ _ => f.infinity (na != nb)
  | .fin na _ _, .inf nb => { bits := f.withSign (na != nb) 0, flags := 0 }
  | .fin na ma ea, .fin nb mb eb =>
    if mb = 0 then
      if ma = 0 then f.nanRes fNV
      else { f.infinity (na != nb) with flags := (f.infinity (na != nb)).flags ||| fDZ }
    else
      -- enough quotient bits that one further bit can say whether anything is left over
      let sh := bitLen mb + f.mbits + 4
      let q := ma * 2 ^ sh / mb
      let sticky := if ma * 2 ^ sh % mb = 0 then 0 else 1
      f.round rm ftz (na != nb) (2 * q + sticky) (ea - eb - sh - 1)

/-- The whole square root of n, by bits from the top. -/
def isqrtAux (n : Nat) : Nat → Nat → Nat
  | 0, r => r
  | b + 1, r => if (r + 2 ^ b) * (r + 2 ^ b) ≤ n then isqrtAux n b (r + 2 ^ b) else isqrtAux n b r

def isqrt (n : Nat) : Nat := isqrtAux n (bitLen n / 2 + 1) 0

/-- The square root of a value, rounded once. -/
def fSqrtV (f : FloatFmt) (rm : Rounding) (ftz : Bool) (a : FVal) : FRes :=
  match a with
  | .nan _ s => f.nanRes (if s then fNV else 0)
  | .inf n => if n then f.nanRes fNV else f.infinity false
  | .fin n m e =>
    if m = 0 then { bits := f.withSign n 0, flags := 0 }
    else if n then f.nanRes fNV
    else
      let up := 2 * f.mbits + 8
      let sh := if (e - up) % 2 = 0 then up else up + 1
      let v := m * 2 ^ sh
      let r := isqrt v
      let sticky := if r * r = v then 0 else 1
      f.round rm ftz false (2 * r + sticky) ((e - sh) / 2 - 1)

/-- Order of two values that are no NaN: negative, zero or positive as a is below, equal to or above b; zeros are equal. -/
def cmpV (a b : FVal) : Int :=
  match a, b with
  | .inf na, .inf nb => (if na then -1 else 1) - (if nb then -1 else 1)
  | .inf na, _ => if na then -1 else 1
  | _, .inf nb => if nb then 1 else -1
  | .fin na ma ea, .fin nb mb eb =>
    let e := min ea eb
    signedMant na ma * 2 ^ (ea - e).toNat - signedMant nb mb * 2 ^ (eb - e).toNat
  | _, _ => 0

/-- The sign of a value. -/
def FVal.isNeg : FVal → Bool
  | .nan n _ => n
  | .inf n => n
  | .fin n _ _ => n

/-- R223: a stands below b in the order that puts -0 below +0. -/
def belowV (a b : FVal) : Bool :=
  let c := cmpV a b
  decide (c < 0) || (decide (c = 0) && a.isNeg && !b.isNeg)

end Sys2Proof.Machine
end

