-- ==== Sys2Proof/Machine/Cache.lean ====
section
/-! DEFINITION. The coherent path: level-1 caches, edge-cache slices (R203 to R205), translation (R206 to R208), and one access of a
headland thread to memory (R59, R60, R243). -/

namespace Sys2Proof.Machine

/-! ### Lines as numbers -/

/-- Bytes of a line: those of `data` where `mask` has a 1, else those of `base`. -/
def mergeBytes (base data mask : Nat) : Nat → Nat
  | 0 => 0
  | n + 1 => (if mask % 2 = 1 then data % 256 else base % 256) + 256 * mergeBytes (base / 256) (data / 256) (mask / 2) n

/-- A 128-byte line merged. -/
def mergeLine (base data mask : Nat) : Nat := mergeBytes base data mask 128

/-- R254: writes only the dirty bytes of a line to memory. -/
def writeDirty (m : List Host.Cell) (a data mask : Nat) : Nat → List Host.Cell
  | 0 => m
  | n + 1 =>
    let m' := if mask % 2 = 1 then Memory.set m a (BitVec.ofNat 8 data) else m
    writeDirty m' (a + 1) (data / 256) (mask / 2) n

/-- The mask of bytes [o, o + n) of a line. -/
def byteMask (o n : Nat) : Nat := (2 ^ n - 1) * 2 ^ o

/-- R203: the set and the slice of a physical address. -/
def sliceSet (pa : Nat) : Nat := bits pa 7 6
def sliceOf (pa : Nat) : Nat := State.edgeSlice pa

/-- The key of the set of a line in core `c`'s slices. -/
def setKey (c line : Nat) : Nat := c * 512 + sliceOf (line * 128) * 64 + sliceSet (line * 128)

namespace State

/-- The bytes of a line in hub memory (or in local memory, for the instruction cache). -/
def memLine (s : State) (line : Nat) : Nat := Memory.read s.mem (line * 128) 128

/-- R254: the dirty bytes of a line go to hub memory. -/
def hubWriteBack (s : State) (line data mask : Nat) : State := { s with mem := writeDirty s.mem (line * 128) data mask 128 }

/-- R361: hub memory at a physical address meets poison: its page is retired or its block poisoned. -/
def hubBad (s : State) (pa : Nat) : Bool := s.retired.contains (pa / 4096) || s.poisoned.contains (pa / 128)

/-- R340, R341, R361: POISON at a hub address, as the edge tile of its line reports it: the FLAGS of FREC0 say RETIRED where its page is marked so, and
SHARED if another tenant held the line (log entry 118). -/
def poisonCode (s : State) (pa : Nat) : Nat :=
  codePOISON + sourceEdge * 2 ^ 8 + pa / 128 * 128 * 2 ^ 32 + b2n (s.retired.contains (pa / 4096)) * 2 ^ flagRETIRED + b2n (s.shared.contains (pa / 4096)) * 2 ^ flagSHARED

/-! ### Slices (R203 to R205) -/

def set (s : State) (c line : Nat) : List WaySt := Table.getD s.slices (setKey c line) []
def setSet (s : State) (c line : Nat) (l : List WaySt) : State := { s with slices := Table.put s.slices (setKey c line) l }

/-- R204: the tenant's copy of a line in core `c`'s slices. -/
def sliceFind (s : State) (c tenant line : Nat) : Option WaySt :=
  List.find? (fun w => w.line == line && w.tenant == tenant) (s.set c line)

/-- R204: a hit makes the way the most recently used one. -/
def sliceTouch (s : State) (c : Nat) (w : WaySt) : State :=
  s.setSet c w.line (w :: (s.set c w.line).filter fun x => x.way != w.way)

/-- R204, R327: the way mask of a tenant's fills. -/
def wayMask (s : State) (c tenant : Nat) : Nat :=
  let p := s.partOf c
  if tenant = 0 then fld (s.part p).sways 0 16 else fld (s.place p ((s.placeOf p tenant).getD 0)).tways 0 16

/-- R204: the way that a fill takes: the lowest-numbered invalid way in the mask, else the least recently used way in the mask. -/
def victimWay (ways : List WaySt) (mask : Nat) : Option Nat :=
  match (List.range 16).find? fun i => bits mask i 1 == 1 && ways.all fun w => w.way != i with
  | some i => some i
  | none => (List.find? (fun w : WaySt => bits mask w.way 1 == 1) ways.reverse).map (·.way)

/-- R204: fills core `c`'s slice with a line; a dirty victim is written back first. With an empty mask nothing is filled, and the
second component says so. -/
def sliceFill (s : State) (c tenant line data dirty : Nat) : State × Bool :=
  let ways := s.set c line
  match victimWay ways (s.wayMask c tenant) with
  | none => (s, false)
  | some i =>
    let s1 := match List.find? (fun w : WaySt => w.way == i) ways with
      | some v => if v.dirty = 0 then s else s.hubWriteBack v.line v.data v.dirty
      | none => s
    (s1.setSet c line ({ way := i, line := line, tenant := tenant, data := data, dirty := dirty } ::
      ways.filter fun w => w.way != i), true)

/-- R335: a lookup of the tenant in slice `n` of core `c` hit or missed. -/
def countLookup (s : State) (c tenant line : Nat) (hit : Bool) : State :=
  let n := sliceOf (line * 128)
  match s.placeOf (s.partOf c) tenant with
  | none => s
  | some pl =>
    s.modCorePlace c pl fun x =>
      if hit then { x with hits := Table.put x.hits n ((Table.getD x.hits n 0 + 1) % 2 ^ 32) }
      else { x with misses := Table.put x.misses n ((Table.getD x.misses n 0 + 1) % 2 ^ 32) }

/-- The cores of the partition of core `c`. -/
def peers (s : State) (c : Nat) : List Nat :=
  let p := s.part (s.partOf c)
  (List.range numCores).filter fun x => p.hasCore x

/-! ### Level-1 data cache (R205) -/

/-- The tenant's copy of a line in core `c`'s data cache. -/
def l1Find (s : State) (c tenant line : Nat) : Option LineSt :=
  List.find? (fun l => l.line == line && l.tenant == tenant) (s.core c).l1d

/-- R205: a dirty line of a data cache goes down to the core's slice, or to hub memory where no way may be filled. -/
def l1WriteBack (s : State) (c : Nat) (l : LineSt) : State :=
  if l.dirty = 0 then s
  else match s.sliceFind c l.tenant l.line with
    | some w => s.sliceTouch c { w with data := mergeLine w.data l.data l.dirty, dirty := w.dirty ||| l.dirty }
    | none =>
      let r := s.sliceFill c l.tenant l.line (mergeLine (s.memLine l.line) l.data l.dirty) l.dirty
      if r.2 then r.1 else r.1.hubWriteBack l.line l.data l.dirty

/-- R205: puts a line into core `c`'s data cache as the most recently used one; of more than 4 lines of a set the least recently used
one is written back and dropped (log entry 9). -/
def l1Put (s : State) (c : Nat) (l : LineSt) : State :=
  let rest := (s.core c).l1d.filter fun x => !(x.line == l.line && x.tenant == l.tenant)
  let same := rest.filter fun x => x.line % 64 == l.line % 64
  if same.length < 4 then s.modCore c fun x => { x with l1d := l :: rest }
  else match same.getLast? with
    | none => s.modCore c fun x => { x with l1d := l :: rest }
    | some v =>
      (s.modCore c fun x => { x with l1d := l :: rest.filter fun y => !(y.line == v.line && y.tenant == v.tenant) }).l1WriteBack c v

/-- R205: takes copies of a line away from every cache of the partition but the keeper's own: with `all`, every copy, else the copies
that hold dirty bytes (and the copies above them). Without a keeper every tenant's copies go. Gives the dirty bytes and their mask. -/
def takeCopies (s : State) (c : Nat) (keeper : Option Nat) (line : Nat) (all : Bool) : State × Nat × Nat :=
  (s.peers c).foldl (fun (acc : State × Nat × Nat) x =>
    let st := acc.1
    let mine := fun (t : Nat) => x == c && keeper == some t
    let ways := st.set x line
    let l1s := (st.core x).l1d.filter fun l => l.line == line && !mine l.tenant
    let ws := ways.filter fun w => w.line == line && !mine w.tenant
    let dirtyOne := l1s.any (fun l => l.dirty != 0) || ws.any (fun w => w.dirty != 0)
    if !all && !dirtyOne then acc
    else
      let d1 := ws.foldl (fun (a : Nat × Nat) w => (mergeLine a.1 w.data w.dirty, a.2 ||| w.dirty)) acc.2
      let d2 := l1s.foldl (fun (a : Nat × Nat) l => (mergeLine a.1 l.data l.dirty, a.2 ||| l.dirty)) d1
      let st1 := if ws.isEmpty then st else st.setSet x line (ways.filter fun w => !(w.line == line && !mine w.tenant))
      let st2 := if l1s.isEmpty then st1 else
        st1.modCore x fun k => { k with l1d := k.l1d.filter fun l => !(l.line == line && !mine l.tenant) }
      (st2, d2)) (s, 0, 0)

/-- R205: a copy of the line in some slice of the partition. -/
def anySlice (s : State) (c line : Nat) : Option WaySt :=
  (s.peers c).findSome? fun x => List.find? (fun w => w.line == line) (s.set x line)

/-- R203 to R205, R335: an access of a tenant that reaches core `c`'s slice: the line's bytes, and the dirty bytes that could not be
kept in a slice. -/
def sliceAccess (s : State) (c tenant line : Nat) (forStore : Bool) : State × Nat × Nat :=
  match s.sliceFind c tenant line with
  | some w =>
    let r := (s.countLookup c tenant line true).takeCopies c (some tenant) line forStore
    let w' := { w with data := mergeLine w.data r.2.1 r.2.2, dirty := w.dirty ||| r.2.2 }
    (r.1.sliceTouch c w', w'.data, 0)
  | none =>
    let base := match s.anySlice c line with
      | some w => w.data
      | none => s.memLine line
    let r := (s.countLookup c tenant line false).takeCopies c (some tenant) line forStore
    let data := mergeLine base r.2.1 r.2.2
    let f := r.1.sliceFill c tenant line data r.2.2
    (f.1, data, if f.2 then 0 else r.2.2)

/-- R205, R207: an access by a walker or an instruction fetch of core `c`: it reaches the slice, and sees the dirty bytes that the tenant's own
copy in the core's data cache holds. -/
def lookupLine (s : State) (c tenant line : Nat) : State × Nat × Nat :=
  let r := s.sliceAccess c tenant line false
  match s.l1Find c tenant line with
  | some l => (r.1, mergeLine r.2.1 l.data l.dirty, r.2.2)
  | none => r

/-- R205: the tenant's line in core `c`'s data cache, filled from below where it is not there. -/
def l1Access (s : State) (c tenant line : Nat) (forStore : Bool) : State × LineSt :=
  match s.l1Find c tenant line with
  | some l =>
    if forStore then
      let r := s.takeCopies c (some tenant) line true
      let l' := { l with data := mergeLine l.data r.2.1 r.2.2, dirty := l.dirty ||| r.2.2 }
      (r.1.l1Put c l', l')
    else (s.l1Put c l, l)
  | none =>
    let r := s.sliceAccess c tenant line forStore
    let l : LineSt := { line := line, tenant := tenant, data := r.2.1, dirty := r.2.2 }
    (r.1.l1Put c l, l)

/-- R205: `n` bytes at a physical address through the coherent path. -/
def coherentRead (s : State) (c tenant pa n : Nat) : State × Nat :=
  let r := s.l1Access c tenant (pa / 128) false
  (r.1, bits r.2.data (8 * (pa % 128)) (8 * n))

/-- R227: a write of a line wakes the threads of core `c`'s partition that sleep on a word of it: they read it again next. -/
def wakeLine (s : State) (c line : Nat) : State :=
  { s with threads := s.threads.map fun e =>
      let t := e.2
      if t.run == .waiting && (t.wait.code == .wait || t.wait.code == .waite) && t.wait.pa / 128 == line && s.partOf (coreOf e.1) == s.partOf c then
        (e.1, { t with wait := { t.wait with last := none } })
      else e }

/-- R205, R227: stores `n` bytes at a physical address through the coherent path. -/
def coherentWrite (s : State) (c tenant pa n v : Nat) : State :=
  let r := (s.wakeLine c (pa / 128)).l1Access c tenant (pa / 128) true
  let o := pa % 128
  r.1.l1Put c { r.2 with data := mergeLine r.2.data (v % 256 ^ n * 256 ^ o) (byteMask o n), dirty := r.2.dirty ||| byteMask o n }

/-- R224, R231: cleans and invalidates a line in every cache of the partition: its dirty bytes go to hub memory. -/
def flushLine (s : State) (c line : Nat) : State :=
  let r := s.takeCopies c none line true
  if r.2.2 = 0 then r.1 else r.1.hubWriteBack line r.2.1 r.2.2

end State

/-! ### Translation (R206 to R208) -/

/-- What an access needs (R207). -/
inductive Need where
  | load | store | atomic | fetch
  deriving DecidableEq, Repr

/-- R207: permission bits of an entry, as in the entry's bits [4:0]: V, R, W, X, UC. -/
def permOk (perms : Nat) : Need → Bool
  | .load => bits perms 1 1 == 1
  | .store => bits perms 2 1 == 1
  | .atomic => bits perms 1 1 == 1 && bits perms 2 1 == 1
  | .fetch => bits perms 3 1 == 1

/-- R206: the width of a leaf's page offset at each level. -/
def pageBits (level : Nat) : Nat := 12 + 9 * (3 - level)

/-- R206: the index of an address in the table of a level. -/
def tableIndex (va level : Nat) : Nat :=
  if level = 0 then bits va 39 18 else bits va (pageBits level) 9

/-- R208: a TLB entry covers an address. -/
def TlbEntry.covers (e : TlbEntry) (part asid va : Nat) : Bool :=
  e.part == part && e.asid == asid && e.vpn == bits va (pageBits e.level) (57 - pageBits e.level)

namespace State

/-- R207: the page-table walk: a leaf, or PAGE; R361: POISON where an entry stands in a retired page or a poisoned block. Entries are read through
the coherent path as lookups of the tenant (R335). What a request or a generator makes of a POISON is log entry 119. -/
def walk (s : State) (c tenant root asid va : Nat) : Nat → Nat → State × Except Nat TlbEntry
  | 0, _ => (s, .error codePAGE)
  | fuel + 1, level =>
    let a := root + 8 * tableIndex va level
    if s.hubBad a then (s, .error (s.poisonCode a)) else
    let r := s.lookupLine c tenant (a / 128)
    let e := bits r.2.1 (8 * (a % 128)) 64
    let st := if r.2.2 = 0 then r.1 else r.1.hubWriteBack (a / 128) r.2.1 r.2.2
    if bits e 0 1 = 0 ∨ bits e 52 12 ≠ 0 ∨ bits e 5 7 ≠ 0 then (st, .error codePAGE)
    else if bits e 1 3 = 0 then
      if level = 3 then (st, .error codePAGE) else walk st c tenant (bits e 12 40 * 4096) asid va fuel (level + 1)
    else if level = 0 ∨ (bits e 2 1 = 1 ∧ bits e 1 1 = 0) ∨ bits e 12 (pageBits level - 12) ≠ 0 then (st, .error codePAGE)
    else (st, .ok { part := s.partOf c, asid := asid, vpn := bits va (pageBits level) (57 - pageBits level), level := level,
                     ppn := bits e (pageBits level) (52 - pageBits level), perms := bits e 0 5 })

/-- R208, R334: keeps a translation in the die's last-level TLB: at the tenant's quota it replaces the tenant's least recently used
unpinned entry, in a full TLB the least recently used unpinned entry. -/
def llInsert (s : State) (die quota : Nat) (e : TlbEntry) : State :=
  let l := Table.getD s.llTlb die []
  let own := l.filter fun x => x.part == e.part && x.asid == e.asid
  let dropLast := fun (p : TlbEntry → Bool) => match l.reverse.find? fun x => x.pins == 0 && p x with
    | some v => some (l.filter fun x => x != v)
    | none => none
  let l' := if quota ≠ 0 ∧ quota ≤ own.length then (dropLast fun x => x.part == e.part && x.asid == e.asid)
    else if 4096 ≤ l.length then dropLast fun _ => true
    else some l
  match l' with
  | some r => { s with llTlb := Table.put s.llTlb die (e :: r) }
  | none => s

/-- R334: the last-level TLB quota of a thread's translations: none in supervisor mode. -/
def tlbQuota (s : State) (p place : Nat) : Nat := if place = 0 then 0 else fld (s.place p place).tquota 32 13

/-- R206 to R208: the leaf that maps an address, from the first-level TLB, the last-level TLB or a walk; or the code of the walk's failure. -/
def findLeaf (s : State) (c tenant place root asid va : Nat) : State × Except Nat TlbEntry :=
  let die := dieOfCore c
  let l1Keep := fun (st : State) (e : TlbEntry) => st.modCore c fun k =>
    { k with tlb := (e :: k.tlb.filter fun x => x != e).take 64 }
  if 2 ^ 57 ≤ va then (s, .error codePAGE)
  else match List.find? (fun e => e.covers (s.partOf c) asid va) (s.core c).tlb with
    | some e => (l1Keep s e, .ok e)
    | none =>
      match List.find? (fun e => !e.stale && e.covers (s.partOf c) asid va) (Table.getD s.llTlb die []) with
      | some e =>
        let l := Table.getD s.llTlb die []
        let s1 := { s with llTlb := Table.put s.llTlb die (e :: l.filter fun x => x != e) }
        (l1Keep s1 { e with pins := 0 }, .ok e)
      | none =>
        let r := s.walk c tenant root asid va 4 0
        match r.2 with
        | .error code => (r.1, .error code)
        | .ok e => (l1Keep (r.1.llInsert die (s.tlbQuota (s.partOf c) place) e) e, .ok e)

/-- R207: the physical address that a leaf gives. -/
def leafPa (e : TlbEntry) (va : Nat) : Nat := e.ppn * 2 ^ pageBits e.level + va % 2 ^ pageBits e.level

/-- R206 to R208: translates an address with given root, ASID and tenant on core `c`: the physical address and whether the page is
uncached, or the fault code. -/
def translate (s : State) (c tenant place root asid va : Nat) (need : Need) : State × Except Nat (Nat × Bool) :=
  let r := s.findLeaf c tenant place root asid va
  match r.2 with
  | .error code => (r.1, .error code)
  | .ok e => if permOk e.perms need then (r.1, .ok (leafPa e va, bits e.perms 4 1 == 1)) else (r.1, .error codeACCESS)

/-! ### One access of a headland thread (R21, R59, R243) -/

/-- The tenant whose lines an access uses: 0 in supervisor mode (R327). -/
def lineTenant (s : State) (k : Nat) : Nat := if (s.thread k).mode then 0 else (s.thread k).tenant

/-- R21: a tenant's local window on core `c`: its base and size in bytes; 0 bytes where the place holds none (R325). -/
def window (s : State) (c place : Nat) : Nat × Nat :=
  let x := s.corePlace c place
  if x.held then (fld x.tlocal 12 7 * 4096, (fld x.tlocal 20 7 + 1) * 4096) else (0, 0)

end State

/-- A resolved address: where the bytes stand, whether that is local memory, and whether the page is uncached. -/
structure Target where
  addr : Nat
  isLocal : Bool
  uncached : Bool
  deriving DecidableEq, Repr

namespace State

/-- The place whose windows thread `k` uses: 0 in supervisor mode. -/
def placeOfThread (s : State) (k : Nat) : Nat :=
  if (s.thread k).mode then 0 else (s.placeOf (s.partOf (coreOf k)) (s.thread k).tenant).getD 0

/-- R59, R361, R359: the bytes of a load or fetch are poisoned. A buffered store over the whole of a bad local word has cleared its error for
the core's own threads (R243). -/
def loadPoisoned (s : State) (t : Target) (n : Nat) : Bool :=
  if t.isLocal then s.badWords.any fun w => (w == t.addr / 8 || w == (t.addr + n - 1) / 8) &&
    !(s.core ((t.addr - 2 ^ 52) / localBytes)).stores.any fun e => e.addr == 8 * w && e.size == 8
  else s.hubBad t.addr

/-- R340, R361: POISON of a load or fetch at a target. -/
def poisonAt (s : State) (t : Target) : Nat := if t.isLocal then codePOISON else s.poisonCode t.addr

/-- R206, R327: the page-table root of a thread's translated accesses. -/
def rootOf (s : State) (k : Nat) : Nat :=
  let p := s.partOf (coreOf k)
  fld (if (s.thread k).mode then (s.part p).sptbase else (s.corePlace (coreOf k) (s.placeOfThread k)).ptbase) 21 31 * 2 ^ 21

/-- R21, R59, R206, R377: checks and translates an aligned address of thread `k`. The host window is accessed at system scope, past the slices, as an
uncached page is. -/
def resolve (s : State) (k : Nat) (va : Word) (need : Need) : State × Except Nat Target :=
  let c := coreOf k
  let a := va.toNat
  let t := s.thread k
  if a < 0x100000 then
    if t.mode then
      if a < localBytes then (s, .ok { addr := localBase c + a, isLocal := true, uncached := false }) else (s, .error codeBOUND)
    else
      let w := s.window c (s.placeOfThread k)
      if a < w.2 then (s, .ok { addr := localBase c + w.1 + a, isLocal := true, uncached := false }) else (s, .error codeBOUND)
  else
    let r := s.translate c (s.lineTenant k) (s.placeOfThread k) (s.rootOf k) (s.asidOf k) a need
    (r.1, r.2.map fun x => { addr := x.1, isLocal := false, uncached := x.2 || decide (hubMemory ≤ x.1) })

/-- R243: the bytes at a target as core `c`'s threads see them: memory or the coherent path, and over it the core's buffered stores,
oldest first. -/
def overlay (stores : List StoreSt) (a n base : Nat) : Nat :=
  stores.foldl (fun v st =>
    (List.range st.size).foldl (fun v i =>
      let b := st.addr + i
      if a ≤ b ∧ b < a + n then
        mergeBytes v (bits st.value (8 * i) 8 * 256 ^ (b - a)) (2 ^ (b - a)) n
      else v) v) base

/-- R60, R243: reads `n` bytes at a target for a tenant of core `c`. -/
def readTarget (s : State) (c tenant : Nat) (t : Target) (n : Nat) : State × Nat :=
  let r := if t.isLocal || t.uncached then (s, Memory.read s.mem t.addr n) else s.coherentRead c tenant t.addr n
  (r.1, overlay (s.core c).stores t.addr n r.2)

/-- R366: the first nonzero write to BEAT arms the core's watchdog, which samples it every 2^24 cycles. -/
def armBeat (s : State) (c : Nat) (t : Target) (n : Nat) : State :=
  let beat := localBase c + 0x7F010
  if t.isLocal && !(s.core c).beatArmed && decide (t.addr < beat + 8) && decide (beat < t.addr + n) && Memory.read s.mem beat 8 != 0 then
    s.modCore c fun x => { x with beatArmed := true, beatAt := s.cycle + 2 ^ 24 }
  else s

/-- R227, R243: performs `n` bytes of a headland thread's store at a target. -/
def writeTarget (s : State) (c tenant : Nat) (t : Target) (n v : Nat) : State :=
  if t.isLocal || t.uncached then
    let s0 := if t.uncached then s.wakeLine c (t.addr / 128) else s
    let s1 := State.armBeat { s0 with mem := Memory.write s0.mem t.addr n v } c t n
    if n = 8 then { s1 with badWords := s1.badWords.filter fun w => w != t.addr / 8 } else s1
  else s.coherentWrite c tenant t.addr n v

/-- R243: performs a buffered store. -/
def performStore (s : State) (c : Nat) (st : StoreSt) : State :=
  s.writeTarget c st.tenant { addr := st.addr, isLocal := decide (2 ^ 52 ≤ st.addr), uncached := st.uncached } st.size st.value

/-- R69, R73, R243: performs every buffered store of core `c`, oldest first. -/
def drainCore (s : State) (c : Nat) : State :=
  let all := (s.core c).stores
  all.foldl (fun st e => st.performStore c e) (s.modCore c fun x => { x with stores := [] })

end State

end Sys2Proof.Machine
end

