-- ==== Sys2Proof/Machine/LoadStore.lean ====
section
/-! DEFINITION. LD and ST (R59, R60), the returning load (R60), the draining store (R243), and CLEAN, INVAL and CLINV (R231). -/

namespace Sys2Proof.Machine

/-- R35: the bytes of an access. -/
def sizeBytes : MemSize → Nat
  | .byte => 1
  | .half => 2
  | .word => 4
  | .dword => 8

/-- R35: sext(v, 8n) or zext(v, 8n). -/
def extendLoad (sx : Bool) (n v : Nat) : Word :=
  if sx && bits v (8 * n - 1) 1 == 1 then wd (2 ^ 64 - 256 ^ n + v % 256 ^ n) else wd (v % 256 ^ n)

/-- The word of an instruction, for its fault record (R341). -/
def wordOf (i : Instr) : Word32 := (encode i).getD 0

/-- R31: the address of LD and ST: ga + sext(offset13, 13). -/
def memAddr (s : State) (a : Reg) (off : BitVec 13) : Word := s.gpr a + off.signExtend 64

namespace State

/-- R360, R361: POISON of a headland load or fetch. -/
def raisePoison (s : State) (word : Word32) (va : Word) (t : Target) : Out := s.raise word (s.poisonAt t) va

/-- R60: a load from translated memory is on its way; a fifth one lets the oldest return first. -/
def issueLoad (s : State) (d : Reg) (v : Word) (lat : Nat) : State :=
  let t := s.cur
  let s1 := if t.loads.length < 4 then s
    else match t.loads with
      | [] => s
      | l :: rest => (s.setGpr l.gd l.value).modMe fun x => { x with loads := rest }
  s1.modMe fun x => { x with loads := x.loads ++ [{ gd := d, value := v, readyAt := s.cycle + lat }] }

end State

/-- R53: cycles of a load from local memory. -/
def localLatency : Nat := 2

/-- LD, R59: the checks in their order, then the bytes at the address. Local memory answers at once; translated memory through an
outstanding load, which LOAD_RETURN writes. -/
def execLd (sz : MemSize) (sx : Bool) (d a : Reg) (off : BitVec 13) (s : State) : Out :=
  let va := memAddr s a off
  let n := sizeBytes sz
  let word := wordOf (.ld sz sx d a off)
  if va.toNat % n ≠ 0 then s.raise word codeMISALIGN va
  else
    let r := s.resolve s.me va .load
    match r.2 with
    | .error code => r.1.raise word code va
    | .ok t =>
      if r.1.loadPoisoned t n then r.1.raisePoison word va t
      else
        let x := r.1.readTarget s.myCore (s.lineTenant s.me) t n
        let v := extendLoad sx n x.2
        if t.isLocal then x.1.finishLate d v localLatency else .next ((x.1.issueLoad d v 3).advance)

/-- R243: puts a store into the core's store buffer; a full buffer performs its oldest store first. -/
def bufferStore (s : State) (t : Target) (n v : Nat) : State :=
  let c := s.myCore
  let entry : StoreSt := { thread := s.me, addr := t.addr, size := n, value := v % 256 ^ n, tenant := s.lineTenant s.me,
                           uncached := t.uncached, since := s.cycle }
  let s1 := if (s.core c).stores.length < 8 then s
    else match (s.core c).stores with
      | [] => s
      | e :: rest => (s.modCore c fun x => { x with stores := rest }).performStore c e
  s1.modCore c fun x => { x with stores := x.stores ++ [entry] }

/-- ST, R59, R243: the checks in their order, then the bytes enter the core's store buffer. -/
def execSt (sz : MemSize) (d a : Reg) (off : BitVec 13) (s : State) : Out :=
  let va := memAddr s a off
  let n := sizeBytes sz
  let word := wordOf (.st sz d a off)
  if va.toNat % n ≠ 0 then s.raise word codeMISALIGN va
  else
    let r := s.resolve s.me va .store
    match r.2 with
    | .error code => r.1.raise word code va
    | .ok t => .next ((bufferStore r.1 t n (s.gpr d).toNat).advance)

/-- LOAD_RETURN, R60: the oldest outstanding load of the thread returns its value to the register. -/
def execLoadReturn (s : State) : Out :=
  let k := s.focus.thread
  match (s.thread k).loads with
  | [] => .refused .notEnabled
  | l :: rest => .next ((s.setGprOf k l.gd l.value).modThread k fun x => { x with loads := rest })

/-- R243, R248: an older buffered store that must be performed before this one: it touches a byte of this one, or both are on uncached pages
of one target. -/
def overlaps (x y : StoreSt) : Bool :=
  (decide (x.addr < y.addr + y.size) && decide (y.addr < x.addr + x.size)) || (x.uncached && y.uncached)

/-- STORE_BUFFER_DRAIN, R243: a buffered store is performed into the memory below. Stores to one address keep their order. -/
def execStoreBufferDrain (s : State) : Out :=
  let c := s.focus.core
  let i := s.focus.index
  let l := (s.core c).stores
  match l[i]? with
  | none => .refused .notEnabled
  | some e =>
    if (l.take i).any fun x => overlaps x e then .refused .notEnabled
    else .next ((s.modCore c fun x => { x with stores := l.eraseIdx i }).performStore c e)

/-! ### Cache maintenance (R231) -/

/-- What a CACHE instruction does to a copy. -/
structure CacheOp where
  clean : Bool
  drop : Bool

namespace State

/-- R231: acts on this core's copies, filled by the tenant, of the lines in [lo, hi]. -/
def l1Maintain (s : State) (c tenant lo hi : Nat) (op : CacheOp) : State :=
  let hit := fun (l : LineSt) => l.tenant == tenant && decide (lo ≤ l.line) && decide (l.line ≤ hi)
  let mine := (s.core c).l1d.filter hit
  let s1 := if op.clean then
      (mine.foldl (fun (st : State) l => st.l1WriteBack c l) s).modCore c fun k =>
        { k with l1d := k.l1d.map fun l => if hit l then { l with dirty := 0 } else l }
    else s
  if op.drop then
    s1.modCore c fun k => { k with l1d := k.l1d.filter fun l => !hit l, l1i := k.l1i.filter fun l => !hit l }
  else s1

/-- R231: acts on every slice copy of the partition, filled by the tenant, of the lines in [lo, hi]. -/
def edgeMaintain (s : State) (c tenant lo hi : Nat) (op : CacheOp) : State :=
  let hit := fun (w : WaySt) => w.tenant == tenant && decide (lo ≤ w.line) && decide (w.line ≤ hi)
  let keys := (s.slices.map (·.1)).filter fun key => (s.peers c).contains (key / 512)
  keys.foldl (fun (st : State) key =>
    let ways := Table.getD st.slices key []
    let st1 := if op.clean then
        (ways.filter fun w => hit w && w.dirty != 0).foldl (fun (x : State) w => x.hubWriteBack w.line w.data w.dirty) st
      else st
    let ways' := if op.drop then ways.filter fun w => !hit w
      else if op.clean then ways.map fun w => if hit w then { w with dirty := 0 } else w
      else ways
    { st1 with slices := Table.put st1.slices key ways' }) s

/-- R231: acts on the lines [lo, hi] at a level. -/
def maintain (s : State) (c tenant lo hi : Nat) (lvl : CacheLevel) (op : CacheOp) : State :=
  match lvl with
  | .l1 => s.l1Maintain c tenant lo hi op
  | .edge => s.edgeMaintain c tenant lo hi op
  | .all => (s.l1Maintain c tenant lo hi op).edgeMaintain c tenant lo hi op

/-- R61, R231: the page at `va`, of which [from_, to_] lies in the range. Local addresses have no data copy; their instruction-cache
copies are dropped (log entry 10). A page without a valid leaf and a UC page are skipped. -/
def maintainPage (s : State) (k from_ to_ : Nat) (lvl : CacheLevel) (op : CacheOp) : State :=
  let c := coreOf k
  if from_ < 0x100000 then
    if op.drop && lvl != .edge then
      match (s.resolve k (wd from_) .load).2 with
      | .ok t =>
        s.modCore c fun x => { x with l1i := x.l1i.filter fun l =>
          !(decide (t.addr / 128 ≤ l.line) && decide (l.line ≤ (t.addr + (to_ - from_)) / 128)) }
      | .error _ => s
    else s
  else
    let r := s.findLeaf c (s.lineTenant k) (s.placeOfThread k) (s.rootOf k) (s.asidOf k) from_
    match r.2 with
    | .error _ => r.1
    | .ok e =>
      if bits e.perms 4 1 = 1 then r.1
      else r.1.maintain c (s.lineTenant k) (leafPa e from_ / 128) (leafPa e to_ / 128) lvl op

/-- R231: page by page over `n` pages from page number `page`. -/
def maintainPages (s : State) (k lo hi : Nat) (lvl : CacheLevel) (op : CacheOp) : Nat → Nat → State
  | 0, _ => s
  | n + 1, page =>
    maintainPages (s.maintainPage k (max lo (page * 4096)) (min hi (page * 4096 + 4095)) lvl op) k lo hi lvl op n (page + 1)

end State

/-- R231: a CACHE instruction over ga to ga + gb - 1. The page faults come first, then every line of the range. -/
def cacheOp (word : Word32) (lvl : CacheLevel) (op : CacheOp) (a b : Reg) (s : State) : Out :=
  let lo := (s.gpr a).toNat
  let n := (s.gpr b).toNat
  if n = 0 then .next s.advance
  else
    let hi := lo + n - 1
    if 2 ^ 57 ≤ hi then s.raise word codePAGE (wd (max lo (2 ^ 57)))
    else .next ((s.maintainPages s.me lo hi lvl op (hi / 4096 - lo / 4096 + 1) (lo / 4096)).advance)

/-- CLEAN, R231. -/
def execClean (lvl : CacheLevel) (a b : Reg) (s : State) : Out :=
  cacheOp (wordOf (.clean lvl a b)) lvl { clean := true, drop := false } a b s

/-- INVAL, R231. -/
def execInval (lvl : CacheLevel) (a b : Reg) (s : State) : Out :=
  cacheOp (wordOf (.inval lvl a b)) lvl { clean := false, drop := true } a b s

/-- CLINV, R231, R61. -/
def execClinv (lvl : CacheLevel) (a b : Reg) (s : State) : Out :=
  cacheOp (wordOf (.clinv lvl a b)) lvl { clean := true, drop := true } a b s

end Sys2Proof.Machine
end

