-- ==== Sys2Proof/Machine/Rotation.lean ====
section
/-! DEFINITION. The rotation table (R328, R329): the check of an armed table, when slots and guards begin and end, and SLOTINFO. -/

namespace Sys2Proof.Machine

namespace State

/-- R324: the valid entries of a table, by entry number. -/
def validEntries (t : Table Word) : List (Nat × Word) := t.filter fun e => rotValid e.2

/-- R328: two entries, the first with the lower START, hold a rank in common. -/
def overlap (e f : Word) : Bool := decide (rotStart f ≤ rotEnd e) && decide (rotStart f ≤ rotEnd f)

/-- R328: valid entries stand in increasing START order and do not overlap. -/
def ordered : List (Nat × Word) → Bool
  | [] => true
  | e :: r => (r.all fun f => decide (rotStart e.2 < rotStart f.2) && !overlap e.2 f.2) && ordered r

/-- R328, check 6: the owner's local window on every core is at least 8 KiB; its scratchpad window in every element at least 36 KiB
(the element check is `smallScratch`). -/
def smallLocal (s : State) (p t : Nat) : Bool :=
  match s.placeOf p t with
  | none => true
  | some pl => (List.range numCores).any fun c => (s.part p).hasCore c && decide ((s.window c pl).2 < 8192)

/-- R328: ARMST of a submitted table; 0 means accepted. `smallScratch t` says that check 6 fails in some element. -/
def armCheck (s : State) (p : Nat) (smallScratch : Nat → Bool) : Nat :=
  let es := validEntries (s.part p).shadow
  let known := fun t => t == 0 || (s.placeOf p t).isSome
  if !ordered es then 1
  else if es.any fun e => rotStart e.2 % 8 != 0 || (rotEnd e.2 + 1) % 8 != 0 then 2
  else if es.any fun e => decide (rotEnd e.2 + 1 - rotStart e.2 < 64) then 3
  else if es.any fun e => !known (rotOwner e.2) || !known (rotDonee e.2) then 4
  else if es.any fun e => rotDonee e.2 != 0 && rotDonee e.2 == rotOwner e.2 then 5
  else if es.any fun e => rotOwner e.2 != 0 && (s.smallLocal p (rotOwner e.2) || smallScratch (rotOwner e.2)) then 6
  else 0

/-- R329: the last rank of the stretch of ranks around `c` that one entry, or no entry, holds. -/
def stretchEnd (s : State) (p c : Nat) : Nat :=
  if (s.part p).on then
    match s.entryAt p c with
    | some e => rotEnd e.2
    | none => ((validEntries (s.part p).active).filter fun e => decide (c < rotStart e.2)).foldl
        (fun m e => min m (rotStart e.2 - 1)) 4095
  else 4095

/-- R328: the tenant's ranks change between two sets of rotation entries, `none` standing for SOLE. -/
def ranksChange (old new : Option (Table Word)) (oldSole newSole t : Nat) : Bool :=
  let owner := fun (tb : Option (Table Word)) (sole c : Nat) => match tb with
    | some es => match List.find? (fun e : Nat × Word => rotValid e.2 && decide (rotStart e.2 ≤ c) && decide (c ≤ rotEnd e.2)) es with
      | some e => rotOwner e.2
      | none => 0
    | none => sole
  (List.range 512).any fun i => (owner old oldSole (8 * i) == t) != (owner new newSole (8 * i) == t)

/-- R328: what waits for the coming wrap changes the ranks of tenant `t`. -/
def rankPending (s : State) (p t : Nat) : Bool :=
  let x := s.part p
  let old := if x.on then some x.active else none
  let new := if (validEntries x.armed).isEmpty then none else some x.armed
  if x.arm then ranksChange old new x.soleNow.toNat x.sole.toNat t
  else !x.on && x.sole != x.soleNow && (t == x.sole.toNat || t == x.soleNow.toNat)

/-- R191, R196, R363: a ride is over at the boundary before step `now`: it has made every visit, and a second pass where a rank was refused. -/
def rideOver (r : RiderSt) (now : Nat) : Bool :=
  r.held.isEmpty && r.again.isEmpty && decide (r.s0 + (if r.refused.isEmpty then 4096 else 8192) ≤ now)

/-- R328: an accepted table, or a written SOLE, waits for a wrap. -/
def tableWaits (s : State) (p : Nat) : Bool := (s.part p).arm || (!(s.part p).on && (s.part p).sole != (s.part p).soleNow)

/-- R328: a rider, of a tenant whose ranks change, that will be aboard, or about to board, at the coming wrap, as its ride stands now (log entry 135). -/
def staysAboard (s : State) (p : Nat) (r : RiderSt) : Bool :=
  r.part == p && r.phase != .waiting && r.tenant != 0 && s.rankPending p r.tenant &&
    !(r.phase == .aboard && (r.cancelled || rideOver r ((s.passNo + 1) * 4096)))

/-- R328: a rider lets what waits pass over the coming wrap. -/
def wrapHeldUp (s : State) (p : Nat) : Bool := s.riders.any fun r => s.staysAboard p r.2

/-- R328, R353: what waits takes effect at the coming wrap. -/
def wrapPending (s : State) (p : Nat) : Bool := s.tableWaits p && (s.part p).armSkip != some s.passNo && !s.wrapHeldUp p

/-- R328, R329: the tenant that runs at rank 0 once what waits has taken effect. -/
def runningAfterWrap (s : State) (p : Nat) : Nat :=
  let x := s.part p
  if x.arm then
    if (validEntries x.armed).isEmpty then x.sole.toNat
    else match List.find? (fun e => rotStart e.2 == 0) (validEntries x.armed) with
      | some e => rotOwner e.2
      | none => 0
  else if x.on then s.ownerAt p 0 else x.sole.toNat

/-- R329, R333: steps from the start of the step with cursor `c` to the next boundary at which the running tenant changes. A donation lasts no longer
than the slot at the cursor. -/
def stepsToEdge (s : State) (p : Nat) : Nat → Nat → Nat → Option Nat
  | 0, _, _ => none
  | fuel + 1, c, acc =>
    let e := s.stretchEnd p c
    let acc' := acc + (e + 1 - c)
    let now := s.running p
    if e = 4095 then
      if (if s.wrapPending p then s.runningAfterWrap p else s.ownerAt p 0) ≠ now then some acc'
      else if s.wrapPending p then none
      else stepsToEdge s p fuel 0 acc'
    else if s.ownerAt p (e + 1) ≠ now then some acc'
    else stepsToEdge s p fuel (e + 1) acc'

/-- Cycles from now to the boundary that ends the n-th step from here (n counts the current step as the first). -/
def cyclesTo (s : State) (n : Nat) : Nat := n * s.stepLen - s.stepCyc

/-- R333: cycles to a donation edge that has not come. -/
def donationIn (s : State) (p : Nat) : Option Nat :=
  match (s.part p).donation with
  | some d => if d.inForce then none
    else some (s.cyclesTo ((d.pass * 4096 + d.cursor) - (s.passNo * 4096 + s.cursor)))
  | none => none

/-- R330: cycles to the next slot edge, or donation edge, of the running tenant. -/
def edgeIn (s : State) (p : Nat) : Option Nat :=
  match (s.stepsToEdge p 130 s.cursor 0).map s.cyclesTo, s.donationIn p with
  | some a, some b => some (min a b)
  | some a, none => some a
  | none, b => b

/-- R330: a guard is 1024 cycles long. -/
def guardCycles : Nat := 1024

/-- R328: cycles to the next wrap of the cursor to 0. -/
def wrapIn (s : State) : Nat := s.cyclesTo (4096 - s.cursor)

/-- R230, R353: cycles to the guard of the current slot, or of the wrap at which an accepted table changes ranks. -/
def guardIn (s : State) (p : Nat) : Option Nat :=
  match s.edgeIn p, s.wrapPending p with
  | some a, true => some (min a s.wrapIn - guardCycles)
  | some a, false => some (a - guardCycles)
  | none, true => some (s.wrapIn - guardCycles)
  | none, false => none

/-- R23: SLOTINFO of thread `k`. Where no entry holds the cursor, its fields are as log entry 17 says. -/
def slotinfo (s : State) (k : Nat) : Word :=
  let p := s.partOf (coreOf k)
  let x := s.part p
  let own := (s.thread k).tenant != 0 && (s.thread k).tenant == s.running p
  match s.entryAt p s.cursor with
  | some (n, w) =>
    wd (b2n (s.donated p n) * 2 ^ 46 + b2n x.inGuard * 2 ^ 45 + b2n own * 2 ^ 44 + n * 2 ^ 38 + rotOwner w * 2 ^ 24 +
      rotEnd w * 2 ^ 12 + rotStart w)
  | none => wd (b2n x.inGuard * 2 ^ 45 + b2n own * 2 ^ 44 + s.running p * 2 ^ 24)

end State

end Sys2Proof.Machine
end

