-- ==== Sys2Proof/Machine/Csr.lean ====
section
/-! DEFINITION. The CSR spaces (R20, R22 to R24, R323 to R325), the CSR instructions (R66, R67) and the CSR writes that have effects of
their own (R209, R228, R325, R328, R334, R335, R357). -/

namespace Sys2Proof.Machine

/-! ### Which indices exist (R20, R22, R323) -/

def tenantCsr (n : Nat) : Bool :=
  n ≤ 5 || (0x10 ≤ n && n ≤ 0x14) || (0x20 ≤ n && n ≤ 0x27) || n == 0x30 || n == 0x31 || n == 0x40 || (0x50 ≤ n && n ≤ 0x60) ||
  (0x70 ≤ n && n ≤ 0x7F)

def supervisorCsr (n : Nat) : Bool :=
  (0x100 ≤ n && n ≤ 0x105) || (0x108 ≤ n && n ≤ 0x114) || n == 0x118 || n == 0x119 || (0x120 ≤ n && n ≤ 0x129) ||
  (0x140 ≤ n && n ≤ 0x17F)

/-- R20: the trap that an index raises in a mode, `none` where a register stands. -/
def csrFault (mode : Bool) (n : Nat) : Option Nat :=
  if !mode && 0x100 ≤ n && n ≤ 0x1FF then some codePRIV
  else if tenantCsr n || (mode && supervisorCsr n) then none
  else some codeILLEGAL

namespace State

/-! ### Places as CSRs reach them (R322) -/

/-- R322: the place that per-place registers of thread `k` reach: TSEL in supervisor mode, the tenant's own place otherwise. -/
def csrPlace (s : State) (k : Nat) : Nat :=
  if (s.thread k).mode then (s.thread k).tsel.toNat else s.placeOfThread k

/-- R325: resources that a place holds in TASSIGN: bit `b` of the word. -/
def holds (s : State) (p pl b : Nat) : Bool := pl != 0 && fld (s.place p pl).tassign b 1 == 1

/-- R325: bit `b` of TASSIGN is held by some place other than `pl`. -/
def heldByOther (s : State) (p pl b : Nat) : Bool :=
  (List.range' 1 15).any fun n => n != pl && s.holds p n b

/-- R228, R325: thread `k` may configure the resource: its tenant holds it, or the thread is in supervisor mode. -/
def mayUse (s : State) (k b : Nat) : Bool := (s.thread k).mode || s.holds (s.partOf (coreOf k)) (s.placeOfThread k) b

/-! ### Barriers (R228, R229) -/

def barrier (s : State) (p b : Nat) : BarrierSt := Table.getD (s.part p).barriers b {}
def setBarrier (s : State) (p b : Nat) (x : BarrierSt) : State := s.modPart p fun y => { y with barriers := Table.put y.barriers b x }

/-- R228: BARCFG. -/
def barcfg (x : BarrierSt) : Word :=
  wd (x.strips.toNat * 2 ^ 32 + x.threads.toNat * 2 ^ 28 + x.count * 2 ^ 20 + x.arrived * 2 ^ 12 + b2n x.broken * 2 ^ 11 +
    x.dead * 2 ^ 4 + x.phase)

/-- R325: the tenant that holds barrier `b`; 0 where it belongs to the supervisor. -/
def barrierTenant (s : State) (p b : Nat) : Nat :=
  match (List.range' 1 15).find? fun n => s.holds p n b with
  | some n => fld (s.place p n).tcfg 0 8
  | none => 0

/-- R228: thread `k` is a member of the barrier. -/
def isMember (s : State) (p b k : Nat) : Bool :=
  let x := s.barrier p b
  let c := coreOf k
  (s.part p).hasCore c && x.strips.getLsbD c && k % 4 != 0 && x.threads.getLsbD (k % 4) &&
    (s.thread k).tenant == s.barrierTenant p b && (s.thread k).run != .free

/-- R228: how many live members the barrier has. -/
def liveMembers (s : State) (p b : Nat) : Nat := ((List.range numThreads).filter fun k => s.isMember p b k).length

/-- The threads that wait in BARW on barrier `b` of partition `p` (R229). -/
def barWaiters (s : State) (p b : Nat) : List Nat :=
  (List.range numThreads).filter fun k =>
    (s.thread k).wait.code == .barw && (s.thread k).wait.id == b && (s.thread k).grant.isNone && s.partOf (coreOf k) == p &&
      ((s.thread k).run == .waiting || (s.thread k).run == .resting)

/-- A waiting thread's instruction completes: its register receives `v`, and the thread goes on after it. A resting thread goes on so once
it is restored (R354). -/
def release (s : State) (k : Nat) (v : Word) : State :=
  let t := s.thread k
  if t.run == .resting then s.setThread k { t with grant := some v }
  else (s.setGprOf k t.wait.gd v).modThread k fun x =>
    { x with wait := {}, pc := x.pc + 4, grant := none, run := if x.run == .waiting then .ready else x.run }

/-- R229: releases every waiter of a barrier with a status; [11:8] holds the phase. -/
def releaseWaiters (s : State) (p b status : Nat) : State :=
  let ph := (s.barrier p b).phase
  (s.barWaiters p b).foldl (fun st k => st.release k (wd (status + ph * 256))) s

/-- R229: breaks a barrier: BROKEN and DEAD; each waiter completes with status 3 and takes BARRIER_BROKEN with the dead member. -/
def breakBarrier (s : State) (p b dead : Nat) : State :=
  let ws := s.barWaiters p b
  let s1 := s.setBarrier p b { s.barrier p b with broken := true, dead := dead }
  let s2 := s1.releaseWaiters p b 3
  ws.foldl (fun st k =>
    let r := st.headlandRec k codeBARRIERBROKEN 0 0 0
    let r := { r with f1 := wd (3 * 2 ^ 22 + bits dead 5 2 * 2 ^ 38 + bits dead 2 3 * 2 ^ 19 + bits dead 0 2 * 2 ^ 17) }
    st.postAsync k codeBARRIERBROKEN r false) s2

/-- R229: opens the phase of a barrier if its count is reached. -/
def openTest (s : State) (p b : Nat) : State :=
  let x := s.barrier p b
  if x.count ≠ 0 ∧ x.count ≤ x.arrived ∧ !x.broken then
    let s1 := s.setBarrier p b { x with phase := (x.phase + 1) % 16, arrived := 0, members := [] }
    s1.releaseWaiters p b 0
  else s

/-- R228: a write of BARCFG: STRIPS, THREADS and COUNT; ARRIVED, BROKEN and DEAD are cleared, waiters released with status 5, and a
COUNT beyond the live members breaks the barrier at once. -/
def writeBarcfg (s : State) (p b : Nat) (v : Word) : State :=
  let x := s.barrier p b
  let s1 := s.releaseWaiters p b 5
  let y : BarrierSt := { x with strips := BitVec.ofNat 32 (fld v 32 32), threads := BitVec.ofNat 4 (fld v 28 4), count := fld v 20 8,
                                arrived := 0, broken := false, dead := 0, members := [] }
  let s2 := s1.setBarrier p b y
  if s2.liveMembers p b < y.count then s2.breakBarrier p b 0 else s2

/-! ### Occupancy (R335) and TUSE (R324) -/

/-- R325: the tenant that a place holds; 0 for none. -/
def tenantAt (s : State) (p pl : Nat) : Nat := if fld (s.place p pl).tcfg 63 1 = 1 then fld (s.place p pl).tcfg 0 8 else 0

/-- R335: the lines of a place's tenant in slice `n` of core `c`, and of these the ones outside its mask; none for a place without a
tenant. -/
def occLines (s : State) (c tenant n : Nat) : Nat × Nat :=
  if tenant = 0 then (0, 0) else
  let mask := s.wayMask c tenant
  (List.range 64).foldl (fun (a : Nat × Nat) i =>
    let ws := (Table.getD s.slices (c * 512 + n * 64 + i) []).filter fun w => w.tenant == tenant
    (a.1 + ws.length, a.2 + (ws.filter fun w => bits mask w.way 1 == 0).length)) (0, 0)

/-- R335: OCC0 to OCC15 as core `c` reads them for a place. -/
def readOcc (s : State) (c pl i : Nat) : Word :=
  let x := s.corePlace c pl
  let n := i % 8
  if i < 8 then
    let l := s.occLines c (s.tenantAt (s.partOf c) pl) n
    wd ((l.2 + Table.getD x.outsideAdd n 0) % 65536 * 65536 + (l.1 + Table.getD x.linesAdd n 0) % 65536)
  else wd (Table.getD x.hits n 0 * 2 ^ 32 + Table.getD x.misses n 0)

/-- R335: a supervisor's write of an occupancy counter. -/
def writeOcc (s : State) (c pl i : Nat) (v : Word) : State :=
  let n := i % 8
  if i < 8 then
    let l := s.occLines c (s.tenantAt (s.partOf c) pl) n
    s.modCorePlace c pl fun x =>
      { x with linesAdd := Table.put x.linesAdd n ((fld v 0 16 + 65536 - l.1 % 65536) % 65536),
               outsideAdd := Table.put x.outsideAdd n ((fld v 16 16 + 65536 - l.2 % 65536) % 65536) }
  else s.modCorePlace c pl fun x =>
      { x with hits := Table.put x.hits n (fld v 32 32), misses := Table.put x.misses n (fld v 0 32) }

/-- R88: a colour belongs to a tenant. -/
def colourOwner : ColourSt → Option Nat
  | .free => none
  | .context t _ _ => some t
  | .frame t _ _ _ => some t

/-- R88, R334: how many colours a tenant holds. -/
def coloursHeld (s : State) (p t : Nat) : Nat := ((s.part p).colours.filter fun c => colourOwner c.2 == some t).length

/-- R212: the plots of a rider's region. -/
def riderPlots (r : RiderSt) : List Nat :=
  let w := (r.card.headD 0)
  let dies := (List.range 4).filter fun d => fld w (36 + d) 1 == 1
  let xs := List.range' (fld w 40 5) (fld w 50 5 + 1)
  let ys := List.range' (fld w 45 5) (fld w 55 5 + 1)
  dies.flatMap fun d => ys.flatMap fun y => xs.map fun x => elemKey d x y

/-- R193: the rider-table entries that a tenant holds in the share unit of a plot. -/
def riderEntries (s : State) (p t plot : Nat) : Nat :=
  (s.riders.filter fun r => r.2.phase == .aboard && r.2.part == p && r.2.tenant == t && (riderPlots r.2).contains plot).length

/-- R324: the most rider-table entries that a tenant holds in any share unit. -/
def ridersMost (s : State) (p t : Nat) : Nat :=
  let mine := s.riders.filter fun r => r.2.phase == .aboard && r.2.part == p && r.2.tenant == t
  (mine.flatMap fun r => riderPlots r.2).foldl (fun m plot => max m (s.riderEntries p t plot)) 0

/-- R324: the last-level TLB entries of an ASID on the die where it has most. -/
def tlbMost (s : State) (p asid : Nat) : Nat :=
  s.llTlb.foldl (fun m d => max m (d.2.filter fun e => e.part == p && e.asid == asid).length) 0

/-- R324: TUSE of a place as core `c` reads it; 0 for a place that holds no tenant. -/
def tuse (s : State) (c p pl : Nat) : Word :=
  let x := s.place p pl
  let t := s.tenantAt p pl
  let colours := if t = 0 then 0 else s.coloursHeld p t
  let riders := if t = 0 then 0 else s.ridersMost p t
  let tlb := if t = 0 then 0 else s.tlbMost p (s.placeAsid c p pl)
  let full := fun (q n : Nat) => b2n (decide (q ≠ 0) && decide (q ≤ n))
  wd ((full (fld x.tquota 0 13) colours + 2 * full (fld x.tquota 16 6) riders + 4 * full (fld x.tquota 32 13) tlb) * 2 ^ 45 +
    tlb % 8192 * 2 ^ 32 + riders % 64 * 2 ^ 16 + colours % 8192)

/-! ### Reading a CSR -/

def frecWord (f : FaultRec) : Nat → Word
  | 0 => f.f0
  | 1 => f.f1
  | 2 => f.f2
  | 3 => f.f3
  | 4 => f.f4
  | 5 => f.f5
  | 6 => f.f6
  | _ => f.f7

/-- R230, R333: HOLDST. -/
def holdst (s : State) (k : Nat) : Word :=
  let t := s.thread k
  match t.hold with
  | some g => wd (b2n t.broken * 65536 + 32768 + (g + 256 - s.cycle))
  | none => wd (b2n t.broken * 65536)

/-- R324: ROTCTL. ARM and SOLE read what has been written last, whichever wrap it waits for. -/
def rotctl (s : State) (p : Nat) : Word :=
  let x := s.part p
  wd (x.armst.toNat * 65536 + (x.soleNext.getD x.sole).toNat * 16 + b2n x.gang * 4 + b2n x.on * 2 + b2n (x.arm || x.armedNext.isSome))

/-- R209: an invalidation covers a TLB entry. -/
def tlbiCovers (s : State) (p : Nat) (x : TlbiSt) (e : TlbEntry) : Bool :=
  let asids := fld (s.part p).sasid 0 13 :: ((List.range numCores).filter (s.part p).hasCore).flatMap fun c =>
    (List.range' 1 15).map fun n => fld (s.corePlace c n).asid 0 13
  e.part == p && match x.op with
  | 0 => e.asid == x.asid && e.vpn == x.vpn / 2 ^ (pageBits e.level - 12)
  | 1 => e.asid == x.asid
  | _ => asids.contains e.asid

/-- The dies of a partition. -/
def partDies (s : State) (p : Nat) : List Nat := (List.range 4).filter fun d => (s.part p).dies.getLsbD d

/-- R210: the page of a pin as a TLB entry. -/
def pinEntry (q : PinSt) : TlbEntry :=
  { part := q.part, asid := q.asid, vpn := bits q.va (pageBits q.level) 45, level := q.level, ppn := 0, perms := 0 }

/-- R209, R210: pins that an invalidation covers are still held, or still wanted by a request that waits for them. -/
def tlbiPinned (s : State) (p : Nat) (x : TlbiSt) : Bool :=
  ((s.partDies p).any fun d => (Table.getD s.llTlb d []).any fun e => e.pins != 0 && e.stale && s.tlbiCovers p x e) ||
    s.riders.any fun r => r.2.pins.any fun q => q.stale && s.tlbiCovers p x (pinEntry q)

/-- R209: TLBIST. -/
def tlbist (s : State) (p : Nat) : Word :=
  match (s.part p).tlbi with
  | none => 0
  | some x => wd (1 + 2 * b2n (s.tlbiPinned p x))

/-- R22, R323: the value of CSR `n` as thread `k` reads it. -/
def readCsr (s : State) (k n : Nat) : Word :=
  let t := s.thread k
  let c := coreOf k
  let p := s.partOf c
  let pl := s.csrPlace k
  let x := s.place p pl
  if n = 0x000 then wd (t.tenant * 2 ^ 24 + dieOfCore c * 256 + stripOfCore c * 4 + k % 4)
  else if n = 0x001 then s.tstat k
  else if n = 0x002 then wd s.cycle
  else if n = 0x003 then wd (s.stepCyc * 4096 + s.cursor)
  else if n = 0x004 then wd (s.stepLen * 2 ^ 40 + s.passNo % 2 ^ 40)
  else if n = 0x005 then s.slotinfo k
  else if n = 0x010 then t.tvec ++ 0#2
  else if n = 0x011 then t.epc
  else if n = 0x012 then t.ecause
  else if n = 0x013 then t.eval
  else if n = 0x014 then t.escratch
  else if n / 8 = 4 then frecWord t.frec (n % 8)
  else if n = 0x030 then if pl = 0 then 0 else (s.corePlace c pl).asid
  else if n = 0x031 then if pl = 0 then 0 else (s.corePlace c pl).ptbase
  else if n = 0x040 then t.waittmo
  else if n / 16 = 5 then if s.mayUse k (n % 16) then barcfg (s.barrier p (n % 16)) else 0
  else if n = 0x060 then s.holdst k
  else if n / 16 = 7 then if pl = 0 then 0 else s.readOcc c pl (n % 16)
  else if n = 0x100 then (s.core c).stvec ++ 0#2
  else if n = 0x101 then t.sepc
  else if n = 0x102 then t.scause
  else if n = 0x103 then t.seval
  else if n = 0x104 then t.sscratch
  else if n = 0x105 then wd (b2n t.spmode * 2 + b2n t.sexl)
  else if n / 8 = 0x21 then frecWord t.sfrec (n % 8)
  else if n = 0x110 then wd ((s.part p).dies.toNat * 256 + (s.part p).strips.toNat)
  else if n = 0x111 then s.rotctl p
  else if n = 0x112 then (s.part p).sptbase
  else if n = 0x113 then (s.part p).sasid
  else if n = 0x114 then (s.part p).sways
  else if n = 0x119 then s.tlbist p
  else if n = 0x120 then t.tsel.setWidth 64
  else if n / 64 = 5 then Table.getD (s.part p).shadow (n % 64) 0
  else if pl = 0 then 0
  else if n = 0x121 then x.tcfg
  else if n = 0x122 then (s.corePlace c pl).tthr.setWidth 64
  else if n = 0x123 then (s.corePlace c pl).tlocal
  else if n = 0x124 then x.tedge
  else if n = 0x125 then x.tways
  else if n = 0x126 then x.tquota
  else if n = 0x127 then x.tassign
  else if n = 0x128 then s.tuse c p pl
  else 0

/-! ### Writing a CSR -/

/-- R6, R324: the bits of a field list of a written value; every other bit is reserved and reads 0. -/
def keepBits (v : Word) (mask : Nat) : Word := v &&& wd mask

/-- R325: a tenant is named in the active table. -/
def inActive (s : State) (p t : Nat) : Bool :=
  (s.part p).on && (validEntries (s.part p).active).any fun e => rotOwner e.2 == t || rotDonee e.2 == t

/-- R325: a tenant has a thread of the partition that is not FREE. -/
def hasThread (s : State) (p t : Nat) : Bool :=
  (s.threads.map (·.1)).any fun k => s.partOf (coreOf k) == p && (s.thread k).tenant == t && (s.thread k).run != .free

/-- R325: a tenant has a rider aboard or waiting. -/
def hasRider (s : State) (p t : Nat) : Bool := s.riders.any fun r => r.2.part == p && r.2.tenant == t

/-- R325: a write of TCFG. -/
def writeTcfg (s : State) (p pl : Nat) (v : Word) : State :=
  let x := s.place p pl
  let t := fld v 0 8
  let old := fld x.tcfg 0 8
  let changes := fld v 63 1 != fld x.tcfg 63 1 || t != old
  let other := (List.range' 1 15).any fun n => n != pl && t != 0 && fld (s.place p n).tcfg 63 1 == 1 && fld (s.place p n).tcfg 0 8 == t
  if (t == 0 && fld v 63 1 == 1) || other ||
      (changes && old != 0 && (s.inActive p old || s.hasThread p old || s.hasRider p old)) then s
  else
    let s1 := s.setPlace p pl { x with tcfg := keepBits v (2 ^ 63 + 2 ^ 9 - 1) }
    if fld v 63 1 = 1 then s1
    else (List.range numCores).foldl (fun st c =>
      if (s.part p).hasCore c && (s.corePlace c pl).held then st.modCorePlace c pl fun y => { y with held := false } else st) s1

/-- Two windows [b, e) in 4 KiB units overlap. -/
def windowsMeet (b e b' e' : Nat) : Bool := decide (b < e') && decide (b' < e)

/-- R325: a write of TLOCAL on core `c`. -/
def writeTlocal (s : State) (c pl : Nat) (v : Word) : State :=
  let b := fld v 12 7
  let e := b + fld v 20 7 + 1
  let p := s.partOf c
  let meets := (List.range' 1 15).any fun n =>
    let y := s.corePlace c n
    n != pl && y.held && windowsMeet b e (fld y.tlocal 12 7) (fld y.tlocal 12 7 + fld y.tlocal 20 7 + 1)
  if 127 < e || meets then s
  else s.modCorePlace c pl fun y =>
    { y with tlocal := keepBits v (127 * 2 ^ 20 + 127 * 2 ^ 12), held := y.held || fld (s.place p pl).tcfg 63 1 == 1 }

/-- R325: a write of TEDGE. -/
def writeTedge (s : State) (p pl : Nat) (v : Word) : State :=
  let b := fld v 0 10
  let e := fld v 32 10
  let meets := (List.range' 1 15).any fun n =>
    let w := (s.place p n).tedge
    n != pl && windowsMeet b e (fld w 0 10) (fld w 32 10)
  if e ≤ b ∨ 992 < e ∨ meets then s
  else s.modPlace p pl fun x => { x with tedge := keepBits v (1023 * 2 ^ 32 + 1023) }

/-- R325: a write of TASSIGN. -/
def writeTassign (s : State) (p pl : Nat) (v : Word) : State :=
  if (List.range 40).any fun b => fld v b 1 == 1 && s.heldByOther p pl b then s
  else s.modPlace p pl fun x => { x with tassign := keepBits v (2 ^ 40 - 1) }

/-- R209: starts an invalidation: entries it covers go, pinned ones become stale. -/
def startTlbi (s : State) (p : Nat) (v : Word) : State :=
  let x : TlbiSt := { op := fld v 62 2, asid := fld v 49 13, vpn := fld v 0 45 }
  if x.op = 3 then s
  else
    let s1 := (List.range numCores).foldl (fun (st : State) c =>
      if (s.part p).dies.getLsbD (dieOfCore c) && !(s.core c).tlb.isEmpty then
        st.modCore c fun k => { k with tlb := k.tlb.filter fun e => !s.tlbiCovers p x e }
      else st) s
    let s2 := (s.partDies p).foldl (fun (st : State) d =>
      let l := (Table.getD st.llTlb d []).filterMap fun e =>
        if s.tlbiCovers p x e then (if e.pins = 0 then none else some { e with stale := true }) else some e
      { st with llTlb := Table.put st.llTlb d l }) s1
    let mark := fun (l : List PinSt) => l.map fun q =>
      if s.tlbiCovers p x (pinEntry q) then { q with stale := true } else q
    State.modPart { s2 with riders := s2.riders.map fun r => (r.1, { r.2 with pins := mark r.2.pins }),
                            gens := s2.gens.map fun g => (g.1, { g.2 with pins := mark g.2.pins }) } p
      fun y => { y with tlbi := some x }

/-- R331: where the record of thread `k` stands: 1 KiB each at the top 4 KiB of its tenant's local window; `none` without a window. -/
def recordAt (s : State) (k : Nat) : Option Nat :=
  let c := coreOf k
  match s.placeOf (s.partOf c) (s.thread k).tenant with
  | none => none
  | some pl =>
    let w := s.window c pl
    if w.2 < 4096 then none else some (localBase c + w.1 + w.2 - 4096 + k % 4 * 1024)

/-- R357: a STOPPED thread goes on at `pc`: READY, or RESTING with its record changed so that it goes on at its tenant's next restore. -/
def resumeStopped (s : State) (k : Nat) (pc : Word) : State :=
  let run := s.readyOrResting k
  let s1 := s.modThread k fun x => { x with run := run, savedRun := .ready, wait := {}, pc := pc, brkStop := false }
  match run, s.recordAt k with
  | .resting, some a => { s1 with mem := Memory.write (Memory.write s1.mem a 8 1) (a + 8) 8 pc.toNat }
  | _, _ => s1

/-- R357: TRUN: restarts a STOPPED thread. -/
def restartThread (s : State) (k : Nat) (pc62 : Nat) : State :=
  let t := s.thread k
  if t.run == .stopped && !t.brkStop then s.resumeStopped k (if pc62 = 0 then t.resume else wd (pc62 * 4)) else s

/-- R328: a table that waits is withdrawn by a write of ARM = 0, up to 1024 cycles before its wrap; it lets a wrap go by that a hold (R353) or a rider
puts off. -/
def mayWithdraw (s : State) (p : Nat) : Bool :=
  (s.part p).armSkip == some s.passNo || decide (guardCycles < s.wrapIn) || s.wrapHeldUp p

/-- R328, R330, R337: what a write of ROTCTL makes of a partition (`y`) comes too late for the coming wrap: a guard has begun, or a table waits that can no
longer be withdrawn, or the running tenant would change with less than a guard's time left (log entry 117). -/
def tooLate (s : State) (p : Nat) (y : PartSt) : Bool :=
  decide (s.wrapIn ≤ guardCycles) &&
    ((s.part p).inGuard || (s.part p).arm || (decide (s.wrapIn < guardCycles) && (s.setPart p y).runningAfterWrap p != s.running p))

/-- R174: an element's scratchpad window of a place is smaller than 36 KiB. -/
def smallScratch (s : State) (p t : Nat) : Bool :=
  match s.placeOf p t with
  | none => true
  | some pl => (List.range numElems).any fun e =>
      (s.part p).hasCore (coreOfElem e) &&
        decide ((Table.getD s.windows (e * 16 + pl) {}).scrlim - (Table.getD s.windows (e * 16 + pl) {}).scrbase < 36864)

/-- R324, R328, R337: a write of ROTCTL. What comes too late for the coming wrap waits for the wrap after it. -/
def writeRotctl (s : State) (p : Nat) (v : Word) : State :=
  let x := s.part p
  let sole := if (s.placeOf p (fld v 4 8)).isSome then BitVec.ofNat 8 (fld v 4 8) else x.soleNext.getD x.sole
  let st := if fld v 0 1 = 1 then s.armCheck p fun t => s.smallScratch p t else 0
  let armed := fld v 0 1 == 1 && st == 0
  let x1 := { x with gang := fld v 2 1 == 1, armst := if fld v 0 1 = 1 then BitVec.ofNat 3 st else x.armst, arm := x.arm && !s.mayWithdraw p,
                     armedNext := none, soleNext := none }
  let y := if armed then { x1 with arm := true, armed := x.shadow, sole := sole } else { x1 with sole := sole }
  s.setPart p (if s.tooLate p y then
    { x1 with arm := if armed then x.arm else x1.arm, armedNext := if armed then some x.shadow else none,
              soleNext := if sole = x.sole then none else some sole }
  else y)

/-- R66, R67, R323: the effect of writing `v` to CSR `n` by thread `k`: only the fields that are RW to its mode. -/
def writeCsr (s : State) (k n : Nat) (v : Word) : State :=
  let t := s.thread k
  let c := coreOf k
  let p := s.partOf c
  let pl := s.csrPlace k
  let perPlace := fun (f : State) => if pl = 0 then s else f
  if n = 0x001 then s.setThread k { t with ae := fld v 3 1 == 1 }
  else if n = 0x010 then s.setThread k { t with tvec := v.extractLsb' 2 62 }
  else if n = 0x011 then s.setThread k { t with epc := v }
  else if n = 0x014 then s.setThread k { t with escratch := v }
  else if n = 0x040 then s.setThread k { t with waittmo := v }
  else if n / 16 = 5 then if s.mayUse k (n % 16) then s.writeBarcfg p (n % 16) v else s
  else if !t.mode then s
  else if n = 0x030 then perPlace (s.modCorePlace c pl fun x => { x with asid := keepBits v 0x1FFF })
  else if n = 0x031 then perPlace (s.modCorePlace c pl fun x => { x with ptbase := keepBits v (2 ^ 52 - 2 ^ 21) })
  else if n / 16 = 7 then perPlace (s.writeOcc c pl (n % 16) v)
  else if n = 0x100 then s.modCore c fun x => { x with stvec := v.extractLsb' 2 62 }
  else if n = 0x101 then s.setThread k { t with sepc := v }
  else if n = 0x104 then s.setThread k { t with sscratch := v }
  else if n = 0x111 then s.writeRotctl p v
  else if n = 0x112 then s.modPart p fun x => { x with sptbase := keepBits v (2 ^ 52 - 2 ^ 21) }
  else if n = 0x113 then s.modPart p fun x => { x with sasid := keepBits v 0x1FFF }
  else if n = 0x114 then s.modPart p fun x => { x with sways := keepBits v 0xFFFF }
  else if n = 0x118 then s.startTlbi p v
  else if n = 0x120 then s.setThread k { t with tsel := v.extractLsb' 0 4 }
  else if n = 0x121 then perPlace (s.writeTcfg p pl v)
  else if n = 0x122 then perPlace (s.modCorePlace c pl fun x => { x with tthr := v.extractLsb' 0 4 &&& 0b1110#4 })
  else if n = 0x123 then perPlace (s.writeTlocal c pl v)
  else if n = 0x124 then perPlace (s.writeTedge p pl v)
  else if n = 0x125 then perPlace (s.modPlace p pl fun x => { x with tways := keepBits v 0xFFFF })
  else if n = 0x126 then perPlace (s.modPlace p pl fun x => { x with tquota := keepBits v (0x1FFF * 2 ^ 32 + 0x3F * 2 ^ 16 + 0x1FFF) })
  else if n = 0x127 then perPlace (s.writeTassign p pl v)
  else if n = 0x129 then s.restartThread (c * 4 + fld v 0 2) (fld v 2 62)
  else if n / 64 = 5 then s.modPart p fun x =>
    { x with shadow := Table.put x.shadow (n % 64) (keepBits v (2 ^ 63 + (2 ^ 16 - 1) * 2 ^ 32 + 2 ^ 24 - 1)) }
  else s

/-- R66: what a writing CSR instruction writes, `none` where it writes nothing. -/
def csrNew (k : CsrOp) (old : Word) (a : Reg) (v : Word) : Option Word :=
  match k with
  | .write => some v
  | .set => if a = 0 then none else some (old ||| v)
  | .clear => if a = 0 then none else some (old &&& ~~~v)

/-- R209: a write of TLBI while an invalidation is in progress waits for it. -/
def tlbiWaits (s : State) (k n : Nat) : Bool :=
  n == 0x118 && (s.thread k).mode && (s.part (s.partOf (coreOf k))).tlbi.isSome

/-- R20, R66: a CSR instruction that writes: the index checks, then old := CSR, the write, gd := old. -/
def csrAccess (s : State) (word : Word32) (k : CsrOp) (d a : Reg) (n : Nat) : Out :=
  match csrFault s.cur.mode n with
  | some code => s.raise word code (word.setWidth 64)
  | none =>
    let old := s.readCsr s.me n
    match csrNew k old a (s.gpr a) with
    | none => s.finish d old
    | some v =>
      if s.tlbiWaits s.me n then
        .next (s.modMe fun t => { t with run := .waiting, wait := { code := .none, word := word } })
      else (s.writeCsr s.me n v).finish d old

end State

/-! ### The instructions -/

/-- CSRR, R66. -/
def execCsrr (d : Reg) (n : BitVec 12) (s : State) : Out :=
  let word := wordOf (.csrr d n)
  match csrFault s.cur.mode n.toNat with
  | some code => s.raise word code (word.setWidth 64)
  | none => s.finish d (s.readCsr s.me n.toNat)

/-- CSRW, R66. -/
def execCsrw (d a : Reg) (n : BitVec 12) (s : State) : Out := s.csrAccess (wordOf (.csrw d a n)) .write d a n.toNat

/-- CSRS, R66. -/
def execCsrs (d a : Reg) (n : BitVec 12) (s : State) : Out := s.csrAccess (wordOf (.csrs d a n)) .set d a n.toNat

/-- CSRC, R66. -/
def execCsrc (d a : Reg) (n : BitVec 12) (s : State) : Out := s.csrAccess (wordOf (.csrc d a n)) .clear d a n.toNat

/-- TSTAT_WRITE, R67: only AE is written. A trap that becomes takeable is taken before the next instruction (R25). -/
def execTstatWrite (k : CsrOp) (d a : Reg) (s : State) : Out := s.csrAccess (wordOf (.tstatWrite k d a)) k d a 0x001

/-- TLBI_WRITE, R209. -/
def execTlbiWrite (k : CsrOp) (d a : Reg) (s : State) : Out := s.csrAccess (wordOf (.tlbiWrite k d a)) k d a 0x118

/-- TRUN_WRITE, R357. -/
def execTrunWrite (k : CsrOp) (d a : Reg) (s : State) : Out := s.csrAccess (wordOf (.trunWrite k d a)) k d a 0x129

/-- ROTCTL_ARM, R328: the set form of a ROTCTL write. -/
def execRotctlArm (d a : Reg) (s : State) : Out := s.csrAccess (wordOf (.rotctlArm d a)) .set d a 0x111

/-- ARM_WITHDRAW, R328: the clear form of a ROTCTL write. -/
def execArmWithdraw (d a : Reg) (s : State) : Out := s.csrAccess (wordOf (.armWithdraw d a)) .clear d a 0x111

/-- SOLE_WRITE, R328: the write form of a ROTCTL write. -/
def execSoleWrite (d a : Reg) (s : State) : Out := s.csrAccess (wordOf (.soleWrite d a)) .write d a 0x111

/-- BARCFG_WRITE, R228. -/
def execBarcfgWrite (k : CsrOp) (n : BitVec 4) (d a : Reg) (s : State) : Out :=
  s.csrAccess (wordOf (.barcfgWrite k n d a)) k d a (0x50 + n.toNat)

/-- OCC_WRITE, R335. -/
def execOccWrite (k : CsrOp) (n : BitVec 4) (d a : Reg) (s : State) : Out :=
  s.csrAccess (wordOf (.occWrite k n d a)) k d a (0x70 + n.toNat)

/-- PLACE_REGISTER_WRITE, R325. -/
def execPlaceRegisterWrite (k : CsrOp) (r : PlaceReg) (d a : Reg) (s : State) : Out :=
  s.csrAccess (wordOf (.placeRegisterWrite k r d a)) k d a r.index.toNat

/-- TWAYS_WRITE, R334. -/
def execTwaysWrite (k : CsrOp) (d a : Reg) (s : State) : Out := s.csrAccess (wordOf (.twaysWrite k d a)) k d a 0x125

end Sys2Proof.Machine
end

