-- ==== Sys2Proof/Machine/Record.lean ====
section
/-! DEFINITION. Ending and killing a thread (R69, R355), and the thread records of the save area (R331, R354, R355). -/

namespace Sys2Proof.Machine

/-- R354: the wait codes of a thread record. -/
def waitNumber : WaitCode → Nat
  | .none => 0
  | .wait => 1
  | .waite => 2
  | .recv => 3
  | .barw => 4
  | .admission => 5
  | .pause => 6
  | .swap => 7
  | .twin => 8
  | .sow => 9
  | .haltr => 10
  | .resumer => 11
  | .fence => 12
  | .injFull => 13
  | .collLimit => 14

/-- R354: the state codes of a thread record. -/
def runNumber : RunState → Nat
  | .free => 0
  | .ready => 1
  | .waiting => 2
  | .resting => 1
  | .stopped => 4

namespace State

/-! ### Ending a thread (R69, R229, R355) -/

/-- R69: the barriers of the partition that count thread `k`. -/
def barriersOf (s : State) (k : Nat) : List Nat :=
  let p := s.partOf (coreOf k)
  (List.range 16).filter fun b => s.isMember p b k && (s.barrier p b).count != 0

/-- R229: a member EXITs: COUNT falls by 1, and ARRIVED if it had arrived; the phase may open. -/
def leaveBarrier (s : State) (p b k : Nat) : State :=
  let x := s.barrier p b
  let had := x.members.contains k
  (s.setBarrier p b { x with count := x.count - 1, arrived := if had then x.arrived - 1 else x.arrived,
                             members := x.members.filter fun j => j != k }).openTest p b

/-- R228: the number of a dead member: die, strip and thread. -/
def deadNumber (k : Nat) : Nat := dieOfCore (coreOf k) * 32 + stripOfCore (coreOf k) * 4 + k % 4

/-- R53, R69: a divide of thread `k`, which ends, delivers to no register. -/
def dropDivide (s : State) (k : Nat) : State :=
  s.modCore (coreOf k) fun c => { c with divider := c.divider.map fun x => if x.thread = k then { x with gd := 0 } else x }

/-- R69, R355: ends thread `k`: its buffered stores are performed, its hold ends, the barriers that count it lower their count, or break
if it is killed, its registers are reset and it becomes FREE. Its predictor and return stack go too (log entry 127, DESIGN CHOICE). -/
def endThread (s : State) (k : Nat) (killed : Bool) : State :=
  let p := s.partOf (coreOf k)
  let bs := s.barriersOf k
  let s1 := (s.drainCore (coreOf k)).dropDivide k
  let s2 := if killed then s1 else bs.foldl (fun st b => st.leaveBarrier p b k) s1
  let s3 := s2.setThread k { seq := (s2.thread k).seq }
  if killed then bs.foldl (fun st b => st.breakBarrier p b (deadNumber k)) s3 else s3

/-! ### Thread records (R354) -/

/-- The record's words after g1 to g31: TSTAT, TVEC, EPC, ECAUSE, EVAL, ESCRATCH, FREC0 to FREC7, WAITTMO, HOLDST. -/
def recordCsrs (s : State) (k : Nat) : List Word :=
  let t := s.thread k
  [s.tstat k, t.tvec ++ 0#2, t.epc, t.ecause, t.eval, t.escratch, t.frec.f0, t.frec.f1, t.frec.f2, t.frec.f3, t.frec.f4, t.frec.f5,
   t.frec.f6, t.frec.f7, t.waittmo, s.holdst k]

/-- R354: the cycles left of a PAUSE or of a WAITTMO. -/
def remaining (s : State) (t : ThreadSt) : Nat :=
  match t.wait.deadline with
  | some d => d - s.cycle
  | none => 0

/-- Stores a list of doublewords. -/
def writeWords (m : List Host.Cell) (a : Nat) : List Word → List Host.Cell
  | [] => m
  | w :: ws => writeWords (Memory.write m a 8 w.toNat) (a + 8) ws

/-- R354: the record's words, offset 0 to 0x1DF. -/
def recordWords (s : State) (k : Nat) : List Word :=
  let t := s.thread k
  let code := if t.run == .waiting then waitNumber t.wait.code else 0
  let traps := (t.pend.take 4).flatMap fun p => [wd (2 ^ 63 + p.code), p.frec.f0]
  [wd (runNumber t.run + code * 256), t.pc] ++ (List.range' 1 31).map (fun r => s.gprOf k (BitVec.ofNat 5 r)) ++ s.recordCsrs k ++
    [t.wait.addr, t.wait.value, wd (s.remaining t)] ++ traps ++ List.replicate (8 - traps.length) 0

/-- R53: the divider's result reaches its register before its thread is saved. -/
def divideDone (s : State) (k : Nat) : State :=
  match (s.core (coreOf k)).divider with
  | some x => if x.thread = k then (s.setGprOf k x.gd x.value).modCore (coreOf k) fun c => { c with divider := none } else s
  | none => s

/-- R348, R354: the thread waits in HALTR or RESUMER. -/
def inImage (t : ThreadSt) : Bool := t.wait.code == .haltr || t.wait.code == .resumer

/-- R348: the word at `off` of the image that thread `k` writes or reads by HALTR or RESUMER, replaced by `f` of it; and what it held. -/
def imageWord (s : State) (k off : Nat) (f : Nat → Nat) : State × Nat :=
  let r := s.resolve k ((s.thread k).wait.addr + wd off) .load
  match r.2 with
  | .error _ => (r.1, 0)
  | .ok t =>
    let x := r.1.readTarget (coreOf k) (s.lineTenant k) t 8
    (x.1.writeTarget (coreOf k) (s.lineTenant k) t 8 (f x.2), x.2)

/-- R348, R354: a guard meets thread `k` in HALTR or RESUMER: the image's header says so and keeps the progress, the cycles still to come (log
entry 106). -/
def keepProgress (s : State) (k : Nat) : State :=
  if (s.thread k).run == .waiting && inImage (s.thread k) then
    ((s.imageWord k 24 fun v => v ||| 2).1.imageWord k 96 fun _ => s.remaining (s.thread k)).1
  else s

/-- R354: a restored HALTR or RESUMER goes on from the progress in its image's header, which reads 0 again. -/
def takeProgress (s : State) (k : Nat) : State :=
  let r := s.imageWord k 96 fun _ => 0
  r.1.modThread k fun t => { t with wait := { t.wait with deadline := some (s.cycle + r.2) } }

/-- R354, R416: saves thread `k`: outstanding loads return, its record is written, and it rests; a STOPPED thread stays STOPPED (R357). -/
def saveThread (s : State) (k : Nat) : State :=
  let s0 := (s.thread k).loads.foldl (fun st l => st.setGprOf k l.gd l.value) (s.divideDone k)
  let s1 := s0.modThread k fun t => { t with loads := [], busy := [] }
  let s2 := match s1.recordAt k with
    | some a => { s1 with mem := writeWords s1.mem a (s1.recordWords k ++ List.replicate 68 0) }
    | none => s1
  s2.modThread k fun t => { t with run := if t.run = .stopped then .stopped else .resting, savedRun := t.run, savedAt := s.cycle, predictor := [], returns := [] }

/-- R355: what a record says a thread is. -/
def runOfNumber : Nat → Option RunState
  | 0 => some .free
  | 1 => some .ready
  | 2 => some .waiting
  | 4 => some .stopped
  | _ => none

/-- R355: the waits that an edit may enter or change. -/
def editableWait (n : Nat) : Option WaitCode :=
  match n with
  | 1 => some .wait
  | 2 => some .waite
  | 3 => some .recv
  | 6 => some .pause
  | _ => none

/-- R6, R24, R340: what FREC0 to FREC7 hold of eight words: a reserved field reads as 0. -/
def recOfWords (w : Nat → Word) : FaultRec :=
  { f0 := keepBits (w 0) 0x1EF0FFF, f1 := keepBits (w 1) (2 ^ 40 - 2 ^ 17), f2 := w 2, f3 := keepBits (w 3) (2 ^ 32 - 1), f4 := keepBits (w 4) (2 ^ 32 - 1),
    f5 := w 5, f6 := keepBits (w 6) (2 ^ 52 - 1), f7 := keepBits (w 7) (0x1FFF * 2 ^ 32 + 0xFF) }

/-- R355: a pending trap that the supervisor has written into a record: its code, and FREC0 alone. -/
def writtenTrap (cause : Nat) (f0 : Word) : PendTrap :=
  { code := bits cause 0 8, frec := recOfWords fun i => if i = 0 then f0 else 0, fabric := f0 != 0 }

/-- R355, R342: the pending traps of a record: an entry left as saved keeps its whole record, a written one has FREC0 alone. -/
def restoreTraps (m : List Host.Cell) (a : Nat) (saved : List PendTrap) : List PendTrap :=
  (List.range 4).filterMap fun i =>
    let cause := Memory.read m (a + 0x1A0 + 16 * i) 8
    let f0 := wd (Memory.read m (a + 0x1A8 + 16 * i) 8)
    if cause = 0 then none
    else match saved[i]? with
      | some p => if p.code = bits cause 0 8 ∧ p.frec.f0 = f0 then some p
        else some (writtenTrap cause f0)
      | none => some (writtenTrap cause f0)

/-- R354: what a restored thread's wait has become: an instruction that has completed meanwhile is left behind, one that waits for an
operation, a place or a plane runs again. -/
def resumeWait (s : State) (k : Nat) : State :=
  let t := s.thread k
  let s1 := match t.boardGd, t.boardVal with
    | some g, some v => (s.setGprOf k g.1 v).modThread k fun x => { x with boardGd := none, boardVal := none }
    | _, _ => s
  if t.run != .waiting then s1.modThread k fun x => { x with grant := none }
  else match t.grant with
    | some v => s1.release k v
    | none =>
      match t.wait.code with
      | .sow => s1.modThread k fun x => { x with run := .ready }
      | .fence | .injFull | .collLimit => s1.modThread k fun x => { x with run := .ready, wait := {} }
      | .admission =>
        if t.boardGd.any fun g => g.2 == t.wait.id then s1.modThread k fun x => { x with run := .ready, wait := {}, pc := x.pc + 4 } else s1
      | .haltr | .resumer => s1.takeProgress k
      | _ => s1

/-- R355: restores thread `k` from its record, with the edits that the supervisor made to it. A count that was not edited has run on through
the rest (R71, R227). A state edited to FREE kills, whatever wait code stands beside it. Reserved
bits of ECAUSE and of FREC0 to FREC7 that an edit has set restore as 0 (R6, log entry 107). -/
def restoreThread (s : State) (k : Nat) : State :=
  match s.recordAt k with
  | none => (s.modThread k fun t => { t with run := t.savedRun, pend := t.pend ++ t.late, late := [] }).resumeWait k
  | some a =>
    let rd := fun o => Memory.read s.mem (a + o) 8
    let t := s.thread k
    let w0 := rd 0
    let code := bits w0 8 4
    let savedCode := if t.savedRun == .waiting then waitNumber t.wait.code else 0
    let tst := rd 0x108
    let zeros := (List.range 68).all fun i => rd (0x1E0 + 8 * i) == 0
    let kept := fun n => (editableWait n).isSome
    let invalid := w0 != bits w0 0 3 + code * 256 || (runOfNumber (bits w0 0 3)).isNone || rd 8 % 4 != 0 || tst % 2 != 0 || !zeros ||
      (bits w0 0 3 == 2 && code == 0) || (bits w0 0 3 != 2 && code != 0 && !(bits w0 0 3 == 0 && code == savedCode)) ||
      (code != savedCode && ((code != 0 && !kept code) || (savedCode != 0 && !kept savedCode && bits w0 0 3 != 0)))
    if invalid then
      (s.modThread k fun x => { x with run := .stopped, wait := {}, resume := x.pc, pend := x.pend ++ x.late, late := [] }).threadNotice k 10 0 (wd w0) 0
    else match runOfNumber (bits w0 0 3) with
      | some .free => s.endThread k true
      | some run =>
        let csr := fun i => wd (rd (0x108 + 8 * i))
        let remain := rd 0x198
        let left := match t.wait.deadline with
          | some d => d - t.savedAt
          | none => 0
        let edited := remain != left || code != savedCode
        let deadline := if !edited then t.wait.deadline else if remain = 0 ∧ code ≠ 6 then none else some (s.cycle + remain)
        let wait : WaitSt := if run != .waiting then (if t.wait.code = .sow ∧ run = .ready ∧ wd (rd 8) = t.pc then t.wait else {})
          else match editableWait code with
            | some c => { t.wait with code := c, addr := wd (rd 0x188), value := wd (rd 0x190),
                                      deadline := deadline, last := none, readAt := if code = savedCode then t.wait.readAt else s.cycle }
            | none => t.wait
        State.resumeWait (s.setThread k
          { t with gpr := (List.range' 1 31).foldl (fun g r => Table.putD g r (wd (rd (0x10 + 8 * (r - 1)))) 0) [],
                   pc := wd (rd 8), run := if t.brkStop then .stopped else run, wait := wait, resume := wd (rd 8),
                   ae := bits tst 3 1 == 1, pmode := bits tst 2 1 == 1, exl := bits tst 1 1 == 1,
                   tvec := (csr 1).extractLsb' 2 62, epc := csr 2, ecause := keepBits (csr 3) (2 ^ 63 + 0xFF), eval := csr 4, escratch := csr 5,
                   frec := recOfWords fun i => csr (6 + i),
                   waittmo := csr 14, broken := fld (csr 15) 16 1 == 1, hold := none,
                   pend := (restoreTraps s.mem a t.pend ++ t.late).take 4, late := [],
                   lost := t.lost || decide (4 < (restoreTraps s.mem a t.pend ++ t.late).length) }) k
      | none => s

end State

end Sys2Proof.Machine
end

