-- ==== Sys2Proof/Machine/Control.lean ====
section
/-! DEFINITION. Branches and jumps (R63 to R65), the THREAD group (R68 to R71), the SYS group (R72 to R76), words that name nothing
(R42) and fetches that fail (R62), and the steps that end a PAUSE, a hold, a division or take a pending trap. -/

namespace Sys2Proof.Machine

/-! ### Branches and jumps -/

/-- R65: moves a 2-bit counter towards taken or not taken. -/
def counterMove (c : BitVec 2) (taken : Bool) : BitVec 2 :=
  if taken then (if c = 3 then 3 else c + 1) else (if c = 0 then 0 else c - 1)

/-- R65: the first cycle in which a thread issues after a branch or JALR: a misprediction costs 2 cycles. -/
def afterJump (s : State) (t : ThreadSt) (predicted : Bool) : Nat := if predicted then t.notBefore else s.cycle + 3

/-- R63: a branch: pc := target if the comparison holds, else pc + 4; the predictor's counter at pc[7:2], which predicts the branch taken from
2 on, moves (R65). -/
def branch (s : State) (taken : Bool) (off : BitVec 16) : Out :=
  let i := fld s.pc 2 6
  let target := if taken then s.pc + off.signExtend 64 * 4 else s.pc + 4
  .next (s.modMe fun t =>
    { t with pc := target, predictor := Table.putD t.predictor i (counterMove (Table.getD t.predictor i 0) taken) 0,
             notBefore := afterJump s t (decide (2 ≤ (Table.getD t.predictor i 0).toNat) == taken) })

/-- BEQ, R63. -/
def execBeq (a b : Reg) (off : BitVec 16) (s : State) : Out := branch s (s.gpr a == s.gpr b) off

/-- BNE, R63. -/
def execBne (a b : Reg) (off : BitVec 16) (s : State) : Out := branch s (s.gpr a != s.gpr b) off

/-- BLT, R63. -/
def execBlt (a b : Reg) (off : BitVec 16) (s : State) : Out := branch s ((s.gpr a).slt (s.gpr b)) off

/-- BGE, R63. -/
def execBge (a b : Reg) (off : BitVec 16) (s : State) : Out := branch s (!(s.gpr a).slt (s.gpr b)) off

/-- BLTU, R63. -/
def execBltu (a b : Reg) (off : BitVec 16) (s : State) : Out := branch s ((s.gpr a).ult (s.gpr b)) off

/-- BGEU, R63. -/
def execBgeu (a b : Reg) (off : BitVec 16) (s : State) : Out := branch s (!(s.gpr a).ult (s.gpr b)) off

/-- R65: a JAL or JALR with gd = g1 pushes pc + 4 onto the 4-entry return stack. -/
def pushReturn (s : State) (d : Reg) : State :=
  if d = 1 then s.modMe fun t => { t with returns := ((s.pc + 4) :: t.returns).take 4 } else s

/-- R64: gd := pc + 4, pc := t. -/
def jumpTo (s : State) (d : Reg) (t : Word) : Out := .next (((pushReturn s d).setGpr d (s.pc + 4)).setPc t)

/-- JAL, R64. -/
def execJal (d : Reg) (off : BitVec 21) (s : State) : Out := jumpTo s d (s.pc + off.signExtend 64 * 4)

/-- R65: a JALR's prediction: the return form pops the return stack; no other form is predicted. -/
def popReturn (s : State) (d a : Reg) (imm : BitVec 16) (t : Word) : State :=
  let ret := d == 0 && a == 1 && imm == 0
  s.modMe fun x => { x with returns := if ret then x.returns.drop 1 else x.returns,
                            notBefore := afterJump s x (ret && x.returns.head? == some t) }

/-- JALR, R64: a target with bits [1:0] nonzero raises MISALIGN, and gd is not written. -/
def execJalr (d a : Reg) (imm : BitVec 16) (s : State) : Out :=
  let t := s.gpr a + imm.signExtend 64
  if t.toNat % 4 ≠ 0 then s.raise (wordOf (.jalr d a imm)) codeMISALIGN t
  else jumpTo (popReturn s d a imm t) d t

/-! ### The THREAD group -/

/-- R68: the status of SPAWN. -/
def spawnStatus (s : State) (entry sel : Word) : Nat :=
  let mode := s.cur.mode
  let tenant := fld sel 16 8
  let newMode := fld sel 8 1
  let k := s.myCore * 4 + fld sel 0 2
  let given := fun (t : Nat) => match s.placeOf s.myPart t with
    | some pl => pl != 0 && fld sel 0 2 != 0 && (s.corePlace s.myCore pl).tthr.getLsbD (fld sel 0 2)
    | none => false
  if fld sel 24 40 ≠ 0 ∨ fld sel 9 7 ≠ 0 ∨ fld sel 2 6 ≠ 0 ∨ (newMode = 1 ∧ tenant ≠ 0) ∨
      (mode ∧ newMode = 0 ∧ tenant = 0) then 1
  else if entry.toNat % 4 ≠ 0 then 2
  else if !mode && (tenant != 0 || newMode != 0 || !given s.cur.tenant) then 3
  else if mode && newMode == 0 && !given tenant then 3
  else if (s.thread k).run != .free then 4
  else 0

/-- SPAWN, R68. The new thread begins with an empty predictor and return stack (log entry 127, DESIGN CHOICE). -/
def execSpawn (d a b : Reg) (s : State) : Out :=
  let sel := s.gpr b
  let st := spawnStatus s (s.gpr a) sel
  if st ≠ 0 then s.finish d (wd st)
  else
    let k := s.myCore * 4 + fld sel 0 2
    let mode := fld sel 8 1 == 1
    let tenant := if s.cur.mode then fld sel 16 8 else s.cur.tenant
    let regs : List (Nat × Word) := [(2, s.gpr 4), (3, s.gpr 3), (30, s.gpr 30), (31, s.gpr 31)]
    let t : ThreadSt :=
      { gpr := regs.foldl (fun g r => Table.putD g r.1 r.2 0) [], pc := s.gpr a, tenant := tenant, mode := mode,
        run := if mode || s.tenantRuns s.myPart tenant then .ready else .resting,
        savedRun := .ready, seq := (s.thread k).seq, notBefore := s.cycle + 2 }
    let s1 := s.setThread k t
    let s2 := if t.run == .resting then (s1.modThread k fun x => { x with run := .ready }).saveThread k else s1
    s2.finish d 0

/-- R73: HALT: the thread is STOPPED with its resume address after the instruction; a tenant thread's HALT is noticed (R344). -/
def haltThread (s : State) : Out :=
  let s1 := (s.drainCore s.myCore).stopThread s.me (s.pc + 4)
  .next (if s.cur.mode then s1 else s1.threadNotice s.me 1 0 (s.pc + 4) 0)

/-- EXIT, R69, R355: thread 0 in supervisor mode halts; an escalated handler on a tenant's thread kills it. -/
def execExit (s : State) : Out :=
  if s.cur.mode && s.me % 4 == 0 then haltThread s
  else .next (s.endThread s.me (s.cur.mode && s.cur.sexl && !s.cur.spmode))

/-- YIELD, R70: the thread gives way in the 3 cycles after this one. -/
def execYield (s : State) : Out := .next ((s.modMe fun t => { t with yieldUntil := s.cycle + 4 }).advance)

/-- PAUSE, R71. -/
def execPause (a : Reg) (s : State) : Out :=
  let n := (s.gpr a).toNat
  if n = 0 then .next s.advance
  else .next (s.modMe fun t =>
    { t with run := .waiting, wait := { code := .pause, deadline := some (s.cycle + n), word := wordOf (.pause a) } })

/-- PAUSE_EXPIRY, R71: the count has run out. -/
def execPauseExpiry (s : State) : Out :=
  let k := s.focus.thread
  let t := s.thread k
  match t.wait.deadline with
  | some dl =>
    if t.run == .waiting && t.wait.code == .pause && dl ≤ s.cycle then
      .next (s.setThread k { t with run := .ready, wait := {}, pc := t.pc + 4 })
    else .refused .notEnabled
  | none => .refused .notEnabled

/-! ### The SYS group -/

/-- TRAP, R72: EVAL = zext(imm16, 16). -/
def execTrap (imm : BitVec 16) (s : State) : Out := s.raise (wordOf (.trap imm)) codeTRAP (imm.setWidth 64)

/-- SVC, R74. -/
def execSvc (imm : BitVec 16) (s : State) : Out := s.raise (wordOf (.svc imm)) codeSVC (imm.setWidth 64)

/-- R356, R379: the side-band holds a break claim on the acting thread's tenant or core. -/
def breakClaimed (s : State) : Bool :=
  (s.core s.myCore).claim == some .sideBand ||
    (s.cur.tenant != 0 && match s.placeOf s.myPart s.cur.tenant with
      | some pl => (s.place s.myPart pl).claim == some .sideBand
      | none => false)

/-- BRK, R72: BREAK with EVAL 0; under a break claim of the side-band the thread stops with FREC written and no handler runs (R356). -/
def execBrk (s : State) : Out :=
  if breakClaimed s then
    let r := s.headlandRec s.me codeBREAK 0 (wordOf .brk) 0
    .next ((s.stopThread s.me s.pc).modMe fun t => { t with frec := r, brkStop := true })
  else s.raise (wordOf .brk) codeBREAK 0

/-- HALT, R73. -/
def execHalt (s : State) : Out := haltThread s

/-- ERET, R27, R75, R326, R416: the way back from a handler, ILLEGAL outside one. A thread that returns to tenant mode while its tenant
is not running rests. -/
def execEret (s : State) : Out :=
  let t := s.cur
  if t.mode then
    if !t.sexl then s.raiseIllegal (wordOf .eret)
    else
      let s1 := s.setThread s.me { t with pc := t.sepc &&& ~~~3#64, mode := t.spmode, sexl := false, notBefore := s.cycle + State.trapGap }
      if t.spmode || s.tenantRuns s.myPart t.tenant then .next s1
      else .next ((s1.drainCore s.myCore).saveThread s.me)
  else if !t.exl then s.raiseIllegal (wordOf .eret)
  else .next (s.setThread s.me { t with pc := t.epc &&& ~~~3#64, mode := t.pmode, exl := false, notBefore := s.cycle + State.trapGap })

/-- R333: the first step boundary at least 1024 cycles away, in steps from the current one. -/
def donationSteps (s : State) : Nat := (s.stepCyc + State.guardCycles + s.stepLen - 1) / s.stepLen

/-- DONATE, R76, R333: acts only for the owner of a slot with a donee, for an edge before the slot's own guard; otherwise a NOP, as it is while a
donation of the slot already waits for its edge (log entry 111). -/
def execDonate (s : State) : Out :=
  let p := s.myPart
  let n := donationSteps s
  match s.entryAt p s.cursor with
  | some (i, w) =>
    let own := !s.cur.mode && s.cur.tenant != 0 && s.running p == s.cur.tenant && !s.donated p i &&
      State.rotOwner w == s.cur.tenant && State.rotDonee w != 0 && (s.part p).donation.isNone
    let early := decide (s.cyclesTo n < s.cyclesTo (State.rotEnd w + 1 - s.cursor) - State.guardCycles)
    if own && early then
      let at_ := s.passNo * 4096 + s.cursor + n
      .next ((s.modPart p fun x =>
        { x with donation := some { entry := i, pass := at_ / 4096, cursor := at_ % 4096, inForce := false } }).advance)
    else .next s.advance
  | none => .next s.advance

/-- UNASSIGNED_HEADLAND_WORD, R42: a precise ILLEGAL trap with EVAL the word. -/
def execUnassignedHeadlandWord (s : State) : Out := s.raiseIllegal s.focus.word

/-- R62: the fault that a fetch at the pc of thread `k` raises, and the place of the word otherwise. -/
def fetchTarget (s : State) (k : Nat) : State × Except Nat Target :=
  let r := s.resolve k (s.thread k).pc .fetch
  match r.2 with
  | .ok t => if r.1.loadPoisoned t 4 then (r.1, .error (r.1.poisonAt t)) else r
  | .error _ => r

/-- FETCH_FAULT, R62: the fault of the fetch, with EPC and EVAL both the address. -/
def execFetchFault (s : State) : Out :=
  let r := fetchTarget s s.me
  match r.2 with
  | .error code => r.1.raise 0 code s.pc
  | .ok _ => .refused .notEnabled

/-! ### Divider, pending traps -/

/-- DIVIDER_DONE, R53: the divider delivers its result. -/
def execDividerDone (s : State) : Out :=
  let c := s.focus.core
  match (s.core c).divider with
  | some x => .next ((s.setGprOf x.thread x.gd x.value).modCore c fun y => { y with divider := none })
  | none => .refused .notEnabled

/-- ASYNC_TRAP_ENTRY, R25, R342. -/
def execAsyncTrapEntry (s : State) : Out :=
  let k := s.focus.thread
  if s.asyncDue k then .next (s.takeAsync k) else .refused .notEnabled

end Sys2Proof.Machine
end

