-- ==== Sys2Proof/Machine/Sync.lean ====
section
/-! DEFINITION. The SYNC group: fences (R226, R250), WAIT and WAITE (R227), barriers (R228, R229) and holds (R230), and the steps that
wake and end a wait. -/

namespace Sys2Proof.Machine

/-! ### WAIT and WAITE (R227) -/

/-- R227: the word satisfies the wait. -/
def waitHolds (isE : Bool) (m v : Word) : Bool := if isE then m == v else m != v

/-- R227: thread `k`, which waits, reads its word again under the checks of R59: it faults, completes, or sleeps on. -/
def waitAgain (s : State) (k : Nat) : State :=
  let t := s.thread k
  let w := t.wait
  let trap := fun (st : State) (code : Nat) => st.trapAt k w.word code w.addr
  if w.addr.toNat % 8 ≠ 0 then trap s codeMISALIGN
  else
    let r := s.resolve k w.addr .load
    match r.2 with
    | .error code => trap r.1 code
    | .ok tg =>
      if r.1.loadPoisoned tg 8 then trap r.1 (r.1.poisonAt tg)
      else
        let x := r.1.readTarget (coreOf k) (s.lineTenant k) tg 8
        let m := wd x.2
        if waitHolds (w.code == .waite) m w.value then
          (x.1.setGprOf k w.gd m).modThread k fun y => { y with run := .ready, wait := {}, pc := y.pc + 4 }
        else x.1.modThread k fun y =>
          { y with run := .waiting, wait := { w with last := some m, readAt := s.cycle, pa := tg.addr, uncached := tg.uncached } }

/-- R227: WAIT or WAITE starts: the thread waits and reads its word. -/
def startWait (s : State) (word : Word32) (code : WaitCode) (d a b : Reg) : Out :=
  let dl := if s.cur.waittmo = 0 then none else some (s.cycle + s.cur.waittmo.toNat)
  .next (waitAgain (s.modMe fun t =>
    { t with wait := { code := code, addr := s.gpr a, value := s.gpr b, deadline := dl, gd := d, word := word } }) s.me)

/-- WAIT, R227. -/
def execWait (d a b : Reg) (s : State) : Out := startWait s (wordOf (.wait d a b)) .wait d a b

/-- WAITE, R227. -/
def execWaite (d a b : Reg) (s : State) : Out := startWait s (wordOf (.waite d a b)) .waite d a b

/-- The thread sleeps in WAIT or WAITE. -/
def asleep (t : ThreadSt) : Bool := t.run == .waiting && (t.wait.code == .wait || t.wait.code == .waite)

/-- R227: a write has woken a sleeper: one on a translated line, which marked it, or one that changed the local word that it watches. -/
def State.wakeDue (s : State) (k : Nat) (t : ThreadSt) : Bool :=
  asleep t && (t.wait.last.isNone || (decide (localBase 0 ≤ t.wait.pa) &&
    some (wd (s.readTarget (coreOf k) 0 { addr := t.wait.pa, isLocal := true, uncached := false } 8).2) != t.wait.last))

/-- R227: 256 cycles have passed since a sleeper on a UC page read its word. -/
def State.rereadDue (s : State) (t : ThreadSt) : Bool := asleep t && t.wait.uncached && decide (t.wait.readAt + 256 ≤ s.cycle)

/-- WAIT_WAKE, R227: a write to the watched word wakes the sleeper, which reads it again. -/
def execWaitWake (s : State) : Out :=
  let k := s.focus.thread
  if s.wakeDue k (s.thread k) then .next (waitAgain s k) else .refused .notEnabled

/-- UC_PAGE_REREAD, R227: a sleeper on a word of a UC page reads it again every 256 cycles. -/
def execUcPageReread (s : State) : Out :=
  let k := s.focus.thread
  if s.rereadDue (s.thread k) then .next (waitAgain s k) else .refused .notEnabled

/-- WAIT_TIMEOUT, R227: WAITTMO cycles have passed: a WAIT completes with the word read now, under fresh checks, a RECV with 0, and
WATCHDOG becomes pending. -/
def execWaitTimeout (s : State) : Out :=
  let k := s.focus.thread
  let t := s.thread k
  let w := t.wait
  let due := match w.deadline with
    | some dl => decide (dl ≤ s.cycle)
    | none => false
  let complete := fun (st : State) (m : Word) =>
    ((st.setGprOf k w.gd m).modThread k fun y => { y with run := .ready, wait := {}, pc := y.pc + 4 }).postAsync k codeWATCHDOG
      (st.headlandRec k codeWATCHDOG 0 w.word m) false
  if t.run == .waiting && w.code == .recv && due then .next (complete s 0)
  else if asleep t && due then
    let r := s.resolve k w.addr .load
    match r.2 with
    | .error code => .next (r.1.trapAt k w.word code w.addr)
    | .ok tg =>
      if r.1.loadPoisoned tg 8 then .next (r.1.trapAt k w.word (r.1.poisonAt tg) w.addr) else
      let x := r.1.readTarget (coreOf k) (s.lineTenant k) tg 8
      .next (complete x.1 (wd x.2))
  else .refused .notEnabled

/-! ### Fences (R226, R250) -/

/-- R226: the outstanding loads of the acting thread return. -/
def loadsReturn (s : State) : State :=
  (s.cur.loads.foldl (fun st l => st.setGpr l.gd l.value) s).modMe fun t => { t with loads := [] }

/-- R226, R243: an earlier BOARD of the thread has not boarded, or a token of an earlier INJ is not yet in its target's store: it stands in
the injection queue or is on its way. -/
def fenceOwes (s : State) (k : Nat) : Bool :=
  (s.thread k).boardGd.isSome || ((List.range 16).any fun pl => (s.corePlace (coreOf k) pl).injq.any fun e => e.thread == k) ||
    s.flights.any fun f => f.2.thread == some k

/-- R226, R243, R250: a release or full fence waits for stores: the core's store buffer is performed, at every scope (note c of R245 counts
on it at plot scope too). A fence never cleans a cache. -/
def fenceStores (s : State) : State := s.drainCore s.myCore

/-- R226: a release or full fence: waits while an earlier operation is not performed, and then goes on. -/
def fenceAll (s : State) (word : Word32) : Out :=
  let s1 := fenceStores (loadsReturn s)
  if fenceOwes s1 s.me then .next (s1.modMe fun t => { t with run := .waiting, wait := { code := .fence, word := word } })
  else .next ((s1.modMe fun t => { t with wait := {} }).advance)

/-- FENCE_ACQ, R226: waits for earlier loads only. -/
def execFenceAcq (_sc : Scope) (s : State) : Out := .next (loadsReturn s).advance

/-- FENCE_REL, R226. -/
def execFenceRel (sc : Scope) (s : State) : Out := fenceAll s (wordOf (.fenceRel sc))

/-- FENCE_FULL, R226. -/
def execFenceFull (sc : Scope) (s : State) : Out := fenceAll s (wordOf (.fenceFull sc))

/-! ### Barriers (R229) -/

/-- R229: the barrier that ga names, or status 1: off, not held by the tenant, or ga[63:4] nonzero. -/
def barrierStatus (s : State) (v : Word) : Nat :=
  let b := fld v 0 4
  if fld v 4 60 ≠ 0 ∨ !s.mayUse s.me b ∨ (s.barrier s.myPart b).count = 0 then 1
  else if !s.isMember s.myPart b s.me then 2
  else if (s.barrier s.myPart b).broken then 3
  else 0

/-- R229: the acting thread arrives at barrier `b`; the phase opens if the count is reached. -/
def arrive (s : State) (b : Nat) : State :=
  let x := s.barrier s.myPart b
  (s.setBarrier s.myPart b { x with arrived := x.arrived + 1, members := s.me :: x.members }).openTest s.myPart b

/-- R229: what BAR and BARW give for a barrier they do not act on: the status with the barrier's PHASE; no phase where the tenant does not
hold the barrier or ga names none. -/
def barrierRefusal (s : State) (v : Word) (st : Nat) : Word :=
  let b := fld v 0 4
  wd (st + if fld v 4 60 ≠ 0 ∨ !s.mayUse s.me b then 0 else (s.barrier s.myPart b).phase * 256)

/-- BAR, R229: arrive without waiting. gd[11:8] is PHASE as it stands when gd is written (log entry 11). -/
def execBar (d a : Reg) (s : State) : Out :=
  let v := s.gpr a
  let b := fld v 0 4
  let x := s.barrier s.myPart b
  let st := barrierStatus s v
  if st ≠ 0 then s.finish d (barrierRefusal s v st)
  else if x.members.contains s.me then s.finish d (wd (4 + x.phase * 256))
  else
    let s1 := arrive s b
    s1.finish d (wd ((s1.barrier s1.myPart b).phase * 256))

/-- BARW, R229: arrive unless arrived, then wait until the phase opens. -/
def execBarw (d a : Reg) (s : State) : Out :=
  let v := s.gpr a
  let b := fld v 0 4
  let x := s.barrier s.myPart b
  let st := barrierStatus s v
  if st ≠ 0 then s.finish d (barrierRefusal s v st)
  else
    let s1 := s.modMe fun t => { t with run := .waiting, wait := { code := .barw, id := b, gd := d, word := wordOf (.barw d a) } }
    .next (if x.members.contains s.me then s1 else arrive s1 b)

/-- BARQ, R229: gd := BARCFG of the barrier in ga[3:0], which reads 0 for a barrier that the tenant does not hold (R228). -/
def execBarq (d a : Reg) (s : State) : Out :=
  let b := fld (s.gpr a) 0 4
  if !s.mayUse s.me b then s.finish d 0
  else s.finish d (State.barcfg (s.barrier s.myPart b))

/-! ### Holds (R230) -/

/-- R230: the tenant may hold. -/
def holdOk (s : State) : Bool := !s.cur.mode && fld (s.place s.myPart s.myPlace).tcfg 8 1 == 1 && s.myPlace != 0

/-- HOLD, R230, R333. -/
def execHold (d : Reg) (s : State) : Out :=
  let near := match s.guardIn s.myPart with
    | some g => decide (g < 256)
    | none => false
  if !holdOk s then s.finish d 1
  else if s.cur.hold.isSome then s.finish d 2
  else if near then s.finish d 3
  else (s.modMe fun t => { t with hold := some s.cycle, broken := false }).finish d 0

/-- UNHOLD, R230. -/
def execUnhold (s : State) : Out := .next ((s.modMe fun t => { t with hold := none }).advance)

/-- HOLD_EXPIRY, R230: a hold ends 256 cycles after its grant. -/
def execHoldExpiry (s : State) : Out :=
  let k := s.focus.thread
  match (s.thread k).hold with
  | some g => if g + 256 ≤ s.cycle then .next (s.modThread k fun t => { t with hold := none }) else .refused .notEnabled
  | none => .refused .notEnabled

end Sys2Proof.Machine
end

