-- ==== Sys2Proof/Machine/Amo.lean ====
section
/-! DEFINITION. The atomic operations that the headland, slots, tiles and share units share (R223, R225), and AMO and CAS (R222, R224). -/

namespace Sys2Proof.Machine

/-- R223: the atomic operations 0 to 14. -/
inductive AtomOp where
  | add | and | or | xor | min | max | minu | maxu | swap | incw | bfadd | fmin | fmax | fadd | tas
  deriving DecidableEq, Repr

/-- R223, R36: the operation that a code names. -/
def atomOfCode (n : Nat) : Option AtomOp :=
  match n with
  | 0 => some .add
  | 1 => some .and
  | 2 => some .or
  | 3 => some .xor
  | 4 => some .min
  | 5 => some .max
  | 6 => some .minu
  | 7 => some .maxu
  | 8 => some .swap
  | 9 => some .incw
  | 10 => some .bfadd
  | 11 => some .fmin
  | 12 => some .fmax
  | 13 => some .fadd
  | 14 => some .tas
  | _ => none

/-- The result of an atomic operation: the new value, the value returned and the flags. -/
structure AtomRes where
  new : Nat
  ret : Nat
  flags : Nat
  deriving DecidableEq, Repr

/-- A w-bit number read as two's complement. -/
def signedOf (w n : Nat) : Int := if n % 2 ^ w < 2 ^ (w - 1) then (n % 2 ^ w : Nat) else (n % 2 ^ w : Nat) - (2 ^ w : Nat)

/-- R223: FMIN and FMAX on f32: a quiet NaN loses to any number, two give the canonical NaN, a signalling NaN gives it on both sides
with NV. -/
def atomPick (lower : Bool) (m v : Nat) : AtomRes :=
  let a := fmtF32.decode m
  let b := fmtF32.decode v
  if nvOf a ||| nvOf b ≠ 0 then { new := fmtF32.nan, ret := fmtF32.nan, flags := fNV }
  else match a.isNan, b.isNan with
    | true, true => { new := fmtF32.nan, ret := m, flags := 0 }
    | true, false => { new := v, ret := m, flags := 0 }
    | false, true => { new := m, ret := m, flags := 0 }
    | false, false =>
      let takeV := if lower then belowV b a else belowV a b
      { new := if takeV then v else m, ret := m, flags := 0 }

/-- R223: FADD on f32, rounded RNE, subnormals kept. A signalling NaN makes the returned value the canonical NaN too. -/
def atomFadd (m v : Nat) : AtomRes :=
  let a := fmtF32.decode m
  let b := fmtF32.decode v
  let r := fAddV fmtF32 .rne false a b
  { new := r.bits, ret := if nvOf a ||| nvOf b ≠ 0 then fmtF32.nan else m, flags := r.flags }

/-- R223: a w-bit atomic operation on m with operand v and bound. -/
def atomic (op : AtomOp) (w m v bound : Nat) : AtomRes :=
  let m := m % 2 ^ w
  let v := v % 2 ^ w
  let bound := bound % 2 ^ w
  let plain := fun (x : Nat) => ({ new := x % 2 ^ w, ret := m, flags := 0 } : AtomRes)
  match op with
  | .add => plain (m + v)
  | .and => plain (m &&& v)
  | .or => plain (m ||| v)
  | .xor => plain (m ^^^ v)
  | .min => plain (if signedOf w v < signedOf w m then v else m)
  | .max => plain (if signedOf w m < signedOf w v then v else m)
  | .minu => plain (if v < m then v else m)
  | .maxu => plain (if m < v then v else m)
  | .swap => plain v
  | .incw => plain (if bound ≤ m then 0 else m + 1)
  | .bfadd => plain (if bound < m then m else min (m + v) bound)
  | .fmin => atomPick true m v
  | .fmax => atomPick false m v
  | .fadd => atomFadd m v
  | .tas => plain (m ||| 2 ^ (v % 64))

/-- R36: the bytes of an AMO or CAS. -/
def amoBytes : AmoSize → Nat
  | .word => 4
  | .dword => 8

/-- R224: the bytes of an atomic are read where its scope performs it, and the state in which they are written: local memory, the coherent
path, or the hub memory controller after the line is cleaned and invalidated. -/
def atomTarget (s : State) (sc : Scope) (t : Target) (n : Nat) : State × Target × Nat :=
  let hub := match sc with
    | .device | .system => true
    | _ => t.uncached
  let s0 := s.drainCore s.myCore
  if t.isLocal then (s0, t, Memory.read s0.mem t.addr n)
  else if hub then
    let s1 := s0.flushLine s.myCore (t.addr / 128)
    (s1, { t with uncached := true }, Memory.read s1.mem t.addr n)
  else
    let r := s0.coherentRead s.myCore (s.lineTenant s.me) t.addr n
    (r.1, t, r.2)

/-- R222: an AMO or CAS with the checks of R59 and R207; `f` gives the new and the returned value from the old one. -/
def atomicAccess (s : State) (word : Word32) (sc : Scope) (n : Nat) (d a : Reg) (f : Nat → AtomRes) : Out :=
  let va := s.gpr a
  if va.toNat % n ≠ 0 then s.raise word codeMISALIGN va
  else
    let r := s.resolve s.me va .atomic
    match r.2 with
    | .error code => r.1.raise word code va
    | .ok t =>
      if r.1.loadPoisoned t n then r.1.raisePoison word va t
      else
        let x := atomTarget r.1 sc t n
        let res := f x.2.2
        (x.1.writeTarget s.myCore (s.lineTenant s.me) x.2.1 n res.new).finish d (wd res.ret)

/-- R222: an AMO whose operand is gb. -/
def amo (s : State) (word : Word32) (op : AtomOp) (sc : Scope) (sz : AmoSize) (d a b : Reg) : Out :=
  atomicAccess s word sc (amoBytes sz) d a fun m => atomic op (8 * amoBytes sz) m (s.gpr b).toNat (s.gpr b).toNat

/-- AMO_ADD, R223. -/
def execAmoAdd (sc : Scope) (sz : AmoSize) (d a b : Reg) (s : State) : Out :=
  amo s (wordOf (.amoAdd sc sz d a b)) .add sc sz d a b

/-- AMO_AND, R223. -/
def execAmoAnd (sc : Scope) (sz : AmoSize) (d a b : Reg) (s : State) : Out :=
  amo s (wordOf (.amoAnd sc sz d a b)) .and sc sz d a b

/-- AMO_OR, R223. -/
def execAmoOr (sc : Scope) (sz : AmoSize) (d a b : Reg) (s : State) : Out :=
  amo s (wordOf (.amoOr sc sz d a b)) .or sc sz d a b

/-- AMO_XOR, R223. -/
def execAmoXor (sc : Scope) (sz : AmoSize) (d a b : Reg) (s : State) : Out :=
  amo s (wordOf (.amoXor sc sz d a b)) .xor sc sz d a b

/-- AMO_MIN, R223. -/
def execAmoMin (sc : Scope) (sz : AmoSize) (d a b : Reg) (s : State) : Out :=
  amo s (wordOf (.amoMin sc sz d a b)) .min sc sz d a b

/-- AMO_MAX, R223. -/
def execAmoMax (sc : Scope) (sz : AmoSize) (d a b : Reg) (s : State) : Out :=
  amo s (wordOf (.amoMax sc sz d a b)) .max sc sz d a b

/-- AMO_MINU, R223. -/
def execAmoMinu (sc : Scope) (sz : AmoSize) (d a b : Reg) (s : State) : Out :=
  amo s (wordOf (.amoMinu sc sz d a b)) .minu sc sz d a b

/-- AMO_MAXU, R223. -/
def execAmoMaxu (sc : Scope) (sz : AmoSize) (d a b : Reg) (s : State) : Out :=
  amo s (wordOf (.amoMaxu sc sz d a b)) .maxu sc sz d a b

/-- AMO_SWAP, R223. -/
def execAmoSwap (sc : Scope) (sz : AmoSize) (d a b : Reg) (s : State) : Out :=
  amo s (wordOf (.amoSwap sc sz d a b)) .swap sc sz d a b

/-- AMO_INCW, R223. -/
def execAmoIncw (sc : Scope) (sz : AmoSize) (d a b : Reg) (s : State) : Out :=
  amo s (wordOf (.amoIncw sc sz d a b)) .incw sc sz d a b

/-- AMO_BFADD, R222, R223: gd is read first as the addend, and gb holds the bound. -/
def execAmoBfadd (sc : Scope) (sz : AmoSize) (d a b : Reg) (s : State) : Out :=
  atomicAccess s (wordOf (.amoBfadd sc sz d a b)) sc (amoBytes sz) d a fun m =>
    atomic .bfadd (8 * amoBytes sz) m (s.gpr d).toNat (s.gpr b).toNat

/-- AMO_FMIN, R223. -/
def execAmoFmin (sc : Scope) (d a b : Reg) (s : State) : Out :=
  amo s (wordOf (.amoFmin sc d a b)) .fmin sc .word d a b

/-- AMO_FMAX, R223. -/
def execAmoFmax (sc : Scope) (d a b : Reg) (s : State) : Out :=
  amo s (wordOf (.amoFmax sc d a b)) .fmax sc .word d a b

/-- AMO_FADD, R223. -/
def execAmoFadd (sc : Scope) (d a b : Reg) (s : State) : Out :=
  amo s (wordOf (.amoFadd sc d a b)) .fadd sc .word d a b

/-- CAS, R222: gd is read as the expected value, gb is the new one. -/
def execCas (sc : Scope) (sz : AmoSize) (d a b : Reg) (s : State) : Out :=
  let w := 8 * amoBytes sz
  atomicAccess s (wordOf (.cas sc sz d a b)) sc (amoBytes sz) d a fun m =>
    { new := if m = (s.gpr d).toNat % 2 ^ w then (s.gpr b).toNat % 2 ^ w else m, ret := m, flags := 0 }

end Sys2Proof.Machine
end

