-- ==== Sys2Proof/Machine/Element.lean ====
section
/-! DEFINITION. Elements, planes and fields (R77, R101, R163), tags and colours (R83 to R89), the network and the output queues (R85, R91,
R103), store pressure (R96, R97), and a fault of a firing (R99, R345, R346). -/

namespace Sys2Proof.Machine

/-! ### Tags (R86) -/

def tagColour (t : Tag) : Nat := bits t.toNat 52 12
def tagDepth (t : Tag) : Nat := bits t.toNat 48 4
def tagField (t : Tag) (k : Nat) : Nat := bits t.toNat (40 - 8 * k) 8

/-- R86: the tag with field `k` set. -/
def setTagField (t : Tag) (k v : Nat) : Tag := setFld t (40 - 8 * k) 8 v
def setTagDepth (t : Tag) (d : Nat) : Tag := setFld t 48 4 d
def setTagColour (t : Tag) (c : Nat) : Tag := setFld t 52 12 c

/-- R86, R79: the innermost field; 0 at depth 0. -/
def tagIx (t : Tag) : Nat := if tagDepth t = 0 ∨ 6 < tagDepth t then 0 else tagField t (tagDepth t - 1)

/-- R86: the tag with its innermost field set. -/
def setTagIx (t : Tag) (v : Nat) : Tag := if tagDepth t = 0 then t else setTagField t (tagDepth t - 1) v

/-- R93: the tag with its innermost field removed. -/
def tagOuter (t : Tag) : Tag := if tagDepth t = 0 then t else setTagDepth (setTagIx t 0) (tagDepth t - 1)

/-- R128: the tag with a new innermost field `v`. -/
def tagPush (t : Tag) (v : Nat) : Tag := setTagDepth (setTagField t (tagDepth t) v) (tagDepth t + 1)

/-- R86, R164: DEPTH is at most 6 and every field at or above it is 0. -/
def tagLegal (t : Tag) : Bool :=
  tagDepth t ≤ 6 && (List.range 6).all fun k => k < tagDepth t || tagField t k == 0

/-! ### Token kinds and widths (R83) -/

def kData : Nat := 0
def kPredicate : Nat := 1
def kEos : Nat := 2
def kScale : Nat := 3
def kReap : Nat := 4
def kArc : Nat := 5
def kMail : Nat := 6

/-- R83: lanes of a width code: width 2^code bits. -/
def laneWidth (code : Nat) : Nat := 2 ^ code
def lanesOf (code : Nat) : Nat := 1024 / 2 ^ code

/-- R83: the width code of a lane width. -/
def widthCode (w : Nat) : Nat := if w ≤ 1 then 0 else if w ≤ 2 then 1 else if w ≤ 4 then 2 else if w ≤ 8 then 3 else if w ≤ 16 then 4 else 5

/-- R84: a payload whose lanes from VALID up are 0. -/
def maskPayload (code valid p : Nat) : Payload := BitVec.ofNat 1024 (p % 2 ^ (laneWidth code * valid))

/-- A token whose payload holds only its valid lanes (R84). -/
def mkToken (tag : Tag) (kind valid code payload : Nat) : Token :=
  { tag := tag, kind := kind, valid := valid, width := code, payload := maskPayload code valid payload }

/-- R83: an EOS token. -/
def eosToken (tag : Tag) (code : Nat) : Token := mkToken tag kEos 0 code 0

/-- R85: the flits of a token. -/
def flits (t : Token) : Nat :=
  if t.kind = kEos ∨ t.kind = kReap ∨ t.kind = kArc ∨ t.valid = 0 then 1
  else if t.valid * laneWidth t.width ≤ 512 then 2 else 3

/-- Lane `i` of a token. -/
def Token.lane (t : Token) (i : Nat) : Nat := bits t.payload.toNat (laneWidth t.width * i) (laneWidth t.width)

/-! ### Plane words (R163) -/

def pwDie (w : Word) : Nat := fld w 10 2
def pwY (w : Word) : Nat := fld w 5 5
def pwX (w : Word) : Nat := fld w 0 5
def pwCols (w : Word) : Nat := fld w 16 5 + 1
def pwRows (w : Word) : Nat := fld w 24 5 + 1

/-- R163: the elements of a plane's rectangle, in order of row, then column. -/
def planeElems (w : Word) : List Nat :=
  (List.range (pwRows w)).flatMap fun r => (List.range (pwCols w)).map fun c => elemKey (pwDie w) (pwX w + c) (pwY w + r)

/-- R163: the element lies in the rectangle. -/
def inPlane (w : Word) (e : Nat) : Bool :=
  elemDie e == pwDie w && pwX w ≤ elemX e && elemX e < pwX w + pwCols w && pwY w ≤ elemY e && elemY e < pwY w + pwRows w

/-- R163: two rectangles share an element. -/
def planesMeet (v w : Word) : Bool :=
  pwDie v == pwDie w && windowsMeetNat (pwX v) (pwCols v) (pwX w) (pwCols w) && windowsMeetNat (pwY v) (pwRows v) (pwY w) (pwRows w)
where
  windowsMeetNat (a n b m : Nat) : Bool := decide (a < b + m) && decide (b < a + n)

/-- R101: the number of a field: its origin element and its tenant. -/
def fieldKey (w : Word) (tenant : Nat) : Nat := elemKey (pwDie w) (pwX w) (pwY w) * 256 + tenant

/-- R46, R47: a slot of a plane; empty slots are 0. -/
def PlaneSt.slotWord (p : PlaneSt) (n : Nat) : Word32 := (Table.getD p.slots n 0).extractLsb' 0 32
def PlaneSt.sideWord (p : PlaneSt) (n : Nat) : Word32 := (Table.getD p.slots n 0).extractLsb' 32 32

/-- R83, R350: the control word of a token. -/
def controlWord (t : Token) : Nat := t.kind * 2 ^ 14 + t.valid * 2 ^ 3 + t.width

/-- R350: a token record of 256 bytes as one number, the byte at offset 0 least significant. -/
def tokenRecord (t : Token) (slot pos flags age extra : Nat) : Nat :=
  t.tag.toNat + controlWord t * 2 ^ 64 + slot * 2 ^ 96 + pos * 2 ^ 104 + flags * 2 ^ 112 + age % 2 ^ 64 * 2 ^ 128 + extra * 2 ^ 192 +
    t.payload.toNat * 2 ^ 1024

/-- R350: the token of a record. -/
def recordToken (r : Nat) : Token :=
  { tag := wd (bits r 0 64), kind := bits r 78 3, valid := bits r 67 11, width := bits r 64 3, payload := BitVec.ofNat 1024 (bits r 1024 1024) }

/-- R330, R332: the tenant that uses an element once `tenant` has sown or configured it: the supervisor's use leaves a tenant's in place, so that its
guard saves the element. -/
def ElemSt.userOf (x : ElemSt) (tenant : Nat) : Option Nat := if tenant = 0 ∧ x.usedBy.isSome then x.usedBy else some tenant

namespace State

/-! ### Elements and fields -/

def elem (s : State) (e : Nat) : ElemSt := Table.getD s.elems e {}
def setElem (s : State) (e : Nat) (x : ElemSt) : State := { s with elems := Table.put s.elems e x }
def modElem (s : State) (e : Nat) (f : ElemSt → ElemSt) : State := s.setElem e (f (s.elem e))

def field (s : State) (k : Nat) : FieldSt := Table.getD s.fields k {}
def setField (s : State) (k : Nat) (x : FieldSt) : State := { s with fields := Table.put s.fields k x }
def modField (s : State) (k : Nat) (f : FieldSt → FieldSt) : State := s.setField k (f (s.field k))

/-- R101: the field of an element's active plane. -/
def fieldAt (s : State) (e : Nat) : Option Nat := (s.elem e).activeOf.map fun w => fieldKey w (s.elem e).owner

/-- The plane word of an element's active plane. -/
def planeAt (s : State) (e : Nat) : Word := (s.elem e).activeOf.getD 0

/-- The partition of an element, and the place of its active plane's tenant. -/
def elemPart (s : State) (e : Nat) : Nat := s.partOf (coreOfElem e)
def elemPlace (s : State) (e : Nat) : Nat := (s.placeOf (s.elemPart e) (s.elem e).owner).getD 0

/-- R163: the rectangle of a plane word is legal and lies in partition `p`. -/
def planeLegal (s : State) (p : Nat) (w : Word) : Bool :=
  fld w 12 4 == 0 && fld w 21 3 == 0 && fld w 29 35 == 0 && pwX w + pwCols w ≤ 32 && pwY w + pwRows w ≤ 32 &&
    (List.range (pwCols w)).all fun c => (s.part p).hasCore (coreOfElem (elemKey (pwDie w) (pwX w + c) (pwY w)))

/-- R345: every source into the field is gated and no new set issues: HALTR holds it, or a fault of an earlier cycle halts it. -/
def fieldStopped (s : State) (k : Nat) : Bool :=
  (s.field k).halted || ((s.field k).fault.isSome && decide ((s.field k).faultAt < s.cycle))

/-- R345: sources into the field are gated. -/
def fieldGated (s : State) (k : Nat) : Bool := (s.field k).halted || (s.field k).fault.isSome

/-- R329: the tenant of a partition's fields and generators runs: the supervisor's always, a tenant's in its slot outside its guard. -/
def tenantActive (s : State) (p t : Nat) : Bool := t == 0 || s.tenantRuns p t

/-! ### Colours (R88, R89) -/

def colour (s : State) (p c : Nat) : ColourSt := Table.getD (s.part p).colours c .free

/-- R88: the granted width code of a colour; `none` for a free colour. -/
def colourWidth (s : State) (p c : Nat) : Option Nat :=
  match s.colour p c with
  | .free => none
  | .context _ w _ => some w
  | .frame _ w _ _ => some w

/-- R88: who holds a colour. -/
def colourTenant (s : State) (p c : Nat) : Option Nat := colourOwner (s.colour p c)

/-- R88: the lowest-numbered free colour. -/
def freeColour (s : State) (p : Nat) : Option Nat :=
  (List.range 4096).find? fun c => s.colour p c == .free

/-- R334: the tenant's colour quota is used up. -/
def colourQuotaFull (s : State) (p t : Nat) : Bool :=
  let q := fld (s.place p ((s.placeOf p t).getD 0)).tquota 0 13
  t != 0 && q != 0 && decide (q ≤ s.coloursHeld p t)

def setColour (s : State) (p c : Nat) (x : ColourSt) : State :=
  s.modPart p fun y => { y with colours := Table.putD y.colours c x .free }

/-- R89: the tags of the tokens that an element holds. -/
def elemTags (x : ElemSt) : List Tag :=
  (x.store.map fun t => t.token.tag) ++ (x.combs.map fun t => t.tag) ++ (x.outq.map fun t => t.token.tag) ++
    (x.scaleq.map fun t => t.token.tag) ++ (x.mailq.map fun t => t.token.tag) ++ ((x.captured ++ x.owed).map fun f => f.token.tag) ++ (x.iter.map fun i => i.tag).toList ++ (x.accrd.map fun i => i.tag).toList ++
    (x.pend.map fun t => t.2.tag) ++ x.cturn.map fun t => t.2.key

/-- R89: how many tokens of an element carry a colour. -/
def elemCount (x : ElemSt) (c : Nat) : Nat := ((elemTags x).filter fun t => tagColour t == c).length

/-- R350: where spill record `r` of an element stands. -/
def spillAddr (s : State) (e r : Nat) : Nat :=
  scratchBase e + (Table.getD s.windows (e * 16 + s.elemPlace e) {}).spillbase + 256 * r

/-- R89, R97: how many spill records of an element carry a colour. -/
def spillCount (s : State) (e c : Nat) : Nat :=
  ((s.elem e).spills.filter fun r => bits (Memory.read s.mem (s.spillAddr e r.record) 8) 52 12 == c).length

/-- R89, R97: how many spill records of a saved element, by its key, carry a colour. -/
def savedSpills (s : State) (key : Nat) (x : ElemSt) (c : Nat) : Nat :=
  (x.spills.filter fun r =>
    bits (Memory.read s.mem (scratchBase (key / 16) + (Table.getD s.windows key {}).spillbase + 256 * r.record) 8) 52 12 == c).length

/-- The partition that a token on the network belongs to. -/
def boundPart (s : State) : Bound → Nat
  | .elem e _ _ => s.elemPart e
  | .scale e _ _ => s.elemPart e
  | .tile t _ => s.partOf (coreOfTile t)
  | .share e => s.elemPart e

/-- R89, R415: the live-token count of a colour. Every element of the device is counted, resident, saved or halted: a colour's tokens lie in its
partition only, and what HALTR has taken out counts until RESUMER finds it gone. -/
def liveCount (s : State) (p c : Nat) : Nat :=
  ((s.elems.filter fun e => s.elemPart e.1 == p).map fun e => elemCount e.2 c + s.spillCount e.1 c).sum +
  ((s.savedElems.filter fun e => s.elemPart (e.1 / 16) == p).map fun e => elemCount e.2 c + s.savedSpills e.1 e.2 c).sum +
  ((s.haltElems.filter fun e => s.elemPart (e.1 / 16) == p).map fun e => elemCount e.2 c).sum +
  (s.flights.filter fun f => tagColour f.2.token.tag == c && s.boundPart f.2.bound == p).length

/-- R89: a frame that has been left by ret, or a released context, returns to free when its count is 0. -/
def settleColour (s : State) (p c : Nat) : State :=
  let done := match s.colour p c with
    | .free => false
    | .context _ _ released => released
    | .frame _ _ _ returned => returned
  if done && s.liveCount p c == 0 then s.setColour p c .free else s

/-- R89: settles the colours of tokens that have left the count. -/
def settleColours (s : State) (p : Nat) (cs : List Nat) : State := cs.foldl (fun st c => st.settleColour p c) s

/-! ### Fallow (R102) -/

/-- R102: a token enters a region: what the tree has reported of its element's field, bed and partition no longer holds. -/
def unreport (s : State) (e : Nat) : State :=
  let s1 := match s.fieldAt e with
    | some k => s.modField k fun f => { f with reported := false, bedsReported := f.bedsReported.filter fun b => b != (s.elem e).active.bed }
    | none => s
  if (s.part (s.elemPart e)).reported then s1.modPart (s.elemPart e) fun p => { p with reported := false } else s1

/-- R102, R345: no firing of an element is in progress at cycle `now`: every result is ready, the ports are free, accumulators and memory are done. -/
def firingsDone (x : ElemSt) (now : Nat) : Bool :=
  decide (x.doneAt ≤ now) && decide (x.vcFree ≤ now) && decide (x.mxFree ≤ now) && decide (x.memDone ≤ now) &&
    x.accs.all fun a => decide (a.2.appliedAt ≤ now)

/-- R102: nothing of an element's own keeps it from being fallow. -/
def elemQuiet (x : ElemSt) (now : Nat) : Bool :=
  x.store.isEmpty && x.combs.isEmpty && x.loops.isEmpty && x.reaps.isEmpty && x.outq.isEmpty && x.scaleq.isEmpty && x.mailq.isEmpty &&
    x.iter.isNone && x.accrd.isNone && x.pend.isEmpty && x.spills.isEmpty && x.cturn.all (fun c => !c.2.emitting) && firingsDone x now

/-- R102: a token is bound for the element, or one it sent is still to be accepted by a tile or share unit. -/
def boundFor (f : FlightSt) (e : Nat) : Bool :=
  match f.bound with
  | .elem d _ _ => d == e
  | .scale d _ _ => d == e
  | .tile _ _ => f.src == e
  | .share d => d == e

/-- R102: an element is fallow. -/
def elemFallow (s : State) (e : Nat) : Bool := elemQuiet (s.elem e) s.cycle && s.flights.all fun f => !boundFor f.2 e

/-! ### Sending (R85, R91) -/

/-- Puts a token on the network. -/
def launch (s : State) (f : FlightSt) : State :=
  let s1 := match f.bound with
    | .elem e _ _ => s.unreport e
    | .scale e _ _ => s.unreport e
    | _ => s
  { s1 with flights := Table.put s1.flights s1.flightNext f, flightNext := s1.flightNext + 1 }

/-- R47: where a route word leads, relative to the origin of a plane. -/
def routeBound (e : Nat) (plane : Word) (r : Word) : Bound :=
  let t := elemKey (pwDie plane) (pwX plane + fld r 57 5) (pwY plane + fld r 52 5)
  match fld r 62 2 with
  | 0 => .elem t (fld r 48 4) (fld r 46 2)
  | 1 => .tile (tileKey (pwDie plane) (pwX plane + fld r 57 5) (fld r 52 1)) (fld r 48 4)
  | 2 => .share e
  | _ => .scale t (fld r 48 4) (fld r 46 2)

/-- R85, R238: hops from an element to where a token is bound. -/
def hops (e : Nat) : Bound → Nat
  | .elem d _ _ => dist (elemX e) (elemX d) + dist (elemY e) (elemY d)
  | .scale d _ _ => dist (elemX e) (elemX d) + dist (elemY e) (elemY d)
  | .tile t _ => dist (elemX e) (tileX t) + (if t % 2 = 0 then elemY e + 1 else 32 - elemY e)
  | .share _ => 0
where
  dist (a b : Nat) : Nat := (a - b) + (b - a)

/-- R46, R47: sends a token from a slot of an element to a destination code, its result ready at cycle `ready`. An EOS token bound for the
mailbox keeps its kind until it is delivered (R103), which tells MAIL's acceptance token from MAIL's own. -/
def send (s : State) (e slot code : Nat) (t : Token) (ready : Nat) : State :=
  if code = 63 then s
  else if code < 32 then
    s.launch { src := e, bound := .elem e (code % 16) (code / 16), token := t, at_ := ready + 1, isLocal := true, issued := s.cycle }
  else
    let x := s.elem e
    let o : OutTok := { dst := code, token := if code = 48 ∧ t.kind ≠ kEos then { t with kind := kMail } else t, readyAt := ready, slot := slot,
                          issued := s.cycle }
    let s1 := s.unreport e
    if code ≠ 48 ∧ fld (Table.getD x.active.routes (code % 16) 0) 62 2 = 3 then
      s1.modElem e fun y => { y with scaleq := y.scaleq ++ [{ o with token := { t with kind := kScale } }] }
    else s1.modElem e fun y => { y with outq := y.outq ++ [o] }

/-- R96, R287: back-pressure of an edge tile's port: the network holds four tokens for it. -/
def portOpen (s : State) : Bound → Bool
  | .tile t p => decide ((s.flights.filter fun f => f.2.bound == .tile t p).length < 4)
  | _ => true

/-- R85: two tokens are bound for one element on one channel, one tile or one share unit. -/
def sameEnd : Bound → Bound → Bool
  | .elem d _ _, .elem e _ _ => d == e
  | .scale d _ _, .scale e _ _ => d == e
  | .tile t _, .tile u _ => t == u
  | .share d, .share e => d == e
  | _, _ => false

/-- R46, R47: where a token of an output queue is bound; `none`: the mailbox. -/
def outBound (s : State) (e : Nat) (o : OutTok) : Option Bound :=
  if o.dst = 48 then none else some (routeBound e (s.planeAt e) (Table.getD (s.elem e).active.routes (o.dst % 16) 0))

/-- R85: two tokens of an output queue have one end, so that they leave in the order in which they issued. -/
def sameWay (s : State) (e : Nat) (o q : OutTok) : Bool :=
  match s.outBound e o, s.outBound e q with
  | some a, some b => sameEnd a b
  | none, none => true
  | _, _ => false

/-- R103: the home core of an element's plane and the place of its tenant, whose mailbox its mail reaches. -/
def mailHome (s : State) (e : Nat) : Option (Nat × Nat) := (s.fieldAt e).map fun k => ((s.field k).homeCore, s.elemPlace e)

/-- R91, R103: a mailbox has a place beside the tokens on their way to it. -/
def mailRoom (s : State) (c pl : Nat) : Bool :=
  decide ((s.corePlace c pl).mailbox.length + (s.elems.map fun x => if s.mailHome x.1 = some (c, pl) then x.2.mailq.length else 0).sum < 32)

/-- R91, R287: the end of a token of an output queue lets it leave: a full mailbox (R103) and an edge tile's port with four tokens waiting (log entry
112) do not. -/
def letsLeave (s : State) (e : Nat) (o : OutTok) : Bool :=
  match s.outBound e o with
  | some b => s.portOpen b
  | none => match s.mailHome e with
    | some (c, pl) => s.mailRoom c pl
    | none => false

/-- R85: the cycle from which on a token of an output queue may leave: its result is ready, and so are those of the tokens with the same end that
issued before it. -/
def leavesAt (s : State) (e : Nat) (l : List OutTok) (o : OutTok) : Nat :=
  (l.takeWhile fun q => q != o).foldl (fun m q => if s.sameWay e q o then max m q.readyAt else m) o.readyAt

/-- R85, R91: the head of an output queue: of the tokens that may leave now, the one that could do so first. -/
def queueHead (s : State) (e : Nat) (l : List OutTok) : Option OutTok :=
  (l.filter fun o => decide (s.leavesAt e l o ≤ s.cycle)).foldl (fun (best : Option OutTok) o => match best with
    | none => some o
    | some b => if s.leavesAt e l o < s.leavesAt e l b then some o else some b) none

/-- R85, R103: a token leaves an output queue: on the network it arrives as R85 says; a mail token is on its way to the mailbox. -/
def leave (s : State) (e : Nat) (o : OutTok) : State :=
  match s.outBound e o with
  | some b => s.launch { src := e, bound := b, token := o.token, at_ := max o.readyAt s.cycle + hops e b + flits o.token, issued := o.issued }
  | none => s.modElem e fun x => { x with mailq := x.mailq ++ [{ o with readyAt := max o.readyAt s.cycle }] }

/-- R85, R91: the tokens of an output queue that can leave do, head first; a head that its end keeps in holds up the rest. -/
def pumpQueue (s : State) (e : Nat) : Nat → List OutTok → State × List OutTok
  | 0, l => (s, l)
  | n + 1, l =>
    match s.queueHead e l with
    | some o => if s.letsLeave e o then pumpQueue (s.leave e o) e n (l.erase o) else (s, l)
    | none => (s, l)

/-- R85, R91: both output queues of an element move on. -/
def pumpElem (s : State) (e : Nat) : State :=
  let r := s.pumpQueue e (s.elem e).outq.length (s.elem e).outq
  let s1 := r.1.modElem e fun y => { y with outq := r.2 }
  let r2 := s1.pumpQueue e (s1.elem e).scaleq.length (s1.elem e).scaleq
  r2.1.modElem e fun y => { y with scaleq := r2.2 }

/-- R85: every element's queues move on at the end of a cycle. -/
def pump (s : State) : State :=
  (s.elems.filter fun e => !(e.2.outq.isEmpty && e.2.scaleq.isEmpty)).foldl (fun st e => st.pumpElem e.1) s

/-! ### Store pressure (R96 to R98) -/

/-- R96: occupied matching-store entries: tokens, COMB entries and LOOP entries. -/
def occupied (x : ElemSt) : Nat := x.store.length + x.combs.length + x.loops.length

/-- R96: the activation whose earliest token arrived first. -/
def oldest (x : ElemSt) : Option Tag := x.store.head?.map fun t => t.token.tag

/-- R96: the store takes a token of the tag; with it the token brings `more` entries of its own. With 56 or more entries of COMB and LOOP and no
token there is no oldest activation: tokens of every activation are then taken up to 64 (log entry 122). -/
def storeTakes (x : ElemSt) (t : Tag) (more : Nat := 0) : Bool :=
  occupied x < 56 || (occupied x + more < 64 && (oldest x == some t || x.store.isEmpty))

/-- R91, R96, R97: how many of some local results on their way would need a record of the spill area if `more` further entries were occupied: those of
the oldest activation have the places up to 64, the others those up to 56 (log entry 122). -/
def spillNeed (x : ElemSt) (more : Nat) (tags : List Tag) : Nat :=
  let first := oldest x <|> tags.head?
  let old := (tags.filter fun t => some t == first).length
  let n := occupied x + more
  (old - (64 - n)) + (tags.length - old - (56 - (n + old)))

/-- R97: how many records the element's spill area has. -/
def spillRoom (s : State) (e : Nat) : Nat :=
  let w := Table.getD s.windows (e * 16 + s.elemPlace e) {}
  (w.spilllim - w.spillbase) / 256

/-- R97: a free record of the spill area. -/
def freeSpill (s : State) (e : Nat) : Option Nat :=
  (List.range (s.spillRoom e)).find? fun r => (s.elem e).spills.all fun x => x.record != r

/-- R98, R175: the spill area holds records and none is free. An area of 0 records is not full: SPFULL reads 0 at reset (log entry 25). -/
def spillFull (s : State) (e : Nat) : Bool := s.spillRoom e != 0 && (s.freeSpill e).isNone

/-- R90: puts a token into the store by its arrival stamp. -/
def insertTok (t : StoreTok) : List StoreTok → List StoreTok
  | [] => [t]
  | u :: r => if t.stamp < u.stamp then t :: u :: r else u :: insertTok t r

/-- R90: a list of tokens without one occurrence of each token taken. -/
def eraseToks (l taken : List StoreTok) : List StoreTok := taken.foldl List.erase l

/-- R97, R100: what the spill area takes: a token, or an entry of COMB. -/
inductive Spillable where
  | tok (t : StoreTok)
  | comb (c : CombSt)
  deriving DecidableEq, Repr

def Spillable.tag : Spillable → Tag
  | .tok t => t.token.tag
  | .comb c => c.tag
def Spillable.stamp : Spillable → Nat
  | .tok t => t.stamp
  | .comb c => c.stamp

/-- R346: an operand that RESUMER restored. -/
def Spillable.retry : Spillable → Bool
  | .tok t => t.retry
  | .comb _ => false

/-- R350: the record of what is spilled. -/
def Spillable.record (now : Nat) : Spillable → Nat
  | .tok t => tokenRecord t.token t.slot t.pos (b2n t.faulted) (now - t.stamp) 0
  | .comb c => tokenRecord { tag := c.tag, kind := if c.allEos then kEos else kData, valid := c.valid, width := c.width,
                             payload := BitVec.ofNat 1024 c.payload } c.slot 0 2 (now - c.stamp) c.taken

/-- R97, R100, R345: what a store could evict: its tokens that no fault holds, and its COMB entries. -/
def spillables (x : ElemSt) : List Spillable :=
  ((x.store.filter fun t => !t.faulted).map Spillable.tok) ++ x.combs.map Spillable.comb

/-- R96: when an activation's earliest token still present arrived. -/
def activationStamp (l : List Spillable) (t : Tag) : Nat :=
  (l.filter fun y => y.tag == t).foldl (fun m y => min m y.stamp) (l.foldl (fun m y => max m y.stamp) 0)

/-- The member of a list with the greatest key; of several, the last. -/
def lastMax (key : Spillable → Nat) (l : List Spillable) : Option Spillable :=
  l.foldl (fun best y => match best with
    | none => some y
    | some b => if key b ≤ key y then some y else some b) none

/-- R97: the most recently arrived token of the youngest activation; of activations or tokens of one cycle, the one that stands later. -/
def evictee (x : ElemSt) : Option Spillable :=
  let l := spillables x
  match lastMax (fun y => activationStamp l y.tag) l with
  | none => none
  | some a => lastMax Spillable.stamp (l.filter fun y => y.tag == a.tag)

/-- R98: since when some element of the field has a full spill area. -/
def noteFull (s : State) (e : Nat) : State :=
  match s.fieldAt e with
  | none => s
  | some k =>
    let any := (s.elems.map (·.1)).any fun d => s.fieldAt d == some k && s.spillFull d
    s.modField k fun f => { f with fullSince := if any then some (f.fullSince.getD s.cycle) else none }

/-- R97: writes a token or an entry to a free record of the spill area; it takes the scratchpad port for 2 cycles. -/
def spillTok (s : State) (e r : Nat) (t : Spillable) : State :=
  let m := Memory.write s.mem (s.spillAddr e r) 256 (t.record s.cycle)
  (State.modElem { s with mem := m } e fun x =>
    { x with spills := x.spills ++ [{ record := r, since := s.cycle, retry := t.retry }], spFree := max x.spFree s.cycle + 2 }).noteFull e

/-- R97, R100: evicts one token or entry for a token that waits at the closed gate. -/
def evict (s : State) (e : Nat) : State :=
  match s.freeSpill e, evictee (s.elem e) with
  | some r, some t =>
    (s.modElem e fun x => match t with
      | .tok u => { x with store := x.store.erase u }
      | .comb c => { x with combs := x.combs.erase c }).spillTok e r t
  | _, _ => s

/-- R350: the word of a spill record, and when what it holds arrived. -/
def spillWord (s : State) (e : Nat) (r : SpillSt) : Nat := Memory.read s.mem (s.spillAddr e r.record) 256
def spillStamp (s : State) (e : Nat) (r : SpillSt) : Nat := r.since - bits (s.spillWord e r) 128 64

/-- R97: of some spill records, the one whose token arrived first. -/
def earliestSpill (s : State) (e : Nat) (l : List SpillSt) : Option SpillSt :=
  l.foldl (fun (best : Option SpillSt) r => match best with
    | none => some r
    | some b => if s.spillStamp e r < s.spillStamp e b then some r else some b) none

/-- R97: the spill record of a key: of several, the one whose token arrived first (log entry 123). -/
def spilledKey (s : State) (e slot pos : Nat) (tag : Tag) : Option Nat :=
  (s.earliestSpill e ((s.elem e).spills.filter fun r =>
    let a := s.spillAddr e r.record
    Memory.read s.mem a 8 == tag.toNat && Memory.read s.mem (a + 12) 2 == slot + pos * 256)).map (·.record)

/-- R97: a token whose key a spill record holds has arrived: that record reloads next, after those asked for before it. -/
def askReload (s : State) (e : Nat) (r : Option Nat) : State :=
  match r with
  | some r => s.modElem e fun x => { x with reloadNext := if x.reloadNext.contains r then x.reloadNext else x.reloadNext ++ [r] }
  | none => s

/-- R97: a spill record leaves the spill area; it takes the scratchpad port for 2 cycles. -/
def unspill (s : State) (e : Nat) (r : SpillSt) : State :=
  (s.modElem e fun x : ElemSt =>
    { x with spills := x.spills.filter fun y => y.record != r.record, reloadNext := x.reloadNext.filter fun n => n != r.record,
             spFree := max x.spFree s.cycle + 2 }).noteFull e

/-! ### A fault of a firing (R99, R341, R345, R346) -/

/-- R341: the record of a fault at an element. -/
def elementRec (s : State) (e slot pos target code : Nat) (tag : Tag) (op : Word) : FaultRec :=
  let x := s.elem e
  { f0 := wd (2 ^ flagHELD + 2 ^ flagFHALT + 256 + code),
    f1 := wd (elemDie e * 2 ^ 38 + elemX e * 2 ^ 33 + elemY e * 2 ^ 28 + slot * 2 ^ 24 + pos * 2 ^ 22 +
      stripOfCore (coreOf target) * 2 ^ 19 + target % 4 * 2 ^ 17),
    f2 := tag, f3 := (x.active.slotWord slot).setWidth 64, f4 := (x.active.sideWord slot).setWidth 64, f5 := op, f6 := s.when,
    f7 := wd (s.placeAsid (coreOfElem e) (s.elemPart e) (s.elemPlace e) * 2 ^ 32 + x.owner) }

/-- R345: the thread that takes a field's trap: the one that issued its SWAP unless it is FREE, else the lowest-numbered thread of the
tenant on the home core. -/
def faultTarget (s : State) (f : FieldSt) : Option Nat :=
  if (s.thread f.homeThread).run != .free then some f.homeThread
  else ((List.range 4).map fun i => f.homeCore * 4 + i).find? fun k =>
    (s.thread k).run != .free && (s.thread k).tenant == f.tenant

end State

/-- Two records are of one fault: they differ in FLAGS at most. -/
def FaultRec.sameFault (a b : FaultRec) : Bool := { a with f0 := 0 } == { b with f0 := 0 } && fld a.f0 0 16 == fld b.f0 0 16

namespace State

/-- R346: the record of a field's fault is rewritten wherever it stands: with the field and, once its trap is posted, in the pending trap that carries
it or in the registers of the thread that has taken it. -/
def rewriteFault (s : State) (k code : Nat) (old new : FaultRec) : State :=
  let s1 := s.modField k fun f => { f with fault := some (code, new) }
  match if (s.field k).posted then s.faultTarget (s.field k) else none with
  | none => s1
  | some t => s1.modThread t fun x =>
    let put := fun (q : FaultRec) => if q.sameFault old then { new with f0 := new.f0 ||| (q.f0 &&& wd (2 ^ flagLOST + 2 ^ flagESC)) } else q
    { x with pend := x.pend.map fun q => if q.frec.sameFault old then { code := code, frec := put q.frec, fabric := q.fabric } else q,
             frec := put x.frec, sfrec := put x.sfrec }

/-- R346: the order of faults of one cycle: element row, column, slot. -/
def faultOrder (r : FaultRec) : Nat := fld r.f1 28 5 * 512 + fld r.f1 33 5 * 16 + fld r.f1 24 4

/-- R346: a further fault of a field that is already halted, with the record it would have: of the faults of one cycle the first in order is
recorded; the record kept gains MULTI. -/
def addMulti (s : State) (k code : Nat) (r : FaultRec) : State :=
  match (s.field k).fault with
  | none => s
  | some (code0, r0) =>
    if (s.field k).faultAt = s.cycle ∧ faultOrder r < faultOrder r0 then s.rewriteFault k code r0 (r.flag flagMULTI)
    else s.rewriteFault k code0 r0 (r0.flag flagMULTI)

/-- R345: a fault halts the field of an element: the operands named stay in the store, marked FAULTED, and the record is made. The trap or notice
follows once the field has settled (`postFault`). -/
def faultHalt (s : State) (e slot pos code : Nat) (tag : Tag) (op : Word) (held : List StoreTok) : State :=
  let retry := held.any fun t => t.retry
  let s1 := s.modElem e fun x =>
    { x with store := held.foldl (fun l t => l.replace t { t with faulted := true }) x.store }
  match s1.fieldAt e with
  | none => s1
  | some k =>
    let f := s1.field k
    let r := s1.elementRec e slot pos ((s1.faultTarget f).getD 0) code tag op
    let r := if retry then r.flag flagRETRY else r
    if f.fault.isSome then s1.addMulti k code r
    else s1.setField k { f with fault := some (code, r), faultAt := s.cycle, posted := false }

/-- R345: the settle of a faulted field is over: its firings in progress have completed and no token is on its way to its elements, or 384 cycles have
passed (log entry 134). -/
def faultSettled (s : State) (f : FieldSt) : Bool :=
  decide (f.faultAt + 384 ≤ s.cycle) ||
    (planeElems f.word).all fun e => firingsDone (s.elem e) s.cycle && s.flights.all fun g => match g.2.bound with
      | .elem d _ _ => d != e
      | .scale d _ _ => d != e
      | _ => true

/-- R341: a record with the strip and thread of the thread that takes its trap. -/
def withTarget (r : FaultRec) (k : Nat) : FaultRec := { r with f1 := setFld (setFld r.f1 19 3 (stripOfCore (coreOf k))) 17 2 (k % 4) }

/-- R345: the fault of a field is delivered: an asynchronous trap is queued to its target, or notice KIND 3 written. -/
def postFault (s : State) (k : Nat) : State :=
  let f := s.field k
  match f.fault with
  | none => s
  | some (code, r) =>
    if f.posted then s
    else match s.faultTarget f with
      | some t =>
        let r1 := withTarget r t
        (s.setField k { f with fault := some (code, r1), posted := true }).postAsync t code r1 true
      | none => (s.setField k { f with posted := true }).notice f.homeCore 3 code f.tenant (fld r.f1 33 5) (fld r.f1 28 5) 0 0 r.f0 f.word

/-- R345: the faults of fields that have settled are delivered. -/
def postFaults (s : State) : State :=
  (List.filter (fun x : Nat × FieldSt => x.2.fault.isSome && !x.2.posted && s.faultSettled x.2) s.fields).foldl (fun st x => st.postFault x.1) s

end State

end Sys2Proof.Machine
end

