-- ==== Sys2Proof/Machine/Operands.lean ====
section
/-! DEFINITION. The operand forms of slot operations: formats and lane widths (R104, R105), positions read (R45, R90, R122), sources (R79,
R124), the gate (R94, R122), arcs and EOS (R123), result tags (R87), and the end of a firing (R91, R92, R125, R126). -/

namespace Sys2Proof.Machine

/-! ### Formats (R104) -/

/-- R104: the width code of a format; `none` for a code that names no lane width. -/
def fmtWidth (fmt : Nat) : Option Nat :=
  if fmt = 0x01 ∨ fmt = 0x02 ∨ fmt = 0x0A ∨ fmt = 0x0B ∨ fmt = 0x0D ∨ fmt = 0x0F then some 3
  else if fmt = 0x03 ∨ fmt = 0x04 ∨ fmt = 0x08 ∨ fmt = 0x09 then some 4
  else if fmt = 0x05 ∨ fmt = 0x06 ∨ fmt = 0x07 ∨ fmt = 0x17 then some 5
  else if fmt = 0x0C ∨ fmt = 0x0E then some 2
  else if 0x10 ≤ fmt ∧ fmt ≤ 0x16 then some 0
  else none

/-- R104, R106: an integer format, and whether it is signed. -/
def isIntFmt (fmt : Nat) : Bool := 1 ≤ fmt && fmt ≤ 6
def isSignedFmt (fmt : Nat) : Bool := fmt == 1 || fmt == 3 || fmt == 5

/-- R108: the floating-point format of a code; `.sf4` and `.sf8` are read as their elements (R138, R139). -/
def floatFmt (fmt : Nat) : Option FloatFmt :=
  match fmt with
  | 0x07 => some fmtF32
  | 0x08 => some fmtF16
  | 0x09 => some fmtBf16
  | 0x0A => some fmtE4m3
  | 0x0B => some fmtE5m2
  | 0x0C => some fmtE2m1
  | 0x0E => some fmtE2m1
  | 0x0F => some fmtE4m3
  | _ => none

/-- R136: the formats of the vector floating-point opcodes. -/
def isVecFloat (fmt : Nat) : Bool := fmt == 7 || fmt == 8 || fmt == 9

/-! ### Fields of a slot -/

/-- R122: the gate bit, MODE and FMT of the qualifier. -/
def gatedOf (f : SlotFields) : Bool := f.qual.getLsbD 7
def modeOf (f : SlotFields) : Nat := bits f.qual.toNat 5 2
def fmtOf (f : SlotFields) : Nat := bits f.qual.toNat 0 5

/-- R112, R142, R223: a firing of a floating-point operation: of the vector port, of MMA and MMAS, or an f32 operation of ATOMS and ETAS. -/
def isFloatFiring (op : Nat) (f : SlotFields) : Bool :=
  ((op == 0x84 || op == 0x90) && 11 ≤ bits f.extra.toNat 0 4 && bits f.extra.toNat 0 4 ≤ 13) || (0x30 ≤ op && op ≤ 0x42) || op == 0x70 || op == 0x71 || ((op == 0x44 || (0x56 ≤ op && op ≤ 0x5A)) && (floatFmt (fmtOf f)).isSome)

/-- R112: the flags of a list that firings raise by the cycle `now`. -/
def dueFlags (l : List (Nat × Nat)) (now : Nat) : Nat := l.foldl (fun m d => if d.1 ≤ now then m ||| d.2 else m) 0

/-- R111, R112: FPF as the cycle `now` finds it, with the flags of every firing completed by then. -/
def ElemSt.fpfAt (x : ElemSt) (now : Nat) : Nat := x.fpf ||| dueFlags x.fpfDue now

/-- R112: FPF after a firing has issued in cycle `now` that raises its flags when it completes; a matrix firing and a vector firing of one
cycle each keep their own completion. -/
def ElemSt.raiseFlags (x : ElemSt) (now done : Nat) (float : Bool) (flags : Nat) : ElemSt :=
  { x with fpDone := if float then max x.fpDone done else x.fpDone,
           fpf := x.fpf ||| dueFlags x.fpfDue (now - 1),
           fpfDue := (x.fpfDue.filter fun d => decide (now ≤ d.1)) ++ (if flags = 0 then [] else [(done, flags)]) }

/-- R112, R142: a write of FPF in cycle `now`: the flags of firings that complete in this cycle or later are ORed into what is written. -/
def ElemSt.writeFpf (x : ElemSt) (now : Nat) (k : Nat → Nat) : ElemSt :=
  { x with fpf := k (x.fpf ||| dueFlags x.fpfDue (now - 1)), fpfDue := x.fpfDue.filter fun d => decide (now ≤ d.1) }

/-- R112: every earlier-issued floating-point firing of the element has completed. -/
def ElemSt.floatDone (x : ElemSt) (now : Nat) : Bool := decide (x.fpDone ≤ now) && x.accrd.isNone

/-- The opcodes that read select B. -/
def opReadsB (op : Nat) : Bool :=
  op == 0x02 || op == 0x03 || op == 0x06 || op == 0x07 || op == 0x0C || op == 0x0F || (0x10 ≤ op && op ≤ 0x1D) || op == 0x20 ||
  op == 0x21 || (0x24 ≤ op && op ≤ 0x27) || op == 0x29 || op == 0x2A || (0x30 ≤ op && op ≤ 0x35) || op == 0x38 || op == 0x41 ||
  op == 0x43 || (0x50 ≤ op && op ≤ 0x53) || (0x60 ≤ op && op ≤ 0x65) || (0x70 ≤ op && op ≤ 0x72) || op == 0x81 || op == 0x83 ||
  op == 0x84 || op == 0x90 || op == 0x92

/-- R45, R90: the opcodes that read position C as an operand. -/
def opReadsC (op : Nat) : Bool :=
  op == 0x04 || op == 0x14 || op == 0x21 || op == 0x33 || op == 0x63 || op == 0x64 || op == 0x65 || op == 0x71

/-- R90: the positions that a slot reads as operands. -/
def operandPositions (op : Nat) (f : SlotFields) : List Nat :=
  (List.range 3).filter fun p =>
    f.srcA.toNat == p || (opReadsB op && f.srcB.toNat == p) || (p == 2 && opReadsC op)

/-- R90, R122: the positions that a slot reads, its gate included. -/
def slotPositions (op : Nat) (f : SlotFields) : List Nat :=
  (List.range 3).filter fun p => (operandPositions op f).contains p || (p == 2 && gatedOf f)

/-- The opcode and fields of a slot of a plane; `none` for an empty or rejected slot. -/
def PlaneSt.slotAt (x : PlaneSt) (n : Nat) : Option (Nat × Instr × SlotFields) :=
  match decodeSlot (x.slotWord n) (x.sideWord n) with
  | .ok i => some (bits (x.slotWord n).toNat 24 8, i, slotFieldsOf (x.slotWord n) (x.sideWord n))
  | .error _ => none

/-- R90: the positions that slot `n` of a plane reads; an empty slot, and one whose opcode or fields are refused, reads none. -/
def PlaneSt.positions (x : PlaneSt) (n : Nat) : List Nat :=
  match x.slotAt n with
  | some (op, _, f) => slotPositions op f
  | none => []

/-! ### A firing -/

/-- A matched set that fires: its element, slot, opcode and fields, its tag and the tokens it takes, one per position. -/
structure Firing where
  e : Nat
  slot : Nat
  op : Nat
  f : SlotFields
  tag : Tag
  toks : List StoreTok
  deriving DecidableEq, Repr

namespace Firing

/-- The token at a position. -/
def at_ (g : Firing) (p : Nat) : Option StoreTok := g.toks.find? fun t => t.pos == p

/-- The tokens that are operands: a gate token is none (R124). -/
def operands (g : Firing) : List StoreTok := g.toks.filter fun t => (operandPositions g.op g.f).contains t.pos

/-- The width code of the lanes: the operands' or, without any, the gate token's. -/
def width (g : Firing) : Nat :=
  match g.operands.head?, g.toks.head? with
  | some t, _ => t.token.width
  | none, some t => t.token.width
  | none, none => 5

end Firing

/-- R90: the oldest token at a slot's position, for a tag or for any. -/
def oldestAt (x : ElemSt) (slot pos : Nat) (tag : Option Tag) : Option StoreTok :=
  x.store.find? fun t => t.slot == slot && t.pos == pos && !t.faulted && (match tag with
    | some g => t.token.tag == g
    | none => true)

/-- R90: the tokens of a matched set at the given positions: of one tag, or for takeb the oldest at each. -/
def matchedAt (x : ElemSt) (slot : Nat) (tag : Option Tag) : List Nat → Option (List StoreTok)
  | [] => some []
  | p :: ps =>
    match oldestAt x slot p tag, matchedAt x slot tag ps with
    | some t, some ts => some (t :: ts)
    | _, _ => none

/-- R79, R124: a source: a token, or a value that every lane takes. -/
structure Src where
  tok : Option Token
  val : Nat
  deriving DecidableEq, Repr

/-- Lane `i` of a source, in units of `w` bits. -/
def Src.lane (x : Src) (w i : Nat) : Nat :=
  match x.tok with
  | some t => bits t.payload.toNat (w * i) w
  | none => x.val % 2 ^ w

/-- R124: the VALID of a source, `all` where it supplies every lane. -/
def Src.valid (x : Src) (all : Nat) : Nat :=
  match x.tok with
  | some t => t.valid
  | none => all

namespace State

/-- R79: eid: the element's position relative to its plane's origin. -/
def eid (s : State) (e : Nat) : Nat :=
  elemDie e * 1024 + (elemY e - pwY (s.planeAt e)) * 32 + (elemX e - pwX (s.planeAt e))

/-- R79: 64 bits with a value in every lane of `w` bits, truncated to it: lanes and lane pairs alike read it. -/
def everyLane (w v : Nat) : Nat := ((List.range (64 / w)).map fun i => v % 2 ^ w * 2 ^ (w * i)).sum

/-- R45, R79: what a select supplies to a firing. -/
def source (s : State) (g : Firing) (sel : BitVec 4) : Src :=
  if sel.toNat ≤ 2 then { tok := (g.at_ sel.toNat).map (·.token), val := 0 }
  else
    { tok := none,
      val := match sel.toNat with
        | 3 => 0
        | 4 => everyLane (laneWidth g.width) (tagIx g.tag)
        | 5 => everyLane (laneWidth g.width) (s.eid g.e)
        | 6 => everyLane (laneWidth g.width) (laneWidth g.width)
        | n => (Table.getD (s.elem g.e).active.lits (n - 8) 0).toNat }

def srcA (s : State) (g : Firing) : Src := s.source g g.f.srcA
def srcB (s : State) (g : Firing) : Src := s.source g g.f.srcB
def srcC (s : State) (g : Firing) : Src := s.source g 2

/-- R99: a fault raised at a firing: the slot does not fire, and its operands are held. -/
def faultOp (s : State) (g : Firing) (code pos : Nat) (op : Word) : Out :=
  .next (s.faultHalt g.e g.slot pos code g.tag op g.toks)

/-- R341: FREC5 is the first 64 bits at the position. -/
def fault (s : State) (g : Firing) (code pos : Nat) : Out :=
  s.faultOp g code pos (match g.at_ pos with
    | some t => t.token.payload.setWidth 64
    | none => 0)

/-- R24, R341: the position in the record of a fault of the tag or of its action: none, or B for takeb (log entry 26). -/
def tagPos (g : Firing) : Nat := if g.f.action.toNat = 8 then 1 else 3

/-- The first position a firing reads: where a fault of its operand is recorded. -/
def firstPos (g : Firing) : Nat :=
  match g.toks.head? with
  | some t => t.pos
  | none => 3

/-! ### Result tags (R87, R89) -/

/-- R87: the result tag of a firing whose result has width code `w`, and the state with the colour that a call allocates; or the fault. A takeb firing
with no token at B, because its slot reads no position B or because MERGE or LOOP takes the token at A alone, has no tag to take: it raises TAG_DEPTH (log entry
102, DESIGN CHOICE). -/
def resultTag (s : State) (g : Firing) (w : Nat) : Except Nat (State × Tag) :=
  let t := g.tag
  let d := tagDepth t
  let x := s.elem g.e
  let p := s.elemPart g.e
  match g.f.action.toNat with
  | 0 => .ok (s, t)
  | 1 => if d = 0 then .error codeTAGDEPTH else .ok (s, setTagIx t ((tagIx t + 1) % 256))
  | 2 => if 6 ≤ d then .error codeTAGDEPTH else .ok (s, tagPush t 0)
  | 3 => if d = 0 then .error codeTAGDEPTH else .ok (s, tagOuter t)
  | 4 => if d < 2 then .error codeTAGDEPTH else
      let o := tagOuter t
      .ok (s, setTagIx o ((tagIx o + 1) % 256))
  | 5 => if d = 0 then .error codeTAGDEPTH else .ok (s, setTagIx t 0)
  | 6 =>
    match s.freeColour p, s.colourWidth p (tagColour t) with
    | some c, some cw =>
      if s.colourQuotaFull p x.owner then .error codeCOLOUREXHAUSTED
      else .ok (s.setColour p c (.frame x.owner cw t false), setTagColour 0 c)
    | _, _ => .error codeCOLOUREXHAUSTED
  | 7 =>
    match s.colour p (tagColour t) with
    | .frame _ _ caller _ => .ok (s, caller)
    | _ => .error codeTAGDEPTH
  | 8 =>
    match g.at_ 1 with
    | some b => if s.colourWidth p (tagColour b.token.tag) = some w then .ok (s, b.token.tag) else .error codeTAGDEPTH
    | none => .error codeTAGDEPTH
  | _ =>
    let c := fld (Table.getD x.active.lits 7 0) 0 12
    if s.colourTenant p c = some x.owner ∧ s.colourWidth p c = some w then .ok (s, setTagColour t c) else .error codeTAGDEPTH

/-! ### The end of a firing -/

/-- R78: the matrix port takes opcodes 0x70 to 0x74. -/
def onMatrixPort (op : Nat) : Bool := 0x70 ≤ op && op ≤ 0x74

/-- R89: a token leaves the frame of a firing by ret. -/
def leaveFrame (s : State) (g : Firing) : State :=
  let p := s.elemPart g.e
  let c := tagColour g.tag
  if g.f.action.toNat = 7 then match s.colour p c with
    | .frame t w caller _ => s.setColour p c (.frame t w caller true)
    | _ => s
  else s

/-- R90, R92: a firing ends: its tokens leave the store, its results are sent, its flags enter FPF when it completes (R111, R112), its port is held, and colours
whose last token was consumed are settled (R89). -/
def endFiring (s : State) (g : Firing) (taken : List StoreTok) (sends : List (Nat × Token)) (lat hold flags : Nat) : State :=
  let p := s.elemPart g.e
  let s1 := s.modElem g.e fun x =>
    { (x.raiseFlags s.cycle (s.cycle + lat) (isFloatFiring g.op g.f) flags) with
             store := eraseToks x.store taken,
             doneAt := max x.doneAt (s.cycle + lat),
             vcFree := if onMatrixPort g.op then x.vcFree else s.cycle + hold,
             mxFree := if onMatrixPort g.op then s.cycle + hold else x.mxFree }
  let s2 := match s1.fieldAt g.e with
    | some k => s1.modField k fun f => { f with lastIssue := s.cycle }
    | none => s1
  let s3 := sends.foldl (fun st d => st.send g.e g.slot d.1 d.2 (s.cycle + lat)) s2
  let s4 := if sends.any fun d => d.1 != 63 then s3.leaveFrame g else s3
  s4.settleColours p (taken.map fun t => tagColour t.token.tag)

/-- The destinations of a slot. -/
def dsts (f : SlotFields) : List Nat := [f.dst0.toNat, f.dst1.toNat]

/-- R125: a firing that takes all its tokens and sends one result to both destinations. -/
def sendBoth (s : State) (g : Firing) (t : Token) (lat hold flags : Nat) : Out :=
  .next (s.endFiring g g.toks ((dsts g.f).map fun d => (d, t)) lat hold flags)

/-- R87, R125: sends a result token with its result tag to both destinations. -/
def sendResult (s : State) (g : Firing) (kind valid width payload lat hold flags : Nat) : Out :=
  match s.resultTag g width with
  | .error code => s.fault g code (tagPos g)
  | .ok r => r.1.sendBoth g (mkToken r.2 kind valid width payload) lat hold flags

/-- R122, R94: a firing whose gate is closed takes its tokens and sends nothing. -/
def gateClosed (s : State) (g : Firing) : Out := .next (s.endFiring g g.toks [] 0 1 0)

/-- R122, R232: the gate token at C lets the slot act. -/
def gateOpens (g : Firing) : Bool :=
  match g.at_ 2 with
  | some t => (0x80 ≤ g.op && t.token.kind == kArc) || (t.token.kind != kEos && t.token.lane 0 != 0)
  | none => false

/-- R123: the first position that holds an arc token, where the opcode accepts none; EOS and ACCRD take a token of any kind at A (R127,
R154; log entry 103), but none at their gate. -/
def arcAt (g : Firing) : Option Nat :=
  if g.op = 0x0F ∨ 0x80 ≤ g.op then none
  else
    let any := fun (p : Nat) => (g.op == 0x0D || g.op == 0x72) && p == g.f.srcA.toNat
    (List.find? (fun t : StoreTok => t.token.kind == kArc && !any t.pos) g.toks).map (·.pos)

/-- R90, R99, R122, R123: what every firing does first: its tokens are taken from the store, an arc it does not accept faults, and a closed
gate ends it. Without a matched set there is no such step. -/
def fire (s : State) (op : Nat) (f : SlotFields) (act : Firing → Out) : Out :=
  let x := s.elem s.focus.elem
  let tag := if f.action.toNat = 8 then none else some s.focus.tag
  match matchedAt x s.focus.slot tag (slotPositions op f) with
  | none => .refused .notEnabled
  | some [] => .refused .notEnabled
  | some (t :: ts) =>
    let g : Firing := { e := s.focus.elem, slot := s.focus.slot, op := op, f := f, tag := t.token.tag, toks := t :: ts }
    match arcAt g with
    | some p => s.fault g codeTAGDEPTH p
    | none => if gatedOf f && !gateOpens g then s.gateClosed g else act g

/-- R123, R232: all operand tokens are EOS, or none is, or they are mixed. -/
inductive EosCase where
  | none | all | mixed
  deriving DecidableEq, Repr

def eosCase (g : Firing) : EosCase :=
  let os := g.operands
  if os.all fun t => t.token.kind != kEos then .none
  else if os.all fun t => t.token.kind == kEos then .all
  else .mixed

/-- The position of the first EOS operand. -/
def eosPos (g : Firing) : Nat :=
  match List.find? (fun t : StoreTok => t.token.kind == kEos) g.operands with
  | some t => t.pos
  | none => 3

/-- R105, R117: the first operand whose WIDTH is not the format's lane width, EOS operands too; where a slot reads no operand, its gate token's
(log entry 104, DEDUCED). -/
def widthMismatch (g : Firing) (w : Nat) : Option Nat :=
  (List.find? (fun t : StoreTok => t.token.width != w) (if g.operands.isEmpty then g.toks else g.operands)).map (·.pos)

/-- R123: the EOS rule of the value opcodes. -/
def eosRule (s : State) (g : Firing) (lat hold : Nat) (act : Firing → Out) : Out :=
  match eosCase g with
  | .all => s.sendResult g kEos 0 g.width 0 lat hold 0
  | .mixed => s.fault g codeTAGDEPTH (eosPos g)
  | .none => act g

/-- R105, R123: the value opcodes: the width check, the EOS rule, and then the operation. Without a format there is no width to check. -/
def value (s : State) (op : Nat) (f : SlotFields) (lat hold : Nat) (act : Firing → Out) : Out :=
  s.fire op f fun g =>
    match fmtWidth (fmtOf f) with
    | none => s.eosRule g lat hold act
    | some w =>
      match widthMismatch g w with
      | some p => s.fault g codeTAGDEPTH p
      | none => s.eosRule g lat hold act

/-- R124: the smallest VALID among the operand tokens; every lane where none is read. -/
def minValid (g : Firing) (all : Nat) : Nat := g.operands.foldl (fun m t => min m t.token.valid) all

/-- R117, R124: the smallest pair-valid count among the operand tokens; all 16 pairs where none is read. -/
def minPairs (g : Firing) : Nat := g.operands.foldl (fun m t => min m (t.token.valid / 2)) 16

end State

/-- Lanes 0 to n - 1 put together, `w` bits each. -/
def packLanes (w : Nat) (f : Nat → Nat) : Nat → Nat
  | 0 => 0
  | n + 1 => packLanes w f n + f n % 2 ^ w * 2 ^ (w * n)

/-- The flags of lanes 0 to n - 1. -/
def orLanes (f : Nat → Nat) : Nat → Nat
  | 0 => 0
  | n + 1 => orLanes f n ||| f n

/-- R110: the fields of FPC. -/
def fpcRm (fpc : Nat) : Rounding := roundingOf fpc
def fpcFtz (fpc : Nat) : Bool := bits fpc 2 1 == 1
def fpcDaz (fpc : Nat) : Bool := bits fpc 3 1 == 1

end Sys2Proof.Machine
end

