-- ==== Sys2Proof/Machine/IntLanes.lean ====
section
/-! DEFINITION. Integer lanes: slot opcodes 0x10 to 0x2B (R134, R135). -/

namespace Sys2Proof.Machine

/-- An integer as a w-bit number. -/
def toBits (w : Nat) (z : Int) : Nat := (z % (2 : Int) ^ w).toNat

/-- R134: a lane as the format reads it: two's complement or unsigned. -/
def laneInt (signed : Bool) (w n : Nat) : Int := if signed then signedOf w n else (n % 2 ^ w : Nat)

/-- R135: clamps an integer to a w-bit range. -/
def clampInt (signed : Bool) (w : Nat) (z : Int) : Int :=
  let lo : Int := if signed then -(2 : Int) ^ (w - 1) else 0
  let hi : Int := if signed then (2 : Int) ^ (w - 1) - 1 else (2 : Int) ^ w - 1
  max lo (min hi z)

/-- The width code of a slot's format. -/
def fmtCode (f : SlotFields) : Nat := (fmtWidth (fmtOf f)).getD 5

/-- R117, R143: the width of a slot's unit: a lane pair in `.res64`, else a lane. -/
def unitWidth (f : SlotFields) : Nat := if fmtOf f = 0x17 then 64 else laneWidth (fmtCode f)

/-- R143: how many units a token has. -/
def unitCount (f : SlotFields) : Nat := 1024 / unitWidth f

/-- R143: a VALID in units as lanes. -/
def lanesValid (f : SlotFields) (n : Nat) : Nat := if fmtOf f = 0x17 then 2 * n else n

/-- R117, R124: the valid units of the result of a lane-wise slot. -/
def minUnits (f : SlotFields) (g : Firing) : Nat := if fmtOf f = 0x17 then State.minPairs g else State.minValid g (unitCount f)

/-- R134, R117: an integer slot whose lane `i`, or lane pair `i` in `.res64`, is `k` of those of a, b and c; `kind` is the kind of its result. -/
def intLanes (s : State) (op : Nat) (f : SlotFields) (kind : Nat) (k : (w : Nat) → (sg : Bool) → (a b c : Nat) → Nat) : Out :=
  s.value op f 2 1 fun g =>
    let w := unitWidth f
    let n := minUnits f g
    let a := s.srcA g
    let b := s.srcB g
    let c := s.srcC g
    s.sendResult g kind (lanesValid f n) (fmtCode f)
      (packLanes w (fun i => k w (isSignedFmt (fmtOf f)) (a.lane w i) (b.lane w i) (c.lane w i)) n) 2 1 0

/-- R135: the conditions of CMP on the order of two values. -/
def condHolds (cond : Nat) (lt eq : Bool) : Bool :=
  match cond with
  | 0 => eq
  | 1 => !eq
  | 2 => lt
  | 3 => lt || eq
  | 4 => !(lt || eq)
  | _ => !lt

/-- R135: byte `k` of a lane, signed or not. -/
def laneByte (signed : Bool) (v k : Nat) : Int := laneInt signed 8 (bits v (8 * k) 8)

/-- R135: DOT4 of two 32-bit lanes by MODE: 0 ss, 1 uu, 2 su. -/
def dot4 (mode a b : Nat) : Int :=
  (List.range 4).foldl (fun z k => z + laneByte (mode != 1) a k * laneByte (mode == 0) b k) 0

/-- R135: pos and len of BEXT and BINS. -/
def bitPos (f : SlotFields) : Nat := bits f.ext.toNat 0 5
def bitLength (f : SlotFields) : Nat := bits f.ext.toNat 5 6

/-- Set bits of the low `w` bits. -/
def popCount (n : Nat) : Nat → Nat
  | 0 => 0
  | w + 1 => n % 2 + popCount (n / 2) w

/-- Zero bits above the top set bit of a w-bit number. -/
def leadZeros (w n : Nat) : Nat := w - bitLen (n % 2 ^ w)

/-- Copies bit w - 1 in from above. -/
def sarLane (w a sh : Nat) : Nat := toBits w (signedOf w a / (2 : Int) ^ sh)

/-- SLOT_ADD, R134. -/
def execSlotAdd (f : SlotFields) (s : State) : Out := intLanes s 0x10 f kData fun w _ a b _ =>
  (a + b) % 2 ^ w

/-- SLOT_SUB, R134. -/
def execSlotSub (f : SlotFields) (s : State) : Out := intLanes s 0x11 f kData fun w _ a b _ =>
  (a + 2 ^ w - b % 2 ^ w) % 2 ^ w

/-- SLOT_MUL, R134. -/
def execSlotMul (f : SlotFields) (s : State) : Out := intLanes s 0x12 f kData fun w _ a b _ =>
  (a * b) % 2 ^ w

/-- SLOT_MULH, R134. -/
def execSlotMulh (f : SlotFields) (s : State) : Out := intLanes s 0x13 f kData fun w sg a b _ =>
  toBits w (laneInt sg w a * laneInt sg w b / (2 : Int) ^ w)

/-- MAD, R134. -/
def execMad (f : SlotFields) (s : State) : Out := intLanes s 0x14 f kData fun w _ a b c =>
  (a * b + c) % 2 ^ w

/-- SLOT_AND, R134. -/
def execSlotAnd (f : SlotFields) (s : State) : Out := intLanes s 0x15 f kData fun _ _ a b _ =>
  a &&& b

/-- SLOT_OR, R134. -/
def execSlotOr (f : SlotFields) (s : State) : Out := intLanes s 0x16 f kData fun _ _ a b _ =>
  a ||| b

/-- SLOT_XOR, R134. -/
def execSlotXor (f : SlotFields) (s : State) : Out := intLanes s 0x17 f kData fun _ _ a b _ =>
  a ^^^ b

/-- SLOT_ANDN, R134. -/
def execSlotAndn (f : SlotFields) (s : State) : Out := intLanes s 0x18 f kData fun w _ a b _ =>
  a &&& (2 ^ w - 1 - b % 2 ^ w)

/-- SLOT_SHL, R134. -/
def execSlotShl (f : SlotFields) (s : State) : Out := intLanes s 0x19 f kData fun w _ a b _ =>
  a * 2 ^ (b % w) % 2 ^ w

/-- SLOT_SHR, R134. -/
def execSlotShr (f : SlotFields) (s : State) : Out := intLanes s 0x1A f kData fun w _ a b _ =>
  a / 2 ^ (b % w)

/-- SLOT_SAR, R134. -/
def execSlotSar (f : SlotFields) (s : State) : Out := intLanes s 0x1B f kData fun w _ a b _ =>
  sarLane w a (b % w)

/-- SLOT_MIN, R134. -/
def execSlotMin (f : SlotFields) (s : State) : Out := intLanes s 0x1C f kData fun w sg a b _ =>
  if laneInt sg w b < laneInt sg w a then b else a

/-- SLOT_MAX, R134. -/
def execSlotMax (f : SlotFields) (s : State) : Out := intLanes s 0x1D f kData fun w sg a b _ =>
  if laneInt sg w a < laneInt sg w b then b else a

/-- ABS, R134. -/
def execAbs (f : SlotFields) (s : State) : Out := intLanes s 0x1E f kData fun w sg a _ _ =>
  toBits w (laneInt sg w a).natAbs

/-- NEG, R134. -/
def execNeg (f : SlotFields) (s : State) : Out := intLanes s 0x1F f kData fun w _ a _ _ =>
  (2 ^ w - a % 2 ^ w) % 2 ^ w

/-- CMP, R135. -/
def execCmp (f : SlotFields) (s : State) : Out := intLanes s 0x20 f kPredicate fun w sg a b _ =>
  b2n (condHolds (bits f.ext.toNat 0 3) (decide (laneInt sg w a < laneInt sg w b)) (decide (laneInt sg w a = laneInt sg w b)))

/-- SEL, R135. -/
def execSel (f : SlotFields) (s : State) : Out := intLanes s 0x21 f kData fun _ _ a b c =>
  if c ≠ 0 then a else b

/-- SLOT_CLZ, R135. -/
def execSlotClz (f : SlotFields) (s : State) : Out := intLanes s 0x22 f kData fun w _ a _ _ =>
  leadZeros w a

/-- SLOT_POPC, R135. -/
def execSlotPopc (f : SlotFields) (s : State) : Out := intLanes s 0x23 f kData fun w _ a _ _ =>
  popCount a w

/-- ADDS, R135. -/
def execAdds (f : SlotFields) (s : State) : Out := intLanes s 0x24 f kData fun w sg a b _ =>
  toBits w (clampInt sg w (laneInt sg w a + laneInt sg w b))

/-- SUBS, R135. -/
def execSubs (f : SlotFields) (s : State) : Out := intLanes s 0x25 f kData fun w sg a b _ =>
  toBits w (clampInt sg w (laneInt sg w a - laneInt sg w b))

/-- AVG, R135. -/
def execAvg (f : SlotFields) (s : State) : Out := intLanes s 0x26 f kData fun w sg a b _ =>
  toBits w ((laneInt sg w a + laneInt sg w b + 1) / 2)

/-- DOT4, R135. -/
def execDot4 (f : SlotFields) (s : State) : Out := intLanes s 0x27 f kData fun w _ a b _ =>
  toBits w (dot4 (modeOf f) a b)

/-- BEXT, R135. -/
def execBext (f : SlotFields) (s : State) : Out := intLanes s 0x28 f kData fun w sg a _ _ =>
  toBits w (laneInt sg (bitLength f) (bits a (bitPos f) (bitLength f)))

/-- BINS, R135. -/
def execBins (f : SlotFields) (s : State) : Out := intLanes s 0x29 f kData fun _ _ a b _ =>
  a - bits a (bitPos f) (bitLength f) * 2 ^ bitPos f + b % 2 ^ bitLength f * 2 ^ bitPos f

/-- ROTL, R135. -/
def execRotl (f : SlotFields) (s : State) : Out := intLanes s 0x2A f kData fun w _ a b _ =>
  a * 2 ^ (b % w) % 2 ^ w + a / 2 ^ (w - b % w)

/-- SATN, R135. -/
def execSatn (f : SlotFields) (s : State) : Out := intLanes s 0x2B f kData fun w sg a _ _ =>
  toBits w (clampInt sg (bits f.ext.toNat 0 6) (laneInt sg w a))

end Sys2Proof.Machine
end

