-- ==== Sys2Proof/Machine/SpecialFn.lean ====
section
/-! DEFINITION. The special functions of R137 on f32: exact special values, and elsewhere a free value (log entry 7) that stays within the
error bound of the rule. -/

namespace Sys2Proof.Machine

/-- The bits of the fixed-point values below. -/
def fxBits : Nat := 96

/-- 2^(2^-i) in fixed point, from the root before it. -/
def rootAt (prev : Nat) : Nat := isqrt (prev * 2 ^ fxBits)

/-- 2^f for a fixed-point fraction f, bit by bit from the top. -/
def exp2Frac (f : Nat) : Nat → Nat → Nat → Nat
  | 0, _, acc => acc
  | n + 1, root, acc =>
    let r := rootAt root
    exp2Frac f n r (if bits f n 1 = 1 then acc * r / 2 ^ fxBits else acc)

/-- A value mant x 2^exp in fixed point, rounded down. -/
def toFixed (mant : Nat) (exp : Int) : Nat :=
  let e := exp + fxBits
  if 0 ≤ e then mant * 2 ^ e.toNat else mant / 2 ^ (-e).toNat

/-- 2^a for a = (-1)^neg x mant x 2^exp: a whole exponent and a fixed-point factor in [1, 2). -/
def exp2Fixed (neg : Bool) (mant : Nat) (exp : Int) : Int × Nat :=
  let x : Int := if neg then -(toFixed mant exp : Int) else toFixed mant exp
  let k := x / (2 : Int) ^ fxBits
  let f := (x % (2 : Int) ^ fxBits).toNat
  (k, exp2Frac f fxBits (2 ^ (fxBits + 1)) (2 ^ fxBits))

/-- The binary digits of log2 m for m in [1, 2) in fixed point. -/
def log2Frac : Nat → Nat → Nat → Nat
  | 0, _, acc => acc
  | n + 1, m, acc =>
    let y := m * m / 2 ^ fxBits
    if 2 ^ (fxBits + 1) ≤ y then log2Frac n (y / 2) (2 * acc + 1) else log2Frac n y (2 * acc)

/-- log2 e in fixed point. -/
def log2e : Nat := 114302077158074026402637675936

/-- The place of the last bit of an f32 near a value of `n` bits at exponent `exp`. -/
def ulpExp (n : Nat) (exp : Int) : Int := max ((n : Int) - 1 + exp) (-126) - 23

/-- A finite candidate lies within `ulps` units in the last place of (-1)^neg x mant x 2^exp, or within 2^abs of it. -/
def nearEnough (c : Nat) (neg : Bool) (mant : Nat) (exp : Int) (ulps : Nat) (abs : Option Int) : Bool :=
  match fmtF32.decode c with
  | .fin nc mc ec =>
    let u := ulpExp (bitLen mant) exp
    let e := min (min exp ec) (min u (abs.getD u))
    let at_ := fun (n : Bool) (m : Nat) (x : Int) => signedMant n m * (2 : Int) ^ (x - e).toNat
    let d := (at_ nc mc ec - at_ neg mant exp).natAbs
    decide (d ≤ ulps * 2 ^ (u - e).toNat) || (match abs with
      | some a => decide (d ≤ 2 ^ (a - e).toNat)
      | none => false)
  | _ => false

/-- An f32 result that is a free value within the bound of R137: the candidate where it meets the bound, else the nearest f32. -/
def boundedFree (cand : Nat) (neg : Bool) (mant : Nat) (exp : Int) (abs : Option Int) : Nat :=
  if nearEnough (cand % 2 ^ 32) neg mant exp 2 abs then cand % 2 ^ 32 else (fmtF32.round .rne false neg mant exp).bits

/-- Flags and FTZ of an inexact f32 result (R137). -/
def inexactRes (ftz : Bool) (c : Nat) : FRes :=
  let mag := c % 2 ^ 31
  if mag = fmtF32.infCode then { bits := c, flags := fOF ||| fNX }
  else if mag < 2 ^ 23 then
    if ftz then { bits := c - mag, flags := fUF ||| fNX } else { bits := c, flags := fUF ||| fNX }
  else { bits := c, flags := fNX }

/-- R137: a NaN operand. -/
def nanIn (signalling : Bool) : FRes := fmtF32.nanRes (if signalling then fNV else 0)

/-- R137: one of the two f32 values next to an inexact quotient `q / 2^sh` of magnitudes, chosen by a free value; the code of q rounded
towards zero, plus 0 or 1. -/
def floorOrNext (free : Nat) (neg : Bool) (q : Nat) (exp : Int) : Nat :=
  let lo := (fmtF32.round .rtz false neg q exp).bits
  lo + free % 2

/-- R137: FRCP of a finite nonzero value. -/
def frcpFin (free : Nat) (ftz neg : Bool) (m : Nat) (e : Int) : FRes :=
  -- 1 / (m 2^e) = q 2^(-e - sh), q = 2^sh / m
  let sh := bitLen m + 40
  let q := 2 ^ sh / m
  let exact := decide (2 ^ sh % m = 0)
  let exp : Int := -e - sh
  let top : Int := (bitLen q : Int) - 1 + exp
  if 128 ≤ top then { bits := fmtF32.withSign neg fmtF32.infCode, flags := fOF ||| fNX }
  else if exact && decide (-126 ≤ top) then { bits := (fmtF32.round .rne false neg q exp).bits, flags := 0 }
  else if exact then
    let c := (fmtF32.round .rne false neg q exp).bits - 1 + free % 3
    if c = (fmtF32.round .rne false neg q exp).bits then
      (if ftz then inexactRes ftz c else { bits := c, flags := 0 })
    else inexactRes ftz c
  else inexactRes ftz (floorOrNext free neg (2 * q + 1) (exp - 1))

/-- FRCP, R137. -/
def frcpF32 (ftz : Bool) (x : Nat) : FRes :=
  match fmtF32.decode x with
  | .nan _ s => nanIn s
  | .inf n => { bits := fmtF32.withSign n 0, flags := 0 }
  | .fin n m e =>
    if m = 0 then { bits := fmtF32.withSign n fmtF32.infCode, flags := fDZ } else frcpFin (Config.frcp x) ftz n m e

/-- R137: FRSQ of a positive finite value. -/
def frsqFin (free : Nat) (ftz : Bool) (m : Nat) (e : Int) : FRes :=
  -- the exponent made even; 1 / sqrt(m 2^e) = sqrt(2^(2k) / m) 2^(-e/2 - k)
  let m := if e % 2 = 0 then m else 2 * m
  let e := if e % 2 = 0 then e else e - 1
  let k := bitLen m + 40
  let v := 2 ^ (2 * k) / m
  let q := isqrt v
  let exp : Int := -(e / 2) - k
  if decide (2 ^ (2 * k) % m = 0) && decide (q * q = v) then { bits := (fmtF32.round .rne false false q exp).bits, flags := 0 }
  else inexactRes ftz (floorOrNext free false (2 * q + 1) (exp - 1))

/-- FRSQ, R137. -/
def frsqF32 (ftz : Bool) (x : Nat) : FRes :=
  match fmtF32.decode x with
  | .nan _ s => nanIn s
  | .inf n => if n then fmtF32.nanRes fNV else { bits := 0, flags := 0 }
  | .fin n m e =>
    if m = 0 then { bits := fmtF32.withSign n fmtF32.infCode, flags := fDZ }
    else if n then fmtF32.nanRes fNV
    else frsqFin (Config.frsq x) ftz m e

/-- R137: 2^a for a tiny a: next to 1, on the side of a's sign. -/
def exp2Tiny (neg : Bool) : Nat := if neg then 2 ^ 60 - 1 else 2 ^ 60 + 1

/-- FEXP2, R137. -/
def fexp2F32 (ftz : Bool) (x : Nat) : FRes :=
  match fmtF32.decode x with
  | .nan _ s => nanIn s
  | .inf n => { bits := if n then 0 else fmtF32.infCode, flags := 0 }
  | .fin n m e =>
    if m = 0 then { bits := 0x3F800000, flags := 0 }
    else if n && decide (16 ≤ (bitLen m : Int) + e) then
      inexactRes ftz (boundedFree (Config.fexp2 x) false 1 (-200) none)
    else if !n && decide (8 ≤ (bitLen m : Int) - 1 + e) then { bits := fmtF32.infCode, flags := fOF ||| fNX }
    else if (bitLen m : Int) + e < -40 then inexactRes ftz (boundedFree (Config.fexp2 x) false (exp2Tiny n) (-60) none)
    else
      let r := exp2Fixed n m e
      let whole := decide (0 ≤ e) || decide (m % 2 ^ (-e).toNat = 0)
      if whole && decide (-126 ≤ r.1) then fmtF32.round .rne ftz false 1 r.1
      else
        let c := boundedFree (Config.fexp2 x) false r.2 (r.1 - fxBits) none
        -- a result below 2^-126 sets UF and NX, exact or not
        inexactRes ftz c

/-- FLOG2, R137. -/
def flog2F32 (ftz : Bool) (x : Nat) : FRes :=
  match fmtF32.decode x with
  | .nan _ s => nanIn s
  | .inf n => if n then fmtF32.nanRes fNV else { bits := fmtF32.infCode, flags := 0 }
  | .fin n m e =>
    if m = 0 then { bits := fmtF32.withSign true fmtF32.infCode, flags := fDZ }
    else if n then fmtF32.nanRes fNV
    else
      let k : Int := (bitLen m : Int) - 1 + e
      let y := m * 2 ^ (fxBits + 1 - bitLen m)
      if y = 2 ^ fxBits then fmtF32.round .rne false (decide (k < 0)) k.natAbs 0
      else
        let v := k * 2 ^ 64 + log2Frac 64 y 0
        inexactRes ftz (boundedFree (Config.flog2 x) (decide (v < 0)) v.natAbs (-64) (some (-22)))

/-- R137: tanh a for a tiny a = m 2^e: a - a^3 / 3, in units of 2^(3 e - 8). -/
def tanhTiny (m : Nat) (e : Int) : Nat := (3 * m * 2 ^ (-2 * e).toNat - m ^ 3) * 2 ^ 8 / 3

/-- FTANH, R137. -/
def ftanhF32 (ftz : Bool) (x : Nat) : FRes :=
  match fmtF32.decode x with
  | .nan _ s => nanIn s
  | .inf n => { bits := fmtF32.withSign n 0x3F800000, flags := 0 }
  | .fin n m e =>
    if m = 0 then { bits := fmtF32.withSign n 0, flags := 0 }
    else if decide (3 ≤ (bitLen m : Int) - 1 + e) && decide (10 * 2 ^ fxBits ≤ toFixed m e) then
      { bits := fmtF32.withSign n 0x3F800000, flags := fNX }
    else
      let free := Config.ftanh x
      if (bitLen m : Int) + e < -14 then inexactRes ftz (boundedFree free n (tanhTiny m e) (3 * e - 8) none)
      else
        -- tanh a = (E - 1) / (E + 1), E = 2^(2 a log2 e)
        let r := exp2Fixed false (2 * toFixed m e * log2e / 2 ^ fxBits) (-(fxBits : Int))
        let big := r.2 * 2 ^ r.1.toNat
        inexactRes ftz (boundedFree free n ((big - 2 ^ fxBits) * 2 ^ fxBits / (big + 2 ^ fxBits)) (-(fxBits : Int)) none)

end Sys2Proof.Machine
end

