-- ==== Sys2Proof/Machine/FloatLanes.lean ====
section
/-! DEFINITION. Floating-point lanes: slot opcodes 0x30 to 0x3F (R136, R137). -/

namespace Sys2Proof.Machine

/-- The vector floating-point format of a slot. -/
def slotFloat (f : SlotFields) : FloatFmt := (floatFmt (fmtOf f)).getD fmtF32

/-- R110, R112: the mode in force at issue. -/
def fpcAt (s : State) (g : Firing) : Nat := (s.elem g.e).active.fpc

/-- R110, R136: a lane's value under DAZ. -/
def FloatFmt.input (f : FloatFmt) (fpc code : Nat) : FVal := f.decode (f.daz (fpcDaz fpc) code)

/-- R136: a floating-point slot whose lane `i` is `k` of the mode and the lanes of a, b and c. -/
def floatLanes (s : State) (op : Nat) (f : SlotFields) (lat kind : Nat) (k : FloatFmt → Nat → Nat → Nat → Nat → FRes) : Out :=
  s.value op f lat 1 fun g =>
    let ff := slotFloat f
    let w := laneWidth (fmtCode f)
    let n := State.minValid g (1024 / w)
    let a := s.srcA g
    let b := s.srcB g
    let c := s.srcC g
    let r := fun i => k ff (fpcAt s g) (a.lane w i) (b.lane w i) (c.lane w i)
    s.sendResult g kind n (fmtCode f) (packLanes w (fun i => (r i).bits) n) lat 1 (orLanes (fun i => (r i).flags) n)

/-- R136, R223: the smaller or larger of two values: -0 below +0, a quiet NaN loses, a signalling NaN gives the canonical NaN and NV. -/
def fPick (lower : Bool) (f : FloatFmt) (a b : Nat) : FRes :=
  let x := f.decode a
  let y := f.decode b
  if nvOf x ||| nvOf y ≠ 0 then f.nanRes fNV
  else match x.isNan, y.isNan with
    | true, true => f.nanRes 0
    | true, false => { bits := b, flags := 0 }
    | false, true => { bits := a, flags := 0 }
    | false, false => { bits := if (if lower then belowV y x else belowV x y) then b else a, flags := 0 }

/-- R136: FCMP's result for a condition. -/
def fcmp (cond : Nat) (x y : FVal) : FRes :=
  let unordered := x.isNan || y.isNan
  let signalling := nvOf x ||| nvOf y != 0
  let quiet := cond == 0 || cond == 1 || cond == 6
  let holds := if unordered then cond == 1 || cond == 6
    else cond != 6 && condHolds cond (decide (cmpV x y < 0)) (decide (cmpV x y = 0))
  { bits := b2n holds, flags := if signalling || (unordered && !quiet) then fNV else 0 }

/-- R136: FCLASS: a one-hot class. -/
def fclass (f : FloatFmt) (code : Nat) : Nat :=
  let sub := decide (code / 2 ^ f.mbits % 2 ^ f.ebits = 0)
  match f.decode code with
  | .nan _ s => if s then 2 ^ 8 else 2 ^ 9
  | .inf n => if n then 2 ^ 0 else 2 ^ 7
  | .fin n m _ =>
    if m = 0 then (if n then 2 ^ 3 else 2 ^ 4)
    else if sub then (if n then 2 ^ 2 else 2 ^ 5)
    else if n then 2 ^ 1 else 2 ^ 6

/-- FADD, R136. -/
def execFadd (f : SlotFields) (s : State) : Out := floatLanes s 0x30 f 4 kData fun ff m a b _ =>
  fAddV ff (fpcRm m) (fpcFtz m) (ff.input m a) (ff.input m b)

/-- FSUB, R136. -/
def execFsub (f : SlotFields) (s : State) : Out := floatLanes s 0x31 f 4 kData fun ff m a b _ =>
  fAddV ff (fpcRm m) (fpcFtz m) (ff.input m a) (ff.input m b).neg

/-- FMUL, R136. -/
def execFmul (f : SlotFields) (s : State) : Out := floatLanes s 0x32 f 4 kData fun ff m a b _ =>
  fMulV ff (fpcRm m) (fpcFtz m) (ff.input m a) (ff.input m b)

/-- FFMA, R136. -/
def execFfma (f : SlotFields) (s : State) : Out := floatLanes s 0x33 f 4 kData fun ff m a b c =>
  fFmaV ff (fpcRm m) (fpcFtz m) (ff.input m a) (ff.input m b) (ff.input m c)

/-- FMIN, R136. -/
def execFmin (f : SlotFields) (s : State) : Out := floatLanes s 0x34 f 4 kData fun ff m a b _ =>
  fPick true ff (ff.daz (fpcDaz m) a) (ff.daz (fpcDaz m) b)

/-- FMAX, R136. -/
def execFmax (f : SlotFields) (s : State) : Out := floatLanes s 0x35 f 4 kData fun ff m a b _ =>
  fPick false ff (ff.daz (fpcDaz m) a) (ff.daz (fpcDaz m) b)

/-- FABS, R136: on the bits alone. -/
def execFabs (f : SlotFields) (s : State) : Out := floatLanes s 0x36 f 4 kData fun ff _ a _ _ =>
  { bits := if (ff.decode a).isNan then ff.nan else a % 2 ^ (ff.width - 1), flags := 0 }

/-- FNEG, R136: on the bits alone. -/
def execFneg (f : SlotFields) (s : State) : Out := floatLanes s 0x37 f 4 kData fun ff _ a _ _ =>
  { bits := if (ff.decode a).isNan then ff.nan else a ^^^ 2 ^ (ff.width - 1), flags := 0 }

/-- FCMP, R136: a predicate token. -/
def execFcmp (f : SlotFields) (s : State) : Out := floatLanes s 0x38 f 4 kPredicate fun ff m a b _ =>
  fcmp (bits f.ext.toNat 0 3) (ff.input m a) (ff.input m b)

/-- FCLASS, R136: ignores DAZ, sets no flag. -/
def execFclass (f : SlotFields) (s : State) : Out := floatLanes s 0x39 f 4 kData fun ff _ a _ _ =>
  { bits := fclass ff a, flags := 0 }

/-- R137: a special function computes on f32: the input is widened exactly and an f16 or bf16 result is the f32 result rounded by RNE. -/
def viaF32 (ff : FloatFmt) (m a : Nat) (k : Bool → Nat → FRes) : FRes :=
  let x := ff.daz (fpcDaz m) a
  if ff = fmtF32 then k (fpcFtz m) x
  else
    let v := ff.decode x
    let wide := match v with
      | .nan n s => fmtF32.withSign n (if s then 0x7F800001 else 0x7FC00000)
      | _ => (fmtF32.ofVal .rne false v).bits
    let r := k (fpcFtz m) wide
    let o := ff.ofVal .rne (fpcFtz m) (fmtF32.decode r.bits)
    -- R111: tiny and inexact, though the f32 value fits the format
    let tiny := decide (o.bits % 2 ^ (ff.width - 1) ≠ 0) && decide (o.bits % 2 ^ (ff.width - 1) < 2 ^ ff.mbits)
    { o with flags := o.flags ||| r.flags ||| (if tiny && bits r.flags 4 1 == 1 then fUF else 0) }

/-- FRCP, R137. -/
def execFrcp (f : SlotFields) (s : State) : Out := floatLanes s 0x3A f 12 kData fun ff m a _ _ => viaF32 ff m a frcpF32

/-- FRSQ, R137. -/
def execFrsq (f : SlotFields) (s : State) : Out := floatLanes s 0x3B f 12 kData fun ff m a _ _ => viaF32 ff m a frsqF32

/-- FSQRT, R137: correctly rounded under RM. -/
def execFsqrt (f : SlotFields) (s : State) : Out := floatLanes s 0x3C f 12 kData fun ff m a _ _ =>
  viaF32 ff m a fun ftz x => fSqrtV fmtF32 (fpcRm m) ftz (fmtF32.decode x)

/-- FEXP2, R137. -/
def execFexp2 (f : SlotFields) (s : State) : Out := floatLanes s 0x3D f 12 kData fun ff m a _ _ => viaF32 ff m a fexp2F32

/-- FLOG2, R137. -/
def execFlog2 (f : SlotFields) (s : State) : Out := floatLanes s 0x3E f 12 kData fun ff m a _ _ => viaF32 ff m a flog2F32

/-- FTANH, R137. -/
def execFtanh (f : SlotFields) (s : State) : Out := floatLanes s 0x3F f 12 kData fun ff m a _ _ => viaF32 ff m a ftanhF32

end Sys2Proof.Machine
end

