-- ==== Sys2Proof/Machine/Convert.lean ====
section
/-! DEFINITION. Conversions between formats (R109) and slot opcodes 0x40 to 0x47 (R138 to R142). -/

namespace Sys2Proof.Machine

/-! ### Conversions (R109) -/

/-- R109: a value rounded to an integer of width w and clamped; a clamped result sets NV and not NX. -/
def toIntRes (rm : Rounding) (signed : Bool) (w : Nat) (v : FVal) : FRes :=
  match v with
  | .nan _ _ => { bits := 0, flags := fNV }
  | .inf n => { bits := toBits w (clampInt signed w (if n then -(2 : Int) ^ 64 else (2 : Int) ^ 64)), flags := fNV }
  | .fin n m e =>
    let r := roundAt rm n m e 0
    let z := signedMant n r.1
    if clampInt signed w z = z then { bits := toBits w z, flags := if r.2 then fNX else 0 }
    else { bits := toBits w (clampInt signed w z), flags := fNV }

/-- R109: a value as an e8m0 code: floor or ceiling of log2 by the mode. -/
def toE8m0 (rm : Rounding) (v : FVal) : FRes :=
  match v with
  | .nan _ s => { bits := 0xFF, flags := if s then fNV else 0 }
  | .inf _ => { bits := 0xFF, flags := fNV }
  | .fin _ m e =>
    if m = 0 then { bits := 0x00, flags := fUF }
    else
      let pow2 := decide (2 ^ (bitLen m - 1) = m)
      let lo : Int := (bitLen m : Int) - 1 + e
      let up := !pow2 && (rm == .rne || rm == .rup)
      if decide (127 < lo) || (decide (lo = 127) && !pow2) then { bits := 0xFE, flags := fOF }
      else if lo < -127 then { bits := 0x00, flags := fUF }
      else { bits := (lo + 127 + (if up then 1 else 0)).toNat, flags := if pow2 then 0 else fNX }

/-- R109: a value as a code of a floating-point format. -/
def toFloatRes (f : FloatFmt) (rm : Rounding) (ftz : Bool) (v : FVal) : FRes :=
  match v, f.special with
  | .nan n s, .e4m3 => { bits := f.withSign n f.nan, flags := if s then fNV else 0 }
  | .nan _ _, .e2m1 => { bits := 0, flags := fNV }
  | _, _ => f.ofVal rm ftz v

/-- R109: a value as a code of any format. -/
def convertTo (fmt : Nat) (rm : Rounding) (ftz : Bool) (v : FVal) : FRes :=
  if fmt = 0x0D then toE8m0 rm v
  else match floatFmt fmt with
    | some f => toFloatRes f rm ftz v
    | none => toIntRes rm (isSignedFmt fmt) (laneWidth ((fmtWidth fmt).getD 5)) v

/-- R108, R110: the value of a code of any format. DAZ applies to the source lanes of CVT and UNPACKQ too (log entry 114). -/
def valueOf (fmt : Nat) (daz : Bool) (code : Nat) : FVal :=
  if fmt = 0x0D then decodeE8m0 code
  else match floatFmt fmt with
    | some f => f.decode (f.daz daz code)
    | none =>
      let z := laneInt (isSignedFmt fmt) (laneWidth ((fmtWidth fmt).getD 5)) code
      .fin (decide (z < 0)) z.natAbs 0

/-- A value times 2^k. -/
def FVal.scale (v : FVal) (k : Int) : FVal :=
  match v with
  | .fin n m e => .fin n m (e + k)
  | x => x

/-- CVT, R138. -/
def execCvt (f : SlotFields) (s : State) : Out :=
  s.value 0x40 f 4 1 fun g =>
    let dst := fmtOf f
    let src := bits f.ext.toNat 0 5
    let m := fpcAt s g
    let w := laneWidth (fmtCode f)
    let n := State.minValid g (1024 / w)
    let a := s.srcA g
    let r := fun i =>
      if isIntFmt dst && isIntFmt src then
        { bits := toBits w (clampInt (isSignedFmt dst) w (laneInt (isSignedFmt src) w (a.lane w i))), flags := 0 }
      else convertTo dst (fpcRm m) (fpcFtz m) (valueOf src (fpcDaz m) (a.lane w i))
    s.sendResult g kData n (fmtCode f) (packLanes w (fun i => (r i).bits) n) 4 1 (orLanes (fun i => (r i).flags) n)

/-- R139: the group g and the scale shift k. -/
def packGroup (f : SlotFields) : Nat := bits f.ext.toNat 0 5
def packShift (f : SlotFields) : Int := signedOf 8 (bits f.ext.toNat 8 8)

/-- The first operand whose width is not 32 (R105, R139). -/
def notWide (g : Firing) : Option Nat := State.widthMismatch g 5

/-- R123: PACKQ and UNPACKQ work in a width-32 colour; their format is the narrow one. -/
def wideValue (s : State) (op : Nat) (f : SlotFields) (act : Firing → Out) : Out :=
  s.fire op f fun g =>
    match notWide g with
    | some p => s.fault g codeTAGDEPTH p
    | none => s.eosRule g 4 1 act

/-- Division rounded up. -/
def ceilDiv (a b : Nat) : Nat := (a + b - 1) / b

/-- Writes `n` elements of `w` bits into a payload from element `at_` on. -/
def insertLanes (p w at_ : Nat) (f : Nat → Nat) : Nat → Nat
  | 0 => p
  | n + 1 =>
    let q := insertLanes p w at_ f n
    let o := w * (at_ + n)
    q - bits q o w * 2 ^ o + f n % 2 ^ w * 2 ^ o

/-- PACKQ, R139. -/
def execPackq (f : SlotFields) (s : State) : Out :=
  wideValue s 0x41 f fun g =>
    let fmt := fmtOf f
    let wf := laneWidth (fmtCode f)
    let m := fpcAt s g
    let a := s.srcA g
    let b := s.srcB g
    let va := a.valid 32
    let vb := match b.tok with
      | some t => t.valid
      | none => if f.srcB = 3 then 0 else 32
    let grp := packGroup f
    let r := fun i => convertTo fmt (fpcRm m) (fpcFtz m) ((fmtF32.input m (a.lane 32 i)).scale (packShift f))
    let base := packLanes 32 (fun i => b.lane 32 i) (b.valid 32)
    let p := insertLanes base wf (32 * grp) (fun i => if i < va then (r i).bits else 0) 32
    s.sendResult g kData (max vb (ceilDiv (wf * (32 * grp + va)) 32)) 5 p 4 1 (orLanes (fun i => (r i).flags) va)

/-- R139: round_to_f32: an overflow gives infinity. -/
def toF32Unpacked (m : Nat) (v : FVal) : FRes :=
  let r := fmtF32.ofVal (fpcRm m) (fpcFtz m) v
  if r.flags &&& fOF ≠ 0 then { r with bits := fmtF32.withSign v.isNeg fmtF32.infCode } else r

/-- UNPACKQ, R139. -/
def execUnpackq (f : SlotFields) (s : State) : Out :=
  wideValue s 0x42 f fun g =>
    let fmt := fmtOf f
    let wf := laneWidth (fmtCode f)
    let m := fpcAt s g
    let a := s.srcA g
    let grp := packGroup f
    let n := min 32 (32 * a.valid 32 / wf - 32 * grp)
    let r := fun i =>
      let code := match a.tok with
        | some t => bits t.payload.toNat (wf * (32 * grp + i)) wf
        | none => bits (packLanes 32 (fun j => a.lane 32 j) 32) (wf * (32 * grp + i)) wf
      toF32Unpacked m ((valueOf fmt (fpcDaz m) code).scale (packShift f))
    s.sendResult g kData n 5 (packLanes 32 (fun i => (r i).bits) n) 4 1 (orLanes (fun i => (r i).flags) n)

/-- PLANE, R140. -/
def execPlane (f : SlotFields) (s : State) : Out :=
  s.value 0x43 f 2 1 fun g =>
    let w := laneWidth (fmtCode f)
    let l := 1024 / w
    let a := s.srcA g
    let b := s.srcB g
    let p := bits f.ext.toNat 0 3
    let n := bits f.ext.toNat 4 4
    let grp := bits f.ext.toNat 8 5
    let va := a.valid l
    let vb := match b.tok with
      | some t => t.valid
      | none => if f.srcB = 3 then 0 else l
    let base := packLanes w (fun i => b.lane w i) (b.valid l)
    let r := insertLanes base 1 (l * grp) (fun i => if i < va then bits (a.lane w i) (n - 1 - p) 1 else 0) l
    s.sendResult g kData (max vb (ceilDiv (l * grp + va) w)) (fmtCode f) r 2 1 0

/-- HAD, R141. -/
def execHad (f : SlotFields) (s : State) : Out :=
  let isFloat := isVecFloat (fmtOf f)
  let lat := if isFloat then 4 else 2
  s.value 0x44 f lat 1 fun g =>
    let w := laneWidth (fmtCode f)
    let a := s.srcA g
    let va := a.valid (1024 / w)
    let k := f.extra.toNat
    let d := 2 ^ k
    let n := min (1024 / w) (2 * d * ceilDiv va (2 * d))
    let at_ := fun i => if i < va then a.lane w i else 0
    let m := fpcAt s g
    let ff := slotFloat f
    let r := fun i =>
      if bits i k 1 = 0 then
        if isFloat then fAddV ff (fpcRm m) (fpcFtz m) (ff.input m (at_ i)) (ff.input m (at_ (i + d)))
        else { bits := (at_ i + at_ (i + d)) % 2 ^ w, flags := 0 }
      else
        if isFloat then fAddV ff (fpcRm m) (fpcFtz m) (ff.input m (at_ (i - d))) (ff.input m (at_ i)).neg
        else { bits := (at_ (i - d) + 2 ^ w - at_ i) % 2 ^ w, flags := 0 }
    s.sendResult g kData n (fmtCode f) (packLanes w (fun i => (r i).bits) n) lat 1 (orLanes (fun i => (r i).flags) n)

/-- R142: a slot that sends its trigger on unchanged, whatever its kind. -/
def passTrigger (s : State) (g : Firing) (lat : Nat) : Out :=
  match (s.srcA g).tok with
  | some t => s.sendResult g t.kind t.valid t.width t.payload.toNat lat 1 0
  | none => s.sendResult g kData (lanesOf g.width) g.width (packLanes (laneWidth g.width) (fun i => (s.srcA g).lane (laneWidth g.width) i)
      (lanesOf g.width)) lat 1 0

/-- SETFPC, R142: FPC[3:0] is written at issue. -/
def execSetfpc (f : SlotFields) (s : State) : Out :=
  s.fire 0x45 f fun g =>
    match s.resultTag g g.width with
    | .error code => s.fault g code (State.tagPos g)
    | .ok _ => passTrigger (s.modElem g.e fun x => { x with active := { x.active with fpc := bits f.ext.toNat 0 4 } }) g 2

/-- GETFPF, R112, R142: it issues only once every earlier floating-point firing has completed. -/
def execGetfpf (f : SlotFields) (s : State) : Out :=
  s.fire 0x46 f fun g =>
    if !(s.elem g.e).floatDone s.cycle then .refused .notEnabled
    else s.sendResult g kData 1 g.width ((s.elem g.e).fpfAt s.cycle % 64) 2 1 0

/-- CLRFPF, R142: it issues only once every earlier floating-point firing has completed. -/
def execClrfpf (f : SlotFields) (s : State) : Out :=
  s.fire 0x47 f fun g =>
    if !(s.elem g.e).floatDone s.cycle then .refused .notEnabled
    else match s.resultTag g g.width with
    | .error code => s.fault g code (State.tagPos g)
    | .ok _ => passTrigger (s.modElem g.e fun x => x.writeFpf s.cycle fun v => v &&& (63 - bits f.ext.toNat 0 6)) g 2

end Sys2Proof.Machine
end

