-- ==== Sys2Proof/Machine/Dataflow.lean ====
section
/-! DEFINITION. Dataflow control: slot opcodes 0x01 to 0x0E (R127 to R133), and the emission of an ITER (R128). -/

namespace Sys2Proof.Machine

/-- A source as a whole token: the token of a position, else every lane with the select's value (R79, R124). -/
def Src.asToken (x : Src) (tag : Tag) (w : Nat) : Token :=
  match x.tok with
  | some t => t
  | none => mkToken tag kData (lanesOf w) w (packLanes (laneWidth w) (fun _ => x.val) (lanesOf w))

/-- The source is an EOS token. -/
def Src.isEos (x : Src) : Bool :=
  match x.tok with
  | some t => t.kind == kEos
  | none => false

/-- R125: a firing takes its tokens and sends tokens, made from the result tag, to destination codes. -/
def sendTokens (s : State) (g : Firing) (width : Nat) (mk : Tag → List (Nat × Token)) : Out :=
  match s.resultTag g width with
  | .error code => s.fault g code (State.tagPos g)
  | .ok r => .next (r.1.endFiring g g.toks (mk r.2) 2 1 0)

/-- Sends one token, with the result tag, to the given destinations. -/
def sendToken (s : State) (g : Firing) (t : Token) (to_ : List Nat) : Out :=
  sendTokens s g t.width fun tag => to_.map fun d => (d, { t with tag := tag })

/-- COPY, R127. -/
def execCopy (f : SlotFields) (s : State) : Out :=
  s.fire 0x01 f fun g => sendToken s g ((s.srcA g).asToken g.tag g.width) (State.dsts f)

/-- STEER, R127: an EOS token at B raises TAG_DEPTH. -/
def execSteer (f : SlotFields) (s : State) : Out :=
  s.fire 0x02 f fun g =>
    let b := s.srcB g
    if b.isEos then s.fault g codeTAGDEPTH f.srcB.toNat
    else sendToken s g ((s.srcA g).asToken g.tag g.width) [if b.lane (laneWidth g.width) 0 ≠ 0 then f.dst0.toNat else f.dst1.toNat]

/-- R127: the token that MERGE takes: the earliest at A or B of the firing tag, A first on a tie. -/
def mergeToken (x : ElemSt) (slot : Nat) (tag : Tag) : Option StoreTok :=
  match oldestAt x slot 0 (some tag), oldestAt x slot 1 (some tag) with
  | some a, some b => some (if b.stamp < a.stamp then b else a)
  | some a, none => some a
  | none, b => b

/-- MERGE, R127. -/
def execMerge (f : SlotFields) (s : State) : Out :=
  match mergeToken (s.elem s.focus.elem) s.focus.slot s.focus.tag with
  | none => .refused .notEnabled
  | some t =>
    let g : Firing := { e := s.focus.elem, slot := s.focus.slot, op := 0x03, f := f, tag := t.token.tag, toks := [t] }
    match State.arcAt g with
    | some p => s.fault g codeTAGDEPTH p
    | none => sendToken s g t.token (State.dsts f)

/-- R127: lane 0 of the token at C, in its own width, lets GATE send; an EOS token there counts as 0. -/
def gatePasses (g : Firing) : Bool :=
  match g.at_ 2 with
  | some t => t.token.kind != kEos && t.token.lane 0 != 0
  | none => false

/-- GATE, R127. -/
def execGate (f : SlotFields) (s : State) : Out :=
  s.fire 0x04 f fun g =>
    if gatePasses g then sendToken s g ((s.srcA g).asToken g.tag g.width) (State.dsts f)
    else .next (s.endFiring g g.toks [] 2 1 0)

/-- SINK, R127. -/
def execSink (f : SlotFields) (s : State) : Out := s.fire 0x05 f fun g => .next (s.endFiring g g.toks [] 2 1 0)

/-- R127: CONST and TAGIX: a data token of one value in every lane; an EOS token at A sends EOS. -/
def spread (s : State) (g : Firing) (v : Nat) : Out :=
  if (s.srcA g).isEos then sendToken s g (eosToken g.tag g.width) (State.dsts g.f)
  else sendToken s g (({ tok := none, val := v } : Src).asToken g.tag g.width) (State.dsts g.f)

/-- CONST, R127. -/
def execConst (f : SlotFields) (s : State) : Out := s.fire 0x06 f fun g => spread s g (s.srcB g).val

/-- TAGIX, R127. -/
def execTagix (f : SlotFields) (s : State) : Out :=
  s.fire 0x0B f fun g =>
    let n := bits f.ext.toNat 0 3
    spread s g (if n < 6 then tagField g.tag n else if n = 6 then tagDepth g.tag else tagColour g.tag)

/-- EOS, R127. -/
def execEos (f : SlotFields) (s : State) : Out :=
  s.fire 0x0D f fun g => sendToken s g (eosToken g.tag ((s.srcA g).asToken g.tag g.width).width) (State.dsts f)

/-- ITER, R128: its emission starts; its tokens leave by ITER_EMIT. -/
def execIter (f : SlotFields) (s : State) : Out :=
  s.fire 0x07 f fun g =>
    let a := s.srcA g
    let b := s.srcB g
    let n := if a.isEos || b.isEos then 0 else b.lane (laneWidth g.width) 0
    if tagDepth g.tag = 6 then s.fault g codeTAGDEPTH (State.tagPos g)
    else if 256 < n then s.fault g codeTAGDEPTH (if f.srcB.toNat ≤ 2 then f.srcB.toNat else 3)
    else
      let it : IterSt := { slot := g.slot, tag := g.tag, k := 0, n := n, token := a.asToken g.tag g.width, at_ := s.cycle }
      .next ((s.modElem g.e fun x => { x with iter := some it }).endFiring g g.toks [] 2 1 0)

/-- R46: a destination code names a route on the scale channel. -/
def scaleDst (x : ElemSt) (code : Nat) : Bool :=
  decide (32 ≤ code) && code != 48 && code != 63 && fld (Table.getD x.active.routes (code % 16) 0) 62 2 == 3

namespace State

/-- R200: the scratchpad window of an element's active tenant: its first byte in the scratchpad and its size. -/
def scratchWin (s : State) (e : Nat) : Nat × Nat :=
  if s.elemPlace e = 0 then (0, scratchBytes)
  else
    let w := Table.getD s.windows (e * 16 + s.elemPlace e) {}
    (w.scrbase, min w.scrlim scratchBytes - w.scrbase)

/-- R91: destination codes whose places sets that have issued hold, with the tags of the tokens to come: a BOARDS or an ORD until it has sent its result
(R221, R237), a MAIL for its acceptance token until the mailbox has its token (R133). -/
def heldCodes (x : ElemSt) : List (Nat × Tag) :=
  (x.pend.flatMap fun p => match x.active.slotAt p.1 with
    | some (_, _, f) => (dsts f).map fun d => (d, p.2.tag)
    | none => []) ++
  (x.outq ++ x.mailq).flatMap fun o => match x.active.slotAt o.slot with
    | some (op, _, f) => if o.dst = 48 ∧ o.token.kind = kMail ∧ op = 0x0E then [(f.dst1.toNat, o.token.tag)] else []
    | none => []

/-- R91: the tags of the local results that an element has places for in its store or spill area: those on their way to it and those still to be
sent. -/
def localTags (s : State) (e : Nat) : List Tag :=
  (s.flights.filterMap fun f => if f.2.isLocal && (match f.2.bound with
    | .elem d _ _ => d == e
    | _ => false) then some f.2.token.tag else none) ++
  (heldCodes (s.elem e)).filterMap fun c => if c.1 < 32 then some c.2 else none

/-- R97: free records of an element's spill area. -/
def spillsFree (s : State) (e : Nat) : Nat :=
  ((List.range (s.spillRoom e)).filter fun r => (s.elem e).spills.all fun x => x.record != r).length

end State

/-- R46, R91: the element has room for a token of tag `t` to each of some destination codes: places in the output queues, and for local results
places in the store or the spill area. -/
def State.roomForAll (s : State) (e : Nat) (codes : List Nat) (t : Tag) : Bool :=
  let x := s.elem e
  let isLocal := fun (c : Nat) => decide (c < 32)
  let isNet := fun (c : Nat) => decide (32 ≤ c) && c != 63 && !scaleDst x c
  let loc := (codes.filter isLocal).length
  let scl := (codes.filter (scaleDst x)).length
  let net := (codes.filter isNet).length
  let held := (State.heldCodes x).map (·.1)
  (net == 0 || decide (x.outq.length + (held.filter isNet).length + net ≤ 4)) &&
    (scl == 0 || decide (x.scaleq.length + (held.filter (scaleDst x)).length + scl ≤ 4)) &&
    (loc == 0 || decide (State.spillNeed x 0 (s.localTags e ++ List.replicate loc t) ≤ s.spillsFree e))

/-- R46, R91: the element has room for a token to one destination code. -/
def State.roomFor (s : State) (e code : Nat) (t : Tag) : Bool := s.roomForAll e [code] t

/-- R128: the token that an emission sends next and where it goes. -/
def iterNext (f : SlotFields) (i : IterSt) : Nat × Token :=
  if i.k < i.n then (f.dst0.toNat, { i.token with tag := tagPush i.tag (i.k % 256) })
  else (f.dst1.toNat, eosToken (tagPush i.tag (i.n % 256)) i.token.width)

/-- R128, R91: an element's emission can send its next token. -/
def State.iterDue (s : State) (e : Nat) : Bool :=
  match (s.elem e).iter with
  | none => false
  | some i =>
    match (s.elem e).active.slotAt i.slot with
    | none => false
    | some (_, _, f) =>
      let o := iterNext f i
      i.at_ ≤ s.cycle && s.roomFor e o.1 o.2.tag && (match s.fieldAt e with
        | some k => !s.fieldStopped k
        | none => false)

/-- ITER_EMIT, R128: sends the next token of an emission; the last one frees the port. -/
def execIterEmit (s : State) : Out :=
  let e := s.focus.elem
  match (s.elem e).iter with
  | none => .refused .notEnabled
  | some i =>
    match (s.elem e).active.slotAt i.slot with
    | none => .refused .notEnabled
    | some (_, _, f) =>
      if !s.iterDue e then .refused .notEnabled
      else
        let o := iterNext f i
        let s1 := s.send e i.slot o.1 o.2 (s.cycle + 2)
        let s2 := match s1.fieldAt e with
          | some k => s1.modField k fun y => { y with lastIssue := s.cycle }
          | none => s1
        if i.k < i.n then .next (s2.modElem e fun x => { x with iter := some { i with k := i.k + 1, at_ := s.cycle + 1 } })
        else .next ((s2.modElem e fun x => { x with iter := none, vcFree := s.cycle + 1 }).settleColour (s.elemPart e) (tagColour i.tag))

/-- COUNT, R129: a unchanged to dst0 and the count to dst1. -/
def execCount (f : SlotFields) (s : State) : Out :=
  s.fire 0x08 f fun g =>
    let w := (fmtWidth (fmtOf f)).getD 5
    match State.widthMismatch g w with
    | some p => s.fault g codeTAGDEPTH p
    | none =>
      let a := (s.srcA g).asToken g.tag w
      let inc := (f.ext.signExtend 64).toNat
      let v := if modeOf f = 0 then inc else a.valid * inc
      sendTokens s g w fun tag => [(f.dst0.toNat, { a with tag := tag }), (f.dst1.toNat, mkToken tag kData 1 w (v % 2 ^ laneWidth w))]

/-- COMB, R100, R130: the release of an entry that has taken its count of tokens. No operand stands at a position: a fault of its tag action has
POS 3, or 1 for takeb (log entry 26), and FREC5 0 (log entry 105). The token released is one of data, whatever KIND the tokens taken had (log entry 128, DESIGN
CHOICE). -/
def execComb (f : SlotFields) (s : State) : Out :=
  let e := s.focus.elem
  match List.find? (fun c : CombSt => c.slot == s.focus.slot && c.tag == s.focus.tag && f.ext.toNat ≤ c.taken) (s.elem e).combs with
  | none => .refused .notEnabled
  | some c =>
    let g : Firing := { e := e, slot := c.slot, op := 0x09, f := f, tag := c.tag, toks := [] }
    match s.resultTag g c.width with
    | .error code => s.fault g code (State.tagPos g)
    | .ok r =>
      let t := if c.allEos then eosToken r.2 c.width else mkToken r.2 kData c.valid c.width c.payload
      let s1 := r.1.modElem e fun x => { x with combs := x.combs.erase c }
      .next ((s1.endFiring g [] ((State.dsts f).map fun d => (d, t)) 2 1 0).settleColour (s.elemPart e) (tagColour c.tag))

/-- R95, R131: the reap tokens of an exit: one for every element of the bed. The token's payload holds how many fields it destroys. -/
def reapAll (s : State) (e : Nat) (key : Tag) (last count : Nat) : State :=
  let t := { mkToken (tagPush key last) kReap 0 5 0 with payload := BitVec.ofNat 1024 count }
  ((planeElems (s.planeAt e)).filter fun d => (s.elem d).active.bed == (s.elem e).active.bed).foldl (fun st d =>
    st.launch { src := e, bound := .elem d 0 3, token := t, at_ := s.cycle + 2 + State.hops e (.elem d 0 3) + 1, issued := s.cycle }) s

/-- REAP, R95, R131. -/
def execReap (f : SlotFields) (s : State) : Out :=
  s.fire 0x0A f fun g =>
    if tagDepth g.tag = 0 then s.fault g codeTAGDEPTH (State.tagPos g)
    else
      let a := (s.srcA g).asToken g.tag g.width
      match s.resultTag g a.width with
      | .error code => s.fault g code (State.tagPos g)
      | .ok r =>
        let s1 := if f.extra.toNat = 0 then r.1 else reapAll r.1 g.e (tagOuter g.tag) (tagIx g.tag) f.extra.toNat
        .next (s1.endFiring g g.toks [(f.dst0.toNat, { a with tag := r.2 })] 2 1 0)

/-! ### LOOP (R93, R132) -/

/-- R132: the entry of a loop instance. -/
def loopEntry (x : ElemSt) (slot : Nat) (key : Tag) : Option LoopSt := x.loops.find? fun l => l.slot == slot && l.key == key

/-- R132: an admission of the firing tag is possible. -/
def loopAdmits (x : ElemSt) (slot w : Nat) (tag : Tag) : Option StoreTok :=
  match loopEntry x slot (tagOuter tag), oldestAt x slot 0 (some tag) with
  | some l, some t => if tagIx tag = l.x ∧ (tagIx tag + 256 - l.i) % 256 < w then some t else none
  | _, _ => none

/-- R132: a finish of the firing tag is possible. -/
def loopFinishes (x : ElemSt) (slot : Nat) (tag : Tag) : Option StoreTok :=
  match loopEntry x slot (tagOuter tag), oldestAt x slot 1 (some tag) with
  | some l, some t => if tagIx tag = l.i then some t else none
  | _, _ => none

/-- R97, R132: a token of a loop instance waits in the spill area. -/
def loopSpilled (s : State) (e slot : Nat) (key : Tag) : Bool :=
  (s.elem e).spills.any fun r =>
    bits (Memory.read s.mem (s.spillAddr e r.record + 12) 1) 0 4 == slot && tagOuter (wd (Memory.read s.mem (s.spillAddr e r.record) 8)) == key

/-- R132: closes an instance's entry when i = x and no token of the instance waits at A or B. -/
def loopClose (s : State) (e slot : Nat) (key : Tag) : State :=
  let x := s.elem e
  match loopEntry x slot key with
  | none => s
  | some l =>
    if l.i = l.x ∧ (x.store.all fun t => t.slot != slot || tagOuter t.token.tag != key) ∧ !loopSpilled s e slot key then
      s.modElem e fun y => { y with loops := y.loops.filter fun m => m != l }
    else s

/-- R132: the entry of an instance changed by `k`. -/
def loopMod (s : State) (e slot : Nat) (key : Tag) (k : LoopSt → LoopSt) : State :=
  s.modElem e fun x => { x with loops := x.loops.map fun l => if l.slot == slot && l.key == key then k l else l }

/-- R123, R132: a token of the tag at A or B that LOOP does not take, so that it faults at once: an arc token. -/
def loopArc (x : ElemSt) (slot : Nat) (tag : Tag) : Bool :=
  ((oldestAt x slot 0 (some tag)).toList ++ (oldestAt x slot 1 (some tag)).toList).any fun t => t.token.kind == kArc

/-- R132: what LOOP takes for a tag, and whether it is an admission: a token at depth 0, and an arc, raises TAG_DEPTH; of an admission and a finish
that are both possible, the one whose token arrived first. -/
def loopTakes (x : ElemSt) (slot w : Nat) (tag : Tag) : Option (StoreTok × Bool) :=
  if loopArc x slot tag then
    match oldestAt x slot 0 (some tag), oldestAt x slot 1 (some tag) with
    | some a, some b => some (if a.token.kind = kArc then (a, true) else (b, false))
    | some a, none => some (a, true)
    | none, b => b.map fun t => (t, false)
  else if tagDepth tag = 0 then
    match oldestAt x slot 0 (some tag) with
    | some t => some (t, true)
    | none => (oldestAt x slot 1 (some tag)).map fun t => (t, false)
  else
    match loopAdmits x slot w tag, loopFinishes x slot tag with
    | some a, some b => some (if b.stamp < a.stamp then (b, false) else (a, true))
    | some a, none => some (a, true)
    | none, some b => some (b, false)
    | none, none => none

/-- LOOP, R132: admits an iteration or finishes one. -/
def execLoop (f : SlotFields) (s : State) : Out :=
  let e := s.focus.elem
  let slot := s.focus.slot
  match loopTakes (s.elem e) slot (f.extra.toNat + 1) s.focus.tag with
  | none => .refused .notEnabled
  | some (t, entering) =>
    let tag := t.token.tag
    let g : Firing := { e := e, slot := slot, op := 0x0C, f := f, tag := tag, toks := [t] }
    let key := tagOuter tag
    if t.token.kind = kArc ∨ tagDepth tag = 0 then s.fault g codeTAGDEPTH t.pos
    else if entering then
      match s.resultTag g t.token.width with
      | .error code => s.fault g code (State.tagPos g)
      | .ok r =>
        let s1 := r.1.endFiring g [t] ((State.dsts f).map fun d => (d, { t.token with tag := r.2 })) 2 1 0
        .next (loopClose (loopMod s1 e slot key fun l => { l with x := (l.x + 1) % 256 }) e slot key)
    else
      .next (loopClose (loopMod (s.endFiring g [t] [] 2 1 0) e slot key fun l => { l with i := (l.i + 1) % 256 }) e slot key)

/-- MAIL, R133: the token to the mailbox; the acceptance token goes to dst1 once the mailbox has it. -/
def execMail (f : SlotFields) (s : State) : Out :=
  s.fire 0x0E f fun g =>
    let a := (s.srcA g).asToken g.tag g.width
    match s.resultTag g a.width with
    | .error code => s.fault g code (State.tagPos g)
    | .ok r =>
      .next (r.1.endFiring g g.toks [(48, { a with tag := r.2, kind := kMail })] 2 1 0)

end Sys2Proof.Machine
end

