-- ==== Sys2Proof/Machine/Matrix.lean ====
section
/-! DEFINITION. The matrix port: slot opcodes 0x70 to 0x74 (R149 to R158) with exact sums (R113, R114), the rows of an ACCRD and the
tokens of a corner-turn buffer. -/

namespace Sys2Proof.Machine

/-! ### Accumulators (R113, R114, R149) -/

/-- R150: the width code of a matrix operand; plane integers are packed n bits a lane. -/
def matrixWidth (fmt : Nat) : Nat :=
  if fmt = 0x10 then 1 else if fmt = 0x12 then 2 else if fmt = 0x16 then 3 else (fmtWidth fmt).getD 5

/-- R150, R151: the value of an element. -/
def matrixValue (fmt fpc code : Nat) : FVal :=
  match floatFmt fmt with
  | some f => f.input fpc code
  | none =>
    let z := laneInt true (laneWidth (matrixWidth fmt)) code
    .fin (decide (z < 0)) z.natAbs 0

/-- The exact sum of two values, and the flags: NV for infinity minus infinity. -/
def addExact (a b : FVal × Nat) : FVal × Nat :=
  let fl := a.2 ||| b.2
  match a.1, b.1 with
  | .nan n _, _ => (.nan n false, fl)
  | _, .nan n _ => (.nan n false, fl)
  | .inf x, .inf y => if x = y then (.inf x, fl) else (.nan false false, fl ||| fNV)
  | .inf x, .fin _ _ _ => (.inf x, fl)
  | .fin _ _ _, .inf y => (.inf y, fl)
  | .fin na ma ea, .fin nb mb eb =>
    let r := sumFin .rne na ma ea nb mb eb
    (.fin r.1 r.2.1 r.2.2, fl)

/-- R113: the exact sum of a list of values; +0 of none. Infinities of both signs are invalid, whatever the order and whatever NaN stands among them. -/
def sumExact : List (FVal × Nat) → FVal × Nat
  | [] => (.fin false 0 0, 0)
  | v :: vs =>
    let r := vs.foldl addExact v
    if (v :: vs).any (fun x => x.1 == .inf false) && (v :: vs).any (fun x => x.1 == .inf true) then (r.1, r.2 ||| fNV) else r

/-- R113, R150: the exact sum of the products of cell (i, n). A lane at or above a token's VALID forms no product. -/
def cellProducts (fmt fpc : Nat) (a b : Token) (i n : Nat) : FVal × Nat :=
  let w := laneWidth (matrixWidth fmt)
  sumExact ((List.range (32 / w)).filterMap fun k =>
    let ja := 32 * k + i
    let jb := 32 * k + n
    if ja < a.valid ∧ jb < b.valid then
      some (mulV (matrixValue fmt fpc (bits a.payload.toNat (w * ja) w)) (matrixValue fmt fpc (bits b.payload.toNat (w * jb) w)))
    else none)

/-- R114: a block's product sum under its two block scales; a NaN scale gives NaN and no flag. -/
def scaleBlock (p : FVal × Nat) (sa sb : FVal) : FVal × Nat :=
  if sa.isNan || sb.isNan then (.nan false false, p.2)
  else
    let x := mulV p.1 sa
    let y := mulV x.1 sb
    (y.1, p.2 ||| x.2 ||| y.2)

/-- R153: the value of a block scale code: e5m2 for `.sf4`, e8m0 for `.sf8`. -/
def scaleValue (fmt code : Nat) : FVal := if fmt = 0x0E then fmtE5m2.decode code else decodeE8m0 code

/-- R113: one cell after a firing that adds S. -/
def accumulate (acc : Nat) (x : FVal × Nat) : FRes :=
  let r := fAddV fmtF32 .rne false (fmtF32.decode acc) x.1
  let fl := (r.flags ||| x.2) &&& (fNV ||| fOF)
  if bits r.bits 23 8 = 0 ∧ bits r.bits 0 23 ≠ 0 then { bits := r.bits / 2 ^ 31 * 2 ^ 31, flags := fl ||| fUFS }
  else { bits := r.bits, flags := fl }

/-- R113: every cell of an accumulator after a firing. -/
def applyFiring (acc : AccSt) (s : Nat → Nat → FVal × Nat) : Table Nat × Nat :=
  let rs := (List.range 1024).map fun c => (c, accumulate (Table.getD acc.cells c 0) (s (c / 32) (c % 32)))
  ((rs.map fun r => (r.1, r.2.bits)).filter fun r => r.2 != 0, rs.foldl (fun fl r => fl ||| r.2.flags) 0)

/-- R151, R154, R155: the accumulator that a slot names. -/
def accOf (f : SlotFields) : Nat := bits f.extra.toNat 0 1

namespace State

def acc (s : State) (e m : Nat) : AccSt := Table.getD (s.elem e).accs m {}
def setAcc (s : State) (e m : Nat) (x : AccSt) : State := s.modElem e fun y => { y with accs := Table.putD y.accs m x {} }

end State

/-! ### MMA and MMAS (R151 to R153, R156) -/

/-- R151, R152: in ordered mode a set issues only when its ix is NEXT; a set that faults or only passes EOS on does not wait. -/
def matrixOrder (s : State) (g : Firing) : Bool :=
  let n := bits g.f.ext.toNat 0 8 + 1
  modeOf g.f != 0 || tagIx g.tag == (s.acc g.e (accOf g.f)).next || n ≤ tagIx g.tag || (tagDepth g.tag == 0 && decide (1 < n)) ||
    g.toks.any fun t => t.pos != 2 && t.token.kind == kEos

/-- R151: what a matched set of MMA or MMAS does; `sum` gives each cell's S under the sampled FPC, `taken` the tokens consumed. -/
def matrixFire (s : State) (g : Firing) (taken : List StoreTok) (sum : Nat → Token → Token → Nat → Nat → FVal × Nat) : Out :=
  match g.at_ 0, g.at_ 1 with
  | some a, some b =>
    let n := bits g.f.ext.toNat 0 8 + 1
    let ix := tagIx g.tag
    let m := accOf g.f
    let acc := s.acc g.e m
    let w := matrixWidth (fmtOf g.f)
    let sends := [(g.f.dst0.toNat, a.token), (g.f.dst1.toNat, b.token)]
    if a.token.width ≠ w then s.fault g codeTAGDEPTH 0
    else if b.token.width ≠ w then s.fault g codeTAGDEPTH 1
    else if a.token.kind = kEos ∧ b.token.kind = kEos then .next (s.endFiring g [a, b] sends 2 1 0)
    else if a.token.kind = kEos then s.fault g codeTAGDEPTH 0
    else if b.token.kind = kEos then s.fault g codeTAGDEPTH 1
    else if n ≤ ix ∨ (tagDepth g.tag = 0 ∧ 1 < n) then s.fault g codeTAGDEPTH (State.tagPos g)
    else
      let fpc := if acc.sampled then acc.fpc else fpcAt s g
      let r := applyFiring acc (sum fpc a.token b.token)
      let s1 := s.setAcc g.e m
        { cells := r.1, next := if modeOf g.f = 0 then (ix + 1) % n else acc.next, sampled := true, fpc := fpc, appliedAt := s.cycle + 8 }
      -- the cells, and with them the flags, land 8 cycles after issue (R156)
      let s2 := s1.modElem g.e fun x => { (x.raiseFlags s.cycle (s.cycle + 8) true r.2) with mmaFree := s.cycle + 4 }
      .next (s2.endFiring g taken sends 2 1 0)
  | _, _ => .refused .notEnabled

/-- MMA, R151. -/
def execMma (f : SlotFields) (s : State) : Out :=
  s.fire 0x70 f fun g =>
    if !matrixOrder s g then .refused .notEnabled
    else matrixFire s g g.toks fun fpc a b i n => cellProducts (fmtOf f) fpc a b i n

/-- R153: how many firings a block spans. -/
def blockSpan (fmt : Nat) : Nat := if fmt = 0x0E then 1 else 8

/-- R153: the block tag of a firing tag. -/
def blockTag (fmt : Nat) (t : Tag) : Tag := setTagIx t (tagIx t / blockSpan fmt)

/-- R153: the oldest scale token at C of an MMAS for a block tag; a token of another kind there matches nothing. -/
def scaleTok (x : ElemSt) (slot : Nat) (tag : Tag) : Option StoreTok :=
  x.store.find? fun t => t.slot == slot && t.pos == 2 && !t.faulted && t.token.kind == kScale && t.token.tag == tag

/-- R153: the matched set of MMAS for a tag. -/
def mmasSet (x : ElemSt) (slot fmt : Nat) (tag : Tag) : Option (List StoreTok) :=
  match oldestAt x slot 0 (some tag), oldestAt x slot 1 (some tag), scaleTok x slot (blockTag fmt tag) with
  | some a, some b, some c => some [a, b, c]
  | _, _, _ => none

/-- MMAS, R153: the scale token stays until the block's last firing. -/
def execMmas (f : SlotFields) (s : State) : Out :=
  let e := s.focus.elem
  let fmt := fmtOf f
  match mmasSet (s.elem e) s.focus.slot fmt s.focus.tag with
  | none => .refused .notEnabled
  | some toks =>
    let g : Firing := { e := e, slot := s.focus.slot, op := 0x71, f := f, tag := s.focus.tag, toks := toks }
    let n := bits f.ext.toNat 0 8 + 1
    let ix := tagIx g.tag
    match State.arcAt g with
    | some p => s.fault g codeTAGDEPTH p
    | none =>
      if !matrixOrder s g then .refused .notEnabled
      else
        let last := decide (ix % blockSpan fmt = blockSpan fmt - 1) || decide (ix = n - 1)
        let c := match g.at_ 2 with
          | some t => t.token.payload.toNat
          | none => 0
        matrixFire s g (if last then toks else toks.filter fun t => t.pos != 2) fun fpc a b i k =>
          scaleBlock (cellProducts fmt fpc a b i k) (scaleValue fmt (bits c (8 * i) 8)) (scaleValue fmt (bits c (256 + 8 * k) 8))

/-! ### ACCRD and ACCCLR (R154, R155) -/

/-- R154: the reading of an ACCRD slot from a row on: the accumulator, format, scales and clearing that the slot names, under an FPC. -/
def accrdOf (p : PlaneSt) (f : SlotFields) (slot : Nat) (tag : Tag) (row fpc at_ : Nat) : AccrdSt :=
  { slot := slot, tag := tag, row := row, fpc := fpc,
    scale := if f.srcB.toNat < 8 then none else some (Table.getD p.lits (f.srcB.toNat - 8) 0).toNat, fmt := fmtOf f, acc := accOf f,
    clear := bits f.qual.toNat 5 1 == 1, at_ := at_ }

/-- ACCRD, R154: the reading starts; its rows leave by ACCRD_ROW. -/
def execAccrd (f : SlotFields) (s : State) : Out :=
  s.fire 0x72 f fun g =>
    let m := accOf f
    let acc := s.acc g.e m
    match State.widthMismatch g ((fmtWidth (fmtOf f)).getD 5) with
    | some p => s.fault g codeTAGDEPTH p
    | none =>
      if tagDepth g.tag = 6 then s.fault g codeTAGDEPTH (State.tagPos g)
      else
        let r := accrdOf (s.elem g.e).active f g.slot g.tag 0 (if acc.sampled then acc.fpc else fpcAt s g) (max (s.cycle + 4) acc.appliedAt)
        .next ((s.modElem g.e fun x => { x with accrd := some r }).endFiring g g.toks [] 4 1 0)

/-- R154: lane `n` of a row: the cell times the tensor scales, rounded to f32, converted. -/
def accLane (r : AccrdSt) (cell : Nat) : FRes :=
  let v : FRes := match r.scale with
    | none => { bits := cell, flags := 0 }
    | some l =>
      let t := mulV (fmtBf16.decode (bits l 0 16)) (fmtBf16.decode (bits l 16 16))
      let q := fmtF32.ofVal .rne false (mulV (fmtF32.decode cell) t.1).1
      { bits := q.bits, flags := q.flags &&& (fOF ||| fNX) }
  let c := convertTo r.fmt (fpcRm r.fpc) (fpcFtz r.fpc) (valueOf 0x07 (fpcDaz r.fpc) v.bits)
  { c with flags := c.flags ||| v.flags }

/-- R154: the token that an ACCRD sends next, where it goes and the flags of its row. -/
def accrdNext (acc : AccSt) (f : SlotFields) (r : AccrdSt) : Nat × Token × Nat :=
  let w := (fmtWidth r.fmt).getD 5
  if r.row < 32 then
    let v := fun n => accLane r (Table.getD acc.cells (32 * r.row + n) 0)
    (f.dst0.toNat, mkToken (tagPush r.tag r.row) kData 32 w (packLanes (laneWidth w) (fun n => (v n).bits) 32),
     orLanes (fun n => (v n).flags) 32)
  else (f.dst1.toNat, eosToken (tagPush r.tag 32) w, 0)

/-- R154, R91: an element's ACCRD can send its next token. -/
def State.accrdDue (s : State) (e : Nat) : Bool :=
  match (s.elem e).accrd with
  | none => false
  | some r =>
    match (s.elem e).active.slotAt r.slot with
    | none => false
    | some (_, _, f) =>
      r.at_ ≤ s.cycle && s.roomFor e (if r.row < 32 then f.dst0.toNat else f.dst1.toNat) (tagPush r.tag r.row) && (match s.fieldAt e with
        | some k => !s.fieldStopped k
        | none => false)

/-- ACCRD_ROW, R154: sends the next row, and after row 31 the EOS, which frees the port and clears the accumulator if asked. -/
def execAccrdRow (s : State) : Out :=
  let e := s.focus.elem
  match (s.elem e).accrd with
  | none => .refused .notEnabled
  | some r =>
    match (s.elem e).active.slotAt r.slot with
    | none => .refused .notEnabled
    | some (_, _, f) =>
      if !s.accrdDue e then .refused .notEnabled
      else
        let o := accrdNext (s.acc e r.acc) f r
        let s1 := (s.send e r.slot o.1 o.2.1 s.cycle).modElem e fun x => x.raiseFlags s.cycle s.cycle true o.2.2
        let s2 := match s1.fieldAt e with
          | some k => s1.modField k fun y => { y with lastIssue := s.cycle }
          | none => s1
        if r.row < 32 then .next (s2.modElem e fun x => { x with accrd := some { r with row := r.row + 1, at_ := s.cycle + 1 } })
        else
          let s3 := if r.clear then s2.setAcc e r.acc {} else s2
          .next ((s3.modElem e fun x => { x with accrd := none, mxFree := s.cycle + 1 }).settleColour (s.elemPart e) (tagColour r.tag))

/-- ACCCLR, R155. -/
def execAccclr (f : SlotFields) (s : State) : Out :=
  s.fire 0x73 f fun g =>
    let m := accOf f
    let both := bits f.extra.toNat 1 1 == 1
    let ready := if both then max (s.acc g.e 0).appliedAt (s.acc g.e 1).appliedAt else (s.acc g.e m).appliedAt
    let hold := max 1 (ready - s.cycle)
    let a := (s.srcA g).asToken g.tag g.width
    match s.resultTag g a.width with
    | .error code => s.fault g code (State.tagPos g)
    | .ok r =>
      let s1 := if both then (r.1.setAcc g.e 0 {}).setAcc g.e 1 {} else r.1.setAcc g.e m {}
      .next (s1.endFiring g g.toks ((State.dsts f).map fun d => (d, { a with tag := r.2 })) (max 2 hold) hold 0)

/-! ### CTURN (R157, R158) -/

/-- R157: where a buffer of a CTURN slot begins in the tenant's window. -/
def cturnOff (f : SlotFields) (tile : Nat) : Nat := 128 * bits f.ext.toNat 0 12 + 4096 * (tile % 2)

/-- R157: the buffer of a tile, by 2 x slot + buffer. -/
def cturnKey (slot tile : Nat) : Nat := 2 * slot + tile % 2

/-- R157, R158: a set of CTURN can issue: a row whose buffer is empty or fills its tile; an EOS whose tile has rows in, or that passes on
once nothing of the slot emits; a set that faults. -/
def cturnOpen (x : ElemSt) (g : Firing) : Bool :=
  let tile := tagIx g.tag / 32
  let own := Table.find? x.cturn (cturnKey g.slot tile)
  let mine := fun (c : CturnSt) => c.key == tagOuter g.tag && c.tile == tile
  if tagDepth g.tag = 0 then true
  else if g.toks.any fun t => t.token.kind == kEos then
    match own with
    | some c => (mine c && c.eos.isNone) || (!mine c && x.cturn.all fun y => y.1 / 2 != g.slot || !y.2.emitting)
    | none => x.cturn.all fun y => y.1 / 2 != g.slot || !y.2.emitting
  else match own with
    | some c => mine c && !c.emitting
    | none => true

/-- CTURN, R157, R158: a row goes into its buffer, and a full tile starts to be emitted; an EOS ends its tile or passes on. -/
def execCturn (f : SlotFields) (s : State) : Out :=
  s.fire 0x74 f fun g =>
    let x := s.elem g.e
    let a := (s.srcA g).asToken g.tag g.width
    let ix := tagIx g.tag
    let tile := ix / 32
    let key := cturnKey g.slot tile
    let win := s.scratchWin g.e
    let own := (Table.find? x.cturn key).filter fun c => c.key == tagOuter g.tag && c.tile == tile
    if tagDepth g.tag = 0 then s.fault g codeTAGDEPTH (State.tagPos g)
    else if !cturnOpen x g then .refused .notEnabled
    else if a.kind = kEos then
      match own with
      | none =>
        -- R158: an EOS for a tile with no rows only passes on, and both buffers of the instance are then empty
        let s1 := s.modElem g.e fun y => { y with cturn := y.cturn.filter fun q => q.1 / 2 != g.slot || q.2.key != tagOuter g.tag }
        .next ((s1.endFiring g g.toks ((State.dsts f).map fun d => (d, a)) 2 1 0).settleColour (s.elemPart g.e) (tagColour g.tag))
      | some c =>
        let c1 := { c with emitting := true, at_ := if c.emitting then c.at_ else s.cycle, eos := some a }
        .next ((s.modElem g.e fun y => { y with cturn := Table.put y.cturn key c1 }).endFiring g g.toks [] 2 1 0)
    else if win.2 < cturnOff f tile + 4096 then s.fault g codeBOUND (State.firstPos g)
    else
      let row := ix % 32
      let m := Memory.write s.mem (scratchBase g.e + win.1 + cturnOff f tile + 128 * row) 128
        (maskPayload a.width a.valid a.payload.toNat).toNat
      let old := own.getD { slot := g.slot, key := tagOuter g.tag, tile := tile, rows := 0, emitting := false, next := 0,
                            width := a.width, at_ := 0, eos := none }
      let rows := old.rows ||| 2 ^ row
      let full := decide (rows = 2 ^ 32 - 1)
      let c := { old with rows := rows, emitting := full, at_ := if full then s.cycle else old.at_,
                          spoiled := old.spoiled.filter fun o => o / 128 != row }
      let s1 := State.modElem { s with mem := m } g.e fun y =>
        { y with cturn := Table.put y.cturn key c, spFree := max y.spFree s.cycle + 1 }
      .next (s1.endFiring g g.toks [] 2 1 0)

/-- R157: element (row, col) of a stored tile; a missing row reads as 0; a byte that STS or STSV wrote while the buffer was live is a free
value. -/
def cturnElem (s : State) (base : Nat) (c : CturnSt) (row col : Nat) : Nat :=
  if c.rows / 2 ^ row % 2 = 0 then 0
  else
    let w := laneWidth c.width
    let byte := fun b => if c.spoiled.contains (128 * row + b) then (Config.freeByte (s.freeCount + 128 * row + b)).toNat
      else (Memory.get s.mem (base + 128 * row + b)).toNat
    let line := packLanes 8 byte 128
    bits line (w * col) w

/-- R157: token `t` of a tile. -/
def cturnToken (s : State) (base : Nat) (c : CturnSt) : Token :=
  let w := laneWidth c.width
  let u := 1024 / w
  mkToken (tagPush c.key (32 * c.tile + c.next)) kData u c.width
    (packLanes w (fun j => cturnElem s base c (j % 32) (c.next * (u / 32) + j / 32)) u)

/-- R157, R158: the buffer of a slot that emits first: the one that began earliest. -/
def cturnFirst (x : ElemSt) (k : Nat) (c : CturnSt) : Bool :=
  x.cturn.all fun y => y.1 / 2 != c.slot || y.1 == k || !y.2.emitting || c.at_ < y.2.at_ || (c.at_ == y.2.at_ && k < y.1)

/-- R158, R91: a buffer can send its next token, or the EOS after its last. -/
def State.cturnDue (s : State) (e k : Nat) : Bool :=
  let x := s.elem e
  match Table.find? x.cturn k with
  | none => false
  | some c =>
    match x.active.slotAt c.slot with
    | none => false
    | some (_, _, f) =>
      let tag := match c.eos with
        | some t => if c.next < 32 then tagPush c.key (32 * c.tile + c.next) else t.tag
        | none => tagPush c.key (32 * c.tile + c.next)
      c.emitting && c.at_ < s.cycle && x.spFree ≤ s.cycle && cturnFirst x k c && s.roomForAll e (State.dsts f) tag &&
        (match s.fieldAt e with
          | some k => !s.fieldStopped k
          | none => false)

/-- CTURN_EMIT, R157, R158: a buffer sends its next token; after the last one it is free, unless an EOS follows. After an EOS both buffers
of the instance are empty. -/
def execCturnEmit (s : State) : Out :=
  let e := s.focus.elem
  let k := s.focus.index
  let x := s.elem e
  match Table.find? x.cturn k with
  | none => .refused .notEnabled
  | some c =>
    match x.active.slotAt c.slot with
    | none => .refused .notEnabled
    | some (_, _, f) =>
      if !s.cturnDue e k then .refused .notEnabled
      else
        let base := scratchBase e + (s.scratchWin e).1 + cturnOff f c.tile
        let sendAll := fun (st : State) (t : Token) => (State.dsts f).foldl (fun y d => y.send e c.slot d t (s.cycle + 1)) st
        let done := fun (st : State) => st.settleColour (s.elemPart e) (tagColour c.key)
        if c.next < 32 then
          let s1 := { sendAll s (cturnToken s base c) with freeCount := if c.spoiled.isEmpty then s.freeCount else s.freeCount + 4096 }
          let last := decide (c.next = 31) && c.eos.isNone
          .next (done (s1.modElem e fun y =>
            { y with spFree := s.cycle + 1,
                     cturn := if last then Table.erase y.cturn k else Table.put y.cturn k { c with next := c.next + 1 } }))
        else match c.eos with
          | none => .refused .notEnabled
          | some t =>
            .next (done ((sendAll s t).modElem e fun y =>
              { y with cturn := y.cturn.filter fun q => q.1 / 2 != c.slot || q.2.key != c.key || (q.1 != k && q.2.emitting) }))

end Sys2Proof.Machine
end

