-- ==== Sys2Proof/Machine/SlotMemory.lean ====
section
/-! DEFINITION. Slot memory opcodes 0x80 to 0x92 (R232 to R236, R238), buffers (R201) and ORD (R237). -/

namespace Sys2Proof.Machine

namespace State

/-! ### Windows of an element (R200, R202) -/

/-- R324: the window that a value of TEDGE names: its first byte and its size. -/
def edgeWindow (w : Word) : Nat × Nat := (fld w 0 10 * 4096, (fld w 32 10 - fld w 0 10) * 4096)

/-- R202, R324: the edge stream window of place `n` of partition `p`: its first byte in a stream store and its size. -/
def streamWin (s : State) (p n : Nat) : Nat × Nat :=
  if n = 0 then (0, streamBytes) else edgeWindow (s.place p n).tedge

/-- R236: the edge stream window as the elements keep it: its limits were loaded at the tenant's last slot edge. -/
def elemStreamWin (s : State) (p n : Nat) : Nat × Nat :=
  if n = 0 then (0, streamBytes) else edgeWindow (s.place p n).edgeHeld

/-- R359: the first 8-byte word with an uncorrectable error that an access of `n` bytes meets; a store whose first `cover` bytes are written whole
does not meet a word that these cover. -/
def badWord (s : State) (a n cover : Nat) : Option Nat :=
  (s.badWords.filter fun w => decide (8 * w < a + n) && decide (a < 8 * w + 8) && !(decide (a ≤ 8 * w) && decide (8 * w + 8 ≤ a + cover))).min?

/-- R157: the bytes of live corner-turn buffers that a store to a scratchpad range touches. -/
def spoilBuffers (s : State) (e a n : Nat) : State :=
  let x := s.elem e
  if x.cturn.isEmpty then s
  else s.modElem e fun y =>
    { y with cturn := y.cturn.map fun c =>
        match x.active.slotAt c.2.slot with
        | none => c
        | some (_, _, f) =>
          let b := scratchBase e + (s.scratchWin e).1 + cturnOff f c.2.tile
          (c.1, { c.2 with spoiled := c.2.spoiled ++
            (((List.range n).map fun i => a + i).filter fun z => decide (b ≤ z) && decide (z < b + 4096)).map fun z => z - b }) }

/-- R359: stores bytes to a scratchpad; bad words that are covered whole are cleared. -/
def scratchWrite (s : State) (a n v : Nat) : State :=
  { s with mem := Memory.write s.mem a n v,
           badWords := s.badWords.filter fun w => !(decide (a ≤ 8 * w) && decide (8 * w + 8 ≤ a + n)) }

/-- R232, R99, R359: the fault of a slot's scratchpad accesses, given by offset, length and whether they store: BOUND, or POISON with the
scratch offset of the bad word. -/
def scratchFault (s : State) (g : Firing) (acc : List (Nat × Nat × Bool)) : Option Out :=
  let w := s.scratchWin g.e
  if acc.any fun x => decide (w.2 < x.1 + x.2.1) then some (s.fault g codeBOUND (firstPos g))
  else
    match acc.filterMap fun x => s.badWord (scratchBase g.e + w.1 + x.1) x.2.1 (if x.2.2 then x.2.1 else 0) with
    | b :: _ => some (s.faultOp g codePOISON (firstPos g) (wd (8 * b - scratchBase g.e - w.1)))
    | [] => none

/-- R78, R237, R238: a slot memory operation that has issued: how long it takes the scratchpad port and when it is performed. -/
def memIssued (s : State) (e port lat : Nat) : State :=
  s.modElem e fun x => { x with spFree := if port = 0 then x.spFree else max x.spFree s.cycle + port, memDone := max x.memDone (s.cycle + lat) }

/-- R99: a slot memory operation that ends in the state `st` sends its result, unless its tag action faults: then it has no effect. -/
def memSend (s : State) (g : Firing) (st : State) (kind valid width payload lat flags : Nat) : Out :=
  match s.resultTag g width with
  | .error code => s.fault g code (tagPos g)
  | .ok _ => st.sendResult g kind valid width payload lat 1 flags

/-- R232: sends an arc token with the result tag to each destination. -/
def sendArc (s : State) (g : Firing) (st : State) (width lat : Nat) : Out := s.memSend g st kArc 0 width 0 lat 0

end State

/-! ### Scratchpad opcodes (R233, R238) -/

/-- R232: the base that a side word names. -/
def slotBase (f : SlotFields) : Nat := 8 * f.ext.toNat

/-- R238: the distinct 128-byte blocks that accesses touch. -/
def blocksOf (offs : List (Nat × Nat)) : Nat := (offs.flatMap fun o => [o.1 / 128, (o.1 + o.2 - 1) / 128]).dedup.length

/-- LDS, R233. -/
def execLds (f : SlotFields) (s : State) : Out :=
  s.value 0x80 f 3 1 fun g =>
    let w := laneWidth (fmtCode f)
    let a := s.srcA g
    let n := State.minValid g (1024 / w)
    let off := fun i => slotBase f + a.lane w i * (w / 8)
    let acc := (List.range n).map fun i => (off i, w / 8)
    match s.scratchFault g (acc.map fun x => (x.1, x.2, false)) with
    | some o => o
    | none =>
      let b := scratchBase g.e + (s.scratchWin g.e).1
      let k := blocksOf acc
      s.memSend g (s.memIssued g.e k (3 + k)) kData n (fmtCode f)
        (packLanes w (fun i => Memory.read s.mem (b + off i) (w / 8)) n) (3 + k) 0

/-- STS, R233: in lane order, so that the highest lane wins. -/
def execSts (f : SlotFields) (s : State) : Out :=
  s.value 0x81 f 3 1 fun g =>
    let w := laneWidth (fmtCode f)
    let a := s.srcA g
    let n := State.minValid g (1024 / w)
    let off := fun i => slotBase f + a.lane w i * (w / 8)
    let acc := (List.range n).map fun i => (off i, w / 8)
    match s.scratchFault g (acc.map fun x => (x.1, x.2, true)) with
    | some o => o
    | none =>
      let b := scratchBase g.e + (s.scratchWin g.e).1
      let k := blocksOf acc
      let s1 := (List.range n).foldl (fun st i =>
        (st.scratchWrite (b + off i) (w / 8) ((s.srcB g).lane w i)).spoilBuffers g.e (b + off i) (w / 8)) s
      s.sendArc g (s1.memIssued g.e k (3 + k)) (fmtCode f) (3 + k)

/-- LDSV, R233. -/
def execLdsv (f : SlotFields) (s : State) : Out :=
  s.value 0x82 f 4 1 fun g =>
    let w := g.width
    let off := slotBase f + 128 * (s.srcA g).lane (laneWidth w) 0
    match s.scratchFault g [(off, 128, false)] with
    | some o => o
    | none =>
      s.memSend g (s.memIssued g.e 1 4) kData (lanesOf w) w (Memory.read s.mem (scratchBase g.e + (s.scratchWin g.e).1 + off) 128) 4 0

/-- STSV, R233: only the bits of b's valid lanes change. -/
def execStsv (f : SlotFields) (s : State) : Out :=
  s.value 0x83 f 4 1 fun g =>
    let w := g.width
    let off := slotBase f + 128 * (s.srcA g).lane (laneWidth w) 0
    let b := (s.srcB g).asToken g.tag w
    let nb := laneWidth b.width * b.valid
    let bytes := (nb + 7) / 8
    let at_ := scratchBase g.e + (s.scratchWin g.e).1 + off
    if (s.scratchWin g.e).2 < off + 128 then s.fault g codeBOUND (State.firstPos g)
    else match s.badWord at_ bytes (nb / 8) with
      | some q => s.faultOp g codePOISON (State.firstPos g) (wd (8 * q - scratchBase g.e - (s.scratchWin g.e).1))
      | none =>
        let old := Memory.read s.mem at_ bytes
        let new := old - old % 2 ^ nb + b.payload.toNat % 2 ^ nb
        let s1 := (s.scratchWrite at_ bytes new).spoilBuffers g.e at_ bytes
        s.sendArc g (s1.memIssued g.e 1 4) w 4

/-! ### ATOMS (R234) -/

/-- R234, R236: the bound of INCW and BFADD: the literal that extra[6:4] names. -/
def boundOf (s : State) (g : Firing) : Nat := (Table.getD (s.elem g.e).active.lits (bits g.f.extra.toNat 4 3) 0).toNat

/-- An atomic operation over several units in order: the state, the values returned and the flags. `at_` gives where unit `i` stands, `v` its
operand. -/
def atomUnits (op : AtomOp) (w bytes : Nat) (at_ v : Nat → Nat) (bound : Nat) (keepHigh : Bool) : List Nat → State → State × List Nat × Nat
  | [], s => (s, [], 0)
  | i :: is, s =>
    let m := Memory.read s.mem (at_ i) bytes
    let r := atomic op w m (v i) bound
    let new := if keepHigh then m / 2 ^ 32 * 2 ^ 32 + r.new % 2 ^ 32 else r.new
    let x := atomUnits op w bytes at_ v bound keepHigh is (s.scratchWrite (at_ i) bytes new)
    (x.1, (if keepHigh then m / 2 ^ 32 * 2 ^ 32 + r.ret % 2 ^ 32 else r.ret) :: x.2.1, r.flags ||| x.2.2)

/-- ATOMS, R234. -/
def execAtoms (f : SlotFields) (s : State) : Out :=
  s.value 0x84 f 4 1 fun g =>
    let pair := fmtOf f == 0x17
    let w := if pair then 64 else 32
    let a := s.srcA g
    let n := if pair then State.minValid g 32 / 2 else State.minValid g 32
    let off := fun i => slotBase f + bits (a.lane w i) 0 32 * (w / 8)
    match atomOfCode (bits f.extra.toNat 0 4), s.scratchFault g ((List.range n).map fun i => (off i, w / 8, false)) with
    | none, _ => .refused .notEnabled
    | some _, some o => o
    | some op, none =>
      let b := scratchBase g.e + (s.scratchWin g.e).1
      let x := atomUnits op w (w / 8) (fun i => b + off i) (fun i => (s.srcB g).lane w i) (boundOf s g) false (List.range n) s
      s.memSend g (x.1.memIssued g.e (2 * n) (4 + 2 * n)) kData (if pair then 2 * n else n) 5
        (packLanes w (fun i => x.2.1.getD i 0) n) (4 + 2 * n) x.2.2

/-! ### Buffers (R201, R235) -/

/-- R235: the buffer rows that a side word names. -/
def bufRows (f : SlotFields) : Nat := f.extra.toNat + 1

/-- R235: the buffer that a BUFW or BUFR names: the lowest BUFW slot of the plane with that base and those rows. -/
def bufwOf (x : PlaneSt) (f : SlotFields) : Option Nat :=
  (List.range 16).find? fun n => match x.slotAt n with
    | some (op, _, h) => op == 0x85 && h.ext == f.ext && h.extra == f.extra
    | none => false

/-- R201: the buffer is free, or held for the key. -/
def bufTakes (x : ElemSt) (slot : Nat) (key : Tag) : Bool :=
  match Table.find? x.bufs slot with
  | none => true
  | some k => k == key

/-- BUFW, R201, R235: stores a row and reports it; an EOS passes on. -/
def execBufw (f : SlotFields) (s : State) : Out :=
  s.fire 0x85 f fun g =>
    let key := tagOuter g.tag
    let a := (s.srcA g).asToken g.tag g.width
    let buf := (bufwOf (s.elem g.e).active f).getD g.slot
    if !bufTakes (s.elem g.e) buf key then .refused .notEnabled
    else
      let off := slotBase f + 128 * (tagIx g.tag % bufRows f)
      let hold := fun (st : State) => st.modElem g.e fun x => { x with bufs := Table.put x.bufs buf key }
      if a.kind = kEos then s.memSend g (hold s) kEos 0 a.width 0 4 0
      else match s.scratchFault g [(off, 128, true)] with
        | some o => o
        | none =>
          let s1 := s.scratchWrite (scratchBase g.e + (s.scratchWin g.e).1 + off) 128 a.payload.toNat
          s.memSend g ((hold s1).memIssued g.e 1 4) kData a.valid a.width 0 4 0

/-- BUFR, R201, R235: sends the row that a token names; the EOS frees the buffer. -/
def execBufr (f : SlotFields) (s : State) : Out :=
  s.fire 0x86 f fun g =>
    let a := (s.srcA g).asToken g.tag g.width
    let off := slotBase f + 128 * (tagIx g.tag % bufRows f)
    if a.kind = kEos then
      let s1 := match bufwOf (s.elem g.e).active f with
        | some n => s.modElem g.e fun x =>
            if Table.find? x.bufs n = some (tagOuter g.tag) then { x with bufs := Table.erase x.bufs n } else x
        | none => s
      s.memSend g s1 kEos 0 a.width 0 4 0
    else match s.scratchFault g [(off, 128, false)] with
      | some o => o
      | none =>
        s.memSend g (s.memIssued g.e 1 4) kData a.valid a.width
          (Memory.read s.mem (scratchBase g.e + (s.scratchWin g.e).1 + off) 128) 4 0

/-! ### Edge opcodes (R236, R238) -/

/-- R236: the tile that a side word names, and its hops (R238). -/
def etTile (e : Nat) (f : SlotFields) : Nat := tileKey (elemDie e) (elemX e) (bits f.extra.toNat 7 1)
def etLat (e : Nat) (f : SlotFields) : Nat := 2 * (if bits f.extra.toNat 7 1 = 0 then elemY e + 1 else 32 - elemY e) + 8

/-- R236: an edge opcode over its valid pairs, each at the stream-store word that a's pair names; an offset beyond the window raises
BOUND. -/
def edgeOp (s : State) (op : Nat) (f : SlotFields) (act : Firing → Nat → (Nat → Nat) → Out) : Out :=
  s.value op f (etLat s.focus.elem f) 1 fun g =>
    let n := State.minValid g 32 / 2
    let w := s.elemStreamWin (s.elemPart g.e) (s.elemPlace g.e)
    let off := fun i => 8 * bits ((s.srcA g).lane 64 i) 0 32
    if (List.range n).any fun i => decide (w.2 < off i + 8) then s.fault g codeBOUND (State.firstPos g)
    else act g n fun i => streamBase (etTile g.e f) + w.1 + off i

/-- ETLD, R236. -/
def execEtld (f : SlotFields) (s : State) : Out :=
  edgeOp s 0x91 f fun g n at_ =>
    let l := etLat g.e f
    s.memSend g (s.memIssued g.e 0 l) kData (2 * n) 5 (packLanes 64 (fun i => Memory.read s.mem (at_ i) 8) n) l 0

/-- ETST, R236. -/
def execEtst (f : SlotFields) (s : State) : Out :=
  edgeOp s 0x92 f fun g n at_ =>
    let l := etLat g.e f
    let m := (List.range n).foldl (fun m i => Memory.write m (at_ i) 8 ((s.srcB g).lane 64 i)) s.mem
    s.sendArc g (State.memIssued { s with mem := m } g.e 0 l) 5 l

/-- ETAS, R236: f32 operations act on the low 32 bits of the word. -/
def execEtas (f : SlotFields) (s : State) : Out :=
  edgeOp s 0x90 f fun g n at_ =>
    let l := etLat g.e f
    let code := bits f.extra.toNat 0 4
    let low := decide (11 ≤ code) && decide (code ≤ 13)
    match atomOfCode code with
    | none => .refused .notEnabled
    | some op =>
      let x := atomUnits op (if low then 32 else 64) 8 at_ (fun i => (s.srcB g).lane 64 i) (boundOf s g) low (List.range n) s
      s.memSend g (x.1.memIssued g.e 0 l) kData (2 * n) 5 (packLanes 64 (fun i => x.2.1.getD i 0) n) l x.2.2

/-! ### ORD (R237) -/

/-- ORD, R237: it issues, and its arcs follow once every earlier slot memory operation of the element is performed. -/
def execOrd (f : SlotFields) (s : State) : Out :=
  s.fire 0x0F f fun g =>
    if (Table.find? (s.elem g.e).pend g.slot).isSome then .refused .notEnabled
    else match s.resultTag g g.width with
      | .error code => s.fault g code (State.tagPos g)
      | .ok r =>
        let p : PendSt := { tag := r.2, width := g.width, isOrd := true, value := none,
                            at_ := max s.cycle (s.elem g.e).memDone + 2, issued := s.cycle }
        let s1 := if (State.dsts f).any fun d => d != 63 then r.1.leaveFrame g else r.1
        .next ((s1.modElem g.e fun x => { x with pend := Table.put x.pend g.slot p }).endFiring g g.toks [] 2 1 0)

/-- R237: an ORD's arcs may leave: every earlier slot memory operation, a BOARDS included, is performed. Their places are
reserved since its issue (R91). -/
def State.ordDue (s : State) (e slot : Nat) : Bool :=
  let x := s.elem e
  match Table.find? x.pend slot with
  | some p =>
    p.isOrd && p.at_ ≤ s.cycle + 2 && (x.pend.all fun q => q.2.isOrd || p.issued ≤ q.2.issued) && match s.fieldAt e with
      | some k => !s.fieldStopped k
      | none => false
  | none => false

/-- ORD_ARC_SEND, R237. -/
def execOrdArcSend (s : State) : Out :=
  let e := s.focus.elem
  let slot := s.focus.slot
  match Table.find? (s.elem e).pend slot, (s.elem e).active.slotAt slot with
  | some p, some (_, _, f) =>
    if !s.ordDue e slot then .refused .notEnabled
    else
      let t := mkToken p.tag kArc 0 p.width 0
      let s1 := (State.dsts f).foldl (fun st d => st.send e slot d t (max p.at_ s.cycle)) s
      .next ((s1.modElem e fun x => { x with pend := Table.erase x.pend slot }).settleColour (s.elemPart e) (tagColour p.tag))
  | _, _ => .refused .notEnabled

end Sys2Proof.Machine
end

