-- ==== Sys2Proof/Machine/SowCheck.lean ====
section
/-! DEFINITION. Plane records (R168) and the checks that SOW runs on them (R44 to R50, R118, R122 to R162, R169, R221, R232 to R237). -/

namespace Sys2Proof.Machine

/-! ### Plane records (R168) -/

/-- Bytes [off, off + n) of a record that is given as one number. -/
def recBytes (r off n : Nat) : Nat := bits r (8 * off) (8 * n)

/-- A record's entries of `size` bytes from an offset, but for zero ones. -/
def recEntries (r off size : Nat) : Nat → Table Word
  | 0 => []
  | n + 1 =>
    let v := recBytes r (off + size * n) size
    recEntries r off size n ++ (if v = 0 then [] else [(n, wd v)])

/-- R80, R168: the plane that a record holds. -/
def planeOfRecord (r : Nat) : PlaneSt :=
  { slots := recEntries r 0 8 16, lits := recEntries r 128 8 8, routes := recEntries r 192 8 16, bed := recBytes r 320 1 % 16,
    fpc := recBytes r 324 4 % 16,
    mods := (List.range 16).filterMap fun n => if bits (recBytes r 328 2) n 1 = 1 then some (n, recBytes r (336 + 8 * n) 8) else none }

/-- R168: a plane as a record of 512 bytes. -/
def recordOfPlane (p : PlaneSt) : Nat :=
  let put := fun (t : Table Word) (off : Nat) => (t.map fun e => e.2.toNat * 2 ^ (8 * (off + 8 * e.1))).sum
  put p.slots 0 + put p.lits 128 + put p.routes 192 + p.bed * 2 ^ (8 * 320) + p.fpc * 2 ^ (8 * 324) +
    (p.mods.map fun e => 2 ^ (8 * 328 + e.1) + e.2 * 2 ^ (8 * (336 + 8 * e.1))).sum

/-- R168, R169: the reserved bytes of a record are 0 and its bed number is at most 15. -/
def recordReserved (r : Nat) : Bool :=
  recBytes r 320 1 < 16 && recBytes r 321 3 == 0 && recBytes r 330 6 == 0 && recBytes r 464 48 == 0

/-- R118, R169: every modulus value of a record is in range, and none is given without its mask bit. -/
def recordModuli (r : Nat) : Bool :=
  (List.range 16).all fun n =>
    let q := recBytes r (336 + 8 * n) 8
    if bits (recBytes r 328 2) n 1 = 1 then q != 1 && decide (q < 2 ^ 62) else q == 0

/-! ### One slot (R50) -/

/-- The fields of slot `n`. -/
def PlaneSt.fields (p : PlaneSt) (n : Nat) : SlotFields := slotFieldsOf (p.slotWord n) (p.sideWord n)

/-- The opcode of slot `n`; 0 for an empty slot. -/
def PlaneSt.opcode (p : PlaneSt) (n : Nat) : Nat := bits (p.slotWord n).toNat 24 8

/-- R90: slot `n` is not empty and reads position `pos`. A slot that R48 or R49 rejects reads the positions that its selects name (log entry 113). -/
def PlaneSt.reads (p : PlaneSt) (n pos : Nat) : Bool := p.opcode n != 0 && (slotPositions (p.opcode n) (p.fields n)).contains pos

/-- R49: the opcode is assigned. -/
def opcodeOk (op : Nat) (f : SlotFields) : Bool := (slotOfOpcode op f).isSome

/-- R129, R130, R134 to R147, R150, R154, R159, R233, R234, R236: the formats that an opcode accepts; 0 where it takes none. A CVT whose two
formats may not pair is REASON 7 here, though its source format stands in the extension (log entry 125, DESIGN CHOICE). -/
def formatOk (op : Nat) (f : SlotFields) : Bool :=
  let fmt := fmtOf f
  let int := isIntFmt fmt
  let flt := isVecFloat fmt
  let any := decide (1 ≤ fmt) && decide (fmt ≤ 0x17)
  let wide := fmt != 0x17 && (fmtWidth fmt == some 3 || fmtWidth fmt == some 4 || fmtWidth fmt == some 5)
  if op = 0x08 ∨ op = 0x43 then fmt == 1 || fmt == 3 || fmt == 5
  else if op = 0x09 then int
  else if 0x15 ≤ op ∧ op ≤ 0x18 then any
  else if op = 0x21 then any
  else if op = 0x27 then fmt == 5
  else if 0x10 ≤ op ∧ op ≤ 0x2B then int
  else if 0x30 ≤ op ∧ op ≤ 0x3F then flt
  else if op = 0x40 then
    let read := fun c => if c = 0x0F then 0x0A else c
    let pair := fun c => int_ c || isVecFloat c || c == 0x0A || c == 0x0B || c == 0x0D
    let d := read fmt
    let s := read (bits f.ext.toNat 0 5)
    pair d && pair s && d != s && fmtWidth d == fmtWidth s
  else if op = 0x41 ∨ op = 0x42 then (decide (8 ≤ fmt) && decide (fmt ≤ 0x0F)) || (decide (1 ≤ fmt) && decide (fmt ≤ 4))
  else if op = 0x44 then int || flt
  else if op = 0x50 then wide || fmt == 0x17
  else if op = 0x51 ∨ op = 0x52 ∨ op = 0x53 ∨ op = 0x59 then any
  else if op = 0x56 then int
  else if op = 0x57 ∨ op = 0x58 then int || flt
  else if op = 0x5A then flt
  else if 0x60 ≤ op ∧ op ≤ 0x67 then fmt == 0x17
  else if op = 0x70 then flt || fmt == 0x0A || fmt == 0x0B || fmt == 0x0C || fmt == 0x10 || fmt == 0x12 || fmt == 0x16
  else if op = 0x71 then fmt == 0x0E || fmt == 0x0F
  else if op = 0x72 then flt || fmt == 0x0A || fmt == 0x0B
  else if op = 0x80 ∨ op = 0x81 then wide
  else if op = 0x84 then
    fmt == 5 || fmt == 6 || fmt == 0x17 || (fmt == 7 && decide (11 ≤ bits f.extra.toNat 0 4) && decide (bits f.extra.toNat 0 4 ≤ 13))
  else if 0x90 ≤ op ∧ op ≤ 0x92 then fmt == 0x17
  else fmt == 0
where
  int_ (c : Nat) : Bool := isIntFmt c

/-- R45: the source selects that an opcode takes. -/
def selectsOk (op : Nat) (f : SlotFields) : Bool :=
  let a := f.srcA.toNat
  let b := f.srcB.toNat
  let c := opReadsC op
  a != 7 && b != 7 && (c || (a != 2 && b != 2)) &&
    (if op = 0x03 ∨ op = 0x0C ∨ op = 0x70 ∨ op = 0x71 then a == 0 && b == 1
     else if op = 0x93 then a == 0 && b == 3
     else if op = 0x06 then (decide (3 ≤ b) && decide (b ≤ 6)) || decide (8 ≤ b)
     else if op = 0x72 then b == 3 || decide (8 ≤ b)
     else if op = 0x0F then b == 1 || b == 3
     else opReadsB op || b == 3)

/-- R46: a destination code of a slot of plane `p`. -/
def destOk (p : PlaneSt) (d : Nat) : Bool :=
  if d < 32 then p.reads (d % 16) (d / 16) else (decide (32 ≤ d) && decide (d < 48)) || d == 48 || d == 63

/-- R46: the opcodes that send one result, to dst0 alone. -/
def oneDest (op : Nat) : Bool := op == 0x0A || op == 0x80 || op == 0x82 || op == 0x84 || op == 0x85 || op == 0x86 || op == 0x90 || op == 0x91

/-- R46, R125, R131, R133, R253: the destinations of a slot. -/
def destsOk (p : PlaneSt) (op : Nat) (f : SlotFields) : Bool :=
  let d0 := f.dst0.toNat
  let d1 := f.dst1.toNat
  let toArc := fun d => decide (32 ≤ d) && decide (d < 48) &&
    (fld (Table.getD p.routes (d % 16) 0) 62 2 == 1 || fld (Table.getD p.routes (d % 16) 0) 62 2 == 2)
  destOk p d0 && destOk p d1 && (op != 0x05 || (d0 == 63 && d1 == 63)) && (!oneDest op || d1 == 63) && (op != 0x0E || d0 == 48) &&
    !((op == 0x0F || op == 0x81 || op == 0x83 || op == 0x92) && (toArc d0 || toArc d1))

/-- R48, R127, R128, R145, R151, R154, R157: the tag actions that an opcode allows. -/
def actionOk (op : Nat) (f : SlotFields) : Bool :=
  let t := f.action.toNat
  t < 10 &&
    (if op = 0x05 ∨ op = 0x70 ∨ op = 0x71 ∨ op = 0x74 then t == 0
     else if op = 0x07 ∨ op = 0x72 then t == 2
     else if op = 0x54 ∨ op = 0x55 then decide (t < 6)
     else true)

/-- R122, R149, R159: the opcodes on which G must be 0. -/
def gateRefused (op : Nat) : Bool :=
  op == 0x03 || op == 0x04 || op == 0x07 || op == 0x09 || op == 0x0A || op == 0x0C || op == 0x14 || op == 0x21 || op == 0x33 ||
    (decide (0x63 ≤ op) && decide (op ≤ 0x65)) || (decide (0x70 ≤ op) && decide (op ≤ 0x74))

/-- R44: the bits of MODE, extra and extension that an opcode uses. -/
def sideMask (op : Nat) : Nat × Nat × Nat :=
  if op = 0x0F ∨ op = 0x0B ∨ op = 0x20 ∨ op = 0x38 ∨ op = 0x54 ∨ op = 0x55 then (0, 0, 0x7)
  else if op = 0x08 then (1, 0, 0xFFFF)
  else if op = 0x09 then (0, 7, 0xFFFF)
  else if op = 0x0A ∨ op = 0x0C ∨ op = 0x44 ∨ op = 0x51 then (0, 0xFF, 0)
  else if op = 0x27 then (3, 0, 0)
  else if op = 0x28 ∨ op = 0x29 then (0, 0, 0x7FF)
  else if op = 0x2B ∨ op = 0x47 then (0, 0, 0x3F)
  else if op = 0x40 then (0, 0, 0x1F)
  else if op = 0x41 ∨ op = 0x42 then (0, 0, 0xFF1F)
  else if op = 0x43 then (0, 0, 0x1FF7)
  else if op = 0x45 then (0, 0, 0xF)
  else if 0x60 ≤ op ∧ op ≤ 0x67 then (1, 0, 0xF)
  else if op = 0x70 ∨ op = 0x71 then (1, 1, 0xFF)
  else if op = 0x72 then (1, 1, 0)
  else if op = 0x73 then (0, 3, 0)
  else if op = 0x74 then (0, 0, 0xFFF)
  else if 0x80 ≤ op ∧ op ≤ 0x83 then (0, 0, 0xFFFF)
  else if op = 0x84 then (0, 0x7F, 0xFFFF)
  else if op = 0x85 ∨ op = 0x86 then (0, 0xFF, 0xFFFF)
  else if op = 0x90 then (0, 0xFF, 0)
  else if op = 0x91 ∨ op = 0x92 then (0, 0x80, 0)
  else if op = 0x93 then (0, 0xF, 0x1FFF)
  else (0, 0, 0)

/-- The value uses no bit outside a mask. -/
def within (v mask : Nat) : Bool := v &&& mask == v

/-- R44, R122 to R162, R221, R232 to R237: the side word's unused fields are 0 and its values in range. -/
def sideOk (op : Nat) (f : SlotFields) : Bool :=
  let m := modeOf f
  let x := f.extra.toNat
  let e := f.ext.toNat
  let w := laneWidth ((fmtWidth (fmtOf f)).getD 5)
  let units := if fmtOf f = 0x17 then 16 else 1024 / w
  let mask := sideMask op
  within m mask.1 && within x mask.2.1 && within e mask.2.2 && !(gatedOf f && gateRefused op) &&
    (if op = 0x0F then decide (e ≤ 4)
     else if op = 0x20 then decide (e ≤ 5)
     else if op = 0x38 then decide (e ≤ 6)
     else if op = 0x27 then decide (m ≤ 2)
     else if op = 0x09 then decide (x ≤ 6) && decide (1 ≤ e)
     else if op = 0x28 ∨ op = 0x29 then decide (1 ≤ e / 32) && decide (e / 32 ≤ 32) && decide (e % 32 + e / 32 ≤ w)
     else if op = 0x2B then decide (1 ≤ e) && decide (e ≤ w)
     else if op = 0x44 ∨ op = 0x51 then decide (2 ^ (x + 1) ≤ units)
     else if op = 0x54 ∨ op = 0x55 then decide (1 ≤ e) && decide (e ≤ 5)
     else if op = 0x41 ∨ op = 0x42 then decide (e % 32 < 32 / w)
     else if op = 0x43 then
       let n := bits e 4 4
       decide (e % 8 < n) && decide (2 ≤ n) && decide (n ≤ 8) && decide (n ≤ w) && decide (e / 256 < w)
     else if op = 0x74 then e % 32 == 0
     else if op = 0x84 ∨ op = 0x90 then
       let o := x % 16
       decide (o ≤ (if op = 0x84 then 13 else 14)) && (bits x 4 3 == 0 || o == 9 || o == 10)
     else if op = 0x85 ∨ op = 0x86 then e % 16 == 0
     else if op = 0x93 then decide (x ≤ 9)
     else true)

/-- R50, R169: the REASON of slot `n`, 0 where it passes: opcode, format, selects, destinations, tag action, side word. -/
def slotReason (p : PlaneSt) (n : Nat) : Nat :=
  let op := p.opcode n
  let f := p.fields n
  if op = 0 then (if Table.getD p.slots n 0 = 0 then 0 else 1)
  else if !opcodeOk op f then 1
  else if !formatOk op f then 7
  else if !selectsOk op f then 2
  else if !destsOk p op f then 3
  else if !actionOk op f then 5
  else if !sideOk op f then 6
  else 0

/-! ### Routes and rules that join slots -/

/-- R47: a destination of one of the plane's slots names route entry `q`. -/
def routeNamed (p : PlaneSt) (q : Nat) : Bool :=
  (List.range 16).any fun n => p.opcode n != 0 && ((p.fields n).dst0.toNat == 32 + q || (p.fields n).dst1.toNat == 32 + q)

/-- R47: a route entry of a plane of `cols` x `rows` elements whose records are `at_`. -/
def routeOk (cols rows : Nat) (at_ : Nat → Nat → PlaneSt) (r : Word) : Bool :=
  let x := fld r 57 5
  let y := fld r 52 5
  let slot := fld r 48 4
  let pos := fld r 46 2
  fld r 0 46 == 0 && pos != 3 &&
    (match fld r 62 2 with
     | 0 => decide (x < cols) && decide (y < rows) && (at_ x y).reads slot pos
     | 1 => decide (x < cols) && decide (y ≤ 1) && decide (slot ≤ 7) && pos == 0
     | 2 => x == 0 && y == 0 && slot == 0 && pos == 0
     | _ => decide (x < cols) && decide (y < rows) && (at_ x y).reads slot pos && (at_ x y).opcode slot == 0x71 && pos == 2)

/-- R149: slots `m` and `n` name one accumulator and are not one writer and one reader of it. -/
def accClash (p : PlaneSt) (m n : Nat) : Bool :=
  let isMma := fun k => p.opcode k == 0x70 || p.opcode k == 0x71
  let uses := fun k => isMma k || p.opcode k == 0x72
  uses m && uses n && accOf (p.fields m) == accOf (p.fields n) && isMma m == isMma n

/-- R149: the first slot that names an accumulator again; REASON 10 reports it, the later slot of the two (log entry 126, DESIGN CHOICE). -/
def accReason (p : PlaneSt) : Option Nat := (List.range 16).find? fun n => (List.range n).any fun m => accClash p m n

/-- R235: the bytes of a buffer. -/
def bufSpan (f : SlotFields) : Nat × Nat := (slotBase f, slotBase f + 128 * bufRows f)

/-- R235, R169: a BUFR without its BUFW, then the higher-numbered slot of two buffers that overlap. -/
def bufReason (p : PlaneSt) : Option Nat :=
  (List.range 16).find? (fun n => p.opcode n == 0x86 && (bufwOf p (p.fields n)).isNone) <|>
  (List.range 16).find? fun n => p.opcode n == 0x85 && (List.range n).any fun m =>
    let a := bufSpan (p.fields m)
    let b := bufSpan (p.fields n)
    p.opcode m == 0x85 && a != b && decide (a.1 < b.2) && decide (b.1 < a.2)

/-- R50, R169: the first offence of one element: its REASON and INDEX. -/
def elemReason (cols rows : Nat) (at_ : Nat → Nat → PlaneSt) (r : Nat) (p : PlaneSt) : Option (Nat × Nat) :=
  if !recordReserved r then some (9, 0)
  else if !recordModuli r then some (8, 0)
  else match (List.range 16).find? (fun n => slotReason p n != 0) with
    | some n => some (slotReason p n, n)
    | none =>
      match (List.range 16).find? (fun q => (routeNamed p q || Table.getD p.routes q 0 != 0) &&
          !routeOk cols rows at_ (Table.getD p.routes q 0)) with
      | some q => some (4, q)
      | none =>
        match accReason p with
        | some n => some (10, n)
        | none => (bufReason p).map fun n => (11, n)

/-- R50: the first offence of a plane whose records stand row by row, by row, column and the order within an element: its REASON, column,
row and INDEX. -/
def planeReason (cols rows : Nat) (recs : List Nat) : Option (Nat × Nat × Nat × Nat) :=
  let planes := recs.map planeOfRecord
  let at_ := fun x y => (planes[y * cols + x]?).getD {}
  (List.range (cols * rows)).findSome? fun i =>
    (elemReason cols rows at_ (recs.getD i 0) ((planes[i]?).getD {})).map fun r => (r.1, i % cols, i / cols, r.2)

end Sys2Proof.Machine
end

