-- ==== Sys2Proof/Machine/Arrival.lean ====
section
/-! DEFINITION. A token reaching an element: the input's gate (R82, R96, R97), reap filters (R95), matching under the active plane (R90,
R415), COMB (R100, R130) and the opening of LOOP entries (R132). -/

namespace Sys2Proof.Machine

/-! ### Reaping (R95) -/

/-- R95: a tag that a reap filter destroys: the colour and outer fields of its instance, a field in its range at its level, at any depth
below that level. -/
def reaps (f : ReapSt) (t : Tag) : Bool :=
  tagColour t == tagColour f.key && decide (f.level < tagDepth t) &&
    (List.range f.level).all (fun k => tagField t k == tagField f.key k) &&
    decide ((tagField t f.level + 256 - f.first) % 256 < f.count)

/-- R95, R131: the filter that a reap token sets: its tag names iteration e of the instance, its payload how many fields are destroyed. -/
def filterOf (t : Token) : ReapSt :=
  { key := tagOuter t.tag, first := (tagIx t.tag + 1) % 256, count := t.payload.toNat % 256, level := tagDepth t.tag - 1 }

/-! ### COMB (R130) -/

/-- R130: lane `i` of an entry after taking a token's lane. -/
def combLane (op : Nat) (signed : Bool) (w e x : Nat) : Nat :=
  match op with
  | 0 => (e + x) % 2 ^ w
  | 1 => e &&& x
  | 2 => e ||| x
  | 3 => e ^^^ x
  | 4 => if laneInt signed w x < laneInt signed w e then x else e
  | 5 => if laneInt signed w e < laneInt signed w x then x else e
  | _ => (e + 1) % 2 ^ w

/-- R130: an entry after taking a token that arrived at cycle `now`. An EOS token counts and contributes no lane. -/
def combTake (f : SlotFields) (c : CombSt) (t : Token) (now : Nat) : CombSt :=
  let w := laneWidth c.width
  let v := if t.kind = kEos then 0 else t.valid
  let op := bits f.extra.toNat 0 3
  let lane := fun i =>
    let e := bits c.payload (w * i) w
    if i < v then
      if i < c.valid then combLane op (isSignedFmt (fmtOf f)) w e (t.lane i)
      else if op = 6 then 1 else t.lane i
    else e
  { c with taken := c.taken + 1, valid := max c.valid v, payload := packLanes w lane (max c.valid v),
           allEos := c.allEos && t.kind == kEos, stamp := max c.stamp now }

/-- R100: an entry that a COMB slot opens for a tag. -/
def combOpen (slot width : Nat) (tag : Tag) (now : Nat) : CombSt :=
  { slot := slot, tag := tag, width := width, taken := 0, valid := 0, payload := 0, allEos := true, stamp := now }

namespace State

/-- R100, R130: a COMB slot takes a token, which arrived at cycle `stamp`, into the entry of its tag. -/
def combine (s : State) (e slot : Nat) (f : SlotFields) (t : Token) (stamp : Nat) : State :=
  let open_ := fun (c : CombSt) => c.slot == slot && c.tag == t.tag && decide (c.taken < f.ext.toNat)
  s.modElem e fun x =>
    match List.find? open_ x.combs with
    | some c => { x with combs := x.combs.map fun y => if y = c then combTake f c t stamp else y }
    | none => { x with combs := x.combs ++ [combTake f (combOpen slot t.width t.tag stamp) t stamp] }

/-- R132: a token at A of a loop instance without an entry opens one. -/
def opensLoop (x : ElemSt) (slot pos : Nat) (t : Token) : Bool :=
  decide (x.active.opcode slot = 0x0C ∧ pos = 0 ∧ tagDepth t.tag ≠ 0 ∧ t.kind ≠ kArc) && (loopEntry x slot (tagOuter t.tag)).isNone

/-- R132: the field of the first token to arrive at A of a loop instance: of a token that opens its entry, which arrived at cycle `stamp`, and of those of
the instance that wait in the spill area. -/
def firstField (s : State) (e slot stamp : Nat) (t : Token) : Nat :=
  let tagAt := fun (r : SpillSt) => wd (Memory.read s.mem (s.spillAddr e r.record) 8)
  let first := s.earliestSpill e ((s.elem e).spills.filter fun r =>
    Memory.read s.mem (s.spillAddr e r.record + 12) 2 == slot && tagOuter (tagAt r) == tagOuter t.tag && decide (tagDepth (tagAt r) = tagDepth t.tag) &&
      bits (Memory.read s.mem (s.spillAddr e r.record + 8) 4) 14 3 != kArc)
  match first with
  | some r => if s.spillStamp e r < stamp then tagIx (tagAt r) else tagIx t.tag
  | none => tagIx t.tag

/-- R132: the entry that a token opens: i and x are the field of the first token to arrive at A of its instance. -/
def openLoop (s : State) (e slot pos : Nat) (t : Token) (stamp : Nat) : State :=
  if opensLoop (s.elem e) slot pos t then
    let i := s.firstField e slot stamp t
    s.modElem e fun y => { y with loops := y.loops ++ [{ slot := slot, key := tagOuter t.tag, i := i, x := i }] }
  else s

/-- R90, R130, R132, R415: an accepted token takes its place: in the store by slot, position and tag, or in a COMB entry. One that names an
empty slot or a position its slot does not read is held FAULTED and raises PLANE_INVALID. `stamp` is the cycle in which the token arrived. -/
def accept (s : State) (e slot pos : Nat) (t : Token) (stamp : Nat) (retry : Bool := false) : State :=
  let x := s.elem e
  let st : StoreTok := { slot := slot, pos := pos, token := t, stamp := stamp, retry := retry }
  let held := s.modElem e fun y => { y with store := y.store ++ [st] }
  let fail := fun code => held.faultHalt e slot pos code t.tag (t.payload.setWidth 64) [st]
  let f := x.active.fields slot
  if !x.active.reads slot pos then fail codePLANEINVALID
  else if x.active.opcode slot = 0x09 then
    if t.kind = kArc ∨ some t.width ≠ fmtWidth (fmtOf f) then fail codeTAGDEPTH else s.combine e slot f t stamp
  else held.openLoop e slot pos t stamp

/-- R95: destroys the tokens of an element that a filter names, in its store, its COMB entries and its spill area. -/
def destroy (s : State) (e : Nat) (f : ReapSt) : State :=
  let x := s.elem e
  let spilled := x.spills.filter fun r => reaps f (wd (Memory.read s.mem (s.spillAddr e r.record) 8))
  let cs := (x.store.map fun t => t.token.tag) ++ (x.combs.map (·.tag)) ++ spilled.map fun r => wd (Memory.read s.mem (s.spillAddr e r.record) 8)
  let s1 := s.modElem e fun y =>
    { y with store := y.store.filter fun t => !reaps f t.token.tag, combs := y.combs.filter fun c => !reaps f c.tag,
             spills := y.spills.filter fun r => !spilled.contains r }
  -- R97: a record that is gone no longer reloads next; R132: an instance with no token left waiting closes its entry
  let s2 := s1.modElem e fun y => { y with reloadNext := y.reloadNext.filter fun (r : Nat) => y.spills.any fun z => z.record == r }
  let s3 := x.loops.foldl (fun st l => loopClose st e l.slot l.key) s2
  (s3.noteFull e).settleColours (s.elemPart e) ((cs.filter fun t => reaps f t).map tagColour)

/-- R95: an element takes a reap token: it destroys what the token names and sets a filter. -/
def takeReap (s : State) (e : Nat) (t : Token) : State :=
  let f := filterOf t
  ((s.destroy e f).modElem e fun y => { y with reaps := y.reaps ++ [f] }).settleColour (s.elemPart e) (tagColour t.tag)

/-! ### The input of an element -/

/-- R82: from the fallow report of a SWAP to its exchange the elements of its rectangle accept no arriving token. -/
def inputClosed (s : State) (e : Nat) : Bool :=
  s.threads.any fun k => k.2.run == .waiting && k.2.wait.code == .swap && k.2.wait.id == 1 && inPlane k.2.wait.addr e

/-- The element, slot and position that a token on the network is bound for. -/
def boundElem : Bound → Option (Nat × Nat × Nat)
  | .elem e s p => some (e, s, p)
  | .scale e s p => some (e, s, p)
  | _ => none

/-- R85: an earlier token of the same source to the same element, on the same channel, has still to arrive. -/
def overtakes (s : State) (k : Nat) (f : FlightSt) : Bool :=
  (s.flights.any fun g => (decide (g.2.issued < f.issued) || (g.2.issued == f.issued && decide (g.1 < k))) && g.2.src == f.src &&
    g.2.isLocal == f.isLocal && sameEnd g.2.bound f.bound) ||
    -- a reap token does not wait in the output queue; the tokens that issued before it and still stand there go first
    (f.token.kind == kReap && decide (f.src < numElems) && (s.elem f.src).outq.any fun o => decide (o.issued < f.issued) &&
      (s.outBound f.src o).any fun b => sameEnd b f.bound)

/-- R329: the tenant of an element's plane runs. -/
def elemActive (s : State) (e : Nat) : Bool := s.tenantActive (s.elemPart e) (s.elem e).owner

/-- A token can be handled at an element now: it has arrived, in order, the element's tenant runs and its input is open. -/
def atInput (s : State) (k : Nat) (f : FlightSt) : Bool :=
  match boundElem f.bound with
  | some (e, _, _) => f.at_ ≤ s.cycle && !s.overtakes k f && s.elemActive e && !s.inputClosed e
  | none => false

/-- R96, R132: an element takes a token now, with the LOOP entry that it may open. R91: a token of the network leaves the places that local results
have reserved (log entry 122). -/
def gateTakes (s : State) (e slot pos : Nat) (t : Token) (isLocal : Bool) : Bool :=
  let x := s.elem e
  let more := b2n (opensLoop x slot pos t)
  storeTakes x t.tag more && (isLocal || decide (spillNeed x (more + 1) (s.localTags e) ≤ s.spillsFree e))

/-- R91, R97: the element can evict a token, with records left for the local results that have reserved them. -/
def mayEvict (s : State) (e : Nat) : Bool :=
  let x := s.elem e
  match evictee x with
  | none => false
  | some y =>
    let x1 := match y with
      | .tok u => { x with store := x.store.erase u }
      | .comb c => { x with combs := x.combs.erase c }
    decide (x.spFree ≤ s.cycle) && decide (spillNeed x1 0 (s.localTags e) + 1 ≤ s.spillsFree e)

/-- A token leaves the network; R226: a fence that waits for a token of INJ tests again. -/
def landed (s : State) (k : Nat) (f : FlightSt) : State :=
  let s1 := { s with flights := Table.erase s.flights k }
  if f.thread.isSome then s1.retryWaiters .fence else s1

/-- R196: a FEED's rank is refused at a plot from token `j` on: its later tokens do not leave, and the rider takes the rank again at its
next visit; a rank refused twice is not taken again. -/
def refuseFeed (s : State) (n plot rank j : Nat) : State :=
  let mine := fun (g : FlightSt) => match g.feed with
    | some (m, p, r, _) => m == n && p == plot && r == rank
    | none => false
  let gone := s.flights.filter fun g => mine g.2
  let s1 := gone.foldl (fun st g => st.settleColour (s.boundPart g.2.bound) (tagColour g.2.token.tag))
    { s with flights := s.flights.filter fun g => !mine g.2 }
  match Table.find? s1.riders n with
  | none => s1
  | some r =>
    let r1 := if r.refused.any fun x => x.1 == plot && x.2.1 == rank then { r with twice := (plot, rank) :: r.twice }
      else { r with refused := (plot, rank, j) :: r.refused, again := (plot, rank) :: r.again }
    { s1 with riders := Table.put s1.riders n r1 }

/-- R219: a FEED token for a position that its slot does not read is dropped, and its rank visit is counted. -/
def dropFeed (s : State) (n plot rank : Nat) : State :=
  match Table.find? s.riders n with
  | none => s
  | some r =>
    if r.dropped.contains (plot, rank) then s
    else { s with riders := Table.put s.riders n { r with dropped := (plot, rank) :: r.dropped } }

/-- R198, R219: the element below a FEED's plot carries a plane of the rider's tenant, which runs. -/
def feedOpen (s : State) (e n : Nat) : Bool :=
  s.elemActive e && (Table.find? s.riders n).all fun r => (s.elem e).owner == r.tenant

/-- R196, R198, R219: a FEED token reaches the element below its plot: it is taken, dropped, or refused by back-pressure or by a field that is
halted, closed or not running. -/
def feedArrive (s : State) (k : Nat) (f : FlightSt) (n plot rank j : Nat) : State :=
  match boundElem f.bound with
  | none => s
  | some (e, slot, pos) =>
    let s0 := State.settleColour { s with flights := Table.erase s.flights k } (s.elemPart e) (tagColour f.token.tag)
    let s1 := { s with flights := Table.erase s.flights k }
    let stopped := match s.fieldAt e with
      | some q => s.fieldGated q
      | none => false
    if !s.feedOpen e n || s.inputClosed e || stopped then s0.refuseFeed n plot rank j
    else if !(s.elem e).active.reads slot pos then s0.dropFeed n plot rank
    else if (s.elem e).reaps.any fun r => reaps r f.token.tag then s0
    else if s.gateTakes e slot pos f.token false then s1.accept e slot pos f.token s.cycle
    else s0.refuseFeed n plot rank j

/-- R97, R100: the spilled COMB entry that a token belongs to: it reloads before the token is combined. -/
def spilledComb (s : State) (e slot pos : Nat) (t : Token) : Option Nat :=
  if (s.elem e).active.opcode slot = 0x09 then s.spilledKey e slot pos t.tag else none

/-- R95 to R97: what a token at an element's input does now: `none` where it waits. A reap token needs a free filter. A token that a filter
names is destroyed. A token whose key is spilled, stored or spilled itself, makes that record reload next. A local result goes to the store or the spill
area. A network
token that the gate keeps out makes the element evict one token, once. -/
def arrive (s : State) (k : Nat) (f : FlightSt) : Option State :=
  match boundElem f.bound with
  | none => none
  | some (e, slot, pos) =>
    let x := s.elem e
    let t := f.token
    let s0 := s.landed k f
    if t.kind = kReap then (if x.reaps.length < 8 then some (s0.takeReap e t) else none)
    else if x.reaps.any fun r => reaps r t.tag then some (s0.settleColour (s.elemPart e) (tagColour t.tag))
    else
      match s.spilledComb e slot pos t with
      | some r => if x.reloadNext.contains r then none else some (s.askReload e (some r))
      | none =>
        let again := s.spilledKey e slot pos t.tag
        if s.gateTakes e slot pos t f.isLocal then some ((s0.accept e slot pos t s.cycle).askReload e again)
        else if f.isLocal then
          match s.freeSpill e with
          | some r => some ((s0.spillTok e r (.tok { slot := slot, pos := pos, token := t, stamp := s.cycle })).askReload e again)
          | none => none
        else if !f.evicted && s.mayEvict e then some { (s.evict e) with flights := Table.put s.flights k { f with evicted := true } }
        else none

/-- R172, R330: a token in flight settles: into the store or the spill area; where neither has a place it stays on the network. -/
def settleOne (s : State) (k : Nat) (f : FlightSt) : State :=
  match boundElem f.bound with
  | none => s
  | some (e, slot, pos) =>
    let s0 := s.landed k f
    match f.feed with
    | some (n, p, r, j) => s.feedArrive k f n p r j
    | none =>
    if f.token.kind = kReap then (if (s.elem e).reaps.length < 8 then s0.takeReap e f.token else s)
    else if (s.elem e).reaps.any fun r => reaps r f.token.tag then s0.settleColour (s.elemPart e) (tagColour f.token.tag)
    else if (s.spilledComb e slot pos f.token).isNone && s.gateTakes e slot pos f.token true then s0.accept e slot pos f.token s.cycle
    else match s.freeSpill e with
      | some r => s0.spillTok e r (.tok { slot := slot, pos := pos, token := f.token, stamp := s.cycle })
      | none => s

/-- R172, R330: tokens in flight to the elements of a set settle into their stores, in the order in which they left. -/
def settle (s : State) (inSet : Nat → Bool) : State :=
  (s.flights.filter fun f => match boundElem f.2.bound with
    | some (e, _, _) => inSet e
    | none => false).foldl (fun st f => st.settleOne f.1 f.2) s

end State

/-- R47, R89: a token on a share-unit route is accepted by the share unit below its element, and leaves the count; nothing more is said of it. -/
def State.shareTakes (s : State) (k e : Nat) (f : FlightSt) : Option State :=
  if f.at_ ≤ s.cycle ∧ !s.overtakes k f ∧ s.elemActive e then
    some (State.settleColour { s with flights := Table.erase s.flights k } (s.elemPart e) (tagColour f.token.tag))
  else none

/-- TOKEN_ARRIVAL, R90, R95 to R97, R130, R196, R415: the token that the focus names reaches its element, or the share unit. -/
def execTokenArrival (s : State) : Out :=
  let k := s.focus.index
  match Table.find? s.flights k with
  | none => .refused .notEnabled
  | some f =>
    match f.feed with
    | some (n, p, r, j) => if f.at_ ≤ s.cycle ∧ !s.overtakes k f then .next (s.feedArrive k f n p r j) else .refused .notEnabled
    | none =>
      let r := match f.bound with
        | .share e => s.shareTakes k e f
        | _ => if f.token.kind = kReap ∨ !s.atInput k f then none else s.arrive k f
      match r with
      | some s1 => .next s1
      | none => .refused .notEnabled

/-- REAP_TOKEN, R95: a reap token reaches an element of its bed. -/
def execReapToken (s : State) : Out :=
  match Table.find? s.flights s.focus.index with
  | none => .refused .notEnabled
  | some f =>
    if f.token.kind ≠ kReap ∨ !s.atInput s.focus.index f then .refused .notEnabled
    else match s.arrive s.focus.index f with
      | some s1 => .next s1
      | none => .refused .notEnabled

/-- R97: the spill record that reloads next: the first that a token of its key asked for, else the earliest arrival when occupancy is 47 or below. -/
def State.reloadPick (s : State) (e : Nat) : Option SpillSt :=
  let x := s.elem e
  if x.spFree > s.cycle ∨ !s.elemActive e then none
  else match x.reloadNext with
    | r :: _ => if occupied x < 64 then x.spills.find? (fun y => y.record == r) else none
    | [] => if 47 < occupied x then none else s.earliestSpill e x.spills

/-- R97, R100, R132: a spill record comes back with the stamp of its arrival: a token at a COMB slot is combined, a token at LOOP's A opens its instance's
entry. -/
def State.reloadRecord (s : State) (e : Nat) (r : SpillSt) : State :=
  let w := s.spillWord e r
  let s1 := s.unspill e r
  let t := recordToken w
  let slot := bits w 96 4
  let pos := bits w 104 8
  let stamp := s.spillStamp e r
  let op := (s.elem e).active.opcode slot
  if bits w 113 1 = 1 then
    s1.modElem e fun x => { x with combs := x.combs ++ [{ slot := slot, tag := t.tag, width := t.width, taken := bits w 192 16, valid := t.valid,
                                                           payload := t.payload.toNat, allEos := t.kind == kEos, stamp := stamp }] }
  else if op = 0x09 then s1.accept e slot pos t stamp r.retry
  else
    let st : StoreTok := { slot := slot, pos := pos, token := t, stamp := stamp, faulted := bits w 112 1 == 1, retry := r.retry }
    State.openLoop (s1.modElem e fun x => { x with store := State.insertTok st x.store }) e slot pos t stamp

/-- RELOAD, R97. -/
def execReload (s : State) : Out :=
  let e := s.focus.elem
  match s.reloadPick e with
  | some r => .next (s.reloadRecord e r)
  | none => .refused .notEnabled

/-- R95: no token that a filter names remains in its bed. -/
def State.bedClean (s : State) (e : Nat) (f : ReapSt) : Bool :=
  let bed := (planeElems (s.planeAt e)).filter fun d => (s.elem d).active.bed == (s.elem e).active.bed
  bed.all (fun d =>
    let x := s.elem d
    x.store.all (fun t => !reaps f t.token.tag) && x.combs.all (fun c => !reaps f c.tag) && x.outq.all (fun o => !reaps f o.token.tag) &&
      x.scaleq.all (fun o => !reaps f o.token.tag) && x.mailq.all (fun o => !reaps f o.token.tag) && x.spills.all (fun r => !reaps f (wd (Memory.read s.mem (s.spillAddr d r.record) 8))) &&
      (match x.iter with
        | some i => !reaps f i.tag
        | none => true) &&
      (match x.accrd with
        | some i => !reaps f i.tag
        | none => true) && x.pend.all fun p => !reaps f p.2.tag) &&
  s.flights.all fun g => match State.boundElem g.2.bound with
    | some (d, _, _) => !bed.contains d || !(reaps f g.2.token.tag || (g.2.token.kind == kReap && decide (filterOf g.2.token = f)))
    | none => true

/-- REAP_FILTER_RETIRE, R95: the quiescence tree reports that no token of a filter's key remains in the bed. -/
def execReapFilterRetire (s : State) : Out :=
  let e := s.focus.elem
  match (s.elem e).reaps[s.focus.index]? with
  | some f =>
    if s.bedClean e f then .next (s.modElem e fun x => { x with reaps := x.reaps.eraseIdx s.focus.index }) else .refused .notEnabled
  | none => .refused .notEnabled

end Sys2Proof.Machine
end

