-- ==== Sys2Proof/Machine/Image.lean ====
section
/-! DEFINITION. Records of element state as bytes (R349, R350): what HALTR writes and RESUMER reads. A record is one number, the byte at
offset 0 least significant. -/

namespace Sys2Proof.Machine

/-- The number `v` at byte offset `off`. -/
def atByte (off v : Nat) : Nat := v * 2 ^ (8 * off)

/-- Records of `size` bytes from an offset on. -/
def packRecords (size : Nat) : Nat → List Nat → Nat
  | _, [] => 0
  | off, r :: rs => atByte off r + packRecords size (off + size) rs

/-! ### Matching stores (R350) -/

/-- R350: the records of an element's store at a cycle: tokens, COMB entries and LOOP entries. -/
def storeRecords (x : ElemSt) (now : Nat) : List Nat :=
  (x.store.map fun t => State.Spillable.record now (.tok t)) ++ (x.combs.map fun c => State.Spillable.record now (.comb c)) ++
  (x.loops.map fun l => tokenRecord { tag := l.key, kind := 0, valid := 0, width := 0, payload := 0 } l.slot 0 4 0
    (l.i + l.x * 256 + (x.active.fields l.slot).extra.toNat * 65536))

/-- R350: the fields of a record. -/
def recSlot (r : Nat) : Nat := recBytes r 12 1
def recPos (r : Nat) : Nat := recBytes r 13 1
def recFlags (r : Nat) : Nat := recBytes r 14 1
def recAge (r : Nat) : Nat := recBytes r 16 8
def recExtra (r : Nat) : Nat := recBytes r 24 8

/-- R350, R347, R172: puts a record back into an element by its arrival stamp. A FAULTED operand comes back unmarked if `clear` is set, and
a later fault on it carries RETRY. -/
def loadRecord (x : ElemSt) (now : Nat) (clear : Bool) (r : Nat) : ElemSt :=
  let t := recordToken r
  let stamp := now - recAge r
  let faulted := bits (recFlags r) 0 1 == 1
  if bits (recFlags r) 1 1 = 1 then
    { x with combs := x.combs ++ [{ slot := recSlot r % 16, tag := t.tag, width := t.width, taken := bits (recExtra r) 0 16, valid := t.valid,
                                    payload := t.payload.toNat, allEos := t.kind == kEos, stamp := stamp }] }
  else if bits (recFlags r) 2 1 = 1 then
    { x with loops := x.loops ++ [{ slot := recSlot r % 16, key := t.tag, i := bits (recExtra r) 0 8, x := bits (recExtra r) 8 8 }] }
  else
    { x with store := State.insertTok { slot := recSlot r % 16, pos := recPos r, token := t, stamp := stamp, faulted := faulted && !clear,
                                        retry := faulted && clear } x.store }

/-! ### Queues, filters, pending results (R349, R350) -/

/-- R350: the record of a token in an output queue. -/
def outRecord (o : OutTok) (now : Nat) : Nat := tokenRecord o.token o.slot 3 0 (now - o.readyAt) o.dst

/-- R350: a record as a token in an output queue, ready at once. -/
def outOfRecord (r now : Nat) : OutTok := { dst := bits (recExtra r) 0 6, token := recordToken r, readyAt := now, slot := recSlot r % 16 }

/-- R349: a reap filter of 32 bytes. -/
def reapRecord (f : ReapSt) : Nat := f.key.toNat + atByte 8 f.first + atByte 16 f.count + atByte 24 f.level
def reapOfRecord (r : Nat) : ReapSt :=
  { key := wd (recBytes r 0 8), first := recBytes r 8 8, count := recBytes r 16 8, level := recBytes r 24 8 }

/-- R349: a pending result of 32 bytes. -/
def pendRecord (p : PendSt) : Nat :=
  p.tag.toNat + atByte 8 (match p.value with
    | some v => v.toNat
    | none => 0) + atByte 16 (b2n p.value.isNone + b2n p.value.isSome * 2 + b2n p.isOrd * 4)

/-- R349: the pass state of an accumulator. -/
def passWord (a : AccSt) : Nat := a.next + b2n a.sampled * 2 ^ 8 + a.fpc * 2 ^ 32

/-- R349: an accumulator with the pass state of a word. -/
def AccSt.withPass (a : AccSt) (w : Nat) : AccSt := { a with next := bits w 0 8, sampled := bits w 8 1 == 1, fpc := bits w 32 32 }

/-! ### Element records (R349) -/

/-- R349: a BUFW slot's held state: its tag, with bit 51 (a DEPTH that no tag has) set while the slot holds its buffer (log entry 108). -/
def bufWord (t : Tag) : Nat := (setFld t 51 1 1).toNat

/-- R349: bytes 0x0100 to 0x01FF of an element record. In the first words of the ITER and ACCRD states bit 8 says that there is one; ACCRD's has
its slot in [15:12] and its tag in the next word (log entry 108). The layout of the CTURN buffer states is not given: their bytes are free
values where a buffer holds rows (log entry 6). -/
def progressBytes (x : ElemSt) (free : Nat → Nat) : Nat :=
  passWord (Table.getD x.accs 0 {}) + atByte 0x10 (passWord (Table.getD x.accs 1 {})) +
  (match x.iter with
    | some i => atByte 0x20 (i.slot + 2 ^ 8) + atByte 0x28 i.k + atByte 0x30 i.n + atByte 0x38 i.tag.toNat
    | none => 0) +
  (match x.accrd with
    | some r => atByte 0x40 (r.row + 2 ^ 8 + r.slot * 2 ^ 12) + atByte 0x48 r.tag.toNat
    | none => 0) +
  (if x.cturn.isEmpty then 0 else ((List.range 4).map fun i => atByte (0x50 + 8 * i) (free i)).sum) +
  (x.bufs.map fun b => atByte (0x70 + 8 * b.1) (bufWord b.2)).sum

/-- R349: the record of an element at relative column `cx` and row `cy`. -/
def elemRecord (x : ElemSt) (cx cy now : Nat) (free : Nat → Nat) : Nat :=
  let st := storeRecords x now
  let q := x.outq.map fun o => outRecord o now
  let sq := x.scaleq.map fun o => outRecord o now
  cx + atByte 1 cy + atByte 2 st.length + atByte 3 (q.length + sq.length) + atByte 4 x.reaps.length + atByte 6 x.spills.length +
    atByte 0x100 (progressBytes x free) + packRecords 256 0x200 q + packRecords 256 0x600 sq + packRecords 256 0xA00 st +
    packRecords 32 0x4A00 (x.reaps.map reapRecord) + (x.pend.map fun p => atByte (0x4B00 + 32 * p.1) (pendRecord p.2)).sum

/-- The first `n` records of `size` bytes from an offset on. -/
def someRecords (r off size n : Nat) : List Nat := (List.range n).map fun i => recBytes r (off + size * i) size

/-- R349: the queue records of an element record, up to the count at byte 3: the network's, then the scale channel's. An empty place has
position 0. -/
def queueRecords (r : Nat) : List Nat × List Nat :=
  let n := recBytes r 3 1
  let q := (someRecords r 0x200 256 4).filter fun o => recPos o == 3
  let sq := (someRecords r 0x600 256 4).filter fun o => recPos o == 3
  (q.take n, sq.take (n - q.length))

/-- R221: a result that has arrived for a slot since HALTR took its request out. -/
def lateValue (kept : ElemSt) (slot : Nat) (isOrd : Bool) : Option Word :=
  match Table.find? kept.pend slot with
  | some p => if p.isOrd = isOrd then p.value else none
  | none => none

/-- R349, R154: the ACCRD that a record's two words describe, at its slot of the plane; `fpc` is the FPC it began with. -/
def accrdOfRecord (p : PlaneSt) (fpc now w tag : Nat) : Option AccrdSt :=
  if bits w 8 1 = 1 then some (accrdOf p (p.fields (bits w 12 4)) (bits w 12 4) (wd tag) (bits w 0 8) fpc now) else none

/-- R349, R201: the held BUFW slots of a record. -/
def bufsOfRecord (r : Nat) : Table Tag :=
  (List.range 16).filterMap fun n =>
    let w := wd (recBytes r (0x170 + 8 * n) 8)
    if fld w 51 1 = 1 then some (n, setFld w 51 1 0) else none

/-- R347: the counts of a record, which an abandoned field's are all 0. -/
def recordCounts (r : Nat) : Nat := recBytes r 2 1 + recBytes r 3 1 + recBytes r 4 1 + recBytes r 6 2

/-- R349, R172: an element as its record says; `old` is what HALTR left in it and `kept` what it took out, which keeps what the record has no
place for: the token that an ITER repeats, the FPC of an ACCRD, late results, and how long ago spill records were written. R347: of an abandoned element nothing comes back. -/
def elemOfRecord (old kept : ElemSt) (abandoned : Bool) (width : Tag → Nat) (now r : Nat) : ElemSt :=
  if abandoned then { old with spills := [], cturn := [] } else
  let q := queueRecords r
  let accs := [0, 1].foldl (fun (t : Table AccSt) m =>
    Table.putD t m ((Table.getD t m {}).withPass (recBytes r (0x100 + 0x10 * m) 8)) {}) old.accs
  let iw := recBytes r 0x120 8
  let slot := bits (recBytes r 0x140 8) 12 4
  let acc := Table.getD accs (accOf (old.active.fields slot)) {}
  let fpc := match kept.accrd with
    | some a => a.fpc
    | none => if acc.sampled then acc.fpc else old.active.fpc
  let x : ElemSt :=
    { old with
      accs := accs,
      outq := q.1.map fun o => outOfRecord o now,
      scaleq := q.2.map fun o => outOfRecord o now,
      reaps := (someRecords r 0x4A00 32 (recBytes r 4 1)).map reapOfRecord,
      iter := if bits iw 8 1 = 1 then kept.iter.map fun i =>
        { i with slot := bits iw 0 4, k := recBytes r 0x128 8, n := recBytes r 0x130 8, tag := wd (recBytes r 0x138 8), at_ := now } else none,
      accrd := accrdOfRecord old.active fpc now (recBytes r 0x140 8) (recBytes r 0x148 8),
      bufs := bufsOfRecord r,
      spills := (old.spills.take (recBytes r 6 2)).map fun z =>
        { z with since := now - ((List.find? (fun (k : SpillSt) => k.record == z.record) kept.spills).elim 0 fun k => k.since) },
      pend := (List.range 16).filterMap fun n =>
        let p := recBytes r (0x4B00 + 32 * n) 32
        let tag := wd (recBytes p 0 8)
        if bits p 128 3 = 0 then none
        else some (n, { tag := tag, width := width tag, isOrd := bits p 130 1 == 1,
                        value := if bits p 129 1 = 1 then some (wd (recBytes p 8 8)) else lateValue kept n (bits p 130 1 == 1), at_ := now, issued := now }) }
  (someRecords r 0xA00 256 (recBytes r 2 1)).foldl (fun y t => loadRecord y now true t) x

/-! ### Checks of RESUMER (R172, R349, R350) -/

/-- R84, R350, R172: a token record is valid: a colour of the tenant, a legal depth, the width of its colour, no bits where the layouts give
0, invalid lanes 0. A LOOP entry's record has no token. -/
def tokenRecordOk (owner width : Tag → Option Nat) (tenant r : Nat) : Bool :=
  let t := recordToken r
  let loop := bits (recFlags r) 2 1 == 1
  owner t.tag == some tenant && tagLegal t.tag && recSlot r < 16 && recFlags r < 8 && recBytes r 15 1 == 0 && recBytes r 32 96 == 0 &&
    bits r 81 15 == 0 && (loop || (some t.width == width t.tag && t.kind ≤ 6 && t.valid ≤ lanesOf t.width)) &&
    t.payload.toNat < 2 ^ (laneWidth t.width * t.valid)

/-- R350, R172, R415: a record of a store: its slot reads its position, and only the fields its kind has are not 0. -/
def storeRecordOk (p : PlaneSt) (r : Nat) : Bool :=
  let fl := recFlags r
  p.reads (recSlot r) (recPos r) &&
    (if bits fl 1 1 = 1 then p.opcode (recSlot r) == 0x09 && recExtra r < 2 ^ 16 && bits fl 2 1 == 0
     else if bits fl 2 1 = 1 then p.opcode (recSlot r) == 0x0C && recExtra r < 2 ^ 24
     else recExtra r == 0)

/-- R349, R172: an element record is valid. -/
def elemRecordOk (p : PlaneSt) (owner width : Tag → Option Nat) (tenant cx cy r : Nat) : Bool :=
  let q := queueRecords r
  recBytes r 0 1 == cx && recBytes r 1 1 == cy && recBytes r 2 1 ≤ 64 && recBytes r 3 1 ≤ 8 && recBytes r 4 1 ≤ 8 && recBytes r 5 1 == 0 &&
    recBytes r 8 248 == 0 && bits (recBytes r 0x100 8) 9 23 == 0 && recBytes r 0x108 8 == 0 && bits (recBytes r 0x110 8) 9 23 == 0 &&
    recBytes r 0x118 8 == 0 && recBytes r 0x1F0 16 == 0 && recBytes r 0x4D00 768 == 0 &&
    (someRecords r 0xA00 256 (recBytes r 2 1)).all (fun t => tokenRecordOk owner width tenant t && storeRecordOk p t) &&
    (q.1 ++ q.2).all (fun t => tokenRecordOk owner width tenant t && recPos t == 3 && p.opcode (recSlot t) != 0 && recExtra t < 64) &&
    (List.range 16).all fun n =>
      let d := recBytes r (0x4B00 + 32 * n) 32
      bits d 128 3 == 0 || (owner (wd (recBytes d 0 8)) == some tenant && tagLegal (wd (recBytes d 0 8)) && bits d 131 125 == 0)

end Sys2Proof.Machine
end

