-- ==== Sys2Proof/Machine/Fabric.lean ====
section
/-! DEFINITION. The FABRIC group: INJ, RECV, CTXA, CTXF, SOW, SWAP, FALLOW, HALTR, RESUMER, ECFGW and ECFGR (R163 to R177, R347 to R349), and
the steps that move mail, injected tokens and waiting SWAPs. -/

namespace Sys2Proof.Machine

/-! ### Home planes (R163) -/

namespace State

/-- R163: the tenant as which thread `k` acts on the fabric: 0 in supervisor mode. -/
def fabTenant (s : State) (k : Nat) : Nat := if (s.thread k).mode then 0 else (s.thread k).tenant

/-- The place of the acting thread on its core, as the fabric sees it. -/
def myCorePlace (s : State) : CorePlaceSt := s.corePlace s.myCore s.myPlace

/-- R163: the acting thread's home plane. -/
def homePlane (s : State) : Option Word := s.myCorePlace.home

/-- The field of the acting thread's home plane. -/
def homeField (s : State) : Option Nat := s.homePlane.map fun w => fieldKey w (s.fabTenant s.me)

/-! ### Ranges of translated memory (R168, R172) -/

/-- R168, R172, R26: the check of a translated range of `n` lines of 128 bytes, for thread `k`: PAGE or ACCESS with the address that fails, and an
address below 0x10_0000 is no translated one. -/
def checkRange (s : State) (k : Nat) (va n : Nat) (need : Need) : Option (Nat × Word) :=
  if va < 0x100000 then some (codePAGE, wd va)
  else (List.range n).findSome? fun i => match (s.resolve k (wd (va + 128 * i)) need).2 with
    | .error c => some (c, wd (va + 128 * i))
    | .ok _ => none

/-- A line of a translated range, as the coherent path holds it, and whether it is poisoned. -/
def virtLine (s : State) (k va : Nat) : Nat × Bool :=
  let r := s.resolve k (wd va) .load
  match r.2 with
  | .ok t => ((r.1.readTarget (coreOf k) (s.lineTenant k) t 128).2, r.1.loadPoisoned t 128)
  | .error _ => (0, false)

/-- R361: the first line of a translated range that meets poison: the code with its FLAGS, and the address. -/
def poisonIn (s : State) (k va n : Nat) : Option (Nat × Word) :=
  (List.range n).findSome? fun i =>
    let r := s.resolve k (wd (va + 128 * i)) .load
    match r.2 with
    | .ok t => if r.1.loadPoisoned t 128 then some (r.1.poisonAt t, wd (va + 128 * i)) else none
    | .error _ => none

/-- The number that `n` lines from an address hold. -/
def virtRead (s : State) (k va : Nat) : Nat → Nat
  | 0 => 0
  | n + 1 => (s.virtLine k va).1 + 2 ^ 1024 * virtRead s k (va + 128) n

/-- Stores a number of `n` lines at a translated address, through the coherent path. -/
def virtWrite (s : State) (k va : Nat) : Nat → Nat → State
  | 0, _ => s
  | n + 1, v =>
    let r := s.resolve k (wd va) .store
    let s1 := match r.2 with
      | .ok t => r.1.writeTarget (coreOf k) (s.lineTenant k) t 128 (v % 2 ^ 1024)
      | .error _ => r.1
    virtWrite s1 k (va + 128) n (v / 2 ^ 1024)

end State

/-! ### INJ and RECV (R164, R165) -/

/-- R164: the fault of INJ, with FREC2 and FREC5. -/
def injFault (s : State) (route : Word) (tag : Tag) : Option (Nat × Word × Word) :=
  let plane := some (codePLANEINVALID, (0 : Word), route)
  match s.homePlane with
  | none => plane
  | some w =>
    let e := elemKey (pwDie w) (pwX w + fld route 57 5) (pwY w + fld route 52 5)
    let p := (s.elem e).active
    let slot := fld route 48 4
    let pos := fld route 46 2
    let kind := fld route 62 2
    if kind = 1 ∨ kind = 2 ∨ pwCols w ≤ fld route 57 5 ∨ pwRows w ≤ fld route 52 5 ∨ !p.reads slot pos ∨ pos = 3 ∨
        (kind = 3 ∧ p.opcode slot ≠ 0x71) ∨ fld route 0 44 ≠ 0 then plane
    else if s.colourTenant s.myPart (tagColour tag) ≠ some (s.fabTenant s.me) ∨ !tagLegal tag then some (codeTAGDEPTH, tag, 0)
    else none

/-- R164: the token that INJ forms. -/
def injToken (route : Word) (tag : Tag) (v : Word) (code : Nat) : Token :=
  let kind := if fld route 62 2 = 3 then kScale else kData
  if fld route 44 1 = 1 then eosToken tag code
  else if fld route 45 1 = 1 then mkToken tag kind (64 / laneWidth code) code v.toNat
  else mkToken tag kind 1 code (v.toNat % 2 ^ laneWidth code)

/-- INJ, R164. A full queue holds the thread back until it has a place. -/
def execInj (d a b : Reg) (s : State) : Out :=
  let route := s.gpr d
  let tag := s.gpr a
  let word := wordOf (.inj d a b)
  match injFault s route tag with
  | some (code, f2, f5) =>
    .next (s.trapThread s.me false code 0 (s.headlandRec s.me code f2 word f5) true)
  | none =>
    if 4 ≤ s.myCorePlace.injq.length then
      .next (s.modMe fun t => { t with run := .waiting, wait := { code := .injFull, word := word } })
    else
      let t := injToken route tag (s.gpr b) ((s.colourWidth s.myPart (tagColour tag)).getD 5)
      .next ((s.modCorePlace s.myCore s.myPlace fun x => { x with injq := x.injq ++ [{ route := route, token := t, thread := s.me }] }).advance)

/-- R164: the head of an injection queue can leave now: as many cycles after the token before it as it has flits; a token for a halted field
stays. Without a home plane the queue stands still, and its tokens later go where their routes lead from the next one's origin (log entry 129, DESIGN
CHOICE). -/
def State.injReady (s : State) (c pl : Nat) : Bool :=
  let x := s.corePlace c pl
  match x.injq, x.home with
  | h :: _, some w =>
    let p := s.partOf c
    let tenant := fld (s.place p pl).tcfg 0 8
    let t := if pl = 0 then 0 else tenant
    (match x.injLast with
      | some l => decide (l + flits h.token ≤ s.cycle)
      | none => true) && !s.fieldGated (fieldKey w t) && s.tenantActive p t
  | _, _ => false

/-- INJECTION_RELEASE, R164: the queue's head enters the fabric at the plane's origin. -/
def execInjectionRelease (s : State) : Out :=
  let c := s.focus.core
  let pl := s.focus.place
  let x := s.corePlace c pl
  match x.injq, x.home with
  | h :: rest, some w =>
    if !s.injReady c pl then .refused .notEnabled
    else
      let dx := fld h.route 57 5
      let dy := fld h.route 52 5
      let e := elemKey (pwDie w) (pwX w + dx) (pwY w + dy)
      let b := if fld h.route 62 2 = 3 then Bound.scale e (fld h.route 48 4) (fld h.route 46 2)
        else Bound.elem e (fld h.route 48 4) (fld h.route 46 2)
      let s1 := s.modCorePlace c pl fun y => { y with injq := rest, injLast := some s.cycle }
      .next ((s1.launch { src := 2 ^ 16 + c * 16 + pl, bound := b, token := h.token, at_ := s.cycle + 4 + dx + dy + flits h.token,
                           thread := some h.thread, issued := s.cycle }).retryWaiters .injFull)
  | _, _ => .refused .notEnabled

/-- RECV, R165: the oldest token of the mailbox, or a wait for one. -/
def execRecv (d : Reg) (s : State) : Out :=
  match s.myCorePlace.mailbox with
  | t :: rest =>
    (s.modCorePlace s.myCore s.myPlace fun x => { x with mailbox := rest }).finish d (t.payload.setWidth 64)
  | [] =>
    let dl := if s.cur.waittmo = 0 then none else some (s.cycle + s.cur.waittmo.toNat)
    .next (s.modMe fun t =>
      { t with run := .waiting, wait := { code := .recv, deadline := dl, gd := d, word := wordOf (.recv d), readAt := s.cycle } })

/-- R103: of the threads of a core's place that wait in RECV, the one that issued first. -/
def State.recvWaiter (s : State) (c pl : Nat) : Option Nat :=
  let ws := (List.range 4).filter fun i =>
    let k := c * 4 + i
    let t := s.thread k
    t.run == .waiting && t.wait.code == .recv && s.placeOfThread k == pl
  (ws.foldl (fun (best : Option Nat) i => match best with
    | none => some i
    | some j => if (s.thread (c * 4 + i)).wait.readAt < (s.thread (c * 4 + j)).wait.readAt then some i else some j) none).map fun i => c * 4 + i

/-- R103: the mail token of an element that reaches the mailbox next, with the home core and place. -/
def State.mailFront (s : State) (e : Nat) : Option (OutTok × Nat × Nat) :=
  match (s.elem e).mailq, s.mailHome e with
  | o :: _, some (c, pl) => some (o, c, pl)
  | _, _ => none

/-- R103: a mail token that has reached the mailbox, 4 + x + y + f cycles after it left. -/
def State.mailHead (s : State) (e : Nat) : Option (OutTok × Nat × Nat) :=
  (s.mailFront e).filter fun x =>
    decide (x.1.readyAt + 4 + (elemX e - pwX (s.planeAt e)) + (elemY e - pwY (s.planeAt e)) + flits x.1.token ≤ s.cycle)

/-- R103, R133, R165: the mailbox of place `pl` on core `c` accepts an element's mail token: a waiting RECV takes it; MAIL's acceptance token
leaves. -/
def State.mailTake (s : State) (e : Nat) (o : OutTok) (c pl : Nat) : State :=
  let s1 := s.modElem e fun x => { x with mailq := x.mailq.drop 1 }
  let s2 := match s1.recvWaiter c pl with
    | some k => s1.release k (o.token.payload.setWidth 64)
    | none => s1.modCorePlace c pl fun x => { x with mailbox := x.mailbox ++ [{ o.token with kind := kMail }] }
  let s3 := if (s.elem e).active.opcode o.slot = 0x0E ∧ o.token.kind = kMail then
      s2.send e o.slot ((s.elem e).active.fields o.slot).dst1.toNat (eosToken o.token.tag o.token.width) s.cycle
    else s2
  s3.settleColour (s.elemPart e) (tagColour o.token.tag)

/-- R103: the mail tokens that an element has on their way reach the mailbox, `n` of them at most. -/
def State.takeMail (s : State) (e : Nat) : Nat → State
  | 0 => s
  | n + 1 => match s.mailFront e with
    | some (o, c, pl) => takeMail (s.mailTake e o c pl) e n
    | none => s

/-- R103: the mail tokens of some elements reach the mailbox: the network settles. -/
def State.settleMail (s : State) (es : List Nat) : State := es.foldl (fun st e => st.takeMail e (st.elem e).mailq.length) s

/-- MAILBOX_ACCEPT, R103, R133, R165. -/
def execMailboxAccept (s : State) : Out :=
  let e := s.focus.elem
  match s.mailHead e with
  | none => .refused .notEnabled
  | some (o, c, pl) => .next (s.mailTake e o c pl)

/-! ### CTXA and CTXF (R166, R167) -/

/-- CTXA, R88, R166. -/
def execCtxa (d a : Reg) (s : State) : Out :=
  let w := (s.gpr a).toNat
  let t := s.fabTenant s.me
  let fail := fun (r : Nat) => s.finish d (wd (2 ^ 63 + r))
  if w = 0 ∨ 32 < w then fail 1
  else if s.colourQuotaFull s.myPart t then fail 2
  else match s.freeColour s.myPart with
    | none => fail 3
    | some c => (s.setColour s.myPart c (.context t (widthCode w) false)).finish d (wd (widthCode w * 2 ^ 12 + c))

/-- CTXF, R89, R167. -/
def execCtxf (a : Reg) (s : State) : Out :=
  let c := fld (s.gpr a) 0 12
  match s.colour s.myPart c with
  | .context t w _ =>
    if t = s.fabTenant s.me then .next ((s.setColour s.myPart c (.context t w true)).settleColour s.myPart c).advance
    else s.raiseFabric (wordOf (.ctxf a)) codeTAGDEPTH 0 (s.gpr a)
  | _ => s.raiseFabric (wordOf (.ctxf a)) codeTAGDEPTH 0 (s.gpr a)

/-! ### SOW (R168, R169) -/

/-- R169: the status of a refused plane. -/
def sowStatus (r : Nat × Nat × Nat × Nat) : Word := wd (r.2.2.2 * 2 ^ 26 + r.2.2.1 * 2 ^ 21 + r.2.1 * 2 ^ 16 + r.1 * 2 ^ 8 + codePLANEINVALID)

/-- R168, R26: the trap that the image's location raises, before any status: its code and EVAL. A seed location that is both out of range and no multiple of
512 raises BOUND (log entry 130, DESIGN CHOICE). -/
def sowFault (s : State) (v : Word) (w : Word) : Option (Nat × Word) :=
  if fld v 63 1 = 1 then
    if fld v 28 35 ≠ 0 ∨ seedBytes ≤ fld v 0 28 then some (codeBOUND, v)
    else if fld v 0 28 % 512 ≠ 0 then some (codeMISALIGN, v)
    else none
  else if v.toNat % 512 ≠ 0 then some (codeMISALIGN, v)
  else s.checkRange s.me v.toNat (4 * pwCols w * pwRows w) .load

/-- R168: the records of an image, in order of row and column, and whether one of them could not be read. -/
def sowRecords (s : State) (v : Word) (w : Word) : List Nat × Bool :=
  let es := planeElems w
  if fld v 63 1 = 1 then (es.map fun e => Memory.read s.mem (seedBase e + fld v 0 28) 512, false)
  else
    ((List.range es.length).map fun i => s.virtRead s.me (v.toNat + 512 * i) 4,
     (List.range (4 * es.length)).any fun i => (s.virtLine s.me (v.toNat + 128 * i)).2)

/-- R80, R168: the records loaded into the shadow copies by a tenant's SOW. -/
def loadShadow (s : State) (tenant : Nat) (w : Word) (recs : List Nat) : State :=
  ((planeElems w).zip recs).foldl (fun st er => st.modElem er.1 fun x =>
    { x with shadow := planeOfRecord er.2, shadowOf := some w, shadowBy := tenant, usedBy := x.userOf tenant }) s

/-- R169: thread `x` holds a SOW of a rectangle that overlaps plane `w`, which issued before that of thread `k`; of two of one cycle the lower thread's (log
entry 133). -/
def sowBefore (s : State) (k : Nat) (w : Word) (x : Nat × ThreadSt) : Bool :=
  let mine := (s.thread k).wait
  let at_ := if mine.code = .sow then mine.readAt else s.cycle
  x.1 != k && x.2.wait.code == .sow && planesMeet x.2.wait.addr w &&
    (decide (x.2.wait.readAt < at_) || (x.2.wait.readAt == at_ && mine.code == .sow && decide (x.1 < k)))

/-- R169, R170: the SOW of thread `k` for plane `w` is held: a SWAP of an overlapping rectangle waits, or a held SOW that goes first does. -/
def swapWaits (s : State) (k : Nat) (w : Word) : Bool :=
  s.threads.any fun x => x.2.run == .waiting && ((x.2.wait.code == .swap && planesMeet x.2.wait.addr w) || sowBefore s k w x)

/-- R169: a SOW that was held and issued before that of thread `k` is about to run again: that one goes first. -/
def sowYields (s : State) (k : Nat) (w : Word) : Bool := s.threads.any fun x => x.2.run == .ready && sowBefore s k w x

/-- R169: thread `k`'s SOW is held; it keeps the cycle in which it first issued. -/
def holdSow (s : State) (k : Nat) (w : Word) (run : RunState) (word : Word32) : State :=
  s.modThread k fun t =>
    { t with run := run, wait := { code := .sow, addr := w, readAt := if t.wait.code = .sow then t.wait.readAt else s.cycle, word := word } }

/-- SOW, R80, R168, R169: the plane is checked whole, and loaded or refused. -/
def execSow (d a b : Reg) (s : State) : Out :=
  let v := s.gpr a
  let w := s.gpr b
  let word := wordOf (.sow d a b)
  match sowFault s v w with
  | some f => s.raise word f.1 f.2
  | none =>
    let s0 := s.modMe fun t => { t with wait := {} }
    if !s.planeLegal s.myPart w then s0.finish d (wd codeBOUND)
    else if swapWaits s s.me w then .next (holdSow s s.me w .waiting word)
    else if sowYields s s.me w then .next (holdSow s s.me w .ready word)
    else
      let r := sowRecords s v w
      if r.2 then s0.finish d (wd codePOISON)
      else match planeReason (pwCols w) (pwRows w) r.1 with
        | some x => s0.finish d (sowStatus x)
        | none => (loadShadow s0 (s.fabTenant s.me) w r.1).finish d 0

/-! ### SWAP (R82, R163, R170) -/

/-- R170: the status of SWAP before it waits. -/
def swapStatus (s : State) (w : Word) : Nat :=
  let es := planeElems w
  if !s.planeLegal s.myPart w then 3
  else if es.any fun e => match s.fieldAt e with
    | some k => s.fieldGated k
    | none => false then 4
  else if es.any fun e => match (s.elem e).activeOf with
    | some v => v != w && (planeElems v).any fun x => !inPlane w x
    | none => false then 5
  else if es.all fun e => (s.elem e).shadowOf == some w then 0
  else 1

/-- SWAP, R170: it waits for a fallow report of its rectangle. -/
def execSwap (d a : Reg) (s : State) : Out :=
  let w := s.gpr a
  let st := swapStatus s w
  if st ≠ 0 then s.finish d (wd st)
  else
    let dl := if s.cur.waittmo = 0 then none else some (s.cycle + s.cur.waittmo.toNat)
    .next (s.modMe fun t =>
      { t with run := .waiting, wait := { code := .swap, addr := w, deadline := dl, gd := d, id := 0, word := wordOf (.swap d a) } })

/-- A thread waits in SWAP, before (0) or after (1) the fallow report. -/
def inSwap (t : ThreadSt) (id : Nat) : Bool := t.run == .waiting && t.wait.code == .swap && t.wait.id == id

/-- R118, R80, R82: the modulus entries that a plane carries are written once: they are no part of the copies that trade places later. -/
def loadModuli (x : ElemSt) : ElemSt :=
  { x with modq := x.active.mods.foldl (fun (m : Table Nat) e => Table.putD m e.1 e.2 0) x.modq, active := { x.active with mods := [] } }

/-- R82: the copies of an element trade places. -/
def swapElem (w : Word) (tenant : Nat) (x : ElemSt) : ElemSt :=
  loadModuli { x with active := x.shadow, shadow := x.active, activeOf := some w, shadowOf := x.activeOf, owner := tenant, shadowBy := x.owner,
                      usedBy := some tenant, bufs := [], cturn := [] }

/-- R163: the home planes that a SWAP replaces end. -/
def dropHomes (s : State) (p : Nat) (olds : List (Word × Nat)) : State :=
  olds.foldl (fun st o =>
    let st1 := { st with fields := Table.erase st.fields (fieldKey o.1 o.2) }
    match s.placeOf p o.2 with
    | none => st1
    | some pl => ((List.range numCores).filter fun c => (s.part p).hasCore c).foldl (fun y c =>
        if (y.corePlace c pl).home = some o.1 then y.modCorePlace c pl fun z => { z with home := none } else y) st1) s

/-- R82, R101, R163, R170: the exchange of a SWAP: planes, fields and home planes. -/
def activate (s : State) (k : Nat) (w : Word) : State :=
  let p := s.partOf (coreOf k)
  let t := s.fabTenant k
  let olds := ((planeElems w).filterMap fun e => (s.elem e).activeOf.map fun v => (v, (s.elem e).owner)).dedup
  let s1 := dropHomes s p olds
  let s2 := (planeElems w).foldl (fun st e => st.modElem e (swapElem w t)) s1
  let s3 := s2.setField (fieldKey w t) { word := w, tenant := t, homeCore := coreOf k, homeThread := k, lastIssue := s.cycle }
  s3.modCorePlace (coreOf k) (s.placeOfThread k) fun x => { x with home := some w }

/-- SWAP_ACTIVATE, R82, R170: the exchange, 4 cycles after the report; held SOWs run then (R169). -/
def execSwapActivate (s : State) : Out :=
  let k := s.focus.thread
  let t := s.thread k
  match t.wait.deadline with
  | some dl =>
    if inSwap t 1 && dl ≤ s.cycle then .next (((activate s k t.wait.addr).release k 0).retryWaiters .sow) else .refused .notEnabled
  | none => .refused .notEnabled

/-- SWAP_TIMEOUT, R170. -/
def execSwapTimeout (s : State) : Out :=
  let k := s.focus.thread
  let t := s.thread k
  match t.wait.deadline with
  | some dl => if inSwap t 0 && dl ≤ s.cycle then .next ((s.release k 2).retryWaiters .sow) else .refused .notEnabled
  | none => .refused .notEnabled

/-! ### FALLOW (R102, R171) -/

/-- R101: the elements of a bed of a field. -/
def bedElems (s : State) (w : Word) (b : Nat) : List Nat := (planeElems w).filter fun e => (s.elem e).active.bed == b

/-- R101: an active field with a plane word, whosever it is. -/
def activeField (s : State) (w : Word) : Option Nat :=
  match s.fieldAt (elemKey (pwDie w) (pwX w) (pwY w)) with
  | some k => if (s.field k).word = w ∧ s.planeAt (elemKey (pwDie w) (pwX w) (pwY w)) = w then some k else none
  | none => none

/-- FALLOW, R171. -/
def execFallow (lvl : FallowLevel) (d a : Reg) (s : State) : Out :=
  let v := s.gpr a
  let noField : Word := wd (2 ^ 63)
  match lvl with
  | .bed =>
    let w := setFld v 32 4 0
    let b := fld v 32 4
    match activeField s w with
    | none => s.finish d noField
    | some k =>
      let f := s.field k
      s.finish d (wd (b2n (f.bedsReported.contains b || (bedElems s w b).isEmpty) + 2 * b2n (s.fieldGated k)))
  | .field =>
    match activeField s v with
    | none => s.finish d noField
    | some k => s.finish d (wd (b2n (s.field k).reported + 2 * b2n (s.fieldGated k)))
  | .part =>
    let ks := (s.elems.filterMap fun e => if s.elemPart e.1 = s.myPart then s.fieldAt e.1 else none).dedup
    s.finish d (wd (b2n (s.part s.myPart).reported + 2 * b2n (ks.any fun k => s.fieldGated k)))

/-- R102: the elements of a partition that hold anything. -/
def partFallow (s : State) (p : Nat) : Bool := (s.elems.filter fun e => s.elemPart e.1 == p).all fun e => s.elemFallow e.1

/-- FALLOW_REPORT, R102, R170, R171: the quiescence tree reports a region fallow: to the SWAP of the thread named (flag set), for field
`index`, for its bed `slot` (tag not 0), or for partition `part` (layer 1). It never reports a region in which the condition does not hold. -/
def execFallowReport (s : State) : Out :=
  let fc := s.focus
  if fc.flag then
    let t := s.thread fc.thread
    if inSwap t 0 && (planeElems t.wait.addr).all fun e => s.elemFallow e then
      .next (s.modThread fc.thread fun x => { x with wait := { x.wait with id := 1, deadline := some (s.cycle + 4) } })
    else .refused .notEnabled
  else if fc.layer = 1 then
    if partFallow s fc.part then .next (s.modPart fc.part fun p => { p with reported := true }) else .refused .notEnabled
  else
    match Table.find? s.fields fc.index with
    | none => .refused .notEnabled
    | some f =>
      if activeField s f.word ≠ some fc.index then .refused .notEnabled
      else if fc.tag ≠ 0 then
        if (bedElems s f.word fc.slot).all fun e => s.elemFallow e then
          .next (s.modField fc.index fun x => { x with bedsReported := fc.slot :: x.bedsReported })
        else .refused .notEnabled
      else if (planeElems f.word).all fun e => s.elemFallow e then .next (s.modField fc.index fun x => { x with reported := true })
      else .refused .notEnabled

/-! ### HALTR and RESUMER (R172, R347 to R349) -/

/-- R172, R348: lines of a HALTR image: a header of 4096 bytes and 20,480 bytes an element. -/
def imageLines (w : Word) : Nat := 32 + 160 * pwCols w * pwRows w

/-- R172: the trap or status that ends HALTR or RESUMER before any effect, else the home plane and its field. -/
def haltChecks (s : State) (va : Word) (need : Need) : Except ((Nat × Word) ⊕ Nat) (Word × Nat) :=
  if va.toNat % 4096 ≠ 0 then .error (.inl (codeMISALIGN, va))
  else match s.homePlane with
    | none => .error (.inr 1)
    | some w =>
      match s.checkRange s.me va.toNat (imageLines w) need with
      | some f => .error (.inl f)
      | none => .ok (w, fieldKey w (s.fabTenant s.me))

/-- R348: the header of a HALTR image. -/
def imageHeader (s : State) (w : Word) (f : FieldSt) : Nat :=
  let asid := s.placeAsid s.myCore s.myPart s.myPlace
  let r := match f.fault with
    | some (_, r) => r
    | none => {}
  w.toNat + atByte 8 (f.tenant + asid * 2 ^ 16) + atByte 16 s.when.toNat + atByte 24 (b2n f.fault.isSome) +
    ((List.range 8).map fun i => atByte (32 + 8 * i) (State.frecWord r i).toNat).sum

/-- R172: what HALTR leaves in an element: accumulators, corner-turn buffers and spill records stay. -/
def emptied (x : ElemSt) : ElemSt :=
  { x with store := [], combs := [], loops := [], reaps := [], outq := [], scaleq := [], mailq := [], iter := none, accrd := none, bufs := [],
           pend := [] }

/-- R172, R348, R349: writes the image of a field and empties its elements. -/
def writeImage (s : State) (va : Nat) (w : Word) (f : FieldSt) : State :=
  let es := planeElems w
  let s1 := s.virtWrite s.me va 32 (imageHeader s w f)
  let s2 := (List.range es.length).foldl (fun st i =>
    let e := es.getD i 0
    let r := elemRecord (s.elem e) (i % pwCols w) (i / pwCols w) s.cycle (fun j => (Config.freeWord (s.freeCount + 4 * i + j)).toNat)
    st.virtWrite s.me (va + 4096 + 20480 * i) 160 r) s1
  let s3 := es.foldl (fun st e =>
    let y := { s.elem e with cturn := [], spills := (s.elem e).spills.map fun z => { z with since := s.cycle - z.since } }
    { (st.modElem e emptied) with haltElems := Table.put st.haltElems (e * 16 + s.myPlace) y }) s2
  { s3 with freeCount := s.freeCount + 4 * es.length }

/-- R172, R354: the thread is not READY until the image is written or read: for 384 cycles of settling, where there is any, and at 1024 bytes a
cycle (log entry 106). -/
def imageWait (s : State) (code : WaitCode) (d : Reg) (va : Word) (w : Word) (settles : Bool) (word : Word32) : Out :=
  let n := (if settles then 384 else 0) + imageLines w / 8
  .next (s.modMe fun t => { t with run := .waiting, wait := { code := code, addr := va, deadline := some (s.cycle + n), gd := d, word := word } })

/-- R172, R354: the acting thread waits in an instruction on an image, whose end has come. -/
def imageEnds (s : State) (code : WaitCode) : Bool := s.cur.run == .waiting && s.cur.wait.code == code

/-- HALTR, R172, R347, R354, R368: the field's tokens settle, unless it has settled after a fault, and the image is written; then, when its time is over,
the status. -/
def execHaltr (d a : Reg) (s : State) : Out :=
  let va := s.gpr a
  let word := wordOf (.haltr d a)
  if imageEnds s .haltr then .next (s.release s.me 0)
  else match haltChecks s va .store with
  | .error (.inl f) => s.raise word f.1 f.2
  | .error (.inr st) => s.finish d (wd st)
  | .ok (w, k) =>
    if (s.field k).halted then s.finish d 2
    else
      let settles := (s.field k).fault.isNone || !(s.field k).posted
      let s1 := if settles then ((s.settleMail (planeElems w)).settle fun e => inPlane w e).postFault k else s
      let s2 := writeImage s1 va.toNat w (s1.field k)
      imageWait (s2.modField k fun f => { f with halted := true }) .haltr d va w settles word

/-- R172: the tenant of a tag's colour and its granted width, as RESUMER checks them. -/
def tagOwner (s : State) (p : Nat) (t : Tag) : Option Nat := s.colourTenant p (tagColour t)
def tagWidth (s : State) (p : Nat) (t : Tag) : Option Nat := s.colourWidth p (tagColour t)

/-- R347, R130: tokens that RESUMER put back at a COMB slot are combined afresh. -/
def recombine (s : State) (e : Nat) : State :=
  let x := s.elem e
  let isComb := fun (t : StoreTok) => x.active.opcode t.slot == 0x09
  (x.store.filter isComb).foldl (fun st t => st.accept e t.slot t.pos t.token t.stamp t.retry)
    (s.modElem e fun y => { y with store := y.store.filter fun t => !isComb t })

/-- R172: the image as RESUMER finds it: its header and its element records. -/
def readImage (s : State) (va : Nat) (w : Word) : Nat × List Nat :=
  (s.virtRead s.me va 32, (List.range (pwCols w * pwRows w)).map fun i => s.virtRead s.me (va + 4096 + 20480 * i) 160)

/-- R172, R348, R350: every record of an image is valid. -/
def imageOk (s : State) (w : Word) (tenant : Nat) (img : Nat × List Nat) : Bool :=
  let es := planeElems w
  recBytes img.1 104 3992 == 0 && bits (recBytes img.1 24 8) 2 62 == 0 &&
    (List.range es.length).all fun i =>
      elemRecordOk (s.elem (es.getD i 0)).active (tagOwner s s.myPart) (tagWidth s s.myPart) tenant (i % pwCols w) (i / pwCols w)
        (img.2.getD i 0)

/-- R347: the handler abandons the field: the counts of every record are 0 in an image of elements that held something (log entry 108). -/
def abandoned (s : State) (w : Word) (img : Nat × List Nat) : Bool :=
  (img.2.all fun r => recordCounts r == 0) && (planeElems w).any fun e =>
    let x := Table.getD s.haltElems (e * 16 + s.myPlace) {}
    !(x.store.isEmpty && x.combs.isEmpty && x.loops.isEmpty && x.outq.isEmpty && x.scaleq.isEmpty && x.reaps.isEmpty && x.spills.isEmpty)

/-- R172, R347: every record is restored, the halted mark cleared and the sources ungated. R89, R415: the colours of records that the image no
longer holds are settled. -/
def restoreImage (s : State) (w : Word) (k : Nat) (img : Nat × List Nat) : State :=
  let es := planeElems w
  let drop := abandoned s w img
  let gone := (es.flatMap fun e => State.elemTags (Table.getD s.haltElems (e * 16 + s.myPlace) {}) ++
    (s.elem e).spills.map fun r => wd (Memory.read s.mem (s.spillAddr e r.record) 8)) ++ es.flatMap fun e => State.elemTags (s.elem e)
  let s1 := (List.range es.length).foldl (fun st i =>
    let e := es.getD i 0
    let key := e * 16 + s.myPlace
    let kept := Table.getD s.haltElems key {}
    let st1 := st.modElem e fun x => elemOfRecord x kept drop (fun t => (tagWidth s s.myPart t).getD 5) s.cycle (img.2.getD i 0)
    { st1 with haltElems := Table.erase st1.haltElems key }) s
  let s2 := es.foldl (fun st e => recombine st e) (s1.modField k fun f =>
    { f with halted := false, fault := none, posted := false, lastIssue := s.cycle, reported := false, bedsReported := [] })
  let s3 := (es.foldl (fun st e => st.noteFull e) s2).modPart s.myPart fun p => { p with reported := false }
  s3.settleColours s.myPart (gone.map tagColour).dedup

/-- R172, R347: what RESUMER does once the image has been read: the whole image is checked before anything changes. -/
def resumeImage (s : State) (d : Reg) (va : Word) (w : Word) (k : Nat) : Out :=
  let img := readImage s va.toNat w
  let t := s.fabTenant s.me
  if !(s.field k).halted then s.finish d 1
  else if recBytes img.1 0 8 ≠ w.toNat ∨ recBytes img.1 8 1 ≠ t then s.finish d 2
  else if !imageOk s w t img then s.finish d 3
  else (restoreImage s w k img).finish d 0

/-- R172, R361: RESUMER at its start, and, when the time of reading the image is over, at its end: the checks of its address and image. -/
def resumeField (d a : Reg) (ends : Bool) (s : State) : Out :=
  let va := s.gpr a
  let word := wordOf (.resumer d a)
  match haltChecks s va .load with
  | .error (.inl f) => s.raise word f.1 f.2
  | .error (.inr st) => s.finish d (wd st)
  | .ok (w, k) =>
    match s.poisonIn s.me va.toNat (imageLines w) with
    | some f => s.raise word f.1 f.2
    | none =>
      if ends then resumeImage s d va w k
      else if !(s.field k).halted then s.finish d 1
      else imageWait s .resumer d va w false word

/-- RESUMER, R172, R347, R354. -/
def execResumer (d a : Reg) (s : State) : Out :=
  if imageEnds s .resumer then resumeField d a true (s.modMe fun t => { t with run := .ready, wait := {} }) else resumeField d a false s

/-! ### Element configuration (R173 to R175) -/

/-- R163: an element word names an element of the acting thread's partition. -/
def elemOfWord (s : State) (v : Word) : Option Nat :=
  let e := elemKey (fld v 18 2) (fld v 8 5) (fld v 13 5)
  if s.elemPart e = s.myPart then some e else none

/-- R174: the assigned indices. -/
def ecfgAssigned (i : Nat) : Bool := i ≤ 1 || (0x10 ≤ i && i ≤ 0x2F) || (0x30 ≤ i && i ≤ 0x33) || i == 0x40

/-- R322, R173: the place whose window registers the acting thread reaches. -/
def ecfgPlace (s : State) : Nat := if s.cur.mode then s.cur.tsel.toNat else s.myPlace

/-- R118: MODMU of a modulus: floor(floor(2^124 / q) / 2^60). -/
def modMu (q : Nat) : Nat := if q = 0 then 0 else 2 ^ 124 / q / 2 ^ 60

/-- R175: MATCHQ. -/
def matchq (s : State) (e : Nat) : Word :=
  let x := s.elem e
  wd (State.occupied x + b2n (decide (56 ≤ State.occupied x)) * 2 ^ 7 + x.spills.length * 2 ^ 8 + x.reaps.length * 2 ^ 24 + b2n (s.spillFull e) * 2 ^ 28)

/-- R173, R174, R200: the register of an element that ECFGR returns. -/
def ecfgRead (s : State) (e i : Nat) : Word :=
  let x := s.elem e
  let pl := ecfgPlace s
  let w := Table.getD s.windows (e * 16 + pl) {}
  if i = 0 then wd x.active.fpc
  else if i = 1 then wd (x.fpfAt s.cycle)
  else if i < 0x20 then wd (Table.getD x.modq (i - 0x10) 0)
  else if i < 0x30 then wd (modMu (Table.getD x.modq (i - 0x20) 0))
  else if i = 0x30 then wd (if pl = 0 then 0 else w.scrbase)
  else if i = 0x31 then wd (if pl = 0 then scratchBytes else w.scrlim)
  else if i = 0x32 then wd w.spillbase
  else if i = 0x33 then wd w.spilllim
  else matchq s e

/-- ECFGR, R173. -/
def execEcfgr (d a : Reg) (s : State) : Out :=
  let v := s.gpr a
  let i := fld v 0 8
  match elemOfWord s v with
  | none => s.finish d (wd (2 ^ 64 - 1))
  | some e => if fld v 20 44 ≠ 0 ∨ !ecfgAssigned i then s.finish d (wd (2 ^ 64 - 1)) else s.finish d (ecfgRead s e i)

/-- R325: a window with one bound rewritten. -/
def WindowSt.withBound (w : WindowSt) (i v : Nat) : WindowSt :=
  match i with
  | 0x30 => { w with scrbase := v }
  | 0x31 => { w with scrlim := v }
  | 0x32 => { w with spillbase := v }
  | _ => { w with spilllim := v }

/-- R173, R325: status 6 of a window write. -/
def windowRefused (s : State) (e pl i v : Nat) : Bool :=
  let w := (Table.getD s.windows (e * 16 + pl) {}).withBound i v
  let meets := fun (a b c d : Nat) => decide (a < b) && decide (c < d) && decide (a < d) && decide (c < b)
  v % 4096 != 0 || (List.range 16).any fun n =>
    let o := Table.getD s.windows (e * 16 + n) {}
    n != pl && (meets w.scrbase w.scrlim o.scrbase o.scrlim || meets w.scrbase w.scrlim o.spillbase o.spilllim ||
      meets w.spillbase w.spilllim o.scrbase o.scrlim || meets w.spillbase w.spilllim o.spillbase o.spilllim)

/-- R173: the status of ECFGW. For an element outside the partition it is 2, whatever the index, unless a bit above bit 19 is set (log entry 131, DESIGN
CHOICE). -/
def ecfgStatus (s : State) (v x : Word) : Nat :=
  let i := fld v 0 8
  let q := decide (0x10 ≤ i) && decide (i < 0x20)
  let win := decide (0x30 ≤ i) && decide (i ≤ 0x33)
  match elemOfWord s v with
  | none => if fld v 20 44 ≠ 0 then 1 else 2
  | some e =>
    if fld v 20 44 ≠ 0 ∨ !ecfgAssigned i then 1
    else if q && (x == 1 || fld x 62 2 != 0) then 3
    else if (0x20 ≤ i ∧ i < 0x30) ∨ i = 0x40 then 4
    else if win && !s.cur.mode then 5
    else if (i = 0x30 ∨ i = 0x31) ∧ ecfgPlace s = 0 then 4
    else if win && windowRefused s e (ecfgPlace s) i x.toNat then 6
    else 0

/-- ECFGW, R173, R174. -/
def execEcfgw (d a b : Reg) (s : State) : Out :=
  let v := s.gpr a
  let x := s.gpr b
  let i := fld v 0 8
  let st := ecfgStatus s v x
  if st ≠ 0 then s.finish d (wd st)
  else
    let e := (elemOfWord s v).getD 0
    let used := fun (f : ElemSt → ElemSt) => s.modElem e fun y => { f y with usedBy := y.userOf (s.fabTenant s.me) }
    let s1 := if i = 0 then used fun y => { y with active := { y.active with fpc := fld x 0 4 } }
      else if i = 1 then used fun y => y.writeFpf s.cycle fun _ => fld x 0 6
      else if i < 0x20 then used fun y => { y with modq := Table.putD y.modq (i - 0x10) x.toNat 0 }
      else
        let k := e * 16 + ecfgPlace s
        { s with windows := Table.put s.windows k ((Table.getD s.windows k {}).withBound i x.toNat) }
    s1.finish d 0

/-! ### MATCH_EXHAUSTED (R98) -/

/-- R98: a field has issued nothing for 65,536 cycles while an element of it had a full spill area. -/
def State.exhausted (s : State) (k : Nat) : Bool :=
  let f := s.field k
  !s.fieldGated k && match f.fullSince with
    | some c => decide (max c f.lastIssue + 65536 ≤ s.cycle)
    | none => false

/-- MATCH_EXHAUSTED, R98: at the element with a full spill area that is lowest in row, then column; POS 3. No slot fires, so the record has SLOT 0
with the words of slot 0, and 0 as tag and operand (log entry 109). -/
def execMatchExhausted (s : State) : Out :=
  let k := s.focus.index
  if !s.exhausted k then .refused .notEnabled
  else match (planeElems (s.field k).word).find? fun e => s.spillFull e with
    | none => .refused .notEnabled
    | some e => .next (s.faultHalt e 0 3 codeMATCHEXHAUSTED 0 0 [])

end Sys2Proof.Machine
end

