-- ==== Sys2Proof/Machine/Plot.lean ====
section
/-! DEFINITION. Plots (R185, R189), twin rows (R277 to R279), precedence of riders (R192), poison of rows (R358), norms and digests (R120,
R281, R283). -/

namespace Sys2Proof.Machine

/-! ### Cards and regions (R190, R212) -/

/-- R212: a word and the fields of a card. -/
def cw (c : List Word) (i : Nat) : Word := c.getD i 0
def cardKind (c : List Word) : Nat := fld (cw c 0) 0 4
def cardOp (c : List Word) : Nat := fld (cw c 0) 4 6
def cardFmt (c : List Word) : Nat := fld (cw c 0) 10 5
def cardRm (c : List Word) : Rounding := roundingOf (fld (cw c 0) 15 2)
def cardLayers (c : List Word) : Nat := fld (cw c 0) 17 8
def cardNorm (c : List Word) : Nat := fld (cw c 0) 25 4
def cardNormen (c : List Word) : Bool := fld (cw c 0) 29 1 == 1
def cardTwin (c : List Word) : Bool := fld (cw c 0) 30 1 == 1
def cardDig (c : List Word) : Bool := fld (cw c 0) 31 1 == 1
def cardDkind (c : List Word) : Nat := fld (cw c 0) 32 2
def cardCkind (c : List Word) : Nat := fld (cw c 0) 34 2
def cardDies (c : List Word) : Nat := fld (cw c 0) 36 4
def cardX (c : List Word) : Nat := fld (cw c 0) 40 5
def cardY (c : List Word) : Nat := fld (cw c 0) 45 5
def cardCols (c : List Word) : Nat := fld (cw c 0) 50 5 + 1
def cardRows (c : List Word) : Nat := fld (cw c 0) 55 5 + 1
def cardRank0 (c : List Word) : Nat := fld (cw c 1) 0 12
def cardNrank (c : List Word) : Nat := fld (cw c 1) 12 13
def cardByte0 (c : List Word) : Nat := fld (cw c 1) 25 11
def cardByte1 (c : List Word) : Nat := fld (cw c 1) 36 11
def cardImm0 (c : List Word) : Nat := (cw c 2).toNat
def cardImm1 (c : List Word) : Nat := (cw c 3).toNat
def cardSoff (c : List Word) : Nat := fld (cw c 4) 0 19
def cardSstride (c : List Word) : Nat := fld (cw c 4) 19 19
def cardDstride (c : List Word) : Nat := fld (cw c 4) 38 19
def cardDest (c : List Word) : Word := cw c 5
def cardDoff (c : List Word) : Nat := fld (cw c 5) 0 19
def cardCword (c : List Word) : Word := cw c 6

/-- R212: the layers that a card names, in ascending order; their number L, and the window's bytes B. -/
def layersOf (c : List Word) : List Nat := (List.range 8).filter fun l => (cardLayers c).testBit l
def cardL (c : List Word) : Nat := (layersOf c).length
def cardB (c : List Word) : Nat := cardByte1 c + 1 - cardByte0 c

/-- R302: the plots of a card's rectangle, by die, row and column: an element's number is its plot's. -/
def plotsOf (c : List Word) : List Nat :=
  ((List.range 4).filter fun d => (cardDies c).testBit d).flatMap fun d =>
    (List.range (cardRows c)).flatMap fun y => (List.range (cardCols c)).map fun x => elemKey d (cardX c + x) (cardY c + y)

/-- R212: a plot lies in a card's rectangle. -/
def plotIn (c : List Word) (p : Nat) : Bool :=
  (cardDies c).testBit (elemDie p) && cardX c ≤ elemX p && elemX p < cardX c + cardCols c && cardY c ≤ elemY p &&
    elemY p < cardY c + cardRows c

/-! ### Precedence (R192) -/

/-- R192: the precedence key of rider `n`: boarding step, then die, strip, source, for BOARDS row, column and slot, then issue order. -/
def precKey (n : Nat) (r : RiderSt) : List Nat :=
  [r.s0, r.core, r.source] ++ (if r.source = 4 then [elemY r.elem, elemX r.elem, r.slot] else []) ++ [n]

/-- The order of keys. -/
def keyLt : List Nat → List Nat → Bool
  | [], [] => false
  | [], _ :: _ => true
  | _ :: _, [] => false
  | a :: as, b :: bs => decide (a < b) || (a == b && keyLt as bs)

/-- Riders in the order of a key. -/
def insertByKey (key : Nat × RiderSt → List Nat) (x : Nat × RiderSt) : List (Nat × RiderSt) → List (Nat × RiderSt)
  | [] => [x]
  | y :: ys => if keyLt (key x) (key y) then x :: y :: ys else y :: insertByKey key x ys

def sortByKey (key : Nat × RiderSt → List Nat) (l : List (Nat × RiderSt)) : List (Nat × RiderSt) :=
  l.foldl (fun acc x => insertByKey key x acc) []

/-- R192: riders in precedence order. -/
def byKey (l : List (Nat × RiderSt)) : List (Nat × RiderSt) := sortByKey (fun x => precKey x.1 x.2) l

/-! ### Rows and twin state -/

def rowKey (plot phys rank : Nat) : Nat := (8 * plot + phys) * 4096 + rank
def rowPlot (k : Nat) : Nat := k / 4096 / 8
def rowLayer (k : Nat) : Nat := k / 4096 % 8
def rowRank (k : Nat) : Nat := k % 4096
def layerKey (die phys : Nat) : Nat := 8 * die + phys
def twinKey (plot pair rank : Nat) : Nat := (4 * plot + pair) * 4096 + rank

/-- R185: where a row stands in the table of bytes. -/
def rowAddr (plot phys rank : Nat) : Nat := plotBase plot + phys * 2 ^ 23 + rank * 2048

namespace State

/-- R191: steps since reset. -/
def stepNo (s : State) : Nat := s.passNo * 4096 + s.cursor

def twin (s : State) (plot pair rank : Nat) : TwinSt := Table.getD s.twins (twinKey plot pair rank) {}
def setTwin (s : State) (plot pair rank : Nat) (t : TwinSt) : State :=
  { s with twins := Table.putD s.twins (twinKey plot pair rank) t {} }

/-- R277, R279: the physical layer of a logical one on a rank, for a rider with precedence key `key`: one that boarded before the last flip
keeps the old mapping. -/
def physLayer (s : State) (key : List Nat) (plot layer rank : Nat) : Nat :=
  let t := s.twin plot (layer / 2) rank
  let sel := if t.flip ≠ [] && keyLt key t.flip then !t.sel else t.sel
  if sel then layer / 2 * 2 + (1 - layer % 2) else layer

/-- R277: the logical layer that a physical one is now. -/
def logicalLayer (s : State) (plot phys rank : Nat) : Nat :=
  if (s.twin plot (phys / 2) rank).sel then phys / 2 * 2 + (1 - phys % 2) else phys

def layer (s : State) (die phys : Nat) : LayerSt := Table.getD s.layers (layerKey die phys) {}
def modLayer (s : State) (die phys : Nat) (f : LayerSt → LayerSt) : State :=
  { s with layers := Table.putD s.layers (layerKey die phys) (f (s.layer die phys)) {} }
def plot (s : State) (p : Nat) : PlotSt := Table.getD s.plots p {}
def setPlot (s : State) (p : Nat) (x : PlotSt) : State := { s with plots := Table.putD s.plots p x {} }

/-- R364: the layer is powered off. -/
def rowLost (s : State) (plot phys : Nat) : Bool := (s.layer (elemDie plot) phys).mode == .off

/-- R358, R364: a row is poisoned or lost. -/
def rowBad (s : State) (plot phys rank : Nat) : Bool := s.rowLost plot phys || s.rowPoison.contains (rowKey plot phys rank)

/-- R213, R305, R358: the STATUS bits that touching a row gives. -/
def rowStatus (s : State) (plot phys rank : Nat) : Nat :=
  (if s.rowBad plot phys rank then 2 ^ 8 else 0) + if s.rowLost plot phys then 2 ^ 10 else 0

/-- `n` bytes of a row from byte `b` on. -/
def readRow (s : State) (plot phys rank b n : Nat) : Nat := Memory.read s.mem (rowAddr plot phys rank + b) n

/-- R256, R274: the row buffers after a row is accepted in step `now`: a plot has four, and the row accepted first goes to the array where a fifth
comes. -/
def acceptRow (l : Table Nat) (k now : Nat) : Table Nat :=
  let mine := List.filter (fun x : Nat × Nat => rowPlot x.1 == rowPlot k && x.1 != k) l
  let old := mine.foldl (fun (m : Nat × Nat) x => if x.2 < m.2 then x else m) (mine.headD (k, now))
  Table.put (if 4 ≤ mine.length then Table.erase l old.1 else l) k now

/-- R256: writes bytes of a row: the row is accepted into a row buffer. -/
def writeRow (s : State) (plot phys rank b n v : Nat) : State :=
  { s with mem := Memory.write s.mem (rowAddr plot phys rank + b) n v,
           rowBufs := acceptRow s.rowBufs (rowKey plot phys rank) s.stepNo,
           parkedRows := s.parkedRows.filter fun x => x != rowKey plot phys rank }

/-! ### Tenant ranks (R189) -/

/-- R189: how many ranks below `c` a tenant owns. The supervisor holds every rank. -/
def ownedBelow (s : State) (p t c : Nat) : Nat :=
  if t = 0 then c
  else if (s.part p).on then
    (((validEntries (s.part p).active).filter fun e => rotOwner e.2 == t).map fun e => min (rotEnd e.2 + 1) c - rotStart e.2).sum
  else if (s.part p).soleNow.toNat = t then c else 0

/-- R189: a tenant owns rank `c`. -/
def ownsRank (s : State) (p t c : Nat) : Bool := decide (s.ownedBelow p t c < s.ownedBelow p t (c + 1))

/-- R190: the index of rank `c` in the rank range of a card of tenant `t`. -/
def rankIndex (s : State) (p t : Nat) (c : List Word) (rank : Nat) : Option Nat :=
  let i := s.ownedBelow p t rank
  if s.ownsRank p t rank && decide (cardRank0 c ≤ i) && decide (i < cardRank0 c + cardNrank c) then some (i - cardRank0 c) else none

/-- R190: a rider acts on a rank of a plot. -/
def covers (s : State) (r : RiderSt) (plot rank : Nat) : Bool :=
  plotIn r.card plot && (s.rankIndex r.part r.tenant r.card rank).isSome

/-- R279: the regions of two requests share a plot and a rank. -/
def regionsMeet (s : State) (p t : Nat) (c : List Word) (q u : Nat) (d : List Word) : Bool :=
  ((plotsOf c).any fun x => plotIn d x) &&
    (List.range 4096).any fun k => (s.rankIndex p t c k).isSome && (s.rankIndex q u d k).isSome

/-! ### Windows of a place (R200) -/

/-- R200: the scratchpad window of a place in an element: its first byte in the table of bytes, and its size. -/
def placeWin (s : State) (e place : Nat) : Nat × Nat :=
  if place = 0 then (scratchBase e, scratchBytes)
  else
    let w := Table.getD s.windows (e * 16 + place) {}
    (scratchBase e + w.scrbase, min w.scrlim scratchBytes - w.scrbase)

end State

/-! ### Elements of a format -/

/-- R105: the width in bits of an element in memory. -/
def elemBits (fmt : Nat) : Nat := if fmt = 0x17 then 64 else laneWidth ((fmtWidth fmt).getD 3)

/-- The elements of a number of `n` elements of `w` bits. -/
def lanesOfNum (w n v : Nat) : List Nat := (List.range n).map fun i => bits v (w * i) w

/-- The number that a list of elements of `w` bits makes. -/
def numOfLanes (w : Nat) : List Nat → Nat
  | [] => 0
  | x :: xs => x % 2 ^ w + 2 ^ w * numOfLanes w xs

/-! ### Norms and digests -/

/-- R120: what an element adds to a norm register; `none` for a NaN or an infinity. -/
def normTerm (fmt code : Nat) : Option Nat :=
  let v := if fmt = 0x17 then FVal.fin false code 0 else valueOf fmt false code
  match v with
  | .fin _ m e =>
    let x : Int := 2 * e + 64
    some (if 0 ≤ x then m * m * 2 ^ x.toNat else m * m / 2 ^ (-x).toNat)
  | _ => none

/-- R281: a rider's norm partial after storing elements. -/
def addNorm (fmt : Nat) (r : RiderSt) (l : List Nat) : RiderSt :=
  l.foldl (fun r x => match normTerm fmt x with
    | some t => { r with normPart := r.normPart + t }
    | none => { r with normInf := true }) r

/-- R283: the key of a block. -/
def digestKey (c : List Word) (plot i layer j : Nat) : Nat :=
  let dr := ((List.range (elemDie plot)).filter fun d => (cardDies c).testBit d).length
  i * 2 ^ 20 + layer * 2 ^ 17 + (elemX plot - cardX c) * 2 ^ 12 + (elemY plot - cardY c) * 2 ^ 7 + j * 4 + dr

/-- R283: the value of a 64-byte block under its key. -/
def blockValue (k block : Nat) : Nat :=
  ((List.range 8).map fun m => (bits block (64 * m) 64 + 8 * k + m) % 2 ^ 64 * (0x9E3779B97F4A7C15 + 2 * m)).sum % 2 ^ 128

/-- R283: the digest of a row's window, whose bytes are `data`. -/
def rowDigest (c : List Word) (plot i layer data : Nat) : Nat :=
  let b0 := cardByte0 c
  let row := data * 2 ^ (8 * b0)
  ((List.range' (b0 / 64) (cardByte1 c / 64 + 1 - b0 / 64)).map fun j => blockValue (digestKey c plot i layer j) (bits row (512 * j) 512)).sum %
    2 ^ 128

end Sys2Proof.Machine
end

