-- ==== Sys2Proof/Machine/RiderMath.lean ====
section
/-! DEFINITION. The arithmetic of updating riders on one element (R298, R299, R301) and the clip factor (R282). -/

namespace Sys2Proof.Machine

/-- R298: how many layers an operation gives roles to; 0 for a layerwise one. -/
def rolesOf (op : Nat) : Nat := if op = 5 then 2 else if op = 6 ∨ op = 8 then 3 else if op = 7 then 1 else 0

/-- R298, R301, R302, R304: the layers that a rider writes. -/
def writtenLayers (kind : Nat) (c : List Word) : List Nat :=
  if kind = 4 then (if rolesOf (cardOp c) = 0 then layersOf c else (layersOf c).take (rolesOf (cardOp c)))
  else if kind = 5 ∨ kind = 6 then layersOf c
  else []

/-- R298: the stage count of an UPDATE operation. -/
def stagesOf (op : Nat) : Nat :=
  match op with
  | 4 => 2
  | 5 => 4
  | 6 => 10
  | 7 => 3
  | 8 => 10
  | 9 => 2
  | 10 => 3
  | _ => 1

/-- R298: a layerwise operation that reads g; a clipped operation. -/
def readsG (op : Nat) : Bool := op == 3 || op == 4 || op == 9 || op == 10
def clipped (op : Nat) : Bool := op == 7 || op == 8

/-- R298: the value of a card's f32 or bf16 parameter. -/
def paramF32 (v : Nat) : FVal := fmtF32.decode (v % 2 ^ 32)
def paramBf16 (v : Nat) : FVal := fmtBf16.decode (v % 2 ^ 16)

/-- R298: a layerwise operation on an integer element of `w` bits. -/
def layerInt (op w k x g : Nat) : Nat :=
  match op with
  | 0 => k % 2 ^ w
  | 1 => (x + k) % 2 ^ w
  | 2 => (x * k) % 2 ^ w
  | _ => (x + g) % 2 ^ w

/-- R298, R299: a layerwise operation on a floating-point element. -/
def layerFloat (ff : FloatFmt) (rm : Rounding) (op imm0 x g : Nat) : FRes :=
  let k := imm0 % 2 ^ ff.width
  match op with
  | 0 => { bits := k, flags := 0 }
  | 1 => fAddV ff rm false (ff.decode x) (ff.decode k)
  | 2 => fMulV ff rm false (ff.decode x) (ff.decode k)
  | 3 => fAddV ff rm false (ff.decode x) (ff.decode g)
  | _ =>
    let y := fMulV ff rm false (paramF32 imm0) (ff.decode g)
    let z := fAddV ff rm false (ff.decode x) (ff.decode y.bits)
    { z with flags := z.flags ||| y.flags }

/-- R298: a layerwise operation of a card on an element x with its operand g. -/
def layerOp (c : List Word) (x g : Nat) : FRes :=
  let op := cardOp c
  let q := cardImm1 c
  if op = 9 then { bits := (x + g) % q, flags := 0 }
  else if op = 10 then { bits := x * g % q, flags := 0 }
  else match floatFmt (cardFmt c) with
    | some ff => layerFloat ff (cardRm c) op (cardImm0 c) x g
    | none => { bits := layerInt op (elemBits (cardFmt c)) (cardImm0 c) x g, flags := 0 }

/-- 1 - beta, exact (R299). -/
def oneMinus (b : FVal) : FVal := (addExact (.fin false 1 0, 0) (b.neg, 0)).1

/-- R299: SGDM on one element: the new w and m. -/
def sgdm (ff : FloatFmt) (rm : Rounding) (imm0 w m g : Nat) : List Nat × Nat :=
  let a := fMulV ff rm false (paramF32 (imm0 / 2 ^ 32)) (ff.decode m)
  let m' := fAddV ff rm false (ff.decode a.bits) (ff.decode g)
  let b := fMulV ff rm false (paramF32 imm0) (ff.decode m'.bits)
  let w' := fAddV ff rm false (ff.decode w) (ff.decode b.bits).neg
  ([w'.bits, m'.bits], a.flags ||| m'.flags ||| b.flags ||| w'.flags)

/-- R299: the first rounding of a clipped operation: c x g. -/
def clipG (ff : FloatFmt) (rm : Rounding) (clip g : Nat) : FRes := fMulV ff rm false (paramF32 clip) (ff.decode g)

/-- R299: SGDC on one element: the new w. -/
def sgdc (ff : FloatFmt) (rm : Rounding) (imm0 clip w g : Nat) : List Nat × Nat :=
  let cg := clipG ff rm clip g
  let b := fMulV ff rm false (paramF32 imm0) (ff.decode cg.bits)
  let w' := fAddV ff rm false (ff.decode w) (ff.decode b.bits).neg
  ([w'.bits], cg.flags ||| b.flags ||| w'.flags)

/-- R299: b x y + (1 - b) x z, each product and the sum rounded: the moments of ADAM. -/
def moment (ff : FloatFmt) (rm : Rounding) (b : FVal) (y z : Nat) : FRes :=
  let p := fMulV ff rm false b (ff.decode y)
  let q := fMulV ff rm false (oneMinus b) (ff.decode z)
  let r := fAddV ff rm false (ff.decode p.bits) (ff.decode q.bits)
  { r with flags := r.flags ||| p.flags ||| q.flags }

/-- R299: ADAM on one element: the new w, m and v. -/
def adam (ff : FloatFmt) (rm : Rounding) (imm0 imm1 w m v g : Nat) : List Nat × Nat :=
  let m' := moment ff rm (paramF32 (imm0 / 2 ^ 32)) m g
  let gg := fMulV ff rm false (ff.decode g) (ff.decode g)
  let v' := moment ff rm (paramF32 imm1) v gg.bits
  let sq := fSqrtV ff rm false (ff.decode v'.bits)
  let d := fAddV ff rm false (ff.decode sq.bits) (paramBf16 (imm1 / 2 ^ 32))
  let qt := fDivV ff rm false (ff.decode m'.bits) (ff.decode d.bits)
  let st := fMulV ff rm false (paramF32 imm0) (ff.decode qt.bits)
  let w' := fAddV ff rm false (ff.decode w) (ff.decode st.bits).neg
  ([w'.bits, m'.bits, v'.bits],
    m'.flags ||| gg.flags ||| v'.flags ||| sq.flags ||| d.flags ||| qt.flags ||| st.flags ||| w'.flags)

/-- R298, R299: an operation with roles on one element: the role layers' elements and g give the new elements and flags. -/
def roleOp (ff : FloatFmt) (c : List Word) (clip : Nat) (xs : List Nat) (g : Nat) : List Nat × Nat :=
  let rm := cardRm c
  let x := fun i => xs.getD i 0
  match cardOp c with
  | 5 => sgdm ff rm (cardImm0 c) (x 0) (x 1) g
  | 6 => adam ff rm (cardImm0 c) (cardImm1 c) (x 0) (x 1) (x 2) g
  | 7 => sgdc ff rm (cardImm0 c) clip (x 0) g
  | _ =>
    let cg := clipG ff rm clip g
    let r := adam ff rm (cardImm0 c) (cardImm1 c) (x 0) (x 1) (x 2) cg.bits
    (r.1, r.2 ||| cg.flags)

/-- R282, R298: the threshold of a clipped operation. -/
def tauOf (c : List Word) : FVal := if cardOp c = 7 then paramF32 (cardImm1 c) else paramBf16 (cardImm1 c / 2 ^ 48)

/-- R282: tau is a positive finite value. -/
def tauOk (c : List Word) : Bool :=
  match tauOf c with
  | .fin neg m _ => !neg && m != 0
  | _ => false

/-- R282: the f32 nearest to tau / sqrt(n), with n = N / 2^64. -/
def clipQuotient (m : Nat) (e : Int) (n : Nat) : Nat :=
  let k := 2 * e + 64
  let num := m * m * 2 ^ k.toNat
  let den := n * 2 ^ (-k).toNat
  let v := num * 2 ^ 640 / den
  let r := isqrt v
  let sticky := if r * r = v ∧ num * 2 ^ 640 % den = 0 then 0 else 1
  (fmtF32.round .rne false false (2 * r + sticky) (-321)).bits

/-- R282, R296: the clip factor from a norm register, and the STATUS bits. -/
def clipFactor (c : List Word) (n : NormSt) : Nat × Nat :=
  if n.sat then (0, fNV + 2 ^ 31 + 2 ^ 30)
  else match tauOf c with
    | .fin _ m e =>
      let k := 2 * e + 64
      if n.value * 2 ^ (-k).toNat ≤ m * m * 2 ^ k.toNat then (0x3F800000, 0)
      else
        let q := clipQuotient m e n.value
        (q, if q = 0x3F800000 then 0 else 2 ^ 31)
    | _ => (0x3F800000, 0)

/-- R301: an ATOM's operation. -/
def riderAtom (c : List Word) : AtomOp := (atomOfCode (cardOp c % 16)).getD .add

end Sys2Proof.Machine
end

