-- ==== Sys2Proof/Machine/Visit.lean ====
section
/-! DEFINITION. What a rider does at a rank visit, kind by kind (R216 to R219, R297 to R305, R358), and which visits a furrow applies (R199,
R275, R292, R363). -/

namespace Sys2Proof.Machine

/-! ### Hub ranges of a rider (R210, R302) -/

/-- R210: the physical address that a pinned page gives an address, and the bytes left in the page. -/
def pinAt (pins : List PinSt) (va : Nat) : Option (Nat × Nat) :=
  (pins.find? fun p => decide (p.va ≤ va) && decide (va < p.va + 2 ^ pageBits p.level)).map fun p =>
    (p.pa + (va - p.va), p.va + 2 ^ pageBits p.level - va)

/-- R302: reads `n` hub bytes through the pinned pages, at the hub memory controller. -/
def hubRead (m : List Host.Cell) (pins : List PinSt) : Nat → Nat → Nat → Nat
  | 0, _, _ => 0
  | fuel + 1, va, n =>
    match pinAt pins va with
    | none => 0
    | some (pa, room) =>
      let k := min room n
      Memory.read m pa k + if k < n then 2 ^ (8 * k) * hubRead m pins fuel (va + k) (n - k) else 0

/-- R302: writes `n` hub bytes through the pinned pages. -/
def hubWrite (m : List Host.Cell) (pins : List PinSt) : Nat → Nat → Nat → Nat → List Host.Cell
  | 0, _, _, _ => m
  | fuel + 1, va, n, v =>
    match pinAt pins va with
    | none => m
    | some (pa, room) =>
      let k := min room n
      let m1 := Memory.write m pa k v
      if k < n then hubWrite m1 pins fuel (va + k) (n - k) (v / 2 ^ (8 * k)) else m1

/-- R296, R361: some block of a hub range is uncorrectable. -/
def hubRangeBad (s : State) (pins : List PinSt) (va n : Nat) : Bool :=
  (List.range ((va % 128 + n + 127) / 128)).any fun i => match pinAt pins (va / 128 * 128 + 128 * i) with
    | some (pa, _) => s.hubBad pa
    | none => false

/-- R358: a row becomes poisoned, with notice KIND 4 to the plot's strip core. -/
def State.poisonRow (s : State) (plot phys rank : Nat) : State :=
  let k := rowKey plot phys rank
  if s.rowPoison.contains k then s
  else
    let c := coreOfElem plot
    State.notice { s with rowPoison := k :: s.rowPoison, rowErrors := s.rowErrors.filter fun x => x != k } c 4 codePOISON
      (s.ownerAt (s.partOf c) rank) (elemX plot) (elemY plot) (s.logicalLayer plot phys rank) 0 (wd rank) 0

/-! ### Writing rows (R256, R278, R281, R283) -/

/-- A visit: the rider and its number, the plot, the rank and the rank's index in the region. -/
structure VisitAt where
  n : Nat
  plot : Nat
  rank : Nat
  i : Nat
  deriving DecidableEq, Repr

namespace State

/-- R278: the rider writes the window of a logical layer, or of its spare, whose first write on a rank copies the whole row. -/
def writeWindow (s : State) (r : RiderSt) (v : VisitAt) (layer data : Nat) : State × RiderSt :=
  let c := r.card
  let key := precKey v.n r
  let b0 := cardByte0 c
  let b := cardB c
  let cur := s.physLayer key v.plot layer v.rank
  if !cardTwin c then (s.writeRow v.plot cur v.rank b0 b data, r)
  else
    let spare := s.physLayer key v.plot (layer + 1) v.rank
    let t := s.twin v.plot (layer / 2) v.rank
    if t.pend then (s.writeRow v.plot spare v.rank b0 b data, { r with status := r.status ||| 2 ^ 29 })
    else
      let s1 := s.writeRow v.plot spare v.rank 0 2048 (s.readRow v.plot cur v.rank 0 2048)
      ((s1.writeRow v.plot spare v.rank b0 b data).setTwin v.plot (layer / 2) v.rank { t with pend := true }, r)

/-- R281, R283: a rider writes a layer's window: the row, its norm terms in format `fmt` (0: none) and its digest. -/
def writeLayer (s : State) (r : RiderSt) (v : VisitAt) (layer data fmt : Nat) : State × RiderSt :=
  let c := r.card
  let x := s.writeWindow r v layer data
  let w := elemBits fmt
  let r1 := if cardNormen c && fmt != 0 then addNorm fmt x.2 (lanesOfNum w (8 * cardB c / w) data) else x.2
  let ℓ := if cardTwin c then layer + 1 else layer
  (x.1, if cardDig c then { r1 with digPart := r1.digPart + rowDigest c v.plot v.i ℓ data } else r1)

/-- The window of a logical layer as the rider reads it. -/
def window_ (s : State) (r : RiderSt) (v : VisitAt) (layer : Nat) : Nat :=
  s.readRow v.plot (s.physLayer (precKey v.n r) v.plot layer v.rank) v.rank (cardByte0 r.card) (cardB r.card)

/-- The STATUS bits of the rows that a rider's mask names on a rank. -/
def maskStatus (s : State) (r : RiderSt) (v : VisitAt) : Nat :=
  (layersOf r.card).foldl (fun m l => m ||| s.rowStatus v.plot (s.physLayer (precKey v.n r) v.plot l v.rank) v.rank) 0

/-- R211, R278: the STATUS bits of the spare rows that a twin-target UPDATE or ATOM writes. -/
def spareStatus (s : State) (r : RiderSt) (v : VisitAt) : Nat :=
  if cardTwin r.card then
    (writtenLayers r.kind r.card).foldl (fun m l => m ||| s.rowStatus v.plot (s.physLayer (precKey v.n r) v.plot (l + 1) v.rank) v.rank) 0
  else 0

/-- A logical layer's row is poisoned or lost for a rider. -/
def layerBad (s : State) (r : RiderSt) (v : VisitAt) (layer : Nat) : Bool :=
  s.rowBad v.plot (s.physLayer (precKey v.n r) v.plot layer v.rank) v.rank

/-- R200: scratchpad bytes of the rider's element. -/
def riderScratch (s : State) (r : RiderSt) (v : VisitAt) (off n : Nat) : Nat :=
  Memory.read s.mem ((s.placeWin v.plot r.place).1 + off) n

/-- R78: a delivery of `n` bytes holds the scratchpad port of an element, 128 bytes a cycle. -/
def takePort (s : State) (e n : Nat) : State :=
  if (Table.find? s.elems e).isNone then s
  else s.modElem e fun x => { x with spFree := max x.spFree s.cycle + (n + 127) / 128 }

/-- R200: bytes of a rider in the scratchpad of its element. -/
def placeBytes (s : State) (r : RiderSt) (plot off n data : Nat) : State := s.scratchWrite ((s.placeWin plot r.place).1 + off) n data

/-- R78, R200: delivers bytes to the scratchpad of the rider's element. -/
def deliver (s : State) (r : RiderSt) (plot off n data : Nat) : State := (s.takePort plot n).placeBytes r plot off n data

end State

/-! ### The kinds (R216 to R219, R297 to R304) -/

/-- READ, R216: what a visit delivers takes the scratchpad port as one run of bytes (R200). -/
def visitRead (s : State) (r : RiderSt) (v : VisitAt) : State × RiderSt :=
  let c := r.card
  let b := cardB c
  let stride := if cardDstride c = 0 then cardL c * b else cardDstride c
  let ls := layersOf c
  let good := (List.range ls.length).filter fun j => !s.layerBad r v (ls.getD j 0)
  (good.foldl (fun st j => st.placeBytes r v.plot (cardDoff c + v.i * stride + j * b) b (s.window_ r v (ls.getD j 0)))
    (s.takePort v.plot (good.length * b)), r)

/-- R217: an element satisfies a FILTER's condition, and the flags of the comparison. -/
def filterTest (c : List Word) (x : Nat) : Bool × Nat :=
  let fmt := cardFmt c
  let w := elemBits fmt
  let k := cardImm0 c % 2 ^ w
  if isIntFmt fmt then
    let a := laneInt (isSignedFmt fmt) w x
    let b := laneInt (isSignedFmt fmt) w k
    (condHolds (cardOp c) (decide (a < b)) (decide (a = b)), 0)
  else
    let q := fcmp (cardOp c) (valueOf fmt false x) (valueOf fmt false k)
    (q.bits == 1, q.flags)

/-- FILTER, R217: survivors go on from the plot's count; beyond the capacity they are only counted. The survivors of a visit take the scratchpad
port as one run of bytes (R200). -/
def visitFilter (s : State) (r : RiderSt) (v : VisitAt) : State × RiderSt :=
  let c := r.card
  let w := elemBits (cardFmt c)
  let xs := (layersOf c).flatMap fun l => if s.layerBad r v l then [] else lanesOfNum w (8 * cardB c / w) (s.window_ r v l)
  let hits := xs.filter fun x => (filterTest c x).1
  let n := Table.getD r.counts v.plot 0
  let kept := (List.range hits.length).filter fun i => decide ((n + i + 1) * (w / 8) ≤ cardDstride c)
  let s1 := kept.foldl (fun st i => st.placeBytes r v.plot (cardDoff c + 8 + (n + i) * (w / 8)) (w / 8) (hits.getD i 0))
    (s.takePort v.plot (kept.length * (w / 8)))
  (s1, { r with status := xs.foldl (fun m x => m ||| (filterTest c x).2 % 32) r.status,
                counts := if hits.isEmpty then r.counts else Table.put r.counts v.plot (n + hits.length) })

/-- R218: an accumulator after adding an element, and the flags. -/
def sumStep (c : List Word) (acc x : Nat) : FRes :=
  match floatFmt (cardFmt c) with
  | some ff => fAddV fmtF32 (cardRm c) false (fmtF32.decode acc) (ff.decode x)
  | none => { bits := ((acc + laneInt (isSignedFmt (cardFmt c)) (elemBits (cardFmt c)) x) % (2 : Int) ^ 64).toNat, flags := 0 }

/-- SUM, R218: every element position adds to its accumulator; those of a poisoned row add nothing. -/
def visitSum (s : State) (r : RiderSt) (v : VisitAt) : State × RiderSt :=
  let c := r.card
  let w := elemBits (cardFmt c)
  let per := 8 * cardB c / w
  let old := Table.getD r.accs v.plot (List.replicate (cardL c * per) 0)
  let xs := (layersOf c).flatMap fun l =>
    if s.layerBad r v l then List.replicate per none else (lanesOfNum w per (s.window_ r v l)).map some
  let new := List.zipWith (fun a (x : Option Nat) => match x with
    | some e => sumStep c a e
    | none => { bits := a, flags := 0 }) old xs
  (s, { r with accs := Table.put r.accs v.plot (new.map (·.bits)), status := r.status ||| (new.foldl (fun m x => m ||| x.flags) 0) % 32 })

/-- R219: the tokens of a rank: how many, and token j. -/
def feedCount (c : List Word) : Nat := (cardL c * cardB c + 127) / 128

def feedToken (s : State) (r : RiderSt) (i j data : Nat) : Token :=
  let c := r.card
  let tag : Tag := cw c 2
  let code := (s.colourWidth r.part (tagColour tag)).getD 5
  let bytes := min 128 (cardL c * cardB c - 128 * j)
  mkToken (setTagIx tag ((i * feedCount c + j) % 256)) kData (bytes * 8 / laneWidth code) code (bits data (1024 * j) (8 * bytes))

/-- FEED, R219: the tokens from `first` on leave for the element below the plot, in order; those that carry bytes of a poisoned row are not
sent. -/
def visitFeed (s : State) (r : RiderSt) (v : VisitAt) (first : Nat) : State × RiderSt :=
  let c := r.card
  let b := cardB c
  let ls := layersOf c
  let data := numOfLanes (8 * b) (ls.map fun l => s.window_ r v l)
  let bad := fun (j : Nat) => (List.range ls.length).any fun k =>
    s.layerBad r v (ls.getD k 0) && decide (k * b < 128 * j + 128) && decide (128 * j < k * b + b)
  let js := (List.range' first (feedCount c - first)).filter fun j => !bad j
  let dest := cardDest c
  let x := js.foldl (fun (st : State × Nat) j =>
    let t := feedToken s r v.i j data
    let at_ := st.2 + flits t
    (st.1.launch { src := 2 ^ 18 + v.plot, bound := .elem v.plot (fld dest 48 4) (fld dest 46 2), token := t, at_ := at_,
                   feed := some (v.n, v.plot, v.rank, j) }, at_)) (s, s.cycle)
  let r1 := if js.length < feedCount c - first ∧ !r.dropped.contains (v.plot, v.rank) then
      { r with dropped := (v.plot, v.rank) :: r.dropped } else r
  (x.1, r1)

/-- R297: the operand bytes of a rank of an UPDATE or ATOM in scratchpad: `n` a rank. -/
def operandAt (c : List Word) (i n : Nat) : Nat := cardSoff c + i * (if cardSstride c = 0 then n else cardSstride c)

/-- UPDATE, layerwise, R297, R298. -/
def visitLayerwise (s : State) (r : RiderSt) (v : VisitAt) : State × RiderSt :=
  let c := r.card
  let w := elemBits (cardFmt c)
  let b := cardB c
  let per := 8 * b / w
  let ls := layersOf c
  let gs := if readsG (cardOp c) then s.riderScratch r v (operandAt c v.i (cardL c * b)) (cardL c * b) else 0
  (List.range ls.length).foldl (fun (st : State × RiderSt) j =>
    let l := ls.getD j 0
    let out := List.zipWith (fun x g => layerOp c x g) (lanesOfNum w per (st.1.window_ r v l)) (lanesOfNum w per (bits gs (8 * b * j) (8 * b)))
    let y := st.1.writeLayer st.2 v l (numOfLanes w (out.map (·.bits))) (cardFmt c)
    (y.1, { y.2 with status := y.2.status ||| (out.foldl (fun m x => m ||| x.flags) 0) % 32 })) (s, r)

/-- UPDATE with roles, R297, R299. -/
def visitRoles (s : State) (r : RiderSt) (v : VisitAt) : State × RiderSt :=
  let c := r.card
  let ff := (floatFmt (cardFmt c)).getD fmtF32
  let w := elemBits (cardFmt c)
  let b := cardB c
  let per := 8 * b / w
  let n := rolesOf (cardOp c)
  let ls := layersOf c
  let gs := lanesOfNum w per (if n < ls.length then s.window_ r v (ls.getD n 0) else s.riderScratch r v (operandAt c v.i b) b)
  let cols := (ls.take n).map fun l => lanesOfNum w per (s.window_ r v l)
  let out := (List.range per).map fun e => roleOp ff c r.clip (cols.map fun col => col.getD e 0) (gs.getD e 0)
  let fl := (out.foldl (fun m x => m ||| x.2) 0) % 32
  (List.range n).foldl (fun (st : State × RiderSt) j =>
    st.1.writeLayer st.2 v (ls.getD j 0) (numOfLanes w (out.map fun x => x.1.getD j 0)) (cardFmt c))
    (s, { r with status := r.status ||| fl })

/-- UPDATE, R297 to R299, R305: nothing of a rank is written where a row of its mask is poisoned. -/
def visitUpdate (s : State) (r : RiderSt) (v : VisitAt) : State × RiderSt :=
  if (layersOf r.card).any fun l => s.layerBad r v l then (s, r)
  else if rolesOf (cardOp r.card) = 0 then visitLayerwise s r v else visitRoles s r v

/-- R223, R301: the atomic operation on the elements of one layer: the results. -/
def atomLanes (c : List Word) (w : Nat) (ms vs : List Nat) : List AtomRes :=
  List.zipWith (fun m x => atomic (riderAtom c) w m x (cardImm1 c % 2 ^ w)) ms vs

/-- ATOM, R301, R305. -/
def visitAtom (s : State) (r : RiderSt) (v : VisitAt) : State × RiderSt :=
  let c := r.card
  let w := elemBits (cardFmt c)
  let b := cardB c
  let per := 8 * b / w
  let ls := layersOf c
  let n := cardL c * b
  let src := (cardOp c).testBit 5
  let gs := if src then s.riderScratch r v (operandAt c v.i n) n else 0
  let stride := if cardDstride c = 0 then n else cardDstride c
  if ls.any fun l => s.layerBad r v l then (s, r)
  else (List.range ls.length).foldl (fun (st : State × RiderSt) j =>
    let l := ls.getD j 0
    let vs := if src then lanesOfNum w per (bits gs (8 * b * j) (8 * b)) else List.replicate per (cardImm0 c % 2 ^ w)
    let out := atomLanes c w (lanesOfNum w per (st.1.window_ r v l)) vs
    let y := st.1.writeLayer st.2 v l (numOfLanes w (out.map (·.new))) (cardFmt c)
    let s1 := if cardDkind c = 0 then
        y.1.deliver r v.plot (cardDoff c + v.i * stride + j * b) b (numOfLanes w (out.map (·.ret)))
      else y.1
    (s1, { y.2 with status := y.2.status ||| (out.foldl (fun m x => m ||| x.flags) 0) % 32 })) (s, r)

/-- R302: the plot's index in the region. -/
def plotIndex (c : List Word) (plot : Nat) : Nat := (plotsOf c).idxOf plot

/-- R302: where a rank of a plot stands in the hub image. -/
def imageAt (c : List Word) (v : VisitAt) : Nat := (cardDest c).toNat + (plotIndex c v.plot * cardNrank c + v.i) * (cardL c * cardB c)

/-- R305: the physical row that a FILL writes for a layer. -/
def fillRow (s : State) (r : RiderSt) (v : VisitAt) (l : Nat) : Nat :=
  s.physLayer (precKey v.n r) v.plot (if cardTwin r.card then l + 1 else l) v.rank

/-- R278, R305: a FILL writes a row that is poisoned, or that its bytes poison: such a row's bytes reach nobody. For a twin-target FILL the spare
counts as written. -/
def State.fillBad (s : State) (r : RiderSt) (v : VisitAt) (l : Nat) : State × RiderSt :=
  let row := fillRow s r v l
  let s1 := if s.rowLost v.plot row then s else s.poisonRow v.plot row v.rank
  if !cardTwin r.card then (s1, r)
  else
    let t := s.twin v.plot (l / 2) v.rank
    (s1.setTwin v.plot (l / 2) v.rank { t with pend := true }, if t.pend then { r with status := r.status ||| 2 ^ 29 } else r)

/-- FILL of one layer, R302, R305, R358: bytes of an uncorrectable hub block poison the row, and so does a poisoned current row of which a twin-target
FILL copies bytes; only a whole-row write clears a row's poison, and it sets no STATUS.POISON for the poison that it clears (log entry 132, DESIGN CHOICE). -/
def fillLayer (s : State) (r : RiderSt) (v : VisitAt) (l va : Nat) : State × RiderSt :=
  let c := r.card
  let b := cardB c
  let row := fillRow s r v l
  let hub := if hubRangeBad s r.pins va b then 2 ^ 8 + 2 ^ 28 else 0
  let dest := if b < 2048 || s.rowLost v.plot row then s.rowStatus v.plot row v.rank else 0
  let copy := if cardTwin c && decide (b < 2048) && !(s.twin v.plot (l / 2) v.rank).pend then
      s.rowStatus v.plot (s.physLayer (precKey v.n r) v.plot l v.rank) v.rank else 0
  let m := hub ||| dest ||| copy
  if m = 0 then
    State.writeLayer { s with rowPoison := s.rowPoison.filter fun k => k != rowKey v.plot row v.rank } r v l (hubRead s.mem r.pins 40 va b) (cardFmt c)
  else s.fillBad { r with status := r.status ||| m } v l

/-- FILL, R302. -/
def visitFill (s : State) (r : RiderSt) (v : VisitAt) : State × RiderSt :=
  let c := r.card
  let ls := layersOf c
  (List.range ls.length).foldl (fun (st : State × RiderSt) j =>
    fillLayer st.1 st.2 v (ls.getD j 0) (imageAt c v + j * cardB c)) (s, r)

/-- DRAIN, R302, R305. -/
def visitDrain (s : State) (r : RiderSt) (v : VisitAt) : State × RiderSt :=
  let c := r.card
  let b := cardB c
  let ls := layersOf c
  ((List.range ls.length).foldl (fun (st : State) j =>
    let l := ls.getD j 0
    if s.layerBad r v l then st else { st with mem := hubWrite st.mem r.pins 40 (imageAt c v + j * b) b (s.window_ r v l) }) s, r)

/-- DIGEST, R304, R305. -/
def visitDigest (s : State) (r : RiderSt) (v : VisitAt) : State × RiderSt :=
  let c := r.card
  let w := elemBits (cardFmt c)
  (s, (layersOf c).foldl (fun (r : RiderSt) l =>
    if s.layerBad r v l then r
    else
      let data := s.window_ r v l
      let r1 := if cardNormen c then addNorm (cardFmt c) r (lanesOfNum w (8 * cardB c / w) data) else r
      { r1 with digPart := r1.digPart + rowDigest c v.plot v.i l data }) r)

/-- R289, R303: a seed drop is a FILL with OP 1. -/
def seedDrop (r : RiderSt) : Bool := r.kind == 6 && cardOp r.card == 1

/-- R275: one visit of one rider to one plot, of the tokens from `first` on for a FEED. -/
def visit (s : State) (r : RiderSt) (v : VisitAt) (first : Nat) : State × RiderSt :=
  let r1 := if r.kind = 6 then r else { r with status := r.status ||| s.maskStatus r v ||| s.spareStatus r v }
  match r.kind with
  | 0 => visitRead s r1 v
  | 1 => visitFilter s r1 v
  | 2 => visitSum s r1 v
  | 3 => visitFeed s r1 v first
  | 4 => visitUpdate s r1 v
  | 5 => visitAtom s r1 v
  | 6 => visitFill s r1 v
  | 7 => visitDrain s r1 v
  | _ => visitDigest s r1 v

/-! ### The furrow (R275, R292, R363) -/

namespace State

def rider (s : State) (n : Nat) : Option RiderSt := Table.find? s.riders n
def setRider (s : State) (n : Nat) (r : RiderSt) : State := { s with riders := Table.put s.riders n r }

/-- R196, R292, R363: a rider is due at a plot in the furrow of rank `rank`: on its normal visit, on a refused rank that it takes again, or on a
visit that was held. -/
def dueAt (s : State) (r : RiderSt) (plot rank : Nat) : Bool :=
  (decide (r.s0 ≤ s.stepNo) && decide (s.stepNo < r.s0 + 4096) && s.covers r plot rank) || r.again.contains (plot, rank) ||
    r.held.contains (plot, rank)

/-- R199: a rider as its visit of a rank reads it: a rank that it takes again as if it had boarded 4096 steps later. -/
def asRetaken (r : RiderSt) (plot rank : Nat) : RiderSt := if r.again.contains (plot, rank) then { r with s0 := r.s0 + 4096 } else r

/-- R292, R363: a rider is held at a plot and rank: the plot sleeps, or a layer that the rider's mask names, or whose spare it writes, is
parked. -/
def blocked (s : State) (n : Nat) (r : RiderSt) (plot rank : Nat) : Bool :=
  (s.plot plot).power != .active || (layersOf r.card).any fun l =>
    let parked := fun (x : Nat) => (s.layer (elemDie plot) (s.physLayer (precKey n r) plot x rank)).mode == .parked
    parked l || (cardTwin r.card && parked (l + 1))

/-- R292, R363: a rider misses a visit, which it makes up later. -/
def holdVisit (r : RiderSt) (h : Nat × Nat) : RiderSt :=
  { r with held := if r.held.contains h then r.held else h :: r.held, status := r.status ||| 2 ^ 9 }

/-- R363: one rider of a furrow at one plot: held, with all that follow it, or applied. -/
def furrowOne (rank plot : Nat) (st : State × Bool) (n : Nat) : State × Bool :=
  match st.1.rider n with
  | none => st
  | some r0 =>
    let r := asRetaken r0 plot rank
    if !st.1.dueAt r0 plot rank then st
    else if st.2 || st.1.blocked n r plot rank then (st.1.setRider n (holdVisit r0 (plot, rank)), true)
    else
      let first := if r0.again.contains (plot, rank) then ((r0.refused.find? fun x => x.1 == plot && x.2.1 == rank).map fun x => x.2.2).getD 0 else 0
      let v : VisitAt := { n := n, plot := plot, rank := rank, i := (st.1.rankIndex r.part r.tenant r.card rank).getD 0 }
      let x := visit st.1 { r with again := r.again.filter fun a => a != (plot, rank) } v first
      (x.1.setRider n { x.2 with s0 := r0.s0, held := x.2.held.filter fun h => h != (plot, rank) }, false)

/-- R199: the riders aboard in the order in which they act at a plot. -/
def furrowOrder (l : List (Nat × RiderSt)) (plot rank : Nat) : List Nat :=
  (sortByKey (fun x => precKey x.1 (asRetaken x.2 plot rank)) l).map (·.1)

/-- R303: record j of a seed drop in one plot. Bytes of an uncorrectable hub block (R296) are free values (log entry 6). -/
def seedRecord (s : State) (n : Nat) (r : RiderSt) (p j : Nat) : State :=
  let c := r.card
  let va := (cardDest c).toNat + (plotIndex c p * cardNrank c + j) * 512
  let at_ := seedBase p + 512 * (cardRank0 c + j)
  if hubRangeBad s r.pins va 512 then
    let v := numOfLanes 64 ((List.range 64).map fun i => (Config.freeWord (s.freeCount + i)).toNat)
    State.setRider { s with mem := Memory.write s.mem at_ 512 v, freeCount := s.freeCount + 64 } n { r with status := r.status ||| 2 ^ 8 ||| 2 ^ 28 }
  else { s with mem := Memory.write s.mem at_ 512 (hubRead s.mem r.pins 40 va 512) }

/-- R292, R303: a seed drop writes record j of its drop in step s0 + j, in every plot of its region. The records that a sleeping plot missed follow
in their order, one a step, from its wake on (log entry 116); `held` names record j as rank 4096 + j. -/
def seedStep (s : State) (n : Nat) (p : Nat) : State :=
  match s.rider n with
  | none => s
  | some r =>
    let j := s.stepNo - r.s0
    let late := (List.range (cardNrank r.card)).filter fun i => r.held.contains (p, 4096 + i)
    let r1 := if late.isEmpty || cardNrank r.card ≤ j then r else holdVisit r (p, 4096 + j)
    if (s.plot p).power != .active then
      if j < cardNrank r.card then s.setRider n (holdVisit r (p, 4096 + j)) else s
    else match late with
      | [] => if j < cardNrank r.card then s.seedRecord n r p j else s
      | i :: _ =>
        let r2 := { r1 with held := r1.held.filter fun h => h != (p, 4096 + i) }
        (s.setRider n r2).seedRecord n r2 p i

/-- R211, R358: the scrub of a rank: rows of swept layers with an uncorrectable error are poisoned. -/
def scrub (s : State) (rank : Nat) : State :=
  (s.rowErrors.filter fun k => rowRank k == rank && (s.layer (elemDie (rowPlot k)) (rowLayer k)).mode == .swept &&
    (s.plot (rowPlot k)).power == .active).foldl (fun st k => st.poisonRow (rowPlot k) (rowLayer k) rank) s

/-- R275: the furrow of the step that begins: the scrub, then in every plot the riders aboard in precedence order. -/
def furrow (s : State) : State :=
  let s1 := s.scrub s.cursor
  let aboard := byKey (List.filter (fun x : Nat × RiderSt => x.2.phase == .aboard) s1.riders)
  let plots := (((aboard.filter fun x => !seedDrop x.2).flatMap fun x =>
    (plotsOf x.2.card).filter fun p => s1.dueAt x.2 p s1.cursor).dedup)
  let rides := aboard.filter fun x => !seedDrop x.2
  let s2 := plots.foldl (fun st p => ((furrowOrder rides p s1.cursor).foldl (furrowOne s1.cursor p) (st, false)).1) s1
  (aboard.filter fun x => seedDrop x.2).foldl (fun st x => (plotsOf x.2.card).foldl (fun st p => st.seedStep x.1 p) st) s2

end State

end Sys2Proof.Machine
end

