-- ==== Sys2Proof/Machine/RiderCheck.lean ====
section
/-! DEFINITION. The checks of a rider card (R212, R214 to R221, R294 to R303), its cost (R194, R276), and the translation and pinning of its
hub range (R208, R210, R214). -/

namespace Sys2Proof.Machine

/-! ### Who asks -/

/-- R192, R215, R221: the source of a request: its core, boarding-key source, partition, tenant and place, the window in which its card and
completion word stand (first byte in the table of bytes, and size), and its translation context (R327). -/
structure Asker where
  core : Nat
  source : Nat
  part : Nat
  tenant : Nat
  place : Nat
  thread : Nat
  elem : Nat
  fromSlot : Bool
  winAt : Nat
  winSize : Nat
  root : Nat
  asid : Nat
  deriving DecidableEq, Repr

namespace State

/-- R215: a headland thread as the source of a request: its local window, or in supervisor mode all of local memory. -/
def threadAsker (s : State) (k : Nat) : Asker :=
  let c := coreOf k
  let pl := s.placeOfThread k
  let w := if (s.thread k).mode then (0, localBytes) else s.window c pl
  { core := c, source := k % 4, part := s.partOf c, tenant := s.lineTenant k, place := pl, thread := k, elem := 0, fromSlot := false,
    winAt := localBase c + w.1, winSize := w.2, root := s.rootOf k, asid := s.asidOf k }

/-- R221: an element's BOARDS slot as the source of a request. -/
def slotAsker (s : State) (e : Nat) : Asker :=
  let p := s.elemPart e
  let pl := s.elemPlace e
  let w := s.placeWin e pl
  { core := coreOfElem e, source := 4, part := p, tenant := (s.elem e).owner, place := pl, thread := 0, elem := e, fromSlot := true,
    winAt := w.1, winSize := w.2, root := fld (if pl = 0 then (s.part p).sptbase else (s.corePlace (coreOfElem e) pl).ptbase) 21 31 * 2 ^ 21,
    asid := s.placeAsid (coreOfElem e) p pl }

end State

/-! ### Costs (R194, R276, R303) -/

/-- R276: the stage count of an updating kind. -/
def stageCount (kind : Nat) (c : List Word) : Nat :=
  if kind = 4 then stagesOf (cardOp c) else if kind = 5 ∨ kind = 8 then 2 else 1

/-- R194, R276, R303: datapath and downward cycles of a rider on a rank. -/
def riderCost (kind : Nat) (c : List Word) : Nat × Nat :=
  let blocks := (cardL c * cardB c + 127) / 128
  if kind ≤ 3 then (2 + blocks, 0)
  else if kind = 6 ∧ cardOp c = 1 then (6, 0)
  else (2 + stageCount kind c * blocks, (writtenLayers kind c).length * if cardTwin c then 32 else (cardB c + 63) / 64)

/-- R194: the budgets of a rank visit. -/
def datapathBudget : Nat := 704
def downwardBudget : Nat := 640

/-- R218: the accumulators of a SUM: elements, and bytes of the accumulator store. -/
def sumElems (c : List Word) : Nat := cardL c * cardB c * 8 / elemBits (cardFmt c)
def sumBytes (kind : Nat) (c : List Word) : Nat :=
  if kind = 2 then sumElems c * (if isVecFloat (cardFmt c) then 4 else 8) else 0

/-! ### Hub ranges (R302, R303) -/

/-- R302, R303: the bytes of a card's hub image. -/
def hubBytes (kind : Nat) (c : List Word) : Nat :=
  let per := if kind = 6 ∧ cardOp c = 1 then 512 else cardL c * cardB c
  (plotsOf c).length * cardNrank c * per

/-- R210, R214: the hub ranges of a card with the permission that each needs: the destination range and a translated completion word. -/
def hubRanges (kind : Nat) (c : List Word) : List (Nat × Nat × Need) :=
  (if kind = 6 then [((cardDest c).toNat, hubBytes kind c, Need.load)]
   else if kind = 7 then [((cardDest c).toNat, hubBytes kind c, Need.store)] else []) ++
  if cardCkind c = 1 then [((cardCword c).toNat, 8, Need.store)] else []

namespace State

/-- R208, R210: the pages of a range from `va` to `last`, each translated with the permission that is needed; or the code of the first
failure. -/
def pagesOf (s : State) (a : Asker) (need : Need) (last : Nat) : Nat → Nat → State × Except Nat (List PinSt)
  | 0, _ => (s, .ok [])
  | fuel + 1, va =>
    if last < va then (s, .ok [])
    else if va < 0x100000 then (s, .error codePAGE)
    else
      let r := s.findLeaf a.core a.tenant a.place a.root a.asid va
      match r.2 with
      | .error code => (r.1, .error code)
      | .ok e =>
        if !permOk e.perms need then (r.1, .error codeACCESS)
        else
          let base := va / 2 ^ pageBits e.level * 2 ^ pageBits e.level
          let pin : PinSt := { part := a.part, asid := a.asid, va := base, level := e.level, pa := e.ppn * 2 ^ pageBits e.level, perms := e.perms }
          let x := pagesOf r.1 a need last fuel (base + 2 ^ pageBits e.level)
          (x.1, x.2.map fun l => pin :: l)

/-- R210, R214: the pages of several ranges, each page once. -/
def pagesOfAll (s : State) (a : Asker) : List (Nat × Nat × Need) → State × Except Nat (List PinSt)
  | [] => (s, .ok [])
  | (va, n, need) :: rest =>
    let x := s.pagesOf a need (va + n - 1) (n / 4096 + 2) va
    match x.2 with
    | .error c => (x.1, .error c)
    | .ok l =>
      let y := pagesOfAll x.1 a rest
      (y.1, y.2.map fun m => l ++ m.filter fun q => !l.contains q)

/-! ### Pins (R210, R334) -/

/-- R210: the entry of a last-level TLB that holds a pinned page. -/
def isPin (q : PinSt) (e : TlbEntry) : Bool :=
  e.part == q.part && e.asid == q.asid && e.level == q.level && e.vpn == bits q.va (pageBits q.level) (57 - pageBits q.level) &&
    e.ppn == q.pa / 2 ^ pageBits q.level && e.stale == q.stale

/-- R210, R334: pins one page in a die's last-level TLB; `none` where it must wait: the count would pass 65,535, or a new entry is needed and
the tenant's quota, or the whole TLB, is full of pinned entries. -/
def pinOne (s : State) (die quota : Nat) (q : PinSt) : Option State :=
  let l := Table.getD s.llTlb die []
  match List.find? (isPin q) l with
  | some e =>
    if 65535 ≤ e.pins then none
    else some { s with llTlb := Table.put s.llTlb die (l.map fun x => if x = e then { e with pins := e.pins + 1 } else x) }
  | none =>
    let own := l.filter fun x => x.part == q.part && x.asid == q.asid && x.pins != 0
    if (quota ≠ 0 ∧ quota ≤ own.length) ∨ (4096 ≤ l.length ∧ l.all fun x => x.pins != 0) then none
    else some (s.llInsert die quota
      { part := q.part, asid := q.asid, vpn := bits q.va (pageBits q.level) (57 - pageBits q.level), level := q.level, ppn := q.pa / 2 ^ pageBits q.level,
        perms := q.perms, pins := 1, stale := q.stale })

/-- R210: pins every page, or none. -/
def pinAll (s : State) (die quota : Nat) : List PinSt → Option State
  | [] => some s
  | q :: qs =>
    match s.pinOne die quota q with
    | some s1 => pinAll s1 die quota qs
    | none => none

/-- R210: releases pins; a stale entry goes when its last pin is released. -/
def unpin (s : State) (die : Nat) (qs : List PinSt) : State :=
  qs.foldl (fun st q =>
    let l := (Table.getD st.llTlb die []).filterMap fun (e : TlbEntry) =>
      if isPin q e then (if e.stale && e.pins ≤ 1 then none else some { e with pins := e.pins - 1 }) else some e
    { st with llTlb := Table.put st.llTlb die l }) s

/-! ### The checks (R215, R295) -/

/-- R215, reason 1: the card's place. -/
def cardOutside (a : Asker) (off : Nat) : Bool := off % 64 != 0 || decide (a.winSize < off + 64)

/-- R215, R216, R219, R294, reason 2: the kind and the fields that must be 0. -/
def cardFieldsBad (kind : Nat) (c : List Word) : Bool :=
  cardKind c != kind || fld (cw c 0) 60 4 != 0 || fld (cw c 1) 47 17 != 0 || fld (cw c 4) 57 7 != 0 ||
    ((kind == 0 || kind == 6 || kind == 7 || kind == 8) &&
      (cardSoff c != 0 || cardSstride c != 0 || cardImm0 c != 0 || cardImm1 c != 0)) ||
    (kind == 3 && cardImm1 c / 2 != 0)

/-- R108, R294: a float format, of which NORMEN of FILL and DIGEST takes any. -/
def normFmt (fmt : Nat) : Bool := (floatFmt fmt).isSome || fmt == 0x0D

/-- R298, R301: the immediates that an operation leaves unused are 0. -/
def immsUnused (kind : Nat) (c : List Word) : Bool :=
  let op := cardOp c
  if kind = 4 then (!(op == 3 || op == 9 || op == 10) || cardImm0 c == 0) && (!decide (op ≤ 5) || cardImm1 c == 0)
  else op % 16 == 9 || op % 16 == 10 || cardImm1 c == 0

/-- R216 to R219, R294, R298, R301: OP and FMT that a kind accepts. -/
def opFmtOk (kind : Nat) (c : List Word) : Bool :=
  let op := cardOp c
  let fmt := cardFmt c
  let int := isIntFmt fmt
  let flt := isVecFloat fmt
  match kind with
  | 0 => op == 0 && fmt == 0 && !(cardDstride c != 0 && decide (cardDstride c < cardL c * cardB c))
  | 1 => (int || flt || fmt == 0x0A || fmt == 0x0B || fmt == 0x0D || fmt == 0x0F) && decide (op ≤ if int then 5 else 6) &&
      cardDstride c != 0 && cardDstride c % 8 == 0
  | 2 => op == 0 && (int || flt)
  | 3 => op == 0 && fmt == 0
  | 4 => (if op ≤ 3 then int || flt else if op ≤ 8 then flt else op ≤ 10 && fmt == 0x17) && immsUnused 4 c
  | 5 => decide (op % 16 ≤ 13) && !op.testBit 4 &&
      (fmt == 5 || fmt == 6 || fmt == 0x17 || (fmt == 7 && decide (11 ≤ op % 16))) && immsUnused 5 c
  | 6 => decide (op ≤ 1) && (fmt == 0 || (cardNormen c && normFmt fmt))
  | 7 => op == 0 && fmt == 0
  | _ => op == 0 && (fmt == 0 || (fmtWidth fmt).isSome)

/-- R215, reason 3. -/
def cardFormBad (kind : Nat) (c : List Word) : Bool :=
  let bytes := if cardFmt c = 0 then 1 else max 1 (elemBits (cardFmt c) / 8)
  !opFmtOk kind c || cardByte0 c % bytes != 0 || cardB c % bytes != 0

/-- R215, reason 4: the rectangle. -/
def rectBad (s : State) (part : Nat) (c : List Word) : Bool :=
  cardDies c == 0 || decide (32 < cardX c + cardCols c) || decide (32 < cardY c + cardRows c) ||
    (List.range 4).any fun d => (cardDies c).testBit d &&
      (List.range (cardCols c)).any fun x => !(s.part part).hasCore (coreOfElem (elemKey d (cardX c + x) 0))

/-- R190, R215, reason 5: the ranks, as they stand now. A seed drop names record places. -/
def ranksBad (s : State) (part tenant : Nat) (seed : Bool) (c : List Word) : Bool :=
  cardNrank c == 0 || decide (cardByte1 c < cardByte0 c) || decide (4096 < cardNrank c) ||
    (!seed && decide (s.ownedBelow part tenant 4096 < cardRank0 c + cardNrank c))

/-- R200, R216 to R218, R297, R301: the scratchpad ranges of a card: first offset and the byte after the last. -/
def scratchRanges (kind : Nat) (c : List Word) : List (Nat × Nat) :=
  let n := cardNrank c
  let all := cardL c * cardB c
  let rng := fun (off stride per : Nat) => (off, off + (n - 1) * (if stride = 0 then per else stride) + per)
  match kind with
  | 0 => [rng (cardDoff c) (cardDstride c) all]
  | 1 => [(cardDoff c, cardDoff c + 8 + cardDstride c)]
  | 2 => [(cardDoff c, cardDoff c + sumBytes 2 c)]
  | 4 =>
    if readsG (cardOp c) then [rng (cardSoff c) (cardSstride c) all]
    else if rolesOf (cardOp c) ≠ 0 ∧ cardL c ≤ rolesOf (cardOp c) then [rng (cardSoff c) (cardSstride c) (cardB c)]
    else []
  | 5 => (if (cardOp c).testBit 5 then [rng (cardSoff c) (cardSstride c) all] else []) ++
      if cardDkind c = 0 then [rng (cardDoff c) (cardDstride c) all] else []
  | _ => []

/-- R200, R215, reason 7. -/
def scratchBad (s : State) (place kind : Nat) (c : List Word) : Bool :=
  let rs := scratchRanges kind c
  !rs.isEmpty && (plotsOf c).any fun p => rs.any fun r => decide ((s.placeWin p place).2 < r.2)

/-- R215, R219, R294, R302, reason 8. -/
def destBad (s : State) (a : Asker) (kind : Nat) (c : List Word) : Bool :=
  let d := cardDest c
  match kind with
  | 0 | 1 | 2 => cardDkind c != 0
  | 3 => cardDkind c != 1 || fld d 62 2 != 0 || fld d 52 10 != 0 || decide (1 < fld d 46 2) || fld d 0 46 != 0 ||
      s.colourTenant a.part (tagColour (cw c 2)) != some a.tenant || tagDepth (cw c 2) == 0 || decide (6 < tagDepth (cw c 2))
  | 5 => cardDkind c != 0 && !(cardDkind c == 3 && d == 0)
  | 6 | 7 => cardDkind c != 2 || d.toNat % 128 != 0
  | _ => cardDkind c != 3 || d != 0

/-- R47, R221: a completion route: an element of the plane, or an edge tile's port. -/
def routeOk (plane r : Word) : Bool :=
  fld r 0 46 == 0 && decide (fld r 57 5 < pwCols plane) &&
    ((fld r 62 2 == 0 && decide (fld r 52 5 < pwRows plane) && fld r 46 2 != 3) ||
      (fld r 62 2 == 1 && fld r 53 4 == 0 && decide (fld r 48 4 < 8) && fld r 46 2 == 0))

/-- R197, R215, R221, reason 9. -/
def cwordBad (s : State) (a : Asker) (c : List Word) : Bool :=
  let w := cardCword c
  match cardCkind c with
  | 0 => a.fromSlot || w.toNat % 8 != 0 || decide (a.winSize < w.toNat + 8)
  | 1 => a.fromSlot || w.toNat % 8 != 0 || decide (w.toNat < 0x100000)
  | 2 => !a.fromSlot || w.toNat % 8 != 0 || decide (a.winSize < w.toNat + 8)
  | _ => !a.fromSlot || !routeOk (s.planeAt a.elem) w

/-- R194, R215, R218, reason 13. -/
def costBad (kind : Nat) (c : List Word) : Bool :=
  decide (datapathBudget < (riderCost kind c).1) || decide (downwardBudget < (riderCost kind c).2) || (kind == 2 && decide (512 < sumElems c))

/-- R215, R294, R295, reason 14. -/
def flagsBad (kind : Nat) (c : List Word) : Bool :=
  let any := cardNormen c || cardTwin c || cardDig c
  if kind ≤ 3 ∨ kind = 7 then any
  else if kind = 8 then cardTwin c || !cardDig c || (cardNormen c && !normFmt (cardFmt c))
  else false

/-- R295: reasons 15 to 20; 0 where none holds. -/
def engineReason (s : State) (a : Asker) (kind : Nat) (c : List Word) : Nat :=
  let op := cardOp c
  let ws := writtenLayers kind c
  let clip := kind == 4 && clipped op
  let roles := rolesOf op
  if cardTwin c && ws.any fun l => l % 2 == 1 || (layersOf c).contains (l + 1) then 15
  else if kind = 4 ∧ roles ≠ 0 ∧ cardL c ≠ roles ∧ cardL c ≠ roles + 1 then 16
  else if (clip && (cardNormen c || !tauOk c)) || (kind == 4 && op == 6 && cardImm1 c / 2 ^ 48 != 0) then 17
  else if (cardNormen c || cardDig c || clip) && a.place != 0 && !s.holds a.part a.place (16 + cardNorm c) then 18
  else if kind = 6 ∧ op = 1 ∧ (512 < cardRank0 c + cardNrank c ∨ cardLayers c ≠ 0 ∨ cardByte0 c ≠ 0 ∨ cardByte1 c ≠ 0 ∨
      (cardNormen c || cardTwin c || cardDig c) = true) then 19
  else if kind = 4 ∧ (op = 9 ∨ op = 10) ∧ (cardImm1 c < 2 ∨ 2 ^ 62 ≤ cardImm1 c) then 20
  else 0

/-- R215, reasons 1 to 9: the first check that fails; 0 where none does. -/
def cardReasonA (s : State) (a : Asker) (kind : Nat) (c : List Word) : Nat :=
  let seed := kind == 6 && cardOp c == 1
  if cardFieldsBad kind c then 2
  else if cardFormBad kind c then 3
  else if s.rectBad a.part c then 4
  else if s.ranksBad a.part a.tenant seed c then 5
  else if cardLayers c = 0 ∧ !seed then 6
  else if s.scratchBad a.place kind c then 7
  else if s.destBad a kind c then 8
  else if s.cwordBad a c then 9
  else 0

/-- R215, R295, reasons 13 to 20. -/
def cardReasonB (s : State) (a : Asker) (kind : Nat) (c : List Word) : Nat :=
  if costBad kind c then 13 else if flagsBad kind c then 14 else s.engineReason a kind c

/-- R214, R215: every check of a card in reason order: the reason, or the pages of its hub range. Translation may fill TLBs. -/
def checkCard (s : State) (a : Asker) (kind : Nat) (c : List Word) : State × Except Nat (List PinSt) :=
  let r := s.cardReasonA a kind c
  if r ≠ 0 then (s, .error r)
  else
    let x := s.pagesOfAll a (hubRanges kind c)
    match x.2 with
    | .error code => (x.1, .error (if code = codeACCESS then 11 else 10))
    | .ok pins =>
      if 16 < pins.length then (x.1, .error 12)
      else
        let q := s.cardReasonB a kind c
        if q ≠ 0 then (x.1, .error q) else (x.1, .ok pins)

end State

/-- R215: gd of a request that fails a check. -/
def refusedCard (reason : Nat) : Word := wd (2 ^ 63 + reason * 256 + 0x0F)

end Sys2Proof.Machine
end

