-- ==== Sys2Proof/Machine/Boards.lean ====
section
/-! DEFINITION. Requests for riders: BOARD (R215), CANCEL (R220), BOARDS (R221), TCOMMIT and TABORT (R307), and NORMRD and NORMCLR (R308). -/

namespace Sys2Proof.Machine

namespace State

/-! ### Cards (R212) -/

/-- R212: the eight words of a card in a thread's local memory, as the core sees them. -/
def threadCard (s : State) (k addr : Nat) : List Word :=
  (List.range 8).map fun i => wd (s.readTarget (coreOf k) 0 { addr := addr + 8 * i, isLocal := true, uncached := false } 8).2

/-- R221: the eight words of a card in a scratchpad. -/
def slotCard (s : State) (addr : Nat) : List Word := (List.range 8).map fun i => wd (Memory.read s.mem (addr + 8 * i) 8)

/-! ### Requests (R195, R214, R215) -/

/-- R47, R221: a completion route with its column and row absolute within the die. -/
def absRoute (plane r : Word) : Word :=
  let x := setFld r 57 5 (pwX plane + fld r 57 5)
  if fld r 62 2 = 0 then setFld x 52 5 (pwY plane + fld r 52 5) else x

/-- R197: where a card's completion value goes. -/
def doneOf (s : State) (a : Asker) (c : List Word) (pins : List PinSt) : DoneAt :=
  let w := cardCword c
  match cardCkind c with
  | 1 =>
    match pinAt pins w.toNat with
    | some (pa, _) => .translated pa ((pins.find? fun p => decide (p.va ≤ w.toNat) && decide (w.toNat < p.va + 2 ^ pageBits p.level)).any
        fun p => bits p.perms 4 1 == 1)
    | none => .direct (a.winAt + w.toNat)
  | 3 => .route (absRoute (s.planeAt a.elem) w)
  | _ => .direct (a.winAt + w.toNat)

/-- R215: the rider id of a source's next request. -/
def nextId (s : State) (a : Asker) : Word :=
  let n := if a.fromSlot then (s.core a.core).boardsSeq else (s.thread a.thread).seq
  wd (dieOfCore a.core * 2 ^ 30 + stripOfCore a.core * 2 ^ 27 + a.source * 2 ^ 24 + n % 65536)

/-- R215: a source's sequence number advances. -/
def countRequest (s : State) (a : Asker) : State :=
  if a.fromSlot then s.modCore a.core fun x => { x with boardsSeq := (x.boardsSeq + 1) % 65536 }
  else s.modThread a.thread fun x => { x with seq := (x.seq + 1) % 65536 }

/-- R195: a request joins its tenant's admission queue. -/
def join (s : State) (r : RiderSt) : State := 
  { s with riders := Table.put s.riders s.riderNext { r with joinedAt := s.cycle }, riderNext := s.riderNext + 1 }

/-- R210, R214: a request's pages are pinned where they can be; otherwise it waits for them in its queue. -/
def pinRider (s : State) (r : RiderSt) : State × RiderSt :=
  match s.pinAll (dieOfCore r.core) (s.tlbQuota r.part r.place) r.pins with
  | some s1 => (s1, { r with pinned := true })
  | none => (s, r)

/-- R215: a request that has passed its checks joins the queue. `fill` adds what the issuing thread or slot keeps with it. -/
def request (s : State) (a : Asker) (kind : Nat) (c : List Word) (off : Nat) (value : Word) (pins : List PinSt) (fill : RiderSt → RiderSt) :
    State :=
  let r := fill { kind := kind, part := a.part, tenant := a.tenant, place := a.place, core := a.core, source := a.source, id := s.nextId a,
                  cardAt := a.winAt + off, cardVa := off, card := c, value := value, done := s.doneOf a c pins, pins := pins }
  let x := s.pinRider r
  (x.1.join x.2).countRequest a

/-- R215: BOARD of a kind. -/
def board (s : State) (kind : Nat) (word : Word32) (d a b : Reg) : Out :=
  let k := s.me
  let q := s.threadAsker k
  let off := (s.gpr a).toNat
  if cardOutside q off then s.finish d (refusedCard 1)
  else
    let c := s.threadCard k (q.winAt + off)
    let x := s.checkCard q kind c
    match x.2 with
    | .error r => x.1.finish d (refusedCard r)
    | .ok pins =>
      .next ((x.1.request q kind c off (s.gpr b) pins fun r => { r with thread := k, gd := d }).modThread k fun t =>
        { t with run := .waiting, wait := { code := .admission, id := s.riderNext, gd := d, word := word } })

/-! ### Completing a request (R215, R221) -/

/-- R221: the result of a BOARDS slot has arrived: it is held with the slot, resident, saved or taken out by HALTR. -/
def slotResult (s : State) (r : RiderSt) (v : Word) : State :=
  let set := fun (x : ElemSt) => { x with pend := x.pend.map fun (p : Nat × PendSt) =>
    if p.1 = r.slot ∧ !p.2.isOrd ∧ p.2.value.isNone then (p.1, { p.2 with value := some v, at_ := s.cycle }) else p }
  let waits := fun (x : ElemSt) => x.pend.any fun p => p.1 == r.slot && !p.2.isOrd && p.2.value.isNone
  let key := r.elem * 16 + r.place
  if (s.elem r.elem).owner = r.tenant ∧ waits (s.elem r.elem) then s.modElem r.elem set
  else if (Table.find? s.haltElems key).any waits then { s with haltElems := Table.put s.haltElems key (set (Table.getD s.haltElems key {})) }
  else if (Table.find? s.savedElems key).any waits then { s with savedElems := Table.put s.savedElems key (set (Table.getD s.savedElems key {})) }
  else s

/-- R215: a request completes: the register of the issuing thread or the result of the issuing slot receives `v`. -/
def answer (s : State) (n : Nat) (r : RiderSt) (v : Word) : State :=
  if r.source = 4 then s.slotResult r v
  else
    let t := s.thread r.thread
    if t.boardGd.any fun g => g.2 == n then
      let g := t.boardGd.getD (0, n)
      if s.recordKept r.thread then s.modThread r.thread fun x => { x with boardVal := some v }
      else (s.setGprOf r.thread g.1 v).modThread r.thread fun x => { x with boardGd := none }
    else if (t.wait.code == .admission || t.wait.code == .twin) && t.wait.id == n && (t.run == .waiting || t.run == .resting) then
      s.release r.thread v
    else s

/-! ### CANCEL (R220) -/

/-- R191, R196: a ride ends at the next boundary. -/
def endsNext (s : State) (r : RiderSt) : Bool :=
  r.phase == .aboard && rideOver r (s.stepNo + 1)

/-- R220: a CANCEL of a source names a request or rider. -/
def cancelNames (a : Asker) (v : Word) (r : RiderSt) : Bool :=
  r.kind < 10 && r.part == a.part && r.tenant == a.tenant && !r.cancelled && fld v 63 1 == 0 &&
    if fld v 62 1 = 0 then r.id == v else r.core == a.core && r.source != 4 && r.cardVa == fld v 0 62

/-- R215: gd of a request that CANCEL removes. -/
def cancelledGd : Word := 0x800000000000FF00

/-- R220: cancels one request or rider: a request is removed at once, with its pins; a rider stops at the next boundary. -/
def cancelOne (s : State) (n : Nat) (r : RiderSt) : State :=
  if r.phase = .aboard then { s with riders := Table.put s.riders n { r with cancelled := true } }
  else
    let s1 := { s with riders := Table.erase s.riders n }
    let s2 := if r.pinned then s1.unpin (dieOfCore r.core) r.pins else s1
    s2.answer n r cancelledGd

/-- R220: CANCEL: the state, and the number of requests and riders cancelled. -/
def cancel (s : State) (a : Asker) (v : Word) : State × Nat :=
  let l := List.filter (fun x : Nat × RiderSt => cancelNames a v x.2 && !s.endsNext x.2) s.riders
  (l.foldl (fun st x => st.cancelOne x.1 x.2) s, l.length)

end State

/-- BOARD_READ, R215, R216. -/
def execBoardRead (d a b : Reg) (s : State) : Out := s.board 0 (wordOf (.boardRead d a b)) d a b

/-- BOARD_FILTER, R215, R217. -/
def execBoardFilter (d a b : Reg) (s : State) : Out := s.board 1 (wordOf (.boardFilter d a b)) d a b

/-- BOARD_SUM, R215, R218. -/
def execBoardSum (d a b : Reg) (s : State) : Out := s.board 2 (wordOf (.boardSum d a b)) d a b

/-- BOARD_FEED, R215, R219. -/
def execBoardFeed (d a b : Reg) (s : State) : Out := s.board 3 (wordOf (.boardFeed d a b)) d a b

/-- BOARD_UPDATE, R215, R297, R298. -/
def execBoardUpdate (d a b : Reg) (s : State) : Out := s.board 4 (wordOf (.boardUpdate d a b)) d a b

/-- BOARD_ATOM, R215, R301. -/
def execBoardAtom (d a b : Reg) (s : State) : Out := s.board 5 (wordOf (.boardAtom d a b)) d a b

/-- BOARD_FILL, R215, R302, R303. -/
def execBoardFill (d a b : Reg) (s : State) : Out := s.board 6 (wordOf (.boardFill d a b)) d a b

/-- BOARD_DRAIN, R215, R302. -/
def execBoardDrain (d a b : Reg) (s : State) : Out := s.board 7 (wordOf (.boardDrain d a b)) d a b

/-- BOARD_DIGEST, R215, R304. -/
def execBoardDigest (d a b : Reg) (s : State) : Out := s.board 8 (wordOf (.boardDigest d a b)) d a b

/-- BOARD_CANCEL, R220. -/
def execBoardCancel (d a : Reg) (s : State) : Out :=
  let x := s.cancel (s.threadAsker s.me) (s.gpr a)
  x.1.finish d (wd (min x.2 255))

/-! ### BOARDS (R221) -/

namespace State

/-- R221: the slot's outstanding request: its result tag, and its result once it is there. -/
def pendBoards (s : State) (g : Firing) (tag : Tag) (v : Option Word) : State :=
  let y : PendSt := { tag := tag, width := g.width, isOrd := false, value := v, at_ := s.cycle, issued := s.cycle }
  s.modElem g.e fun x => { x with pend := Table.put x.pend g.slot y }

/-- R221: the request of a BOARDS firing: the state after the checks, and the result where it is there at once. -/
def boardsRequest (s : State) (g : Firing) (tag : Tag) (kind off : Nat) (arg : Word) : State × Option Word :=
  let a := s.slotAsker g.e
  if kind = 9 then
    let x := s.cancel a arg
    (x.1, some (wd (min x.2 255)))
  else if cardOutside a off then (s, some (refusedCard 1))
  else
    let c := s.slotCard (a.winAt + off)
    let x := s.checkCard a kind c
    match x.2 with
    | .error r => (x.1, some (refusedCard r))
    | .ok pins =>
      (x.1.request a kind c off arg pins fun r => { r with elem := g.e, slot := g.slot, tag := tag, width := g.width }, none)

/-- R221: the result of a BOARDS slot can be sent: it is there and the field runs. Its places are reserved since its issue (R91). -/
def boardsReady (s : State) (e : Nat) (p : Nat × PendSt) : Bool :=
  !p.2.isOrd && p.2.value.isSome && s.elemActive e && match s.fieldAt e with
    | some k => !s.fieldStopped k
    | none => false

/-- R221: a BOARDS slot sends its result token to each destination. -/
def sendBoards (s : State) (e : Nat) (p : Nat × PendSt) : State :=
  match (s.elem e).active.slotAt p.1 with
  | none => s
  | some (_, _, f) =>
    let t := mkToken p.2.tag kData (64 / laneWidth p.2.width) p.2.width (p.2.value.getD 0).toNat
    let s1 := (dsts f).foldl (fun st d => st.send e p.1 d t s.cycle) s
    (s1.modElem e fun x => { x with pend := Table.erase x.pend p.1 }).settleColour (s.elemPart e) (tagColour p.2.tag)

/-- R221: every BOARDS result that can be sent is sent. -/
def flushBoards (s : State) : State :=
  (s.elems.filter fun e => e.2.pend.any fun p => !p.2.isOrd && p.2.value.isSome).foldl (fun st e =>
    e.2.pend.foldl (fun st p => if st.boardsReady e.1 p then st.sendBoards e.1 p else st) st) s

end State

/-- BOARDS, R221. The result of a refused request or of a CANCEL is sent at once. -/
def execBoards (f : SlotFields) (s : State) : Out :=
  s.value 0x93 f 2 1 fun g =>
    let kind := bits f.extra.toNat 0 4
    if (Table.find? (s.elem g.e).pend g.slot).isSome ∨ 9 < kind then .refused .notEnabled
    else match s.resultTag g g.width with
      | .error code => s.fault g code (State.tagPos g)
      | .ok r =>
        let arg := ((s.srcA g).asToken g.tag g.width).payload.setWidth 64
        let x := r.1.boardsRequest g r.2 kind (64 * bits f.ext.toNat 0 13) arg
        let s1 := if (State.dsts f).any fun d => d != 63 then x.1.leaveFrame g else x.1
        .next ((s1.pendBoards g r.2 x.2).endFiring g g.toks [] 2 1 0)

/-! ### TCOMMIT and TABORT (R307) -/

/-- R307: the region fields of a card that TCOMMIT reads: LAYERS, DIES, X, Y, COLS-1, ROWS-1, RANK0 and NRANK. Every other field is ignored. -/
def regionCard (c : List Word) : List Word :=
  [wd (fld (cw c 0) 17 8 * 2 ^ 17 + fld (cw c 0) 36 24 * 2 ^ 36), wd (fld (cw c 1) 0 25)]

/-- R307: the status of TCOMMIT or TABORT before it joins the queue; 0 where it joins. -/
def State.twinStatus (s : State) (a : Asker) (c : List Word) : Nat :=
  if s.rectBad a.part c || s.ranksBad a.part a.tenant false (regionCard c) then 2
  else if cardLayers c = 0 ∨ (layersOf c).any fun l => l % 2 == 1 then 3
  else 0

/-- R390: the DIGCMPs of a tenant that are in flight. -/
def State.openDigests (s : State) (p t : Nat) : List Nat :=
  (List.filter (fun x : Nat × CollSt => x.2.kind == 5 && x.2.part == p && x.2.tenant == t) s.colls).map (·.1)

/-- R307: TCOMMIT (kind 10) or TABORT (kind 11) joins the admission queue. -/
def State.askTwin (s : State) (kind : Nat) (word : Word32) (d a : Reg) : Out :=
  let k := s.me
  let q := s.threadAsker k
  let off := (s.gpr a).toNat
  if cardOutside q off then s.finish d 1
  else
    let c := s.threadCard k (q.winAt + off)
    let st := s.twinStatus q c
    if st ≠ 0 then s.finish d (wd st)
    else
      let r : RiderSt := { kind := kind, part := q.part, tenant := q.tenant, place := q.place, core := q.core, source := q.source, thread := k,
                           gd := d, id := 0, cardAt := q.winAt + off, cardVa := off, card := regionCard c, value := 0, done := .direct 0,
                           waitDig := if kind = 10 then s.openDigests q.part q.tenant else [] }
      .next ((s.join r).modThread k fun t =>
        { t with run := .waiting, wait := { code := .twin, id := s.riderNext, gd := d, word := word } })

/-- TCOMMIT, R279, R307. -/
def execTcommit (d a : Reg) (s : State) : Out := s.askTwin 10 (wordOf (.tcommit d a)) d a

/-- TABORT, R279, R307. -/
def execTabort (d a : Reg) (s : State) : Out := s.askTwin 11 (wordOf (.tabort d a)) d a

/-! ### NORMRD and NORMCLR (R308) -/

/-- R280: norm register `n` of a partition, and its digest accumulator. -/
def PartSt.norm (p : PartSt) (n : Nat) : NormSt := Table.getD p.norms n {}
def PartSt.digest (p : PartSt) (n : Nat) : Nat := Table.getD p.digests n 0

/-- NORMRD, R308: a register that is not the tenant's reads 0. -/
def execNormrd (high : Bool) (n : BitVec 4) (d : Reg) (s : State) : Out :=
  let v := ((s.part s.myPart).norm n.toNat).value
  s.finish d (if s.mayUse s.me (16 + n.toNat) then wd (bits v (if high then 64 else 0) 64) else 0)

/-- NORMCLR, R280, R308: a register that is not the tenant's is not cleared. -/
def execNormclr (n : BitVec 4) (s : State) : Out :=
  let s1 := if s.mayUse s.me (16 + n.toNat) then
      s.modPart s.myPart fun p => { p with norms := Table.erase p.norms n.toNat, digests := Table.erase p.digests n.toNat }
    else s
  .next s1.advance

end Sys2Proof.Machine
end

