-- ==== Sys2Proof/Machine/Guard.lean ====
section
/-! DEFINITION. The guard of a slot edge (R330 to R333, R336, R353, R416) and the restore of the incoming tenant (R330, R331, R355). -/

namespace Sys2Proof.Machine

/-! ### Save areas of elements (R331) -/

/-- R331: the bytes of an element's save area. -/
def saveBytes : Nat := 32768

namespace State

/-- R331: where the save area of a place stands in an element: the top 32 KiB of its scratchpad window. -/
def saveAt (s : State) (e place : Nat) : Option Nat :=
  let w := s.placeWin e place
  if w.2 < saveBytes then none else some (w.1 + w.2 - saveBytes)

end State

/-- R331, R149: the cells of an accumulator, row by row, 4 bytes each. -/
def cellBytes (a : AccSt) : Nat := (a.cells.map fun c => c.2 % 2 ^ 32 * 2 ^ (32 * c.1)).sum
def cellsOfBytes (v : Nat) : Table Nat :=
  (List.range 1024).filterMap fun i => if bits v (32 * i) 32 = 0 then none else some (i, bits v (32 * i) 32)

/-- R331: the header of an element's save area (log entry 47): the tenant; the pass and cursor of the save; how many records of each kind the area
holds, and whether it has an active and a shadow plane; their plane words. -/
def saveHeader (x : ElemSt) (tenant captured : Nat) (when : Word) : Nat :=
  tenant + atByte 8 when.toNat + atByte 16 (x.store.length + x.combs.length + x.loops.length) + atByte 17 x.outq.length + atByte 18 x.scaleq.length +
    atByte 19 captured + atByte 20 x.reaps.length + atByte 22 x.spills.length + atByte 24 (b2n x.activeOf.isSome + 2 * b2n x.shadowOf.isSome) +
    atByte 32 (x.activeOf.getD 0).toNat + atByte 40 (x.shadowOf.getD 0).toNat

/-- R331: the first 192 bytes at 0x500 (log entry 47): FPC, FPF, the modulus file, the pass states, ITER and ACCRD. -/
def saveProgress (x : ElemSt) : Nat :=
  x.active.fpc + atByte 4 x.fpf + (x.modq.map fun q => atByte (8 + 8 * q.1) q.2).sum + atByte 0x88 (passWord (Table.getD x.accs 0 {})) +
    atByte 0x90 (passWord (Table.getD x.accs 1 {})) +
    (match x.iter with
      | some i => atByte 0x98 (i.slot + 2 ^ 8) + atByte 0xA0 (i.k + i.n * 2 ^ 16) + atByte 0xA8 i.tag.toNat
      | none => 0) +
    (match x.accrd with
      | some r => atByte 0xB0 (r.row + 2 ^ 8 + r.slot * 2 ^ 12) + atByte 0xB8 r.tag.toNat
      | none => 0)

/-- R331, R350: the slot and position in the record of a captured token; of one bound for a tile its port, at no position. -/
def boundPlace : Bound → Nat × Nat
  | .elem _ slot pos => (slot, pos)
  | .scale _ slot pos => (slot, pos)
  | .tile _ port => (port, 3)
  | .share _ => (0, 3)

/-- R331: the save area of an element. The last 64 bytes at 0x500, which are to hold the CTURN, BUFW and pending states, are free values (log
entries 6 and 47): these states are kept beside the area. -/
def saveArea (x : ElemSt) (tenant : Nat) (when : Word) (now : Nat) (free : Nat → Nat) : Nat :=
  saveHeader x tenant (min 8 x.captured.length) when + atByte 0x100 (recordOfPlane x.active) + atByte 0x300 (recordOfPlane x.shadow) +
    atByte 0x500 (saveProgress x) + ((List.range 8).map fun i => atByte (0x5C0 + 8 * i) (free i)).sum +
    packRecords 256 0x600 ((x.outq ++ x.scaleq).map fun o => outRecord o now) +
    packRecords 256 0xE00 ((x.captured.take 8).map fun f => tokenRecord f.token (boundPlace f.bound).1 (boundPlace f.bound).2 0 0 0) +
    atByte 0x1600 (cellBytes (Table.getD x.accs 0 {})) + atByte 0x2600 (cellBytes (Table.getD x.accs 1 {})) +
    packRecords 256 0x3600 (storeRecords x now) + packRecords 32 0x7600 (x.reaps.map reapRecord)

/-- R331: the element that a save area restores: everything that the area holds as its bytes say, the rest as it was kept. -/
def elemOfArea (kept : ElemSt) (now r : Nat) : ElemSt :=
  let nq := recBytes r 17 1
  let ns := recBytes r 18 1
  let q := someRecords r 0x600 256 (nq + ns)
  let accs := [0, 1].foldl (fun (t : Table AccSt) m =>
    Table.putD t m { (Table.getD t m {}).withPass (recBytes r (0x588 + 8 * m) 8) with
                     cells := cellsOfBytes (recBytes r (0x1600 + 0x1000 * m) 0x1000), appliedAt := 0 } {}) kept.accs
  let active := { planeOfRecord (recBytes r 0x100 512) with fpc := recBytes r 0x500 4 % 16 }
  let iw := recBytes r 0x598 8
  let x : ElemSt :=
    { kept with
      active := active, shadow := planeOfRecord (recBytes r 0x300 512),
      activeOf := if bits (recBytes r 24 8) 0 1 = 1 then some (wd (recBytes r 32 8)) else none,
      shadowOf := if bits (recBytes r 24 8) 1 1 = 1 then some (wd (recBytes r 40 8)) else none,
      fpf := recBytes r 0x504 4 % 64, fpfDue := [], fpDone := 0,
      modq := (List.range 16).filterMap fun n => if recBytes r (0x508 + 8 * n) 8 = 0 then none else some (n, recBytes r (0x508 + 8 * n) 8),
      outq := (q.take nq).map fun o => outOfRecord o now, scaleq := (q.drop nq).map fun o => outOfRecord o now,
      accs := accs,
      reaps := (someRecords r 0x7600 32 (recBytes r 20 1)).map reapOfRecord,
      iter := if bits iw 8 1 = 1 then kept.iter.map fun i =>
        { i with slot := bits iw 0 4, k := recBytes r 0x5A0 2, n := recBytes r 0x5A2 2, tag := wd (recBytes r 0x5A8 8), at_ := now } else none,
      accrd := accrdOfRecord active (kept.accrd.elim 0 fun a => a.fpc) now (recBytes r 0x5B0 8) (recBytes r 0x5B8 8),
      cturn := kept.cturn.map fun c => (c.1, { c.2 with at_ := now }),
      store := [], combs := [], loops := [], vcFree := 0, mxFree := 0, spFree := 0, mmaFree := 0, memDone := 0, doneAt := 0, captured := [], owed := [],
      spills := kept.spills.map fun z => { z with since := now - z.since } }
  let y := (someRecords r 0x3600 256 (recBytes r 16 1)).foldl (fun y t => loadRecord y now false t) x
  { y with store := y.store.map fun t => { t with retry := kept.store.any fun u => u.token == t.token && u.slot == t.slot && u.pos == t.pos && u.retry } }

namespace State

/-! ### The outgoing tenant (R330) -/

/-- The cores of a partition. -/
def partCores (s : State) (p : Nat) : List Nat := (List.range numCores).filter fun c => (s.part p).hasCore c

/-- R330, R416: the threads of a tenant that a guard stops: not those that run in supervisor mode. -/
def guardedThreads (s : State) (p t : Nat) : List Nat :=
  (List.filter (fun e : Nat × ThreadSt => s.partOf (coreOf e.1) == p && e.2.tenant == t && !e.2.mode && e.2.run != .free && e.2.run != .resting)
    s.threads).map (·.1)

/-- R333: a guard breaks an open hold, and OVERRUN becomes pending. -/
def breakHold (s : State) (k : Nat) : State :=
  if (s.thread k).hold.isNone then s
  else (s.modThread k fun x => { x with hold := none, broken := true }).postAsync k codeOVERRUN (s.headlandRec k codeOVERRUN 0 0 0) false

/-- R330, R205, R65: a core's data cache is written back, both level-1 caches are invalidated, predictors and return stacks cleared. -/
def clearCore (s : State) (c : Nat) : State :=
  let l := (s.core c).l1d
  let s1 := l.foldl (fun st x => st.l1WriteBack c x) (s.modCore c fun x => { x with l1d := [], l1i := [] })
  (List.range 4).foldl (fun st i =>
    let k := c * 4 + i
    if (st.thread k).predictor.isEmpty && (st.thread k).returns.isEmpty then st
    else st.modThread k fun x => { x with predictor := [], returns := [] }) s1

/-- R330: tokens on the network reach their elements where these take them; the others stay in the routers, where they are captured. -/
def settleGuard (s : State) (inSet : Nat → Bool) : State :=
  (s.flights.filter fun f => match boundElem f.2.bound with
    | some (e, _, _) => inSet e
    | none => false).foldl (fun st f =>
      match f.2.feed with
      | some (n, pl, r, j) => if (Table.find? st.flights f.1).isSome then st.feedArrive f.1 f.2 n pl r j else st
      | none => if st.overtakes f.1 f.2 then st else (st.arrive f.1 f.2).getD st) s

/-- R330: a token on the network is captured with element `e`: it is bound for it, or left it for a tile or the share unit. -/
def capturedWith (e : Nat) (f : FlightSt) : Bool :=
  match boundElem f.bound with
  | some (d, _, _) => d == e
  | none => f.src == e

/-- R330, R331: an element is saved, with the tokens captured in the network, and left empty. -/
def saveElem (s : State) (place tenant : Nat) (e : Nat) : State :=
  let x0 := s.elem e
  let mine := fun (f : Nat × FlightSt) => capturedWith e f.2
  let x := { x0 with fpf := x0.fpfDue.foldl (fun (m : Nat) (d : Nat × Nat) => m ||| d.2) x0.fpf, fpfDue := [],
                     captured := (s.flights.filter mine).map (·.2), spills := x0.spills.map fun z => { z with since := s.cycle - z.since } }
  let free := fun i => (Config.freeWord (s.freeCount + i)).toNat
  let s1 := match s.saveAt e place with
    | some a => { s with mem := Memory.write s.mem a saveBytes (saveArea x tenant s.when s.cycle free), freeCount := s.freeCount + 8 }
    | none => s
  { s1 with savedElems := Table.put s1.savedElems (e * 16 + place) x, elems := Table.erase s1.elems e,
            flights := s1.flights.filter fun f => !mine f }

/-- R330, R332: a tenant's shadow copy below another tenant's plane is saved, and the copy left empty. -/
def saveShadow (s : State) (place tenant : Nat) (e : Nat) : State :=
  let x := s.elem e
  { (s.modElem e fun y => { y with shadow := {}, shadowOf := none, shadowBy := 0 }) with
    savedElems := Table.put s.savedElems (e * 16 + place) { shadow := x.shadow, shadowOf := x.shadowOf, shadowBy := tenant, usedBy := some tenant } }

/-- R330, R332: the elements of a partition that a tenant's guard saves whole: those whose plane is the tenant's, and those without one that the
tenant has sown or configured. -/
def elemsOf (s : State) (p t : Nat) : List Nat :=
  (List.filter (fun e : Nat × ElemSt => s.elemPart e.1 == p &&
    ((e.2.activeOf.isSome && e.2.owner == t) || (e.2.activeOf.isNone && e.2.usedBy == some t))) s.elems).map (·.1)

/-- R98: how long a field has been idle, and since when a spill area of it has been full, stand still while its tenant rests. -/
def holdField (s : State) (f : FieldSt) : FieldSt :=
  { f with lastIssue := s.cycle - f.lastIssue, fullSince := f.fullSince.map fun c => s.cycle - c }

/-- R330, R345: the settle of a tenant's guard: mail and tokens on the network arrive, and the faults of its fields that have not been delivered are. -/
def settleTenant (s : State) (p t : Nat) : State :=
  let mine := s.elemsOf p t
  let s1 := (s.settleMail mine).settleGuard fun e => mine.contains e
  (List.filter (fun (f : Nat × FieldSt) => f.2.tenant == t && s.elemPart (f.1 / 256) == p) s1.fields).foldl (fun st f => st.postFault f.1) s1

/-- R330: the guard of a tenant: its threads stop and its fabric settles; caches are cleared, its threads saved, its elements saved and emptied. -/
def saveTenant (s : State) (p t : Nat) : State :=
  let place := (s.placeOf p t).getD 0
  let ks := s.guardedThreads p t
  let s1 := (ks.foldl (fun st k => (st.breakHold k).keepProgress k) s).settleTenant p t
  let s2 := (s.partCores p).foldl (fun st c => (st.drainCore c).clearCore c) s1
  let s3 := ks.foldl (fun st k => st.saveThread k) s2
  let mine := s3.elemsOf p t
  let below := (List.filter (fun e : Nat × ElemSt => s3.elemPart e.1 == p && e.2.shadowOf.isSome && e.2.shadowBy == t) s3.elems).map (·.1)
  let s5 := mine.foldl (fun st e => st.saveElem place t e) ((below.filter fun e => !mine.contains e).foldl (fun st e => st.saveShadow place t e) s3)
  let fs := s5.fields.map fun (f : Nat × FieldSt) => if f.2.tenant = t ∧ s.elemPart (f.1 / 256) = p then (f.1, s.holdField f.2) else f
  State.modPlace { s5 with fields := fs } p place fun x => { x with saved := true }

/-! ### Events for the hub (R336) -/

/-- R336: with GANG set the hub receives a guard or edge event. -/
def gangEvent (s : State) (p : Nat) (edge : Bool) (outgoing incoming : Nat) : State :=
  if (s.part p).gang then
    let n := match s.entryAt p s.cursor with
      | some e => e.1
      | none => 0
    let ev : HubEvent := { edge := edge, part := p, entry := n, outgoing := outgoing, incoming := incoming, pass := s.passNo, cursor := s.cursor }
    { s with hub := { s.hub with events := s.hub.events ++ [ev] } }
  else s

/-- R329: the tenant that runs after the edge that a guard precedes. -/
def incomingAt (s : State) (p : Nat) : Nat :=
  match s.donationIn p, s.stepsToEdge p 130 s.cursor 0 with
  | some d, steps =>
    if (steps.map s.cyclesTo).all fun e => decide (d < e) then
      match s.entryAt p s.cursor with
      | some e => rotDonee e.2
      | none => 0
    else afterSteps steps
  | none, steps => afterSteps steps
where
  afterSteps (n : Option Nat) : Nat :=
    match n with
    | none => s.running p
    | some k => if 4096 ≤ s.cursor + k ∧ s.wrapPending p then s.runningAfterWrap p else s.ownerAt p ((s.cursor + k) % 4096)

/-- R330: an edge is at most 1024 cycles away. -/
def edgeNear (s : State) (p : Nat) : Bool :=
  match s.edgeIn p with
  | some e => decide (e ≤ guardCycles)
  | none => false

/-- R328: 1024 cycles before a wrap a rider lets what waits for it pass over. -/
def heldUpNow (s : State) (p : Nat) : Bool :=
  s.tableWaits p && (s.part p).armSkip != some s.passNo && s.wrapHeldUp p && decide (s.wrapIn ≤ guardCycles)

/-- R328, R330: a guard is due, or it is settled that what waits passes over the coming wrap. -/
def guardDue (s : State) (p : Nat) : Bool := (s.part p).dies != 0 && !(s.part p).inGuard && (s.edgeNear p || s.heldUpNow p)

/-- R328, R353: what waits passes over the coming wrap: for a rider, or because the edge is its alone and a hold of the running tenant is still open. -/
def guardSkips (s : State) (p : Nat) : Bool :=
  let far := { s with parts := Table.put s.parts p { s.part p with armSkip := some s.passNo } }
  s.heldUpNow p || (s.wrapPending p && !far.edgeNear p &&
    s.threads.any fun k => s.partOf (coreOf k.1) == p && k.2.tenant == s.running p && !k.2.mode && k.2.hold.isSome)

/-! ### The incoming tenant (R330, R331, R355) -/

/-- R331: a captured token as its record in the save area says: with the token and the place of the record, on the flight that was captured; a record
beside those is a token that comes from the element itself. -/
def capturedOf (e now : Nat) (kept : Option FlightSt) (r : Nat) : FlightSt :=
  let f := kept.getD { src := e, bound := .elem e 0 0, token := recordToken r, at_ := now, issued := now }
  let b := match f.bound with
    | .elem d _ _ => Bound.elem d (recSlot r % 16) (recPos r)
    | .scale d _ _ => Bound.scale d (recSlot r % 16) (recPos r)
    | b => b
  { f with bound := b, token := recordToken r }

/-- R330, R331: the captured tokens of a saved element, as its area holds them; of more than eight, the others as they were captured. -/
def capturedBack (e now : Nat) (kept : List FlightSt) (r : Nat) : List FlightSt :=
  let n := min 8 (recBytes r 19 1)
  ((List.range n).map fun i => capturedOf e now kept[i]? (recBytes r (0xE00 + 256 * i) 256)) ++ kept.drop 8

/-- R330: captured tokens return to their routers. -/
def returnFlights (s : State) (l : List FlightSt) : State :=
  l.foldl (fun st f => { st with flights := Table.put st.flights st.flightNext f, flightNext := st.flightNext + 1 }) s

/-- R330, R331: a saved element is reloaded, and the tokens captured with it return as its area holds them. Below another tenant's plane a
shadow copy alone comes back. -/
def restoreElem (s : State) (place : Nat) (k : Nat × ElemSt) : State :=
  let e := k.1 / 16
  let s0 := { s with savedElems := Table.erase s.savedElems k.1 }
  if (s.elem e).activeOf.isSome then
    s0.modElem e fun x => { x with shadow := k.2.shadow, shadowOf := k.2.shadowOf, shadowBy := k.2.shadowBy }
  else match s.saveAt e place with
    | none => (s0.setElem e { k.2 with captured := [], owed := [] }).returnFlights (k.2.captured ++ k.2.owed)
    | some a =>
      let r := Memory.read s.mem a saveBytes
      (s0.setElem e (elemOfArea k.2 s.cycle r)).returnFlights (capturedBack e s.cycle k.2.captured r ++ k.2.owed)

/-- R103, R165, R337: tokens of a mailbox go to the threads that wait for one in RECV, in the order in which these issued. -/
def serveRecv (s : State) (c pl : Nat) : State :=
  (List.range 4).foldl (fun st _ =>
    match st.recvWaiter c pl, (st.corePlace c pl).mailbox with
    | some k, t :: rest => (st.modCorePlace c pl fun x => { x with mailbox := rest }).release k (t.payload.setWidth 64)
    | _, _ => st) s

/-- R330, R355, R236: a tenant is restored: its elements, which load the limits of its edge window, and its threads with the edits made to their
records; a RECV that waits beside a token takes it. -/
def restoreTenant (s : State) (p t : Nat) : State :=
  match s.placeOf p t with
  | none => s
  | some place =>
    let ks := (List.filter (fun e : Nat × ThreadSt => s.partOf (coreOf e.1) == p && e.2.tenant == t && !e.2.mode &&
      (e.2.run == .resting || (e.2.run == .stopped && (s.place p place).saved))) s.threads).map (·.1)
    let es := List.filter (fun e : Nat × ElemSt => s.elemPart (e.1 / 16) == p && e.1 % 16 == place) s.savedElems
    let s1 := es.foldl (fun st e => st.restoreElem place e) s
    let fs := s1.fields.map fun (f : Nat × FieldSt) => if f.2.tenant = t ∧ s.elemPart (f.1 / 256) = p ∧ (s.place p place).saved then
      (f.1, s.holdField f.2) else f
    let s2 := ks.foldl (fun st k => st.restoreThread k) { s1 with fields := fs }
    let s3 := (s.partCores p).foldl (fun st c => st.serveRecv c place) s2
    s3.modPlace p place fun x => { x with saved := false, edgeHeld := x.tedge }

end State

/-- GUARD, R330 to R333, R336, R353, R416: the guard of the slot edge ahead of a partition begins. -/
def execGuard (s : State) : Out :=
  let p := s.focus.part
  if !s.guardDue p then .refused .notEnabled
  else if s.guardSkips p then .next (s.modPart p fun x => { x with armSkip := some s.passNo })
  else
    let t := s.running p
    let s1 := State.modPart (if t = 0 then (s.partCores p).foldl (fun st c => (st.drainCore c).clearCore c) s else s.saveTenant p t) p
      fun x => { x with inGuard := true }
    .next (s1.gangEvent p false t (s.incomingAt p))

end Sys2Proof.Machine
end

