-- ==== Sys2Proof/Machine/Boundary.lean ====
section
/-! DEFINITION. The step boundary (R186): alighting (R191, R197, R213, R217, R218, R281), what takes effect at a wrap (R187, R328, R362, R392),
the slot edge (R329, R330, R336), boarding (R191, R279, R282, R390) and admission (R193 to R195, R218, R303); and the commit of a row (R256)
and the end of a TLB invalidation (R209). -/

namespace Sys2Proof.Machine

namespace State

/-! ### Completion (R197, R213, R252) -/

/-- A doubleword is written at a byte address of a local memory or a scratchpad. -/
def writeDirect (s : State) (a : Nat) (v : Word) : State :=
  if scratchBase 0 ≤ a then (s.takePort ((a - scratchBase 0) / scratchBytes) 8).scratchWrite a 8 v.toNat
  else s.writeTarget ((a - localBase 0) / 2 ^ 19) 0 { addr := a, isLocal := true, uncached := false } 8 v.toNat

/-- R330, R332: a token of tenant `t` that no element of its field sends enters the network. While the tenant's element is saved it waits with it; another
tenant's plane never receives it (log entry 124). -/
def launchFor (s : State) (t : Nat) (f : FlightSt) : State :=
  let e := match boundElem f.bound with
    | some (d, _, _) => d
    | none => f.src
  let key := e * 16 + (s.placeOf (s.elemPart e) t).getD 0
  if (s.elem e).activeOf.isSome ∧ (s.elem e).owner = t then s.launch f
  else match Table.find? s.savedElems key with
    | some y => { s with savedElems := Table.put s.savedElems key { y with owed := y.owed ++ [f] } }
    | none => if (s.elem e).activeOf.isSome then s else s.launch f

/-- R197, R252: the completion value goes where the request says: a doubleword, or a data token on a route. -/
def complete (s : State) (core tenant : Nat) (done : DoneAt) (v : Word) (elem : Nat) (tag : Tag) (width : Nat) : State :=
  match done with
  | .direct a => s.writeDirect a v
  | .translated pa uc => s.writeTarget core tenant { addr := pa, isLocal := false, uncached := uc } 8 v.toNat
  | .route w =>
    let b := routeBound elem (wd (elemDie elem * 2 ^ 10)) w
    let t := mkToken tag kData (64 / laneWidth width) width v.toNat
    s.launchFor tenant { src := elem, bound := b, token := t, at_ := s.cycle + hops elem b + flits t }

/-- R217, R218: what a rider's plots deliver at its end: counts and sums. -/
def finalPayload (s : State) (r : RiderSt) : State :=
  let c := r.card
  (plotsOf c).foldl (fun st p =>
    match r.kind with
    | 1 => st.deliver r p (cardDoff c) 8 (Table.getD r.counts p 0)
    | 2 =>
      let w := if isVecFloat (cardFmt c) then 32 else 64
      let xs := Table.getD r.accs p (List.replicate (sumElems c) 0)
      st.deliver r p (cardDoff c) (sumElems c * w / 8) (numOfLanes w xs)
    | _ => st) s

/-- R219, R330: an EOS token of a FEED leaves a plot for its tenant's plane below. While the tenant rests it waits with the saved element. One for a position
that no slot of the plane reads is dropped, which NEVER counts (log entry 110): the answer is then false. -/
def eosLeaves (s : State) (r : RiderSt) (p slot pos : Nat) (t : Token) : State × Bool :=
  let f : FlightSt := { src := 2 ^ 18 + p, bound := .elem p slot pos, token := t, at_ := s.cycle + 1 }
  let x := s.elem p
  let key := p * 16 + r.place
  if x.activeOf.isSome ∧ x.owner = r.tenant then (if x.active.reads slot pos then (s.launch f, true) else (s, false))
  else match Table.find? s.savedElems key with
    | some y => if y.active.reads slot pos then ({ s with savedElems := Table.put s.savedElems key { y with owed := y.owed ++ [f] } }, true) else (s, false)
    | none => (s, false)

/-- R219: the EOS tokens of a FEED that asks for them. -/
def finalEos (s : State) (r : RiderSt) : State × RiderSt :=
  let c := r.card
  if r.kind = 3 ∧ cardImm1 c % 2 = 1 ∧ !r.cancelled then
    let tag : Tag := setTagIx (cw c 2) (cardNrank c * feedCount c % 256)
    let t := eosToken tag ((s.colourWidth r.part (tagColour tag)).getD 5)
    (plotsOf c).foldl (fun (st : State × RiderSt) p =>
      let x := st.1.eosLeaves r p (fld (cardDest c) 48 4) (fld (cardDest c) 46 2) t
      (x.1, if x.2 then st.2 else { st.2 with dropped := (p, 4096) :: st.2.dropped })) (s, r)
  else (s, r)

/-- R120, R281: a norm register after a rider's partial. -/
def addPartial (n : NormSt) (r : RiderSt) : NormSt :=
  if r.normInf ∨ 2 ^ 128 ≤ n.value + r.normPart then { value := 2 ^ 128 - 1, sat := true } else { n with value := n.value + r.normPart }

/-- R281, R283, R296: a rider's partials are added, and NSAT is set where SAT then is. -/
def addPartials (s : State) (r : RiderSt) : State × RiderSt :=
  let c := r.card
  let n := cardNorm c
  let p := s.part r.part
  let v := if cardNormen c then addPartial (p.norm n) r else p.norm n
  let p1 := if cardNormen c then { p with norms := Table.putD p.norms n v {} } else p
  let p2 := if cardDig c then { p1 with digests := Table.putD p1.digests n ((p.digest n + r.digPart) % 2 ^ 128) 0 } else p1
  (s.setPart r.part p2, if cardNormen c && v.sat then { r with status := r.status ||| 2 ^ 30 } else r)

/-- R196: LATE and NEVER: rank visits delivered on the second pass, and never. -/
def neverAt (r : RiderSt) : List (Nat × Nat) := (r.again ++ r.twice ++ r.dropped).dedup
def lateOf (r : RiderSt) : Nat := (r.refused.filter fun x => !(neverAt r).contains (x.1, x.2.1)).length
def neverOf (r : RiderSt) : Nat := (neverAt r).length

/-- R213, R296: STATUS at the end of a ride. -/
def statusWord (r : RiderSt) : Word :=
  wd (r.status % 2 ^ 32 + (if r.cancelled && !r.status.testBit 11 then 2 ^ 11 else 0) + min (lateOf r) 65535 * 2 ^ 32 +
    min (neverOf r) 65535 * 2 ^ 48)

/-- R191, R197, R213, R220: a ride ends: what its plots deliver, its norm and digest, STATUS, the completion value, and then the release of
its pins and entries. -/
def endRide (s : State) (n : Nat) (r : RiderSt) : State :=
  let y := (s.finalPayload r).finalEos r
  let x := y.1.addPartials y.2
  let s2 := x.1.writeDirect (r.cardAt + 56) (statusWord x.2)
  let s3 := s2.complete r.core r.tenant r.done r.value r.elem r.tag r.width
  let s4 := if r.pinned then s3.unpin (dieOfCore r.core) r.pins else s3
  { s4 with riders := Table.erase s4.riders n }

/-- R191, R196, R220, R363: at a boundary a rider ends, goes on for a second pass, or rides on. -/
def alightOne (s : State) (x : Nat × RiderSt) : State :=
  let r := x.2
  if r.cancelled || rideOver r s.stepNo then s.endRide x.1 r
  else if r.s0 + 4096 ≤ s.stepNo ∧ !r.second ∧ !r.refused.isEmpty then { s with riders := Table.put s.riders x.1 { r with second := true } }
  else s

/-- R192: the riders aboard, in precedence order. -/
def aboard (s : State) : List (Nat × RiderSt) := byKey (List.filter (fun x : Nat × RiderSt => x.2.phase == .aboard) s.riders)

/-- R191: the riders whose rides end alight, in precedence order. -/
def alightAll (s : State) : State := s.aboard.foldl (fun st x => st.alightOne x) s

/-- R196: FEED tokens of the step that ends are delivered or refused. -/
def settleFeeds (s : State) : State :=
  s.flights.foldl (fun st f => match f.2.feed with
    | some (n, p, r, j) => if (Table.find? st.flights f.1).isSome then st.feedArrive f.1 f.2 n p r j else st
    | none => st) s

/-! ### What a wrap brings (R187, R328, R392) -/

/-- R186, R187, R382: the cursor, the pass and, at a wrap, the sweep state. -/
def advanceSweep (s : State) : State :=
  if s.cursor = 4095 then
    let s1 := { s with cursor := 0, passNo := s.passNo + 1, stepCyc := 0 }
    match s.sweepNext with
    | some x => if s.sweepPass ≤ s1.passNo then { s1 with sweep := x, sweepNext := none, sweepPass := 0 } else s1
    | none => s1
  else { s with cursor := s.cursor + 1, stepCyc := 0 }

/-- R328, R337: the state with what waits for the wrap after the coming one brought forward to it. -/
def broughtForward (s : State) (p : Nat) : State :=
  s.modPart p fun x => { x with arm := x.arm || x.armedNext.isSome, armed := x.armedNext.getD x.armed, armedNext := none,
                                sole := x.soleNext.getD x.sole, soleNext := none }

/-- R328: what waits for a wrap changes the ranks of tenant `t`, whose new requests wait. -/
def ranksWait (s : State) (p t : Nat) : Bool := s.rankPending p t || (s.broughtForward p).rankPending p t

/-- R328: no rider of a tenant whose ranks change is aboard or about to board. -/
def tableFree (s : State) (p : Nat) : Bool :=
  s.riders.all fun r => !(r.2.part == p && r.2.phase != .waiting && r.2.tenant != 0 && s.rankPending p r.2.tenant)

/-- R328: at a wrap an accepted table, or a written SOLE, takes effect. -/
def takeTable (s : State) (p : Nat) : State :=
  let x := s.part p
  if x.armSkip = some (s.passNo - 1) ∨ !s.tableFree p then s
  else if x.arm then
    let on := !(validEntries x.armed).isEmpty
    s.setPart p { x with arm := false, on := on, active := x.armed, donation := none, soleNow := if on then x.soleNow else x.sole }
  else if !x.on ∧ x.sole ≠ x.soleNow then s.setPart p { x with soleNow := x.sole }
  else s

/-- R328, R337: a wrap: what waited for it takes effect, and what came too late for it waits for the next. -/
def tableEffect (s : State) (p : Nat) : State := (s.takeTable p).broughtForward p

/-- R333: a donation comes into force at its edge and ends with its slot, at the wrap at the latest. -/
def donationEffect (s : State) (p : Nat) : State :=
  match (s.part p).donation with
  | none => s
  | some d =>
    if s.cursor = 0 ∨ (s.entryAt p s.cursor).map (·.1) ≠ some d.entry then s.modPart p fun x => { x with donation := none }
    else if !d.inForce && d.pass * 4096 + d.cursor ≤ s.stepNo then s.modPart p fun x => { x with donation := some { d with inForce := true } }
    else s

/-- R256, R392: at a wrap a checkpoint that has been asked for freezes the selectors, and one that is acknowledged releases them. A checkpoint waits
for durability: accepted rows are committed, and rows of a parking buffer hold it up until they can be. -/
def checkpointEffect (s : State) : State :=
  let c := s.hub.copy
  match s.hub.ckpt with
  | .none => s
  | .frozen => { s with hub := { s.hub with copy := { c with left := c.share } } }
  | .asked =>
    if s.parkedRows.isEmpty then { s with hub := { s.hub with ckpt := .frozen, copy := { c with left := c.share } }, rowBufs := [] } else s
  | .acked => if s.parkedRows.isEmpty then { s with hub := { s.hub with ckpt := .none }, rowBufs := [] } else s

/-- R278, R392: the logical current copies of a rank that the sweep reads, of the layers in a mask: the rows that are not 0. -/
def currentRows (s : State) (mask rank : Nat) : Table Nat :=
  (List.range numElems).flatMap fun p => if (s.plot p).power != .active then [] else
    ((List.range 8).filter mask.testBit).filterMap fun l =>
      let phys := s.logicalLayer p l rank
      let v := s.readRow p phys rank 0 2048
      if (s.layer (elemDie p) phys).mode == .swept && v != 0 then some (rowKey p l rank, v) else none

/-- R392: while a checkpoint holds the selectors, the tier takes the rank that the sweep now reads, if it is the next one and the pass has egress left; and, in
the first pass, the next 32 MiB of hub memory (log entry 139). -/
def tierStep (s : State) : State :=
  let c := s.hub.copy
  if s.hub.ckpt != .frozen then s
  else
    let c1 := if c.piece = s.cursor then
        { c with piece := c.piece + 1, mem := c.mem ++ s.mem.filter fun x => decide (c.piece * 2 ^ 25 ≤ x.1) && decide (x.1 < (c.piece + 1) * 2 ^ 25) }
      else c
    let c2 := if c1.rank = s.cursor ∧ 0 < c1.left then
        { c1 with rank := c1.rank + 1, left := c1.left - 1, rows := c1.rows ++ s.currentRows c1.mask s.cursor }
      else c1
    { s with hub := { s.hub with copy := c2 } }

/-- R392: the selectors are frozen. -/
def frozen (s : State) : Bool := s.hub.ckpt == .frozen || s.hub.ckpt == .acked

/-! ### Layers and plots (R292, R362 to R365) -/

/-- R363: a rider's mask names a physical layer of a die on some rank of its region. -/
def namesLayer (s : State) (n : Nat) (r : RiderSt) (die phys : Nat) : Bool :=
  !seedDrop r && (cardDies r.card).testBit die &&
    ((layersOf r.card).any fun l => l / 2 == phys / 2 && ((plotsOf r.card).any fun p =>
      elemDie p == die && (List.range 4096).any fun k => (s.rankIndex r.part r.tenant r.card k).isSome &&
        (s.physLayer (precKey n r) p l k == phys || (cardTwin r.card && s.physLayer (precKey n r) p (l + 1) k == phys))))

/-- R213: marks a status bit in every rider aboard whose region holds a layer. -/
def markRiders (s : State) (die phys bit : Nat) : State :=
  { s with riders := s.riders.map fun x =>
      if x.2.phase == .aboard && s.namesLayer x.1 x.2 die phys then (x.1, { x.2 with status := x.2.status ||| 2 ^ bit }) else x }

/-- R344: a notice about a layer to every core of a die. -/
def layerNotice (s : State) (die phys kind : Nat) (d0 d1 : Word) : State :=
  (List.range 8).foldl (fun st i => st.notice (die * 8 + i) kind (if kind = 9 then 0x10 else 0) 0 0 0 phys 0 d0 d1) s

/-- The accepted rows of a physical layer of a die. -/
def layerRows (die phys : Nat) (k : Nat) : Bool := elemDie (rowPlot k) == die && rowLayer k == phys

/-- R344, R363: the riders that a parked layer holds: those that name it and have missed a visit on its die. -/
def ridersOn (s : State) (die phys : Nat) : Nat :=
  (List.filter (fun x : Nat × RiderSt => x.2.phase == .aboard && x.2.held.any (fun h => elemDie h.1 == die) && s.namesLayer x.1 x.2 die phys)
    s.riders).length

/-- R274: rows go to the parking buffers, which hold four of a plot (log entry 115); one without a place there is committed. -/
def parkRows (s : State) (rows : List Nat) : State :=
  { s with rowBufs := List.filter (fun x : Nat × Nat => !rows.contains x.1) s.rowBufs,
           parkedRows := rows.foldl (fun l k => if l.contains k || 4 ≤ (l.filter fun x => rowPlot x == rowPlot k).length then l else l ++ [k])
             s.parkedRows }

/-- R256, R362: rows of a parking buffer whose layer is swept and whose plot is awake are committed. -/
def commitParked (s : State) : State :=
  { s with parkedRows := s.parkedRows.filter fun k => (s.layer (elemDie (rowPlot k)) (rowLayer k)).mode != .swept || (s.plot (rowPlot k)).power != .active }

/-- R362: a layer is parked. An immediate park keeps its accepted rows in the parking buffers; a deferred one has committed them. -/
def parkLayer (s : State) (die phys : Nat) (immediate : Bool) : State :=
  let rows := (List.filter (fun x : Nat × Nat => layerRows die phys x.1) s.rowBufs).map (·.1)
  let s1 := if immediate then s.parkRows rows else { s with rowBufs := List.filter (fun x : Nat × Nat => !layerRows die phys x.1) s.rowBufs }
  let n := s.ridersOn die phys
  ((s1.modLayer die phys fun x => { x with mode := .parked, parkNext := false, unparkNext := false }).markRiders die phys 9).layerNotice die phys 7
    (wd (s.layer die phys).temp) (wd n)

/-- R362: a layer is unparked: the rows of its parking buffers are committed within the pass. -/
def unparkLayer (s : State) (die phys : Nat) : State :=
  (s.modLayer die phys fun x => { x with mode := .swept, unparkNext := false, parkedNs := 0, coolFrom := none }).layerNotice die phys 8
    (wd (s.layer die phys).temp) (wd (s.ridersOn die phys))

/-- R187: nanoseconds of a step. -/
def stepNs : SweepState → Nat
  | .p0 => 512
  | .p1 | .p2 => 1024
  | .p3 => 2048
  | .p4 => 3072

/-- R362: deferred parks at every boundary; at a wrap rows of layers unparked a pass ago are committed, and layers are unparked. A parked layer's
time in the park is counted. -/
def layerEffects (s : State) : State :=
  s.layers.foldl (fun st x =>
    let d := x.1 / 8
    let l := x.1 % 8
    let s1 := if x.2.mode == .parked then st.modLayer d l fun y => { y with parkedNs := y.parkedNs + stepNs s.sweep } else st
    let s2 := if x.2.parkNext && x.2.mode == .swept then s1.parkLayer d l false else s1
    if x.2.unparkNext && x.2.mode == .parked && s.cursor == 0 then s2.unparkLayer d l else s2) (if s.cursor = 0 then s.commitParked else s)

/-- R292: a rider aboard a plot has live accumulators there. -/
def liveAccs (s : State) (plot : Nat) : Bool :=
  s.riders.any fun r => r.2.phase == .aboard && plotIn r.2.card plot && (r.2.kind == 2 || cardNormen r.2.card || cardDig r.2.card)

/-- R292, R363, R365: a rider aboard has missed a visit in a plot. -/
def heldIn (s : State) (plot : Nat) : Bool := s.riders.any fun r => r.2.phase == .aboard && r.2.held.any fun h => h.1 == plot

/-- R213, R292: the riders aboard a plot are parked with it. -/
def markParked (s : State) (plot : Nat) : State :=
  { s with riders := s.riders.map fun x =>
      if x.2.phase == .aboard && plotIn x.2.card plot then (x.1, { x.2 with status := x.2.status ||| 2 ^ 9 }) else x }

/-- R274, R292: a plot goes to a power state. Its accepted rows go to the array or, on a trip, to its parking buffer; the riders aboard it are
parked. -/
def setPower (s : State) (plot : Nat) (x : PowerState) (trip : Bool) : State :=
  let rows := (List.filter (fun y : Nat × Nat => rowPlot y.1 == plot) s.rowBufs).map (·.1)
  let s1 := if trip then s.parkRows rows else { s with rowBufs := List.filter (fun y : Nat × Nat => rowPlot y.1 != plot) s.rowBufs }
  (if x = .active then s1 else s1.markParked plot).setPlot plot { power := x, deferred := none }

/-- R292, R365: a deferred power request is carried out once no rider with live accumulators, and none held, is aboard, or after a pass. -/
def powerEffects (s : State) : State :=
  s.plots.foldl (fun st x => match x.2.deferred with
    | some (y, at_) => if (!s.liveAccs x.1 && !s.heldIn x.1) || at_ + 4096 ≤ s.stepNo then st.setPower x.1 y false else st
    | none => st) s

/-! ### The slot edge (R329, R330, R336) -/

/-- R329, R330, R336: the edge of a partition: the tenant that runs from here on is restored. -/
def slotEdge (s : State) (p outgoing : Nat) : State :=
  let t := s.running p
  let s1 := s.modPart p fun x => { x with inGuard := false }
  let s2 := if t = 0 then s1 else s1.restoreTenant p t
  s2.gangEvent p true outgoing t

/-! ### Boarding (R191, R279, R282, R390) -/

/-- R279: a TCOMMIT flips, and a TABORT clears, every pending pair of its region. -/
def twinEffect (s : State) (n : Nat) (r : RiderSt) (commit : Bool) : State :=
  let key := precKey n r
  { s with twins := s.twins.map fun (x : Nat × TwinSt) =>
      let plot := x.1 / 4096 / 4
      let pair := x.1 / 4096 % 4
      if x.2.pend && plotIn r.card plot && (s.rankIndex r.part r.tenant r.card (x.1 % 4096)).isSome && (layersOf r.card).contains (2 * pair) then
        (x.1, { sel := if commit then !x.2.sel else x.2.sel, pend := false, flip := if commit then key else x.2.flip })
      else x }

/-- Twin states that equal the one at reset are not listed. -/
def tidyTwins (s : State) : State := { s with twins := List.filter (fun x : Nat × TwinSt => x.2 != {}) s.twins }

/-- R279, R307, R390: a TCOMMIT or TABORT boards: it acts, and completes with status 0. DIVMARK makes a TCOMMIT abort, and is cleared. -/
def boardTwin (s : State) (n : Nat) (r : RiderSt) : State :=
  let div := (s.place r.part r.place).divmark
  let s1 := (s.twinEffect n r (r.kind == 10 && !div)).tidyTwins
  let s2 := if div then s1.modPlace r.part r.place fun x => { x with divmark := false } else s1
  let s3 := s2.modPart r.part fun x => { x with twinOps := (r.tenant, precKey n r, r.card) :: x.twinOps }
  State.answer { s3 with riders := Table.erase s3.riders n } n r 0

/-- R191, R282: a rider boards, and a clipped one takes its factor. -/
def boardOne (s : State) (x : Nat × RiderSt) : State :=
  let r := x.2
  if 10 ≤ r.kind then s.boardTwin x.1 r
  else
    let clip := if r.kind = 4 ∧ clipped (cardOp r.card) then clipFactor r.card ((s.part r.part).norm (cardNorm r.card)) else (0, 0)
    let r1 := { r with phase := .aboard, clip := clip.1, status := r.status ||| clip.2 }
    State.answer { s with riders := Table.put s.riders x.1 r1 } x.1 r r.id

/-- R279: the requests of `l` leave a TCOMMIT or TABORT free to act: no twin-target rider of them meets its region, and no rider aboard that boarded
before the tenant's previous one; `queued` says that an earlier one of the tenant has not boarded yet. -/
def twinOpen (s : State) (r : RiderSt) (queued : Bool) (l : List (Nat × RiderSt)) : Bool :=
  let prior := (List.find? (fun (o : Nat × List Nat × List Word) => o.1 == r.tenant && s.regionsMeet r.part r.tenant r.card r.part o.1 o.2.2)
    (s.part r.part).twinOps).map fun o => o.2.1
  !s.frozen && (r.waitDig.all fun n => (Table.find? s.colls n).isNone) &&
    l.all fun x => decide (10 ≤ x.2.kind) || !(cardTwin x.2.card || (x.2.phase == .aboard && (queued || match prior with
      | some k => keyLt (precKey x.1 x.2) k
      | none => false)))

/-- R279: the requests of a phase whose regions meet that of a TCOMMIT or TABORT. -/
def meeting (s : State) (r : RiderSt) (l : List (Nat × RiderSt)) : List (Nat × RiderSt) :=
  l.filter fun x => x.2.part == r.part && s.regionsMeet r.part r.tenant r.card x.2.part x.2.tenant x.2.card

/-- The riders of a phase. -/
def inPhase (s : State) (ph : RiderPhase) : List (Nat × RiderSt) := List.filter (fun x : Nat × RiderSt => x.2.phase == ph) s.riders

/-- R195, R279: a TCOMMIT or TABORT of a tenant that joined the queue before request `n`, meets its region, and has not boarded. -/
def twinsBefore (s : State) (n : Nat) (r : RiderSt) : List (Nat × RiderSt) :=
  (s.meeting r (s.inPhase .admitted)).filter fun x => decide (10 ≤ x.2.kind) && x.2.tenant == r.tenant && decide (x.1 < n)

/-- R279, R390, R392: the admitted TCOMMIT or TABORT `n` can board. -/
def twinBoards (s : State) (n : Nat) (r : RiderSt) : Bool :=
  s.twinOpen r (!(s.twinsBefore n r).isEmpty) (s.meeting r (s.inPhase .aboard))

/-- R195, R279: an admitted request boards now, if it is no TCOMMIT or TABORT that must still wait, and stands behind none in its queue. -/
def boards (s : State) (n : Nat) (r : RiderSt) : Bool :=
  if 10 ≤ r.kind then s.twinBoards n r else (s.twinsBefore n r).all fun x => s.twinBoards x.1 x.2

/-- R191, R192, R279: the requests that board at this boundary, in precedence order. -/
def boardAll (s : State) : State :=
  let ready := (List.filter (fun x : Nat × RiderSt => x.2.phase == .admitted && decide (x.2.admittedAt + 16 ≤ s.cycle)) s.riders).map fun x =>
    (x.1, { x.2 with s0 := s.stepNo, b := s.cursor })
  (byKey ready).foldl (fun st x => if st.boards x.1 x.2 then st.boardOne x else st) s

/-! ### Admission (R193 to R195, R210, R218, R279, R303, R328, R390) -/

/-- The riders that hold room: aboard or admitted. -/
def holders (s : State) : List (Nat × RiderSt) := List.filter (fun x : Nat × RiderSt => x.2.phase != .waiting) s.riders

/-- R279, R292, R390, R392: a TCOMMIT or TABORT may be admitted. -/
def twinFits (s : State) (r : RiderSt) : Bool :=
  let others := s.meeting r s.holders
  let queued := others.any fun x => decide (10 ≤ x.2.kind) && x.2.tenant == r.tenant
  !s.ranksWait r.part r.tenant && s.twinOpen r queued others

/-- R279: a twin-target request behind a TCOMMIT or TABORT of its tenant's that has not boarded. -/
def behindTwin (s : State) (r : RiderSt) : Bool :=
  cardTwin r.card && (s.meeting r s.holders).any fun x => decide (10 ≤ x.2.kind) && x.2.tenant == r.tenant

/-- R194, R196, R303: what a rider costs on a rank of a plot. -/
def costAt (s : State) (r : RiderSt) (plot rank : Nat) : Nat × Nat :=
  if decide (10 ≤ r.kind) || !plotIn r.card plot then (0, 0)
  else if seedDrop r then riderCost 6 r.card
  else if r.second then if r.refused.any (fun x => x.1 == plot && x.2.1 == rank) then riderCost r.kind r.card else (0, 0)
  else if (s.rankIndex r.part r.tenant r.card rank).isSome then riderCost r.kind r.card else (0, 0)

/-- R194: on every rank and in every plot of a region the costs fit both budgets. -/
def budgetsFit (s : State) (r : RiderSt) : Bool :=
  (plotsOf r.card).all fun p =>
    let others := s.holders.filter fun x => decide (x.2.kind < 10) && plotIn x.2.card p
    let total := fun (f : RiderSt → Nat × Nat) => others.foldl (fun (m : Nat × Nat) x => (m.1 + (f x.2).1, m.2 + (f x.2).2)) (riderCost r.kind r.card)
    let ok := fun (m : Nat × Nat) => decide (m.1 ≤ datapathBudget) && decide (m.2 ≤ downwardBudget)
    ok (total fun q => riderCost q.kind q.card) ||
      (List.range 4096).all fun k => !(seedDrop r || (s.rankIndex r.part r.tenant r.card k).isSome) || ok (total fun q => s.costAt q p k)

/-- R193, R218, R303, R334: every share unit of a region has a free rider-table entry within quota, accumulators, and no other seed drop
where this is one. -/
def entriesFit (s : State) (r : RiderSt) : Bool :=
  let quota := if r.place = 0 then 0 else fld (s.place r.part r.place).tquota 16 6
  (plotsOf r.card).all fun p =>
    let others := s.holders.filter fun x => decide (x.2.kind < 10) && plotIn x.2.card p
    let mine := others.filter fun x => x.2.part == r.part && x.2.tenant == r.tenant
    decide (others.length < 32) && (quota == 0 || decide (mine.length < quota)) &&
      decide ((others.map fun x => sumBytes x.2.kind x.2.card).sum + sumBytes r.kind r.card ≤ 4096) &&
      !(seedDrop r && others.any fun x => seedDrop x.2)

/-- R292, R363: every plot of a region is awake and no layer that its mask names is parked. -/
def regionAwake (s : State) (n : Nat) (r : RiderSt) : Bool :=
  (plotsOf r.card).all (fun p => (s.plot p).power == .active) &&
    s.layers.all fun x => x.2.mode != .parked || !s.namesLayer n { r with s0 := s.stepNo } (x.1 / 8) (x.1 % 8)

/-- R194, R195, R210: the request at the head of a queue fits: the state with its pins. -/
def riderFits (s : State) (n : Nat) (r : RiderSt) : Option State :=
  if !s.regionAwake n r then none
  else if 10 ≤ r.kind then (if s.twinFits r then some s else none)
  else if s.ranksWait r.part r.tenant || s.behindTwin r || !s.entriesFit r || !s.budgetsFit r then none
  else if r.pinned then some s
  else s.pinAll (dieOfCore r.core) (s.tlbQuota r.part r.place) r.pins

/-- R195, R215: a request is admitted: its thread goes on, with gd pending. -/
def admitRider (s : State) (n : Nat) (r : RiderSt) : State :=
  let s1 := { s with riders := Table.put s.riders n { r with phase := .admitted, admittedAt := s.cycle, pinned := true } }
  if r.source = 4 ∨ 10 ≤ r.kind then s1
  else
    let t := s.thread r.thread
    if t.wait.code != .admission || t.wait.id != n then s1
    else if t.run = .resting then s1.modThread r.thread fun x => { x with boardGd := some (r.gd, n) }
    else if t.run = .waiting then
      s1.modThread r.thread fun x => { x with run := .ready, wait := {}, pc := x.pc + 4, boardGd := some (r.gd, n) }
    else s1

/-- R215, R328: a request whose ranks the tenant has lost while it waited is refused with reason 5. -/
def dropRequest (s : State) (n : Nat) (r : RiderSt) : State :=
  let s1 := { s with riders := Table.erase s.riders n }
  (if r.pinned then s1.unpin (dieOfCore r.core) r.pins else s1).answer n r (if 10 ≤ r.kind then 2 else refusedCard 5)

/-- R195: the requests of a queue are tested in order, up to the first that does not fit. -/
def admitQueue : List (Nat × RiderSt) → State → State
  | [], s => s
  | (n, r) :: rest, s =>
    if s.ranksBad r.part r.tenant (seedDrop r) r.card then admitQueue rest (s.dropRequest n r)
    else match s.riderFits n r with
      | some s1 => admitQueue rest (s1.admitRider n r)
      | none => s

/-- R195: the admission queues, by partition and tenant: in the order in which their requests joined, those of one cycle in boarding-key order. -/
def admitAll (s : State) : State :=
  let waiting := sortByKey (fun x => x.2.joinedAt :: precKey x.1 x.2) (List.filter (fun x : Nat × RiderSt => x.2.phase == .waiting) s.riders)
  let queues := (waiting.map fun x => (x.2.part, x.2.tenant)).dedup
  queues.foldl (fun st q => admitQueue (waiting.filter fun x => x.2.part == q.1 && x.2.tenant == q.2) st) s

/-! ### The boundary -/

/-- R186: the partitions of the device. -/
def liveParts (s : State) : List Nat := (List.range numParts).filter fun p => (s.part p).dies != 0

/-- R328, R333, R392, R362, R292: what takes effect at a boundary before tenants change. -/
def boundaryEffects (s : State) : State :=
  let s1 := if s.cursor = 0 then (s.liveParts.foldl (fun st p => st.tableEffect p) s).checkpointEffect else s
  let s2 := s.liveParts.foldl (fun st p => st.donationEffect p) s1
  s2.layerEffects.powerEffects

/-- R186: the boundary that ends the step: rides end, what waits for the boundary takes effect, tenants change, requests board and are
admitted, and the furrow of the next step is applied. -/
def boundary (s : State) : State :=
  let edges := s.liveParts.filter fun p => (s.part p).inGuard && s.edgeIn p == some 0
  let olds := edges.map fun p => (p, s.running p)
  let s1 := (s.settleFeeds.advanceSweep).alightAll.boundaryEffects
  let s2 := olds.foldl (fun st e => st.slotEdge e.1 e.2) s1
  let s3 := State.retryWaiters s2.boardAll.admitAll.tierStep.furrow .fence
  { s3 with hub := { s3.hub with trimmed := false } }

/-- R186: the step is over. -/
def atBoundary (s : State) : Bool := decide (s.stepLen ≤ s.stepCyc)

end State

/-- STEP_BOUNDARY, R186. -/
def execStepBoundary (s : State) : Out := if s.atBoundary then .next s.boundary else .refused .notEnabled

/-! ### Row commits (R256) -/

/-- R256, R362: an accepted row is due for its commit: a step has ended since its acceptance; a row of a parking buffer, at any time. A row of a
parked layer or of a sleeping plot waits. -/
def State.commitDue (s : State) (k : Nat) : Bool :=
  ((Table.find? s.rowBufs k).any (fun at_ => decide (at_ + 1 ≤ s.stepNo)) || s.parkedRows.contains k) &&
    (s.layer (elemDie (rowPlot k)) (rowLayer k)).mode == .swept && (s.plot (rowPlot k)).power == .active

/-- ROW_COMMIT, R256: a row buffer's row, or a parking buffer's, goes to the array. No reader sees a difference. -/
def execRowCommit (s : State) : Out :=
  if s.commitDue s.focus.index then
    .next { s with rowBufs := Table.erase s.rowBufs s.focus.index, parkedRows := s.parkedRows.filter fun k => k != s.focus.index }
  else .refused .notEnabled

/-! ### The end of an invalidation (R209) -/

/-- R209: an invalidation is complete: no TLB of the partition holds an entry that it covers, and no rider or generator a pin. -/
def State.tlbiDue (s : State) (p : Nat) : Bool :=
  match (s.part p).tlbi with
  | some x => !s.tlbiPinned p x
  | none => false

/-- TLB_INVALIDATION_DONE, R209: BUSY returns to 0, and a write of TLBI that waits goes on. -/
def execTlbInvalidationDone (s : State) : Out :=
  let p := s.focus.part
  if s.tlbiDue p then .next ((s.modPart p fun x => { x with tlbi := none }).retryWaiters .none) else .refused .notEnabled

end Sys2Proof.Machine
end

