-- ==== Sys2Proof/Machine/Generators.lean ====
section
/-! DEFINITION. Generators of edge tiles: GSTART, GSTOP and GSTAT (R309 to R311), the block that a generator moves (R286, R287) and its
completion (R288). -/

namespace Sys2Proof.Machine

/-! ### Cards (R309) -/

def gcId (c : List Word) : Nat := fld (cw c 0) 0 11
def gcMode (c : List Word) : Nat := fld (cw c 0) 11 2
def gcEos (c : List Word) : Bool := fld (cw c 0) 13 1 == 1
def gcTranslated (c : List Word) : Bool := fld (cw c 0) 14 1 == 1
def gcRoute (c : List Word) : Word := wd (fld (cw c 1) 46 18 * 2 ^ 46)
def gcBase (c : List Word) : Nat := fld (cw c 1) 0 22

/-- R309: the count of loop level `m`. -/
def gcCount (c : List Word) (m : Nat) : Nat := fld (cw c 2) (16 * m) 16 + 1

/-- R309: the signed stride of loop level `m`. -/
def gcStride (c : List Word) (m : Nat) : Int := (BitVec.ofNat 32 (fld (cw c (3 + m / 2)) (32 * (m % 2)) 32)).toInt

/-- R309: the bytes of a card's hub range. -/
def gcHubBytes (c : List Word) : Nat := 128 * (gcCount c 0 * gcCount c 1 * gcCount c 2 * gcCount c 3)

/-- R285, R309: of a generator id, the tile and the number of the generator. -/
def gidTile (i : Nat) : Nat := tileKey (bits i 9 2) (bits i 4 5) (bits i 3 1)
def gidKey (i : Nat) : Nat := 8 * gidTile i + bits i 0 3

namespace State

def gen (s : State) (k : Nat) : GenSt := Table.getD s.gens k {}
def setGen (s : State) (k : Nat) (g : GenSt) : State := { s with gens := Table.put s.gens k g }

/-- The partition of a generator. -/
def genPart (s : State) (k : Nat) : Nat := s.partOf (coreOfTile (k / 8))

/-- R285, R310: a generator id names a generator of the thread's tenant, on a tile of its partition. -/
def genMine (s : State) (k id : Nat) : Bool :=
  decide (id < 2 ^ 11) && s.partOf (coreOfTile (gidTile id)) == s.partOf (coreOf k) && s.mayUse k (32 + bits id 0 3)

/-- R288, R311: the generator status word. A generator whose completion is still to be written is in the state that it will report. -/
def genStatus (s : State) (k : Nat) : Word :=
  let g := s.gen k
  let st := match g.owed with
    | some x => x
    | none => if g.state = 1 ∧ !s.tenantActive (s.genPart k) g.tenant then 2 else g.state
  wd (min g.blocks (2 ^ 32 - 1) * 2 ^ 24 + st * 2 ^ 4)

/-! ### The checks of GSTART (R310) -/

/-- R287, R310: the route of a PUSH names an element of the partition, by column and row absolute within the die of the tile. -/
def gcRouteOk (s : State) (part : Nat) (c : List Word) : Bool :=
  fld (gcRoute c) 62 2 == 0 && (s.part part).hasCore (coreOfElem (elemKey (fld (cw c 0) 9 2) (fld (gcRoute c) 57 5) (fld (gcRoute c) 52 5)))

/-- R310: reasons 2 to 6; 0 where none holds. A generator whose completion is still to be written no longer runs (R311). -/
def gcReason (s : State) (a : Asker) (c : List Word) : Nat :=
  let m := gcMode c
  let tag := cw c 5
  let win := (s.streamWin a.part a.place).2
  if fld (cw c 0) 15 49 ≠ 0 ∨ fld (cw c 1) 22 24 ≠ 0 ∨ cw c 7 ≠ 0 ∨ (m ≠ 0 ∧ (gcEos c = true ∨ gcRoute c ≠ 0)) ∨ (m = 1 ∧ tag ≠ 0) ∨
      (2 ≤ m ∧ tag.toNat % 128 ≠ 0) then 2
  else if !s.genMine a.thread (gcId c) then 3
  else if (s.gen (gidKey (gcId c))).state = 1 ∧ (s.gen (gidKey (gcId c))).owed.isNone then 4
  else if gcBase c % 8 ≠ 0 ∨ (List.range 4).any (fun l => gcStride c l % 8 != 0) ∨ win < gcBase c + 128 then 5
  else if m = 0 ∧ (s.colourTenant a.part (tagColour tag) ≠ some a.tenant ∨ tagDepth tag = 0 ∨ 6 < tagDepth tag ∨ !s.gcRouteOk a.part c) then 6
  else 0

/-- R310, reason 10. -/
def gcWordBad (a : Asker) (c : List Word) : Bool :=
  let w := (cw c 6).toNat
  w % 8 != 0 || (if gcTranslated c then decide (w < 0x100000) else decide (a.winSize < w + 8))

/-- R309, R310: the pages of a card's hub range and of a translated completion word, or the reason of the check that fails. A page-table entry that is
poisoned counts as none (log entry 119). -/
def gcPages (s : State) (a : Asker) (c : List Word) : State × Except Nat (List PinSt) :=
  let code := fun (e : Nat) => if e = codeACCESS then 8 else 7
  let hub := if 2 ≤ gcMode c then
      s.pagesOfAll a [((cw c 5).toNat, gcHubBytes c, if gcMode c = 2 then Need.load else Need.store)]
    else (s, .ok [])
  match hub.2 with
  | .error e => (hub.1, .error (code e))
  | .ok l =>
    let all := if gcTranslated c && !gcWordBad a c then hub.1.pagesOfAll a [((cw c 6).toNat, 8, Need.store)] else (hub.1, .ok [])
    match all.2 with
    | .error e => (all.1, .error (code e))
    | .ok m =>
      if 16 < l.length then (all.1, .error 9)
      else if gcWordBad a c then (all.1, .error 10)
      else (all.1, .ok (l ++ m.filter fun q => !l.contains q))

/-- R310: every check of a generator card in reason order. -/
def gcCheck (s : State) (a : Asker) (c : List Word) : State × Except Nat (List PinSt) :=
  let r := s.gcReason a c
  if r ≠ 0 then (s, .error r) else s.gcPages a c

/-- R288, R309: where a generator's completion value goes. -/
def gcDone (a : Asker) (c : List Word) (pins : List PinSt) : DoneAt :=
  let w := (cw c 6).toNat
  if gcTranslated c then
    match pinAt pins w with
    | some (pa, _) => .translated pa ((pins.find? fun p => decide (p.va ≤ w) && decide (w < p.va + 2 ^ pageBits p.level)).any
        fun p => bits p.perms 4 1 == 1)
    | none => .direct (a.winAt + w)
  else .direct (a.winAt + w)

/-! ### Completion (R288, R311) -/

/-- R287, R330: tokens of a generator's PUSH are still on their way, those captured at a guard among them. -/
def genFlying (s : State) (k : Nat) : Bool :=
  (s.flights.any fun f => f.2.src == 2 ^ 17 + k) || s.savedElems.any fun x => x.2.captured.any fun f => f.src == 2 ^ 17 + k

/-- R288, R311: a generator takes its last state and writes the status word as its completion value; then its pins are released. -/
def genFinish (s : State) (k st : Nat) : State :=
  let g := s.gen k
  let s1 := s.setGen k { g with state := st, owed := none, pins := [] }
  let s2 := s1.complete g.core g.tenant g.done (s1.genStatus k) 0 0 0
  s2.unpin (dieOfCore g.core) g.pins

/-- R288: a generator ends with state `st`: its completion waits until every block has been performed. -/
def genEnd (s : State) (k st : Nat) : State :=
  if s.genFlying k then s.setGen k { s.gen k with owed := some st } else s.genFinish k st

end State

/-- R310: gd of a failed GSTART, GSTOP or GSTAT. -/
def genRefused (reason : Nat) : Word := wd (2 ^ 63 + reason)

/-- GSTART, R288, R309, R310. While its pins cannot be had (R210), or a completion of the generator is still to be written, it stands. -/
def execGstart (d a : Reg) (s : State) : Out :=
  let k := s.me
  let q := s.threadAsker k
  let off := (s.gpr a).toNat
  if State.cardOutside q off then s.finish d (genRefused 1)
  else
    let c := s.threadCard k (q.winAt + off)
    let x := s.gcCheck q c
    match x.2 with
    | .error r => x.1.finish d (genRefused r)
    | .ok pins =>
      let n := gidKey (gcId c)
      match x.1.pinAll (dieOfCore q.core) (s.tlbQuota q.part q.place) pins with
      | none => .next x.1
      | some s1 =>
        if (s.gen n).owed.isSome then .next s
        else
          (s1.setGen n { card := c, tenant := q.tenant, place := q.place, core := q.core, state := 1, movedAt := s.cycle,
                         done := State.gcDone q c pins, pins := pins }).finish d (wd (gcId c))

/-- GSTAT, R310, R311. -/
def execGstat (d a : Reg) (s : State) : Out :=
  let id := (s.gpr a).toNat
  s.finish d (if s.genMine s.me id then s.genStatus (gidKey id) else genRefused 3)

/-! ### GENERATOR_BLOCK (R286, R287) -/

namespace State

/-- R286: the byte offset of a generator's next block. -/
def genOff (g : GenSt) : Int :=
  gcBase g.card + g.i3 * gcStride g.card 3 + g.i2 * gcStride g.card 2 + g.i1 * gcStride g.card 1 + g.i0 * gcStride g.card 0

/-- R286: the loop indices after a block; `none` at the end of the nest. -/
def genNext (g : GenSt) : Option GenSt :=
  let c := g.card
  let h := { g with blocks := g.blocks + 1 }
  if g.i0 + 1 < gcCount c 0 then some { h with i0 := g.i0 + 1 }
  else if g.i1 + 1 < gcCount c 1 then some { h with i0 := 0, i1 := g.i1 + 1 }
  else if g.i2 + 1 < gcCount c 2 then some { h with i0 := 0, i1 := 0, i2 := g.i2 + 1 }
  else if g.i3 + 1 < gcCount c 3 then some { h with i0 := 0, i1 := 0, i2 := 0, i3 := g.i3 + 1 }
  else none

/-- R286: the tag of a PUSH's token. -/
def genTag (g : GenSt) : Tag :=
  let t : Tag := cw g.card 5
  let n := tagDepth t
  [g.i0, g.i1, g.i2, g.i3].zipIdx.foldl (fun u x => if x.2 < n then setTagField u (n - 1 - x.2) (x.1 % 256) else u) t

/-- R287: a token of a PUSH leaves for its element from the tile's edge. -/
def genSend (s : State) (k : Nat) (t : Token) : State :=
  let g := s.gen k
  let tile := k / 8
  let r := gcRoute g.card
  let e := elemKey (tileDie tile) (fld r 57 5) (fld r 52 5)
  let b := Bound.elem e (fld r 48 4) (fld r 46 2)
  let entry := elemKey (tileDie tile) (tileX tile) (if tile % 2 = 0 then 0 else 31)
  s.launch { src := 2 ^ 17 + k, bound := b, token := t, at_ := s.cycle + 1 + hops entry b + flits t }

/-- R287, R345: a PUSH has room for its next token: at most four are on their way, and the field that it feeds is not gated. -/
def genRoom (s : State) (k : Nat) : Bool :=
  let g := s.gen k
  let r := gcRoute g.card
  decide ((s.flights.filter fun f => f.2.src == 2 ^ 17 + k).length < 4) &&
    match s.fieldAt (elemKey (tileDie (k / 8)) (fld r 57 5) (fld r 52 5)) with
    | some q => !s.fieldGated q
    | none => true

/-- R287: the token that has arrived first at the port of a generator's number: of the tokens whose tenant runs, the one that arrived first. -/
def portToken (s : State) (k : Nat) : Option (Nat × FlightSt) :=
  let p := s.genPart k
  let here := List.filter (fun f : Nat × FlightSt => f.2.bound == .tile (k / 8) (k % 8) && decide (f.2.at_ ≤ s.cycle) && !s.overtakes f.1 f.2 &&
    match s.colourTenant p (tagColour f.2.token.tag) with
    | some t => s.tenantActive p t
    | none => true) s.flights
  here.foldl (fun (best : Option (Nat × FlightSt)) f => match best with
    | none => some f
    | some b => if f.2.at_ < b.2.at_ then some f else some b) none

/-- R286, R287: the bytes of a token's valid lanes. -/
def tokenBytes (t : Token) : Nat := (t.valid * laneWidth t.width + 7) / 8

/-- R286: after a block the generator stands at the next one, or ends. -/
def genStep (s : State) (k : Nat) (eos : Bool) : State :=
  let g := s.gen k
  match genNext g with
  | some h => s.setGen k { h with movedAt := s.cycle, eosDue := eos }
  | none =>
    let s1 := s.setGen k { g with blocks := g.blocks + 1, movedAt := s.cycle, eosDue := eos }
    if eos then s1 else s1.genEnd k 3

/-- R286: every block of the nest has moved. -/
def genSpent (g : GenSt) : Bool := g.blocks == gcCount g.card 0 * gcCount g.card 1 * gcCount g.card 2 * gcCount g.card 3

/-- R286: the EOS after an inner run, whose innermost field is n0 mod 256. -/
def genEosTag (g : GenSt) : Tag :=
  let before := if genSpent g then { g with i0 := gcCount g.card 0 - 1 } else
    if g.i1 ≠ 0 then { g with i1 := g.i1 - 1 }
    else if g.i2 ≠ 0 then { g with i1 := gcCount g.card 1 - 1, i2 := g.i2 - 1 }
    else { g with i1 := gcCount g.card 1 - 1, i2 := gcCount g.card 2 - 1, i3 := g.i3 - 1 }
  setTagIx (genTag before) (gcCount g.card 0 % 256)

/-- R286: a block that has begun is finished: the EOS of its inner run is sent. -/
def genSendEos (s : State) (k : Nat) : State :=
  let g := s.gen k
  let w := (s.colourWidth (s.genPart k) (tagColour (cw g.card 5))).getD 5
  (s.genSend k (eosToken (genEosTag g) w)).setGen k { g with eosDue := false, movedAt := s.cycle }

/-- R286: a block within the window. -/
def genBlock (s : State) (k off : Nat) : State :=
  let g := s.gen k
  let at_ := streamBase (k / 8) + (s.streamWin (s.genPart k) g.place).1 + off
  let hubAt := pinAt g.pins ((cw g.card 5).toNat + 128 * g.blocks)
  let inner := gcEos g.card && g.i0 + 1 == gcCount g.card 0
  match gcMode g.card with
  | 0 =>
    let w := (s.colourWidth (s.genPart k) (tagColour (cw g.card 5))).getD 5
    (s.genSend k (mkToken (genTag g) kData (1024 / laneWidth w) w (Memory.read s.mem at_ 128))).genStep k inner
  | 1 =>
    match s.portToken k with
    | none => s
    | some f =>
      let c := tagColour f.2.token.tag
      let s1 := { s with flights := Table.erase s.flights f.1 }
      if f.2.token.kind = kEos then (s1.setGen k { g with movedAt := s.cycle }).settleColour (s.genPart k) c
      else
        let m := Memory.write s.mem at_ (tokenBytes f.2.token) f.2.token.payload.toNat
        (State.genStep { s1 with mem := m } k false).settleColour (s.genPart k) c
  | m =>
    match hubAt with
    | none => s.genEnd k 6
    | some (pa, _) =>
      if s.hubBad pa then s.genEnd k 6
      else if m = 2 then State.genStep { s with mem := Memory.write s.mem at_ 128 (Memory.read s.mem pa 128) } k false
      else State.genStep { s with mem := Memory.write s.mem pa 128 (Memory.read s.mem at_ 128) } k false

/-- R286: the next block of a generator leaves its stream window. -/
def genOutside (s : State) (k : Nat) : Bool :=
  let g := s.gen k
  decide (genOff g < 0) || decide (((s.streamWin (s.genPart k) g.place).2 : Int) < genOff g + 128)

/-- R286 to R288: a generator can act now: its completion can be written, or its tenant runs, it has moved nothing in this cycle, and it has
a token to take or room to send one, or its next block leaves the window. -/
def genDue (s : State) (k : Nat) : Bool :=
  let g := s.gen k
  let p := s.genPart k
  s.tenantActive p g.tenant && match g.owed with
    | some _ => !s.genFlying k
    | none => g.state == 1 && decide (g.movedAt < s.cycle) && ((!g.eosDue && s.genOutside k) || match gcMode g.card with
      | 0 => s.genRoom k
      | 1 => (s.portToken k).isSome
      | _ => true)

end State

/-- GENERATOR_BLOCK, R286 to R288: a generator moves its next block, sends an EOS, or ends. -/
def execGeneratorBlock (s : State) : Out :=
  let k := s.focus.index
  let g := s.gen k
  if !s.genDue k then .refused .notEnabled
  else match g.owed with
    | some st => .next (s.genFinish k st)
    | none =>
      if g.eosDue then
        let s1 := s.genSendEos k
        .next (if State.genSpent g then s1.genEnd k 3 else s1)
      else if s.genOutside k then .next (s.genEnd k 5)
      else .next (s.genBlock k (State.genOff g).toNat)

/-- GSTOP, R288, R310, R311. -/
def execGstop (d a : Reg) (s : State) : Out :=
  let id := (s.gpr a).toNat
  if !s.genMine s.me id then s.finish d (genRefused 3)
  else
    let n := gidKey id
    if (s.gen n).state ≠ 1 ∨ (s.gen n).owed.isSome then s.finish d (s.genStatus n)
    else
      let s0 := if (s.gen n).eosDue then s.genSendEos n else s
      let s1 := State.genEnd (s0.setGen n { s0.gen n with state := 4 }) n 4
      s1.finish d (s1.genStatus n)

end Sys2Proof.Machine
end

