-- ==== Sys2Proof/Machine/Collectives.lean ====
section
/-! DEFINITION. Collectives of the link engines (R383 to R391): the descriptor and its checks, DIGSET, the reductions in ordered and exact
mode, the vote of DIGCMP, and the completion of a member. -/

namespace Sys2Proof.Machine

/-! ### Descriptors (R384) -/

def cdKind (c : List Word) : Nat := fld (cw c 0) 0 3
def cdOp (c : List Word) : Nat := fld (cw c 0) 3 2
def cdSfmt (c : List Word) : Nat := fld (cw c 0) 5 5
def cdDfmt (c : List Word) : Nat := fld (cw c 0) 10 5
def cdGroup (c : List Word) : Nat := fld (cw c 0) 15 8
def cdRoot (c : List Word) : Nat := fld (cw c 0) 23 10
def cdTranslated (c : List Word) : Bool := fld (cw c 0) 33 1 == 1
def cdDies (c : List Word) : Nat := fld (cw c 1) 0 4
def cdX (c : List Word) : Nat := fld (cw c 1) 4 5
def cdY (c : List Word) : Nat := fld (cw c 1) 9 5
def cdCols (c : List Word) : Nat := fld (cw c 1) 14 5 + 1
def cdRows (c : List Word) : Nat := fld (cw c 1) 19 5 + 1
def cdSoff (c : List Word) : Nat := fld (cw c 2) 0 19
def cdDoff (c : List Word) : Nat := fld (cw c 2) 20 19
def cdN (c : List Word) : Nat := fld (cw c 3) 0 20
def cdNorm (c : List Word) : Nat := fld (cw c 4) 0 4
def cdSlot (c : List Word) : Nat := fld (cw c 4) 4 2
def cdStep (c : List Word) : Nat := fld (cw c 4) 32 32

/-- R384: the elements of a descriptor's rectangle: by die, then row, then column. -/
def cdElems (c : List Word) : List Nat :=
  ((List.range 4).filter fun d => (cdDies c).testBit d).flatMap fun d =>
    (List.range (cdRows c)).flatMap fun y => (List.range (cdCols c)).map fun x => elemKey d (cdX c + x) (cdY c + y)

/-- R114, R384: the block of a scaled format; 1 for every other. -/
def scaledBlock (fmt : Nat) : Nat := if fmt = 0x0E then 8 else if fmt = 0x0F then 32 else 1

/-- R384: the bits that `n` elements take in an element's scratchpad, with block scales and tensor scale. -/
def vectorBits (fmt n : Nat) : Nat := n * elemBits fmt + if scaledBlock fmt = 1 then 0 else 8 * (n / scaledBlock fmt) + 16

/-- R385: the bits of a member's destination in each element, in a group of `p` members. -/
def destBits (c : List Word) (p : Nat) : Nat :=
  match cdKind c with
  | 0 => vectorBits (cdDfmt c) (cdN c)
  | 1 => vectorBits (cdSfmt c) (cdN c)
  | 2 => p * vectorBits (cdSfmt c) (cdN c)
  | 3 => vectorBits (cdDfmt c) (cdN c / p)
  | _ => 0

/-- R385, R387: SFMT, DFMT and OP that a kind and mode accept. -/
def cdFormsOk (kind : Nat) (exact : Bool) (c : List Word) : Bool :=
  let f := cdSfmt c
  if kind = 0 ∨ kind = 3 then
    if exact then (isVecFloat f || f == 0x0A || f == 0x0B || f == 0x0E || f == 0x0F) && isVecFloat (cdDfmt c) && cdOp c == 0
    else (isIntFmt f || isVecFloat f) && cdDfmt c == f && decide (cdOp c < 3)
  else ((fmtWidth f).isSome || (decide (4 ≤ kind) && f == 0)) && cdDfmt c == f && cdOp c == 0

namespace State

/-- R383: an entry of a partition's group table. -/
def group (s : State) (part g : Nat) : Option GroupSt := Table.find? s.groups (256 * part + g)

/-- R383: an entry that a tenant may name: it owns it, and it holds this partition at its rank. -/
def groupOk (s : State) (a : Asker) (g : GroupSt) : Bool :=
  g.tenant == a.tenant && g.members[g.rank]? == some (s.hub.device.toNat, a.part)

/-! ### Checks (R385) -/

/-- R385, reason 5: the rectangle, and the source and destination ranges. -/
def cdRangeBad (s : State) (a : Asker) (c : List Word) (p : Nat) : Bool :=
  cdDies c == 0 || decide (32 < cdX c + cdCols c) || decide (32 < cdY c + cdRows c) ||
    (cdElems c).any fun e => s.elemPart e != a.part ||
      decide ((s.placeWin e a.place).2 < cdSoff c + (vectorBits (cdSfmt c) (cdN c) + 7) / 8) ||
      decide ((s.placeWin e a.place).2 < cdDoff c + (destBits c p + 7) / 8)

/-- R385, reason 6. -/
def cdCountBad (c : List Word) (p : Nat) : Bool :=
  (cdKind c == 1 && decide (p ≤ cdRoot c)) || cdN c == 0 || cdN c % scaledBlock (cdSfmt c) != 0 || (cdKind c == 3 && cdN c % p != 0) ||
    (cdKind c == 2 && decide (2 ^ 20 - 1 < p * cdN c))

/-- R384, R385, reason 2: the kind, the fields that must be 0, and the offsets that must be multiples of 128. -/
def cdFieldsBad (kind : Nat) (c : List Word) : Bool :=
  cdKind c != kind || fld (cw c 0) 34 30 != 0 || fld (cw c 1) 24 40 != 0 || fld (cw c 2) 19 1 != 0 || fld (cw c 2) 39 25 != 0 ||
    fld (cw c 3) 20 44 != 0 || fld (cw c 4) 6 26 != 0 || cw c 5 != 0 || (cdRoot c != 0 && kind != 1) ||
    ((cdNorm c != 0 || cdStep c != 0) && kind != 4) || (cdSlot c != 0 && decide (kind < 4)) ||
    (decide (kind < 4) && (cdSoff c % 128 != 0 || cdDoff c % 128 != 0))

/-- R385: reasons 2 to 6 of a descriptor; 0 where none holds. -/
def cdReason (s : State) (a : Asker) (kind : Nat) (exact : Bool) (c : List Word) : Nat :=
  if cdFieldsBad kind c then 2
  else match s.group a.part (cdGroup c) with
    | none => 3
    | some g =>
      if !s.groupOk a g then 3
      else if !cdFormsOk kind exact c then 4
      else if kind < 4 ∧ s.cdRangeBad a c g.members.length then 5
      else if kind < 4 ∧ cdCountBad c g.members.length then 6
      else 0

/-- R384, R385, reason 7: where the completion value goes; `none` where the word is misaligned, outside its window or not translated. -/
def cdDone (s : State) (a : Asker) (c : List Word) : State × Option DoneAt :=
  let w := cw c 6
  if w.toNat % 8 ≠ 0 then (s, none)
  else if !cdTranslated c then (s, if a.winSize < w.toNat + 8 then none else some (.direct (a.winAt + w.toNat)))
  else if w.toNat < 0x100000 then (s, none)
  else
    let r := s.resolve a.thread w .store
    match r.2 with
    | .ok t => (r.1, some (.translated t.addr t.uncached))
    | .error _ => (r.1, none)

/-! ### Issue (R383, R385, R388, R391) -/

/-- R388, R389: a harvest slot of a place as one number: STEP, D, N and SAT. -/
def harvestValue (h : HarvestSt) : Nat := h.step % 2 ^ 32 + h.digest % 2 ^ 128 * 2 ^ 32 + h.norm % 2 ^ 128 * 2 ^ 160 + b2n h.sat * 2 ^ 288

/-- R384, R391: what a member brings: its vector as it is read at issue, or its harvest value. -/
def memberVector (s : State) (a : Asker) (c : List Word) : List Nat :=
  if cdKind c = 5 then [harvestValue (Table.getD (s.place a.part a.place).harvest (cdSlot c) {})]
  else
    let n := vectorBits (cdSfmt c) (cdN c)
    (cdElems c).map fun e => Memory.read s.mem ((s.placeWin e a.place).1 + cdSoff c) ((n + 7) / 8) % 2 ^ n

/-- R383: the fields in which matched descriptors agree, and the number of elements of the rectangle. -/
def agreed (exact : Bool) (c : List Word) : List Nat :=
  [cdKind c, b2n exact, cdOp c, cdSfmt c, cdDfmt c, cdN c, cdRoot c, if cdKind c = 5 then cdSlot c else 0,
   if cdKind c = 5 then 0 else (cdElems c).length]

/-- R385: the collective id of a member's next linked collective on a group. -/
def collId (g : GroupSt) (n : Nat) : Word := wd (n * 2 ^ 16 + g.seq % 2 ^ 16)

/-- R385: the collectives of a member that are in flight on a group. -/
def collFlying (s : State) (part g : Nat) : Nat := (List.filter (fun x : Nat × CollSt => x.2.part == part && x.2.group == g) s.colls).length

/-- R388: DIGSET: the harvest slot, STATUS and the completion value. -/
def digSet (s : State) (a : Asker) (off : Nat) (c : List Word) (value : Word) (done : DoneAt) : State :=
  let p := s.part a.part
  let n := p.norm (cdNorm c)
  let h : HarvestSt := { step := cdStep c, digest := p.digest (cdNorm c), norm := n.value, sat := n.sat }
  let s1 := s.modPlace a.part a.place fun x => { x with harvest := Table.putD x.harvest (cdSlot c) h {} }
  (s1.writeDirect (a.winAt + off + 56) 0).complete a.core a.tenant done value 0 0 0

/-- R386, R391: the destination of a member's collective in an element: its first byte, its bits and its bytes. -/
def destAt (s : State) (x : CollSt) (e : Nat) : Nat := (s.placeWin e x.place).1 + cdDoff x.descr
def destSize (x : CollSt) : Nat := destBits x.descr x.conf.members.length
def destBytes (x : CollSt) : Nat := (destSize x + 7) / 8

/-- R386, R391: free values for the destination in the `i`-th element of a rectangle, over what stands there. -/
def freeDest (s : State) (x : CollSt) (i old : Nat) : Nat :=
  let words := (destBytes x + 7) / 8
  ((List.range words).map fun j => (Config.freeWord (s.freeCount + words * i + j)).toNat * 2 ^ (64 * j)).sum % 2 ^ destSize x + old / 2 ^ destSize x * 2 ^ destSize x

/-- R386, R391: the free values that the destinations of a collective take. -/
def spendFree (s : State) (x : CollSt) : State := { s with freeCount := s.freeCount + (destBytes x + 7) / 8 * x.elems.length }

/-- R391: until completion a collective's destination bytes are unpredictable: free values, beside which the collective keeps what they held. -/
def blurDest (s : State) (x : CollSt) : State × CollSt :=
  let before := x.elems.zipIdx.map fun e =>
    let old := Memory.read s.mem (s.destAt x e.1) (destBytes x)
    (old, s.freeDest x e.2 old)
  let m := (x.elems.zip before).foldl (fun (m : List Host.Cell) e => Memory.write m (s.destAt x e.1) (destBytes x) e.2.2) s.mem
  (State.spendFree { s with mem := m } x, { x with before := before })

/-- R380, R386: the outcome of a collective whose group uses a link that is down. -/
def downLink (s : State) (g : GroupSt) : Option CollResult :=
  (g.links.find? fun n => !(Table.getD s.hub.links n {}).up).map fun n =>
    { outcome := 2, maj := 0, flags := 0, vector := [], detail := wd (n + (Table.getD s.hub.links n {}).peer * 2 ^ 16) }

/-- R383, R385, R386, R391: a linked collective starts. -/
def collStart (s : State) (a : Asker) (kind : Nat) (exact : Bool) (off : Nat) (c : List Word) (g : GroupSt) (value : Word) (done : DoneAt) :
    State :=
  let x : CollSt :=
    { part := a.part, tenant := a.tenant, place := a.place, core := a.core, thread := a.thread, kind := kind, exact := exact,
      group := cdGroup c, index := g.seq, descr := c, descrAt := a.winAt + off, conf := g,
      elems := if kind = 5 then [] else cdElems c, mine := { rank := g.rank, descr := agreed exact c, vector := s.memberVector a c },
      value := value, done := done, result := s.downLink g }
  let y := s.blurDest x
  { y.1 with colls := Table.put s.colls s.collNext y.2, collNext := s.collNext + 1,
             groups := Table.put s.groups (256 * a.part + cdGroup c) { g with seq := g.seq + 1 } }

/-- R385: a COLL instruction of a kind and mode. -/
def collect (s : State) (kind : Nat) (exact : Bool) (word : Word32) (d ra rb : Reg) : Out :=
  let a := s.threadAsker s.me
  let off := (s.gpr ra).toNat
  let refuse := fun (st : State) (r : Nat) => st.finish d (wd (2 ^ 63 + r))
  if cardOutside a off then refuse s 1
  else
    let c := s.threadCard a.thread (a.winAt + off)
    let r := s.cdReason a kind exact c
    if r ≠ 0 then refuse s r
    else
      let x := s.cdDone a c
      match x.2, s.group a.part (cdGroup c) with
      | some done, some g =>
        if kind = 4 ∧ a.place ≠ 0 ∧ !s.holds a.part a.place (16 + cdNorm c) then refuse x.1 8
        else if kind = 4 then (x.1.digSet a off c (s.gpr rb) done).finish d (collId g (cdGroup c))
        else if 8 ≤ s.collFlying a.part (cdGroup c) then
          .next (s.modMe fun t => { t with run := .waiting, wait := { code := .collLimit, word := word } })
        else (x.1.collStart a kind exact off c g (s.gpr rb) done).finish d (collId g (cdGroup c))
      | _, _ => refuse x.1 7

end State

/-- ALLRED in ordered mode, R385, R387. -/
def execAllredOrd (d a b : Reg) (s : State) : Out := s.collect 0 false (wordOf (.allredOrd d a b)) d a b

/-- ALLRED in exact mode, R385, R387. -/
def execAllredExact (d a b : Reg) (s : State) : Out := s.collect 0 true (wordOf (.allredExact d a b)) d a b

/-- BCAST, R385. -/
def execBcast (d a b : Reg) (s : State) : Out := s.collect 1 false (wordOf (.bcast d a b)) d a b

/-- ALLGATH, R385. -/
def execAllgath (d a b : Reg) (s : State) : Out := s.collect 2 false (wordOf (.allgath d a b)) d a b

/-- REDSCAT in ordered mode, R385, R387. -/
def execRedscatOrd (d a b : Reg) (s : State) : Out := s.collect 3 false (wordOf (.redscatOrd d a b)) d a b

/-- REDSCAT in exact mode, R385, R387. -/
def execRedscatExact (d a b : Reg) (s : State) : Out := s.collect 3 true (wordOf (.redscatExact d a b)) d a b

/-- DIGSET, R388. -/
def execDigset (d a b : Reg) (s : State) : Out := s.collect 4 false (wordOf (.digset d a b)) d a b

/-- DIGCMP, R389. -/
def execDigcmp (d a b : Reg) (s : State) : Out := s.collect 5 false (wordOf (.digcmp d a b)) d a b

/-! ### Reductions (R121, R387) -/

/-- R387: two partial results of a lane, combined in ordered mode. -/
def orderedLane (fmt op x y : Nat) : FRes :=
  match floatFmt fmt with
  | some f =>
    match op with
    | 0 => fAddV f .rne false (f.decode x) (f.decode y)
    | 1 => fPick true f x y
    | _ => fPick false f x y
  | none =>
    let w := elemBits fmt
    let less := fun (a b : Nat) => decide (laneInt (isSignedFmt fmt) w a < laneInt (isSignedFmt fmt) w b)
    { bits := if op = 0 then (x + y) % 2 ^ w else if op = 1 then (if less y x then y else x) else (if less x y then y else x), flags := 0 }

/-- A node of a reduction tree: its lowest rank and its partial result. -/
abbrev TreeNode := Nat × FRes

/-- R387: nodes in increasing order of their lowest rank. -/
def insertNode (x : TreeNode) : List TreeNode → List TreeNode
  | [] => [x]
  | y :: ys => if x.1 < y.1 then x :: y :: ys else y :: insertNode x ys

/-- R387: a node's children combined in increasing order of the lowest rank in each. -/
def combineNodes (fmt op : Nat) (l : List TreeNode) : TreeNode :=
  match l.foldl (fun acc x => insertNode x acc) [] with
  | [] => (0, { bits := 0, flags := 0 })
  | x :: xs => xs.foldl (fun (acc : TreeNode) y =>
      let r := orderedLane fmt op acc.2.bits y.2.bits
      (acc.1, { r with flags := r.flags ||| acc.2.flags ||| y.2.flags })) x

/-- R387: a lane in ordered mode, along the group's tree, from the members' values by rank. -/
def orderedSum (tree : List (List Nat)) (fmt op : Nat) (xs : List Nat) : FRes :=
  let leaves : List TreeNode := xs.zipIdx.map fun x => (x.2, { bits := x.1, flags := 0 })
  let nodes := tree.foldl (fun (l : List TreeNode) ch => l ++ [combineNodes fmt op (ch.filterMap fun i => l[i]?)]) leaves
  match nodes.getLast? with
  | some n => n.2
  | none => { bits := 0, flags := 0 }

/-- R121, R387: the exact value of element `i` of a vector of `n` elements: element x block scale x tensor scale. -/
def exactValue (fmt n blob i : Nat) : FVal :=
  let w := elemBits fmt
  let x := valueOf fmt false (bits blob (w * i) w)
  let b := scaledBlock fmt
  if b = 1 then x
  else
    let sc := scaleValue fmt (bits blob (n * w + 8 * (i / b)) 8)
    let ts := fmtBf16.decode (bits blob (n * w + 8 * (n / b)) 16)
    (mulV (mulV x sc).1 ts).1

/-- R121: a contribution sets an infinity flag of its sign. -/
def sumInf (neg : Bool) : FVal → Bool
  | .inf n => n == neg
  | .fin n m e => n == neg && m != 0 && decide (160 ≤ (bitLen m : Int) - 1 + e)
  | .nan _ _ => false

/-- R121: a contribution in units of 2^-200, truncated towards zero. -/
def sumTerm : FVal → Int
  | .fin n m e =>
    let x := e + 200
    signedMant n (if 0 ≤ x then m * 2 ^ x.toNat else m / 2 ^ (-x).toNat)
  | _ => 0

/-- R121: a lane in exact mode. -/
def exactSum (f : FloatFmt) (l : List FVal) : FRes :=
  let pos := l.any (sumInf false)
  let neg := l.any (sumInf true)
  if l.any FVal.isNan || (pos && neg) then f.nanRes fNV
  else if pos || neg then f.infinity neg
  else
    let v := (l.map sumTerm).sum
    f.round .rne false (decide (v < 0)) v.natAbs (-200)

/-- R387: a lane of the reduction of the members' vectors. -/
def reduceLane (x : CollSt) (blobs : List Nat) (i : Nat) : FRes :=
  let c := x.descr
  let w := elemBits (cdSfmt c)
  if x.exact then exactSum ((floatFmt (cdDfmt c)).getD fmtF32) (blobs.map fun b => exactValue (cdSfmt c) (cdN c) b i)
  else orderedSum x.conf.tree (cdSfmt c) (cdOp c) (blobs.map fun b => bits b (w * i) w)

/-! ### Results (R383, R385, R386, R389) -/

/-- A result that only says how the collective ended. -/
def plainResult (outcome : Nat) (detail : Word) : CollResult := { outcome := outcome, maj := 0, flags := 0, vector := [], detail := detail }

/-- R389: the value that more than half of the members hold, and how many hold it. -/
def majority (vs : List Nat) : Option (Nat × Nat) :=
  (vs.find? fun v => decide (vs.length < 2 * vs.count v)).map fun v => (v, vs.count v)

/-- R389: the vote of DIGCMP for a member with value `mine`. -/
def voteResult (vs : List Nat) (mine : Nat) : CollResult :=
  match majority vs with
  | some (v, n) => { plainResult (if mine = v then 0 else 4) (wd (bits v 32 64)) with maj := n }
  | none => plainResult 5 0

/-- R385: the destination of member `x`, one number for each element of its rectangle, and the flags. -/
def movedResult (x : CollSt) (ms : List MemberSt) : CollResult :=
  let c := x.descr
  let n := cdN c
  let blobs := fun (i : Nat) => ms.map fun m => m.vector.getD i 0
  let es := List.range x.elems.length
  match x.kind with
  | 1 => { plainResult 0 0 with vector := ((ms[cdRoot c]?).map (·.vector)).getD [] }
  | 2 => { plainResult 0 0 with vector := es.map fun i => numOfLanes (vectorBits (cdSfmt c) n) (blobs i) }
  | k =>
    let rs := es.map fun i => (List.range n).map fun j => reduceLane x (blobs i) j
    let part := n / ms.length
    let keep := fun (l : List FRes) => if k = 3 then (l.drop (x.mine.rank * part)).take part else l
    { plainResult 0 0 with
      flags := rs.foldl (fun fl l => l.foldl (fun g r => g ||| r.flags) fl) 0 % 32,
      vector := rs.map fun l => numOfLanes (elemBits (cdDfmt c)) ((keep l).map (·.bits)) }

/-- R383: the result of a matched collective for member `x`. -/
def collResult (x : CollSt) (ms : List MemberSt) : CollResult :=
  if ms.any fun m => m.descr != x.mine.descr then plainResult 1 0
  else if x.kind = 5 then voteResult (ms.map fun m => m.vector.getD 0 0) (x.mine.vector.getD 0 0)
  else movedResult x ms

namespace State

/-! ### Matching (R383) -/

/-- R383: two members' collectives on this device are of one group and have the same number in it. -/
def sameColl (x y : CollSt) : Bool := x.conf.key == y.conf.key && x.index == y.index

/-- R336, R381: a member's traffic moves in its partition's frames: it has one on every link that its group uses (log entry 137). -/
def framed (s : State) (x : CollSt) : Bool := x.conf.links.all fun n => Table.getD s.hub.masks (16 * x.part + n) 0 != 0

/-- R381, R383: what the member of rank `j` brings: a partition of this device has issued its match, or the links have brought it in the partition's
frames. -/
def memberOf (s : State) (x : CollSt) (remote : List MemberSt) (j : Nat) : Option MemberSt :=
  match x.conf.members[j]? with
  | none => none
  | some (dev, part) =>
    if dev = s.hub.device.toNat then
      (List.find? (fun y : Nat × CollSt => sameColl x y.2 && y.2.part == part && y.2.mine.rank == j) s.colls).map fun y => y.2.mine
    else if s.framed x then List.find? (fun m : MemberSt => m.rank == j) remote else none

/-- R383: every member's match, by rank; `none` while one is missing. -/
def collMembers (s : State) (x : CollSt) (remote : List MemberSt) : Option (List MemberSt) :=
  (List.range x.conf.members.length).mapM fun j => s.memberOf x remote j

/-- R383, R386: the results of a matched collective reach every member on this device. -/
def settleColl (s : State) (x : CollSt) (res : CollSt → CollResult) : State :=
  { s with colls := s.colls.map fun (y : Nat × CollSt) =>
      if sameColl x y.2 && y.2.result.isNone then (y.1, { y.2 with result := some (res y.2) }) else y }

/-- R386: collectives that an event ends, with outcome 2 or 3. -/
def failColls (s : State) (outcome : Nat) (detail : Word) (hit : CollSt → Bool) : State :=
  { s with colls := s.colls.map fun (y : Nat × CollSt) =>
      if hit y.2 && y.2.result.isNone then (y.1, { y.2 with result := some (plainResult outcome detail) }) else y }

/-! ### Completion of a member (R386) -/

/-- R386, R391: of `n` bytes those that still hold the free values `free` hold `old` again; a byte stored since keeps what it was given (log entry 138). -/
def unblur (n cur free old : Nat) : Nat :=
  ((List.range n).map fun i => (if bits cur (8 * i) 8 = bits free (8 * i) 8 then bits old (8 * i) 8 else bits cur (8 * i) 8) * 2 ^ (8 * i)).sum

/-- R386, R391: the destination bytes of a member: the result; after outcomes 2 and 3 free values; else what they held before, since nothing is
written. -/
def collDest (s : State) (x : CollSt) (r : CollResult) : State :=
  let s1 := x.elems.zipIdx.foldl (fun (st : State) e =>
    let a := st.destAt x e.1
    let cur := Memory.read st.mem a (destBytes x)
    if r.outcome = 0 then st.scratchWrite a (destBytes x) (r.vector.getD e.2 0 % 2 ^ destSize x + cur / 2 ^ destSize x * 2 ^ destSize x)
    else if r.outcome = 2 ∨ r.outcome = 3 then st.scratchWrite a (destBytes x) (s.freeDest x e.2 cur)
    else match x.before[e.2]? with
      | some b => { st with mem := Memory.write st.mem a (destBytes x) (unblur (destBytes x) cur b.2 b.1) }
      | none => st) s
  if r.outcome = 2 ∨ r.outcome = 3 then s1.spendFree x else s1

/-- R386: STATUS. -/
def collStatus (r : CollResult) : Word := wd (r.maj % 2 ^ 16 * 2 ^ 32 + r.outcome * 2 ^ 8 + r.flags % 32)

/-- R24, R386: the record of a LINK or DIVERGE trap. -/
def collRec (s : State) (x : CollSt) (r : CollResult) (code : Nat) : FaultRec :=
  { f0 := wd (4 * 2 ^ 8 + code),
    f1 := wd (dieOfCore x.core * 2 ^ 38 + 3 * 2 ^ 22 + stripOfCore x.core * 2 ^ 19 + x.thread % 4 * 2 ^ 17),
    f2 := wd (x.group * 2 ^ 16 + x.index % 2 ^ 16), f3 := wd (fld (cw x.descr 0) 0 32), f5 := r.detail, f6 := s.when,
    f7 := wd (s.placeAsid x.core x.part x.place * 2 ^ 32 + x.tenant) }

/-- R386, R389: the trap that an outcome queues, and DIVMARK. -/
def collTraps (s : State) (x : CollSt) (r : CollResult) : State :=
  let s1 := if r.outcome = 4 ∨ r.outcome = 5 then s.modPlace x.part x.place fun p => { p with divmark := true } else s
  let code := if r.outcome = 2 ∨ r.outcome = 3 then 0x13 else 0x12
  if r.outcome < 2 ∨ (s.thread x.thread).run = .free then s1 else s1.postAsync x.thread code (s.collRec x r code) true

/-- R386: a member's collective completes: destination, STATUS, the completion value. -/
def collFinish (s : State) (n : Nat) (x : CollSt) (r : CollResult) : State :=
  let s1 := ((s.collDest x r).writeDirect (x.descrAt + 56) (collStatus r)).complete x.core x.tenant x.done x.value 0 0 0
  State.retryWaiters (State.collTraps { s1 with colls := Table.erase s1.colls n } x r) .collLimit

/-- R386: a failure that another device reports: a link or its device (outcome 2), or a member's partition (outcome 3). -/
def remoteFailure (s : State) (x : CollSt) (f : Focus) : Option CollResult :=
  if f.flag ∧ (f.layer = 2 ∨ f.layer = 3) ∧ (x.conf.members.any fun m => m.1 != s.hub.device.toNat) ∧ f.link < 16 then
    some (plainResult f.layer (wd (f.link + (Table.getD s.hub.links f.link {}).peer * 2 ^ 16)))
  else none

end State

/-- COLLECTIVE_COMPLETE, R383, R386, R387, R389, R391: the link engine completes collective `index` for one member, whose tenant runs. The
focus holds what members on other devices bring, or a failure that they report. -/
def execCollectiveComplete (s : State) : Out :=
  let n := s.focus.index
  match Table.find? s.colls n with
  | none => .refused .notEnabled
  | some x =>
    if !s.tenantActive x.part x.tenant then .refused .notEnabled
    else match x.result with
      | some r => .next (s.collFinish n x r)
      | none =>
        match s.remoteFailure x s.focus with
        | some r => .next ((s.settleColl x fun _ => r).collFinish n x r)
        | none =>
          match s.collMembers x s.focus.remote with
          | none => .refused .notEnabled
          | some ms => .next ((s.settleColl x fun y => collResult y ms).collFinish n x (collResult x ms))

end Sys2Proof.Machine
end

