-- ==== Sys2Proof/Machine/Heat.lean ====
section
/-! DEFINITION. The thermal governor (R362 to R365), power requests of plots (R292), the core watchdog (R366), and an uncorrectable edge-slice
line (R360, R361). -/

namespace Sys2Proof.Machine

/-! ### Sweep states (R187, R362, R382) -/

/-- R362: the next sweep state towards P4, and towards P0. -/
def slowerState : SweepState → Option SweepState
  | .p0 => some .p1
  | .p1 => some .p2
  | .p2 => some .p3
  | .p3 => some .p4
  | .p4 => none
def fasterState : SweepState → Option SweepState
  | .p0 => none
  | .p1 => some .p0
  | .p2 => some .p1
  | .p3 => some .p2
  | .p4 => some .p3

namespace State

/-- R362, R382: the governor wants a sweep state: a device that runs free takes it at the next wrap, a locked one asks the time master. -/
def wantSweep (s : State) (x : SweepState) : State :=
  if s.hub.locked then { s with hub := { s.hub with asked := some x } } else { s with sweepNext := some x, sweepPass := 0 }

/-- R362: since when a parked layer has been below 85 degrees (340 units), after a reading of `t` (log entry 120). -/
def coolSince (s : State) (x : LayerSt) (t : Nat) : Option Nat :=
  if x.mode = .parked ∧ t < 340 then some (x.coolFrom.getD s.stepNo) else none

/-- R362: a reading of a layer's temperature, in 0.25 degree units; 320 is 80 degrees. -/
def readTemp (s : State) (die phys t : Nat) : State :=
  let s1 := s.modLayer die phys fun x => { x with temp := t, coolFrom := s.coolSince x t }
  if 320 ≤ t then { s1 with hub := { s1.hub with hotPass := s.passNo } } else s1

/-- The focus names a layer of a die. -/
def layerNamed (s : State) : Bool := decide (s.focus.die < 4) && decide (s.focus.layer < 8)

end State

/-- THERMAL_SLOWDOWN, R362: a layer above 90 degrees (the focus gives its temperature): the next sweep state. -/
def execThermalSlowdown (s : State) : Out :=
  let f := s.focus
  match slowerState s.sweep with
  | some x => if s.layerNamed ∧ 360 < f.index then .next ((s.readTemp f.die f.layer f.index).wantSweep x) else .refused .notEnabled
  | none => .refused .notEnabled

/-- THERMAL_SPEEDUP, R362: the governor's reading of the hottest layer, which the focus names. Every layer below 80 degrees for 16 passes: one sweep
state towards P0. A layer that is not below 80 degrees puts it off. -/
def execThermalSpeedup (s : State) : Out :=
  if 320 ≤ s.focus.index then
    (if s.layerNamed then .next (s.readTemp s.focus.die s.focus.layer s.focus.index) else .refused .notEnabled)
  else match fasterState s.sweep with
  | some x =>
    if s.hub.hotPass + 16 ≤ s.passNo then
      .next (State.wantSweep { s with layers := s.layers.map fun l =>
        (l.1, { l.2 with temp := min l.2.temp s.focus.index, coolFrom := s.coolSince l.2 (min l.2.temp s.focus.index) }) } x)
    else .refused .notEnabled
  | none => .refused .notEnabled

/-- SWEEP_STATE_ANNOUNCE, R382: the domain's new state, for the wrap that is more than one pass ahead. -/
def execSweepStateAnnounce (s : State) : Out :=
  if s.hub.locked then
    .next { s with sweepNext := some s.focus.sweep, sweepPass := s.passNo + 2, hub := { s.hub with asked := none } }
  else .refused .notEnabled

/-- LAYER_PARK, R362: above 98 degrees at once; above 95 degrees in P4 at the next step boundary. -/
def execLayerPark (s : State) : Out :=
  let f := s.focus
  if !s.layerNamed || (s.layer f.die f.layer).mode != .swept then .refused .notEnabled
  else if 392 < f.index then .next ((s.readTemp f.die f.layer f.index).parkLayer f.die f.layer true)
  else if 380 < f.index ∧ s.sweep = .p4 then
    .next ((s.readTemp f.die f.layer f.index).modLayer f.die f.layer fun x => { x with parkNext := true })
  else .refused .notEnabled

/-- LAYER_UNPARK, R362: the governor's reading of a parked layer. Where it has been below 85 degrees for one pass, it is unparked at the next wrap; at 85
degrees or more the pass begins anew. -/
def execLayerUnpark (s : State) : Out :=
  let f := s.focus
  if s.layerNamed ∧ (s.layer f.die f.layer).mode = .parked then
    let s1 := s.readTemp f.die f.layer f.index
    .next (if f.index < 340 ∧ (s.layer f.die f.layer).coolFrom.any (fun c => decide (c + 4096 ≤ s.stepNo)) then
      s1.modLayer f.die f.layer fun x => { x with unparkNext := true } else s1)
  else .refused .notEnabled

/-- LAYER_POWER_OFF, R362, R364: a parked layer that reaches 100 degrees, or has been parked for 50 ms: its rows are lost, and the dirty rows of its
parking buffers are discarded and counted. -/
def execLayerPowerOff (s : State) : Out :=
  let f := s.focus
  if s.layerNamed ∧ (s.layer f.die f.layer).mode = .parked ∧ (400 ≤ f.index ∨ 50000000 ≤ (s.layer f.die f.layer).parkedNs) then
    let lost := (s.parkedRows.filter (State.layerRows f.die f.layer)).length
    let s1 := s.readTemp f.die f.layer f.index
    let s2 := { s1 with parkedRows := s1.parkedRows.filter fun k => !State.layerRows f.die f.layer k }
    let s3 := State.modLayer s2 f.die f.layer fun x => { x with mode := .off, parkNext := false, unparkNext := false }
    .next ((s3.markRiders f.die f.layer 10).layerNotice f.die f.layer 9 (wd lost) 0)
  else .refused .notEnabled

/-! ### Plots (R292) -/

/-- POWER_REQUEST, R292, R365: plot `index` goes to self-refresh or power-down: at once (flag; with `slot` 1 on a trip that leaves no time to commit its
rows; or where it has no live accumulators and holds no rider), else deferred. -/
def execPowerRequest (s : State) : Out :=
  let f := s.focus
  let p := s.plot f.index
  if numElems ≤ f.index ∨ p.power ≠ .active ∨ f.power = .active then .refused .notEnabled
  else if f.flag ∨ (!s.liveAccs f.index && !s.heldIn f.index) = true then .next (s.setPower f.index f.power (f.flag && f.slot == 1))
  else .next (s.setPlot f.index { p with deferred := some (f.power, s.stepNo) })

/-- PLOT_WAKE, R292: the plot is active again, and its riders visit at the next visits the ranks that they missed. -/
def execPlotWake (s : State) : Out :=
  let f := s.focus
  if f.index < numElems ∧ (s.plot f.index).power ≠ .active then .next (s.setPlot f.index {}) else .refused .notEnabled

/-! ### The core watchdog (R366) -/

/-- R366: the hub's next sample of BEAT is due. -/
def State.beatDue (s : State) (c : Nat) : Bool := (s.core c).beatArmed && decide ((s.core c).beatAt ≤ s.cycle)

/-- CORE_WATCHDOG, R366: a sample of BEAT; the fourth in a row that finds it unchanged writes notice KIND 11. -/
def execCoreWatchdog (s : State) : Out :=
  let c := s.focus.core
  if !s.beatDue c then .refused .notEnabled
  else
    let v := wd (Memory.read s.mem (localBase c + 0x7F010) 8)
    let x := s.core c
    let n := if v = x.beatLast then x.beatSame + 1 else 0
    let s1 := s.setCore c { x with beatLast := v, beatSame := if 4 ≤ n then 0 else n, beatAt := x.beatAt + 2 ^ 24 }
    .next (if 4 ≤ n then s1.notice c 11 codeWATCHDOG 0 0 0 0 0 v 0 else s1)

/-! ### Edge-slice lines (R360, R361) -/

namespace State

/-- R360: the cores whose slices or data caches hold a line, of any tenant. -/
def lineCores (s : State) (line : Nat) : List Nat :=
  (List.range numCores).filter fun c => (s.set c line).any (fun w => w.line == line) || (s.core c).l1d.any fun l => l.line == line

/-- R344, R360: the tenant mask of a partition: bit n for the tenant of place n that holds the line on one of its cores. -/
def lineMask (s : State) (p line : Nat) : Nat :=
  ((s.partCores p).flatMap fun c =>
    ((s.set c line).filter fun w => w.line == line).map (·.tenant) ++ ((s.core c).l1d.filter fun l => l.line == line).map (·.tenant)).foldl
    (fun m t => m ||| 2 ^ ((s.placeOf p t).getD 0)) 0

/-- R344, R360: a notice about a line, from its slice's tile. -/
def lineNotice (s : State) (c to_ kind tenant line mask : Nat) : State :=
  let n := sliceOf (line * 128)
  s.notice to_ kind codePOISON tenant (4 * stripOfCore c + n % 4) (n / 4) 0 0 (wd (line * 128)) (wd mask)

/-- R360: a line that is dropped from its set. -/
def dropWay (s : State) (c : Nat) (w : WaySt) : State := s.setSet c w.line ((s.set c w.line).filter fun x => x.way != w.way)

/-- R360: another tenant than tenant `t` of partition `p` holds a line in some core's slices or data cache. -/
def lineShared (s : State) (line p t : Nat) : Bool :=
  (List.range numCores).any fun c => (s.set c line).any (fun x => x.line == line && (s.partOf c != p || x.tenant != t)) ||
    (s.core c).l1d.any fun l => l.line == line && (s.partOf c != p || l.tenant != t)

/-- R344, R360, R361: the refetch of a line, which was held as in `before`, reads an uncorrectable block: its page is retired. -/
def retirePage (s before : State) (c : Nat) (w : WaySt) : State :=
  let page := w.line / 32
  let others := before.lineShared w.line (s.partOf c) w.tenant
  let s1 := { s with retired := if s.retired.contains page then s.retired else page :: s.retired,
                     shared := if others && !s.shared.contains page then page :: s.shared else s.shared }
  ((c :: before.lineCores w.line).dedup).foldl (fun st d => st.lineNotice c d 6 w.tenant w.line (before.lineMask (s.partOf d) w.line)) s1

end State

/-- EDGE_LINE_ERROR, R360: the line of tenant `index` at address `addr` in core `core`'s slices is uncorrectable. A clean one is fetched again
(flag: from a hub block that is uncorrectable), a dirty one is lost. -/
def execEdgeLineError (s : State) : Out :=
  let f := s.focus
  match s.sliceFind f.core f.index (f.addr / 128) with
  | none => .refused .notEnabled
  | some w =>
    if w.dirty ≠ 0 then
      .next { (s.dropWay f.core w) with poisoned := if s.poisoned.contains w.line then s.poisoned else w.line :: s.poisoned }
    else if f.flag then .next (((s.dropWay f.core w).lineNotice f.core f.core 5 w.tenant w.line 0).retirePage s f.core w)
    else
      .next ((s.setSet f.core w.line ((s.set f.core w.line).map fun x => if x.way = w.way then { x with data := s.memLine w.line } else x)).lineNotice
        f.core f.core 5 w.tenant w.line 0)

end Sys2Proof.Machine
end

