-- ==== Sys2Proof/Machine/Device.lean ====
section
/-! DEFINITION. The hub: links and the domain lock (R380 to R382), the group table and frame masks (R381, R383), start records (R378), the host's
memory accesses (R377), the management controller's requests (R357, R361, R379), resets, boot (R367, R393) and checkpoints (R392). -/

namespace Sys2Proof.Machine

namespace State

def modHub (s : State) (f : HubSt → HubSt) : State := { s with hub := f s.hub }

/-! ### Links (R380, R382) -/

def link (s : State) (n : Nat) : LinkSt := Table.getD s.hub.links n {}
def setLink (s : State) (n : Nat) (x : LinkSt) : State := s.modHub fun h => { h with links := Table.put h.links n x }

/-- R382: some link is up. -/
def anyLink (s : State) : Bool := s.hub.links.any fun l => l.2.up

/-- R386: a collective has a member on another device for which `p` holds. -/
def hasMember (s : State) (p : Nat → Bool) (x : CollSt) : Bool := x.conf.members.any fun m => m.1 != s.hub.device.toNat && p m.1

/-- R382, R386: what a LINK trap says of link `n`. -/
def linkDetail (s : State) (n : Nat) : Word := wd (n + (s.link n).peer * 2 ^ 16)

/-- R382, R386: a locked device leaves the domain lock; its collectives with other devices end with outcome 2. -/
def leaveLock (s : State) (n : Nat) : State :=
  if s.hub.locked then (s.failColls 2 (s.linkDetail n) (s.hasMember fun _ => true)).modHub fun h => { h with locked := false } else s

/-- R382: a device none of whose links is up runs free. -/
def loosen (s : State) (n : Nat) : State := if s.anyLink then s else s.leaveLock n

/-- R382: steps since reset at a pass and a cursor. -/
def stepOf (pass cursor : Nat) : Nat := pass * 4096 + cursor

/-- R382: a marker from a link trims the step boundary by `n` cycles towards its sender, once per step. -/
def trimStep (s : State) (pass cursor n : Nat) : State :=
  if s.hub.trimmed then s
  else
    let c := if s.stepNo < stepOf pass cursor then min s.stepLen (s.stepCyc + n) else s.stepCyc - n
    State.modHub { s with stepCyc := c } fun h => { h with trimmed := true }

/-- R382: the time master, as far as the links tell (log entry 136): the lowest-numbered device that is reached over a link that is up, or this one. -/
def timeMaster (s : State) : Nat := s.hub.links.foldl (fun m l => if l.2.up then min m l.2.low else m) s.hub.device.toNat

/-- R382: a link leads to the time master, another device. -/
def towardsMaster (s : State) (n : Nat) : Bool := decide ((s.link n).low = s.timeMaster) && decide (s.timeMaster < s.hub.device.toNat)

/-- R382: the device is within one step of a sender. -/
def inStep (s : State) (pass cursor : Nat) : Bool :=
  decide (s.stepNo ≤ stepOf pass cursor + 1) && decide (stepOf pass cursor ≤ s.stepNo + 1)

end State

/-- LINK_DOWN, R380, R386: link `link` goes down; the collectives whose group uses it end with outcome 2. -/
def execLinkDown (s : State) : Out :=
  let n := s.focus.link
  let x := s.link n
  if 16 ≤ n ∨ !x.up then .refused .notEnabled
  else
    let s1 := (s.setLink n { x with up := false }).failColls 2 (s.linkDetail n) fun c => c.conf.links.contains n
    .next (s1.loosen n)

/-- LINK_UP, R380, R382: link `link` carries flits and markers, from device `index`. -/
def execLinkUp (s : State) : Out :=
  let n := s.focus.link
  if 16 ≤ n ∨ (s.link n).up ∨ 1024 ≤ s.focus.index then .refused .notEnabled
  else .next (s.setLink n { up := true, peer := s.focus.index, low := s.focus.index })

/-- PASS_MARKER, R382, R386: a marker with pass `index` and cursor `slot` over link `link`, over which device `src` is the lowest reached. One that leads to
the time master trims the step boundary (by `place` cycles, at most 8). At a wrap a device within one step of it joins the lock. A device that is more than
one step away leaves it: this one, where the marker leads to the time master, else the sender. -/
def execPassMarker (s : State) : Out :=
  let f := s.focus
  let x := s.link f.link
  if 16 ≤ f.link ∨ !x.up ∨ 4096 ≤ f.slot ∨ 8 < f.place then .refused .notEnabled
  else
    let s1 := s.setLink f.link { x with pass := f.index, cursor := f.slot, low := min x.peer f.src }
    let lead := s1.towardsMaster f.link
    let s2 := if lead then s1.trimStep f.index f.slot f.place else s1
    .next (if s.inStep f.index f.slot then
        (if s.cursor = 0 ∧ (lead ∨ s1.timeMaster = s.hub.device.toNat) then s2.modHub fun h => { h with locked := true } else s2)
      else if lead then s2.leaveLock f.link
      else s2.failColls 2 (s2.linkDetail f.link) (s.hasMember fun d => d == x.peer))

/-! ### Group table and frame masks (R381, R383) -/

/-- R383: an entry of the group table is in order: P from 1 to 1024, this partition at its rank, links where a member is on
another device, and a tree over the ranks. -/
def groupLegal (device part : Nat) (g : GroupSt) : Bool :=
  let p := g.members.length
  (!g.links.isEmpty || g.members.all fun m => m.1 == device) &&
  decide (1 ≤ p) && decide (p ≤ 1024) && g.members[g.rank]? == some (device, part) && decide (g.tenant < 256) && g.links.all (fun l => decide (l < 16)) &&
    g.tree.zipIdx.all (fun x => x.1.all fun j => decide (j < p + x.2)) &&
    (g.tree.flatten).length + 1 == p + g.tree.length && (g.tree.flatten).Nodup

/-- GROUP_TABLE_WRITE, R383: entry `index` of partition `part`'s group table. -/
def execGroupTableWrite (s : State) : Out :=
  let f := s.focus
  let k := 256 * f.part + f.index
  if numParts ≤ f.part ∨ 256 ≤ f.index ∨ (s.part f.part).dies = 0 then .refused .notEnabled
  else match f.group with
    | none => .next { s with groups := Table.erase s.groups k }
    | some g => if groupLegal s.hub.device.toNat f.part g then .next { s with groups := Table.put s.groups k { g with seq := 0 } } else .refused .notEnabled

/-- FRAME_MASK_WRITE, R381: partition `part`'s mask for link `link` becomes `addr`: frame 63 and other partitions' frames stay out of it. -/
def execFrameMaskWrite (s : State) : Out :=
  let f := s.focus
  let free := (List.range numParts).all fun p => p == f.part || (Table.getD s.hub.masks (16 * p + f.link) 0) &&& f.addr == 0
  if f.part < numParts ∧ f.link < 16 ∧ f.addr < 2 ^ 63 ∧ free then
    .next (s.modHub fun h => { h with masks := Table.putD h.masks (16 * f.part + f.link) f.addr 0 })
  else .refused .notEnabled

/-! ### The host (R377, R378) -/

/-- R361: bytes of hub memory of which some block is retired or poisoned. -/
def hubSpanBad (s : State) (a n : Nat) : Bool := decide (0 < n) && (List.range ((a % 128 + n + 127) / 128)).any fun i => s.hubBad (a + 128 * i)

/-- HOST_MEMORY_ACCESS, R254, R361, R377: a write of `bytes` at `addr` (flag), or a read of `index` bytes, at the hub memory controller, or in the host's own
memory, where the window shows it. It meets poison in a retired or poisoned block. -/
def execHostMemoryAccess (s : State) : Out :=
  let f := s.focus
  let n := if f.flag then f.bytes.length else f.index
  if hostEnd < f.addr + n then .refused .notEnabled
  else if hubSpanBad s f.addr n then .next (s.modHub fun h => { h with refused := true, reply := [] })
  else if f.flag then .next { s with mem := Memory.writeBytes s.mem f.addr f.bytes }
  else .next (s.modHub fun h => { h with refused := false, reply := (Memory.bytes s.mem f.addr n).map fun b => b.setWidth 64 })

/-- R378: the fields of a start record. -/
def startOf (w : List Word) : StartRec :=
  { place := fld (cw w 0) 0 8, strip := fld (cw w 0) 8 8, thread := fld (cw w 0) 16 2, entry := cw w 1, arg := cw w 2, stack := cw w 3, done := cw w 4,
    words := w }

/-- START_RECORD, R378: the host writes the record in `words` at `addr` of partition `part`'s start ring in hub memory and rings its doorbell; the hub
runtime passes it to thread 0 of the partition's lowest core (log entry 140). -/
def execStartRecord (s : State) : Out :=
  let f := s.focus
  match s.partCores f.part with
  | [] => .refused .notEnabled
  | c :: _ =>
    if f.words.length ≠ 8 ∨ f.addr % 64 ≠ 0 ∨ hubMemory ≤ f.addr ∨ s.hub.phase ≠ .running then .refused .notEnabled
    else if hubSpanBad s f.addr 64 then .next (s.modHub fun h => { h with refused := true, reply := [] })
    else .next (State.modCore { s with mem := State.writeWords s.mem f.addr f.words } c fun x => { x with starts := x.starts ++ [startOf f.words] })

/-! ### The management controller (R379) -/

namespace State

/-- R379: the answer to a request that is refused: a reason code, whose value is open; nothing else changes. -/
def refuseRequest (s : State) : State :=
  let x := s.drawFree
  x.2.modHub fun h => { h with refused := true, reply := [x.1] }

/-- R379: the answer to a request that is granted. -/
def grantRequest (s : State) (l : List Word) : State := s.modHub fun h => { h with refused := false, reply := l }

/-- R379: a request is granted with an effect, or refused. -/
def manage (s : State) (ok : Bool) (eff : State → State) : Out := .next (if ok then eff (s.grantRequest []) else s.refuseRequest)

/-- R379: a master holds its reset lock. -/
def lockOf (s : State) : Master → Bool
  | .host => s.hub.hostLock
  | .sideBand => s.hub.sideLock

/-- R379: a master takes or drops its reset lock. -/
def setLock (s : State) (m : Master) (on : Bool) : State :=
  s.modHub fun h => match m with
    | .host => { h with hostLock := on }
    | .sideBand => { h with sideLock := on }

/-- R379: the other master holds its reset lock. -/
def lockedOut (s : State) (m : Master) : Bool :=
  match m with
  | .host => s.hub.sideLock
  | .sideBand => s.hub.hostLock

/-- R356: the claim on a target. -/
def claimOf (s : State) : ClaimTarget → Option Master
  | .tenant p n => (s.place p n).claim
  | .core c => (s.core c).claim

def setClaim (s : State) (t : ClaimTarget) (m : Option Master) : State :=
  match t with
  | .tenant p n => s.modPlace p n fun x => { x with claim := m }
  | .core c => s.modCore c fun x => { x with claim := m }

/-- R379: a target that exists. -/
def targetOk (s : State) : ClaimTarget → Bool
  | .tenant p n => decide (p < numParts) && decide (1 ≤ n) && decide (n < 16) && fld (s.place p n).tcfg 63 1 == 1
  | .core c => decide (c < numCores)

/-- R379: a claim stands that covers a core of a target: one on the core, or on a tenant of its partition. -/
def claimStands (s : State) (t : ClaimTarget) : Bool :=
  let places := fun (p : Nat) => (List.range' 1 15).any fun n => (s.place p n).claim.isSome
  match t with
  | .tenant p _ => places p || (s.partCores p).any fun c => (s.core c).claim.isSome
  | .core c => (s.core c).claim.isSome || places (s.partOf c)

/-- R356: a thread lies under a claim on a target. -/
def underClaim (s : State) (k : Nat) : ClaimTarget → Bool
  | .tenant p n => s.partOf (coreOf k) == p && s.placeOf p (s.thread k).tenant == some n
  | .core c => coreOf k == c

/-- R357: threads that BRK stopped under a claim become ordinary STOPPED threads. -/
def unmarkStops (s : State) (t : ClaimTarget) : State :=
  { s with threads := s.threads.map fun (e : Nat × ThreadSt) => if s.underClaim e.1 t then (e.1, { e.2 with brkStop := false }) else e }

end State

/-- READ_NOTICES, R379: `index` 0 reads the notices, 1 the temperatures, 2 STEPLEN, 3 the recovery reason. -/
def execReadNotices (s : State) : Out :=
  let r := match s.focus.index with
    | 0 => s.notices.flatMap fun n => [n.word0, n.word1, n.detail0, n.detail1]
    | 1 => (List.range 32).map fun i => wd (s.layer (i / 8) (i % 8)).temp
    | 2 => [wd s.stepLen]
    | _ => [wd s.hub.reason]
  .next (s.grantRequest r)

/-- BREAK_CLAIM, R356, R379. -/
def execBreakClaim (s : State) : Out :=
  let f := s.focus
  s.manage (s.targetOk f.target && !s.claimStands f.target) fun st => st.setClaim f.target (some f.master)

/-- BREAK_RELEASE, R357, R379. -/
def execBreakRelease (s : State) : Out :=
  let f := s.focus
  s.manage (s.claimOf f.target == some f.master) fun st => (st.unmarkStops f.target).setClaim f.target none

/-- BREAK_RESUME, R356, R379: the claim holder resumes thread `thread`, at `pc` or, where that is 0, at its resume address. -/
def execBreakResume (s : State) : Out :=
  let f := s.focus
  let t := s.thread f.thread
  s.manage (s.claimOf f.target == some f.master && s.underClaim f.thread f.target && t.run == .stopped && t.brkStop) fun st =>
    st.resumeStopped f.thread (if f.pc / 4 = 0 then t.resume else f.pc / 4 * 4)

/-- RUNTIME_THREAD_RESTART, R357: with the effect of TRUN. -/
def execRuntimeThreadRestart (s : State) : Out :=
  if s.focus.thread < numThreads then .next (s.restartThread s.focus.thread (s.focus.pc.toNat / 4)) else .refused .notEnabled

/-- POISON_MARK_CLEAR, R361: the mark of the page (flag) or block at `addr`. -/
def execPoisonMarkClear (s : State) : Out :=
  let a := s.focus.addr
  if s.focus.flag then
    .next { s with retired := s.retired.filter fun p => p != a / 4096, shared := s.shared.filter fun p => p != a / 4096 }
  else .next { s with poisoned := s.poisoned.filter fun l => l != a / 128 }

/-- TAKE_RESET_LOCK, R379: a master's own lock, which excludes the other's resets. -/
def execTakeResetLock (s : State) : Out := s.manage true fun st => st.setLock s.focus.master true

/-- DROP_RESET_LOCK, R379. -/
def execDropResetLock (s : State) : Out := s.manage (s.lockOf s.focus.master) fun st => st.setLock s.focus.master false

/-- LOAD_FIRMWARE, R367, R379: image `index`, whose signatures verify (flag). The host loads one in recovery mode only. -/
def execLoadFirmware (s : State) : Out :=
  let f := s.focus
  s.manage (f.flag && (f.master == .sideBand || s.hub.phase == .recovery)) fun st => st.modHub fun h => { h with firmware := f.index }

/-! ### Resets (R29, R379, R386) -/

namespace State

/-- Keys of a table that lie in a partition are dropped. -/
def dropKeys {α : Type} (t : Table α) (gone : Nat → Bool) : Table α := t.filter fun e => !gone e.1

/-- R383, R386: a partition's own collectives end, and those that it was a member of end with outcome 3 on this device. -/
def resetColls (s : State) (p : Nat) : State :=
  let mine := List.filter (fun x : Nat × CollSt => x.2.part == p) s.colls
  let s1 := { s with colls := List.filter (fun x : Nat × CollSt => x.2.part != p) s.colls }
  let keys := (mine.map fun x => x.2.conf.key) ++ (s.groups.filterMap fun g => if g.1 / 256 = p then some g.2.key else none)
  s1.failColls 3 (wd (s.hub.device.toNat * 2 ^ 16)) fun c => keys.contains c.conf.key

/-- R193, R210: a partition's riders, requests and generators end without completion; their pins are released. -/
def resetEngines (s : State) (p : Nat) : State :=
  let rs := List.filter (fun x : Nat × RiderSt => x.2.part == p) s.riders
  let gs := List.filter (fun x : Nat × GenSt => s.genPart x.1 == p) s.gens
  let s1 := rs.foldl (fun st x => if x.2.pinned then st.unpin (dieOfCore x.2.core) x.2.pins else st) s
  let s2 := gs.foldl (fun st x => st.unpin (dieOfCore x.2.core) x.2.pins) s1
  { s2 with riders := List.filter (fun x : Nat × RiderSt => x.2.part != p) s2.riders, gens := dropKeys s2.gens fun k => s.genPart k == p }

/-- R29: the boot firmware places a supervisor image in the local memory of the cores that `cs` lists, and releases them. -/
def releaseCores (s : State) (image : List Byte) (cs : List Nat) : State :=
  cs.foldl (fun (st : State) c => State.modCore { st with mem := Memory.writeBytes st.mem (localBase c) image } c fun x => { x with inReset := false }) s

/-- R29: cores are held in reset. -/
def holdCores (s : State) (cs : List Nat) : State := cs.foldl (fun st c => st.modCore c fun x => { x with inReset := true }) s

/-- R379: a partition is reset: its cores are as R29 says, held until an image has been placed, and what belongs to its tenants and fields is gone. Its
memories, rows and twin states stay. -/
def resetPartition (s : State) (p : Nat) : State :=
  let x := s.part p
  let mineCore := fun (c : Nat) => x.hasCore c
  let mineElem := fun (e : Nat) => x.hasCore (coreOfElem e)
  let s1 := (s.resetColls p).resetEngines p
  let s2 := s1.startTlbi p (wd (2 * 2 ^ 62))
  holdCores { s2 with
    threads := dropKeys s2.threads fun k => mineCore (coreOf k), cores := dropKeys s2.cores mineCore,
    corePlaces := dropKeys s2.corePlaces fun k => mineCore (k / 16), places := dropKeys s2.places fun k => k / 16 == p,
    slices := dropKeys s2.slices fun k => mineCore (k / 512), windows := dropKeys s2.windows fun k => mineElem (k / 16),
    elems := dropKeys s2.elems mineElem, savedElems := dropKeys s2.savedElems fun k => mineElem (k / 16),
    haltElems := dropKeys s2.haltElems fun k => mineElem (k / 16), fields := dropKeys s2.fields fun k => mineElem (k / 256),
    flights := List.filter (fun f : Nat × FlightSt => s.boundPart f.2.bound != p) s2.flights, groups := dropKeys s2.groups fun k => k / 256 == p,
    parts := Table.put s2.parts p { dies := x.dies, strips := x.strips } } ((List.range numCores).filter mineCore)

/-- R29, R367, R379: a master resets a partition: the boot firmware places the image and releases the cores; while the device is starting or in
recovery mode they stay held. -/
def restartPartition (s : State) (p : Nat) (image : List Byte) : State :=
  let s1 := s.resetPartition p
  if s.hub.phase = .running then s1.releaseCores image ((List.range numCores).filter (s.part p).hasCore) else s1

/-- R379: the device is reset: the state is that of reset, the cores are held until the boot has run (R393), and both locks are dropped. Memory,
the marks of its blocks and rows and layers that are off stay, and so do the device number, the firmware and the count of failed starts; twin states
are 0 (R277). -/
def resetDevice (s : State) : State :=
  let r := State.reset
  holdCores
    { r with mem := s.mem, retired := s.retired, poisoned := s.poisoned, badWords := s.badWords, shared := s.shared,
             rowErrors := s.rowErrors, rowPoison := s.rowPoison, layers := List.filter (fun l : Nat × LayerSt => l.2.mode == .off) s.layers,
             freeCount := s.freeCount, powered := s.powered,
             hub := { phase := .starting, failures := s.hub.failures, reason := s.hub.reason, firmware := s.hub.firmware, device := s.hub.device } }
    (List.range numCores)

/-- R379: after power has been on and off, no memory holds what it held: every byte is as after power-on (log entry 3). -/
def powerUp (s : State) : State :=
  holdCores
    { State.reset with freeCount := s.freeCount,
                       hub := { phase := .starting, failures := s.hub.failures, reason := s.hub.reason, firmware := s.hub.firmware,
                                hostLock := s.hub.hostLock, sideLock := s.hub.sideLock, device := s.hub.device } }
    (List.range numCores)

end State

/-- PARTITION_RESET, R379: partition `part`, whose cores get the supervisor image of `bytes`. -/
def execPartitionReset (s : State) : Out :=
  let f := s.focus
  s.manage (!s.lockedOut f.master && decide (f.part < numParts) && (s.part f.part).dies != 0 && decide (f.bytes.length ≤ localBytes)) fun st =>
    st.restartPartition f.part f.bytes

/-- DEVICE_RESET, R379. -/
def execDeviceReset (s : State) : Out := s.manage (!s.lockedOut s.focus.master) fun st => st.resetDevice

/-- POWER_ON, R379: by the side-band alone. -/
def execPowerOn (s : State) : Out := s.manage (s.focus.master == .sideBand && !s.powered) fun st => st.powerUp

/-- POWER_OFF, R379: by the side-band alone. -/
def execPowerOff (s : State) : Out := s.manage (s.focus.master == .sideBand && s.powered) fun st => { st with powered := false }

/-! ### Boot (R367, R393) -/

/-- R367: a start has failed for a reason; the third failure in a row leads to recovery mode. -/
def State.failStart (s : State) (reason : Nat) : State :=
  s.modHub fun h => { h with failures := h.failures + 1, reason := reason, phase := if 2 ≤ h.failures then .recovery else .starting }

/-- R321: a legal shape of a partition, DIES and STRIPS: whole dies, or a run of strips of one die. -/
def shapeOk (w : Word) : Bool :=
  let dies := (List.range 4).filter fun d => fld w (8 + d) 1 == 1
  let strips := (List.range 8).filter fun k => fld w k 1 == 1
  let run := strips == List.range' (strips.headD 0) strips.length
  fld w 12 52 == 0 && !dies.isEmpty && !strips.isEmpty && run && (strips.length == 8 || dies.length == 1)

/-- R321: partitions that share no strip. -/
def shapesApart (ws : List Word) : Bool :=
  (List.range numCores).all fun c => (ws.filter fun w => fld w (8 + dieOfCore c) 1 == 1 && fld w (stripOfCore c) 1 == 1).length ≤ 1

/-- R321, R393: the runtime creates the partitions that `words` lists as PART words; one of all dies where it lists none. -/
def State.createParts (s : State) (ws : List Word) : State :=
  let l := if ws.isEmpty then [(wd 0xFFF)] else ws
  { s with parts := (l.zipIdx.map fun x => (x.2, { dies := BitVec.ofNat 4 (fld x.1 8 4), strips := BitVec.ofNat 8 (fld x.1 0 8) })) }

/-- R22, R23, R29: the cores come out of reset with CYCLE, CURSOR and PASS at their reset values, from which on time counts. -/
def State.startClock (s : State) : State :=
  { s with cycle := 0, stepCyc := 0, cursor := 0, passNo := 0, sweep := .p0, sweepNext := none, sweepPass := 0, rowBufs := s.rowBufs.map fun x => (x.1, 0),
           plots := s.plots.map fun x => (x.1, { x.2 with deferred := x.2.deferred.map fun d => (d.1, 0) }),
           layers := s.layers.map fun x => (x.1, { x.2 with coolFrom := x.2.coolFrom.map fun _ => 0 }),
           hub := { s.hub with hotPass := 0 } }

/-- R382, R393: the hub as a boot leaves it: its device number, the links that it has trained, with the markers that have come over them; it has joined the
domain lock where these are within one step. -/
def State.joinDomain (s : State) (device : Nat) (links : Table LinkSt) : State :=
  s.modHub fun h => { h with device := BitVec.ofNat 10 device, locked := !links.isEmpty && links.all (fun l => s.inStep l.2.pass l.2.cursor),
                             links := links.foldl (fun t l => Table.put t l.1 { l.2 with up := true }) h.links }

/-- BOOT, R29, R367, R393: a start succeeds (flag), with the partitions of `words`, a supervisor image for each in `images`, the device number `index` and the
links `links`, or fails for reason `index`. Cores that no partition holds stay in reset. -/
def execBoot (s : State) : Out :=
  let f := s.focus
  if s.hub.phase ≠ .starting then .refused .notEnabled
  else if f.flag then
    if f.words.length ≤ numParts ∧ f.words.all shapeOk ∧ shapesApart f.words ∧ f.images.all (fun b => decide (b.length ≤ localBytes)) ∧ f.index < 1024 ∧
        f.links.all (fun l => decide (l.1 < 16) && decide (l.2.peer < 1024) && decide (l.2.low ≤ l.2.peer)) then
      let s1 := (s.createParts f.words).startClock
      let s2 := s1.liveParts.foldl (fun st p => st.releaseCores (f.images.getD p []) (st.partCores p)) s1
      .next ((s2.joinDomain f.index f.links).modHub fun h => { h with phase := .running, failures := 0, reason := 0 })
    else .refused .notEnabled
  else if 1 ≤ f.index ∧ f.index ≤ 7 then .next (s.failStart f.index)
  else .refused .notEnabled

/-- START_TIMEOUT, R367: the runtime has not declared itself ready within 30 s. -/
def execStartTimeout (s : State) : Out := if s.hub.phase = .starting then .next (s.failStart 8) else .refused .notEnabled

/-! ### Checkpoints (R392) -/

/-- CHECKPOINT, R392: the selectors are to be frozen at the next wrap, and the layers of mask `index` copied, `slot` ranks a pass, and hub memory. -/
def execCheckpoint (s : State) : Out :=
  s.manage (s.hub.ckpt == .none) fun st =>
    st.modHub fun h => { h with ckpt := .asked, copy := { mask := s.focus.index % 256, share := max 1 s.focus.slot } }

/-- CHECKPOINT_RELEASE, R392: the tier has acknowledged the last byte; the selectors are released at the next wrap. -/
def execCheckpointRelease (s : State) : Out :=
  if s.hub.ckpt = .frozen ∧ 4096 ≤ s.hub.copy.rank ∧ 4096 ≤ s.hub.copy.piece then .next (s.modHub fun h => { h with ckpt := .acked })
  else .refused .notEnabled

end Sys2Proof.Machine
end

