-- ==== Sys2Proof/Machine/Lanes.lean ====
section
/-! DEFINITION. Lane movement and reduction: slot opcodes 0x50 to 0x5A (R143 to R147). -/

namespace Sys2Proof.Machine

/-- R117, R143: the VALID of a source in units. -/
def unitValid (f : SlotFields) (x : Src) : Nat :=
  match x.tok with
  | some t => if fmtOf f = 0x17 then t.valid / 2 else t.valid
  | none => unitCount f

/-- R143: a unit of a source; a unit at or above its VALID is read as 0. -/
def unitAt (f : SlotFields) (x : Src) (i : Nat) : Nat := if i < unitValid f x then x.lane (unitWidth f) i else 0

/-- R143: a lane-movement slot that sends `n` units `k i`. -/
def sendUnits (s : State) (g : Firing) (f : SlotFields) (n lat hold : Nat) (k : Nat → Nat) : Out :=
  s.sendResult g kData (lanesValid f n) (fmtCode f) (packLanes (unitWidth f) k n) lat hold 0

/-- PERM, R143: the full crossbar; it holds the port for 4 cycles. -/
def execPerm (f : SlotFields) (s : State) : Out :=
  s.value 0x50 f 6 4 fun g =>
    let a := s.srcA g
    let b := s.srcB g
    sendUnits s g f (unitValid f b) 6 4 fun i => unitAt f a (unitAt f b i % unitCount f)

/-- BFLY, R144: lo to dst0, hi to dst1. -/
def execBfly (f : SlotFields) (s : State) : Out :=
  s.value 0x51 f 2 1 fun g =>
    let a := s.srcA g
    let b := s.srcB g
    let d := 2 ^ f.extra.toNat
    let u := unitCount f
    let n := min u (2 * d * ceilDiv (max (unitValid f a) (unitValid f b)) (2 * d))
    let lo := fun i => if i % (2 * d) < d then unitAt f a i else unitAt f b (i - d)
    let hi := fun i => if i % (2 * d) < d then unitAt f a (i + d) else unitAt f b i
    match s.resultTag g (fmtCode f) with
    | .error code => s.fault g code (State.tagPos g)
    | .ok r =>
      let tok := fun (k : Nat → Nat) => mkToken r.2 kData (lanesValid f n) (fmtCode f) (packLanes (unitWidth f) k n)
      .next (r.1.endFiring g g.toks [(f.dst0.toNat, tok lo), (f.dst1.toNat, tok hi)] 2 1 0)

/-- ROT, R143. -/
def execRot (f : SlotFields) (s : State) : Out :=
  s.value 0x52 f 2 1 fun g =>
    let a := s.srcA g
    let v := unitValid f a
    let sh := unitAt f (s.srcB g) 0 % v
    sendUnits s g f v 2 1 fun i => unitAt f a ((i + v - sh) % v)

/-- SLOT_BCAST, R143. -/
def execSlotBcast (f : SlotFields) (s : State) : Out :=
  s.value 0x53 f 2 1 fun g =>
    let v := unitAt f (s.srcA g) (unitAt f (s.srcB g) 0 % unitCount f)
    sendUnits s g f (unitCount f) 2 1 fun _ => v

/-- R145: JOIN and SPLIT: relabels the payload to the colour in l7 of another width. -/
def relabel (s : State) (op : Nat) (f : SlotFields) (up : Bool) : Out :=
  s.fire op f fun g =>
    let n := bits f.ext.toNat 0 3
    let w' : Int := if up then (g.width : Int) + n else (g.width : Int) - n
    let x := s.elem g.e
    let p := s.elemPart g.e
    let c := fld (Table.getD x.active.lits 7 0) 0 12
    if 5 < w' ∨ w' < 0 ∨ s.colourTenant p c ≠ some x.owner ∨ s.colourWidth p c ≠ some w'.toNat then
      s.fault g codeTAGDEPTH (if f.srcA.toNat ≤ 2 then f.srcA.toNat else 3)
    else match s.resultTag g w'.toNat with
      | .error code => s.fault g code (State.tagPos g)
      | .ok r =>
        let a := s.srcA g
        let v := a.valid (lanesOf g.width)
        let payload := match a.tok with
          | some t => t.payload.toNat
          | none => packLanes (laneWidth g.width) (fun i => a.lane (laneWidth g.width) i) (lanesOf g.width)
        let kind := match a.tok with
          | some t => if t.kind = kEos then kEos else kData
          | none => kData
        let t : Token := { tag := setTagColour r.2 c, kind := kind, valid := if up then ceilDiv v (2 ^ n) else v * 2 ^ n, width := w'.toNat,
                           payload := BitVec.ofNat 1024 payload }
        r.1.sendBoth g t 2 1 0

/-- JOIN, R145. -/
def execJoin (f : SlotFields) (s : State) : Out := relabel s 0x54 f true

/-- SPLIT, R145. -/
def execSplit (f : SlotFields) (s : State) : Out := relabel s 0x55 f false

/-- R146: reduces the valid lanes into lane 0; without a valid lane the result has VALID 0. -/
def reduceLanes (s : State) (op : Nat) (f : SlotFields) (k : Firing → FRes → Nat → FRes) : Out :=
  s.value op f 4 1 fun g =>
    let w := laneWidth (fmtCode f)
    let a := s.srcA g
    let n := a.valid (1024 / w)
    if n = 0 then s.sendResult g kData 0 (fmtCode f) 0 4 1 0
    else
      let r := (List.range' 1 (n - 1)).foldl (fun acc i => k g acc (a.lane w i)) (k g { bits := a.lane w 0, flags := 0 } (a.lane w 0))
      s.sendResult g kData 1 (fmtCode f) r.bits 4 1 r.flags

/-- RSUM, R146. -/
def execRsum (f : SlotFields) (s : State) : Out :=
  s.value 0x56 f 4 1 fun g =>
    let w := laneWidth (fmtCode f)
    let a := s.srcA g
    let n := a.valid (1024 / w)
    s.sendResult g kData (min n 1) (fmtCode f) ((List.range n).foldl (fun z i => (z + a.lane w i) % 2 ^ w) 0) 4 1 0

/-- R146, R136: one step of RMAX or RMIN. In a float format a signalling NaN in any lane stays: the result is the canonical NaN. -/
def pickStep (s : State) (f : SlotFields) (lower : Bool) (g : Firing) (acc : FRes) (v : Nat) : FRes :=
  if isIntFmt (fmtOf f) then
    let w := laneWidth (fmtCode f)
    let sg := isSignedFmt (fmtOf f)
    let take := if lower then decide (laneInt sg w v < laneInt sg w acc.bits) else decide (laneInt sg w acc.bits < laneInt sg w v)
    { bits := if take then v else acc.bits, flags := 0 }
  else
    let ff := slotFloat f
    let m := fpcAt s g
    if acc.flags ≠ 0 then acc else fPick lower ff (ff.daz (fpcDaz m) acc.bits) (ff.daz (fpcDaz m) v)

/-- RMAX, R146. -/
def execRmax (f : SlotFields) (s : State) : Out := reduceLanes s 0x57 f (pickStep s f false)

/-- RMIN, R146. -/
def execRmin (f : SlotFields) (s : State) : Out := reduceLanes s 0x58 f (pickStep s f true)

/-- LANEIX, R143. -/
def execLaneix (f : SlotFields) (s : State) : Out :=
  s.value 0x59 f 2 1 fun g => sendUnits s g f (unitCount f) 2 1 fun i => i

/-- R147: one level of the tree: pairs of present values are added, a single one stays. -/
def sumLevel (add : Nat → Nat → FRes) : List (Option Nat) → List (Option Nat) × Nat
  | a :: b :: r =>
    let rest := sumLevel add r
    match a, b with
    | some x, some y => (some (add x y).bits :: rest.1, (add x y).flags ||| rest.2)
    | some x, none => (some x :: rest.1, rest.2)
    | none, y => (y :: rest.1, rest.2)
  | l => (l, 0)

/-- R147: the levels of the tree. -/
def sumTree (add : Nat → Nat → FRes) : Nat → List (Option Nat) → Nat → Option Nat × Nat
  | 0, l, fl => (l.headD none, fl)
  | n + 1, l, fl =>
    let r := sumLevel add l
    sumTree add n r.1 (fl ||| r.2)

/-- FRSUM, R147: 4 cycles for each tree level. -/
def execFrsum (f : SlotFields) (s : State) : Out :=
  let levels := if fmtCode f = 5 then 5 else 6
  s.value 0x5A f (4 * levels) 1 fun g =>
    let w := laneWidth (fmtCode f)
    let a := s.srcA g
    let n := a.valid (1024 / w)
    let ff := slotFloat f
    let m := fpcAt s g
    let start := (List.range (1024 / w)).map fun i => if i < n then some (ff.daz (fpcDaz m) (a.lane w i)) else none
    let r := sumTree (fun x y => fAddV ff (fpcRm m) (fpcFtz m) (ff.decode x) (ff.decode y)) levels start 0
    -- R111: a NaN result is canonical, and a signalling NaN is invalid, where no addition meets it too
    let v := ff.decode (r.1.getD 0)
    let fl := orLanes (fun i => if i < n then nvOf (ff.decode (a.lane w i)) else 0) n
    s.sendResult g kData (min n 1) (fmtCode f) (if v.isNan && n != 0 then ff.nan else r.1.getD 0) (4 * levels) 1 (r.2 ||| fl)

end Sys2Proof.Machine
end

