-- ==== Sys2Proof/Machine/Modular.lean ====
section
/-! DEFINITION. Modular lanes: slot opcodes 0x60 to 0x67 (R117 to R119, R159, R160). -/

namespace Sys2Proof.Machine

/-- R159: the modulus entry that pair `i` uses. -/
def modIndex (f : SlotFields) (i : Nat) : Nat := if modeOf f = 1 then (bits f.ext.toNat 0 4 + i) % 16 else bits f.ext.toNat 0 4

/-- R118: the modulus of an element's entry; 0 is empty. -/
def modulus (s : State) (e n : Nat) : Nat := Table.getD (s.elem e).modq n 0

/-- R159: a modular slot: an empty entry that a valid pair uses raises MODQ with the lowest such pair's a; else dst0 receives the first and
dst1 the second of the two values of each pair. -/
def modular (s : State) (op : Nat) (f : SlotFields) (lat : Nat) (k : (q a b c : Int) → Int × Int) : Out :=
  s.value op f lat 1 fun g =>
    let n := State.minPairs g
    let a := s.srcA g
    let b := s.srcB g
    let c := s.srcC g
    match (List.range n).find? fun i => modulus s g.e (modIndex f i) == 0 with
    | some i => s.faultOp g codeMODQ 0 (wd (a.lane 64 i))
    | none =>
      match s.resultTag g 5 with
      | .error code => s.fault g code (State.tagPos g)
      | .ok r =>
        let q := fun i => (modulus s g.e (modIndex f i) : Int)
        let v := fun i => k (q i) (a.lane 64 i) (b.lane 64 i) (c.lane 64 i)
        let tok := fun (h : Nat → Int) => mkToken r.2 kData (2 * n) 5 (packLanes 64 (fun i => (h i % q i).toNat) n)
        .next (r.1.endFiring g g.toks [(f.dst0.toNat, tok fun i => (v i).1), (f.dst1.toNat, tok fun i => (v i).2)] lat 1 0)

/-- MADD, R160. -/
def execMadd (f : SlotFields) (s : State) : Out := modular s 0x60 f 2 fun _ a b _ => (a + b, a + b)

/-- MSUB, R160. -/
def execMsub (f : SlotFields) (s : State) : Out := modular s 0x61 f 2 fun _ a b _ => (a - b, a - b)

/-- MMUL, R160. -/
def execMmul (f : SlotFields) (s : State) : Out := modular s 0x62 f 6 fun _ a b _ => (a * b, a * b)

/-- MMAC, R160. -/
def execMmac (f : SlotFields) (s : State) : Out := modular s 0x63 f 6 fun _ a b c => (a * b + c, a * b + c)

/-- MCT, R160. -/
def execMct (f : SlotFields) (s : State) : Out := modular s 0x64 f 6 fun _ a b c => (a + c * b, a - c * b)

/-- MGS, R160. -/
def execMgs (f : SlotFields) (s : State) : Out := modular s 0x65 f 6 fun q a b c => (a + b, ((a - b) % q) * c)

/-- MRED, R160. -/
def execMred (f : SlotFields) (s : State) : Out := modular s 0x66 f 4 fun _ a _ _ => (a, a)

/-- MNEG, R160. -/
def execMneg (f : SlotFields) (s : State) : Out := modular s 0x67 f 2 fun _ a _ _ => (-a, -a)

end Sys2Proof.Machine
end

