-- ==== Sys2Proof/Machine/Dispatch.lean ====
section
/-! DEFINITION. The dispatch: one arm per instruction, each one call of its meaning. -/

namespace Sys2Proof.Machine

def exec (i : Instr) (s : State) : Host.Outcome State Fault Refusal :=
  match i with
  | .add d a b => Sys2Proof.Machine.execAdd d a b s
  | .sub d a b => Sys2Proof.Machine.execSub d a b s
  | .and d a b => Sys2Proof.Machine.execAnd d a b s
  | .or d a b => Sys2Proof.Machine.execOr d a b s
  | .xor d a b => Sys2Proof.Machine.execXor d a b s
  | .andn d a b => Sys2Proof.Machine.execAndn d a b s
  | .shl d a b => Sys2Proof.Machine.execShl d a b s
  | .shr d a b => Sys2Proof.Machine.execShr d a b s
  | .sar d a b => Sys2Proof.Machine.execSar d a b s
  | .slt d a b => Sys2Proof.Machine.execSlt d a b s
  | .sltu d a b => Sys2Proof.Machine.execSltu d a b s
  | .min d a b => Sys2Proof.Machine.execMin d a b s
  | .max d a b => Sys2Proof.Machine.execMax d a b s
  | .minu d a b => Sys2Proof.Machine.execMinu d a b s
  | .maxu d a b => Sys2Proof.Machine.execMaxu d a b s
  | .mul d a b => Sys2Proof.Machine.execMul d a b s
  | .mulh d a b => Sys2Proof.Machine.execMulh d a b s
  | .mulhu d a b => Sys2Proof.Machine.execMulhu d a b s
  | .mulhsu d a b => Sys2Proof.Machine.execMulhsu d a b s
  | .div d a b => Sys2Proof.Machine.execDiv d a b s
  | .divu d a b => Sys2Proof.Machine.execDivu d a b s
  | .rem d a b => Sys2Proof.Machine.execRem d a b s
  | .remu d a b => Sys2Proof.Machine.execRemu d a b s
  | .clz d a => Sys2Proof.Machine.execClz d a s
  | .ctz d a => Sys2Proof.Machine.execCtz d a s
  | .popc d a => Sys2Proof.Machine.execPopc d a s
  | .bswap d a => Sys2Proof.Machine.execBswap d a s
  | .sextb d a => Sys2Proof.Machine.execSextb d a s
  | .sexth d a => Sys2Proof.Machine.execSexth d a s
  | .sextw d a => Sys2Proof.Machine.execSextw d a s
  | .zextb d a => Sys2Proof.Machine.execZextb d a s
  | .zexth d a => Sys2Proof.Machine.execZexth d a s
  | .zextw d a => Sys2Proof.Machine.execZextw d a s
  | .addi d a imm => Sys2Proof.Machine.execAddi d a imm s
  | .andi d a imm => Sys2Proof.Machine.execAndi d a imm s
  | .ori d a imm => Sys2Proof.Machine.execOri d a imm s
  | .xori d a imm => Sys2Proof.Machine.execXori d a imm s
  | .slti d a imm => Sys2Proof.Machine.execSlti d a imm s
  | .sltiu d a imm => Sys2Proof.Machine.execSltiu d a imm s
  | .shli d a amt => Sys2Proof.Machine.execShli d a amt s
  | .shri d a amt => Sys2Proof.Machine.execShri d a amt s
  | .sari d a amt => Sys2Proof.Machine.execSari d a amt s
  | .lui d imm => Sys2Proof.Machine.execLui d imm s
  | .lus d imm => Sys2Proof.Machine.execLus d imm s
  | .addpc d imm => Sys2Proof.Machine.execAddpc d imm s
  | .ld sz sx d a off => Sys2Proof.Machine.execLd sz sx d a off s
  | .st sz d a off => Sys2Proof.Machine.execSt sz d a off s
  | .amoAdd sc sz d a b => Sys2Proof.Machine.execAmoAdd sc sz d a b s
  | .amoAnd sc sz d a b => Sys2Proof.Machine.execAmoAnd sc sz d a b s
  | .amoOr sc sz d a b => Sys2Proof.Machine.execAmoOr sc sz d a b s
  | .amoXor sc sz d a b => Sys2Proof.Machine.execAmoXor sc sz d a b s
  | .amoMin sc sz d a b => Sys2Proof.Machine.execAmoMin sc sz d a b s
  | .amoMax sc sz d a b => Sys2Proof.Machine.execAmoMax sc sz d a b s
  | .amoMinu sc sz d a b => Sys2Proof.Machine.execAmoMinu sc sz d a b s
  | .amoMaxu sc sz d a b => Sys2Proof.Machine.execAmoMaxu sc sz d a b s
  | .amoSwap sc sz d a b => Sys2Proof.Machine.execAmoSwap sc sz d a b s
  | .amoIncw sc sz d a b => Sys2Proof.Machine.execAmoIncw sc sz d a b s
  | .amoBfadd sc sz d a b => Sys2Proof.Machine.execAmoBfadd sc sz d a b s
  | .amoFmin sc d a b => Sys2Proof.Machine.execAmoFmin sc d a b s
  | .amoFmax sc d a b => Sys2Proof.Machine.execAmoFmax sc d a b s
  | .amoFadd sc d a b => Sys2Proof.Machine.execAmoFadd sc d a b s
  | .cas sc sz d a b => Sys2Proof.Machine.execCas sc sz d a b s
  | .beq a b off => Sys2Proof.Machine.execBeq a b off s
  | .bne a b off => Sys2Proof.Machine.execBne a b off s
  | .blt a b off => Sys2Proof.Machine.execBlt a b off s
  | .bge a b off => Sys2Proof.Machine.execBge a b off s
  | .bltu a b off => Sys2Proof.Machine.execBltu a b off s
  | .bgeu a b off => Sys2Proof.Machine.execBgeu a b off s
  | .jal d off => Sys2Proof.Machine.execJal d off s
  | .jalr d a imm => Sys2Proof.Machine.execJalr d a imm s
  | .csrr d n => Sys2Proof.Machine.execCsrr d n s
  | .csrw d a n => Sys2Proof.Machine.execCsrw d a n s
  | .csrs d a n => Sys2Proof.Machine.execCsrs d a n s
  | .csrc d a n => Sys2Proof.Machine.execCsrc d a n s
  | .tstatWrite k d a => Sys2Proof.Machine.execTstatWrite k d a s
  | .tlbiWrite k d a => Sys2Proof.Machine.execTlbiWrite k d a s
  | .trunWrite k d a => Sys2Proof.Machine.execTrunWrite k d a s
  | .rotctlArm d a => Sys2Proof.Machine.execRotctlArm d a s
  | .armWithdraw d a => Sys2Proof.Machine.execArmWithdraw d a s
  | .soleWrite d a => Sys2Proof.Machine.execSoleWrite d a s
  | .barcfgWrite k n d a => Sys2Proof.Machine.execBarcfgWrite k n d a s
  | .occWrite k n d a => Sys2Proof.Machine.execOccWrite k n d a s
  | .placeRegisterWrite k r d a => Sys2Proof.Machine.execPlaceRegisterWrite k r d a s
  | .twaysWrite k d a => Sys2Proof.Machine.execTwaysWrite k d a s
  | .fenceAcq sc => Sys2Proof.Machine.execFenceAcq sc s
  | .fenceRel sc => Sys2Proof.Machine.execFenceRel sc s
  | .fenceFull sc => Sys2Proof.Machine.execFenceFull sc s
  | .wait d a b => Sys2Proof.Machine.execWait d a b s
  | .waite d a b => Sys2Proof.Machine.execWaite d a b s
  | .bar d a => Sys2Proof.Machine.execBar d a s
  | .barw d a => Sys2Proof.Machine.execBarw d a s
  | .barq d a => Sys2Proof.Machine.execBarq d a s
  | .hold d => Sys2Proof.Machine.execHold d s
  | .unhold => Sys2Proof.Machine.execUnhold s
  | .spawn d a b => Sys2Proof.Machine.execSpawn d a b s
  | .exit => Sys2Proof.Machine.execExit s
  | .yield => Sys2Proof.Machine.execYield s
  | .pause a => Sys2Proof.Machine.execPause a s
  | .inj d a b => Sys2Proof.Machine.execInj d a b s
  | .recv d => Sys2Proof.Machine.execRecv d s
  | .ctxa d a => Sys2Proof.Machine.execCtxa d a s
  | .ctxf a => Sys2Proof.Machine.execCtxf a s
  | .sow d a b => Sys2Proof.Machine.execSow d a b s
  | .swap d a => Sys2Proof.Machine.execSwap d a s
  | .fallow lvl d a => Sys2Proof.Machine.execFallow lvl d a s
  | .haltr d a => Sys2Proof.Machine.execHaltr d a s
  | .resumer d a => Sys2Proof.Machine.execResumer d a s
  | .ecfgw d a b => Sys2Proof.Machine.execEcfgw d a b s
  | .ecfgr d a => Sys2Proof.Machine.execEcfgr d a s
  | .boardRead d a b => Sys2Proof.Machine.execBoardRead d a b s
  | .boardFilter d a b => Sys2Proof.Machine.execBoardFilter d a b s
  | .boardSum d a b => Sys2Proof.Machine.execBoardSum d a b s
  | .boardFeed d a b => Sys2Proof.Machine.execBoardFeed d a b s
  | .boardUpdate d a b => Sys2Proof.Machine.execBoardUpdate d a b s
  | .boardAtom d a b => Sys2Proof.Machine.execBoardAtom d a b s
  | .boardFill d a b => Sys2Proof.Machine.execBoardFill d a b s
  | .boardDrain d a b => Sys2Proof.Machine.execBoardDrain d a b s
  | .boardDigest d a b => Sys2Proof.Machine.execBoardDigest d a b s
  | .boardCancel d a => Sys2Proof.Machine.execBoardCancel d a s
  | .clean lvl a b => Sys2Proof.Machine.execClean lvl a b s
  | .inval lvl a b => Sys2Proof.Machine.execInval lvl a b s
  | .clinv lvl a b => Sys2Proof.Machine.execClinv lvl a b s
  | .gstart d a => Sys2Proof.Machine.execGstart d a s
  | .gstop d a => Sys2Proof.Machine.execGstop d a s
  | .gstat d a => Sys2Proof.Machine.execGstat d a s
  | .allredOrd d a b => Sys2Proof.Machine.execAllredOrd d a b s
  | .allredExact d a b => Sys2Proof.Machine.execAllredExact d a b s
  | .bcast d a b => Sys2Proof.Machine.execBcast d a b s
  | .allgath d a b => Sys2Proof.Machine.execAllgath d a b s
  | .redscatOrd d a b => Sys2Proof.Machine.execRedscatOrd d a b s
  | .redscatExact d a b => Sys2Proof.Machine.execRedscatExact d a b s
  | .digset d a b => Sys2Proof.Machine.execDigset d a b s
  | .digcmp d a b => Sys2Proof.Machine.execDigcmp d a b s
  | .tcommit d a => Sys2Proof.Machine.execTcommit d a s
  | .tabort d a => Sys2Proof.Machine.execTabort d a s
  | .normrd high n d => Sys2Proof.Machine.execNormrd high n d s
  | .normclr n => Sys2Proof.Machine.execNormclr n s
  | .trap imm => Sys2Proof.Machine.execTrap imm s
  | .svc imm => Sys2Proof.Machine.execSvc imm s
  | .eret => Sys2Proof.Machine.execEret s
  | .halt => Sys2Proof.Machine.execHalt s
  | .brk => Sys2Proof.Machine.execBrk s
  | .donate => Sys2Proof.Machine.execDonate s
  | .copy f => Sys2Proof.Machine.execCopy f s
  | .steer f => Sys2Proof.Machine.execSteer f s
  | .merge f => Sys2Proof.Machine.execMerge f s
  | .gate f => Sys2Proof.Machine.execGate f s
  | .sink f => Sys2Proof.Machine.execSink f s
  | .const f => Sys2Proof.Machine.execConst f s
  | .iter f => Sys2Proof.Machine.execIter f s
  | .count f => Sys2Proof.Machine.execCount f s
  | .comb f => Sys2Proof.Machine.execComb f s
  | .reap f => Sys2Proof.Machine.execReap f s
  | .tagix f => Sys2Proof.Machine.execTagix f s
  | .loop f => Sys2Proof.Machine.execLoop f s
  | .eos f => Sys2Proof.Machine.execEos f s
  | .mail f => Sys2Proof.Machine.execMail f s
  | .ord f => Sys2Proof.Machine.execOrd f s
  | .slotAdd f => Sys2Proof.Machine.execSlotAdd f s
  | .slotSub f => Sys2Proof.Machine.execSlotSub f s
  | .slotMul f => Sys2Proof.Machine.execSlotMul f s
  | .slotMulh f => Sys2Proof.Machine.execSlotMulh f s
  | .mad f => Sys2Proof.Machine.execMad f s
  | .slotAnd f => Sys2Proof.Machine.execSlotAnd f s
  | .slotOr f => Sys2Proof.Machine.execSlotOr f s
  | .slotXor f => Sys2Proof.Machine.execSlotXor f s
  | .slotAndn f => Sys2Proof.Machine.execSlotAndn f s
  | .slotShl f => Sys2Proof.Machine.execSlotShl f s
  | .slotShr f => Sys2Proof.Machine.execSlotShr f s
  | .slotSar f => Sys2Proof.Machine.execSlotSar f s
  | .slotMin f => Sys2Proof.Machine.execSlotMin f s
  | .slotMax f => Sys2Proof.Machine.execSlotMax f s
  | .abs f => Sys2Proof.Machine.execAbs f s
  | .neg f => Sys2Proof.Machine.execNeg f s
  | .cmp f => Sys2Proof.Machine.execCmp f s
  | .sel f => Sys2Proof.Machine.execSel f s
  | .slotClz f => Sys2Proof.Machine.execSlotClz f s
  | .slotPopc f => Sys2Proof.Machine.execSlotPopc f s
  | .adds f => Sys2Proof.Machine.execAdds f s
  | .subs f => Sys2Proof.Machine.execSubs f s
  | .avg f => Sys2Proof.Machine.execAvg f s
  | .dot4 f => Sys2Proof.Machine.execDot4 f s
  | .bext f => Sys2Proof.Machine.execBext f s
  | .bins f => Sys2Proof.Machine.execBins f s
  | .rotl f => Sys2Proof.Machine.execRotl f s
  | .satn f => Sys2Proof.Machine.execSatn f s
  | .fadd f => Sys2Proof.Machine.execFadd f s
  | .fsub f => Sys2Proof.Machine.execFsub f s
  | .fmul f => Sys2Proof.Machine.execFmul f s
  | .ffma f => Sys2Proof.Machine.execFfma f s
  | .fmin f => Sys2Proof.Machine.execFmin f s
  | .fmax f => Sys2Proof.Machine.execFmax f s
  | .fabs f => Sys2Proof.Machine.execFabs f s
  | .fneg f => Sys2Proof.Machine.execFneg f s
  | .fcmp f => Sys2Proof.Machine.execFcmp f s
  | .fclass f => Sys2Proof.Machine.execFclass f s
  | .frcp f => Sys2Proof.Machine.execFrcp f s
  | .frsq f => Sys2Proof.Machine.execFrsq f s
  | .fsqrt f => Sys2Proof.Machine.execFsqrt f s
  | .fexp2 f => Sys2Proof.Machine.execFexp2 f s
  | .flog2 f => Sys2Proof.Machine.execFlog2 f s
  | .ftanh f => Sys2Proof.Machine.execFtanh f s
  | .cvt f => Sys2Proof.Machine.execCvt f s
  | .packq f => Sys2Proof.Machine.execPackq f s
  | .unpackq f => Sys2Proof.Machine.execUnpackq f s
  | .plane f => Sys2Proof.Machine.execPlane f s
  | .had f => Sys2Proof.Machine.execHad f s
  | .setfpc f => Sys2Proof.Machine.execSetfpc f s
  | .getfpf f => Sys2Proof.Machine.execGetfpf f s
  | .clrfpf f => Sys2Proof.Machine.execClrfpf f s
  | .perm f => Sys2Proof.Machine.execPerm f s
  | .bfly f => Sys2Proof.Machine.execBfly f s
  | .rot f => Sys2Proof.Machine.execRot f s
  | .slotBcast f => Sys2Proof.Machine.execSlotBcast f s
  | .join f => Sys2Proof.Machine.execJoin f s
  | .split f => Sys2Proof.Machine.execSplit f s
  | .rsum f => Sys2Proof.Machine.execRsum f s
  | .rmax f => Sys2Proof.Machine.execRmax f s
  | .rmin f => Sys2Proof.Machine.execRmin f s
  | .laneix f => Sys2Proof.Machine.execLaneix f s
  | .frsum f => Sys2Proof.Machine.execFrsum f s
  | .madd f => Sys2Proof.Machine.execMadd f s
  | .msub f => Sys2Proof.Machine.execMsub f s
  | .mmul f => Sys2Proof.Machine.execMmul f s
  | .mmac f => Sys2Proof.Machine.execMmac f s
  | .mct f => Sys2Proof.Machine.execMct f s
  | .mgs f => Sys2Proof.Machine.execMgs f s
  | .mred f => Sys2Proof.Machine.execMred f s
  | .mneg f => Sys2Proof.Machine.execMneg f s
  | .mma f => Sys2Proof.Machine.execMma f s
  | .mmas f => Sys2Proof.Machine.execMmas f s
  | .accrd f => Sys2Proof.Machine.execAccrd f s
  | .accclr f => Sys2Proof.Machine.execAccclr f s
  | .cturn f => Sys2Proof.Machine.execCturn f s
  | .lds f => Sys2Proof.Machine.execLds f s
  | .sts f => Sys2Proof.Machine.execSts f s
  | .ldsv f => Sys2Proof.Machine.execLdsv f s
  | .stsv f => Sys2Proof.Machine.execStsv f s
  | .atoms f => Sys2Proof.Machine.execAtoms f s
  | .bufw f => Sys2Proof.Machine.execBufw f s
  | .bufr f => Sys2Proof.Machine.execBufr f s
  | .etas f => Sys2Proof.Machine.execEtas f s
  | .etld f => Sys2Proof.Machine.execEtld f s
  | .etst f => Sys2Proof.Machine.execEtst f s
  | .boards f => Sys2Proof.Machine.execBoards f s
  | .tokenArrival => Sys2Proof.Machine.execTokenArrival s
  | .reload => Sys2Proof.Machine.execReload s
  | .reapToken => Sys2Proof.Machine.execReapToken s
  | .reapFilterRetire => Sys2Proof.Machine.execReapFilterRetire s
  | .fallowReport => Sys2Proof.Machine.execFallowReport s
  | .matchExhausted => Sys2Proof.Machine.execMatchExhausted s
  | .mailboxAccept => Sys2Proof.Machine.execMailboxAccept s
  | .injectionRelease => Sys2Proof.Machine.execInjectionRelease s
  | .iterEmit => Sys2Proof.Machine.execIterEmit s
  | .accrdRow => Sys2Proof.Machine.execAccrdRow s
  | .cturnEmit => Sys2Proof.Machine.execCturnEmit s
  | .ordArcSend => Sys2Proof.Machine.execOrdArcSend s
  | .swapActivate => Sys2Proof.Machine.execSwapActivate s
  | .swapTimeout => Sys2Proof.Machine.execSwapTimeout s
  | .stepBoundary => Sys2Proof.Machine.execStepBoundary s
  | .guard => Sys2Proof.Machine.execGuard s
  | .rowCommit => Sys2Proof.Machine.execRowCommit s
  | .tlbInvalidationDone => Sys2Proof.Machine.execTlbInvalidationDone s
  | .loadReturn => Sys2Proof.Machine.execLoadReturn s
  | .dividerDone => Sys2Proof.Machine.execDividerDone s
  | .storeBufferDrain => Sys2Proof.Machine.execStoreBufferDrain s
  | .waitWake => Sys2Proof.Machine.execWaitWake s
  | .waitTimeout => Sys2Proof.Machine.execWaitTimeout s
  | .pauseExpiry => Sys2Proof.Machine.execPauseExpiry s
  | .holdExpiry => Sys2Proof.Machine.execHoldExpiry s
  | .asyncTrapEntry => Sys2Proof.Machine.execAsyncTrapEntry s
  | .generatorBlock => Sys2Proof.Machine.execGeneratorBlock s
  | .collectiveComplete => Sys2Proof.Machine.execCollectiveComplete s
  | .linkDown => Sys2Proof.Machine.execLinkDown s
  | .passMarker => Sys2Proof.Machine.execPassMarker s
  | .sweepStateAnnounce => Sys2Proof.Machine.execSweepStateAnnounce s
  | .thermalSlowdown => Sys2Proof.Machine.execThermalSlowdown s
  | .thermalSpeedup => Sys2Proof.Machine.execThermalSpeedup s
  | .layerPark => Sys2Proof.Machine.execLayerPark s
  | .layerUnpark => Sys2Proof.Machine.execLayerUnpark s
  | .layerPowerOff => Sys2Proof.Machine.execLayerPowerOff s
  | .powerRequest => Sys2Proof.Machine.execPowerRequest s
  | .plotWake => Sys2Proof.Machine.execPlotWake s
  | .coreWatchdog => Sys2Proof.Machine.execCoreWatchdog s
  | .edgeLineError => Sys2Proof.Machine.execEdgeLineError s
  | .startRecord => Sys2Proof.Machine.execStartRecord s
  | .readNotices => Sys2Proof.Machine.execReadNotices s
  | .breakClaim => Sys2Proof.Machine.execBreakClaim s
  | .breakRelease => Sys2Proof.Machine.execBreakRelease s
  | .breakResume => Sys2Proof.Machine.execBreakResume s
  | .partitionReset => Sys2Proof.Machine.execPartitionReset s
  | .deviceReset => Sys2Proof.Machine.execDeviceReset s
  | .takeResetLock => Sys2Proof.Machine.execTakeResetLock s
  | .dropResetLock => Sys2Proof.Machine.execDropResetLock s
  | .loadFirmware => Sys2Proof.Machine.execLoadFirmware s
  | .powerOn => Sys2Proof.Machine.execPowerOn s
  | .powerOff => Sys2Proof.Machine.execPowerOff s
  | .checkpoint => Sys2Proof.Machine.execCheckpoint s
  | .checkpointRelease => Sys2Proof.Machine.execCheckpointRelease s
  | .boot => Sys2Proof.Machine.execBoot s
  | .startTimeout => Sys2Proof.Machine.execStartTimeout s
  | .unassignedHeadlandWord => Sys2Proof.Machine.execUnassignedHeadlandWord s
  | .fetchFault => Sys2Proof.Machine.execFetchFault s
  | .ucPageReread => Sys2Proof.Machine.execUcPageReread s
  | .runtimeThreadRestart => Sys2Proof.Machine.execRuntimeThreadRestart s
  | .poisonMarkClear => Sys2Proof.Machine.execPoisonMarkClear s
  | .groupTableWrite => Sys2Proof.Machine.execGroupTableWrite s
  | .frameMaskWrite => Sys2Proof.Machine.execFrameMaskWrite s
  | .linkUp => Sys2Proof.Machine.execLinkUp s
  | .hostMemoryAccess => Sys2Proof.Machine.execHostMemoryAccess s

end Sys2Proof.Machine
end

