-- ==== Sys2Proof/Machine/Fetch.lean ====
section
/-! DEFINITION. Instruction fetch (R61, R62) and the issue rule (R17, R18, R53, R60, R70). -/

namespace Sys2Proof.Machine

namespace State

/-- R205: puts a line into core `c`'s instruction cache, 4 ways of 64 sets, least recently used out (log entry 9). -/
def l1iPut (s : State) (c : Nat) (l : LineSt) : State :=
  let rest := (s.core c).l1i.filter fun x => !(x.line == l.line && x.tenant == l.tenant)
  let same := rest.filter fun x => x.line % 64 == l.line % 64
  let keep := if same.length < 4 then rest
    else match same.getLast? with
      | some v => rest.filter fun x => !(x.line == v.line && x.tenant == v.tenant)
      | none => rest
  s.modCore c fun x => { x with l1i := l :: keep }

/-- R61: the instruction word at a target, through the core's instruction cache. -/
def fetchWord (s : State) (k : Nat) (t : Target) : State × Word32 :=
  let c := coreOf k
  let tenant := if t.isLocal then 0 else s.lineTenant k
  let line := t.addr / 128
  let pick := fun (data : Nat) => BitVec.ofNat 32 (bits data (8 * (t.addr % 128)) 32)
  if t.uncached then (s, BitVec.ofNat 32 (Memory.read s.mem t.addr 4))
  else match List.find? (fun l => l.line == line && l.tenant == tenant) (s.core c).l1i with
    | some l => (s.l1iPut c l, pick l.data)
    | none =>
      let r := if t.isLocal then (s, s.memLine line, 0) else s.lookupLine c tenant line
      let s1 := if r.2.2 = 0 then r.1 else r.1.hubWriteBack line r.2.1 r.2.2
      (s1.l1iPut c { line := line, tenant := tenant, data := r.2.1, dirty := 0 }, pick r.2.1)

/-- The word that thread `k` would fetch now, without any effect of the fetch. -/
def peekWord (s : State) (k : Nat) : Option Word32 :=
  let r := fetchTarget s k
  match r.2 with
  | .ok t => some (r.1.fetchWord k t).2
  | .error _ => none

end State

/-- R30, R31: the register fields of a word's format. -/
def wordRegs (w : Word32) : List Reg :=
  let m := (major w).toNat
  if m = 0 ∨ m = 0x12 ∨ m = 0x13 ∨ (0x21 ≤ m ∧ m ≤ 0x28) then [fieldD w, fieldA w, fieldB w]
  else if m = 0x1A then [fieldD w]
  else if m = 0x3F then []
  else [fieldD w, fieldA w]

/-- R17, R53, R60: the registers that the thread's next word reads or writes. SPAWN reads g3, g4, g30 and g31 beside its fields, and EXIT
writes every register (R68, R69). -/
def neededRegs (w : Word32) : List Reg :=
  if (major w).toNat = 0x22 then
    match (fieldFunc w).toNat with
    | 0 => [fieldD w, fieldA w, fieldB w, 3, 4, 30, 31]
    | 1 => (List.range' 1 31).map (BitVec.ofNat 5)
    | 3 => [fieldA w]
    | _ => []
  else wordRegs w

/-- R53: a word that needs the divider. -/
def isDivide (w : Word32) : Bool := (major w).toNat == 0 && 0x14 ≤ (fieldFunc w).toNat && (fieldFunc w).toNat ≤ 0x17

namespace State

/-- R17, R53, R60: the registers of thread `k` that still await the result of a load, a multiplication or a division. -/
def pendingRegs (s : State) (k : Nat) : List Reg :=
  let t := s.thread k
  t.loads.map (·.gd) ++ (t.busy.filter fun b => decide (s.cycle < b.2)).map (·.1) ++
  (match (s.core (coreOf k)).divider with
    | some x => if x.thread = k then [x.gd] else []
    | none => [])

/-- R215: the next instruction needs the register that a BOARD's boarding will write. EXIT, which resets every register, does not wait for it
(log entry 100). -/
def awaitsBoard (s : State) (k : Nat) (w : Word32) : Bool :=
  match (s.thread k).boardGd with
  | some g => g.1 != 0 && (neededRegs w).contains g.1 && !((major w).toNat == 0x22 && (fieldFunc w).toNat == 1)
  | none => false

/-- R17, R53, R60: the thread's next instruction waits for a result, for the divider, for a returning load or for room in the store
buffer. -/
def mustWait (s : State) (k : Nat) : Bool :=
  let t := s.thread k
  let c := s.core (coreOf k)
  if t.loads.isEmpty && t.busy.isEmpty && t.boardGd.isNone && c.divider.isNone && c.stores.length < 8 then false
  else match s.peekWord k with
    | none => false
    | some w =>
      let m := (major w).toNat
      (s.pendingRegs k).any (fun r => r != 0 && (neededRegs w).contains r) || s.awaitsBoard k w ||
        (c.divider.isSome && isDivide w) || (m == 0x10 && 4 ≤ t.loads.length) || (m == 0x11 && 8 ≤ c.stores.length)

/-- R17: thread `k` can issue this cycle, but for a YIELD; R354: or its HALTR or RESUMER comes to its end. -/
def issuable (s : State) (k : Nat) : Bool :=
  let t := s.thread k
  (t.run == .ready && decide (t.notBefore ≤ s.cycle) && !s.mustWait k) ||
    (t.run == .waiting && inImage t && match t.wait.deadline with
      | some d => decide (d ≤ s.cycle)
      | none => false)

/-- R70: a YIELD keeps the thread back for 3 cycles while another thread of the core is READY. Whether another one is READY is judged
without regard to a YIELD of its own: two threads that have both yielded wait for each other until the cycles run out (log entry 101). -/
def yields (s : State) (k : Nat) : Bool :=
  decide (s.cycle < (s.thread k).yieldUntil) &&
    (List.range 4).any fun j => coreOf k * 4 + j != k && s.issuable (coreOf k * 4 + j)

/-- R18: the thread that core `c` issues from: the first READY one from its issue pointer on. -/
def pick (s : State) (c : Nat) : Option Nat :=
  if (s.core c).inReset then none
  else ((List.range 4).map fun i => c * 4 + ((s.core c).issuePtr + i) % 4).find? fun k => s.issuable k && !s.yields k

/-- R228: the barrier at which thread `k`'s next instruction arrives, and the one whose BARCFG it writes. -/
def arrivesAt (s : State) (k : Nat) : Option Nat :=
  match (s.peekWord k).map decodeWord with
  | some (.ok (.bar _ a)) => some (fld (s.gprOf k a) 0 4)
  | some (.ok (.barw _ a)) => some (fld (s.gprOf k a) 0 4)
  | _ => none
def writesBarrier (s : State) (k : Nat) : Option Nat :=
  match (s.peekWord k).map decodeWord with
  | some (.ok (.barcfgWrite _ n _ _)) => some n.toNat
  | _ => none

/-- R228: a write and an arrival of one cycle are taken write first: the thread of a core whose turn is still to come in this cycle that writes the
barrier at which thread `k` is about to arrive. -/
def writerFirst (s : State) (k : Nat) : Option Nat :=
  match s.arrivesAt k with
  | none => none
  | some b => List.findSome? (fun c => match s.pick c with
      | some j => if s.writesBarrier j == some b && s.partOf c == s.partOf (coreOf k) && (s.core c).ahead != s.cycle + 1 then some j else none
      | none => none) (List.range' (coreOf k + 1) (numCores - 1 - coreOf k))

/-- R18: the issue pointer moves to the thread after the one that issues. -/
def movePtr (s : State) (k : Nat) : State := s.modCore (coreOf k) fun x => { x with issuePtr := (k % 4 + 1) % 4 }

end State

/-- What thread `k` does when it issues: the instruction that its word names, the ILLEGAL trap of a word that names nothing (R42), or
the fault of the fetch (R62); and the state in which it runs. -/
def issueOf (s : State) (k : Nat) : Instr × State :=
  let s0 := { s.movePtr k with focus := { thread := k } }
  let r := fetchTarget s0 k
  match r.2 with
  | .error _ => (.fetchFault, s0)
  | .ok t =>
    let x := r.1.fetchWord k t
    match decodeWord x.2 with
    | .ok i => (i, x.1)
    | .error _ => (.unassignedHeadlandWord, { x.1 with focus := { thread := k, word := x.2 } })

/-- Puts a word where thread `k` fetches its next instruction, as the test interface asks: the bytes in memory, and no older copy of
them in a cache. -/
def placeWord (s : State) (k : Nat) (w : Nat) : State :=
  let r := fetchTarget s k
  match r.2 with
  | .error _ => s
  | .ok t =>
    let s1 := r.1.modCore (coreOf k) fun c => { c with l1i := [] }
    let s2 := if t.isLocal then s1 else s1.flushLine (coreOf k) (t.addr / 128)
    { s2 with mem := Memory.write s2.mem t.addr 4 w }

end Sys2Proof.Machine
end

