-- ==== Sys2Proof/Machine/Issue.lean ====
section
/-! DEFINITION. Which matched set of an element issues (R78, R90, R91, R98, R156): the sets that a store holds, what each needs, and the order
among those that compete for a port. -/

namespace Sys2Proof.Machine

/-! ### Matched sets (R90) -/

/-- A matched set with its arrival stamp. -/
abbrev Stamped := Firing × Nat

/-- R91: the cycle in which the last of a set's tokens arrived. -/
def lastStamp (l : List StoreTok) : Nat := l.foldl (fun m t => max m t.stamp) 0

/-- The tags of the tokens at some positions of a slot. -/
def tagsAt (x : ElemSt) (slot : Nat) (ps : List Nat) : List Tag :=
  ((x.store.filter fun t => t.slot == slot && ps.contains t.pos && !t.faulted).map fun t => t.token.tag).dedup

/-- R90: the matched sets of a slot, each with its stamp. MERGE, COMB, LOOP and MMAS have rules of their own; takeb pairs the oldest tokens. -/
def slotSets (x : ElemSt) (e slot op : Nat) (f : SlotFields) : List Stamped :=
  let mk := fun (tag : Tag) (toks : List StoreTok) => (({ e := e, slot := slot, op := op, f := f, tag := tag, toks := toks } : Firing), lastStamp toks)
  let ps := slotPositions op f
  if op = 0x03 then (tagsAt x slot [0, 1]).filterMap fun g => (mergeToken x slot g).map fun t => mk g [t]
  else if op = 0x09 then
    (x.combs.filter fun c => c.slot == slot && decide (f.ext.toNat ≤ c.taken)).map fun c =>
      ({ e := e, slot := slot, op := op, f := f, tag := c.tag, toks := [] }, c.stamp)
  else if op = 0x0C then (tagsAt x slot [0, 1]).filterMap fun g => (loopTakes x slot (f.extra.toNat + 1) g).map fun t => mk g [t.1]
  else if op = 0x71 then (tagsAt x slot [0]).filterMap fun g => (mmasSet x slot (fmtOf f) g).map fun l => mk g l
  else if f.action.toNat = 8 then
    match matchedAt x slot none ps with
    | some (t :: ts) => [mk t.token.tag (t :: ts)]
    | _ => []
  else (tagsAt x slot (ps.take 1)).filterMap fun g => (matchedAt x slot (some g) ps).map fun l => mk g l

namespace State

/-! ### What a set needs (R78, R91, R98) -/

/-- R91: the destination codes for which a set reserves room at issue. ITER, ACCRD and CTURN reserve for each token as they send it; a closed gate,
a GATE whose predicate is 0, a finish of LOOP and a set that faults send nothing. -/
def reserves (s : State) (g : Firing) : List Nat :=
  if gatedOf g.f && !gateOpens g then []
  else if g.op = 0x05 ∨ g.op = 0x07 ∨ g.op = 0x72 ∨ g.op = 0x74 then []
  else if g.op = 0x04 ∧ !gatePasses g then []
  else if g.op = 0x0C ∧ g.toks.any (fun t => t.pos == 1) then []
  else if g.op = 0x02 then [if (s.srcB g).lane (laneWidth g.width) 0 ≠ 0 then g.f.dst0.toNat else g.f.dst1.toNat]
  else if g.op = 0x0A then [g.f.dst0.toNat]
  else dsts g.f

/-- R84, R87: the width code of a set's result, against which takeb and setcol are checked: of the slot's format, of 32-bit lanes, or of its
operands. -/
def resultCode (g : Firing) : Nat :=
  let c := (fmtWidth (fmtOf g.f)).getD 5
  let op := g.op
  if op = 0x08 ∨ op = 0x09 then c
  else if eosCase g = .all then g.width
  else if op = 0x41 ∨ op = 0x42 ∨ (0x60 ≤ op ∧ op ≤ 0x67) ∨ op = 0x84 ∨ (0x90 ≤ op ∧ op ≤ 0x92) then 5
  else if (0x10 ≤ op ∧ op ≤ 0x44) ∨ (0x50 ≤ op ∧ op ≤ 0x53) ∨ (0x56 ≤ op ∧ op ≤ 0x5A) ∨ op = 0x80 ∨ op = 0x81 then c
  else g.width

/-- R91: the results of a set have room. A set that its tag action faults sends nothing. -/
def hasRoom (s : State) (g : Firing) : Bool :=
  match s.reserves g, s.resultTag g (resultCode g) with
  | [], _ => true
  | _, .error _ => true
  | l, .ok r => s.roomForAll g.e l r.2

/-- R78, R128, R154, R156: a set's ports are free. -/
def portsFree (s : State) (g : Firing) : Bool :=
  let x := s.elem g.e
  (if onMatrixPort g.op then decide (x.mxFree ≤ s.cycle) && x.accrd.isNone && (decide (0x72 ≤ g.op) || decide (x.mmaFree ≤ s.cycle))
   else decide (x.vcFree ≤ s.cycle) && x.iter.isNone) &&
    (!((decide (0x80 ≤ g.op) && decide (g.op ≤ 0x86)) || g.op == 0x74) || decide (x.spFree ≤ s.cycle))

/-- R98, R112, R151, R157, R201, R221, R237: what else holds a set back. -/
def setOpen (s : State) (g : Firing) : Bool :=
  let x := s.elem g.e
  !(s.spillFull g.e && (g.f.action.toNat == 2 || g.f.action.toNat == 6)) &&
    (if g.op = 0x70 ∨ g.op = 0x71 then matrixOrder s g
     else if g.op = 0x74 then cturnOpen x g
     else if g.op = 0x46 ∨ g.op = 0x47 then x.floatDone s.cycle
     else if g.op = 0x85 then bufTakes x ((bufwOf x.active g.f).getD g.slot) (tagOuter g.tag)
     else if g.op = 0x0F ∨ g.op = 0x93 then (Table.find? x.pend g.slot).isNone
     else true)

/-- R91: a set may issue in this cycle. -/
def canFire (s : State) (x : Stamped) : Bool := decide (x.2 < s.cycle) && s.portsFree x.1 && s.setOpen x.1 && s.hasRoom x.1

/-! ### The order among sets (R91) -/

/-- R91: earliest stamp, lower slot, lower ix, lower tag; R127: of the tokens that a MERGE could take in one cycle, one at A goes first. -/
def setKeyOf (x : Stamped) : List Nat :=
  [x.2, x.1.slot, if x.1.op = 0x03 then (x.1.toks.head?.map (·.pos)).getD 0 else 0, tagIx x.1.tag, x.1.tag.toNat]

/-- R91: of the sets of an element that may issue, the one that goes first on a port. -/
def firstSet (s : State) (e : Nat) (matrix : Bool) : Option Firing :=
  let x := s.elem e
  let all := (List.range 16).flatMap fun n => match x.active.slotAt n with
    | some (op, _, f) => if onMatrixPort op = matrix then (slotSets x e n op f).filter s.canFire else []
    | none => []
  (all.foldl (fun (best : Option Stamped) y => match best with
    | none => some y
    | some b => if keyLt (setKeyOf y) (setKeyOf b) then some y else some b) none).map (·.1)

/-- R329, R345: an element's field issues: its tenant runs and the field is neither halted nor stopped. -/
def elemIssues (s : State) (e : Nat) : Bool :=
  s.elemActive e && match s.fieldAt e with
    | some k => !s.fieldStopped k
    | none => false

/-- R78, R91: the set that an element issues next: on the matrix port, else on the vector and control port. -/
def nextFiring (s : State) (e : Nat) : Option Firing :=
  if s.elemIssues e then s.firstSet e true <|> s.firstSet e false else none

end State

/-- The slot of an element's active plane, as an instruction. -/
def slotInstr (s : State) (e slot : Nat) : Option Instr := ((s.elem e).active.slotAt slot).map fun x => x.2.1

/-- A slot with its side word put into slot 0 of element 0, as the test interface asks: a one-element plane of the supervisor, with a token at
every position that the slot reads. -/
def placeSlot (s : State) (w : Nat) : State :=
  let pl : PlaneSt := { slots := [(0, wd w)] }
  let f := slotFieldsOf (BitVec.ofNat 32 w) (BitVec.ofNat 32 (w / 2 ^ 32))
  let op := bits w 24 8
  let tag : Tag := setTagDepth 0 1
  let code := if op = 0x70 ∨ op = 0x71 then matrixWidth (fmtOf f) else (fmtWidth (fmtOf f)).getD 5
  let t := mkToken tag kData (lanesOf code) code 0
  let comb : CombSt := { slot := 0, tag := tag, width := code, taken := f.ext.toNat, valid := 0, payload := 0, allEos := true, stamp := 0 }
  let x : ElemSt :=
    { active := pl, activeOf := some 0, store := (slotPositions op f).map fun p => { slot := 0, pos := p, token := t, stamp := 0 },
      combs := if op = 0x09 then [comb] else [], loops := if op = 0x0C then [{ slot := 0, key := tagOuter tag, i := 0, x := 0 }] else [] }
  (s.setElem 0 x).setField (fieldKey 0 0) {}

end Sys2Proof.Machine
end

