-- ==== Sys2Proof/Machine/Schedule.lean ====
section
/-! DEFINITION. Which step of another agent is due when nothing is asked for: the machine's own order of activities (log entry 5); and the end of
a core's turn and of a cycle (R22, R23). -/

namespace Sys2Proof.Machine

/-- A step of another agent that is due, and what it is about. -/
abbrev Due := Option (Instr × Focus)

/-- The first step of a list that is due. -/
def firstDue : List Due → Due
  | [] => none
  | some d :: _ => some d
  | none :: r => firstDue r

namespace State

/-- The end of a cycle: tokens leave the output queues (R85), results of BOARDS slots are sent (R221), faults of settled fields are delivered (R345), and
the cycle is counted. -/
def endCycle (s : State) : State :=
  let s1 := s.pump.flushBoards.postFaults
  { s1 with turn := 0, cycle := s1.cycle + 1, stepCyc := s1.stepCyc + 1 }

/-- One core has had its turn: the next core's turn comes, and after the last core the cycle ends (R22, R23). -/
def tick (s : State) : State := if s.turn + 1 < numCores then { s with turn := s.turn + 1 } else s.endCycle

/-! ### The headland -/

/-- The first thread of the table for which a test holds. -/
def findThread (s : State) (p : Nat → ThreadSt → Bool) : Option Nat := (List.find? (fun e : Nat × ThreadSt => p e.1 e.2) s.threads).map (·.1)

/-- A deadline has come. -/
def reached (s : State) : Option Nat → Bool
  | some d => decide (d ≤ s.cycle)
  | none => false

def dueThread (s : State) (i : Instr) (p : Nat → ThreadSt → Bool) : Due :=
  (s.findThread p).map fun k => (i, { thread := k })

def dueCore (s : State) (i : Instr) (p : Nat → CoreSt → Bool) : Due :=
  (List.find? (fun e : Nat × CoreSt => p e.1 e.2) s.cores).map fun e => (i, { core := e.1 })

/-- What is due on the headland. -/
def dueHeadland (s : State) : Due :=
  firstDue [
    (s.dueThread .asyncTrapEntry fun k _ => s.asyncDue k),
    (s.dueThread .loadReturn fun _ t => t.loads.any fun l => decide (l.readyAt ≤ s.cycle)),
    (s.dueCore .dividerDone fun _ c => match c.divider with
    | some x => decide (x.readyAt ≤ s.cycle)
    | none => false),
    (s.dueThread .pauseExpiry fun _ t => t.run == .waiting && t.wait.code == .pause && s.reached t.wait.deadline),
    (s.dueThread .holdExpiry fun _ t => s.reached (t.hold.map (· + 256))),
    (s.dueThread .waitWake fun k t => s.wakeDue k t),
    (s.dueThread .waitTimeout fun _ t =>
    t.run == .waiting && (t.wait.code == .wait || t.wait.code == .waite || t.wait.code == .recv) && s.reached t.wait.deadline),
    (s.dueThread .ucPageReread fun _ t => s.rereadDue t),
    (s.dueCore .storeBufferDrain fun _ c => c.stores.any fun e => decide (e.since + 2 ≤ s.cycle)),
    (s.dueCore .coreWatchdog fun c _ => s.beatDue c)]

/-! ### The sweep, partitions and engines -/

/-- R186, R330: the guard of a slot edge, and the step boundary. -/
def dueSweep (s : State) : Due :=
  firstDue [
    (((List.range numParts).find? fun p => s.guardDue p).map fun p => (.guard, { part := p })),
    (if s.atBoundary then some (.stepBoundary, ({ thread := 0 } : Focus)) else none)]

/-- R386: a collective can complete with what this device knows. -/
def collDue (s : State) (x : CollSt) : Bool := s.tenantActive x.part x.tenant && (x.result.isSome || (s.collMembers x []).isSome)

/-- What is due of the engines: row commits, invalidations, generators and collectives. -/
def dueEngines (s : State) : Due :=
  firstDue [
    (((s.rowBufs.map (·.1) ++ s.parkedRows).find? fun k => s.commitDue k).map fun k => (.rowCommit, { index := k })),
    (((List.range numParts).find? fun p => s.tlbiDue p).map fun p => (.tlbInvalidationDone, { part := p })),
    (((s.gens.map (·.1)).find? fun k => s.genDue k).map fun k => (.generatorBlock, { index := k })),
    ((List.find? (fun x : Nat × CollSt => s.collDue x.2) s.colls).map fun x => (.collectiveComplete, { index := x.1 }))]

/-! ### The fabric -/

/-- R82, R102, R170: what the quiescence tree can report, and what waits for its report. -/
def dueFallow (s : State) : Due :=
  firstDue [
    (s.dueThread .swapActivate fun _ t => inSwap t 1 && s.reached t.wait.deadline),
    (((s.findThread fun _ t => inSwap t 0 && (planeElems t.wait.addr).all fun e => s.elemFallow e)).map fun k =>
    (.fallowReport, { flag := true, thread := k })),
    (s.dueThread .swapTimeout fun _ t => inSwap t 0 && s.reached t.wait.deadline),
    ((List.findSome? (fun x : Nat × FieldSt =>
    if activeField s x.2.word ≠ some x.1 then none
    else if !x.2.reported && (planeElems x.2.word).all (fun e => s.elemFallow e) then some (.fallowReport, { index := x.1 })
    else ((List.range 16).find? fun b =>
      !x.2.bedsReported.contains b && !(bedElems s x.2.word b).isEmpty && (bedElems s x.2.word b).all fun e => s.elemFallow e).map fun b =>
        (.fallowReport, { index := x.1, slot := b, tag := 1 })) s.fields)),
    (((List.range numParts).find? fun p => (s.part p).dies != 0 && !(s.part p).reported && partFallow s p).map fun p =>
    (.fallowReport, { part := p, layer := 1 }))]

/-- R85, R90, R95, R196: a token on the network can be handled where it is bound. -/
def flightDue (s : State) (k : Nat) (f : FlightSt) : Bool :=
  match f.feed, f.bound with
  | some _, _ => decide (f.at_ ≤ s.cycle) && !s.overtakes k f
  | none, .share e => (s.shareTakes k e f).isSome
  | none, _ => s.atInput k f && (s.arrive k f).isSome

/-- What is due of tokens on their way. -/
def dueTokens (s : State) : Due :=
  firstDue [
    ((List.find? (fun f : Nat × FlightSt => s.flightDue f.1 f.2) s.flights).map fun f =>
    (if f.2.token.kind = kReap ∧ f.2.feed = none ∧ (boundElem f.2.bound).isSome then .reapToken else .tokenArrival, { index := f.1 })),
    (((List.range (16 * numCores)).find? fun i => s.injReady (i / 16) (i % 16)).map fun i => (.injectionRelease, { core := i / 16, place := i % 16 }))]

/-- What is due at an element: its mail, reloads, retiring filters, emissions and arcs, and then the set that issues. -/
def dueElem (s : State) (e : Nat) (x : ElemSt) : Due :=
  firstDue [
    (if (s.mailHead e).isSome then some (.mailboxAccept, { elem := e }) else none),
    (if (s.reloadPick e).isSome then some (.reload, { elem := e }) else none),
    (((List.range x.reaps.length).find? fun i => match x.reaps[i]? with
    | some f => s.bedClean e f
    | none => false).map fun i => (.reapFilterRetire, { elem := e, index := i })),
    (if s.elemActive e && s.iterDue e then some (.iterEmit, { elem := e }) else none),
    (if s.elemActive e && s.accrdDue e then some (.accrdRow, { elem := e }) else none),
    (((x.cturn.map (·.1)).find? fun k => s.elemActive e && s.cturnDue e k).map fun k => (.cturnEmit, { elem := e, index := k })),
    (((x.pend.map (·.1)).find? fun n => s.elemActive e && s.ordDue e n).map fun n => (.ordArcSend, { elem := e, slot := n })),
    (match s.nextFiring e with
      | some g => (slotInstr s g.e g.slot).map fun i => (i, { elem := g.e, slot := g.slot, tag := g.tag })
      | none => none)]

/-- What is due of the elements. -/
def dueElems (s : State) : Due := List.findSome? (fun x : Nat × ElemSt => s.dueElem x.1 x.2) s.elems

/-- R98: a field is exhausted. -/
def dueExhausted (s : State) : Due :=
  ((s.fields.map (·.1)).find? fun k => s.exhausted k && (planeElems (s.field k).word).any fun e => s.spillFull e).map fun k =>
    (.matchExhausted, { index := k })

/-- The step that is due now. -/
def due (s : State) : Due :=
  firstDue [s.dueSweep, s.dueHeadland, s.dueFallow, s.dueTokens, s.dueEngines, s.dueElems, s.dueExhausted]

end State

/-- R379: the requests that the management controller takes from the two masters. -/
def managed (i : Instr) : Bool :=
  match i with
  | .powerOn | .powerOff | .readNotices | .takeResetLock | .dropResetLock | .loadFirmware | .breakClaim | .breakRelease | .breakResume
  | .partitionReset | .deviceReset | .checkpoint => true
  | _ => false

/-- R379: the requests that the side-band port makes, with the main rails down too. -/
def sideBandRequest (i : Instr) (f : Focus) : Bool := f.master == .sideBand && managed i

/-- R379: a request of a master. -/
def requestOf (m : Master) : Act → Bool
  | .event i f => f.master == m && managed i
  | _ => false

/-- R379: the first request of the host among the events that come before the next issue or firing, which are those of one cycle (log entry 141), and the
others. -/
def hostRequest : List Act → Option (Act × List Act)
  | [] => none
  | .event i f :: r => if requestOf .host (.event i f) then some (.event i f, r) else (hostRequest r).map fun x => (x.1, .event i f :: x.2)
  | _ :: _ => none

/-- R379, R394: where the side-band's request and the host's arrive in the same cycle, the host's is taken first. -/
def hostFirst (l : List Act) : List Act :=
  match l with
  | [] => []
  | a :: r => if requestOf .sideBand a then (match hostRequest r with
      | some (h, r') => h :: a :: r'
      | none => a :: r) else a :: r

end Sys2Proof.Machine
end

