-- ==== Sys2Proof/Machine/Step.lean ====
section
/-! DEFINITION. One step of the machine: the activity that the agenda asks for, else the step that is due, else the issue of the core
whose turn it is. -/

namespace Sys2Proof.Machine

/-- The instruction of thread `k` issues. -/
def runThread (s : State) (k : Nat) : Out :=
  let x := issueOf s k
  exec x.1 x.2

/-- The issue of core `c`: the thread that R18 picks runs its instruction; then the next core has its turn. -/
def issueCore (s : State) (c : Nat) : Out :=
  match s.pick c with
  | none => .next s.tick
  | some k => mapNext State.tick (runThread s k)

/-- The turn of core `c` in a cycle: its issue. Where it arrives at a barrier that a later core writes in this cycle, that core issues first (R228,
log entry 5), and has no other turn in the cycle. -/
def turnOf (s : State) (c : Nat) : Out :=
  if (s.core c).ahead = s.cycle + 1 then .next s.tick
  else match (s.pick c).bind s.writerFirst with
    | some j => runThread (s.modCore (coreOf j) fun x => { x with ahead := s.cycle + 1 }) j
    | none => issueCore s c

/-- One activity of the agenda. Without power only the side-band port's requests are taken (R379). -/
def runAct (a : Act) (s : State) : Out :=
  match a with
  | .event i f => if s.powered || sideBandRequest i f then exec i { s with focus := f } else .fault .poweredOff
  | .fire e n t =>
    if !s.powered then .fault .poweredOff
    else match slotInstr s e n with
      | some i => exec i { s with focus := { elem := e, slot := n, tag := t } }
      | none => .refused .notEnabled
  | .issue c => if s.powered then issueCore s c else .fault .poweredOff

/-- One step. -/
def step (s : State) : Out :=
  match hostFirst s.agenda with
  | a :: rest => runAct a { s with agenda := rest }
  | [] =>
    if !s.powered then .fault .poweredOff
    else match s.due with
      | some d => exec d.1 { s with focus := d.2 }
      | none => turnOf s s.turn

/-- The state with an instruction stored where the next step fetches. A headland word: the agenda asks for the issue of the core whose turn it
is, and the thread it picks (thread 0 of the core where none is READY) finds the word at its pc. A slot: element 0 fires it. -/
def State.withFetchWord (s : State) (nbits w : Nat) : State :=
  if 32 < nbits then { placeSlot s w with agenda := [.fire 0 0 (setTagDepth 0 1)] }
  else
    let k := (s.pick s.turn).getD (s.turn * 4)
    let s1 := if (s.pick s.turn).isSome then s
      else { s with threads := Table.put s.threads k { ThreadSt.reset k with run := .ready, mode := true } }
    { placeWord s1 k w with agenda := [.issue s.turn] }

end Sys2Proof.Machine
end

