-- ==== Sys2Proof/Safety.lean ====
section
/-! DEFINITION. What a safe run is, in the terms the claims use: a step that goes on, the well-formed state, and the frames that claims say of
a step: what it leaves as it was. -/

namespace Sys2Proof.Machine

/-- The step goes on: neither a fault nor a refusal. -/
def goesOn (o : Out) : Prop := ∃ t, o = .next t

/-- Memory keeps its canonical form. -/
def State.memOk (s : State) : Prop := Memory.wf s.mem = true

/-- Every byte of memory reads as before. -/
def State.sameBytes (s t : State) : Prop := ∀ a, Memory.get t.mem a = Memory.get s.mem a

/-- Every byte of memory outside the `n` bytes at `a` reads as before. -/
def State.sameBytesBut (s t : State) (a n : Nat) : Prop := ∀ b, b < a ∨ a + n ≤ b → Memory.get t.mem b = Memory.get s.mem b

/-- Every general register but `d` of thread `k` is as before. -/
def State.sameRegsBut (s t : State) (k : Nat) (d : Reg) : Prop := ∀ j r, ¬(j = k ∧ r = d) → t.gprOf j r = s.gprOf j r

/-- Every general register of every thread is as before. -/
def State.sameRegs (s t : State) : Prop := ∀ j r, t.gprOf j r = s.gprOf j r

/-- What an instruction on registers leaves as it was: of the acting thread all but general register `d` and the pc (its status, its trap and
special registers, its accumulators of pending work), every other thread, and the whole rest of the machine, memory byte by byte. -/
structure RegisterFrame (s t : State) (d : Reg) : Prop where
  registers : s.sameRegsBut t s.me d
  thread : { t.cur with gpr := s.cur.gpr, pc := s.cur.pc } = s.cur
  others : ∀ k, k ≠ s.me → t.thread k = s.thread k
  machine : { t with threads := s.threads } = s
  memory : s.sameBytes t

/-- An instruction completes with `v` in its destination register `d` (g0 stays 0), the pc at the next word and nothing else changed. -/
def Writes (i : Instr) (s : State) (d : Reg) (v : Word) : Prop :=
  ∃ t, exec i s = .next t ∧ t.gpr d = (if d = 0 then 0 else v) ∧ t.pc = s.pc + 4 ∧ RegisterFrame s t d

/-- R17, R53: an instruction completes as `Writes` says, but its result is ready `lat` cycles after its issue: until then an instruction that needs
the register waits, and registers that were awaited before still are. -/
def WritesLate (i : Instr) (s : State) (d : Reg) (v : Word) (lat : Nat) : Prop :=
  ∃ t, exec i s = .next t ∧ t.gpr d = (if d = 0 then 0 else v) ∧ t.pc = s.pc + 4 ∧
    t.cur.busy.head? = some (d, s.cycle + lat) ∧ (∀ b ∈ s.cur.busy, b.1 ≠ d → s.cycle < b.2 → b ∈ t.cur.busy) ∧
    RegisterFrame s (t.modMe fun x => { x with busy := s.cur.busy }) d

/-- What an instruction of control flow leaves as it was: of the acting thread all but general register `d`, the pc, the branch predictor, the
return stack and the cycle from which the thread issues again (R65); every other thread; and the whole rest of the machine. -/
structure ControlFrame (s t : State) (d : Reg) : Prop where
  registers : s.sameRegsBut t s.me d
  thread : { t.cur with gpr := s.cur.gpr, pc := s.cur.pc, predictor := s.cur.predictor, returns := s.cur.returns, notBefore := s.cur.notBefore } = s.cur
  others : ∀ k, k ≠ s.me → t.thread k = s.thread k
  machine : { t with threads := s.threads } = s
  memory : s.sameBytes t

/-- What an instruction of one thread leaves as it was in the threads: every general register but `d`, of the acting thread all but its registers,
its pc and its outstanding loads, and every other thread. -/
structure ThreadFrame (s t : State) (d : Reg) : Prop where
  registers : s.sameRegsBut t s.me d
  thread : { t.cur with gpr := s.cur.gpr, pc := s.cur.pc, loads := s.cur.loads } = s.cur
  others : ∀ k, k ≠ s.me → t.thread k = s.thread k
  focus : t.focus = s.focus

/-- R227: a thread is as before, but that a write of the line on which it slept may have woken it, so that it reads its word again next. -/
def WokenAs (x y : ThreadSt) : Prop := y = x ∨ (asleep x = true ∧ y = { x with wait := { x.wait with last := none } })

/-- What an access that may perform stores leaves as it was in the threads: as `ThreadFrame`, but that sleepers in WAIT and WAITE may be woken. -/
structure StoreFrame (s t : State) (d : Reg) : Prop where
  registers : s.sameRegsBut t s.me d
  thread : WokenAs s.cur { t.cur with gpr := s.cur.gpr, pc := s.cur.pc, loads := s.cur.loads }
  others : ∀ k, k ≠ s.me → WokenAs (s.thread k) (t.thread k)
  focus : t.focus = s.focus

/-- The instruction takes the synchronous trap `code` with the value `value` (R25, R26) from the state `r` in which its checks failed, and no
register is written. The code may carry FLAGS and SOURCE of FREC0 above its 8 bits (R340, R341). -/
def Traps (i : Instr) (s r : State) (code : Nat) (value : Word) : Prop :=
  ∃ t, exec i s = .next t ∧ 
    t = r.trapThread s.me false (code % 256) value (r.trapRec s.me code ((encode i).getD 0) value) false ∧ s.sameRegs t

/-- R243: the byte at `a` as the threads of core `c` read it in local memory: that of the newest buffered store over it, else memory's. -/
def State.seenByte (s : State) (c a : Nat) : Byte :=
  match (s.core c).stores.reverse.find? fun e => decide (e.addr ≤ a) && decide (a < e.addr + e.size) with
  | some e => BitVec.ofNat 8 (e.value / 256 ^ (a - e.addr))
  | none => Memory.get s.mem a

/-- A core is as before but for its buffered stores and its watchdog, which a store to BEAT arms (R366). -/
def State.sameCoreBut (s t : State) (c : Nat) : Prop :=
  { t.core c with stores := (s.core c).stores, beatArmed := (s.core c).beatArmed, beatAt := (s.core c).beatAt } = s.core c

/-- R343, R344: one notice about thread `k` has been written: the record, WRIDX raised by one, and no byte outside the core's notice ring. -/
def Notified (s t : State) (k kind code : Nat) (d0 d1 : Word) : Prop :=
  let c := coreOf k
  let ring := localBase c + 0x7F000
  let n := Memory.read s.mem ring 8
  let w : Word := BitVec.ofNat 64 (kind + code * 2 ^ 8 + (s.thread k).tenant * 2 ^ 16 + dieOfCore c * 2 ^ 24 + stripOfCore c * 2 ^ 40 + k % 4 * 2 ^ 43)
  t.notices = s.notices ++ [{ core := c, word0 := w, word1 := s.when, detail0 := d0, detail1 := d1 }] ∧
  Memory.read t.mem ring 8 = (n + 1) % 2 ^ 64 ∧ Memory.read t.mem (ring + 0x20 + 32 * (n % 127)) 8 = w.toNat ∧
  Memory.read t.mem (ring + 0x28 + 32 * (n % 127)) 8 = s.when.toNat ∧ Memory.read t.mem (ring + 0x30 + 32 * (n % 127)) 8 = d0.toNat ∧
  Memory.read t.mem (ring + 0x38 + 32 * (n % 127)) 8 = d1.toNat ∧ s.sameBytesBut t ring 0x1000

/-- Every thread but `k` is as before. -/
def State.otherThreads (s t : State) (k : Nat) : Prop := ∀ j, j ≠ k → t.thread j = s.thread j

/-! ### Firings -/

/-- R90: the set that the focus's slot matches: for the firing tag, or under takeb the oldest token at each position it reads. -/
def State.matchedSet (s : State) (op : Nat) (f : SlotFields) : Option Firing :=
  match matchedAt (s.elem s.focus.elem) s.focus.slot (if f.action.toNat = 8 then none else some s.focus.tag) (slotPositions op f) with
  | some (t :: ts) => some { e := s.focus.elem, slot := s.focus.slot, op := op, f := f, tag := t.token.tag, toks := t :: ts }
  | _ => none

/-- R90, R122, R123: a matched set that lets its slot act: no arc token where the opcode takes none, and a gate that is open. -/
structure Ready (s : State) (op : Nat) (f : SlotFields) (g : Firing) : Prop where
  set : s.matchedSet op f = some g
  arcs : State.arcAt g = none
  gate : gatedOf f = true → State.gateOpens g = true

/-- R105, R117: the tokens whose WIDTH a slot checks: its operands, or, where it reads none, its gate token (log entry 104, DEDUCED). -/
def Firing.checked (g : Firing) : List StoreTok := if g.operands.isEmpty then g.toks else g.operands

/-- R105, R123: a matched set of a value opcode, none of whose operands is an EOS token, all of them of the format's lane width. -/
structure ReadyData (s : State) (op : Nat) (f : SlotFields) (g : Firing) : Prop extends Ready s op f g where
  data : ∀ t ∈ g.operands, t.token.kind ≠ kEos
  widths : ∀ w, fmtWidth (fmtOf f) = some w → ∀ t ∈ g.checked, t.token.width = w

/-- The lanes of a payload, `w` bits each: `k i` in lane `i` below `n`, and 0 in every other (R84, R124). -/
def Lanes (p : Payload) (w n : Nat) (k : Nat → Nat) : Prop := ∀ i, bits p.toNat (w * i) w = if i < n then k i else 0

/-- R87, R90 to R92: the slot fires: with the result tag and the state of the tag action, its set is taken and `sends` leave for their
destination codes, `lat` cycles later, the port held for `hold` cycles, `flags` raised; and where the tag action faults, the slot faults. -/
def FiresWith (i : Instr) (s : State) (g : Firing) (code lat hold flags : Nat) (sends : State → Tag → List (Nat × Token) → Prop) : Prop :=
  (∀ r, s.resultTag g code = .ok r → ∃ l, sends r.1 r.2 l ∧ exec i s = .next (r.1.endFiring g g.toks l lat hold flags)) ∧
  (∀ c, s.resultTag g code = .error c → exec i s = s.fault g c (State.tagPos g))

/-- R84, R125: the slot fires and sends each destination one token of the kind, VALID and width code, whose payload holds `k i` in unit `i` of `w`
bits below `n` and 0 from there on. -/
def TokenResult (i : Instr) (s : State) (g : Firing) (kind code valid w n lat hold flags : Nat) (k : Nat → Nat) : Prop :=
  FiresWith i s g code lat hold flags fun _ tag l => ∃ p : Payload, Lanes p w n k ∧
    l = [(g.f.dst0.toNat, { tag := tag, kind := kind, valid := valid, width := code, payload := p }),
         (g.f.dst1.toNat, { tag := tag, kind := kind, valid := valid, width := code, payload := p })]

/-- R84, R124, R125: the slot fires and sends each destination one token of `n` valid lanes of the width code, `k i` in lane `i`. -/
def LaneResult (i : Instr) (s : State) (g : Firing) (kind code n lat hold flags : Nat) (k : Nat → Nat) : Prop :=
  TokenResult i s g kind code n (2 ^ code) n lat hold flags k

/-- R87, R99, R232: a slot memory operation fires: it is performed in a state `u` of which `done u` holds, and from there sends each destination one
token with the result tag and `k i` in unit `i` of `w` bits below `n`; where the tag action faults, it has no effect but that fault. -/
def MemFires (i : Instr) (s : State) (g : Firing) (kind code valid w n lat flags : Nat) (k : Nat → Nat) (done : State → Prop) : Prop :=
  (∀ c, s.resultTag g code = .error c → exec i s = s.fault g c (State.tagPos g)) ∧
  ∀ r, s.resultTag g code = .ok r → ∃ (u r' : State) (p : Payload), done u ∧ u.resultTag g code = .ok (r', r.2) ∧ Lanes p w n k ∧
    let y : Token := { tag := r.2, kind := kind, valid := valid, width := code, payload := p }
    exec i s = .next (r'.endFiring g g.toks [(g.f.dst0.toNat, y), (g.f.dst1.toNat, y)] lat 1 flags)

/-- R78, R238: of the elements only element `e` has changed, and of it only when its scratchpad port is free and its memory operations are performed. -/
def State.portTaken (s u : State) (e port lat : Nat) : Prop :=
  (∀ d, d ≠ e → u.elem d = s.elem d) ∧ (u.elem e).spFree = (if port = 0 then (s.elem e).spFree else max (s.elem e).spFree s.cycle + port) ∧
  (u.elem e).memDone = max (s.elem e).memDone (s.cycle + lat)

/-- No byte of the `n` bytes at `a` lies in a word with an uncorrectable error (R359). -/
def State.soundAt (s : State) (a n : Nat) : Prop := ∀ q ∈ s.badWords, 8 * q + 8 ≤ a ∨ a + n ≤ 8 * q

/-- The tokens on their way and in the output queues of element `e` are those of `u`. -/
def State.sentAs (u t : State) (e : Nat) : Prop :=
  t.flights = u.flights ∧ t.flightNext = u.flightNext ∧ (t.elem e).outq = (u.elem e).outq ∧ (t.elem e).scaleq = (u.elem e).scaleq

/-- R79, R124: the token that a source stands for: its own, or one with the select's value in every lane. -/
def Src.stands (x : Src) (tag : Tag) (width : Nat) (y : Token) : Prop :=
  match x.tok with
  | some t => y = t
  | none => ∃ p : Payload, Lanes p (2 ^ width) (1024 / 2 ^ width) (fun _ => x.val % 2 ^ 2 ^ width) ∧
      y = { tag := tag, kind := 0, valid := 1024 / 2 ^ width, width := width, payload := p }

/-- R90: each token of `taken` has left a matching store once, and nothing else of it has changed. -/
def TakenFrom (old taken new : List StoreTok) : Prop := new.Sublist old ∧ ∀ y, new.count y = old.count y - taken.count y

/-- What a firing leaves as it was: every thread, every byte of memory, every other element, and the machine but for the fields, the colours and
the network. -/
structure SlotFrame (s t : State) (e : Nat) : Prop where
  elems : ∀ d, d ≠ e → t.elem d = s.elem d
  plane : (t.elem e).active = (s.elem e).active
  machine : { t with elems := s.elems, fields := s.fields, parts := s.parts, flights := s.flights, flightNext := s.flightNext } = s

end Sys2Proof.Machine
end

