-- ==== Sys2Proof/Certificates/Slice0/Obligations.lean ====
section
/-! DEFINITION. The statements for the provers: what the spec's rules say of the machine, one family of instructions or steps at a time. -/

open Sys2Proof Sys2Proof.Machine

/-- R54, with the func values of R33: the three-operand forms. -/
def Obligations.AluThreeOperandResults : Prop :=
  ∀ (s : State) (d a b : Reg), let x := s.gpr a; let y := s.gpr b; let n := y.toNat % 64
    let word := fun (func : BitVec 11) => some (0b000000#6 ++ d ++ a ++ b ++ func)
    (Writes (.add d a b) s d (BitVec.ofNat 64 (x.toNat + y.toNat)) ∧ encode (.add d a b) = word 0x000) ∧
    (Writes (.sub d a b) s d (BitVec.ofInt 64 (x.toNat - y.toNat)) ∧ encode (.sub d a b) = word 0x001) ∧
    (Writes (.and d a b) s d (BitVec.ofNat 64 (x.toNat &&& y.toNat)) ∧ encode (.and d a b) = word 0x002) ∧
    (Writes (.or d a b) s d (BitVec.ofNat 64 (x.toNat ||| y.toNat)) ∧ encode (.or d a b) = word 0x003) ∧
    (Writes (.xor d a b) s d (BitVec.ofNat 64 (x.toNat ^^^ y.toNat)) ∧ encode (.xor d a b) = word 0x004) ∧
    (Writes (.andn d a b) s d (BitVec.ofNat 64 (x.toNat - (x.toNat &&& y.toNat))) ∧ encode (.andn d a b) = word 0x005) ∧
    (Writes (.shl d a b) s d (BitVec.ofNat 64 (x.toNat * 2 ^ n)) ∧ encode (.shl d a b) = word 0x006) ∧
    (Writes (.shr d a b) s d (BitVec.ofNat 64 (x.toNat / 2 ^ n)) ∧ encode (.shr d a b) = word 0x007) ∧
    (Writes (.sar d a b) s d (BitVec.ofInt 64 (x.toInt / 2 ^ n)) ∧ encode (.sar d a b) = word 0x008) ∧
    (Writes (.slt d a b) s d (if x.toInt < y.toInt then 1 else 0) ∧ encode (.slt d a b) = word 0x009) ∧
    (Writes (.sltu d a b) s d (if x.toNat < y.toNat then 1 else 0) ∧ encode (.sltu d a b) = word 0x00A) ∧
    (Writes (.min d a b) s d (BitVec.ofInt 64 (min x.toInt y.toInt)) ∧ encode (.min d a b) = word 0x00B) ∧
    (Writes (.max d a b) s d (BitVec.ofInt 64 (max x.toInt y.toInt)) ∧ encode (.max d a b) = word 0x00C) ∧
    (Writes (.minu d a b) s d (BitVec.ofNat 64 (min x.toNat y.toNat)) ∧ encode (.minu d a b) = word 0x00D) ∧
    (Writes (.maxu d a b) s d (BitVec.ofNat 64 (max x.toNat y.toNat)) ∧ encode (.maxu d a b) = word 0x00E)

/-- R55: the multiply forms; `P` is the product as a 128-bit value. -/
def Obligations.MultiplyGivesTheExactProduct : Prop :=
  ∀ (s : State) (d a b : Reg), let x := s.gpr a; let y := s.gpr b
    let signed : BitVec 128 := BitVec.ofInt 128 (x.toInt * y.toInt)
    let unsigned : BitVec 128 := BitVec.ofNat 128 (x.toNat * y.toNat)
    let mixed : BitVec 128 := BitVec.ofInt 128 (x.toInt * y.toNat)
    WritesLate (.mul d a b) s d (signed.extractLsb' 0 64) 3 ∧ WritesLate (.mulh d a b) s d (signed.extractLsb' 64 64) 3 ∧
    WritesLate (.mulhu d a b) s d (unsigned.extractLsb' 64 64) 3 ∧ WritesLate (.mulhsu d a b) s d (mixed.extractLsb' 64 64) 3 ∧
    signed.extractLsb' 0 64 = unsigned.extractLsb' 0 64 ∧ signed.extractLsb' 0 64 = mixed.extractLsb' 0 64

/-- R56 with R53: the divide forms start the core's divider, and DIVIDER_DONE delivers the result. -/
def Obligations.DivideThroughTheDivider : Prop :=
  (∀ (s : State) (d a b : Reg), (s.core s.myCore).divider = none →
    let x := s.gpr a; let y := s.gpr b
    let starts := fun (i : Instr) (v : Word) (n : Nat) => ∃ t, exec i s = .next t ∧ t.pc = s.pc + 4 ∧
      (t.core s.myCore).divider = some { thread := s.me, gd := d, value := v, readyAt := s.cycle + n } ∧
      { t.core s.myCore with divider := none } = s.core s.myCore ∧ (∀ c, c ≠ s.myCore → t.core c = s.core c) ∧
      { t.cur with pc := s.pc } = s.cur ∧ (∀ k, k ≠ s.me → t.thread k = s.thread k) ∧
      { t with threads := s.threads, cores := s.cores } = s ∧ s.sameRegs t ∧ s.sameBytes t
    let cycles := fun (m : Nat) => if y = 0 then 20 else 20 + 3 * ((Nat.size m + 3) / 4)
    let corner := x.toInt = -2 ^ 63 ∧ y.toInt = -1
    starts (.div d a b) (if y = 0 then BitVec.allOnes 64 else if corner then x else BitVec.ofInt 64 (x.toInt.tdiv y.toInt)) (cycles x.toInt.natAbs) ∧
    starts (.divu d a b) (if y = 0 then BitVec.allOnes 64 else BitVec.ofNat 64 (x.toNat / y.toNat)) (cycles x.toNat) ∧
    starts (.rem d a b) (if y = 0 then x else if corner then 0 else BitVec.ofInt 64 (x.toInt.tmod y.toInt)) (cycles x.toInt.natAbs) ∧
    starts (.remu d a b) (if y = 0 then x else BitVec.ofNat 64 (x.toNat % y.toNat)) (cycles x.toNat)) ∧
  (∀ (s : State) (q : DivSt), (s.core s.focus.core).divider = some q →
    ∃ t, exec .dividerDone s = .next t ∧ t.gprOf q.thread q.gd = (if q.gd = 0 then 0 else q.value) ∧ s.sameRegsBut t q.thread q.gd ∧
      (t.core s.focus.core).divider = none ∧ { t.core s.focus.core with divider := (s.core s.focus.core).divider } = s.core s.focus.core ∧
      (∀ c, c ≠ s.focus.core → t.core c = s.core c) ∧ { t.thread q.thread with gpr := (s.thread q.thread).gpr } = s.thread q.thread ∧
      (∀ k, k ≠ q.thread → t.thread k = s.thread k) ∧ { t with threads := s.threads, cores := s.cores } = s ∧ s.sameBytes t)

/-- R57, with the func values of R33: the two-operand forms. -/
def Obligations.AluTwoOperandResults : Prop :=
  ∀ (s : State) (d a : Reg), let x := s.gpr a
    let word := fun (func : BitVec 11) => some (0b000000#6 ++ d ++ a ++ 0#5 ++ func)
    (∃ n : Nat, n ≤ 64 ∧ Writes (.clz d a) s d (BitVec.ofNat 64 n) ∧ x.toNat < 2 ^ (64 - n) ∧ (n < 64 → 2 ^ (63 - n) ≤ x.toNat)) ∧
    (∃ n : Nat, n ≤ 64 ∧ Writes (.ctz d a) s d (BitVec.ofNat 64 n) ∧ x.toNat % 2 ^ n = 0 ∧ (n < 64 → x.getLsbD n = true)) ∧
    Writes (.popc d a) s d (BitVec.ofNat 64 ((List.range 64).countP fun k => x.getLsbD k)) ∧
    (∃ v, Writes (.bswap d a) s d v ∧ ∀ k < 8, v.extractLsb' (8 * k) 8 = x.extractLsb' (8 * (7 - k)) 8) ∧
    Writes (.sextb d a) s d ((x.extractLsb' 0 8).signExtend 64) ∧ Writes (.sexth d a) s d ((x.extractLsb' 0 16).signExtend 64) ∧
    Writes (.sextw d a) s d ((x.extractLsb' 0 32).signExtend 64) ∧ Writes (.zextb d a) s d (BitVec.ofNat 64 (x.toNat % 2 ^ 8)) ∧
    Writes (.zexth d a) s d (BitVec.ofNat 64 (x.toNat % 2 ^ 16)) ∧ Writes (.zextw d a) s d (BitVec.ofNat 64 (x.toNat % 2 ^ 32)) ∧
    encode (.clz d a) = word 0x020 ∧ encode (.ctz d a) = word 0x021 ∧ encode (.popc d a) = word 0x022 ∧ encode (.bswap d a) = word 0x023 ∧
    encode (.sextb d a) = word 0x024 ∧ encode (.sexth d a) = word 0x025 ∧ encode (.sextw d a) = word 0x026 ∧
    encode (.zextb d a) = word 0x027 ∧ encode (.zexth d a) = word 0x028 ∧ encode (.zextw d a) = word 0x029

/-- R58, R34: the immediate group. -/
def Obligations.ImmediateGroupResults : Prop :=
  (∀ (s : State) (d a : Reg) (imm : BitVec 16) (amt : BitVec 6), let x := s.gpr a; let n := amt.toNat
    let word := fun (op : BitVec 6) => some (op ++ d ++ a ++ imm)
    let shift := fun (op : BitVec 6) => some (op ++ d ++ a ++ 0#10 ++ amt)
    let alone := fun (op : BitVec 6) => some (op ++ d ++ 0#5 ++ imm)
    (Writes (.addi d a imm) s d (BitVec.ofInt 64 (x.toInt + imm.toInt)) ∧ encode (.addi d a imm) = word 0x01) ∧
    (Writes (.andi d a imm) s d (BitVec.ofNat 64 (x.toNat &&& imm.toNat)) ∧ encode (.andi d a imm) = word 0x02) ∧
    (Writes (.ori d a imm) s d (BitVec.ofNat 64 (x.toNat ||| imm.toNat)) ∧ encode (.ori d a imm) = word 0x03) ∧
    (Writes (.xori d a imm) s d (BitVec.ofNat 64 (x.toNat ^^^ imm.toNat)) ∧ encode (.xori d a imm) = word 0x04) ∧
    (Writes (.slti d a imm) s d (if x.toInt < imm.toInt then 1 else 0) ∧ encode (.slti d a imm) = word 0x05) ∧
    (Writes (.sltiu d a imm) s d (if x.toNat < (BitVec.ofInt 64 imm.toInt).toNat then 1 else 0) ∧ encode (.sltiu d a imm) = word 0x06) ∧
    (Writes (.shli d a amt) s d (BitVec.ofNat 64 (x.toNat * 2 ^ n)) ∧ encode (.shli d a amt) = shift 0x07) ∧
    (Writes (.shri d a amt) s d (BitVec.ofNat 64 (x.toNat / 2 ^ n)) ∧ encode (.shri d a amt) = shift 0x08) ∧
    (Writes (.sari d a amt) s d (BitVec.ofInt 64 (x.toInt / 2 ^ n)) ∧ encode (.sari d a amt) = shift 0x09) ∧
    (Writes (.lui d imm) s d (BitVec.ofInt 64 (imm.toInt * 2 ^ 16)) ∧ encode (.lui d imm) = alone 0x0A) ∧
    (Writes (.lus d imm) s d (BitVec.ofNat 64 ((s.gpr d).toNat * 2 ^ 16 + imm.toNat)) ∧ encode (.lus d imm) = alone 0x0B) ∧
    (Writes (.addpc d imm) s d (BitVec.ofInt 64 (s.pc.toNat + imm.toInt * 4)) ∧ encode (.addpc d imm) = alone 0x0C)) ∧
  (∀ w : Word32,
    ((w.extractLsb' 26 6 = 0x07 ∨ w.extractLsb' 26 6 = 0x08 ∨ w.extractLsb' 26 6 = 0x09) → w.extractLsb' 6 10 ≠ 0 →
      decodeWord w = .error .mustBeZero) ∧
    ((w.extractLsb' 26 6 = 0x0A ∨ w.extractLsb' 26 6 = 0x0B ∨ w.extractLsb' 26 6 = 0x0C) → w.extractLsb' 16 5 ≠ 0 →
      decodeWord w = .error .mustBeZero))

/-- R63: the branches, with the target of R31. -/
def Obligations.BranchesGoToTheirTargets : Prop :=
  ∀ (s : State) (a b : Reg) (off : BitVec 16), let x := s.gpr a; let y := s.gpr b
    let goes := fun (i : Instr) (op : BitVec 6) (taken : Prop) =>
      encode i = some (op ++ a ++ b ++ off) ∧
      ∃ t, exec i s = .next t ∧ (taken → t.pc = BitVec.ofInt 64 (s.pc.toNat + off.toInt * 4)) ∧ (¬ taken → t.pc = s.pc + 4) ∧
        s.sameRegs t ∧ ControlFrame s t 0 ∧ t.cur.returns = s.cur.returns ∧
        let guess := 2 ≤ (Table.getD s.cur.predictor (s.pc.toNat / 4 % 64) 0).toNat
        ((guess ↔ taken) → t.cur.notBefore = s.cur.notBefore) ∧ (¬ (guess ↔ taken) → t.cur.notBefore = s.cycle + 3)
    goes (.beq a b off) 0x14 (x = y) ∧ goes (.bne a b off) 0x15 (x ≠ y) ∧ goes (.blt a b off) 0x16 (x.toInt < y.toInt) ∧
    goes (.bge a b off) 0x17 (y.toInt ≤ x.toInt) ∧ goes (.bltu a b off) 0x18 (x.toNat < y.toNat) ∧ goes (.bgeu a b off) 0x19 (y.toNat ≤ x.toNat)

/-- R64: the jumps. -/
def Obligations.JumpsLinkAndTrapOnMisalignment : Prop :=
  (∀ (s : State) (d : Reg) (off : BitVec 21), encode (.jal d off) = some (0b011010#6 ++ d ++ off) ∧
    ∃ t, exec (.jal d off) s = .next t ∧ t.pc = BitVec.ofInt 64 (s.pc.toNat + off.toInt * 4) ∧
      t.gpr d = (if d = 0 then 0 else s.pc + 4) ∧ ControlFrame s t d ∧ t.cur.predictor = s.cur.predictor ∧ t.cur.notBefore = s.cur.notBefore) ∧
  (∀ (s : State) (d a : Reg) (imm : BitVec 16), let target := BitVec.ofInt 64 ((s.gpr a).toInt + imm.toInt)
    encode (.jalr d a imm) = some (0b011011#6 ++ d ++ a ++ imm) ∧
    (target.toNat % 4 = 0 → ∃ t, exec (.jalr d a imm) s = .next t ∧ t.pc = target ∧
      t.gpr d = (if d = 0 then 0 else s.pc + 4) ∧ ControlFrame s t d ∧ t.cur.predictor = s.cur.predictor ∧
      t.cur.notBefore = (if d = 0 ∧ a = 1 ∧ imm = 0 ∧ s.cur.returns.head? = some target then s.cur.notBefore else s.cycle + 3)) ∧
    (target.toNat % 4 ≠ 0 → ∃ t, exec (.jalr d a imm) s = .next t ∧ s.sameRegs t ∧
      t = s.trapThread s.me false 0x03 target (s.headlandRec s.me 0x03 0 (0b011011#6 ++ d ++ a ++ imm) target) false))

/-- R21, R59: local addresses; R206: addresses beyond the virtual range. -/
def Obligations.LocalAddressesAreChecked : Prop :=
  ∀ (s : State) (k : Nat) (va : Word) (need : Need),
    (va.toNat < 0x100000 →
      let window := s.window (coreOf k) (s.placeOfThread k)
      let base := if (s.thread k).mode then 0 else window.1
      let size := if (s.thread k).mode then 0x80000 else window.2
      s.resolve k va need = (s, if va.toNat < size
        then .ok { addr := localBase (coreOf k) + base + va.toNat, isLocal := true, uncached := false } else .error 0x06)) ∧
    (2 ^ 57 ≤ va.toNat → s.resolve k va need = (s, .error 0x04))

/-- R59, R60: loads, and the return of an outstanding one. -/
def Obligations.LoadsGiveTheBytesOrTrap : Prop :=
  (∀ (s : State) (sz : MemSize) (sx : Bool) (d a : Reg) (off : BitVec 13),
    let va := BitVec.ofInt 64 ((s.gpr a).toInt + off.toInt)
    let n := match sz with | .byte => 1 | .half => 2 | .word => 4 | .dword => 8
    let i : Instr := .ld sz sx d a off
    let r := (s.resolve s.me va .load).1
    (va.toNat % n ≠ 0 → Traps i s s 0x03 va) ∧
    (va.toNat % n = 0 → ∀ code, (s.resolve s.me va .load).2 = .error code → Traps i s r code va) ∧
    (va.toNat % n = 0 → ∀ g, (s.resolve s.me va .load).2 = .ok g →
      (r.loadPoisoned g n = true → ∃ t f, exec i s = .next t ∧ t = r.trapThread s.me false 0x11 va f false ∧ s.sameRegs t) ∧
      (r.loadPoisoned g n = false → g.isLocal = true → ∃ v, WritesLate i s d v 2 ∧
        (∀ j < n, v.extractLsb' (8 * j) 8 = s.seenByte s.myCore (g.addr + j)) ∧
        (∀ j < 64, 8 * n ≤ j → v.getLsbD j = (sx && v.getLsbD (8 * n - 1)))) ∧
      (r.loadPoisoned g n = false → g.isLocal = false → ∃ t v, exec i s = .next t ∧ t.pc = s.pc + 4 ∧
        v.toNat % 256 ^ n = (r.readTarget s.myCore (s.lineTenant s.me) g n).2 % 256 ^ n ∧
        (∀ j < 64, 8 * n ≤ j → v.getLsbD j = (sx && v.getLsbD (8 * n - 1))) ∧
        (s.cur.loads.length < 4 → t.cur.loads = s.cur.loads ++ [{ gd := d, value := v, readyAt := s.cycle + 3 }] ∧ s.sameRegs t ∧ ThreadFrame s t 0) ∧
        (∀ l rest, s.cur.loads = l :: rest → 3 ≤ rest.length →
          t.cur.loads = rest ++ [{ gd := d, value := v, readyAt := s.cycle + 3 }] ∧ t.gpr l.gd = (if l.gd = 0 then 0 else l.value) ∧
          ThreadFrame s t l.gd)))) ∧
  (∀ (s : State) (l : LoadSt) (rest : List LoadSt), let k := s.focus.thread
    (s.thread k).loads = l :: rest → ∃ t, exec .loadReturn s = .next t ∧
      t.gprOf k l.gd = (if l.gd = 0 then 0 else l.value) ∧ (t.thread k).loads = rest ∧ s.sameRegsBut t k l.gd ∧
      { t.thread k with gpr := (s.thread k).gpr, loads := (s.thread k).loads } = s.thread k ∧ (∀ j, j ≠ k → t.thread j = s.thread j) ∧
      { t with threads := s.threads } = s ∧ s.sameBytes t)

/-- R59, R243: stores. -/
def Obligations.StoresEnterTheStoreBuffer : Prop :=
  ∀ (s : State) (sz : MemSize) (d a : Reg) (off : BitVec 13),
    let va := BitVec.ofInt 64 ((s.gpr a).toInt + off.toInt)
    let n := match sz with | .byte => 1 | .half => 2 | .word => 4 | .dword => 8
    let i : Instr := .st sz d a off
    let c := s.myCore
    (va.toNat % n ≠ 0 → Traps i s s 0x03 va) ∧
    (va.toNat % n = 0 → ∀ code, (s.resolve s.me va .store).2 = .error code → Traps i s (s.resolve s.me va .store).1 code va) ∧
    (va.toNat % n = 0 → ∀ g, (s.resolve s.me va .store).2 = .ok g → ∃ t, exec i s = .next t ∧ t.pc = s.pc + 4 ∧ s.sameRegs t ∧ StoreFrame s t 0 ∧
      t.cur.loads = s.cur.loads ∧
      let entry : StoreSt := { thread := s.me, addr := g.addr, size := n, value := (s.gpr d).toNat % 256 ^ n, tenant := s.lineTenant s.me,
                               uncached := g.uncached, since := s.cycle }
      (t.core c).stores.getLast? = some entry ∧
      (g.isLocal = true → (s.core c).stores.length < 8 → (t.core c).stores = (s.core c).stores ++ [entry] ∧
        { t.core c with stores := (s.core c).stores } = s.core c ∧ (∀ x, x ≠ c → t.core x = s.core x) ∧ ThreadFrame s t 0 ∧
        { t with threads := s.threads, cores := s.cores } = s ∧ s.sameBytes t) ∧
      (g.isLocal = true → ∀ e rest, (s.core c).stores = e :: rest → 7 ≤ rest.length → (t.core c).stores = rest ++ [entry] ∧
        t.mem = ((s.modCore c fun x => { x with stores := rest }).performStore c e).mem))

/-- R243, R205, R59: performing a buffered store, and a thread's load that sees its own. -/
def Obligations.BufferedStoresAreSeenAndPerformed : Prop :=
  (∀ (s : State) (e : StoreSt), let c := s.focus.core; let l := (s.core c).stores
    l[s.focus.index]? = some e →
    (∀ x ∈ l.take s.focus.index, (x.addr + x.size ≤ e.addr ∨ e.addr + e.size ≤ x.addr) ∧ ¬ (x.uncached = true ∧ e.uncached = true)) →
    ∃ t, exec .storeBufferDrain s = .next t ∧ (t.core c).stores = l.eraseIdx s.focus.index ∧ (∀ k, WokenAs (s.thread k) (t.thread k)) ∧
      (2 ^ 52 ≤ e.addr → e.uncached = false → t.threads = s.threads) ∧
      (2 ^ 52 ≤ e.addr ∨ e.uncached = true → Memory.read t.mem e.addr e.size = e.value % 256 ^ e.size ∧ s.sameBytesBut t e.addr e.size ∧
        (∀ x, s.sameCoreBut t x) ∧ { t with mem := s.mem, cores := s.cores, badWords := s.badWords, threads := s.threads } = s) ∧
      (e.addr < 2 ^ 52 → e.uncached = false → e.addr % 128 + e.size ≤ 128 →
        (t.coherentRead c e.tenant e.addr e.size).2 = e.value % 256 ^ e.size)) ∧
  (∀ (s : State) (r a d : Reg) (off : BitVec 13) (g : Target),
    let va := BitVec.ofInt 64 ((s.gpr a).toInt + off.toInt)
    va.toNat % 8 = 0 → va.toNat < 0x100000 → (s.resolve s.me va .store).2 = .ok g → s.loadPoisoned g 8 = false →
    (s.core s.myCore).stores.length < 8 →
    ∃ t, exec (.st .dword r a off) s = .next t ∧ WritesLate (.ld .dword false d a off) t d (s.gpr r) 2)

/-- R222, R223, R224: the headland atomics. What FADD returns for a quiet NaN in memory is log entry 97. -/
def Obligations.AtomicsReadAndWriteAsOneAction : Prop :=
  ∀ (s : State) (sc : Scope) (d a b : Reg), let va := s.gpr a; let r := (s.resolve s.me va .atomic).1
    let acts := fun (i : Instr) (n : Nat) (new ret : Nat → Nat) =>
      (va.toNat % n ≠ 0 → Traps i s s 0x03 va) ∧
      (va.toNat % n = 0 → ∀ code, (s.resolve s.me va .atomic).2 = .error code → Traps i s r code va) ∧
      (va.toNat % n = 0 → ∀ g, (s.resolve s.me va .atomic).2 = .ok g →
        (r.loadPoisoned g n = true → ∃ t f, exec i s = .next t ∧ t = r.trapThread s.me false 0x11 va f false ∧ s.sameRegs t) ∧
        (r.loadPoisoned g n = false → ∃ t, exec i s = .next t ∧ t.pc = s.pc + 4 ∧ StoreFrame s t d ∧
          (g.isLocal = true → (s.core s.myCore).stores = [] → let m := Memory.read s.mem g.addr n
            ThreadFrame s t d ∧ t.gpr d = (if d = 0 then 0 else BitVec.ofNat 64 (ret m)) ∧ Memory.read t.mem g.addr n = new m % 256 ^ n ∧ s.sameBytesBut t g.addr n ∧
            (∀ c, s.sameCoreBut t c) ∧
            { t with threads := s.threads, cores := s.cores, mem := s.mem, badWords := s.badWords } = s) ∧
          (g.isLocal = false → let c := s.myCore; let u := r.drainCore c; let hub := sc = .device ∨ sc = .system ∨ g.uncached = true
            let gives := fun (m : Nat) => t.gpr d = if d = 0 then 0 else BitVec.ofNat 64 (ret m);
            (hub → let v := u.flushLine c (g.addr / 128); let m := Memory.read v.mem g.addr n
              gives m ∧ Memory.read t.mem g.addr n = new m % 256 ^ n ∧ v.sameBytesBut t g.addr n) ∧
            (¬ hub → let tn := s.lineTenant s.me; let m := (u.coherentRead c tn g.addr n).2
              gives m ∧ (t.coherentRead c tn g.addr n).2 = new m % 256 ^ n))))
    (∀ sz : AmoSize, let n := match sz with | .word => 4 | .dword => 8; let w := 8 * n
      let v := (s.gpr b).toNat % 2 ^ w; let e := (s.gpr d).toNat % 2 ^ w; let int := fun (x : Nat) => (BitVec.ofNat w x).toInt
      acts (.amoAdd sc sz d a b) n (fun m => (m + v) % 2 ^ w) id ∧ acts (.amoAnd sc sz d a b) n (fun m => m &&& v) id ∧
      acts (.amoOr sc sz d a b) n (fun m => m ||| v) id ∧ acts (.amoXor sc sz d a b) n (fun m => m ^^^ v) id ∧
      acts (.amoMin sc sz d a b) n (fun m => if int m ≤ int v then m else v) id ∧
      acts (.amoMax sc sz d a b) n (fun m => if int m ≤ int v then v else m) id ∧
      acts (.amoMinu sc sz d a b) n (fun m => min m v) id ∧ acts (.amoMaxu sc sz d a b) n (fun m => max m v) id ∧
      acts (.amoSwap sc sz d a b) n (fun _ => v) id ∧ acts (.amoIncw sc sz d a b) n (fun m => if v ≤ m then 0 else m + 1) id ∧
      acts (.amoBfadd sc sz d a b) n (fun m => if v < m then m else min (m + e) v) id ∧
      acts (.cas sc sz d a b) n (fun m => if m = e then v else m) id) ∧
    (let v := (s.gpr b).toNat % 2 ^ 32; let x := fmtF32.decode v; let nan := 0x7FC00000
      let snan := fun (m : Nat) => nvOf (fmtF32.decode m) ≠ 0 ∨ nvOf x ≠ 0
      let pick := fun (above : Bool) (m : Nat) => let y := fmtF32.decode m
        if snan m then nan else if y.isNan then (if x.isNan then nan else v) else if x.isNan then m
        else if (if above then belowV y x else belowV x y) then v else m
      let ret := fun (m : Nat) => if snan m then nan else m
      acts (.amoFmin sc d a b) 4 (pick false) ret ∧ acts (.amoFmax sc d a b) 4 (pick true) ret ∧
      acts (.amoFadd sc d a b) 4 (fun m => if (fmtF32.decode m).isNan || x.isNan then nan else (fAddV fmtF32 .rne false (fmtF32.decode m) x).bits) ret)

/-- R20, R66, R22, R23, R323, R324: the index checks of the CSR words, and what CSRR reads. -/
def Obligations.CsrWordsAreCheckedAndRead : Prop :=
  (∀ (s : State) (d a : Reg) (k : CsrOp) (n : BitVec 12), let m := n.toNat
    let listed := m ≤ 0x005 ∨ (0x010 ≤ m ∧ m ≤ 0x014) ∨ (0x020 ≤ m ∧ m ≤ 0x027) ∨ m = 0x030 ∨ m = 0x031 ∨ m = 0x040 ∨ (0x050 ≤ m ∧ m ≤ 0x060) ∨
      (0x070 ≤ m ∧ m ≤ 0x07F)
    let supervisors := (0x100 ≤ m ∧ m ≤ 0x105) ∨ (0x108 ≤ m ∧ m ≤ 0x114) ∨ m = 0x118 ∨ m = 0x119 ∨ (0x120 ≤ m ∧ m ≤ 0x129) ∨
      (0x140 ≤ m ∧ m ≤ 0x17F)
    ∀ i : Instr, (i = .csrr d n ∨ (∃ w, encode i = some w ∧ i = decodeCsrWrite k d a n)) → let word := ((encode i).getD 0).setWidth 64
      (s.cur.mode = false → 0x100 ≤ m → m ≤ 0x1FF → Traps i s s 0x02 word) ∧
      ((m < 0x100 ∧ ¬ listed) ∨ 0x200 ≤ m → Traps i s s 0x01 word) ∧
      (s.cur.mode = true → 0x100 ≤ m → m ≤ 0x1FF → ¬ supervisors → Traps i s s 0x01 word)) ∧
  (∀ (s : State) (d : Reg), let t := s.cur; let c := s.myCore; let p := s.myPart; let b := fun (x : Bool) => if x then 1 else 0
    let reads := fun (n : Nat) (v : Word) => csrFault s.cur.mode n = none → Writes (.csrr d (BitVec.ofNat 12 n)) s d v
    let frec := fun (f : FaultRec) => [f.f0, f.f1, f.f2, f.f3, f.f4, f.f5, f.f6, f.f7]
    let pl := if t.mode then t.tsel.toNat else s.placeOfThread s.me
    let perPlace := fun (v : Word) => if pl = 0 then 0 else v
    (∀ n : BitVec 12, csrFault s.cur.mode n.toNat = none → Writes (.csrr d n) s d (s.readCsr s.me n.toNat)) ∧
    reads 0x000 (BitVec.ofNat 64 (t.tenant * 2 ^ 24 + c / 8 * 2 ^ 8 + c % 8 * 2 ^ 2 + s.me % 4)) ∧
    reads 0x001 (BitVec.ofNat 64 (b (!t.pend.isEmpty) * 16 + b t.ae * 8 + b t.pmode * 4 + b t.exl * 2 + b t.mode)) ∧
    reads 0x002 (BitVec.ofNat 64 s.cycle) ∧ reads 0x003 (BitVec.ofNat 64 (s.stepCyc * 2 ^ 12 + s.cursor)) ∧
    reads 0x004 (BitVec.ofNat 64 (s.stepLen * 2 ^ 40 + s.passNo % 2 ^ 40)) ∧
    reads 0x010 (t.tvec ++ 0#2) ∧ reads 0x011 t.epc ∧ reads 0x012 t.ecause ∧ reads 0x013 t.eval ∧ reads 0x014 t.escratch ∧
    (∀ i < 8, reads (0x020 + i) ((frec t.frec).getD i 0) ∧ reads (0x108 + i) ((frec t.sfrec).getD i 0)) ∧
    reads 0x040 t.waittmo ∧ reads 0x100 ((s.core c).stvec ++ 0#2) ∧ reads 0x101 t.sepc ∧ reads 0x102 t.scause ∧ reads 0x103 t.seval ∧
    reads 0x104 t.sscratch ∧ reads 0x105 (BitVec.ofNat 64 (b t.spmode * 2 + b t.sexl)) ∧
    reads 0x110 (BitVec.ofNat 64 ((s.part p).dies.toNat * 2 ^ 8 + (s.part p).strips.toNat)) ∧
    reads 0x111 (BitVec.ofNat 64 ((s.part p).armst.toNat * 2 ^ 16 + ((s.part p).soleNext.getD (s.part p).sole).toNat * 2 ^ 4 +
      b (s.part p).gang * 4 + b (s.part p).on * 2 + b ((s.part p).arm || (s.part p).armedNext.isSome))) ∧
    reads 0x112 (s.part p).sptbase ∧ reads 0x113 (s.part p).sasid ∧ reads 0x114 (s.part p).sways ∧ reads 0x120 (t.tsel.setWidth 64) ∧
    (∀ i < 64, reads (0x140 + i) (Table.getD (s.part p).shadow i 0)) ∧
    reads 0x030 (perPlace (s.corePlace c pl).asid) ∧ reads 0x031 (perPlace (s.corePlace c pl).ptbase) ∧ reads 0x121 (perPlace (s.place p pl).tcfg) ∧
    reads 0x122 (perPlace ((s.corePlace c pl).tthr.setWidth 64)) ∧ reads 0x123 (perPlace (s.corePlace c pl).tlocal) ∧
    reads 0x124 (perPlace (s.place p pl).tedge) ∧ reads 0x125 (perPlace (s.place p pl).tways) ∧ reads 0x126 (perPlace (s.place p pl).tquota) ∧
    reads 0x127 (perPlace (s.place p pl).tassign))

/-- R66, R67, R323, R324: the plain CSR writes. -/
def Obligations.CsrWritesSetOnlyTheirFields : Prop :=
  ∀ (s : State) (d a : Reg) (k : CsrOp) (n : BitVec 12), let m := n.toNat; let p := s.myPart; let c := s.myCore; let sup := s.cur.mode
    isSpecialCsr n = false → csrFault sup m = none →
    let i : Instr := match k with | .write => .csrw d a n | .set => .csrs d a n | .clear => .csrc d a n
    let old := s.readCsr s.me m
    let v := match k with | .write => s.gpr a | .set => old ||| s.gpr a | .clear => old &&& ~~~s.gpr a
    let writes := k = .write ∨ a ≠ 0
    let pl := s.cur.tsel.toNat
    let written := m = 0x010 ∨ m = 0x011 ∨ m = 0x014 ∨ m = 0x040 ∨ (sup = true ∧ (m = 0x100 ∨ m = 0x101 ∨ m = 0x104 ∨ m = 0x112 ∨ m = 0x113 ∨
      m = 0x114 ∨ m = 0x120 ∨ (0x140 ≤ m ∧ m ≤ 0x17F) ∨ (pl ≠ 0 ∧ (m = 0x030 ∨ m = 0x031 ∨ m = 0x122 ∨ m = 0x126))))
    (writes → ¬ written → Writes i s d old) ∧ (¬ writes → Writes i s d old) ∧
    (writes → written → ∃ t, exec i s = .next t ∧ t.gpr d = (if d = 0 then 0 else old) ∧ t.pc = s.pc + 4 ∧ s.sameRegsBut t s.me d ∧ s.sameBytes t ∧
      (∀ j, j ≠ s.me → t.thread j = s.thread j) ∧
      -- a thread's own register
      (m = 0x010 → t.cur.tvec = v.extractLsb' 2 62 ∧ { t.cur with gpr := s.cur.gpr, pc := s.pc, tvec := s.cur.tvec } = s.cur) ∧
      (m = 0x011 → t.cur.epc = v ∧ { t.cur with gpr := s.cur.gpr, pc := s.pc, epc := s.cur.epc } = s.cur) ∧
      (m = 0x014 → t.cur.escratch = v ∧ { t.cur with gpr := s.cur.gpr, pc := s.pc, escratch := s.cur.escratch } = s.cur) ∧
      (m = 0x040 → t.cur.waittmo = v ∧ { t.cur with gpr := s.cur.gpr, pc := s.pc, waittmo := s.cur.waittmo } = s.cur) ∧
      (m = 0x101 → t.cur.sepc = v ∧ { t.cur with gpr := s.cur.gpr, pc := s.pc, sepc := s.cur.sepc } = s.cur) ∧
      (m = 0x104 → t.cur.sscratch = v ∧ { t.cur with gpr := s.cur.gpr, pc := s.pc, sscratch := s.cur.sscratch } = s.cur) ∧
      (m = 0x120 → t.cur.tsel = v.extractLsb' 0 4 ∧ { t.cur with gpr := s.cur.gpr, pc := s.pc, tsel := s.cur.tsel } = s.cur) ∧
      (m = 0x010 ∨ m = 0x011 ∨ m = 0x014 ∨ m = 0x040 ∨ m = 0x101 ∨ m = 0x104 ∨ m = 0x120 → { t with threads := s.threads } = s) ∧
      -- a register of the core, the partition or a place
      (0x100 ≤ m ∧ m ≠ 0x101 ∧ m ≠ 0x104 ∧ m ≠ 0x120 ∨ m = 0x030 ∨ m = 0x031 → { t.cur with gpr := s.cur.gpr, pc := s.pc } = s.cur) ∧
      (m = 0x100 → (t.core c).stvec = v.extractLsb' 2 62 ∧ { t.core c with stvec := (s.core c).stvec } = s.core c ∧
        (∀ x, x ≠ c → t.core x = s.core x) ∧ { t with threads := s.threads, cores := s.cores } = s) ∧
      (m = 0x112 → t.part p = { s.part p with sptbase := v &&& 0x000F_FFFF_FFE0_0000 }) ∧
      (m = 0x113 → t.part p = { s.part p with sasid := v &&& 0x1FFF }) ∧ (m = 0x114 → t.part p = { s.part p with sways := v &&& 0xFFFF }) ∧
      (0x140 ≤ m ∧ m ≤ 0x17F → Table.getD (t.part p).shadow (m - 0x140) 0 = v &&& 0x8000_FFFF_00FF_FFFF ∧
        (∀ j, j ≠ m - 0x140 → Table.getD (t.part p).shadow j 0 = Table.getD (s.part p).shadow j 0) ∧
        { t.part p with shadow := (s.part p).shadow } = s.part p) ∧
      (m = 0x112 ∨ m = 0x113 ∨ m = 0x114 ∨ (0x140 ≤ m ∧ m ≤ 0x17F) → (∀ q, q ≠ p → t.part q = s.part q) ∧
        { t with threads := s.threads, parts := s.parts } = s) ∧
      (m = 0x126 → t.place p pl = { s.place p pl with tquota := v &&& 0x1FFF_003F_1FFF }) ∧
      (m = 0x126 → (∀ q j, q < 32 → j < 16 → ¬(q = p ∧ j = pl) → t.place q j = s.place q j) ∧
        { t with threads := s.threads, places := s.places } = s) ∧
      (m = 0x030 → t.corePlace c pl = { s.corePlace c pl with asid := v &&& 0x1FFF }) ∧
      (m = 0x031 → t.corePlace c pl = { s.corePlace c pl with ptbase := v &&& 0x000F_FFFF_FFE0_0000 }) ∧
      (m = 0x122 → t.corePlace c pl = { s.corePlace c pl with tthr := v.extractLsb' 0 4 &&& 0b1110 }) ∧
      (m = 0x030 ∨ m = 0x031 ∨ m = 0x122 → (∀ x j, j < 16 → ¬(x = c ∧ j = pl) → t.corePlace x j = s.corePlace x j) ∧
        { t with threads := s.threads, corePlaces := s.corePlaces } = s))

/-- R67, R357, R209: writes of TSTAT, TRUN and TLBI. -/
def Obligations.ThreadControlWrites : Prop :=
  ∀ (s : State) (k : CsrOp) (d a : Reg), k = .write ∨ a ≠ 0 → s.cur.run = .ready →
    let new := fun (old : Word) => match k with | .write => s.gpr a | .set => old ||| s.gpr a | .clear => old &&& ~~~s.gpr a
    let c := s.myCore; let p := s.myPart
    (∃ t, exec (.tstatWrite k d a) s = .next t ∧ t.gpr d = (if d = 0 then 0 else s.tstat s.me) ∧ t.pc = s.pc + 4 ∧ s.sameRegsBut t s.me d ∧
      t.cur.ae = (new (s.tstat s.me)).getLsbD 3 ∧ { t.cur with gpr := s.cur.gpr, pc := s.pc, ae := s.cur.ae } = s.cur ∧
      (∀ j, j ≠ s.me → t.thread j = s.thread j) ∧ { t with threads := s.threads } = s ∧ s.sameBytes t) ∧
    (s.cur.mode = true → ∃ t, exec (.trunWrite k d a) s = .next t ∧ t.gpr d = 0 ∧ t.pc = s.pc + 4 ∧ s.sameRegsBut t s.me d ∧
      let v := new 0; let j := c * 4 + (v.extractLsb' 0 2).toNat; let x := s.thread j
      { t.cur with gpr := s.cur.gpr, pc := s.pc } = s.cur ∧ (∀ q, q ≠ s.me → q ≠ j → t.thread q = s.thread q) ∧
      (j ≠ s.me → x.run ≠ .stopped ∨ x.brkStop = true → t.thread j = x ∧ s.sameBytes t) ∧
      (x.run = .stopped → x.brkStop = false → (t.thread j).pc = (if v.extractLsb' 2 62 = 0 then x.resume else v.extractLsb' 2 62 ++ 0#2) ∧
        (t.thread j).run = (if x.mode || s.running p == x.tenant && !(s.part p).inGuard then .ready else .resting) ∧
        { t.thread j with pc := x.pc, run := x.run, savedRun := x.savedRun, wait := x.wait } = x ∧ ((t.thread j).run = .ready → s.sameBytes t))) ∧
    (s.cur.mode = true → (s.part p).tlbi = none → ∃ t, exec (.tlbiWrite k d a) s = .next t ∧ t.gpr d = 0 ∧ t.pc = s.pc + 4 ∧
      s.sameRegsBut t s.me d ∧ s.sameBytes t ∧ ThreadFrame s t d ∧
      let v := new 0; let x : TlbiSt := { op := (v.extractLsb' 62 2).toNat, asid := (v.extractLsb' 49 13).toNat, vpn := (v.extractLsb' 0 45).toNat }
      (x.op = 3 → { t with threads := s.threads } = s) ∧
      (x.op ≠ 3 → (t.part p).tlbi = some x ∧
        (∀ q < numCores, (s.part p).dies.getLsbD (q / 8) = true → ∀ e ∈ (t.core q).tlb, s.tlbiCovers p x e = false) ∧
        (∀ q < 4, (s.part p).dies.getLsbD q = true → ∀ e ∈ Table.getD t.llTlb q [], s.tlbiCovers p x e = true → e.pins ≠ 0 ∧ e.stale = true))) ∧
    (s.cur.mode = true → (s.part p).tlbi.isSome = true → ∃ t, exec (.tlbiWrite k d a) s = .next t ∧ t.cur.run = .waiting ∧ t.pc = s.pc ∧
      s.sameRegs t ∧ (∀ j, j ≠ s.me → t.thread j = s.thread j) ∧ { t with threads := s.threads } = s ∧ s.sameBytes t)

/-- R66, R20, R209, R357, R324, R325, R328, R334, R335, R228: the CSR writes with effects of their own complete, and the checked ones take effect. -/
def Obligations.PlaceAndRotationWrites : Prop :=
  (∀ (s : State) (d a : Reg), s.cur.run = .ready →
    let completes := fun (i : Instr) (n : Nat) => ∃ t, exec i s = .next t ∧ t.gpr d = (if d = 0 then 0 else s.readCsr s.me n) ∧ t.pc = s.pc + 4 ∧
      ∀ r, r ≠ d → t.gpr r = s.gpr r
    (∀ k, completes (.tstatWrite k d a) 0x001) ∧
    (∀ k (n : BitVec 4), completes (.barcfgWrite k n d a) (0x050 + n.toNat)) ∧
    (∀ k (n : BitVec 4), completes (.occWrite k n d a) (0x070 + n.toNat)) ∧
    (s.cur.mode = true →
      completes (.rotctlArm d a) 0x111 ∧ completes (.armWithdraw d a) 0x111 ∧ completes (.soleWrite d a) 0x111 ∧
      (∀ k r, completes (.placeRegisterWrite k r d a) r.index.toNat) ∧ (∀ k, completes (.twaysWrite k d a) 0x125) ∧
      (∀ k, completes (.trunWrite k d a) 0x129) ∧
      ((s.part s.myPart).tlbi = none → ∀ k, completes (.tlbiWrite k d a) 0x118))) ∧
  ∀ (s : State) (d a : Reg), a ≠ 0 → s.cur.mode = true → s.cur.run = .ready →
    let c := s.myCore; let p := s.myPart; let pl := s.cur.tsel.toNat; let x := s.part p
    let ends := fun (i : Instr) (old : Word) (t : State) => exec i s = .next t ∧ t.gpr d = (if d = 0 then 0 else old) ∧ t.pc = s.pc + 4 ∧
      s.sameBytes t ∧ (∀ r, r ≠ d → t.gpr r = s.gpr r) ∧
      (∀ j, j ≠ s.me → (s.thread j).wait.code ≠ .barw → t.thread j = s.thread j)
    let new := fun (k : CsrOp) (old : Word) => match k with | .write => s.gpr a | .set => old ||| s.gpr a | .clear => old &&& ~~~s.gpr a
    let rot := fun (i : Instr) (k : CsrOp) => let old := s.rotctl p; let v := new k old
      let sole := if (s.placeOf p (v.extractLsb' 4 8).toNat).isSome then v.extractLsb' 4 8 else x.soleNext.getD x.sole
      let st := s.armCheck p fun g => s.smallScratch p g
      let arms := v.getLsbD 0 = true ∧ st = 0
      ∃ t, ends i old t ∧ (t.part p).gang = v.getLsbD 2 ∧ (t.part p).armst = (if v.getLsbD 0 = true then BitVec.ofNat 3 st else x.armst) ∧
        (1024 < s.wrapIn → (t.part p).sole = sole ∧ (t.part p).soleNext = none ∧ (t.part p).armedNext = none ∧
          ((t.part p).arm = true ↔ arms) ∧ (arms → (t.part p).armed = x.shadow)) ∧
        (s.wrapIn ≤ 1024 → x.inGuard = true ∨ x.arm = true → x.armSkip ≠ some s.passNo → s.wrapHeldUp p = false → (t.part p).arm = x.arm ∧ (t.part p).armed = x.armed ∧
          (t.part p).sole = x.sole ∧ (t.part p).soleNext = (if sole = x.sole then none else some sole) ∧
          (arms → (t.part p).armedNext = some x.shadow) ∧ (¬ arms → (t.part p).armedNext = none)) ∧
        (s.wrapIn ≤ 1024 → x.inGuard = true ∨ x.arm = true → x.armSkip = some s.passNo ∨ s.wrapHeldUp p = true → ¬ arms → (t.part p).arm = false) ∧
        (t.part p).shadow = x.shadow ∧ (t.part p).active = x.active ∧ (t.part p).on = x.on ∧ (∀ q, q ≠ p → t.part q = s.part q)
    rot (.rotctlArm d a) .set ∧ rot (.armWithdraw d a) .clear ∧ rot (.soleWrite d a) .write ∧
    (∀ k, ∃ t, ends (.twaysWrite k d a) (s.readCsr s.me 0x125) t ∧
      (pl ≠ 0 → t.place p pl = { s.place p pl with tways := new k (s.place p pl).tways &&& 0xFFFF }) ∧ (pl = 0 → t.places = s.places)) ∧
    (∀ k r, ∃ t, ends (.placeRegisterWrite k r d a) (s.readCsr s.me r.index.toNat) t ∧ (pl = 0 → t.places = s.places ∧ t.corePlaces = s.corePlaces) ∧
      (pl ≠ 0 → match r with
        | .tlocal => let v := new k (s.corePlace c pl).tlocal; let b := (v.extractLsb' 12 7).toNat; let e := b + (v.extractLsb' 20 7).toNat + 1
          let meets := ∃ q, 1 ≤ q ∧ q ≤ 15 ∧ q ≠ pl ∧ (s.corePlace c q).held = true ∧ b < ((s.corePlace c q).tlocal.extractLsb' 12 7).toNat +
            ((s.corePlace c q).tlocal.extractLsb' 20 7).toNat + 1 ∧ ((s.corePlace c q).tlocal.extractLsb' 12 7).toNat < e
          t.places = s.places ∧ (127 < e ∨ meets → t.corePlace c pl = s.corePlace c pl) ∧
          (e ≤ 127 → ¬ meets → t.corePlace c pl = { s.corePlace c pl with tlocal := v &&& 0x7F7_F000,
                                                                          held := (s.corePlace c pl).held || (s.place p pl).tcfg.getLsbD 63 })
        | .tedge => let v := new k (s.place p pl).tedge; let b := (v.extractLsb' 0 10).toNat; let e := (v.extractLsb' 32 10).toNat
          let meets := ∃ q, 1 ≤ q ∧ q ≤ 15 ∧ q ≠ pl ∧ b < ((s.place p q).tedge.extractLsb' 32 10).toNat ∧
            ((s.place p q).tedge.extractLsb' 0 10).toNat < e
          (e ≤ b ∨ 992 < e ∨ meets → t.place p pl = s.place p pl) ∧
          (b < e → e ≤ 992 → ¬ meets → t.place p pl = { s.place p pl with tedge := v &&& 0x3FF_0000_03FF })
        | .tassign => let v := new k (s.place p pl).tassign
          let taken := ∃ b < 40, v.getLsbD b = true ∧ ∃ q, 1 ≤ q ∧ q ≤ 15 ∧ q ≠ pl ∧ (s.place p q).tassign.getLsbD b = true
          (taken → t.place p pl = s.place p pl) ∧ (¬ taken → t.place p pl = { s.place p pl with tassign := v &&& 0xFF_FFFF_FFFF })
        | .tcfg => let v := new k (s.place p pl).tcfg; let n := (v.extractLsb' 0 8).toNat; let o := ((s.place p pl).tcfg.extractLsb' 0 8).toNat
          let other := ∃ q, 1 ≤ q ∧ q ≤ 15 ∧ q ≠ pl ∧ n ≠ 0 ∧ (s.place p q).tcfg.getLsbD 63 = true ∧ ((s.place p q).tcfg.extractLsb' 0 8).toNat = n
          let busy := (v.getLsbD 63 ≠ (s.place p pl).tcfg.getLsbD 63 ∨ n ≠ o) ∧ o ≠ 0 ∧ (s.inActive p o || s.hasThread p o || s.hasRider p o) = true
          ((n = 0 ∧ v.getLsbD 63 = true) ∨ other ∨ busy → t.place p pl = s.place p pl ∧ t.corePlaces = s.corePlaces) ∧
          (¬ (n = 0 ∧ v.getLsbD 63 = true) → ¬ other → ¬ busy → t.place p pl = { s.place p pl with tcfg := v &&& 0x8000_0000_0000_01FF } ∧
            (v.getLsbD 63 = false → ∀ q < numCores, x.hasCore q = true → (t.corePlace q pl).held = false)))) ∧
    (∀ k (n : BitVec 4), pl ≠ 0 → ∃ t, ends (.occWrite k n d a) (s.readOcc c pl n.toNat) t ∧ (8 ≤ n.toNat → let v := new k (s.readOcc c pl n.toNat)
      Table.getD (t.corePlace c pl).hits (n.toNat % 8) 0 = (v.extractLsb' 32 32).toNat ∧
      Table.getD (t.corePlace c pl).misses (n.toNat % 8) 0 = (v.extractLsb' 0 32).toNat)) ∧
    (∀ k (n : BitVec 4), let old := State.barcfg (s.barrier p n.toNat); let v := new k old
      ∃ t, ends (.barcfgWrite k n d a) old t ∧ let y := t.barrier p n.toNat
        y.strips = v.extractLsb' 32 32 ∧ y.threads = v.extractLsb' 28 4 ∧ y.count = (v.extractLsb' 20 8).toNat ∧ y.arrived = 0 ∧ y.dead = 0 ∧
        y.broken = decide (t.liveMembers p n.toNat < y.count) ∧
        y.phase = (s.barrier p n.toNat).phase)

/-- R26, R326, R356 through the instructions whose effect is a trap. ESC of a trap raised in supervisor mode is log entry 12, FREC1's unit fields 18. -/
def Obligations.TrapEntryAndEscalation : Prop :=
  ∀ s : State, let x := s.cur; let k := s.me; let stvec := (s.core s.myCore).stvec
    let takes := fun (i : Instr) (code : Nat) (value : Word) (word : Word32) (always : Bool) =>
      let r : FaultRec := { f0 := BitVec.ofNat 64 code, f1 := BitVec.ofNat 64 (3 * 2 ^ 22 + stripOfCore s.myCore * 2 ^ 19 + k % 4 * 2 ^ 17), f2 := 0,
                            f3 := word.setWidth 64, f4 := 0, f5 := value, f6 := BitVec.ofNat 64 (s.passNo % 2 ^ 40 * 2 ^ 12 + s.cursor),
                            f7 := BitVec.ofNat 64 (s.asidOf k * 2 ^ 32 + x.tenant) }
      let up := if x.mode then r else { r with f0 := BitVec.ofNat 64 (code + 2 ^ 24) }
      let entry := x.mode = false ∧ always = false ∧ x.tvec ≠ 0 ∧ x.exl = false
      let written := { x with sepc := x.pc, scause := BitVec.ofNat 64 code, seval := value, sfrec := up, notBefore := s.cycle + 3 }
      (entry → ∃ t, exec i s = .next t ∧ t.cur = { x with epc := x.pc, ecause := BitVec.ofNat 64 code, eval := value, frec := r, pmode := false,
                                                          exl := true, pc := x.tvec ++ 0#2, run := .ready, wait := {}, notBefore := s.cycle + 3 } ∧
        s.otherThreads t k ∧ { t with threads := s.threads } = s ∧ s.sameBytes t) ∧
      (¬ entry → x.sexl = false → x.mode = true ∨ stvec ≠ 0 → ∃ t, exec i s = .next t ∧
        t.cur = { written with spmode := x.mode, sexl := true, mode := true, pc := stvec ++ 0#2, run := .ready, wait := {} } ∧
        s.otherThreads t k ∧ { t with threads := s.threads } = s ∧ s.sameBytes t) ∧
      (¬ entry → x.sexl = false → x.mode = false → stvec = 0 → ∃ t, exec i s = .next t ∧
        t.cur = { written with run := .stopped, wait := {}, resume := x.pc } ∧ Notified s t k 2 code x.pc (BitVec.ofNat 64 code) ∧
        s.otherThreads t k ∧ { t with threads := s.threads, mem := s.mem, notices := s.notices } = s) ∧
      (¬ entry → x.sexl = true → ∃ t, exec i s = .next t ∧
        t.cur = { x with run := .stopped, wait := {}, resume := x.pc } ∧ Notified s t k 2 code x.pc (BitVec.ofNat 64 code) ∧
        s.otherThreads t k ∧ { t with threads := s.threads, mem := s.mem, notices := s.notices } = s)
    (∀ imm : BitVec 16, takes (.trap imm) 0x15 (imm.setWidth 64) (0b111111#6 ++ 0#10 ++ imm) false) ∧
    (∀ imm : BitVec 16, takes (.svc imm) 0x16 (imm.setWidth 64) (0b111111#6 ++ 1#10 ++ imm) true) ∧
    (breakClaimed s = false → takes .brk 0x17 0 (0b111111#6 ++ 4#10 ++ 0#16) false) ∧
    takes .unassignedHeadlandWord 0x01 (s.focus.word.setWidth 64) s.focus.word false ∧
    (breakClaimed s = true → ∃ t, exec .brk s = .next t ∧ t.cur = { x with run := .stopped, wait := {}, resume := x.pc, brkStop := true,
                                                                           frec := s.headlandRec k 0x17 0 (0b111111#6 ++ 4#10 ++ 0#16) 0 } ∧
      s.otherThreads t k ∧ { t with threads := s.threads } = s ∧ s.sameBytes t)

/-- R27, R75, R326, R416: ERET; R73: HALT; R76, R333: DONATE. A second DONATE that is a NOP is log entry 111. -/
def Obligations.ReturnHaltAndDonate : Prop :=
  ∀ s : State, let x := s.cur; let k := s.me; let c := s.myCore; let p := s.myPart
    (x.mode = false → x.exl = true → ∃ t, exec .eret s = .next t ∧ t.cur = { x with pc := x.epc &&& ~~~3, mode := x.pmode, exl := false, notBefore := s.cycle + 3 } ∧
      s.otherThreads t k ∧ { t with threads := s.threads } = s ∧ s.sameBytes t) ∧
    (x.mode = true → x.sexl = true → x.spmode = true ∨ (s.running p = x.tenant ∧ (s.part p).inGuard = false) → ∃ t, exec .eret s = .next t ∧
      t.cur = { x with pc := x.sepc &&& ~~~3, mode := x.spmode, sexl := false, notBefore := s.cycle + 3 } ∧
      s.otherThreads t k ∧ { t with threads := s.threads } = s ∧ s.sameBytes t) ∧
    (x.mode = true → x.sexl = true → x.spmode = false → s.running p ≠ x.tenant ∨ (s.part p).inGuard = true → x.run = .ready →
      ∃ t, exec .eret s = .next t ∧ t.cur.run = .resting ∧ t.cur.savedRun = .ready ∧ t.cur.mode = false ∧ t.cur.sexl = false ∧
        t.pc = x.sepc &&& ~~~3 ∧ (∀ j, j ≠ k → WokenAs (s.thread j) (t.thread j)) ∧ (t.core c).stores = [] ∧
        ((s.core c).stores = [] → x.loads = [] → (∀ v, (s.core c).divider = some v → v.thread ≠ k) → s.sameRegs t ∧ s.otherThreads t k ∧
          match s.recordAt k with
          | some a => s.sameBytesBut t a 1024 ∧ Memory.read t.mem a 8 = 1 ∧ Memory.read t.mem (a + 8) 8 = (x.sepc &&& ~~~3).toNat
          | none => s.sameBytes t)) ∧
    ((x.mode = false ∧ x.exl = false) ∨ (x.mode = true ∧ x.sexl = false) → Traps .eret s s 0x01 0xFC020000) ∧
    (∃ t, exec .halt s = .next t ∧ t.cur = { x with run := .stopped, wait := {}, resume := s.pc + 4, pc := s.pc + 4 } ∧
      (∀ j, j ≠ k → WokenAs (s.thread j) (t.thread j)) ∧ (t.core c).stores = [] ∧ (x.mode = true → t.notices = s.notices) ∧
      ((s.core c).stores = [] → s.otherThreads t k ∧ (x.mode = true → s.sameBytes t) ∧ (x.mode = false → Notified s t k 1 0 (s.pc + 4) 0))) ∧
    (∃ t n, exec .donate s = .next t ∧ t.cur = { x with pc := s.pc + 4 } ∧ s.otherThreads t k ∧ s.sameBytes t ∧
      { t with threads := s.threads, parts := s.parts } = s ∧ (∀ q, q ≠ p → t.part q = s.part q) ∧
      s.stepCyc + 1024 ≤ n * s.stepLen ∧ (∀ m, s.stepCyc + 1024 ≤ m * s.stepLen → n ≤ m) ∧
      let acts := fun (i : Nat) (w : Word) => s.entryAt p s.cursor = some (i, w) ∧ x.mode = false ∧ x.tenant ≠ 0 ∧ s.running p = x.tenant ∧
        s.donated p i = false ∧ (w.extractLsb' 32 8).toNat = x.tenant ∧ w.extractLsb' 40 8 ≠ 0 ∧ (s.part p).donation = none ∧
        n * s.stepLen + 1024 < ((w.extractLsb' 12 12).toNat + 1 - s.cursor) * s.stepLen
      (∀ i w, acts i w → let e := s.passNo * 4096 + s.cursor + n
        t.part p = { s.part p with donation := some { entry := i, pass := e / 4096, cursor := e % 4096, inForce := false } }) ∧
      ((∀ i w, ¬ acts i w) → t.part p = s.part p))

/-- R62: a fetch that fails; R25, R342: taking a pending trap. ESC of a trap raised in supervisor mode is log entry 12, FREC1's unit fields 18. -/
def Obligations.FetchFaultsAndPendingTraps : Prop :=
  (∀ (s : State) (code : Nat), (fetchTarget s s.me).2 = .error code → ∃ t, exec .fetchFault s = .next t ∧ s.sameRegs t ∧
    let r := (fetchTarget s s.me).1
    t = r.trapThread s.me false (code % 256) s.pc (r.trapRec s.me code 0 s.pc) false ∧
    (s.cur.mode = false → s.cur.tvec ≠ 0 → s.cur.exl = false → code % 256 ≠ 0x16 → t.cur.epc = s.pc ∧ t.cur.eval = s.pc ∧ t.pc = s.cur.tvec ++ 0#2)) ∧
  (∀ (s : State) (p : PendTrap) (rest : List PendTrap), let k := s.focus.thread; let x := s.thread k; let stvec := (s.core (coreOf k)).stvec
    x.pend = p :: rest → s.asyncDue k = true →
    let at_ := if x.run = .waiting ∧ x.wait.code = .pause then x.pc + 4 else x.pc
    let r := if x.lost then { p.frec with f0 := setFld p.frec.f0 19 1 1 } else p.frec
    let up := if x.mode then r else { r with f0 := setFld r.f0 24 1 1 }
    let cause := BitVec.ofNat 64 (2 ^ 63 + p.code)
    let y := { x with pend := rest, lost := false, run := .ready, wait := {}, notBefore := s.cycle + 3 }
    (x.mode = false → x.tvec ≠ 0 → p.code ≠ 0x16 → ∃ t, exec .asyncTrapEntry s = .next t ∧
      t.thread k = { y with epc := at_, ecause := cause, eval := if p.fabric then r.f0 else 0, frec := r, pmode := false, exl := true,
                            pc := x.tvec ++ 0#2 } ∧
      s.otherThreads t k ∧ { t with threads := s.threads } = s ∧ s.sameBytes t) ∧
    let z := { y with sepc := at_, scause := cause, seval := if p.fabric then up.f0 else 0, sfrec := up }
    (x.mode = true ∨ ((x.tvec = 0 ∨ p.code = 0x16) ∧ stvec ≠ 0) → ∃ t, exec .asyncTrapEntry s = .next t ∧
      t.thread k = { z with spmode := x.mode, sexl := true, mode := true, pc := stvec ++ 0#2 } ∧
      s.otherThreads t k ∧ { t with threads := s.threads } = s ∧ s.sameBytes t) ∧
    (x.mode = false → x.tvec = 0 ∨ p.code = 0x16 → stvec = 0 → ∃ t, exec .asyncTrapEntry s = .next t ∧
      t.thread k = { z with run := .stopped, resume := at_, pc := at_ } ∧ Notified s t k 2 p.code at_ cause ∧
      s.otherThreads t k ∧ { t with threads := s.threads, mem := s.mem, notices := s.notices } = s)) ∧
  ∀ (s : State), let x := s.thread s.focus.thread
    x.run = .ready → x.wait.code = .sow → exec .asyncTrapEntry s = .refused .notEnabled

/-- R68 to R71: the THREAD group. -/
def Obligations.SpawnExitYieldPause : Prop :=
  (∀ (s : State) (d a b : Reg), s.cur.run = .ready → let v := s.gpr b; let e := s.gpr a; let x := s.cur; let c := s.myCore; let p := s.myPart
    let tenant := (v.extractLsb' 16 8).toNat; let mode := v.getLsbD 8; let n := (v.extractLsb' 0 2).toNat; let j := c * 4 + n
    let given := fun (g : Nat) => ∃ pl, s.placeOf p g = some pl ∧ pl ≠ 0 ∧ n ≠ 0 ∧ (s.corePlace c pl).tthr.getLsbD n = true
    let bad := v.extractLsb' 24 40 ≠ 0 ∨ v.extractLsb' 9 7 ≠ 0 ∨ v.extractLsb' 2 6 ≠ 0 ∨ (mode = true ∧ tenant ≠ 0) ∨
      (x.mode = true ∧ mode = false ∧ tenant = 0)
    let denied := (x.mode = false ∧ (tenant ≠ 0 ∨ mode = true ∨ ¬ given x.tenant)) ∨ (x.mode = true ∧ mode = false ∧ ¬ given tenant)
    (bad → Writes (.spawn d a b) s d 1) ∧ (¬ bad → e.toNat % 4 ≠ 0 → Writes (.spawn d a b) s d 2) ∧
    (¬ bad → e.toNat % 4 = 0 → denied → Writes (.spawn d a b) s d 3) ∧
    (¬ bad → e.toNat % 4 = 0 → ¬ denied → (s.thread j).run ≠ .free → Writes (.spawn d a b) s d 4) ∧
    (¬ bad → e.toNat % 4 = 0 → ¬ denied → (s.thread j).run = .free → ∃ t, exec (.spawn d a b) s = .next t ∧ t.gpr d = 0 ∧ t.pc = s.pc + 4 ∧
      (∀ r, r ≠ d → t.gpr r = s.gpr r) ∧ { t.cur with gpr := x.gpr, pc := x.pc } = x ∧ (∀ q, q ≠ s.me → q ≠ j → t.thread q = s.thread q) ∧
      (let y := t.thread j; let g := if x.mode then tenant else x.tenant
        y.pc = e ∧ y.tenant = g ∧ y.mode = mode ∧ y.run = (if mode || s.running p == g && !(s.part p).inGuard then .ready else .resting) ∧
        y.ae = false ∧ y.pmode = false ∧ y.exl = false ∧ y.tvec = 0 ∧ y.epc = 0 ∧ y.ecause = 0 ∧ y.eval = 0 ∧ y.escratch = 0 ∧ y.frec = {} ∧
        y.waittmo = 0 ∧ y.hold = none ∧ y.broken = false ∧ y.notBefore = s.cycle + 2 ∧
        ((y.run = .ready ∨ ∀ v, (s.core c).divider = some v → v.thread ≠ j) → ∀ r : Reg, t.gprOf j r = if r = 2 then s.gpr 4 else if r = 3 ∨ r = 30 ∨ r = 31 then s.gpr r else 0) ∧
        (y.run = .ready → s.sameBytes t ∧ { t with threads := s.threads } = s)) ∧ { t with threads := s.threads, mem := s.mem, cores := s.cores } = s)) ∧
  (∀ s : State, let k := s.me; let c := s.myCore
    (¬(s.cur.mode = true ∧ k % 4 = 0) → ∃ t, exec .exit s = .next t ∧ t.cur = { seq := s.cur.seq } ∧
      ((s.core c).stores = [] → s.barriersOf k = [] → s.otherThreads t k ∧ s.sameBytes t)) ∧
    (s.cur.mode = true → k % 4 = 0 → ∃ t, exec .exit s = .next t ∧ t.cur = { s.cur with run := .stopped, wait := {}, resume := s.pc + 4, pc := s.pc + 4 } ∧
      (t.core c).stores = [] ∧ ∀ j, j ≠ k → WokenAs (s.thread j) (t.thread j))) ∧
  (∀ s : State, ∃ t, exec .yield s = .next t ∧ t.cur = { s.cur with pc := s.pc + 4, yieldUntil := s.cycle + 4 } ∧ s.otherThreads t s.me ∧
    { t with threads := s.threads } = s ∧ s.sameBytes t) ∧
  (∀ (s : State) (a : Reg), let n := (s.gpr a).toNat
    ∃ t, exec (.pause a) s = .next t ∧ s.sameRegs t ∧ s.otherThreads t s.me ∧ { t with threads := s.threads } = s ∧ s.sameBytes t ∧
      (n = 0 → t.cur = { s.cur with pc := s.pc + 4 }) ∧
      (n ≠ 0 → t.cur.run = .waiting ∧ t.cur.wait.code = .pause ∧ t.cur.wait.deadline = some (s.cycle + n) ∧
        { t.cur with run := s.cur.run, wait := s.cur.wait } = s.cur)) ∧
  (∀ (s : State) (n : Nat), let k := s.focus.thread; let x := s.thread k
    x.run = .waiting → x.wait.code = .pause → x.wait.deadline = some n → n ≤ s.cycle →
    ∃ t, exec .pauseExpiry s = .next t ∧ t.thread k = { x with run := .ready, wait := {}, pc := x.pc + 4 } ∧ s.otherThreads t k ∧
      { t with threads := s.threads } = s ∧ s.sameBytes t)

/-- R226: fences. -/
def Obligations.FencesWaitForEarlierOperations : Prop :=
  ∀ (s : State) (sc : Scope), let x := s.cur; let c := s.myCore
    let returned := fun (t : State) => t.cur.loads = [] ∧ ∀ r : Reg, t.gpr r = match x.loads.reverse.find? fun l => l.gd == r && r != 0 with
      | some l => l.value
      | none => s.gpr r
    let owes := x.boardGd ≠ none ∨ (∃ pl < 16, ∃ e ∈ (s.corePlace c pl).injq, e.thread = s.me) ∨ ∃ f ∈ s.flights, f.2.thread = some s.me
    (∃ t, exec (.fenceAcq sc) s = .next t ∧ returned t ∧ t.cur = { x with pc := s.pc + 4, loads := [], gpr := t.cur.gpr } ∧ s.otherThreads t s.me ∧
      { t with threads := s.threads } = s ∧ s.sameBytes t) ∧
    (∀ i : Instr, i = .fenceRel sc ∨ i = .fenceFull sc → ∃ t, exec i s = .next t ∧ returned t ∧ (∀ j, j ≠ s.me → WokenAs (s.thread j) (t.thread j)) ∧
      (t.core c).stores = [] ∧ ((s.core c).stores = [] → s.otherThreads t s.me ∧ s.sameBytes t) ∧
      (¬ owes → t.cur = { x with pc := s.pc + 4, loads := [], gpr := t.cur.gpr, wait := {} }) ∧
      (owes → t.pc = s.pc ∧ t.cur.run = .waiting ∧ t.cur.wait.code = .fence ∧
        { t.cur with run := x.run, wait := x.wait, gpr := x.gpr, loads := x.loads } = x))

/-- R227: waits and their timeouts. `reads` is one reading of the word by thread `k`, whose wait is `w`, from the state `u`. -/
def Obligations.WaitsSleepAndTimeOut : Prop :=
  (
    let reads := fun (u : State) (k : Nat) (w : WaitSt) (o : Out) => let r := (u.resolve k w.addr .load).1; let x := u.thread k
      (w.addr.toNat % 8 ≠ 0 → ∃ t, o = .next t ∧ t = u.trapAt k w.word 0x03 w.addr ∧ u.sameRegs t) ∧
      (w.addr.toNat % 8 = 0 → ∀ code, (u.resolve k w.addr .load).2 = .error code →
        ∃ t, o = .next t ∧ t = r.trapAt k w.word code w.addr ∧ u.sameRegs t) ∧
      (w.addr.toNat % 8 = 0 → ∀ g, (u.resolve k w.addr .load).2 = .ok g →
        (r.loadPoisoned g 8 = true → r.poisonAt g % 256 = 0x11 ∧ ∃ t, o = .next t ∧ t = r.trapAt k w.word (r.poisonAt g) w.addr ∧ u.sameRegs t) ∧
        (r.loadPoisoned g 8 = false → let m := BitVec.ofNat 64 (r.readTarget (coreOf k) (u.lineTenant k) g 8).2
          let done := if w.code = .waite then m = w.value else m ≠ w.value
          ∃ t, o = .next t ∧ u.otherThreads t k ∧ (g.isLocal = true → { t with threads := u.threads } = u ∧ u.sameBytes t) ∧
            (done → t.gprOf k w.gd = (if w.gd = 0 then 0 else m) ∧ u.sameRegsBut t k w.gd ∧
              { t.thread k with gpr := x.gpr } = { x with run := .ready, wait := {}, pc := x.pc + 4 }) ∧
            (¬ done → t.thread k = { x with run := .waiting, wait := { w with last := some m, readAt := u.cycle, pa := g.addr, uncached := g.uncached } })))
    (∀ (s : State) (d a b : Reg), let w : WaitSt := { addr := s.gpr a, value := s.gpr b, gd := d,
                                                      deadline := if s.cur.waittmo = 0 then none else some (s.cycle + s.cur.waittmo.toNat) }
      let u := fun (w : WaitSt) => s.modMe fun t => { t with wait := w }
      let w1 := { w with code := .wait, word := 0b100001#6 ++ d ++ a ++ b ++ 0x020#11 }
      let w2 := { w with code := .waite, word := 0b100001#6 ++ d ++ a ++ b ++ 0x021#11 }
      reads (u w1) s.me w1 (exec (.wait d a b) s) ∧ reads (u w2) s.me w2 (exec (.waite d a b) s)) ∧
    (∀ s : State, let k := s.focus.thread; let w := (s.thread k).wait
      (s.thread k).run = .waiting → w.code = .wait ∨ w.code = .waite → (s.wakeDue k (s.thread k) = true → reads s k w (exec .waitWake s)) ∧
        (w.uncached = true → w.readAt + 256 ≤ s.cycle → reads s k w (exec .ucPageReread s)))) ∧
  (∀ (s : State) (n : Nat), let k := s.focus.thread; let x := s.thread k; let w := x.wait
      x.run = .waiting → w.deadline = some n → n ≤ s.cycle →
      let ends := fun (m : Word) (t : State) => exec .waitTimeout s = .next t ∧ t.gprOf k w.gd = (if w.gd = 0 then 0 else m) ∧ s.sameRegsBut t k w.gd ∧
        s.otherThreads t k ∧ (t.thread k).run = .ready ∧ (t.thread k).wait = {} ∧ (t.thread k).pc = x.pc + 4 ∧
        (x.pend.length + x.late.length < 4 → ∃ f : FaultRec, f.f0 = 0x14 ∧ f.f3 = w.word.setWidth 64 ∧ f.f5 = m ∧
          (t.thread k).pend = x.pend ++ [{ code := 0x14, frec := f, fabric := false }]) ∧
        (4 ≤ x.pend.length + x.late.length → (t.thread k).pend = x.pend ∧ (t.thread k).lost = true)
      (w.code = .recv → ∃ t, ends 0 t ∧ { t with threads := s.threads } = s ∧ s.sameBytes t) ∧
      (w.code = .wait ∨ w.code = .waite → let r := (s.resolve k w.addr .load).1
        (∀ g, (s.resolve k w.addr .load).2 = .ok g → r.loadPoisoned g 8 = false → ∃ t, ends (BitVec.ofNat 64 (r.readTarget (coreOf k) (s.lineTenant k) g 8).2) t ∧
          (g.isLocal = true → { t with threads := s.threads } = s ∧ s.sameBytes t)) ∧
        (∀ code, (s.resolve k w.addr .load).2 = .error code → ∃ t, exec .waitTimeout s = .next t ∧ s.sameRegs t ∧
          t = r.trapAt k w.word code w.addr) ∧
        (∀ g, (s.resolve k w.addr .load).2 = .ok g → r.loadPoisoned g 8 = true → ∃ t, exec .waitTimeout s = .next t ∧ s.sameRegs t ∧
          t = r.trapAt k w.word (r.poisonAt g) w.addr)))

/-- R228, R229: barriers. -/
def Obligations.BarriersOpenWhenTheCountArrives : Prop :=
  ∀ (s : State) (d a : Reg), s.cur.run = .ready → let v := s.gpr a; let p := s.myPart; let b := (v.extractLsb' 0 4).toNat; let x := s.barrier p b
    let off := v.extractLsb' 4 60 ≠ 0 ∨ s.mayUse s.me b = false
    let free := ¬ off ∧ x.count ≠ 0 ∧ s.isMember p b s.me = true ∧ x.broken = false
    let status := fun (i : Instr) => (off → Writes i s d 1) ∧ (¬ off → x.count = 0 → Writes i s d (BitVec.ofNat 64 (1 + x.phase * 2 ^ 8))) ∧
      (¬ off → x.count ≠ 0 → s.isMember p b s.me = false → Writes i s d (BitVec.ofNat 64 (2 + x.phase * 2 ^ 8))) ∧
      (¬ off → x.count ≠ 0 → s.isMember p b s.me = true → x.broken = true → Writes i s d (BitVec.ofNat 64 (3 + x.phase * 2 ^ 8)))
    let waiter := fun (k : Nat) => k < numThreads ∧ (s.thread k).run = .waiting ∧ (s.thread k).wait.code = .barw ∧
      (s.thread k).wait.id = b ∧ (s.thread k).grant = none ∧ s.partOf (coreOf k) = p
    let y := { x with arrived := x.arrived + 1, members := s.me :: x.members }
    let opened := { x with phase := (x.phase + 1) % 16, arrived := 0, members := [] }
    let others := fun (t : State) (released : Bool) => s.sameBytes t ∧ (∀ q, q ≠ b → t.barrier p q = s.barrier p q) ∧
      (∀ k, k ≠ s.me → waiter k → released = true → (t.thread k).run = .ready ∧ (t.thread k).pc = (s.thread k).pc + 4 ∧
        t.gprOf k (s.thread k).wait.gd = (if (s.thread k).wait.gd = 0 then 0 else BitVec.ofNat 64 (opened.phase * 2 ^ 8))) ∧
      (∀ k, k ≠ s.me → (s.thread k).wait.code ≠ .barw ∨ released = false → t.thread k = s.thread k)
    status (.bar d a) ∧ status (.barw d a) ∧
    (free → s.me ∈ x.members → Writes (.bar d a) s d (BitVec.ofNat 64 (4 + x.phase * 2 ^ 8)) ∧
      ∃ t, exec (.barw d a) s = .next t ∧ t.cur.run = .waiting ∧ t.cur.wait.code = .barw ∧ t.cur.wait.id = b ∧ t.pc = s.pc ∧ s.sameRegs t ∧
        t.barrier p b = x ∧ others t false) ∧
    (free → s.me ∉ x.members → x.arrived + 1 < x.count →
      (∃ t, exec (.bar d a) s = .next t ∧ t.gpr d = (if d = 0 then 0 else BitVec.ofNat 64 (x.phase * 2 ^ 8)) ∧ t.pc = s.pc + 4 ∧
        s.sameRegsBut t s.me d ∧ t.barrier p b = y ∧ others t false) ∧
      (∃ t, exec (.barw d a) s = .next t ∧ t.cur.run = .waiting ∧ t.cur.wait.code = .barw ∧ t.cur.wait.id = b ∧ t.pc = s.pc ∧ s.sameRegs t ∧
        t.barrier p b = y ∧ others t false)) ∧
    (free → s.me ∉ x.members → x.count ≤ x.arrived + 1 → s.me < numThreads → s.cur.grant = none →
      (∀ i, i = Instr.bar d a ∨ i = Instr.barw d a → ∃ t, exec i s = .next t ∧ t.cur.run = .ready ∧
        t.gpr d = (if d = 0 then 0 else BitVec.ofNat 64 (opened.phase * 2 ^ 8)) ∧
        t.pc = s.pc + 4 ∧ (∀ r, r ≠ d → t.gpr r = s.gpr r) ∧ t.barrier p b = opened ∧ others t true)) ∧
    (s.mayUse s.me b = false → Writes (.barq d a) s d 0) ∧
    (s.mayUse s.me b = true → Writes (.barq d a) s d (BitVec.ofNat 64 (x.strips.toNat * 2 ^ 32 + x.threads.toNat * 2 ^ 28 + x.count * 2 ^ 20 + x.arrived * 2 ^ 12 +
      (if x.broken then 2 ^ 11 else 0) + x.dead * 2 ^ 4 + x.phase)))

/-- R230, R333: holds. -/
def Obligations.HoldsAreGrantedAndEnd : Prop :=
  (∀ (s : State) (d : Reg), let x := s.cur
    let ok := x.mode = false ∧ s.myPlace ≠ 0 ∧ (s.place s.myPart s.myPlace).tcfg.getLsbD 8 = true
    let near := ∃ g, s.guardIn s.myPart = some g ∧ g < 256
    (¬ ok → Writes (.hold d) s d 1) ∧ (ok → x.hold ≠ none → Writes (.hold d) s d 2) ∧ (ok → x.hold = none → near → Writes (.hold d) s d 3) ∧
    (ok → x.hold = none → ¬ near → ∃ t, exec (.hold d) s = .next t ∧ t.gpr d = 0 ∧ s.sameRegsBut t s.me d ∧
      t.cur = { x with gpr := t.cur.gpr, pc := s.pc + 4, hold := some s.cycle, broken := false } ∧ s.otherThreads t s.me ∧
      { t with threads := s.threads } = s ∧ s.sameBytes t)) ∧
  (∀ s : State, ∃ t, exec .unhold s = .next t ∧ t.cur = { s.cur with hold := none, pc := s.pc + 4 } ∧ s.otherThreads t s.me ∧
    { t with threads := s.threads } = s ∧ s.sameBytes t) ∧
  (∀ (s : State) (g : Nat), let k := s.focus.thread; (s.thread k).hold = some g → g + 256 ≤ s.cycle → ∃ t, exec .holdExpiry s = .next t ∧
    t.thread k = { s.thread k with hold := none } ∧ s.otherThreads t k ∧ { t with threads := s.threads } = s ∧ s.sameBytes t)

/-- R164, R165, R103: injection and mail. -/
def Obligations.InjectionQueueAndMailbox : Prop :=
  (∀ (s : State) (d a b : Reg), let route := s.gpr d; let tag := s.gpr a; let v := s.gpr b; let c := s.myCore; let pl := s.myPlace; let q := s.corePlace c pl
    (q.home = none → injFault s route tag = some (0x0B, 0, route)) ∧
    (∀ code f2 f5, injFault s route tag = some (code, f2, f5) → (code = 0x0B ∨ code = 0x08) ∧ ∃ t r, exec (.inj d a b) s = .next t ∧
      t = s.trapThread s.me false code 0 r true ∧ r.f0 = BitVec.ofNat 64 code ∧ r.f2 = f2 ∧ r.f5 = f5 ∧ s.sameRegs t) ∧
    (injFault s route tag = none → 4 ≤ q.injq.length → ∃ t, exec (.inj d a b) s = .next t ∧ t.cur.run = .waiting ∧ t.cur.wait.code = .injFull ∧
      t.pc = s.pc ∧ s.sameRegs t ∧ s.otherThreads t s.me ∧ { t with threads := s.threads } = s) ∧
    (injFault s route tag = none → q.injq.length < 4 → ∃ t x, exec (.inj d a b) s = .next t ∧ t.cur = { s.cur with pc := s.pc + 4 } ∧
      s.otherThreads t s.me ∧ t.corePlace c pl = { q with injq := q.injq ++ [{ route := route, token := x, thread := s.me }] } ∧
      { t with threads := s.threads, corePlaces := s.corePlaces } = s ∧ s.sameBytes t ∧
      let w := 2 ^ x.width
      s.colourWidth s.myPart (tagColour tag) = some x.width ∧ x.tag = tag ∧
      (route.getLsbD 44 = true → x.kind = kEos ∧ x.valid = 0 ∧ x.payload = 0) ∧
      (route.getLsbD 44 = false → x.kind = (if route.extractLsb' 62 2 = 3 then kScale else kData) ∧
        (route.getLsbD 45 = true → x.width ≤ 6 → x.valid = 64 / w ∧ x.payload.setWidth 64 = v) ∧
        (route.getLsbD 45 = false → x.valid = 1 ∧ x.payload.toNat = v.toNat % 2 ^ w % 2 ^ 1024)))) ∧
  (∀ (s : State) (h : InjEntry) (rest : List InjEntry) (w : Word), let c := s.focus.core; let pl := s.focus.place; let q := s.corePlace c pl
    q.injq = h :: rest → q.home = some w → s.injReady c pl = true → ∃ t, exec .injectionRelease s = .next t ∧
      t.corePlace c pl = { q with injq := rest, injLast := some s.cycle } ∧ t.flightNext = s.flightNext + 1 ∧ s.sameRegs t ∧ s.sameBytes t ∧
      let dx := (h.route.extractLsb' 57 5).toNat; let dy := (h.route.extractLsb' 52 5).toNat
      let e := elemKey (pwDie w) (pwX w + dx) (pwY w + dy); let slot := (h.route.extractLsb' 48 4).toNat; let pos := (h.route.extractLsb' 46 2).toNat
      Table.find? t.flights s.flightNext = some { src := 2 ^ 16 + c * 16 + pl, token := h.token, at_ := s.cycle + 4 + dx + dy + flits h.token,
                                                  bound := if h.route.extractLsb' 62 2 = 3 then .scale e slot pos else .elem e slot pos,
                                                  thread := some h.thread, issued := s.cycle }) ∧
  (∀ (s : State) (o : OutTok) (c pl : Nat), let e := s.focus.elem; let v := o.token.payload.setWidth 64
    s.mailHead e = some (o, c, pl) → ∃ t, exec .mailboxAccept s = .next t ∧ s.sameBytes t ∧
      (s.recvWaiter c pl = none → s.sameRegs t ∧ (t.corePlace c pl).mailbox = (s.corePlace c pl).mailbox ++ [{ o.token with kind := kMail }]) ∧
      (∀ k, s.recvWaiter c pl = some k → t.gprOf k (s.thread k).wait.gd = (if (s.thread k).wait.gd = 0 then 0 else v) ∧
        (t.thread k).run = .ready ∧ (t.thread k).pc = (s.thread k).pc + 4 ∧ s.sameRegsBut t k (s.thread k).wait.gd ∧
        (t.corePlace c pl).mailbox = (s.corePlace c pl).mailbox)) ∧
  (∀ (s : State) (d : Reg), let c := s.myCore; let pl := s.myPlace; let q := s.corePlace c pl
    (∀ x rest, q.mailbox = x :: rest → ∃ t, exec (.recv d) s = .next t ∧ t.gpr d = (if d = 0 then 0 else x.payload.setWidth 64) ∧ t.pc = s.pc + 4 ∧
      ThreadFrame s t d ∧ t.corePlace c pl = { q with mailbox := rest } ∧ { t with threads := s.threads, corePlaces := s.corePlaces } = s) ∧
    (q.mailbox = [] → ∃ t, exec (.recv d) s = .next t ∧ t.cur.run = .waiting ∧ t.cur.wait.code = .recv ∧ t.cur.wait.gd = d ∧ t.pc = s.pc ∧
      t.cur.wait.deadline = (if s.cur.waittmo = 0 then none else some (s.cycle + s.cur.waittmo.toNat)) ∧
      s.sameRegs t ∧ s.otherThreads t s.me ∧ { t with threads := s.threads } = s))

/-- R166, R167: CTXA and CTXF. -/
def Obligations.ColoursAreAllocatedAndReleased : Prop :=
  (∀ (s : State) (d a : Reg), let w := (s.gpr a).toNat; let p := s.myPart; let g := if s.cur.mode then 0 else s.cur.tenant
    let fails := fun (r : Nat) => Writes (.ctxa d a) s d (BitVec.ofNat 64 (2 ^ 63 + r))
    let full := s.colourQuotaFull p g = true
    (w = 0 ∨ 32 < w → fails 1) ∧ (1 ≤ w → w ≤ 32 → full → fails 2) ∧
    (1 ≤ w → w ≤ 32 → ¬ full → (∀ c < 4096, s.colour p c ≠ .free) → fails 3) ∧
    (1 ≤ w → w ≤ 32 → ¬ full → ∀ c < 4096, s.colour p c = .free → (∀ b < c, s.colour p b ≠ .free) →
      ∃ t k, exec (.ctxa d a) s = .next t ∧ w ≤ 2 ^ k ∧ (k = 0 ∨ 2 ^ (k - 1) < w) ∧
        t.gpr d = (if d = 0 then 0 else BitVec.ofNat 64 (k * 2 ^ 12 + c)) ∧ t.pc = s.pc + 4 ∧ ThreadFrame s t d ∧ s.sameBytes t ∧
        t.colour p c = .context g k false ∧ (∀ b, b ≠ c → t.colour p b = s.colour p b) ∧ (∀ q, q ≠ p → t.part q = s.part q) ∧
        { t with threads := s.threads, parts := s.parts } = s)) ∧
  (∀ (s : State) (a : Reg), let c := ((s.gpr a).extractLsb' 0 12).toNat; let p := s.myPart; let g := if s.cur.mode then 0 else s.cur.tenant
    (∀ k r, s.colour p c = .context g k r → ∃ t, exec (.ctxf a) s = .next t ∧ t.cur = { s.cur with pc := s.pc + 4 } ∧ s.otherThreads t s.me ∧
      s.sameBytes t ∧ t.colour p c = (if s.liveCount p c = 0 then .free else .context g k true) ∧ (∀ b, b ≠ c → t.colour p b = s.colour p b) ∧
      { t with threads := s.threads, parts := s.parts } = s) ∧
    ((∀ k r, s.colour p c ≠ .context g k r) → ∃ t r, exec (.ctxf a) s = .next t ∧ t = s.trapThread s.me false 0x08 0 r true ∧
      r.f0 = 0x08 ∧ r.f2 = 0 ∧ r.f5 = s.gpr a ∧ s.sameRegs t))

/-- R168, R169: SOW. -/
def Obligations.PlanesAreSownWholeOrRefused : Prop :=
  ∀ (s : State) (d a b : Reg), let v := s.gpr a; let w := s.gpr b; let i : Instr := .sow d a b
    let recs := sowRecords s v w
    let s0 := s.modMe fun x => { x with wait := {} }
    let gives := fun (n : Word) => ∃ t, exec i s = .next t ∧ t.gpr d = (if d = 0 then 0 else n) ∧ t.pc = s.pc + 4 ∧ RegisterFrame s0 t d
    let held := fun (run : RunState) => ∃ t, exec i s = .next t ∧ t.cur.run = run ∧ t.cur.wait.code = .sow ∧ t.cur.wait.addr = w ∧
      t.cur.wait.readAt = (if s.cur.wait.code = .sow then s.cur.wait.readAt else s.cycle) ∧
      t.pc = s.pc ∧ s.sameRegs t ∧ s.otherThreads t s.me ∧ { t with threads := s.threads } = s
    let since := if s.cur.wait.code = .sow then s.cur.wait.readAt else s.cycle
    let before := fun (k : Nat × ThreadSt) => k.1 ≠ s.me ∧ k.2.wait.code = .sow ∧ planesMeet k.2.wait.addr w = true ∧
      (k.2.wait.readAt < since ∨ (k.2.wait.readAt = since ∧ s.cur.wait.code = .sow ∧ k.1 < s.me))
    let waits := ∃ k ∈ s.threads, k.2.run = .waiting ∧ ((k.2.wait.code = .swap ∧ planesMeet k.2.wait.addr w = true) ∨ before k)
    let yields := ∃ k ∈ s.threads, k.2.run = .ready ∧ before k
    (∀ code at_, sowFault s v w = some (code, at_) → Traps i s s code at_) ∧
    (sowFault s v w = none →
      (s.planeLegal s.myPart w = false → gives 6) ∧
      (s.planeLegal s.myPart w = true → waits → held .waiting) ∧ (s.planeLegal s.myPart w = true → ¬ waits → yields → held .ready) ∧
      (s.planeLegal s.myPart w = true → ¬ waits → ¬ yields →
        (recs.2 = true → gives 0x11) ∧
        (recs.2 = false → ∀ reason slot x y, planeReason (pwCols w) (pwRows w) recs.1 = some (reason, slot, x, y) →
          gives (BitVec.ofNat 64 (0x0B + reason * 2 ^ 8 + slot * 2 ^ 16 + x * 2 ^ 21 + y * 2 ^ 26))) ∧
        (recs.2 = false → planeReason (pwCols w) (pwRows w) recs.1 = none → ∃ t, exec i s = .next t ∧ t.gpr d = 0 ∧ t.pc = s.pc + 4 ∧
          ThreadFrame s0 t d ∧ s.sameBytes t ∧ { t with threads := s.threads, elems := s.elems } = s ∧
          (∀ (n e r : Nat), (planeElems w)[n]? = some e → recs.1[n]? = some r →
            t.elem e = { s.elem e with shadow := planeOfRecord r, shadowOf := some w, shadowBy := s.fabTenant s.me,
                                       usedBy := if s.fabTenant s.me = 0 ∧ (s.elem e).usedBy ≠ none then (s.elem e).usedBy
                                                 else some (s.fabTenant s.me) }) ∧
          (∀ e, e ∉ planeElems w → t.elem e = s.elem e))))

/-- R82, R170: SWAP, its exchange and its timeout. -/
def Obligations.SwapExchangesThePlanes : Prop :=
  (∀ (s : State) (d a : Reg), let w := s.gpr a; let es := planeElems w; let i : Instr := .swap d a
    let gated := ∃ e ∈ es, ∃ k, s.fieldAt e = some k ∧ s.fieldGated k = true
    let outside := ∃ e ∈ es, ∃ v, (s.elem e).activeOf = some v ∧ v ≠ w ∧ ∃ x ∈ planeElems v, inPlane w x = false
    let sown := ∀ e ∈ es, (s.elem e).shadowOf = some w
    (s.planeLegal s.myPart w = false → Writes i s d 3) ∧ (s.planeLegal s.myPart w = true →
      (gated → Writes i s d 4) ∧ (¬ gated → outside → Writes i s d 5) ∧ (¬ gated → ¬ outside → ¬ sown → Writes i s d 1) ∧
      (¬ gated → ¬ outside → sown → ∃ t, exec i s = .next t ∧ t.cur.run = .waiting ∧ t.cur.wait.code = .swap ∧ t.cur.wait.addr = w ∧
        t.cur.wait.gd = d ∧ t.cur.wait.deadline = (if s.cur.waittmo = 0 then none else some (s.cycle + s.cur.waittmo.toNat)) ∧ t.pc = s.pc ∧
        s.sameRegs t ∧ s.otherThreads t s.me ∧ { t with threads := s.threads } = s))) ∧
  (∀ (s : State) (n : Nat), let k := s.focus.thread; let x := s.thread k; let w := x.wait.addr
    x.wait.deadline = some n → n ≤ s.cycle →
    (inSwap x 1 = true → s.planeLegal (s.partOf (coreOf k)) w = true → ∃ t, exec .swapActivate s = .next t ∧ s.sameBytes t ∧
      (∀ e ∈ planeElems w, (t.elem e).active = { (s.elem e).shadow with mods := [] } ∧ (t.elem e).shadow = (s.elem e).active ∧ (t.elem e).activeOf = some w ∧
        (t.elem e).owner = s.fabTenant k ∧ (t.elem e).store = (s.elem e).store ∧ (t.elem e).outq = (s.elem e).outq ∧
        (t.elem e).accs = (s.elem e).accs ∧
        (∀ n, Table.getD (t.elem e).modq n 0 = match (s.elem e).shadow.mods.reverse.find? fun m => m.1 == n with
          | some m => m.2
          | none => Table.getD (s.elem e).modq n 0)) ∧
      (∀ e, e ∉ planeElems w → t.elem e = s.elem e) ∧
      t.gprOf k x.wait.gd = 0 ∧ s.sameRegsBut t k x.wait.gd ∧ (t.thread k).run = .ready ∧ (t.thread k).pc = x.pc + 4) ∧
    (inSwap x 0 = true → ∃ t, exec .swapTimeout s = .next t ∧ s.sameBytes t ∧ t.elems = s.elems ∧
      t.gprOf k x.wait.gd = (if x.wait.gd = 0 then 0 else 2) ∧ s.sameRegsBut t k x.wait.gd ∧ (t.thread k).run = .ready ∧
      (t.thread k).pc = x.pc + 4))

/-- R102, R171: fallow. A bed that no element carries and the ga of FALLOW.part are the model's (log entry 49, DEDUCED). -/
def Obligations.FallowIsReportedOnlyWhenItHolds : Prop :=
  (∀ (s : State) (d a : Reg), let v := s.gpr a; let bit := fun (x : Bool) (n : Nat) => if x then n else 0
    let w := v &&& ~~~0xF_0000_0000; let b := (v.extractLsb' 32 4).toNat
    (activeField s w = none → Writes (.fallow .bed d a) s d (BitVec.ofNat 64 (2 ^ 63))) ∧
    (∀ k, activeField s w = some k → Writes (.fallow .bed d a) s d (BitVec.ofNat 64
      (bit ((s.field k).bedsReported.contains b || (bedElems s w b).isEmpty) 1 + bit (s.fieldGated k) 2))) ∧
    (activeField s v = none → Writes (.fallow .field d a) s d (BitVec.ofNat 64 (2 ^ 63))) ∧
    (∀ k, activeField s v = some k → Writes (.fallow .field d a) s d (BitVec.ofNat 64 (bit (s.field k).reported 1 + bit (s.fieldGated k) 2))) ∧
    (∃ halted : Bool, Writes (.fallow .part d a) s d (BitVec.ofNat 64 (bit (s.part s.myPart).reported 1 + bit halted 2)) ∧
      (halted = true ↔ ∃ x ∈ s.elems, s.elemPart x.1 = s.myPart ∧ ∃ k, s.fieldAt x.1 = some k ∧ s.fieldGated k = true))) ∧
  (∀ s : State, let f := s.focus
    let quiet := fun (e : Nat) => State.elemQuiet (s.elem e) s.cycle = true ∧ ∀ g ∈ s.flights, State.boundFor g.2 e = false
    let x := s.thread f.thread
    (f.flag = true → inSwap x 0 = true →
      ((∀ e ∈ planeElems x.wait.addr, quiet e) → ∃ t, exec .fallowReport s = .next t ∧ s.sameRegs t ∧ s.otherThreads t f.thread ∧
        t.thread f.thread = { x with wait := { x.wait with id := 1, deadline := some (s.cycle + 4) } } ∧ { t with threads := s.threads } = s) ∧
      (¬(∀ e ∈ planeElems x.wait.addr, quiet e) → exec .fallowReport s = .refused .notEnabled)) ∧
    (f.flag = false → f.layer = 1 →
      ((∀ y ∈ s.elems, s.elemPart y.1 = f.part → quiet y.1) → ∃ t, exec .fallowReport s = .next t ∧
        t.part f.part = { s.part f.part with reported := true } ∧ { t with parts := s.parts } = s) ∧
      (¬(∀ y ∈ s.elems, s.elemPart y.1 = f.part → quiet y.1) → exec .fallowReport s = .refused .notEnabled)) ∧
    (f.flag = false → f.layer ≠ 1 → ∀ q, Table.find? s.fields f.index = some q → activeField s q.word = some f.index →
      (f.tag = 0 → (∀ e ∈ planeElems q.word, quiet e) → ∃ t, exec .fallowReport s = .next t ∧
        t.field f.index = { q with reported := true } ∧ { t with fields := s.fields } = s) ∧
      (f.tag ≠ 0 → (∀ e ∈ planeElems q.word, (s.elem e).active.bed = f.slot → quiet e) → ∃ t, exec .fallowReport s = .next t ∧
        t.field f.index = { q with bedsReported := f.slot :: q.bedsReported } ∧ { t with fields := s.fields } = s) ∧
      (f.tag = 0 → ¬(∀ e ∈ planeElems q.word, quiet e) → exec .fallowReport s = .refused .notEnabled) ∧
      (f.tag ≠ 0 → ¬(∀ e ∈ planeElems q.word, (s.elem e).active.bed = f.slot → quiet e) → exec .fallowReport s = .refused .notEnabled)))

/-- R172, R347 to R349: HALTR and RESUMER. The order of their checks is the model's (log entry 45, DEDUCED), and so are their two stages (106). -/
def Obligations.FieldsAreHaltedAndResumed : Prop :=
  ∀ (s : State) (d a : Reg), let va := s.gpr a
    let lines := fun (w : Word) => 32 + 160 * pwCols w * pwRows w
    let before := fun (i : Instr) (need : Need) => (va.toNat % 4096 ≠ 0 → Traps i s s 0x03 va) ∧
      (va.toNat % 4096 = 0 → s.homePlane = none → Writes i s d 1) ∧
      (va.toNat % 4096 = 0 → ∀ w, s.homePlane = some w → ∀ code at_, s.checkRange s.me va.toNat (lines w) need = some (code, at_) →
        Traps i s s code at_)
    let ready := fun (u : State) (w : Word) (need : Need) => va.toNat % 4096 = 0 ∧ u.homePlane = some w ∧ u.checkRange u.me va.toNat (lines w) need = none
    let waits := fun (i : Instr) (code : WaitCode) (n : Nat) (t : State) => exec i s = .next t ∧ t.cur.run = .waiting ∧ t.cur.wait.code = code ∧
      t.cur.wait.gd = d ∧ t.cur.wait.deadline = some (s.cycle + n) ∧ t.pc = s.pc ∧ (∀ r, t.gpr r = s.gpr r) ∧
      ∀ j, (s.thread j).wait.code ≠ .recv → ∀ r, t.gprOf j r = s.gprOf j r
    let u := s.modMe fun x => { x with run := .ready, wait := {} }
    let ends := fun (v : Word) (t : State) => exec (.resumer d a) s = .next t ∧ t.gpr d = (if d = 0 then 0 else v) ∧ s.sameRegsBut t s.me d ∧
      t.cur = { s.cur with gpr := t.cur.gpr, pc := s.pc + 4, run := .ready, wait := {} }
    (s.cur.run = .ready → before (.haltr d a) .store ∧ before (.resumer d a) .load ∧
      (∀ w, let k := fieldKey w (s.fabTenant s.me)
        (ready s w .store → (s.field k).halted = true → Writes (.haltr d a) s d 2) ∧
        (ready s w .store → (s.field k).halted = false → ∃ t,
          waits (.haltr d a) .haltr ((if (s.field k).fault = none ∨ (s.field k).posted = false then 384 else 0) + lines w / 8) t ∧
          (t.field k).halted = true ∧
          (let es := planeElems w
            let v := if (s.field k).fault = none ∨ (s.field k).posted = false then
              ((s.settleMail es).settle fun e => inPlane w e).postFault k else s
            t.mem = ((List.range es.length).foldl (fun st i => st.virtWrite s.me (va.toNat + 4096 + 20480 * i) 160
              (elemRecord (v.elem (es.getD i 0)) (i % pwCols w) (i / pwCols w) v.cycle fun j => (Config.freeWord (v.freeCount + 4 * i + j)).toNat))
              (v.virtWrite s.me va.toNat 32 (imageHeader v w (v.field k)))).mem) ∧
          ∀ e ∈ planeElems w, let y := t.elem e
            y.store = [] ∧ y.combs = [] ∧ y.loops = [] ∧ y.reaps = [] ∧ y.outq = [] ∧ y.scaleq = [] ∧ y.mailq = [] ∧ y.iter = none ∧ y.accrd = none ∧
              y.pend = [] ∧ y.active = (s.elem e).active) ∧
        (ready s w .load → ∀ code at_, s.poisonIn s.me va.toNat (lines w) = some (code, at_) → Traps (.resumer d a) s s code at_) ∧
        (ready s w .load → s.poisonIn s.me va.toNat (lines w) = none → (s.field k).halted = false → Writes (.resumer d a) s d 1) ∧
        (ready s w .load → s.poisonIn s.me va.toNat (lines w) = none → (s.field k).halted = true → ∃ t,
          waits (.resumer d a) .resumer (lines w / 8) t ∧ s.otherThreads t s.me ∧ { t with threads := s.threads } = s))) ∧
    (s.cur.run = .waiting → s.cur.wait.code = .haltr → ∃ t, exec (.haltr d a) s = .next t ∧ t.gpr s.cur.wait.gd = 0 ∧
      s.sameRegsBut t s.me s.cur.wait.gd ∧ t.cur.run = .ready ∧ t.pc = s.pc + 4 ∧ s.otherThreads t s.me ∧ { t with threads := s.threads } = s) ∧
    (s.cur.run = .waiting → s.cur.wait.code = .resumer → ∀ w, let k := fieldKey w (s.fabTenant s.me)
      (∀ code at_, ready u w .load → u.poisonIn u.me va.toNat (lines w) = some (code, at_) → ∃ t, exec (.resumer d a) s = .next t ∧
        t = u.trapAt s.me (wordOf (.resumer d a)) code at_ ∧ s.sameRegs t) ∧
      (ready u w .load → u.poisonIn u.me va.toNat (lines w) = none → (s.field k).halted = true → let img := readImage u va.toNat w
        let other := recBytes img.1 0 8 ≠ w.toNat ∨ recBytes img.1 8 1 ≠ s.fabTenant s.me
        let ok := imageOk u w (s.fabTenant s.me) img
        (other → ∃ t, ends 2 t ∧ { t with threads := s.threads } = s) ∧ (¬ other → ok = false → ∃ t, ends 3 t ∧ { t with threads := s.threads } = s) ∧
        (¬ other → ok = true → ∃ t, exec (.resumer d a) s = .next t ∧ t.gpr d = 0 ∧ t.pc = s.pc + 4 ∧ t.cur.run = .ready ∧ s.sameRegsBut t s.me d ∧
          (t.field k).halted = false ∧
          (abandoned u w img = false → u.planeLegal u.myPart w = true → ∀ (i e : Nat), (planeElems w)[i]? = some e →
            let y := t.elem e; let r := img.2.getD i 0
            y.active = (s.elem e).active ∧
            (∀ m < 2, let z := Table.getD y.accs m {}; let p := recBytes r (0x100 + 0x10 * m) 8
              z.next = p % 2 ^ 8 ∧ z.sampled = p.testBit 8 ∧ z.fpc = p / 2 ^ 32 ∧ z.cells = (Table.getD (s.elem e).accs m {}).cells) ∧
            y.reaps.length = recBytes r 4 1 ∧ (∀ (j : Nat) (q : ReapSt), y.reaps[j]? = some q → let o := 0x4A00 + 32 * j
              q.key.toNat = recBytes r o 8 ∧ q.first = recBytes r (o + 8) 8 ∧ q.count = recBytes r (o + 16) 8 ∧ q.level = recBytes r (o + 24) 8) ∧
            y.spills.length ≤ recBytes r 6 2)))) ∧
    (∀ (w : Word) (f : FieldSt), f.tenant < 256 → let h := imageHeader s w f
      recBytes h 0 8 = w.toNat ∧ recBytes h 8 1 = f.tenant ∧ recBytes h 8 8 / 2 ^ 16 = s.placeAsid s.myCore s.myPart s.myPlace ∧
      recBytes h 16 8 = s.when.toNat ∧ recBytes h 24 8 = (if f.fault = none then 0 else 1) ∧
      (∀ j < 8, recBytes h (32 + 8 * j) 8 = match f.fault with
        | some (_, r) => ([r.f0, r.f1, r.f2, r.f3, r.f4, r.f5, r.f6, r.f7].getD j 0).toNat
        | none => 0) ∧ recBytes h 96 4000 = 0) ∧
    (∀ (x : ElemSt) (cx cy now : Nat) (free : Nat → Nat), cx < 256 → cy < 256 → x.store.length + x.combs.length + x.loops.length < 256 →
      x.outq.length + x.scaleq.length < 256 → x.reaps.length < 256 → x.spills.length < 2 ^ 16 → let r := elemRecord x cx cy now free
      recBytes r 0 1 = cx ∧ recBytes r 1 1 = cy ∧ recBytes r 2 1 = x.store.length + x.combs.length + x.loops.length ∧
      recBytes r 3 1 = x.outq.length + x.scaleq.length ∧ recBytes r 4 1 = x.reaps.length ∧ recBytes r 5 1 = 0 ∧ recBytes r 6 2 = x.spills.length ∧
      recBytes r 8 248 = 0 ∧
      (let z := Table.getD x.accs 0 {}; z.next < 256 → recBytes r 0x100 1 = z.next ∧ (recBytes r 0x101 1).testBit 0 = z.sampled))

/-- R173, R174: ECFGR and ECFGW. -/
def Obligations.ElementRegistersAreConfigured : Prop :=
  ∀ (s : State) (d a b : Reg), let v := s.gpr a; let x := s.gpr b; let n := (v.extractLsb' 0 8).toNat
    let e := elemKey (v.extractLsb' 18 2).toNat (v.extractLsb' 8 5).toNat (v.extractLsb' 13 5).toNat
    let mine := s.elemPart e = s.myPart
    let assigned := n ≤ 1 ∨ (0x10 ≤ n ∧ n ≤ 0x33) ∨ n = 0x40
    let legal := v.extractLsb' 20 44 = 0 ∧ assigned
    let pl := if s.cur.mode then s.cur.tsel.toNat else s.myPlace; let win := Table.getD s.windows (e * 16 + pl) {}
    let y := s.elem e; let q := fun (k : Nat) => Table.getD y.modq k 0
    let used := if s.fabTenant s.me = 0 ∧ y.usedBy ≠ none then y.usedBy else some (s.fabTenant s.me)
    let r : Instr := .ecfgr d a; let w : Instr := .ecfgw d a b
    (¬ mine ∨ ¬ legal → Writes r s d (BitVec.allOnes 64)) ∧
    (mine → legal →
      (n = 0 → Writes r s d (BitVec.ofNat 64 y.active.fpc)) ∧ (n = 1 → Writes r s d (BitVec.ofNat 64 (y.fpf ||| dueFlags y.fpfDue s.cycle))) ∧
      (∀ k < 16, n = 0x10 + k → Writes r s d (BitVec.ofNat 64 (q k))) ∧
      (∀ k < 16, n = 0x20 + k → Writes r s d (BitVec.ofNat 64 (if q k = 0 then 0 else 2 ^ 124 / q k / 2 ^ 60))) ∧
      (n = 0x30 → Writes r s d (BitVec.ofNat 64 (if pl = 0 then 0 else win.scrbase))) ∧
      (n = 0x31 → Writes r s d (BitVec.ofNat 64 (if pl = 0 then 0x80000 else win.scrlim))) ∧
      (n = 0x32 → Writes r s d (BitVec.ofNat 64 win.spillbase)) ∧ (n = 0x33 → Writes r s d (BitVec.ofNat 64 win.spilllim)) ∧
      (n = 0x40 → Writes r s d (matchq s e))) ∧
    (¬ mine → v.extractLsb' 20 44 = 0 → Writes w s d 2) ∧ (v.extractLsb' 20 44 ≠ 0 → Writes w s d 1) ∧ (mine → ¬ assigned → Writes w s d 1) ∧
    (mine → legal →
      (0x10 ≤ n → n < 0x20 → x = 1 ∨ 2 ^ 62 ≤ x.toNat → Writes w s d 3) ∧
      ((0x20 ≤ n ∧ n < 0x30) ∨ n = 0x40 → Writes w s d 4) ∧
      (0x30 ≤ n → n ≤ 0x33 → s.cur.mode = false → Writes w s d 5) ∧
      (n = 0x30 ∨ n = 0x31 → s.cur.mode = true → pl = 0 → Writes w s d 4) ∧
      (0x30 ≤ n → n ≤ 0x33 → s.cur.mode = true → pl ≠ 0 ∨ 0x32 ≤ n → windowRefused s e pl n x.toNat = true → Writes w s d 6) ∧
      (n ≤ 1 ∨ (0x10 ≤ n ∧ n < 0x20 ∧ x ≠ 1 ∧ x.toNat < 2 ^ 62) ∨
        (0x30 ≤ n ∧ n ≤ 0x33 ∧ s.cur.mode = true ∧ (pl ≠ 0 ∨ 0x32 ≤ n) ∧ windowRefused s e pl n x.toNat = false) →
        ∃ t, exec w s = .next t ∧ t.gpr d = 0 ∧ t.pc = s.pc + 4 ∧ ThreadFrame s t d ∧ s.sameBytes t ∧ (∀ j, j ≠ e → t.elem j = s.elem j) ∧
          (n = 0 → t.elem e = { y with active := { y.active with fpc := x.toNat % 16 }, usedBy := used }) ∧
          (n = 1 → t.elem e = { y with fpf := x.toNat % 64, fpfDue := y.fpfDue.filter fun f => decide (s.cycle ≤ f.1), usedBy := used }) ∧
          (∀ k < 16, n = 0x10 + k → Table.getD (t.elem e).modq k 0 = x.toNat ∧ (∀ j, j ≠ k → Table.getD (t.elem e).modq j 0 = q j) ∧
            { t.elem e with modq := y.modq, usedBy := y.usedBy } = y ∧ (t.elem e).usedBy = used) ∧
          (n < 0x30 → { t with threads := s.threads, elems := s.elems } = s) ∧
          (0x30 ≤ n → { t with threads := s.threads, windows := s.windows } = s ∧
            Table.getD t.windows (e * 16 + pl) {} = (if n = 0x30 then { win with scrbase := x.toNat } else if n = 0x31 then { win with scrlim := x.toNat }
              else if n = 0x32 then { win with spillbase := x.toNat } else { win with spilllim := x.toNat }) ∧
            ∀ k, k ≠ e * 16 + pl → Table.getD t.windows k {} = Table.getD s.windows k {})))

/-- R85, R91, R92: the end of a firing; R99, R345: a fault of one, and its delivery once the field has settled (when that is, log entry 134, DEDUCED). -/
def Obligations.FiringsEndOrHoldTheirOperands : Prop :=
  (∀ (s : State) (g : Firing) (taken : List StoreTok) (sends : List (Nat × Token)) (lat hold flags : Nat), let e := g.e; let x := s.elem e
    let t := s.endFiring g taken sends lat hold flags
    let scale := fun (c : Nat) => decide (c ≠ 48) && (Table.getD x.active.routes (c % 16) 0).extractLsb' 62 2 == 3
    let net := sends.filter fun d => decide (32 ≤ d.1) && d.1 != 63
    let out := fun (c : Nat) (y : Token) => ({ dst := c, token := y, readyAt := s.cycle + lat, slot := g.slot, issued := s.cycle } : OutTok)
    let near := sends.filter fun d => decide (d.1 < 32)
    SlotFrame s t e ∧ TakenFrom x.store taken (t.elem e).store ∧
    (∀ c, s.cycle ≤ c → (t.elem e).fpfAt c = x.fpfAt c ||| (if s.cycle + lat ≤ c then flags else 0)) ∧
    (t.elem e).doneAt = max x.doneAt (s.cycle + lat) ∧ (t.elem e).fpDone = (if isFloatFiring g.op g.f then max x.fpDone (s.cycle + lat) else x.fpDone) ∧
    (if 0x70 ≤ g.op ∧ g.op ≤ 0x74 then (t.elem e).mxFree = s.cycle + hold ∧ (t.elem e).vcFree = x.vcFree
      else (t.elem e).vcFree = s.cycle + hold ∧ (t.elem e).mxFree = x.mxFree) ∧
    (t.elem e).outq = x.outq ++ (net.filter fun d => !scale d.1).map (fun d => out d.1 (if d.1 = 48 ∧ d.2.kind ≠ 2 then { d.2 with kind := 6 } else d.2)) ∧
    (t.elem e).scaleq = x.scaleq ++ (net.filter fun d => scale d.1).map (fun d => out d.1 { d.2 with kind := 3 }) ∧
    { t.elem e with store := x.store, fpf := x.fpf, fpfDue := x.fpfDue, fpDone := x.fpDone, doneAt := x.doneAt, vcFree := x.vcFree, mxFree := x.mxFree, outq := x.outq, scaleq := x.scaleq } = x ∧
    t.flightNext = s.flightNext + near.length ∧ (∀ k, k < s.flightNext → Table.find? t.flights k = Table.find? s.flights k) ∧
    (∀ (n : Nat) (d : Nat × Token), near[n]? = some d → Table.find? t.flights (s.flightNext + n) =
      some { src := e, bound := .elem e (d.1 % 16) (d.1 / 16), token := d.2, at_ := s.cycle + lat + 1, isLocal := true, issued := s.cycle }) ∧
    ∀ k, s.fieldAt e = some k → (t.field k).lastIssue = s.cycle) ∧
  (∀ (s : State) (g : Firing) (code pos : Nat) (op : Word), code < 256 → let e := g.e; let x := s.elem e
    ∃ t, s.faultOp g code pos op = .next t ∧ (∀ d, d ≠ e → t.elem d = s.elem d) ∧ s.sameRegs t ∧
      List.Forall₂ (fun y z => z = y ∨ (y ∈ g.toks ∧ z = { y with faulted := true })) x.store (t.elem e).store ∧
      (∀ y, y.faulted = false → (t.elem e).store.count y = x.store.count y - g.toks.count y) ∧ { t.elem e with store := x.store } = x ∧
      ∀ k, s.fieldAt e = some k → (s.field k).fault = none → ∃ r, t.field k = { s.field k with fault := some (code, r), faultAt := s.cycle, posted := false } ∧
        r.f0 = BitVec.ofNat 64 (code + 0x30100 + if g.toks.any (·.retry) then 0x800000 else 0) ∧ r.f2 = g.tag ∧ r.f5 = op ∧ r.f6 = s.when ∧
        r.f3 = (x.active.slotWord g.slot).setWidth 64 ∧ r.f4 = (x.active.sideWord g.slot).setWidth 64 ∧ t.threads = s.threads ∧ t.notices = s.notices ∧ t.mem = s.mem) ∧
  (∀ (s : State) (k code : Nat) (r : FaultRec), code < 256 → (s.field k).fault = some (code, r) → (s.field k).posted = false →
    let t := s.postFault k
    (t.field k).posted = true ∧
    (∀ h, s.faultTarget (s.field k) = some h → s.sameBytes t ∧ s.otherThreads t h ∧ ∃ q : FaultRec, { q with f1 := r.f1 } = r ∧
      q.f1.extractLsb' 17 5 = BitVec.ofNat 5 (stripOfCore (coreOf h) * 4 + h % 4) ∧
      t.thread h = let x := s.thread h; let p : PendTrap := { code := code, frec := q, fabric := true }
        if 4 ≤ x.pend.length + x.late.length then { x with lost := true }
        else if s.recordKept h then { x with late := x.late ++ [p] } else { x with pend := x.pend ++ [p] }) ∧
    (s.faultTarget (s.field k) = none → t.threads = s.threads ∧ ∃ n, t.notices = s.notices ++ [n] ∧ n.core = (s.field k).homeCore ∧
      n.word0.extractLsb' 0 16 = BitVec.ofNat 16 (3 + code * 256) ∧ n.detail0 = r.f0 ∧ n.detail1 = (s.field k).word ∧
      s.sameBytesBut t (localBase (s.field k).homeCore + 0x7F000) 0x1000)) ∧
  (∀ (s : State) (k : Nat), let u := s.pump.flushBoards; let f := u.field k
    ((f.fault ≠ none ∧ f.faultAt + 384 ≤ u.cycle → u.faultSettled f = true) ∧
      (f.fault ≠ none → u.faultSettled f = true → (s.endCycle.field k).posted = true)))

/-- R122, R123, R105: the checks of the value opcodes. -/
def Obligations.ValueSlotsCheckTheirOperands : Prop :=
  let ops : List (Nat × (SlotFields → Instr)) :=
    [(0x10, .slotAdd), (0x11, .slotSub), (0x12, .slotMul), (0x13, .slotMulh), (0x14, .mad), (0x15, .slotAnd), (0x16, .slotOr), (0x17, .slotXor),
     (0x18, .slotAndn), (0x19, .slotShl), (0x1A, .slotShr), (0x1B, .slotSar), (0x1C, .slotMin), (0x1D, .slotMax), (0x1E, .abs), (0x1F, .neg),
     (0x20, .cmp), (0x21, .sel), (0x22, .slotClz), (0x23, .slotPopc), (0x24, .adds), (0x25, .subs), (0x26, .avg), (0x27, .dot4), (0x28, .bext),
     (0x29, .bins), (0x2A, .rotl), (0x2B, .satn), (0x30, .fadd), (0x31, .fsub), (0x32, .fmul), (0x33, .ffma), (0x34, .fmin), (0x35, .fmax),
     (0x36, .fabs), (0x37, .fneg), (0x38, .fcmp), (0x39, .fclass), (0x3A, .frcp), (0x3B, .frsq), (0x3C, .fsqrt), (0x3D, .fexp2), (0x3E, .flog2),
     (0x3F, .ftanh), (0x40, .cvt), (0x43, .plane), (0x44, .had), (0x50, .perm), (0x51, .bfly), (0x52, .rot), (0x53, .slotBcast), (0x56, .rsum),
     (0x57, .rmax), (0x58, .rmin), (0x59, .laneix), (0x5A, .frsum), (0x60, .madd), (0x61, .msub), (0x62, .mmul), (0x63, .mmac), (0x64, .mct),
     (0x65, .mgs), (0x66, .mred), (0x67, .mneg)]
  ∀ o ∈ ops, ∀ (s : State) (f : SlotFields),
    (s.matchedSet o.1 f = none → exec (o.2 f) s = .refused .notEnabled) ∧
    ∀ g, s.matchedSet o.1 f = some g →
      let eos := fun (t : StoreTok) => t.token.kind = 2
      ((∃ t ∈ g.toks, t.token.kind = 5) → ∃ t ∈ g.toks, t.token.kind = 5 ∧ exec (o.2 f) s = s.fault g 0x08 t.pos) ∧
      ((∀ t ∈ g.toks, t.token.kind ≠ 5) → f.qual.getLsbD 7 = true → (∀ t, g.at_ 2 = some t → eos t ∨ t.token.lane 0 = 0) →
        exec (o.2 f) s = .next (s.endFiring g g.toks [] 0 1 0)) ∧
      (Ready s o.1 f g →
        (∀ w, fmtWidth (fmtOf f) = some w → (∃ t ∈ g.checked, t.token.width ≠ w) →
          ∃ t ∈ g.checked, t.token.width ≠ w ∧ exec (o.2 f) s = s.fault g 0x08 t.pos) ∧
        ((∀ w, fmtWidth (fmtOf f) = some w → ∀ t ∈ g.checked, t.token.width = w) →
        (g.operands ≠ [] → (∀ t ∈ g.operands, eos t) → ∃ lat hold, FiresWith (o.2 f) s g g.width lat hold 0 fun _ tag l =>
          l = [(f.dst0.toNat, eosToken tag g.width), (f.dst1.toNat, eosToken tag g.width)]) ∧
        ((∃ t ∈ g.operands, eos t) → (∃ t ∈ g.operands, ¬ eos t) → ∃ t ∈ g.operands, eos t ∧ exec (o.2 f) s = s.fault g 0x08 t.pos)))

/-- R134, R135: the integer lanes. -/
def Obligations.IntegerLanesCompute : Prop :=
  let lanes := fun (op : Nat) (mk : SlotFields → Instr) (kind : Nat) (ok : SlotFields → Bool)
      (v : (f : SlotFields) → (sg : Bool) → (w : Nat) → (x y z : BitVec w) → BitVec w) =>
    ∀ (s : State) (f : SlotFields) (g : Firing), ok f = true → ReadyData s op f g →
      let code := fmtCode f; let pairs := fmtOf f = 0x17; let w := if pairs then 64 else 2 ^ code
      let n := if pairs then State.minPairs g else State.minValid g (1024 / w)
      let lane := fun (x : Src) (i : Nat) => BitVec.ofNat w (x.lane w i)
      TokenResult (mk f) s g kind code (if pairs then 2 * n else n) w n 2 1 0 fun i =>
        (v f (isSignedFmt (fmtOf f)) w (lane (s.srcA g) i) (lane (s.srcB g) i) (lane (s.srcC g) i)).toNat
  let int := fun (f : SlotFields) => isIntFmt (fmtOf f)
  let any := fun (f : SlotFields) => decide (1 ≤ fmtOf f) && decide (fmtOf f ≤ 0x17)
  let num := fun {w : Nat} (sg : Bool) (x : BitVec w) => if sg then x.toInt else (x.toNat : Int)
  let clamp := fun (sg : Bool) (w : Nat) (z : Int) => BitVec.ofInt w (if sg then max (-(2 ^ (w - 1))) (min (2 ^ (w - 1) - 1) z) else max 0 (min (2 ^ w - 1) z))
  let pos := fun (f : SlotFields) => (f.ext.extractLsb' 0 5).toNat; let len := fun (f : SlotFields) => (f.ext.extractLsb' 5 6).toNat
  let field := fun (f : SlotFields) => int f && decide (1 ≤ len f) && decide (pos f + len f ≤ 2 ^ fmtCode f)
  let top := fun (f : SlotFields) => (f.ext.extractLsb' 0 6).toNat
  lanes 0x10 .slotAdd 0 int (fun _ _ _ x y _ => x + y) ∧ lanes 0x11 .slotSub 0 int (fun _ _ _ x y _ => x - y) ∧
  lanes 0x12 .slotMul 0 int (fun _ _ _ x y _ => x * y) ∧
  lanes 0x13 .slotMulh 0 int (fun _ sg w x y _ => BitVec.ofInt w (num sg x * num sg y / 2 ^ w)) ∧
  lanes 0x14 .mad 0 int (fun _ _ _ x y z => x * y + z) ∧ lanes 0x15 .slotAnd 0 any (fun _ _ _ x y _ => x &&& y) ∧
  lanes 0x16 .slotOr 0 any (fun _ _ _ x y _ => x ||| y) ∧ lanes 0x17 .slotXor 0 any (fun _ _ _ x y _ => x ^^^ y) ∧
  lanes 0x18 .slotAndn 0 any (fun _ _ _ x y _ => x &&& ~~~y) ∧ lanes 0x19 .slotShl 0 int (fun _ _ w x y _ => x <<< (y.toNat % w)) ∧
  lanes 0x1A .slotShr 0 int (fun _ _ w x y _ => x >>> (y.toNat % w)) ∧ lanes 0x1B .slotSar 0 int (fun _ _ w x y _ => x.sshiftRight (y.toNat % w)) ∧
  lanes 0x1C .slotMin 0 int (fun _ sg w x y _ => BitVec.ofInt w (min (num sg x) (num sg y))) ∧
  lanes 0x1D .slotMax 0 int (fun _ sg w x y _ => BitVec.ofInt w (max (num sg x) (num sg y))) ∧
  lanes 0x1E .abs 0 int (fun _ sg w x _ _ => BitVec.ofInt w |num sg x|) ∧ lanes 0x1F .neg 0 int (fun _ _ _ x _ _ => -x) ∧
  lanes 0x20 .cmp 1 (fun f => int f && decide ((f.ext.extractLsb' 0 3).toNat ≤ 5)) (fun f sg w x y _ => BitVec.ofNat w
    (match (f.ext.extractLsb' 0 3).toNat with
      | 0 => if x = y then 1 else 0
      | 1 => if x ≠ y then 1 else 0
      | 2 => if num sg x < num sg y then 1 else 0
      | 3 => if num sg x ≤ num sg y then 1 else 0
      | 4 => if num sg y < num sg x then 1 else 0
      | _ => if num sg y ≤ num sg x then 1 else 0)) ∧
  lanes 0x21 .sel 0 any (fun _ _ _ x y z => if z ≠ 0 then x else y) ∧ lanes 0x22 .slotClz 0 int (fun _ _ _ x _ _ => x.clz) ∧
  lanes 0x23 .slotPopc 0 int (fun _ _ w x _ _ => BitVec.ofNat w ((List.range w).countP fun i => x.getLsbD i)) ∧
  lanes 0x24 .adds 0 int (fun _ sg w x y _ => clamp sg w (num sg x + num sg y)) ∧ lanes 0x25 .subs 0 int (fun _ sg w x y _ => clamp sg w (num sg x - num sg y)) ∧
  lanes 0x26 .avg 0 int (fun _ sg w x y _ => BitVec.ofInt w ((num sg x + num sg y + 1) / 2)) ∧
  lanes 0x27 .dot4 0 (fun f => decide (fmtOf f = 5) && decide (modeOf f ≤ 2)) (fun f _ w x y _ => BitVec.ofInt w (((List.range 4).map fun k =>
    num (modeOf f != 1) (x.extractLsb' (8 * k) 8) * num (modeOf f == 0) (y.extractLsb' (8 * k) 8)).sum)) ∧
  lanes 0x28 .bext 0 field (fun f sg w x _ _ => BitVec.ofInt w (num sg (x.extractLsb' (pos f) (len f)))) ∧
  lanes 0x29 .bins 0 field (fun f _ w x y _ => let m := BitVec.ofNat w (2 ^ len f - 1) <<< pos f; (x &&& ~~~m) ||| ((y <<< pos f) &&& m)) ∧
  lanes 0x2A .rotl 0 int (fun _ _ w x y _ => x.rotateLeft (y.toNat % w)) ∧
  lanes 0x2B .satn 0 (fun f => int f && decide (1 ≤ top f) && decide (top f ≤ 2 ^ fmtCode f)) (fun f sg w x _ _ => BitVec.ofInt w
    (if sg then max (-(2 ^ (top f - 1))) (min (2 ^ (top f - 1) - 1) (num sg x)) else max 0 (min (2 ^ top f - 1) (num sg x))))

/-- R136, R137: the floating-point lanes. -/
def Obligations.FloatLanesCompute : Prop :=
  let lanes := fun (op lat kind : Nat) (mk : SlotFields → Instr) (v : (f : SlotFields) → (ff : FloatFmt) → (m x y z : Nat) → FRes) =>
    ∀ (s : State) (f : SlotFields) (g : Firing), fmtOf f = 7 ∨ fmtOf f = 8 ∨ fmtOf f = 9 → ReadyData s op f g →
      (op = 0x38 → (f.ext.extractLsb' 0 3).toNat ≤ 6) →
      let code := if fmtOf f = 7 then 5 else 4; let w := 2 ^ code; let n := State.minValid g (1024 / w)
      let ff := if fmtOf f = 7 then fmtF32 else if fmtOf f = 8 then fmtF16 else fmtBf16
      let r := fun i => v f ff (s.elem g.e).active.fpc ((s.srcA g).lane w i) ((s.srcB g).lane w i) ((s.srcC g).lane w i)
      ∃ flags, (∀ j, flags.testBit j = true ↔ ∃ i, i < n ∧ (r i).flags.testBit j = true) ∧
        LaneResult (mk f) s g kind code n lat 1 flags fun i => (r i).bits % 2 ^ w
  let rm := fun (m : Nat) => roundingOf m; let ftz := fun (m : Nat) => m.testBit 2
  let rd := fun (ff : FloatFmt) (m c : Nat) => if m.testBit 3 = true ∧ c / 2 ^ ff.mbits % 2 ^ ff.ebits = 0 then ff.withSign (ff.sign c) 0 else c
  let val := fun (ff : FloatFmt) (m c : Nat) => ff.decode (rd ff m c)
  let nan := fun (ff : FloatFmt) (c : Nat) => (ff.decode c).isNan
  lanes 0x30 4 0 .fadd (fun _ ff m x y _ => fAddV ff (rm m) (ftz m) (val ff m x) (val ff m y)) ∧
  lanes 0x31 4 0 .fsub (fun _ ff m x y _ => fAddV ff (rm m) (ftz m) (val ff m x) (val ff m y).neg) ∧
  lanes 0x32 4 0 .fmul (fun _ ff m x y _ => fMulV ff (rm m) (ftz m) (val ff m x) (val ff m y)) ∧
  lanes 0x33 4 0 .ffma (fun _ ff m x y z => fFmaV ff (rm m) (ftz m) (val ff m x) (val ff m y) (val ff m z)) ∧
  lanes 0x34 4 0 .fmin (fun _ ff m x y _ => fPick true ff (rd ff m x) (rd ff m y)) ∧
  lanes 0x35 4 0 .fmax (fun _ ff m x y _ => fPick false ff (rd ff m x) (rd ff m y)) ∧
  lanes 0x36 4 0 .fabs (fun _ ff _ x _ _ => { bits := if nan ff x then ff.nan else x % 2 ^ (ff.ebits + ff.mbits), flags := 0 }) ∧
  lanes 0x37 4 0 .fneg (fun _ ff _ x _ _ => { bits := if nan ff x then ff.nan else x ^^^ 2 ^ (ff.ebits + ff.mbits), flags := 0 }) ∧
  lanes 0x38 4 1 .fcmp (fun f ff m x y _ => fcmp (f.ext.extractLsb' 0 3).toNat (val ff m x) (val ff m y)) ∧
  lanes 0x39 4 0 .fclass (fun _ ff _ x _ _ => { bits := 2 ^ (match ff.decode x with
    | .nan _ sig => if sig then 8 else 9
    | .inf neg => if neg then 0 else 7
    | .fin neg k _ => if k = 0 then (if neg then 3 else 4) else if k < 2 ^ ff.mbits then (if neg then 2 else 5) else if neg then 1 else 6), flags := 0 }) ∧
  lanes 0x3A 12 0 .frcp (fun _ ff m x _ _ => viaF32 ff m x frcpF32) ∧ lanes 0x3B 12 0 .frsq (fun _ ff m x _ _ => viaF32 ff m x frsqF32) ∧
  lanes 0x3C 12 0 .fsqrt (fun _ ff m x _ _ => viaF32 ff m x fun z c => fSqrtV fmtF32 (rm m) z (fmtF32.decode c)) ∧
  lanes 0x3D 12 0 .fexp2 (fun _ ff m x _ _ => viaF32 ff m x fexp2F32) ∧ lanes 0x3E 12 0 .flog2 (fun _ ff m x _ _ => viaF32 ff m x flog2F32) ∧
  lanes 0x3F 12 0 .ftanh (fun _ ff m x _ _ => viaF32 ff m x ftanhF32)

/-- R110: rounding; R136: sums, products and fused sums. -/
def Obligations.FloatResultsAreRoundedOnce : Prop :=
  ∀ ff ∈ [fmtF32, fmtF16, fmtBf16], ∀ (rm : Rounding),
    let num := fun (neg : Bool) (m : Nat) (e : Int) => (if neg then -1 else 1) * (m : ℚ) * 2 ^ e
    let val := fun (c : Nat) => match ff.decode c with | .fin n m e => some (num n m e) | _ => none
    (∀ (neg : Bool) (m : Nat) (e : Int), let q := num neg m e; let r := ff.round rm false neg m e
      (∀ top, val ff.maxCode = some top → |q| ≤ top → ∃ v, val r.bits = some v ∧ ff.sign r.bits = neg ∧ (r.flags.testBit 4 = true ↔ v ≠ q) ∧
        ∀ c u, c < 2 ^ ff.width → val c = some u → match rm with
          | .rdn => v ≤ q ∧ (u ≤ q → u ≤ v)
          | .rup => q ≤ v ∧ (q ≤ u → v ≤ u)
          | .rtz => |v| ≤ |q| ∧ (|u| ≤ |q| → |u| ≤ |v|)
          | .rne => |v - q| ≤ |u - q| ∧ (|v - q| = |u - q| → u ≠ v → r.bits % 2 = 0)) ∧
      (∀ top, val ff.maxCode = some top → top < |q| → r.bits = ff.withSign neg ff.maxCode ∨ r.bits = ff.withSign neg ff.infCode)) ∧
    ∀ ftz : Bool,
      (∀ (na : Bool) (ma : Nat) (ea : Int) (nb : Bool) (mb : Nat) (eb : Int),
        (∃ n m e, fAddV ff rm ftz (.fin na ma ea) (.fin nb mb eb) = ff.round rm ftz n m e ∧ num n m e = num na ma ea + num nb mb eb ∧
          (num n m e = 0 → n = if na = nb then na else rm == .rdn)) ∧
        (∃ m e, fMulV ff rm ftz (.fin na ma ea) (.fin nb mb eb) = ff.round rm ftz (na != nb) m e ∧
          num (na != nb) m e = num na ma ea * num nb mb eb) ∧
        ∀ (nc : Bool) (mc : Nat) (ec : Int), ∃ n m e, fFmaV ff rm ftz (.fin na ma ea) (.fin nb mb eb) (.fin nc mc ec) = ff.round rm ftz n m e ∧
          num n m e = num na ma ea * num nb mb eb + num nc mc ec) ∧
      (∀ (n sig : Bool) (y : FVal), (fAddV ff rm ftz (.nan n sig) y).bits = ff.nan ∧ (fAddV ff rm ftz y (.nan n sig)).bits = ff.nan ∧
        (fMulV ff rm ftz (.nan n sig) y).bits = ff.nan ∧ (fMulV ff rm ftz y (.nan n sig)).bits = ff.nan ∧
        (sig = true → (fAddV ff rm ftz (.nan n sig) y).flags.testBit 0 = true ∧ (fMulV ff rm ftz (.nan n sig) y).flags.testBit 0 = true)) ∧
      (∀ n : Bool, fAddV ff rm ftz (.inf n) (.inf !n) = { bits := ff.nan, flags := 1 } ∧
        fAddV ff rm ftz (.inf n) (.inf n) = { bits := ff.withSign n ff.infCode, flags := 0 }) ∧
      ∀ (n k : Bool) (e : Int), fMulV ff rm ftz (.fin n 0 e) (.inf k) = { bits := ff.nan, flags := 1 } ∧
        ∀ z : FVal, (fFmaV ff rm ftz (.fin n 0 e) (.inf k) z).bits = ff.nan ∧ (fFmaV ff rm ftz (.fin n 0 e) (.inf k) z).flags.testBit 0 = true

/-- R137: special values, exact cases, and the bound of FRCP. -/
def Obligations.SpecialFunctionsKeepTheirTable : Prop :=
  ∀ (ftz : Bool) (rm : Rounding), let sqrt := fun (c : Nat) => fSqrtV fmtF32 rm ftz (fmtF32.decode c)
    let is := fun (r : FRes) (c fl : Nat) => r = { bits := c, flags := fl }
    let nan := 0x7FC00000
    (is (frcpF32 ftz 0) 0x7F800000 2 ∧ is (frcpF32 ftz 0x80000000) 0xFF800000 2 ∧ is (frcpF32 ftz 0x7F800000) 0 0 ∧ is (frcpF32 ftz 0xFF800000) 0x80000000 0) ∧
    (is (frsqF32 ftz 0) 0x7F800000 2 ∧ is (frsqF32 ftz 0x80000000) 0xFF800000 2 ∧ is (frsqF32 ftz 0x7F800000) 0 0 ∧ is (frsqF32 ftz 0xFF800000) nan 1) ∧
    (is (sqrt 0) 0 0 ∧ is (sqrt 0x80000000) 0x80000000 0 ∧ is (sqrt 0x7F800000) 0x7F800000 0 ∧ is (sqrt 0xFF800000) nan 1) ∧
    (is (fexp2F32 ftz 0) 0x3F800000 0 ∧ is (fexp2F32 ftz 0x80000000) 0x3F800000 0 ∧ is (fexp2F32 ftz 0x7F800000) 0x7F800000 0 ∧ is (fexp2F32 ftz 0xFF800000) 0 0) ∧
    (is (flog2F32 ftz 0) 0xFF800000 2 ∧ is (flog2F32 ftz 0x80000000) 0xFF800000 2 ∧ is (flog2F32 ftz 0x7F800000) 0x7F800000 0 ∧ is (flog2F32 ftz 0xFF800000) nan 1) ∧
    (is (ftanhF32 ftz 0) 0 0 ∧ is (ftanhF32 ftz 0x80000000) 0x80000000 0 ∧ is (ftanhF32 ftz 0x7F800000) 0x3F800000 0 ∧ is (ftanhF32 ftz 0xFF800000) 0xBF800000 0) ∧
    (∀ c n q, fmtF32.decode c = .nan n q → let fl := if q then 1 else 0
      is (frcpF32 ftz c) nan fl ∧ is (frsqF32 ftz c) nan fl ∧ is (sqrt c) nan fl ∧ is (fexp2F32 ftz c) nan fl ∧ is (flog2F32 ftz c) nan fl ∧
        is (ftanhF32 ftz c) nan fl) ∧
    (∀ c m e, fmtF32.decode c = .fin true m e → m ≠ 0 → is (frsqF32 ftz c) nan 1 ∧ is (sqrt c) nan 1 ∧ is (flog2F32 ftz c) nan 1) ∧
    (∀ k : Nat, 1 ≤ k → k ≤ 253 → is (frcpF32 ftz (k * 2 ^ 23)) ((254 - k) * 2 ^ 23) 0) ∧
    (∀ j : Nat, j ≤ 126 → is (frsqF32 ftz ((2 * j + 1) * 2 ^ 23)) ((190 - j) * 2 ^ 23) 0 ∧ is (sqrt ((2 * j + 1) * 2 ^ 23)) ((64 + j) * 2 ^ 23) 0) ∧
    (∀ k : Nat, 1 ≤ k → k ≤ 254 → ∃ c, is (flog2F32 ftz (k * 2 ^ 23)) c 0 ∧ ∃ n m e, fmtF32.decode c = .fin n m e ∧
      (if n then -1 else 1) * (m : ℚ) * 2 ^ e = (k : ℚ) - 127) ∧
    (∀ c n m e, fmtF32.decode c = .fin n m e → ∀ z : Int, -126 ≤ z → z ≤ 127 → (if n then -1 else 1) * (m : ℚ) * 2 ^ e = z →
      is (fexp2F32 ftz c) ((z + 127).toNat * 2 ^ 23) 0) ∧
    (∀ c n m e, fmtF32.decode c = .fin n m e → (10 : ℚ) ≤ m * 2 ^ e → (ftanhF32 ftz c).bits = fmtF32.withSign n 0x3F800000) ∧
    (∀ c n m e, fmtF32.decode c = .fin n m e → (2 : ℚ) ^ (-125 : Int) ≤ m * 2 ^ e → m * 2 ^ e ≤ (2 : ℚ) ^ (125 : Int) →
      ∃ m' e', fmtF32.decode (frcpF32 ftz c).bits = .fin n m' e' ∧ |(m : ℚ) * 2 ^ e * (m' * 2 ^ e') - 1| ≤ 2 ^ (-23 : Int))

/-- R138 to R142: conversions and flag control. DAZ at CVT and UNPACKQ is the model's reading (log entry 114, DEDUCED). -/
def Obligations.ConversionSlotsCompute : Prop :=
  let raised := fun (flags n : Nat) (r : Nat → FRes) => ∀ j, flags.testBit j = true ↔ ∃ i, i < n ∧ (r i).flags.testBit j = true
  ∀ (s : State) (f : SlotFields) (g : Firing), let fmt := fmtOf f; let code := fmtCode f; let wf := 2 ^ code
    let a := s.srcA g; let b := s.srcB g; let m := (s.elem g.e).active.fpc; let rm := roundingOf m; let ftz := m.testBit 2; let daz := m.testBit 3
    let ext := fun (lo n : Nat) => (f.ext.extractLsb' lo n).toNat
    let zeroB := fun (n : Nat) => match b.tok with | some t => t.valid | none => if f.srcB = 3 then 0 else n
    let bit := fun (w j : Nat) => if j < w * zeroB (1024 / w) then (b.lane w (j / w)).testBit (j % w) else false
    (ReadyData s 0x40 f g → let n := State.minValid g (1024 / wf); let src := ext 0 5
      let r := fun i => if isIntFmt fmt = true ∧ isIntFmt src = true then
          { bits := (BitVec.ofInt wf (clampInt (isSignedFmt fmt) wf (laneInt (isSignedFmt src) wf (a.lane wf i)))).toNat, flags := 0 }
        else convertTo fmt rm ftz (valueOf src daz (a.lane wf i))
      ∃ flags, raised flags n r ∧ LaneResult (.cvt f) s g 0 code n 4 1 flags fun i => (r i).bits % 2 ^ wf) ∧
    (∀ k : BitVec 8, k = f.ext.extractLsb' 8 8 → (∀ t ∈ g.operands, t.token.kind ≠ 2) → (∀ t ∈ g.checked, t.token.width = 5) → let grp := ext 0 5; 32 * grp + 32 ≤ 1024 / wf →
      (wf = 4 ∨ wf = 8 ∨ wf = 16) →
      (Ready s 0x41 f g → let va := a.valid 32
        let r := fun i => convertTo fmt rm ftz ((fmtF32.input m (a.lane 32 i)).scale k.toInt)
        ∃ flags, raised flags va r ∧ TokenResult (.packq f) s g 0 5 (max (zeroB 32) ((wf * (32 * grp + va) + 31) / 32)) 1 1024 4 1 flags fun j =>
          let i := j / wf - 32 * grp
          if 32 * grp ≤ j / wf ∧ j / wf < 32 * grp + 32 then (if i < va then ((r i).bits.testBit (j % wf)).toNat else 0) else (bit 32 j).toNat) ∧
      (Ready s 0x42 f g → let n := min 32 (32 * a.valid 32 / wf - 32 * grp)
        let r := fun i => let y := fmtF32.ofVal rm ftz ((valueOf fmt daz (a.lane wf (32 * grp + i))).scale k.toInt)
          if y.flags.testBit 2 = true then { y with bits := fmtF32.withSign (fmtF32.sign y.bits) 0x7F800000 } else y
        f.srcA.toNat ≤ 2 → ∃ flags, raised flags n r ∧ LaneResult (.unpackq f) s g 0 5 n 4 1 flags fun i => (r i).bits % 2 ^ 32)) ∧
    (ReadyData s 0x43 f g → isIntFmt fmt = true → let l := 1024 / wf; let va := a.valid l; let grp := ext 8 5; grp < wf → ext 0 3 < ext 4 4 → ext 4 4 ≤ wf →
      TokenResult (.plane f) s g 0 code (max (zeroB l) ((l * grp + va + wf - 1) / wf)) 1 1024 2 1 0 fun j =>
        if l * grp ≤ j ∧ j < l * grp + l then (if j - l * grp < va then ((a.lane wf (j - l * grp)).testBit (ext 4 4 - 1 - ext 0 3)).toNat else 0)
        else (bit wf j).toNat) ∧
    (ReadyData s 0x44 f g → let k := f.extra.toNat; let d := 2 ^ k; let va := a.valid (1024 / wf); let n := min (1024 / wf) (2 * d * ((va + 2 * d - 1) / (2 * d)))
      let x := fun i => if i < va then a.lane wf i else 0
      2 * d ≤ 1024 / wf →
      (isIntFmt fmt = true → LaneResult (.had f) s g 0 code n 2 1 0 fun i =>
        (if i.testBit k then BitVec.ofNat wf (x (i - d)) - BitVec.ofNat wf (x i) else BitVec.ofNat wf (x i) + BitVec.ofNat wf (x (i + d))).toNat) ∧
      (fmt = 7 ∨ fmt = 8 ∨ fmt = 9 → let ff := if fmt = 7 then fmtF32 else if fmt = 8 then fmtF16 else fmtBf16; let v := fun i => ff.input m (x i)
        let r := fun i => if i.testBit k then fAddV ff rm ftz (v (i - d)) (v i).neg else fAddV ff rm ftz (v i) (v (i + d))
        ∃ flags, raised flags n r ∧ LaneResult (.had f) s g 0 code n 4 1 flags fun i => (r i).bits % 2 ^ wf)) ∧
    (∀ i : Instr, ∀ u : ElemSt,
      (i = .setfpc f ∧ Ready s 0x45 f g ∧ u = { s.elem g.e with active := { (s.elem g.e).active with fpc := ext 0 4 } }) ∨
      (i = .clrfpf f ∧ Ready s 0x47 f g ∧ (s.elem g.e).floatDone s.cycle = true ∧
        u = { s.elem g.e with fpf := ((s.elem g.e).fpf ||| dueFlags (s.elem g.e).fpfDue (s.cycle - 1)) &&& (63 - ext 0 6),
                              fpfDue := (s.elem g.e).fpfDue.filter fun d => decide (s.cycle ≤ d.1) }) →
      (∀ c, s.resultTag g g.width = .error c → exec i s = s.fault g c (State.tagPos g)) ∧
      (∀ r t, s.resultTag g g.width = .ok r → a.tok = some t → ∃ r', (s.setElem g.e u).resultTag g g.width = .ok (r', r.2) ∧
        let y := mkToken r.2 t.kind t.valid t.width t.payload.toNat
        exec i s = .next (r'.endFiring g g.toks [(f.dst0.toNat, y), (f.dst1.toNat, y)] 2 1 0))) ∧
    (Ready s 0x46 f g → (s.elem g.e).floatDone s.cycle = true → LaneResult (.getfpf f) s g 0 g.width 1 2 1 0 fun _ =>
      ((s.elem g.e).fpf ||| dueFlags (s.elem g.e).fpfDue s.cycle) % 64 % 2 ^ 2 ^ g.width) ∧
    ((s.elem g.e).floatDone s.cycle = false → (Ready s 0x46 f g → exec (.getfpf f) s = .refused .notEnabled) ∧
      (Ready s 0x47 f g → exec (.clrfpf f) s = .refused .notEnabled))

/-- R109: conversions. -/
def Obligations.ConversionsFollowTheirTable : Prop :=
  ∀ (rm : Rounding) (ftz : Bool), let num := fun (n : Bool) (m : Nat) (e : Int) => (if n then -1 else 1) * (m : ℚ) * 2 ^ e
    let rounds := fun (q : ℚ) (z : Int) => match rm with
      | .rdn => (z : ℚ) ≤ q ∧ q < z + 1
      | .rup => (z : ℚ) - 1 < q ∧ q ≤ z
      | .rtz => |(z : ℚ)| ≤ |q| ∧ |q| < |(z : ℚ)| + 1 ∧ 0 ≤ q * z
      | .rne => |q - z| ≤ 1 / 2 ∧ (|q - z| = 1 / 2 → z % 2 = 0)
    (∀ fmt, 1 ≤ fmt → fmt ≤ 6 → let sg := fmt == 1 || fmt == 3 || fmt == 5; let w := if fmt ≤ 2 then 8 else if fmt ≤ 4 then 16 else 32
      let lo : Int := if sg then -2 ^ (w - 1) else 0; let hi : Int := if sg then 2 ^ (w - 1) - 1 else 2 ^ w - 1
      let bits := fun (z : Int) => (BitVec.ofInt w z).toNat
      (∀ n m e, ∃ z, rounds (num n m e) z ∧
        (lo ≤ z → z ≤ hi → convertTo fmt rm ftz (.fin n m e) = { bits := bits z, flags := if (z : ℚ) = num n m e then 0 else 16 }) ∧
        (z < lo → convertTo fmt rm ftz (.fin n m e) = { bits := bits lo, flags := 1 }) ∧
        (hi < z → convertTo fmt rm ftz (.fin n m e) = { bits := bits hi, flags := 1 })) ∧
      (∀ n q, convertTo fmt rm ftz (.nan n q) = { bits := 0, flags := 1 }) ∧
      ∀ n, convertTo fmt rm ftz (.inf n) = { bits := bits (if n then lo else hi), flags := 1 }) ∧
    (∀ n q, convertTo 0x0D rm ftz (.nan n q) = { bits := 0xFF, flags := if q then 1 else 0 }) ∧
    (∀ n, convertTo 0x0D rm ftz (.inf n) = { bits := 0xFF, flags := 1 }) ∧
    (∀ (n : Bool) (m : Nat) (e : Int), let q := (m : ℚ) * 2 ^ e; let r := convertTo 0x0D rm ftz (.fin n m e)
      (q < 2 ^ (-127 : Int) → r = { bits := 0, flags := 8 }) ∧ (2 ^ (127 : Int) < q → r = { bits := 0xFE, flags := 4 }) ∧
      (2 ^ (-127 : Int) ≤ q → q ≤ 2 ^ (127 : Int) → ∃ k : Int, r.bits = (k + 127).toNat ∧ -127 ≤ k ∧
        (rm = .rtz ∨ rm = .rdn → (2 : ℚ) ^ k ≤ q ∧ q < 2 ^ (k + 1)) ∧ (rm = .rne ∨ rm = .rup → (2 : ℚ) ^ (k - 1) < q ∧ q ≤ 2 ^ k) ∧
        ((∃ j : Int, q = 2 ^ j) → r.flags = 0) ∧ ((¬∃ j : Int, q = 2 ^ j) → r.flags = 16))) ∧
    (∀ n, convertTo 0x0A rm ftz (.inf n) = { bits := if n then 0xFE else 0x7E, flags := 4 } ∧
      convertTo 0x0C rm ftz (.inf n) = { bits := if n then 0xF else 0x7, flags := 4 } ∧
      convertTo 7 rm ftz (.inf n) = { bits := if n then 0xFF800000 else 0x7F800000, flags := 0 }) ∧
    (∀ n q, convertTo 0x0A rm ftz (.nan n q) = { bits := if n then 0xFF else 0x7F, flags := if q then 1 else 0 } ∧
      convertTo 0x0C rm ftz (.nan n q) = { bits := 0, flags := 1 } ∧ convertTo 7 rm ftz (.nan n q) = { bits := 0x7FC00000, flags := if q then 1 else 0 } ∧
      convertTo 8 rm ftz (.nan n q) = { bits := 0x7E00, flags := if q then 1 else 0 } ∧
      convertTo 9 rm ftz (.nan n q) = { bits := 0x7FC0, flags := if q then 1 else 0 } ∧
      convertTo 0x0B rm ftz (.nan n q) = { bits := 0x7E, flags := if q then 1 else 0 })

/-- R143 to R147: lane movement and reduction. -/
def Obligations.LaneMovementSlotsCompute : Prop :=
  (∀ (s : State) (f : SlotFields) (g : Firing), let fmt := fmtOf f; let code := fmtCode f; let w := 2 ^ code; let a := s.srcA g; let b := s.srcB g
    let pair := decide (fmt = 0x17); let u := if pair then 64 else w; let n := 1024 / u; let two := if pair then 2 else 1
    let valid := fun (x : Src) => match x.tok with | some t => t.valid / two | none => n
    let at_ := fun (x : Src) (i : Nat) => if i < valid x then x.lane u i else 0
    let m := (s.elem g.e).active.fpc; let rm := roundingOf m; let ftz := m.testBit 2
    let vec := fmt = 7 ∨ fmt = 8 ∨ fmt = 9; let ff := if fmt = 7 then fmtF32 else if fmt = 8 then fmtF16 else fmtBf16
    let daz := fun (c : Nat) => ff.daz (m.testBit 3) c
    let gives := fun (i : Instr) (v lat hold : Nat) (k : Nat → Nat) => v ≤ n → TokenResult i s g 0 code (two * v) u v lat hold 0 fun j => k j % 2 ^ u
    1 ≤ fmt → fmt ≤ 0x17 →
    (ReadyData s 0x50 f g → gives (.perm f) (valid b) 6 4 fun i => at_ a (at_ b i % n)) ∧
    (ReadyData s 0x52 f g → gives (.rot f) (valid a) 2 1 fun i => at_ a ((i + valid a - at_ b 0 % valid a) % valid a)) ∧
    (ReadyData s 0x53 f g → gives (.slotBcast f) n 2 1 fun _ => at_ a (at_ b 0 % n)) ∧
    (ReadyData s 0x59 f g → gives (.laneix f) n 2 1 fun i => i) ∧
    (ReadyData s 0x51 f g → let d := 2 ^ f.extra.toNat; 2 * d ≤ n → let v := min n (2 * d * ((max (valid a) (valid b) + 2 * d - 1) / (2 * d)))
      FiresWith (.bfly f) s g code 2 1 0 fun _ tag l => ∃ lo hi : Payload,
        Lanes lo u v (fun i => if i % (2 * d) < d then at_ a i else at_ b (i - d)) ∧
        Lanes hi u v (fun i => if i % (2 * d) < d then at_ a (i + d) else at_ b i) ∧
        l = [(f.dst0.toNat, { tag := tag, kind := 0, valid := two * v, width := code, payload := lo }),
             (f.dst1.toNat, { tag := tag, kind := 0, valid := two * v, width := code, payload := hi })]) ∧
    (ReadyData s 0x56 f g → isIntFmt fmt = true → LaneResult (.rsum f) s g 0 code (min (valid a) 1) 4 1 0 fun _ =>
      ((List.range (valid a)).map fun i => a.lane w i).sum % 2 ^ w) ∧
    (∀ lower : Bool, let i : Instr := if lower then .rmin f else .rmax f; ReadyData s (if lower then 0x58 else 0x57) f g → let k := valid a
      (k = 0 → LaneResult i s g 0 code 0 4 1 0 fun _ => 0) ∧
      (isIntFmt fmt = true → 0 < k → ∃ j < k, LaneResult i s g 0 code 1 4 1 0 (fun _ => a.lane w j) ∧ ∀ h < k,
        let z := fun (q : Nat) => laneInt (isSignedFmt fmt) w (a.lane w q)
        if lower then z j ≤ z h else z h ≤ z j) ∧
      (vec → 0 < k → let v := fun (q : Nat) => ff.decode (daz (a.lane w q)); let sig := fun (q : Nat) => ∃ x, v q = .nan x true
        ((∃ j < k, sig j) → LaneResult i s g 0 code 1 4 1 1 fun _ => ff.nan) ∧
        ((∀ j < k, ¬ sig j) → (∀ j < k, (v j).isNan = true) → LaneResult i s g 0 code 1 4 1 0 fun _ => ff.nan) ∧
        ((∀ j < k, ¬ sig j) → (∃ j < k, (v j).isNan = false) → ∃ j < k, (v j).isNan = false ∧
          LaneResult i s g 0 code 1 4 1 0 (fun _ => daz (a.lane w j)) ∧
          ∀ h < k, (v h).isNan = false → (if lower then belowV (v h) (v j) else belowV (v j) (v h)) = false))) ∧
    (ReadyData s 0x5A f g → vec → let lv := if fmt = 7 then 5 else 6; let k := valid a
      ∃ (v : Nat → Nat → Option Nat) (flags : Nat),
        (∀ i < 2 ^ lv, v 0 i = if i < k then some (daz (a.lane w i)) else none) ∧
        (∀ h i, v (h + 1) i = match v h (2 * i), v h (2 * i + 1) with
          | some x, some y => some (fAddV ff rm ftz (ff.decode x) (ff.decode y)).bits
          | some x, none => some x
          | none, y => y) ∧
        (∀ j, flags.testBit j = true ↔ (∃ h i x y, h < lv ∧ i < 2 ^ (lv - 1 - h) ∧ v h (2 * i) = some x ∧ v h (2 * i + 1) = some y ∧
          (fAddV ff rm ftz (ff.decode x) (ff.decode y)).flags.testBit j = true) ∨ j = 0 ∧ ∃ i < k, ∃ n, ff.decode (a.lane w i) = .nan n true) ∧
        LaneResult (.frsum f) s g 0 code (min k 1) (4 * lv) 1 flags fun _ =>
          (if (ff.decode ((v lv 0).getD 0)).isNan = true ∧ k ≠ 0 then ff.nan else (v lv 0).getD 0) % 2 ^ w)) ∧
  (∀ (s : State) (f : SlotFields) (g : Firing) (up : Bool) (t : Token), let i : Instr := if up then .join f else .split f
    Ready s (if up then 0x54 else 0x55) f g → f.srcA.toNat ≤ 2 → (s.srcA g).tok = some t → t.width = g.width →
    let k := (f.ext.extractLsb' 0 3).toNat; let c := ((Table.getD (s.elem g.e).active.lits 7 0).extractLsb' 0 12).toNat; let p := s.elemPart g.e
    let legal := fun (w : Nat) => w ≤ 5 ∧ s.colourTenant p c = some (s.elem g.e).owner ∧ s.colourWidth p c = some w
    (∀ w, (if up then w = g.width + k else w + k = g.width) → legal w → FiresWith i s g w 2 1 0 fun _ tag l => ∃ y : Token,
      y = { tag := setTagColour tag c, kind := if t.kind = 2 then 2 else 0, width := w, payload := t.payload, valid := if up then (t.valid + 2 ^ k - 1) / 2 ^ k else t.valid * 2 ^ k } ∧
      l = [(f.dst0.toNat, y), (f.dst1.toNat, y)]) ∧
    ((∀ w, (if up then w = g.width + k else w + k = g.width) → ¬ legal w) → exec i s = s.fault g 0x08 f.srcA.toNat))

/-- R159, R160: the modular opcodes. -/
def Obligations.ModularSlotsReduceExactly : Prop :=
  let ops : List (Nat × (SlotFields → Instr) × Nat × ((a b c : Int) → Int) × ((a b c : Int) → Int)) :=
    [(0x60, .madd, 2, fun a b _ => a + b, fun a b _ => a + b), (0x61, .msub, 2, fun a b _ => a - b, fun a b _ => a - b),
     (0x62, .mmul, 6, fun a b _ => a * b, fun a b _ => a * b), (0x63, .mmac, 6, fun a b c => a * b + c, fun a b c => a * b + c),
     (0x64, .mct, 6, fun a b c => a + c * b, fun a b c => a - c * b), (0x65, .mgs, 6, fun a b _ => a + b, fun a b c => (a - b) * c),
     (0x66, .mred, 4, fun a _ _ => a, fun a _ _ => a), (0x67, .mneg, 2, fun a _ _ => -a, fun a _ _ => -a)]
  ∀ o ∈ ops, ∀ (s : State) (f : SlotFields) (g : Firing), ReadyData s o.1 f g → fmtOf f = 0x17 → modeOf f ≤ 1 →
    let n := (g.operands.map fun t => t.token.valid / 2).foldl min 16
    let q := fun (i : Nat) => Table.getD (s.elem g.e).modq (((f.ext.extractLsb' 0 4).toNat + if modeOf f = 1 then i else 0) % 16) 0
    let pair := fun (x : Src) (i : Nat) => x.lane 64 i
    (∀ i < n, q i = 0 → (∀ j < i, q j ≠ 0) → exec (o.2.1 f) s = s.faultOp g 0x0C 0 (BitVec.ofNat 64 (pair (s.srcA g) i))) ∧
    ((∀ i < n, q i ≠ 0) → FiresWith (o.2.1 f) s g 5 o.2.2.1 1 0 fun _ tag l => ∃ p0 p1 : Payload,
      let value := fun (h : (a b c : Int) → Int) (i : Nat) => (h (pair (s.srcA g) i) (pair (s.srcB g) i) (pair (s.srcC g) i) % (q i : Int)).toNat % 2 ^ 64
      Lanes p0 64 n (value o.2.2.2.1) ∧ Lanes p1 64 n (value o.2.2.2.2) ∧
      l = [(f.dst0.toNat, { tag := tag, kind := 0, valid := 2 * n, width := 5, payload := p0 }),
           (f.dst1.toNat, { tag := tag, kind := 0, valid := 2 * n, width := 5, payload := p1 })])

/-- R127: the forwarding opcodes. -/
def Obligations.ForwardingSlotsCompute : Prop :=
  ∀ (s : State) (f : SlotFields) (g : Firing), let d0 := f.dst0.toNat; let d1 := f.dst1.toNat; let lw := 2 ^ g.width
    let whole := fun (x : Src) (y : Token) => x.stands g.tag g.width y
    let eos := fun (x : Src) => ∃ t, x.tok = some t ∧ t.kind = 2
    let sends := fun (i : Instr) (y : Token) (ds : List Nat) => FiresWith i s g y.width 2 1 0 fun _ tag l => l = ds.map fun d => (d, { y with tag := tag })
    let none_ := fun (i : Instr) => exec i s = .next (s.endFiring g g.toks [] 2 1 0)
    let a := s.srcA g; let b := s.srcB g; let c := s.srcC g
    g.width ≤ 5 →
    (Ready s 0x01 f g → ∃ y, whole a y ∧ sends (.copy f) y [d0, d1]) ∧
    (Ready s 0x02 f g → (eos b → exec (.steer f) s = s.fault g 0x08 f.srcB.toNat) ∧
      (¬ eos b → ∃ y, whole a y ∧ sends (.steer f) y [if b.lane lw 0 ≠ 0 then d0 else d1])) ∧
    (Ready s 0x04 f g → let passes := ∃ t, c.tok = some t ∧ t.kind ≠ 2 ∧ t.lane 0 ≠ 0
      (passes → ∃ y, whole a y ∧ sends (.gate f) y [d0, d1]) ∧ (¬ passes → none_ (.gate f))) ∧
    (Ready s 0x05 f g → none_ (.sink f)) ∧
    (∀ (i : Instr) (v : Nat), (i = .const f ∧ v = b.val ∧ Ready s 0x06 f g) ∨
        (i = .tagix f ∧ Ready s 0x0B f g ∧ let n := (f.ext.extractLsb' 0 3).toNat
          v = if n < 6 then (g.tag.extractLsb' (40 - 8 * n) 8).toNat else if n = 6 then (g.tag.extractLsb' 48 4).toNat else (g.tag.extractLsb' 52 12).toNat) →
      (eos a → sends i { tag := g.tag, kind := 2, valid := 0, width := g.width, payload := 0 } [d0, d1]) ∧
      (¬ eos a → ∃ p : Payload, Lanes p lw (1024 / lw) (fun _ => v % 2 ^ lw) ∧
        sends i { tag := g.tag, kind := 0, valid := 1024 / lw, width := g.width, payload := p } [d0, d1])) ∧
    (Ready s 0x0D f g → ∀ t, a.tok = some t → sends (.eos f) { tag := g.tag, kind := 2, valid := 0, width := t.width, payload := 0 } [d0, d1]) ∧
    (let e := s.focus.elem; let x := s.elem e; let k := s.focus.slot; let old := fun (p : Nat) => oldestAt x k p (some s.focus.tag)
      let took := fun (t : StoreTok) => g = { e := e, slot := k, op := 3, f := f, tag := t.token.tag, toks := [t] } →
        (t.token.kind = 5 → exec (.merge f) s = s.fault g 0x08 t.pos) ∧ (t.token.kind ≠ 5 → sends (.merge f) t.token [d0, d1])
      (old 0 = none → old 1 = none → exec (.merge f) s = .refused .notEnabled) ∧
      (∀ t, old 0 = some t → (∀ u, old 1 = some u → t.stamp ≤ u.stamp) → took t) ∧
      (∀ u, old 1 = some u → (∀ t, old 0 = some t → u.stamp < t.stamp) → took u))

/-- R128 to R133, R237: the dataflow opcodes that keep state. The kind of the token that COMB releases is the model's choice (log entry 128). -/
def Obligations.StatefulSlotsCompute : Prop :=
  let depth := fun (t : Tag) => (t.extractLsb' 48 4).toNat; let field := fun (t : Tag) (k : Nat) => t.extractLsb' (40 - 8 * k) 8
  (∀ (t : Tag) (v : Nat), depth t < 6 → let u := tagPush t v
    depth u = depth t + 1 ∧ u.extractLsb' 52 12 = t.extractLsb' 52 12 ∧ ∀ k < 6, field u k = if k = depth t then BitVec.ofNat 8 v else field t k) ∧
  (∀ (s : State) (f : SlotFields) (g : Firing), let d0 := f.dst0.toNat; let d1 := f.dst1.toNat; let e := g.e; let x := s.elem e; let a := s.srcA g
    let b := s.srcB g; let eos := fun (q : Src) => ∃ t, q.tok = some t ∧ t.kind = 2
    g.width ≤ 5 →
    (Ready s 0x07 f g →
      (depth g.tag = 6 → exec (.iter f) s = s.fault g 0x08 (State.tagPos g)) ∧
      (depth g.tag ≠ 6 → ∀ n, (eos a ∨ eos b → n = 0) → (¬(eos a ∨ eos b) → n = b.lane (2 ^ g.width) 0) →
        (256 < n → ∃ p, exec (.iter f) s = s.fault g 0x08 p) ∧
        (n ≤ 256 → ∃ y, a.stands g.tag g.width y ∧ let it : IterSt := { slot := g.slot, tag := g.tag, k := 0, n := n, token := y, at_ := s.cycle }
          exec (.iter f) s = .next ((s.setElem e { x with iter := some it }).endFiring g g.toks [] 2 1 0)))) ∧
    (Ready s 0x08 f g → fmtOf f = 1 ∨ fmtOf f = 3 ∨ fmtOf f = 5 → modeOf f ≤ 1 → let code := fmtCode f
      (∀ t ∈ g.checked, t.token.width = code) → ∃ y, a.stands g.tag code y ∧ FiresWith (.count f) s g code 2 1 0 fun _ tag l => ∃ p : Payload,
        Lanes p (2 ^ code) 1 (fun _ => (BitVec.ofInt (2 ^ code) (if modeOf f = 0 then f.ext.toInt else y.valid * f.ext.toInt)).toNat) ∧
        l = [(d0, { y with tag := tag }), (d1, { tag := tag, kind := 0, valid := 1, width := code, payload := p })]) ∧
    (Ready s 0x0A f g →
      (depth g.tag = 0 → exec (.reap f) s = s.fault g 0x08 (State.tagPos g)) ∧
      (depth g.tag ≠ 0 → ∃ y, a.stands g.tag g.width y ∧
        (∀ c, s.resultTag g y.width = .error c → exec (.reap f) s = s.fault g c (State.tagPos g)) ∧
        ∀ r, s.resultTag g y.width = .ok r → ∃ u, exec (.reap f) s = .next (u.endFiring g g.toks [(d0, { y with tag := r.2 })] 2 1 0) ∧
          (f.extra = 0 → u = r.1) ∧
          (f.extra ≠ 0 → { u with flights := s.flights, flightNext := s.flightNext, fields := s.fields, parts := s.parts } =
              { r.1 with flights := s.flights, flightNext := s.flightNext, fields := s.fields, parts := s.parts } ∧
            ∀ d ∈ planeElems (s.planeAt e), (s.elem d).active.bed = x.active.bed → ∃ k h, Table.find? u.flights k = some h ∧ s.flightNext ≤ k ∧
              h.src = e ∧ h.bound = .elem d 0 3 ∧ h.at_ = s.cycle + State.hops e (.elem d 0 3) + 3 ∧ h.token.kind = 4 ∧
              h.token.tag = tagPush (tagOuter g.tag) (tagIx g.tag) ∧ h.token.payload = BitVec.ofNat 1024 f.extra.toNat))) ∧
    (Ready s 0x0E f g → ∃ y, a.stands g.tag g.width y ∧
      (∀ c, s.resultTag g y.width = .error c → exec (.mail f) s = s.fault g c (State.tagPos g)) ∧
      ∀ r, s.resultTag g y.width = .ok r → ∃ t u, exec (.mail f) s = .next t ∧ u = r.1.endFiring g g.toks [] 2 1 0 ∧ SlotFrame s t e ∧
        t.flights = s.flights ∧ (t.elem e).store = (u.elem e).store ∧
        (t.elem e).outq = x.outq ++ [{ dst := 48, token := { y with tag := r.2, kind := 6 }, readyAt := s.cycle + 2, slot := g.slot, issued := s.cycle }]) ∧
    (Ready s 0x0F f g → (∀ q, Table.find? x.pend g.slot = some q → exec (.ord f) s = .refused .notEnabled) ∧
      (Table.find? x.pend g.slot = none → (∀ c, s.resultTag g g.width = .error c → exec (.ord f) s = s.fault g c (State.tagPos g)) ∧
        ∀ r, s.resultTag g g.width = .ok r → ∃ t, exec (.ord f) s = .next t ∧ SlotFrame s t e ∧ t.flights = s.flights ∧
          TakenFrom x.store g.toks (t.elem e).store ∧ (t.elem e).outq = x.outq ∧ (t.elem e).scaleq = x.scaleq ∧
          let q : PendSt := { tag := r.2, width := g.width, isOrd := true, value := none, at_ := max s.cycle x.memDone + 2, issued := s.cycle }
          ∀ k, Table.find? (t.elem e).pend k = if k = g.slot then some q else Table.find? x.pend k))) ∧
  (∀ (s : State) (f : SlotFields), let e := s.focus.elem; let k := s.focus.slot; let x := s.elem e; let tag := s.focus.tag; let d0 := f.dst0.toNat
    let d1 := f.dst1.toNat
    (
      let full := x.combs.find? fun c => c.slot == k && c.tag == tag && decide (f.ext.toNat ≤ c.taken)
      (full = none → exec (.comb f) s = .refused .notEnabled) ∧
      ∀ c, full = some c → let g : Firing := { e := e, slot := c.slot, op := 9, f := f, tag := c.tag, toks := [] }
        (∀ q, s.resultTag g c.width = .error q → exec (.comb f) s = s.fault g q (State.tagPos g)) ∧
        ∀ r, s.resultTag g c.width = .ok r → ∃ t y, exec (.comb f) s = .next t ∧ SlotFrame s t e ∧ (t.elem e).store = x.store ∧
          (t.elem e).combs = x.combs.erase c ∧ (r.1.endFiring g [] [(d0, y), (d1, y)] 2 1 0).sentAs t e ∧
          y.tag = r.2 ∧ y.width = c.width ∧ (c.allEos = true → y.kind = 2 ∧ y.valid = 0 ∧ y.payload = 0) ∧
          (c.allEos = false → y.kind = 0 ∧ y.valid = c.valid ∧ y.payload = BitVec.ofNat 1024 (c.payload % 2 ^ (2 ^ c.width * c.valid)))) ∧
    (
      let key := tagOuter tag; let j := tagIx tag; let old := fun (p : Nat) => oldestAt x k p (some tag)
      let g := fun (t : StoreTok) => ({ e := e, slot := k, op := 0x0C, f := f, tag := t.token.tag, toks := [t] } : Firing)
      let arc := ∃ t, (old 0 = some t ∨ old 1 = some t) ∧ t.token.kind = 5
      (arc → ∃ t, (old 0 = some t ∨ old 1 = some t) ∧ t.token.kind = 5 ∧ exec (.loop f) s = s.fault (g t) 0x08 t.pos) ∧ (¬ arc →
      (depth tag = 0 → ∀ t, old 0 = some t ∨ (old 0 = none ∧ old 1 = some t) → exec (.loop f) s = s.fault (g t) 0x08 t.pos) ∧
      (depth tag ≠ 0 → loopEntry x k key = none → exec (.loop f) s = .refused .notEnabled) ∧
      ∀ l, loopEntry x k key = some l → depth tag ≠ 0 → (∀ m ∈ x.loops, m.slot = k → m.key = key → m = l) →
        let admits := fun (t : StoreTok) => old 0 = some t ∧ j = l.x ∧ (j + 256 - l.i) % 256 < f.extra.toNat + 1
        let finishes := fun (t : StoreTok) => old 1 = some t ∧ j = l.i
        let after := fun (t : State) (took : StoreTok) (m : LoopSt) => SlotFrame s t e ∧ TakenFrom x.store [took] (t.elem e).store ∧
          (t.elem e).loops = (if m.i = m.x ∧ (∀ y ∈ (t.elem e).store, y.slot = k → tagOuter y.token.tag ≠ key) ∧ loopSpilled s e k key = false
            then x.loops.filter (fun y => y != l) else x.loops.map fun y => if y = l then m else y)
        ((∀ t, ¬ admits t ∧ ¬ finishes t) → exec (.loop f) s = .refused .notEnabled) ∧
        (∀ t, admits t → (∀ u, finishes u → t.stamp ≤ u.stamp) →
          (∀ c, s.resultTag (g t) t.token.width = .error c → exec (.loop f) s = s.fault (g t) c (State.tagPos (g t))) ∧
          (∀ r, s.resultTag (g t) t.token.width = .ok r → ∃ u, exec (.loop f) s = .next u ∧
            after u t { l with x := (l.x + 1) % 256 } ∧ let y := { t.token with tag := r.2 }
            (r.1.endFiring (g t) [t] [(d0, y), (d1, y)] 2 1 0).sentAs u e)) ∧
        ∀ t, finishes t → (∀ u, admits u → t.stamp < u.stamp) →
          ∃ u, exec (.loop f) s = .next u ∧ after u t { l with i := (l.i + 1) % 256 } ∧ s.sentAs u e)) ∧
  (∀ (s : State) (op : Nat) (i : Instr) (f : SlotFields), let e := s.focus.elem; let x := s.elem e
    (∀ it, x.iter = some it → x.active.slotAt it.slot = some (op, i, f) → (s.iterDue e = false → exec .iterEmit s = .refused .notEnabled) ∧
      (s.iterDue e = true → ∃ t, exec .iterEmit s = .next t ∧ SlotFrame s t e ∧
        let y : Token := if it.k < it.n then { it.token with tag := tagPush it.tag (it.k % 256) }
          else { tag := tagPush it.tag (it.n % 256), kind := 2, valid := 0, width := it.token.width, payload := 0 }
        (s.send e it.slot (if it.k < it.n then f.dst0.toNat else f.dst1.toNat) y (s.cycle + 2)).sentAs t e ∧
        (it.k < it.n → (t.elem e).iter = some { it with k := it.k + 1, at_ := s.cycle + 1 } ∧ (t.elem e).vcFree = x.vcFree) ∧
        (it.n ≤ it.k → (t.elem e).iter = none ∧ (t.elem e).vcFree = s.cycle + 1))) ∧
    (∀ p, let k := s.focus.slot; Table.find? x.pend k = some p → x.active.slotAt k = some (op, i, f) →
      (s.ordDue e k = false → exec .ordArcSend s = .refused .notEnabled) ∧
      (s.ordDue e k = true → ∃ t, exec .ordArcSend s = .next t ∧ SlotFrame s t e ∧ (∀ j, Table.find? (t.elem e).pend j = if j = k then none else Table.find? x.pend j) ∧
        let y : Token := { tag := p.tag, kind := 5, valid := 0, width := p.width, payload := 0 }; let at_ := max p.at_ s.cycle
        ((s.send e k f.dst0.toNat y at_).send e k f.dst1.toNat y at_).sentAs t e))))

/-- R149 to R158: the matrix port. -/
def Obligations.MatrixSlotsAccumulate : Prop :=
  let num := fun (n : Bool) (m : Nat) (e : Int) => (if n then -1 else 1) * (m : ℚ) * 2 ^ e
  let depth := fun (t : Tag) => (t.extractLsb' 48 4).toNat
  let cells := fun (q : AccSt) (c : Nat) => Table.getD q.cells c 0
  (∀ (fmt fpc : Nat) (a b : Token) (i n : Nat), let w := 2 ^ matrixWidth fmt
    let va := fun (k : Nat) => matrixValue fmt fpc (bits a.payload.toNat (w * (32 * k + i)) w); let vb := fun (k : Nat) => matrixValue fmt fpc (bits b.payload.toNat (w * (32 * k + n)) w)
    let on := fun (k : Nat) => decide (32 * k + i < a.valid) && decide (32 * k + n < b.valid)
    ∀ (ra rb : Nat → ℚ), (∀ k < 32 / w, on k = true → (∃ x y z, va k = .fin x y z ∧ num x y z = ra k) ∧ ∃ x y z, vb k = .fin x y z ∧ num x y z = rb k) →
      ∃ x y z, cellProducts fmt fpc a b i n = (.fin x y z, 0) ∧
        num x y z = ((List.range (32 / w)).map fun k => if on k = true then ra k * rb k else 0).sum) ∧
  (∀ (acc : Nat) (v : FVal) (fl : Nat), let r := fAddV fmtF32 .rne false (fmtF32.decode acc) v; let q := accumulate acc (v, fl)
    let tiny := r.bits / 2 ^ 23 % 256 = 0 ∧ r.bits % 2 ^ 23 ≠ 0
    q.bits = (if tiny then r.bits / 2 ^ 31 * 2 ^ 31 else r.bits) ∧ (q.flags.testBit 5 = true ↔ tiny) ∧
      (q.flags.testBit 0 = true ↔ r.flags.testBit 0 = true ∨ fl.testBit 0 = true) ∧ (q.flags.testBit 2 = true ↔ r.flags.testBit 2 = true ∨ fl.testBit 2 = true) ∧
      q.flags.testBit 4 = false ∧ q.flags.testBit 3 = false ∧ q.flags.testBit 1 = false) ∧
  (∀ (s : State) (f : SlotFields) (scaled : Bool) (a b : StoreTok) (c : Option StoreTok), let e := s.focus.elem; let x := s.elem e; let k := s.focus.slot
    let i : Instr := if scaled then .mmas f else .mma f; let fmt := fmtOf f; let rho := if fmt = 0x0E then 1 else 8
    let n := (f.ext.extractLsb' 0 8).toNat + 1; let m := (f.extra.extractLsb' 0 1).toNat; let tag := s.focus.tag; let ix := tagIx tag
    let g : Firing := { e := e, slot := k, op := if scaled then 0x71 else 0x70, f := f, tag := tag, toks := [a, b] ++ c.toList }
    oldestAt x k 0 (some tag) = some a → oldestAt x k 1 (some tag) = some b → a.token.kind ≠ 5 → b.token.kind ≠ 5 →
    (scaled = true → ∃ t, c = some t ∧ scaleTok x k (setTagIx tag (ix / rho)) = some t) →
    (scaled = false → c = none ∧ slotPositions 0x70 f = [0, 1] ∧ f.action.toNat ≠ 8 ∧ f.qual.getLsbD 7 = false) →
    let acc := s.acc e m; let w := matrixWidth fmt; let eosA := a.token.kind = 2; let eosB := b.token.kind = 2
    let beyond := n ≤ ix ∨ (depth tag = 0 ∧ 1 < n); let waits := modeOf f = 0 ∧ ix ≠ acc.next ∧ ¬ beyond ∧ ¬ eosA ∧ ¬ eosB
    let sends := [(f.dst0.toNat, a.token), (f.dst1.toNat, b.token)]
    (waits → exec i s = .refused .notEnabled) ∧
    (¬ waits → (a.token.width ≠ w → exec i s = s.fault g 0x08 0) ∧ (a.token.width = w → b.token.width ≠ w → exec i s = s.fault g 0x08 1) ∧
      (a.token.width = w → b.token.width = w →
        (eosA → eosB → exec i s = .next (s.endFiring g [a, b] sends 2 1 0)) ∧
        (eosA → ¬ eosB → exec i s = s.fault g 0x08 0) ∧ (¬ eosA → eosB → exec i s = s.fault g 0x08 1)) ∧
      (¬ eosA → ¬ eosB → a.token.width = w → b.token.width = w → beyond → exec i s = s.fault g 0x08 (State.tagPos g)) ∧
      (¬ eosA → ¬ eosB → a.token.width = w → b.token.width = w → ¬ beyond → let fpc := if acc.sampled then acc.fpc else x.active.fpc
        let code := fun (j : Nat) => match c with | some t => (t.token.payload.extractLsb' (8 * j) 8).toNat | none => 0
        let scale := fun (j : Nat) => if fmt = 0x0E then fmtE5m2.decode (code j) else decodeE8m0 (code j)
        let sum := fun (r q : Nat) => let p := cellProducts fmt fpc a.token b.token r q; if scaled then scaleBlock p (scale r) (scale (32 + q)) else p
        let cell := fun (j : Nat) => accumulate (cells acc j) (sum (j / 32) (j % 32))
        ∃ (t : State) (flags : Nat), exec i s = .next t ∧ SlotFrame s t e ∧ (∀ j, flags.testBit j = true ↔ ∃ q < 1024, (cell q).flags.testBit j = true) ∧
          let last := ix % rho = rho - 1 ∨ ix = n - 1
          let u := s.endFiring g ([a, b] ++ if scaled = false ∨ last then c.toList else []) sends 2 1 flags
          u.sentAs t e ∧ (t.elem e).store = (u.elem e).store ∧ (∀ h, s.cycle ≤ h → (t.elem e).fpfAt h = x.fpfAt h ||| (if s.cycle + 8 ≤ h then flags else 0)) ∧ (t.elem e).mmaFree = s.cycle + 4 ∧ (t.elem e).mxFree = s.cycle + 1 ∧
          (∀ j, j ≠ m → t.acc e j = s.acc e j) ∧ (∀ j < 1024, cells (t.acc e m) j = (cell j).bits) ∧ (t.acc e m).sampled = true ∧
          (t.acc e m).fpc = fpc ∧ (t.acc e m).appliedAt = s.cycle + 8 ∧ (t.acc e m).next = if modeOf f = 0 then (ix + 1) % n else acc.next))) ∧
  (∀ (s : State) (f : SlotFields) (g : Firing), let m := (f.extra.extractLsb' 0 1).toNat; let e := g.e; let x := s.elem e; let acc := s.acc e m
    let code := (fmtWidth (fmtOf f)).getD 5
    (Ready s 0x72 f g → (∀ t ∈ g.checked, t.token.width = code) →
      (depth g.tag = 6 → exec (.accrd f) s = s.fault g 0x08 (State.tagPos g)) ∧
      (depth g.tag ≠ 6 → let r : AccrdSt := { slot := g.slot, tag := g.tag, row := 0, fpc := if acc.sampled then acc.fpc else x.active.fpc,
                                              scale := if f.srcB.toNat < 8 then none else some (s.srcB g).val, fmt := fmtOf f, acc := m,
                                              clear := f.qual.getLsbD 5, at_ := max (s.cycle + 4) acc.appliedAt }
        exec (.accrd f) s = .next ((s.setElem e { x with accrd := some r }).endFiring g g.toks [] 4 1 0))) ∧
    (Ready s 0x73 f g → g.width ≤ 5 → ∃ y, (s.srcA g).stands g.tag g.width y ∧
      (∀ c, s.resultTag g y.width = .error c → exec (.accclr f) s = s.fault g c (State.tagPos g)) ∧
      ∀ r, s.resultTag g y.width = .ok r → ∃ t, exec (.accclr f) s = .next t ∧ SlotFrame s t e ∧ let both := f.extra.getLsbD 1
        let late := if both then max (s.acc e 0).appliedAt (s.acc e 1).appliedAt else acc.appliedAt; let hold := max 1 (late - s.cycle)
        (r.1.endFiring g g.toks [(f.dst0.toNat, { y with tag := r.2 }), (f.dst1.toNat, { y with tag := r.2 })] (max 2 hold) hold 0).sentAs t e ∧
        ∀ j, j ≤ 1 → t.acc e j = if both = true ∨ j = m then {} else s.acc e j)) ∧
  (∀ (s : State) (op : Nat) (i : Instr) (f : SlotFields) (r : AccrdSt), let e := s.focus.elem; let x := s.elem e; let acc := s.acc e r.acc
    x.accrd = some r → x.active.slotAt r.slot = some (op, i, f) →
    (s.accrdDue e = false → exec .accrdRow s = .refused .notEnabled) ∧
    (s.accrdDue e = true → ∃ (t : State) (y : Token), exec .accrdRow s = .next t ∧ SlotFrame s t e ∧
      (s.send e r.slot (if r.row < 32 then f.dst0.toNat else f.dst1.toNat) y s.cycle).sentAs t e ∧ y.width = (fmtWidth r.fmt).getD 5 ∧
      (r.row < 32 → y.tag = tagPush r.tag r.row ∧ y.kind = 0 ∧ y.valid = 32 ∧ let w := 2 ^ y.width
        Lanes y.payload w 32 (fun n => (accLane r (cells acc (32 * r.row + n))).bits % 2 ^ w) ∧
        (∀ h, s.cycle ≤ h → ∀ j, ((t.elem e).fpfAt h).testBit j = true ↔ (x.fpfAt h).testBit j = true ∨ ∃ n < 32, (accLane r (cells acc (32 * r.row + n))).flags.testBit j = true) ∧
        (t.elem e).accrd = some { r with row := r.row + 1, at_ := s.cycle + 1 } ∧ (t.elem e).accs = x.accs) ∧
      (32 ≤ r.row → y.tag = tagPush r.tag 32 ∧ y.kind = 2 ∧ y.valid = 0 ∧ (t.elem e).accrd = none ∧ (t.elem e).mxFree = s.cycle + 1 ∧
        t.acc e r.acc = if r.clear then {} else acc))) ∧
  (∀ (s : State) (f : SlotFields) (g : Firing), let e := g.e; let x := s.elem e; let ix := tagIx g.tag; let tile := ix / 32; let row := ix % 32
    let win := s.scratchWin e
    let off := 128 * (f.ext.extractLsb' 0 12).toNat + 4096 * (tile % 2); let at_ := scratchBase e + win.1 + off; let room := off + 4096 ≤ win.2
    let key := 2 * g.slot + tile % 2; let own := (Table.find? x.cturn key).filter fun c => c.key == tagOuter g.tag && c.tile == tile
    ∀ y, Ready s 0x74 f g → (s.srcA g).tok = some y → y.width ≤ 5 →
      (depth g.tag = 0 → exec (.cturn f) s = s.fault g 0x08 (State.tagPos g)) ∧
      (depth g.tag ≠ 0 → cturnOpen x g = false → exec (.cturn f) s = .refused .notEnabled) ∧
      (depth g.tag ≠ 0 → cturnOpen x g = true →
        (y.kind = 2 → own = none → ∃ t, exec (.cturn f) s = .next t ∧ SlotFrame s t e ∧ TakenFrom x.store g.toks (t.elem e).store ∧
          (s.endFiring g g.toks [(f.dst0.toNat, y), (f.dst1.toNat, y)] 2 1 0).sentAs t e ∧
          (t.elem e).cturn = x.cturn.filter fun q => q.1 / 2 != g.slot || q.2.key != tagOuter g.tag) ∧
        (y.kind = 2 → ∀ c, own = some c → ∃ t, exec (.cturn f) s = .next t ∧ SlotFrame s t e ∧ s.sentAs t e ∧
          TakenFrom x.store g.toks (t.elem e).store ∧
          Table.find? (t.elem e).cturn key = some { c with emitting := true, at_ := if c.emitting then c.at_ else s.cycle, eos := some y }) ∧
        (y.kind ≠ 2 → ¬ room → exec (.cturn f) s = s.fault g 0x06 (State.firstPos g)) ∧
        (y.kind ≠ 2 → room → ∃ t c, exec (.cturn f) s = .next t ∧ t.threads = s.threads ∧ (∀ d, d ≠ e → t.elem d = s.elem d) ∧ s.sentAs t e ∧
          TakenFrom x.store g.toks (t.elem e).store ∧ (t.elem e).spFree = max x.spFree s.cycle + 1 ∧
          Memory.read t.mem (at_ + 128 * row) 128 = y.payload.toNat % 2 ^ (2 ^ y.width * y.valid) ∧ s.sameBytesBut t (at_ + 128 * row) 128 ∧
          Table.find? (t.elem e).cturn key = some c ∧ c.key = (own.map (·.key)).getD (tagOuter g.tag) ∧ c.tile = tile ∧
          c.rows = ((own.map (·.rows)).getD 0 ||| 2 ^ row) ∧ (c.emitting = true ↔ c.rows = 2 ^ 32 - 1) ∧ (own = none → c.next = 0 ∧ c.width = y.width)))) ∧
  (∀ (s : State) (op : Nat) (i : Instr) (f : SlotFields) (c : CturnSt), let e := s.focus.elem; let x := s.elem e; let k := s.focus.index
    let at_ := scratchBase e + (s.scratchWin e).1 +
      128 * (f.ext.extractLsb' 0 12).toNat + 4096 * (c.tile % 2)
    Table.find? x.cturn k = some c → x.active.slotAt c.slot = some (op, i, f) →
    (s.cturnDue e k = false → exec .cturnEmit s = .refused .notEnabled) ∧
    (s.cturnDue e k = true → c.next < 32 → c.spoiled = [] → c.width ≤ 5 → ∃ (t : State) (y : Token), exec .cturnEmit s = .next t ∧ SlotFrame s t e ∧
      (let w := 2 ^ c.width; let n := 1024 / w; y.tag = tagPush c.key (32 * c.tile + c.next) ∧ y.kind = 0 ∧ y.valid = n ∧ y.width = c.width ∧
        Lanes y.payload w n fun j => if c.rows.testBit (j % 32) then
          Memory.read s.mem (at_ + 128 * (j % 32)) 128 / 2 ^ (w * (c.next * (n / 32) + j / 32)) % 2 ^ w else 0) ∧
      ((s.send e c.slot f.dst0.toNat y (s.cycle + 1)).send e c.slot f.dst1.toNat y (s.cycle + 1)).sentAs t e ∧ (t.elem e).spFree = s.cycle + 1 ∧
      Table.find? (t.elem e).cturn k = if c.next = 31 ∧ c.eos = none then none else some { c with next := c.next + 1 }) ∧
    (s.cturnDue e k = true → 32 ≤ c.next → ∀ y, c.eos = some y → ∃ t, exec .cturnEmit s = .next t ∧ SlotFrame s t e ∧
      ((s.send e c.slot f.dst0.toNat y (s.cycle + 1)).send e c.slot f.dst1.toNat y (s.cycle + 1)).sentAs t e ∧
      (t.elem e).cturn = x.cturn.filter fun q => q.1 / 2 != c.slot || q.2.key != c.key || (q.1 != k && q.2.emitting)))

/-- R232 to R238: slot memory operations. -/
def Obligations.SlotMemoryOperationsCompute : Prop :=
  ∀ (s : State) (f : SlotFields) (g : Firing), let e := g.e; let x := s.elem e; let a := s.srcA g; let b := s.srcB g
    let win := s.scratchWin e; let base := 8 * f.ext.toNat; let org := scratchBase e + win.1
    let bound := fun (i : Instr) => exec i s = s.fault g 0x06 (State.firstPos g)
    let poison := fun (i : Instr) => ∃ v, exec i s = s.faultOp g 0x11 (State.firstPos g) v
    let fp := fun (op : AtomOp) (w : Nat) (high : Bool) (m v c : Nat) => let r := atomic op w m v c
      ({ r with new := if high then m / 2 ^ 32 * 2 ^ 32 + r.new % 2 ^ 32 else r.new, ret := if high then m / 2 ^ 32 * 2 ^ 32 + r.ret % 2 ^ 32 else r.ret } : AtomRes)
    let lit := (Table.getD x.active.lits (f.extra.extractLsb' 4 3).toNat 0).toNat
    (∀ store : Bool, let i : Instr := if store then .sts f else .lds f; let w := 2 ^ fmtCode f; let e1 := w / 8; let n := State.minValid g (1024 / w)
      let off := fun (j : Nat) => base + a.lane w j * e1; let k := (((List.range n).flatMap fun j => [off j / 128, (off j + e1 - 1) / 128]).dedup).length
      ReadyData s (if store then 0x81 else 0x80) f g → w = 8 ∨ w = 16 ∨ w = 32 →
      ((∃ j < n, win.2 < off j + e1) → bound i) ∧
      ((∀ j < n, off j + e1 ≤ win.2) → (∃ j < n, ¬ s.soundAt (org + off j) e1) → poison i) ∧
      ((∀ j < n, off j + e1 ≤ win.2) → (∀ j < n, s.soundAt (org + off j) e1) →
        (store = false → MemFires i s g 0 (fmtCode f) n w n (3 + k) 0 (fun j => Memory.read s.mem (org + off j) e1) fun u =>
          s.portTaken u e k (3 + k) ∧ { u with elems := s.elems } = s) ∧
        (store = true → MemFires i s g 5 (fmtCode f) 0 1 0 (3 + k) 0 (fun _ => 0) fun u =>
          s.portTaken u e k (3 + k) ∧ { u with elems := s.elems, mem := s.mem } = s ∧
          (∀ z, (∀ j < n, z < org + off j ∨ org + off j + e1 ≤ z) → Memory.get u.mem z = Memory.get s.mem z) ∧
          ∀ j < n, (∀ h, j < h → h < n → a.lane w h ≠ a.lane w j) → Memory.read u.mem (org + off j) e1 = b.lane w j))) ∧
    (ReadyData s 0x82 f g → g.width ≤ 5 → fmtOf f = 0 → let off := base + 128 * a.lane (2 ^ g.width) 0
      (win.2 < off + 128 → bound (.ldsv f)) ∧ (off + 128 ≤ win.2 → ¬ s.soundAt (org + off) 128 → poison (.ldsv f)) ∧
      (off + 128 ≤ win.2 → s.soundAt (org + off) 128 → MemFires (.ldsv f) s g 0 g.width (1024 / 2 ^ g.width) 1024 1 4 0
        (fun _ => Memory.read s.mem (org + off) 128) fun u => s.portTaken u e 1 4 ∧ { u with elems := s.elems } = s)) ∧
    (ReadyData s 0x83 f g → g.width ≤ 5 → fmtOf f = 0 → ∀ y, b.stands g.tag g.width y → y.width ≤ 5 → let off := base + 128 * a.lane (2 ^ g.width) 0
      let nb := 2 ^ y.width * y.valid
      (win.2 < off + 128 → bound (.stsv f)) ∧
      (off + 128 ≤ win.2 → s.soundAt (org + off) 128 → nb ≤ 1024 → MemFires (.stsv f) s g 5 g.width 0 1 0 4 0 (fun _ => 0) fun u =>
        s.portTaken u e 1 4 ∧ { u with elems := s.elems, mem := s.mem } = s ∧ s.sameBytesBut u (org + off) 128 ∧
        ∀ j < 1024, (Memory.read u.mem (org + off) 128).testBit j =
          if j < nb then y.payload.getLsbD j else (Memory.read s.mem (org + off) 128).testBit j)) ∧
    (∀ op, atomOfCode (f.extra.extractLsb' 0 4).toNat = some op → ReadyData s 0x84 f g →
      fmtOf f = 5 ∨ fmtOf f = 6 ∨ fmtOf f = 0x17 ∨ fmtOf f = 7 → let two := decide (fmtOf f = 0x17); let w := if two then 64 else 32; let e1 := w / 8
      let n := if two then State.minValid g 32 / 2 else State.minValid g 32; let off := fun (j : Nat) => base + a.lane w j % 2 ^ 32 * e1
      ((∃ j < n, win.2 < off j + e1) → bound (.atoms f)) ∧
      ((∀ j < n, off j + e1 ≤ win.2) → (∃ j < n, ¬ s.soundAt (org + off j) e1) → poison (.atoms f)) ∧
      ((∀ j < n, off j + e1 ≤ win.2) → (∀ j < n, s.soundAt (org + off j) e1) → ∃ (m : Nat → List Host.Cell) (flags : Nat), m 0 = s.mem ∧
        let r := fun (j : Nat) => fp op w false (Memory.read (m j) (org + off j) e1) (b.lane w j) lit
        (∀ j < n, m (j + 1) = Memory.write (m j) (org + off j) e1 (r j).new) ∧ (∀ q, flags.testBit q = true ↔ ∃ j < n, (r j).flags.testBit q = true) ∧
        MemFires (.atoms f) s g 0 5 (if two then 2 * n else n) w n (4 + 2 * n) flags (fun j => (r j).ret % 2 ^ w) fun u =>
          s.portTaken u e (2 * n) (4 + 2 * n) ∧ u.mem = m n ∧ { u with elems := s.elems, mem := s.mem } = s)) ∧
    (∀ y, a.tok = some y → let rows := f.extra.toNat + 1; let off := base + 128 * (tagIx g.tag % rows); let key := tagOuter g.tag
      let buf := ((List.range 16).find? fun n => match x.active.slotAt n with
        | some (op, _, h) => op == 0x85 && h.ext == f.ext && h.extra == f.extra
        | none => false)
      (Ready s 0x85 f g → let k := buf.getD g.slot; let held := fun (u : State) => ∀ j, Table.find? (u.elem e).bufs j = if j = k then some key else Table.find? x.bufs j
        (∀ q, Table.find? x.bufs k = some q → q ≠ key → exec (.bufw f) s = .refused .notEnabled) ∧
        ((∀ q, Table.find? x.bufs k = some q → q = key) →
          (y.kind = 2 → MemFires (.bufw f) s g 2 y.width 0 1 0 4 0 (fun _ => 0) fun u =>
            held u ∧ (∀ d, d ≠ e → u.elem d = s.elem d) ∧ { u with elems := s.elems } = s) ∧
          (y.kind ≠ 2 → win.2 < off + 128 → bound (.bufw f)) ∧
          (y.kind ≠ 2 → off + 128 ≤ win.2 → s.soundAt (org + off) 128 → MemFires (.bufw f) s g 0 y.width y.valid 1024 1 4 0 (fun _ => 0) fun u =>
            held u ∧ s.portTaken u e 1 4 ∧ { u with elems := s.elems, mem := s.mem } = s ∧ s.sameBytesBut u (org + off) 128 ∧
            Memory.read u.mem (org + off) 128 = y.payload.toNat))) ∧
      (Ready s 0x86 f g →
        (y.kind = 2 → MemFires (.bufr f) s g 2 y.width 0 1 0 4 0 (fun _ => 0) fun u => (∀ d, d ≠ e → u.elem d = s.elem d) ∧ { u with elems := s.elems } = s ∧
          ∀ k j, buf = some k → Table.find? (u.elem e).bufs j = if j = k ∧ Table.find? x.bufs k = some key then none else Table.find? x.bufs j) ∧
        (y.kind ≠ 2 → win.2 < off + 128 → bound (.bufr f)) ∧ (y.kind ≠ 2 → off + 128 ≤ win.2 → ¬ s.soundAt (org + off) 128 → poison (.bufr f)) ∧
        (y.kind ≠ 2 → off + 128 ≤ win.2 → s.soundAt (org + off) 128 → 2 ^ y.width * y.valid ≤ 1024 →
          MemFires (.bufr f) s g 0 y.width y.valid 1024 1 4 0 (fun _ => Memory.read s.mem (org + off) 128 % 2 ^ (2 ^ y.width * y.valid)) fun u =>
            s.portTaken u e 1 4 ∧ { u with elems := s.elems } = s))) ∧
    (e = s.focus.elem → fmtOf f = 0x17 → let south := f.extra.getLsbD 7; let hops := if south then 32 - elemY e else elemY e + 1; let lat := 2 * hops + 8
      let n := State.minValid g 32 / 2; let sw := s.elemStreamWin (s.elemPart e) (s.elemPlace e); let off := fun (j : Nat) => 8 * (a.lane 64 j % 2 ^ 32)
      let at_ := fun (j : Nat) => streamBase (tileKey (elemDie e) (elemX e) (if south then 1 else 0)) + sw.1 + off j
      let inside := ∀ j < n, off j + 8 ≤ sw.2
      (∀ i : Instr, (i = .etld f ∧ ReadyData s 0x91 f g) ∨ (i = .etst f ∧ ReadyData s 0x92 f g) ∨ (i = .etas f ∧ ReadyData s 0x90 f g) → ¬ inside → bound i) ∧
      (ReadyData s 0x91 f g → inside → MemFires (.etld f) s g 0 5 (2 * n) 64 n lat 0 (fun j => Memory.read s.mem (at_ j) 8) fun u =>
        s.portTaken u e 0 lat ∧ { u with elems := s.elems } = s) ∧
      (ReadyData s 0x92 f g → inside → MemFires (.etst f) s g 5 5 0 1 0 lat 0 (fun _ => 0) fun u =>
        s.portTaken u e 0 lat ∧ { u with elems := s.elems, mem := s.mem } = s ∧
        (∀ z, (∀ j < n, z < at_ j ∨ at_ j + 8 ≤ z) → Memory.get u.mem z = Memory.get s.mem z) ∧
        ∀ j < n, (∀ h, j < h → h < n → at_ h ≠ at_ j) → Memory.read u.mem (at_ j) 8 = b.lane 64 j) ∧
      (∀ op, let code := (f.extra.extractLsb' 0 4).toNat; atomOfCode code = some op → ReadyData s 0x90 f g → inside → (∀ j < n, s.soundAt (at_ j) 8) →
        let low := decide (11 ≤ code ∧ code ≤ 13); ∃ (m : Nat → List Host.Cell) (flags : Nat), m 0 = s.mem ∧
        let r := fun (j : Nat) => fp op (if low then 32 else 64) low (Memory.read (m j) (at_ j) 8) (b.lane 64 j) lit
        (∀ j < n, m (j + 1) = Memory.write (m j) (at_ j) 8 (r j).new) ∧ (∀ q, flags.testBit q = true ↔ ∃ j < n, (r j).flags.testBit q = true) ∧
        MemFires (.etas f) s g 0 5 (2 * n) 64 n lat flags (fun j => (r j).ret % 2 ^ 64) fun u =>
          s.portTaken u e 0 lat ∧ u.mem = m n ∧ { u with elems := s.elems, mem := s.mem } = s))

/-- R215, R220, R221, R307, R308: requests for riders, and the norm registers. That a CANCEL with bit 63 of ga set names nothing is the model's
reading (log entry 67, DEDUCED). -/
def Obligations.RequestsJoinTheAdmissionQueue : Prop :=
  let refused := fun (r : Nat) => BitVec.ofNat 64 (2 ^ 63 + r * 256 + 0x0F)
  let idOf := fun (core source n : Nat) => BitVec.ofNat 64 (core / 8 * 2 ^ 30 + core % 8 * 2 ^ 27 + source * 2 ^ 24 + n % 65536)
  let joined := fun (s t : State) (n kind : Nat) (q : Asker) (c : List Word) (v : Word) (r : RiderSt) => Table.find? t.riders n = some r ∧ t.riderNext = n + 1 ∧
    (∀ j, j ≠ n → Table.find? t.riders j = Table.find? s.riders j) ∧ r.kind = kind ∧ r.part = q.part ∧ r.tenant = q.tenant ∧ r.place = q.place ∧ r.core = q.core ∧
    r.source = q.source ∧ r.card = c ∧ r.value = v ∧ r.phase = .waiting ∧ r.cancelled = false ∧ r.counts = [] ∧ r.accs = []
  let waits := fun (s t : State) (d : Reg) (code : WaitCode) => t.cur.run = .waiting ∧ t.cur.wait.code = code ∧ t.cur.wait.id = s.riderNext ∧ t.cur.wait.gd = d ∧
    t.pc = s.pc ∧ s.sameRegs t ∧ s.otherThreads t s.me
  let boards : List (Nat × (Reg → Reg → Reg → Instr)) := [(0, .boardRead), (1, .boardFilter), (2, .boardSum), (3, .boardFeed), (4, .boardUpdate),
    (5, .boardAtom), (6, .boardFill), (7, .boardDrain), (8, .boardDigest)]
  (∀ o ∈ boards, ∀ (s : State) (d a b : Reg), s.cur.run = .ready → let i := o.2 d a b; let q := s.threadAsker s.me; let off := (s.gpr a).toNat
    let c := s.threadCard s.me (q.winAt + off); let inside := off % 64 = 0 ∧ off + 64 ≤ q.winSize; let chk := s.checkCard q o.1 c
    (¬ inside → Writes i s d (refused 1)) ∧
    (inside → ∀ r, r ≠ 0 → s.cardReasonA q o.1 c = r → Writes i s d (refused r)) ∧
    (inside → let f := fun (j lo n : Nat) => ((c.getD j 0).extractLsb' lo n).toNat; let by_ := fun (n : Nat) => ∃ r, 0 < r ∧ r ≤ n ∧ Writes i s d (refused r)
      (f 0 0 4 ≠ o.1 ∨ f 0 60 4 ≠ 0 ∨ f 1 47 17 ≠ 0 ∨ f 4 57 7 ≠ 0 → Writes i s d (refused 2)) ∧
      (f 0 36 4 = 0 ∨ 32 < f 0 40 5 + f 0 50 5 + 1 ∨ 32 < f 0 45 5 + f 0 55 5 + 1 → by_ 4) ∧ (f 1 12 13 = 0 ∨ f 1 36 11 < f 1 25 11 → by_ 5) ∧
      (f 0 17 8 = 0 → ¬(o.1 = 6 ∧ f 0 4 6 = 1) → by_ 6) ∧ (o.1 ≤ 2 → f 0 32 2 ≠ 0 → by_ 8) ∧
      (1 < f 0 34 2 ∨ f 6 0 3 ≠ 0 ∨ (f 0 34 2 = 0 ∧ q.winSize < f 6 0 64 + 8) → by_ 9)) ∧
    (inside → ∀ r, chk.2 = .error r → ∃ t, exec i s = .next t ∧ t.gpr d = (if d = 0 then 0 else refused r) ∧ t.pc = s.pc + 4 ∧ ThreadFrame s t d ∧
      (hubRanges o.1 c = [] → s.sameBytes t) ∧ t.riders = s.riders ∧ t.riderNext = s.riderNext) ∧
    (inside → ∀ pins, chk.2 = .ok pins → ∃ t r, exec i s = .next t ∧ joined s t s.riderNext o.1 q c (s.gpr b) r ∧ waits s t d .admission ∧
      r.thread = s.me ∧ r.gd = d ∧ r.pins = pins ∧ r.cardVa = off ∧ r.id = idOf s.myCore (s.me % 4) s.cur.seq ∧ t.cur.seq = (s.cur.seq + 1) % 65536 ∧
      (hubRanges o.1 c = [] → s.sameBytes t))) ∧
  (∀ (s : State) (d a : Reg), s.cur.run = .ready → Table.sorted s.riders = true → let q := s.threadAsker s.me; let v := s.gpr a
    let names := fun (r : RiderSt) => r.kind < 10 ∧ r.part = q.part ∧ r.tenant = q.tenant ∧ r.cancelled = false ∧ v.getLsbD 63 = false ∧ s.endsNext r = false ∧
      (if v.getLsbD 62 then r.core = s.myCore ∧ r.source ≠ 4 ∧ r.cardVa = (v.extractLsb' 0 62).toNat else r.id = v)
    ∃ (t : State) (l : List (Nat × RiderSt)), exec (.boardCancel d a) s = .next t ∧ t.gpr d = (if d = 0 then 0 else BitVec.ofNat 64 (min l.length 255)) ∧
      t.pc = s.pc + 4 ∧ s.sameBytes t ∧ (l.map (·.1)).Nodup ∧ (∀ n r, (n, r) ∈ l ↔ Table.find? s.riders n = some r ∧ names r) ∧
      (∀ n r, Table.find? s.riders n = some r → (¬ names r → Table.find? t.riders n = some r) ∧
        (names r → r.phase = .aboard → Table.find? t.riders n = some { r with cancelled := true }) ∧
        (names r → r.phase ≠ .aboard → Table.find? t.riders n = none)) ∧ (l = [] → ThreadFrame s t d)) ∧
  (∀ (s : State) (f : SlotFields) (g : Firing), ReadyData s 0x93 f g → let e := g.e; let x := s.elem e; let kind := (f.extra.extractLsb' 0 4).toNat
    let off := 64 * (f.ext.extractLsb' 0 13).toNat; ∀ y, (s.srcA g).tok = some y → let v := y.payload.setWidth 64; let i : Instr := .boards f
    (kind ≤ 9 → ∀ p, Table.find? x.pend g.slot = some p → exec i s = .refused .notEnabled) ∧
    (kind ≤ 9 → Table.find? x.pend g.slot = none → (∀ c, s.resultTag g g.width = .error c → exec i s = s.fault g c (State.tagPos g)) ∧
      ∀ r, s.resultTag g g.width = .ok r → let q := r.1.slotAsker e; let c := r.1.slotCard (q.winAt + off); let inside := off + 64 ≤ q.winSize
        let ends := fun (t : State) (w : Option Word) => exec i s = .next t ∧ TakenFrom x.store g.toks (t.elem e).store ∧ s.sameRegs t ∧
          Table.find? (t.elem e).pend g.slot = some { tag := r.2, width := g.width, isOrd := false, value := w, at_ := s.cycle, issued := s.cycle }
        (kind ≠ 9 → ¬ inside → ∃ t, ends t (some (refused 1)) ∧ SlotFrame s t e) ∧
        (kind ≠ 9 → inside → ∀ z, (r.1.checkCard q kind c).2 = .error z → ∃ t, ends t (some (refused z)) ∧ t.riders = s.riders) ∧
        (kind ≠ 9 → inside → ∀ pins, (r.1.checkCard q kind c).2 = .ok pins → ∃ t z, ends t none ∧ joined s t s.riderNext kind q c v z ∧ z.elem = e ∧
          z.slot = g.slot ∧ z.tag = r.2 ∧ z.width = g.width ∧ z.pins = pins ∧ z.id = idOf (coreOfElem e) 4 (s.core (coreOfElem e)).boardsSeq ∧
          (t.core (coreOfElem e)).boardsSeq = ((s.core (coreOfElem e)).boardsSeq + 1) % 65536))) ∧
  (∀ (abort : Bool) (s : State) (d a : Reg), let i : Instr := if abort then .tabort d a else .tcommit d a; let q := s.threadAsker s.me
    let off := (s.gpr a).toNat; let c := s.threadCard s.me (q.winAt + off); let inside := off % 64 = 0 ∧ off + 64 ≤ q.winSize
    let bad := s.rectBad q.part c = true ∨ s.ranksBad q.part q.tenant false (regionCard c) = true
    (¬ inside → Writes i s d 1) ∧ (inside → bad → Writes i s d 2) ∧
    (inside → ¬ bad → (cardLayers c = 0 ∨ ∃ l ∈ layersOf c, l % 2 = 1) → Writes i s d 3) ∧
    (inside → ¬ bad → cardLayers c ≠ 0 → (∀ l ∈ layersOf c, l % 2 = 0) → ∃ t r, exec i s = .next t ∧ waits s t d .twin ∧
      joined s t s.riderNext (if abort then 11 else 10) q (regionCard c) 0 r ∧ r.thread = s.me ∧ r.gd = d ∧ s.sameBytes t ∧ r.waitDig = (if abort then [] else s.openDigests q.part q.tenant) ∧
      { t with threads := s.threads, riders := s.riders, riderNext := s.riderNext } = s)) ∧
  (∀ (s : State) (d : Reg) (high : Bool) (n : BitVec 4), let p := s.myPart; let x := Table.getD (s.part p).norms n.toNat {}
    let mine := s.cur.mode = true ∨ s.holds p (s.placeOfThread s.me) (16 + n.toNat) = true
    (mine → Writes (.normrd high n d) s d (BitVec.ofNat 64 (if high then x.value / 2 ^ 64 else x.value))) ∧ (¬ mine → Writes (.normrd high n d) s d 0) ∧
    (∃ t, exec (.normclr n) s = .next t ∧ t.cur = { s.cur with pc := s.pc + 4 } ∧ s.otherThreads t s.me ∧ s.sameBytes t ∧
      { t with threads := s.threads, parts := s.parts } = s ∧ (∀ q, q ≠ p → t.part q = s.part q) ∧ (¬ mine → t.part p = s.part p) ∧
      (mine → { t.part p with norms := (s.part p).norms, digests := (s.part p).digests } = s.part p ∧
        ∀ m, Table.getD (t.part p).norms m {} = (if m = n.toNat then {} else Table.getD (s.part p).norms m {}) ∧
          Table.getD (t.part p).digests m 0 = if m = n.toNat then 0 else Table.getD (s.part p).digests m 0)))

/-- R231: cache maintenance. EVAL of a range past the translated space is the model's choice (log entry 24, DEDUCED). -/
def Obligations.CacheMaintenanceCompletes : Prop :=
  (∀ (s : State) (k : Nat) (lvl : CacheLevel) (cleans drops : Bool) (lo hi : Nat), (cleans || drops) = true → lo ≤ hi → lo / 4096 = hi / 4096 → hi < 2 ^ 57 →
    let c := coreOf k; let t := s.maintainPage k lo hi lvl { clean := cleans, drop := drops }
    t.threads = s.threads ∧
    (hi < 0x100000 → s.sameBytes t ∧ t.slices = s.slices ∧ t.llTlb = s.llTlb ∧ (∀ d, d ≠ c → t.core d = s.core d) ∧
      { t.core c with l1i := (s.core c).l1i } = s.core c) ∧
    (0x100000 ≤ lo → let own := s.lineTenant k; let r := s.findLeaf c own (s.placeOfThread k) (s.rootOf k) (s.asidOf k) lo
      ((∃ code, r.2 = .error code) ∨ (∃ e, r.2 = .ok e ∧ e.perms / 16 % 2 = 1) → t = r.1) ∧
      ∀ e, r.2 = .ok e → e.perms / 16 % 2 = 0 →
        let within := fun (line : Nat) => State.leafPa e lo / 128 ≤ line ∧ line ≤ State.leafPa e hi / 128
        let ways := fun (u : State) (key : Nat) => Table.getD u.slices key []
        let mine := fun (key : Nat) => s.partOf (key / 512) = s.partOf c ∧ key / 512 < numCores ∧ s.partOf c < numParts
        let stale := fun (l : LineSt) => l ∈ (r.1.core c).l1d ∧ l.tenant = own ∧ within l.line ∧ l.dirty ≠ 0
        let dirty := fun (key : Nat) (w : WaySt) => mine key ∧ w ∈ ways r.1 key ∧ w.tenant = own ∧ within w.line ∧ w.dirty ≠ 0
        let byteOf := fun (d j : Nat) => BitVec.ofNat 8 (d / 256 ^ j)
        let below := fun (u : State) (line j : Nat) => match u.sliceFind c own line with | some w => byteOf w.data j | none => Memory.get u.mem (line * 128 + j)
        (lvl = .l1 → (∀ l, ¬(within l.line ∧ l.tenant = own) → (l ∈ (t.core c).l1d ↔ l ∈ (r.1.core c).l1d) ∧ (l ∈ (t.core c).l1i ↔ l ∈ (r.1.core c).l1i)) ∧
          (cleans = false → t.slices = r.1.slices ∧ t.mem = r.1.mem) ∧
          (cleans = true → ∀ l, stale l → (∀ m, stale m → m = l) → ∀ j < 128,
            below t l.line j = if l.dirty.testBit j then byteOf l.data j else below r.1 l.line j)) ∧
        (lvl ≠ .edge → (drops = true → ∀ l, within l.line → l.tenant = own → l ∉ (t.core c).l1d ∧ l ∉ (t.core c).l1i) ∧
          (drops = false → ∀ l, l ∈ (t.core c).l1d → within l.line → l.tenant = own → l.dirty = 0)) ∧
        (lvl ≠ .l1 → (drops = true → ∀ key w, mine key → within w.line → w.tenant = own → w ∉ ways t key) ∧
          (drops = false → ∀ key w, mine key → w ∈ ways t key → within w.line → w.tenant = own → w.dirty = 0) ∧ (cleans = false → t.mem = r.1.mem)) ∧
        (lvl = .edge → (∀ d, t.core d = r.1.core d) ∧ (∀ key w, ¬(mine key ∧ within w.line ∧ w.tenant = own) → (w ∈ ways t key ↔ w ∈ ways r.1 key)) ∧
          (drops = false → ∀ key w, mine key → within w.line → w.tenant = own → (w ∈ ways t key ↔ w.dirty = 0 ∧ ∃ v ∈ ways r.1 key, w = { v with dirty := 0 })) ∧
          (cleans = true → (∀ z, (∀ key w, dirty key w → w.line ≠ z / 128) → Memory.get t.mem z = Memory.get r.1.mem z) ∧
            ∀ key w, dirty key w → (∀ key' w', dirty key' w' → w'.line = w.line → key' = key ∧ w' = w) → ∀ j < 128,
              Memory.get t.mem (w.line * 128 + j) = if w.dirty.testBit j then byteOf w.data j else Memory.get r.1.mem (w.line * 128 + j))) ∧
        (lvl = .all → cleans = true → c < numCores → s.partOf c < numParts → ∀ l, stale l → (∀ m, stale m → m.line = l.line → m = l) →
          (∀ key w, w ∈ ways r.1 key → w.line = l.line → w.dirty = 0) → ∀ j < 128,
          Memory.get t.mem (l.line * 128 + j) = if l.dirty.testBit j then byteOf l.data j else Memory.get r.1.mem (l.line * 128 + j)))) ∧
  (∀ (s : State) (lvl : CacheLevel) (a b : Reg) (i : Instr) (cleans drops : Bool),
    (i = .clean lvl a b ∧ cleans = true ∧ drops = false) ∨ (i = .inval lvl a b ∧ cleans = false ∧ drops = true) ∨
      (i = .clinv lvl a b ∧ cleans = true ∧ drops = true) →
    let lo := (s.gpr a).toNat; let n := (s.gpr b).toNat; let hi := lo + n - 1
    (n = 0 → exec i s = .next s.advance) ∧
    (n ≠ 0 → 2 ^ 57 ≤ hi → Traps i s s 0x04 (BitVec.ofNat 64 (max lo (2 ^ 57)))) ∧
    (n ≠ 0 → hi < 2 ^ 57 → ∃ t, exec i s = .next t ∧ t.cur = { s.cur with pc := s.pc + 4 } ∧ s.otherThreads t s.me ∧
      { t with threads := s.threads } = (List.range (hi / 4096 - lo / 4096 + 1)).foldl (fun u j => let p := lo / 4096 + j
        u.maintainPage s.me (max lo (4096 * p)) (min hi (4096 * p + 4095)) lvl { clean := cleans, drop := drops }) s))

/-- R285 to R288, R309 to R311: generators. The order of GSTART's checks (log entry 71), GSTOP's EOS and the owed completion (72) and the last byte of a
PULL (74) are the model's readings (DEDUCED). -/
def Obligations.GeneratorsMoveTheirBlocks : Prop :=
  let refused := fun (r : Nat) => BitVec.ofNat 64 (2 ^ 63 + r)
  let keyOf := fun (id : Nat) => 8 * tileKey (id / 512 % 4) (id / 16 % 32) (id / 8 % 2) + id % 8
  let field := fun (t : Tag) (k : Nat) => (t.extractLsb' (40 - 8 * k) 8).toNat
  let word := fun (g : GenSt) (st : Nat) => BitVec.ofNat 64 (min g.blocks (2 ^ 32 - 1) * 2 ^ 24 + st * 2 ^ 4)
  let status := fun (s : State) (k : Nat) => let g := s.gen k
    word g (match g.owed with | some x => x | none => if g.state = 1 ∧ s.tenantActive (s.partOf (coreOfTile (k / 8))) g.tenant = false then 2 else g.state)
  let ends := fun (u t : State) (k st : Nat) => let g := u.gen k
    (u.genFlying k = true → t.gen k = { g with owed := some st } ∧ { t with gens := u.gens } = u) ∧
    (u.genFlying k = false → t.gen k = { g with state := st, owed := none, pins := [] } ∧
      (∀ z, g.done = .direct z → Memory.read t.mem z 8 = (word g st).toNat ∧ u.sameBytesBut t z 8) ∧
      (∀ z uc, g.done = .translated z uc → t.mem = (u.writeTarget g.core g.tenant { addr := z, isLocal := false, uncached := uc } 8 (word g st).toNat).mem))
  let sends := fun (s u : State) (k : Nat) (x : Token) => ∃ f, Table.find? u.flights s.flightNext = some f ∧ u.flightNext = s.flightNext + 1 ∧
    (∀ n, n ≠ s.flightNext → Table.find? u.flights n = Table.find? s.flights n) ∧ f.src = 2 ^ 17 + k ∧ f.token = x ∧ f.feed = none ∧ f.isLocal = false ∧
    (let r := (s.gen k).card.getD 1 0; f.bound = .elem (elemKey (k / 8 / 64) (r.extractLsb' 57 5).toNat (r.extractLsb' 52 5).toNat)
      (r.extractLsb' 48 4).toNat (r.extractLsb' 46 2).toNat) ∧ u.mem = s.mem ∧ u.threads = s.threads ∧ u.elems = s.elems
  let count := fun (g : GenSt) (m : Nat) => ((g.card.getD 2 0).extractLsb' (16 * m) 16).toNat + 1
  let spent := fun (g : GenSt) => g.blocks = count g 0 * count g 1 * count g 2 * count g 3
  let tagged := fun (g : GenSt) (x : Tag) (i0 i1 i2 i3 : Nat) => let t0 := g.card.getD 5 0; let n := (t0.extractLsb' 48 4).toNat
    x.extractLsb' 48 16 = t0.extractLsb' 48 16 ∧ ∀ k < 6, field x k =
      if k < n ∧ n - 1 - k < 4 then [i0, i1, i2, i3].getD (n - 1 - k) 0 % 256 else field t0 k
  let eosSent := fun (s u : State) (k : Nat) => let g := s.gen k; ∀ j1 j2 j3, (spent g ∧ j1 = g.i1 ∧ j2 = g.i2 ∧ j3 = g.i3) ∨ (¬ spent g ∧
      ((g.i1 ≠ 0 ∧ j1 + 1 = g.i1 ∧ j2 = g.i2 ∧ j3 = g.i3) ∨ (g.i1 = 0 ∧ j1 + 1 = count g 1 ∧
        ((g.i2 ≠ 0 ∧ j2 + 1 = g.i2 ∧ j3 = g.i3) ∨ (g.i2 = 0 ∧ j2 + 1 = count g 2 ∧ j3 + 1 = g.i3))))) →
    0 < (g.card.getD 5 0).extractLsb' 48 4 → (g.card.getD 5 0).extractLsb' 48 4 ≤ 6 →
    ∃ x, sends s u k x ∧ x.kind = kEos ∧ x.valid = 0 ∧ tagged g x.tag (count g 0) j1 j2 j3 ∧ u.gen k = { g with eosDue := false, movedAt := s.cycle }
  (∀ (s : State) (d a : Reg), let i : Instr := .gstart d a; let q := s.threadAsker s.me; let off := (s.gpr a).toNat; let c := s.threadCard s.me (q.winAt + off)
    let inside := off % 64 = 0 ∧ off + 64 ≤ q.winSize; let w := fun (n : Nat) => c.getD n 0; let id := ((w 0).extractLsb' 0 11).toNat; let n := keyOf id
    let mode := ((w 0).extractLsb' 11 2).toNat; let eos := (w 0).getLsbD 13; let route := (w 1).extractLsb' 46 18; let o := ((w 1).extractLsb' 0 22).toNat
    let colour := ((w 5).extractLsb' 52 12).toNat; let depth := ((w 5).extractLsb' 48 4).toNat
    let elem := elemKey (id / 512 % 4) ((w 1).extractLsb' 57 5).toNat ((w 1).extractLsb' 52 5).toNat
    let bad2 := (w 0).extractLsb' 15 49 ≠ 0 ∨ (w 1).extractLsb' 22 24 ≠ 0 ∨ w 7 ≠ 0 ∨ (mode ≠ 0 ∧ (eos = true ∨ route ≠ 0)) ∨ (mode = 1 ∧ w 5 ≠ 0) ∨
      (2 ≤ mode ∧ (w 5).toNat % 128 ≠ 0)
    let bad5 := o % 8 ≠ 0 ∨ (∃ l < 4, ((w (3 + l / 2)).extractLsb' (32 * (l % 2)) 32).toNat % 8 ≠ 0) ∨ (s.streamWin q.part q.place).2 < o + 128
    let bad6 := mode = 0 ∧ (s.colourTenant q.part colour ≠ some q.tenant ∨ depth = 0 ∨ 6 < depth ∨ (w 1).extractLsb' 62 2 ≠ 0 ∨
      (s.part q.part).hasCore (coreOfElem elem) = false)
    (¬ inside → Writes i s d (refused 1)) ∧ (inside →
      (bad2 → Writes i s d (refused 2)) ∧ (¬ bad2 → s.genMine s.me id = false → Writes i s d (refused 3)) ∧
      (¬ bad2 → s.genMine s.me id = true → ((s.gen n).state = 1 → (s.gen n).owed = none → Writes i s d (refused 4)) ∧ ((s.gen n).state ≠ 1 ∨ (s.gen n).owed.isSome →
        (bad5 → Writes i s d (refused 5)) ∧ (¬ bad5 → (bad6 → Writes i s d (refused 6)) ∧ (¬ bad6 → let x := s.gcPages q c
          let frame := fun (t : State) => t.pc = s.pc + 4 ∧ ThreadFrame s t d ∧ (mode < 2 → (w 0).getLsbD 14 = false → s.sameBytes t)
          (∀ r, x.2 = .error r → ∃ t, exec i s = .next t ∧ t.gpr d = (if d = 0 then 0 else refused r) ∧ frame t ∧ t.gens = s.gens ∧ 7 ≤ r ∧ r ≤ 10) ∧
          (∀ pins u, x.2 = .ok pins → x.1.pinAll (dieOfCore q.core) (s.tlbQuota q.part q.place) pins = some u → (s.gen n).owed.isSome → exec i s = .next s) ∧
          (∀ pins u, x.2 = .ok pins → x.1.pinAll (dieOfCore q.core) (s.tlbQuota q.part q.place) pins = some u → (s.gen n).owed = none → ∃ t, exec i s = .next t ∧
            t.gpr d = (if d = 0 then 0 else BitVec.ofNat 64 id) ∧ frame t ∧ (∀ k, k ≠ n → t.gen k = s.gen k) ∧
            t.gen n = { card := c, tenant := q.tenant, place := q.place, core := q.core, state := 1, movedAt := s.cycle, pins := pins, done := State.gcDone q c pins }))))))) ∧
  (∀ (s : State) (d a : Reg), let id := (s.gpr a).toNat; let k := keyOf id
    (s.genMine s.me id = false → Writes (.gstat d a) s d (refused 3) ∧ Writes (.gstop d a) s d (refused 3)) ∧
    (s.genMine s.me id = true → Writes (.gstat d a) s d (status s k) ∧ ((s.gen k).state ≠ 1 ∨ (s.gen k).owed.isSome → Writes (.gstop d a) s d (status s k)) ∧
      ((s.gen k).state = 1 → (s.gen k).owed = none → ∃ u v t, exec (.gstop d a) s = .next t ∧ ((s.gen k).eosDue = true → eosSent s u k) ∧ ((s.gen k).eosDue = false → u = s) ∧
        ends (u.setGen k { u.gen k with state := 4 }) v k 4 ∧ t.gpr d = (if d = 0 then 0 else word (s.gen k) 4) ∧ t.pc = s.pc + 4 ∧ StoreFrame s t d ∧
        { t with threads := v.threads } = v))) ∧
  ∀ (s : State), let k := s.focus.index; let g := s.gen k; let p := s.partOf (coreOfTile (k / 8)); let i : Instr := .generatorBlock
    let mode := ((g.card.getD 0 0).extractLsb' 11 2).toNat; let eos := (g.card.getD 0 0).getLsbD 13; let win := s.streamWin p g.place
    let stride := fun (m : Nat) => ((g.card.getD (3 + m / 2) 0).extractLsb' (32 * (m % 2)) 32).toInt
    let off : Int := ((g.card.getD 1 0).extractLsb' 0 22).toNat + g.i3 * stride 3 + g.i2 * stride 2 + g.i1 * stride 1 + g.i0 * stride 0
    let here := streamBase (k / 8) + win.1 + off.toNat; let n := count g
    let last := n 0 ≤ g.i0 + 1 ∧ n 1 ≤ g.i1 + 1 ∧ n 2 ≤ g.i2 + 1 ∧ n 3 ≤ g.i3 + 1; let inner := mode = 0 ∧ eos = true ∧ g.i0 + 1 = n 0
    let looped := fun (u : State) => let h := u.gen k; h.blocks = g.blocks + 1 ∧ h.movedAt = s.cycle ∧ (h.eosDue = true ↔ inner) ∧ h.state = g.state ∧
      { h with i0 := g.i0, i1 := g.i1, i2 := g.i2, i3 := g.i3, blocks := g.blocks, movedAt := g.movedAt, eosDue := g.eosDue } = g ∧
      (g.i0 + 1 < n 0 → (h.i0, h.i1, h.i2, h.i3) = (g.i0 + 1, g.i1, g.i2, g.i3)) ∧
      (n 0 ≤ g.i0 + 1 → g.i1 + 1 < n 1 → (h.i0, h.i1, h.i2, h.i3) = (0, g.i1 + 1, g.i2, g.i3)) ∧
      (n 0 ≤ g.i0 + 1 → n 1 ≤ g.i1 + 1 → g.i2 + 1 < n 2 → (h.i0, h.i1, h.i2, h.i3) = (0, 0, g.i2 + 1, g.i3)) ∧
      (n 0 ≤ g.i0 + 1 → n 1 ≤ g.i1 + 1 → n 2 ≤ g.i2 + 1 → g.i3 + 1 < n 3 → (h.i0, h.i1, h.i2, h.i3) = (0, 0, 0, g.i3 + 1))
    let onward := fun (u t : State) => (last → ¬ inner → ends u t k 3) ∧ (¬ last ∨ inner → t = u)
    (s.tenantActive p g.tenant = false → exec i s = .refused .notEnabled) ∧
    (s.genDue k = true →
      (∀ st, g.owed = some st → ∃ t, exec i s = .next t ∧ ends s t k st) ∧
      (g.owed = none → g.eosDue = true → ∃ u t, exec i s = .next t ∧ eosSent s u k ∧ (spent g → ends u t k 3) ∧ (¬ spent g → t = u)) ∧
      (g.owed = none → g.eosDue = false → (off < 0 ∨ (win.2 : Int) < off + 128 → ∃ t, exec i s = .next t ∧ ends s t k 5) ∧ (0 ≤ off → off + 128 ≤ win.2 →
        (mode = 0 → (g.card.getD 5 0).extractLsb' 48 4 ≤ 6 → ∀ w, w ≤ 5 → s.colourWidth p ((g.card.getD 5 0).extractLsb' 52 12).toNat = some w → ∃ u t x, exec i s = .next t ∧ sends s u k x ∧ x.kind = kData ∧
          x.valid = 1024 / 2 ^ w ∧ x.width = w ∧ x.payload.toNat = Memory.read s.mem here 128 ∧ tagged g x.tag g.i0 g.i1 g.i2 g.i3 ∧ looped u ∧ onward u t) ∧
        (mode = 1 → ∀ j f, s.portToken k = some (j, f) → let nb := (f.token.valid * 2 ^ f.token.width + 7) / 8
          (f.token.kind = kEos → ∃ t, exec i s = .next t ∧ t.gen k = { g with movedAt := s.cycle } ∧ s.sameBytes t ∧ t.flights = Table.erase s.flights j) ∧
          (f.token.kind ≠ kEos → ∃ u t, exec i s = .next (t.settleColour p (tagColour f.token.tag)) ∧ u.flights = Table.erase s.flights j ∧
            s.sameBytesBut u here nb ∧ Memory.read u.mem here nb = f.token.payload.toNat % 2 ^ (8 * nb) ∧ looped u ∧ onward u t)) ∧
        (2 ≤ mode → let at_ := pinAt g.pins ((g.card.getD 5 0).toNat + 128 * g.blocks)
          (at_ = none → ∃ t, exec i s = .next t ∧ ends s t k 6) ∧ (∀ pa m, at_ = some (pa, m) →
            (s.hubBad pa = true → ∃ t, exec i s = .next t ∧ ends s t k 6) ∧
            (s.hubBad pa = false → let src := if mode = 2 then pa else here; let dst := if mode = 2 then here else pa
              ∃ u t, exec i s = .next t ∧ s.sameBytesBut u dst 128 ∧ Memory.read u.mem dst 128 = Memory.read s.mem src 128 ∧
                { u with gens := s.gens, mem := s.mem } = s ∧ looped u ∧ onward u t))))))

/-- R383 to R391: collectives. Reason 2 for the offsets (log entry 75), no trap to a FREE issuer (77), no match over a link without a frame (137) and what
the destination holds after outcomes 1, 4 and 5 (138) are the model's readings (DEDUCED). -/
def Obligations.CollectivesMatchAndComplete : Prop :=
  let refused := fun (r : Nat) => BitVec.ofNat 64 (2 ^ 63 + r)
  let forms : List (Nat × Bool × (Reg → Reg → Reg → Instr)) := [(0, false, .allredOrd), (0, true, .allredExact), (1, false, .bcast), (2, false, .allgath),
    (3, false, .redscatOrd), (3, true, .redscatExact), (4, false, .digset), (5, false, .digcmp)]
  (∀ o ∈ forms, ∀ (s : State) (d a b : Reg), let kind := o.1; let i := o.2.2 d a b; let q := s.threadAsker s.me; let off := (s.gpr a).toNat
    let c := s.threadCard s.me (q.winAt + off); let inside := off % 64 = 0 ∧ off + 64 ≤ q.winSize; let w := fun (n : Nat) => c.getD n 0
    let f := fun (n lo len : Nat) => ((w n).extractLsb' lo len).toNat; let G := f 0 15 8; let root := f 0 23 10; let N := f 3 0 20; let sfmt := f 0 5 5
    let bad2 := f 0 0 3 ≠ kind ∨ f 0 34 30 ≠ 0 ∨ f 1 24 40 ≠ 0 ∨ f 2 19 1 ≠ 0 ∨ f 2 39 25 ≠ 0 ∨ f 3 20 44 ≠ 0 ∨ f 4 6 26 ≠ 0 ∨ w 5 ≠ 0 ∨ (root ≠ 0 ∧ kind ≠ 1) ∨
      ((f 4 0 4 ≠ 0 ∨ f 4 32 32 ≠ 0) ∧ kind ≠ 4) ∨ (f 4 4 2 ≠ 0 ∧ kind < 4) ∨ (kind < 4 ∧ (f 2 0 19 % 128 ≠ 0 ∨ f 2 20 19 % 128 ≠ 0))
    let owned := fun (g : GroupSt) => Table.find? s.groups (256 * q.part + G) = some g ∧ g.tenant = q.tenant ∧ g.members[g.rank]? = some (s.hub.device.toNat, q.part)
    (¬ inside → Writes i s d (refused 1)) ∧ (inside → (bad2 → Writes i s d (refused 2)) ∧ (¬ bad2 → (¬ (∃ g, owned g) → Writes i s d (refused 3)) ∧
      ∀ g, owned g → let P := g.members.length; let block := if sfmt = 0x0E then 8 else if sfmt = 0x0F then 32 else 1
        let bad5 := f 1 0 4 = 0 ∨ 32 < f 1 4 5 + (f 1 14 5 + 1) ∨ 32 < f 1 9 5 + (f 1 19 5 + 1) ∨ ∃ e ∈ cdElems c, s.elemPart e ≠ q.part ∨
          (s.placeWin e q.place).2 < f 2 0 19 + (vectorBits sfmt N + 7) / 8 ∨ (s.placeWin e q.place).2 < f 2 20 19 + (destBits c P + 7) / 8
        let bad6 := (kind = 1 ∧ P ≤ root) ∨ N = 0 ∨ N % block ≠ 0 ∨ (kind = 3 ∧ N % P ≠ 0) ∨ (kind = 2 ∧ 2 ^ 20 - 1 < P * N)
        let id := BitVec.ofNat 64 (G * 2 ^ 16 + g.seq % 2 ^ 16); let x := s.cdDone q c; let p := s.part q.part
        let taken : HarvestSt := { step := f 4 32 32, digest := p.digest (f 4 0 4), norm := (p.norm (f 4 0 4)).value, sat := (p.norm (f 4 0 4)).sat }
        let framed := fun (t : State) (v : Word) => exec i s = .next t ∧ t.gpr d = (if d = 0 then 0 else v) ∧ t.pc = s.pc + 4 ∧ ThreadFrame s t d
        (cdFormsOk kind o.2.1 c = false → Writes i s d (refused 4)) ∧ (cdFormsOk kind o.2.1 c = true → (kind < 4 → bad5 → Writes i s d (refused 5)) ∧
          (kind < 4 → ¬ bad5 → bad6 → Writes i s d (refused 6)) ∧ (kind < 4 → ¬ bad5 ∧ ¬ bad6) → (x.2 = none → ∃ t, framed t (refused 7) ∧ t.colls = s.colls) ∧
          ∀ done, x.2 = some done →
          (kind = 4 → q.place ≠ 0 → s.holds q.part q.place (16 + f 4 0 4) = false → ∃ t, framed t (refused 8) ∧ t.places = s.places) ∧
          (kind = 4 → q.place = 0 ∨ s.holds q.part q.place (16 + f 4 0 4) = true → ∃ t, exec i s = .next t ∧ t.gpr d = (if d = 0 then 0 else id) ∧ t.pc = s.pc + 4 ∧ StoreFrame s t d ∧
            t.colls = s.colls ∧ t.groups = s.groups ∧
            (∀ k, Table.getD (t.place q.part q.place).harvest k {} = if k = f 4 4 2 then taken else Table.getD (s.place q.part q.place).harvest k {}) ∧
            (∀ z, done = .direct z → Memory.read t.mem z 8 = (s.gpr b).toNat ∧ (z + 8 ≤ q.winAt + off + 56 ∨ q.winAt + off + 64 ≤ z → Memory.read t.mem (q.winAt + off + 56) 8 = 0) ∧
              ∀ y, (y < z ∨ z + 8 ≤ y) → (y < q.winAt + off + 56 ∨ q.winAt + off + 64 ≤ y) → Memory.get t.mem y = Memory.get s.mem y)) ∧
          (kind ≠ 4 → let flying := (List.filter (fun y : Nat × CollSt => y.2.part == q.part && y.2.group == G) s.colls).length
            (8 ≤ flying → ∃ t, exec i s = .next t ∧ t.cur.run = .waiting ∧ t.cur.wait.code = .collLimit ∧ t.pc = s.pc ∧ s.sameRegs t ∧ s.otherThreads t s.me ∧
              { t with threads := s.threads } = s) ∧
            (flying < 8 → ∃ t y, framed t id ∧ t.collNext = s.collNext + 1 ∧ Table.find? t.colls s.collNext = some y ∧
              (∀ n, n ≠ s.collNext → Table.find? t.colls n = Table.find? s.colls n) ∧ y.part = q.part ∧ y.tenant = q.tenant ∧ y.place = q.place ∧ y.core = q.core ∧
              y.thread = s.me ∧ y.kind = kind ∧ y.exact = o.2.1 ∧ y.group = G ∧ y.index = g.seq ∧ y.descr = c ∧ y.descrAt = q.winAt + off ∧ y.conf = g ∧
              y.value = s.gpr b ∧ y.done = done ∧ y.mine.rank = g.rank ∧
              y.mine.descr = [kind, if o.2.1 then 1 else 0, f 0 3 2, sfmt, f 0 10 5, N, root, if kind = 5 then f 4 4 2 else 0, if kind = 5 then 0 else (cdElems c).length] ∧
              (let up := fun (l : Nat) => (Table.getD s.hub.links l {}).up = true;
                ((∀ l ∈ g.links, up l) → y.result = none) ∧ ((∃ l ∈ g.links, ¬ up l) → ∃ r, y.result = some r ∧ r.outcome = 2)) ∧
              (let nbytes := (destBits c P + 7) / 8; let at_ := fun (e : Nat) => (s.placeWin e q.place).1 + f 2 20 19;
                ∀ z, (∀ e ∈ y.elems, z < at_ e ∨ at_ e + nbytes ≤ z) → Memory.get t.mem z = Memory.get x.1.mem z) ∧
              (kind < 4 → y.elems = cdElems c ∧ y.mine.vector = (cdElems c).map fun e => Memory.read x.1.mem ((s.placeWin e q.place).1 + f 2 0 19) ((vectorBits sfmt N + 7) / 8) %
                2 ^ vectorBits sfmt N) ∧ (kind = 5 → y.elems = [] ∧ y.mine.vector = [State.harvestValue (Table.getD (s.place q.part q.place).harvest (f 4 4 2) {})]) ∧
              Table.find? t.groups (256 * q.part + G) = some { g with seq := g.seq + 1 })))))) ∧
  ∀ (s : State) (x : CollSt), let n := s.focus.index; let i : Instr := .collectiveComplete; let c := x.descr; let P := x.conf.members.length
    let f := fun (m lo len : Nat) => ((c.getD m 0).extractLsb' lo len).toNat; let N := f 3 0 20; let V := vectorBits (f 0 5 5) N
    let nbits := destBits c P; let nbytes := (nbits + 7) / 8; let st := x.descrAt + 56; let dest := fun (e : Nat) => (s.placeWin e x.place).1 + f 2 20 19
    let settled := fun (y : CollSt) (res : CollSt → CollResult) => { y with result := some (res y) }
    let finishes := fun (r : CollResult) (res : CollSt → CollResult) => ∃ t, exec i s = .next t ∧ s.sameRegs t ∧ (∀ e, { t.elem e with spFree := 0 } = { s.elem e with spFree := 0 }) ∧ Table.find? t.colls n = none ∧
      (∀ m y, m ≠ n → Table.find? s.colls m = some y → Table.find? t.colls m = some (if x.result = none ∧ y.conf.key = x.conf.key ∧ y.index = x.index ∧ y.result = none then settled y res else y)) ∧
      (∀ p k, { t.place p k with divmark := false } = { s.place p k with divmark := false } ∧ ((t.place p k).divmark = true ↔ (s.place p k).divmark = true ∨
        ((r.outcome = 4 ∨ r.outcome = 5) ∧ p * 16 + k = x.part * 16 + x.place))) ∧
      (let y := s.thread x.thread; let z := t.thread x.thread
        (r.outcome < 2 ∨ y.run = .free → z.pend = y.pend) ∧
        (2 ≤ r.outcome → y.run ≠ .free → y.pend.length + y.late.length < 4 → ∃ q,
          (z.pend, z.late) = (if s.recordKept x.thread = true then (y.pend, y.late ++ [q]) else (y.pend ++ [q], y.late)) ∧ q.code = (if r.outcome = 2 ∨ r.outcome = 3 then 0x13 else 0x12) ∧ q.fabric = true ∧
          q.frec.f0 = BitVec.ofNat 64 (4 * 2 ^ 8 + q.code) ∧ q.frec.f1 = BitVec.ofNat 64 (dieOfCore x.core * 2 ^ 38 + 3 * 2 ^ 22 + stripOfCore x.core * 2 ^ 19 + x.thread % 4 * 2 ^ 17) ∧
          q.frec.f2 = BitVec.ofNat 64 (x.group * 2 ^ 16 + x.index % 2 ^ 16) ∧ q.frec.f3 = BitVec.ofNat 64 (f 0 0 32) ∧ q.frec.f5 = r.detail ∧ q.frec.f6 = s.when)) ∧
      ∀ z, x.done = .direct z → z + 8 ≤ 2 ^ 53 → st + 8 ≤ 2 ^ 53 → Memory.read t.mem z 8 = x.value.toNat ∧
        (z + 8 ≤ st ∨ st + 8 ≤ z → Memory.read t.mem st 8 = r.maj % 2 ^ 16 * 2 ^ 32 + r.outcome * 2 ^ 8 % 2 ^ 16 + r.flags % 32) ∧
        (∀ y, (y < z ∨ z + 8 ≤ y) → (y < st ∨ st + 8 ≤ y) → (∀ e ∈ x.elems, y < dest e ∨ dest e + nbytes ≤ y) →
          Memory.get t.mem y = Memory.get s.mem y) ∧
        (r.outcome = 0 → x.elems.Nodup → (∀ e ∈ x.elems, scratchBase e ≤ dest e ∧ dest e + nbytes ≤ scratchBase e + scratchBytes) → ∀ (k e : Nat), x.elems[k]? = some e →
          ∀ j < 8 * nbytes, (Memory.read t.mem (dest e) nbytes).testBit j = if j < nbits then (r.vector.getD k 0).testBit j else (Memory.read s.mem (dest e) nbytes).testBit j) ∧
        (r.outcome = 1 ∨ 4 ≤ r.outcome → x.elems.Nodup → (∀ e ∈ x.elems, scratchBase e ≤ dest e ∧ dest e + nbytes ≤ scratchBase e + scratchBytes) →
          ∀ (k e : Nat), x.elems[k]? = some e → let byteOf := fun (v j : Nat) => v / 256 ^ j % 256; let was := Memory.read s.mem (dest e) nbytes
          (x.before[k]? = none → Memory.read t.mem (dest e) nbytes = was) ∧ ∀ q, x.before[k]? = some q → ∀ j < nbytes,
            byteOf (Memory.read t.mem (dest e) nbytes) j = if byteOf was j = byteOf q.2 j then byteOf q.1 j else byteOf was j)
    let plain := fun (o : Nat) (v : Word) => ({ outcome := o, maj := 0, flags := 0, vector := [], detail := v } : CollResult)
    let fails := s.focus.flag = true ∧ (s.focus.layer = 2 ∨ s.focus.layer = 3) ∧ (∃ m ∈ x.conf.members, m.1 ≠ s.hub.device.toNat) ∧ s.focus.link < 16
    let reason := BitVec.ofNat 64 (s.focus.link + (Table.getD s.hub.links s.focus.link {}).peer * 2 ^ 16)
    (Table.find? s.colls n = some x → s.tenantActive x.part x.tenant = false → exec i s = .refused .notEnabled) ∧
    (Table.find? s.colls n = some x → s.tenantActive x.part x.tenant = true →
      (∀ r, x.result = some r → r.outcome < 256 → finishes r fun _ => r) ∧
      (x.result = none → fails → let r := plain s.focus.layer reason; finishes r fun _ => r) ∧
      (x.result = none → ¬ fails → (∃ j < P, s.memberOf x s.focus.remote j = none) → exec i s = .refused .notEnabled) ∧
      (x.result = none → ¬ fails → (∃ l ∈ x.conf.links, Table.getD s.hub.masks (16 * x.part + l) 0 = 0) → (∃ m ∈ x.conf.members, m.1 ≠ s.hub.device.toNat) →
        exec i s = .refused .notEnabled) ∧
      (x.result = none → ¬ fails → ∀ ms : List MemberSt, ms.length = P → (∀ j < P, s.memberOf x s.focus.remote j = ms[j]?) →
        let agree := ∀ m ∈ ms, m.descr = x.mine.descr; let vs := ms.map fun m => m.vector.getD 0 0; let mine := x.mine.vector.getD 0 0; let out := fun (r : CollResult) => finishes r fun y => collResult y ms
        (¬ agree → out (plain 1 0)) ∧ (agree → x.kind = 5 →
          (∀ v, P < 2 * vs.count v → out { plain (if mine = v then 0 else 4) (BitVec.ofNat 64 (v / 2 ^ 32 % 2 ^ 64)) with maj := vs.count v }) ∧
          ((∀ v, 2 * vs.count v ≤ P) → out (plain 5 0))) ∧
        (agree → x.kind < 4 → ∃ r, out r ∧ r.outcome = 0 ∧ r.maj = 0 ∧ let at_ := fun (k : Nat) => ms.map fun m => m.vector.getD k 0
          let lane := fun (k j : Nat) => reduceLane x (at_ k) j; let w := elemBits (f 0 10 5)
          (x.kind = 1 → r.flags = 0 ∧ ∀ m, ms[f 0 23 10]? = some m → r.vector = m.vector) ∧
          (x.kind = 2 → r.flags = 0 ∧ ∀ k < x.elems.length, ∀ j m, ms[j]? = some m → bits (r.vector.getD k 0) (V * j) V = m.vector.getD k 0 % 2 ^ V) ∧
          (x.kind = 0 ∨ x.kind = 3 → (∀ q < 5, r.flags.testBit q = true ↔ ∃ k < x.elems.length, ∃ j < N, (lane k j).flags.testBit q = true) ∧
            ∀ k < x.elems.length, let part := N / P
              (x.kind = 0 → ∀ j < N, bits (r.vector.getD k 0) (w * j) w = (lane k j).bits % 2 ^ w) ∧
              (x.kind = 3 → ∀ j < part, x.mine.rank * part + j < N → bits (r.vector.getD k 0) (w * j) w = (lane k (x.mine.rank * part + j)).bits % 2 ^ w)))))

/-- R90, R95 to R98, R130, R132, R196, R415: tokens at the input of an element. The model's readings: COMB entries are evicted and reaped (log entry 36),
FEED tokens are refused at a closed input or a field not running (52), the places that local results have (122), and which of several records reloads (123). -/
def Obligations.TokensArriveSpillAndAreReaped : Prop :=
  let erased := fun (s t : State) (k : Nat) => t.flights = Table.erase s.flights k
  let opens := fun (y : ElemSt) (slot pos : Nat) (x : Token) => y.active.opcode slot = 0x0C ∧ pos = 0 ∧ tagDepth x.tag ≠ 0 ∧ x.kind ≠ kArc ∧
    ∀ l ∈ y.loops, ¬(l.slot = slot ∧ l.key = tagOuter x.tag)
  let takes := fun (y : ElemSt) (slot pos : Nat) (x : Token) => let n := y.store.length + y.combs.length + y.loops.length
    n < 56 ∨ (n < 64 ∧ (opens y slot pos x → n < 63) ∧ (y.store = [] ∨ ∃ h r, y.store = h :: r ∧ h.token.tag = x.tag))
  let gate := fun (s : State) (e slot pos : Nat) (x : Token) (near : Bool) => let y := s.elem e; takes y slot pos x ∧ (near = true ∨
    ((opens y slot pos x → State.spillNeed y 2 (s.localTags e) ≤ s.spillsFree e) ∧ (¬ opens y slot pos x → State.spillNeed y 1 (s.localTags e) ≤ s.spillsFree e)))
  let came := fun (s : State) (e : Nat) (r : SpillSt) => r.since - bits (Memory.read s.mem (s.spillAddr e r.record) 256) 128 64
  let ask := fun (l : List Nat) (r : Option Nat) => match r with | some n => if n ∈ l then l else l ++ [n] | none => l
  let looped := fun (s t : State) (e slot pos : Nat) (x : Token) (stamp : Nat) (l : List SpillSt) => let y := s.elem e; let z := t.elem e
    let tagOf := fun (r : SpillSt) => BitVec.ofNat 64 (Memory.read s.mem (s.spillAddr e r.record) 8)
    let mate := fun (r : SpillSt) => r ∈ l ∧ Memory.read s.mem (s.spillAddr e r.record + 12) 2 = slot ∧ tagOuter (tagOf r) = tagOuter x.tag ∧
      tagDepth (tagOf r) = tagDepth x.tag ∧ bits (Memory.read s.mem (s.spillAddr e r.record + 8) 4) 14 3 ≠ kArc;
    (¬ opens y slot pos x → z.loops = y.loops) ∧ (opens y slot pos x → ∃ i, z.loops = y.loops ++ [{ slot := slot, key := tagOuter x.tag, i := i, x := i }] ∧
      ((∀ r, mate r → stamp ≤ came s e r) → i = tagIx x.tag) ∧
      ((∃ r, mate r ∧ came s e r < stamp) → ∃ r, mate r ∧ (∀ q, mate q → came s e r ≤ came s e q) ∧ i = tagIx (tagOf r)))
  let others := fun (s t : State) (e : Nat) => (∀ d, d ≠ e → t.elem d = s.elem d) ∧ s.sameRegs t
  let record := fun (s t : State) (e r : Nat) (v : State.Spillable) => let a := s.spillAddr e r
    s.sameBytesBut t a 256 ∧ Memory.read t.mem a 256 = v.record s.cycle % 2 ^ 2048 ∧
    (t.elem e).spills = (s.elem e).spills ++ [{ record := r, since := s.cycle, retry := v.retry }] ∧ (t.elem e).spFree = max (s.elem e).spFree s.cycle + 2
  let faulted := fun (s t : State) (e code : Nat) (v : StoreTok) => (t.elem e).store = ((s.elem e).store ++ [v]).replace v { v with faulted := true } ∧
    (∀ q, s.fieldAt e = some q → (s.field q).fault = none → ∃ r, (t.field q).fault = some (code, r) ∧ r.f2 = v.token.tag ∧ r.f5 = v.token.payload.setWidth 64)
  let combined := fun (s t : State) (e slot : Nat) (x : Token) (stamp : Nat) => let y := s.elem e; let f := y.active.fields slot; let op := f.extra.toNat % 8
    let base : CombSt := ((y.combs.find? fun c => c.slot == slot && c.tag == x.tag && decide (c.taken < f.ext.toNat)).getD
      { slot := slot, tag := x.tag, width := x.width, taken := 0, valid := 0, payload := 0, allEos := true, stamp := stamp })
    let old := y.combs.any fun c => c.slot == slot && c.tag == x.tag && decide (c.taken < f.ext.toNat)
    let w := 2 ^ base.width; let v := if x.kind = kEos then 0 else x.valid; let sg := isSignedFmt (fmtOf f)
    let mix := fun (a b : Nat) => if op = 0 then (a + b) % 2 ^ w else if op = 1 then a &&& b else if op = 2 then a ||| b else if op = 3 then a ^^^ b
      else if op = 4 then (if laneInt sg w b < laneInt sg w a then b else a) else if op = 5 then (if laneInt sg w a < laneInt sg w b then b else a) else (a + 1) % 2 ^ w
    ∃ c : CombSt, (t.elem e).combs = (if old then y.combs.map (fun z => if z = base then c else z) else y.combs ++ [c]) ∧ (t.elem e).store = y.store ∧ c.slot = base.slot ∧
      c.tag = base.tag ∧ c.width = base.width ∧ c.taken = base.taken + 1 ∧ c.valid = max base.valid v ∧ (c.allEos = true ↔ base.allEos = true ∧ x.kind = kEos) ∧ c.stamp = max base.stamp stamp ∧
      ∀ i < max base.valid v, let a := bits base.payload (w * i) w; let b := bits x.payload.toNat (2 ^ x.width * i) (2 ^ x.width)
        bits c.payload (w * i) w = (if i < v then if i < base.valid then mix a b else if op = 6 then 1 else b else a) % 2 ^ w
  let accepted := fun (s t : State) (e slot pos : Nat) (x : Token) (stamp : Nat) (retry : Bool) (l : List SpillSt) => let y := s.elem e; let p := y.active
    let v : StoreTok := { slot := slot, pos := pos, token := x, stamp := stamp, retry := retry }
    (p.reads slot pos = false → faulted s t e 0x0B v) ∧
    (p.reads slot pos = true → p.opcode slot = 0x09 →
      ((x.kind = kArc ∨ some x.width ≠ fmtWidth (fmtOf (p.fields slot))) → faulted s t e 0x08 v) ∧
      (¬(x.kind = kArc ∨ some x.width ≠ fmtWidth (fmtOf (p.fields slot))) → combined s t e slot x stamp ∧ s.sameBytes t)) ∧
    (p.reads slot pos = true → p.opcode slot ≠ 0x09 → (t.elem e).store = y.store ++ [v] ∧ (t.elem e).combs = y.combs ∧ s.sameBytes t ∧
      looped s t e slot pos x stamp l)
  let dropped := fun (s t : State) (k : Nat) => erased s t k ∧ t.elems = s.elems ∧ s.sameBytes t ∧ s.sameRegs t
  (∀ (f : ReapSt) (g : Tag), reaps f g = true ↔ g.extractLsb' 52 12 = f.key.extractLsb' 52 12 ∧ f.level < (g.extractLsb' 48 4).toNat ∧
    (∀ k < f.level, tagField g k = tagField f.key k) ∧ (tagField g f.level + 256 - f.first) % 256 < f.count) ∧
  (∀ (v : StoreTok) (now : Nat), (State.Spillable.tok v).record now = tokenRecord v.token v.slot v.pos (if v.faulted then 1 else 0) (now - v.stamp) 0) ∧
  (∀ (y : ElemSt) (v : State.Spillable), let mine := fun (u : State.Spillable) => (∃ w ∈ y.store, w.faulted = false ∧ u = .tok w) ∨ ∃ c ∈ y.combs, u = .comb c
    State.evictee y = some v → mine v ∧ (∀ u, mine u → u.tag = v.tag → u.stamp ≤ v.stamp) ∧
      ∀ u, mine u → ∃ w, mine w ∧ w.tag = u.tag ∧ ∀ z, mine z → z.tag = v.tag → w.stamp ≤ z.stamp) ∧
  (∀ (s : State) (x : FlightSt) (e slot pos : Nat), let k := s.focus.index; let y := s.elem e; let i : Instr := .tokenArrival; let g := x.token.tag
    Table.find? s.flights k = some x → State.boundElem x.bound = some (e, slot, pos) →
    (x.feed = none → x.token.kind ≠ kReap → s.atInput k x = false → exec i s = .refused .notEnabled) ∧
    (x.feed = none → x.token.kind ≠ kReap → s.atInput k x = true →
      ((∃ r ∈ y.reaps, reaps r g = true) → ∃ t, exec i s = .next t ∧ dropped s t k) ∧ ((∀ r ∈ y.reaps, reaps r g = false) →
        let back := if y.active.opcode slot = 0x09 then s.spilledKey e slot pos g else none
        (∀ r, back = some r → (r ∈ y.reloadNext → exec i s = .refused .notEnabled) ∧ (r ∉ y.reloadNext → ∃ t, exec i s = .next t ∧ others s t e ∧
          t.elem e = { y with reloadNext := y.reloadNext ++ [r] } ∧ { t with elems := s.elems } = s)) ∧ (back = none → let again := s.spilledKey e slot pos g
        (gate s e slot pos x.token x.isLocal → ∃ t, exec i s = .next t ∧ erased s t k ∧ others s t e ∧ accepted s t e slot pos x.token s.cycle false y.spills ∧
          (t.elem e).reloadNext = ask y.reloadNext again) ∧
        (¬ gate s e slot pos x.token x.isLocal → x.isLocal = true → (∀ r, s.freeSpill e = some r → ∃ t, exec i s = .next t ∧ erased s t k ∧ others s t e ∧
          record s t e r (.tok { slot := slot, pos := pos, token := x.token, stamp := s.cycle }) ∧ (t.elem e).store = y.store ∧
          (t.elem e).reloadNext = ask y.reloadNext again) ∧
          (s.freeSpill e = none → exec i s = .refused .notEnabled)) ∧
        (¬ gate s e slot pos x.token x.isLocal → x.isLocal = false → let rest := fun (v : State.Spillable) (z : ElemSt) =>
            (∀ u, v = .tok u → z.store = y.store.erase u ∧ z.combs = y.combs) ∧ ∀ c, v = .comb c → z.store = y.store ∧ z.combs = y.combs.erase c
          let room := fun (v : State.Spillable) => ∀ z : ElemSt, rest v z → z.loops = y.loops → State.spillNeed z 0 (s.localTags e) + 1 ≤ s.spillsFree e;
          (x.evicted = true ∨ s.cycle < y.spFree ∨ State.evictee y = none ∨ (∃ v, State.evictee y = some v ∧ ¬ room v) → exec i s = .refused .notEnabled) ∧
          (x.evicted = false → y.spFree ≤ s.cycle → ∀ v, State.evictee y = some v → room v → ∃ t r, exec i s = .next t ∧ s.freeSpill e = some r ∧ others s t e ∧ record s t e r v ∧
            rest v (t.elem e) ∧ Table.find? t.flights k = some { x with evicted := true }))))) ∧
    (∀ n plot rank j, Table.sorted s.flights = true → x.feed = some (n, plot, rank, j) → x.at_ ≤ s.cycle → s.overtakes k x = false →
      let stopped := s.elemActive e = false ∨ (∃ r, Table.find? s.riders n = some r ∧ y.owner ≠ r.tenant) ∨ s.inputClosed e = true ∨ ∃ q, s.fieldAt e = some q ∧ s.fieldGated q = true
      let refused := ∃ t, exec i s = .next t ∧ t.elems = s.elems ∧ s.sameBytes t ∧ (∀ m z, Table.find? t.flights m = some z ↔ m ≠ k ∧ Table.find? s.flights m = some z ∧
          ∀ l, z.feed ≠ some (n, plot, rank, l)) ∧ ∀ r, Table.find? s.riders n = some r → let before := ∃ l, (plot, rank, l) ∈ r.refused
          (before → Table.find? t.riders n = some { r with twice := (plot, rank) :: r.twice }) ∧
          (¬ before → Table.find? t.riders n = some { r with refused := (plot, rank, j) :: r.refused, again := (plot, rank) :: r.again })
      (stopped → refused) ∧ (¬ stopped →
        (y.active.reads slot pos = false → ∃ t, exec i s = .next t ∧ dropped s t k ∧ ∀ r, Table.find? s.riders n = some r → ∃ z, Table.find? t.riders n = some z ∧
          (plot, rank) ∈ z.dropped ∧ { z with dropped := r.dropped } = r) ∧
        (y.active.reads slot pos = true → ((∃ r ∈ y.reaps, reaps r g = true) → ∃ t, exec i s = .next t ∧ dropped s t k) ∧ ((∀ r ∈ y.reaps, reaps r g = false) →
          (gate s e slot pos x.token false → ∃ t, exec i s = .next t ∧ erased s t k ∧ others s t e ∧ accepted s t e slot pos x.token s.cycle false y.spills) ∧
          (¬ gate s e slot pos x.token false → refused)))))) ∧
  (∀ (s : State) (x : FlightSt) (e : Nat), let k := s.focus.index; Table.find? s.flights k = some x → x.bound = .share e → x.feed = none → x.at_ ≤ s.cycle →
    s.overtakes k x = false → s.elemActive e = true → ∃ t, exec .tokenArrival s = .next t ∧ dropped s t k) ∧
  (∀ (s : State), let e := s.focus.elem; let y := s.elem e; let i : Instr := .reload
    let reloads := fun (r : SpillSt) => let w := Memory.read s.mem (s.spillAddr e r.record) 256
      let v : StoreTok := { slot := bits w 96 4, pos := bits w 104 8, token := recordToken w, stamp := r.since - bits w 128 64, faulted := w.testBit 112, retry := r.retry }
      let rest := y.spills.filter (fun z => z.record != r.record)
      ∃ t, exec i s = .next t ∧ others s t e ∧ (w.testBit 113 = true → s.sameBytes t ∧ (t.elem e).store = y.store ∧ (t.elem e).combs = y.combs ++
          [{ slot := v.slot, tag := v.token.tag, width := v.token.width, taken := bits w 192 16, valid := v.token.valid, payload := v.token.payload.toNat,
             allEos := v.token.kind == kEos, stamp := v.stamp }]) ∧
        (w.testBit 113 = false → y.active.opcode v.slot = 0x09 → accepted s t e v.slot v.pos v.token v.stamp v.retry rest) ∧
        (w.testBit 113 = false → y.active.opcode v.slot ≠ 0x09 → s.sameBytes t ∧ looped s t e v.slot v.pos v.token v.stamp rest ∧ ∃ A B, y.store = A ++ B ∧
          (t.elem e).store = A ++ v :: B ∧ (∀ u ∈ A, u.stamp ≤ v.stamp) ∧ (∀ u ∈ B.head?, v.stamp < u.stamp)) ∧ (t.elem e).spills = rest ∧
        (t.elem e).reloadNext = y.reloadNext.filter (fun m => m != r.record) ∧
        (t.elem e).spFree = max y.spFree s.cycle + 2
    let n := y.store.length + y.combs.length + y.loops.length
    (s.cycle < y.spFree ∨ s.elemActive e = false → exec i s = .refused .notEnabled) ∧ (y.spFree ≤ s.cycle → s.elemActive e = true →
      (∀ q l, y.reloadNext = q :: l → (∀ r, n < 64 → y.spills.find? (fun z => z.record == q) = some r → reloads r) ∧ (64 ≤ n → exec i s = .refused .notEnabled)) ∧
      (y.reloadNext = [] → n ≤ 47 → y.spills ≠ [] → ∃ r ∈ y.spills, (∀ z ∈ y.spills, came s e r ≤ came s e z) ∧ reloads r) ∧
      (y.reloadNext = [] → 47 < n ∨ y.spills = [] → exec i s = .refused .notEnabled))) ∧
  (∀ (s : State) (x : FlightSt) (e slot pos : Nat), let k := s.focus.index; let y := s.elem e; let i : Instr := .reapToken
    Table.find? s.flights k = some x → State.boundElem x.bound = some (e, slot, pos) → x.token.kind = kReap →
    (s.atInput k x = false ∨ 8 ≤ y.reaps.length → exec i s = .refused .notEnabled) ∧ (s.atInput k x = true → y.reaps.length < 8 →
      let f : ReapSt := { key := tagOuter x.token.tag, first := (tagIx x.token.tag + 1) % 256, count := x.token.payload.toNat % 256, level := tagDepth x.token.tag - 1 }
      ∃ t, exec i s = .next t ∧ erased s t k ∧ others s t e ∧ s.sameBytes t ∧ (t.elem e).reaps = y.reaps ++ [f] ∧
        (t.elem e).store = y.store.filter (fun u => !reaps f u.token.tag) ∧ (t.elem e).combs = y.combs.filter (fun c => !reaps f c.tag) ∧
        (∀ l ∈ y.loops, l ∉ (t.elem e).loops → l.i = l.x ∧ ∀ u ∈ (t.elem e).store, u.slot = l.slot → tagOuter u.token.tag ≠ l.key) ∧
        ∀ r, r ∈ (t.elem e).spills ↔ r ∈ y.spills ∧ reaps f (BitVec.ofNat 64 (Memory.read s.mem (s.spillAddr e r.record) 8)) = false)) ∧
  (∀ (s : State) (f : ReapSt), let e := s.focus.elem; let y := s.elem e; let i : Instr := .reapFilterRetire; y.reaps[s.focus.index]? = some f →
    let inBed := fun (d : Nat) => d ∈ planeElems (s.planeAt e) ∧ (s.elem d).active.bed = y.active.bed
    (s.bedClean e f = true → ∃ t, exec i s = .next t ∧ (t.elem e) = { y with reaps := y.reaps.eraseIdx s.focus.index } ∧ others s t e ∧ { t with elems := s.elems } = s) ∧
    ((∃ d, inBed d ∧ ((∃ u ∈ (s.elem d).store, reaps f u.token.tag = true) ∨ (∃ c ∈ (s.elem d).combs, reaps f c.tag = true) ∨
      (∃ o ∈ (s.elem d).outq ++ (s.elem d).scaleq ++ (s.elem d).mailq, reaps f o.token.tag = true) ∨ ∃ g ∈ s.flights, ∃ n m, State.boundElem g.2.bound = some (d, n, m) ∧
        reaps f g.2.token.tag = true)) → exec i s = .refused .notEnabled)) ∧
  ∀ (s : State), let k := s.focus.index; let f := s.field k; let i : Instr := .matchExhausted
    let due := f.halted = false ∧ f.fault = none ∧ ∃ c, f.fullSince = some c ∧ max c f.lastIssue + 65536 ≤ s.cycle
    (¬ due → exec i s = .refused .notEnabled) ∧ (due → ∀ A e B, planeElems f.word = A ++ e :: B → (∀ d ∈ A, s.spillFull d = false) → s.spillFull e = true →
      ∃ t, exec i s = .next t ∧ s.sameRegs t ∧ (s.fieldAt e = some k → ∃ r, (t.field k).fault = some (0x09, r) ∧ r.f1.extractLsb' 28 5 = BitVec.ofNat 5 (elemY e) ∧
        r.f1.extractLsb' 33 5 = BitVec.ofNat 5 (elemX e) ∧ r.f1.extractLsb' 22 2 = 3))

/-- R186, R191, R330, R331, R354, R355: the boundary of a step, rides that end and begin, what a guard saves and an edge restores. The header of an
element's area is the model's (log entry 47, DEDUCED). -/
def Obligations.StepsEndAndSlotsChange : Prop :=
  (∀ (s : State), let i : Instr := .stepBoundary
    (s.stepCyc < s.stepLen → exec i s = .refused .notEnabled) ∧ (s.stepLen ≤ s.stepCyc → ∃ t, exec i s = .next t ∧ t.cycle = s.cycle ∧ t.stepCyc = 0 ∧
      (s.cursor ≠ 4095 → t.cursor = s.cursor + 1 ∧ t.passNo = s.passNo ∧ t.sweep = s.sweep ∧ t.sweepNext = s.sweepNext) ∧
      (s.cursor = 4095 → t.cursor = 0 ∧ t.passNo = s.passNo + 1 ∧
        (∀ x, s.sweepNext = some x → s.sweepPass ≤ s.passNo + 1 → t.sweep = x ∧ t.sweepNext = none) ∧
        (∀ x, s.sweepNext = some x → s.passNo + 1 < s.sweepPass → t.sweep = s.sweep ∧ t.sweepNext = some x) ∧ (s.sweepNext = none → t.sweep = s.sweep)) ∧
      (Table.sorted s.riders = true → ∀ n r, Table.find? s.riders n = some r →
        (r.phase = .aboard → (∀ f ∈ s.flights, ∀ p k j, f.2.feed ≠ some (n, p, k, j)) →
          r.cancelled = true ∨ (r.held = [] ∧ r.again = [] ∧ ((r.refused = [] ∧ r.s0 + 4096 ≤ t.stepNo) ∨ r.s0 + 8192 ≤ t.stepNo)) →
          Table.find? t.riders n = none) ∧
        (r.phase = .admitted → r.kind < 10 → r.admittedAt + 16 ≤ s.cycle →
          (∀ q ∈ s.riders, q.2.phase = .admitted → 10 ≤ q.2.kind → q.2.tenant = r.tenant → n ≤ q.1) → ∃ z, Table.find? t.riders n = some z ∧ z.phase = .aboard ∧ z.s0 = t.stepNo ∧ z.b = t.cursor ∧
          z.kind = r.kind ∧ z.card = r.card)) ∧
      ∀ p < numParts, (s.part p).dies ≠ 0 → (s.part p).inGuard = true → s.edgeIn p = some 0 → (t.part p).inGuard = false ∧
        ∀ n, t.running p ≠ 0 → t.placeOf p (t.running p) = some n → (t.place p n).saved = false)) ∧
  (∀ (s : State) (n : Nat) (r : RiderSt), let t := s.endRide n r; let st := r.cardAt + 56; let c := r.card; let normen := (c.getD 0 0).getLsbD 29; let dig := (c.getD 0 0).getLsbD 31
    let k := ((c.getD 0 0).extractLsb' 25 4).toNat; let p := s.part r.part; let u := t.part r.part
    Table.find? t.riders n = none ∧ s.sameRegs t ∧
    (∀ z, r.done = .direct z → Memory.read t.mem z 8 = r.value.toNat ∧ (z + 8 ≤ st ∨ st + 8 ≤ z → normen = false → ∃ q : RiderSt, { q with dropped := r.dropped } = r ∧
      (∀ d ∈ q.dropped, d ∈ r.dropped ∨ (r.kind = 3 ∧ d.2 = 4096)) ∧ Memory.read t.mem st 8 =
        r.status % 2 ^ 32 + (if r.cancelled = true ∧ r.status.testBit 11 = false then 2 ^ 11 else 0) + min (State.lateOf q) 65535 * 2 ^ 32 + min (State.neverOf q) 65535 * 2 ^ 48)) ∧
    (normen = true → u.norm k = if r.normInf = true ∨ 2 ^ 128 ≤ (p.norm k).value + r.normPart then { value := 2 ^ 128 - 1, sat := true } else
      { p.norm k with value := (p.norm k).value + r.normPart }) ∧ (normen = false → u.norm k = p.norm k) ∧
    u.digest k = (if dig then (p.digest k + r.digPart) % 2 ^ 128 else p.digest k) ∧ ∀ j, j ≠ k → u.norm j = p.norm j ∧ u.digest j = p.digest j) ∧
  (∀ (s : State) (n : Nat) (r : RiderSt), let y := s.thread r.thread
    (r.kind < 10 → let t := s.boardOne (n, r); (∃ z, Table.find? t.riders n = some z ∧ z.phase = .aboard ∧ z.id = r.id) ∧ (∀ m, m ≠ n → Table.find? t.riders m = Table.find? s.riders m) ∧
      (r.source ≠ 4 → ∀ g, y.boardGd = some (g, n) →
        (s.recordKept r.thread = false → t.gprOf r.thread g = (if g = 0 then 0 else r.id) ∧ s.sameRegsBut t r.thread g ∧ (t.thread r.thread).boardGd = none) ∧
        (s.recordKept r.thread = true → t.thread r.thread = { y with boardVal := some r.id } ∧ s.sameRegs t))) ∧
    (r.kind < 10 → r.source ≠ 4 → y.run = .waiting → y.wait.code = .admission → y.wait.id = n → let t := s.admitRider n r
      Table.find? t.riders n = some { r with phase := .admitted, admittedAt := s.cycle, pinned := true } ∧ (t.thread r.thread).run = .ready ∧
      (t.thread r.thread).pc = y.pc + 4 ∧ (t.thread r.thread).boardGd = some (r.gd, n) ∧ s.sameRegs t) ∧
    (10 ≤ r.kind → Table.sorted s.twins = true → let t := s.boardTwin n r; let commit := r.kind = 10 ∧ (s.place r.part r.place).divmark = false
      Table.find? t.riders n = none ∧ (t.place r.part r.place).divmark = false ∧
      (∀ plot pair rank, pair < 4 → rank < 4096 → let x := s.twin plot pair rank
        let here := x.pend = true ∧ plotIn r.card plot = true ∧ (s.rankIndex r.part r.tenant r.card rank).isSome ∧ 2 * pair ∈ layersOf r.card
        (here → t.twin plot pair rank = { sel := if commit then !x.sel else x.sel, pend := false, flip := if commit then precKey n r else x.flip }) ∧
        (¬ here → t.twin plot pair rank = x)) ∧
      (r.source ≠ 4 → y.boardGd = none → y.run = .waiting → y.wait.code = .twin → y.wait.id = n → t.gprOf r.thread y.wait.gd = 0 ∧
        s.sameRegsBut t r.thread y.wait.gd ∧ (t.thread r.thread).run = .ready ∧ (t.thread r.thread).pc = y.pc + 4))) ∧
  (∀ (s : State), let p := s.focus.part; let g := s.running p; let i : Instr := .guard
    (s.guardDue p = false → exec i s = .refused .notEnabled) ∧
    (s.guardDue p = true → s.guardSkips p = true → ∃ t, exec i s = .next t ∧ t.part p = { s.part p with armSkip := some s.passNo } ∧ { t with parts := s.parts } = s) ∧
    (s.guardDue p = true → s.guardSkips p = false → ∃ t, exec i s = .next t ∧ (t.part p).inGuard = true ∧ t.cursor = s.cursor ∧
      (∀ c < numCores, (s.part p).hasCore c = true → (t.core c).l1d = [] ∧ (t.core c).l1i = [] ∧ (t.core c).stores = [] ∧
        ∀ i < 4, (t.thread (4 * c + i)).predictor = [] ∧ (t.thread (4 * c + i)).returns = []) ∧
      (g = 0 → t.elems = s.elems ∧ t.savedElems = s.savedElems ∧ s.sameRegs t ∧ ∀ k, (t.thread k).pc = (s.thread k).pc) ∧
      (g ≠ 0 → Table.sorted s.threads = true → ∀ n, s.placeOf p g = some n → n ≠ 0 → (t.place p n).saved = true ∧
        (∀ k, let x := s.thread k; let z := t.thread k; let rd := fun (a o : Nat) => Memory.read t.mem (a + o) 8; let code := x.wait.code
          (s.partOf (coreOf k) = p → x.tenant = g → x.mode = false → x.run ≠ .free → x.run ≠ .resting →
            z.run = (if x.run = .stopped then .stopped else .resting) ∧ z.loads = [] ∧ z.hold = none ∧
            (z.savedRun = x.run ∨ (x.run = .waiting ∧ (code = .recv ∨ code = .fence) ∧ z.savedRun = .ready)) ∧
            ∀ a, k < numThreads → s.recordAt k = some a → (∀ c, (s.window c n).1 + (s.window c n).2 ≤ 2 ^ 19) →
              rd a 0 = runNumber z.savedRun + 256 * (if z.savedRun = .waiting then waitNumber z.wait.code else 0) ∧ rd a 8 = z.pc.toNat ∧
              (∀ r, 1 ≤ r → r < 32 → rd a (0x10 + 8 * (r - 1)) = (t.gprOf k (BitVec.ofNat 5 r)).toNat) ∧
              rd a 0x118 = z.epc.toNat ∧ rd a 0x120 = z.ecause.toNat ∧ rd a 0x128 = z.eval.toNat ∧ rd a 0x138 = z.frec.f0.toNat ∧
              ∀ i < 4, ∀ q, z.pend[i]? = some q → rd a (0x1A0 + 16 * i) = (BitVec.ofNat 64 (2 ^ 63 + q.code)).toNat ∧ rd a (0x1A8 + 16 * i) = q.frec.f0.toNat) ∧
          (x.mode = true ∨ s.partOf (coreOf k) ≠ p ∨ x.tenant ≠ g → ¬(x.run = .waiting ∧ code = .recv) → z.pc = x.pc ∧
            (z.run = x.run ∨ (x.run = .waiting ∧ code = .fence ∧ z.run = .ready)))) ∧
        (∀ e, s.elemPart e = p → (s.elem e).activeOf.isSome → (s.elem e).owner = g → Table.find? t.elems e = none ∧ ∃ x, Table.find? t.savedElems (e * 16 + n) = some x ∧
          x.active = (s.elem e).active ∧ x.shadow = (s.elem e).shadow ∧ x.activeOf = (s.elem e).activeOf ∧ x.modq = (s.elem e).modq ∧ x.accs = (s.elem e).accs ∧
          ∀ a, s.saveAt e n = some a → ∃ free : Nat → Nat, Memory.read t.mem a 32768 = saveArea x g s.when s.cycle free % 2 ^ 262144)))) ∧
  (∀ (x : ElemSt) (g now : Nat) (when_ : Word) (free : Nat → Nat), let at_ := fun (o n : Nat) => saveArea x g when_ now free / 2 ^ (8 * o) % 2 ^ (8 * n)
    let n := x.store.length + x.combs.length + x.loops.length; let act := recordOfPlane x.active; let sh := recordOfPlane x.shadow
    g < 2 ^ 64 → n < 256 → x.outq.length < 256 → x.scaleq.length < 256 → x.reaps.length < 256 → x.spills.length < 2 ^ 16 → act < 2 ^ 4096 → sh < 2 ^ 4096 →
    x.active.fpc < 2 ^ 32 → x.fpf < 2 ^ 32 → Table.sorted x.modq = true → (∀ q ∈ x.modq, q.1 < 16 ∧ q.2 < 2 ^ 64) →
      at_ 0 8 = g ∧ at_ 8 8 = when_.toNat ∧ at_ 16 1 = n ∧ at_ 17 1 = x.outq.length ∧ at_ 18 1 = x.scaleq.length ∧ at_ 19 1 = min 8 x.captured.length ∧
      at_ 20 1 = x.reaps.length ∧ at_ 32 8 = (x.activeOf.getD 0).toNat ∧ at_ 40 8 = (x.shadowOf.getD 0).toNat ∧ at_ 0x100 512 = act ∧ at_ 0x300 512 = sh ∧
      at_ 0x500 4 = x.active.fpc ∧ at_ 0x504 4 = x.fpf ∧ ∀ m < 16, at_ (0x508 + 8 * m) 8 = Table.getD x.modq m 0) ∧
  (∀ (s : State) (e n : Nat) (x : ElemSt), n < 16 → (s.elem e).activeOf = none → let t := s.restoreElem n (e * 16 + n, x); let y := t.elem e
    (s.saveAt e n = none → y = { x with captured := [], owed := [] } ∧ ∀ f ∈ x.captured ++ x.owed, ∃ k, Table.find? t.flights k = some f) ∧
    (∀ a, s.saveAt e n = some a → let at_ := fun (o m : Nat) => Memory.read s.mem (a + o) m
      y.active = { planeOfRecord (at_ 0x100 512) with fpc := at_ 0x500 4 % 16 } ∧ y.shadow = planeOfRecord (at_ 0x300 512) ∧
      y.activeOf = (if at_ 24 8 % 2 = 1 then some (BitVec.ofNat 64 (at_ 32 8)) else none) ∧ y.fpf = at_ 0x504 4 % 64 ∧
      (∀ m < 16, Table.getD y.modq m 0 = at_ (0x508 + 8 * m) 8) ∧
      (∀ m ≤ 1, ∀ j < 1024, Table.getD (Table.getD y.accs m {}).cells j 0 = at_ (0x1600 + 0x1000 * m + 4 * j) 4) ∧ y.outq.length ≤ at_ 17 1 ∧
      ∀ f ∈ x.captured.drop 8 ++ x.owed, ∃ k, Table.find? t.flights k = some f)) ∧
  (∀ (s : State) (k a : Nat), let x := s.thread k; let t := s.restoreThread k; let z := t.thread k; let rd := fun (o : Nat) => Memory.read s.mem (a + o) 8
    s.recordAt k = some a → rd 0 = 1 → rd 8 % 4 = 0 → rd 0x108 % 2 = 0 → (∀ i < 68, rd (0x1E0 + 8 * i) = 0) → x.savedRun ≠ .waiting → x.boardVal = none →
      z.run = (if x.brkStop then .stopped else .ready) ∧ z.pc = BitVec.ofNat 64 (rd 8) ∧
      (∀ r, 1 ≤ r → r < 32 → t.gprOf k (BitVec.ofNat 5 r) = BitVec.ofNat 64 (rd (0x10 + 8 * (r - 1)))) ∧ z.epc = BitVec.ofNat 64 (rd 0x118) ∧
      z.eval = BitVec.ofNat 64 (rd 0x128) ∧ z.frec.f2 = BitVec.ofNat 64 (rd 0x148) ∧ s.otherThreads t k ∧ s.sameBytes t) ∧
  (∀ (s : State), let k := s.focus.index; let i : Instr := .rowCommit
    let due := ((∃ a, Table.find? s.rowBufs k = some a ∧ a + 1 ≤ s.stepNo) ∨ k ∈ s.parkedRows) ∧ (s.layer (elemDie (rowPlot k)) (rowLayer k)).mode = .swept ∧ (s.plot (rowPlot k)).power = .active
    (due → ∃ t, exec i s = .next t ∧ Table.find? t.rowBufs k = none ∧ (∀ j, j ≠ k → Table.find? t.rowBufs j = Table.find? s.rowBufs j) ∧
      (∀ j, j ∈ t.parkedRows ↔ j ∈ s.parkedRows ∧ j ≠ k) ∧ { t with rowBufs := s.rowBufs, parkedRows := s.parkedRows } = s) ∧
    (¬ due → exec i s = .refused .notEnabled)) ∧
  ∀ (s : State), let p := s.focus.part; let i : Instr := .tlbInvalidationDone
    (∀ x, (s.part p).tlbi = some x → s.tlbiPinned p x = false → ∃ t, exec i s = .next t ∧ t.part p = { s.part p with tlbi := none } ∧ s.sameRegs t ∧ s.sameBytes t ∧
      { t with parts := s.parts, threads := s.threads } = s ∧
      ∀ k < numThreads, (s.thread k).run = .waiting → (s.thread k).wait.code = .none → (t.thread k).run = .ready ∧ (t.thread k).pc = (s.thread k).pc) ∧
    (((s.part p).tlbi = none ∨ ∃ x, (s.part p).tlbi = some x ∧ s.tlbiPinned p x = true) → exec i s = .refused .notEnabled)

/-- R292, R360 to R366, R382: heat, power and errors. The conditions are those that the governor and the hub report in the focus. The model's choices:
an announced sweep state is two passes ahead (log entry 78), the watchdog's count starts again at 0 (79), and one pass below 85 degrees is 4096 steps between
readings (120). -/
def Obligations.HeatPowerAndErrorsAreHandled : Prop :=
  let order : List SweepState := [.p0, .p1, .p2, .p3, .p4]
  let wants := fun (s t : State) (x : SweepState) => s.sameRegs t ∧ s.sameBytes t ∧ t.sweep = s.sweep ∧
    (s.hub.locked = true → t.hub.asked = some x ∧ t.sweepNext = s.sweepNext ∧ t.sweepPass = s.sweepPass) ∧
    (s.hub.locked = false → t.sweepNext = some x ∧ t.sweepPass = 0 ∧ t.hub.asked = s.hub.asked)
  let refuses := fun (i : Instr) (s : State) => exec i s = .refused .notEnabled
  let rowsOf := fun (d l k : Nat) => k / 4096 / 8 / 1024 = d ∧ k / 4096 % 8 = l
  let parks := fun (s t : State) (moved : Nat → Prop) => (∀ k ∈ t.parkedRows, k ∈ s.parkedRows ∨ moved k) ∧ (∀ k ∈ s.parkedRows, k ∈ t.parkedRows) ∧
    ∀ k, moved k → k ∈ t.parkedRows ∨ 4 ≤ (t.parkedRows.filter fun j => decide (j / 4096 / 8 = k / 4096 / 8)).length
  let mine := fun (c k : Nat) => localBase c + 0x7F000 ≤ k ∧ k < localBase c + 0x80000
  (∀ (s : State), let x := s.focus.index; let d := s.focus.die; let l := s.focus.layer; let named := d < 4 ∧ l < 8; let y := s.layer d l
    let others := fun (t : State) => ∀ a b, a < 4 → b < 8 → ¬(a = d ∧ b = l) → t.layer a b = s.layer a b
    (∀ n a b, order[n]? = some a → order[n + 1]? = some b → s.sweep = a → 360 < x → named → ∃ t, exec .thermalSlowdown s = .next t ∧ wants s t b ∧
      (t.layer d l).temp = x ∧ t.hub.hotPass = s.passNo) ∧
    (s.sweep = .p4 ∨ x ≤ 360 ∨ ¬ named → refuses .thermalSlowdown s) ∧
    (∀ n a b, order[n]? = some a → order[n + 1]? = some b → s.sweep = b → x < 320 → s.hub.hotPass + 16 ≤ s.passNo → ∃ t, exec .thermalSpeedup s = .next t ∧ wants s t a) ∧
    (320 ≤ x → named → ∃ t, exec .thermalSpeedup s = .next t ∧ s.sameRegs t ∧ s.sameBytes t ∧ (t.layer d l).temp = x ∧ others t ∧ t.hub.hotPass = s.passNo ∧ t.sweepNext = s.sweepNext ∧
      t.hub.asked = s.hub.asked) ∧
    ((x < 320 ∧ (s.sweep = .p0 ∨ s.passNo < s.hub.hotPass + 16)) ∨ (320 ≤ x ∧ ¬ named) → refuses .thermalSpeedup s) ∧
    (s.hub.locked = true → ∃ t, exec .sweepStateAnnounce s = .next t ∧ t.sweepNext = some s.focus.sweep ∧ t.sweepPass = s.passNo + 2 ∧ t.hub.asked = none ∧
      { t with sweepNext := s.sweepNext, sweepPass := s.sweepPass, hub := s.hub } = s) ∧ (s.hub.locked = false → refuses .sweepStateAnnounce s) ∧
    (named → y.mode = .swept → 392 < x → ∃ t, exec .layerPark s = .next t ∧ t.layer d l = { y with mode := .parked, parkNext := false, unparkNext := false, temp := x, coolFrom := none } ∧
      others t ∧ s.sameRegs t ∧ parks s t (fun k => (∃ a, (k, a) ∈ s.rowBufs) ∧ rowsOf d l k) ∧
      (∀ k a, (k, a) ∈ t.rowBufs ↔ (k, a) ∈ s.rowBufs ∧ ¬ rowsOf d l k) ∧ (∀ k, (∀ c < numCores, ¬ mine c k) → Memory.get t.mem k = Memory.get s.mem k) ∧
      (∃ w, t.notices = s.notices ++ w ∧ w.map (fun n => (n.core, n.word0.extractLsb' 0 8)) = (List.range 8).map fun j => (d * 8 + j, 7))) ∧
    (named → y.mode = .swept → 380 < x → x ≤ 392 → s.sweep = .p4 → ∃ t, exec .layerPark s = .next t ∧ t.layer d l = { y with parkNext := true, temp := x, coolFrom := none } ∧ others t ∧
      s.sameRegs t ∧ s.sameBytes t ∧ t.rowBufs = s.rowBufs ∧ t.parkedRows = s.parkedRows) ∧
    (¬ named ∨ y.mode ≠ .swept ∨ x ≤ 380 ∨ (x ≤ 392 ∧ s.sweep ≠ .p4) → refuses .layerPark s) ∧
    (named → y.mode = .parked → ∃ t, exec .layerUnpark s = .next t ∧ others t ∧ s.sameRegs t ∧ s.sameBytes t ∧
      ∃ u : Bool, (u = true ↔ y.unparkNext = true ∨ (x < 340 ∧ ∃ c, y.coolFrom = some c ∧ c + 4096 ≤ s.stepNo)) ∧
        t.layer d l = { y with unparkNext := u, temp := x, coolFrom := if x < 340 then some (y.coolFrom.getD s.stepNo) else none }) ∧
    (¬ named ∨ y.mode ≠ .parked → refuses .layerUnpark s) ∧
    (named → y.mode = .parked → 400 ≤ x ∨ 50000000 ≤ y.parkedNs → ∃ t, exec .layerPowerOff s = .next t ∧
      t.layer d l = { y with mode := .off, parkNext := false, unparkNext := false, temp := x, coolFrom := if x < 340 then some (y.coolFrom.getD s.stepNo) else none } ∧ others t ∧ s.sameRegs t ∧ t.rowBufs = s.rowBufs ∧
      (∀ k, k ∈ t.parkedRows ↔ k ∈ s.parkedRows ∧ ¬ rowsOf d l k) ∧
      (∃ w, t.notices = s.notices ++ w ∧ w.map (fun n => (n.core, n.word0.extractLsb' 0 16)) = (List.range 8).map (fun j => (d * 8 + j, 0x1009)) ∧
        ∀ n ∈ w, n.detail0.toNat = (s.parkedRows.filter fun k => decide (rowsOf d l k)).length % 2 ^ 64)) ∧
    (¬ named ∨ y.mode ≠ .parked ∨ (x < 400 ∧ y.parkedNs < 50000000) → refuses .layerPowerOff s)) ∧
  (∀ (s : State), let n := s.focus.index; let p := s.plot n
    let asleep := fun (t : State) (x : PlotSt) => t.plot n = x ∧ (∀ m, m ≠ n → t.plot m = s.plot m)
    let trip := s.focus.flag = true ∧ s.focus.slot = 1; let busy := s.liveAccs n = true ∨ s.heldIn n = true
    (n < 4096 → p.power = .active → s.focus.power ≠ .active → s.focus.flag = true ∨ ¬ busy → ∃ t, exec .powerRequest s = .next t ∧
      asleep t { power := s.focus.power, deferred := none } ∧ (∀ k a, (k, a) ∈ t.rowBufs ↔ (k, a) ∈ s.rowBufs ∧ k / 4096 / 8 ≠ n) ∧
      (trip → parks s t fun k => (∃ a, (k, a) ∈ s.rowBufs) ∧ k / 4096 / 8 = n) ∧ (¬ trip → t.parkedRows = s.parkedRows) ∧
      (∀ m r, Table.find? s.riders m = some r → Table.find? t.riders m = some
        (if r.phase = .aboard ∧ plotIn r.card n = true then { r with status := r.status ||| 2 ^ 9 } else r)) ∧
      { t with plots := s.plots, rowBufs := s.rowBufs, parkedRows := s.parkedRows, riders := s.riders } = s) ∧
    (n < 4096 → p.power = .active → s.focus.power ≠ .active → s.focus.flag = false → busy → ∃ t, exec .powerRequest s = .next t ∧
      asleep t { p with deferred := some (s.focus.power, s.stepNo) } ∧ { t with plots := s.plots } = s) ∧
    (4096 ≤ n ∨ p.power ≠ .active ∨ s.focus.power = .active → refuses .powerRequest s) ∧
    (n < 4096 → p.power ≠ .active → ∃ t, exec .plotWake s = .next t ∧ asleep t {} ∧ { t with plots := s.plots } = s) ∧
    (4096 ≤ n ∨ p.power = .active → refuses .plotWake s)) ∧
  (∀ (s : State), let c := s.focus.core; let x := s.core c; let v := BitVec.ofNat 64 (Memory.read s.mem (localBase c + 0x7F010) 8); let i : Instr := .coreWatchdog
    let n := if v = x.beatLast then x.beatSame + 1 else 0
    (x.beatArmed = false ∨ s.cycle < x.beatAt → refuses i s) ∧ (x.beatArmed = true → x.beatAt ≤ s.cycle → ∃ t, exec i s = .next t ∧ s.sameRegs t ∧
      t.core c = { x with beatLast := v, beatSame := if 4 ≤ n then 0 else n, beatAt := x.beatAt + 2 ^ 24 } ∧ (∀ d, d ≠ c → t.core d = s.core d) ∧
      (n < 4 → { t with cores := s.cores } = s) ∧
      (4 ≤ n → ∃ w, t.notices = s.notices ++ [w] ∧ w.core = c ∧ w.word0.extractLsb' 0 16 = 0x140B ∧ w.detail0 = v ∧ s.sameBytesBut t (localBase c + 0x7F000) 0x1000))) ∧
  ∀ (s : State), let f := s.focus; let i : Instr := .edgeLineError; let line := f.addr / 128
    (s.sliceFind f.core f.index line = none → refuses i s) ∧ (∀ w, s.sliceFind f.core f.index line = some w → w.line = line → ∃ t, exec i s = .next t ∧ s.sameRegs t ∧
      let ways := fun (u : State) => u.set f.core line
      (w.dirty ≠ 0 → ways t = (ways s).filter (fun z => z.way != w.way) ∧ line ∈ t.poisoned ∧ (∀ z, z ≠ line → (z ∈ t.poisoned ↔ z ∈ s.poisoned)) ∧ s.sameBytes t ∧ t.retired = s.retired) ∧
      (w.dirty = 0 → f.flag = true → ways t = (ways s).filter (fun z => z.way != w.way) ∧ line / 32 ∈ t.retired ∧ (∀ z, z ≠ line / 32 → (z ∈ t.retired ↔ z ∈ s.retired)) ∧
        t.poisoned = s.poisoned ∧ (line / 32 ∈ t.shared ↔ line / 32 ∈ s.shared ∨ s.lineShared line (s.partOf f.core) w.tenant = true) ∧ ∃ h l, t.notices = s.notices ++ h :: l ∧ h.core = f.core ∧ h.word0.extractLsb' 0 16 = 0x1105 ∧ ∀ z ∈ l, z.word0.extractLsb' 0 16 = 0x1106) ∧
      (w.dirty = 0 → f.flag = false → ways t = (ways s).map (fun z => if z.way = w.way then { z with data := s.memLine line } else z) ∧ t.retired = s.retired ∧
        t.poisoned = s.poisoned ∧ ∃ h, t.notices = s.notices ++ [h] ∧ h.core = f.core ∧ h.word0.extractLsb' 0 16 = 0x1105))

/-- R361, R377, R378, R380 to R383: links and the host. Legal group entries are log entry 87, the time master and the lock 136, start records 140. -/
def Obligations.LinksAndHostReachTheDevice : Prop :=
  ∀ (s : State), let f := s.focus; let n := f.link; let x := s.link n; let h := s.hub
    let refuses := fun (i : Instr) => exec i s = .refused .notEnabled
    let otherLinks := fun (t : State) => ∀ m, m ≠ n → t.link m = s.link m
    let ended := fun (t : State) (hit : CollSt → Prop) => t.colls.map (fun e => e.1) = s.colls.map (fun e => e.1) ∧
      ∀ m c, Table.find? s.colls m = some c → ∃ d, Table.find? t.colls m = some d ∧ { d with result := c.result } = c ∧
        (hit c → c.result = none → ∃ r, d.result = some r ∧ r.outcome = 2 ∧ r.vector = [] ∧ r.detail = BitVec.ofNat 64 (n + x.peer * 2 ^ 16)) ∧
        (¬ hit c ∨ c.result ≠ none → d = c)
    let meets := fun (c : CollSt) (p : Nat → Prop) => ∃ y ∈ c.conf.members, y.1 ≠ h.device.toNat ∧ p y.1;
    (n < 16 → x.up = false → f.index < 1024 → ∃ t, exec .linkUp s = .next t ∧ t.link n = { up := true, peer := f.index, low := f.index, pass := 0, cursor := 0 } ∧ otherLinks t ∧
      { t with hub := { t.hub with links := h.links } } = s) ∧ (16 ≤ n ∨ x.up = true ∨ 1024 ≤ f.index → refuses .linkUp) ∧
    (n < 16 → x.up = true → ∃ t, exec .linkDown s = .next t ∧ t.link n = { x with up := false } ∧ otherLinks t ∧
      (let up := ∃ m l, (m, l) ∈ t.hub.links ∧ l.up = true; (t.hub.locked = true ↔ h.locked = true ∧ up) ∧
        ended t (fun c => n ∈ c.conf.links ∨ (h.locked = true ∧ ¬ up ∧ meets c fun _ => True))) ∧
      { t with colls := s.colls, hub := { t.hub with links := h.links, locked := h.locked } } = s) ∧ (16 ≤ n ∨ x.up = false → refuses .linkDown) ∧
    (let there := f.index * 4096 + f.slot; let here := s.passNo * 4096 + s.cursor;
      let low := min x.peer f.src; let near := here ≤ there + 1 ∧ there ≤ here + 1;
      (n < 16 → x.up = true → f.slot < 4096 → f.place ≤ 8 → ∃ t, exec .passMarker s = .next t ∧
        t.link n = { x with pass := f.index, cursor := f.slot, low := low } ∧ otherLinks t ∧
        let master := low < h.device.toNat ∧ ∀ m l, (m, l) ∈ t.hub.links → l.up = true → low ≤ l.low
        let alone := ∀ m l, (m, l) ∈ t.hub.links → l.up = true → h.device.toNat ≤ l.low;
        (¬ master ∨ h.trimmed = true → t.stepCyc = s.stepCyc ∧ t.hub.trimmed = h.trimmed) ∧
        (master → h.trimmed = false → t.hub.trimmed = true ∧
          t.stepCyc = if here < there then min s.stepLen (s.stepCyc + f.place) else s.stepCyc - f.place) ∧
        (t.hub.locked = true ↔ (near ∧ (h.locked = true ∨ (s.cursor = 0 ∧ (master ∨ alone)))) ∨ (¬ near ∧ ¬ master ∧ h.locked = true)) ∧
        ended t (fun c => ¬ near ∧ ((master ∧ h.locked = true ∧ meets c fun _ => True) ∨ (¬ master ∧ meets c fun d => d = x.peer))) ∧
        { t with stepCyc := s.stepCyc, colls := s.colls, hub := { t.hub with links := h.links, locked := h.locked, trimmed := h.trimmed } } = s) ∧
      (16 ≤ n ∨ x.up = false ∨ 4096 ≤ f.slot ∨ 8 < f.place → refuses .passMarker)) ∧
    (let k := 256 * f.part + f.index; let exists_ := f.part < numParts ∧ f.index < 256 ∧ (s.part f.part).dies ≠ 0;
      let put := fun (v : Option GroupSt) => ∃ t, exec .groupTableWrite s = .next t ∧ Table.find? t.groups k = v ∧ (∀ m, m ≠ k → Table.find? t.groups m = Table.find? s.groups m) ∧
        { t with groups := s.groups } = s;
      let legal := fun (g : GroupSt) => let p := g.members.length; 1 ≤ p ∧ p ≤ 1024 ∧ g.members[g.rank]? = some (h.device.toNat, f.part) ∧ (g.links ≠ [] ∨ ∀ y ∈ g.members, y.1 = h.device.toNat) ∧ g.tenant < 256 ∧ (∀ l ∈ g.links, l < 16) ∧
        (∀ m l, g.tree[m]? = some l → ∀ j ∈ l, j < p + m) ∧ g.tree.flatten.length + 1 = p + g.tree.length ∧ g.tree.flatten.Nodup;
      (exists_ → f.group = none → put none) ∧ (exists_ → ∀ g, f.group = some g → (legal g → put (some { g with seq := 0 })) ∧ (¬ legal g → refuses .groupTableWrite)) ∧
      (¬ exists_ → refuses .groupTableWrite)) ∧
    (let mask := fun (t : State) (p l : Nat) => Table.getD t.hub.masks (16 * p + l) 0
      let free := f.part < numParts ∧ n < 16 ∧ f.addr < 2 ^ 63 ∧ ∀ p < numParts, p ≠ f.part → mask s p n &&& f.addr = 0;
      (free → ∃ t, exec .frameMaskWrite s = .next t ∧ (∀ p l, l < 16 → mask t p l = if p = f.part ∧ l = n then f.addr else mask s p l) ∧
        { t with hub := { t.hub with masks := h.masks } } = s) ∧ (¬ free → refuses .frameMaskWrite)) ∧
    (let lowest := fun (c : Nat) => c < numCores ∧ (s.part f.part).hasCore c = true ∧ ∀ d < c, (s.part f.part).hasCore d = false
      let ok := f.words.length = 8 ∧ f.addr % 64 = 0 ∧ f.addr < 2 ^ 37 ∧ h.phase = .running; let i : Instr := .startRecord
      let w := fun (j : Nat) => f.words.getD j 0; let bad := f.addr / 4096 ∈ s.retired ∨ f.addr / 128 ∈ s.poisoned;
      (∀ c, lowest c → ok → (bad → ∃ t, exec i s = .next t ∧ t.hub = { h with refused := true, reply := [] } ∧ { t with hub := h } = s) ∧
        (¬ bad → ∃ t, exec i s = .next t ∧ { t with mem := s.mem, cores := s.cores } = s ∧ (∀ d, d ≠ c → t.core d = s.core d) ∧
          (let r : StartRec := { place := ((w 0).extractLsb' 0 8).toNat, strip := ((w 0).extractLsb' 8 8).toNat, thread := ((w 0).extractLsb' 16 2).toNat,
                                 entry := w 1, arg := w 2, stack := w 3, done := w 4, words := f.words };
            t.core c = { s.core c with starts := (s.core c).starts ++ [r] }) ∧
          ∀ a, Memory.get t.mem a = if f.addr ≤ a ∧ a < f.addr + 64 then (w ((a - f.addr) / 8)).extractLsb' (8 * ((a - f.addr) % 8)) 8 else Memory.get s.mem a)) ∧
      ((∀ c < numCores, (s.part f.part).hasCore c = false) ∨ ¬ ok → refuses i)) ∧
    (let len := if f.flag then f.bytes.length else f.index
      let bad := ∃ a, f.addr ≤ a ∧ a < f.addr + len ∧ (a / 4096 ∈ s.retired ∨ a / 128 ∈ s.poisoned); let i : Instr := .hostMemoryAccess;
      (2 ^ 52 < f.addr + len → refuses i) ∧ (f.addr + len ≤ 2 ^ 52 →
        (bad → ∃ t, exec i s = .next t ∧ t.hub = { h with refused := true, reply := [] } ∧ { t with hub := h } = s) ∧
        (¬ bad → f.flag = true → ∃ t, exec i s = .next t ∧ { t with mem := s.mem } = s ∧
          ∀ a, Memory.get t.mem a = if f.addr ≤ a ∧ a < f.addr + len then f.bytes.getD (a - f.addr) 0 else Memory.get s.mem a) ∧
        (¬ bad → f.flag = false → ∃ t, exec i s = .next t ∧ { t with hub := h } = s ∧ t.hub.refused = false ∧ t.hub.reply.length = len ∧
          ∀ j < len, t.hub.reply.getD j 0 = (Memory.get s.mem (f.addr + j)).setWidth 64))) ∧
    ∃ t, exec .poisonMarkClear s = .next t ∧
      (f.flag = true → (∀ p, p ∈ t.retired ↔ p ∈ s.retired ∧ p ≠ f.addr / 4096) ∧ { t with retired := s.retired, shared := s.shared } = s) ∧
      (f.flag = false → (∀ l, l ∈ t.poisoned ↔ l ∈ s.poisoned ∧ l ≠ f.addr / 128) ∧ { t with poisoned := s.poisoned } = s)

/-- R356, R357, R367, R379, R392, R393: the management controller. Log entries 82 to 85, 139, 142 and 143 say what of it is the model's. -/
def Obligations.ManagementRequestsAreServed : Prop :=
  (∀ (s : State), let f := s.focus; let h := s.hub; let m := f.master
    let answered := fun (l : List Word) => { s with hub := { h with refused := false, reply := l } }
    let serves := fun (i : Instr) (ok : Prop) (eff : State → Prop) => (ok → ∃ t, exec i s = .next t ∧ eff t) ∧
      (¬ ok → ∃ t v, exec i s = .next t ∧ t.hub = { h with refused := true, reply := [v] } ∧ { t with hub := h, freeCount := s.freeCount } = s)
    let own := fun (t : State) => match m with
      | .host => t.hub.hostLock
      | .sideBand => t.hub.sideLock
    let others := fun (t : State) => match m with
      | .host => t.hub.sideLock
      | .sideBand => t.hub.hostLock
    let lockFree := others s = false
    let hub := fun (t : State) => { t with hub := h } = s
    let claim := fun (t : State) (x : ClaimTarget) => match x with
      | .tenant p n => (t.place p n).claim
      | .core c => (t.core c).claim
    let real := match f.target with
      | .tenant p n => p < numParts ∧ 1 ≤ n ∧ n < 16 ∧ (s.place p n).tcfg.getLsbD 63 = true
      | .core c => c < numCores
    let tenants := fun (p : Nat) => ∃ n, 1 ≤ n ∧ n < 16 ∧ (s.place p n).claim ≠ none
    let stands := match f.target with
      | .tenant p _ => tenants p ∨ ∃ c < numCores, (s.part p).hasCore c = true ∧ (s.core c).claim ≠ none
      | .core c => (s.core c).claim ≠ none ∨ tenants (s.partOf c)
    let under := fun (k : Nat) => match f.target with
      | .tenant p n => s.partOf (coreOf k) = p ∧ s.placeOf p (s.thread k).tenant = some n
      | .core c => coreOf k = c
    let y := s.thread f.thread
    exec .readNotices s = .next (answered (if f.index = 0 then s.notices.flatMap (fun n => [n.word0, n.word1, n.detail0, n.detail1]) else if f.index = 1 then
      (List.range 32).map (fun j => BitVec.ofNat 64 (s.layer (j / 8) (j % 8)).temp) else if f.index = 2 then [BitVec.ofNat 64 s.stepLen] else [BitVec.ofNat 64 h.reason])) ∧
    serves .breakClaim (real ∧ ¬ stands) (fun t => claim t f.target = some m ∧ t.threads = s.threads ∧ t.mem = s.mem ∧ t.hub = (answered []).hub) ∧
    serves .breakRelease (claim s f.target = some m) (fun t => claim t f.target = none ∧ s.sameRegs t ∧ t.mem = s.mem ∧
      ∀ k x, Table.find? s.threads k = some x → ∃ z, Table.find? t.threads k = some z ∧ (under k → z = { x with brkStop := false }) ∧ (¬ under k → z = x)) ∧
    serves .breakResume (claim s f.target = some m ∧ under f.thread ∧ y.run = .stopped ∧ y.brkStop = true) (fun t => s.sameRegs t ∧ s.otherThreads t f.thread ∧
      let z := t.thread f.thread; z.pc = (if f.pc / 4 = 0 then y.resume else f.pc / 4 * 4) ∧ z.brkStop = false ∧
        z.run = if y.mode = true ∨ s.tenantRuns (s.partOf (coreOf f.thread)) y.tenant = true then .ready else .resting) ∧
    (∃ t, exec .takeResetLock s = .next t ∧ own t = true ∧ others t = others s ∧ hub t) ∧
    serves .dropResetLock (own s = true) (fun t => own t = false ∧ others t = others s ∧ hub t) ∧
    serves .loadFirmware (f.flag = true ∧ (m = .sideBand ∨ h.phase = .recovery)) (fun t => t.hub.firmware = f.index ∧ t.hub.phase = h.phase ∧ hub t) ∧
    serves .partitionReset (lockFree ∧ f.part < numParts ∧ (s.part f.part).dies ≠ 0 ∧ f.bytes.length ≤ localBytes) (fun t => let p := f.part; let x := s.part p; t.twins = s.twins ∧
      (h.phase ≠ .running → t.mem = s.mem) ∧ (∀ a, (∀ c < numCores, x.hasCore c = true → a < localBase c ∨ localBase c + f.bytes.length ≤ a) → Memory.get t.mem a = Memory.get s.mem a) ∧
      (∀ c < numCores, x.hasCore c = true → t.core c = { ({} : CoreSt) with inReset := decide (h.phase ≠ .running) } ∧
        (h.phase = .running → ∀ j < f.bytes.length, Memory.get t.mem (localBase c + j) = f.bytes.getD j 0)) ∧
      t.part p = { dies := x.dies, strips := x.strips } ∧ (∀ q, q ≠ p → (t.part q).dies = (s.part q).dies ∧ (t.part q).strips = (s.part q).strips) ∧
      (∀ k, x.hasCore (coreOf k) = true → t.thread k = ThreadSt.reset k) ∧ (∀ k, x.hasCore (coreOf k) = false → t.gprOf k = s.gprOf k) ∧
      (∀ e, x.hasCore (coreOfElem e) = true → t.elem e = {}) ∧ (∀ n, t.place p n = {} ∨ 16 ≤ n) ∧ (∀ n r, Table.find? t.riders n = some r → r.part ≠ p)) ∧
    serves .deviceReset lockFree (fun t => t.mem = s.mem ∧ t.twins = [] ∧ t.cycle = 0 ∧ t.cursor = 0 ∧ t.passNo = 0 ∧ t.threads = [] ∧ t.elems = [] ∧ t.riders = [] ∧
      t.parts = [] ∧ t.hub.phase = .starting ∧ t.hub.hostLock = false ∧ t.hub.sideLock = false ∧ t.powered = s.powered ∧ (∀ c < numCores, (t.core c).inReset = true) ∧ t.hub.failures = h.failures) ∧
    serves .powerOn (m = .sideBand ∧ s.powered = false) (fun t => t.powered = true ∧ t.mem = [] ∧ t.threads = [] ∧ t.hub.phase = .starting ∧ ∀ c < numCores, (t.core c).inReset = true) ∧
    serves .powerOff (m = .sideBand ∧ s.powered = true) (fun t => t.powered = false ∧ { t with powered := true } = answered []) ∧
    serves .checkpoint (h.ckpt = .none) (fun t => t.hub.ckpt = .asked ∧ t.hub.copy = { mask := f.index % 256, share := max 1 f.slot } ∧ hub t) ∧
    (let c := h.copy; let whole := h.ckpt = .frozen ∧ 4096 ≤ c.rank ∧ 4096 ≤ c.piece;
      (whole → ∃ t, exec .checkpointRelease s = .next t ∧ t.hub = { h with ckpt := .acked } ∧ hub t) ∧ (¬ whole → exec .checkpointRelease s = .refused .notEnabled) ∧
      (h.ckpt ≠ .frozen → s.tierStep = s) ∧ (h.ckpt = .frozen → let t := s.tierStep; let d := t.hub.copy; t.hub = { h with copy := d } ∧ hub t ∧
        (c.rank = s.cursor ∧ 0 < c.left → d.rank = c.rank + 1 ∧ d.left = c.left - 1 ∧ d.rows = c.rows ++ s.currentRows c.mask s.cursor) ∧
        (c.rank ≠ s.cursor ∨ c.left = 0 → d.rank = c.rank ∧ d.left = c.left ∧ d.rows = c.rows) ∧
        (c.piece ≠ s.cursor → d.piece = c.piece ∧ d.mem = c.mem) ∧ (c.piece = s.cursor → d.piece = c.piece + 1 ∧
          ∀ x, x ∈ d.mem ↔ x ∈ c.mem ∨ (x ∈ s.mem ∧ c.piece * 2 ^ 25 ≤ x.1 ∧ x.1 < (c.piece + 1) * 2 ^ 25)))) ∧
    (let failed := fun (i : Instr) (r : Nat) => ∃ t, exec i s = .next t ∧ hub t ∧
        t.hub = { h with failures := h.failures + 1, reason := r, phase := if 3 ≤ h.failures + 1 then .recovery else .starting };
      let good := f.words.length ≤ numParts ∧ (∀ w ∈ f.words, shapeOk w = true) ∧ shapesApart f.words = true ∧ (∀ b ∈ f.images, b.length ≤ localBytes) ∧
        f.index < 1024 ∧ ∀ l ∈ f.links, l.1 < 16 ∧ l.2.peer < 1024 ∧ l.2.low ≤ l.2.peer
      let image := fun (p : Nat) => f.images.getD p [];
      (h.phase ≠ .starting → exec .boot s = .refused .notEnabled ∧ exec .startTimeout s = .refused .notEnabled) ∧
      (h.phase = .starting → failed .startTimeout 8 ∧ (f.flag = false → 1 ≤ f.index → f.index ≤ 7 → failed .boot f.index) ∧ (f.flag = true → good →
        ∃ t, exec .boot s = .next t ∧ t.hub = { h with phase := .running, failures := 0, reason := 0, hotPass := 0, device := BitVec.ofNat 10 f.index,
                                                          links := t.hub.links, locked := t.hub.locked } ∧
          (∀ l1 n x l2, f.links = l1 ++ (n, x) :: l2 → (∀ y, (n, y) ∉ l2) → t.link n = { x with up := true }) ∧ (∀ n, (∀ y, (n, y) ∉ f.links) → t.link n = s.link n) ∧
          (t.hub.locked = true ↔ f.links ≠ [] ∧ ∀ l ∈ f.links, l.2.pass * 4096 + l.2.cursor ≤ 1) ∧
          t.threads = s.threads ∧ t.cycle = 0 ∧ t.cursor = 0 ∧ t.passNo = 0 ∧ t.stepCyc = 0 ∧ t.sweep = .p0 ∧ t.sweepNext = none ∧
          (∀ c < numCores, (∀ p, (t.part p).hasCore c = true → (t.core c).inReset = false ∧
              ∀ j < (image p).length, Memory.get t.mem (localBase c + j) = (image p).getD j 0) ∧ ((∀ p, (t.part p).hasCore c = false) → t.core c = s.core c)) ∧
          (∀ a, (∀ c < numCores, ∀ p, (t.part p).hasCore c = true → a < localBase c ∨ localBase c + (image p).length ≤ a) → Memory.get t.mem a = Memory.get s.mem a) ∧
          (∀ p w, f.words[p]? = some w → (t.part p).dies = w.extractLsb' 8 4 ∧ (t.part p).strips = w.extractLsb' 0 8) ∧ (f.words = [] → (t.part 0).dies = 0xF ∧ (t.part 0).strips = 0xFF)))) ∧
    (let i : Instr := .runtimeThreadRestart;
      (numThreads ≤ f.thread → exec i s = .refused .notEnabled) ∧ (f.thread < numThreads →
        (y.run ≠ .stopped ∨ y.brkStop = true → exec i s = .next s) ∧ (y.run = .stopped → y.brkStop = false → ∃ t, exec i s = .next t ∧ s.sameRegs t ∧ s.otherThreads t f.thread ∧
          let z := t.thread f.thread; z.pc = (if f.pc.toNat / 4 = 0 then y.resume else BitVec.ofNat 64 (f.pc.toNat / 4 * 4)) ∧
            z.run = if y.mode = true ∨ s.tenantRuns (s.partOf (coreOf f.thread)) y.tenant = true then .ready else .resting)))) ∧
  ∀ (s : State), s.powered = false → (s.agenda = [] → step s = .fault .poweredOff) ∧
    (∀ c rest, s.agenda = .issue c :: rest → step s = .fault .poweredOff) ∧ (∀ e n g rest, s.agenda = .fire e n g :: rest → step s = .fault .poweredOff) ∧
    ∀ i f rest, s.agenda = .event i f :: rest → (sideBandRequest i f = false → step s = .fault .poweredOff) ∧
      (sideBandRequest i f = true → hostRequest rest = none → step s = exec i { s with agenda := rest, focus := f }) ∧
      (hostRequest rest ≠ none → step s = .fault .poweredOff)

/-- R30, R43: decoding undoes encoding, for every instruction. -/
def Obligations.EncodedInstructionsDecodeToThemselves : Prop :=
  ∀ i : Instr, i.wf = true → (∀ w, encode i = some w → decodeWord w = .ok i ∧ encodeSlot i = none) ∧
    ∀ p, encodeSlot i = some p → decodeSlot p.1 p.2 = .ok i

/-- R30, R42, R43: encoding undoes decoding, for every word. -/
def Obligations.DecodedWordsEncodeBack : Prop :=
  (∀ (w : Word32) (i : Instr), decodeWord w = .ok i → i.wf = true ∧ encode i = some w) ∧
    ∀ (a b : Word32) (i : Instr), decodeSlot a b = .ok i → i.wf = true ∧ encodeSlot i = some (a, b)

/-- The canonical form of memory (log entry 3) is kept by every step. -/
def Obligations.EveryStepKeepsMemoryCanonical : Prop := ∀ s t : State, s.memOk → step s = .next t → t.memOk

/-- R29: the state after reset. The one partition of all dies is log entry 4, registers that the spec gives no reset value log entry 2, memory that reads 0 log entry 3. -/
def Obligations.ResetLeavesTheMachineAsStated : Prop :=
  let s := State.reset
  s.memOk ∧ (∀ c < numCores, (s.thread (4 * c)).run = .ready ∧ (s.thread (4 * c)).mode = true ∧ (s.core c).issuePtr = 0 ∧ (s.core c).stores = [] ∧
    ∀ j < 4, j ≠ 0 → (s.thread (4 * c + j)).run = .free) ∧
  (∀ k, let t := s.thread k; t.pc = 0 ∧ t.exl = false ∧ t.ae = false ∧ t.pmode = false ∧ t.tenant = 0 ∧ t.pend = [] ∧ t.waittmo = 0 ∧ t.tvec = 0 ∧ t.epc = 0 ∧ t.ecause = 0 ∧ t.eval = 0 ∧ t.escratch = 0 ∧ t.frec = {} ∧ t.sepc = 0 ∧ t.scause = 0 ∧ t.seval = 0 ∧
    t.sscratch = 0 ∧ t.sfrec = {} ∧ t.tsel = 0 ∧ t.late = [] ∧ t.hold = none ∧ t.broken = false ∧ ∀ r, s.gprOf k r = 0) ∧
  (∀ a, Memory.get s.mem a = 0) ∧ s.cycle = 0 ∧ s.cursor = 0 ∧ s.passNo = 0 ∧ s.stepCyc = 0 ∧ s.stepLen = 768 ∧ (∀ e, s.elem e = {}) ∧ s.flights = [] ∧ s.riders = [] ∧
  s.gens = [] ∧ s.colls = [] ∧ (∀ c, s.core c = {}) ∧ s.part 0 = { dies := 0xF, strips := 0xFF } ∧ (∀ p n, s.place p n = {} ∧ s.corePlace p n = {}) ∧
  (∀ c < numCores, s.partOf c = 0) ∧ ∀ n, s.tenantRuns 0 n = true ↔ n = 0

/-- R17, R18, R61: a step is exec of the decoded instruction. The order of agents is log entry 5, one cycle of both masters' requests 141. -/
def Obligations.AStepRunsTheDecodedInstruction : Prop :=
  ∀ (s : State), s.powered = true →
    let goes := fun (o : Host.Outcome State Fault Refusal) => match o with
      | .next t => .next t.tick
      | x => x
    let issues := fun (u : State) (c : Nat) (out : Host.Outcome State Fault Refusal) => (u.pick c = none → out = .next u.tick) ∧ ∀ k, u.pick c = some k →
      let u0 := u.setCore (coreOf k) { u.core (coreOf k) with issuePtr := (k % 4 + 1) % 4 }
      let v := { u0 with focus := { thread := k } }; let r := fetchTarget v k
      (∀ x, r.2 = .error x → out = goes (exec .fetchFault v)) ∧ ∀ g, r.2 = .ok g → let y := r.1.fetchWord k g
        (∀ i, decodeWord y.2 = .ok i → out = goes (exec i y.1)) ∧
        (∀ x, decodeWord y.2 = .error x → let z := y.1; out = goes (exec .unassignedHeadlandWord { z with focus := { thread := k, word := y.2 } }))
    let early := fun (j : Nat) => { s with cores := Table.put s.cores (coreOf j) { s.core (coreOf j) with ahead := s.cycle + 1 } }
    (s.agenda = [] → (∀ i f, s.due = some (i, f) → step s = exec i { s with focus := f }) ∧ (s.due = none →
      ((s.core s.turn).ahead = s.cycle + 1 → step s = .next s.tick) ∧ ((s.core s.turn).ahead ≠ s.cycle + 1 →
        (∀ k j, s.pick s.turn = some k → s.writerFirst k = some j → step s = exec (issueOf (early j) j).1 (issueOf (early j) j).2) ∧
        ((∀ k j, s.pick s.turn = some k → s.writerFirst k ≠ some j) → issues s s.turn (step s))))) ∧
    (∀ k j, s.writerFirst k = some j → coreOf k < coreOf j ∧ s.pick (coreOf j) = some j ∧ s.partOf (coreOf j) = s.partOf (coreOf k) ∧
      ∃ b, s.arrivesAt k = some b ∧ s.writesBarrier j = some b) ∧
    (∀ i f rest, s.agenda = .event i f :: rest → f.master = .host ∨ managed i = false ∨ hostRequest rest = none → step s = exec i { s with agenda := rest, focus := f }) ∧
    (∀ i f l j g r, s.agenda = .event i f :: (l ++ .event j g :: r) → f.master = .sideBand → managed i = true → g.master = .host → managed j = true →
      (∀ a ∈ l, ∃ k u, a = .event k u ∧ (u.master = .sideBand ∨ managed k = false)) →
      step s = exec j { s with agenda := .event i f :: (l ++ r), focus := g }) ∧
    (∀ e n g rest i, s.agenda = .fire e n g :: rest → slotInstr s e n = some i →
      step s = exec i { s with agenda := rest, focus := { elem := e, slot := n, tag := g } }) ∧
    (∀ c rest, s.agenda = .issue c :: rest → issues { s with agenda := rest } c (step s)) ∧
    (s.turn + 1 < numCores → s.tick = { s with turn := s.turn + 1 }) ∧
    (numCores ≤ s.turn + 1 → s.tick.turn = 0 ∧ s.tick.cycle = s.cycle + 1 ∧ s.tick.stepCyc = s.stepCyc + 1)

/-- Words of the spec's own lines: R31 to R41 and the example tables of the chapters; slot words of R43 with the chapters' examples. -/
def Obligations.WrittenOutWordsDecode : Prop :=
  let word := fun (w : Word32) (i : Instr) => decodeWord w = .ok i
  let slot := fun (a b : Word32) (mk : SlotFields → Instr) (f : SlotFields) => decodeSlot a b = .ok (mk f)
  word 0x058C0001 (.addi 12 12 1) ∧ word 0x5C6CFFFE (.bge 3 12 0xFFFE) ∧ word 0x01CC6810 (.mul 14 12 13) ∧ word 0x42064000 (.ld .half false 16 6 0) ∧
  word 0x4422C008 (.st .dword 1 2 8) ∧ word 0x80054129 (.trunWrite .write 0 5) ∧ word 0x8400000B (.fenceAcq .device) ∧
  word 0x88A63800 (.spawn 5 6 7) ∧ word 0x88000001 .exit ∧ word 0xFC030000 .halt ∧ word 0x8CA600A0 (.swap 5 6) ∧ word 0x8CA600C1 (.fallow .field 5 6) ∧
  word 0x92495000 (.boardRead 18 9 10) ∧ word 0x94073002 (.clean .all 7 6) ∧ word 0x98A60020 (.gstop 5 6) ∧ word 0x9CA63861 (.redscatExact 5 6 7) ∧
  word 0xA0A00053 (.normrd true 3 5) ∧
  slot 0x1010117F 0x05000000 .slotAdd { action := 1, srcA := 0, srcB := 1, dst0 := 5, dst1 := 63, qual := 0x05, extra := 0, ext := 0 } ∧
  slot 0x70001821 0x0900000F .mma { action := 0, srcA := 0, srcB := 1, dst0 := 32, dst1 := 33, qual := 0x09, extra := 0, ext := 15 } ∧
  slot 0x740031BF 0x00000040 .cturn { action := 0, srcA := 0, srcB := 3, dst0 := 6, dst1 := 63, qual := 0, extra := 0, ext := 64 }
end

