-- ==== Sys2Proof/Laws/Table.lean ====
section
/-! SUPPORT. Reading after writing, for tables and for memory, and that memory operations keep the canonical form. -/

namespace Sys2Proof.Machine

namespace Table

variable {α : Type}

theorem find?_erase (m : Table α) (k j : Nat) :
    find? (erase m k) j = if k = j then none else find? m j := by
  induction m with
  | nil => simp [erase, find?]
  | cons p m ih =>
    obtain ⟨i, v⟩ := p
    by_cases h : i = k
    · subst h
      by_cases h2 : i = j
      · rw [erase, if_pos rfl, ih, if_pos h2, if_pos h2]
      · simp [erase, find?, ih, h2]
    · by_cases h2 : i = j
      · subst h2; simp [erase, find?, h, Ne.symm h]
      · simp [erase, find?, h, h2, ih]

theorem find?_insertAt (m : Table α) (k j : Nat) (v : α) (h : find? m k = none) :
    find? (insertAt m k v) j = if k = j then some v else find? m j := by
  induction m with
  | nil => simp [insertAt, find?]
  | cons p m ih =>
    obtain ⟨i, w⟩ := p
    by_cases hik : i = k
    · simp [find?, hik] at h
    · simp only [find?, hik, if_false] at h
      by_cases hlt : k < i
      · simp only [insertAt, if_pos hlt, find?]
      · by_cases hij : i = j
        · subst hij; simp [insertAt, find?, hlt, Ne.symm hik]
        · simp [insertAt, find?, hlt, hij, ih h]

@[simp] theorem find?_put (m : Table α) (k j : Nat) (v : α) :
    find? (put m k v) j = if k = j then some v else find? m j := by
  rw [put, find?_insertAt _ _ _ _ (by simp [find?_erase]), find?_erase]
  by_cases h : k = j <;> simp [h]

@[simp] theorem getD_put (m : Table α) (k j : Nat) (v d : α) :
    getD (put m k v) j d = if k = j then v else getD m j d := by
  unfold getD; rw [find?_put]; split <;> rfl

@[simp] theorem getD_putD [DecidableEq α] (m : Table α) (k j : Nat) (v d : α) :
    getD (putD m k v d) j d = if k = j then v else getD m j d := by
  unfold putD
  by_cases h : v = d
  · by_cases hkj : k = j <;> simp [h, getD, find?_erase, hkj]
  · simp [h]

theorem mem_erase {m : Table α} {k : Nat} {p : Nat × α} (h : p ∈ erase m k) : p ∈ m ∧ p.1 ≠ k := by
  induction m with
  | nil => simp [erase] at h
  | cons q m ih =>
    obtain ⟨i, v⟩ := q
    by_cases hik : i = k
    · simp only [erase, hik, if_true] at h
      exact ⟨List.mem_cons_of_mem _ (ih h).1, (ih h).2⟩
    · simp only [erase, hik, if_false, List.mem_cons] at h
      rcases h with rfl | h
      · exact ⟨List.mem_cons_self, hik⟩
      · exact ⟨List.mem_cons_of_mem _ (ih h).1, (ih h).2⟩

theorem mem_insertAt {m : Table α} {k : Nat} {v : α} {p : Nat × α} (h : p ∈ insertAt m k v) : p = (k, v) ∨ p ∈ m := by
  induction m with
  | nil => simpa [insertAt] using h
  | cons q m ih =>
    obtain ⟨i, w⟩ := q
    by_cases hlt : k < i
    · simpa [insertAt, hlt] using h
    · simp only [insertAt, hlt, if_false, List.mem_cons] at h ⊢
      rcases h with rfl | h
      · exact .inr (.inl rfl)
      · exact (ih h).imp id .inr

theorem sorted_iff {m : Table α} : sorted m = true ↔ m.Pairwise (fun p q => p.1 < q.1) := by
  induction m with
  | nil => simp [sorted]
  | cons p m ih =>
    obtain ⟨j, v⟩ := p
    cases m with
    | nil => simp [sorted]
    | cons q m =>
      obtain ⟨k, w⟩ := q
      simp only [sorted, Bool.and_eq_true, decide_eq_true_eq, ih]
      constructor
      · rintro ⟨h1, h2⟩
        refine List.pairwise_cons.2 ⟨?_, h2⟩
        intro r hr
        rcases List.mem_cons.1 hr with rfl | hr
        · exact h1
        · exact lt_trans h1 ((List.pairwise_cons.1 h2).1 r hr)
      · intro h
        exact ⟨(List.pairwise_cons.1 h).1 _ List.mem_cons_self, (List.pairwise_cons.1 h).2⟩

theorem sorted_erase {m : Table α} {k : Nat} (h : sorted m = true) : sorted (erase m k) = true := by
  rw [sorted_iff] at h ⊢
  induction m with
  | nil => simp [erase]
  | cons p m ih =>
    obtain ⟨j, v⟩ := p
    have ⟨h1, h2⟩ := List.pairwise_cons.1 h
    by_cases hjk : j = k
    · simpa [erase, hjk] using ih h2
    · simp only [erase, hjk, if_false]
      exact List.pairwise_cons.2 ⟨fun r hr => h1 r (mem_erase hr).1, ih h2⟩

theorem sorted_insertAt {m : Table α} {k : Nat} {v : α} (h : sorted m = true) (hk : ∀ p ∈ m, p.1 ≠ k) :
    sorted (insertAt m k v) = true := by
  rw [sorted_iff] at h ⊢
  induction m with
  | nil => simp [insertAt]
  | cons p m ih =>
    obtain ⟨j, w⟩ := p
    have ⟨h1, h2⟩ := List.pairwise_cons.1 h
    have hjk : j ≠ k := hk _ List.mem_cons_self
    by_cases hlt : k < j
    · simp only [insertAt, hlt, if_true]
      refine List.pairwise_cons.2 ⟨?_, h⟩
      intro r hr
      rcases List.mem_cons.1 hr with rfl | hr
      · exact hlt
      · exact lt_trans hlt (h1 r hr)
    · simp only [insertAt, hlt, if_false]
      refine List.pairwise_cons.2 ⟨?_, ih h2 fun q hq => hk q (List.mem_cons_of_mem _ hq)⟩
      intro r hr
      rcases mem_insertAt hr with rfl | hr
      · exact lt_of_le_of_ne (not_lt.1 hlt) hjk
      · exact h1 r hr

theorem sorted_put {m : Table α} {k : Nat} {v : α} (h : sorted m = true) : sorted (put m k v) = true :=
  sorted_insertAt (sorted_erase h) fun _ hp => (mem_erase hp).2

end Table

namespace Memory

/-- A read after a write of one byte: the byte written there, the old byte anywhere else. -/
@[simp] theorem get_set (m : List Host.Cell) (a b : Nat) (v : Byte) :
    get (set m a v) b = if a = b then v else get m b := by
  simp [get, set]

/-- Writing a byte keeps the canonical form. -/
theorem wf_set {m : List Host.Cell} {a : Nat} {v : Byte} (h : wf m = true) : wf (set m a v) = true := by
  simp only [wf, Bool.and_eq_true, List.all_eq_true] at h ⊢
  obtain ⟨hs, hz⟩ := h
  unfold set Table.putD
  by_cases hv : v = unwrittenByte
  · simp only [hv, if_true]
    exact ⟨Table.sorted_erase hs, fun p hp => hz p (Table.mem_erase hp).1⟩
  · simp only [hv, if_false]
    refine ⟨Table.sorted_put hs, fun p hp => ?_⟩
    rcases Table.mem_insertAt hp with rfl | hp
    · simpa using hv
    · exact hz p (Table.mem_erase hp).1

/-- Writing bytes keeps the canonical form. -/
theorem wf_write {m : List Host.Cell} (h : wf m = true) (n a v : Nat) : wf (write m a n v) = true := by
  induction n generalizing m a v with
  | zero => exact h
  | succ n ih => exact ih (wf_set h) _ _

theorem wf_writeBytes {m : List Host.Cell} (h : wf m = true) (l : List Byte) (a : Nat) : wf (writeBytes m a l) = true := by
  induction l generalizing m a with
  | nil => exact h
  | cons b l ih => exact ih (wf_set h) _

/-- A write of `n` bytes leaves every byte outside them alone. -/
theorem get_write_other (m : List Host.Cell) (n a v b : Nat) (h : b < a ∨ a + n ≤ b) : get (write m a n v) b = get m b := by
  induction n generalizing m a v with
  | zero => rfl
  | succ n ih =>
    rw [write, ih _ _ _ (by omega), get_set, if_neg (by omega)]

theorem get_writeBytes_other (m : List Host.Cell) (l : List Byte) (a b : Nat) (h : b < a ∨ a + l.length ≤ b) :
    get (writeBytes m a l) b = get m b := by
  induction l generalizing m a with
  | nil => rfl
  | cons c l ih =>
    rw [writeBytes, ih _ _ (by simp only [List.length_cons] at h; omega), get_set,
      if_neg (by simp only [List.length_cons] at h; omega)]

/-- A read after a write of the same bytes gives the value written. -/
theorem read_write (m : List Host.Cell) (n a v : Nat) : read (write m a n v) a n = v % 256 ^ n := by
  induction n generalizing m a v with
  | zero => simp [read, Nat.mod_one]
  | succ n ih =>
    have h1 : get (write (set m a (BitVec.ofNat 8 v)) (a + 1) n (v / 256)) a = BitVec.ofNat 8 v := by
      rw [get_write_other _ _ _ _ _ (by omega), get_set, if_pos rfl]
    rw [write, read, h1, ih]
    simp only [BitVec.toNat_ofNat]
    rw [show 256 ^ (n + 1) = 256 * 256 ^ n by omega, Nat.mod_mul]

end Memory

end Sys2Proof.Machine
end

