-- ==== Sys2Proof/Laws/State.lean ====
section
/-! SUPPORT. Reading a field of the state after one of its named updates: each update changes one field, and a lookup in that field gives the new
entry at its key and the old one anywhere else. -/

namespace Sys2Proof.Machine

namespace State

@[simp] theorem setThread_cycle (s : State) (k : Nat) (t : ThreadSt) : (s.setThread k t).cycle = s.cycle := rfl
@[simp] theorem setThread_cursor (s : State) (k : Nat) (t : ThreadSt) : (s.setThread k t).cursor = s.cursor := rfl
@[simp] theorem setThread_stepCyc (s : State) (k : Nat) (t : ThreadSt) : (s.setThread k t).stepCyc = s.stepCyc := rfl
@[simp] theorem setThread_passNo (s : State) (k : Nat) (t : ThreadSt) : (s.setThread k t).passNo = s.passNo := rfl
@[simp] theorem setThread_sweep (s : State) (k : Nat) (t : ThreadSt) : (s.setThread k t).sweep = s.sweep := rfl
@[simp] theorem setThread_sweepNext (s : State) (k : Nat) (t : ThreadSt) : (s.setThread k t).sweepNext = s.sweepNext := rfl
@[simp] theorem setThread_sweepPass (s : State) (k : Nat) (t : ThreadSt) : (s.setThread k t).sweepPass = s.sweepPass := rfl
@[simp] theorem setThread_mem (s : State) (k : Nat) (t : ThreadSt) : (s.setThread k t).mem = s.mem := rfl
@[simp] theorem setThread_cores (s : State) (k : Nat) (t : ThreadSt) : (s.setThread k t).cores = s.cores := rfl
@[simp] theorem setThread_corePlaces (s : State) (k : Nat) (t : ThreadSt) : (s.setThread k t).corePlaces = s.corePlaces := rfl
@[simp] theorem setThread_places (s : State) (k : Nat) (t : ThreadSt) : (s.setThread k t).places = s.places := rfl
@[simp] theorem setThread_parts (s : State) (k : Nat) (t : ThreadSt) : (s.setThread k t).parts = s.parts := rfl
@[simp] theorem setThread_slices (s : State) (k : Nat) (t : ThreadSt) : (s.setThread k t).slices = s.slices := rfl
@[simp] theorem setThread_llTlb (s : State) (k : Nat) (t : ThreadSt) : (s.setThread k t).llTlb = s.llTlb := rfl
@[simp] theorem setThread_windows (s : State) (k : Nat) (t : ThreadSt) : (s.setThread k t).windows = s.windows := rfl
@[simp] theorem setThread_elems (s : State) (k : Nat) (t : ThreadSt) : (s.setThread k t).elems = s.elems := rfl
@[simp] theorem setThread_savedElems (s : State) (k : Nat) (t : ThreadSt) : (s.setThread k t).savedElems = s.savedElems := rfl
@[simp] theorem setThread_haltElems (s : State) (k : Nat) (t : ThreadSt) : (s.setThread k t).haltElems = s.haltElems := rfl
@[simp] theorem setThread_fields (s : State) (k : Nat) (t : ThreadSt) : (s.setThread k t).fields = s.fields := rfl
@[simp] theorem setThread_flights (s : State) (k : Nat) (t : ThreadSt) : (s.setThread k t).flights = s.flights := rfl
@[simp] theorem setThread_flightNext (s : State) (k : Nat) (t : ThreadSt) : (s.setThread k t).flightNext = s.flightNext := rfl
@[simp] theorem setThread_riders (s : State) (k : Nat) (t : ThreadSt) : (s.setThread k t).riders = s.riders := rfl
@[simp] theorem setThread_riderNext (s : State) (k : Nat) (t : ThreadSt) : (s.setThread k t).riderNext = s.riderNext := rfl
@[simp] theorem setThread_retired (s : State) (k : Nat) (t : ThreadSt) : (s.setThread k t).retired = s.retired := rfl
@[simp] theorem setThread_poisoned (s : State) (k : Nat) (t : ThreadSt) : (s.setThread k t).poisoned = s.poisoned := rfl
@[simp] theorem setThread_badWords (s : State) (k : Nat) (t : ThreadSt) : (s.setThread k t).badWords = s.badWords := rfl
@[simp] theorem setThread_shared (s : State) (k : Nat) (t : ThreadSt) : (s.setThread k t).shared = s.shared := rfl
@[simp] theorem setThread_twins (s : State) (k : Nat) (t : ThreadSt) : (s.setThread k t).twins = s.twins := rfl
@[simp] theorem setThread_rowErrors (s : State) (k : Nat) (t : ThreadSt) : (s.setThread k t).rowErrors = s.rowErrors := rfl
@[simp] theorem setThread_rowPoison (s : State) (k : Nat) (t : ThreadSt) : (s.setThread k t).rowPoison = s.rowPoison := rfl
@[simp] theorem setThread_rowBufs (s : State) (k : Nat) (t : ThreadSt) : (s.setThread k t).rowBufs = s.rowBufs := rfl
@[simp] theorem setThread_parkedRows (s : State) (k : Nat) (t : ThreadSt) : (s.setThread k t).parkedRows = s.parkedRows := rfl
@[simp] theorem setThread_plots (s : State) (k : Nat) (t : ThreadSt) : (s.setThread k t).plots = s.plots := rfl
@[simp] theorem setThread_layers (s : State) (k : Nat) (t : ThreadSt) : (s.setThread k t).layers = s.layers := rfl
@[simp] theorem setThread_gens (s : State) (k : Nat) (t : ThreadSt) : (s.setThread k t).gens = s.gens := rfl
@[simp] theorem setThread_groups (s : State) (k : Nat) (t : ThreadSt) : (s.setThread k t).groups = s.groups := rfl
@[simp] theorem setThread_colls (s : State) (k : Nat) (t : ThreadSt) : (s.setThread k t).colls = s.colls := rfl
@[simp] theorem setThread_collNext (s : State) (k : Nat) (t : ThreadSt) : (s.setThread k t).collNext = s.collNext := rfl
@[simp] theorem setThread_hub (s : State) (k : Nat) (t : ThreadSt) : (s.setThread k t).hub = s.hub := rfl
@[simp] theorem setThread_powered (s : State) (k : Nat) (t : ThreadSt) : (s.setThread k t).powered = s.powered := rfl
@[simp] theorem setThread_notices (s : State) (k : Nat) (t : ThreadSt) : (s.setThread k t).notices = s.notices := rfl
@[simp] theorem setThread_focus (s : State) (k : Nat) (t : ThreadSt) : (s.setThread k t).focus = s.focus := rfl
@[simp] theorem setThread_agenda (s : State) (k : Nat) (t : ThreadSt) : (s.setThread k t).agenda = s.agenda := rfl
@[simp] theorem setThread_turn (s : State) (k : Nat) (t : ThreadSt) : (s.setThread k t).turn = s.turn := rfl
@[simp] theorem setThread_freeCount (s : State) (k : Nat) (t : ThreadSt) : (s.setThread k t).freeCount = s.freeCount := rfl

@[simp] theorem setCore_cycle (s : State) (c : Nat) (x : CoreSt) : (s.setCore c x).cycle = s.cycle := rfl
@[simp] theorem setCore_cursor (s : State) (c : Nat) (x : CoreSt) : (s.setCore c x).cursor = s.cursor := rfl
@[simp] theorem setCore_stepCyc (s : State) (c : Nat) (x : CoreSt) : (s.setCore c x).stepCyc = s.stepCyc := rfl
@[simp] theorem setCore_passNo (s : State) (c : Nat) (x : CoreSt) : (s.setCore c x).passNo = s.passNo := rfl
@[simp] theorem setCore_sweep (s : State) (c : Nat) (x : CoreSt) : (s.setCore c x).sweep = s.sweep := rfl
@[simp] theorem setCore_sweepNext (s : State) (c : Nat) (x : CoreSt) : (s.setCore c x).sweepNext = s.sweepNext := rfl
@[simp] theorem setCore_sweepPass (s : State) (c : Nat) (x : CoreSt) : (s.setCore c x).sweepPass = s.sweepPass := rfl
@[simp] theorem setCore_mem (s : State) (c : Nat) (x : CoreSt) : (s.setCore c x).mem = s.mem := rfl
@[simp] theorem setCore_threads (s : State) (c : Nat) (x : CoreSt) : (s.setCore c x).threads = s.threads := rfl
@[simp] theorem setCore_corePlaces (s : State) (c : Nat) (x : CoreSt) : (s.setCore c x).corePlaces = s.corePlaces := rfl
@[simp] theorem setCore_places (s : State) (c : Nat) (x : CoreSt) : (s.setCore c x).places = s.places := rfl
@[simp] theorem setCore_parts (s : State) (c : Nat) (x : CoreSt) : (s.setCore c x).parts = s.parts := rfl
@[simp] theorem setCore_slices (s : State) (c : Nat) (x : CoreSt) : (s.setCore c x).slices = s.slices := rfl
@[simp] theorem setCore_llTlb (s : State) (c : Nat) (x : CoreSt) : (s.setCore c x).llTlb = s.llTlb := rfl
@[simp] theorem setCore_windows (s : State) (c : Nat) (x : CoreSt) : (s.setCore c x).windows = s.windows := rfl
@[simp] theorem setCore_elems (s : State) (c : Nat) (x : CoreSt) : (s.setCore c x).elems = s.elems := rfl
@[simp] theorem setCore_savedElems (s : State) (c : Nat) (x : CoreSt) : (s.setCore c x).savedElems = s.savedElems := rfl
@[simp] theorem setCore_haltElems (s : State) (c : Nat) (x : CoreSt) : (s.setCore c x).haltElems = s.haltElems := rfl
@[simp] theorem setCore_fields (s : State) (c : Nat) (x : CoreSt) : (s.setCore c x).fields = s.fields := rfl
@[simp] theorem setCore_flights (s : State) (c : Nat) (x : CoreSt) : (s.setCore c x).flights = s.flights := rfl
@[simp] theorem setCore_flightNext (s : State) (c : Nat) (x : CoreSt) : (s.setCore c x).flightNext = s.flightNext := rfl
@[simp] theorem setCore_riders (s : State) (c : Nat) (x : CoreSt) : (s.setCore c x).riders = s.riders := rfl
@[simp] theorem setCore_riderNext (s : State) (c : Nat) (x : CoreSt) : (s.setCore c x).riderNext = s.riderNext := rfl
@[simp] theorem setCore_retired (s : State) (c : Nat) (x : CoreSt) : (s.setCore c x).retired = s.retired := rfl
@[simp] theorem setCore_poisoned (s : State) (c : Nat) (x : CoreSt) : (s.setCore c x).poisoned = s.poisoned := rfl
@[simp] theorem setCore_badWords (s : State) (c : Nat) (x : CoreSt) : (s.setCore c x).badWords = s.badWords := rfl
@[simp] theorem setCore_shared (s : State) (c : Nat) (x : CoreSt) : (s.setCore c x).shared = s.shared := rfl
@[simp] theorem setCore_twins (s : State) (c : Nat) (x : CoreSt) : (s.setCore c x).twins = s.twins := rfl
@[simp] theorem setCore_rowErrors (s : State) (c : Nat) (x : CoreSt) : (s.setCore c x).rowErrors = s.rowErrors := rfl
@[simp] theorem setCore_rowPoison (s : State) (c : Nat) (x : CoreSt) : (s.setCore c x).rowPoison = s.rowPoison := rfl
@[simp] theorem setCore_rowBufs (s : State) (c : Nat) (x : CoreSt) : (s.setCore c x).rowBufs = s.rowBufs := rfl
@[simp] theorem setCore_parkedRows (s : State) (c : Nat) (x : CoreSt) : (s.setCore c x).parkedRows = s.parkedRows := rfl
@[simp] theorem setCore_plots (s : State) (c : Nat) (x : CoreSt) : (s.setCore c x).plots = s.plots := rfl
@[simp] theorem setCore_layers (s : State) (c : Nat) (x : CoreSt) : (s.setCore c x).layers = s.layers := rfl
@[simp] theorem setCore_gens (s : State) (c : Nat) (x : CoreSt) : (s.setCore c x).gens = s.gens := rfl
@[simp] theorem setCore_groups (s : State) (c : Nat) (x : CoreSt) : (s.setCore c x).groups = s.groups := rfl
@[simp] theorem setCore_colls (s : State) (c : Nat) (x : CoreSt) : (s.setCore c x).colls = s.colls := rfl
@[simp] theorem setCore_collNext (s : State) (c : Nat) (x : CoreSt) : (s.setCore c x).collNext = s.collNext := rfl
@[simp] theorem setCore_hub (s : State) (c : Nat) (x : CoreSt) : (s.setCore c x).hub = s.hub := rfl
@[simp] theorem setCore_powered (s : State) (c : Nat) (x : CoreSt) : (s.setCore c x).powered = s.powered := rfl
@[simp] theorem setCore_notices (s : State) (c : Nat) (x : CoreSt) : (s.setCore c x).notices = s.notices := rfl
@[simp] theorem setCore_focus (s : State) (c : Nat) (x : CoreSt) : (s.setCore c x).focus = s.focus := rfl
@[simp] theorem setCore_agenda (s : State) (c : Nat) (x : CoreSt) : (s.setCore c x).agenda = s.agenda := rfl
@[simp] theorem setCore_turn (s : State) (c : Nat) (x : CoreSt) : (s.setCore c x).turn = s.turn := rfl
@[simp] theorem setCore_freeCount (s : State) (c : Nat) (x : CoreSt) : (s.setCore c x).freeCount = s.freeCount := rfl

@[simp] theorem setPart_cycle (s : State) (p : Nat) (x : PartSt) : (s.setPart p x).cycle = s.cycle := rfl
@[simp] theorem setPart_cursor (s : State) (p : Nat) (x : PartSt) : (s.setPart p x).cursor = s.cursor := rfl
@[simp] theorem setPart_stepCyc (s : State) (p : Nat) (x : PartSt) : (s.setPart p x).stepCyc = s.stepCyc := rfl
@[simp] theorem setPart_passNo (s : State) (p : Nat) (x : PartSt) : (s.setPart p x).passNo = s.passNo := rfl
@[simp] theorem setPart_sweep (s : State) (p : Nat) (x : PartSt) : (s.setPart p x).sweep = s.sweep := rfl
@[simp] theorem setPart_sweepNext (s : State) (p : Nat) (x : PartSt) : (s.setPart p x).sweepNext = s.sweepNext := rfl
@[simp] theorem setPart_sweepPass (s : State) (p : Nat) (x : PartSt) : (s.setPart p x).sweepPass = s.sweepPass := rfl
@[simp] theorem setPart_mem (s : State) (p : Nat) (x : PartSt) : (s.setPart p x).mem = s.mem := rfl
@[simp] theorem setPart_threads (s : State) (p : Nat) (x : PartSt) : (s.setPart p x).threads = s.threads := rfl
@[simp] theorem setPart_cores (s : State) (p : Nat) (x : PartSt) : (s.setPart p x).cores = s.cores := rfl
@[simp] theorem setPart_corePlaces (s : State) (p : Nat) (x : PartSt) : (s.setPart p x).corePlaces = s.corePlaces := rfl
@[simp] theorem setPart_places (s : State) (p : Nat) (x : PartSt) : (s.setPart p x).places = s.places := rfl
@[simp] theorem setPart_slices (s : State) (p : Nat) (x : PartSt) : (s.setPart p x).slices = s.slices := rfl
@[simp] theorem setPart_llTlb (s : State) (p : Nat) (x : PartSt) : (s.setPart p x).llTlb = s.llTlb := rfl
@[simp] theorem setPart_windows (s : State) (p : Nat) (x : PartSt) : (s.setPart p x).windows = s.windows := rfl
@[simp] theorem setPart_elems (s : State) (p : Nat) (x : PartSt) : (s.setPart p x).elems = s.elems := rfl
@[simp] theorem setPart_savedElems (s : State) (p : Nat) (x : PartSt) : (s.setPart p x).savedElems = s.savedElems := rfl
@[simp] theorem setPart_haltElems (s : State) (p : Nat) (x : PartSt) : (s.setPart p x).haltElems = s.haltElems := rfl
@[simp] theorem setPart_fields (s : State) (p : Nat) (x : PartSt) : (s.setPart p x).fields = s.fields := rfl
@[simp] theorem setPart_flights (s : State) (p : Nat) (x : PartSt) : (s.setPart p x).flights = s.flights := rfl
@[simp] theorem setPart_flightNext (s : State) (p : Nat) (x : PartSt) : (s.setPart p x).flightNext = s.flightNext := rfl
@[simp] theorem setPart_riders (s : State) (p : Nat) (x : PartSt) : (s.setPart p x).riders = s.riders := rfl
@[simp] theorem setPart_riderNext (s : State) (p : Nat) (x : PartSt) : (s.setPart p x).riderNext = s.riderNext := rfl
@[simp] theorem setPart_retired (s : State) (p : Nat) (x : PartSt) : (s.setPart p x).retired = s.retired := rfl
@[simp] theorem setPart_poisoned (s : State) (p : Nat) (x : PartSt) : (s.setPart p x).poisoned = s.poisoned := rfl
@[simp] theorem setPart_badWords (s : State) (p : Nat) (x : PartSt) : (s.setPart p x).badWords = s.badWords := rfl
@[simp] theorem setPart_shared (s : State) (p : Nat) (x : PartSt) : (s.setPart p x).shared = s.shared := rfl
@[simp] theorem setPart_twins (s : State) (p : Nat) (x : PartSt) : (s.setPart p x).twins = s.twins := rfl
@[simp] theorem setPart_rowErrors (s : State) (p : Nat) (x : PartSt) : (s.setPart p x).rowErrors = s.rowErrors := rfl
@[simp] theorem setPart_rowPoison (s : State) (p : Nat) (x : PartSt) : (s.setPart p x).rowPoison = s.rowPoison := rfl
@[simp] theorem setPart_rowBufs (s : State) (p : Nat) (x : PartSt) : (s.setPart p x).rowBufs = s.rowBufs := rfl
@[simp] theorem setPart_parkedRows (s : State) (p : Nat) (x : PartSt) : (s.setPart p x).parkedRows = s.parkedRows := rfl
@[simp] theorem setPart_plots (s : State) (p : Nat) (x : PartSt) : (s.setPart p x).plots = s.plots := rfl
@[simp] theorem setPart_layers (s : State) (p : Nat) (x : PartSt) : (s.setPart p x).layers = s.layers := rfl
@[simp] theorem setPart_gens (s : State) (p : Nat) (x : PartSt) : (s.setPart p x).gens = s.gens := rfl
@[simp] theorem setPart_groups (s : State) (p : Nat) (x : PartSt) : (s.setPart p x).groups = s.groups := rfl
@[simp] theorem setPart_colls (s : State) (p : Nat) (x : PartSt) : (s.setPart p x).colls = s.colls := rfl
@[simp] theorem setPart_collNext (s : State) (p : Nat) (x : PartSt) : (s.setPart p x).collNext = s.collNext := rfl
@[simp] theorem setPart_hub (s : State) (p : Nat) (x : PartSt) : (s.setPart p x).hub = s.hub := rfl
@[simp] theorem setPart_powered (s : State) (p : Nat) (x : PartSt) : (s.setPart p x).powered = s.powered := rfl
@[simp] theorem setPart_notices (s : State) (p : Nat) (x : PartSt) : (s.setPart p x).notices = s.notices := rfl
@[simp] theorem setPart_focus (s : State) (p : Nat) (x : PartSt) : (s.setPart p x).focus = s.focus := rfl
@[simp] theorem setPart_agenda (s : State) (p : Nat) (x : PartSt) : (s.setPart p x).agenda = s.agenda := rfl
@[simp] theorem setPart_turn (s : State) (p : Nat) (x : PartSt) : (s.setPart p x).turn = s.turn := rfl
@[simp] theorem setPart_freeCount (s : State) (p : Nat) (x : PartSt) : (s.setPart p x).freeCount = s.freeCount := rfl

@[simp] theorem setPlace_cycle (s : State) (p n : Nat) (x : PlaceSt) : (s.setPlace p n x).cycle = s.cycle := rfl
@[simp] theorem setPlace_cursor (s : State) (p n : Nat) (x : PlaceSt) : (s.setPlace p n x).cursor = s.cursor := rfl
@[simp] theorem setPlace_stepCyc (s : State) (p n : Nat) (x : PlaceSt) : (s.setPlace p n x).stepCyc = s.stepCyc := rfl
@[simp] theorem setPlace_passNo (s : State) (p n : Nat) (x : PlaceSt) : (s.setPlace p n x).passNo = s.passNo := rfl
@[simp] theorem setPlace_sweep (s : State) (p n : Nat) (x : PlaceSt) : (s.setPlace p n x).sweep = s.sweep := rfl
@[simp] theorem setPlace_sweepNext (s : State) (p n : Nat) (x : PlaceSt) : (s.setPlace p n x).sweepNext = s.sweepNext := rfl
@[simp] theorem setPlace_sweepPass (s : State) (p n : Nat) (x : PlaceSt) : (s.setPlace p n x).sweepPass = s.sweepPass := rfl
@[simp] theorem setPlace_mem (s : State) (p n : Nat) (x : PlaceSt) : (s.setPlace p n x).mem = s.mem := rfl
@[simp] theorem setPlace_threads (s : State) (p n : Nat) (x : PlaceSt) : (s.setPlace p n x).threads = s.threads := rfl
@[simp] theorem setPlace_cores (s : State) (p n : Nat) (x : PlaceSt) : (s.setPlace p n x).cores = s.cores := rfl
@[simp] theorem setPlace_corePlaces (s : State) (p n : Nat) (x : PlaceSt) : (s.setPlace p n x).corePlaces = s.corePlaces := rfl
@[simp] theorem setPlace_parts (s : State) (p n : Nat) (x : PlaceSt) : (s.setPlace p n x).parts = s.parts := rfl
@[simp] theorem setPlace_slices (s : State) (p n : Nat) (x : PlaceSt) : (s.setPlace p n x).slices = s.slices := rfl
@[simp] theorem setPlace_llTlb (s : State) (p n : Nat) (x : PlaceSt) : (s.setPlace p n x).llTlb = s.llTlb := rfl
@[simp] theorem setPlace_windows (s : State) (p n : Nat) (x : PlaceSt) : (s.setPlace p n x).windows = s.windows := rfl
@[simp] theorem setPlace_elems (s : State) (p n : Nat) (x : PlaceSt) : (s.setPlace p n x).elems = s.elems := rfl
@[simp] theorem setPlace_savedElems (s : State) (p n : Nat) (x : PlaceSt) : (s.setPlace p n x).savedElems = s.savedElems := rfl
@[simp] theorem setPlace_haltElems (s : State) (p n : Nat) (x : PlaceSt) : (s.setPlace p n x).haltElems = s.haltElems := rfl
@[simp] theorem setPlace_fields (s : State) (p n : Nat) (x : PlaceSt) : (s.setPlace p n x).fields = s.fields := rfl
@[simp] theorem setPlace_flights (s : State) (p n : Nat) (x : PlaceSt) : (s.setPlace p n x).flights = s.flights := rfl
@[simp] theorem setPlace_flightNext (s : State) (p n : Nat) (x : PlaceSt) : (s.setPlace p n x).flightNext = s.flightNext := rfl
@[simp] theorem setPlace_riders (s : State) (p n : Nat) (x : PlaceSt) : (s.setPlace p n x).riders = s.riders := rfl
@[simp] theorem setPlace_riderNext (s : State) (p n : Nat) (x : PlaceSt) : (s.setPlace p n x).riderNext = s.riderNext := rfl
@[simp] theorem setPlace_retired (s : State) (p n : Nat) (x : PlaceSt) : (s.setPlace p n x).retired = s.retired := rfl
@[simp] theorem setPlace_poisoned (s : State) (p n : Nat) (x : PlaceSt) : (s.setPlace p n x).poisoned = s.poisoned := rfl
@[simp] theorem setPlace_badWords (s : State) (p n : Nat) (x : PlaceSt) : (s.setPlace p n x).badWords = s.badWords := rfl
@[simp] theorem setPlace_shared (s : State) (p n : Nat) (x : PlaceSt) : (s.setPlace p n x).shared = s.shared := rfl
@[simp] theorem setPlace_twins (s : State) (p n : Nat) (x : PlaceSt) : (s.setPlace p n x).twins = s.twins := rfl
@[simp] theorem setPlace_rowErrors (s : State) (p n : Nat) (x : PlaceSt) : (s.setPlace p n x).rowErrors = s.rowErrors := rfl
@[simp] theorem setPlace_rowPoison (s : State) (p n : Nat) (x : PlaceSt) : (s.setPlace p n x).rowPoison = s.rowPoison := rfl
@[simp] theorem setPlace_rowBufs (s : State) (p n : Nat) (x : PlaceSt) : (s.setPlace p n x).rowBufs = s.rowBufs := rfl
@[simp] theorem setPlace_parkedRows (s : State) (p n : Nat) (x : PlaceSt) : (s.setPlace p n x).parkedRows = s.parkedRows := rfl
@[simp] theorem setPlace_plots (s : State) (p n : Nat) (x : PlaceSt) : (s.setPlace p n x).plots = s.plots := rfl
@[simp] theorem setPlace_layers (s : State) (p n : Nat) (x : PlaceSt) : (s.setPlace p n x).layers = s.layers := rfl
@[simp] theorem setPlace_gens (s : State) (p n : Nat) (x : PlaceSt) : (s.setPlace p n x).gens = s.gens := rfl
@[simp] theorem setPlace_groups (s : State) (p n : Nat) (x : PlaceSt) : (s.setPlace p n x).groups = s.groups := rfl
@[simp] theorem setPlace_colls (s : State) (p n : Nat) (x : PlaceSt) : (s.setPlace p n x).colls = s.colls := rfl
@[simp] theorem setPlace_collNext (s : State) (p n : Nat) (x : PlaceSt) : (s.setPlace p n x).collNext = s.collNext := rfl
@[simp] theorem setPlace_hub (s : State) (p n : Nat) (x : PlaceSt) : (s.setPlace p n x).hub = s.hub := rfl
@[simp] theorem setPlace_powered (s : State) (p n : Nat) (x : PlaceSt) : (s.setPlace p n x).powered = s.powered := rfl
@[simp] theorem setPlace_notices (s : State) (p n : Nat) (x : PlaceSt) : (s.setPlace p n x).notices = s.notices := rfl
@[simp] theorem setPlace_focus (s : State) (p n : Nat) (x : PlaceSt) : (s.setPlace p n x).focus = s.focus := rfl
@[simp] theorem setPlace_agenda (s : State) (p n : Nat) (x : PlaceSt) : (s.setPlace p n x).agenda = s.agenda := rfl
@[simp] theorem setPlace_turn (s : State) (p n : Nat) (x : PlaceSt) : (s.setPlace p n x).turn = s.turn := rfl
@[simp] theorem setPlace_freeCount (s : State) (p n : Nat) (x : PlaceSt) : (s.setPlace p n x).freeCount = s.freeCount := rfl

@[simp] theorem setCorePlace_cycle (s : State) (c n : Nat) (x : CorePlaceSt) : (s.setCorePlace c n x).cycle = s.cycle := rfl
@[simp] theorem setCorePlace_cursor (s : State) (c n : Nat) (x : CorePlaceSt) : (s.setCorePlace c n x).cursor = s.cursor := rfl
@[simp] theorem setCorePlace_stepCyc (s : State) (c n : Nat) (x : CorePlaceSt) : (s.setCorePlace c n x).stepCyc = s.stepCyc := rfl
@[simp] theorem setCorePlace_passNo (s : State) (c n : Nat) (x : CorePlaceSt) : (s.setCorePlace c n x).passNo = s.passNo := rfl
@[simp] theorem setCorePlace_sweep (s : State) (c n : Nat) (x : CorePlaceSt) : (s.setCorePlace c n x).sweep = s.sweep := rfl
@[simp] theorem setCorePlace_sweepNext (s : State) (c n : Nat) (x : CorePlaceSt) : (s.setCorePlace c n x).sweepNext = s.sweepNext := rfl
@[simp] theorem setCorePlace_sweepPass (s : State) (c n : Nat) (x : CorePlaceSt) : (s.setCorePlace c n x).sweepPass = s.sweepPass := rfl
@[simp] theorem setCorePlace_mem (s : State) (c n : Nat) (x : CorePlaceSt) : (s.setCorePlace c n x).mem = s.mem := rfl
@[simp] theorem setCorePlace_threads (s : State) (c n : Nat) (x : CorePlaceSt) : (s.setCorePlace c n x).threads = s.threads := rfl
@[simp] theorem setCorePlace_cores (s : State) (c n : Nat) (x : CorePlaceSt) : (s.setCorePlace c n x).cores = s.cores := rfl
@[simp] theorem setCorePlace_places (s : State) (c n : Nat) (x : CorePlaceSt) : (s.setCorePlace c n x).places = s.places := rfl
@[simp] theorem setCorePlace_parts (s : State) (c n : Nat) (x : CorePlaceSt) : (s.setCorePlace c n x).parts = s.parts := rfl
@[simp] theorem setCorePlace_slices (s : State) (c n : Nat) (x : CorePlaceSt) : (s.setCorePlace c n x).slices = s.slices := rfl
@[simp] theorem setCorePlace_llTlb (s : State) (c n : Nat) (x : CorePlaceSt) : (s.setCorePlace c n x).llTlb = s.llTlb := rfl
@[simp] theorem setCorePlace_windows (s : State) (c n : Nat) (x : CorePlaceSt) : (s.setCorePlace c n x).windows = s.windows := rfl
@[simp] theorem setCorePlace_elems (s : State) (c n : Nat) (x : CorePlaceSt) : (s.setCorePlace c n x).elems = s.elems := rfl
@[simp] theorem setCorePlace_savedElems (s : State) (c n : Nat) (x : CorePlaceSt) : (s.setCorePlace c n x).savedElems = s.savedElems := rfl
@[simp] theorem setCorePlace_haltElems (s : State) (c n : Nat) (x : CorePlaceSt) : (s.setCorePlace c n x).haltElems = s.haltElems := rfl
@[simp] theorem setCorePlace_fields (s : State) (c n : Nat) (x : CorePlaceSt) : (s.setCorePlace c n x).fields = s.fields := rfl
@[simp] theorem setCorePlace_flights (s : State) (c n : Nat) (x : CorePlaceSt) : (s.setCorePlace c n x).flights = s.flights := rfl
@[simp] theorem setCorePlace_flightNext (s : State) (c n : Nat) (x : CorePlaceSt) : (s.setCorePlace c n x).flightNext = s.flightNext := rfl
@[simp] theorem setCorePlace_riders (s : State) (c n : Nat) (x : CorePlaceSt) : (s.setCorePlace c n x).riders = s.riders := rfl
@[simp] theorem setCorePlace_riderNext (s : State) (c n : Nat) (x : CorePlaceSt) : (s.setCorePlace c n x).riderNext = s.riderNext := rfl
@[simp] theorem setCorePlace_retired (s : State) (c n : Nat) (x : CorePlaceSt) : (s.setCorePlace c n x).retired = s.retired := rfl
@[simp] theorem setCorePlace_poisoned (s : State) (c n : Nat) (x : CorePlaceSt) : (s.setCorePlace c n x).poisoned = s.poisoned := rfl
@[simp] theorem setCorePlace_badWords (s : State) (c n : Nat) (x : CorePlaceSt) : (s.setCorePlace c n x).badWords = s.badWords := rfl
@[simp] theorem setCorePlace_shared (s : State) (c n : Nat) (x : CorePlaceSt) : (s.setCorePlace c n x).shared = s.shared := rfl
@[simp] theorem setCorePlace_twins (s : State) (c n : Nat) (x : CorePlaceSt) : (s.setCorePlace c n x).twins = s.twins := rfl
@[simp] theorem setCorePlace_rowErrors (s : State) (c n : Nat) (x : CorePlaceSt) : (s.setCorePlace c n x).rowErrors = s.rowErrors := rfl
@[simp] theorem setCorePlace_rowPoison (s : State) (c n : Nat) (x : CorePlaceSt) : (s.setCorePlace c n x).rowPoison = s.rowPoison := rfl
@[simp] theorem setCorePlace_rowBufs (s : State) (c n : Nat) (x : CorePlaceSt) : (s.setCorePlace c n x).rowBufs = s.rowBufs := rfl
@[simp] theorem setCorePlace_parkedRows (s : State) (c n : Nat) (x : CorePlaceSt) : (s.setCorePlace c n x).parkedRows = s.parkedRows := rfl
@[simp] theorem setCorePlace_plots (s : State) (c n : Nat) (x : CorePlaceSt) : (s.setCorePlace c n x).plots = s.plots := rfl
@[simp] theorem setCorePlace_layers (s : State) (c n : Nat) (x : CorePlaceSt) : (s.setCorePlace c n x).layers = s.layers := rfl
@[simp] theorem setCorePlace_gens (s : State) (c n : Nat) (x : CorePlaceSt) : (s.setCorePlace c n x).gens = s.gens := rfl
@[simp] theorem setCorePlace_groups (s : State) (c n : Nat) (x : CorePlaceSt) : (s.setCorePlace c n x).groups = s.groups := rfl
@[simp] theorem setCorePlace_colls (s : State) (c n : Nat) (x : CorePlaceSt) : (s.setCorePlace c n x).colls = s.colls := rfl
@[simp] theorem setCorePlace_collNext (s : State) (c n : Nat) (x : CorePlaceSt) : (s.setCorePlace c n x).collNext = s.collNext := rfl
@[simp] theorem setCorePlace_hub (s : State) (c n : Nat) (x : CorePlaceSt) : (s.setCorePlace c n x).hub = s.hub := rfl
@[simp] theorem setCorePlace_powered (s : State) (c n : Nat) (x : CorePlaceSt) : (s.setCorePlace c n x).powered = s.powered := rfl
@[simp] theorem setCorePlace_notices (s : State) (c n : Nat) (x : CorePlaceSt) : (s.setCorePlace c n x).notices = s.notices := rfl
@[simp] theorem setCorePlace_focus (s : State) (c n : Nat) (x : CorePlaceSt) : (s.setCorePlace c n x).focus = s.focus := rfl
@[simp] theorem setCorePlace_agenda (s : State) (c n : Nat) (x : CorePlaceSt) : (s.setCorePlace c n x).agenda = s.agenda := rfl
@[simp] theorem setCorePlace_turn (s : State) (c n : Nat) (x : CorePlaceSt) : (s.setCorePlace c n x).turn = s.turn := rfl
@[simp] theorem setCorePlace_freeCount (s : State) (c n : Nat) (x : CorePlaceSt) : (s.setCorePlace c n x).freeCount = s.freeCount := rfl

@[simp] theorem setElem_cycle (s : State) (e : Nat) (x : ElemSt) : (s.setElem e x).cycle = s.cycle := rfl
@[simp] theorem setElem_cursor (s : State) (e : Nat) (x : ElemSt) : (s.setElem e x).cursor = s.cursor := rfl
@[simp] theorem setElem_stepCyc (s : State) (e : Nat) (x : ElemSt) : (s.setElem e x).stepCyc = s.stepCyc := rfl
@[simp] theorem setElem_passNo (s : State) (e : Nat) (x : ElemSt) : (s.setElem e x).passNo = s.passNo := rfl
@[simp] theorem setElem_sweep (s : State) (e : Nat) (x : ElemSt) : (s.setElem e x).sweep = s.sweep := rfl
@[simp] theorem setElem_sweepNext (s : State) (e : Nat) (x : ElemSt) : (s.setElem e x).sweepNext = s.sweepNext := rfl
@[simp] theorem setElem_sweepPass (s : State) (e : Nat) (x : ElemSt) : (s.setElem e x).sweepPass = s.sweepPass := rfl
@[simp] theorem setElem_mem (s : State) (e : Nat) (x : ElemSt) : (s.setElem e x).mem = s.mem := rfl
@[simp] theorem setElem_threads (s : State) (e : Nat) (x : ElemSt) : (s.setElem e x).threads = s.threads := rfl
@[simp] theorem setElem_cores (s : State) (e : Nat) (x : ElemSt) : (s.setElem e x).cores = s.cores := rfl
@[simp] theorem setElem_corePlaces (s : State) (e : Nat) (x : ElemSt) : (s.setElem e x).corePlaces = s.corePlaces := rfl
@[simp] theorem setElem_places (s : State) (e : Nat) (x : ElemSt) : (s.setElem e x).places = s.places := rfl
@[simp] theorem setElem_parts (s : State) (e : Nat) (x : ElemSt) : (s.setElem e x).parts = s.parts := rfl
@[simp] theorem setElem_slices (s : State) (e : Nat) (x : ElemSt) : (s.setElem e x).slices = s.slices := rfl
@[simp] theorem setElem_llTlb (s : State) (e : Nat) (x : ElemSt) : (s.setElem e x).llTlb = s.llTlb := rfl
@[simp] theorem setElem_windows (s : State) (e : Nat) (x : ElemSt) : (s.setElem e x).windows = s.windows := rfl
@[simp] theorem setElem_savedElems (s : State) (e : Nat) (x : ElemSt) : (s.setElem e x).savedElems = s.savedElems := rfl
@[simp] theorem setElem_haltElems (s : State) (e : Nat) (x : ElemSt) : (s.setElem e x).haltElems = s.haltElems := rfl
@[simp] theorem setElem_fields (s : State) (e : Nat) (x : ElemSt) : (s.setElem e x).fields = s.fields := rfl
@[simp] theorem setElem_flights (s : State) (e : Nat) (x : ElemSt) : (s.setElem e x).flights = s.flights := rfl
@[simp] theorem setElem_flightNext (s : State) (e : Nat) (x : ElemSt) : (s.setElem e x).flightNext = s.flightNext := rfl
@[simp] theorem setElem_riders (s : State) (e : Nat) (x : ElemSt) : (s.setElem e x).riders = s.riders := rfl
@[simp] theorem setElem_riderNext (s : State) (e : Nat) (x : ElemSt) : (s.setElem e x).riderNext = s.riderNext := rfl
@[simp] theorem setElem_retired (s : State) (e : Nat) (x : ElemSt) : (s.setElem e x).retired = s.retired := rfl
@[simp] theorem setElem_poisoned (s : State) (e : Nat) (x : ElemSt) : (s.setElem e x).poisoned = s.poisoned := rfl
@[simp] theorem setElem_badWords (s : State) (e : Nat) (x : ElemSt) : (s.setElem e x).badWords = s.badWords := rfl
@[simp] theorem setElem_shared (s : State) (e : Nat) (x : ElemSt) : (s.setElem e x).shared = s.shared := rfl
@[simp] theorem setElem_twins (s : State) (e : Nat) (x : ElemSt) : (s.setElem e x).twins = s.twins := rfl
@[simp] theorem setElem_rowErrors (s : State) (e : Nat) (x : ElemSt) : (s.setElem e x).rowErrors = s.rowErrors := rfl
@[simp] theorem setElem_rowPoison (s : State) (e : Nat) (x : ElemSt) : (s.setElem e x).rowPoison = s.rowPoison := rfl
@[simp] theorem setElem_rowBufs (s : State) (e : Nat) (x : ElemSt) : (s.setElem e x).rowBufs = s.rowBufs := rfl
@[simp] theorem setElem_parkedRows (s : State) (e : Nat) (x : ElemSt) : (s.setElem e x).parkedRows = s.parkedRows := rfl
@[simp] theorem setElem_plots (s : State) (e : Nat) (x : ElemSt) : (s.setElem e x).plots = s.plots := rfl
@[simp] theorem setElem_layers (s : State) (e : Nat) (x : ElemSt) : (s.setElem e x).layers = s.layers := rfl
@[simp] theorem setElem_gens (s : State) (e : Nat) (x : ElemSt) : (s.setElem e x).gens = s.gens := rfl
@[simp] theorem setElem_groups (s : State) (e : Nat) (x : ElemSt) : (s.setElem e x).groups = s.groups := rfl
@[simp] theorem setElem_colls (s : State) (e : Nat) (x : ElemSt) : (s.setElem e x).colls = s.colls := rfl
@[simp] theorem setElem_collNext (s : State) (e : Nat) (x : ElemSt) : (s.setElem e x).collNext = s.collNext := rfl
@[simp] theorem setElem_hub (s : State) (e : Nat) (x : ElemSt) : (s.setElem e x).hub = s.hub := rfl
@[simp] theorem setElem_powered (s : State) (e : Nat) (x : ElemSt) : (s.setElem e x).powered = s.powered := rfl
@[simp] theorem setElem_notices (s : State) (e : Nat) (x : ElemSt) : (s.setElem e x).notices = s.notices := rfl
@[simp] theorem setElem_focus (s : State) (e : Nat) (x : ElemSt) : (s.setElem e x).focus = s.focus := rfl
@[simp] theorem setElem_agenda (s : State) (e : Nat) (x : ElemSt) : (s.setElem e x).agenda = s.agenda := rfl
@[simp] theorem setElem_turn (s : State) (e : Nat) (x : ElemSt) : (s.setElem e x).turn = s.turn := rfl
@[simp] theorem setElem_freeCount (s : State) (e : Nat) (x : ElemSt) : (s.setElem e x).freeCount = s.freeCount := rfl

@[simp] theorem setField_cycle (s : State) (k : Nat) (x : FieldSt) : (s.setField k x).cycle = s.cycle := rfl
@[simp] theorem setField_cursor (s : State) (k : Nat) (x : FieldSt) : (s.setField k x).cursor = s.cursor := rfl
@[simp] theorem setField_stepCyc (s : State) (k : Nat) (x : FieldSt) : (s.setField k x).stepCyc = s.stepCyc := rfl
@[simp] theorem setField_passNo (s : State) (k : Nat) (x : FieldSt) : (s.setField k x).passNo = s.passNo := rfl
@[simp] theorem setField_sweep (s : State) (k : Nat) (x : FieldSt) : (s.setField k x).sweep = s.sweep := rfl
@[simp] theorem setField_sweepNext (s : State) (k : Nat) (x : FieldSt) : (s.setField k x).sweepNext = s.sweepNext := rfl
@[simp] theorem setField_sweepPass (s : State) (k : Nat) (x : FieldSt) : (s.setField k x).sweepPass = s.sweepPass := rfl
@[simp] theorem setField_mem (s : State) (k : Nat) (x : FieldSt) : (s.setField k x).mem = s.mem := rfl
@[simp] theorem setField_threads (s : State) (k : Nat) (x : FieldSt) : (s.setField k x).threads = s.threads := rfl
@[simp] theorem setField_cores (s : State) (k : Nat) (x : FieldSt) : (s.setField k x).cores = s.cores := rfl
@[simp] theorem setField_corePlaces (s : State) (k : Nat) (x : FieldSt) : (s.setField k x).corePlaces = s.corePlaces := rfl
@[simp] theorem setField_places (s : State) (k : Nat) (x : FieldSt) : (s.setField k x).places = s.places := rfl
@[simp] theorem setField_parts (s : State) (k : Nat) (x : FieldSt) : (s.setField k x).parts = s.parts := rfl
@[simp] theorem setField_slices (s : State) (k : Nat) (x : FieldSt) : (s.setField k x).slices = s.slices := rfl
@[simp] theorem setField_llTlb (s : State) (k : Nat) (x : FieldSt) : (s.setField k x).llTlb = s.llTlb := rfl
@[simp] theorem setField_windows (s : State) (k : Nat) (x : FieldSt) : (s.setField k x).windows = s.windows := rfl
@[simp] theorem setField_elems (s : State) (k : Nat) (x : FieldSt) : (s.setField k x).elems = s.elems := rfl
@[simp] theorem setField_savedElems (s : State) (k : Nat) (x : FieldSt) : (s.setField k x).savedElems = s.savedElems := rfl
@[simp] theorem setField_haltElems (s : State) (k : Nat) (x : FieldSt) : (s.setField k x).haltElems = s.haltElems := rfl
@[simp] theorem setField_flights (s : State) (k : Nat) (x : FieldSt) : (s.setField k x).flights = s.flights := rfl
@[simp] theorem setField_flightNext (s : State) (k : Nat) (x : FieldSt) : (s.setField k x).flightNext = s.flightNext := rfl
@[simp] theorem setField_riders (s : State) (k : Nat) (x : FieldSt) : (s.setField k x).riders = s.riders := rfl
@[simp] theorem setField_riderNext (s : State) (k : Nat) (x : FieldSt) : (s.setField k x).riderNext = s.riderNext := rfl
@[simp] theorem setField_retired (s : State) (k : Nat) (x : FieldSt) : (s.setField k x).retired = s.retired := rfl
@[simp] theorem setField_poisoned (s : State) (k : Nat) (x : FieldSt) : (s.setField k x).poisoned = s.poisoned := rfl
@[simp] theorem setField_badWords (s : State) (k : Nat) (x : FieldSt) : (s.setField k x).badWords = s.badWords := rfl
@[simp] theorem setField_shared (s : State) (k : Nat) (x : FieldSt) : (s.setField k x).shared = s.shared := rfl
@[simp] theorem setField_twins (s : State) (k : Nat) (x : FieldSt) : (s.setField k x).twins = s.twins := rfl
@[simp] theorem setField_rowErrors (s : State) (k : Nat) (x : FieldSt) : (s.setField k x).rowErrors = s.rowErrors := rfl
@[simp] theorem setField_rowPoison (s : State) (k : Nat) (x : FieldSt) : (s.setField k x).rowPoison = s.rowPoison := rfl
@[simp] theorem setField_rowBufs (s : State) (k : Nat) (x : FieldSt) : (s.setField k x).rowBufs = s.rowBufs := rfl
@[simp] theorem setField_parkedRows (s : State) (k : Nat) (x : FieldSt) : (s.setField k x).parkedRows = s.parkedRows := rfl
@[simp] theorem setField_plots (s : State) (k : Nat) (x : FieldSt) : (s.setField k x).plots = s.plots := rfl
@[simp] theorem setField_layers (s : State) (k : Nat) (x : FieldSt) : (s.setField k x).layers = s.layers := rfl
@[simp] theorem setField_gens (s : State) (k : Nat) (x : FieldSt) : (s.setField k x).gens = s.gens := rfl
@[simp] theorem setField_groups (s : State) (k : Nat) (x : FieldSt) : (s.setField k x).groups = s.groups := rfl
@[simp] theorem setField_colls (s : State) (k : Nat) (x : FieldSt) : (s.setField k x).colls = s.colls := rfl
@[simp] theorem setField_collNext (s : State) (k : Nat) (x : FieldSt) : (s.setField k x).collNext = s.collNext := rfl
@[simp] theorem setField_hub (s : State) (k : Nat) (x : FieldSt) : (s.setField k x).hub = s.hub := rfl
@[simp] theorem setField_powered (s : State) (k : Nat) (x : FieldSt) : (s.setField k x).powered = s.powered := rfl
@[simp] theorem setField_notices (s : State) (k : Nat) (x : FieldSt) : (s.setField k x).notices = s.notices := rfl
@[simp] theorem setField_focus (s : State) (k : Nat) (x : FieldSt) : (s.setField k x).focus = s.focus := rfl
@[simp] theorem setField_agenda (s : State) (k : Nat) (x : FieldSt) : (s.setField k x).agenda = s.agenda := rfl
@[simp] theorem setField_turn (s : State) (k : Nat) (x : FieldSt) : (s.setField k x).turn = s.turn := rfl
@[simp] theorem setField_freeCount (s : State) (k : Nat) (x : FieldSt) : (s.setField k x).freeCount = s.freeCount := rfl

@[simp] theorem setGen_cycle (s : State) (k : Nat) (x : GenSt) : (s.setGen k x).cycle = s.cycle := rfl
@[simp] theorem setGen_cursor (s : State) (k : Nat) (x : GenSt) : (s.setGen k x).cursor = s.cursor := rfl
@[simp] theorem setGen_stepCyc (s : State) (k : Nat) (x : GenSt) : (s.setGen k x).stepCyc = s.stepCyc := rfl
@[simp] theorem setGen_passNo (s : State) (k : Nat) (x : GenSt) : (s.setGen k x).passNo = s.passNo := rfl
@[simp] theorem setGen_sweep (s : State) (k : Nat) (x : GenSt) : (s.setGen k x).sweep = s.sweep := rfl
@[simp] theorem setGen_sweepNext (s : State) (k : Nat) (x : GenSt) : (s.setGen k x).sweepNext = s.sweepNext := rfl
@[simp] theorem setGen_sweepPass (s : State) (k : Nat) (x : GenSt) : (s.setGen k x).sweepPass = s.sweepPass := rfl
@[simp] theorem setGen_mem (s : State) (k : Nat) (x : GenSt) : (s.setGen k x).mem = s.mem := rfl
@[simp] theorem setGen_threads (s : State) (k : Nat) (x : GenSt) : (s.setGen k x).threads = s.threads := rfl
@[simp] theorem setGen_cores (s : State) (k : Nat) (x : GenSt) : (s.setGen k x).cores = s.cores := rfl
@[simp] theorem setGen_corePlaces (s : State) (k : Nat) (x : GenSt) : (s.setGen k x).corePlaces = s.corePlaces := rfl
@[simp] theorem setGen_places (s : State) (k : Nat) (x : GenSt) : (s.setGen k x).places = s.places := rfl
@[simp] theorem setGen_parts (s : State) (k : Nat) (x : GenSt) : (s.setGen k x).parts = s.parts := rfl
@[simp] theorem setGen_slices (s : State) (k : Nat) (x : GenSt) : (s.setGen k x).slices = s.slices := rfl
@[simp] theorem setGen_llTlb (s : State) (k : Nat) (x : GenSt) : (s.setGen k x).llTlb = s.llTlb := rfl
@[simp] theorem setGen_windows (s : State) (k : Nat) (x : GenSt) : (s.setGen k x).windows = s.windows := rfl
@[simp] theorem setGen_elems (s : State) (k : Nat) (x : GenSt) : (s.setGen k x).elems = s.elems := rfl
@[simp] theorem setGen_savedElems (s : State) (k : Nat) (x : GenSt) : (s.setGen k x).savedElems = s.savedElems := rfl
@[simp] theorem setGen_haltElems (s : State) (k : Nat) (x : GenSt) : (s.setGen k x).haltElems = s.haltElems := rfl
@[simp] theorem setGen_fields (s : State) (k : Nat) (x : GenSt) : (s.setGen k x).fields = s.fields := rfl
@[simp] theorem setGen_flights (s : State) (k : Nat) (x : GenSt) : (s.setGen k x).flights = s.flights := rfl
@[simp] theorem setGen_flightNext (s : State) (k : Nat) (x : GenSt) : (s.setGen k x).flightNext = s.flightNext := rfl
@[simp] theorem setGen_riders (s : State) (k : Nat) (x : GenSt) : (s.setGen k x).riders = s.riders := rfl
@[simp] theorem setGen_riderNext (s : State) (k : Nat) (x : GenSt) : (s.setGen k x).riderNext = s.riderNext := rfl
@[simp] theorem setGen_retired (s : State) (k : Nat) (x : GenSt) : (s.setGen k x).retired = s.retired := rfl
@[simp] theorem setGen_poisoned (s : State) (k : Nat) (x : GenSt) : (s.setGen k x).poisoned = s.poisoned := rfl
@[simp] theorem setGen_badWords (s : State) (k : Nat) (x : GenSt) : (s.setGen k x).badWords = s.badWords := rfl
@[simp] theorem setGen_shared (s : State) (k : Nat) (x : GenSt) : (s.setGen k x).shared = s.shared := rfl
@[simp] theorem setGen_twins (s : State) (k : Nat) (x : GenSt) : (s.setGen k x).twins = s.twins := rfl
@[simp] theorem setGen_rowErrors (s : State) (k : Nat) (x : GenSt) : (s.setGen k x).rowErrors = s.rowErrors := rfl
@[simp] theorem setGen_rowPoison (s : State) (k : Nat) (x : GenSt) : (s.setGen k x).rowPoison = s.rowPoison := rfl
@[simp] theorem setGen_rowBufs (s : State) (k : Nat) (x : GenSt) : (s.setGen k x).rowBufs = s.rowBufs := rfl
@[simp] theorem setGen_parkedRows (s : State) (k : Nat) (x : GenSt) : (s.setGen k x).parkedRows = s.parkedRows := rfl
@[simp] theorem setGen_plots (s : State) (k : Nat) (x : GenSt) : (s.setGen k x).plots = s.plots := rfl
@[simp] theorem setGen_layers (s : State) (k : Nat) (x : GenSt) : (s.setGen k x).layers = s.layers := rfl
@[simp] theorem setGen_groups (s : State) (k : Nat) (x : GenSt) : (s.setGen k x).groups = s.groups := rfl
@[simp] theorem setGen_colls (s : State) (k : Nat) (x : GenSt) : (s.setGen k x).colls = s.colls := rfl
@[simp] theorem setGen_collNext (s : State) (k : Nat) (x : GenSt) : (s.setGen k x).collNext = s.collNext := rfl
@[simp] theorem setGen_hub (s : State) (k : Nat) (x : GenSt) : (s.setGen k x).hub = s.hub := rfl
@[simp] theorem setGen_powered (s : State) (k : Nat) (x : GenSt) : (s.setGen k x).powered = s.powered := rfl
@[simp] theorem setGen_notices (s : State) (k : Nat) (x : GenSt) : (s.setGen k x).notices = s.notices := rfl
@[simp] theorem setGen_focus (s : State) (k : Nat) (x : GenSt) : (s.setGen k x).focus = s.focus := rfl
@[simp] theorem setGen_agenda (s : State) (k : Nat) (x : GenSt) : (s.setGen k x).agenda = s.agenda := rfl
@[simp] theorem setGen_turn (s : State) (k : Nat) (x : GenSt) : (s.setGen k x).turn = s.turn := rfl
@[simp] theorem setGen_freeCount (s : State) (k : Nat) (x : GenSt) : (s.setGen k x).freeCount = s.freeCount := rfl

@[simp] theorem setPlot_cycle (s : State) (p : Nat) (x : PlotSt) : (s.setPlot p x).cycle = s.cycle := rfl
@[simp] theorem setPlot_cursor (s : State) (p : Nat) (x : PlotSt) : (s.setPlot p x).cursor = s.cursor := rfl
@[simp] theorem setPlot_stepCyc (s : State) (p : Nat) (x : PlotSt) : (s.setPlot p x).stepCyc = s.stepCyc := rfl
@[simp] theorem setPlot_passNo (s : State) (p : Nat) (x : PlotSt) : (s.setPlot p x).passNo = s.passNo := rfl
@[simp] theorem setPlot_sweep (s : State) (p : Nat) (x : PlotSt) : (s.setPlot p x).sweep = s.sweep := rfl
@[simp] theorem setPlot_sweepNext (s : State) (p : Nat) (x : PlotSt) : (s.setPlot p x).sweepNext = s.sweepNext := rfl
@[simp] theorem setPlot_sweepPass (s : State) (p : Nat) (x : PlotSt) : (s.setPlot p x).sweepPass = s.sweepPass := rfl
@[simp] theorem setPlot_mem (s : State) (p : Nat) (x : PlotSt) : (s.setPlot p x).mem = s.mem := rfl
@[simp] theorem setPlot_threads (s : State) (p : Nat) (x : PlotSt) : (s.setPlot p x).threads = s.threads := rfl
@[simp] theorem setPlot_cores (s : State) (p : Nat) (x : PlotSt) : (s.setPlot p x).cores = s.cores := rfl
@[simp] theorem setPlot_corePlaces (s : State) (p : Nat) (x : PlotSt) : (s.setPlot p x).corePlaces = s.corePlaces := rfl
@[simp] theorem setPlot_places (s : State) (p : Nat) (x : PlotSt) : (s.setPlot p x).places = s.places := rfl
@[simp] theorem setPlot_parts (s : State) (p : Nat) (x : PlotSt) : (s.setPlot p x).parts = s.parts := rfl
@[simp] theorem setPlot_slices (s : State) (p : Nat) (x : PlotSt) : (s.setPlot p x).slices = s.slices := rfl
@[simp] theorem setPlot_llTlb (s : State) (p : Nat) (x : PlotSt) : (s.setPlot p x).llTlb = s.llTlb := rfl
@[simp] theorem setPlot_windows (s : State) (p : Nat) (x : PlotSt) : (s.setPlot p x).windows = s.windows := rfl
@[simp] theorem setPlot_elems (s : State) (p : Nat) (x : PlotSt) : (s.setPlot p x).elems = s.elems := rfl
@[simp] theorem setPlot_savedElems (s : State) (p : Nat) (x : PlotSt) : (s.setPlot p x).savedElems = s.savedElems := rfl
@[simp] theorem setPlot_haltElems (s : State) (p : Nat) (x : PlotSt) : (s.setPlot p x).haltElems = s.haltElems := rfl
@[simp] theorem setPlot_fields (s : State) (p : Nat) (x : PlotSt) : (s.setPlot p x).fields = s.fields := rfl
@[simp] theorem setPlot_flights (s : State) (p : Nat) (x : PlotSt) : (s.setPlot p x).flights = s.flights := rfl
@[simp] theorem setPlot_flightNext (s : State) (p : Nat) (x : PlotSt) : (s.setPlot p x).flightNext = s.flightNext := rfl
@[simp] theorem setPlot_riders (s : State) (p : Nat) (x : PlotSt) : (s.setPlot p x).riders = s.riders := rfl
@[simp] theorem setPlot_riderNext (s : State) (p : Nat) (x : PlotSt) : (s.setPlot p x).riderNext = s.riderNext := rfl
@[simp] theorem setPlot_retired (s : State) (p : Nat) (x : PlotSt) : (s.setPlot p x).retired = s.retired := rfl
@[simp] theorem setPlot_poisoned (s : State) (p : Nat) (x : PlotSt) : (s.setPlot p x).poisoned = s.poisoned := rfl
@[simp] theorem setPlot_badWords (s : State) (p : Nat) (x : PlotSt) : (s.setPlot p x).badWords = s.badWords := rfl
@[simp] theorem setPlot_shared (s : State) (p : Nat) (x : PlotSt) : (s.setPlot p x).shared = s.shared := rfl
@[simp] theorem setPlot_twins (s : State) (p : Nat) (x : PlotSt) : (s.setPlot p x).twins = s.twins := rfl
@[simp] theorem setPlot_rowErrors (s : State) (p : Nat) (x : PlotSt) : (s.setPlot p x).rowErrors = s.rowErrors := rfl
@[simp] theorem setPlot_rowPoison (s : State) (p : Nat) (x : PlotSt) : (s.setPlot p x).rowPoison = s.rowPoison := rfl
@[simp] theorem setPlot_rowBufs (s : State) (p : Nat) (x : PlotSt) : (s.setPlot p x).rowBufs = s.rowBufs := rfl
@[simp] theorem setPlot_parkedRows (s : State) (p : Nat) (x : PlotSt) : (s.setPlot p x).parkedRows = s.parkedRows := rfl
@[simp] theorem setPlot_layers (s : State) (p : Nat) (x : PlotSt) : (s.setPlot p x).layers = s.layers := rfl
@[simp] theorem setPlot_gens (s : State) (p : Nat) (x : PlotSt) : (s.setPlot p x).gens = s.gens := rfl
@[simp] theorem setPlot_groups (s : State) (p : Nat) (x : PlotSt) : (s.setPlot p x).groups = s.groups := rfl
@[simp] theorem setPlot_colls (s : State) (p : Nat) (x : PlotSt) : (s.setPlot p x).colls = s.colls := rfl
@[simp] theorem setPlot_collNext (s : State) (p : Nat) (x : PlotSt) : (s.setPlot p x).collNext = s.collNext := rfl
@[simp] theorem setPlot_hub (s : State) (p : Nat) (x : PlotSt) : (s.setPlot p x).hub = s.hub := rfl
@[simp] theorem setPlot_powered (s : State) (p : Nat) (x : PlotSt) : (s.setPlot p x).powered = s.powered := rfl
@[simp] theorem setPlot_notices (s : State) (p : Nat) (x : PlotSt) : (s.setPlot p x).notices = s.notices := rfl
@[simp] theorem setPlot_focus (s : State) (p : Nat) (x : PlotSt) : (s.setPlot p x).focus = s.focus := rfl
@[simp] theorem setPlot_agenda (s : State) (p : Nat) (x : PlotSt) : (s.setPlot p x).agenda = s.agenda := rfl
@[simp] theorem setPlot_turn (s : State) (p : Nat) (x : PlotSt) : (s.setPlot p x).turn = s.turn := rfl
@[simp] theorem setPlot_freeCount (s : State) (p : Nat) (x : PlotSt) : (s.setPlot p x).freeCount = s.freeCount := rfl

@[simp] theorem setRider_cycle (s : State) (n : Nat) (x : RiderSt) : (s.setRider n x).cycle = s.cycle := rfl
@[simp] theorem setRider_cursor (s : State) (n : Nat) (x : RiderSt) : (s.setRider n x).cursor = s.cursor := rfl
@[simp] theorem setRider_stepCyc (s : State) (n : Nat) (x : RiderSt) : (s.setRider n x).stepCyc = s.stepCyc := rfl
@[simp] theorem setRider_passNo (s : State) (n : Nat) (x : RiderSt) : (s.setRider n x).passNo = s.passNo := rfl
@[simp] theorem setRider_sweep (s : State) (n : Nat) (x : RiderSt) : (s.setRider n x).sweep = s.sweep := rfl
@[simp] theorem setRider_sweepNext (s : State) (n : Nat) (x : RiderSt) : (s.setRider n x).sweepNext = s.sweepNext := rfl
@[simp] theorem setRider_sweepPass (s : State) (n : Nat) (x : RiderSt) : (s.setRider n x).sweepPass = s.sweepPass := rfl
@[simp] theorem setRider_mem (s : State) (n : Nat) (x : RiderSt) : (s.setRider n x).mem = s.mem := rfl
@[simp] theorem setRider_threads (s : State) (n : Nat) (x : RiderSt) : (s.setRider n x).threads = s.threads := rfl
@[simp] theorem setRider_cores (s : State) (n : Nat) (x : RiderSt) : (s.setRider n x).cores = s.cores := rfl
@[simp] theorem setRider_corePlaces (s : State) (n : Nat) (x : RiderSt) : (s.setRider n x).corePlaces = s.corePlaces := rfl
@[simp] theorem setRider_places (s : State) (n : Nat) (x : RiderSt) : (s.setRider n x).places = s.places := rfl
@[simp] theorem setRider_parts (s : State) (n : Nat) (x : RiderSt) : (s.setRider n x).parts = s.parts := rfl
@[simp] theorem setRider_slices (s : State) (n : Nat) (x : RiderSt) : (s.setRider n x).slices = s.slices := rfl
@[simp] theorem setRider_llTlb (s : State) (n : Nat) (x : RiderSt) : (s.setRider n x).llTlb = s.llTlb := rfl
@[simp] theorem setRider_windows (s : State) (n : Nat) (x : RiderSt) : (s.setRider n x).windows = s.windows := rfl
@[simp] theorem setRider_elems (s : State) (n : Nat) (x : RiderSt) : (s.setRider n x).elems = s.elems := rfl
@[simp] theorem setRider_savedElems (s : State) (n : Nat) (x : RiderSt) : (s.setRider n x).savedElems = s.savedElems := rfl
@[simp] theorem setRider_haltElems (s : State) (n : Nat) (x : RiderSt) : (s.setRider n x).haltElems = s.haltElems := rfl
@[simp] theorem setRider_fields (s : State) (n : Nat) (x : RiderSt) : (s.setRider n x).fields = s.fields := rfl
@[simp] theorem setRider_flights (s : State) (n : Nat) (x : RiderSt) : (s.setRider n x).flights = s.flights := rfl
@[simp] theorem setRider_flightNext (s : State) (n : Nat) (x : RiderSt) : (s.setRider n x).flightNext = s.flightNext := rfl
@[simp] theorem setRider_riderNext (s : State) (n : Nat) (x : RiderSt) : (s.setRider n x).riderNext = s.riderNext := rfl
@[simp] theorem setRider_retired (s : State) (n : Nat) (x : RiderSt) : (s.setRider n x).retired = s.retired := rfl
@[simp] theorem setRider_poisoned (s : State) (n : Nat) (x : RiderSt) : (s.setRider n x).poisoned = s.poisoned := rfl
@[simp] theorem setRider_badWords (s : State) (n : Nat) (x : RiderSt) : (s.setRider n x).badWords = s.badWords := rfl
@[simp] theorem setRider_shared (s : State) (n : Nat) (x : RiderSt) : (s.setRider n x).shared = s.shared := rfl
@[simp] theorem setRider_twins (s : State) (n : Nat) (x : RiderSt) : (s.setRider n x).twins = s.twins := rfl
@[simp] theorem setRider_rowErrors (s : State) (n : Nat) (x : RiderSt) : (s.setRider n x).rowErrors = s.rowErrors := rfl
@[simp] theorem setRider_rowPoison (s : State) (n : Nat) (x : RiderSt) : (s.setRider n x).rowPoison = s.rowPoison := rfl
@[simp] theorem setRider_rowBufs (s : State) (n : Nat) (x : RiderSt) : (s.setRider n x).rowBufs = s.rowBufs := rfl
@[simp] theorem setRider_parkedRows (s : State) (n : Nat) (x : RiderSt) : (s.setRider n x).parkedRows = s.parkedRows := rfl
@[simp] theorem setRider_plots (s : State) (n : Nat) (x : RiderSt) : (s.setRider n x).plots = s.plots := rfl
@[simp] theorem setRider_layers (s : State) (n : Nat) (x : RiderSt) : (s.setRider n x).layers = s.layers := rfl
@[simp] theorem setRider_gens (s : State) (n : Nat) (x : RiderSt) : (s.setRider n x).gens = s.gens := rfl
@[simp] theorem setRider_groups (s : State) (n : Nat) (x : RiderSt) : (s.setRider n x).groups = s.groups := rfl
@[simp] theorem setRider_colls (s : State) (n : Nat) (x : RiderSt) : (s.setRider n x).colls = s.colls := rfl
@[simp] theorem setRider_collNext (s : State) (n : Nat) (x : RiderSt) : (s.setRider n x).collNext = s.collNext := rfl
@[simp] theorem setRider_hub (s : State) (n : Nat) (x : RiderSt) : (s.setRider n x).hub = s.hub := rfl
@[simp] theorem setRider_powered (s : State) (n : Nat) (x : RiderSt) : (s.setRider n x).powered = s.powered := rfl
@[simp] theorem setRider_notices (s : State) (n : Nat) (x : RiderSt) : (s.setRider n x).notices = s.notices := rfl
@[simp] theorem setRider_focus (s : State) (n : Nat) (x : RiderSt) : (s.setRider n x).focus = s.focus := rfl
@[simp] theorem setRider_agenda (s : State) (n : Nat) (x : RiderSt) : (s.setRider n x).agenda = s.agenda := rfl
@[simp] theorem setRider_turn (s : State) (n : Nat) (x : RiderSt) : (s.setRider n x).turn = s.turn := rfl
@[simp] theorem setRider_freeCount (s : State) (n : Nat) (x : RiderSt) : (s.setRider n x).freeCount = s.freeCount := rfl

@[simp] theorem setTwin_cycle (s : State) (p q r : Nat) (x : TwinSt) : (s.setTwin p q r x).cycle = s.cycle := rfl
@[simp] theorem setTwin_cursor (s : State) (p q r : Nat) (x : TwinSt) : (s.setTwin p q r x).cursor = s.cursor := rfl
@[simp] theorem setTwin_stepCyc (s : State) (p q r : Nat) (x : TwinSt) : (s.setTwin p q r x).stepCyc = s.stepCyc := rfl
@[simp] theorem setTwin_passNo (s : State) (p q r : Nat) (x : TwinSt) : (s.setTwin p q r x).passNo = s.passNo := rfl
@[simp] theorem setTwin_sweep (s : State) (p q r : Nat) (x : TwinSt) : (s.setTwin p q r x).sweep = s.sweep := rfl
@[simp] theorem setTwin_sweepNext (s : State) (p q r : Nat) (x : TwinSt) : (s.setTwin p q r x).sweepNext = s.sweepNext := rfl
@[simp] theorem setTwin_sweepPass (s : State) (p q r : Nat) (x : TwinSt) : (s.setTwin p q r x).sweepPass = s.sweepPass := rfl
@[simp] theorem setTwin_mem (s : State) (p q r : Nat) (x : TwinSt) : (s.setTwin p q r x).mem = s.mem := rfl
@[simp] theorem setTwin_threads (s : State) (p q r : Nat) (x : TwinSt) : (s.setTwin p q r x).threads = s.threads := rfl
@[simp] theorem setTwin_cores (s : State) (p q r : Nat) (x : TwinSt) : (s.setTwin p q r x).cores = s.cores := rfl
@[simp] theorem setTwin_corePlaces (s : State) (p q r : Nat) (x : TwinSt) : (s.setTwin p q r x).corePlaces = s.corePlaces := rfl
@[simp] theorem setTwin_places (s : State) (p q r : Nat) (x : TwinSt) : (s.setTwin p q r x).places = s.places := rfl
@[simp] theorem setTwin_parts (s : State) (p q r : Nat) (x : TwinSt) : (s.setTwin p q r x).parts = s.parts := rfl
@[simp] theorem setTwin_slices (s : State) (p q r : Nat) (x : TwinSt) : (s.setTwin p q r x).slices = s.slices := rfl
@[simp] theorem setTwin_llTlb (s : State) (p q r : Nat) (x : TwinSt) : (s.setTwin p q r x).llTlb = s.llTlb := rfl
@[simp] theorem setTwin_windows (s : State) (p q r : Nat) (x : TwinSt) : (s.setTwin p q r x).windows = s.windows := rfl
@[simp] theorem setTwin_elems (s : State) (p q r : Nat) (x : TwinSt) : (s.setTwin p q r x).elems = s.elems := rfl
@[simp] theorem setTwin_savedElems (s : State) (p q r : Nat) (x : TwinSt) : (s.setTwin p q r x).savedElems = s.savedElems := rfl
@[simp] theorem setTwin_haltElems (s : State) (p q r : Nat) (x : TwinSt) : (s.setTwin p q r x).haltElems = s.haltElems := rfl
@[simp] theorem setTwin_fields (s : State) (p q r : Nat) (x : TwinSt) : (s.setTwin p q r x).fields = s.fields := rfl
@[simp] theorem setTwin_flights (s : State) (p q r : Nat) (x : TwinSt) : (s.setTwin p q r x).flights = s.flights := rfl
@[simp] theorem setTwin_flightNext (s : State) (p q r : Nat) (x : TwinSt) : (s.setTwin p q r x).flightNext = s.flightNext := rfl
@[simp] theorem setTwin_riders (s : State) (p q r : Nat) (x : TwinSt) : (s.setTwin p q r x).riders = s.riders := rfl
@[simp] theorem setTwin_riderNext (s : State) (p q r : Nat) (x : TwinSt) : (s.setTwin p q r x).riderNext = s.riderNext := rfl
@[simp] theorem setTwin_retired (s : State) (p q r : Nat) (x : TwinSt) : (s.setTwin p q r x).retired = s.retired := rfl
@[simp] theorem setTwin_poisoned (s : State) (p q r : Nat) (x : TwinSt) : (s.setTwin p q r x).poisoned = s.poisoned := rfl
@[simp] theorem setTwin_badWords (s : State) (p q r : Nat) (x : TwinSt) : (s.setTwin p q r x).badWords = s.badWords := rfl
@[simp] theorem setTwin_shared (s : State) (p q r : Nat) (x : TwinSt) : (s.setTwin p q r x).shared = s.shared := rfl
@[simp] theorem setTwin_rowErrors (s : State) (p q r : Nat) (x : TwinSt) : (s.setTwin p q r x).rowErrors = s.rowErrors := rfl
@[simp] theorem setTwin_rowPoison (s : State) (p q r : Nat) (x : TwinSt) : (s.setTwin p q r x).rowPoison = s.rowPoison := rfl
@[simp] theorem setTwin_rowBufs (s : State) (p q r : Nat) (x : TwinSt) : (s.setTwin p q r x).rowBufs = s.rowBufs := rfl
@[simp] theorem setTwin_parkedRows (s : State) (p q r : Nat) (x : TwinSt) : (s.setTwin p q r x).parkedRows = s.parkedRows := rfl
@[simp] theorem setTwin_plots (s : State) (p q r : Nat) (x : TwinSt) : (s.setTwin p q r x).plots = s.plots := rfl
@[simp] theorem setTwin_layers (s : State) (p q r : Nat) (x : TwinSt) : (s.setTwin p q r x).layers = s.layers := rfl
@[simp] theorem setTwin_gens (s : State) (p q r : Nat) (x : TwinSt) : (s.setTwin p q r x).gens = s.gens := rfl
@[simp] theorem setTwin_groups (s : State) (p q r : Nat) (x : TwinSt) : (s.setTwin p q r x).groups = s.groups := rfl
@[simp] theorem setTwin_colls (s : State) (p q r : Nat) (x : TwinSt) : (s.setTwin p q r x).colls = s.colls := rfl
@[simp] theorem setTwin_collNext (s : State) (p q r : Nat) (x : TwinSt) : (s.setTwin p q r x).collNext = s.collNext := rfl
@[simp] theorem setTwin_hub (s : State) (p q r : Nat) (x : TwinSt) : (s.setTwin p q r x).hub = s.hub := rfl
@[simp] theorem setTwin_powered (s : State) (p q r : Nat) (x : TwinSt) : (s.setTwin p q r x).powered = s.powered := rfl
@[simp] theorem setTwin_notices (s : State) (p q r : Nat) (x : TwinSt) : (s.setTwin p q r x).notices = s.notices := rfl
@[simp] theorem setTwin_focus (s : State) (p q r : Nat) (x : TwinSt) : (s.setTwin p q r x).focus = s.focus := rfl
@[simp] theorem setTwin_agenda (s : State) (p q r : Nat) (x : TwinSt) : (s.setTwin p q r x).agenda = s.agenda := rfl
@[simp] theorem setTwin_turn (s : State) (p q r : Nat) (x : TwinSt) : (s.setTwin p q r x).turn = s.turn := rfl
@[simp] theorem setTwin_freeCount (s : State) (p q r : Nat) (x : TwinSt) : (s.setTwin p q r x).freeCount = s.freeCount := rfl

@[simp] theorem modLayer_cycle (s : State) (d l : Nat) (f : LayerSt → LayerSt) : (s.modLayer d l f).cycle = s.cycle := rfl
@[simp] theorem modLayer_cursor (s : State) (d l : Nat) (f : LayerSt → LayerSt) : (s.modLayer d l f).cursor = s.cursor := rfl
@[simp] theorem modLayer_stepCyc (s : State) (d l : Nat) (f : LayerSt → LayerSt) : (s.modLayer d l f).stepCyc = s.stepCyc := rfl
@[simp] theorem modLayer_passNo (s : State) (d l : Nat) (f : LayerSt → LayerSt) : (s.modLayer d l f).passNo = s.passNo := rfl
@[simp] theorem modLayer_sweep (s : State) (d l : Nat) (f : LayerSt → LayerSt) : (s.modLayer d l f).sweep = s.sweep := rfl
@[simp] theorem modLayer_sweepNext (s : State) (d l : Nat) (f : LayerSt → LayerSt) : (s.modLayer d l f).sweepNext = s.sweepNext := rfl
@[simp] theorem modLayer_sweepPass (s : State) (d l : Nat) (f : LayerSt → LayerSt) : (s.modLayer d l f).sweepPass = s.sweepPass := rfl
@[simp] theorem modLayer_mem (s : State) (d l : Nat) (f : LayerSt → LayerSt) : (s.modLayer d l f).mem = s.mem := rfl
@[simp] theorem modLayer_threads (s : State) (d l : Nat) (f : LayerSt → LayerSt) : (s.modLayer d l f).threads = s.threads := rfl
@[simp] theorem modLayer_cores (s : State) (d l : Nat) (f : LayerSt → LayerSt) : (s.modLayer d l f).cores = s.cores := rfl
@[simp] theorem modLayer_corePlaces (s : State) (d l : Nat) (f : LayerSt → LayerSt) : (s.modLayer d l f).corePlaces = s.corePlaces := rfl
@[simp] theorem modLayer_places (s : State) (d l : Nat) (f : LayerSt → LayerSt) : (s.modLayer d l f).places = s.places := rfl
@[simp] theorem modLayer_parts (s : State) (d l : Nat) (f : LayerSt → LayerSt) : (s.modLayer d l f).parts = s.parts := rfl
@[simp] theorem modLayer_slices (s : State) (d l : Nat) (f : LayerSt → LayerSt) : (s.modLayer d l f).slices = s.slices := rfl
@[simp] theorem modLayer_llTlb (s : State) (d l : Nat) (f : LayerSt → LayerSt) : (s.modLayer d l f).llTlb = s.llTlb := rfl
@[simp] theorem modLayer_windows (s : State) (d l : Nat) (f : LayerSt → LayerSt) : (s.modLayer d l f).windows = s.windows := rfl
@[simp] theorem modLayer_elems (s : State) (d l : Nat) (f : LayerSt → LayerSt) : (s.modLayer d l f).elems = s.elems := rfl
@[simp] theorem modLayer_savedElems (s : State) (d l : Nat) (f : LayerSt → LayerSt) : (s.modLayer d l f).savedElems = s.savedElems := rfl
@[simp] theorem modLayer_haltElems (s : State) (d l : Nat) (f : LayerSt → LayerSt) : (s.modLayer d l f).haltElems = s.haltElems := rfl
@[simp] theorem modLayer_fields (s : State) (d l : Nat) (f : LayerSt → LayerSt) : (s.modLayer d l f).fields = s.fields := rfl
@[simp] theorem modLayer_flights (s : State) (d l : Nat) (f : LayerSt → LayerSt) : (s.modLayer d l f).flights = s.flights := rfl
@[simp] theorem modLayer_flightNext (s : State) (d l : Nat) (f : LayerSt → LayerSt) : (s.modLayer d l f).flightNext = s.flightNext := rfl
@[simp] theorem modLayer_riders (s : State) (d l : Nat) (f : LayerSt → LayerSt) : (s.modLayer d l f).riders = s.riders := rfl
@[simp] theorem modLayer_riderNext (s : State) (d l : Nat) (f : LayerSt → LayerSt) : (s.modLayer d l f).riderNext = s.riderNext := rfl
@[simp] theorem modLayer_retired (s : State) (d l : Nat) (f : LayerSt → LayerSt) : (s.modLayer d l f).retired = s.retired := rfl
@[simp] theorem modLayer_poisoned (s : State) (d l : Nat) (f : LayerSt → LayerSt) : (s.modLayer d l f).poisoned = s.poisoned := rfl
@[simp] theorem modLayer_badWords (s : State) (d l : Nat) (f : LayerSt → LayerSt) : (s.modLayer d l f).badWords = s.badWords := rfl
@[simp] theorem modLayer_shared (s : State) (d l : Nat) (f : LayerSt → LayerSt) : (s.modLayer d l f).shared = s.shared := rfl
@[simp] theorem modLayer_twins (s : State) (d l : Nat) (f : LayerSt → LayerSt) : (s.modLayer d l f).twins = s.twins := rfl
@[simp] theorem modLayer_rowErrors (s : State) (d l : Nat) (f : LayerSt → LayerSt) : (s.modLayer d l f).rowErrors = s.rowErrors := rfl
@[simp] theorem modLayer_rowPoison (s : State) (d l : Nat) (f : LayerSt → LayerSt) : (s.modLayer d l f).rowPoison = s.rowPoison := rfl
@[simp] theorem modLayer_rowBufs (s : State) (d l : Nat) (f : LayerSt → LayerSt) : (s.modLayer d l f).rowBufs = s.rowBufs := rfl
@[simp] theorem modLayer_parkedRows (s : State) (d l : Nat) (f : LayerSt → LayerSt) : (s.modLayer d l f).parkedRows = s.parkedRows := rfl
@[simp] theorem modLayer_plots (s : State) (d l : Nat) (f : LayerSt → LayerSt) : (s.modLayer d l f).plots = s.plots := rfl
@[simp] theorem modLayer_gens (s : State) (d l : Nat) (f : LayerSt → LayerSt) : (s.modLayer d l f).gens = s.gens := rfl
@[simp] theorem modLayer_groups (s : State) (d l : Nat) (f : LayerSt → LayerSt) : (s.modLayer d l f).groups = s.groups := rfl
@[simp] theorem modLayer_colls (s : State) (d l : Nat) (f : LayerSt → LayerSt) : (s.modLayer d l f).colls = s.colls := rfl
@[simp] theorem modLayer_collNext (s : State) (d l : Nat) (f : LayerSt → LayerSt) : (s.modLayer d l f).collNext = s.collNext := rfl
@[simp] theorem modLayer_hub (s : State) (d l : Nat) (f : LayerSt → LayerSt) : (s.modLayer d l f).hub = s.hub := rfl
@[simp] theorem modLayer_powered (s : State) (d l : Nat) (f : LayerSt → LayerSt) : (s.modLayer d l f).powered = s.powered := rfl
@[simp] theorem modLayer_notices (s : State) (d l : Nat) (f : LayerSt → LayerSt) : (s.modLayer d l f).notices = s.notices := rfl
@[simp] theorem modLayer_focus (s : State) (d l : Nat) (f : LayerSt → LayerSt) : (s.modLayer d l f).focus = s.focus := rfl
@[simp] theorem modLayer_agenda (s : State) (d l : Nat) (f : LayerSt → LayerSt) : (s.modLayer d l f).agenda = s.agenda := rfl
@[simp] theorem modLayer_turn (s : State) (d l : Nat) (f : LayerSt → LayerSt) : (s.modLayer d l f).turn = s.turn := rfl
@[simp] theorem modLayer_freeCount (s : State) (d l : Nat) (f : LayerSt → LayerSt) : (s.modLayer d l f).freeCount = s.freeCount := rfl

@[simp] theorem setSet_cycle (s : State) (c l : Nat) (x : List WaySt) : (s.setSet c l x).cycle = s.cycle := rfl
@[simp] theorem setSet_cursor (s : State) (c l : Nat) (x : List WaySt) : (s.setSet c l x).cursor = s.cursor := rfl
@[simp] theorem setSet_stepCyc (s : State) (c l : Nat) (x : List WaySt) : (s.setSet c l x).stepCyc = s.stepCyc := rfl
@[simp] theorem setSet_passNo (s : State) (c l : Nat) (x : List WaySt) : (s.setSet c l x).passNo = s.passNo := rfl
@[simp] theorem setSet_sweep (s : State) (c l : Nat) (x : List WaySt) : (s.setSet c l x).sweep = s.sweep := rfl
@[simp] theorem setSet_sweepNext (s : State) (c l : Nat) (x : List WaySt) : (s.setSet c l x).sweepNext = s.sweepNext := rfl
@[simp] theorem setSet_sweepPass (s : State) (c l : Nat) (x : List WaySt) : (s.setSet c l x).sweepPass = s.sweepPass := rfl
@[simp] theorem setSet_mem (s : State) (c l : Nat) (x : List WaySt) : (s.setSet c l x).mem = s.mem := rfl
@[simp] theorem setSet_threads (s : State) (c l : Nat) (x : List WaySt) : (s.setSet c l x).threads = s.threads := rfl
@[simp] theorem setSet_cores (s : State) (c l : Nat) (x : List WaySt) : (s.setSet c l x).cores = s.cores := rfl
@[simp] theorem setSet_corePlaces (s : State) (c l : Nat) (x : List WaySt) : (s.setSet c l x).corePlaces = s.corePlaces := rfl
@[simp] theorem setSet_places (s : State) (c l : Nat) (x : List WaySt) : (s.setSet c l x).places = s.places := rfl
@[simp] theorem setSet_parts (s : State) (c l : Nat) (x : List WaySt) : (s.setSet c l x).parts = s.parts := rfl
@[simp] theorem setSet_llTlb (s : State) (c l : Nat) (x : List WaySt) : (s.setSet c l x).llTlb = s.llTlb := rfl
@[simp] theorem setSet_windows (s : State) (c l : Nat) (x : List WaySt) : (s.setSet c l x).windows = s.windows := rfl
@[simp] theorem setSet_elems (s : State) (c l : Nat) (x : List WaySt) : (s.setSet c l x).elems = s.elems := rfl
@[simp] theorem setSet_savedElems (s : State) (c l : Nat) (x : List WaySt) : (s.setSet c l x).savedElems = s.savedElems := rfl
@[simp] theorem setSet_haltElems (s : State) (c l : Nat) (x : List WaySt) : (s.setSet c l x).haltElems = s.haltElems := rfl
@[simp] theorem setSet_fields (s : State) (c l : Nat) (x : List WaySt) : (s.setSet c l x).fields = s.fields := rfl
@[simp] theorem setSet_flights (s : State) (c l : Nat) (x : List WaySt) : (s.setSet c l x).flights = s.flights := rfl
@[simp] theorem setSet_flightNext (s : State) (c l : Nat) (x : List WaySt) : (s.setSet c l x).flightNext = s.flightNext := rfl
@[simp] theorem setSet_riders (s : State) (c l : Nat) (x : List WaySt) : (s.setSet c l x).riders = s.riders := rfl
@[simp] theorem setSet_riderNext (s : State) (c l : Nat) (x : List WaySt) : (s.setSet c l x).riderNext = s.riderNext := rfl
@[simp] theorem setSet_retired (s : State) (c l : Nat) (x : List WaySt) : (s.setSet c l x).retired = s.retired := rfl
@[simp] theorem setSet_poisoned (s : State) (c l : Nat) (x : List WaySt) : (s.setSet c l x).poisoned = s.poisoned := rfl
@[simp] theorem setSet_badWords (s : State) (c l : Nat) (x : List WaySt) : (s.setSet c l x).badWords = s.badWords := rfl
@[simp] theorem setSet_shared (s : State) (c l : Nat) (x : List WaySt) : (s.setSet c l x).shared = s.shared := rfl
@[simp] theorem setSet_twins (s : State) (c l : Nat) (x : List WaySt) : (s.setSet c l x).twins = s.twins := rfl
@[simp] theorem setSet_rowErrors (s : State) (c l : Nat) (x : List WaySt) : (s.setSet c l x).rowErrors = s.rowErrors := rfl
@[simp] theorem setSet_rowPoison (s : State) (c l : Nat) (x : List WaySt) : (s.setSet c l x).rowPoison = s.rowPoison := rfl
@[simp] theorem setSet_rowBufs (s : State) (c l : Nat) (x : List WaySt) : (s.setSet c l x).rowBufs = s.rowBufs := rfl
@[simp] theorem setSet_parkedRows (s : State) (c l : Nat) (x : List WaySt) : (s.setSet c l x).parkedRows = s.parkedRows := rfl
@[simp] theorem setSet_plots (s : State) (c l : Nat) (x : List WaySt) : (s.setSet c l x).plots = s.plots := rfl
@[simp] theorem setSet_layers (s : State) (c l : Nat) (x : List WaySt) : (s.setSet c l x).layers = s.layers := rfl
@[simp] theorem setSet_gens (s : State) (c l : Nat) (x : List WaySt) : (s.setSet c l x).gens = s.gens := rfl
@[simp] theorem setSet_groups (s : State) (c l : Nat) (x : List WaySt) : (s.setSet c l x).groups = s.groups := rfl
@[simp] theorem setSet_colls (s : State) (c l : Nat) (x : List WaySt) : (s.setSet c l x).colls = s.colls := rfl
@[simp] theorem setSet_collNext (s : State) (c l : Nat) (x : List WaySt) : (s.setSet c l x).collNext = s.collNext := rfl
@[simp] theorem setSet_hub (s : State) (c l : Nat) (x : List WaySt) : (s.setSet c l x).hub = s.hub := rfl
@[simp] theorem setSet_powered (s : State) (c l : Nat) (x : List WaySt) : (s.setSet c l x).powered = s.powered := rfl
@[simp] theorem setSet_notices (s : State) (c l : Nat) (x : List WaySt) : (s.setSet c l x).notices = s.notices := rfl
@[simp] theorem setSet_focus (s : State) (c l : Nat) (x : List WaySt) : (s.setSet c l x).focus = s.focus := rfl
@[simp] theorem setSet_agenda (s : State) (c l : Nat) (x : List WaySt) : (s.setSet c l x).agenda = s.agenda := rfl
@[simp] theorem setSet_turn (s : State) (c l : Nat) (x : List WaySt) : (s.setSet c l x).turn = s.turn := rfl
@[simp] theorem setSet_freeCount (s : State) (c l : Nat) (x : List WaySt) : (s.setSet c l x).freeCount = s.freeCount := rfl

@[simp] theorem modHub_cycle (s : State) (f : HubSt → HubSt) : (s.modHub f).cycle = s.cycle := rfl
@[simp] theorem modHub_cursor (s : State) (f : HubSt → HubSt) : (s.modHub f).cursor = s.cursor := rfl
@[simp] theorem modHub_stepCyc (s : State) (f : HubSt → HubSt) : (s.modHub f).stepCyc = s.stepCyc := rfl
@[simp] theorem modHub_passNo (s : State) (f : HubSt → HubSt) : (s.modHub f).passNo = s.passNo := rfl
@[simp] theorem modHub_sweep (s : State) (f : HubSt → HubSt) : (s.modHub f).sweep = s.sweep := rfl
@[simp] theorem modHub_sweepNext (s : State) (f : HubSt → HubSt) : (s.modHub f).sweepNext = s.sweepNext := rfl
@[simp] theorem modHub_sweepPass (s : State) (f : HubSt → HubSt) : (s.modHub f).sweepPass = s.sweepPass := rfl
@[simp] theorem modHub_mem (s : State) (f : HubSt → HubSt) : (s.modHub f).mem = s.mem := rfl
@[simp] theorem modHub_threads (s : State) (f : HubSt → HubSt) : (s.modHub f).threads = s.threads := rfl
@[simp] theorem modHub_cores (s : State) (f : HubSt → HubSt) : (s.modHub f).cores = s.cores := rfl
@[simp] theorem modHub_corePlaces (s : State) (f : HubSt → HubSt) : (s.modHub f).corePlaces = s.corePlaces := rfl
@[simp] theorem modHub_places (s : State) (f : HubSt → HubSt) : (s.modHub f).places = s.places := rfl
@[simp] theorem modHub_parts (s : State) (f : HubSt → HubSt) : (s.modHub f).parts = s.parts := rfl
@[simp] theorem modHub_slices (s : State) (f : HubSt → HubSt) : (s.modHub f).slices = s.slices := rfl
@[simp] theorem modHub_llTlb (s : State) (f : HubSt → HubSt) : (s.modHub f).llTlb = s.llTlb := rfl
@[simp] theorem modHub_windows (s : State) (f : HubSt → HubSt) : (s.modHub f).windows = s.windows := rfl
@[simp] theorem modHub_elems (s : State) (f : HubSt → HubSt) : (s.modHub f).elems = s.elems := rfl
@[simp] theorem modHub_savedElems (s : State) (f : HubSt → HubSt) : (s.modHub f).savedElems = s.savedElems := rfl
@[simp] theorem modHub_haltElems (s : State) (f : HubSt → HubSt) : (s.modHub f).haltElems = s.haltElems := rfl
@[simp] theorem modHub_fields (s : State) (f : HubSt → HubSt) : (s.modHub f).fields = s.fields := rfl
@[simp] theorem modHub_flights (s : State) (f : HubSt → HubSt) : (s.modHub f).flights = s.flights := rfl
@[simp] theorem modHub_flightNext (s : State) (f : HubSt → HubSt) : (s.modHub f).flightNext = s.flightNext := rfl
@[simp] theorem modHub_riders (s : State) (f : HubSt → HubSt) : (s.modHub f).riders = s.riders := rfl
@[simp] theorem modHub_riderNext (s : State) (f : HubSt → HubSt) : (s.modHub f).riderNext = s.riderNext := rfl
@[simp] theorem modHub_retired (s : State) (f : HubSt → HubSt) : (s.modHub f).retired = s.retired := rfl
@[simp] theorem modHub_poisoned (s : State) (f : HubSt → HubSt) : (s.modHub f).poisoned = s.poisoned := rfl
@[simp] theorem modHub_badWords (s : State) (f : HubSt → HubSt) : (s.modHub f).badWords = s.badWords := rfl
@[simp] theorem modHub_shared (s : State) (f : HubSt → HubSt) : (s.modHub f).shared = s.shared := rfl
@[simp] theorem modHub_twins (s : State) (f : HubSt → HubSt) : (s.modHub f).twins = s.twins := rfl
@[simp] theorem modHub_rowErrors (s : State) (f : HubSt → HubSt) : (s.modHub f).rowErrors = s.rowErrors := rfl
@[simp] theorem modHub_rowPoison (s : State) (f : HubSt → HubSt) : (s.modHub f).rowPoison = s.rowPoison := rfl
@[simp] theorem modHub_rowBufs (s : State) (f : HubSt → HubSt) : (s.modHub f).rowBufs = s.rowBufs := rfl
@[simp] theorem modHub_parkedRows (s : State) (f : HubSt → HubSt) : (s.modHub f).parkedRows = s.parkedRows := rfl
@[simp] theorem modHub_plots (s : State) (f : HubSt → HubSt) : (s.modHub f).plots = s.plots := rfl
@[simp] theorem modHub_layers (s : State) (f : HubSt → HubSt) : (s.modHub f).layers = s.layers := rfl
@[simp] theorem modHub_gens (s : State) (f : HubSt → HubSt) : (s.modHub f).gens = s.gens := rfl
@[simp] theorem modHub_groups (s : State) (f : HubSt → HubSt) : (s.modHub f).groups = s.groups := rfl
@[simp] theorem modHub_colls (s : State) (f : HubSt → HubSt) : (s.modHub f).colls = s.colls := rfl
@[simp] theorem modHub_collNext (s : State) (f : HubSt → HubSt) : (s.modHub f).collNext = s.collNext := rfl
@[simp] theorem modHub_powered (s : State) (f : HubSt → HubSt) : (s.modHub f).powered = s.powered := rfl
@[simp] theorem modHub_notices (s : State) (f : HubSt → HubSt) : (s.modHub f).notices = s.notices := rfl
@[simp] theorem modHub_focus (s : State) (f : HubSt → HubSt) : (s.modHub f).focus = s.focus := rfl
@[simp] theorem modHub_agenda (s : State) (f : HubSt → HubSt) : (s.modHub f).agenda = s.agenda := rfl
@[simp] theorem modHub_turn (s : State) (f : HubSt → HubSt) : (s.modHub f).turn = s.turn := rfl
@[simp] theorem modHub_freeCount (s : State) (f : HubSt → HubSt) : (s.modHub f).freeCount = s.freeCount := rfl

/-! ### Lookups -/

@[simp] theorem thread_setThread (s : State) (k j : Nat) (t : ThreadSt) : (s.setThread k t).thread j = if k = j then t else s.thread j := Table.getD_put _ _ _ _ _
@[simp] theorem core_setCore (s : State) (k j : Nat) (t : CoreSt) : (s.setCore k t).core j = if k = j then t else s.core j := Table.getD_put _ _ _ _ _
@[simp] theorem part_setPart (s : State) (k j : Nat) (t : PartSt) : (s.setPart k t).part j = if k = j then t else s.part j := Table.getD_put _ _ _ _ _
@[simp] theorem elem_setElem (s : State) (k j : Nat) (t : ElemSt) : (s.setElem k t).elem j = if k = j then t else s.elem j := Table.getD_put _ _ _ _ _
@[simp] theorem field_setField (s : State) (k j : Nat) (t : FieldSt) : (s.setField k t).field j = if k = j then t else s.field j := Table.getD_put _ _ _ _ _
@[simp] theorem gen_setGen (s : State) (k j : Nat) (t : GenSt) : (s.setGen k t).gen j = if k = j then t else s.gen j := Table.getD_put _ _ _ _ _

@[simp] theorem thread_setCore (s : State) (c : Nat) (x : CoreSt) (j : Nat) : (s.setCore c x).thread j = s.thread j := rfl
@[simp] theorem thread_setPart (s : State) (p : Nat) (x : PartSt) (j : Nat) : (s.setPart p x).thread j = s.thread j := rfl
@[simp] theorem thread_setElem (s : State) (e : Nat) (x : ElemSt) (j : Nat) : (s.setElem e x).thread j = s.thread j := rfl
@[simp] theorem thread_setField (s : State) (k : Nat) (x : FieldSt) (j : Nat) : (s.setField k x).thread j = s.thread j := rfl
@[simp] theorem thread_setGen (s : State) (k : Nat) (x : GenSt) (j : Nat) : (s.setGen k x).thread j = s.thread j := rfl
@[simp] theorem thread_setPlace (s : State) (p n : Nat) (x : PlaceSt) (j : Nat) : (s.setPlace p n x).thread j = s.thread j := rfl
@[simp] theorem thread_setCorePlace (s : State) (c n : Nat) (x : CorePlaceSt) (j : Nat) : (s.setCorePlace c n x).thread j = s.thread j := rfl
@[simp] theorem core_setThread (s : State) (k : Nat) (t : ThreadSt) (j : Nat) : (s.setThread k t).core j = s.core j := rfl
@[simp] theorem core_setPart (s : State) (p : Nat) (x : PartSt) (j : Nat) : (s.setPart p x).core j = s.core j := rfl
@[simp] theorem core_setElem (s : State) (e : Nat) (x : ElemSt) (j : Nat) : (s.setElem e x).core j = s.core j := rfl
@[simp] theorem core_setField (s : State) (k : Nat) (x : FieldSt) (j : Nat) : (s.setField k x).core j = s.core j := rfl
@[simp] theorem core_setGen (s : State) (k : Nat) (x : GenSt) (j : Nat) : (s.setGen k x).core j = s.core j := rfl
@[simp] theorem core_setPlace (s : State) (p n : Nat) (x : PlaceSt) (j : Nat) : (s.setPlace p n x).core j = s.core j := rfl
@[simp] theorem core_setCorePlace (s : State) (c n : Nat) (x : CorePlaceSt) (j : Nat) : (s.setCorePlace c n x).core j = s.core j := rfl
@[simp] theorem part_setThread (s : State) (k : Nat) (t : ThreadSt) (j : Nat) : (s.setThread k t).part j = s.part j := rfl
@[simp] theorem part_setCore (s : State) (c : Nat) (x : CoreSt) (j : Nat) : (s.setCore c x).part j = s.part j := rfl
@[simp] theorem part_setElem (s : State) (e : Nat) (x : ElemSt) (j : Nat) : (s.setElem e x).part j = s.part j := rfl
@[simp] theorem part_setField (s : State) (k : Nat) (x : FieldSt) (j : Nat) : (s.setField k x).part j = s.part j := rfl
@[simp] theorem part_setGen (s : State) (k : Nat) (x : GenSt) (j : Nat) : (s.setGen k x).part j = s.part j := rfl
@[simp] theorem part_setPlace (s : State) (p n : Nat) (x : PlaceSt) (j : Nat) : (s.setPlace p n x).part j = s.part j := rfl
@[simp] theorem part_setCorePlace (s : State) (c n : Nat) (x : CorePlaceSt) (j : Nat) : (s.setCorePlace c n x).part j = s.part j := rfl
@[simp] theorem elem_setThread (s : State) (k : Nat) (t : ThreadSt) (j : Nat) : (s.setThread k t).elem j = s.elem j := rfl
@[simp] theorem elem_setCore (s : State) (c : Nat) (x : CoreSt) (j : Nat) : (s.setCore c x).elem j = s.elem j := rfl
@[simp] theorem elem_setPart (s : State) (p : Nat) (x : PartSt) (j : Nat) : (s.setPart p x).elem j = s.elem j := rfl
@[simp] theorem elem_setField (s : State) (k : Nat) (x : FieldSt) (j : Nat) : (s.setField k x).elem j = s.elem j := rfl
@[simp] theorem elem_setGen (s : State) (k : Nat) (x : GenSt) (j : Nat) : (s.setGen k x).elem j = s.elem j := rfl
@[simp] theorem elem_setPlace (s : State) (p n : Nat) (x : PlaceSt) (j : Nat) : (s.setPlace p n x).elem j = s.elem j := rfl
@[simp] theorem elem_setCorePlace (s : State) (c n : Nat) (x : CorePlaceSt) (j : Nat) : (s.setCorePlace c n x).elem j = s.elem j := rfl
@[simp] theorem field_setThread (s : State) (k : Nat) (t : ThreadSt) (j : Nat) : (s.setThread k t).field j = s.field j := rfl
@[simp] theorem field_setCore (s : State) (c : Nat) (x : CoreSt) (j : Nat) : (s.setCore c x).field j = s.field j := rfl
@[simp] theorem field_setPart (s : State) (p : Nat) (x : PartSt) (j : Nat) : (s.setPart p x).field j = s.field j := rfl
@[simp] theorem field_setElem (s : State) (e : Nat) (x : ElemSt) (j : Nat) : (s.setElem e x).field j = s.field j := rfl
@[simp] theorem field_setGen (s : State) (k : Nat) (x : GenSt) (j : Nat) : (s.setGen k x).field j = s.field j := rfl
@[simp] theorem field_setPlace (s : State) (p n : Nat) (x : PlaceSt) (j : Nat) : (s.setPlace p n x).field j = s.field j := rfl
@[simp] theorem field_setCorePlace (s : State) (c n : Nat) (x : CorePlaceSt) (j : Nat) : (s.setCorePlace c n x).field j = s.field j := rfl
@[simp] theorem gen_setThread (s : State) (k : Nat) (t : ThreadSt) (j : Nat) : (s.setThread k t).gen j = s.gen j := rfl
@[simp] theorem gen_setCore (s : State) (c : Nat) (x : CoreSt) (j : Nat) : (s.setCore c x).gen j = s.gen j := rfl
@[simp] theorem gen_setPart (s : State) (p : Nat) (x : PartSt) (j : Nat) : (s.setPart p x).gen j = s.gen j := rfl
@[simp] theorem gen_setElem (s : State) (e : Nat) (x : ElemSt) (j : Nat) : (s.setElem e x).gen j = s.gen j := rfl
@[simp] theorem gen_setField (s : State) (k : Nat) (x : FieldSt) (j : Nat) : (s.setField k x).gen j = s.gen j := rfl
@[simp] theorem gen_setPlace (s : State) (p n : Nat) (x : PlaceSt) (j : Nat) : (s.setPlace p n x).gen j = s.gen j := rfl
@[simp] theorem gen_setCorePlace (s : State) (c n : Nat) (x : CorePlaceSt) (j : Nat) : (s.setCorePlace c n x).gen j = s.gen j := rfl

@[simp] theorem me_setThread (s : State) (k : Nat) (t : ThreadSt) : (s.setThread k t).me = s.me := rfl

/-! ### Updates by a function are updates -/

@[simp] theorem modThread_eq (s : State) (k : Nat) (f : ThreadSt → ThreadSt) : s.modThread k f = s.setThread k (f (s.thread k)) := rfl
@[simp] theorem modMe_eq (s : State) (f : ThreadSt → ThreadSt) : s.modMe f = s.setThread s.me (f (s.thread s.me)) := rfl
@[simp] theorem modCore_eq (s : State) (c : Nat) (f : CoreSt → CoreSt) : s.modCore c f = s.setCore c (f (s.core c)) := rfl
@[simp] theorem modPart_eq (s : State) (p : Nat) (f : PartSt → PartSt) : s.modPart p f = s.setPart p (f (s.part p)) := rfl
@[simp] theorem modPlace_eq (s : State) (p n : Nat) (f : PlaceSt → PlaceSt) : s.modPlace p n f = s.setPlace p n (f (s.place p n)) := rfl
@[simp] theorem modCorePlace_eq (s : State) (c n : Nat) (f : CorePlaceSt → CorePlaceSt) :
    s.modCorePlace c n f = s.setCorePlace c n (f (s.corePlace c n)) := rfl
@[simp] theorem modElem_eq (s : State) (e : Nat) (f : ElemSt → ElemSt) : s.modElem e f = s.setElem e (f (s.elem e)) := rfl
@[simp] theorem modField_eq (s : State) (k : Nat) (f : FieldSt → FieldSt) : s.modField k f = s.setField k (f (s.field k)) := rfl

end State

end Sys2Proof.Machine
end

