-- ==== Sys2Proof/Laws/Outcome.lean ====
section
/-! SUPPORT. What holds of the next state of an outcome, and memory through folds and through the writers of memory. -/

namespace Sys2Proof.Machine


/-- What holds of the next state of an outcome, if there is one. -/
def Out.All (P : State → Prop) : Out → Prop
  | .next t => P t
  | .fault _ => True
  | .refused _ => True

@[simp] theorem Out.all_next (P : State → Prop) (t : State) : Out.All P (.next t) = P t := rfl
@[simp] theorem Out.all_fault (P : State → Prop) (r : Fault) : Out.All P (.fault r) = True := rfl
@[simp] theorem Out.all_refused (P : State → Prop) (r : Refusal) : Out.All P (.refused r) = True := rfl
theorem Out.All.mem_trans {s s' : State} {o : Out} (h : Out.All (fun t => t.mem = s'.mem) o) (hs : s'.mem = s.mem) :
    Out.All (fun t => t.mem = s.mem) o := hs ▸ h
theorem Out.All.mem_wf {s' : State} {o : Out} (h : Out.All (fun t => t.mem = s'.mem) o) (hs : Memory.wf s'.mem = true) :
    Out.All (fun t => Memory.wf t.mem = true) o := by
  cases o with
  | next t => rw [Out.all_next] at h ⊢; rw [h]; exact hs
  | fault r => trivial
  | refused r => trivial
theorem foldl_mem {α : Type} (f : State → α → State) (l : List α) (s : State) (hf : ∀ st x, (f st x).mem = st.mem) :
    (l.foldl f s).mem = s.mem := by
  induction l generalizing s with
  | nil => rfl
  | cons a l ih => exact (ih _).trans (hf _ _)
theorem foldl_wf {α : Type} (f : State → α → State) (l : List α) (s : State)
    (hf : ∀ st x, Memory.wf st.mem = true → Memory.wf (f st x).mem = true) (h : Memory.wf s.mem = true) :
    Memory.wf (l.foldl f s).mem = true := by
  induction l generalizing s with
  | nil => exact h
  | cons a l ih => exact ih _ (hf _ _ h)

theorem wf_of_eq {s t : State} (h : t.mem = s.mem) (hs : Memory.wf s.mem = true) : Memory.wf t.mem = true := h ▸ hs

theorem foldl_pair_mem {α β : Type} (f : State × β → α → State × β) (l : List α) (a : State × β)
    (hf : ∀ acc x, (f acc x).1.mem = acc.1.mem) : (l.foldl f a).1.mem = a.1.mem := by
  induction l generalizing a with
  | nil => rfl
  | cons b l ih => exact (ih _).trans (hf _ _)

theorem foldl_pair_wf {α β : Type} (f : State × β → α → State × β) (l : List α) (a : State × β)
    (hf : ∀ acc x, Memory.wf acc.1.mem = true → Memory.wf (f acc x).1.mem = true) (h : Memory.wf a.1.mem = true) :
    Memory.wf (l.foldl f a).1.mem = true := by
  induction l generalizing a with
  | nil => exact h
  | cons b l ih => exact ih _ (hf _ _ h)

theorem ite_wf {c : Prop} [Decidable c] {a b : State} (ha : Memory.wf a.mem = true) (hb : Memory.wf b.mem = true) :
    Memory.wf (if c then a else b).mem = true := by split <;> assumption

theorem foldl_cells_wf {α : Type} (f : List Host.Cell → α → List Host.Cell) (l : List α) {m : List Host.Cell}
    (hf : ∀ m x, Memory.wf m = true → Memory.wf (f m x) = true) (h : Memory.wf m = true) : Memory.wf (l.foldl f m) = true := by
  induction l generalizing m with
  | nil => exact h
  | cons a l ih => exact ih (hf _ _ h)

theorem State.writeWords_wf {m : List Host.Cell} (h : Memory.wf m = true) (l : List Word) (a : Nat) : Memory.wf (State.writeWords m a l) = true := by
  induction l generalizing m a with
  | nil => exact h
  | cons w l ih => exact ih (Memory.wf_write h _ _ _) _

theorem hubWrite_wf {m : List Host.Cell} (h : Memory.wf m = true) (pins : List PinSt) (fuel va n v : Nat) :
    Memory.wf (hubWrite m pins fuel va n v) = true := by
  induction fuel generalizing m va n v with
  | zero => exact h
  | succ k ih =>
    unfold hubWrite
    split
    · exact h
    · dsimp only
      split
      · exact ih (Memory.wf_write h _ _ _) _ _ _
      · exact Memory.wf_write h _ _ _

theorem writeDirty_wf {m : List Host.Cell} (h : Memory.wf m = true) (a data mask n : Nat) : Memory.wf (writeDirty m a data mask n) = true := by
  induction n generalizing m a data mask with
  | zero => exact h
  | succ k ih => unfold writeDirty; dsimp only; apply ih; split; exacts [Memory.wf_set h, h]

end Sys2Proof.Machine
end

