-- ==== Sys2Proof/Laws/MemHeadland.lean ====
section
/-! SUPPORT. Memory under the operations and meanings of the headland: each leaves memory as it is, or keeps its canonical form. -/

namespace Sys2Proof.Machine

@[simp] theorem State.modThread_mem (s : State) (k : Nat) (f : ThreadSt → ThreadSt) : (s.modThread k f).mem = s.mem := rfl
@[simp] theorem State.modMe_mem (s : State) (f : ThreadSt → ThreadSt) : (s.modMe f).mem = s.mem := rfl
@[simp] theorem State.setPc_mem (s : State) (v : Word) :
    (State.setPc s v).mem = s.mem :=
  rfl

@[simp] theorem State.advance_mem (s : State) :
    (State.advance s).mem = s.mem :=
  rfl

@[simp] theorem State.setGprOf_mem (s : State) (k : Nat) (r : Reg) (v : Word) :
    (State.setGprOf s k r v).mem = s.mem := by
  unfold State.setGprOf; (repeat' split) <;> simp

@[simp] theorem State.setGpr_mem (s : State) (r : Reg) (v : Word) :
    (State.setGpr s r v).mem = s.mem := by
  simp [State.setGpr]

theorem State.finish_mem (s : State) (d : Reg) (v : Word) :
    Out.All (fun t => t.mem = s.mem) (State.finish s d v) := by
  simp [State.finish]

theorem execAdd_mem (d : Reg) (a : Reg) (b : Reg) (s : State) :
    Out.All (fun t => t.mem = s.mem) (execAdd d a b s) := by
  exact State.finish_mem ..

theorem execSub_mem (d : Reg) (a : Reg) (b : Reg) (s : State) :
    Out.All (fun t => t.mem = s.mem) (execSub d a b s) := by
  exact State.finish_mem ..

theorem execAnd_mem (d : Reg) (a : Reg) (b : Reg) (s : State) :
    Out.All (fun t => t.mem = s.mem) (execAnd d a b s) := by
  exact State.finish_mem ..

theorem execOr_mem (d : Reg) (a : Reg) (b : Reg) (s : State) :
    Out.All (fun t => t.mem = s.mem) (execOr d a b s) := by
  exact State.finish_mem ..

theorem execXor_mem (d : Reg) (a : Reg) (b : Reg) (s : State) :
    Out.All (fun t => t.mem = s.mem) (execXor d a b s) := by
  exact State.finish_mem ..

theorem execAndn_mem (d : Reg) (a : Reg) (b : Reg) (s : State) :
    Out.All (fun t => t.mem = s.mem) (execAndn d a b s) := by
  exact State.finish_mem ..

theorem execShl_mem (d : Reg) (a : Reg) (b : Reg) (s : State) :
    Out.All (fun t => t.mem = s.mem) (execShl d a b s) := by
  exact State.finish_mem ..

theorem execShr_mem (d : Reg) (a : Reg) (b : Reg) (s : State) :
    Out.All (fun t => t.mem = s.mem) (execShr d a b s) := by
  exact State.finish_mem ..

theorem execSar_mem (d : Reg) (a : Reg) (b : Reg) (s : State) :
    Out.All (fun t => t.mem = s.mem) (execSar d a b s) := by
  exact State.finish_mem ..

theorem execSlt_mem (d : Reg) (a : Reg) (b : Reg) (s : State) :
    Out.All (fun t => t.mem = s.mem) (execSlt d a b s) := by
  exact State.finish_mem ..

theorem execSltu_mem (d : Reg) (a : Reg) (b : Reg) (s : State) :
    Out.All (fun t => t.mem = s.mem) (execSltu d a b s) := by
  exact State.finish_mem ..

theorem execMin_mem (d : Reg) (a : Reg) (b : Reg) (s : State) :
    Out.All (fun t => t.mem = s.mem) (execMin d a b s) := by
  exact State.finish_mem ..

theorem execMax_mem (d : Reg) (a : Reg) (b : Reg) (s : State) :
    Out.All (fun t => t.mem = s.mem) (execMax d a b s) := by
  exact State.finish_mem ..

theorem execMinu_mem (d : Reg) (a : Reg) (b : Reg) (s : State) :
    Out.All (fun t => t.mem = s.mem) (execMinu d a b s) := by
  exact State.finish_mem ..

theorem execMaxu_mem (d : Reg) (a : Reg) (b : Reg) (s : State) :
    Out.All (fun t => t.mem = s.mem) (execMaxu d a b s) := by
  exact State.finish_mem ..

theorem execMul_mem (d : Reg) (a : Reg) (b : Reg) (s : State) :
    Out.All (fun t => t.mem = s.mem) (execMul d a b s) := by
  exact State.finish_mem ..

theorem execMulh_mem (d : Reg) (a : Reg) (b : Reg) (s : State) :
    Out.All (fun t => t.mem = s.mem) (execMulh d a b s) := by
  exact State.finish_mem ..

theorem execMulhu_mem (d : Reg) (a : Reg) (b : Reg) (s : State) :
    Out.All (fun t => t.mem = s.mem) (execMulhu d a b s) := by
  exact State.finish_mem ..

theorem execMulhsu_mem (d : Reg) (a : Reg) (b : Reg) (s : State) :
    Out.All (fun t => t.mem = s.mem) (execMulhsu d a b s) := by
  exact State.finish_mem ..

@[simp] theorem State.modCore_mem (s : State) (k : Nat) (f : CoreSt → CoreSt) : (s.modCore k f).mem = s.mem := rfl
theorem startDivider_mem (s : State) (d : Reg) (v : Word) (lat : Nat) :
    Out.All (fun t => t.mem = s.mem) (startDivider s d v lat) := by
  unfold startDivider; (repeat' split) <;> simp

theorem execDiv_mem (d : Reg) (a : Reg) (b : Reg) (s : State) :
    Out.All (fun t => t.mem = s.mem) (execDiv d a b s) := by
  exact startDivider_mem ..

theorem execDivu_mem (d : Reg) (a : Reg) (b : Reg) (s : State) :
    Out.All (fun t => t.mem = s.mem) (execDivu d a b s) := by
  exact startDivider_mem ..

theorem execRem_mem (d : Reg) (a : Reg) (b : Reg) (s : State) :
    Out.All (fun t => t.mem = s.mem) (execRem d a b s) := by
  exact startDivider_mem ..

theorem execRemu_mem (d : Reg) (a : Reg) (b : Reg) (s : State) :
    Out.All (fun t => t.mem = s.mem) (execRemu d a b s) := by
  exact startDivider_mem ..

theorem execClz_mem (d : Reg) (a : Reg) (s : State) :
    Out.All (fun t => t.mem = s.mem) (execClz d a s) := by
  exact State.finish_mem ..

theorem execCtz_mem (d : Reg) (a : Reg) (s : State) :
    Out.All (fun t => t.mem = s.mem) (execCtz d a s) := by
  exact State.finish_mem ..

theorem execPopc_mem (d : Reg) (a : Reg) (s : State) :
    Out.All (fun t => t.mem = s.mem) (execPopc d a s) := by
  exact State.finish_mem ..

theorem execBswap_mem (d : Reg) (a : Reg) (s : State) :
    Out.All (fun t => t.mem = s.mem) (execBswap d a s) := by
  exact State.finish_mem ..

theorem execSextb_mem (d : Reg) (a : Reg) (s : State) :
    Out.All (fun t => t.mem = s.mem) (execSextb d a s) := by
  exact State.finish_mem ..

theorem execSexth_mem (d : Reg) (a : Reg) (s : State) :
    Out.All (fun t => t.mem = s.mem) (execSexth d a s) := by
  exact State.finish_mem ..

theorem execSextw_mem (d : Reg) (a : Reg) (s : State) :
    Out.All (fun t => t.mem = s.mem) (execSextw d a s) := by
  exact State.finish_mem ..

theorem execZextb_mem (d : Reg) (a : Reg) (s : State) :
    Out.All (fun t => t.mem = s.mem) (execZextb d a s) := by
  exact State.finish_mem ..

theorem execZexth_mem (d : Reg) (a : Reg) (s : State) :
    Out.All (fun t => t.mem = s.mem) (execZexth d a s) := by
  exact State.finish_mem ..

theorem execZextw_mem (d : Reg) (a : Reg) (s : State) :
    Out.All (fun t => t.mem = s.mem) (execZextw d a s) := by
  exact State.finish_mem ..

theorem execAddi_mem (d : Reg) (a : Reg) (imm : BitVec 16) (s : State) :
    Out.All (fun t => t.mem = s.mem) (execAddi d a imm s) := by
  exact State.finish_mem ..

theorem execAndi_mem (d : Reg) (a : Reg) (imm : BitVec 16) (s : State) :
    Out.All (fun t => t.mem = s.mem) (execAndi d a imm s) := by
  exact State.finish_mem ..

theorem execOri_mem (d : Reg) (a : Reg) (imm : BitVec 16) (s : State) :
    Out.All (fun t => t.mem = s.mem) (execOri d a imm s) := by
  exact State.finish_mem ..

theorem execXori_mem (d : Reg) (a : Reg) (imm : BitVec 16) (s : State) :
    Out.All (fun t => t.mem = s.mem) (execXori d a imm s) := by
  exact State.finish_mem ..

theorem execSlti_mem (d : Reg) (a : Reg) (imm : BitVec 16) (s : State) :
    Out.All (fun t => t.mem = s.mem) (execSlti d a imm s) := by
  exact State.finish_mem ..

theorem execSltiu_mem (d : Reg) (a : Reg) (imm : BitVec 16) (s : State) :
    Out.All (fun t => t.mem = s.mem) (execSltiu d a imm s) := by
  exact State.finish_mem ..

theorem execShli_mem (d : Reg) (a : Reg) (amt : BitVec 6) (s : State) :
    Out.All (fun t => t.mem = s.mem) (execShli d a amt s) := by
  exact State.finish_mem ..

theorem execShri_mem (d : Reg) (a : Reg) (amt : BitVec 6) (s : State) :
    Out.All (fun t => t.mem = s.mem) (execShri d a amt s) := by
  exact State.finish_mem ..

theorem execSari_mem (d : Reg) (a : Reg) (amt : BitVec 6) (s : State) :
    Out.All (fun t => t.mem = s.mem) (execSari d a amt s) := by
  exact State.finish_mem ..

theorem execLui_mem (d : Reg) (imm : BitVec 16) (s : State) :
    Out.All (fun t => t.mem = s.mem) (execLui d imm s) := by
  exact State.finish_mem ..

theorem execLus_mem (d : Reg) (imm : BitVec 16) (s : State) :
    Out.All (fun t => t.mem = s.mem) (execLus d imm s) := by
  exact State.finish_mem ..

theorem execAddpc_mem (d : Reg) (imm : BitVec 16) (s : State) :
    Out.All (fun t => t.mem = s.mem) (execAddpc d imm s) := by
  exact State.finish_mem ..

theorem State.notice_wf (s : State) (c : Nat) (kind : Nat) (code : Nat) (tenant : Nat) (x : Nat) (y : Nat) (layer : Nat) (thread : Nat) (d0 : Word) (d1 : Word) (hs : Memory.wf s.mem = true) :
    Memory.wf (State.notice s c kind code tenant x y layer thread d0 d1).mem = true := by
  unfold State.notice
  try dsimp only
  repeat' (first | with_reducible (assumption) | with_reducible (apply Memory.wf_write) | split)

theorem State.threadNotice_wf (s : State) (k : Nat) (kind : Nat) (code : Nat) (d0 : Word) (d1 : Word) (hs : Memory.wf s.mem = true) :
    Memory.wf (State.threadNotice s k kind code d0 d1).mem = true := by
  apply State.notice_wf; exact hs

@[simp] theorem State.stopThread_mem (s : State) (k : Nat) (at_ : Word) :
    (State.stopThread s k at_).mem = s.mem :=
  rfl

theorem State.toSupervisor_wf (s : State) (k : Nat) (async : Bool) (code : Nat) (value : Word) (rec_ : FaultRec) (fabric : Bool) (hs : Memory.wf s.mem = true) :
    Memory.wf (State.toSupervisor s k async code value rec_ fabric).mem = true := by
  unfold State.toSupervisor
  try dsimp only
  repeat' (first | with_reducible (assumption) | with_reducible (apply State.threadNotice_wf) | with_reducible (refine ite_wf ?_ ?_) | simp only [Out.all_next, Out.all_fault, Out.all_refused, State.stopThread_mem, State.setThread_mem, State.modThread_mem])

theorem State.trapThread_wf (s : State) (k : Nat) (async : Bool) (code : Nat) (value : Word) (rec_ : FaultRec) (fabric : Bool) (hs : Memory.wf s.mem = true) :
    Memory.wf (State.trapThread s k async code value rec_ fabric).mem = true := by
  unfold State.trapThread
  try dsimp only
  repeat' (first | with_reducible (assumption) | with_reducible (apply State.toSupervisor_wf) | with_reducible (refine ite_wf ?_ ?_) | simp only [Out.all_next, Out.all_fault, Out.all_refused, State.setThread_mem])

theorem State.raise_wf (s : State) (word : Word32) (code : Nat) (value : Word) (hs : Memory.wf s.mem = true) :
    Out.All (fun t => Memory.wf t.mem = true) (State.raise s word code value) := by
  apply State.trapThread_wf; exact hs

@[simp] theorem State.takeCopies_mem (s : State) (c : Nat) (tenant : Option Nat) (line : Nat) (all : Bool) : (s.takeCopies c tenant line all).1.mem = s.mem := by
  unfold State.takeCopies
  refine (foldl_pair_mem _ _ _ ?_).trans rfl
  intro acc x
  dsimp only
  (repeat' split) <;> rfl

@[simp] theorem State.modCorePlace_mem (s : State) (p k : Nat) (f : CorePlaceSt → CorePlaceSt) : (s.modCorePlace p k f).mem = s.mem := rfl
@[simp] theorem State.countLookup_mem (s : State) (c : Nat) (tenant : Nat) (line : Nat) (hit : Bool) :
    (State.countLookup s c tenant line hit).mem = s.mem := by
  unfold State.countLookup; (repeat' split) <;> simp

@[simp] theorem State.sliceTouch_mem (s : State) (c : Nat) (w : WaySt) :
    (State.sliceTouch s c w).mem = s.mem :=
  rfl

theorem State.hubWriteBack_wf (s : State) (line : Nat) (data : Nat) (mask : Nat) (hs : Memory.wf s.mem = true) :
    Memory.wf (State.hubWriteBack s line data mask).mem = true := by
  apply writeDirty_wf; exact hs

theorem State.sliceFill_wf (s : State) (c : Nat) (tenant : Nat) (line : Nat) (data : Nat) (dirty : Nat) (hs : Memory.wf s.mem = true) :
    Memory.wf ((State.sliceFill s c tenant line data dirty).1).mem = true := by
  unfold State.sliceFill
  try dsimp only
  repeat' (first | with_reducible (assumption) | with_reducible (apply State.hubWriteBack_wf) | simp only [Out.all_next, Out.all_fault, Out.all_refused, State.setSet_mem] | split)

theorem State.sliceAccess_wf (s : State) (c : Nat) (tenant : Nat) (line : Nat) (forStore : Bool) (hs : Memory.wf s.mem = true) :
    Memory.wf ((State.sliceAccess s c tenant line forStore).1).mem = true := by
  unfold State.sliceAccess
  try dsimp only
  repeat' (first | with_reducible (assumption) | with_reducible (apply State.sliceFill_wf) | simp only [Out.all_next, Out.all_fault, Out.all_refused, State.takeCopies_mem, State.countLookup_mem, State.sliceTouch_mem] | split)

theorem State.lookupLine_wf (s : State) (c : Nat) (tenant : Nat) (line : Nat) (hs : Memory.wf s.mem = true) :
    Memory.wf ((State.lookupLine s c tenant line).1).mem = true := by
  unfold State.lookupLine
  try dsimp only
  repeat' (first | with_reducible (assumption) | with_reducible (apply State.sliceAccess_wf) | split)

theorem State.walk_wf (s : State) (c tenant root asid va fuel level : Nat) (hs : Memory.wf s.mem = true) :
    Memory.wf (s.walk c tenant root asid va fuel level).1.mem = true := by
  induction fuel generalizing s root level with
  | zero => exact hs
  | succ n ih =>
    have h1 := State.lookupLine_wf s c tenant ((root + 8 * tableIndex va level) / 128) hs
    have h2 : ∀ x y z, Memory.wf (State.hubWriteBack (s.lookupLine c tenant ((root + 8 * tableIndex va level) / 128)).1 x y z).mem = true :=
      fun x y z => State.hubWriteBack_wf _ _ _ _ h1
    unfold State.walk
    dsimp only
    (repeat' split) <;> first | exact hs | exact h1 | exact h2 _ _ _ | exact ih _ _ _ h1 | exact ih _ _ _ (h2 _ _ _)

@[simp] theorem State.llInsert_mem (s : State) (die : Nat) (quota : Nat) (e : TlbEntry) :
    (State.llInsert s die quota e).mem = s.mem := by
  unfold State.llInsert
  try dsimp only
  repeat' (first | with_reducible (assumption) | with_reducible (rfl) | with_reducible (exact True.intro) | with_reducible (intro _) | with_reducible (intro _ _ _) | with_reducible (refine foldl_mem _ _ _ ?_) | with_reducible (refine (foldl_mem _ _ _ ?_).trans ?_) | with_reducible (refine (foldl_pair_mem _ _ _ ?_).trans ?_) | simp only [Out.all_next, Out.all_fault, Out.all_refused] | split)

theorem State.findLeaf_wf (s : State) (c : Nat) (tenant : Nat) (place : Nat) (root : Nat) (asid : Nat) (va : Nat) (hs : Memory.wf s.mem = true) :
    Memory.wf ((State.findLeaf s c tenant place root asid va).1).mem = true := by
  unfold State.findLeaf
  try dsimp only
  repeat' (first | with_reducible (assumption) | with_reducible (apply State.walk_wf) | simp only [Out.all_next, Out.all_fault, Out.all_refused, State.modCore_mem, State.llInsert_mem] | split)

theorem State.translate_wf (s : State) (c : Nat) (tenant : Nat) (place : Nat) (root : Nat) (asid : Nat) (va : Nat) (need : Need) (hs : Memory.wf s.mem = true) :
    Memory.wf ((State.translate s c tenant place root asid va need).1).mem = true := by
  unfold State.translate
  try dsimp only
  repeat' (first | with_reducible (assumption) | with_reducible (apply State.findLeaf_wf) | split)

theorem State.resolve_wf (s : State) (k : Nat) (va : Word) (need : Need) (hs : Memory.wf s.mem = true) :
    Memory.wf ((State.resolve s k va need).1).mem = true := by
  unfold State.resolve
  try dsimp only
  repeat' (first | with_reducible (assumption) | with_reducible (apply State.translate_wf) | split)

theorem State.raisePoison_wf (s : State) (word : Word32) (va : Word) (t : Target) (hs : Memory.wf s.mem = true) :
    Out.All (fun t => Memory.wf t.mem = true) (State.raisePoison s word va t) := by
  apply State.trapThread_wf; exact hs

theorem State.l1WriteBack_wf (s : State) (c : Nat) (l : LineSt) (hs : Memory.wf s.mem = true) :
    Memory.wf (State.l1WriteBack s c l).mem = true := by
  unfold State.l1WriteBack
  try dsimp only
  repeat' (first | with_reducible (assumption) | with_reducible (apply State.sliceFill_wf) | with_reducible (apply State.hubWriteBack_wf) | simp only [Out.all_next, Out.all_fault, Out.all_refused, State.sliceTouch_mem] | split)

theorem State.l1Put_wf (s : State) (c : Nat) (l : LineSt) (hs : Memory.wf s.mem = true) :
    Memory.wf (State.l1Put s c l).mem = true := by
  unfold State.l1Put
  try dsimp only
  repeat' (first | with_reducible (assumption) | with_reducible (apply State.l1WriteBack_wf) | simp only [Out.all_next, Out.all_fault, Out.all_refused, State.modCore_mem] | split)

theorem State.l1Access_wf (s : State) (c : Nat) (tenant : Nat) (line : Nat) (forStore : Bool) (hs : Memory.wf s.mem = true) :
    Memory.wf ((State.l1Access s c tenant line forStore).1).mem = true := by
  unfold State.l1Access
  try dsimp only
  repeat' (first | with_reducible (assumption) | with_reducible (apply State.l1Put_wf) | with_reducible (apply State.sliceAccess_wf) | simp only [Out.all_next, Out.all_fault, Out.all_refused, State.takeCopies_mem] | split)

theorem State.coherentRead_wf (s : State) (c : Nat) (tenant : Nat) (pa : Nat) (n : Nat) (hs : Memory.wf s.mem = true) :
    Memory.wf ((State.coherentRead s c tenant pa n).1).mem = true := by
  apply State.l1Access_wf; exact hs

theorem State.readTarget_wf (s : State) (c : Nat) (tenant : Nat) (t : Target) (n : Nat) (hs : Memory.wf s.mem = true) :
    Memory.wf ((State.readTarget s c tenant t n).1).mem = true := by
  unfold State.readTarget
  try dsimp only
  repeat' (first | with_reducible (assumption) | with_reducible (apply State.coherentRead_wf) | split)

@[simp] theorem State.issueLoad_mem (s : State) (d : Reg) (v : Word) (lat : Nat) :
    (State.issueLoad s d v lat).mem = s.mem := by
  unfold State.issueLoad
  try dsimp only
  repeat' (first | simp only [Out.all_next, Out.all_fault, Out.all_refused, State.modMe_mem, State.setGpr_mem] | split)

theorem execLd_wf (sz : MemSize) (sx : Bool) (d : Reg) (a : Reg) (off : BitVec 13) (s : State) (hs : Memory.wf s.mem = true) :
    Out.All (fun t => Memory.wf t.mem = true) (execLd sz sx d a off s) := by
  unfold execLd
  try dsimp only
  repeat' (first | with_reducible (assumption) | with_reducible (apply State.raise_wf) | with_reducible (apply State.resolve_wf) | with_reducible (apply State.raisePoison_wf) | with_reducible (apply State.readTarget_wf) | with_reducible (refine Out.All.mem_wf (State.finish_mem ..) ?_) | simp only [Out.all_next, Out.all_fault, Out.all_refused, State.advance_mem, State.issueLoad_mem] | split)

@[simp] theorem State.armBeat_mem (s : State) (c : Nat) (t : Target) (n : Nat) :
    (State.armBeat s c t n).mem = s.mem := by
  unfold State.armBeat
  try dsimp only
  repeat' (first | simp only [Out.all_next, Out.all_fault, Out.all_refused, State.modCore_mem] | split)

@[simp] theorem State.wakeLine_mem (s : State) (c line : Nat) : (s.wakeLine c line).mem = s.mem := rfl

theorem State.coherentWrite_wf (s : State) (c : Nat) (tenant : Nat) (pa : Nat) (n : Nat) (v : Nat) (hs : Memory.wf s.mem = true) :
    Memory.wf (State.coherentWrite s c tenant pa n v).mem = true := by
  unfold State.coherentWrite
  try dsimp only
  repeat' (first | with_reducible (assumption) | with_reducible (exact True.intro) | with_reducible (apply State.l1Access_wf) | with_reducible (apply State.l1Put_wf) | with_reducible (refine ite_wf ?_ ?_) | simp only [Out.all_next, Out.all_fault, Out.all_refused, State.wakeLine_mem] | split)

theorem State.writeTarget_wf (s : State) (c : Nat) (tenant : Nat) (t : Target) (n : Nat) (v : Nat) (hs : Memory.wf s.mem = true) :
    Memory.wf (State.writeTarget s c tenant t n v).mem = true := by
  unfold State.writeTarget
  try dsimp only
  repeat' (first | with_reducible (assumption) | with_reducible (exact True.intro) | with_reducible (apply Memory.wf_write) | with_reducible (apply State.coherentWrite_wf) | with_reducible (refine ite_wf ?_ ?_) | simp only [Out.all_next, Out.all_fault, Out.all_refused, State.armBeat_mem, State.wakeLine_mem] | split)

theorem State.performStore_wf (s : State) (c : Nat) (st : StoreSt) (hs : Memory.wf s.mem = true) :
    Memory.wf (State.performStore s c st).mem = true := by
  apply State.writeTarget_wf; exact hs

theorem bufferStore_wf (s : State) (t : Target) (n : Nat) (v : Nat) (hs : Memory.wf s.mem = true) :
    Memory.wf (bufferStore s t n v).mem = true := by
  unfold bufferStore
  try dsimp only
  repeat' (first | with_reducible (assumption) | with_reducible (apply State.performStore_wf) | simp only [Out.all_next, Out.all_fault, Out.all_refused, State.modCore_mem] | split)

theorem execSt_wf (sz : MemSize) (d : Reg) (a : Reg) (off : BitVec 13) (s : State) (hs : Memory.wf s.mem = true) :
    Out.All (fun t => Memory.wf t.mem = true) (execSt sz d a off s) := by
  unfold execSt
  try dsimp only
  repeat' (first | with_reducible (assumption) | with_reducible (apply State.raise_wf) | with_reducible (apply State.resolve_wf) | with_reducible (apply bufferStore_wf) | simp only [Out.all_next, Out.all_fault, Out.all_refused, State.advance_mem] | split)

theorem State.drainCore_wf (s : State) (c : Nat) (hs : Memory.wf s.mem = true) :
    Memory.wf (State.drainCore s c).mem = true := by
  unfold State.drainCore
  try dsimp only
  repeat' (first | with_reducible (assumption) | with_reducible (exact True.intro) | with_reducible (intro _) | with_reducible (intro _ _ _) | with_reducible (apply State.performStore_wf) | with_reducible (refine ite_wf ?_ ?_) | with_reducible (refine foldl_wf _ _ _ ?_ ?_) | with_reducible (refine foldl_pair_wf _ _ _ ?_ ?_) | simp only [Out.all_next, Out.all_fault, Out.all_refused, State.modCore_mem])

theorem State.flushLine_wf (s : State) (c : Nat) (line : Nat) (hs : Memory.wf s.mem = true) :
    Memory.wf (State.flushLine s c line).mem = true := by
  unfold State.flushLine
  try dsimp only
  repeat' (first | with_reducible (assumption) | with_reducible (apply State.hubWriteBack_wf) | with_reducible (refine ite_wf ?_ ?_) | simp only [Out.all_next, Out.all_fault, Out.all_refused, State.takeCopies_mem])

theorem atomTarget_wf (s : State) (sc : Scope) (t : Target) (n : Nat) (hs : Memory.wf s.mem = true) :
    Memory.wf ((atomTarget s sc t n).1).mem = true := by
  unfold atomTarget
  try dsimp only
  repeat' (first | with_reducible (assumption) | with_reducible (apply State.drainCore_wf) | with_reducible (apply State.flushLine_wf) | with_reducible (apply State.coherentRead_wf) | split)

theorem atomicAccess_wf (s : State) (word : Word32) (sc : Scope) (n : Nat) (d : Reg) (a : Reg) (f : Nat → AtomRes) (hs : Memory.wf s.mem = true) :
    Out.All (fun t => Memory.wf t.mem = true) (atomicAccess s word sc n d a f) := by
  unfold atomicAccess
  try dsimp only
  repeat' (first | with_reducible (assumption) | with_reducible (apply State.raise_wf) | with_reducible (apply State.resolve_wf) | with_reducible (apply State.raisePoison_wf) | with_reducible (apply atomTarget_wf) | with_reducible (refine Out.All.mem_wf (State.finish_mem ..) ?_) | with_reducible (apply State.writeTarget_wf) | split)

theorem amo_wf (s : State) (word : Word32) (op : AtomOp) (sc : Scope) (sz : AmoSize) (d : Reg) (a : Reg) (b : Reg) (hs : Memory.wf s.mem = true) :
    Out.All (fun t => Memory.wf t.mem = true) (amo s word op sc sz d a b) := by
  apply atomicAccess_wf; exact hs

theorem execAmoAdd_wf (sc : Scope) (sz : AmoSize) (d : Reg) (a : Reg) (b : Reg) (s : State) (hs : Memory.wf s.mem = true) :
    Out.All (fun t => Memory.wf t.mem = true) (execAmoAdd sc sz d a b s) := by
  apply amo_wf; exact hs

theorem execAmoAnd_wf (sc : Scope) (sz : AmoSize) (d : Reg) (a : Reg) (b : Reg) (s : State) (hs : Memory.wf s.mem = true) :
    Out.All (fun t => Memory.wf t.mem = true) (execAmoAnd sc sz d a b s) := by
  apply amo_wf; exact hs

theorem execAmoOr_wf (sc : Scope) (sz : AmoSize) (d : Reg) (a : Reg) (b : Reg) (s : State) (hs : Memory.wf s.mem = true) :
    Out.All (fun t => Memory.wf t.mem = true) (execAmoOr sc sz d a b s) := by
  apply amo_wf; exact hs

theorem execAmoXor_wf (sc : Scope) (sz : AmoSize) (d : Reg) (a : Reg) (b : Reg) (s : State) (hs : Memory.wf s.mem = true) :
    Out.All (fun t => Memory.wf t.mem = true) (execAmoXor sc sz d a b s) := by
  apply amo_wf; exact hs

theorem execAmoMin_wf (sc : Scope) (sz : AmoSize) (d : Reg) (a : Reg) (b : Reg) (s : State) (hs : Memory.wf s.mem = true) :
    Out.All (fun t => Memory.wf t.mem = true) (execAmoMin sc sz d a b s) := by
  apply amo_wf; exact hs

theorem execAmoMax_wf (sc : Scope) (sz : AmoSize) (d : Reg) (a : Reg) (b : Reg) (s : State) (hs : Memory.wf s.mem = true) :
    Out.All (fun t => Memory.wf t.mem = true) (execAmoMax sc sz d a b s) := by
  apply amo_wf; exact hs

theorem execAmoMinu_wf (sc : Scope) (sz : AmoSize) (d : Reg) (a : Reg) (b : Reg) (s : State) (hs : Memory.wf s.mem = true) :
    Out.All (fun t => Memory.wf t.mem = true) (execAmoMinu sc sz d a b s) := by
  apply amo_wf; exact hs

theorem execAmoMaxu_wf (sc : Scope) (sz : AmoSize) (d : Reg) (a : Reg) (b : Reg) (s : State) (hs : Memory.wf s.mem = true) :
    Out.All (fun t => Memory.wf t.mem = true) (execAmoMaxu sc sz d a b s) := by
  apply amo_wf; exact hs

theorem execAmoSwap_wf (sc : Scope) (sz : AmoSize) (d : Reg) (a : Reg) (b : Reg) (s : State) (hs : Memory.wf s.mem = true) :
    Out.All (fun t => Memory.wf t.mem = true) (execAmoSwap sc sz d a b s) := by
  apply amo_wf; exact hs

theorem execAmoIncw_wf (sc : Scope) (sz : AmoSize) (d : Reg) (a : Reg) (b : Reg) (s : State) (hs : Memory.wf s.mem = true) :
    Out.All (fun t => Memory.wf t.mem = true) (execAmoIncw sc sz d a b s) := by
  apply amo_wf; exact hs

theorem execAmoBfadd_wf (sc : Scope) (sz : AmoSize) (d : Reg) (a : Reg) (b : Reg) (s : State) (hs : Memory.wf s.mem = true) :
    Out.All (fun t => Memory.wf t.mem = true) (execAmoBfadd sc sz d a b s) := by
  apply atomicAccess_wf; exact hs

theorem execAmoFmin_wf (sc : Scope) (d : Reg) (a : Reg) (b : Reg) (s : State) (hs : Memory.wf s.mem = true) :
    Out.All (fun t => Memory.wf t.mem = true) (execAmoFmin sc d a b s) := by
  apply amo_wf; exact hs

theorem execAmoFmax_wf (sc : Scope) (d : Reg) (a : Reg) (b : Reg) (s : State) (hs : Memory.wf s.mem = true) :
    Out.All (fun t => Memory.wf t.mem = true) (execAmoFmax sc d a b s) := by
  apply amo_wf; exact hs

theorem execAmoFadd_wf (sc : Scope) (d : Reg) (a : Reg) (b : Reg) (s : State) (hs : Memory.wf s.mem = true) :
    Out.All (fun t => Memory.wf t.mem = true) (execAmoFadd sc d a b s) := by
  apply amo_wf; exact hs

theorem execCas_wf (sc : Scope) (sz : AmoSize) (d : Reg) (a : Reg) (b : Reg) (s : State) (hs : Memory.wf s.mem = true) :
    Out.All (fun t => Memory.wf t.mem = true) (execCas sc sz d a b s) := by
  unfold execCas
  try dsimp only
  repeat' (first | with_reducible (assumption) | with_reducible (apply atomicAccess_wf))

theorem branch_mem (s : State) (taken : Bool) (off : BitVec 16) :
    Out.All (fun t => t.mem = s.mem) (branch s taken off) :=
  rfl

theorem execBeq_mem (a : Reg) (b : Reg) (off : BitVec 16) (s : State) :
    Out.All (fun t => t.mem = s.mem) (execBeq a b off s) :=
  rfl

theorem execBne_mem (a : Reg) (b : Reg) (off : BitVec 16) (s : State) :
    Out.All (fun t => t.mem = s.mem) (execBne a b off s) :=
  rfl

theorem execBlt_mem (a : Reg) (b : Reg) (off : BitVec 16) (s : State) :
    Out.All (fun t => t.mem = s.mem) (execBlt a b off s) :=
  rfl

theorem execBge_mem (a : Reg) (b : Reg) (off : BitVec 16) (s : State) :
    Out.All (fun t => t.mem = s.mem) (execBge a b off s) :=
  rfl

theorem execBltu_mem (a : Reg) (b : Reg) (off : BitVec 16) (s : State) :
    Out.All (fun t => t.mem = s.mem) (execBltu a b off s) :=
  rfl

theorem execBgeu_mem (a : Reg) (b : Reg) (off : BitVec 16) (s : State) :
    Out.All (fun t => t.mem = s.mem) (execBgeu a b off s) :=
  rfl

@[simp] theorem pushReturn_mem (s : State) (d : Reg) :
    (pushReturn s d).mem = s.mem := by
  unfold pushReturn; (repeat' split) <;> simp

theorem jumpTo_mem (s : State) (d : Reg) (t : Word) :
    Out.All (fun t => t.mem = s.mem) (jumpTo s d t) := by
  simp [jumpTo]

theorem execJal_mem (d : Reg) (off : BitVec 21) (s : State) :
    Out.All (fun t => t.mem = s.mem) (execJal d off s) := by
  exact jumpTo_mem ..

@[simp] theorem popReturn_mem (s : State) (d a : Reg) (imm : BitVec 16) (t : Word) : (popReturn s d a imm t).mem = s.mem := by
  unfold popReturn; (repeat' split) <;> rfl

theorem execJalr_wf (d : Reg) (a : Reg) (imm : BitVec 16) (s : State) (hs : Memory.wf s.mem = true) :
    Out.All (fun t => Memory.wf t.mem = true) (execJalr d a imm s) := by
  unfold execJalr
  try dsimp only
  repeat' (first | with_reducible (assumption) | with_reducible (apply State.raise_wf) | with_reducible (refine Out.All.mem_wf (jumpTo_mem ..) ?_) | simp only [Out.all_next, Out.all_fault, Out.all_refused, popReturn_mem, State.modMe_mem] | split)

theorem execCsrr_wf (d : Reg) (n : BitVec 12) (s : State) (hs : Memory.wf s.mem = true) :
    Out.All (fun t => Memory.wf t.mem = true) (execCsrr d n s) := by
  unfold execCsrr
  try dsimp only
  repeat' (first | with_reducible (assumption) | with_reducible (apply State.raise_wf) | with_reducible (refine Out.All.mem_wf (State.finish_mem ..) ?_) | split)

@[simp] theorem State.release_mem (s : State) (k : Nat) (v : Word) :
    (State.release s k v).mem = s.mem := by
  unfold State.release
  try dsimp only
  repeat' (first | simp only [Out.all_next, Out.all_fault, Out.all_refused, State.setThread_mem, State.modThread_mem, State.setGprOf_mem] | split)

@[simp] theorem State.releaseWaiters_mem (s : State) (p : Nat) (b : Nat) (status : Nat) :
    (State.releaseWaiters s p b status).mem = s.mem := by
  unfold State.releaseWaiters
  try dsimp only
  repeat' (first | with_reducible (assumption) | with_reducible (rfl) | with_reducible (exact True.intro) | with_reducible (intro _) | with_reducible (intro _ _ _) | with_reducible (refine foldl_mem _ _ _ ?_) | with_reducible (refine (foldl_mem _ _ _ ?_).trans ?_) | with_reducible (refine (foldl_pair_mem _ _ _ ?_).trans ?_) | simp only [Out.all_next, Out.all_fault, Out.all_refused, State.release_mem])

@[simp] theorem State.modPart_mem (s : State) (k : Nat) (f : PartSt → PartSt) : (s.modPart k f).mem = s.mem := rfl
@[simp] theorem State.setBarrier_mem (s : State) (p : Nat) (b : Nat) (x : BarrierSt) :
    (State.setBarrier s p b x).mem = s.mem :=
  rfl

@[simp] theorem State.postAsync_mem (s : State) (k : Nat) (code : Nat) (rec_ : FaultRec) (fabric : Bool) :
    (State.postAsync s k code rec_ fabric).mem = s.mem :=
  rfl

@[simp] theorem State.breakBarrier_mem (s : State) (p : Nat) (b : Nat) (dead : Nat) :
    (State.breakBarrier s p b dead).mem = s.mem := by
  unfold State.breakBarrier
  try dsimp only
  repeat' (first | with_reducible (intro _) | with_reducible (refine (foldl_mem _ _ _ ?_).trans ?_) | simp only [Out.all_next, Out.all_fault, Out.all_refused, State.setBarrier_mem, State.releaseWaiters_mem, State.postAsync_mem])

@[simp] theorem State.writeBarcfg_mem (s : State) (p : Nat) (b : Nat) (v : Word) :
    (State.writeBarcfg s p b v).mem = s.mem := by
  unfold State.writeBarcfg
  try dsimp only
  repeat' (first | simp only [Out.all_next, Out.all_fault, Out.all_refused, State.releaseWaiters_mem, State.setBarrier_mem, State.breakBarrier_mem] | split)

@[simp] theorem State.modPlace_mem (s : State) (p k : Nat) (f : PlaceSt → PlaceSt) : (s.modPlace p k f).mem = s.mem := rfl
@[simp] theorem State.writeOcc_mem (s : State) (c : Nat) (pl : Nat) (i : Nat) (v : Word) :
    (State.writeOcc s c pl i v).mem = s.mem := by
  unfold State.writeOcc; (repeat' split) <;> simp

@[simp] theorem State.writeRotctl_mem (s : State) (p : Nat) (v : Word) :
    (State.writeRotctl s p v).mem = s.mem := by
  unfold State.writeRotctl
  try dsimp only
  repeat' (first | simp only [Out.all_next, Out.all_fault, Out.all_refused, State.setPart_mem] | split)

@[simp] theorem State.startTlbi_mem (s : State) (p : Nat) (v : Word) :
    (State.startTlbi s p v).mem = s.mem := by
  unfold State.startTlbi
  try dsimp only
  repeat' (first | with_reducible (intro _) | with_reducible (refine (foldl_mem _ _ _ ?_).trans ?_) | simp only [Out.all_next, Out.all_fault, Out.all_refused, State.modCore_mem, State.modPart_mem] | split)

@[simp] theorem State.writeTcfg_mem (s : State) (p : Nat) (pl : Nat) (v : Word) :
    (State.writeTcfg s p pl v).mem = s.mem := by
  unfold State.writeTcfg
  try dsimp only
  repeat' (first | with_reducible (intro _) | with_reducible (refine (foldl_mem _ _ _ ?_).trans ?_) | simp only [Out.all_next, Out.all_fault, Out.all_refused, State.setPlace_mem, State.modCorePlace_mem] | split)

@[simp] theorem State.writeTlocal_mem (s : State) (c : Nat) (pl : Nat) (v : Word) :
    (State.writeTlocal s c pl v).mem = s.mem := by
  unfold State.writeTlocal
  try dsimp only
  repeat' (first | simp only [Out.all_next, Out.all_fault, Out.all_refused, State.modCorePlace_mem] | split)

@[simp] theorem State.writeTedge_mem (s : State) (p : Nat) (pl : Nat) (v : Word) :
    (State.writeTedge s p pl v).mem = s.mem := by
  unfold State.writeTedge
  try dsimp only
  repeat' (first | simp only [Out.all_next, Out.all_fault, Out.all_refused, State.modPlace_mem] | split)

@[simp] theorem State.writeTassign_mem (s : State) (p : Nat) (pl : Nat) (v : Word) :
    (State.writeTassign s p pl v).mem = s.mem := by
  unfold State.writeTassign; (repeat' split) <;> simp

theorem State.resumeStopped_wf (s : State) (k : Nat) (pc : Word) (hs : Memory.wf s.mem = true) :
    Memory.wf (State.resumeStopped s k pc).mem = true := by
  unfold State.resumeStopped
  try dsimp only
  repeat' (first | with_reducible (assumption) | with_reducible (apply Memory.wf_write) | simp only [Out.all_next, Out.all_fault, Out.all_refused, State.modThread_mem] | split)

theorem State.restartThread_wf (s : State) (k : Nat) (pc62 : Nat) (hs : Memory.wf s.mem = true) :
    Memory.wf (State.restartThread s k pc62).mem = true := by
  unfold State.restartThread
  try dsimp only
  repeat' (first | with_reducible (assumption) | with_reducible (apply State.resumeStopped_wf) | with_reducible (refine ite_wf ?_ ?_))

theorem State.writeCsr_wf (s : State) (k : Nat) (n : Nat) (v : Word) (hs : Memory.wf s.mem = true) :
    Memory.wf (State.writeCsr s k n v).mem = true := by
  unfold State.writeCsr
  try dsimp only
  repeat' (first | with_reducible (assumption) | with_reducible (apply State.restartThread_wf) | with_reducible (refine ite_wf ?_ ?_) | simp only [Out.all_next, Out.all_fault, Out.all_refused, State.setThread_mem, State.writeBarcfg_mem, State.modPlace_mem, State.writeOcc_mem, State.modCore_mem, State.writeRotctl_mem, State.modPart_mem, State.startTlbi_mem, State.writeTcfg_mem, State.modCorePlace_mem, State.writeTlocal_mem, State.writeTedge_mem, State.writeTassign_mem])

theorem State.csrAccess_wf (s : State) (word : Word32) (k : CsrOp) (d : Reg) (a : Reg) (n : Nat) (hs : Memory.wf s.mem = true) :
    Out.All (fun t => Memory.wf t.mem = true) (State.csrAccess s word k d a n) := by
  unfold State.csrAccess
  try dsimp only
  repeat' (first | with_reducible (assumption) | with_reducible (apply State.raise_wf) | with_reducible (refine Out.All.mem_wf (State.finish_mem ..) ?_) | with_reducible (apply State.writeCsr_wf) | simp only [Out.all_next, Out.all_fault, Out.all_refused, State.modMe_mem] | split)

theorem execCsrw_wf (d : Reg) (a : Reg) (n : BitVec 12) (s : State) (hs : Memory.wf s.mem = true) :
    Out.All (fun t => Memory.wf t.mem = true) (execCsrw d a n s) := by
  apply State.csrAccess_wf; exact hs

theorem execCsrs_wf (d : Reg) (a : Reg) (n : BitVec 12) (s : State) (hs : Memory.wf s.mem = true) :
    Out.All (fun t => Memory.wf t.mem = true) (execCsrs d a n s) := by
  apply State.csrAccess_wf; exact hs

theorem execCsrc_wf (d : Reg) (a : Reg) (n : BitVec 12) (s : State) (hs : Memory.wf s.mem = true) :
    Out.All (fun t => Memory.wf t.mem = true) (execCsrc d a n s) := by
  apply State.csrAccess_wf; exact hs

theorem execTstatWrite_wf (k : CsrOp) (d : Reg) (a : Reg) (s : State) (hs : Memory.wf s.mem = true) :
    Out.All (fun t => Memory.wf t.mem = true) (execTstatWrite k d a s) := by
  apply State.csrAccess_wf; exact hs

theorem execTlbiWrite_wf (k : CsrOp) (d : Reg) (a : Reg) (s : State) (hs : Memory.wf s.mem = true) :
    Out.All (fun t => Memory.wf t.mem = true) (execTlbiWrite k d a s) := by
  apply State.csrAccess_wf; exact hs

theorem execTrunWrite_wf (k : CsrOp) (d : Reg) (a : Reg) (s : State) (hs : Memory.wf s.mem = true) :
    Out.All (fun t => Memory.wf t.mem = true) (execTrunWrite k d a s) := by
  apply State.csrAccess_wf; exact hs

theorem execRotctlArm_wf (d : Reg) (a : Reg) (s : State) (hs : Memory.wf s.mem = true) :
    Out.All (fun t => Memory.wf t.mem = true) (execRotctlArm d a s) := by
  apply State.csrAccess_wf; exact hs

theorem execArmWithdraw_wf (d : Reg) (a : Reg) (s : State) (hs : Memory.wf s.mem = true) :
    Out.All (fun t => Memory.wf t.mem = true) (execArmWithdraw d a s) := by
  apply State.csrAccess_wf; exact hs

theorem execSoleWrite_wf (d : Reg) (a : Reg) (s : State) (hs : Memory.wf s.mem = true) :
    Out.All (fun t => Memory.wf t.mem = true) (execSoleWrite d a s) := by
  apply State.csrAccess_wf; exact hs

theorem execBarcfgWrite_wf (k : CsrOp) (n : BitVec 4) (d : Reg) (a : Reg) (s : State) (hs : Memory.wf s.mem = true) :
    Out.All (fun t => Memory.wf t.mem = true) (execBarcfgWrite k n d a s) := by
  apply State.csrAccess_wf; exact hs

theorem execOccWrite_wf (k : CsrOp) (n : BitVec 4) (d : Reg) (a : Reg) (s : State) (hs : Memory.wf s.mem = true) :
    Out.All (fun t => Memory.wf t.mem = true) (execOccWrite k n d a s) := by
  apply State.csrAccess_wf; exact hs

theorem execPlaceRegisterWrite_wf (k : CsrOp) (r : PlaceReg) (d : Reg) (a : Reg) (s : State) (hs : Memory.wf s.mem = true) :
    Out.All (fun t => Memory.wf t.mem = true) (execPlaceRegisterWrite k r d a s) := by
  apply State.csrAccess_wf; exact hs

theorem execTwaysWrite_wf (k : CsrOp) (d : Reg) (a : Reg) (s : State) (hs : Memory.wf s.mem = true) :
    Out.All (fun t => Memory.wf t.mem = true) (execTwaysWrite k d a s) := by
  apply State.csrAccess_wf; exact hs

@[simp] theorem loadsReturn_mem (s : State) :
    (loadsReturn s).mem = s.mem := by
  unfold loadsReturn
  try dsimp only
  repeat' (first | with_reducible (assumption) | with_reducible (rfl) | with_reducible (exact True.intro) | with_reducible (intro _) | with_reducible (intro _ _ _) | with_reducible (refine foldl_mem _ _ _ ?_) | with_reducible (refine (foldl_mem _ _ _ ?_).trans ?_) | with_reducible (refine (foldl_pair_mem _ _ _ ?_).trans ?_) | simp only [Out.all_next, Out.all_fault, Out.all_refused, State.modMe_mem, State.setGpr_mem])

theorem execFenceAcq_mem (_sc : Scope) (s : State) :
    Out.All (fun t => t.mem = s.mem) (execFenceAcq _sc s) := by
  simp [execFenceAcq]

theorem fenceStores_wf (s : State) (hs : Memory.wf s.mem = true) : Memory.wf (fenceStores s).mem = true := State.drainCore_wf _ _ hs

theorem fenceAll_wf (s : State) (word : Word32) (hs : Memory.wf s.mem = true) :
    Out.All (fun t => Memory.wf t.mem = true) (fenceAll s word) := by
  unfold fenceAll
  try dsimp only
  repeat' (first | with_reducible (assumption) | with_reducible (apply fenceStores_wf) | simp only [Out.all_next, Out.all_fault, Out.all_refused, loadsReturn_mem, State.modMe_mem, State.advance_mem] | split)

theorem execFenceRel_wf (sc : Scope) (s : State) (hs : Memory.wf s.mem = true) :
    Out.All (fun t => Memory.wf t.mem = true) (execFenceRel sc s) := by
  apply fenceAll_wf; exact hs

theorem execFenceFull_wf (sc : Scope) (s : State) (hs : Memory.wf s.mem = true) :
    Out.All (fun t => Memory.wf t.mem = true) (execFenceFull sc s) := by
  apply fenceAll_wf; exact hs

theorem State.trapAt_wf (s : State) (k : Nat) (word : Word32) (code : Nat) (value : Word) (hs : Memory.wf s.mem = true) :
    Memory.wf (s.trapAt k word code value).mem = true := State.trapThread_wf _ _ _ _ _ _ _ hs

theorem waitAgain_wf (s : State) (k : Nat) (hs : Memory.wf s.mem = true) :
    Memory.wf (waitAgain s k).mem = true := by
  unfold waitAgain
  try dsimp only
  repeat' (first | with_reducible (assumption) | with_reducible (apply State.trapAt_wf) | with_reducible (apply State.trapThread_wf) | with_reducible (apply State.resolve_wf) | with_reducible (apply State.readTarget_wf) | simp only [Out.all_next, Out.all_fault, Out.all_refused, State.modThread_mem, State.setGprOf_mem] | split)

theorem startWait_wf (s : State) (word : Word32) (code : WaitCode) (d : Reg) (a : Reg) (b : Reg) (hs : Memory.wf s.mem = true) :
    Out.All (fun t => Memory.wf t.mem = true) (startWait s word code d a b) := by
  apply waitAgain_wf; exact hs

theorem execWait_wf (d : Reg) (a : Reg) (b : Reg) (s : State) (hs : Memory.wf s.mem = true) :
    Out.All (fun t => Memory.wf t.mem = true) (execWait d a b s) := by
  apply startWait_wf; exact hs

theorem execWaite_wf (d : Reg) (a : Reg) (b : Reg) (s : State) (hs : Memory.wf s.mem = true) :
    Out.All (fun t => Memory.wf t.mem = true) (execWaite d a b s) := by
  apply startWait_wf; exact hs

@[simp] theorem State.openTest_mem (s : State) (p : Nat) (b : Nat) :
    (State.openTest s p b).mem = s.mem := by
  unfold State.openTest
  try dsimp only
  repeat' (first | simp only [Out.all_next, Out.all_fault, Out.all_refused, State.setBarrier_mem, State.releaseWaiters_mem] | split)

@[simp] theorem arrive_mem (s : State) (b : Nat) :
    (arrive s b).mem = s.mem := by
  simp [arrive]

theorem execBar_mem (d : Reg) (a : Reg) (s : State) :
    Out.All (fun t => t.mem = s.mem) (execBar d a s) := by
  unfold execBar
  try dsimp only
  repeat' (first | with_reducible (refine Out.All.mem_trans (State.finish_mem ..) ?_) | simp only [Out.all_next, Out.all_fault, Out.all_refused, arrive_mem] | split)

theorem execBarw_mem (d : Reg) (a : Reg) (s : State) :
    Out.All (fun t => t.mem = s.mem) (execBarw d a s) := by
  unfold execBarw
  try dsimp only
  repeat' (first | with_reducible (refine Out.All.mem_trans (State.finish_mem ..) ?_) | simp only [Out.all_next, Out.all_fault, Out.all_refused, State.modMe_mem, arrive_mem] | split)

theorem execBarq_mem (d : Reg) (a : Reg) (s : State) :
    Out.All (fun t => t.mem = s.mem) (execBarq d a s) := by
  unfold execBarq; dsimp only; split <;> exact State.finish_mem ..

theorem execHold_mem (d : Reg) (s : State) :
    Out.All (fun t => t.mem = s.mem) (execHold d s) := by
  unfold execHold; dsimp only; (repeat' split) <;> exact State.finish_mem ..

theorem execUnhold_mem (s : State) :
    Out.All (fun t => t.mem = s.mem) (execUnhold s) :=
  rfl

@[simp] theorem State.divideDone_mem (s : State) (k : Nat) : (s.divideDone k).mem = s.mem := by
  unfold State.divideDone; (repeat' split) <;> simp

theorem State.saveThread_wf (s : State) (k : Nat) (hs : Memory.wf s.mem = true) :
    Memory.wf (State.saveThread s k).mem = true := by
  unfold State.saveThread
  try dsimp only
  repeat' (first | with_reducible (assumption) | with_reducible (exact True.intro) | with_reducible (intro _) | with_reducible (intro _ _ _) | with_reducible (apply State.writeWords_wf) | with_reducible (refine ite_wf ?_ ?_) | with_reducible (refine foldl_wf _ _ _ ?_ ?_) | with_reducible (refine foldl_pair_wf _ _ _ ?_ ?_) | with_reducible (refine foldl_cells_wf _ _ ?_ ?_) | simp only [Out.all_next, Out.all_fault, Out.all_refused, State.divideDone_mem, State.setGprOf_mem, State.modThread_mem] | split)

theorem execSpawn_wf (d : Reg) (a : Reg) (b : Reg) (s : State) (hs : Memory.wf s.mem = true) :
    Out.All (fun t => Memory.wf t.mem = true) (execSpawn d a b s) := by
  unfold execSpawn
  try dsimp only
  repeat' (first | with_reducible (assumption) | with_reducible (refine Out.All.mem_wf (State.finish_mem ..) ?_) | with_reducible (apply State.saveThread_wf) | simp only [Out.all_next, Out.all_fault, Out.all_refused, State.setThread_mem, State.modThread_mem] | split)

theorem haltThread_wf (s : State) (hs : Memory.wf s.mem = true) :
    Out.All (fun t => Memory.wf t.mem = true) (haltThread s) := by
  unfold haltThread
  try dsimp only
  repeat' (first | with_reducible (assumption) | with_reducible (apply State.drainCore_wf) | with_reducible (apply State.threadNotice_wf) | with_reducible (refine ite_wf ?_ ?_) | simp only [Out.all_next, Out.all_fault, Out.all_refused, State.stopThread_mem])

@[simp] theorem State.leaveBarrier_mem (s : State) (p : Nat) (b : Nat) (k : Nat) :
    (State.leaveBarrier s p b k).mem = s.mem := by
  simp [State.leaveBarrier]

@[simp] theorem State.dropDivide_mem (s : State) (k : Nat) : (State.dropDivide s k).mem = s.mem := by
  simp [State.dropDivide]

theorem State.endThread_wf (s : State) (k : Nat) (killed : Bool) (hs : Memory.wf s.mem = true) :
    Memory.wf (State.endThread s k killed).mem = true := by
  unfold State.endThread
  try dsimp only
  repeat' (first | with_reducible (assumption) | with_reducible (exact True.intro) | with_reducible (intro _) | with_reducible (intro _ _ _) | with_reducible (apply State.drainCore_wf) | with_reducible (refine ite_wf ?_ ?_) | with_reducible (refine foldl_wf _ _ _ ?_ ?_) | with_reducible (refine foldl_pair_wf _ _ _ ?_ ?_) | simp only [Out.all_next, Out.all_fault, Out.all_refused, State.leaveBarrier_mem, State.dropDivide_mem, State.setThread_mem, State.breakBarrier_mem])

theorem execExit_wf (s : State) (hs : Memory.wf s.mem = true) :
    Out.All (fun t => Memory.wf t.mem = true) (execExit s) := by
  unfold execExit
  try dsimp only
  repeat' (first | with_reducible (assumption) | with_reducible (apply haltThread_wf) | with_reducible (apply State.endThread_wf) | simp only [Out.all_next, Out.all_fault, Out.all_refused] | split)

theorem execYield_mem (s : State) :
    Out.All (fun t => t.mem = s.mem) (execYield s) :=
  rfl

theorem execPause_mem (a : Reg) (s : State) :
    Out.All (fun t => t.mem = s.mem) (execPause a s) := by
  unfold execPause
  try dsimp only
  repeat' (first | simp only [Out.all_next, Out.all_fault, Out.all_refused, State.advance_mem, State.modMe_mem] | split)

theorem State.l1Maintain_wf (s : State) (c : Nat) (tenant : Nat) (lo : Nat) (hi : Nat) (op : CacheOp) (hs : Memory.wf s.mem = true) :
    Memory.wf (State.l1Maintain s c tenant lo hi op).mem = true := by
  unfold State.l1Maintain
  try dsimp only
  repeat' (first | with_reducible (assumption) | with_reducible (exact True.intro) | with_reducible (intro _) | with_reducible (intro _ _ _) | with_reducible (apply State.l1WriteBack_wf) | with_reducible (refine ite_wf ?_ ?_) | with_reducible (refine foldl_wf _ _ _ ?_ ?_) | with_reducible (refine foldl_pair_wf _ _ _ ?_ ?_) | simp only [Out.all_next, Out.all_fault, Out.all_refused, State.modCore_mem])

theorem State.edgeMaintain_wf (s : State) (c : Nat) (tenant : Nat) (lo : Nat) (hi : Nat) (op : CacheOp) (hs : Memory.wf s.mem = true) :
    Memory.wf (State.edgeMaintain s c tenant lo hi op).mem = true := by
  unfold State.edgeMaintain
  try dsimp only
  repeat' (first | with_reducible (assumption) | with_reducible (exact True.intro) | with_reducible (intro _) | with_reducible (intro _ _ _) | with_reducible (apply State.hubWriteBack_wf) | with_reducible (refine ite_wf ?_ ?_) | with_reducible (refine foldl_wf _ _ _ ?_ ?_))

theorem State.maintain_wf (s : State) (c : Nat) (tenant : Nat) (lo : Nat) (hi : Nat) (lvl : CacheLevel) (op : CacheOp) (hs : Memory.wf s.mem = true) :
    Memory.wf (State.maintain s c tenant lo hi lvl op).mem = true := by
  unfold State.maintain
  try dsimp only
  repeat' (first | with_reducible (assumption) | with_reducible (apply State.l1Maintain_wf) | with_reducible (apply State.edgeMaintain_wf) | split)

theorem State.maintainPage_wf (s : State) (k : Nat) (from_ : Nat) (to_ : Nat) (lvl : CacheLevel) (op : CacheOp) (hs : Memory.wf s.mem = true) :
    Memory.wf (State.maintainPage s k from_ to_ lvl op).mem = true := by
  unfold State.maintainPage
  try dsimp only
  repeat' (first | with_reducible (assumption) | with_reducible (apply State.findLeaf_wf) | with_reducible (apply State.maintain_wf) | simp only [Out.all_next, Out.all_fault, Out.all_refused, State.modCore_mem] | split)

theorem State.maintainPages_wf (s : State) (k lo hi : Nat) (lvl : CacheLevel) (op : CacheOp) (n page : Nat) (hs : Memory.wf s.mem = true) :
    Memory.wf (s.maintainPages k lo hi lvl op n page).mem = true := by
  induction n generalizing s page with
  | zero => exact hs
  | succ n ih => exact ih _ _ (State.maintainPage_wf _ _ _ _ _ _ hs)

theorem cacheOp_wf (word : Word32) (lvl : CacheLevel) (op : CacheOp) (a : Reg) (b : Reg) (s : State) (hs : Memory.wf s.mem = true) :
    Out.All (fun t => Memory.wf t.mem = true) (cacheOp word lvl op a b s) := by
  unfold cacheOp
  try dsimp only
  repeat' (first | with_reducible (assumption) | with_reducible (apply State.raise_wf) | with_reducible (apply State.maintainPages_wf) | simp only [Out.all_next, Out.all_fault, Out.all_refused, State.advance_mem] | split)

theorem execClean_wf (lvl : CacheLevel) (a : Reg) (b : Reg) (s : State) (hs : Memory.wf s.mem = true) :
    Out.All (fun t => Memory.wf t.mem = true) (execClean lvl a b s) := by
  apply cacheOp_wf; exact hs

theorem execInval_wf (lvl : CacheLevel) (a : Reg) (b : Reg) (s : State) (hs : Memory.wf s.mem = true) :
    Out.All (fun t => Memory.wf t.mem = true) (execInval lvl a b s) := by
  apply cacheOp_wf; exact hs

theorem execClinv_wf (lvl : CacheLevel) (a : Reg) (b : Reg) (s : State) (hs : Memory.wf s.mem = true) :
    Out.All (fun t => Memory.wf t.mem = true) (execClinv lvl a b s) := by
  apply cacheOp_wf; exact hs

theorem execTrap_wf (imm : BitVec 16) (s : State) (hs : Memory.wf s.mem = true) :
    Out.All (fun t => Memory.wf t.mem = true) (execTrap imm s) := by
  apply State.raise_wf; exact hs

theorem execSvc_wf (imm : BitVec 16) (s : State) (hs : Memory.wf s.mem = true) :
    Out.All (fun t => Memory.wf t.mem = true) (execSvc imm s) := by
  apply State.raise_wf; exact hs

theorem State.raiseIllegal_wf (s : State) (word : Word32) (hs : Memory.wf s.mem = true) :
    Out.All (fun t => Memory.wf t.mem = true) (State.raiseIllegal s word) := by
  apply State.raise_wf; exact hs

theorem execEret_wf (s : State) (hs : Memory.wf s.mem = true) :
    Out.All (fun t => Memory.wf t.mem = true) (execEret s) := by
  unfold execEret
  try dsimp only
  repeat' (first | with_reducible (assumption) | with_reducible (apply State.raiseIllegal_wf) | with_reducible (apply State.saveThread_wf) | with_reducible (apply State.drainCore_wf) | simp only [Out.all_next, Out.all_fault, Out.all_refused, State.setThread_mem] | split)

theorem execHalt_wf (s : State) (hs : Memory.wf s.mem = true) :
    Out.All (fun t => Memory.wf t.mem = true) (execHalt s) := by
  apply haltThread_wf; exact hs

theorem execBrk_wf (s : State) (hs : Memory.wf s.mem = true) :
    Out.All (fun t => Memory.wf t.mem = true) (execBrk s) := by
  unfold execBrk
  try dsimp only
  repeat' (first | with_reducible (assumption) | with_reducible (apply State.raise_wf) | simp only [Out.all_next, Out.all_fault, Out.all_refused, State.modMe_mem, State.stopThread_mem] | split)

theorem execDonate_mem (s : State) :
    Out.All (fun t => t.mem = s.mem) (execDonate s) := by
  unfold execDonate
  try dsimp only
  repeat' (first | simp only [Out.all_next, Out.all_fault, Out.all_refused, State.advance_mem, State.modPart_mem] | split)

theorem mapNext_mem (s : State) (f : State → State) (o : Out) (hf : ∀ st, (f st).mem = st.mem) (h : Out.All (fun t => t.mem = s.mem) o) :
    Out.All (fun t => t.mem = s.mem) (mapNext f o) := by
  cases o with
  | next t => exact (hf t).trans h
  | fault r => trivial
  | refused r => trivial

theorem mapNext_wf (f : State → State) (o : Out) (hf : ∀ st, Memory.wf st.mem = true → Memory.wf (f st).mem = true)
    (h : Out.All (fun t => Memory.wf t.mem = true) o) : Out.All (fun t => Memory.wf t.mem = true) (mapNext f o) := by
  cases o with
  | next t => exact hf t h
  | fault r => trivial
  | refused r => trivial

@[simp] theorem State.retryWaiters_mem (s : State) (code : WaitCode) :
    (State.retryWaiters s code).mem = s.mem := by
  unfold State.retryWaiters
  try dsimp only
  repeat' (first | with_reducible (assumption) | with_reducible (rfl) | with_reducible (exact True.intro) | with_reducible (intro _) | with_reducible (intro _ _ _) | with_reducible (refine foldl_mem _ _ _ ?_) | with_reducible (refine (foldl_mem _ _ _ ?_).trans ?_) | with_reducible (refine (foldl_pair_mem _ _ _ ?_).trans ?_) | simp only [Out.all_next, Out.all_fault, Out.all_refused, State.modThread_mem] | split)

theorem State.imageWord_wf (s : State) (k off : Nat) (f : Nat → Nat) (hs : Memory.wf s.mem = true) : Memory.wf (s.imageWord k off f).1.mem = true := by
  unfold State.imageWord
  dsimp only
  split
  · exact State.resolve_wf _ _ _ _ hs
  · exact State.writeTarget_wf _ _ _ _ _ _ (State.readTarget_wf _ _ _ _ _ (State.resolve_wf _ _ _ _ hs))

theorem State.keepProgress_wf (s : State) (k : Nat) (hs : Memory.wf s.mem = true) : Memory.wf (s.keepProgress k).mem = true := by
  unfold State.keepProgress
  split
  · exact State.imageWord_wf _ _ _ _ (State.imageWord_wf _ _ _ _ hs)
  · exact hs

theorem State.takeProgress_wf (s : State) (k : Nat) (hs : Memory.wf s.mem = true) : Memory.wf (s.takeProgress k).mem = true :=
  State.imageWord_wf s k 96 _ hs

theorem State.resumeWait_wf (s : State) (k : Nat) (hs : Memory.wf s.mem = true) : Memory.wf (s.resumeWait k).mem = true := by
  unfold State.resumeWait
  try dsimp only
  repeat' (first | with_reducible (assumption) | with_reducible (apply State.takeProgress_wf) | simp only [State.modThread_mem, State.setGprOf_mem, State.release_mem] | split)

theorem State.restoreThread_wf (s : State) (k : Nat) (hs : Memory.wf s.mem = true) :
    Memory.wf (State.restoreThread s k).mem = true := by
  unfold State.restoreThread
  try dsimp only
  repeat' (first | with_reducible (assumption) | with_reducible (apply State.resumeWait_wf) | with_reducible (apply State.threadNotice_wf) | with_reducible (apply State.endThread_wf) | simp only [Out.all_next, Out.all_fault, Out.all_refused, State.modThread_mem, State.setThread_mem] | split)

theorem execLoadReturn_mem (s : State) :
    Out.All (fun t => t.mem = s.mem) (execLoadReturn s) := by
  unfold execLoadReturn
  try dsimp only
  repeat' (first | simp only [Out.all_next, Out.all_fault, Out.all_refused, State.modThread_mem, State.setGprOf_mem] | split)

theorem execDividerDone_mem (s : State) :
    Out.All (fun t => t.mem = s.mem) (execDividerDone s) := by
  unfold execDividerDone
  try dsimp only
  repeat' (first | simp only [Out.all_next, Out.all_fault, Out.all_refused, State.modCore_mem, State.setGprOf_mem] | split)

theorem execStoreBufferDrain_wf (s : State) (hs : Memory.wf s.mem = true) :
    Out.All (fun t => Memory.wf t.mem = true) (execStoreBufferDrain s) := by
  unfold execStoreBufferDrain
  try dsimp only
  repeat' (first | with_reducible (assumption) | with_reducible (apply State.performStore_wf) | simp only [Out.all_next, Out.all_fault, Out.all_refused, State.modCore_mem] | split)

theorem execWaitWake_wf (s : State) (hs : Memory.wf s.mem = true) :
    Out.All (fun t => Memory.wf t.mem = true) (execWaitWake s) := by
  unfold execWaitWake
  try dsimp only
  repeat' (first | with_reducible (assumption) | with_reducible (apply waitAgain_wf) | simp only [Out.all_next, Out.all_fault, Out.all_refused] | split)

theorem execWaitTimeout_wf (s : State) (hs : Memory.wf s.mem = true) :
    Out.All (fun t => Memory.wf t.mem = true) (execWaitTimeout s) := by
  unfold execWaitTimeout
  try dsimp only
  repeat' (first | with_reducible (assumption) | with_reducible (apply State.trapAt_wf) | with_reducible (apply State.resolve_wf) | with_reducible (apply State.trapThread_wf) | with_reducible (apply State.readTarget_wf) | simp only [Out.all_next, Out.all_fault, Out.all_refused, State.postAsync_mem, State.modThread_mem, State.setGprOf_mem] | split)

theorem execPauseExpiry_mem (s : State) :
    Out.All (fun t => t.mem = s.mem) (execPauseExpiry s) := by
  unfold execPauseExpiry
  try dsimp only
  repeat' (first | simp only [Out.all_next, Out.all_fault, Out.all_refused, State.setThread_mem] | split)

theorem execHoldExpiry_mem (s : State) :
    Out.All (fun t => t.mem = s.mem) (execHoldExpiry s) := by
  unfold execHoldExpiry
  try dsimp only
  repeat' (first | simp only [Out.all_next, Out.all_fault, Out.all_refused, State.modThread_mem] | split)

theorem State.takeAsync_wf (s : State) (k : Nat) (hs : Memory.wf s.mem = true) :
    Memory.wf (State.takeAsync s k).mem = true := by
  unfold State.takeAsync
  try dsimp only
  repeat' (first | with_reducible (assumption) | with_reducible (apply State.trapThread_wf) | simp only [Out.all_next, Out.all_fault, Out.all_refused, State.setThread_mem] | split)

theorem execAsyncTrapEntry_wf (s : State) (hs : Memory.wf s.mem = true) :
    Out.All (fun t => Memory.wf t.mem = true) (execAsyncTrapEntry s) := by
  unfold execAsyncTrapEntry
  try dsimp only
  repeat' (first | with_reducible (assumption) | with_reducible (apply State.takeAsync_wf) | simp only [Out.all_next, Out.all_fault, Out.all_refused] | split)

@[simp] theorem State.drawFree_mem (s : State) :
    ((State.drawFree s).2).mem = s.mem :=
  rfl

theorem execUnassignedHeadlandWord_wf (s : State) (hs : Memory.wf s.mem = true) :
    Out.All (fun t => Memory.wf t.mem = true) (execUnassignedHeadlandWord s) := by
  apply State.raiseIllegal_wf; exact hs

theorem fetchTarget_wf (s : State) (k : Nat) (hs : Memory.wf s.mem = true) :
    Memory.wf ((fetchTarget s k).1).mem = true := by
  unfold fetchTarget
  try dsimp only
  repeat' (first | with_reducible (assumption) | with_reducible (apply State.resolve_wf) | split)

theorem execFetchFault_wf (s : State) (hs : Memory.wf s.mem = true) :
    Out.All (fun t => Memory.wf t.mem = true) (execFetchFault s) := by
  unfold execFetchFault
  try dsimp only
  repeat' (first | with_reducible (assumption) | with_reducible (apply fetchTarget_wf) | with_reducible (apply State.raise_wf) | simp only [Out.all_next, Out.all_fault, Out.all_refused] | split)

theorem execUcPageReread_wf (s : State) (hs : Memory.wf s.mem = true) :
    Out.All (fun t => Memory.wf t.mem = true) (execUcPageReread s) := by
  unfold execUcPageReread
  try dsimp only
  repeat' (first | with_reducible (assumption) | with_reducible (apply waitAgain_wf) | simp only [Out.all_next, Out.all_fault, Out.all_refused] | split)

end Sys2Proof.Machine
end

