-- ==== Sys2Proof/Laws/MemFabric.lean ====
section
/-! SUPPORT. Memory under the operations and meanings of the fabric: each leaves memory as it is, or keeps its canonical form. -/

namespace Sys2Proof.Machine

theorem execInj_wf (d : Reg) (a : Reg) (b : Reg) (s : State) (hs : Memory.wf s.mem = true) :
    Out.All (fun t => Memory.wf t.mem = true) (execInj d a b s) := by
  unfold execInj
  try dsimp only
  repeat' (first | with_reducible (assumption) | with_reducible (apply State.trapThread_wf) | simp only [Out.all_next, Out.all_fault, Out.all_refused, State.modMe_mem, State.advance_mem, State.modCorePlace_mem] | split)

theorem execRecv_mem (d : Reg) (s : State) :
    Out.All (fun t => t.mem = s.mem) (execRecv d s) := by
  unfold execRecv
  try dsimp only
  repeat' (first | with_reducible (refine Out.All.mem_trans (State.finish_mem ..) ?_) | simp only [Out.all_next, Out.all_fault, Out.all_refused, State.modCorePlace_mem, State.modMe_mem] | split)

@[simp] theorem State.setColour_mem (s : State) (p : Nat) (c : Nat) (x : ColourSt) :
    (State.setColour s p c x).mem = s.mem :=
  rfl

set_option maxRecDepth 8000 in
theorem execCtxa_wf (d : Reg) (a : Reg) (s : State) (hs : Memory.wf s.mem = true) :
    Out.All (fun t => Memory.wf t.mem = true) (execCtxa d a s) := by
  unfold execCtxa
  try dsimp only
  repeat' (first | with_reducible (assumption) | with_reducible (refine Out.All.mem_wf (State.finish_mem ..) ?_) | simp only [Out.all_next, Out.all_fault, Out.all_refused, State.setColour_mem] | split)

@[simp] theorem State.settleColour_mem (s : State) (p : Nat) (c : Nat) :
    (State.settleColour s p c).mem = s.mem := by
  unfold State.settleColour
  try dsimp only
  repeat' (first | simp only [Out.all_next, Out.all_fault, Out.all_refused, State.setColour_mem] | split)

theorem State.raiseFabric_wf (s : State) (word : Word32) (code : Nat) (f2 operand : Word) (hs : Memory.wf s.mem = true) :
    Out.All (fun t => Memory.wf t.mem = true) (s.raiseFabric word code f2 operand) :=
  State.trapThread_wf _ _ _ _ _ _ _ hs

theorem execCtxf_wf (a : Reg) (s : State) (hs : Memory.wf s.mem = true) :
    Out.All (fun t => Memory.wf t.mem = true) (execCtxf a s) := by
  unfold execCtxf
  try dsimp only
  repeat' (first | with_reducible (assumption) | with_reducible (apply State.raiseFabric_wf) | simp only [Out.all_next, Out.all_fault, Out.all_refused, State.advance_mem, State.settleColour_mem, State.setColour_mem] | split)

@[simp] theorem State.modElem_mem (s : State) (k : Nat) (f : ElemSt → ElemSt) : (s.modElem k f).mem = s.mem := rfl
@[simp] theorem loadShadow_mem (s : State) (tenant : Nat) (w : Word) (recs : List Nat) :
    (loadShadow s tenant w recs).mem = s.mem := by
  unfold loadShadow
  try dsimp only
  repeat' (first | with_reducible (assumption) | with_reducible (rfl) | with_reducible (exact True.intro) | with_reducible (intro _) | with_reducible (intro _ _ _) | with_reducible (refine foldl_mem _ _ _ ?_) | with_reducible (refine (foldl_mem _ _ _ ?_).trans ?_) | with_reducible (refine (foldl_pair_mem _ _ _ ?_).trans ?_) | simp only [Out.all_next, Out.all_fault, Out.all_refused, State.modElem_mem])

@[simp] theorem holdSow_mem (s : State) (k : Nat) (w : Word) (run : RunState) (word : Word32) : (holdSow s k w run word).mem = s.mem := rfl

theorem execSow_wf (d : Reg) (a : Reg) (b : Reg) (s : State) (hs : Memory.wf s.mem = true) :
    Out.All (fun t => Memory.wf t.mem = true) (execSow d a b s) := by
  unfold execSow
  try dsimp only
  repeat' (first | with_reducible (assumption) | with_reducible (apply State.raise_wf) | with_reducible (refine Out.All.mem_wf (State.finish_mem ..) ?_) | simp only [Out.all_next, Out.all_fault, Out.all_refused, State.modMe_mem, loadShadow_mem, holdSow_mem] | split)

theorem execSwap_mem (d : Reg) (a : Reg) (s : State) :
    Out.All (fun t => t.mem = s.mem) (execSwap d a s) := by
  unfold execSwap
  try dsimp only
  repeat' (first | with_reducible (refine Out.All.mem_trans (State.finish_mem ..) ?_) | simp only [Out.all_next, Out.all_fault, Out.all_refused, State.modMe_mem] | split)

theorem execFallow_mem (lvl : FallowLevel) (d : Reg) (a : Reg) (s : State) :
    Out.All (fun t => t.mem = s.mem) (execFallow lvl d a s) := by
  unfold execFallow; dsimp only; (repeat' split) <;> exact State.finish_mem ..

@[simp] theorem State.refuseFeed_mem (s : State) (n : Nat) (plot : Nat) (rank : Nat) (j : Nat) :
    (State.refuseFeed s n plot rank j).mem = s.mem := by
  unfold State.refuseFeed
  try dsimp only
  repeat' (first | with_reducible (assumption) | with_reducible (rfl) | with_reducible (exact True.intro) | with_reducible (intro _) | with_reducible (intro _ _ _) | with_reducible (refine foldl_mem _ _ _ ?_) | with_reducible (refine (foldl_mem _ _ _ ?_).trans ?_) | with_reducible (refine (foldl_pair_mem _ _ _ ?_).trans ?_) | simp only [Out.all_next, Out.all_fault, Out.all_refused, State.settleColour_mem] | split)

@[simp] theorem State.dropFeed_mem (s : State) (n : Nat) (plot : Nat) (rank : Nat) :
    (State.dropFeed s n plot rank).mem = s.mem := by
  unfold State.dropFeed; (repeat' split) <;> simp

@[simp] theorem State.modField_mem (s : State) (k : Nat) (f : FieldSt → FieldSt) : (s.modField k f).mem = s.mem := rfl
@[simp] theorem State.rewriteFault_mem (s : State) (k : Nat) (code : Nat) (old : FaultRec) (new : FaultRec) :
    (State.rewriteFault s k code old new).mem = s.mem := by
  unfold State.rewriteFault; (repeat' split) <;> simp

@[simp] theorem State.addMulti_mem (s : State) (k : Nat) (code : Nat) (r : FaultRec) :
    (State.addMulti s k code r).mem = s.mem := by
  unfold State.addMulti; (repeat' split) <;> simp

@[simp] theorem State.faultHalt_mem (s : State) (e : Nat) (slot : Nat) (pos : Nat) (code : Nat) (tag : Tag) (op : Word) (held : List StoreTok) :
    (State.faultHalt s e slot pos code tag op held).mem = s.mem := by
  unfold State.faultHalt
  dsimp only
  repeat' (first | simp only [State.modElem_mem, State.addMulti_mem, State.setField_mem] | split)

theorem State.faultHalt_wf (s : State) (e : Nat) (slot : Nat) (pos : Nat) (code : Nat) (tag : Tag) (op : Word) (held : List StoreTok) (hs : Memory.wf s.mem = true) :
    Memory.wf (State.faultHalt s e slot pos code tag op held).mem = true := by simpa using hs

theorem State.postFault_wf (s : State) (k : Nat) (hs : Memory.wf s.mem = true) : Memory.wf (State.postFault s k).mem = true := by
  unfold State.postFault
  dsimp only
  repeat' (first | with_reducible (assumption) | with_reducible (apply State.notice_wf) | simp only [State.setField_mem, State.postAsync_mem] | split)

theorem State.postFaults_wf (s : State) (hs : Memory.wf s.mem = true) : Memory.wf (State.postFaults s).mem = true := by
  unfold State.postFaults
  exact foldl_wf _ _ _ (fun _ _ h => State.postFault_wf _ _ h) hs

@[simp] theorem State.combine_mem (s : State) (e : Nat) (slot : Nat) (f : SlotFields) (t : Token) (stamp : Nat) :
    (State.combine s e slot f t stamp).mem = s.mem :=
  rfl

@[simp] theorem State.openLoop_mem (s : State) (e : Nat) (slot : Nat) (pos : Nat) (t : Token) (stamp : Nat) :
    (State.openLoop s e slot pos t stamp).mem = s.mem := by
  unfold State.openLoop
  try dsimp only
  repeat' (first | simp only [Out.all_next, Out.all_fault, Out.all_refused, State.modElem_mem] | split)

@[simp] theorem State.accept_mem (s : State) (e : Nat) (slot : Nat) (pos : Nat) (t : Token) (stamp : Nat) (retry : Bool) :
    (State.accept s e slot pos t stamp retry).mem = s.mem := by
  unfold State.accept
  try dsimp only
  repeat' (first | simp only [State.faultHalt_mem, State.modElem_mem, State.combine_mem, State.openLoop_mem] | split)

theorem State.accept_wf (s : State) (e : Nat) (slot : Nat) (pos : Nat) (t : Token) (stamp : Nat) (retry : Bool) (hs : Memory.wf s.mem = true) :
    Memory.wf (State.accept s e slot pos t stamp retry).mem = true := by simpa using hs

@[simp] theorem State.askReload_mem (s : State) (e : Nat) (r : Option Nat) : (State.askReload s e r).mem = s.mem := by
  unfold State.askReload; split <;> simp

theorem State.feedArrive_wf (s : State) (k : Nat) (f : FlightSt) (n : Nat) (plot : Nat) (rank : Nat) (j : Nat) (hs : Memory.wf s.mem = true) :
    Memory.wf (State.feedArrive s k f n plot rank j).mem = true := by
  unfold State.feedArrive
  try dsimp only
  repeat' (first | with_reducible (assumption) | with_reducible (apply State.accept_wf) | simp only [Out.all_next, Out.all_fault, Out.all_refused, State.refuseFeed_mem, State.dropFeed_mem, State.settleColour_mem] | split)

@[simp] theorem State.settleColours_mem (s : State) (p : Nat) (cs : List Nat) :
    (State.settleColours s p cs).mem = s.mem := by
  unfold State.settleColours
  try dsimp only
  repeat' (first | with_reducible (assumption) | with_reducible (rfl) | with_reducible (exact True.intro) | with_reducible (intro _) | with_reducible (intro _ _ _) | with_reducible (refine foldl_mem _ _ _ ?_) | with_reducible (refine (foldl_mem _ _ _ ?_).trans ?_) | with_reducible (refine (foldl_pair_mem _ _ _ ?_).trans ?_) | simp only [Out.all_next, Out.all_fault, Out.all_refused, State.settleColour_mem])

@[simp] theorem State.noteFull_mem (s : State) (e : Nat) :
    (State.noteFull s e).mem = s.mem := by
  unfold State.noteFull; (repeat' split) <;> simp

@[simp] theorem loopClose_mem (s : State) (e : Nat) (slot : Nat) (key : Tag) :
    (loopClose s e slot key).mem = s.mem := by
  unfold loopClose
  try dsimp only
  repeat' (first | simp only [Out.all_next, Out.all_fault, Out.all_refused, State.modElem_mem] | split)

@[simp] theorem State.destroy_mem (s : State) (e : Nat) (f : ReapSt) :
    (State.destroy s e f).mem = s.mem := by
  unfold State.destroy
  try dsimp only
  repeat' (first | with_reducible (assumption) | with_reducible (rfl) | with_reducible (exact True.intro) | with_reducible (intro _) | with_reducible (intro _ _ _) | with_reducible (refine foldl_mem _ _ _ ?_) | with_reducible (refine (foldl_mem _ _ _ ?_).trans ?_) | with_reducible (refine (foldl_pair_mem _ _ _ ?_).trans ?_) | simp only [Out.all_next, Out.all_fault, Out.all_refused, State.settleColours_mem, State.noteFull_mem, State.modElem_mem, loopClose_mem] | split)

@[simp] theorem State.takeReap_mem (s : State) (e : Nat) (t : Token) :
    (State.takeReap s e t).mem = s.mem := by
  unfold State.takeReap
  simp only [State.settleColour_mem, State.modElem_mem, State.destroy_mem]

theorem State.spillTok_wf (s : State) (e : Nat) (r : Nat) (t : Spillable) (hs : Memory.wf s.mem = true) :
    Memory.wf (State.spillTok s e r t).mem = true := by
  unfold State.spillTok
  try dsimp only
  repeat' (first | with_reducible (assumption) | with_reducible (apply Memory.wf_write) | simp only [Out.all_next, Out.all_fault, Out.all_refused, State.noteFull_mem, State.modElem_mem])

@[simp] theorem State.landed_mem (s : State) (k : Nat) (f : FlightSt) :
    (State.landed s k f).mem = s.mem := by
  unfold State.landed
  try dsimp only
  repeat' (first | with_reducible (assumption) | with_reducible (rfl) | with_reducible (exact True.intro) | with_reducible (intro _) | with_reducible (intro _ _ _) | with_reducible (refine foldl_mem _ _ _ ?_) | with_reducible (refine (foldl_mem _ _ _ ?_).trans ?_) | with_reducible (refine (foldl_pair_mem _ _ _ ?_).trans ?_) | simp only [Out.all_next, Out.all_fault, Out.all_refused, State.retryWaiters_mem] | split)

theorem State.settleOne_wf (s : State) (k : Nat) (f : FlightSt) (hs : Memory.wf s.mem = true) :
    Memory.wf (State.settleOne s k f).mem = true := by
  unfold State.settleOne
  try dsimp only
  repeat' (first | with_reducible (assumption) | with_reducible (apply State.feedArrive_wf) | with_reducible (apply State.accept_wf) | with_reducible (apply State.spillTok_wf) | simp only [Out.all_next, Out.all_fault, Out.all_refused, State.landed_mem, State.takeReap_mem, State.settleColour_mem] | split)

theorem State.settle_wf (s : State) (inSet : Nat → Bool) (hs : Memory.wf s.mem = true) :
    Memory.wf (State.settle s inSet).mem = true := by
  unfold State.settle
  try dsimp only
  repeat' (first | with_reducible (assumption) | with_reducible (exact True.intro) | with_reducible (intro _) | with_reducible (intro _ _ _) | with_reducible (apply State.settleOne_wf) | with_reducible (refine ite_wf ?_ ?_) | with_reducible (refine foldl_wf _ _ _ ?_ ?_))

@[simp] theorem State.unreport_mem (s : State) (e : Nat) :
    (State.unreport s e).mem = s.mem := by
  unfold State.unreport; (repeat' split) <;> simp

@[simp] theorem State.launch_mem (s : State) (f : FlightSt) :
    (State.launch s f).mem = s.mem := by
  unfold State.launch; (repeat' split) <;> simp

@[simp] theorem State.send_mem (s : State) (e : Nat) (slot : Nat) (code : Nat) (t : Token) (ready : Nat) :
    (State.send s e slot code t ready).mem = s.mem := by
  unfold State.send
  try dsimp only
  repeat' (first | simp only [Out.all_next, Out.all_fault, Out.all_refused, State.launch_mem, State.unreport_mem, State.modElem_mem] | split)

@[simp] theorem State.mailTake_mem (s : State) (e : Nat) (o : OutTok) (c pl : Nat) :
    (State.mailTake s e o c pl).mem = s.mem := by
  unfold State.mailTake
  try dsimp only
  repeat' (first | with_reducible (assumption) | with_reducible (rfl) | with_reducible (exact True.intro) | with_reducible (intro _) | with_reducible (intro _ _ _) | with_reducible (refine foldl_mem _ _ _ ?_) | with_reducible (refine (foldl_mem _ _ _ ?_).trans ?_) | with_reducible (refine (foldl_pair_mem _ _ _ ?_).trans ?_) | simp only [Out.all_next, Out.all_fault, Out.all_refused, State.modElem_mem, State.release_mem, State.modCorePlace_mem, State.send_mem, State.settleColour_mem] | split)

@[simp] theorem State.takeMail_mem (s : State) (e n : Nat) : (State.takeMail s e n).mem = s.mem := by
  induction n generalizing s with
  | zero => rfl
  | succ n ih =>
    unfold State.takeMail
    split
    · exact (ih _).trans (by simp)
    · rfl

@[simp] theorem State.settleMail_mem (s : State) (es : List Nat) : (State.settleMail s es).mem = s.mem := by
  unfold State.settleMail
  exact foldl_mem _ _ _ fun _ _ => State.takeMail_mem _ _ _

theorem State.virtWrite_wf (s : State) (k va n v : Nat) (hs : Memory.wf s.mem = true) : Memory.wf (s.virtWrite k va n v).mem = true := by
  induction n generalizing s va v with
  | zero => exact hs
  | succ n ih =>
    unfold State.virtWrite
    dsimp only
    apply ih
    have h := State.resolve_wf s k (wd va) .store hs
    split
    · exact State.writeTarget_wf _ _ _ _ _ _ h
    · exact h

theorem writeImage_wf (s : State) (va : Nat) (w : Word) (f : FieldSt) (hs : Memory.wf s.mem = true) :
    Memory.wf (writeImage s va w f).mem = true := by
  unfold writeImage
  try dsimp only
  repeat' (first | with_reducible (assumption) | with_reducible (exact True.intro) | with_reducible (intro _) | with_reducible (intro _ _ _) | with_reducible (apply State.virtWrite_wf) | with_reducible (refine ite_wf ?_ ?_) | with_reducible (refine foldl_wf _ _ _ ?_ ?_) | with_reducible (refine foldl_pair_wf _ _ _ ?_ ?_) | simp only [Out.all_next, Out.all_fault, Out.all_refused, State.modElem_mem])

theorem imageWait_wf (s : State) (code : WaitCode) (d : Reg) (va w : Word) (settles : Bool) (word : Word32) (hs : Memory.wf s.mem = true) :
    Out.All (fun t => Memory.wf t.mem = true) (imageWait s code d va w settles word) := hs

theorem execHaltr_wf (d : Reg) (a : Reg) (s : State) (hs : Memory.wf s.mem = true) :
    Out.All (fun t => Memory.wf t.mem = true) (execHaltr d a s) := by
  unfold execHaltr
  try dsimp only
  repeat' (first | with_reducible (assumption) | with_reducible (apply imageWait_wf) | with_reducible (apply State.raise_wf) | with_reducible (refine Out.All.mem_wf (State.finish_mem ..) ?_) | with_reducible (apply State.postFault_wf) | with_reducible (apply State.settle_wf) | with_reducible (apply writeImage_wf) | simp only [Out.all_next, Out.all_fault, Out.all_refused, State.settleMail_mem, State.release_mem, State.modField_mem] | split)

theorem recombine_wf (s : State) (e : Nat) (hs : Memory.wf s.mem = true) :
    Memory.wf (recombine s e).mem = true := by
  unfold recombine
  try dsimp only
  repeat' (first | with_reducible (assumption) | with_reducible (exact True.intro) | with_reducible (intro _) | with_reducible (intro _ _ _) | with_reducible (apply State.accept_wf) | with_reducible (refine ite_wf ?_ ?_) | with_reducible (refine foldl_wf _ _ _ ?_ ?_) | with_reducible (refine foldl_pair_wf _ _ _ ?_ ?_) | simp only [Out.all_next, Out.all_fault, Out.all_refused, State.modElem_mem])

theorem restoreImage_wf (s : State) (w : Word) (k : Nat) (img : Nat × List Nat) (hs : Memory.wf s.mem = true) :
    Memory.wf (restoreImage s w k img).mem = true := by
  unfold restoreImage
  try dsimp only
  repeat' (first | with_reducible (assumption) | with_reducible (exact True.intro) | with_reducible (intro _) | with_reducible (intro _ _ _) | with_reducible (apply recombine_wf) | with_reducible (refine ite_wf ?_ ?_) | with_reducible (refine foldl_wf _ _ _ ?_ ?_) | with_reducible (refine foldl_pair_wf _ _ _ ?_ ?_) | simp only [Out.all_next, Out.all_fault, Out.all_refused, State.settleColours_mem, State.modElem_mem, State.modField_mem, State.modPart_mem, State.noteFull_mem])

theorem resumeImage_wf (s : State) (d : Reg) (va w : Word) (k : Nat) (hs : Memory.wf s.mem = true) :
    Out.All (fun t => Memory.wf t.mem = true) (resumeImage s d va w k) := by
  unfold resumeImage
  try dsimp only
  repeat' (first | with_reducible (assumption) | with_reducible (refine Out.All.mem_wf (State.finish_mem ..) ?_) | with_reducible (apply restoreImage_wf) | split)

theorem resumeField_wf (d a : Reg) (ends : Bool) (s : State) (hs : Memory.wf s.mem = true) :
    Out.All (fun t => Memory.wf t.mem = true) (resumeField d a ends s) := by
  unfold resumeField
  try dsimp only
  repeat' (first | with_reducible (assumption) | with_reducible (apply State.raise_wf) | with_reducible (refine Out.All.mem_wf (State.finish_mem ..) ?_) | with_reducible (apply resumeImage_wf) | with_reducible (apply imageWait_wf) | split)

theorem execResumer_wf (d : Reg) (a : Reg) (s : State) (hs : Memory.wf s.mem = true) :
    Out.All (fun t => Memory.wf t.mem = true) (execResumer d a s) := by
  unfold execResumer
  split
  · exact resumeField_wf _ _ _ _ (by simpa using hs)
  · exact resumeField_wf _ _ _ _ hs

theorem execEcfgw_mem (d : Reg) (a : Reg) (b : Reg) (s : State) :
    Out.All (fun t => t.mem = s.mem) (execEcfgw d a b s) := by
  unfold execEcfgw; dsimp only; (repeat' split) <;> exact State.finish_mem ..

theorem execEcfgr_mem (d : Reg) (a : Reg) (s : State) :
    Out.All (fun t => t.mem = s.mem) (execEcfgr d a s) := by
  unfold execEcfgr; dsimp only; (repeat' split) <;> exact State.finish_mem ..

theorem State.scratchWrite_wf (s : State) (a : Nat) (n : Nat) (v : Nat) (hs : Memory.wf s.mem = true) :
    Memory.wf (State.scratchWrite s a n v).mem = true := by
  apply Memory.wf_write; exact hs

theorem State.faultOp_wf (s : State) (g : Firing) (code : Nat) (pos : Nat) (op : Word) (hs : Memory.wf s.mem = true) :
    Out.All (fun t => Memory.wf t.mem = true) (State.faultOp s g code pos op) := by
  apply State.faultHalt_wf; exact hs

theorem State.fault_wf (s : State) (g : Firing) (code : Nat) (pos : Nat) (hs : Memory.wf s.mem = true) :
    Out.All (fun t => Memory.wf t.mem = true) (State.fault s g code pos) := by
  apply State.faultOp_wf; exact hs

@[simp] theorem State.leaveFrame_mem (s : State) (g : Firing) :
    (State.leaveFrame s g).mem = s.mem := by
  unfold State.leaveFrame
  try dsimp only
  repeat' (first | with_reducible (assumption) | with_reducible (rfl) | with_reducible (exact True.intro) | with_reducible (intro _) | with_reducible (intro _ _ _) | with_reducible (refine foldl_mem _ _ _ ?_) | with_reducible (refine (foldl_mem _ _ _ ?_).trans ?_) | with_reducible (refine (foldl_pair_mem _ _ _ ?_).trans ?_) | simp only [Out.all_next, Out.all_fault, Out.all_refused, State.setColour_mem] | split)

@[simp] theorem State.endFiring_mem (s : State) (g : Firing) (taken : List StoreTok) (sends : List (Nat × Token)) (lat : Nat) (hold : Nat) (flags : Nat) :
    (State.endFiring s g taken sends lat hold flags).mem = s.mem := by
  unfold State.endFiring
  try dsimp only
  repeat' (first | with_reducible (intro _) | with_reducible (refine (foldl_mem _ _ _ ?_).trans ?_) | simp only [Out.all_next, Out.all_fault, Out.all_refused, State.leaveFrame_mem, State.modElem_mem, State.modField_mem, State.send_mem, State.setColour_mem, State.settleColours_mem] | split)

theorem State.gateClosed_mem (s : State) (g : Firing) :
    Out.All (fun t => t.mem = s.mem) (State.gateClosed s g) := by
  simp [State.gateClosed]

theorem State.fire_wf (s : State) (op : Nat) (f : SlotFields) (act : Firing → Out) (hact : ∀ v0, Out.All (fun t => Memory.wf t.mem = true) (act v0)) (hs : Memory.wf s.mem = true) :
    Out.All (fun t => Memory.wf t.mem = true) (State.fire s op f act) := by
  unfold State.fire
  try dsimp only
  repeat' (first | with_reducible (assumption) | with_reducible (apply State.fault_wf) | with_reducible (refine Out.All.mem_wf (State.gateClosed_mem ..) ?_) | with_reducible (apply hact) | simp only [Out.all_next, Out.all_fault, Out.all_refused] | split)

theorem State.resultTag_mem (s : State) (g : Firing) (w : Nat) : ∀ t, s.resultTag g w = .ok t → t.1.mem = s.mem := by
  intro t h
  unfold State.resultTag at h
  dsimp only at h
  (repeat' split at h) <;> first | (cases h; done) | (cases h; rfl) | (cases h; simp)

theorem sendTokens_wf (s : State) (g : Firing) (width : Nat) (mk : Tag → List (Nat × Token)) (hs : Memory.wf s.mem = true) :
    Out.All (fun t => Memory.wf t.mem = true) (sendTokens s g width mk) := by
  unfold sendTokens
  try dsimp only
  repeat' (first | with_reducible (assumption) | with_reducible (refine wf_of_eq (State.resultTag_mem _ _ _ _ (by assumption)) ?_) | with_reducible (apply State.fault_wf) | simp only [Out.all_next, Out.all_fault, Out.all_refused, State.endFiring_mem] | split)

theorem sendToken_wf (s : State) (g : Firing) (t : Token) (to_ : List Nat) (hs : Memory.wf s.mem = true) :
    Out.All (fun t => Memory.wf t.mem = true) (sendToken s g t to_) := by
  apply sendTokens_wf; exact hs

theorem execCopy_wf (f : SlotFields) (s : State) (hs : Memory.wf s.mem = true) :
    Out.All (fun t => Memory.wf t.mem = true) (execCopy f s) := by
  unfold execCopy
  try dsimp only
  repeat' (first | with_reducible (assumption) | with_reducible (intro _) | with_reducible (apply State.fire_wf) | with_reducible (apply sendToken_wf))

theorem execSteer_wf (f : SlotFields) (s : State) (hs : Memory.wf s.mem = true) :
    Out.All (fun t => Memory.wf t.mem = true) (execSteer f s) := by
  unfold execSteer
  try dsimp only
  repeat' (first | with_reducible (assumption) | with_reducible (intro _) | with_reducible (apply State.fire_wf) | with_reducible (apply State.fault_wf) | with_reducible (apply sendToken_wf) | split)

theorem execMerge_wf (f : SlotFields) (s : State) (hs : Memory.wf s.mem = true) :
    Out.All (fun t => Memory.wf t.mem = true) (execMerge f s) := by
  unfold execMerge
  try dsimp only
  repeat' (first | with_reducible (assumption) | with_reducible (apply State.fault_wf) | with_reducible (apply sendToken_wf) | simp only [Out.all_next, Out.all_fault, Out.all_refused] | split)

theorem execGate_wf (f : SlotFields) (s : State) (hs : Memory.wf s.mem = true) :
    Out.All (fun t => Memory.wf t.mem = true) (execGate f s) := by
  unfold execGate
  try dsimp only
  repeat' (first | with_reducible (assumption) | with_reducible (intro _) | with_reducible (apply State.fire_wf) | with_reducible (apply sendToken_wf) | simp only [Out.all_next, Out.all_fault, Out.all_refused, State.endFiring_mem] | split)

theorem execSink_wf (f : SlotFields) (s : State) (hs : Memory.wf s.mem = true) :
    Out.All (fun t => Memory.wf t.mem = true) (execSink f s) := by
  unfold execSink
  try dsimp only
  repeat' (first | with_reducible (assumption) | with_reducible (intro _) | with_reducible (apply State.fire_wf) | simp only [Out.all_next, Out.all_fault, Out.all_refused, State.endFiring_mem])

theorem spread_wf (s : State) (g : Firing) (v : Nat) (hs : Memory.wf s.mem = true) :
    Out.All (fun t => Memory.wf t.mem = true) (spread s g v) := by
  unfold spread
  try dsimp only
  repeat' (first | with_reducible (assumption) | with_reducible (apply sendToken_wf) | split)

theorem execConst_wf (f : SlotFields) (s : State) (hs : Memory.wf s.mem = true) :
    Out.All (fun t => Memory.wf t.mem = true) (execConst f s) := by
  unfold execConst
  try dsimp only
  repeat' (first | with_reducible (assumption) | with_reducible (intro _) | with_reducible (apply State.fire_wf) | with_reducible (apply spread_wf))

theorem execIter_wf (f : SlotFields) (s : State) (hs : Memory.wf s.mem = true) :
    Out.All (fun t => Memory.wf t.mem = true) (execIter f s) := by
  unfold execIter
  try dsimp only
  repeat' (first | with_reducible (assumption) | with_reducible (intro _) | with_reducible (apply State.fire_wf) | with_reducible (apply State.fault_wf) | simp only [Out.all_next, Out.all_fault, Out.all_refused, State.endFiring_mem, State.modElem_mem] | split)

theorem execCount_wf (f : SlotFields) (s : State) (hs : Memory.wf s.mem = true) :
    Out.All (fun t => Memory.wf t.mem = true) (execCount f s) := by
  unfold execCount
  try dsimp only
  repeat' (first | with_reducible (assumption) | with_reducible (intro _) | with_reducible (apply State.fire_wf) | with_reducible (apply State.fault_wf) | with_reducible (apply sendTokens_wf) | split)

theorem execComb_wf (f : SlotFields) (s : State) (hs : Memory.wf s.mem = true) :
    Out.All (fun t => Memory.wf t.mem = true) (execComb f s) := by
  unfold execComb
  try dsimp only
  repeat' (first | with_reducible (assumption) | with_reducible (refine wf_of_eq (State.resultTag_mem _ _ _ _ (by assumption)) ?_) | with_reducible (apply State.fault_wf) | simp only [Out.all_next, Out.all_fault, Out.all_refused, State.modElem_mem, State.settleColour_mem, State.endFiring_mem] | split)

@[simp] theorem reapAll_mem (s : State) (e : Nat) (key : Tag) (last : Nat) (count : Nat) :
    (reapAll s e key last count).mem = s.mem := by
  unfold reapAll
  try dsimp only
  repeat' (first | with_reducible (assumption) | with_reducible (rfl) | with_reducible (exact True.intro) | with_reducible (intro _) | with_reducible (intro _ _ _) | with_reducible (refine foldl_mem _ _ _ ?_) | with_reducible (refine (foldl_mem _ _ _ ?_).trans ?_) | with_reducible (refine (foldl_pair_mem _ _ _ ?_).trans ?_) | simp only [Out.all_next, Out.all_fault, Out.all_refused, State.launch_mem])

theorem execReap_wf (f : SlotFields) (s : State) (hs : Memory.wf s.mem = true) :
    Out.All (fun t => Memory.wf t.mem = true) (execReap f s) := by
  unfold execReap
  try dsimp only
  repeat' (first | with_reducible (assumption) | with_reducible (intro _) | with_reducible (apply State.fire_wf) | with_reducible (apply State.fault_wf) | with_reducible (refine wf_of_eq (State.resultTag_mem _ _ _ _ (by assumption)) ?_) | simp only [Out.all_next, Out.all_fault, Out.all_refused, reapAll_mem, State.endFiring_mem] | split)

theorem execTagix_wf (f : SlotFields) (s : State) (hs : Memory.wf s.mem = true) :
    Out.All (fun t => Memory.wf t.mem = true) (execTagix f s) := by
  unfold execTagix
  try dsimp only
  repeat' (first | with_reducible (assumption) | with_reducible (intro _) | with_reducible (apply State.fire_wf) | with_reducible (apply spread_wf))

@[simp] theorem loopMod_mem (s : State) (e : Nat) (slot : Nat) (key : Tag) (k : LoopSt → LoopSt) :
    (loopMod s e slot key k).mem = s.mem :=
  rfl

theorem execLoop_wf (f : SlotFields) (s : State) (hs : Memory.wf s.mem = true) :
    Out.All (fun t => Memory.wf t.mem = true) (execLoop f s) := by
  unfold execLoop
  try dsimp only
  repeat' (first | with_reducible (assumption) | with_reducible (intro _) | with_reducible (apply State.fault_wf) | with_reducible (refine wf_of_eq (State.resultTag_mem _ _ _ _ (by assumption)) ?_) | simp only [Out.all_next, Out.all_fault, Out.all_refused, loopClose_mem, loopMod_mem, State.endFiring_mem] | split)

theorem execEos_wf (f : SlotFields) (s : State) (hs : Memory.wf s.mem = true) :
    Out.All (fun t => Memory.wf t.mem = true) (execEos f s) := by
  unfold execEos
  try dsimp only
  repeat' (first | with_reducible (assumption) | with_reducible (intro _) | with_reducible (apply State.fire_wf) | with_reducible (apply sendToken_wf))

theorem execMail_wf (f : SlotFields) (s : State) (hs : Memory.wf s.mem = true) :
    Out.All (fun t => Memory.wf t.mem = true) (execMail f s) := by
  unfold execMail
  try dsimp only
  repeat' (first | with_reducible (assumption) | with_reducible (intro _) | with_reducible (apply State.fire_wf) | with_reducible (refine wf_of_eq (State.resultTag_mem _ _ _ _ (by assumption)) ?_) | with_reducible (apply State.fault_wf) | simp only [Out.all_next, Out.all_fault, Out.all_refused, State.endFiring_mem, State.send_mem] | split)

theorem execOrd_wf (f : SlotFields) (s : State) (hs : Memory.wf s.mem = true) :
    Out.All (fun t => Memory.wf t.mem = true) (execOrd f s) := by
  unfold execOrd
  try dsimp only
  repeat' (first | with_reducible (assumption) | with_reducible (intro _) | with_reducible (apply State.fire_wf) | with_reducible (refine wf_of_eq (State.resultTag_mem _ _ _ _ (by assumption)) ?_) | with_reducible (apply State.fault_wf) | simp only [Out.all_next, Out.all_fault, Out.all_refused, State.leaveFrame_mem, State.endFiring_mem, State.modElem_mem] | split)

theorem State.sendBoth_mem (s : State) (g : Firing) (t : Token) (lat : Nat) (hold : Nat) (flags : Nat) :
    Out.All (fun t => t.mem = s.mem) (State.sendBoth s g t lat hold flags) := by
  simp [State.sendBoth]

theorem State.sendResult_wf (s : State) (g : Firing) (kind : Nat) (valid : Nat) (width : Nat) (payload : Nat) (lat : Nat) (hold : Nat) (flags : Nat) (hs : Memory.wf s.mem = true) :
    Out.All (fun t => Memory.wf t.mem = true) (State.sendResult s g kind valid width payload lat hold flags) := by
  unfold State.sendResult
  try dsimp only
  repeat' (first | with_reducible (assumption) | with_reducible (refine wf_of_eq (State.resultTag_mem _ _ _ _ (by assumption)) ?_) | with_reducible (apply State.fault_wf) | with_reducible (refine Out.All.mem_wf (State.sendBoth_mem ..) ?_) | split)

theorem State.eosRule_wf (s : State) (g : Firing) (lat hold : Nat) (act : Firing → Out) (hact : ∀ v0, Out.All (fun t => Memory.wf t.mem = true) (act v0)) (hs : Memory.wf s.mem = true) :
    Out.All (fun t => Memory.wf t.mem = true) (State.eosRule s g lat hold act) := by
  unfold State.eosRule
  try dsimp only
  repeat' (first | with_reducible (assumption) | with_reducible (apply State.sendResult_wf) | with_reducible (apply State.fault_wf) | with_reducible (apply hact) | split)

theorem State.value_wf (s : State) (op : Nat) (f : SlotFields) (lat : Nat) (hold : Nat) (act : Firing → Out) (hact : ∀ v0, Out.All (fun t => Memory.wf t.mem = true) (act v0)) (hs : Memory.wf s.mem = true) :
    Out.All (fun t => Memory.wf t.mem = true) (State.value s op f lat hold act) := by
  unfold State.value
  try dsimp only
  repeat' (first | with_reducible (assumption) | with_reducible (apply State.eosRule_wf) | with_reducible (intro _) | with_reducible (apply State.fire_wf) | with_reducible (apply State.sendResult_wf) | with_reducible (apply State.fault_wf) | with_reducible (apply hact) | split)

theorem intLanes_wf (s : State) (op : Nat) (f : SlotFields) (kind : Nat) (k : Nat → Bool → Nat → Nat → Nat → Nat) (hs : Memory.wf s.mem = true) :
    Out.All (fun t => Memory.wf t.mem = true) (intLanes s op f kind k) := by
  unfold intLanes
  try dsimp only
  repeat' (first | with_reducible (assumption) | with_reducible (intro _) | with_reducible (apply State.value_wf) | with_reducible (apply State.sendResult_wf))

theorem execSlotAdd_wf (f : SlotFields) (s : State) (hs : Memory.wf s.mem = true) :
    Out.All (fun t => Memory.wf t.mem = true) (execSlotAdd f s) := by
  apply intLanes_wf; exact hs

theorem execSlotSub_wf (f : SlotFields) (s : State) (hs : Memory.wf s.mem = true) :
    Out.All (fun t => Memory.wf t.mem = true) (execSlotSub f s) := by
  apply intLanes_wf; exact hs

theorem execSlotMul_wf (f : SlotFields) (s : State) (hs : Memory.wf s.mem = true) :
    Out.All (fun t => Memory.wf t.mem = true) (execSlotMul f s) := by
  apply intLanes_wf; exact hs

theorem execSlotMulh_wf (f : SlotFields) (s : State) (hs : Memory.wf s.mem = true) :
    Out.All (fun t => Memory.wf t.mem = true) (execSlotMulh f s) := by
  apply intLanes_wf; exact hs

theorem execMad_wf (f : SlotFields) (s : State) (hs : Memory.wf s.mem = true) :
    Out.All (fun t => Memory.wf t.mem = true) (execMad f s) := by
  apply intLanes_wf; exact hs

theorem execSlotAnd_wf (f : SlotFields) (s : State) (hs : Memory.wf s.mem = true) :
    Out.All (fun t => Memory.wf t.mem = true) (execSlotAnd f s) := by
  apply intLanes_wf; exact hs

theorem execSlotOr_wf (f : SlotFields) (s : State) (hs : Memory.wf s.mem = true) :
    Out.All (fun t => Memory.wf t.mem = true) (execSlotOr f s) := by
  apply intLanes_wf; exact hs

theorem execSlotXor_wf (f : SlotFields) (s : State) (hs : Memory.wf s.mem = true) :
    Out.All (fun t => Memory.wf t.mem = true) (execSlotXor f s) := by
  apply intLanes_wf; exact hs

theorem execSlotAndn_wf (f : SlotFields) (s : State) (hs : Memory.wf s.mem = true) :
    Out.All (fun t => Memory.wf t.mem = true) (execSlotAndn f s) := by
  apply intLanes_wf; exact hs

theorem execSlotShl_wf (f : SlotFields) (s : State) (hs : Memory.wf s.mem = true) :
    Out.All (fun t => Memory.wf t.mem = true) (execSlotShl f s) := by
  apply intLanes_wf; exact hs

theorem execSlotShr_wf (f : SlotFields) (s : State) (hs : Memory.wf s.mem = true) :
    Out.All (fun t => Memory.wf t.mem = true) (execSlotShr f s) := by
  apply intLanes_wf; exact hs

theorem execSlotSar_wf (f : SlotFields) (s : State) (hs : Memory.wf s.mem = true) :
    Out.All (fun t => Memory.wf t.mem = true) (execSlotSar f s) := by
  apply intLanes_wf; exact hs

theorem execSlotMin_wf (f : SlotFields) (s : State) (hs : Memory.wf s.mem = true) :
    Out.All (fun t => Memory.wf t.mem = true) (execSlotMin f s) := by
  apply intLanes_wf; exact hs

theorem execSlotMax_wf (f : SlotFields) (s : State) (hs : Memory.wf s.mem = true) :
    Out.All (fun t => Memory.wf t.mem = true) (execSlotMax f s) := by
  apply intLanes_wf; exact hs

theorem execAbs_wf (f : SlotFields) (s : State) (hs : Memory.wf s.mem = true) :
    Out.All (fun t => Memory.wf t.mem = true) (execAbs f s) := by
  apply intLanes_wf; exact hs

theorem execNeg_wf (f : SlotFields) (s : State) (hs : Memory.wf s.mem = true) :
    Out.All (fun t => Memory.wf t.mem = true) (execNeg f s) := by
  apply intLanes_wf; exact hs

theorem execCmp_wf (f : SlotFields) (s : State) (hs : Memory.wf s.mem = true) :
    Out.All (fun t => Memory.wf t.mem = true) (execCmp f s) := by
  apply intLanes_wf; exact hs

theorem execSel_wf (f : SlotFields) (s : State) (hs : Memory.wf s.mem = true) :
    Out.All (fun t => Memory.wf t.mem = true) (execSel f s) := by
  apply intLanes_wf; exact hs

theorem execSlotClz_wf (f : SlotFields) (s : State) (hs : Memory.wf s.mem = true) :
    Out.All (fun t => Memory.wf t.mem = true) (execSlotClz f s) := by
  apply intLanes_wf; exact hs

theorem execSlotPopc_wf (f : SlotFields) (s : State) (hs : Memory.wf s.mem = true) :
    Out.All (fun t => Memory.wf t.mem = true) (execSlotPopc f s) := by
  apply intLanes_wf; exact hs

theorem execAdds_wf (f : SlotFields) (s : State) (hs : Memory.wf s.mem = true) :
    Out.All (fun t => Memory.wf t.mem = true) (execAdds f s) := by
  apply intLanes_wf; exact hs

theorem execSubs_wf (f : SlotFields) (s : State) (hs : Memory.wf s.mem = true) :
    Out.All (fun t => Memory.wf t.mem = true) (execSubs f s) := by
  apply intLanes_wf; exact hs

theorem execAvg_wf (f : SlotFields) (s : State) (hs : Memory.wf s.mem = true) :
    Out.All (fun t => Memory.wf t.mem = true) (execAvg f s) := by
  apply intLanes_wf; exact hs

theorem execDot4_wf (f : SlotFields) (s : State) (hs : Memory.wf s.mem = true) :
    Out.All (fun t => Memory.wf t.mem = true) (execDot4 f s) := by
  apply intLanes_wf; exact hs

theorem execBext_wf (f : SlotFields) (s : State) (hs : Memory.wf s.mem = true) :
    Out.All (fun t => Memory.wf t.mem = true) (execBext f s) := by
  apply intLanes_wf; exact hs

theorem execBins_wf (f : SlotFields) (s : State) (hs : Memory.wf s.mem = true) :
    Out.All (fun t => Memory.wf t.mem = true) (execBins f s) := by
  apply intLanes_wf; exact hs

theorem execRotl_wf (f : SlotFields) (s : State) (hs : Memory.wf s.mem = true) :
    Out.All (fun t => Memory.wf t.mem = true) (execRotl f s) := by
  apply intLanes_wf; exact hs

theorem execSatn_wf (f : SlotFields) (s : State) (hs : Memory.wf s.mem = true) :
    Out.All (fun t => Memory.wf t.mem = true) (execSatn f s) := by
  apply intLanes_wf; exact hs

theorem floatLanes_wf (s : State) (op : Nat) (f : SlotFields) (lat : Nat) (kind : Nat) (k : FloatFmt → Nat → Nat → Nat → Nat → FRes) (hs : Memory.wf s.mem = true) :
    Out.All (fun t => Memory.wf t.mem = true) (floatLanes s op f lat kind k) := by
  unfold floatLanes
  try dsimp only
  repeat' (first | with_reducible (assumption) | with_reducible (intro _) | with_reducible (apply State.value_wf) | with_reducible (apply State.sendResult_wf))

theorem execFadd_wf (f : SlotFields) (s : State) (hs : Memory.wf s.mem = true) :
    Out.All (fun t => Memory.wf t.mem = true) (execFadd f s) := by
  apply floatLanes_wf; exact hs

theorem execFsub_wf (f : SlotFields) (s : State) (hs : Memory.wf s.mem = true) :
    Out.All (fun t => Memory.wf t.mem = true) (execFsub f s) := by
  apply floatLanes_wf; exact hs

theorem execFmul_wf (f : SlotFields) (s : State) (hs : Memory.wf s.mem = true) :
    Out.All (fun t => Memory.wf t.mem = true) (execFmul f s) := by
  apply floatLanes_wf; exact hs

theorem execFfma_wf (f : SlotFields) (s : State) (hs : Memory.wf s.mem = true) :
    Out.All (fun t => Memory.wf t.mem = true) (execFfma f s) := by
  apply floatLanes_wf; exact hs

theorem execFmin_wf (f : SlotFields) (s : State) (hs : Memory.wf s.mem = true) :
    Out.All (fun t => Memory.wf t.mem = true) (execFmin f s) := by
  apply floatLanes_wf; exact hs

theorem execFmax_wf (f : SlotFields) (s : State) (hs : Memory.wf s.mem = true) :
    Out.All (fun t => Memory.wf t.mem = true) (execFmax f s) := by
  apply floatLanes_wf; exact hs

theorem execFabs_wf (f : SlotFields) (s : State) (hs : Memory.wf s.mem = true) :
    Out.All (fun t => Memory.wf t.mem = true) (execFabs f s) := by
  apply floatLanes_wf; exact hs

theorem execFneg_wf (f : SlotFields) (s : State) (hs : Memory.wf s.mem = true) :
    Out.All (fun t => Memory.wf t.mem = true) (execFneg f s) := by
  apply floatLanes_wf; exact hs

theorem execFcmp_wf (f : SlotFields) (s : State) (hs : Memory.wf s.mem = true) :
    Out.All (fun t => Memory.wf t.mem = true) (execFcmp f s) := by
  apply floatLanes_wf; exact hs

theorem execFclass_wf (f : SlotFields) (s : State) (hs : Memory.wf s.mem = true) :
    Out.All (fun t => Memory.wf t.mem = true) (execFclass f s) := by
  apply floatLanes_wf; exact hs

theorem execFrcp_wf (f : SlotFields) (s : State) (hs : Memory.wf s.mem = true) :
    Out.All (fun t => Memory.wf t.mem = true) (execFrcp f s) := by
  apply floatLanes_wf; exact hs

theorem execFrsq_wf (f : SlotFields) (s : State) (hs : Memory.wf s.mem = true) :
    Out.All (fun t => Memory.wf t.mem = true) (execFrsq f s) := by
  apply floatLanes_wf; exact hs

theorem execFsqrt_wf (f : SlotFields) (s : State) (hs : Memory.wf s.mem = true) :
    Out.All (fun t => Memory.wf t.mem = true) (execFsqrt f s) := by
  apply floatLanes_wf; exact hs

theorem execFexp2_wf (f : SlotFields) (s : State) (hs : Memory.wf s.mem = true) :
    Out.All (fun t => Memory.wf t.mem = true) (execFexp2 f s) := by
  apply floatLanes_wf; exact hs

theorem execFlog2_wf (f : SlotFields) (s : State) (hs : Memory.wf s.mem = true) :
    Out.All (fun t => Memory.wf t.mem = true) (execFlog2 f s) := by
  apply floatLanes_wf; exact hs

theorem execFtanh_wf (f : SlotFields) (s : State) (hs : Memory.wf s.mem = true) :
    Out.All (fun t => Memory.wf t.mem = true) (execFtanh f s) := by
  apply floatLanes_wf; exact hs

theorem execCvt_wf (f : SlotFields) (s : State) (hs : Memory.wf s.mem = true) :
    Out.All (fun t => Memory.wf t.mem = true) (execCvt f s) := by
  unfold execCvt
  try dsimp only
  repeat' (first | with_reducible (assumption) | with_reducible (intro _) | with_reducible (apply State.value_wf) | with_reducible (apply State.sendResult_wf))

theorem wideValue_wf (s : State) (op : Nat) (f : SlotFields) (act : Firing → Out) (hact : ∀ v0, Out.All (fun t => Memory.wf t.mem = true) (act v0)) (hs : Memory.wf s.mem = true) :
    Out.All (fun t => Memory.wf t.mem = true) (wideValue s op f act) := by
  unfold wideValue
  try dsimp only
  repeat' (first | with_reducible (assumption) | with_reducible (apply State.eosRule_wf) | with_reducible (intro _) | with_reducible (apply State.fire_wf) | with_reducible (apply State.sendResult_wf) | with_reducible (apply State.fault_wf) | with_reducible (apply hact) | split)

theorem execPackq_wf (f : SlotFields) (s : State) (hs : Memory.wf s.mem = true) :
    Out.All (fun t => Memory.wf t.mem = true) (execPackq f s) := by
  unfold execPackq
  try dsimp only
  repeat' (first | with_reducible (assumption) | with_reducible (intro _) | with_reducible (apply wideValue_wf) | with_reducible (apply State.sendResult_wf))

theorem execUnpackq_wf (f : SlotFields) (s : State) (hs : Memory.wf s.mem = true) :
    Out.All (fun t => Memory.wf t.mem = true) (execUnpackq f s) := by
  unfold execUnpackq
  try dsimp only
  repeat' (first | with_reducible (assumption) | with_reducible (intro _) | with_reducible (apply wideValue_wf) | with_reducible (apply State.sendResult_wf))

theorem execPlane_wf (f : SlotFields) (s : State) (hs : Memory.wf s.mem = true) :
    Out.All (fun t => Memory.wf t.mem = true) (execPlane f s) := by
  unfold execPlane
  try dsimp only
  repeat' (first | with_reducible (assumption) | with_reducible (intro _) | with_reducible (apply State.value_wf) | with_reducible (apply State.sendResult_wf))

theorem execHad_wf (f : SlotFields) (s : State) (hs : Memory.wf s.mem = true) :
    Out.All (fun t => Memory.wf t.mem = true) (execHad f s) := by
  unfold execHad
  try dsimp only
  repeat' (first | with_reducible (assumption) | with_reducible (intro _) | with_reducible (apply State.value_wf) | with_reducible (apply State.sendResult_wf))

theorem passTrigger_wf (s : State) (g : Firing) (lat : Nat) (hs : Memory.wf s.mem = true) :
    Out.All (fun t => Memory.wf t.mem = true) (passTrigger s g lat) := by
  unfold passTrigger
  try dsimp only
  repeat' (first | with_reducible (assumption) | with_reducible (apply State.sendResult_wf) | split)

theorem execSetfpc_wf (f : SlotFields) (s : State) (hs : Memory.wf s.mem = true) :
    Out.All (fun t => Memory.wf t.mem = true) (execSetfpc f s) := by
  unfold execSetfpc
  try dsimp only
  repeat' (first | with_reducible (assumption) | with_reducible (intro _) | with_reducible (apply State.fire_wf) | with_reducible (apply State.fault_wf) | with_reducible (apply passTrigger_wf) | simp only [Out.all_next, Out.all_fault, Out.all_refused, State.modElem_mem] | split)

theorem execGetfpf_wf (f : SlotFields) (s : State) (hs : Memory.wf s.mem = true) :
    Out.All (fun t => Memory.wf t.mem = true) (execGetfpf f s) := by
  unfold execGetfpf
  try dsimp only
  repeat' (first | with_reducible (assumption) | with_reducible (intro _) | with_reducible (apply State.fire_wf) | with_reducible (apply State.sendResult_wf) | simp only [Out.all_refused] | split)

theorem execClrfpf_wf (f : SlotFields) (s : State) (hs : Memory.wf s.mem = true) :
    Out.All (fun t => Memory.wf t.mem = true) (execClrfpf f s) := by
  unfold execClrfpf
  try dsimp only
  repeat' (first | with_reducible (assumption) | with_reducible (intro _) | with_reducible (apply State.fire_wf) | with_reducible (apply State.fault_wf) | with_reducible (apply passTrigger_wf) | simp only [Out.all_next, Out.all_fault, Out.all_refused, State.modElem_mem] | split)

theorem sendUnits_wf (s : State) (g : Firing) (f : SlotFields) (n : Nat) (lat : Nat) (hold : Nat) (k : Nat → Nat) (hs : Memory.wf s.mem = true) :
    Out.All (fun t => Memory.wf t.mem = true) (sendUnits s g f n lat hold k) := by
  apply State.sendResult_wf; exact hs

theorem execPerm_wf (f : SlotFields) (s : State) (hs : Memory.wf s.mem = true) :
    Out.All (fun t => Memory.wf t.mem = true) (execPerm f s) := by
  unfold execPerm
  try dsimp only
  repeat' (first | with_reducible (assumption) | with_reducible (intro _) | with_reducible (apply State.value_wf) | with_reducible (apply sendUnits_wf))

theorem execBfly_wf (f : SlotFields) (s : State) (hs : Memory.wf s.mem = true) :
    Out.All (fun t => Memory.wf t.mem = true) (execBfly f s) := by
  unfold execBfly
  try dsimp only
  repeat' (first | with_reducible (assumption) | with_reducible (intro _) | with_reducible (apply State.value_wf) | with_reducible (refine wf_of_eq (State.resultTag_mem _ _ _ _ (by assumption)) ?_) | with_reducible (apply State.fault_wf) | simp only [Out.all_next, Out.all_fault, Out.all_refused, State.endFiring_mem] | split)

theorem execRot_wf (f : SlotFields) (s : State) (hs : Memory.wf s.mem = true) :
    Out.All (fun t => Memory.wf t.mem = true) (execRot f s) := by
  unfold execRot
  try dsimp only
  repeat' (first | with_reducible (assumption) | with_reducible (intro _) | with_reducible (apply State.value_wf) | with_reducible (apply sendUnits_wf))

theorem execSlotBcast_wf (f : SlotFields) (s : State) (hs : Memory.wf s.mem = true) :
    Out.All (fun t => Memory.wf t.mem = true) (execSlotBcast f s) := by
  unfold execSlotBcast
  try dsimp only
  repeat' (first | with_reducible (assumption) | with_reducible (intro _) | with_reducible (apply State.value_wf) | with_reducible (apply sendUnits_wf))

theorem relabel_wf (s : State) (op : Nat) (f : SlotFields) (up : Bool) (hs : Memory.wf s.mem = true) :
    Out.All (fun t => Memory.wf t.mem = true) (relabel s op f up) := by
  unfold relabel
  try dsimp only
  repeat' (first | with_reducible (assumption) | with_reducible (intro _) | with_reducible (apply State.fire_wf) | with_reducible (apply State.fault_wf) | with_reducible (refine wf_of_eq (State.resultTag_mem _ _ _ _ (by assumption)) ?_) | with_reducible (refine Out.All.mem_wf (State.sendBoth_mem ..) ?_) | split)

theorem execJoin_wf (f : SlotFields) (s : State) (hs : Memory.wf s.mem = true) :
    Out.All (fun t => Memory.wf t.mem = true) (execJoin f s) := by
  apply relabel_wf; exact hs

theorem execSplit_wf (f : SlotFields) (s : State) (hs : Memory.wf s.mem = true) :
    Out.All (fun t => Memory.wf t.mem = true) (execSplit f s) := by
  apply relabel_wf; exact hs

theorem execRsum_wf (f : SlotFields) (s : State) (hs : Memory.wf s.mem = true) :
    Out.All (fun t => Memory.wf t.mem = true) (execRsum f s) := by
  unfold execRsum
  try dsimp only
  repeat' (first | with_reducible (assumption) | with_reducible (intro _) | with_reducible (apply State.value_wf) | with_reducible (apply State.sendResult_wf))

theorem reduceLanes_wf (s : State) (op : Nat) (f : SlotFields) (k : Firing → FRes → Nat → FRes) (hs : Memory.wf s.mem = true) :
    Out.All (fun t => Memory.wf t.mem = true) (reduceLanes s op f k) := by
  unfold reduceLanes
  try dsimp only
  repeat' (first | with_reducible (assumption) | with_reducible (intro _) | with_reducible (apply State.value_wf) | with_reducible (apply State.sendResult_wf) | split)

theorem execRmax_wf (f : SlotFields) (s : State) (hs : Memory.wf s.mem = true) :
    Out.All (fun t => Memory.wf t.mem = true) (execRmax f s) := by
  apply reduceLanes_wf; exact hs

theorem execRmin_wf (f : SlotFields) (s : State) (hs : Memory.wf s.mem = true) :
    Out.All (fun t => Memory.wf t.mem = true) (execRmin f s) := by
  apply reduceLanes_wf; exact hs

theorem execLaneix_wf (f : SlotFields) (s : State) (hs : Memory.wf s.mem = true) :
    Out.All (fun t => Memory.wf t.mem = true) (execLaneix f s) := by
  unfold execLaneix
  try dsimp only
  repeat' (first | with_reducible (assumption) | with_reducible (intro _) | with_reducible (apply State.value_wf) | with_reducible (apply sendUnits_wf))

theorem execFrsum_wf (f : SlotFields) (s : State) (hs : Memory.wf s.mem = true) :
    Out.All (fun t => Memory.wf t.mem = true) (execFrsum f s) := by
  unfold execFrsum
  try dsimp only
  repeat' (first | with_reducible (assumption) | with_reducible (intro _) | with_reducible (apply State.value_wf) | with_reducible (apply State.sendResult_wf))

theorem modular_wf (s : State) (op : Nat) (f : SlotFields) (lat : Nat) (k : Int → Int → Int → Int → Int × Int) (hs : Memory.wf s.mem = true) :
    Out.All (fun t => Memory.wf t.mem = true) (modular s op f lat k) := by
  unfold modular
  try dsimp only
  repeat' (first | with_reducible (assumption) | with_reducible (intro _) | with_reducible (apply State.value_wf) | with_reducible (apply State.faultOp_wf) | with_reducible (refine wf_of_eq (State.resultTag_mem _ _ _ _ (by assumption)) ?_) | with_reducible (apply State.fault_wf) | simp only [Out.all_next, Out.all_fault, Out.all_refused, State.endFiring_mem] | split)

theorem execMadd_wf (f : SlotFields) (s : State) (hs : Memory.wf s.mem = true) :
    Out.All (fun t => Memory.wf t.mem = true) (execMadd f s) := by
  apply modular_wf; exact hs

theorem execMsub_wf (f : SlotFields) (s : State) (hs : Memory.wf s.mem = true) :
    Out.All (fun t => Memory.wf t.mem = true) (execMsub f s) := by
  apply modular_wf; exact hs

theorem execMmul_wf (f : SlotFields) (s : State) (hs : Memory.wf s.mem = true) :
    Out.All (fun t => Memory.wf t.mem = true) (execMmul f s) := by
  apply modular_wf; exact hs

theorem execMmac_wf (f : SlotFields) (s : State) (hs : Memory.wf s.mem = true) :
    Out.All (fun t => Memory.wf t.mem = true) (execMmac f s) := by
  apply modular_wf; exact hs

theorem execMct_wf (f : SlotFields) (s : State) (hs : Memory.wf s.mem = true) :
    Out.All (fun t => Memory.wf t.mem = true) (execMct f s) := by
  apply modular_wf; exact hs

theorem execMgs_wf (f : SlotFields) (s : State) (hs : Memory.wf s.mem = true) :
    Out.All (fun t => Memory.wf t.mem = true) (execMgs f s) := by
  apply modular_wf; exact hs

theorem execMred_wf (f : SlotFields) (s : State) (hs : Memory.wf s.mem = true) :
    Out.All (fun t => Memory.wf t.mem = true) (execMred f s) := by
  apply modular_wf; exact hs

theorem execMneg_wf (f : SlotFields) (s : State) (hs : Memory.wf s.mem = true) :
    Out.All (fun t => Memory.wf t.mem = true) (execMneg f s) := by
  apply modular_wf; exact hs

@[simp] theorem State.setAcc_mem (s : State) (e : Nat) (m : Nat) (x : AccSt) :
    (State.setAcc s e m x).mem = s.mem :=
  rfl

theorem matrixFire_wf (s : State) (g : Firing) (taken : List StoreTok) (sum : Nat → Token → Token → Nat → Nat → FVal × Nat) (hs : Memory.wf s.mem = true) :
    Out.All (fun t => Memory.wf t.mem = true) (matrixFire s g taken sum) := by
  unfold matrixFire
  try dsimp only
  repeat' (first | with_reducible (assumption) | with_reducible (apply State.fault_wf) | simp only [Out.all_next, Out.all_fault, Out.all_refused, State.endFiring_mem, State.setAcc_mem, State.modElem_mem] | split)

theorem execMma_wf (f : SlotFields) (s : State) (hs : Memory.wf s.mem = true) :
    Out.All (fun t => Memory.wf t.mem = true) (execMma f s) := by
  unfold execMma
  try dsimp only
  repeat' (first | with_reducible (assumption) | with_reducible (intro _) | with_reducible (apply State.fire_wf) | with_reducible (apply matrixFire_wf) | simp only [Out.all_next, Out.all_fault, Out.all_refused] | split)

theorem execMmas_wf (f : SlotFields) (s : State) (hs : Memory.wf s.mem = true) :
    Out.All (fun t => Memory.wf t.mem = true) (execMmas f s) := by
  unfold execMmas
  try dsimp only
  repeat' (first | with_reducible (assumption) | with_reducible (apply State.fault_wf) | with_reducible (apply matrixFire_wf) | simp only [Out.all_next, Out.all_fault, Out.all_refused] | split)

theorem execAccrd_wf (f : SlotFields) (s : State) (hs : Memory.wf s.mem = true) :
    Out.All (fun t => Memory.wf t.mem = true) (execAccrd f s) := by
  unfold execAccrd
  try dsimp only
  repeat' (first | with_reducible (assumption) | with_reducible (intro _) | with_reducible (apply State.fire_wf) | with_reducible (apply State.fault_wf) | simp only [Out.all_next, Out.all_fault, Out.all_refused, State.endFiring_mem, State.modElem_mem] | split)

theorem execAccclr_wf (f : SlotFields) (s : State) (hs : Memory.wf s.mem = true) :
    Out.All (fun t => Memory.wf t.mem = true) (execAccclr f s) := by
  unfold execAccclr
  try dsimp only
  repeat' (first | with_reducible (assumption) | with_reducible (intro _) | with_reducible (apply State.fire_wf) | with_reducible (refine wf_of_eq (State.resultTag_mem _ _ _ _ (by assumption)) ?_) | with_reducible (apply State.fault_wf) | simp only [Out.all_next, Out.all_fault, Out.all_refused, State.setAcc_mem, State.endFiring_mem] | split)

set_option maxRecDepth 8000 in
theorem execCturn_wf (f : SlotFields) (s : State) (hs : Memory.wf s.mem = true) :
    Out.All (fun t => Memory.wf t.mem = true) (execCturn f s) := by
  unfold execCturn
  try dsimp only
  repeat' (first | with_reducible (assumption) | with_reducible (intro _) | with_reducible (apply Memory.wf_write) | with_reducible (apply State.fire_wf) | with_reducible (apply State.fault_wf) | simp only [Out.all_next, Out.all_fault, Out.all_refused, State.settleColour_mem, State.endFiring_mem, State.modElem_mem] | split)

theorem State.scratchFault_wf (s : State) (g : Firing) (acc : List (Nat × Nat × Bool)) (hs : Memory.wf s.mem = true) :
    ∀ o, s.scratchFault g acc = some o → Out.All (fun t => Memory.wf t.mem = true) o := by
  intro o h
  unfold State.scratchFault at h
  dsimp only at h
  split at h
  · rw [← Option.some.inj h]; exact State.fault_wf _ _ _ _ hs
  · split at h
    · rw [← Option.some.inj h]; exact State.faultOp_wf _ _ _ _ _ hs
    · exact nomatch h

theorem State.memSend_wf (s : State) (g : Firing) (st : State) (kind : Nat) (valid : Nat) (width : Nat) (payload : Nat) (lat : Nat) (flags : Nat) (hs : Memory.wf s.mem = true) (hst : Memory.wf st.mem = true) :
    Out.All (fun t => Memory.wf t.mem = true) (State.memSend s g st kind valid width payload lat flags) := by
  unfold State.memSend
  try dsimp only
  repeat' (first | with_reducible (assumption) | with_reducible (apply State.fault_wf) | with_reducible (apply State.sendResult_wf) | split)

@[simp] theorem State.memIssued_mem (s : State) (e : Nat) (port : Nat) (lat : Nat) :
    (State.memIssued s e port lat).mem = s.mem :=
  rfl

theorem execLds_wf (f : SlotFields) (s : State) (hs : Memory.wf s.mem = true) :
    Out.All (fun t => Memory.wf t.mem = true) (execLds f s) := by
  unfold execLds
  try dsimp only
  repeat' (first | with_reducible (assumption) | with_reducible (intro _) | with_reducible (apply State.value_wf) | with_reducible (refine State.scratchFault_wf _ _ _ ?_ _ (by assumption)) | with_reducible (apply State.memSend_wf) | simp only [Out.all_next, Out.all_fault, Out.all_refused, State.memIssued_mem] | split)

@[simp] theorem State.spoilBuffers_mem (s : State) (e : Nat) (a : Nat) (n : Nat) :
    (State.spoilBuffers s e a n).mem = s.mem := by
  unfold State.spoilBuffers
  try dsimp only
  repeat' (first | simp only [Out.all_next, Out.all_fault, Out.all_refused, State.modElem_mem] | split)

theorem State.sendArc_wf (s : State) (g : Firing) (st : State) (width : Nat) (lat : Nat) (hs : Memory.wf s.mem = true) (hst : Memory.wf st.mem = true) :
    Out.All (fun t => Memory.wf t.mem = true) (State.sendArc s g st width lat) := by
  unfold State.sendArc
  try dsimp only
  repeat' (first | with_reducible (assumption) | with_reducible (apply State.memSend_wf))

theorem execSts_wf (f : SlotFields) (s : State) (hs : Memory.wf s.mem = true) :
    Out.All (fun t => Memory.wf t.mem = true) (execSts f s) := by
  unfold execSts
  try dsimp only
  repeat' (first | with_reducible (assumption) | with_reducible (intro _) | with_reducible (apply State.value_wf) | with_reducible (refine State.scratchFault_wf _ _ _ ?_ _ (by assumption)) | with_reducible (apply State.scratchWrite_wf) | with_reducible (apply State.sendArc_wf) | with_reducible (refine foldl_wf _ _ _ ?_ ?_) | simp only [Out.all_next, Out.all_fault, Out.all_refused, State.spoilBuffers_mem, State.memIssued_mem] | split)

theorem execLdsv_wf (f : SlotFields) (s : State) (hs : Memory.wf s.mem = true) :
    Out.All (fun t => Memory.wf t.mem = true) (execLdsv f s) := by
  unfold execLdsv
  try dsimp only
  repeat' (first | with_reducible (assumption) | with_reducible (intro _) | with_reducible (apply State.value_wf) | with_reducible (refine State.scratchFault_wf _ _ _ ?_ _ (by assumption)) | with_reducible (apply State.memSend_wf) | simp only [Out.all_next, Out.all_fault, Out.all_refused, State.memIssued_mem] | split)

theorem execStsv_wf (f : SlotFields) (s : State) (hs : Memory.wf s.mem = true) :
    Out.All (fun t => Memory.wf t.mem = true) (execStsv f s) := by
  unfold execStsv
  try dsimp only
  repeat' (first | with_reducible (assumption) | with_reducible (intro _) | with_reducible (apply State.value_wf) | with_reducible (apply State.fault_wf) | with_reducible (apply State.faultOp_wf) | with_reducible (apply State.scratchWrite_wf) | with_reducible (apply State.sendArc_wf) | simp only [Out.all_next, Out.all_fault, Out.all_refused, State.spoilBuffers_mem, State.memIssued_mem] | split)

theorem atomUnits_wf (op : AtomOp) (w bytes : Nat) (at_ v : Nat → Nat) (bound : Nat) (keepHigh : Bool) (l : List Nat) (s : State)
    (hs : Memory.wf s.mem = true) : Memory.wf (atomUnits op w bytes at_ v bound keepHigh l s).1.mem = true := by
  induction l generalizing s with
  | nil => exact hs
  | cons i l ih => exact ih _ (State.scratchWrite_wf _ _ _ _ hs)

theorem execAtoms_wf (f : SlotFields) (s : State) (hs : Memory.wf s.mem = true) :
    Out.All (fun t => Memory.wf t.mem = true) (execAtoms f s) := by
  unfold execAtoms
  try dsimp only
  repeat' (first | with_reducible (assumption) | with_reducible (intro _) | with_reducible (apply State.value_wf) | with_reducible (refine State.scratchFault_wf _ _ _ ?_ _ (by assumption)) | with_reducible (apply atomUnits_wf) | with_reducible (apply State.memSend_wf) | simp only [Out.all_next, Out.all_fault, Out.all_refused, State.memIssued_mem] | split)

theorem execBufw_wf (f : SlotFields) (s : State) (hs : Memory.wf s.mem = true) :
    Out.All (fun t => Memory.wf t.mem = true) (execBufw f s) := by
  unfold execBufw
  try dsimp only
  repeat' (first | with_reducible (assumption) | with_reducible (intro _) | with_reducible (apply State.fire_wf) | with_reducible (apply State.memSend_wf) | with_reducible (refine State.scratchFault_wf _ _ _ ?_ _ (by assumption)) | with_reducible (apply State.scratchWrite_wf) | simp only [Out.all_next, Out.all_fault, Out.all_refused, State.modElem_mem, State.memIssued_mem] | split)

theorem execBufr_wf (f : SlotFields) (s : State) (hs : Memory.wf s.mem = true) :
    Out.All (fun t => Memory.wf t.mem = true) (execBufr f s) := by
  unfold execBufr
  try dsimp only
  repeat' (first | with_reducible (assumption) | with_reducible (intro _) | with_reducible (apply State.fire_wf) | with_reducible (apply State.memSend_wf) | with_reducible (refine State.scratchFault_wf _ _ _ ?_ _ (by assumption)) | simp only [Out.all_next, Out.all_fault, Out.all_refused, State.modElem_mem, State.memIssued_mem] | split)

theorem edgeOp_wf (s : State) (op : Nat) (f : SlotFields) (act : Firing → Nat → (Nat → Nat) → Out)
    (hact : ∀ g n k, Out.All (fun t => Memory.wf t.mem = true) (act g n k)) (hs : Memory.wf s.mem = true) :
    Out.All (fun t => Memory.wf t.mem = true) (edgeOp s op f act) := by
  unfold edgeOp
  dsimp only
  apply State.value_wf
  · intro g
    split
    · exact State.fault_wf _ _ _ _ hs
    · exact hact _ _ _
  · exact hs

theorem execEtas_wf (f : SlotFields) (s : State) (hs : Memory.wf s.mem = true) :
    Out.All (fun t => Memory.wf t.mem = true) (execEtas f s) := by
  unfold execEtas
  try dsimp only
  repeat' (first | with_reducible (assumption) | with_reducible (exact True.intro) | with_reducible (intro _) | with_reducible (intro _ _ _) | with_reducible (apply edgeOp_wf) | with_reducible (apply atomUnits_wf) | with_reducible (apply State.memSend_wf) | with_reducible (refine ite_wf ?_ ?_) | with_reducible (refine foldl_wf _ _ _ ?_ ?_) | with_reducible (refine foldl_pair_wf _ _ _ ?_ ?_) | simp only [Out.all_next, Out.all_fault, Out.all_refused, State.memIssued_mem] | split)

theorem execEtld_wf (f : SlotFields) (s : State) (hs : Memory.wf s.mem = true) :
    Out.All (fun t => Memory.wf t.mem = true) (execEtld f s) := by
  unfold execEtld
  try dsimp only
  repeat' (first | with_reducible (assumption) | with_reducible (exact True.intro) | with_reducible (intro _) | with_reducible (intro _ _ _) | with_reducible (apply edgeOp_wf) | with_reducible (apply State.memSend_wf) | with_reducible (refine ite_wf ?_ ?_) | with_reducible (refine foldl_wf _ _ _ ?_ ?_) | with_reducible (refine foldl_pair_wf _ _ _ ?_ ?_) | simp only [Out.all_next, Out.all_fault, Out.all_refused, State.memIssued_mem])

theorem execEtst_wf (f : SlotFields) (s : State) (hs : Memory.wf s.mem = true) :
    Out.All (fun t => Memory.wf t.mem = true) (execEtst f s) := by
  unfold execEtst
  try dsimp only
  repeat' (first | with_reducible (assumption) | with_reducible (exact True.intro) | with_reducible (intro _) | with_reducible (intro _ _ _) | with_reducible (apply Memory.wf_write) | with_reducible (apply edgeOp_wf) | with_reducible (apply State.sendArc_wf) | with_reducible (refine ite_wf ?_ ?_) | with_reducible (refine foldl_wf _ _ _ ?_ ?_) | with_reducible (refine foldl_pair_wf _ _ _ ?_ ?_) | with_reducible (refine foldl_cells_wf _ _ ?_ ?_) | simp only [Out.all_next, Out.all_fault, Out.all_refused, State.memIssued_mem])

theorem State.shareTakes_mem (s : State) (k e : Nat) (f : FlightSt) : ∀ t, s.shareTakes k e f = some t → t.mem = s.mem := by
  intro t h
  unfold State.shareTakes at h
  split at h <;> cases h
  simp

theorem State.evict_wf (s : State) (e : Nat) (hs : Memory.wf s.mem = true) :
    Memory.wf (State.evict s e).mem = true := by
  unfold State.evict
  try dsimp only
  repeat' (first | with_reducible (assumption) | with_reducible (apply State.spillTok_wf) | simp only [Out.all_next, Out.all_fault, Out.all_refused, State.modElem_mem] | split)

@[simp] theorem State.unspill_mem (s : State) (e : Nat) (r : SpillSt) : (s.unspill e r).mem = s.mem := by
  simp [State.unspill]

theorem State.arrive_wf (s : State) (k : Nat) (f : FlightSt) (hs : Memory.wf s.mem = true) :
    ∀ t, s.arrive k f = some t → Memory.wf t.mem = true := by
  intro t h
  have h0 : Memory.wf (s.landed k f).mem = true := by simpa using hs
  unfold State.arrive at h
  dsimp only at h
  (repeat' split at h) <;> first
    | (cases h; done)
    | (cases h; simpa using hs)
    | (cases h; simpa using State.spillTok_wf _ _ _ _ h0)
    | (cases h; exact State.evict_wf _ _ hs)

theorem execTokenArrival_wf (s : State) (hs : Memory.wf s.mem = true) : Out.All (fun t => Memory.wf t.mem = true) (execTokenArrival s) := by
  unfold execTokenArrival
  dsimp only
  split
  · trivial
  · split
    · split
      · exact State.feedArrive_wf _ _ _ _ _ _ _ hs
      · trivial
    · split
      · next s1 h1 =>
        split at h1
        · exact wf_of_eq (State.shareTakes_mem _ _ _ _ _ h1) hs
        · split at h1
          · cases h1
          · exact State.arrive_wf _ _ _ hs _ h1
      · trivial

theorem State.reloadRecord_wf (s : State) (e : Nat) (r : SpillSt) (hs : Memory.wf s.mem = true) :
    Memory.wf (State.reloadRecord s e r).mem = true := by
  unfold State.reloadRecord
  try dsimp only
  repeat' (first | with_reducible (assumption) | with_reducible (exact True.intro) | with_reducible (apply State.accept_wf) | with_reducible (refine ite_wf ?_ ?_) | simp only [Out.all_next, Out.all_fault, Out.all_refused, State.openLoop_mem, State.modElem_mem, State.unspill_mem] | split)

theorem execReload_wf (s : State) (hs : Memory.wf s.mem = true) :
    Out.All (fun t => Memory.wf t.mem = true) (execReload s) := by
  unfold execReload
  try dsimp only
  repeat' (first | with_reducible (assumption) | with_reducible (exact True.intro) | with_reducible (apply State.reloadRecord_wf) | with_reducible (refine ite_wf ?_ ?_) | simp only [Out.all_next, Out.all_fault, Out.all_refused] | split)

theorem execReapToken_wf (s : State) (hs : Memory.wf s.mem = true) :
    Out.All (fun t => Memory.wf t.mem = true) (execReapToken s) := by
  unfold execReapToken
  try dsimp only
  repeat' (first | with_reducible (assumption) | with_reducible (refine State.arrive_wf _ _ _ ?_ _ (by assumption)) | simp only [Out.all_next, Out.all_fault, Out.all_refused] | split)

theorem execReapFilterRetire_mem (s : State) :
    Out.All (fun t => t.mem = s.mem) (execReapFilterRetire s) := by
  unfold execReapFilterRetire
  try dsimp only
  repeat' (first | simp only [Out.all_next, Out.all_fault, Out.all_refused, State.modElem_mem] | split)

theorem execFallowReport_mem (s : State) :
    Out.All (fun t => t.mem = s.mem) (execFallowReport s) := by
  unfold execFallowReport
  try dsimp only
  repeat' (first | simp only [Out.all_next, Out.all_fault, Out.all_refused, State.modThread_mem, State.modPart_mem, State.modField_mem] | split)

theorem execMatchExhausted_wf (s : State) (hs : Memory.wf s.mem = true) :
    Out.All (fun t => Memory.wf t.mem = true) (execMatchExhausted s) := by
  unfold execMatchExhausted
  try dsimp only
  repeat' (first | with_reducible (assumption) | with_reducible (apply State.faultHalt_wf) | simp only [Out.all_next, Out.all_fault, Out.all_refused] | split)

theorem execMailboxAccept_mem (s : State) :
    Out.All (fun t => t.mem = s.mem) (execMailboxAccept s) := by
  unfold execMailboxAccept
  try dsimp only
  repeat' (first | simp only [Out.all_next, Out.all_fault, Out.all_refused, State.mailTake_mem, State.modElem_mem, State.release_mem, State.modCorePlace_mem, State.send_mem, State.settleColour_mem] | split)

theorem execInjectionRelease_mem (s : State) :
    Out.All (fun t => t.mem = s.mem) (execInjectionRelease s) := by
  unfold execInjectionRelease
  try dsimp only
  repeat' (first | simp only [Out.all_next, Out.all_fault, Out.all_refused, State.modCorePlace_mem, State.retryWaiters_mem, State.launch_mem] | split)

theorem execIterEmit_mem (s : State) :
    Out.All (fun t => t.mem = s.mem) (execIterEmit s) := by
  unfold execIterEmit
  try dsimp only
  repeat' (first | simp only [Out.all_next, Out.all_fault, Out.all_refused, State.send_mem, State.modField_mem, State.modElem_mem, State.settleColour_mem] | split)

theorem execAccrdRow_mem (s : State) :
    Out.All (fun t => t.mem = s.mem) (execAccrdRow s) := by
  unfold execAccrdRow
  try dsimp only
  repeat' (first | simp only [Out.all_next, Out.all_fault, Out.all_refused, State.modElem_mem, State.send_mem, State.modField_mem, State.setAcc_mem, State.settleColour_mem] | split)

theorem execCturnEmit_mem (s : State) :
    Out.All (fun t => t.mem = s.mem) (execCturnEmit s) := by
  unfold execCturnEmit
  try dsimp only
  repeat' (first | with_reducible (assumption) | with_reducible (rfl) | with_reducible (exact True.intro) | with_reducible (intro _) | with_reducible (intro _ _ _) | with_reducible (refine foldl_mem _ _ _ ?_) | with_reducible (refine (foldl_mem _ _ _ ?_).trans ?_) | with_reducible (refine (foldl_pair_mem _ _ _ ?_).trans ?_) | simp only [Out.all_next, Out.all_fault, Out.all_refused, State.send_mem, State.settleColour_mem, State.modElem_mem] | split)

theorem execOrdArcSend_mem (s : State) :
    Out.All (fun t => t.mem = s.mem) (execOrdArcSend s) := by
  unfold execOrdArcSend
  try dsimp only
  repeat' (first | with_reducible (assumption) | with_reducible (rfl) | with_reducible (exact True.intro) | with_reducible (intro _) | with_reducible (intro _ _ _) | with_reducible (refine foldl_mem _ _ _ ?_) | with_reducible (refine (foldl_mem _ _ _ ?_).trans ?_) | with_reducible (refine (foldl_pair_mem _ _ _ ?_).trans ?_) | simp only [Out.all_next, Out.all_fault, Out.all_refused, State.send_mem, State.settleColour_mem, State.modElem_mem] | split)

@[simp] theorem dropHomes_mem (s : State) (p : Nat) (olds : List (Word × Nat)) :
    (dropHomes s p olds).mem = s.mem := by
  unfold dropHomes
  try dsimp only
  repeat' (first | with_reducible (assumption) | with_reducible (rfl) | with_reducible (exact True.intro) | with_reducible (intro _) | with_reducible (intro _ _ _) | with_reducible (refine foldl_mem _ _ _ ?_) | with_reducible (refine (foldl_mem _ _ _ ?_).trans ?_) | with_reducible (refine (foldl_pair_mem _ _ _ ?_).trans ?_) | simp only [Out.all_next, Out.all_fault, Out.all_refused, State.modCorePlace_mem] | split)

@[simp] theorem activate_mem (s : State) (k : Nat) (w : Word) :
    (activate s k w).mem = s.mem := by
  unfold activate
  try dsimp only
  repeat' (first | with_reducible (intro _) | with_reducible (refine (foldl_mem _ _ _ ?_).trans ?_) | simp only [Out.all_next, Out.all_fault, Out.all_refused, dropHomes_mem, State.modElem_mem, State.setField_mem, State.modCorePlace_mem])

theorem execSwapActivate_mem (s : State) :
    Out.All (fun t => t.mem = s.mem) (execSwapActivate s) := by
  unfold execSwapActivate
  try dsimp only
  repeat' (first | simp only [Out.all_next, Out.all_fault, Out.all_refused, State.retryWaiters_mem, State.release_mem, activate_mem] | split)

theorem execSwapTimeout_mem (s : State) :
    Out.All (fun t => t.mem = s.mem) (execSwapTimeout s) := by
  unfold execSwapTimeout
  try dsimp only
  repeat' (first | simp only [Out.all_next, Out.all_fault, Out.all_refused, State.retryWaiters_mem, State.release_mem] | split)

@[simp] theorem State.leave_mem (s : State) (e : Nat) (o : OutTok) : (State.leave s e o).mem = s.mem := by
  unfold State.leave; split <;> simp

theorem State.pumpQueue_mem (s : State) (e n : Nat) (l : List OutTok) : (State.pumpQueue s e n l).1.mem = s.mem := by
  induction n generalizing s l with
  | zero => rfl
  | succ n ih =>
    unfold State.pumpQueue
    (repeat' split) <;> first | rfl | rw [ih, State.leave_mem]

@[simp] theorem State.pumpElem_mem (s : State) (e : Nat) : (State.pumpElem s e).mem = s.mem := by
  simp only [State.pumpElem, State.modElem_mem, State.pumpQueue_mem]

@[simp] theorem State.pump_mem (s : State) :
    (State.pump s).mem = s.mem := by
  unfold State.pump
  try dsimp only
  repeat' (first | with_reducible (assumption) | with_reducible (rfl) | with_reducible (exact True.intro) | with_reducible (intro _) | with_reducible (intro _ _ _) | with_reducible (refine foldl_mem _ _ _ ?_) | with_reducible (refine (foldl_mem _ _ _ ?_).trans ?_) | with_reducible (refine (foldl_pair_mem _ _ _ ?_).trans ?_) | simp only [Out.all_next, Out.all_fault, Out.all_refused, State.pumpElem_mem])

end Sys2Proof.Machine
end

