-- ==== Sys2Proof/Laws/MemEngines.lean ====
section
/-! SUPPORT. Memory under the operations and meanings of the engines, the sweep and the device: each leaves memory as it is, or keeps its canonical form. -/

namespace Sys2Proof.Machine

theorem State.pagesOf_wf (s : State) (a : Asker) (need : Need) (last fuel va : Nat) (hs : Memory.wf s.mem = true) :
    Memory.wf (s.pagesOf a need last fuel va).1.mem = true := by
  induction fuel generalizing s va with
  | zero => exact hs
  | succ n ih =>
    have h := State.findLeaf_wf s a.core a.tenant a.place a.root a.asid va hs
    unfold State.pagesOf
    dsimp only
    (repeat' split) <;> first | exact hs | exact h | exact ih _ _ h

theorem State.pagesOfAll_wf (s : State) (a : Asker) (l : List (Nat × Nat × Need)) (hs : Memory.wf s.mem = true) :
    Memory.wf (s.pagesOfAll a l).1.mem = true := by
  induction l generalizing s with
  | nil => exact hs
  | cons x l ih =>
    obtain ⟨va, n, need⟩ := x
    have h := State.pagesOf_wf s a need (va + n - 1) (n / 4096 + 2) va hs
    unfold State.pagesOfAll
    dsimp only
    split
    · exact h
    · exact ih _ h

theorem State.checkCard_wf (s : State) (a : Asker) (kind : Nat) (c : List Word) (hs : Memory.wf s.mem = true) :
    Memory.wf ((State.checkCard s a kind c).1).mem = true := by
  unfold State.checkCard
  try dsimp only
  repeat' (first | with_reducible (assumption) | with_reducible (apply State.pagesOfAll_wf) | split)

theorem State.pinOne_mem (s : State) (die quota : Nat) (q : PinSt) : ∀ t, s.pinOne die quota q = some t → t.mem = s.mem := by
  intro t h
  unfold State.pinOne at h
  dsimp only at h
  (repeat' split at h) <;> cases h
  · rfl
  · simp

theorem State.pinAll_mem (s : State) (die quota : Nat) (l : List PinSt) : ∀ t, s.pinAll die quota l = some t → t.mem = s.mem := by
  induction l generalizing s with
  | nil => intro t h; cases h; rfl
  | cons q l ih =>
    intro t h
    unfold State.pinAll at h
    split at h
    · next s1 h1 => exact (ih _ _ h).trans (State.pinOne_mem _ _ _ _ _ h1)
    · cases h

@[simp] theorem State.pinRider_mem (s : State) (r : RiderSt) :
    ((State.pinRider s r).1).mem = s.mem := by
  unfold State.pinRider
  try dsimp only
  repeat' (first | with_reducible (assumption) | with_reducible (rfl) | with_reducible (exact True.intro) | with_reducible (intro _) | with_reducible (intro _ _ _) | with_reducible (refine (State.pinAll_mem _ _ _ _ _ (by assumption)).trans ?_) | with_reducible (refine foldl_mem _ _ _ ?_) | with_reducible (refine (foldl_mem _ _ _ ?_).trans ?_) | with_reducible (refine (foldl_pair_mem _ _ _ ?_).trans ?_) | simp only [Out.all_next, Out.all_fault, Out.all_refused] | split)

@[simp] theorem State.countRequest_mem (s : State) (a : Asker) :
    (State.countRequest s a).mem = s.mem := by
  unfold State.countRequest; (repeat' split) <;> simp

@[simp] theorem State.join_mem (s : State) (r : RiderSt) :
    (State.join s r).mem = s.mem :=
  rfl

@[simp] theorem State.request_mem (s : State) (a : Asker) (kind : Nat) (c : List Word) (off : Nat) (value : Word) (pins : List PinSt) (fill : RiderSt → RiderSt) :
    (State.request s a kind c off value pins fill).mem = s.mem := by
  simp [State.request]

theorem State.board_wf (s : State) (kind : Nat) (word : Word32) (d : Reg) (a : Reg) (b : Reg) (hs : Memory.wf s.mem = true) :
    Out.All (fun t => Memory.wf t.mem = true) (State.board s kind word d a b) := by
  unfold State.board
  try dsimp only
  repeat' (first | with_reducible (assumption) | with_reducible (refine Out.All.mem_wf (State.finish_mem ..) ?_) | with_reducible (apply State.checkCard_wf) | simp only [Out.all_next, Out.all_fault, Out.all_refused, State.modThread_mem, State.request_mem] | split)

theorem execBoardRead_wf (d : Reg) (a : Reg) (b : Reg) (s : State) (hs : Memory.wf s.mem = true) :
    Out.All (fun t => Memory.wf t.mem = true) (execBoardRead d a b s) := by
  apply State.board_wf; exact hs

theorem execBoardFilter_wf (d : Reg) (a : Reg) (b : Reg) (s : State) (hs : Memory.wf s.mem = true) :
    Out.All (fun t => Memory.wf t.mem = true) (execBoardFilter d a b s) := by
  apply State.board_wf; exact hs

theorem execBoardSum_wf (d : Reg) (a : Reg) (b : Reg) (s : State) (hs : Memory.wf s.mem = true) :
    Out.All (fun t => Memory.wf t.mem = true) (execBoardSum d a b s) := by
  apply State.board_wf; exact hs

theorem execBoardFeed_wf (d : Reg) (a : Reg) (b : Reg) (s : State) (hs : Memory.wf s.mem = true) :
    Out.All (fun t => Memory.wf t.mem = true) (execBoardFeed d a b s) := by
  apply State.board_wf; exact hs

theorem execBoardUpdate_wf (d : Reg) (a : Reg) (b : Reg) (s : State) (hs : Memory.wf s.mem = true) :
    Out.All (fun t => Memory.wf t.mem = true) (execBoardUpdate d a b s) := by
  apply State.board_wf; exact hs

theorem execBoardAtom_wf (d : Reg) (a : Reg) (b : Reg) (s : State) (hs : Memory.wf s.mem = true) :
    Out.All (fun t => Memory.wf t.mem = true) (execBoardAtom d a b s) := by
  apply State.board_wf; exact hs

theorem execBoardFill_wf (d : Reg) (a : Reg) (b : Reg) (s : State) (hs : Memory.wf s.mem = true) :
    Out.All (fun t => Memory.wf t.mem = true) (execBoardFill d a b s) := by
  apply State.board_wf; exact hs

theorem execBoardDrain_wf (d : Reg) (a : Reg) (b : Reg) (s : State) (hs : Memory.wf s.mem = true) :
    Out.All (fun t => Memory.wf t.mem = true) (execBoardDrain d a b s) := by
  apply State.board_wf; exact hs

theorem execBoardDigest_wf (d : Reg) (a : Reg) (b : Reg) (s : State) (hs : Memory.wf s.mem = true) :
    Out.All (fun t => Memory.wf t.mem = true) (execBoardDigest d a b s) := by
  apply State.board_wf; exact hs

@[simp] theorem State.unpin_mem (s : State) (die : Nat) (qs : List PinSt) :
    (State.unpin s die qs).mem = s.mem := by
  unfold State.unpin
  try dsimp only
  repeat' (first | with_reducible (rfl) | with_reducible (intro _) | with_reducible (refine foldl_mem _ _ _ ?_))

@[simp] theorem State.slotResult_mem (s : State) (r : RiderSt) (v : Word) :
    (State.slotResult s r v).mem = s.mem := by
  unfold State.slotResult
  try dsimp only
  repeat' (first | simp only [Out.all_next, Out.all_fault, Out.all_refused, State.modElem_mem] | split)

@[simp] theorem State.answer_mem (s : State) (n : Nat) (r : RiderSt) (v : Word) :
    (State.answer s n r v).mem = s.mem := by
  unfold State.answer
  try dsimp only
  repeat' (first | simp only [Out.all_next, Out.all_fault, Out.all_refused, State.slotResult_mem, State.modThread_mem, State.setGprOf_mem, State.release_mem] | split)

@[simp] theorem State.cancelOne_mem (s : State) (n : Nat) (r : RiderSt) :
    (State.cancelOne s n r).mem = s.mem := by
  unfold State.cancelOne; (repeat' split) <;> simp

@[simp] theorem State.cancel_mem (s : State) (a : Asker) (v : Word) :
    ((State.cancel s a v).1).mem = s.mem := by
  unfold State.cancel
  try dsimp only
  repeat' (first | with_reducible (assumption) | with_reducible (rfl) | with_reducible (exact True.intro) | with_reducible (intro _) | with_reducible (intro _ _ _) | with_reducible (refine foldl_mem _ _ _ ?_) | with_reducible (refine (foldl_mem _ _ _ ?_).trans ?_) | with_reducible (refine (foldl_pair_mem _ _ _ ?_).trans ?_) | simp only [Out.all_next, Out.all_fault, Out.all_refused, State.cancelOne_mem])

theorem execBoardCancel_mem (d : Reg) (a : Reg) (s : State) :
    Out.All (fun t => t.mem = s.mem) (execBoardCancel d a s) := by
  unfold execBoardCancel
  try dsimp only
  repeat' (first | with_reducible (refine Out.All.mem_trans (State.finish_mem ..) ?_) | simp only [Out.all_next, Out.all_fault, Out.all_refused, State.cancel_mem])

theorem State.gcPages_wf (s : State) (a : Asker) (c : List Word) (hs : Memory.wf s.mem = true) :
    Memory.wf ((State.gcPages s a c).1).mem = true := by
  unfold State.gcPages
  try dsimp only
  repeat' (first | with_reducible (assumption) | with_reducible (apply State.pagesOfAll_wf) | split)

theorem State.gcCheck_wf (s : State) (a : Asker) (c : List Word) (hs : Memory.wf s.mem = true) :
    Memory.wf ((State.gcCheck s a c).1).mem = true := by
  unfold State.gcCheck
  try dsimp only
  repeat' (first | with_reducible (assumption) | with_reducible (apply State.gcPages_wf) | split)

theorem execGstart_wf (d : Reg) (a : Reg) (s : State) (hs : Memory.wf s.mem = true) :
    Out.All (fun t => Memory.wf t.mem = true) (execGstart d a s) := by
  unfold execGstart
  try dsimp only
  repeat' (first | with_reducible (assumption) | with_reducible (refine Out.All.mem_wf (State.finish_mem ..) ?_) | with_reducible (apply State.gcCheck_wf) | with_reducible (refine wf_of_eq (State.pinAll_mem _ _ _ _ _ (by assumption)) ?_) | simp only [Out.all_next, Out.all_fault, Out.all_refused, State.setGen_mem] | split)

@[simp] theorem State.genSend_mem (s : State) (k : Nat) (t : Token) :
    (State.genSend s k t).mem = s.mem := by
  simp [State.genSend]

@[simp] theorem State.genSendEos_mem (s : State) (k : Nat) :
    (State.genSendEos s k).mem = s.mem := by
  simp [State.genSendEos]

@[simp] theorem State.takePort_mem (s : State) (e n : Nat) :
    (State.takePort s e n).mem = s.mem := by
  unfold State.takePort
  split <;> simp

theorem State.writeDirect_wf (s : State) (a : Nat) (v : Word) (hs : Memory.wf s.mem = true) :
    Memory.wf (State.writeDirect s a v).mem = true := by
  unfold State.writeDirect
  try dsimp only
  repeat' (first | with_reducible (assumption) | with_reducible (exact True.intro) | with_reducible (apply State.scratchWrite_wf) | with_reducible (apply State.writeTarget_wf) | with_reducible (refine ite_wf ?_ ?_) | simp only [Out.all_next, Out.all_fault, Out.all_refused, State.takePort_mem] | split)

@[simp] theorem State.launchFor_mem (s : State) (t : Nat) (f : FlightSt) : (s.launchFor t f).mem = s.mem := by
  unfold State.launchFor
  dsimp only
  (repeat' split) <;> simp

theorem State.complete_wf (s : State) (core : Nat) (tenant : Nat) (done : DoneAt) (v : Word) (elem : Nat) (tag : Tag) (width : Nat) (hs : Memory.wf s.mem = true) :
    Memory.wf (State.complete s core tenant done v elem tag width).mem = true := by
  unfold State.complete
  try dsimp only
  repeat' (first | with_reducible (assumption) | with_reducible (apply State.writeDirect_wf) | with_reducible (apply State.writeTarget_wf) | simp only [Out.all_next, Out.all_fault, Out.all_refused, State.launchFor_mem] | split)

theorem State.genFinish_wf (s : State) (k : Nat) (st : Nat) (hs : Memory.wf s.mem = true) :
    Memory.wf (State.genFinish s k st).mem = true := by
  unfold State.genFinish
  try dsimp only
  repeat' (first | with_reducible (assumption) | with_reducible (apply State.complete_wf) | simp only [Out.all_next, Out.all_fault, Out.all_refused, State.setGen_mem, State.unpin_mem])

theorem State.genEnd_wf (s : State) (k : Nat) (st : Nat) (hs : Memory.wf s.mem = true) :
    Memory.wf (State.genEnd s k st).mem = true := by
  unfold State.genEnd
  try dsimp only
  repeat' (first | with_reducible (assumption) | with_reducible (apply State.genFinish_wf) | with_reducible (refine ite_wf ?_ ?_) | simp only [Out.all_next, Out.all_fault, Out.all_refused, State.setGen_mem])

theorem execGstop_wf (d : Reg) (a : Reg) (s : State) (hs : Memory.wf s.mem = true) :
    Out.All (fun t => Memory.wf t.mem = true) (execGstop d a s) := by
  unfold execGstop
  try dsimp only
  repeat' (first | with_reducible (assumption) | with_reducible (refine Out.All.mem_wf (State.finish_mem ..) ?_) | with_reducible (apply State.genEnd_wf) | simp only [Out.all_next, Out.all_fault, Out.all_refused, State.genSendEos_mem, State.setGen_mem] | split)

theorem execGstat_mem (d : Reg) (a : Reg) (s : State) :
    Out.All (fun t => t.mem = s.mem) (execGstat d a s) := by
  exact State.finish_mem ..

theorem State.cdDone_wf (s : State) (a : Asker) (c : List Word) (hs : Memory.wf s.mem = true) :
    Memory.wf ((State.cdDone s a c).1).mem = true := by
  unfold State.cdDone
  try dsimp only
  repeat' (first | with_reducible (assumption) | with_reducible (apply State.resolve_wf) | split)

theorem State.digSet_wf (s : State) (a : Asker) (off : Nat) (c : List Word) (value : Word) (done : DoneAt) (hs : Memory.wf s.mem = true) :
    Memory.wf (State.digSet s a off c value done).mem = true := by
  unfold State.digSet
  try dsimp only
  repeat' (first | with_reducible (assumption) | with_reducible (apply State.complete_wf) | with_reducible (apply State.writeDirect_wf) | simp only [Out.all_next, Out.all_fault, Out.all_refused, State.modPlace_mem])

theorem State.blurDest_wf (s : State) (x : CollSt) (hs : Memory.wf s.mem = true) : Memory.wf (s.blurDest x).1.mem = true :=
  foldl_cells_wf _ _ (fun _ _ h => Memory.wf_write h _ _ _) hs

theorem State.collStart_wf (s : State) (a : Asker) (kind : Nat) (exact : Bool) (off : Nat) (c : List Word) (g : GroupSt) (value : Word) (done : DoneAt)
    (hs : Memory.wf s.mem = true) : Memory.wf (State.collStart s a kind exact off c g value done).mem = true :=
  State.blurDest_wf s _ hs

theorem State.collect_wf (s : State) (kind : Nat) (exact : Bool) (word : Word32) (d : Reg) (ra : Reg) (rb : Reg) (hs : Memory.wf s.mem = true) :
    Out.All (fun t => Memory.wf t.mem = true) (State.collect s kind exact word d ra rb) := by
  unfold State.collect
  try dsimp only
  repeat' (first | with_reducible (assumption) | with_reducible (refine Out.All.mem_wf (State.finish_mem ..) ?_) | with_reducible (apply State.cdDone_wf) | with_reducible (apply State.digSet_wf) | with_reducible (apply State.collStart_wf) | simp only [Out.all_next, Out.all_fault, Out.all_refused, State.modMe_mem] | split)

theorem execAllredOrd_wf (d : Reg) (a : Reg) (b : Reg) (s : State) (hs : Memory.wf s.mem = true) :
    Out.All (fun t => Memory.wf t.mem = true) (execAllredOrd d a b s) := by
  apply State.collect_wf; exact hs

theorem execAllredExact_wf (d : Reg) (a : Reg) (b : Reg) (s : State) (hs : Memory.wf s.mem = true) :
    Out.All (fun t => Memory.wf t.mem = true) (execAllredExact d a b s) := by
  apply State.collect_wf; exact hs

theorem execBcast_wf (d : Reg) (a : Reg) (b : Reg) (s : State) (hs : Memory.wf s.mem = true) :
    Out.All (fun t => Memory.wf t.mem = true) (execBcast d a b s) := by
  apply State.collect_wf; exact hs

theorem execAllgath_wf (d : Reg) (a : Reg) (b : Reg) (s : State) (hs : Memory.wf s.mem = true) :
    Out.All (fun t => Memory.wf t.mem = true) (execAllgath d a b s) := by
  apply State.collect_wf; exact hs

theorem execRedscatOrd_wf (d : Reg) (a : Reg) (b : Reg) (s : State) (hs : Memory.wf s.mem = true) :
    Out.All (fun t => Memory.wf t.mem = true) (execRedscatOrd d a b s) := by
  apply State.collect_wf; exact hs

theorem execRedscatExact_wf (d : Reg) (a : Reg) (b : Reg) (s : State) (hs : Memory.wf s.mem = true) :
    Out.All (fun t => Memory.wf t.mem = true) (execRedscatExact d a b s) := by
  apply State.collect_wf; exact hs

theorem execDigset_wf (d : Reg) (a : Reg) (b : Reg) (s : State) (hs : Memory.wf s.mem = true) :
    Out.All (fun t => Memory.wf t.mem = true) (execDigset d a b s) := by
  apply State.collect_wf; exact hs

theorem execDigcmp_wf (d : Reg) (a : Reg) (b : Reg) (s : State) (hs : Memory.wf s.mem = true) :
    Out.All (fun t => Memory.wf t.mem = true) (execDigcmp d a b s) := by
  apply State.collect_wf; exact hs

theorem State.askTwin_mem (s : State) (kind : Nat) (word : Word32) (d : Reg) (a : Reg) :
    Out.All (fun t => t.mem = s.mem) (State.askTwin s kind word d a) := by
  unfold State.askTwin
  try dsimp only
  repeat' (first | with_reducible (refine Out.All.mem_trans (State.finish_mem ..) ?_) | simp only [Out.all_next, Out.all_fault, Out.all_refused, State.modThread_mem, State.join_mem] | split)

theorem execTcommit_mem (d : Reg) (a : Reg) (s : State) :
    Out.All (fun t => t.mem = s.mem) (execTcommit d a s) := by
  exact State.askTwin_mem ..

theorem execTabort_mem (d : Reg) (a : Reg) (s : State) :
    Out.All (fun t => t.mem = s.mem) (execTabort d a s) := by
  exact State.askTwin_mem ..

theorem execNormrd_mem (high : Bool) (n : BitVec 4) (d : Reg) (s : State) :
    Out.All (fun t => t.mem = s.mem) (execNormrd high n d s) := by
  exact State.finish_mem ..

theorem execNormclr_mem (n : BitVec 4) (s : State) :
    Out.All (fun t => t.mem = s.mem) (execNormclr n s) := by
  unfold execNormclr; (repeat' split) <;> simp

theorem State.boardsRequest_wf (s : State) (g : Firing) (tag : Tag) (kind : Nat) (off : Nat) (arg : Word) (hs : Memory.wf s.mem = true) :
    Memory.wf ((State.boardsRequest s g tag kind off arg).1).mem = true := by
  unfold State.boardsRequest
  try dsimp only
  repeat' (first | with_reducible (assumption) | with_reducible (apply State.checkCard_wf) | simp only [Out.all_next, Out.all_fault, Out.all_refused, State.cancel_mem, State.request_mem] | split)

@[simp] theorem State.pendBoards_mem (s : State) (g : Firing) (tag : Tag) (v : Option Word) :
    (State.pendBoards s g tag v).mem = s.mem :=
  rfl

theorem execBoards_wf (f : SlotFields) (s : State) (hs : Memory.wf s.mem = true) :
    Out.All (fun t => Memory.wf t.mem = true) (execBoards f s) := by
  unfold execBoards
  try dsimp only
  repeat' (first | with_reducible (assumption) | with_reducible (intro _) | with_reducible (apply State.value_wf) | with_reducible (refine wf_of_eq (State.resultTag_mem _ _ _ _ (by assumption)) ?_) | with_reducible (apply State.fault_wf) | with_reducible (apply State.boardsRequest_wf) | simp only [Out.all_next, Out.all_fault, Out.all_refused, State.leaveFrame_mem, State.endFiring_mem, State.pendBoards_mem] | split)

@[simp] theorem State.checkpointEffect_mem (s : State) :
    (State.checkpointEffect s).mem = s.mem := by
  unfold State.checkpointEffect; (repeat' split) <;> simp

@[simp] theorem State.broughtForward_mem (s : State) (p : Nat) : (State.broughtForward s p).mem = s.mem := rfl

@[simp] theorem State.takeTable_mem (s : State) (p : Nat) :
    (State.takeTable s p).mem = s.mem := by
  unfold State.takeTable
  try dsimp only
  repeat' (first | with_reducible (assumption) | with_reducible (rfl) | with_reducible (exact True.intro) | with_reducible (intro _) | with_reducible (intro _ _ _) | with_reducible (refine foldl_mem _ _ _ ?_) | with_reducible (refine (foldl_mem _ _ _ ?_).trans ?_) | with_reducible (refine (foldl_pair_mem _ _ _ ?_).trans ?_) | simp only [Out.all_next, Out.all_fault, Out.all_refused, State.setPart_mem] | split)

@[simp] theorem State.tableEffect_mem (s : State) (p : Nat) :
    (State.tableEffect s p).mem = s.mem := by
  unfold State.tableEffect
  try dsimp only
  repeat' (first | with_reducible (assumption) | with_reducible (rfl) | with_reducible (exact True.intro) | with_reducible (intro _) | with_reducible (intro _ _ _) | with_reducible (refine foldl_mem _ _ _ ?_) | with_reducible (refine (foldl_mem _ _ _ ?_).trans ?_) | with_reducible (refine (foldl_pair_mem _ _ _ ?_).trans ?_) | simp only [Out.all_next, Out.all_fault, Out.all_refused, State.broughtForward_mem, State.takeTable_mem] | split)

@[simp] theorem State.donationEffect_mem (s : State) (p : Nat) :
    (State.donationEffect s p).mem = s.mem := by
  unfold State.donationEffect; (repeat' split) <;> simp

@[simp] theorem State.parkRows_mem (s : State) (rows : List Nat) : (State.parkRows s rows).mem = s.mem := rfl
@[simp] theorem State.commitParked_mem (s : State) : (State.commitParked s).mem = s.mem := rfl
@[simp] theorem State.markParked_mem (s : State) (plot : Nat) : (State.markParked s plot).mem = s.mem := rfl

@[simp] theorem State.setPower_mem (s : State) (plot : Nat) (x : PowerState) (trip : Bool) :
    (State.setPower s plot x trip).mem = s.mem := by
  unfold State.setPower
  try dsimp only
  repeat' (first | with_reducible (assumption) | with_reducible (rfl) | with_reducible (exact True.intro) | with_reducible (intro _) | with_reducible (intro _ _ _) | with_reducible (refine foldl_mem _ _ _ ?_) | with_reducible (refine (foldl_mem _ _ _ ?_).trans ?_) | with_reducible (refine (foldl_pair_mem _ _ _ ?_).trans ?_) | simp only [Out.all_next, Out.all_fault, Out.all_refused, State.setPlot_mem, State.markParked_mem, State.parkRows_mem] | split)

@[simp] theorem State.powerEffects_mem (s : State) :
    (State.powerEffects s).mem = s.mem := by
  unfold State.powerEffects
  try dsimp only
  repeat' (first | with_reducible (assumption) | with_reducible (rfl) | with_reducible (exact True.intro) | with_reducible (intro _) | with_reducible (intro _ _ _) | with_reducible (refine foldl_mem _ _ _ ?_) | with_reducible (refine (foldl_mem _ _ _ ?_).trans ?_) | with_reducible (refine (foldl_pair_mem _ _ _ ?_).trans ?_) | simp only [Out.all_next, Out.all_fault, Out.all_refused, State.setPower_mem] | split)

@[simp] theorem State.markRiders_mem (s : State) (die : Nat) (phys : Nat) (bit : Nat) :
    (State.markRiders s die phys bit).mem = s.mem :=
  rfl

theorem State.layerNotice_wf (s : State) (die : Nat) (phys : Nat) (kind : Nat) (d0 : Word) (d1 : Word) (hs : Memory.wf s.mem = true) :
    Memory.wf (State.layerNotice s die phys kind d0 d1).mem = true := by
  unfold State.layerNotice
  try dsimp only
  repeat' (first | with_reducible (assumption) | with_reducible (exact True.intro) | with_reducible (intro _) | with_reducible (intro _ _ _) | with_reducible (apply State.notice_wf) | with_reducible (refine ite_wf ?_ ?_) | with_reducible (refine foldl_wf _ _ _ ?_ ?_))

theorem State.parkLayer_wf (s : State) (die : Nat) (phys : Nat) (immediate : Bool) (hs : Memory.wf s.mem = true) :
    Memory.wf (State.parkLayer s die phys immediate).mem = true := by
  unfold State.parkLayer
  try dsimp only
  repeat' (first | with_reducible (assumption) | with_reducible (exact True.intro) | with_reducible (apply State.layerNotice_wf) | with_reducible (refine ite_wf ?_ ?_) | simp only [Out.all_next, Out.all_fault, Out.all_refused, State.markRiders_mem, State.modLayer_mem, State.parkRows_mem] | split)

theorem State.unparkLayer_wf (s : State) (die : Nat) (phys : Nat) (hs : Memory.wf s.mem = true) :
    Memory.wf (State.unparkLayer s die phys).mem = true := by
  unfold State.unparkLayer
  try dsimp only
  repeat' (first | with_reducible (assumption) | with_reducible (exact True.intro) | with_reducible (apply State.layerNotice_wf) | with_reducible (refine ite_wf ?_ ?_) | simp only [Out.all_next, Out.all_fault, Out.all_refused, State.modLayer_mem] | split)

theorem State.layerEffects_wf (s : State) (hs : Memory.wf s.mem = true) :
    Memory.wf (State.layerEffects s).mem = true := by
  unfold State.layerEffects
  try dsimp only
  repeat' (first | with_reducible (assumption) | with_reducible (exact True.intro) | with_reducible (intro _) | with_reducible (intro _ _ _) | with_reducible (apply State.parkLayer_wf) | with_reducible (apply State.unparkLayer_wf) | with_reducible (refine ite_wf ?_ ?_) | with_reducible (refine foldl_wf _ _ _ ?_ ?_) | with_reducible (refine foldl_pair_wf _ _ _ ?_ ?_) | simp only [Out.all_next, Out.all_fault, Out.all_refused, State.modLayer_mem, State.commitParked_mem] | split)

theorem State.boundaryEffects_wf (s : State) (hs : Memory.wf s.mem = true) :
    Memory.wf (State.boundaryEffects s).mem = true := by
  unfold State.boundaryEffects
  try dsimp only
  repeat' (first | with_reducible (assumption) | with_reducible (exact True.intro) | with_reducible (intro _) | with_reducible (intro _ _ _) | with_reducible (apply State.layerEffects_wf) | with_reducible (refine ite_wf ?_ ?_) | with_reducible (refine foldl_wf _ _ _ ?_ ?_) | with_reducible (refine foldl_pair_wf _ _ _ ?_ ?_) | simp only [Out.all_next, Out.all_fault, Out.all_refused, State.checkpointEffect_mem, State.tableEffect_mem, State.donationEffect_mem, State.powerEffects_mem])

@[simp] theorem State.eosLeaves_mem (s : State) (r : RiderSt) (p slot pos : Nat) (t : Token) : (s.eosLeaves r p slot pos t).1.mem = s.mem := by
  unfold State.eosLeaves
  dsimp only
  (repeat' split) <;> simp

@[simp] theorem State.finalEos_mem (s : State) (r : RiderSt) :
    ((State.finalEos s r).1).mem = s.mem := by
  unfold State.finalEos
  try dsimp only
  repeat' (first | with_reducible (assumption) | with_reducible (rfl) | with_reducible (exact True.intro) | with_reducible (intro _) | with_reducible (intro _ _ _) | with_reducible (refine foldl_mem _ _ _ ?_) | with_reducible (refine (foldl_mem _ _ _ ?_).trans ?_) | with_reducible (refine (foldl_pair_mem _ _ _ ?_).trans ?_) | simp only [Out.all_next, Out.all_fault, Out.all_refused, State.eosLeaves_mem] | split)

theorem State.placeBytes_wf (s : State) (r : RiderSt) (plot off n data : Nat) (hs : Memory.wf s.mem = true) :
    Memory.wf (s.placeBytes r plot off n data).mem = true := State.scratchWrite_wf _ _ _ _ hs

theorem State.deliver_wf (s : State) (r : RiderSt) (plot : Nat) (off : Nat) (n : Nat) (data : Nat) (hs : Memory.wf s.mem = true) :
    Memory.wf (State.deliver s r plot off n data).mem = true := by
  exact State.placeBytes_wf _ _ _ _ _ _ (by simpa using hs)

theorem State.finalPayload_wf (s : State) (r : RiderSt) (hs : Memory.wf s.mem = true) :
    Memory.wf (State.finalPayload s r).mem = true := by
  unfold State.finalPayload
  try dsimp only
  repeat' (first | with_reducible (assumption) | with_reducible (exact True.intro) | with_reducible (intro _) | with_reducible (intro _ _ _) | with_reducible (apply State.deliver_wf) | with_reducible (refine ite_wf ?_ ?_) | with_reducible (refine foldl_wf _ _ _ ?_ ?_) | with_reducible (refine foldl_pair_wf _ _ _ ?_ ?_) | simp only [Out.all_next, Out.all_fault, Out.all_refused] | split)

@[simp] theorem State.addPartials_mem (s : State) (r : RiderSt) :
    ((State.addPartials s r).1).mem = s.mem :=
  rfl

theorem State.endRide_wf (s : State) (n : Nat) (r : RiderSt) (hs : Memory.wf s.mem = true) :
    Memory.wf (State.endRide s n r).mem = true := by
  unfold State.endRide
  try dsimp only
  repeat' (first | with_reducible (assumption) | with_reducible (apply State.finalPayload_wf) | with_reducible (apply State.writeDirect_wf) | with_reducible (apply State.complete_wf) | with_reducible (refine ite_wf ?_ ?_) | simp only [Out.all_next, Out.all_fault, Out.all_refused, State.finalEos_mem, State.addPartials_mem, State.unpin_mem])

theorem State.alightOne_wf (s : State) (x : Nat × RiderSt) (hs : Memory.wf s.mem = true) :
    Memory.wf (State.alightOne s x).mem = true := by
  unfold State.alightOne
  try dsimp only
  repeat' (first | with_reducible (assumption) | with_reducible (exact True.intro) | with_reducible (apply State.endRide_wf) | with_reducible (refine ite_wf ?_ ?_) | simp only [Out.all_next, Out.all_fault, Out.all_refused] | split)

theorem State.alightAll_wf (s : State) (hs : Memory.wf s.mem = true) :
    Memory.wf (State.alightAll s).mem = true := by
  unfold State.alightAll
  try dsimp only
  repeat' (first | with_reducible (assumption) | with_reducible (apply State.alightOne_wf) | with_reducible (refine foldl_wf _ _ _ ?_ ?_))

@[simp] theorem State.advanceSweep_mem (s : State) :
    (State.advanceSweep s).mem = s.mem := by
  unfold State.advanceSweep
  try dsimp only
  repeat' (first | with_reducible (assumption) | with_reducible (rfl) | with_reducible (exact True.intro) | with_reducible (intro _) | with_reducible (intro _ _ _) | with_reducible (refine foldl_mem _ _ _ ?_) | with_reducible (refine (foldl_mem _ _ _ ?_).trans ?_) | with_reducible (refine (foldl_pair_mem _ _ _ ?_).trans ?_) | simp only [Out.all_next, Out.all_fault, Out.all_refused] | split)

theorem State.settleFeeds_wf (s : State) (hs : Memory.wf s.mem = true) :
    Memory.wf (State.settleFeeds s).mem = true := by
  unfold State.settleFeeds
  try dsimp only
  repeat' (first | with_reducible (assumption) | with_reducible (exact True.intro) | with_reducible (intro _) | with_reducible (intro _ _ _) | with_reducible (apply State.feedArrive_wf) | with_reducible (refine ite_wf ?_ ?_) | with_reducible (refine foldl_wf _ _ _ ?_ ?_) | with_reducible (refine foldl_pair_wf _ _ _ ?_ ?_) | simp only [Out.all_next, Out.all_fault, Out.all_refused] | split)

@[simp] theorem State.returnFlights_mem (s : State) (l : List FlightSt) : (s.returnFlights l).mem = s.mem := foldl_mem _ _ _ fun _ _ => rfl

@[simp] theorem State.restoreElem_mem (s : State) (place : Nat) (k : Nat × ElemSt) :
    (State.restoreElem s place k).mem = s.mem := by
  unfold State.restoreElem
  try dsimp only
  repeat' (first | with_reducible (assumption) | with_reducible (rfl) | with_reducible (exact True.intro) | with_reducible (intro _) | with_reducible (intro _ _ _) | with_reducible (refine foldl_mem _ _ _ ?_) | with_reducible (refine (foldl_mem _ _ _ ?_).trans ?_) | with_reducible (refine (foldl_pair_mem _ _ _ ?_).trans ?_) | simp only [Out.all_next, Out.all_fault, Out.all_refused, State.modElem_mem, State.setElem_mem, State.returnFlights_mem] | split)

@[simp] theorem State.serveRecv_mem (s : State) (c pl : Nat) : (s.serveRecv c pl).mem = s.mem := by
  refine foldl_mem _ _ _ fun st _ => ?_
  (repeat' split) <;> simp

theorem State.restoreTenant_wf (s : State) (p : Nat) (t : Nat) (hs : Memory.wf s.mem = true) :
    Memory.wf (State.restoreTenant s p t).mem = true := by
  unfold State.restoreTenant
  try dsimp only
  repeat' (first | with_reducible (assumption) | with_reducible (exact True.intro) | with_reducible (intro _) | with_reducible (intro _ _ _) | with_reducible (apply State.restoreThread_wf) | with_reducible (refine ite_wf ?_ ?_) | with_reducible (refine foldl_wf _ _ _ ?_ ?_) | with_reducible (refine foldl_pair_wf _ _ _ ?_ ?_) | simp only [Out.all_next, Out.all_fault, Out.all_refused, State.restoreElem_mem, State.serveRecv_mem, State.modPlace_mem] | split)

@[simp] theorem State.gangEvent_mem (s : State) (p : Nat) (edge : Bool) (outgoing : Nat) (incoming : Nat) :
    (State.gangEvent s p edge outgoing incoming).mem = s.mem := by
  unfold State.gangEvent; (repeat' split) <;> simp

theorem State.slotEdge_wf (s : State) (p : Nat) (outgoing : Nat) (hs : Memory.wf s.mem = true) :
    Memory.wf (State.slotEdge s p outgoing).mem = true := by
  unfold State.slotEdge
  try dsimp only
  repeat' (first | with_reducible (assumption) | with_reducible (apply State.restoreTenant_wf) | with_reducible (refine ite_wf ?_ ?_) | simp only [Out.all_next, Out.all_fault, Out.all_refused, State.modPart_mem, State.gangEvent_mem])

theorem State.poisonRow_wf (s : State) (plot : Nat) (phys : Nat) (rank : Nat) (hs : Memory.wf s.mem = true) :
    Memory.wf (State.poisonRow s plot phys rank).mem = true := by
  unfold State.poisonRow
  try dsimp only
  repeat' (first | with_reducible (assumption) | with_reducible (apply State.notice_wf) | with_reducible (refine ite_wf ?_ ?_))

theorem State.scrub_wf (s : State) (rank : Nat) (hs : Memory.wf s.mem = true) :
    Memory.wf (State.scrub s rank).mem = true := by
  unfold State.scrub
  try dsimp only
  repeat' (first | with_reducible (assumption) | with_reducible (exact True.intro) | with_reducible (intro _) | with_reducible (intro _ _ _) | with_reducible (apply State.poisonRow_wf) | with_reducible (refine ite_wf ?_ ?_) | with_reducible (refine foldl_wf _ _ _ ?_ ?_))

theorem visitRead_wf (s : State) (r : RiderSt) (v : VisitAt) (hs : Memory.wf s.mem = true) :
    Memory.wf ((visitRead s r v).1).mem = true := by
  unfold visitRead
  try dsimp only
  repeat' (first | with_reducible (assumption) | with_reducible (exact True.intro) | with_reducible (intro _) | with_reducible (intro _ _ _) | with_reducible (apply State.placeBytes_wf) | with_reducible (refine ite_wf ?_ ?_) | with_reducible (refine foldl_wf _ _ _ ?_ ?_) | simp only [State.takePort_mem])

theorem visitFilter_wf (s : State) (r : RiderSt) (v : VisitAt) (hs : Memory.wf s.mem = true) :
    Memory.wf ((visitFilter s r v).1).mem = true := by
  unfold visitFilter
  try dsimp only
  repeat' (first | with_reducible (assumption) | with_reducible (exact True.intro) | with_reducible (intro _) | with_reducible (intro _ _ _) | with_reducible (apply State.placeBytes_wf) | with_reducible (refine ite_wf ?_ ?_) | with_reducible (refine foldl_wf _ _ _ ?_ ?_) | with_reducible (refine foldl_pair_wf _ _ _ ?_ ?_) | simp only [Out.all_next, Out.all_fault, Out.all_refused, State.takePort_mem] | split)

@[simp] theorem visitSum_mem (s : State) (r : RiderSt) (v : VisitAt) :
    ((visitSum s r v).1).mem = s.mem :=
  rfl

@[simp] theorem visitFeed_mem (s : State) (r : RiderSt) (v : VisitAt) (first : Nat) :
    ((visitFeed s r v first).1).mem = s.mem := by
  unfold visitFeed
  try dsimp only
  repeat' (first | with_reducible (intro _) | with_reducible (refine (foldl_pair_mem _ _ _ ?_).trans ?_) | simp only [Out.all_next, Out.all_fault, Out.all_refused, State.launch_mem])

theorem State.writeRow_wf (s : State) (plot : Nat) (phys : Nat) (rank : Nat) (b : Nat) (n : Nat) (v : Nat) (hs : Memory.wf s.mem = true) :
    Memory.wf (State.writeRow s plot phys rank b n v).mem = true := by
  apply Memory.wf_write; exact hs

theorem State.writeWindow_wf (s : State) (r : RiderSt) (v : VisitAt) (layer : Nat) (data : Nat) (hs : Memory.wf s.mem = true) :
    Memory.wf ((State.writeWindow s r v layer data).1).mem = true := by
  unfold State.writeWindow
  try dsimp only
  repeat' (first | with_reducible (assumption) | with_reducible (apply State.writeRow_wf) | simp only [Out.all_next, Out.all_fault, Out.all_refused, State.setTwin_mem] | split)

theorem State.writeLayer_wf (s : State) (r : RiderSt) (v : VisitAt) (layer : Nat) (data : Nat) (fmt : Nat) (hs : Memory.wf s.mem = true) :
    Memory.wf ((State.writeLayer s r v layer data fmt).1).mem = true := by
  apply State.writeWindow_wf; exact hs

theorem visitLayerwise_wf (s : State) (r : RiderSt) (v : VisitAt) (hs : Memory.wf s.mem = true) :
    Memory.wf ((visitLayerwise s r v).1).mem = true := by
  unfold visitLayerwise
  try dsimp only
  repeat' (first | with_reducible (assumption) | with_reducible (exact True.intro) | with_reducible (intro _) | with_reducible (intro _ _ _) | with_reducible (apply State.writeLayer_wf) | with_reducible (refine ite_wf ?_ ?_) | with_reducible (refine foldl_wf _ _ _ ?_ ?_) | with_reducible (refine foldl_pair_wf _ _ _ ?_ ?_))

theorem visitRoles_wf (s : State) (r : RiderSt) (v : VisitAt) (hs : Memory.wf s.mem = true) :
    Memory.wf ((visitRoles s r v).1).mem = true := by
  unfold visitRoles
  try dsimp only
  repeat' (first | with_reducible (assumption) | with_reducible (exact True.intro) | with_reducible (intro _) | with_reducible (intro _ _ _) | with_reducible (apply State.writeLayer_wf) | with_reducible (refine ite_wf ?_ ?_) | with_reducible (refine foldl_wf _ _ _ ?_ ?_) | with_reducible (refine foldl_pair_wf _ _ _ ?_ ?_))

theorem visitUpdate_wf (s : State) (r : RiderSt) (v : VisitAt) (hs : Memory.wf s.mem = true) :
    Memory.wf ((visitUpdate s r v).1).mem = true := by
  unfold visitUpdate
  try dsimp only
  repeat' (first | with_reducible (assumption) | with_reducible (apply visitLayerwise_wf) | with_reducible (apply visitRoles_wf) | split)

theorem visitAtom_wf (s : State) (r : RiderSt) (v : VisitAt) (hs : Memory.wf s.mem = true) :
    Memory.wf ((visitAtom s r v).1).mem = true := by
  unfold visitAtom
  try dsimp only
  repeat' (first | with_reducible (assumption) | with_reducible (exact True.intro) | with_reducible (intro _) | with_reducible (intro _ _ _) | with_reducible (apply State.writeLayer_wf) | with_reducible (apply State.deliver_wf) | with_reducible (refine ite_wf ?_ ?_) | with_reducible (refine foldl_wf _ _ _ ?_ ?_) | with_reducible (refine foldl_pair_wf _ _ _ ?_ ?_) | simp only [Out.all_next, Out.all_fault, Out.all_refused] | split)

theorem State.fillBad_wf (s : State) (r : RiderSt) (v : VisitAt) (l : Nat) (hs : Memory.wf s.mem = true) :
    Memory.wf ((State.fillBad s r v l).1).mem = true := by
  unfold State.fillBad
  try dsimp only
  repeat' (first | with_reducible (assumption) | with_reducible (apply State.poisonRow_wf) | with_reducible (refine ite_wf ?_ ?_) | simp only [State.setTwin_mem] | split)

theorem fillLayer_wf (s : State) (r : RiderSt) (v : VisitAt) (l : Nat) (va : Nat) (hs : Memory.wf s.mem = true) :
    Memory.wf ((fillLayer s r v l va).1).mem = true := by
  unfold fillLayer
  try dsimp only
  repeat' (first | with_reducible (assumption) | with_reducible (apply State.fillBad_wf) | with_reducible (apply State.poisonRow_wf) | with_reducible (apply State.writeLayer_wf) | split)

theorem visitFill_wf (s : State) (r : RiderSt) (v : VisitAt) (hs : Memory.wf s.mem = true) :
    Memory.wf ((visitFill s r v).1).mem = true := by
  unfold visitFill
  try dsimp only
  repeat' (first | with_reducible (assumption) | with_reducible (exact True.intro) | with_reducible (intro _) | with_reducible (intro _ _ _) | with_reducible (apply fillLayer_wf) | with_reducible (refine ite_wf ?_ ?_) | with_reducible (refine foldl_wf _ _ _ ?_ ?_) | with_reducible (refine foldl_pair_wf _ _ _ ?_ ?_))

theorem visitDrain_wf (s : State) (r : RiderSt) (v : VisitAt) (hs : Memory.wf s.mem = true) :
    Memory.wf ((visitDrain s r v).1).mem = true := by
  unfold visitDrain
  try dsimp only
  repeat' (first | with_reducible (assumption) | with_reducible (exact True.intro) | with_reducible (intro _) | with_reducible (intro _ _ _) | with_reducible (apply hubWrite_wf) | with_reducible (refine ite_wf ?_ ?_) | with_reducible (refine foldl_wf _ _ _ ?_ ?_))

@[simp] theorem visitDigest_mem (s : State) (r : RiderSt) (v : VisitAt) :
    ((visitDigest s r v).1).mem = s.mem :=
  rfl

theorem visit_wf (s : State) (r : RiderSt) (v : VisitAt) (first : Nat) (hs : Memory.wf s.mem = true) :
    Memory.wf ((visit s r v first).1).mem = true := by
  unfold visit
  try dsimp only
  repeat' (first | with_reducible (assumption) | with_reducible (apply visitRead_wf) | with_reducible (apply visitFilter_wf) | with_reducible (apply visitUpdate_wf) | with_reducible (apply visitAtom_wf) | with_reducible (apply visitFill_wf) | with_reducible (apply visitDrain_wf) | simp only [Out.all_next, Out.all_fault, Out.all_refused, visitSum_mem, visitFeed_mem, visitDigest_mem] | split)

theorem State.furrowOne_wf (rank plot : Nat) (st : State × Bool) (n : Nat) (hs : Memory.wf st.1.mem = true) :
    Memory.wf (State.furrowOne rank plot st n).1.mem = true := by
  unfold State.furrowOne
  dsimp only
  (repeat' split) <;> first | exact hs | exact visit_wf _ _ _ _ hs

theorem State.seedRecord_wf (s : State) (n : Nat) (r : RiderSt) (p j : Nat) (hs : Memory.wf s.mem = true) :
    Memory.wf (State.seedRecord s n r p j).mem = true := by
  unfold State.seedRecord
  dsimp only
  repeat' (first | with_reducible (apply Memory.wf_write) | with_reducible (assumption) | simp only [State.setRider_mem] | split)

theorem State.seedStep_wf (s : State) (n : Nat) (p : Nat) (hs : Memory.wf s.mem = true) :
    Memory.wf (State.seedStep s n p).mem = true := by
  unfold State.seedStep
  try dsimp only
  repeat' (first | with_reducible (assumption) | with_reducible (apply State.seedRecord_wf) | simp only [State.setRider_mem] | split)

theorem State.furrow_wf (s : State) (hs : Memory.wf s.mem = true) :
    Memory.wf (State.furrow s).mem = true := by
  unfold State.furrow
  try dsimp only
  repeat' (first | with_reducible (assumption) | with_reducible (exact True.intro) | with_reducible (intro _) | with_reducible (intro _ _ _) | with_reducible (apply State.scrub_wf) | with_reducible (apply State.furrowOne_wf) | with_reducible (apply State.seedStep_wf) | with_reducible (refine ite_wf ?_ ?_) | with_reducible (refine foldl_wf _ _ _ ?_ ?_) | with_reducible (refine foldl_pair_wf _ _ _ ?_ ?_))

@[simp] theorem State.dropRequest_mem (s : State) (n : Nat) (r : RiderSt) :
    (State.dropRequest s n r).mem = s.mem := by
  unfold State.dropRequest; (repeat' split) <;> simp

theorem State.riderFits_mem (s : State) (n : Nat) (r : RiderSt) : ∀ t, s.riderFits n r = some t → t.mem = s.mem := by
  intro t h
  unfold State.riderFits at h
  (repeat' split at h) <;> first | (cases h; done) | (cases h; rfl) | exact State.pinAll_mem _ _ _ _ _ h

@[simp] theorem State.admit_mem (s : State) (n : Nat) (r : RiderSt) :
    (State.admitRider s n r).mem = s.mem := by
  unfold State.admitRider
  try dsimp only
  repeat' (first | simp only [Out.all_next, Out.all_fault, Out.all_refused, State.modThread_mem] | split)

theorem State.admitQueue_wf (l : List (Nat × RiderSt)) (s : State) (hs : Memory.wf s.mem = true) : Memory.wf (State.admitQueue l s).mem = true := by
  induction l generalizing s with
  | nil => exact hs
  | cons x l ih =>
    obtain ⟨n, r⟩ := x
    unfold State.admitQueue
    split
    · exact ih _ (wf_of_eq (State.dropRequest_mem ..) hs)
    · split
      · next s1 h1 => exact ih _ (wf_of_eq ((State.admit_mem ..).trans (State.riderFits_mem _ _ _ _ h1)) hs)
      · exact hs

theorem State.admitAll_wf (s : State) (hs : Memory.wf s.mem = true) :
    Memory.wf (State.admitAll s).mem = true := by
  unfold State.admitAll
  try dsimp only
  repeat' (first | with_reducible (assumption) | with_reducible (exact True.intro) | with_reducible (intro _) | with_reducible (intro _ _ _) | with_reducible (apply State.admitQueue_wf) | with_reducible (refine ite_wf ?_ ?_) | with_reducible (refine foldl_wf _ _ _ ?_ ?_))

@[simp] theorem State.tidyTwins_mem (s : State) :
    (State.tidyTwins s).mem = s.mem :=
  rfl

@[simp] theorem State.twinEffect_mem (s : State) (n : Nat) (r : RiderSt) (commit : Bool) :
    (State.twinEffect s n r commit).mem = s.mem :=
  rfl

@[simp] theorem State.boardTwin_mem (s : State) (n : Nat) (r : RiderSt) :
    (State.boardTwin s n r).mem = s.mem := by
  unfold State.boardTwin
  try dsimp only
  repeat' (first | simp only [Out.all_next, Out.all_fault, Out.all_refused, State.tidyTwins_mem, State.twinEffect_mem, State.modPlace_mem, State.modPart_mem, State.answer_mem] | split)

@[simp] theorem State.boardOne_mem (s : State) (x : Nat × RiderSt) :
    (State.boardOne s x).mem = s.mem := by
  unfold State.boardOne
  try dsimp only
  repeat' (first | simp only [Out.all_next, Out.all_fault, Out.all_refused, State.boardTwin_mem, State.answer_mem] | split)

@[simp] theorem State.boardAll_mem (s : State) :
    (State.boardAll s).mem = s.mem := by
  unfold State.boardAll
  try dsimp only
  repeat' (first | with_reducible (assumption) | with_reducible (rfl) | with_reducible (exact True.intro) | with_reducible (intro _) | with_reducible (intro _ _ _) | with_reducible (refine foldl_mem _ _ _ ?_) | with_reducible (refine (foldl_mem _ _ _ ?_).trans ?_) | with_reducible (refine (foldl_pair_mem _ _ _ ?_).trans ?_) | simp only [Out.all_next, Out.all_fault, Out.all_refused, State.boardOne_mem] | split)

@[simp] theorem State.tierStep_mem (s : State) : s.tierStep.mem = s.mem := by
  unfold State.tierStep
  split <;> rfl

theorem State.boundary_wf (s : State) (hs : Memory.wf s.mem = true) :
    Memory.wf (State.boundary s).mem = true := by
  unfold State.boundary
  try dsimp only
  repeat' (first | with_reducible (assumption) | with_reducible (exact True.intro) | with_reducible (intro _) | with_reducible (intro _ _ _) | with_reducible (apply State.boundaryEffects_wf) | with_reducible (apply State.alightAll_wf) | with_reducible (apply State.settleFeeds_wf) | with_reducible (apply State.slotEdge_wf) | with_reducible (apply State.furrow_wf) | with_reducible (apply State.admitAll_wf) | with_reducible (refine ite_wf ?_ ?_) | with_reducible (refine foldl_wf _ _ _ ?_ ?_) | with_reducible (refine foldl_pair_wf _ _ _ ?_ ?_) | simp only [Out.all_next, Out.all_fault, Out.all_refused, State.advanceSweep_mem, State.retryWaiters_mem, State.boardAll_mem, State.tierStep_mem])

theorem execStepBoundary_wf (s : State) (hs : Memory.wf s.mem = true) :
    Out.All (fun t => Memory.wf t.mem = true) (execStepBoundary s) := by
  unfold execStepBoundary
  try dsimp only
  repeat' (first | with_reducible (assumption) | with_reducible (apply State.boundary_wf) | simp only [Out.all_next, Out.all_fault, Out.all_refused] | split)

@[simp] theorem State.breakHold_mem (s : State) (k : Nat) :
    (State.breakHold s k).mem = s.mem := by
  unfold State.breakHold; (repeat' split) <;> simp

theorem State.clearCore_wf (s : State) (c : Nat) (hs : Memory.wf s.mem = true) :
    Memory.wf (State.clearCore s c).mem = true := by
  unfold State.clearCore
  try dsimp only
  repeat' (first | with_reducible (assumption) | with_reducible (exact True.intro) | with_reducible (intro _) | with_reducible (intro _ _ _) | with_reducible (apply State.l1WriteBack_wf) | with_reducible (refine ite_wf ?_ ?_) | with_reducible (refine foldl_wf _ _ _ ?_ ?_) | with_reducible (refine foldl_pair_wf _ _ _ ?_ ?_) | simp only [Out.all_next, Out.all_fault, Out.all_refused, State.modCore_mem, State.modThread_mem])

theorem State.settleGuard_wf (s : State) (inSet : Nat → Bool) (hs : Memory.wf s.mem = true) : Memory.wf (s.settleGuard inSet).mem = true := by
  unfold State.settleGuard
  refine foldl_wf _ _ _ ?_ hs
  intro st f h
  split
  · split
    · exact State.feedArrive_wf _ _ _ _ _ _ _ h
    · exact h
  · split
    · exact h
    · cases ha : State.arrive st f.1 f.2 with
      | none => exact h
      | some t => exact State.arrive_wf _ _ _ h _ ha

theorem State.settleTenant_wf (s : State) (p t : Nat) (hs : Memory.wf s.mem = true) : Memory.wf (s.settleTenant p t).mem = true :=
  foldl_wf _ _ _ (fun _ _ h => State.postFault_wf _ _ h) (State.settleGuard_wf _ _ (by simpa using hs))

theorem State.saveElem_wf (s : State) (place tenant : Nat) (e : Nat) (hs : Memory.wf s.mem = true) :
    Memory.wf (State.saveElem s place tenant e).mem = true := by
  unfold State.saveElem
  try dsimp only
  repeat' (first | with_reducible (assumption) | with_reducible (apply Memory.wf_write) | split)

@[simp] theorem State.saveShadow_mem (s : State) (place tenant e : Nat) : (State.saveShadow s place tenant e).mem = s.mem := rfl

theorem State.saveTenant_wf (s : State) (p : Nat) (t : Nat) (hs : Memory.wf s.mem = true) :
    Memory.wf (State.saveTenant s p t).mem = true := by
  unfold State.saveTenant
  try dsimp only
  repeat' (first | with_reducible (assumption) | with_reducible (apply State.keepProgress_wf) | with_reducible (exact True.intro) | with_reducible (intro _) | with_reducible (intro _ _ _) | with_reducible (apply State.clearCore_wf) | with_reducible (apply State.drainCore_wf) | with_reducible (apply State.saveThread_wf) | with_reducible (apply State.settleTenant_wf) | with_reducible (apply State.saveElem_wf) | with_reducible (refine ite_wf ?_ ?_) | with_reducible (refine foldl_wf _ _ _ ?_ ?_) | with_reducible (refine foldl_pair_wf _ _ _ ?_ ?_) | simp only [Out.all_next, Out.all_fault, Out.all_refused, State.saveShadow_mem, State.breakHold_mem, State.modPlace_mem])

theorem execGuard_wf (s : State) (hs : Memory.wf s.mem = true) :
    Out.All (fun t => Memory.wf t.mem = true) (execGuard s) := by
  unfold execGuard
  try dsimp only
  repeat' (first | with_reducible (assumption) | with_reducible (intro _) | with_reducible (apply State.saveTenant_wf) | with_reducible (apply State.clearCore_wf) | with_reducible (apply State.drainCore_wf) | with_reducible (refine foldl_wf _ _ _ ?_ ?_) | simp only [Out.all_next, Out.all_fault, Out.all_refused, State.modPart_mem, State.gangEvent_mem] | split)

theorem execRowCommit_mem (s : State) :
    Out.All (fun t => t.mem = s.mem) (execRowCommit s) := by
  unfold execRowCommit; (repeat' split) <;> simp

theorem execTlbInvalidationDone_mem (s : State) :
    Out.All (fun t => t.mem = s.mem) (execTlbInvalidationDone s) := by
  unfold execTlbInvalidationDone
  try dsimp only
  repeat' (first | simp only [Out.all_next, Out.all_fault, Out.all_refused, State.retryWaiters_mem, State.modPart_mem] | split)

theorem State.genStep_wf (s : State) (k : Nat) (eos : Bool) (hs : Memory.wf s.mem = true) :
    Memory.wf (State.genStep s k eos).mem = true := by
  unfold State.genStep
  try dsimp only
  repeat' (first | with_reducible (assumption) | with_reducible (apply State.genEnd_wf) | simp only [Out.all_next, Out.all_fault, Out.all_refused, State.setGen_mem] | split)

theorem State.genBlock_wf (s : State) (k : Nat) (off : Nat) (hs : Memory.wf s.mem = true) :
    Memory.wf (State.genBlock s k off).mem = true := by
  unfold State.genBlock
  try dsimp only
  repeat' (first | with_reducible (assumption) | with_reducible (apply Memory.wf_write) | with_reducible (apply State.genStep_wf) | with_reducible (apply State.genEnd_wf) | simp only [Out.all_next, Out.all_fault, Out.all_refused, State.genSend_mem, State.settleColour_mem, State.setGen_mem] | split)

theorem execGeneratorBlock_wf (s : State) (hs : Memory.wf s.mem = true) :
    Out.All (fun t => Memory.wf t.mem = true) (execGeneratorBlock s) := by
  unfold execGeneratorBlock
  try dsimp only
  repeat' (first | with_reducible (assumption) | with_reducible (apply State.genFinish_wf) | with_reducible (apply State.genEnd_wf) | with_reducible (apply State.genBlock_wf) | simp only [Out.all_next, Out.all_fault, Out.all_refused, State.genSendEos_mem] | split)

@[simp] theorem State.spendFree_mem (s : State) (x : CollSt) : (s.spendFree x).mem = s.mem := rfl

theorem State.collDest_wf (s : State) (x : CollSt) (r : CollResult) (hs : Memory.wf s.mem = true) :
    Memory.wf (State.collDest s x r).mem = true := by
  unfold State.collDest
  try dsimp only
  repeat' (first | with_reducible (assumption) | with_reducible (exact True.intro) | with_reducible (intro _) | with_reducible (intro _ _ _) | with_reducible (apply State.scratchWrite_wf) | with_reducible (apply Memory.wf_write) | with_reducible (refine ite_wf ?_ ?_) | with_reducible (refine foldl_wf _ _ _ ?_ ?_) | simp only [State.spendFree_mem] | split)

@[simp] theorem State.collTraps_mem (s : State) (x : CollSt) (r : CollResult) :
    (State.collTraps s x r).mem = s.mem := by
  unfold State.collTraps; (repeat' split) <;> simp

theorem State.collFinish_wf (s : State) (n : Nat) (x : CollSt) (r : CollResult) (hs : Memory.wf s.mem = true) :
    Memory.wf (State.collFinish s n x r).mem = true := by
  unfold State.collFinish
  try dsimp only
  repeat' (first | with_reducible (assumption) | with_reducible (apply State.complete_wf) | with_reducible (apply State.writeDirect_wf) | with_reducible (apply State.collDest_wf) | simp only [Out.all_next, Out.all_fault, Out.all_refused, State.retryWaiters_mem, State.collTraps_mem])

@[simp] theorem State.settleColl_mem (s : State) (x : CollSt) (res : CollSt → CollResult) :
    (State.settleColl s x res).mem = s.mem :=
  rfl

theorem execCollectiveComplete_wf (s : State) (hs : Memory.wf s.mem = true) :
    Out.All (fun t => Memory.wf t.mem = true) (execCollectiveComplete s) := by
  unfold execCollectiveComplete
  try dsimp only
  repeat' (first | with_reducible (assumption) | with_reducible (apply State.collFinish_wf) | simp only [Out.all_next, Out.all_fault, Out.all_refused, State.settleColl_mem] | split)

@[simp] theorem State.failColls_mem (s : State) (outcome : Nat) (detail : Word) (hit : CollSt → Bool) :
    (State.failColls s outcome detail hit).mem = s.mem :=
  rfl

@[simp] theorem State.setLink_mem (s : State) (n : Nat) (x : LinkSt) :
    (State.setLink s n x).mem = s.mem :=
  rfl

@[simp] theorem State.leaveLock_mem (s : State) (n : Nat) : (s.leaveLock n).mem = s.mem := by
  unfold State.leaveLock; split <;> simp

@[simp] theorem State.loosen_mem (s : State) (n : Nat) : (s.loosen n).mem = s.mem := by
  unfold State.loosen; split <;> simp

theorem execLinkDown_mem (s : State) :
    Out.All (fun t => t.mem = s.mem) (execLinkDown s) := by
  unfold execLinkDown
  try dsimp only
  repeat' (first | simp only [Out.all_next, Out.all_fault, Out.all_refused, State.failColls_mem, State.setLink_mem, State.loosen_mem] | split)

@[simp] theorem State.trimStep_mem (s : State) (pass : Nat) (cursor : Nat) (n : Nat) :
    (State.trimStep s pass cursor n).mem = s.mem := by
  unfold State.trimStep; (repeat' split) <;> simp

theorem execPassMarker_mem (s : State) :
    Out.All (fun t => t.mem = s.mem) (execPassMarker s) := by
  unfold execPassMarker
  try dsimp only
  repeat' (first | simp only [Out.all_next, Out.all_fault, Out.all_refused, State.setLink_mem, State.trimStep_mem, State.leaveLock_mem, State.failColls_mem, State.modHub_mem] | split)

theorem execSweepStateAnnounce_mem (s : State) :
    Out.All (fun t => t.mem = s.mem) (execSweepStateAnnounce s) := by
  unfold execSweepStateAnnounce; (repeat' split) <;> simp

@[simp] theorem State.wantSweep_mem (s : State) (x : SweepState) :
    (State.wantSweep s x).mem = s.mem := by
  unfold State.wantSweep; (repeat' split) <;> simp

@[simp] theorem State.readTemp_mem (s : State) (die : Nat) (phys : Nat) (t : Nat) :
    (State.readTemp s die phys t).mem = s.mem := by
  unfold State.readTemp; (repeat' split) <;> simp

theorem execThermalSlowdown_mem (s : State) :
    Out.All (fun t => t.mem = s.mem) (execThermalSlowdown s) := by
  unfold execThermalSlowdown
  try dsimp only
  repeat' (first | simp only [Out.all_next, Out.all_fault, Out.all_refused, State.wantSweep_mem, State.readTemp_mem] | split)

theorem execThermalSpeedup_mem (s : State) :
    Out.All (fun t => t.mem = s.mem) (execThermalSpeedup s) := by
  unfold execThermalSpeedup; (repeat' split) <;> simp

theorem execLayerPark_wf (s : State) (hs : Memory.wf s.mem = true) :
    Out.All (fun t => Memory.wf t.mem = true) (execLayerPark s) := by
  unfold execLayerPark
  try dsimp only
  repeat' (first | with_reducible (assumption) | with_reducible (apply State.parkLayer_wf) | simp only [Out.all_next, Out.all_fault, Out.all_refused, State.readTemp_mem, State.modLayer_mem] | split)

theorem execLayerUnpark_mem (s : State) :
    Out.All (fun t => t.mem = s.mem) (execLayerUnpark s) := by
  unfold execLayerUnpark
  try dsimp only
  repeat' (first | simp only [Out.all_next, Out.all_fault, Out.all_refused, State.modLayer_mem, State.readTemp_mem] | split)

theorem execLayerPowerOff_wf (s : State) (hs : Memory.wf s.mem = true) :
    Out.All (fun t => Memory.wf t.mem = true) (execLayerPowerOff s) := by
  unfold execLayerPowerOff
  try dsimp only
  repeat' (first | with_reducible (assumption) | with_reducible (apply State.layerNotice_wf) | simp only [Out.all_next, Out.all_fault, Out.all_refused, State.readTemp_mem, State.modLayer_mem, State.markRiders_mem] | split)

theorem execPowerRequest_mem (s : State) :
    Out.All (fun t => t.mem = s.mem) (execPowerRequest s) := by
  unfold execPowerRequest
  try dsimp only
  repeat' (first | simp only [Out.all_next, Out.all_fault, Out.all_refused, State.setPower_mem, State.setPlot_mem] | split)

theorem execPlotWake_mem (s : State) :
    Out.All (fun t => t.mem = s.mem) (execPlotWake s) := by
  unfold execPlotWake
  try dsimp only
  repeat' (first | simp only [Out.all_next, Out.all_fault, Out.all_refused, State.setPlot_mem] | split)

theorem execCoreWatchdog_wf (s : State) (hs : Memory.wf s.mem = true) :
    Out.All (fun t => Memory.wf t.mem = true) (execCoreWatchdog s) := by
  unfold execCoreWatchdog
  try dsimp only
  repeat' (first | with_reducible (assumption) | with_reducible (apply State.notice_wf) | simp only [Out.all_next, Out.all_fault, Out.all_refused, State.setCore_mem] | split)

@[simp] theorem State.dropWay_mem (s : State) (c : Nat) (w : WaySt) :
    (State.dropWay s c w).mem = s.mem :=
  rfl

theorem State.lineNotice_wf (s : State) (c : Nat) (to_ : Nat) (kind : Nat) (tenant : Nat) (line : Nat) (mask : Nat) (hs : Memory.wf s.mem = true) :
    Memory.wf (State.lineNotice s c to_ kind tenant line mask).mem = true := by
  apply State.notice_wf; exact hs

theorem State.retirePage_wf (s before : State) (c : Nat) (w : WaySt) (hs : Memory.wf s.mem = true) :
    Memory.wf (State.retirePage s before c w).mem = true := by
  unfold State.retirePage
  try dsimp only
  repeat' (first | with_reducible (assumption) | with_reducible (exact True.intro) | with_reducible (intro _) | with_reducible (intro _ _ _) | with_reducible (apply State.lineNotice_wf) | with_reducible (refine ite_wf ?_ ?_) | with_reducible (refine foldl_wf _ _ _ ?_ ?_))

theorem execEdgeLineError_wf (s : State) (hs : Memory.wf s.mem = true) :
    Out.All (fun t => Memory.wf t.mem = true) (execEdgeLineError s) := by
  unfold execEdgeLineError
  try dsimp only
  repeat' (first | with_reducible (assumption) | with_reducible (apply State.retirePage_wf) | with_reducible (apply State.lineNotice_wf) | simp only [Out.all_next, Out.all_fault, Out.all_refused, State.dropWay_mem, State.setSet_mem] | split)

theorem execStartRecord_wf (s : State) (hs : Memory.wf s.mem = true) :
    Out.All (fun t => Memory.wf t.mem = true) (execStartRecord s) := by
  unfold execStartRecord
  try dsimp only
  repeat' (first | with_reducible (assumption) | with_reducible (apply State.writeWords_wf) | simp only [Out.all_next, Out.all_fault, Out.all_refused, State.modHub_mem, State.modCore_mem] | split)

@[simp] theorem State.grantRequest_mem (s : State) (l : List Word) :
    (State.grantRequest s l).mem = s.mem :=
  rfl

theorem execReadNotices_mem (s : State) :
    Out.All (fun t => t.mem = s.mem) (execReadNotices s) :=
  rfl

@[simp] theorem State.refuseRequest_mem (s : State) :
    (State.refuseRequest s).mem = s.mem :=
  rfl

theorem State.manage_mem (s : State) (ok : Bool) (eff : State → State) (heff : ∀ st, (eff st).mem = st.mem) :
    Out.All (fun t => t.mem = s.mem) (s.manage ok eff) := by
  unfold State.manage
  rw [Out.all_next]
  split
  · exact (heff _).trans (by simp)
  · simp

theorem State.manage_wf (s : State) (ok : Bool) (eff : State → State) (heff : ∀ st, Memory.wf st.mem = true → Memory.wf (eff st).mem = true)
    (hs : Memory.wf s.mem = true) : Out.All (fun t => Memory.wf t.mem = true) (s.manage ok eff) := by
  unfold State.manage
  rw [Out.all_next]
  split
  · exact heff _ (by simpa using hs)
  · simpa using hs

@[simp] theorem State.setClaim_mem (s : State) (t : ClaimTarget) (m : Option Master) :
    (State.setClaim s t m).mem = s.mem := by
  unfold State.setClaim; (repeat' split) <;> simp

theorem execBreakClaim_mem (s : State) :
    Out.All (fun t => t.mem = s.mem) (execBreakClaim s) := by
  unfold execBreakClaim
  try dsimp only
  repeat' (first | with_reducible (intro _) | with_reducible (apply State.manage_mem) | simp only [Out.all_next, Out.all_fault, Out.all_refused, State.setClaim_mem])

@[simp] theorem State.unmarkStops_mem (s : State) (t : ClaimTarget) :
    (State.unmarkStops s t).mem = s.mem :=
  rfl

theorem execBreakRelease_mem (s : State) :
    Out.All (fun t => t.mem = s.mem) (execBreakRelease s) := by
  unfold execBreakRelease
  try dsimp only
  repeat' (first | with_reducible (intro _) | with_reducible (apply State.manage_mem) | simp only [Out.all_next, Out.all_fault, Out.all_refused, State.setClaim_mem, State.unmarkStops_mem])

theorem execBreakResume_wf (s : State) (hs : Memory.wf s.mem = true) :
    Out.All (fun t => Memory.wf t.mem = true) (execBreakResume s) := by
  unfold execBreakResume
  try dsimp only
  repeat' (first | with_reducible (assumption) | with_reducible (intro _) | with_reducible (apply State.manage_wf) | with_reducible (apply State.resumeStopped_wf))

@[simp] theorem State.resetEngines_mem (s : State) (p : Nat) :
    (State.resetEngines s p).mem = s.mem := by
  unfold State.resetEngines
  try dsimp only
  repeat' (first | with_reducible (intro _) | with_reducible (refine (foldl_mem _ _ _ ?_).trans ?_) | simp only [Out.all_next, Out.all_fault, Out.all_refused, State.unpin_mem] | split)

@[simp] theorem State.resetColls_mem (s : State) (p : Nat) :
    (State.resetColls s p).mem = s.mem :=
  rfl

@[simp] theorem State.holdCores_mem (s : State) (cs : List Nat) :
    (State.holdCores s cs).mem = s.mem := by
  unfold State.holdCores
  try dsimp only
  repeat' (first | with_reducible (assumption) | with_reducible (rfl) | with_reducible (exact True.intro) | with_reducible (intro _) | with_reducible (intro _ _ _) | with_reducible (refine foldl_mem _ _ _ ?_) | with_reducible (refine (foldl_mem _ _ _ ?_).trans ?_) | with_reducible (refine (foldl_pair_mem _ _ _ ?_).trans ?_) | simp only [Out.all_next, Out.all_fault, Out.all_refused, State.modCore_mem])

theorem State.releaseCores_wf (s : State) (image : List Byte) (cs : List Nat) (hs : Memory.wf s.mem = true) :
    Memory.wf (State.releaseCores s image cs).mem = true := by
  unfold State.releaseCores
  try dsimp only
  repeat' (first | with_reducible (assumption) | with_reducible (exact True.intro) | with_reducible (intro _) | with_reducible (intro _ _ _) | with_reducible (apply Memory.wf_writeBytes) | with_reducible (refine ite_wf ?_ ?_) | with_reducible (refine foldl_wf _ _ _ ?_ ?_) | with_reducible (refine foldl_pair_wf _ _ _ ?_ ?_) | with_reducible (refine foldl_cells_wf _ _ ?_ ?_) | simp only [Out.all_next, Out.all_fault, Out.all_refused, State.modCore_mem])

@[simp] theorem State.resetPartition_mem (s : State) (p : Nat) :
    (State.resetPartition s p).mem = s.mem := by
  unfold State.resetPartition
  simp only [State.holdCores_mem, State.startTlbi_mem, State.resetEngines_mem, State.resetColls_mem]

theorem State.restartPartition_wf (s : State) (p : Nat) (image : List Byte) (hs : Memory.wf s.mem = true) :
    Memory.wf (State.restartPartition s p image).mem = true := by
  unfold State.restartPartition
  dsimp only
  split
  · exact State.releaseCores_wf _ _ _ (by simpa using hs)
  · simpa using hs

theorem execPartitionReset_wf (s : State) (hs : Memory.wf s.mem = true) :
    Out.All (fun t => Memory.wf t.mem = true) (execPartitionReset s) := by
  unfold execPartitionReset
  exact State.manage_wf _ _ _ (fun _ h => State.restartPartition_wf _ _ _ h) hs

@[simp] theorem State.resetDevice_mem (s : State) :
    (State.resetDevice s).mem = s.mem :=
  rfl

theorem execDeviceReset_mem (s : State) :
    Out.All (fun t => t.mem = s.mem) (execDeviceReset s) := by
  unfold execDeviceReset
  try dsimp only
  repeat' (first | with_reducible (intro _) | with_reducible (apply State.manage_mem) | simp only [Out.all_next, Out.all_fault, Out.all_refused, State.resetDevice_mem])

@[simp] theorem State.setLock_mem (s : State) (m : Master) (on : Bool) : (s.setLock m on).mem = s.mem := rfl

theorem execTakeResetLock_mem (s : State) :
    Out.All (fun t => t.mem = s.mem) (execTakeResetLock s) := by
  unfold execTakeResetLock
  try dsimp only
  repeat' (first | with_reducible (intro _) | with_reducible (apply State.manage_mem) | simp only [Out.all_next, Out.all_fault, Out.all_refused, State.setLock_mem])

theorem execDropResetLock_mem (s : State) :
    Out.All (fun t => t.mem = s.mem) (execDropResetLock s) := by
  unfold execDropResetLock
  try dsimp only
  repeat' (first | with_reducible (intro _) | with_reducible (apply State.manage_mem) | simp only [Out.all_next, Out.all_fault, Out.all_refused, State.setLock_mem])

theorem execLoadFirmware_mem (s : State) :
    Out.All (fun t => t.mem = s.mem) (execLoadFirmware s) := by
  unfold execLoadFirmware
  try dsimp only
  repeat' (first | with_reducible (intro _) | with_reducible (apply State.manage_mem) | simp only [Out.all_next, Out.all_fault, Out.all_refused, State.modHub_mem])

theorem State.powerUp_wf (s : State) (hs : Memory.wf s.mem = true) : Memory.wf (s.powerUp).mem = true := by
  unfold State.powerUp
  simp only [State.holdCores_mem, State.modHub_mem]
  rfl

theorem execPowerOn_wf (s : State) (hs : Memory.wf s.mem = true) :
    Out.All (fun t => Memory.wf t.mem = true) (execPowerOn s) := by
  unfold execPowerOn
  try dsimp only
  repeat' (first | with_reducible (assumption) | with_reducible (apply State.manage_wf) | with_reducible (apply State.powerUp_wf))

theorem execPowerOff_mem (s : State) :
    Out.All (fun t => t.mem = s.mem) (execPowerOff s) := by
  unfold execPowerOff
  try dsimp only
  repeat' (first | with_reducible (rfl) | with_reducible (intro _) | with_reducible (apply State.manage_mem))

theorem execCheckpoint_mem (s : State) :
    Out.All (fun t => t.mem = s.mem) (execCheckpoint s) := by
  unfold execCheckpoint
  try dsimp only
  repeat' (first | with_reducible (intro _) | with_reducible (apply State.manage_mem) | simp only [Out.all_next, Out.all_fault, Out.all_refused, State.modHub_mem])

theorem execCheckpointRelease_mem (s : State) :
    Out.All (fun t => t.mem = s.mem) (execCheckpointRelease s) := by
  unfold execCheckpointRelease; (repeat' split) <;> simp

@[simp] theorem State.createParts_mem (s : State) (ws : List Word) :
    (State.createParts s ws).mem = s.mem :=
  rfl

@[simp] theorem State.failStart_mem (s : State) (reason : Nat) :
    (State.failStart s reason).mem = s.mem :=
  rfl

@[simp] theorem State.startClock_mem (s : State) : (State.startClock s).mem = s.mem := rfl

@[simp] theorem State.joinDomain_mem (s : State) (device : Nat) (links : Table LinkSt) : (s.joinDomain device links).mem = s.mem := rfl

theorem execBoot_wf (s : State) (hs : Memory.wf s.mem = true) :
    Out.All (fun t => Memory.wf t.mem = true) (execBoot s) := by
  unfold execBoot
  try dsimp only
  repeat' (first | with_reducible (assumption) | with_reducible (intro _) | with_reducible (apply State.releaseCores_wf) | with_reducible (refine foldl_wf _ _ _ ?_ ?_) | simp only [Out.all_next, Out.all_fault, Out.all_refused, State.joinDomain_mem, State.startClock_mem, State.modHub_mem, State.createParts_mem, State.failStart_mem] | split)

theorem execStartTimeout_mem (s : State) :
    Out.All (fun t => t.mem = s.mem) (execStartTimeout s) := by
  unfold execStartTimeout; (repeat' split) <;> simp

theorem execRuntimeThreadRestart_wf (s : State) (hs : Memory.wf s.mem = true) :
    Out.All (fun t => Memory.wf t.mem = true) (execRuntimeThreadRestart s) := by
  unfold execRuntimeThreadRestart
  try dsimp only
  repeat' (first | with_reducible (assumption) | with_reducible (apply State.restartThread_wf) | simp only [Out.all_next, Out.all_fault, Out.all_refused] | split)

theorem execPoisonMarkClear_mem (s : State) :
    Out.All (fun t => t.mem = s.mem) (execPoisonMarkClear s) := by
  unfold execPoisonMarkClear; (repeat' split) <;> simp

theorem execGroupTableWrite_mem (s : State) :
    Out.All (fun t => t.mem = s.mem) (execGroupTableWrite s) := by
  unfold execGroupTableWrite
  try dsimp only
  repeat' (first | simp only [Out.all_next, Out.all_fault, Out.all_refused] | split)

theorem execFrameMaskWrite_mem (s : State) :
    Out.All (fun t => t.mem = s.mem) (execFrameMaskWrite s) := by
  unfold execFrameMaskWrite
  try dsimp only
  repeat' (first | simp only [Out.all_next, Out.all_fault, Out.all_refused, State.modHub_mem] | split)

theorem execLinkUp_mem (s : State) :
    Out.All (fun t => t.mem = s.mem) (execLinkUp s) := by
  unfold execLinkUp
  try dsimp only
  repeat' (first | simp only [Out.all_next, Out.all_fault, Out.all_refused, State.setLink_mem] | split)

theorem execHostMemoryAccess_wf (s : State) (hs : Memory.wf s.mem = true) :
    Out.All (fun t => Memory.wf t.mem = true) (execHostMemoryAccess s) := by
  unfold execHostMemoryAccess
  try dsimp only
  repeat' (first | with_reducible (assumption) | with_reducible (apply Memory.wf_writeBytes) | simp only [Out.all_next, Out.all_fault, Out.all_refused, State.modHub_mem] | split)

@[simp] theorem State.l1iPut_mem (s : State) (c : Nat) (l : LineSt) :
    (State.l1iPut s c l).mem = s.mem :=
  rfl

theorem State.fetchWord_wf (s : State) (k : Nat) (t : Target) (hs : Memory.wf s.mem = true) :
    Memory.wf ((State.fetchWord s k t).1).mem = true := by
  unfold State.fetchWord
  try dsimp only
  repeat' (first | with_reducible (assumption) | with_reducible (apply State.lookupLine_wf) | with_reducible (apply State.hubWriteBack_wf) | simp only [Out.all_next, Out.all_fault, Out.all_refused, State.l1iPut_mem] | split)

@[simp] theorem State.sendBoards_mem (s : State) (e : Nat) (p : Nat × PendSt) :
    (State.sendBoards s e p).mem = s.mem := by
  unfold State.sendBoards
  try dsimp only
  repeat' (first | with_reducible (assumption) | with_reducible (rfl) | with_reducible (exact True.intro) | with_reducible (intro _) | with_reducible (intro _ _ _) | with_reducible (refine foldl_mem _ _ _ ?_) | with_reducible (refine (foldl_mem _ _ _ ?_).trans ?_) | with_reducible (refine (foldl_pair_mem _ _ _ ?_).trans ?_) | simp only [Out.all_next, Out.all_fault, Out.all_refused, State.send_mem, State.settleColour_mem, State.modElem_mem] | split)

@[simp] theorem State.flushBoards_mem (s : State) :
    (State.flushBoards s).mem = s.mem := by
  unfold State.flushBoards
  try dsimp only
  repeat' (first | with_reducible (assumption) | with_reducible (rfl) | with_reducible (exact True.intro) | with_reducible (intro _) | with_reducible (intro _ _ _) | with_reducible (refine foldl_mem _ _ _ ?_) | with_reducible (refine (foldl_mem _ _ _ ?_).trans ?_) | with_reducible (refine (foldl_pair_mem _ _ _ ?_).trans ?_) | simp only [Out.all_next, Out.all_fault, Out.all_refused, State.sendBoards_mem] | split)

theorem State.endCycle_wf (s : State) (hs : Memory.wf s.mem = true) : Memory.wf s.endCycle.mem = true :=
  State.postFaults_wf _ (by simpa using hs)

theorem State.tick_wf (s : State) (hs : Memory.wf s.mem = true) : Memory.wf s.tick.mem = true := by
  unfold State.tick
  split
  exacts [hs, State.endCycle_wf s hs]

@[simp] theorem State.movePtr_mem (s : State) (k : Nat) :
    (State.movePtr s k).mem = s.mem :=
  rfl

theorem issueOf_wf (s : State) (k : Nat) (hs : Memory.wf s.mem = true) :
    Memory.wf ((issueOf s k).2).mem = true := by
  unfold issueOf
  try dsimp only
  repeat' (first | with_reducible (assumption) | with_reducible (apply fetchTarget_wf) | with_reducible (apply State.fetchWord_wf) | simp only [Out.all_next, Out.all_fault, Out.all_refused, State.movePtr_mem] | split)

end Sys2Proof.Machine
end

