-- ==== Sys2Proof/Laws/Ops.lean ====
section
/-! SUPPORT. One lemma for each shared operation of the headland that says what it can do. -/

namespace Sys2Proof.Machine

namespace State

theorem gprOf_eq (s : State) (k : Nat) (r : Reg) : s.gprOf k r = if r = 0 then 0 else Table.getD (s.thread k).gpr r.toNat 0 := rfl

/-- R16: a write of g0 is discarded; any other write changes one thread. -/
theorem setGprOf_eq (s : State) (k : Nat) (d : Reg) (v : Word) :
    s.setGprOf k d v = if d = 0 then s else s.setThread k { s.thread k with gpr := Table.putD (s.thread k).gpr d.toNat v 0 } := rfl

/-- R16: what writing a general register does to the registers. -/
theorem gprOf_setGprOf (s : State) (k j : Nat) (d r : Reg) (v : Word) :
    (s.setGprOf k d v).gprOf j r = if j = k ∧ r = d ∧ d ≠ 0 then v else s.gprOf j r := by
  rw [setGprOf_eq]
  by_cases hd : d = 0
  · rw [if_pos hd, if_neg (fun h => h.2.2 hd)]
  · rw [if_neg hd]
    simp only [gprOf_eq, thread_setThread]
    by_cases hk : k = j
    · subst hk
      by_cases hr : r = d
      · subst hr
        rw [if_neg hd, if_pos rfl, if_pos ⟨rfl, rfl, hd⟩]
        simp
      · have : d.toNat ≠ r.toNat := fun h => hr (BitVec.eq_of_toNat_eq h.symm)
        rw [if_pos rfl, if_neg (c := k = k ∧ r = d ∧ d ≠ 0) (fun h => hr h.2.1)]
        simp [this]
    · rw [if_neg hk, if_neg (c := j = k ∧ r = d ∧ d ≠ 0) (fun h => hk h.1.symm)]

/-- R16: writing a general register leaves everything of its thread but the registers. -/
theorem thread_setGprOf (s : State) (k j : Nat) (d : Reg) (v : Word) :
    { (s.setGprOf k d v).thread j with gpr := (s.thread j).gpr } = s.thread j := by
  rw [setGprOf_eq]
  split
  · rfl
  · rw [thread_setThread]
    split
    · next h => subst h; rfl
    · rfl

/-- R16: the written thread is as before but for its registers. -/
theorem thread_setGprOf_exists (s : State) (k : Nat) (d : Reg) (v : Word) :
    ∃ g, (s.setGprOf k d v).thread k = { s.thread k with gpr := g } := by
  rw [setGprOf_eq]
  split
  · exact ⟨_, rfl⟩
  · exact ⟨_, by rw [thread_setThread, if_pos rfl]⟩

/-- Writing a general register of a thread leaves the other threads. -/
theorem thread_setGprOf_ne (s : State) (k j : Nat) (d : Reg) (v : Word) (h : j ≠ k) : (s.setGprOf k d v).thread j = s.thread j := by
  rw [setGprOf_eq]
  split
  · rfl
  · rw [thread_setThread, if_neg (Ne.symm h)]

@[simp] theorem pc_thread_setGprOf (s : State) (k j : Nat) (d : Reg) (v : Word) : ((s.setGprOf k d v).thread j).pc = (s.thread j).pc := by
  rw [setGprOf_eq]
  split
  · rfl
  · rw [thread_setThread]
    split
    · next h => subst h; rfl
    · rfl

/-- Writing a general register changes threads only. -/
theorem setGprOf_machine (s : State) (k : Nat) (d : Reg) (v : Word) : { s.setGprOf k d v with threads := s.threads } = s := by
  rw [setGprOf_eq]
  split <;> rfl

@[simp] theorem focus_setGprOf (s : State) (k : Nat) (d : Reg) (v : Word) : (s.setGprOf k d v).focus = s.focus := by
  rw [setGprOf_eq]
  split <;> rfl

@[simp] theorem mem_setGprOf (s : State) (k : Nat) (d : Reg) (v : Word) : (s.setGprOf k d v).mem = s.mem := by
  rw [setGprOf_eq]
  split <;> rfl

@[simp] theorem me_setGprOf (s : State) (k : Nat) (d : Reg) (v : Word) : (s.setGprOf k d v).me = s.me := by
  simp [me]

@[simp] theorem pc_setGpr (s : State) (d : Reg) (v : Word) : (s.setGpr d v).pc = s.pc := by
  simp [pc, cur, setGpr]

/-- What moving a thread's pc does to the registers. -/
theorem gprOf_setPc (s : State) (v : Word) (j : Nat) (r : Reg) : (s.setPc v).gprOf j r = s.gprOf j r := by
  simp only [setPc, modMe_eq, gprOf_eq, thread_setThread]
  by_cases h : s.me = j
  · rw [if_pos h, ← h]
  · rw [if_neg h]

/-- R16, R54: what the end of an instruction with a register result does. -/
theorem finish_next (s : State) (d : Reg) (v : Word) :
    ∃ t, s.finish d v = .next t ∧ t.gpr d = (if d = 0 then 0 else v) ∧ t.pc = s.pc + 4 ∧ RegisterFrame s t d := by
  refine ⟨_, rfl, ?_, ?_, ?_, ?_, ?_, ?_, ?_⟩
  · show State.gprOf _ _ d = _
    rw [advance, gprOf_setPc]
    show (s.setGprOf s.me d v).gprOf ((s.setGpr d v).setPc _).me d = _
    rw [gprOf_setGprOf]
    have : ((s.setGpr d v).setPc ((s.setGpr d v).pc + 4)).me = s.me := by simp [setPc, me, setGpr]
    rw [this]
    by_cases hd : d = 0
    · rw [if_neg (fun h => h.2.2 hd), if_pos hd, gprOf_eq, if_pos hd]
    · rw [if_pos ⟨rfl, rfl, hd⟩, if_neg hd]
  · simp [advance, setPc, pc, cur, me, setGpr]
  · intro j r h
    rw [advance, gprOf_setPc, setGpr, gprOf_setGprOf, if_neg (fun h' => h ⟨h'.1, h'.2.1⟩)]
  · obtain ⟨g, hg⟩ := thread_setGprOf_exists s s.me d v
    have hm : (((s.setGpr d v).advance)).me = s.me := by simp [advance, setPc, me, setGpr]
    rw [cur, hm, advance, setPc, modMe_eq, thread_setThread, setGpr, me_setGprOf, if_pos rfl, hg]
    rfl
  · intro k hk
    simp only [advance, setPc, modMe_eq, setGpr, thread_setThread, me_setGprOf, if_neg (Ne.symm hk)]
    exact thread_setGprOf_ne s s.me k d v hk
  · exact setGprOf_machine s s.me d v
  · intro a
    show Memory.get (s.setGprOf s.me d v).mem a = _
    rw [mem_setGprOf]

end State

end Sys2Proof.Machine
end

