-- ==== Sys2Proof/Laws/PerInstr.lean ====
section
/-! SUPPORT. Fields of encoded words, and for every constructor that its encoding decodes to it. -/

namespace Sys2Proof

/-! ### Fields of a concatenation -/

theorem extract_high {n m : Nat} (x : BitVec n) (y : BitVec m) (lo len : Nat) (h : m ≤ lo) :
    (x ++ y).extractLsb' lo len = x.extractLsb' (lo - m) len := by
  apply BitVec.eq_of_getLsbD_eq
  intro i hi
  simp [BitVec.getLsbD_append, hi, show ¬ lo + i < m by omega, show lo + i - m = lo - m + i by omega]

theorem extract_low {n m : Nat} (x : BitVec n) (y : BitVec m) (lo len : Nat) (h : lo + len ≤ m) :
    (x ++ y).extractLsb' lo len = y.extractLsb' lo len := by
  apply BitVec.eq_of_getLsbD_eq
  intro i hi
  simp [BitVec.getLsbD_append, hi, show lo + i < m by omega]

theorem extract_all {n : Nat} (x : BitVec n) : x.extractLsb' 0 n = x := by
  apply BitVec.eq_of_getLsbD_eq
  intro i hi
  simp [hi]

/-! ### Fields of the word formats (R30) -/

theorem major_wordHR (op : BitVec 6) (d a b : Reg) (f : BitVec 11) : major (wordHR op d a b f) = op := by
  unfold major wordHR
  rw [extract_high (op ++ d ++ a ++ b) f 26 6 (by decide)]
  rw [extract_high (op ++ d ++ a) b 15 6 (by decide)]
  rw [extract_high (op ++ d) a 10 6 (by decide)]
  rw [extract_high op d 5 6 (by decide)]
  rw [extract_all op]

theorem fieldD_wordHR (op : BitVec 6) (d a b : Reg) (f : BitVec 11) : fieldD (wordHR op d a b f) = d := by
  unfold fieldD wordHR
  rw [extract_high (op ++ d ++ a ++ b) f 21 5 (by decide)]
  rw [extract_high (op ++ d ++ a) b 10 5 (by decide)]
  rw [extract_high (op ++ d) a 5 5 (by decide)]
  rw [extract_low op d 0 5 (by decide)]
  rw [extract_all d]

theorem fieldA_wordHR (op : BitVec 6) (d a b : Reg) (f : BitVec 11) : fieldA (wordHR op d a b f) = a := by
  unfold fieldA wordHR
  rw [extract_high (op ++ d ++ a ++ b) f 16 5 (by decide)]
  rw [extract_high (op ++ d ++ a) b 5 5 (by decide)]
  rw [extract_low (op ++ d) a 0 5 (by decide)]
  rw [extract_all a]

theorem fieldB_wordHR (op : BitVec 6) (d a b : Reg) (f : BitVec 11) : fieldB (wordHR op d a b f) = b := by
  unfold fieldB wordHR
  rw [extract_high (op ++ d ++ a ++ b) f 11 5 (by decide)]
  rw [extract_low (op ++ d ++ a) b 0 5 (by decide)]
  rw [extract_all b]

theorem fieldFunc_wordHR (op : BitVec 6) (d a b : Reg) (f : BitVec 11) : fieldFunc (wordHR op d a b f) = f := by
  unfold fieldFunc wordHR
  rw [extract_low (op ++ d ++ a ++ b) f 0 11 (by decide)]
  rw [extract_all f]

theorem major_wordHI (op : BitVec 6) (d a : Reg) (m : BitVec 16) : major (wordHI op d a m) = op := by
  unfold major wordHI
  rw [extract_high (op ++ d ++ a) m 26 6 (by decide)]
  rw [extract_high (op ++ d) a 10 6 (by decide)]
  rw [extract_high op d 5 6 (by decide)]
  rw [extract_all op]

theorem fieldD_wordHI (op : BitVec 6) (d a : Reg) (m : BitVec 16) : fieldD (wordHI op d a m) = d := by
  unfold fieldD wordHI
  rw [extract_high (op ++ d ++ a) m 21 5 (by decide)]
  rw [extract_high (op ++ d) a 5 5 (by decide)]
  rw [extract_low op d 0 5 (by decide)]
  rw [extract_all d]

theorem fieldA_wordHI (op : BitVec 6) (d a : Reg) (m : BitVec 16) : fieldA (wordHI op d a m) = a := by
  unfold fieldA wordHI
  rw [extract_high (op ++ d ++ a) m 16 5 (by decide)]
  rw [extract_low (op ++ d) a 0 5 (by decide)]
  rw [extract_all a]

theorem fieldImm_wordHI (op : BitVec 6) (d a : Reg) (m : BitVec 16) : fieldImm (wordHI op d a m) = m := by
  unfold fieldImm wordHI
  rw [extract_low (op ++ d ++ a) m 0 16 (by decide)]
  rw [extract_all m]

theorem major_wordHJ (op : BitVec 6) (d : Reg) (m : BitVec 21) : major (wordHJ op d m) = op := by
  unfold major wordHJ
  rw [extract_high (op ++ d) m 26 6 (by decide)]
  rw [extract_high op d 5 6 (by decide)]
  rw [extract_all op]

theorem fieldD_wordHJ (op : BitVec 6) (d : Reg) (m : BitVec 21) : fieldD (wordHJ op d m) = d := by
  unfold fieldD wordHJ
  rw [extract_high (op ++ d) m 21 5 (by decide)]
  rw [extract_low op d 0 5 (by decide)]
  rw [extract_all d]

theorem fieldOff21_wordHJ (op : BitVec 6) (d : Reg) (m : BitVec 21) : fieldOff21 (wordHJ op d m) = m := by
  unfold fieldOff21 wordHJ
  rw [extract_low (op ++ d) m 0 21 (by decide)]
  rw [extract_all m]

theorem major_wordHM (op : BitVec 6) (d a : Reg) (z : BitVec 2) (x : BitVec 1) (m : BitVec 13) : major (wordHM op d a z x m) = op := by
  unfold major wordHM
  rw [extract_high (op ++ d ++ a ++ z ++ x) m 26 6 (by decide)]
  rw [extract_high (op ++ d ++ a ++ z) x 13 6 (by decide)]
  rw [extract_high (op ++ d ++ a) z 12 6 (by decide)]
  rw [extract_high (op ++ d) a 10 6 (by decide)]
  rw [extract_high op d 5 6 (by decide)]
  rw [extract_all op]

theorem fieldD_wordHM (op : BitVec 6) (d a : Reg) (z : BitVec 2) (x : BitVec 1) (m : BitVec 13) : fieldD (wordHM op d a z x m) = d := by
  unfold fieldD wordHM
  rw [extract_high (op ++ d ++ a ++ z ++ x) m 21 5 (by decide)]
  rw [extract_high (op ++ d ++ a ++ z) x 8 5 (by decide)]
  rw [extract_high (op ++ d ++ a) z 7 5 (by decide)]
  rw [extract_high (op ++ d) a 5 5 (by decide)]
  rw [extract_low op d 0 5 (by decide)]
  rw [extract_all d]

theorem fieldA_wordHM (op : BitVec 6) (d a : Reg) (z : BitVec 2) (x : BitVec 1) (m : BitVec 13) : fieldA (wordHM op d a z x m) = a := by
  unfold fieldA wordHM
  rw [extract_high (op ++ d ++ a ++ z ++ x) m 16 5 (by decide)]
  rw [extract_high (op ++ d ++ a ++ z) x 3 5 (by decide)]
  rw [extract_high (op ++ d ++ a) z 2 5 (by decide)]
  rw [extract_low (op ++ d) a 0 5 (by decide)]
  rw [extract_all a]

theorem fieldSize_wordHM (op : BitVec 6) (d a : Reg) (z : BitVec 2) (x : BitVec 1) (m : BitVec 13) : fieldSize (wordHM op d a z x m) = z := by
  unfold fieldSize wordHM
  rw [extract_high (op ++ d ++ a ++ z ++ x) m 14 2 (by decide)]
  rw [extract_high (op ++ d ++ a ++ z) x 1 2 (by decide)]
  rw [extract_low (op ++ d ++ a) z 0 2 (by decide)]
  rw [extract_all z]

theorem fieldSx_wordHM (op : BitVec 6) (d a : Reg) (z : BitVec 2) (x : BitVec 1) (m : BitVec 13) : fieldSx (wordHM op d a z x m) = x := by
  unfold fieldSx wordHM
  rw [extract_high (op ++ d ++ a ++ z ++ x) m 13 1 (by decide)]
  rw [extract_low (op ++ d ++ a ++ z) x 0 1 (by decide)]
  rw [extract_all x]

theorem fieldOff13_wordHM (op : BitVec 6) (d a : Reg) (z : BitVec 2) (x : BitVec 1) (m : BitVec 13) : fieldOff13 (wordHM op d a z x m) = m := by
  unfold fieldOff13 wordHM
  rw [extract_low (op ++ d ++ a ++ z ++ x) m 0 13 (by decide)]
  rw [extract_all m]

theorem major_wordHC (op : BitVec 6) (d a b : Reg) (k : BitVec 6) (q : BitVec 5) : major (wordHC op d a b k q) = op := by
  unfold major wordHC
  rw [extract_high (op ++ d ++ a ++ b ++ k) q 26 6 (by decide)]
  rw [extract_high (op ++ d ++ a ++ b) k 21 6 (by decide)]
  rw [extract_high (op ++ d ++ a) b 15 6 (by decide)]
  rw [extract_high (op ++ d) a 10 6 (by decide)]
  rw [extract_high op d 5 6 (by decide)]
  rw [extract_all op]

theorem fieldD_wordHC (op : BitVec 6) (d a b : Reg) (k : BitVec 6) (q : BitVec 5) : fieldD (wordHC op d a b k q) = d := by
  unfold fieldD wordHC
  rw [extract_high (op ++ d ++ a ++ b ++ k) q 21 5 (by decide)]
  rw [extract_high (op ++ d ++ a ++ b) k 16 5 (by decide)]
  rw [extract_high (op ++ d ++ a) b 10 5 (by decide)]
  rw [extract_high (op ++ d) a 5 5 (by decide)]
  rw [extract_low op d 0 5 (by decide)]
  rw [extract_all d]

theorem fieldA_wordHC (op : BitVec 6) (d a b : Reg) (k : BitVec 6) (q : BitVec 5) : fieldA (wordHC op d a b k q) = a := by
  unfold fieldA wordHC
  rw [extract_high (op ++ d ++ a ++ b ++ k) q 16 5 (by decide)]
  rw [extract_high (op ++ d ++ a ++ b) k 11 5 (by decide)]
  rw [extract_high (op ++ d ++ a) b 5 5 (by decide)]
  rw [extract_low (op ++ d) a 0 5 (by decide)]
  rw [extract_all a]

theorem fieldB_wordHC (op : BitVec 6) (d a b : Reg) (k : BitVec 6) (q : BitVec 5) : fieldB (wordHC op d a b k q) = b := by
  unfold fieldB wordHC
  rw [extract_high (op ++ d ++ a ++ b ++ k) q 11 5 (by decide)]
  rw [extract_high (op ++ d ++ a ++ b) k 6 5 (by decide)]
  rw [extract_low (op ++ d ++ a) b 0 5 (by decide)]
  rw [extract_all b]

theorem fieldKind_wordHC (op : BitVec 6) (d a b : Reg) (k : BitVec 6) (q : BitVec 5) : fieldKind (wordHC op d a b k q) = k := by
  unfold fieldKind wordHC
  rw [extract_high (op ++ d ++ a ++ b ++ k) q 5 6 (by decide)]
  rw [extract_low (op ++ d ++ a ++ b) k 0 6 (by decide)]
  rw [extract_all k]

theorem fieldQual_wordHC (op : BitVec 6) (d a b : Reg) (k : BitVec 6) (q : BitVec 5) : fieldQual (wordHC op d a b k q) = q := by
  unfold fieldQual wordHC
  rw [extract_low (op ++ d ++ a ++ b ++ k) q 0 5 (by decide)]
  rw [extract_all q]

theorem major_wordHS (f : BitVec 10) (m : BitVec 16) : major (wordHS f m) = 0x3F#6 := by
  unfold major wordHS
  rw [extract_high (0x3F#6 ++ f) m 26 6 (by decide)]
  rw [extract_high 0x3F#6 f 10 6 (by decide)]
  rw [extract_all 0x3F#6]

theorem fieldSys_wordHS (f : BitVec 10) (m : BitVec 16) : fieldSys (wordHS f m) = f := by
  unfold fieldSys wordHS
  rw [extract_high (0x3F#6 ++ f) m 16 10 (by decide)]
  rw [extract_low 0x3F#6 f 0 10 (by decide)]
  rw [extract_all f]

theorem fieldImm_wordHS (f : BitVec 10) (m : BitVec 16) : fieldImm (wordHS f m) = m := by
  unfold fieldImm wordHS
  rw [extract_low (0x3F#6 ++ f) m 0 16 (by decide)]
  rw [extract_all m]

theorem major_wordAmo (op : BitVec 6) (d a b : Reg) (sc : Scope) (z : BitVec 2) (f : BitVec 6) : major (wordAmo op d a b sc z f) = op := by
  unfold major wordAmo
  rw [extract_high (op ++ d ++ a ++ b ++ encodeScope sc ++ z) f 26 6 (by decide)]
  rw [extract_high (op ++ d ++ a ++ b ++ encodeScope sc) z 20 6 (by decide)]
  rw [extract_high (op ++ d ++ a ++ b) (encodeScope sc) 18 6 (by decide)]
  rw [extract_high (op ++ d ++ a) b 15 6 (by decide)]
  rw [extract_high (op ++ d) a 10 6 (by decide)]
  rw [extract_high op d 5 6 (by decide)]
  rw [extract_all op]

theorem fieldD_wordAmo (op : BitVec 6) (d a b : Reg) (sc : Scope) (z : BitVec 2) (f : BitVec 6) : fieldD (wordAmo op d a b sc z f) = d := by
  unfold fieldD wordAmo
  rw [extract_high (op ++ d ++ a ++ b ++ encodeScope sc ++ z) f 21 5 (by decide)]
  rw [extract_high (op ++ d ++ a ++ b ++ encodeScope sc) z 15 5 (by decide)]
  rw [extract_high (op ++ d ++ a ++ b) (encodeScope sc) 13 5 (by decide)]
  rw [extract_high (op ++ d ++ a) b 10 5 (by decide)]
  rw [extract_high (op ++ d) a 5 5 (by decide)]
  rw [extract_low op d 0 5 (by decide)]
  rw [extract_all d]

theorem fieldA_wordAmo (op : BitVec 6) (d a b : Reg) (sc : Scope) (z : BitVec 2) (f : BitVec 6) : fieldA (wordAmo op d a b sc z f) = a := by
  unfold fieldA wordAmo
  rw [extract_high (op ++ d ++ a ++ b ++ encodeScope sc ++ z) f 16 5 (by decide)]
  rw [extract_high (op ++ d ++ a ++ b ++ encodeScope sc) z 10 5 (by decide)]
  rw [extract_high (op ++ d ++ a ++ b) (encodeScope sc) 8 5 (by decide)]
  rw [extract_high (op ++ d ++ a) b 5 5 (by decide)]
  rw [extract_low (op ++ d) a 0 5 (by decide)]
  rw [extract_all a]

theorem fieldB_wordAmo (op : BitVec 6) (d a b : Reg) (sc : Scope) (z : BitVec 2) (f : BitVec 6) : fieldB (wordAmo op d a b sc z f) = b := by
  unfold fieldB wordAmo
  rw [extract_high (op ++ d ++ a ++ b ++ encodeScope sc ++ z) f 11 5 (by decide)]
  rw [extract_high (op ++ d ++ a ++ b ++ encodeScope sc) z 5 5 (by decide)]
  rw [extract_high (op ++ d ++ a ++ b) (encodeScope sc) 3 5 (by decide)]
  rw [extract_low (op ++ d ++ a) b 0 5 (by decide)]
  rw [extract_all b]

theorem bits_8_3_wordAmo (op : BitVec 6) (d a b : Reg) (sc : Scope) (z : BitVec 2) (f : BitVec 6) : (wordAmo op d a b sc z f).extractLsb' 8 3 = encodeScope sc := by
  unfold wordAmo
  rw [extract_high (op ++ d ++ a ++ b ++ encodeScope sc ++ z) f 8 3 (by decide)]
  rw [extract_high (op ++ d ++ a ++ b ++ encodeScope sc) z 2 3 (by decide)]
  rw [extract_low (op ++ d ++ a ++ b) (encodeScope sc) 0 3 (by decide)]
  rw [extract_all (encodeScope sc)]

theorem bits_6_2_wordAmo (op : BitVec 6) (d a b : Reg) (sc : Scope) (z : BitVec 2) (f : BitVec 6) : (wordAmo op d a b sc z f).extractLsb' 6 2 = z := by
  unfold wordAmo
  rw [extract_high (op ++ d ++ a ++ b ++ encodeScope sc ++ z) f 6 2 (by decide)]
  rw [extract_low (op ++ d ++ a ++ b ++ encodeScope sc) z 0 2 (by decide)]
  rw [extract_all z]

theorem bits_0_6_wordAmo (op : BitVec 6) (d a b : Reg) (sc : Scope) (z : BitVec 2) (f : BitVec 6) : (wordAmo op d a b sc z f).extractLsb' 0 6 = f := by
  unfold wordAmo
  rw [extract_low (op ++ d ++ a ++ b ++ encodeScope sc ++ z) f 0 6 (by decide)]
  rw [extract_all f]

theorem major_wordCsr (k : BitVec 2) (d a : Reg) (n : BitVec 12) : major (wordCsr k d a n) = 0x20#6 := by
  unfold major wordCsr
  rw [extract_high (0x20#6 ++ d ++ a ++ k ++ 0#2) n 26 6 (by decide)]
  rw [extract_high (0x20#6 ++ d ++ a ++ k) 0#2 14 6 (by decide)]
  rw [extract_high (0x20#6 ++ d ++ a) k 12 6 (by decide)]
  rw [extract_high (0x20#6 ++ d) a 10 6 (by decide)]
  rw [extract_high 0x20#6 d 5 6 (by decide)]
  rw [extract_all 0x20#6]

theorem fieldD_wordCsr (k : BitVec 2) (d a : Reg) (n : BitVec 12) : fieldD (wordCsr k d a n) = d := by
  unfold fieldD wordCsr
  rw [extract_high (0x20#6 ++ d ++ a ++ k ++ 0#2) n 21 5 (by decide)]
  rw [extract_high (0x20#6 ++ d ++ a ++ k) 0#2 9 5 (by decide)]
  rw [extract_high (0x20#6 ++ d ++ a) k 7 5 (by decide)]
  rw [extract_high (0x20#6 ++ d) a 5 5 (by decide)]
  rw [extract_low 0x20#6 d 0 5 (by decide)]
  rw [extract_all d]

theorem fieldA_wordCsr (k : BitVec 2) (d a : Reg) (n : BitVec 12) : fieldA (wordCsr k d a n) = a := by
  unfold fieldA wordCsr
  rw [extract_high (0x20#6 ++ d ++ a ++ k ++ 0#2) n 16 5 (by decide)]
  rw [extract_high (0x20#6 ++ d ++ a ++ k) 0#2 4 5 (by decide)]
  rw [extract_high (0x20#6 ++ d ++ a) k 2 5 (by decide)]
  rw [extract_low (0x20#6 ++ d) a 0 5 (by decide)]
  rw [extract_all a]

theorem fieldSize_wordCsr (k : BitVec 2) (d a : Reg) (n : BitVec 12) : fieldSize (wordCsr k d a n) = k := by
  unfold fieldSize wordCsr
  rw [extract_high (0x20#6 ++ d ++ a ++ k ++ 0#2) n 14 2 (by decide)]
  rw [extract_high (0x20#6 ++ d ++ a ++ k) 0#2 2 2 (by decide)]
  rw [extract_low (0x20#6 ++ d ++ a) k 0 2 (by decide)]
  rw [extract_all k]

theorem bits_12_2_wordCsr (k : BitVec 2) (d a : Reg) (n : BitVec 12) : (wordCsr k d a n).extractLsb' 12 2 = 0#2 := by
  unfold wordCsr
  rw [extract_high (0x20#6 ++ d ++ a ++ k ++ 0#2) n 12 2 (by decide)]
  rw [extract_low (0x20#6 ++ d ++ a ++ k) 0#2 0 2 (by decide)]
  rw [extract_all 0#2]

theorem bits_0_12_wordCsr (k : BitVec 2) (d a : Reg) (n : BitVec 12) : (wordCsr k d a n).extractLsb' 0 12 = n := by
  unfold wordCsr
  rw [extract_low (0x20#6 ++ d ++ a ++ k ++ 0#2) n 0 12 (by decide)]
  rw [extract_all n]

theorem major_wordShift (op : BitVec 6) (d a : Reg) (m : BitVec 6) : major (wordShift op d a m) = op := by
  unfold major wordShift
  rw [extract_high (op ++ d ++ a ++ 0#10) m 26 6 (by decide)]
  rw [extract_high (op ++ d ++ a) 0#10 20 6 (by decide)]
  rw [extract_high (op ++ d) a 10 6 (by decide)]
  rw [extract_high op d 5 6 (by decide)]
  rw [extract_all op]

theorem fieldD_wordShift (op : BitVec 6) (d a : Reg) (m : BitVec 6) : fieldD (wordShift op d a m) = d := by
  unfold fieldD wordShift
  rw [extract_high (op ++ d ++ a ++ 0#10) m 21 5 (by decide)]
  rw [extract_high (op ++ d ++ a) 0#10 15 5 (by decide)]
  rw [extract_high (op ++ d) a 5 5 (by decide)]
  rw [extract_low op d 0 5 (by decide)]
  rw [extract_all d]

theorem fieldA_wordShift (op : BitVec 6) (d a : Reg) (m : BitVec 6) : fieldA (wordShift op d a m) = a := by
  unfold fieldA wordShift
  rw [extract_high (op ++ d ++ a ++ 0#10) m 16 5 (by decide)]
  rw [extract_high (op ++ d ++ a) 0#10 10 5 (by decide)]
  rw [extract_low (op ++ d) a 0 5 (by decide)]
  rw [extract_all a]

theorem bits_6_10_wordShift (op : BitVec 6) (d a : Reg) (m : BitVec 6) : (wordShift op d a m).extractLsb' 6 10 = 0#10 := by
  unfold wordShift
  rw [extract_high (op ++ d ++ a ++ 0#10) m 6 10 (by decide)]
  rw [extract_low (op ++ d ++ a) 0#10 0 10 (by decide)]
  rw [extract_all 0#10]

theorem bits_0_6_wordShift (op : BitVec 6) (d a : Reg) (m : BitVec 6) : (wordShift op d a m).extractLsb' 0 6 = m := by
  unfold wordShift
  rw [extract_low (op ++ d ++ a ++ 0#10) m 0 6 (by decide)]
  rw [extract_all m]

/-! ### The slot word (R43) -/

theorem slotFields_encode (op : BitVec 8) (f : SlotFields) :
    slotFieldsOf (op ++ f.action ++ f.srcA ++ f.srcB ++ f.dst0 ++ f.dst1) (f.qual ++ f.extra ++ f.ext) = f := by
  obtain ⟨action, srcA, srcB, dst0, dst1, qual, extra, ext⟩ := f
  simp only [slotFieldsOf, SlotFields.mk.injEq]
  refine ⟨?_, ?_, ?_, ?_, ?_, ?_, ?_, ?_⟩
  · rw [extract_high (op ++ action ++ srcA ++ srcB ++ dst0) dst1 20 4 (by decide), extract_high (op ++ action ++ srcA ++ srcB) dst0 14 4 (by decide), extract_high (op ++ action ++ srcA) srcB 8 4 (by decide), extract_high (op ++ action) srcA 4 4 (by decide), extract_low op action 0 4 (by decide), extract_all action]
  · rw [extract_high (op ++ action ++ srcA ++ srcB ++ dst0) dst1 16 4 (by decide), extract_high (op ++ action ++ srcA ++ srcB) dst0 10 4 (by decide), extract_high (op ++ action ++ srcA) srcB 4 4 (by decide), extract_low (op ++ action) srcA 0 4 (by decide), extract_all srcA]
  · rw [extract_high (op ++ action ++ srcA ++ srcB ++ dst0) dst1 12 4 (by decide), extract_high (op ++ action ++ srcA ++ srcB) dst0 6 4 (by decide), extract_low (op ++ action ++ srcA) srcB 0 4 (by decide), extract_all srcB]
  · rw [extract_high (op ++ action ++ srcA ++ srcB ++ dst0) dst1 6 6 (by decide), extract_low (op ++ action ++ srcA ++ srcB) dst0 0 6 (by decide), extract_all dst0]
  · rw [extract_low (op ++ action ++ srcA ++ srcB ++ dst0) dst1 0 6 (by decide), extract_all dst1]
  · rw [extract_high (qual ++ extra) ext 24 8 (by decide), extract_high qual extra 8 8 (by decide), extract_all qual]
  · rw [extract_high (qual ++ extra) ext 16 8 (by decide), extract_low qual extra 0 8 (by decide), extract_all extra]
  · rw [extract_low (qual ++ extra) ext 0 16 (by decide), extract_all ext]

theorem opcode_encode (op : BitVec 8) (f : SlotFields) :
    ((op ++ f.action ++ f.srcA ++ f.srcB ++ f.dst0 ++ f.dst1 : Word32)).extractLsb' 24 8 = op := by
  rw [extract_high (op ++ f.action ++ f.srcA ++ f.srcB ++ f.dst0) f.dst1 24 8 (by decide),
    extract_high (op ++ f.action ++ f.srcA ++ f.srcB) f.dst0 18 8 (by decide),
    extract_high (op ++ f.action ++ f.srcA) f.srcB 12 8 (by decide),
    extract_high (op ++ f.action) f.srcA 8 8 (by decide),
    extract_high op f.action 4 8 (by decide),
    extract_all op]

theorem barcfgWrite_csr (n : BitVec 4) (k : CsrOp) (d a : Reg) : decodeCsrWrite k d a (0x05#8 ++ n) = .barcfgWrite k n d a := by
  have h := (by decide : ∀ n : BitVec 4, isSpecialCsr (0x05#8 ++ n) = true ∧ (0x05#8 ++ n).toNat = 0x50 + n.toNat ∧
    (0x05#8 ++ n).extractLsb' 0 4 = n) n
  have hn := n.isLt
  unfold decodeCsrWrite
  simp only [h.1, h.2.1, h.2.2]
  split <;> first | omega | (split <;> first | rfl | omega) | simp_all

theorem occWrite_csr (n : BitVec 4) (k : CsrOp) (d a : Reg) : decodeCsrWrite k d a (0x07#8 ++ n) = .occWrite k n d a := by
  have h := (by decide : ∀ n : BitVec 4, isSpecialCsr (0x07#8 ++ n) = true ∧ (0x07#8 ++ n).toNat = 0x70 + n.toNat ∧
    (0x07#8 ++ n).extractLsb' 0 4 = n) n
  have hn := n.isLt
  unfold decodeCsrWrite
  simp only [h.1, h.2.1, h.2.2]
  split <;> first | omega | (split <;> first | rfl | omega) | simp_all

theorem normrd_qual : ∀ (high : Bool) (n : BitVec 4), ((bit1 high ++ n).extractLsb' 4 1 == 1) = high ∧ (bit1 high ++ n).extractLsb' 0 4 = n := by
  decide

theorem normclr_qual : ∀ n : BitVec 4, ((0#1 ++ n).extractLsb' 4 1 == 0) = true ∧ (0#1 ++ n).extractLsb' 0 4 = n := by
  decide

theorem word_amo (d a b : Reg) (sc : Scope) (sz : AmoSize) (f : BitVec 6) :
    decodeWord (wordAmo 0x12 d a b sc (encodeAmoSize sz) f) = decodeAmo f sc sz d a b := by
  simp only [decodeWord, major_wordAmo, fieldD_wordAmo, fieldA_wordAmo, fieldB_wordAmo, bits_8_3_wordAmo, bits_6_2_wordAmo, bits_0_6_wordAmo]
  cases sc <;> cases sz <;> rfl

theorem word_csr (k : CsrOp) (d a : Reg) (n : BitVec 12) : decodeWord (wordCsr (encodeCsrOp k) d a n) = .ok (decodeCsrWrite k d a n) := by
  simp only [decodeWord, decodeCsr, major_wordCsr, fieldD_wordCsr, fieldA_wordCsr, fieldSize_wordCsr, bits_12_2_wordCsr, bits_0_12_wordCsr]
  cases k <;> rfl

theorem csrWrite_plain (k : CsrOp) (d a : Reg) (n : BitVec 12) (h : (!isSpecialCsr n) = true) :
    decodeCsrWrite k d a n = match k with
      | .write => .csrw d a n
      | .set => .csrs d a n
      | .clear => .csrc d a n := by
  unfold decodeCsrWrite
  rw [show isSpecialCsr n = false by simpa using h] <;> rfl

namespace Laws.Encodes

/-- The words of a well-formed instruction decode to it: a headland word, or a slot word with its side word. -/
def Statement (i : Instr) : Prop :=
  i.wf = true → (∀ w, encode i = some w → decodeWord w = .ok i) ∧ ∀ p, encodeSlot i = some p → decodeSlot p.1 p.2 = .ok i

theorem of_word {i : Instr} {w : Word32} (h : encode i = some w) (hs : slotOpcode i = none) (hd : i.wf = true → decodeWord w = .ok i) :
    Statement i := by
  intro hw
  refine ⟨fun v hv => ?_, fun p hp => ?_⟩
  · rw [h] at hv; rw [← Option.some.inj hv]; exact hd hw
  · rw [encodeSlot, hs] at hp; exact nomatch hp

theorem of_slot {i : Instr} {op : BitVec 8} {f : SlotFields} (he : encode i = none) (h : slotOpcode i = some (op, f))
    (hw : i.wf = f.wf) (ho : slotOfOpcode op.toNat f = some i) : Statement i := by
  intro hi
  refine ⟨fun v hv => ?_, fun p hp => ?_⟩
  · rw [he] at hv; exact nomatch hv
  · rw [encodeSlot, h] at hp
    rw [← Option.some.inj hp]
    rw [hw] at hi
    simp only [SlotFields.wf, Bool.and_eq_true, decide_eq_true_eq, bne_iff_ne, ne_eq] at hi
    obtain ⟨⟨⟨⟨h1, h2⟩, h3⟩, h4⟩, h5⟩ := hi
    simp only [decodeSlot, opcode_encode, slotFields_encode, ho, h2, h3, h4, h5]
    simp [Nat.not_le.2 h1]

theorem of_event {i : Instr} (he : encode i = none) (h : slotOpcode i = none) : Statement i := by
  intro _
  refine ⟨fun v hv => ?_, fun p hp => ?_⟩
  · rw [he] at hv; exact nomatch hv
  · rw [encodeSlot, h] at hp; exact nomatch hp

theorem word_alu (d a b : Reg) (f : BitVec 11) : decodeWord (wordHR 0 d a b f) = decodeAlu f d a b := by
  simp only [decodeWord, major_wordHR, fieldD_wordHR, fieldA_wordHR, fieldB_wordHR, fieldFunc_wordHR]
  rfl

theorem word_sync (d a b : Reg) (f : BitVec 11) : decodeWord (wordHR 0x21 d a b f) = decodeSync f d a b := by
  simp only [decodeWord, major_wordHR, fieldD_wordHR, fieldA_wordHR, fieldB_wordHR, fieldFunc_wordHR]
  rfl

theorem word_thread (d a b : Reg) (f : BitVec 11) : decodeWord (wordHR 0x22 d a b f) = decodeThread f d a b := by
  simp only [decodeWord, major_wordHR, fieldD_wordHR, fieldA_wordHR, fieldB_wordHR, fieldFunc_wordHR]
  rfl

theorem word_fabric (d a b : Reg) (k : BitVec 6) (q : BitVec 5) : decodeWord (wordHC 0x23 d a b k q) = decodeFabric k q d a b := by
  simp only [decodeWord, major_wordHC, fieldD_wordHC, fieldA_wordHC, fieldB_wordHC, fieldKind_wordHC, fieldQual_wordHC]
  rfl

theorem word_board (d a b : Reg) (k : BitVec 6) (q : BitVec 5) : decodeWord (wordHC 0x24 d a b k q) = decodeBoard k q d a b := by
  simp only [decodeWord, major_wordHC, fieldD_wordHC, fieldA_wordHC, fieldB_wordHC, fieldKind_wordHC, fieldQual_wordHC]
  rfl

theorem word_cache (d a b : Reg) (k : BitVec 6) (q : BitVec 5) : decodeWord (wordHC 0x25 d a b k q) = decodeCache k q d a b := by
  simp only [decodeWord, major_wordHC, fieldD_wordHC, fieldA_wordHC, fieldB_wordHC, fieldKind_wordHC, fieldQual_wordHC]
  rfl

theorem word_gen (d a b : Reg) (k : BitVec 6) (q : BitVec 5) : decodeWord (wordHC 0x26 d a b k q) = decodeGen k q d a b := by
  simp only [decodeWord, major_wordHC, fieldD_wordHC, fieldA_wordHC, fieldB_wordHC, fieldKind_wordHC, fieldQual_wordHC]
  rfl

theorem word_coll (d a b : Reg) (k : BitVec 6) (q : BitVec 5) : decodeWord (wordHC 0x27 d a b k q) = decodeColl k q d a b := by
  simp only [decodeWord, major_wordHC, fieldD_wordHC, fieldA_wordHC, fieldB_wordHC, fieldKind_wordHC, fieldQual_wordHC]
  rfl

theorem word_twin (d a b : Reg) (k : BitVec 6) (q : BitVec 5) : decodeWord (wordHC 0x28 d a b k q) = decodeTwin k q d a b := by
  simp only [decodeWord, major_wordHC, fieldD_wordHC, fieldA_wordHC, fieldB_wordHC, fieldKind_wordHC, fieldQual_wordHC]
  rfl

theorem word_sys (f : BitVec 10) (m : BitVec 16) : decodeWord (wordHS f m) = decodeSys f m := by
  simp only [decodeWord, major_wordHS, fieldSys_wordHS, fieldImm_wordHS]
  rfl

theorem add (d a b : Reg) : Statement (.add d a b) := of_word rfl rfl fun _ => (word_alu ..).trans rfl

theorem sub (d a b : Reg) : Statement (.sub d a b) := of_word rfl rfl fun _ => (word_alu ..).trans rfl

theorem and (d a b : Reg) : Statement (.and d a b) := of_word rfl rfl fun _ => (word_alu ..).trans rfl

theorem or (d a b : Reg) : Statement (.or d a b) := of_word rfl rfl fun _ => (word_alu ..).trans rfl

theorem xor (d a b : Reg) : Statement (.xor d a b) := of_word rfl rfl fun _ => (word_alu ..).trans rfl

theorem andn (d a b : Reg) : Statement (.andn d a b) := of_word rfl rfl fun _ => (word_alu ..).trans rfl

theorem shl (d a b : Reg) : Statement (.shl d a b) := of_word rfl rfl fun _ => (word_alu ..).trans rfl

theorem shr (d a b : Reg) : Statement (.shr d a b) := of_word rfl rfl fun _ => (word_alu ..).trans rfl

theorem sar (d a b : Reg) : Statement (.sar d a b) := of_word rfl rfl fun _ => (word_alu ..).trans rfl

theorem slt (d a b : Reg) : Statement (.slt d a b) := of_word rfl rfl fun _ => (word_alu ..).trans rfl

theorem sltu (d a b : Reg) : Statement (.sltu d a b) := of_word rfl rfl fun _ => (word_alu ..).trans rfl

theorem min (d a b : Reg) : Statement (.min d a b) := of_word rfl rfl fun _ => (word_alu ..).trans rfl

theorem max (d a b : Reg) : Statement (.max d a b) := of_word rfl rfl fun _ => (word_alu ..).trans rfl

theorem minu (d a b : Reg) : Statement (.minu d a b) := of_word rfl rfl fun _ => (word_alu ..).trans rfl

theorem maxu (d a b : Reg) : Statement (.maxu d a b) := of_word rfl rfl fun _ => (word_alu ..).trans rfl

theorem mul (d a b : Reg) : Statement (.mul d a b) := of_word rfl rfl fun _ => (word_alu ..).trans rfl

theorem mulh (d a b : Reg) : Statement (.mulh d a b) := of_word rfl rfl fun _ => (word_alu ..).trans rfl

theorem mulhu (d a b : Reg) : Statement (.mulhu d a b) := of_word rfl rfl fun _ => (word_alu ..).trans rfl

theorem mulhsu (d a b : Reg) : Statement (.mulhsu d a b) := of_word rfl rfl fun _ => (word_alu ..).trans rfl

theorem div (d a b : Reg) : Statement (.div d a b) := of_word rfl rfl fun _ => (word_alu ..).trans rfl

theorem divu (d a b : Reg) : Statement (.divu d a b) := of_word rfl rfl fun _ => (word_alu ..).trans rfl

theorem rem (d a b : Reg) : Statement (.rem d a b) := of_word rfl rfl fun _ => (word_alu ..).trans rfl

theorem remu (d a b : Reg) : Statement (.remu d a b) := of_word rfl rfl fun _ => (word_alu ..).trans rfl

theorem clz (d a : Reg) : Statement (.clz d a) := of_word rfl rfl fun _ => (word_alu ..).trans rfl

theorem ctz (d a : Reg) : Statement (.ctz d a) := of_word rfl rfl fun _ => (word_alu ..).trans rfl

theorem popc (d a : Reg) : Statement (.popc d a) := of_word rfl rfl fun _ => (word_alu ..).trans rfl

theorem bswap (d a : Reg) : Statement (.bswap d a) := of_word rfl rfl fun _ => (word_alu ..).trans rfl

theorem sextb (d a : Reg) : Statement (.sextb d a) := of_word rfl rfl fun _ => (word_alu ..).trans rfl

theorem sexth (d a : Reg) : Statement (.sexth d a) := of_word rfl rfl fun _ => (word_alu ..).trans rfl

theorem sextw (d a : Reg) : Statement (.sextw d a) := of_word rfl rfl fun _ => (word_alu ..).trans rfl

theorem zextb (d a : Reg) : Statement (.zextb d a) := of_word rfl rfl fun _ => (word_alu ..).trans rfl

theorem zexth (d a : Reg) : Statement (.zexth d a) := of_word rfl rfl fun _ => (word_alu ..).trans rfl

theorem zextw (d a : Reg) : Statement (.zextw d a) := of_word rfl rfl fun _ => (word_alu ..).trans rfl

theorem addi (d a : Reg) (imm : BitVec 16) : Statement (.addi d a imm) := of_word rfl rfl fun _ => by
  have h : decodeWord (wordHI 0x01 d a imm) = .ok (.addi (fieldD (wordHI 0x01 d a imm)) (fieldA (wordHI 0x01 d a imm)) (fieldImm (wordHI 0x01 d a imm))) := by
    unfold decodeWord; rw [major_wordHI]; rfl
  rw [h, fieldD_wordHI, fieldA_wordHI, fieldImm_wordHI]

theorem andi (d a : Reg) (imm : BitVec 16) : Statement (.andi d a imm) := of_word rfl rfl fun _ => by
  have h : decodeWord (wordHI 0x02 d a imm) = .ok (.andi (fieldD (wordHI 0x02 d a imm)) (fieldA (wordHI 0x02 d a imm)) (fieldImm (wordHI 0x02 d a imm))) := by
    unfold decodeWord; rw [major_wordHI]; rfl
  rw [h, fieldD_wordHI, fieldA_wordHI, fieldImm_wordHI]

theorem ori (d a : Reg) (imm : BitVec 16) : Statement (.ori d a imm) := of_word rfl rfl fun _ => by
  have h : decodeWord (wordHI 0x03 d a imm) = .ok (.ori (fieldD (wordHI 0x03 d a imm)) (fieldA (wordHI 0x03 d a imm)) (fieldImm (wordHI 0x03 d a imm))) := by
    unfold decodeWord; rw [major_wordHI]; rfl
  rw [h, fieldD_wordHI, fieldA_wordHI, fieldImm_wordHI]

theorem xori (d a : Reg) (imm : BitVec 16) : Statement (.xori d a imm) := of_word rfl rfl fun _ => by
  have h : decodeWord (wordHI 0x04 d a imm) = .ok (.xori (fieldD (wordHI 0x04 d a imm)) (fieldA (wordHI 0x04 d a imm)) (fieldImm (wordHI 0x04 d a imm))) := by
    unfold decodeWord; rw [major_wordHI]; rfl
  rw [h, fieldD_wordHI, fieldA_wordHI, fieldImm_wordHI]

theorem slti (d a : Reg) (imm : BitVec 16) : Statement (.slti d a imm) := of_word rfl rfl fun _ => by
  have h : decodeWord (wordHI 0x05 d a imm) = .ok (.slti (fieldD (wordHI 0x05 d a imm)) (fieldA (wordHI 0x05 d a imm)) (fieldImm (wordHI 0x05 d a imm))) := by
    unfold decodeWord; rw [major_wordHI]; rfl
  rw [h, fieldD_wordHI, fieldA_wordHI, fieldImm_wordHI]

theorem sltiu (d a : Reg) (imm : BitVec 16) : Statement (.sltiu d a imm) := of_word rfl rfl fun _ => by
  have h : decodeWord (wordHI 0x06 d a imm) = .ok (.sltiu (fieldD (wordHI 0x06 d a imm)) (fieldA (wordHI 0x06 d a imm)) (fieldImm (wordHI 0x06 d a imm))) := by
    unfold decodeWord; rw [major_wordHI]; rfl
  rw [h, fieldD_wordHI, fieldA_wordHI, fieldImm_wordHI]

theorem shli (d a : Reg) (amt : BitVec 6) : Statement (.shli d a amt) := of_word rfl rfl fun _ => by
  simp only [decodeWord, decodeShift, major_wordShift, fieldD_wordShift, fieldA_wordShift, bits_6_10_wordShift, bits_0_6_wordShift]
  rfl

theorem shri (d a : Reg) (amt : BitVec 6) : Statement (.shri d a amt) := of_word rfl rfl fun _ => by
  simp only [decodeWord, decodeShift, major_wordShift, fieldD_wordShift, fieldA_wordShift, bits_6_10_wordShift, bits_0_6_wordShift]
  rfl

theorem sari (d a : Reg) (amt : BitVec 6) : Statement (.sari d a amt) := of_word rfl rfl fun _ => by
  simp only [decodeWord, decodeShift, major_wordShift, fieldD_wordShift, fieldA_wordShift, bits_6_10_wordShift, bits_0_6_wordShift]
  rfl

theorem lui (d : Reg) (imm : BitVec 16) : Statement (.lui d imm) := of_word rfl rfl fun _ => by
  have h : decodeWord (wordHI 0x0A d 0 imm) = needZero (fieldA (wordHI 0x0A d 0 imm) == 0) (.lui (fieldD (wordHI 0x0A d 0 imm)) (fieldImm (wordHI 0x0A d 0 imm))) := by
    unfold decodeWord; rw [major_wordHI]; rfl
  rw [h, fieldD_wordHI, fieldA_wordHI, fieldImm_wordHI]
  rfl

theorem lus (d : Reg) (imm : BitVec 16) : Statement (.lus d imm) := of_word rfl rfl fun _ => by
  have h : decodeWord (wordHI 0x0B d 0 imm) = needZero (fieldA (wordHI 0x0B d 0 imm) == 0) (.lus (fieldD (wordHI 0x0B d 0 imm)) (fieldImm (wordHI 0x0B d 0 imm))) := by
    unfold decodeWord; rw [major_wordHI]; rfl
  rw [h, fieldD_wordHI, fieldA_wordHI, fieldImm_wordHI]
  rfl

theorem addpc (d : Reg) (imm : BitVec 16) : Statement (.addpc d imm) := of_word rfl rfl fun _ => by
  have h : decodeWord (wordHI 0x0C d 0 imm) = needZero (fieldA (wordHI 0x0C d 0 imm) == 0) (.addpc (fieldD (wordHI 0x0C d 0 imm)) (fieldImm (wordHI 0x0C d 0 imm))) := by
    unfold decodeWord; rw [major_wordHI]; rfl
  rw [h, fieldD_wordHI, fieldA_wordHI, fieldImm_wordHI]
  rfl

theorem ld (sz : MemSize) (sx : Bool) (d a : Reg) (off : BitVec 13) : Statement (.ld sz sx d a off) := of_word rfl rfl fun hw => by
  simp only [decodeWord, major_wordHM, fieldD_wordHM, fieldA_wordHM, fieldSize_wordHM, fieldSx_wordHM, fieldOff13_wordHM]
  cases sz <;> cases sx <;> first | rfl | exact nomatch hw

theorem st (sz : MemSize) (d a : Reg) (off : BitVec 13) : Statement (.st sz d a off) := of_word rfl rfl fun hw => by
  simp only [decodeWord, major_wordHM, fieldD_wordHM, fieldA_wordHM, fieldSize_wordHM, fieldSx_wordHM, fieldOff13_wordHM]
  cases sz <;> first | rfl | exact nomatch hw

theorem amoAdd (sc : Scope) (sz : AmoSize) (d a b : Reg) : Statement (.amoAdd sc sz d a b) := of_word rfl rfl fun _ => (word_amo ..).trans (by cases sz <;> rfl)

theorem amoAnd (sc : Scope) (sz : AmoSize) (d a b : Reg) : Statement (.amoAnd sc sz d a b) := of_word rfl rfl fun _ => (word_amo ..).trans (by cases sz <;> rfl)

theorem amoOr (sc : Scope) (sz : AmoSize) (d a b : Reg) : Statement (.amoOr sc sz d a b) := of_word rfl rfl fun _ => (word_amo ..).trans (by cases sz <;> rfl)

theorem amoXor (sc : Scope) (sz : AmoSize) (d a b : Reg) : Statement (.amoXor sc sz d a b) := of_word rfl rfl fun _ => (word_amo ..).trans (by cases sz <;> rfl)

theorem amoMin (sc : Scope) (sz : AmoSize) (d a b : Reg) : Statement (.amoMin sc sz d a b) := of_word rfl rfl fun _ => (word_amo ..).trans (by cases sz <;> rfl)

theorem amoMax (sc : Scope) (sz : AmoSize) (d a b : Reg) : Statement (.amoMax sc sz d a b) := of_word rfl rfl fun _ => (word_amo ..).trans (by cases sz <;> rfl)

theorem amoMinu (sc : Scope) (sz : AmoSize) (d a b : Reg) : Statement (.amoMinu sc sz d a b) := of_word rfl rfl fun _ => (word_amo ..).trans (by cases sz <;> rfl)

theorem amoMaxu (sc : Scope) (sz : AmoSize) (d a b : Reg) : Statement (.amoMaxu sc sz d a b) := of_word rfl rfl fun _ => (word_amo ..).trans (by cases sz <;> rfl)

theorem amoSwap (sc : Scope) (sz : AmoSize) (d a b : Reg) : Statement (.amoSwap sc sz d a b) := of_word rfl rfl fun _ => (word_amo ..).trans (by cases sz <;> rfl)

theorem amoIncw (sc : Scope) (sz : AmoSize) (d a b : Reg) : Statement (.amoIncw sc sz d a b) := of_word rfl rfl fun _ => (word_amo ..).trans (by cases sz <;> rfl)

theorem amoBfadd (sc : Scope) (sz : AmoSize) (d a b : Reg) : Statement (.amoBfadd sc sz d a b) := of_word rfl rfl fun _ => (word_amo ..).trans (by cases sz <;> rfl)

theorem amoFmin (sc : Scope) (d a b : Reg) : Statement (.amoFmin sc d a b) := of_word rfl rfl fun _ => (word_amo _ _ _ _ .word _).trans rfl

theorem amoFmax (sc : Scope) (d a b : Reg) : Statement (.amoFmax sc d a b) := of_word rfl rfl fun _ => (word_amo _ _ _ _ .word _).trans rfl

theorem amoFadd (sc : Scope) (d a b : Reg) : Statement (.amoFadd sc d a b) := of_word rfl rfl fun _ => (word_amo _ _ _ _ .word _).trans rfl

theorem cas (sc : Scope) (sz : AmoSize) (d a b : Reg) : Statement (.cas sc sz d a b) := of_word rfl rfl fun _ => by
  simp only [decodeWord, major_wordAmo, fieldD_wordAmo, fieldA_wordAmo, fieldB_wordAmo, bits_8_3_wordAmo, bits_6_2_wordAmo, bits_0_6_wordAmo]
  cases sc <;> cases sz <;> rfl

theorem beq (a b : Reg) (off : BitVec 16) : Statement (.beq a b off) := of_word rfl rfl fun _ => by
  have h : decodeWord (wordHI 0x14 a b off) = .ok (.beq (fieldD (wordHI 0x14 a b off)) (fieldA (wordHI 0x14 a b off)) (fieldImm (wordHI 0x14 a b off))) := by
    unfold decodeWord; rw [major_wordHI]; rfl
  rw [h, fieldD_wordHI, fieldA_wordHI, fieldImm_wordHI]

theorem bne (a b : Reg) (off : BitVec 16) : Statement (.bne a b off) := of_word rfl rfl fun _ => by
  have h : decodeWord (wordHI 0x15 a b off) = .ok (.bne (fieldD (wordHI 0x15 a b off)) (fieldA (wordHI 0x15 a b off)) (fieldImm (wordHI 0x15 a b off))) := by
    unfold decodeWord; rw [major_wordHI]; rfl
  rw [h, fieldD_wordHI, fieldA_wordHI, fieldImm_wordHI]

theorem blt (a b : Reg) (off : BitVec 16) : Statement (.blt a b off) := of_word rfl rfl fun _ => by
  have h : decodeWord (wordHI 0x16 a b off) = .ok (.blt (fieldD (wordHI 0x16 a b off)) (fieldA (wordHI 0x16 a b off)) (fieldImm (wordHI 0x16 a b off))) := by
    unfold decodeWord; rw [major_wordHI]; rfl
  rw [h, fieldD_wordHI, fieldA_wordHI, fieldImm_wordHI]

theorem bge (a b : Reg) (off : BitVec 16) : Statement (.bge a b off) := of_word rfl rfl fun _ => by
  have h : decodeWord (wordHI 0x17 a b off) = .ok (.bge (fieldD (wordHI 0x17 a b off)) (fieldA (wordHI 0x17 a b off)) (fieldImm (wordHI 0x17 a b off))) := by
    unfold decodeWord; rw [major_wordHI]; rfl
  rw [h, fieldD_wordHI, fieldA_wordHI, fieldImm_wordHI]

theorem bltu (a b : Reg) (off : BitVec 16) : Statement (.bltu a b off) := of_word rfl rfl fun _ => by
  have h : decodeWord (wordHI 0x18 a b off) = .ok (.bltu (fieldD (wordHI 0x18 a b off)) (fieldA (wordHI 0x18 a b off)) (fieldImm (wordHI 0x18 a b off))) := by
    unfold decodeWord; rw [major_wordHI]; rfl
  rw [h, fieldD_wordHI, fieldA_wordHI, fieldImm_wordHI]

theorem bgeu (a b : Reg) (off : BitVec 16) : Statement (.bgeu a b off) := of_word rfl rfl fun _ => by
  have h : decodeWord (wordHI 0x19 a b off) = .ok (.bgeu (fieldD (wordHI 0x19 a b off)) (fieldA (wordHI 0x19 a b off)) (fieldImm (wordHI 0x19 a b off))) := by
    unfold decodeWord; rw [major_wordHI]; rfl
  rw [h, fieldD_wordHI, fieldA_wordHI, fieldImm_wordHI]

theorem jal (d : Reg) (off : BitVec 21) : Statement (.jal d off) := of_word rfl rfl fun _ => by
  have h : decodeWord (wordHJ 0x1A d off) = .ok (.jal (fieldD (wordHJ 0x1A d off)) (fieldOff21 (wordHJ 0x1A d off))) := by
    unfold decodeWord; rw [major_wordHJ]; rfl
  rw [h, fieldD_wordHJ, fieldOff21_wordHJ]

theorem jalr (d a : Reg) (imm : BitVec 16) : Statement (.jalr d a imm) := of_word rfl rfl fun _ => by
  have h : decodeWord (wordHI 0x1B d a imm) = .ok (.jalr (fieldD (wordHI 0x1B d a imm)) (fieldA (wordHI 0x1B d a imm)) (fieldImm (wordHI 0x1B d a imm))) := by
    unfold decodeWord; rw [major_wordHI]; rfl
  rw [h, fieldD_wordHI, fieldA_wordHI, fieldImm_wordHI]

theorem csrr (d : Reg) (n : BitVec 12) : Statement (.csrr d n) := of_word rfl rfl fun _ => by
  simp only [decodeWord, decodeCsr, major_wordCsr, fieldD_wordCsr, fieldA_wordCsr, fieldSize_wordCsr, bits_12_2_wordCsr, bits_0_12_wordCsr]
  rfl

theorem csrw (d a : Reg) (n : BitVec 12) : Statement (.csrw d a n) := of_word rfl rfl fun hw => by
  exact (word_csr .write d a n).trans (congrArg Except.ok (csrWrite_plain _ d a n hw))

theorem csrs (d a : Reg) (n : BitVec 12) : Statement (.csrs d a n) := of_word rfl rfl fun hw => by
  exact (word_csr .set d a n).trans (congrArg Except.ok (csrWrite_plain _ d a n hw))

theorem csrc (d a : Reg) (n : BitVec 12) : Statement (.csrc d a n) := of_word rfl rfl fun hw => by
  exact (word_csr .clear d a n).trans (congrArg Except.ok (csrWrite_plain _ d a n hw))

theorem tstatWrite (k : CsrOp) (d a : Reg) : Statement (.tstatWrite k d a) := of_word rfl rfl fun _ => by
  exact (word_csr ..).trans (by cases k <;> rfl)

theorem tlbiWrite (k : CsrOp) (d a : Reg) : Statement (.tlbiWrite k d a) := of_word rfl rfl fun _ => by
  exact (word_csr ..).trans (by cases k <;> rfl)

theorem trunWrite (k : CsrOp) (d a : Reg) : Statement (.trunWrite k d a) := of_word rfl rfl fun _ => by
  exact (word_csr ..).trans (by cases k <;> rfl)

theorem rotctlArm (d a : Reg) : Statement (.rotctlArm d a) := of_word rfl rfl fun _ => by
  exact (word_csr .set ..).trans rfl

theorem armWithdraw (d a : Reg) : Statement (.armWithdraw d a) := of_word rfl rfl fun _ => by
  exact (word_csr .clear ..).trans rfl

theorem soleWrite (d a : Reg) : Statement (.soleWrite d a) := of_word rfl rfl fun _ => by
  exact (word_csr .write ..).trans rfl

theorem barcfgWrite (k : CsrOp) (n : BitVec 4) (d a : Reg) : Statement (.barcfgWrite k n d a) := of_word rfl rfl fun _ => by
  exact (word_csr ..).trans (congrArg Except.ok (barcfgWrite_csr ..))

theorem occWrite (k : CsrOp) (n : BitVec 4) (d a : Reg) : Statement (.occWrite k n d a) := of_word rfl rfl fun _ => by
  exact (word_csr ..).trans (congrArg Except.ok (occWrite_csr ..))

theorem placeRegisterWrite (k : CsrOp) (r : PlaceReg) (d a : Reg) : Statement (.placeRegisterWrite k r d a) := of_word rfl rfl fun _ => by
  exact (word_csr ..).trans (by cases k <;> cases r <;> rfl)

theorem twaysWrite (k : CsrOp) (d a : Reg) : Statement (.twaysWrite k d a) := of_word rfl rfl fun _ => by
  exact (word_csr ..).trans (by cases k <;> rfl)

theorem fenceAcq (sc : Scope) : Statement (.fenceAcq sc) := of_word rfl rfl fun _ => by cases sc <;> decide

theorem fenceRel (sc : Scope) : Statement (.fenceRel sc) := of_word rfl rfl fun _ => by cases sc <;> decide

theorem fenceFull (sc : Scope) : Statement (.fenceFull sc) := of_word rfl rfl fun _ => by cases sc <;> decide

theorem wait (d a b : Reg) : Statement (.wait d a b) := of_word rfl rfl fun _ => (word_sync ..).trans rfl

theorem waite (d a b : Reg) : Statement (.waite d a b) := of_word rfl rfl fun _ => (word_sync ..).trans rfl

theorem bar (d a : Reg) : Statement (.bar d a) := of_word rfl rfl fun _ => (word_sync ..).trans rfl

theorem barw (d a : Reg) : Statement (.barw d a) := of_word rfl rfl fun _ => (word_sync ..).trans rfl

theorem barq (d a : Reg) : Statement (.barq d a) := of_word rfl rfl fun _ => (word_sync ..).trans rfl

theorem hold (d : Reg) : Statement (.hold d) := of_word rfl rfl fun _ => (word_sync ..).trans rfl

theorem spawn (d a b : Reg) : Statement (.spawn d a b) := of_word rfl rfl fun _ => (word_thread ..).trans rfl

theorem pause (a : Reg) : Statement (.pause a) := of_word rfl rfl fun _ => (word_thread ..).trans rfl

theorem inj (d a b : Reg) : Statement (.inj d a b) := of_word rfl rfl fun _ => (word_fabric ..).trans rfl

theorem recv (d : Reg) : Statement (.recv d) := of_word rfl rfl fun _ => (word_fabric ..).trans rfl

theorem ctxa (d a : Reg) : Statement (.ctxa d a) := of_word rfl rfl fun _ => (word_fabric ..).trans rfl

theorem ctxf (a : Reg) : Statement (.ctxf a) := of_word rfl rfl fun _ => (word_fabric ..).trans rfl

theorem sow (d a b : Reg) : Statement (.sow d a b) := of_word rfl rfl fun _ => (word_fabric ..).trans rfl

theorem swap (d a : Reg) : Statement (.swap d a) := of_word rfl rfl fun _ => (word_fabric ..).trans rfl

theorem fallow (lvl : FallowLevel) (d a : Reg) : Statement (.fallow lvl d a) := of_word rfl rfl fun _ => (word_fabric ..).trans (by cases lvl <;> rfl)

theorem haltr (d a : Reg) : Statement (.haltr d a) := of_word rfl rfl fun _ => (word_fabric ..).trans rfl

theorem resumer (d a : Reg) : Statement (.resumer d a) := of_word rfl rfl fun _ => (word_fabric ..).trans rfl

theorem ecfgw (d a b : Reg) : Statement (.ecfgw d a b) := of_word rfl rfl fun _ => (word_fabric ..).trans rfl

theorem ecfgr (d a : Reg) : Statement (.ecfgr d a) := of_word rfl rfl fun _ => (word_fabric ..).trans rfl

theorem boardRead (d a b : Reg) : Statement (.boardRead d a b) := of_word rfl rfl fun _ => (word_board ..).trans rfl

theorem boardFilter (d a b : Reg) : Statement (.boardFilter d a b) := of_word rfl rfl fun _ => (word_board ..).trans rfl

theorem boardSum (d a b : Reg) : Statement (.boardSum d a b) := of_word rfl rfl fun _ => (word_board ..).trans rfl

theorem boardFeed (d a b : Reg) : Statement (.boardFeed d a b) := of_word rfl rfl fun _ => (word_board ..).trans rfl

theorem boardUpdate (d a b : Reg) : Statement (.boardUpdate d a b) := of_word rfl rfl fun _ => (word_board ..).trans rfl

theorem boardAtom (d a b : Reg) : Statement (.boardAtom d a b) := of_word rfl rfl fun _ => (word_board ..).trans rfl

theorem boardFill (d a b : Reg) : Statement (.boardFill d a b) := of_word rfl rfl fun _ => (word_board ..).trans rfl

theorem boardDrain (d a b : Reg) : Statement (.boardDrain d a b) := of_word rfl rfl fun _ => (word_board ..).trans rfl

theorem boardDigest (d a b : Reg) : Statement (.boardDigest d a b) := of_word rfl rfl fun _ => (word_board ..).trans rfl

theorem boardCancel (d a : Reg) : Statement (.boardCancel d a) := of_word rfl rfl fun _ => (word_board ..).trans rfl

theorem clean (lvl : CacheLevel) (a b : Reg) : Statement (.clean lvl a b) := of_word rfl rfl fun _ => (word_cache ..).trans (by cases lvl <;> rfl)

theorem inval (lvl : CacheLevel) (a b : Reg) : Statement (.inval lvl a b) := of_word rfl rfl fun _ => (word_cache ..).trans (by cases lvl <;> rfl)

theorem clinv (lvl : CacheLevel) (a b : Reg) : Statement (.clinv lvl a b) := of_word rfl rfl fun _ => (word_cache ..).trans (by cases lvl <;> rfl)

theorem gstart (d a : Reg) : Statement (.gstart d a) := of_word rfl rfl fun _ => (word_gen ..).trans rfl

theorem gstop (d a : Reg) : Statement (.gstop d a) := of_word rfl rfl fun _ => (word_gen ..).trans rfl

theorem gstat (d a : Reg) : Statement (.gstat d a) := of_word rfl rfl fun _ => (word_gen ..).trans rfl

theorem allredOrd (d a b : Reg) : Statement (.allredOrd d a b) := of_word rfl rfl fun _ => (word_coll ..).trans rfl

theorem allredExact (d a b : Reg) : Statement (.allredExact d a b) := of_word rfl rfl fun _ => (word_coll ..).trans rfl

theorem bcast (d a b : Reg) : Statement (.bcast d a b) := of_word rfl rfl fun _ => (word_coll ..).trans rfl

theorem allgath (d a b : Reg) : Statement (.allgath d a b) := of_word rfl rfl fun _ => (word_coll ..).trans rfl

theorem redscatOrd (d a b : Reg) : Statement (.redscatOrd d a b) := of_word rfl rfl fun _ => (word_coll ..).trans rfl

theorem redscatExact (d a b : Reg) : Statement (.redscatExact d a b) := of_word rfl rfl fun _ => (word_coll ..).trans rfl

theorem digset (d a b : Reg) : Statement (.digset d a b) := of_word rfl rfl fun _ => (word_coll ..).trans rfl

theorem digcmp (d a b : Reg) : Statement (.digcmp d a b) := of_word rfl rfl fun _ => (word_coll ..).trans rfl

theorem tcommit (d a : Reg) : Statement (.tcommit d a) := of_word rfl rfl fun _ => (word_twin ..).trans rfl

theorem tabort (d a : Reg) : Statement (.tabort d a) := of_word rfl rfl fun _ => (word_twin ..).trans rfl

theorem normrd (high : Bool) (n : BitVec 4) (d : Reg) : Statement (.normrd high n d) := of_word rfl rfl fun _ => (word_twin ..).trans (by
  have h := normrd_qual high n
  show needZero _ (.normrd _ _ d) = _
  rw [h.1, h.2]
  rfl)

theorem normclr (n : BitVec 4) : Statement (.normclr n) := of_word rfl rfl fun _ => (word_twin ..).trans (by
  have h := normclr_qual n
  show (if _ then needZero _ (.normclr _) else _) = _
  rw [h.1, h.2]
  rfl)

theorem trap (imm : BitVec 16) : Statement (.trap imm) := of_word rfl rfl fun _ => (word_sys ..).trans rfl

theorem svc (imm : BitVec 16) : Statement (.svc imm) := of_word rfl rfl fun _ => (word_sys ..).trans rfl

theorem copy (f : SlotFields) : Statement (.copy f) := of_slot rfl rfl rfl rfl
theorem steer (f : SlotFields) : Statement (.steer f) := of_slot rfl rfl rfl rfl
theorem merge (f : SlotFields) : Statement (.merge f) := of_slot rfl rfl rfl rfl
theorem gate (f : SlotFields) : Statement (.gate f) := of_slot rfl rfl rfl rfl
theorem sink (f : SlotFields) : Statement (.sink f) := of_slot rfl rfl rfl rfl
theorem const (f : SlotFields) : Statement (.const f) := of_slot rfl rfl rfl rfl
theorem iter (f : SlotFields) : Statement (.iter f) := of_slot rfl rfl rfl rfl
theorem count (f : SlotFields) : Statement (.count f) := of_slot rfl rfl rfl rfl
theorem comb (f : SlotFields) : Statement (.comb f) := of_slot rfl rfl rfl rfl
theorem reap (f : SlotFields) : Statement (.reap f) := of_slot rfl rfl rfl rfl
theorem tagix (f : SlotFields) : Statement (.tagix f) := of_slot rfl rfl rfl rfl
theorem loop (f : SlotFields) : Statement (.loop f) := of_slot rfl rfl rfl rfl
theorem eos (f : SlotFields) : Statement (.eos f) := of_slot rfl rfl rfl rfl
theorem mail (f : SlotFields) : Statement (.mail f) := of_slot rfl rfl rfl rfl
theorem ord (f : SlotFields) : Statement (.ord f) := of_slot rfl rfl rfl rfl
theorem slotAdd (f : SlotFields) : Statement (.slotAdd f) := of_slot rfl rfl rfl rfl
theorem slotSub (f : SlotFields) : Statement (.slotSub f) := of_slot rfl rfl rfl rfl
theorem slotMul (f : SlotFields) : Statement (.slotMul f) := of_slot rfl rfl rfl rfl
theorem slotMulh (f : SlotFields) : Statement (.slotMulh f) := of_slot rfl rfl rfl rfl
theorem mad (f : SlotFields) : Statement (.mad f) := of_slot rfl rfl rfl rfl
theorem slotAnd (f : SlotFields) : Statement (.slotAnd f) := of_slot rfl rfl rfl rfl
theorem slotOr (f : SlotFields) : Statement (.slotOr f) := of_slot rfl rfl rfl rfl
theorem slotXor (f : SlotFields) : Statement (.slotXor f) := of_slot rfl rfl rfl rfl
theorem slotAndn (f : SlotFields) : Statement (.slotAndn f) := of_slot rfl rfl rfl rfl
theorem slotShl (f : SlotFields) : Statement (.slotShl f) := of_slot rfl rfl rfl rfl
theorem slotShr (f : SlotFields) : Statement (.slotShr f) := of_slot rfl rfl rfl rfl
theorem slotSar (f : SlotFields) : Statement (.slotSar f) := of_slot rfl rfl rfl rfl
theorem slotMin (f : SlotFields) : Statement (.slotMin f) := of_slot rfl rfl rfl rfl
theorem slotMax (f : SlotFields) : Statement (.slotMax f) := of_slot rfl rfl rfl rfl
theorem abs (f : SlotFields) : Statement (.abs f) := of_slot rfl rfl rfl rfl
theorem neg (f : SlotFields) : Statement (.neg f) := of_slot rfl rfl rfl rfl
theorem cmp (f : SlotFields) : Statement (.cmp f) := of_slot rfl rfl rfl rfl
theorem sel (f : SlotFields) : Statement (.sel f) := of_slot rfl rfl rfl rfl
theorem slotClz (f : SlotFields) : Statement (.slotClz f) := of_slot rfl rfl rfl rfl
theorem slotPopc (f : SlotFields) : Statement (.slotPopc f) := of_slot rfl rfl rfl rfl
theorem adds (f : SlotFields) : Statement (.adds f) := of_slot rfl rfl rfl rfl
theorem subs (f : SlotFields) : Statement (.subs f) := of_slot rfl rfl rfl rfl
theorem avg (f : SlotFields) : Statement (.avg f) := of_slot rfl rfl rfl rfl
theorem dot4 (f : SlotFields) : Statement (.dot4 f) := of_slot rfl rfl rfl rfl
theorem bext (f : SlotFields) : Statement (.bext f) := of_slot rfl rfl rfl rfl
theorem bins (f : SlotFields) : Statement (.bins f) := of_slot rfl rfl rfl rfl
theorem rotl (f : SlotFields) : Statement (.rotl f) := of_slot rfl rfl rfl rfl
theorem satn (f : SlotFields) : Statement (.satn f) := of_slot rfl rfl rfl rfl
theorem fadd (f : SlotFields) : Statement (.fadd f) := of_slot rfl rfl rfl rfl
theorem fsub (f : SlotFields) : Statement (.fsub f) := of_slot rfl rfl rfl rfl
theorem fmul (f : SlotFields) : Statement (.fmul f) := of_slot rfl rfl rfl rfl
theorem ffma (f : SlotFields) : Statement (.ffma f) := of_slot rfl rfl rfl rfl
theorem fmin (f : SlotFields) : Statement (.fmin f) := of_slot rfl rfl rfl rfl
theorem fmax (f : SlotFields) : Statement (.fmax f) := of_slot rfl rfl rfl rfl
theorem fabs (f : SlotFields) : Statement (.fabs f) := of_slot rfl rfl rfl rfl
theorem fneg (f : SlotFields) : Statement (.fneg f) := of_slot rfl rfl rfl rfl
theorem fcmp (f : SlotFields) : Statement (.fcmp f) := of_slot rfl rfl rfl rfl
theorem fclass (f : SlotFields) : Statement (.fclass f) := of_slot rfl rfl rfl rfl
theorem frcp (f : SlotFields) : Statement (.frcp f) := of_slot rfl rfl rfl rfl
theorem frsq (f : SlotFields) : Statement (.frsq f) := of_slot rfl rfl rfl rfl
theorem fsqrt (f : SlotFields) : Statement (.fsqrt f) := of_slot rfl rfl rfl rfl
theorem fexp2 (f : SlotFields) : Statement (.fexp2 f) := of_slot rfl rfl rfl rfl
theorem flog2 (f : SlotFields) : Statement (.flog2 f) := of_slot rfl rfl rfl rfl
theorem ftanh (f : SlotFields) : Statement (.ftanh f) := of_slot rfl rfl rfl rfl
theorem cvt (f : SlotFields) : Statement (.cvt f) := of_slot rfl rfl rfl rfl
theorem packq (f : SlotFields) : Statement (.packq f) := of_slot rfl rfl rfl rfl
theorem unpackq (f : SlotFields) : Statement (.unpackq f) := of_slot rfl rfl rfl rfl
theorem plane (f : SlotFields) : Statement (.plane f) := of_slot rfl rfl rfl rfl
theorem had (f : SlotFields) : Statement (.had f) := of_slot rfl rfl rfl rfl
theorem setfpc (f : SlotFields) : Statement (.setfpc f) := of_slot rfl rfl rfl rfl
theorem getfpf (f : SlotFields) : Statement (.getfpf f) := of_slot rfl rfl rfl rfl
theorem clrfpf (f : SlotFields) : Statement (.clrfpf f) := of_slot rfl rfl rfl rfl
theorem perm (f : SlotFields) : Statement (.perm f) := of_slot rfl rfl rfl rfl
theorem bfly (f : SlotFields) : Statement (.bfly f) := of_slot rfl rfl rfl rfl
theorem rot (f : SlotFields) : Statement (.rot f) := of_slot rfl rfl rfl rfl
theorem slotBcast (f : SlotFields) : Statement (.slotBcast f) := of_slot rfl rfl rfl rfl
theorem join (f : SlotFields) : Statement (.join f) := of_slot rfl rfl rfl rfl
theorem split (f : SlotFields) : Statement (.split f) := of_slot rfl rfl rfl rfl
theorem rsum (f : SlotFields) : Statement (.rsum f) := of_slot rfl rfl rfl rfl
theorem rmax (f : SlotFields) : Statement (.rmax f) := of_slot rfl rfl rfl rfl
theorem rmin (f : SlotFields) : Statement (.rmin f) := of_slot rfl rfl rfl rfl
theorem laneix (f : SlotFields) : Statement (.laneix f) := of_slot rfl rfl rfl rfl
theorem frsum (f : SlotFields) : Statement (.frsum f) := of_slot rfl rfl rfl rfl
theorem madd (f : SlotFields) : Statement (.madd f) := of_slot rfl rfl rfl rfl
theorem msub (f : SlotFields) : Statement (.msub f) := of_slot rfl rfl rfl rfl
theorem mmul (f : SlotFields) : Statement (.mmul f) := of_slot rfl rfl rfl rfl
theorem mmac (f : SlotFields) : Statement (.mmac f) := of_slot rfl rfl rfl rfl
theorem mct (f : SlotFields) : Statement (.mct f) := of_slot rfl rfl rfl rfl
theorem mgs (f : SlotFields) : Statement (.mgs f) := of_slot rfl rfl rfl rfl
theorem mred (f : SlotFields) : Statement (.mred f) := of_slot rfl rfl rfl rfl
theorem mneg (f : SlotFields) : Statement (.mneg f) := of_slot rfl rfl rfl rfl
theorem mma (f : SlotFields) : Statement (.mma f) := of_slot rfl rfl rfl rfl
theorem mmas (f : SlotFields) : Statement (.mmas f) := of_slot rfl rfl rfl rfl
theorem accrd (f : SlotFields) : Statement (.accrd f) := of_slot rfl rfl rfl rfl
theorem accclr (f : SlotFields) : Statement (.accclr f) := of_slot rfl rfl rfl rfl
theorem cturn (f : SlotFields) : Statement (.cturn f) := of_slot rfl rfl rfl rfl
theorem lds (f : SlotFields) : Statement (.lds f) := of_slot rfl rfl rfl rfl
theorem sts (f : SlotFields) : Statement (.sts f) := of_slot rfl rfl rfl rfl
theorem ldsv (f : SlotFields) : Statement (.ldsv f) := of_slot rfl rfl rfl rfl
theorem stsv (f : SlotFields) : Statement (.stsv f) := of_slot rfl rfl rfl rfl
theorem atoms (f : SlotFields) : Statement (.atoms f) := of_slot rfl rfl rfl rfl
theorem bufw (f : SlotFields) : Statement (.bufw f) := of_slot rfl rfl rfl rfl
theorem bufr (f : SlotFields) : Statement (.bufr f) := of_slot rfl rfl rfl rfl
theorem etas (f : SlotFields) : Statement (.etas f) := of_slot rfl rfl rfl rfl
theorem etld (f : SlotFields) : Statement (.etld f) := of_slot rfl rfl rfl rfl
theorem etst (f : SlotFields) : Statement (.etst f) := of_slot rfl rfl rfl rfl
theorem boards (f : SlotFields) : Statement (.boards f) := of_slot rfl rfl rfl rfl
theorem tokenArrival : Statement .tokenArrival := of_event rfl rfl
theorem reload : Statement .reload := of_event rfl rfl
theorem reapToken : Statement .reapToken := of_event rfl rfl
theorem reapFilterRetire : Statement .reapFilterRetire := of_event rfl rfl
theorem fallowReport : Statement .fallowReport := of_event rfl rfl
theorem matchExhausted : Statement .matchExhausted := of_event rfl rfl
theorem mailboxAccept : Statement .mailboxAccept := of_event rfl rfl
theorem injectionRelease : Statement .injectionRelease := of_event rfl rfl
theorem iterEmit : Statement .iterEmit := of_event rfl rfl
theorem accrdRow : Statement .accrdRow := of_event rfl rfl
theorem cturnEmit : Statement .cturnEmit := of_event rfl rfl
theorem ordArcSend : Statement .ordArcSend := of_event rfl rfl
theorem swapActivate : Statement .swapActivate := of_event rfl rfl
theorem swapTimeout : Statement .swapTimeout := of_event rfl rfl
theorem stepBoundary : Statement .stepBoundary := of_event rfl rfl
theorem guard : Statement .guard := of_event rfl rfl
theorem rowCommit : Statement .rowCommit := of_event rfl rfl
theorem tlbInvalidationDone : Statement .tlbInvalidationDone := of_event rfl rfl
theorem loadReturn : Statement .loadReturn := of_event rfl rfl
theorem dividerDone : Statement .dividerDone := of_event rfl rfl
theorem storeBufferDrain : Statement .storeBufferDrain := of_event rfl rfl
theorem waitWake : Statement .waitWake := of_event rfl rfl
theorem waitTimeout : Statement .waitTimeout := of_event rfl rfl
theorem pauseExpiry : Statement .pauseExpiry := of_event rfl rfl
theorem holdExpiry : Statement .holdExpiry := of_event rfl rfl
theorem asyncTrapEntry : Statement .asyncTrapEntry := of_event rfl rfl
theorem generatorBlock : Statement .generatorBlock := of_event rfl rfl
theorem collectiveComplete : Statement .collectiveComplete := of_event rfl rfl
theorem linkDown : Statement .linkDown := of_event rfl rfl
theorem passMarker : Statement .passMarker := of_event rfl rfl
theorem sweepStateAnnounce : Statement .sweepStateAnnounce := of_event rfl rfl
theorem thermalSlowdown : Statement .thermalSlowdown := of_event rfl rfl
theorem thermalSpeedup : Statement .thermalSpeedup := of_event rfl rfl
theorem layerPark : Statement .layerPark := of_event rfl rfl
theorem layerUnpark : Statement .layerUnpark := of_event rfl rfl
theorem layerPowerOff : Statement .layerPowerOff := of_event rfl rfl
theorem powerRequest : Statement .powerRequest := of_event rfl rfl
theorem plotWake : Statement .plotWake := of_event rfl rfl
theorem coreWatchdog : Statement .coreWatchdog := of_event rfl rfl
theorem edgeLineError : Statement .edgeLineError := of_event rfl rfl
theorem startRecord : Statement .startRecord := of_event rfl rfl
theorem readNotices : Statement .readNotices := of_event rfl rfl
theorem breakClaim : Statement .breakClaim := of_event rfl rfl
theorem breakRelease : Statement .breakRelease := of_event rfl rfl
theorem breakResume : Statement .breakResume := of_event rfl rfl
theorem partitionReset : Statement .partitionReset := of_event rfl rfl
theorem deviceReset : Statement .deviceReset := of_event rfl rfl
theorem takeResetLock : Statement .takeResetLock := of_event rfl rfl
theorem dropResetLock : Statement .dropResetLock := of_event rfl rfl
theorem loadFirmware : Statement .loadFirmware := of_event rfl rfl
theorem powerOn : Statement .powerOn := of_event rfl rfl
theorem powerOff : Statement .powerOff := of_event rfl rfl
theorem checkpoint : Statement .checkpoint := of_event rfl rfl
theorem checkpointRelease : Statement .checkpointRelease := of_event rfl rfl
theorem boot : Statement .boot := of_event rfl rfl
theorem startTimeout : Statement .startTimeout := of_event rfl rfl
theorem unassignedHeadlandWord : Statement .unassignedHeadlandWord := of_event rfl rfl
theorem fetchFault : Statement .fetchFault := of_event rfl rfl
theorem ucPageReread : Statement .ucPageReread := of_event rfl rfl
theorem runtimeThreadRestart : Statement .runtimeThreadRestart := of_event rfl rfl
theorem poisonMarkClear : Statement .poisonMarkClear := of_event rfl rfl
theorem groupTableWrite : Statement .groupTableWrite := of_event rfl rfl
theorem frameMaskWrite : Statement .frameMaskWrite := of_event rfl rfl
theorem linkUp : Statement .linkUp := of_event rfl rfl
theorem hostMemoryAccess : Statement .hostMemoryAccess := of_event rfl rfl
theorem unhold : Statement (.unhold) := of_word rfl rfl fun _ => (word_sync ..).trans rfl

theorem exit : Statement (.exit) := of_word rfl rfl fun _ => (word_thread ..).trans rfl

theorem yield : Statement (.yield) := of_word rfl rfl fun _ => (word_thread ..).trans rfl

theorem eret : Statement (.eret) := of_word rfl rfl fun _ => (word_sys ..).trans rfl

theorem halt : Statement (.halt) := of_word rfl rfl fun _ => (word_sys ..).trans rfl

theorem brk : Statement (.brk) := of_word rfl rfl fun _ => (word_sys ..).trans rfl

theorem donate : Statement (.donate) := of_word rfl rfl fun _ => (word_sys ..).trans rfl


end Laws.Encodes

end Sys2Proof
end

