-- ==== Sys2Proof/Tests/Slice0.lean ====
section
/-! SUPPORT. Tests: ill-formed terms, words written out from the spec's encodings, results worked from the spec, and for every statement a
state that meets its hypotheses. -/

namespace Sys2Proof.Tests

open Sys2Proof Sys2Proof.Machine

set_option Elab.async false

/-! ### Small states -/

/-- What a step's next state shows. -/
def got {α : Type} (o : Out) (f : State → α) : Option α :=
  match o with
  | .next t => some (f t)
  | _ => none

/-- The step has no place in this state. -/
def refuses (o : Out) : Bool :=
  match o with
  | .refused .notEnabled => true
  | _ => false

/-- The machine after reset, its acting thread 0 of core 0 with these registers: READY in supervisor mode at pc 0. -/
def regs (l : List (Reg × Word)) : State := l.foldl (fun s p => s.setGpr p.1 p.2) State.reset

/-- Thread 0 of core 0 as it is after reset, changed by `f`. -/
def thr (f : ThreadSt → ThreadSt) : State := State.reset.modMe f

/-- The general register `d` after instruction `i` with `a` in g1 and `b` in g2 (and `c` in g3). -/
def res (i : Instr) (a b : Word) (c : Word := 0) (d : Reg := 3) : Option Word := got (exec i (regs [(1, a), (2, b), (3, c)])) (·.gpr d)

/-! ### Ill-formed terms -/

/-- A slot word's fields that every opcode may hold. -/
def okFields : SlotFields := { action := 0, srcA := 0, srcB := 4, dst0 := 63, dst1 := 63, qual := 0, extra := 0, ext := 0 }

theorem test_wf_fields : okFields.wf = true := by decide
theorem test_wf_action : (Instr.copy { okFields with action := 10 }).wf = false := by decide
theorem test_wf_srcA : (Instr.slotAdd { okFields with srcA := 7 }).wf = false := by decide
theorem test_wf_srcB : (Instr.slotAdd { okFields with srcB := 7 }).wf = false := by decide
theorem test_wf_dst0 : (Instr.copy { okFields with dst0 := 49 }).wf = false := by decide
theorem test_wf_dst1 : (Instr.copy { okFields with dst1 := 62 }).wf = false := by decide
theorem test_wf_mailbox : (Instr.mail { okFields with dst0 := 48 }).wf = true := by decide
theorem test_wf_csrw_special : (Instr.csrw 1 2 0x111).wf = false := by decide
theorem test_wf_csrs_special : (Instr.csrs 1 2 0x001).wf = false := by decide
theorem test_wf_csrc_occ : (Instr.csrc 1 2 0x058).wf = false := by decide
theorem test_wf_csrw_plain : (Instr.csrw 1 2 0x010).wf = true := by decide
theorem test_wf_ld_doubleword_has_no_sign : (Instr.ld .dword true 1 2 0).wf = false := by decide

/-! ### Words written out from the encodings -/

/-- The word decodes to the instruction. -/
abbrev word (w : Word32) (i : Instr) : Prop := decodeWord w = .ok i

/-- R33: op6 000000, gd 5, ga 6, gb 7, func11. -/
theorem test_decode_alu :
    word 0x00A63800 (.add 5 6 7) ∧ word 0x00A63801 (.sub 5 6 7) ∧ word 0x00A63802 (.and 5 6 7) ∧ word 0x00A63803 (.or 5 6 7) ∧
    word 0x00A63804 (.xor 5 6 7) ∧ word 0x00A63805 (.andn 5 6 7) ∧ word 0x00A63806 (.shl 5 6 7) ∧ word 0x00A63807 (.shr 5 6 7) ∧
    word 0x00A63808 (.sar 5 6 7) ∧ word 0x00A63809 (.slt 5 6 7) ∧ word 0x00A6380A (.sltu 5 6 7) ∧ word 0x00A6380B (.min 5 6 7) ∧
    word 0x00A6380C (.max 5 6 7) ∧ word 0x00A6380D (.minu 5 6 7) ∧ word 0x00A6380E (.maxu 5 6 7) ∧ word 0x00A63810 (.mul 5 6 7) ∧
    word 0x00A63811 (.mulh 5 6 7) ∧ word 0x00A63812 (.mulhu 5 6 7) ∧ word 0x00A63813 (.mulhsu 5 6 7) ∧ word 0x00A63814 (.div 5 6 7) ∧
    word 0x00A63815 (.divu 5 6 7) ∧ word 0x00A63816 (.rem 5 6 7) ∧ word 0x00A63817 (.remu 5 6 7) := by
  decide +kernel

/-- R33: the two-operand forms, gb 0. -/
theorem test_decode_alu2 :
    word 0x00A60020 (.clz 5 6) ∧ word 0x00A60021 (.ctz 5 6) ∧ word 0x00A60022 (.popc 5 6) ∧ word 0x00A60023 (.bswap 5 6) ∧
    word 0x00A60024 (.sextb 5 6) ∧ word 0x00A60025 (.sexth 5 6) ∧ word 0x00A60026 (.sextw 5 6) ∧ word 0x00A60027 (.zextb 5 6) ∧
    word 0x00A60028 (.zexth 5 6) ∧ word 0x00A60029 (.zextw 5 6) := by
  decide +kernel

/-- R34: op6 000001 to 001100, imm16 0x8001, shift amount 52. -/
theorem test_decode_imm :
    word 0x04A68001 (.addi 5 6 0x8001) ∧ word 0x08A68001 (.andi 5 6 0x8001) ∧ word 0x0CA68001 (.ori 5 6 0x8001) ∧
    word 0x10A68001 (.xori 5 6 0x8001) ∧ word 0x14A68001 (.slti 5 6 0x8001) ∧ word 0x18A68001 (.sltiu 5 6 0x8001) ∧
    word 0x1CA60034 (.shli 5 6 52) ∧ word 0x20A60034 (.shri 5 6 52) ∧ word 0x24A60034 (.sari 5 6 52) ∧ word 0x28A08001 (.lui 5 0x8001) ∧
    word 0x2CA08001 (.lus 5 0x8001) ∧ word 0x30A08001 (.addpc 5 0x8001) := by
  decide +kernel

/-- R35: gd or gs 16, ga 6, size, SX, off13 0x1FF8; then the lines of the assembly reference. -/
theorem test_decode_ldst :
    word 0x42061FF8 (.ld .byte false 16 6 0x1FF8) ∧ word 0x42063FF8 (.ld .byte true 16 6 0x1FF8) ∧ word 0x42065FF8 (.ld .half false 16 6 0x1FF8) ∧
    word 0x42067FF8 (.ld .half true 16 6 0x1FF8) ∧ word 0x42069FF8 (.ld .word false 16 6 0x1FF8) ∧ word 0x4206BFF8 (.ld .word true 16 6 0x1FF8) ∧
    word 0x4206DFF8 (.ld .dword false 16 6 0x1FF8) ∧ word 0x46061FF8 (.st .byte 16 6 0x1FF8) ∧ word 0x46065FF8 (.st .half 16 6 0x1FF8) ∧
    word 0x46069FF8 (.st .word 16 6 0x1FF8) ∧ word 0x4606DFF8 (.st .dword 16 6 0x1FF8) := by
  decide +kernel

/-- R36: scope in [10:8], size in [6], op in [5:0]. -/
theorem test_decode_amo :
    word 0x48A63880 (.amoAdd .plot .word 5 6 7) ∧ word 0x48A639C1 (.amoAnd .bed .dword 5 6 7) ∧ word 0x48A63A82 (.amoOr .field .word 5 6 7) ∧
    word 0x48A63BC3 (.amoXor .device .dword 5 6 7) ∧ word 0x48A63C84 (.amoMin .system .word 5 6 7) ∧ word 0x48A638C5 (.amoMax .plot .dword 5 6 7) ∧
    word 0x48A63986 (.amoMinu .bed .word 5 6 7) ∧ word 0x48A63AC7 (.amoMaxu .field .dword 5 6 7) ∧ word 0x48A63B88 (.amoSwap .device .word 5 6 7) ∧
    word 0x48A63CC9 (.amoIncw .system .dword 5 6 7) ∧ word 0x48A6388A (.amoBfadd .plot .word 5 6 7) ∧ word 0x48A6398B (.amoFmin .bed 5 6 7) ∧
    word 0x48A63A8C (.amoFmax .field 5 6 7) ∧ word 0x48A63B8D (.amoFadd .device 5 6 7) ∧ word 0x4CA63C80 (.cas .system .word 5 6 7) ∧
    word 0x4CA63AC0 (.cas .field .dword 5 6 7) ∧ word 0x48A63BCA (.amoBfadd .device .dword 5 6 7) := by
  decide +kernel

/-- R31: op6 010100 to 011001, ga, gb, offset16 0xFFFE; R32: JAL and JALR. -/
theorem test_decode_branch :
    word 0x50C7FFFE (.beq 6 7 0xFFFE) ∧ word 0x54C7FFFE (.bne 6 7 0xFFFE) ∧ word 0x58C7FFFE (.blt 6 7 0xFFFE) ∧ word 0x5CC7FFFE (.bge 6 7 0xFFFE) ∧
    word 0x60C7FFFE (.bltu 6 7 0xFFFE) ∧ word 0x64C7FFFE (.bgeu 6 7 0xFFFE) ∧ word 0x68BFFFFD (.jal 5 0x1FFFFD) ∧
    word 0x6CA68001 (.jalr 5 6 0x8001) ∧ word 0x68200005 (.jal 1 5) ∧ word 0x6C010000 (.jalr 0 1 0) := by
  decide +kernel

/-- R37: gd 5, ga 6, kind, index; then the lines of R67 and R336. -/
theorem test_decode_csr :
    word 0x80A00123 (.csrr 5 0x123) ∧ word 0x80A64010 (.csrw 5 6 0x010) ∧ word 0x80A68120 (.csrs 5 6 0x120) ∧ word 0x80A6C17F (.csrc 5 6 0x17F) ∧
    word 0x80054010 (.csrw 0 5 0x010) ∧ word 0x80A00003 (.csrr 5 0x003) ∧ word 0x80064145 (.csrw 0 6 0x145) := by
  decide +kernel

/-- R66, R209, R325, R328, R334, R335, R357, R228: writes with effects of their own. -/
theorem test_decode_csrw :
    word 0x80A64001 (.tstatWrite .write 5 6) ∧ word 0x80A64118 (.tlbiWrite .write 5 6) ∧ word 0x80A64129 (.trunWrite .write 5 6) ∧
    word 0x80A64125 (.twaysWrite .write 5 6) ∧ word 0x80A68001 (.tstatWrite .set 5 6) ∧ word 0x80A68118 (.tlbiWrite .set 5 6) ∧
    word 0x80A68129 (.trunWrite .set 5 6) ∧ word 0x80A68125 (.twaysWrite .set 5 6) ∧ word 0x80A6C001 (.tstatWrite .clear 5 6) ∧
    word 0x80A6C118 (.tlbiWrite .clear 5 6) ∧ word 0x80A6C129 (.trunWrite .clear 5 6) ∧ word 0x80A6C125 (.twaysWrite .clear 5 6) ∧
    word 0x80A68111 (.rotctlArm 5 6) ∧ word 0x80A6C111 (.armWithdraw 5 6) ∧ word 0x80A64111 (.soleWrite 5 6) ∧
    word 0x80A64121 (.placeRegisterWrite .write .tcfg 5 6) ∧ word 0x80A64123 (.placeRegisterWrite .write .tlocal 5 6) ∧
    word 0x80A64124 (.placeRegisterWrite .write .tedge 5 6) ∧ word 0x80A64127 (.placeRegisterWrite .write .tassign 5 6) ∧
    word 0x80A6405F (.barcfgWrite .write 15 5 6) ∧ word 0x80A6C078 (.occWrite .clear 8 5 6) := by
  decide +kernel

/-- R38: fences, waits, barriers, holds. -/
theorem test_decode_sync :
    word 0x84000009 (.fenceAcq .bed) ∧ word 0x84000012 (.fenceRel .field) ∧ word 0x8400001B (.fenceFull .device) ∧ word 0x84A63820 (.wait 5 6 7) ∧
    word 0x84A63821 (.waite 5 6 7) ∧ word 0x84A60030 (.bar 5 6) ∧ word 0x84A60031 (.barw 5 6) ∧ word 0x84A60032 (.barq 5 6) ∧
    word 0x84A00040 (.hold 5) ∧ word 0x84000041 .unhold ∧ word 0x85280020 (.wait 9 8 0) ∧ word 0x84A60030 (.bar 5 6) ∧
    word 0x84A00040 (.hold 5) := by
  decide +kernel

/-- R38: the THREAD group. -/
theorem test_decode_thread :
    word 0x88A63800 (.spawn 5 6 7) ∧ word 0x88000001 .exit ∧ word 0x88000002 .yield ∧ word 0x88060003 (.pause 6) := by
  decide +kernel

/-- R39: the FABRIC group. -/
theorem test_decode_fabric :
    word 0x8CA63800 (.inj 5 6 7) ∧ word 0x8CA00020 (.recv 5) ∧ word 0x8CA60040 (.ctxa 5 6) ∧ word 0x8C060060 (.ctxf 6) ∧
    word 0x8CA63880 (.sow 5 6 7) ∧ word 0x8CA600A0 (.swap 5 6) ∧ word 0x8CA600C0 (.fallow .bed 5 6) ∧ word 0x8CA600C1 (.fallow .field 5 6) ∧
    word 0x8CA600C2 (.fallow .part 5 6) ∧ word 0x8CA600E0 (.haltr 5 6) ∧ word 0x8CA60100 (.resumer 5 6) ∧ word 0x8CA63920 (.ecfgw 5 6 7) ∧
    word 0x8CA60140 (.ecfgr 5 6) := by
  decide +kernel

/-- R40: the BOARD group; the last is a line of R231. -/
theorem test_decode_board :
    word 0x90A63800 (.boardRead 5 6 7) ∧ word 0x90A63820 (.boardFilter 5 6 7) ∧ word 0x90A63840 (.boardSum 5 6 7) ∧
    word 0x90A63860 (.boardFeed 5 6 7) ∧ word 0x90A63880 (.boardUpdate 5 6 7) ∧ word 0x90A638A0 (.boardAtom 5 6 7) ∧
    word 0x90A638C0 (.boardFill 5 6 7) ∧ word 0x90A638E0 (.boardDrain 5 6 7) ∧ word 0x90A63900 (.boardDigest 5 6 7) ∧
    word 0x90A60120 (.boardCancel 5 6) ∧ word 0x90A60120 (.boardCancel 5 6) := by
  decide +kernel

/-- R39: CLEAN, INVAL, CLINV. -/
theorem test_decode_cache :
    word 0x94063800 (.clean .l1 6 7) ∧ word 0x94063821 (.inval .edge 6 7) ∧ word 0x94063842 (.clinv .all 6 7) ∧
    word 0x94063801 (.clean .edge 6 7) ∧ word 0x94063842 (.clinv .all 6 7) := by
  decide +kernel

/-- R40: GEN, COLL and TWIN groups. -/
theorem test_decode_engine :
    word 0x98A60000 (.gstart 5 6) ∧ word 0x98A60020 (.gstop 5 6) ∧ word 0x98A60040 (.gstat 5 6) ∧ word 0x9CA63800 (.allredOrd 5 6 7) ∧
    word 0x9CA63801 (.allredExact 5 6 7) ∧ word 0x9CA63820 (.bcast 5 6 7) ∧ word 0x9CA63840 (.allgath 5 6 7) ∧
    word 0x9CA63860 (.redscatOrd 5 6 7) ∧ word 0x9CA63861 (.redscatExact 5 6 7) ∧ word 0x9CA63880 (.digset 5 6 7) ∧
    word 0x9CA638A0 (.digcmp 5 6 7) ∧ word 0xA0A60000 (.tcommit 5 6) ∧ word 0xA0A60020 (.tabort 5 6) ∧ word 0xA0A00053 (.normrd true 3 5) ∧
    word 0xA0000063 (.normclr 3) := by
  decide +kernel

/-- R41: the SYS group. -/
theorem test_decode_sys :
    word 0xFC008001 (.trap 0x8001) ∧ word 0xFC018001 (.svc 0x8001) ∧ word 0xFC020000 .eret ∧ word 0xFC030000 .halt ∧ word 0xFC040000 .brk ∧
    word 0xFC050000 .donate := by
  decide +kernel

/-- R43: tag action 1, source A 2 (c), source B 9 (l1), dst0 010011 (s3.b), dst1 100010 (q2), side word fields 0x85, 0x17, 0x2A40. -/
def someFields : SlotFields := { action := 1, srcA := 2, srcB := 9, dst0 := 0b010011, dst1 := 0b100010, qual := 0x85, extra := 0x17, ext := 0x2A40 }

/-- The slot word of opcode `op` with these fields, bit by bit (R43), and the side word beside it decode to the instruction. -/
abbrev slot (op : BitVec 8) (mk : SlotFields → Instr) : Prop :=
  decodeSlot (op ++ 0b0001#4 ++ 0b0010#4 ++ 0b1001#4 ++ 0b010011#6 ++ 0b100010#6) (0x85#8 ++ 0x17#8 ++ 0x2A40#16) = .ok (mk someFields)

/-- R49, row 0: token forwarding. -/
theorem test_decode_slot_dataflow :
    slot 0x01 .copy ∧ slot 0x02 .steer ∧ slot 0x03 .merge ∧ slot 0x04 .gate ∧ slot 0x05 .sink ∧ slot 0x06 .const ∧ slot 0x07 .iter ∧
    slot 0x08 .count ∧ slot 0x09 .comb ∧ slot 0x0A .reap ∧ slot 0x0B .tagix ∧ slot 0x0C .loop ∧ slot 0x0D .eos ∧ slot 0x0E .mail ∧
    slot 0x0F .ord := by
  decide +kernel

/-- R49, row 1: integer lanes. -/
theorem test_decode_slot_integer :
    slot 0x10 .slotAdd ∧ slot 0x11 .slotSub ∧ slot 0x12 .slotMul ∧ slot 0x13 .slotMulh ∧ slot 0x14 .mad ∧ slot 0x15 .slotAnd ∧ slot 0x16 .slotOr ∧
    slot 0x17 .slotXor ∧ slot 0x18 .slotAndn ∧ slot 0x19 .slotShl ∧ slot 0x1A .slotShr ∧ slot 0x1B .slotSar ∧ slot 0x1C .slotMin ∧
    slot 0x1D .slotMax ∧ slot 0x1E .abs ∧ slot 0x1F .neg := by
  decide +kernel

/-- R49, row 2: more integer lanes. -/
theorem test_decode_slot_integer2 :
    slot 0x20 .cmp ∧ slot 0x21 .sel ∧ slot 0x22 .slotClz ∧ slot 0x23 .slotPopc ∧ slot 0x24 .adds ∧ slot 0x25 .subs ∧ slot 0x26 .avg ∧
    slot 0x27 .dot4 ∧ slot 0x28 .bext ∧ slot 0x29 .bins ∧ slot 0x2A .rotl ∧ slot 0x2B .satn := by
  decide +kernel

/-- R49, row 3: float lanes. -/
theorem test_decode_slot_float :
    slot 0x30 .fadd ∧ slot 0x31 .fsub ∧ slot 0x32 .fmul ∧ slot 0x33 .ffma ∧ slot 0x34 .fmin ∧ slot 0x35 .fmax ∧ slot 0x36 .fabs ∧ slot 0x37 .fneg ∧
    slot 0x38 .fcmp ∧ slot 0x39 .fclass ∧ slot 0x3A .frcp ∧ slot 0x3B .frsq ∧ slot 0x3C .fsqrt ∧ slot 0x3D .fexp2 ∧ slot 0x3E .flog2 ∧
    slot 0x3F .ftanh := by
  decide +kernel

/-- R49, row 4: conversions. -/
theorem test_decode_slot_convert :
    slot 0x40 .cvt ∧ slot 0x41 .packq ∧ slot 0x42 .unpackq ∧ slot 0x43 .plane ∧ slot 0x44 .had ∧ slot 0x45 .setfpc ∧ slot 0x46 .getfpf ∧
    slot 0x47 .clrfpf := by
  decide +kernel

/-- R49, row 5: lane movement. -/
theorem test_decode_slot_lanes :
    slot 0x50 .perm ∧ slot 0x51 .bfly ∧ slot 0x52 .rot ∧ slot 0x53 .slotBcast ∧ slot 0x54 .join ∧ slot 0x55 .split ∧ slot 0x56 .rsum ∧
    slot 0x57 .rmax ∧ slot 0x58 .rmin ∧ slot 0x59 .laneix ∧ slot 0x5A .frsum := by
  decide +kernel

/-- R49, row 6: modular. -/
theorem test_decode_slot_modular :
    slot 0x60 .madd ∧ slot 0x61 .msub ∧ slot 0x62 .mmul ∧ slot 0x63 .mmac ∧ slot 0x64 .mct ∧ slot 0x65 .mgs ∧ slot 0x66 .mred ∧
    slot 0x67 .mneg := by
  decide +kernel

/-- R49, row 7: matrix. -/
theorem test_decode_slot_matrix :
    slot 0x70 .mma ∧ slot 0x71 .mmas ∧ slot 0x72 .accrd ∧ slot 0x73 .accclr ∧ slot 0x74 .cturn := by
  decide +kernel

/-- R49, row 8: scratchpad. -/
theorem test_decode_slot_scratch :
    slot 0x80 .lds ∧ slot 0x81 .sts ∧ slot 0x82 .ldsv ∧ slot 0x83 .stsv ∧ slot 0x84 .atoms ∧ slot 0x85 .bufw ∧ slot 0x86 .bufr := by
  decide +kernel

/-- R49, row 9: edge tiles and BOARDS. -/
theorem test_decode_slot_memory :
    slot 0x90 .etas ∧ slot 0x91 .etld ∧ slot 0x92 .etst ∧ slot 0x93 .boards := by
  decide +kernel

/-- Words of the chapters' lines: R148, R51, R180 and the matrix chapter's table. -/
theorem test_decode_slot_lines :
    decodeSlot 0x200084D5 0x05000002 = .ok (.cmp { action := 0, srcA := 0, srcB := 8, dst0 := 19, dst1 := 21, qual := 5, extra := 0, ext := 2 }) ∧
    decodeSlot 0x120098BF 0x85000000 = .ok (.slotMul { action := 0, srcA := 0, srcB := 9, dst0 := 34, dst1 := 63, qual := 0x85, extra := 0, ext := 0 }) ∧
    decodeSlot 0x51001146 0x17020000 = .ok (.bfly { action := 0, srcA := 0, srcB := 1, dst0 := 5, dst1 := 6, qual := 0x17, extra := 2, ext := 0 }) ∧
    decodeSlot 0x01203045 0 = .ok (.copy { action := 2, srcA := 0, srcB := 3, dst0 := 1, dst1 := 5, qual := 0, extra := 0, ext := 0 }) ∧
    decodeSlot 0x64001105 0x37000002 = .ok (.mct { action := 0, srcA := 0, srcB := 1, dst0 := 4, dst1 := 5, qual := 0x37, extra := 0, ext := 2 }) ∧
    decodeSlot 0x0720C2FF 0 = .ok (.iter { action := 2, srcA := 0, srcB := 12, dst0 := 11, dst1 := 63, qual := 0, extra := 0, ext := 0 }) := by
  decide +kernel

/-- R20, R33 to R42, R46, R49: words that no instruction has. -/
theorem test_decode_rejects :
    (decodeWord 0x00A6380F).toOption = none ∧ (decodeWord 0x00A63820).toOption = none ∧ (decodeWord 0x34000000).toOption = none ∧
    (decodeWord 0x42A6E000).toOption = none ∧ (decodeWord 0xFC060000).toOption = none ∧ (decodeWord 0xFC020001).toOption = none ∧
    (decodeSlot 0x01203C71 0).toOption = none ∧ (decodeSlot 0x75000000 0).toOption = none ∧ (decodeSlot 0x01A03045 0).toOption = none := by
  decide +kernel

/-! ### Results worked out in the spec -/

/-- The value and the readiness that a divide leaves in the divider. -/
def divides (i : Instr) (a b : Word) : Option (Word × Nat) :=
  (got (exec i (regs [(1, a), (2, b)])) fun t => (t.core 0).divider.map fun q => (q.value, q.readyAt)).join

/-- R56 and its table. -/
theorem test_divide :
    divides (.div 3 1 2) 7 0 = some (0xFFFFFFFFFFFFFFFF, 20) ∧ divides (.rem 3 1 2) 7 0 = some (7, 20) ∧
    divides (.div 3 1 2) 0x8000000000000000 0xFFFFFFFFFFFFFFFF = some (0x8000000000000000, 68) ∧
    divides (.rem 3 1 2) 0x8000000000000000 0xFFFFFFFFFFFFFFFF = some (0, 68) ∧
    divides (.div 3 1 2) (-7) 2 = some (0xFFFFFFFFFFFFFFFD, 23) ∧ divides (.rem 3 1 2) (-7) 2 = some (0xFFFFFFFFFFFFFFFF, 23) ∧
    divides (.divu 3 1 2) 0xFFFFFFFFFFFFFFF9 2 = some (0x7FFFFFFFFFFFFFFC, 68) ∧ divides (.remu 3 1 2) 0xFFFFFFFFFFFFFFF9 2 = some (1, 68) := by
  decide +kernel

/-- R55 and the table. -/
theorem test_multiply :
    res (.mulhu 3 1 2) 0xFFFFFFFFFFFFFFFF 0xFFFFFFFFFFFFFFFF = some 0xFFFFFFFFFFFFFFFE ∧
    res (.mulhsu 3 1 2) 0xFFFFFFFFFFFFFFFF 0xFFFFFFFFFFFFFFFF = some 0xFFFFFFFFFFFFFFFF ∧
    res (.mulh 3 1 2) 0xFFFFFFFFFFFFFFFF 0xFFFFFFFFFFFFFFFF = some 0 ∧ res (.mul 3 1 2) 0xFFFFFFFFFFFFFFFF 3 = some (-3) := by
  decide +kernel

/-- R54, R57 and the table; subtraction and the signed order are not symmetric. -/
theorem test_alu :
    res (.add 3 1 2) 0xFFFFFFFFFFFFFFFF 2 = some 1 ∧ res (.sub 3 1 2) 1 2 = some 0xFFFFFFFFFFFFFFFF ∧ res (.and 3 1 2) 12 10 = some 8 ∧
    res (.or 3 1 2) 12 10 = some 14 ∧ res (.xor 3 1 2) 12 10 = some 6 ∧ res (.andn 3 1 2) 12 10 = some 4 ∧ res (.shl 3 1 2) 1 65 = some 2 ∧
    res (.shr 3 1 2) 0x8000000000000000 63 = some 1 ∧ res (.sar 3 1 2) 0x8000000000000000 63 = some 0xFFFFFFFFFFFFFFFF ∧
    res (.slt 3 1 2) (-1) 0 = some 1 ∧ res (.sltu 3 1 2) (-1) 0 = some 0 ∧ res (.min 3 1 2) (-1) 0 = some (-1) ∧ res (.max 3 1 2) (-1) 0 = some 0 ∧
    res (.minu 3 1 2) (-1) 0 = some 0 ∧ res (.maxu 3 1 2) (-1) 0 = some (-1) := by
  decide +kernel

theorem test_alu_two_operands :
    res (.clz 3 1) 0 0 = some 64 ∧ res (.clz 3 1) 1 0 = some 63 ∧ res (.ctz 3 1) 0 0 = some 64 ∧ res (.ctz 3 1) 8 0 = some 3 ∧
    res (.popc 3 1) 0xF0F 0 = some 8 ∧ res (.bswap 3 1) 0x0102030405060708 0 = some 0x0807060504030201 ∧
    res (.sextb 3 1) 0x80 0 = some 0xFFFFFFFFFFFFFF80 ∧ res (.sexth 3 1) 0x18000 0 = some 0xFFFFFFFFFFFF8000 ∧
    res (.sextw 3 1) 0x180000000 0 = some 0xFFFFFFFF80000000 ∧ res (.zextb 3 1) 0x1FF 0 = some 0xFF ∧ res (.zexth 3 1) 0x1FFFF 0 = some 0xFFFF ∧
    res (.zextw 3 1) 0x1FFFFFFFF 0 = some 0xFFFFFFFF := by
  decide +kernel

/-- R58: `lui g5, 0x8000`; `sltiu gd, ga, -1` yields 1 for every ga except all ones; a write to g0 is discarded (R16). -/
theorem test_immediates :
    res (.lui 3 0x8000) 0 0 = some 0xFFFFFFFF80000000 ∧ res (.sltiu 3 1 0xFFFF) 5 0 = some 1 ∧ res (.sltiu 3 1 0xFFFF) 0xFFFFFFFFFFFFFFFF 0 = some 0 ∧
    res (.addi 3 1 0xFFFF) 0 0 = some 0xFFFFFFFFFFFFFFFF ∧ res (.andi 3 1 0x8001) (-1) 0 = some 0x8001 ∧ res (.ori 3 1 0x8000) 1 0 = some 0x8001 ∧
    res (.xori 3 1 0x8001) 1 0 = some 0x8000 ∧ res (.slti 3 1 0xFFFF) (-2) 0 = some 1 ∧ res (.shli 3 1 52) 1 0 = some 0x10000000000000 ∧
    res (.shri 3 1 63) (-1) 0 = some 1 ∧ res (.sari 3 1 63) (-1) 0 = some (-1) ∧ res (.lus 3 0x1234) 0 0 1 = some 0x11234 ∧
    res (.addpc 3 0xFFFF) 0 0 = some (-4) ∧ res (.addi 0 1 1) 5 0 0 0 = some 0 := by
  decide +kernel

/-- The pc after an instruction with g1 and g2 at pc 0x1000. -/
def pcAfter (i : Instr) (a b : Word) : Option Word := got (exec i ((regs [(1, a), (2, b)]).setPc 0x1000)) (·.pc)

/-- R63, R64: signed and unsigned order; a target behind. -/
theorem test_branches :
    pcAfter (.beq 1 2 0xFFFE) 5 5 = some 0xFF8 ∧ pcAfter (.bne 1 2 2) 5 5 = some 0x1004 ∧ pcAfter (.blt 1 2 2) (-1) 0 = some 0x1008 ∧
    pcAfter (.bge 1 2 2) 0 (-1) = some 0x1008 ∧ pcAfter (.bltu 1 2 2) (-1) 0 = some 0x1004 ∧ pcAfter (.bgeu 1 2 2) (-1) 0 = some 0x1008 ∧
    pcAfter (.jal 1 0x1FFFFD) 0 0 = some 0xFF4 ∧ pcAfter (.jalr 3 1 0xFFFC) 0x2008 0 = some 0x2004 := by
  decide +kernel

theorem test_jumps_link :
    got (exec (.jal 3 5) (thr fun t => { t with pc := 0x1000 })) (·.gpr 3) = some 0x1004 ∧
    got (exec (.jalr 3 3 0) ((regs [(3, 0x2000)]).setPc 0x1000)) (fun t => (t.gpr 3, t.pc)) = some (0x1004, 0x2000) ∧
    got (exec (.jalr 3 3 2) ((regs [(3, 0x2000)]).setPc 0x1000)) (fun t => (t.gpr 3, t.cur.scause, t.cur.seval)) = some (0x2000, 3, 0x2002) := by
  decide +kernel

/-- R370: a page table that maps virtual 0x4000_0000 to physical 0x1_0000_0000 by one 1 GiB leaf with R, W and V set. -/
def tableMem : List Host.Cell := Memory.write (Memory.write [] 0x200000 8 0x201001) 0x201008 8 0x100000007

/-- The machine after reset with that page table as the supervisor's. -/
def mapped : State := { State.reset.modPart 0 fun p => { p with sptbase := 0x200000 } with mem := tableMem }

/-- Tenant 1 in place 1 of partition 0, the running tenant, with threads 1 to 3 and a local window of 8 KiB at 0x1_0000 on core 0, the same page
table, and its thread 1 READY at pc 0 with the trap vector 0x400 as the acting thread. -/
def tenanted : State :=
  let s := ((mapped.modPart 0 fun p => { p with sole := 1, soleNow := 1 }).setPlace 0 1
    { tcfg := 0x8000000000000101 }).setCorePlace 0 1
    { tthr := 0b1110, tlocal := 0x110000, held := true, ptbase := 0x200000, asid := 5 }
  { s.setThread 1 { run := .ready, tenant := 1, tvec := 0x100 } with focus := { thread := 1 } }

/-- A state with general registers of the acting thread. -/
def withRegs (s : State) (l : List (Reg × Word)) : State := l.foldl (fun s p => s.setGpr p.1 p.2) s

/-- A state with a word of core 0's local memory. -/
def withLocal (s : State) (a v : Nat) : State := { s with mem := Memory.write s.mem (localBase 0 + a) 8 v }

/-! ### Memory -/

/-- R59: a halfword stored in the store buffer and read back, sign-extended; its byte; a misaligned load; a load past local memory. -/
theorem test_load_store :
    got (exec (.ld .half true 3 1 2) (withLocal (regs [(1, 0x1000)]) 0x1000 0x8001_0000)) (·.gpr 3) = some 0xFFFFFFFFFFFF8001 ∧
    got (exec (.ld .byte false 3 1 0x1FFF) (withLocal (regs [(1, 0x1004)]) 0x1000 0x8001_0000)) (·.gpr 3) = some 0x80 ∧
    got (exec (.st .word 2 1 4) (regs [(1, 0x1000), (2, 0x1_8765_4321)])) (fun t => (t.core 0).stores.map fun e => (e.addr - localBase 0, e.size, e.value))
      = some [(0x1004, 4, 0x87654321)] ∧
    got (exec (.ld .word false 3 1 2) (regs [(1, 0x1000)])) (fun t => (t.cur.scause, t.cur.seval)) = some (3, 0x1002) ∧
    got (exec (.ld .byte false 3 1 0) (regs [(1, 0x80000)])) (fun t => (t.cur.scause, t.cur.seval)) = some (6, 0x80000) := by
  decide +kernel

/-- What an atomic at local address 0x1000 with memory `m` leaves there and returns; g2 holds `b`, g3 `e`. -/
def amo (i : Instr) (m : Nat) (b : Word) (e : Word := 0) : Option (Nat × Word) :=
  got (exec i (withLocal (regs [(1, 0x1000), (2, b), (3, e)]) 0x1000 m)) fun t => (Memory.read t.mem (localBase 0 + 0x1000) 8, t.gpr 3)

/-- R223, R224: the table of borderline atomics. -/
theorem test_atomics_table :
    amo (.amoIncw .bed .dword 3 1 2) 5 0 = some (0, 5) ∧
    amo (.amoIncw .bed .dword 3 1 2) 0xFFFFFFFFFFFFFFFF 0xFFFFFFFFFFFFFFFF = some (0, 0xFFFFFFFFFFFFFFFF) ∧
    amo (.amoIncw .bed .word 3 1 2) 9 10 = some (10, 9) ∧
    amo (.amoBfadd .bed .dword 3 1 2) 0xFFFFFFFFFFFFFFF0 0xFFFFFFFFFFFFFFFF 0x20 = some (0xFFFFFFFFFFFFFFFF, 0xFFFFFFFFFFFFFFF0) ∧
    amo (.amoBfadd .bed .word 3 1 2) 150 100 10 = some (150, 150) ∧ amo (.amoBfadd .bed .word 3 1 2) 95 100 10 = some (100, 95) ∧
    amo (.amoBfadd .bed .word 3 1 2) 0 0 7 = some (0, 0) ∧ amo (.amoFmin .bed 3 1 2) 0 0x80000000 = some (0x80000000, 0) ∧
    amo (.amoFmax .bed 3 1 2) 0x7FC00001 0x3F800000 = some (0x3F800000, 0x7FC00001) ∧
    amo (.amoFmin .bed 3 1 2) 0x7F800001 0x3F800000 = some (0x7FC00000, 0x7FC00000) := by
  decide +kernel

/-- R223: the other operations, signed and unsigned; CAS stores only on a match. -/
theorem test_atomics :
    amo (.amoAdd .bed .word 3 1 2) 0x5_FFFFFFFF 2 = some (0x5_00000001, 0xFFFFFFFF) ∧ amo (.amoAnd .bed .dword 3 1 2) 12 10 = some (8, 12) ∧
    amo (.amoOr .bed .dword 3 1 2) 12 10 = some (14, 12) ∧ amo (.amoXor .bed .dword 3 1 2) 12 10 = some (6, 12) ∧
    amo (.amoMin .bed .word 3 1 2) 1 0xFFFFFFFF = some (0xFFFFFFFF, 1) ∧ amo (.amoMax .bed .word 3 1 2) 1 0xFFFFFFFF = some (1, 1) ∧
    amo (.amoMinu .bed .word 3 1 2) 1 0xFFFFFFFF = some (1, 1) ∧ amo (.amoMaxu .bed .word 3 1 2) 1 0xFFFFFFFF = some (0xFFFFFFFF, 1) ∧
    amo (.amoSwap .bed .dword 3 1 2) 7 9 = some (9, 7) ∧ amo (.amoFadd .bed 3 1 2) 0x3F800000 0x40000000 = some (0x40400000, 0x3F800000) ∧
    amo (.cas .bed .dword 3 1 2) 7 9 7 = some (9, 7) ∧ amo (.cas .bed .dword 3 1 2) 8 9 7 = some (8, 8) := by
  decide +kernel

/-! ### CSRs and traps -/

/-- R20: THREADID of thread 1 of core 0; R23: TSTAT at reset; SWAYS at reset; the shadow entry of R336's line; a write of a read-only register
changes nothing; a tenant's read of a supervisor register traps. -/
theorem test_csr :
    got (exec (.csrr 3 0x000) tenanted) (·.gpr 3) = some 0x1000001 ∧ got (exec (.csrr 3 0x001) State.reset) (·.gpr 3) = some 1 ∧
    got (exec (.csrr 3 0x114) State.reset) (·.gpr 3) = some 0xFFFF ∧
    got (exec (.csrw 0 6 0x145) (regs [(6, 0x800002010F0C0A05)])) (fun t => Table.getD (t.part 0).shadow 5 0) = some 0x80000201000C0A05 ∧
    got (exec (.csrw 3 6 0x002) (regs [(6, 9)])) (fun t => (t.gpr 3, t.cycle)) = some (0, 0) ∧
    got (exec (.csrs 3 6 0x010) (withRegs tenanted [(6, 0x83)])) (fun t => (t.gpr 3, t.cur.tvec)) = some (0x400, 0x120) ∧
    got (exec (.csrc 3 6 0x010) (withRegs tenanted [(6, 0x400)])) (·.cur.tvec) = some 0 ∧
    got (exec (.csrr 3 0x100) tenanted) (fun t => (t.cur.ecause, t.pc, t.cur.eval)) = some (2, 0x400, 0x80600100) := by
  decide +kernel

/-- R67, R357, R209, R325, R328, R334, R335, R228: writes with effects of their own. -/
theorem test_csr_effects :
    got (exec (.tstatWrite .write 0 6) (regs [(6, 0xFF)])) (fun t => (t.cur.ae, t.cur.exl)) = some (true, false) ∧
    got (exec (.trunWrite .write 0 6) ((withRegs State.reset [(6, 0x2002)]).setThread 2 { run := .stopped, mode := true }))
      (fun t => ((t.thread 2).run, (t.thread 2).pc)) = some (.ready, 0x2000) ∧
    got (exec (.tlbiWrite .write 0 6) (regs [(6, 0x8000000000000000)])) (fun t => (t.part 0).tlbi.map (·.op)) = some (some 2) ∧
    got (exec (.soleWrite 0 6) (((withRegs tenanted [(6, 0x10)]).modMe fun t => { t with mode := true }))) (fun t => (t.part 0).sole) = some 1 ∧
    got (exec (.rotctlArm 3 6) (regs [(6, 1)])) (fun t => ((t.part 0).arm, (t.part 0).armst)) = some (true, 0) ∧
    got (exec (.armWithdraw 3 6) { (withRegs State.reset [(6, 1)]).modPart 0 fun p => { p with arm := true } with cursor := 100 })
      (fun t => (t.part 0).arm) = some false ∧
    got (exec (.barcfgWrite .write 3 0 6) (regs [(6, 0x00000001_3020_0000)]))
      (fun t => ((t.barrier 0 3).strips, (t.barrier 0 3).threads, (t.barrier 0 3).count)) = some (1, 3, 2) ∧
    got (exec (.twaysWrite .write 0 6) ((withRegs State.reset [(6, 0x1FF00)]).modMe fun t => { t with tsel := 2 })) (fun t => (t.place 0 2).tways)
      = some 0xFF00 ∧
    got (exec (.placeRegisterWrite .write .tcfg 0 6) ((withRegs State.reset [(6, 0x8000000000000107)]).modMe fun t => { t with tsel := 2 }))
      (fun t => (t.place 0 2).tcfg) = some 0x8000000000000107 ∧
    got (exec (.occWrite .write 9 0 6) ((withRegs State.reset [(6, 0x300000004)]).modMe fun t => { t with tsel := 2 }))
      (fun t => (Table.getD (t.corePlace 0 2).hits 1 0, Table.getD (t.corePlace 0 2).misses 1 0)) = some (3, 4) := by
  decide +kernel

/-- R26, R27, R72 to R76, R326: a tenant's trap goes to TVEC, its SVC to the supervisor, ERET back; a halted thread; a break. -/
theorem test_traps :
    got (exec (.trap 7) tenanted) (fun t => (t.pc, t.cur.ecause, t.cur.eval, t.cur.exl)) = some (0x400, 0x15, 7, true) ∧
    got (exec (.svc 9) (tenanted.modCore 0 fun c => { c with stvec := 0x200 })) (fun t => (t.pc, t.cur.scause, t.cur.seval, t.cur.mode))
      = some (0x800, 0x16, 9, true) ∧
    got (exec .eret (tenanted.modMe fun t => { t with exl := true, epc := 0x123 })) (fun t => (t.pc, t.cur.exl)) = some (0x120, false) ∧
    got (exec .halt (tenanted.setPc 0x40)) (fun t => (t.cur.run, t.cur.resume, t.notices.map fun n => (n.word0, n.detail0))) =
      some (.stopped, 0x44, [(0x80000010001, 0x44)]) ∧
    got (exec .brk tenanted) (fun t => (t.pc, t.cur.ecause)) = some (0x400, 0x17) ∧
    got (exec .donate (tenanted.setPc 0x40)) (fun t => (t.pc, (t.part 0).donation.isNone)) = some (0x44, true) ∧
    got (exec .unassignedHeadlandWord { tenanted with focus := { thread := 1, word := 0x34000000 } }) (fun t => (t.cur.ecause, t.cur.eval))
      = some (1, 0x34000000) := by
  decide +kernel

/-! ### States that meet the statements' hypotheses, at the boundaries of their clauses -/

/-- Thread 0 of core 0 with outstanding loads, virtual address 0x4000_0000 in g1. -/
def loading (l : List LoadSt) : State := (withRegs mapped [(1, 0x40000000)]).modMe fun t => { t with loads := l }

/-- Four outstanding loads. -/
def fourLoads : List LoadSt := [{ gd := 5, value := 1, readyAt := 1 }, { gd := 6, value := 2, readyAt := 2 }, { gd := 7, value := 3, readyAt := 3 }, { gd := 8, value := 4, readyAt := 4 }]

/-- A buffered store of thread 0. -/
def stored (a v : Nat) : StoreSt := { thread := 0, addr := a, size := 8, value := v, tenant := 0, uncached := false, since := 0 }

/-- The hub address 0x1_0000_0000, to which `mapped` translates 0x4000_0000. -/
def hubTarget : Target := { addr := 0x100000000, isLocal := false, uncached := false }

/-- Byte `a` of core 0's local memory. -/
def localTarget (a : Nat) : Target := { addr := localBase 0 + a, isLocal := true, uncached := false }

theorem witness_DivideThroughTheDivider :
    (((regs [(1, 0x8000000000000000), (2, 0xFFFFFFFFFFFFFFFF)]).core 0).divider = none ∧ (0x8000000000000000 : Word).toInt = -2 ^ 63 ∧
      (0xFFFFFFFFFFFFFFFF : Word).toInt = -1) ∧
    (let q : DivSt := { thread := 2, gd := 5, value := 9, readyAt := 20 }; let s := State.reset.modCore 0 fun c => { c with divider := some q };
      (s.core s.focus.core).divider = some q ∧ got (exec .dividerDone s) (fun t => (t.gprOf 2 5, (t.core 0).divider)) = some (9, none)) := by
  decide +kernel

theorem witness_BranchesGoToTheirTargets :
    (5 : Word) = 5 ∧ (5 : Word) ≠ 6 ∧ (-1 : Word).toInt < (0 : Word).toInt ∧ ¬ (0 : Word).toInt < (0 : Word).toInt ∧ ¬ (-1 : Word).toNat < (0 : Word).toNat ∧
    got (exec (.beq 1 2 4) (regs [])) (fun t => (t.pc, t.cur.notBefore)) = some (16, 3) ∧ got (exec (.bne 1 2 4) (regs [])) (fun t => (t.pc, t.cur.notBefore)) = some (4, 0) ∧
    got (exec (.bne 1 2 4) ((regs []).modMe fun t => { t with predictor := [(0, 2)] })) (fun t => (t.pc, t.cur.notBefore)) = some (4, 3) := by
  decide +kernel

theorem witness_JumpsLinkAndTrapOnMisalignment :
    (BitVec.ofInt 64 (((regs [(1, 0x2000)]).gpr 1).toInt + (0xFFFC : BitVec 16).toInt)).toNat % 4 = 0 ∧
    (BitVec.ofInt 64 (((regs [(1, 0x2000)]).gpr 1).toInt + (2 : BitVec 16).toInt)).toNat % 4 ≠ 0 ∧
    got (exec (.jalr 0 1 0) ((regs [(1, 0x2000)]).modMe fun t => { t with returns := [0x2000] })) (fun t => (t.pc, t.cur.notBefore)) = some (0x2000, 0) ∧
    got (exec (.jalr 0 1 0) ((regs [(1, 0x2000)]).modMe fun t => { t with returns := [0x2004] })) (fun t => (t.pc, t.cur.notBefore)) = some (0x2000, 3) := by
  decide +kernel

/-- The last byte of the window and the first beyond it, the last of local memory and the first beyond it, and the first address beyond the
virtual range. -/
theorem witness_LocalAddressesAreChecked :
    (tenanted.resolve 1 0x1FFF .load).2 = .ok (localTarget 0x11FFF) ∧ (tenanted.resolve 1 0x2000 .load).2 = .error 6 ∧
    (State.reset.resolve 0 0x7FFFF .store).2 = .ok (localTarget 0x7FFFF) ∧ (State.reset.resolve 0 0x80000 .store).2 = .error 6 ∧
    (State.reset.resolve 0 0xFFFFF .load).2 = .error 6 ∧ (State.reset.resolve 0 0x200000000000000 .load).2 = .error 4 ∧
    (mapped.resolve 0 0x40000000 .load).2 = .ok hubTarget ∧ (mapped.resolve 0 0x80000000 .load).2 = .error 4 := by
  decide +kernel

theorem witness_LoadsGiveTheBytesOrTrap :
    (let s := { withRegs tenanted [(1, 0x1FFF)] with badWords := [(localBase 0 + 0x11FFF) / 8] };
      (s.resolve s.me (s.gpr 1) .load).2 = .ok (localTarget 0x11FFF) ∧ s.loadPoisoned (localTarget 0x11FFF) 1 = true ∧
      got (exec (.ld .byte false 3 1 0) s) (fun t => (t.cur.ecause, t.pc)) = some (0x11, 0x400)) ∧
    (let s := withRegs tenanted [(1, 0x1FFF)]; (s.resolve s.me (s.gpr 1) .load).2 = .ok (localTarget 0x11FFF) ∧ s.loadPoisoned (localTarget 0x11FFF) 1 = false) ∧
    (let s := loading []; let r := s.resolve 0 (s.gpr 1) .load; r.2 = .ok hubTarget ∧ r.1.loadPoisoned hubTarget 8 = false ∧ s.cur.loads.length < 4 ∧
      got (exec (.ld .dword false 3 1 0) s) (fun t => t.cur.loads) = some [{ gd := 3, value := 0, readyAt := 3 }]) ∧
    (let s := loading fourLoads; (s.resolve 0 (s.gpr 1) .load).2 = .ok hubTarget ∧ 3 ≤ fourLoads.tail.length ∧
      got (exec (.ld .word true 3 1 0) s) (fun t => (t.cur.loads.length, t.gpr 5)) = some (4, 1)) ∧
    (let s := { loading [] with poisoned := [0x100000000 / 128] }; let r := s.resolve 0 (s.gpr 1) .load; r.2 = .ok hubTarget ∧ r.1.loadPoisoned hubTarget 8 = true) ∧
    got (exec .loadReturn (loading fourLoads)) (fun t => (t.gpr 5, t.cur.loads)) = some (1, fourLoads.tail) := by
  decide +kernel

theorem witness_StoresEnterTheStoreBuffer :
    (let s := regs [(1, 0x1002)]; (s.gpr 1).toNat % 4 ≠ 0) ∧
    (let s := withRegs tenanted [(1, 0x2000)]; (s.gpr 1).toNat % 8 = 0 ∧ (s.resolve s.me (s.gpr 1) .store).2 = .error 6) ∧
    (let s := (regs [(1, 0x1000)]).modCore 0 fun c => { c with stores := List.replicate 7 (stored (localBase 0) 1) };
      (s.resolve 0 (s.gpr 1) .store).2 = .ok (localTarget 0x1000) ∧ (s.core 0).stores.length < 8) ∧
    (let s := (regs [(1, 0x1000), (2, 5)]).modCore 0 fun c => { c with stores := List.replicate 8 (stored (localBase 0) 1) };
      7 ≤ (s.core 0).stores.tail.length ∧ got (exec (.st .dword 2 1 0) s) (fun t => ((t.core 0).stores.length, Memory.read t.mem (localBase 0) 8)) = some (8, 1)) := by
  decide +kernel

theorem witness_BufferedStoresAreSeenAndPerformed :
    (let l := [stored (localBase 0) 1, stored (localBase 0 + 8) 2]; let s := { State.reset.modCore 0 fun c => { c with stores := l } with focus := { index := 1 } };
      (s.core s.focus.core).stores[s.focus.index]? = some (stored (localBase 0 + 8) 2) ∧ (∀ x ∈ l.take 1, x.addr + x.size ≤ localBase 0 + 8 ∧ x.uncached = false) ∧ 2 ^ 52 ≤ localBase 0 + 8 ∧
      got (exec .storeBufferDrain s) (fun t => ((t.core 0).stores, Memory.read t.mem (localBase 0 + 8) 8)) = some ([stored (localBase 0) 1], 2)) ∧
    (let s := State.reset.modCore 0 fun c => { c with stores := [stored 0x100000078 7] };
      (s.core s.focus.core).stores[s.focus.index]? = some (stored 0x100000078 7) ∧ 0x100000078 < 2 ^ 52 ∧ 0x100000078 % 128 + 8 ≤ 128 ∧
      got (exec .storeBufferDrain s) (fun t => (t.coherentRead 0 0 0x100000078 8).2) = some 7) ∧
    (let uc := fun (a : Nat) => { stored a 1 with uncached := true }; let s := { State.reset.modCore 0 fun c => { c with stores := [uc 0x100000000, uc 0x100000080] } with focus := { index := 1 } };
      refuses (exec .storeBufferDrain s) = true) ∧
    (let s := regs [(1, 0x1000), (2, 5)]; (s.resolve s.me 0x1000 .store).2 = .ok (localTarget 0x1000) ∧ s.loadPoisoned (localTarget 0x1000) 8 = false) := by
  decide +kernel

theorem witness_AtomicsReadAndWriteAsOneAction :
    (let s := regs [(1, 0x1004)]; (s.gpr 1).toNat % 8 ≠ 0 ∧ (s.gpr 1).toNat % 4 = 0) ∧
    (let s := withRegs tenanted [(1, 0x2000)]; (s.resolve s.me (s.gpr 1) .atomic).2 = .error 6) ∧
    (let s := regs [(1, 0x1000)]; (s.resolve 0 (s.gpr 1) .atomic).2 = .ok (localTarget 0x1000) ∧ s.loadPoisoned (localTarget 0x1000) 8 = false ∧ (s.core 0).stores = []) ∧
    (let s := { regs [(1, 0x1000)] with badWords := [(localBase 0 + 0x1000) / 8] }; s.loadPoisoned (localTarget 0x1000) 8 = true) ∧
    (let s := loading []; let r := s.resolve 0 (s.gpr 1) .atomic; r.2 = .ok hubTarget ∧ r.1.loadPoisoned hubTarget 8 = false ∧
      got (exec (.amoSwap .device .dword 3 1 2) s) (fun t => (t.gpr 3, t.pc)) = some (0, 4)) := by
  decide +kernel

/-- The first and last indices of the supervisor's range, the first unassigned user index and the last, and the first beyond. -/
theorem witness_CsrWordsAreCheckedAndRead :
    csrFault false 0x100 = some 2 ∧ csrFault false 0x1FF = some 2 ∧ csrFault false 0x006 = some 1 ∧ csrFault true 0x0FF = some 1 ∧ csrFault true 0x200 = some 1 ∧
    csrFault false 0xFFF = some 1 ∧ csrFault true 0x106 = some 1 ∧ csrFault true 0x12A = some 1 ∧ csrFault true 0x13F = some 1 ∧ csrFault true 0x180 = some 1 ∧
    csrFault true 0x140 = none ∧ csrFault true 0x17F = none ∧ csrFault true 0x127 = none ∧ csrFault false 0x060 = none ∧ csrFault false 0x07F = none ∧
    encode (.csrw 5 6 0x010) = some 0x80A64010 ∧ decodeCsrWrite .write 5 6 0x010 = .csrw 5 6 0x010 ∧
    got (exec (.csrw 5 6 0x106) (regs [(6, 1)])) (fun t => (t.cur.scause, t.cur.seval)) = some (1, 0x80A64106) := by
  decide +kernel

theorem witness_CsrWritesSetOnlyTheirFields :
    isSpecialCsr 0x010 = false ∧ csrFault false 0x010 = none ∧ isSpecialCsr 0x140 = false ∧ isSpecialCsr 0x17F = false ∧ csrFault true 0x17F = none ∧
    isSpecialCsr 0x030 = false ∧ isSpecialCsr 0x122 = false ∧ isSpecialCsr 0x126 = false ∧ (0 : Reg) = 0 ∧
    (let s := ((withRegs State.reset [(6, -1)]).modMe fun t => { t with tsel := 15 });
      s.cur.tsel.toNat ≠ 0 ∧ got (exec (.csrw 3 6 0x126) s) (fun t => (t.place 0 15).tquota) = some 0x1FFF003F1FFF ∧
      got (exec (.csrw 3 6 0x122) s) (fun t => (t.corePlace 0 15).tthr) = some 0xE ∧ got (exec (.csrw 3 6 0x030) s) (fun t => (t.corePlace 0 15).asid) = some 0x1FFF ∧
      got (exec (.csrw 3 6 0x17F) s) (fun t => Table.getD (t.part 0).shadow 63 0) = some 0x8000FFFF00FFFFFF ∧
      got (exec (.csrw 3 6 0x100) s) (fun t => (t.core 0).stvec) = some 0x3FFFFFFFFFFFFFFF) ∧
    got (exec (.csrs 3 0 0x010) (State.reset.modMe fun t => { t with tvec := 5 })) (fun t => (t.gpr 3, t.cur.tvec)) = some (20, 5) := by
  decide +kernel

theorem witness_ThreadControlWrites :
    (let s := (regs [(6, 3)]).setThread 3 { run := .stopped, mode := true, resume := 0x40 };
      s.cur.run = .ready ∧ s.cur.mode = true ∧ (s.thread 3).run = .stopped ∧ (s.thread 3).brkStop = false ∧
      got (exec (.trunWrite .set 3 6) s) (fun t => ((t.thread 3).run, (t.thread 3).pc)) = some (.ready, 0x40)) ∧
    (let s := (regs [(6, 3)]).setThread 3 { run := .stopped, brkStop := true }; (s.thread 3).brkStop = true ∧
      got (exec (.trunWrite .write 3 6) s) (fun t => (t.thread 3).run) = some .stopped) ∧
    (let s := regs [(6, 0xC000000000000000)]; (s.part 0).tlbi = none ∧ got (exec (.tlbiWrite .write 3 6) s) (fun t => (t.part 0).tlbi.isNone) = some true) ∧
    (let s := mapped.translate 0 0 0 0x200000 0 0x40000000 .load;
      (s.1.core 0).tlb.length = 1 ∧ got (exec (.tlbiWrite .write 3 6) (withRegs s.1 [(6, 0x8000000000000000)])) (fun t => ((t.core 0).tlb, (t.part 0).tlbi.isSome)) = some ([], true)) ∧
    (let s := (regs [(6, 1)]).modPart 0 fun p => { p with tlbi := some { op := 2, asid := 0, vpn := 0 } }; (s.part 0).tlbi.isSome = true ∧
      got (exec (.tlbiWrite .write 3 6) s) (fun t => (t.cur.run, t.pc)) = some (.waiting, 0)) := by
  decide +kernel

/-- The supervisor's thread 0 with TSEL = 2, `v` in g6 and `w` in g7. -/
def sup2 (v : Word) (w : Word := 0) : State := (withRegs State.reset [(6, v), (7, w)]).modMe fun t => { t with tsel := 2 }

/-- The windows at the top of local memory and of the way masks, one step beyond, and one that another place holds; a tenant that a place
already holds, tenant 0 with V, and a tenant with a thread. -/
theorem witness_PlaceAndRotationWrites :
    (sup2 1).cur.mode = true ∧ (sup2 1).cur.run = .ready ∧ (6 : Reg) ≠ 0 ∧ (sup2 1).cur.tsel.toNat ≠ 0 ∧
    got (exec (.placeRegisterWrite .write .tlocal 3 6) (sup2 0x7E000)) (fun t => (t.corePlace 0 2).tlocal) = some 0x7E000 ∧
    got (exec (.placeRegisterWrite .write .tlocal 3 6) (sup2 0x7F000)) (fun t => (t.corePlace 0 2).tlocal) = some 0 ∧
    (let s := (sup2 0x110000).setCorePlace 0 1 { tlocal := 0x110000, held := true };
      got (exec (.placeRegisterWrite .write .tlocal 3 6) s) (fun t => (t.corePlace 0 2).tlocal) = some 0) ∧
    got (exec (.placeRegisterWrite .write .tedge 3 6) (sup2 0x3E000000000)) (fun t => (t.place 0 2).tedge) = some 0x3E000000000 ∧
    got (exec (.placeRegisterWrite .write .tedge 3 6) (sup2 0x3E100000000)) (fun t => (t.place 0 2).tedge) = some 0 ∧
    got (exec (.placeRegisterWrite .write .tedge 3 6) (sup2 0x500000005)) (fun t => (t.place 0 2).tedge) = some 0 ∧
    got (exec (.placeRegisterWrite .write .tassign 3 6) (sup2 0x8000000001)) (fun t => (t.place 0 2).tassign) = some 0x8000000001 ∧
    got (exec (.placeRegisterWrite .write .tassign 3 6) ((sup2 0x8000000001).setPlace 0 1 { tassign := 0x8000000000 })) (fun t => (t.place 0 2).tassign) = some 0 ∧
    got (exec (.placeRegisterWrite .write .tcfg 3 6) (sup2 0x8000000000000000)) (fun t => (t.place 0 2).tcfg) = some 0 ∧
    got (exec (.placeRegisterWrite .write .tcfg 3 6) ((sup2 0x8000000000000007).setPlace 0 1 { tcfg := 0x8000000000000007 })) (fun t => (t.place 0 2).tcfg) = some 0 ∧
    (let s := ((sup2 0x0000000000000007).setPlace 0 2 { tcfg := 0x8000000000000007 }).setThread 1 { run := .stopped, tenant := 7 };
      s.hasThread 0 7 = true ∧ got (exec (.placeRegisterWrite .write .tcfg 3 6) s) (fun t => (t.place 0 2).tcfg) = some 0x8000000000000007) ∧
    got (exec (.placeRegisterWrite .write .tcfg 3 6) (((sup2 0x0000000000000007).setPlace 0 2 { tcfg := 0x8000000000000007 }).setCorePlace 9 2 { held := true }))
      (fun t => ((t.place 0 2).tcfg, (t.corePlace 9 2).held)) = some (7, false) ∧
    (let s := sup2 0x0; s.armCheck 0 (fun g => s.smallScratch 0 g) = 0) ∧
    (let s := (sup2 1).modPart 0 fun p => { p with shadow := [(0, 0x8000000000000000 + 0x100000000)] }; s.armCheck 0 (fun g => s.smallScratch 0 g) ≠ 0 ∧
      got (exec (.rotctlArm 3 6) s) (fun t => (t.part 0).arm) = some false) ∧
    got (exec (.barcfgWrite .write 15 3 6) (((sup2 0x0000000160200000).setThread 1 { run := .ready }).setThread 2 { run := .stopped })) (fun t => ((t.barrier 0 15).count, (t.barrier 0 15).broken)) = some (2, false) ∧
    got (exec (.barcfgWrite .write 15 3 6) (sup2 0x0000000160200000)) (fun t => (t.barrier 0 15).broken) = some true := by
  decide +kernel

/-- The supervisor's thread in a guard 1000 cycles before the wrap; the ten forms on any operands: g0 too, and no invalidation in progress. -/
theorem witness_PlaceAndRotationWrites_late :
    (1024 < (sup2 1).wrapIn ∧ ((sup2 1).part 0).tlbi = none ∧ (sup2 1).cur.run = .ready) ∧
    (let s := ({ sup2 1 with cursor := 4094, stepCyc := 536 }).modPart 0 fun p => { p with inGuard := true }; s.wrapIn = 1000 ∧ (s.part 0).armSkip ≠ some s.passNo ∧ s.wrapHeldUp 0 = false ∧
      (s.armCheck 0 fun g => s.smallScratch 0 g) = 0 ∧ got (exec (.rotctlArm 3 6) s) (fun t => ((t.part 0).arm, (t.part 0).armedNext, t.gpr 3)) = some (false, some [], 0)) ∧
    ([Instr.tstatWrite .set 3 0, .barcfgWrite .clear 0 3 0, .occWrite .set 9 3 0, .rotctlArm 3 0, .armWithdraw 3 0, .soleWrite 3 0, .placeRegisterWrite .set .tcfg 3 0,
      .twaysWrite .clear 3 0, .trunWrite .set 3 0, .tlbiWrite .set 3 0].all fun i => got (exec i (sup2 1)) (fun t => decide (t.pc = 4 ∧ t.gpr 6 = 1)) == some true) = true := by
  decide +kernel

theorem witness_TrapEntryAndEscalation :
    (let x := tenanted.cur; x.mode = false ∧ x.tvec ≠ 0 ∧ x.exl = false ∧ x.sexl = false ∧ (tenanted.core tenanted.myCore).stvec = 0) ∧
    (let s := (tenanted.modMe fun t => { t with exl := true }).modCore 0 fun c => { c with stvec := 0x40 };
      s.cur.sexl = false ∧ (s.core s.myCore).stvec ≠ 0 ∧ got (exec (.trap 1) s) (fun t => (t.pc, t.cur.sfrec.f0)) = some (0x100, 0x1000015)) ∧
    (let s := tenanted.modMe fun t => { t with tvec := 0 };
      got (exec (.trap 0xFFFF) s) (fun t => (t.cur.run, t.notices.map fun n => (n.word0, n.detail1))) = some (.stopped, [(0x80000011502, 0x15)])) ∧
    (let s := State.reset.modMe fun t => { t with sexl := true }; s.cur.sexl = true ∧ got (exec (.svc 0) s) (fun t => (t.cur.run, t.notices.length)) = some (.stopped, 1)) ∧
    breakClaimed tenanted = false ∧
    (let s := tenanted.modCore 0 fun c => { c with claim := some .sideBand }; breakClaimed s = true ∧
      got (exec .brk s) (fun t => (t.cur.run, t.cur.brkStop)) = some (.stopped, true)) := by
  decide +kernel

/-- Tenant 1 with an active rotation: its slot of ranks 0 to 2047 with the donee 2, and the slot of tenant 2 in place 2. -/
def rotating : State :=
  ((tenanted.modPart 0 fun p => { p with on := true, active := [(0, 0x80000201007FF000), (1, 0x8000000200FFF800)] }).setPlace 0 2 { tcfg := 0x8000000000000002 })

theorem witness_ReturnHaltAndDonate :
    (let s := tenanted.modMe fun t => { t with exl := true }; s.cur.mode = false ∧ s.cur.exl = true) ∧
    (let s := tenanted.modMe fun t => { t with mode := true, sexl := true, sepc := 0x43 }; s.cur.mode = true ∧ s.cur.sexl = true ∧ s.running s.myPart = s.cur.tenant ∧
      (s.part s.myPart).inGuard = false ∧ got (exec .eret s) (fun t => (t.pc, t.cur.mode)) = some (0x40, false)) ∧
    (let s := { tenanted.modMe fun t => { t with mode := true, sexl := true, sepc := 0x43, tenant := 2 } with focus := { thread := 1 } };
      s.running s.myPart ≠ s.cur.tenant ∧ s.cur.run = .ready ∧ s.cur.spmode = false ∧ got (exec .eret s) (fun t => (t.cur.run, t.cur.mode)) = some (.resting, false)) ∧
    (tenanted.cur.mode = false ∧ tenanted.cur.exl = false ∧ got (exec .eret tenanted) (fun t => (t.cur.ecause, t.cur.eval)) = some (1, 0xFC020000)) ∧
    (State.reset.cur.mode = true ∧ (State.reset.core State.reset.myCore).stores = [] ∧ got (exec .halt State.reset) (·.notices) = some []) ∧
    (∃ w, rotating.entryAt rotating.myPart rotating.cursor = some (0, w) ∧ rotating.donated 0 0 = false ∧ (w.extractLsb' 32 8).toNat = rotating.cur.tenant ∧
      w.extractLsb' 40 8 ≠ 0) ∧ rotating.running 0 = 1 ∧ (rotating.part 0).donation = none ∧
    got (exec .donate rotating) (fun t => (t.part 0).donation) = some (some { entry := 0, pass := 0, cursor := 2, inForce := false }) := by
  refine ⟨by decide +kernel, by decide +kernel, by decide +kernel, by decide +kernel, by decide +kernel,
    ⟨0x80000201007FF000, by decide +kernel⟩, by decide +kernel, by decide +kernel, by decide +kernel⟩

/-- A pending watchdog trap. -/
def watchdog : PendTrap := { code := 0x14, frec := { f0 := 0x14 }, fabric := false }

theorem witness_FetchFaultsAndPendingTraps :
    (let s := tenanted.setPc 0x2000; (fetchTarget s s.me).2 = .error 6 ∧ got (exec .fetchFault s) (fun t => (t.cur.epc, t.cur.ecause, t.pc)) = some (0x2000, 6, 0x400)) ∧
    (let s := tenanted.modMe fun t => { t with pend := [watchdog], ae := true, run := .waiting, wait := { code := .pause } };
      (s.thread s.focus.thread).pend = [watchdog] ∧ s.asyncDue s.focus.thread = true ∧ (s.thread 1).mode = false ∧ (s.thread 1).tvec ≠ 0 ∧
      got (exec .asyncTrapEntry s) (fun t => (t.cur.epc, t.cur.ecause, t.pc)) = some (4, 0x8000000000000014, 0x400)) ∧
    (let s := (tenanted.modMe fun t => { t with pend := [watchdog], ae := true, tvec := 0 }).modCore 0 fun c => { c with stvec := 1 };
      s.asyncDue 1 = true ∧ (s.core 0).stvec ≠ 0 ∧ got (exec .asyncTrapEntry s) (fun t => (t.cur.sepc, t.pc, t.cur.spmode)) = some (0, 4, false)) := by
  decide +kernel

/-- Thread 1 of tenant 1 about to spawn: entry in g6, descriptor in g7, g4 handed on. -/
def spawning (e v : Word) : State := withRegs tenanted [(4, 44), (6, e), (7, v)]

theorem witness_SpawnExitYieldPause :
    (spawning 0x100 2).cur.run = .ready ∧ (spawning 0x100 2).placeOf 0 1 = some 1 ∧ ((spawning 0x100 2).corePlace 0 1).tthr.getLsbD 2 = true ∧
    ((spawning 0x100 2).thread 2).run = .free ∧
    got (exec (.spawn 5 6 7) (spawning 0x100 0x010002)) (·.gpr 5) = some 3 ∧ got (exec (.spawn 5 6 7) (spawning 0x100 0x4)) (·.gpr 5) = some 1 ∧
    got (exec (.spawn 5 6 7) (spawning 0x102 0x2)) (·.gpr 5) = some 2 ∧ got (exec (.spawn 5 6 7) (spawning 0x100 0x1)) (·.gpr 5) = some 4 ∧
    got (exec (.spawn 5 6 7) (spawning 0x100 2)) (fun t => (t.gpr 5, (t.thread 2).pc, (t.thread 2).tenant, t.gprOf 2 2, (t.thread 2).run)) =
      some (0, 0x100, 1, 44, .ready) ∧
    (¬(tenanted.cur.mode = true ∧ tenanted.me % 4 = 0) ∧ (tenanted.core tenanted.myCore).stores = [] ∧ tenanted.barriersOf 1 = [] ∧
      got (exec .exit tenanted) (fun t => t.cur.run) = some .free) ∧
    (State.reset.cur.mode = true ∧ State.reset.me % 4 = 0 ∧ got (exec .exit State.reset) (fun t => (t.cur.run, t.cur.resume)) = some (.stopped, 4)) ∧
    got (exec .yield State.reset) (fun t => (t.pc, t.cur.yieldUntil)) = some (4, 4) ∧
    got (exec (.pause 6) (regs [(6, 1)])) (fun t => (t.pc, t.cur.run, t.cur.wait.deadline)) = some (0, .waiting, some 1) ∧
    got (exec (.pause 6) (regs [(6, 0)])) (fun t => (t.pc, t.cur.run)) = some (4, .ready) ∧
    (let s := thr fun t => { t with run := .waiting, wait := { code := .pause, deadline := some 0 } }; (s.thread s.focus.thread).wait.deadline = some 0 ∧ 0 ≤ s.cycle ∧
      got (exec .pauseExpiry s) (fun t => (t.pc, t.cur.run)) = some (4, .ready)) := by
  decide +kernel

theorem witness_FencesWaitForEarlierOperations :
    got (exec (.fenceAcq .plot) (loading fourLoads)) (fun t => (t.gpr 8, t.cur.loads, t.pc)) = some (4, [], 4) ∧
    (let s := (regs [(1, 0x1000)]).modCore 0 fun c => { c with stores := [stored (localBase 0) 5] };
      got (exec (.fenceRel .system) s) (fun t => ((t.core 0).stores, Memory.read t.mem (localBase 0) 8, t.pc)) = some ([], 5, 4) ∧
      got (exec (.fenceFull .plot) s) (fun t => ((t.core 0).stores.length, t.pc)) = some (0, 4)) ∧
    (let s := thr fun t => { t with boardGd := some (5, 0) }; s.cur.boardGd ≠ none ∧ got (exec (.fenceRel .field) s) (fun t => (t.pc, t.cur.run)) = some (0, .waiting)) ∧
    (let s := State.reset.setCorePlace 0 15 { injq := [{ route := 0, token := { tag := 0, kind := 0, valid := 1, width := 5, payload := 0 }, thread := 0 }] };
      got (exec (.fenceRel .bed) s) (fun t => t.cur.run) = some .waiting ∧ got (exec (.fenceRel .device) s) (fun t => t.cur.run) = some .waiting) ∧
    (let s := { State.reset with flights := [(4, { src := 2 ^ 19, bound := .elem 0 0 0, token := { tag := 0, kind := 0, valid := 1, width := 5, payload := 0 }, at_ := 9, thread := some 0 })] };
      got (exec (.fenceRel .plot) s) (fun t => t.cur.run) = some .waiting) := by
  decide +kernel

/-- Thread 0 asleep in a wait at local address 0x1000, where the word is `m`. -/
def asleep (c : WaitCode) (v : Word) (m : Nat) : State :=
  withLocal (thr fun t => { t with run := .waiting, wait := { code := c, addr := 0x1000, value := v, gd := 5, deadline := some 0 } }) 0x1000 m

theorem witness_WaitsSleepAndTimeOut :
    got (exec (.wait 5 6 7) (withLocal (regs [(6, 0x1000), (7, 3)]) 0x1000 4)) (fun t => (t.gpr 5, t.pc)) = some (4, 4) ∧
    got (exec (.wait 5 6 7) (withLocal (regs [(6, 0x1000), (7, 3)]) 0x1000 3)) (fun t => (t.cur.run, t.pc)) = some (.waiting, 0) ∧
    got (exec (.waite 5 6 7) (withLocal (regs [(6, 0x1000), (7, 3)]) 0x1000 3)) (fun t => (t.gpr 5, t.pc)) = some (3, 4) ∧
    got (exec (.wait 5 6 7) (regs [(6, 0x1004)])) (fun t => (t.cur.scause, t.cur.seval)) = some (3, 0x1004) ∧
    got (exec (.wait 5 6 7) (withRegs tenanted [(6, 0x2000)])) (fun t => (t.cur.ecause, t.cur.eval)) = some (6, 0x2000) ∧
    (let s := { withRegs mapped [(6, 0x40000000)] with retired := [0x100000] }; got (exec (.wait 5 6 7) s) (fun t => t.cur.scause) = some 0x11) ∧
    (let s := asleep .wait 3 4; (s.thread s.focus.thread).run = .waiting ∧ s.focus.thread = 0 ∧ got (exec .waitWake s) (fun t => (t.gpr 5, t.cur.run)) = some (4, .ready) ∧ s.wakeDue 0 (s.thread 0) = true) ∧
    (let s := { (asleep .wait 3 4).modMe fun t => { t with wait := { t.wait with uncached := true } } with cycle := 256 }; s.cur.wait.readAt + 256 ≤ s.cycle ∧
      got (exec .ucPageReread s) (fun t => t.gpr 5) = some 4) ∧
    got (exec .waitWake (asleep .waite 3 4)) (fun t => (t.cur.run, t.cur.wait.last)) = some (.waiting, some 4) ∧
    got (exec .waitTimeout (asleep .waite 3 4)) (fun t => (t.gpr 5, t.pc, t.cur.pend.map (·.code))) = some (4, 4, [0x14]) ∧
    got (exec .waitTimeout (asleep .recv 3 4)) (fun t => (t.gpr 5, t.pc, t.cur.pend.length)) = some (0, 4, 1) ∧
    (let s := (asleep .recv 3 4).modMe fun t => { t with pend := [watchdog, watchdog, watchdog, watchdog] }; 4 ≤ s.cur.pend.length ∧
      got (exec .waitTimeout s) (fun t => t.cur.lost) = some true) ∧
    (let s := (asleep .wait 3 4).modMe fun t => { t with wait := { t.wait with addr := 0x80000 } }; (s.resolve 0 0x80000 .load).2 = .error 6 ∧
      got (exec .waitTimeout s) (fun t => t.cur.scause) = some 6) ∧
    (let s := { asleep .wait 3 4 with badWords := [(localBase 0 + 0x1000) / 8] }; s.loadPoisoned (localTarget 0x1000) 8 = true ∧
      got (exec .waitTimeout s) (fun t => t.cur.scause) = some 0x11) := by
  decide +kernel

/-- Barrier 3 for threads 1 and 2 of core 0; thread 1 acts, with these arrivals. -/
def barred (b : BarrierSt) : State := (withRegs { (State.reset.setThread 1 { run := .ready, mode := true }).setThread 2 { run := .ready, mode := true } with focus := { thread := 1 } } [(6, 3)]).modPart 0 fun p => { p with barriers := [(3, b)] }

/-- Both threads are members and the count is two. -/
def pairBar : BarrierSt := { strips := 1, threads := 6, count := 2 }

/-- An undefined barrier, one that the thread is no member of, a broken one; the first arrival, the second of the same thread, the last one
with a waiting thread released. -/
theorem witness_BarriersOpenWhenTheCountArrives :
    (barred pairBar).cur.run = .ready ∧ (barred pairBar).mayUse 0 3 = true ∧ (barred pairBar).isMember 0 3 1 = true ∧
    got (exec (.bar 5 6) (withRegs (barred pairBar) [(6, 0x13)])) (·.gpr 5) = some 1 ∧ got (exec (.bar 5 6) (barred {})) (·.gpr 5) = some 1 ∧ got (exec (.bar 5 6) (barred { phase := 7 })) (·.gpr 5) = some 0x701 ∧
    got (exec (.bar 5 6) (barred { pairBar with threads := 4, phase := 7 })) (·.gpr 5) = some 0x702 ∧
    got (exec (.barw 5 6) (barred { pairBar with broken := true, phase := 7 })) (·.gpr 5) = some 0x703 ∧
    got (exec (.bar 5 6) (barred { pairBar with arrived := 1, members := [1], phase := 15 })) (·.gpr 5) = some 0xF04 ∧
    got (exec (.bar 5 6) (barred { pairBar with phase := 15 })) (fun t => (t.gpr 5, (t.barrier 0 3).arrived)) = some (0xF00, 1) ∧
    got (exec (.barw 5 6) (barred pairBar)) (fun t => (t.cur.run, t.pc, (t.barrier 0 3).arrived)) = some (.waiting, 0, 1) ∧
    (let s := ((barred { pairBar with arrived := 1, members := [2], phase := 15 }).modThread 2 fun t => { t with run := .waiting, wait := { code := .barw, id := 3, gd := 8 } });
      s.cur.grant = none ∧ got (exec (.bar 5 6) s) (fun t => (t.gpr 5, t.gprOf 2 8, (t.thread 2).run, (t.thread 2).pc, (t.barrier 0 3).phase)) = some (0, 0, .ready, 4, 0)) ∧
    got (exec (.barq 5 6) (barred { pairBar with arrived := 1, phase := 2 })) (·.gpr 5) = some 0x160201002 ∧
    got (exec (.barq 5 6) (withRegs (barred pairBar) [(6, 0x13)])) (·.gpr 5) = some 0x160200000 := by
  decide +kernel

theorem witness_HoldsAreGrantedAndEnd :
    (let s := tenanted; s.cur.mode = false ∧ s.myPlace ≠ 0 ∧ (s.place s.myPart s.myPlace).tcfg.getLsbD 8 = true ∧ s.cur.hold = none ∧ s.guardIn 0 = none ∧
      got (exec (.hold 5) s) (fun t => (t.gpr 5, t.cur.hold)) = some (0, some 0)) ∧
    got (exec (.hold 5) State.reset) (·.gpr 5) = some 1 ∧ got (exec (.hold 5) (tenanted.modMe fun t => { t with hold := some 0 })) (·.gpr 5) = some 2 ∧
    (let s := { rotating with cursor := 2046, stepCyc := 257 }; s.guardIn s.myPart = some 255 ∧ got (exec (.hold 5) s) (·.gpr 5) = some 3) ∧
    (let s := { rotating with cursor := 2046, stepCyc := 256 }; s.guardIn s.myPart = some 256 ∧ got (exec (.hold 5) s) (·.gpr 5) = some 0) ∧
    got (exec .unhold (tenanted.modMe fun t => { t with hold := some 0 })) (fun t => (t.cur.hold, t.pc)) = some (none, 4) ∧
    (let s := { tenanted.modMe fun t => { t with hold := some 0 } with cycle := 256 }; (s.thread s.focus.thread).hold = some 0 ∧ 0 + 256 ≤ s.cycle ∧
      got (exec .holdExpiry s) (fun t => t.cur.hold) = some none) := by
  decide +kernel

/-! ### A plane of one element -/

/-- A tag of colour 7 and depth 1, whose innermost field is 2. -/
def tag7 : Tag := 0x0071020000000000

/-- A token of 32-bit lanes at position `pos` of slot 0 of element 0. -/
def held (pos : Nat) (lanes : List Nat) (kind : Nat := 0) (tag : Tag := tag7) : StoreTok :=
  { slot := 0, pos := pos, stamp := pos, token := { tag := tag, kind := kind, valid := lanes.length, width := 5,
                                                    payload := BitVec.ofNat 1024 (lanes.foldr (fun x y => x + 2 ^ 32 * y) 0) } }

/-- The supervisor's plane of element 0 with these slots, 1 × 1 at the origin of die 0 and the home plane of core 0, tokens in the matching store,
and colour 7 allocated with lane width 32. The focus names slot 0 and tag `tag7`. -/
def planted (slots : Table Word) (toks : List StoreTok) : State :=
  let s := (State.reset.modPart 0 fun p => { p with colours := [(7, .context 0 5 false)] }).setCorePlace 0 0 { home := some 0 };
  { s with elems := [(0, { active := { slots := slots }, activeOf := some 0, store := toks })], fields := [(0, { word := 0 })], focus := { tag := tag7 } }

/-- Slot 1 of a plane: `copy a -> q2`. -/
def copySlot : Table Word := [(1, 0x010038BF)]

/-- INJ's operands: a route to slot 1 position A, `tag7`, a word. -/
def injecting (route : Word) (n : Nat := 0) : State :=
  let s := withRegs (planted copySlot []) [(5, route), (6, tag7), (7, 0x123456789)];
  s.modCorePlace 0 0 fun x => { x with injq := List.replicate n { route := 0x0001000000000000, token := (held 0 [1]).token, thread := 0 } }

/-- A rectangle beyond the plane, a context of another tenant, a full queue, a queue with room: a narrow, a wide and an EOS token. -/
theorem witness_InjectionQueueAndMailbox :
    (let s := regs [(5, 1)]; (s.corePlace 0 s.myPlace).home = none ∧ injFault s 1 0 = some (0x0B, 0, 1)) ∧
    injFault (injecting 0) 0x0201000000000000 tag7 = some (0x0B, 0, 0x0201000000000000) ∧
    injFault (injecting 0) 0x0001000000000000 0x0081000000000000 = some (8, 0x0081000000000000, 0) ∧
    (let s := injecting 0x0001000000000000 4; injFault s (s.gpr 5) (s.gpr 6) = none ∧ 4 ≤ (s.corePlace 0 0).injq.length ∧
      got (exec (.inj 5 6 7) s) (fun t => (t.cur.run, t.pc)) = some (.waiting, 0)) ∧
    (let s := injecting 0x0001000000000000 3; injFault s (s.gpr 5) (s.gpr 6) = none ∧ (s.corePlace 0 0).injq.length < 4 ∧
      got (exec (.inj 5 6 7) s) (fun t => (t.corePlace 0 0).injq.getLast?.map fun x => (x.token.valid, x.token.payload)) = some (some (1, 0x23456789))) ∧
    got (exec (.inj 5 6 7) (injecting 0x0001200000000000)) (fun t => (t.corePlace 0 0).injq.map fun x => (x.token.valid, x.token.payload)) = some [(2, 0x123456789)] ∧
    got (exec (.inj 5 6 7) (injecting 0x0001100000000000)) (fun t => (t.corePlace 0 0).injq.map fun x => (x.token.kind, x.token.valid)) = some [(2, 0)] := by
  decide +kernel

theorem witness_InjectionQueueAndMailbox_mail :
    (let s := injecting 0 1; s.injReady 0 0 = true ∧ (s.corePlace 0 0).home = some 0 ∧
      got (exec .injectionRelease s) (fun t => (t.flights.map fun f => (f.2.bound, f.2.at_), (t.corePlace 0 0).injq.length)) = some ([(.elem 0 1 0, 6)], 0)) ∧
    (let o : OutTok := { dst := 48, token := { (held 0 [9]).token with kind := 6 }, readyAt := 0 };
      let s := { (planted copySlot []).modElem 0 fun x => { x with mailq := [o] } with cycle := 6 };
      s.mailHead 0 = some (o, 0, 0) ∧ s.recvWaiter 0 0 = none ∧ got (exec .mailboxAccept s) (fun t => (t.corePlace 0 0).mailbox.map (·.payload)) = some [9] ∧
      let u := s.modThread 0 fun x => { x with run := .waiting, wait := { code := .recv, gd := 5 } };
      u.recvWaiter 0 0 = some 0 ∧ got (exec .mailboxAccept u) (fun t => (t.gpr 5, t.cur.run, t.pc)) = some (9, .ready, 4)) ∧
    (let s := State.reset.setCorePlace 0 0 { mailbox := [(held 0 [9]).token] }; (s.corePlace s.myCore s.myPlace).mailbox = [(held 0 [9]).token] ∧
      got (exec (.recv 5) s) (fun t => (t.gpr 5, (t.corePlace 0 0).mailbox)) = some (9, [])) ∧
    (State.reset.corePlace 0 0).mailbox = [] ∧ got (exec (.recv 5) (thr fun t => { t with waittmo := 6 })) (fun t => (t.cur.run, t.cur.wait.deadline)) = some (.waiting, some 6) := by
  decide +kernel

theorem witness_ColoursAreAllocatedAndReleased :
    got (exec (.ctxa 5 6) (regs [(6, 0)])) (·.gpr 5) = some 0x8000000000000001 ∧ got (exec (.ctxa 5 6) (regs [(6, 33)])) (·.gpr 5) = some 0x8000000000000001 ∧
    (let s := (withRegs tenanted [(6, 32)]).modPlace 0 1 fun x => { x with tquota := 1 }; let u := s.setColour 0 0 (.context 1 0 false);
      s.colourQuotaFull 0 1 = false ∧ got (exec (.ctxa 5 6) s) (fun t => (t.gpr 5, t.colour 0 0)) = some (0x5000, .context 1 5 false) ∧
      u.colourQuotaFull 0 1 = true ∧ got (exec (.ctxa 5 6) u) (·.gpr 5) = some 0x8000000000000002) ∧
    got (exec (.ctxa 5 6) (regs [(6, 17)])) (fun t => (t.gpr 5, t.colour 0 0)) = some (0x5000, .context 0 5 false) ∧
    got (exec (.ctxa 5 6) (regs [(6, 1)])) (·.gpr 5) = some 0 ∧
    (let s := withRegs (planted copySlot []) [(6, 7)]; s.colour 0 7 = .context 0 5 false ∧ s.liveCount 0 7 = 0 ∧ got (exec (.ctxf 6) s) (fun t => t.colour 0 7) = some .free) ∧
    (let s := withRegs (planted copySlot [held 0 [1]]) [(6, 7)]; s.liveCount 0 7 = 1 ∧ got (exec (.ctxf 6) s) (fun t => t.colour 0 7) = some (.context 0 5 true)) ∧
    got (exec (.ctxf 6) (regs [(6, 7)])) (fun t => (t.cur.scause, t.cur.seval)) = some (8, 0x8) := by
  decide +kernel

/-- A table with the same value at every key of a range. -/
theorem find_range (x : ColourSt) (c : Nat) : ∀ n k, k ≤ c → c < k + n → Table.find? ((List.range' k n).map fun c => (c, x)) c = some x := by
  intro n
  induction n with
  | zero => intro k h1 h2; omega
  | succ n ih =>
    intro k h1 h2
    rw [List.range'_succ, List.map_cons, Table.find?]
    split
    · rfl
    · exact ih (k + 1) (by omega) (by omega)

/-- A partition without a free colour. -/
theorem witness_ColoursAreAllocatedAndReleased_full :
    ∀ c < 4096, (State.reset.modPart 0 fun p => { p with colours := (List.range' 0 4096).map fun c => (c, ColourSt.context 0 0 false) }).colour 0 c ≠ .free := by
  intro c h
  have : Table.getD ((List.range' 0 4096).map fun c => (c, ColourSt.context 0 0 false)) c .free = .context 0 0 false := by
    rw [Table.getD, find_range _ c 4096 0 (by omega) (by omega)]; rfl
  exact fun e => by rw [show (State.reset.modPart 0 fun p => { p with colours := (List.range' 0 4096).map fun c => (c, ColourSt.context 0 0 false) }).colour 0 c = _ from this] at e; exact absurd e (by decide)

/-- SOW's operands: in g6 the image, at virtual 0x4000_0000 whose translation the core holds or at seed offset 0, and plane word `w` in g7; the first
slot word of the image. -/
def sowing (first : Nat := 0) (v : Word := 0x40000000) (w : Word := 0) : State :=
  { (regs [(6, v), (7, w)]).modCore 0 fun c => { c with tlb := [{ part := 0, asid := 0, vpn := 1, level := 1, ppn := 4, perms := 7 }] }
    with mem := Memory.write (Memory.write [] 0x100000000 4 first) (seedBase 0) 4 first }

/-- A misaligned image, one in local memory, a seed image beyond the seed area, an unmapped one; a plane word with a reserved bit; a plane whose
SWAP waits; a poisoned line. -/
theorem witness_PlanesAreSownWholeOrRefused :
    sowFault (sowing 0) 0x40000100 0 = some (3, 0x40000100) ∧ sowFault (sowing 0) 0x200 0 = some (4, 0x200) ∧ sowFault (sowing 0) 0x8000000000040000 0 = some (6, 0x8000000000040000) ∧
    sowFault (sowing 0) 0x80000000 0 = some (4, 0x80000000) ∧ sowFault (sowing 0) 0x80000000 0x1000 = some (4, 0x80000000) ∧ sowFault (sowing 0) 0x40000000 0 = none ∧ sowFault (sowing 0) 0x800000000003FE00 0 = none ∧
    ((sowing 0).planeLegal 0 0 = true ∧ (sowing 0).planeLegal 0 0x1000 = false ∧ got (exec (.sow 5 6 7) (sowing 0 0x40000000 0x1000)) (·.gpr 5) = some 6) ∧
    (let s := (sowing 0).setThread 3 { run := .waiting, wait := { code := .swap, addr := 0 } }; swapWaits s 0 0 = true ∧
      got (exec (.sow 5 6 7) s) (fun t => (t.cur.run, t.pc)) = some (.waiting, 0)) ∧
    (let s := { (sowing 0).setThread 3 { run := .ready, wait := { code := .sow, addr := 0, readAt := 2 } } with cycle := 5 }; swapWaits s 0 0 = false ∧ sowYields s 0 0 = true ∧
      got (exec (.sow 5 6 7) s) (fun t => (t.cur.run, t.cur.wait.code, t.cur.wait.readAt, t.pc)) = some (.ready, .sow, 5, 0)) ∧
    (let s := { sowing 0 with poisoned := [0x100000000 / 128] }; swapWaits s 0 0 = false ∧ sowYields s 0 0 = false ∧ (sowRecords s 0x40000000 0).2 = true ∧
      got (exec (.sow 5 6 7) s) (·.gpr 5) = some 0x11) := by
  decide +kernel

/-- A legal image, and a bad opcode. -/
theorem witness_PlanesAreSownWholeOrRefused_image :
    got (exec (.sow 5 6 7) (sowing 0x010038BF 0x8000000000000000)) (fun t => (t.gpr 5, (t.elem 0).shadow.slotWord 0)) = some (0, 0x010038BF) ∧
    got (exec (.sow 5 6 7) (sowing 0xA0000000 0x8000000000000000)) (·.gpr 5) = some 0x10B := by
  decide +kernel

/-- A thread that swaps plane word 0, whose elements hold a sown plane. -/
def swapping (f : ElemSt → ElemSt := id) : State := (withRegs (planted copySlot []) [(6, 0)]).modElem 0 fun x => f { x with shadowOf := some 0 }

theorem witness_SwapExchangesThePlanes :
    got (exec (.swap 5 6) (regs [(6, 0x1000)])) (·.gpr 5) = some 3 ∧
    (let s := (swapping).modField 0 fun f => { f with halted := true }; s.fieldGated 0 = true ∧ s.fieldAt 0 = some 0 ∧ got (exec (.swap 5 6) s) (·.gpr 5) = some 4) ∧
    (let s := swapping fun x => { x with activeOf := some 0x10000 }; inPlane 0 1 = false ∧ got (exec (.swap 5 6) s) (·.gpr 5) = some 5) ∧
    got (exec (.swap 5 6) (swapping fun x => { x with shadowOf := none })) (·.gpr 5) = some 1 ∧
    got (exec (.swap 5 6) swapping) (fun t => (t.cur.run, t.cur.wait.code, t.pc)) = some (.waiting, .swap, 0) ∧
    (let w : WaitSt := { code := .swap, gd := 5, deadline := some 0 };
      let s := (swapping fun x => { x with shadow := { slots := [(0, 0x010038BF)], mods := [(3, 97)] } }).modMe fun t => { t with run := .waiting, wait := w };
      let u := s.modMe fun t => { t with wait := { w with id := 1 } };
      inSwap (u.thread 0) 1 = true ∧ u.planeLegal 0 0 = true ∧ inSwap (s.thread 0) 0 = true ∧
      got (exec .swapActivate u) (fun t => ((t.elem 0).active.slotWord 0, (t.elem 0).shadow.slotWord 1, Table.getD (t.elem 0).modq 3 0, t.cur.run)) =
        some (0x010038BF, 0x010038BF, 97, .ready) ∧
      got (exec .swapTimeout s) (fun t => (t.gpr 5, t.cur.run)) = some (2, .ready)) := by
  decide +kernel

theorem witness_FallowIsReportedOnlyWhenItHolds :
    activeField (planted copySlot []) 0 = some 0 ∧ activeField (planted copySlot []) 1 = none ∧
    got (exec (.fallow .bed 5 6) (withRegs (planted copySlot []) [(6, 0x100000000)])) (·.gpr 5) = some 1 ∧
    got (exec (.fallow .field 5 6) (regs [(6, 0)])) (·.gpr 5) = some 0x8000000000000000 ∧
    got (exec (.fallow .field 5 6) ((planted copySlot []).modField 0 fun f => { f with reported := true, halted := true })) (·.gpr 5) = some 3 ∧
    got (exec (.fallow .part 5 6) ((planted copySlot []).modField 0 fun f => { f with halted := true })) (·.gpr 5) = some 2 ∧
    (State.elemQuiet ((planted copySlot []).elem 0) 0 = true ∧ State.elemQuiet ((planted copySlot [held 0 [1]]).elem 0) 0 = false ∧
      State.elemQuiet { (planted copySlot []).elem 0 with mxFree := 9 } 0 = false) ∧
    got (exec .fallowReport { planted copySlot [] with focus := {} }) (fun t => (t.field 0).reported) = some true ∧
    got (exec .fallowReport { planted copySlot [] with focus := { tag := 1, slot := 0 } }) (fun t => (t.field 0).bedsReported) = some [0] ∧
    got (exec .fallowReport { planted copySlot [] with focus := { layer := 1 } }) (fun t => (t.part 0).reported) = some true ∧
    refuses (exec .fallowReport { planted copySlot [held 0 [1]] with focus := {} }) = true ∧
    refuses (exec .fallowReport { planted copySlot [held 0 [1]] with focus := { layer := 1 } }) = true ∧
    (let s := { (swapping).modMe fun t => { t with run := .waiting, wait := { code := .swap } } with focus := { flag := true } }; inSwap (s.thread 0) 0 = true ∧
      got (exec .fallowReport s) (fun t => (t.cur.wait.id, t.cur.wait.deadline)) = some (1, some 4)) := by
  decide +kernel

/-- HALTR's and RESUMER's operand: an image at virtual 0x4000_0000, whose translation the core holds, with the byte `m` at `n`. -/
def halting (v : Word := 0x40000000) (halted : Bool := false) (n m : Nat := 0) : State :=
  let s := withRegs (planted copySlot []) [(6, v)]
  { (s.modCore 0 fun c => { c with tlb := [{ part := 0, asid := 0, vpn := 1, level := 1, ppn := 4, perms := 0x17 }] }).modField 0 fun f => { f with halted := halted }
    with mem := Memory.write [] (0x100000000 + n) 1 m }

theorem witness_FieldsAreHaltedAndResumed :
    (0x40000100 : Word).toNat % 4096 ≠ 0 ∧ (halting).homePlane = some 0 ∧ (regs [(6, 0x40000000)]).homePlane = none ∧
    (halting).checkRange 0 0x40000000 (32 + 160) .store = none ∧ (halting).checkRange 0 0x80000000 (32 + 160) .load = some (4, 0x80000000) ∧
    got (exec (.haltr 5 6) (halting 0x80000000)) (·.cur.scause) = some 4 ∧ got (exec (.haltr 5 6) (halting 0x40000000 true)) (·.gpr 5) = some 2 ∧
    got (exec (.resumer 5 6) (halting 0x40000000 false)) (·.gpr 5) = some 1 := by
  decide +kernel

/-- HALTR and RESUMER wait; a poisoned image. -/
theorem witness_FieldsAreHaltedAndResumed_stages :
    ((halting).cur.run = .ready ∧ ((halting).field 0).halted = false ∧ (halting).poisonIn 0 0x40000000 192 = none ∧
      got (exec (.haltr 5 6) (halting)) (fun t => (t.cur.run, t.cur.wait.code, t.cur.wait.deadline, t.pc, (t.field 0).halted)) = some (.waiting, .haltr, some 408, 0, true)) ∧
    got (exec (.resumer 5 6) (halting 0x40000000 true)) (fun t => (t.cur.run, t.cur.wait.code, t.cur.wait.deadline, t.pc)) = some (.waiting, .resumer, some 24, 0) ∧
    (let s := { halting 0x40000000 true with poisoned := [0x100000000 / 128 + 191] }; s.checkRange 0 0x40000000 192 .load = none ∧ ((s.poisonIn 0 0x40000000 192).any fun x => x.1 % 256 == 0x11 && x.2 == 0x40005F80) = true ∧
      got (exec (.resumer 5 6) s) (fun t => (t.cur.scause, t.cur.seval)) = some (0x11, 0x40005F80)) := by
  decide +kernel

/-- The thread of HALTR or RESUMER as it issues again. -/
def again (c : WaitCode) (s : State) : State := s.modMe fun t => { t with run := .waiting, wait := { code := c, gd := 5 } }

theorem witness_FieldsAreHaltedAndResumed_again :
    got (exec (.haltr 5 6) (again .haltr (halting))) (fun t => (t.gpr 5, t.cur.run, t.pc)) = some (0, .ready, 4) ∧
    got (exec (.resumer 5 6) (again .resumer (halting 0x40000000 true 8 3))) (fun t => (t.gpr 5, t.cur.run, t.pc)) = some (2, .ready, 4) ∧
    got (exec (.resumer 5 6) (again .resumer (halting 0x40000000 true 104 1))) (fun t => (t.gpr 5, (t.field 0).halted)) = some (3, true) ∧
    got (exec (.resumer 5 6) (again .resumer (halting 0x40000000 true))) (fun t => (t.gpr 5, (t.field 0).halted, t.pc)) = some (0, false, 4) ∧
    got (exec (.resumer 5 6) (again .resumer { halting 0x40000000 true with poisoned := [0x100000000 / 128] })) (fun t => t.cur.scause) = some 0x11 := by
  decide +kernel

/-- An image of zeros is a halted field with nothing in it; one of another tenant; one with a reserved byte. -/
theorem witness_FieldsAreHaltedAndResumed_image :
    (let s := halting 0x40000000 true; let img := readImage s 0x40000000 0; recBytes img.1 0 8 = 0 ∧ recBytes img.1 8 1 = 0 ∧ imageOk s 0 0 img = true) ∧
    (let s := halting 0x40000000 true 8 3; recBytes (readImage s 0x40000000 0).1 8 1 = 3) ∧
    (let s := halting 0x40000000 true 104 1; imageOk s 0 0 (readImage s 0x40000000 0) = false) := by
  decide +kernel

/-- ECFG's operands: element word in g6, value in g7, TSEL = 2. -/
def configuring (v x : Word) : State := (withRegs State.reset [(6, v), (7, x)]).modMe fun t => { t with tsel := 2 }

theorem witness_ElementRegistersAreConfigured :
    got (exec (.ecfgr 5 6) (configuring 0x34 0)) (·.gpr 5) = some 0xFFFFFFFFFFFFFFFF ∧ got (exec (.ecfgr 5 6) (configuring 0x100000 0)) (·.gpr 5) = some 0xFFFFFFFFFFFFFFFF ∧
    got (exec (.ecfgw 5 6 7) (configuring 0x2 0)) (·.gpr 5) = some 1 ∧ got (exec (.ecfgw 5 6 7) (configuring 0x41 0)) (·.gpr 5) = some 1 ∧
    got (exec (.ecfgw 5 6 7) (configuring 0x20 0)) (·.gpr 5) = some 4 ∧ got (exec (.ecfgw 5 6 7) (configuring 0x40 0)) (·.gpr 5) = some 4 ∧
    got (exec (.ecfgw 5 6 7) (configuring 0x1F 1)) (·.gpr 5) = some 3 ∧ got (exec (.ecfgw 5 6 7) (configuring 0x10 0x4000000000000000)) (·.gpr 5) = some 3 ∧
    got (exec (.ecfgw 5 6 7) (configuring 0x1F 0x3FFFFFFFFFFFFFFF)) (fun t => (t.gpr 5, Table.getD (t.elem 0).modq 15 0)) = some (0, 0x3FFFFFFFFFFFFFFF) ∧
    got (exec (.ecfgw 5 6 7) (configuring 0x31 0x80000)) (fun t => (t.gpr 5, (Table.getD t.windows 2 {}).scrlim)) = some (0, 0x80000) ∧
    got (exec (.ecfgw 5 6 7) (configuring 0x31 0x80)) (·.gpr 5) = some 6 ∧
    got (exec (.ecfgw 5 6 7) (withRegs tenanted [(6, 0x30)])) (·.gpr 5) = some 5 ∧ got (exec (.ecfgw 5 6 7) (regs [(6, 0x31), (7, 0x1000)])) (·.gpr 5) = some 4 ∧
    got (exec (.ecfgr 5 6) (regs [(6, 0x31)])) (·.gpr 5) = some 0x80000 ∧
    got (exec (.ecfgr 5 6) ((configuring 0x2F 0).modElem 0 fun x => { x with modq := [(15, 97)] })) (·.gpr 5) = some 190172619316593315 ∧
    got (exec (.ecfgw 5 6 7) (configuring 0 0x1B)) (fun t => (t.elem 0).active.fpc) = some 0xB ∧
    (let s := (withRegs State.reset [(6, 0x10)]).modPart 0 fun p => { p with dies := 0xE }; s.elemPart 0 ≠ s.partOf 8 ∧
      got (exec (.ecfgw 5 6 7) (withRegs { s with focus := { thread := 32 } } [(6, 0x10)])) (fun t => t.gprOf 32 5) = some 2) := by
  decide +kernel

/-! ### Slots -/

/-- Fields of a slot with this format, `a` and `b` as its sources, `q2` and none as its destinations. -/
def fmtFields (fmt : BitVec 8) (ext : BitVec 16 := 0) (extra : BitVec 8 := 0) : SlotFields :=
  { action := 0, srcA := 0, srcB := 1, dst0 := 34, dst1 := 63, qual := fmt, extra := extra, ext := ext }

/-- What a slot with these operands sends to q2: kind, VALID and payload; and the flags it leaves in FPF when it has completed. -/
def sent (mk : SlotFields → Instr) (f : SlotFields) (toks : List StoreTok) (change : ElemSt → ElemSt := id) : Option (List (Nat × Nat × Nat) × Nat) :=
  got (exec (mk f) ((planted [] toks).modElem 0 change)) fun t => ((t.elem 0).outq.map fun o => (o.token.kind, o.token.valid, o.token.payload.toNat), (t.elem 0).fpfAt 64)

/-- One data token of VALID `n` with this payload, and these flags. -/
abbrev one (n v : Nat) (fl : Nat := 0) : Option (List (Nat × Nat × Nat) × Nat) := some ([(0, n, v)], fl)

/-- A slot with these fields and operands sends this. -/
def gives (mk : SlotFields → Instr) (f : SlotFields) (toks : List StoreTok) (v : Option (List (Nat × Nat × Nat) × Nat)) (change : ElemSt → ElemSt := id) : Bool :=
  sent mk f toks change == v

/-- Tokens of one lane at positions A, B and C. -/
def abc (a b : Nat) (c : Nat := 0) : List StoreTok := [held 0 [a], held 1 [b], held 2 [c]]

/-- R134: i32 lanes unless the format is named. -/
theorem test_int_lanes :
    gives .slotAdd (fmtFields 5) [held 0 [0xFFFFFFFF, 5], held 1 [2, 7]] (one 2 (1 + 2 ^ 32 * 12)) ∧ gives .slotSub (fmtFields 5) (abc 1 2) (one 1 0xFFFFFFFF) ∧
    gives .slotMul (fmtFields 5) (abc 0xFFFFFFFF 3) (one 1 0xFFFFFFFD) ∧ gives .slotMulh (fmtFields 5) (abc 0xFFFFFFFF 2) (one 1 0xFFFFFFFF) ∧
    gives .slotMulh (fmtFields 6) (abc 0xFFFFFFFF 2) (one 1 1) ∧ gives .mad (fmtFields 5) (abc 3 4 5) (one 1 17) ∧ gives .slotAnd (fmtFields 5) (abc 12 10) (one 1 8) ∧
    gives .slotOr (fmtFields 5) (abc 12 10) (one 1 14) ∧ gives .slotXor (fmtFields 5) (abc 12 10) (one 1 6) ∧ gives .slotAndn (fmtFields 5) (abc 12 10) (one 1 4) ∧
    gives .slotShl (fmtFields 5) (abc 1 33) (one 1 2) ∧ gives .slotShr (fmtFields 5) (abc 0x80000000 31) (one 1 1) ∧
    gives .slotSar (fmtFields 6) (abc 0x80000000 31) (one 1 0xFFFFFFFF) ∧ gives .slotMin (fmtFields 5) (abc 0xFFFFFFFF 0) (one 1 0xFFFFFFFF) ∧
    gives .slotMax (fmtFields 6) (abc 0xFFFFFFFF 0) (one 1 0xFFFFFFFF) ∧ gives .abs (fmtFields 5) (abc 0xFFFFFFFF 0) (one 1 1) ∧
    gives .neg (fmtFields 5) (abc 1 0) (one 1 0xFFFFFFFF) := by
  decide +kernel

/-- R135. -/
theorem test_int_lanes_more :
    gives .cmp (fmtFields 5 2) (abc 0xFFFFFFFF 0) (some ([(1, 1, 1)], 0)) ∧ gives .sel (fmtFields 5) (abc 5 6 1) (one 1 5) ∧ gives .sel (fmtFields 5) (abc 5 6 0) (one 1 6) ∧
    gives .sel (fmtFields 0x17) [held 0 [5, 6, 9], held 1 [7, 8, 9], held 2 [0, 1, 9]] (one 2 (5 + 2 ^ 32 * 6)) ∧
    gives .slotClz (fmtFields 5) (abc 1 0) (one 1 31) ∧ gives .slotPopc (fmtFields 5) (abc 0xF0F 0) (one 1 8) ∧ gives .adds (fmtFields 5) (abc 0x7FFFFFFF 1) (one 1 0x7FFFFFFF) ∧
    gives .subs (fmtFields 6) (abc 0 1) (one 1 0) ∧ gives .avg (fmtFields 5) (abc 1 2) (one 1 2) ∧ gives .dot4 (fmtFields 5) (abc 0xFF 2) (one 1 0xFFFFFFFE) ∧
    gives .dot4 (fmtFields 0x25) (abc 0xFF 2) (one 1 510) ∧ gives .bext (fmtFields 5 0x84) (abc 0xABC 0) (one 1 0xFFFFFFFB) ∧ gives .bext (fmtFields 6 0x84) (abc 0xABC 0) (one 1 0xB) ∧
    gives .bins (fmtFields 5 0x84) (abc 0 0x1F) (one 1 0xF0) ∧ gives .rotl (fmtFields 5) (abc 0x80000001 1) (one 1 3) ∧ gives .satn (fmtFields 5 8) (abc 200 0) (one 1 127) := by
  decide +kernel

/-- R136, R137: sums and products, NaN, the exact cases of the special functions, FRCP of 0 sets DZ; R147: the two rows of its table. -/
theorem test_float_lanes :
    gives .fadd (fmtFields 7) (abc 0x3F800000 0x40000000) (one 1 0x40400000) ∧ gives .fsub (fmtFields 7) (abc 0x3F800000 0x40000000) (one 1 0xBF800000) ∧
    gives .fmul (fmtFields 7) (abc 0x40000000 0x40400000) (one 1 0x40C00000) ∧ gives .ffma (fmtFields 7) (abc 0x40000000 0x40400000 0x3F800000) (one 1 0x40E00000) ∧
    gives .fmin (fmtFields 7) (abc 0x80000000 0) (one 1 0x80000000) ∧ gives .fmax (fmtFields 7) (abc 0x7F800001 0) (one 1 0x7FC00000 1) ∧
    gives .fabs (fmtFields 7) (abc 0xBF800000 0) (one 1 0x3F800000) ∧ gives .fneg (fmtFields 7) (abc 0x3F800000 0) (one 1 0xBF800000) ∧
    gives .fcmp (fmtFields 7 2) (abc 0xBF800000 0) (some ([(1, 1, 1)], 0)) ∧ gives .fclass (fmtFields 7) (abc 0 0) (one 1 16) ∧
    gives .frcp (fmtFields 7) (abc 0x40000000 0) (one 1 0x3F000000) ∧ gives .frcp (fmtFields 7) (abc 0 0) (one 1 0x7F800000 2) ∧
    gives .frsq (fmtFields 7) (abc 0x40800000 0) (one 1 0x3F000000) ∧ gives .fsqrt (fmtFields 7) (abc 0x40800000 0) (one 1 0x40000000) ∧
    gives .fexp2 (fmtFields 7) (abc 0x3F800000 0) (one 1 0x40000000) ∧ gives .flog2 (fmtFields 7) (abc 0x40000000 0) (one 1 0x3F800000) ∧
    gives .ftanh (fmtFields 7) (abc 0x80000000 0) (one 1 0x80000000) ∧
    gives .frsum (fmtFields 7) [held 0 [0x4B800000, 0x3F800000, 0x3F800000, 0]] (one 1 0x4B800000 16) ∧
    gives .frsum (fmtFields 7) [held 0 [0x3F800000, 0x3F800000, 0x4B800000, 0]] (one 1 0x4B800001) := by
  decide +kernel

/-- R138 to R142. -/
theorem test_conversions :
    gives .cvt (fmtFields 7 5) (abc 3 0) (one 1 0x40400000) ∧ gives .cvt (fmtFields 5 7) (abc 0xC0200000 0) (one 1 0xFFFFFFFE 16) ∧
    gives .packq { fmtFields 0x0A with srcB := 3 } (abc 0x3F800000 0) (one 1 0x38) ∧ gives .unpackq (fmtFields 0x0A) [held 0 [0x38]] (one 4 0x3F800000) ∧
    gives .had (fmtFields 5) [held 0 [1, 2]] (one 2 (3 + 2 ^ 32 * 0xFFFFFFFF)) ∧ gives .plane { fmtFields 5 0x20 with srcB := 3 } [held 0 [2, 1, 3]] (one 1 5) ∧
    (gives .setfpc (fmtFields 0 9) (abc 7 0) (one 1 7) ∧
      got (exec (.setfpc (fmtFields 0 9)) (planted [] (abc 7 0))) (fun t => (t.elem 0).active.fpc) = some 9) ∧
    gives .getfpf (fmtFields 0) (abc 7 0) (one 1 5 5) (fun x => { x with fpf := 5 }) ∧ gives .clrfpf (fmtFields 0 4) (abc 7 0) (one 1 7 1) (fun x => { x with fpf := 5 }) := by
  decide +kernel

/-- R143 to R146. -/
theorem test_lane_movement :
    gives .perm (fmtFields 5) [held 0 [5, 6], held 1 [1, 0]] (one 2 (6 + 2 ^ 32 * 5)) ∧ gives .rot (fmtFields 5) [held 0 [1, 2, 3], held 1 [1]] (one 3 (3 + 2 ^ 32 * (1 + 2 ^ 32 * 2))) ∧
    gives .slotBcast (fmtFields 3) [] (none) ∧
    got (exec (.bfly { fmtFields 5 with dst1 := 35 }) (planted [] [held 0 [1, 2], held 1 [3, 4]])) (fun t => (t.elem 0).outq.map fun o => (o.dst, o.token.payload.toNat)) =
      some [(34, 1 + 2 ^ 32 * 3), (35, 2 + 2 ^ 32 * 4)] ∧
    (sent .slotBcast (fmtFields 5) [held 0 [5, 6], held 1 [1]]).map (·.1.map fun x => (x.2.1, x.2.2 % 2 ^ 64)) = some [(32, 6 + 2 ^ 32 * 6)] ∧
    (sent .laneix (fmtFields 5) [held 0 [5]]).map (·.1.map fun x => (x.2.1, x.2.2 / 2 ^ 992)) = some [(32, 31)] ∧
    gives .rsum (fmtFields 5) [held 0 [1, 2, 0xFFFFFFFF]] (one 1 2) ∧ gives .rmax (fmtFields 5) [held 0 [1, 0xFFFFFFFF]] (one 1 1) ∧
    gives .rmin (fmtFields 5) [held 0 [1, 0xFFFFFFFF]] (one 1 0xFFFFFFFF) ∧
    got (exec (.split (fmtFields 0 1)) ((planted [] [held 0 [7]]).setColour 0 0 (.context 0 4 false))) (fun t => (t.elem 0).outq.map fun o => (o.token.width, o.token.valid, o.token.tag))
      = some [(4, 2, 0x0001020000000000)] ∧
    got (exec (.join (fmtFields 0 1)) (planted [] [held 0 [7]])) (fun t => ((t.elem 0).outq, (t.field 0).fault.map (·.1))) = some ([], some 8) := by
  decide +kernel

/-- R161: modulus 17 in MODQ0. -/
def mod17 (mk : SlotFields → Instr) (a b c : Nat) : Option (List (Nat × Nat)) :=
  let pair := fun (v : Nat) => [v % 2 ^ 32, v / 2 ^ 32];
  got (exec (mk { fmtFields 0x17 with dst1 := 35 }) ((planted [] [held 0 (pair a), held 1 (pair b), held 2 (pair c)]).modElem 0 fun x => { x with modq := [(0, 17)] }))
    fun t => (t.elem 0).outq.map fun o => (o.token.valid, o.token.payload.toNat)

/-- R161: its table; R160: the other opcodes. -/
theorem test_modular :
    mod17 .mct 3 5 9 = some [(2, 14), (2, 9)] ∧ mod17 .mgs 3 5 9 = some [(2, 8), (2, 16)] ∧ mod17 .mmac 100 200 7 = some [(2, 15), (2, 15)] ∧
    mod17 .mct 0xFFFFFFFFFFFFFFFF 1 1 = some [(2, 1), (2, 16)] ∧ mod17 .madd 16 2 0 = some [(2, 1), (2, 1)] ∧ mod17 .msub 1 2 0 = some [(2, 16), (2, 16)] ∧
    mod17 .mmul 4 5 0 = some [(2, 3), (2, 3)] ∧ mod17 .mred 20 0 0 = some [(2, 3), (2, 3)] ∧ mod17 .mneg 1 0 0 = some [(2, 16), (2, 16)] ∧
    got (exec (.mred (fmtFields 0x17)) (planted [] [held 0 [20, 0]])) (fun t => (t.field 0).fault.map fun f => (f.1, f.2.f5)) = some (some (0x0C, 20)) := by
  decide +kernel

/-- The set of these operands in slot 0 of element 0. -/
def setOf (op : Nat) (f : SlotFields) (toks : List StoreTok) : Firing := { e := 0, slot := 0, op := op, f := f, tag := tag7, toks := toks }

/-- What `Ready` asks, as a check. -/
def readyCheck (s : State) (op : Nat) (f : SlotFields) (g : Firing) : Bool :=
  s.matchedSet op f == some g && (State.arcAt g).isNone && (!gatedOf f || State.gateOpens g)

/-- What `ReadyData` asks, as a check. -/
def dataCheck (s : State) (op : Nat) (f : SlotFields) (g : Firing) : Bool :=
  readyCheck s op f g && g.operands.all (fun t => t.token.kind != kEos) &&
    match fmtWidth (fmtOf f) with
    | some w => g.checked.all fun t => t.token.width == w
    | none => true

theorem ready_of_check {s : State} {op : Nat} {f : SlotFields} {g : Firing} (h : readyCheck s op f g = true) : Ready s op f g := by
  simp only [readyCheck, Bool.and_eq_true, beq_iff_eq, Option.isNone_iff_eq_none, Bool.or_eq_true, Bool.not_eq_true'] at h
  exact ⟨h.1.1, h.1.2, fun k => h.2.resolve_left (by simp [k])⟩

theorem readyData_of_check {s : State} {op : Nat} {f : SlotFields} {g : Firing} (h : dataCheck s op f g = true) : ReadyData s op f g := by
  simp only [dataCheck, Bool.and_eq_true, List.all_eq_true, bne_iff_ne, ne_eq] at h
  refine ⟨ready_of_check h.1.1, h.1.2, fun w hw => ?_⟩
  have := h.2
  rw [hw] at this
  simpa using this

/-- A set of operands on which slot 0 of element 0 is ready to compute. -/
def readyWith (op : Nat) (f : SlotFields) (toks : List StoreTok) : Bool := dataCheck (planted [] toks) op f (setOf op f toks)

theorem witness_FiringsEndOrHoldTheirOperands :
    (planted [] []).fieldAt 0 = some 0 ∧ ((planted [] []).field 0).fault = none ∧
    got ((planted [] []).faultOp (setOf 0x10 (fmtFields 5) (abc 1 2)) 8 0 0) (fun t => ((t.field 0).fault.map (·.1), (t.field 0).posted, t.notices.length)) = some (some 8, false, 0) ∧
    (let u := (planted [] []).modField 0 fun f => { f with fault := some (8, {}) };
      u.faultTarget (u.field 0) = some 0 ∧ ((u.postFault 0).thread 0).pend.map (·.code) = [8] ∧ ((u.postFault 0).field 0).posted = true ∧
      (let s := u.modField 0 fun f => { f with homeThread := 1, tenant := 9 }; s.faultTarget (s.field 0) = none ∧ ((s.postFault 0).threads.length, (s.postFault 0).notices.length) = (0, 1)) ∧
      (let s := u.modThread 0 fun t => { t with pend := [watchdog, watchdog, watchdog, watchdog] }; 4 ≤ (s.thread 0).pend.length ∧ ((s.postFault 0).thread 0).lost = true) ∧
      (let s := u.modThread 0 fun t => { t with run := .resting }; s.recordKept 0 = true ∧ ((s.postFault 0).thread 0).late.map (·.code) = [8]) ∧
      (let s := { u with cycle := 400 }; let v := s.pump.flushBoards; (v.field 0).faultAt + 384 ≤ v.cycle ∧ v.faultSettled (v.field 0) = true ∧ (s.endCycle.field 0).posted = true)) := by
  decide +kernel

/-- No set, an arc, a closed gate, all EOS, an EOS with data, a wrong width: on ADD of i16, with G in its qualifier where there is a gate. -/
theorem witness_ValueSlotsCheckTheirOperands :
    (planted [] [held 0 [1]]).matchedSet 0x10 (fmtFields 3) = none ∧
    (planted [] [held 0 [1], held 1 [] 5]).matchedSet 0x10 (fmtFields 3) = some (setOf 0x10 (fmtFields 3) [held 0 [1], held 1 [] 5]) ∧
    (let g := setOf 0x10 (fmtFields 0x83) (abc 1 2 0); (planted [] (abc 1 2 0)).matchedSet 0x10 (fmtFields 0x83) = some g ∧ (fmtFields 0x83).qual.getLsbD 7 = true ∧
      g.at_ 2 = some (held 2 [0]) ∧ (held 2 [0]).token.lane 0 = 0 ∧
      got (exec (.slotAdd (fmtFields 0x83)) (planted [] (abc 1 2 0))) (fun t => ((t.elem 0).outq, (t.elem 0).store)) = some ([], [])) ∧
    readyCheck (planted [] [held 0 [] 2, held 1 [] 2]) 0x10 (fmtFields 5) (setOf 0x10 (fmtFields 5) [held 0 [] 2, held 1 [] 2]) = true ∧
    readyCheck (planted [] [held 0 [] 2, held 1 [1]]) 0x10 (fmtFields 5) (setOf 0x10 (fmtFields 5) [held 0 [] 2, held 1 [1]]) = true ∧ fmtWidth 5 = some 5 ∧
    got (exec (.slotAdd (fmtFields 3)) (planted [] [held 0 [] 2, held 1 [] 2])) (fun t => (t.field 0).fault.map (·.1)) = some (some 8) ∧
    readyCheck (planted [] [held 0 [] 2, held 1 [] 2]) 0x10 (fmtFields 3) (setOf 0x10 (fmtFields 3) [held 0 [] 2, held 1 [] 2]) = true ∧
    readyCheck (planted [] [held 0 [] 2, held 1 [1]]) 0x10 (fmtFields 3) (setOf 0x10 (fmtFields 3) [held 0 [] 2, held 1 [1]]) = true ∧
    readyCheck (planted [] (abc 1 2 1)) 0x10 (fmtFields 0x83) (setOf 0x10 (fmtFields 0x83) (abc 1 2 1)) = true ∧ fmtWidth 3 = some 4 ∧
    got (exec (.slotAdd (fmtFields 3)) (planted [] [held 0 [1], held 1 [2]])) (fun t => (t.field 0).fault.map (·.1)) = some (some 8) := by
  decide +kernel

/-- Every integer opcode on operands of its format, the bit fields and SATN at the ends of their ranges. -/
theorem witness_IntegerLanesCompute :
    ((List.range' 0x10 14).all fun op => op = 0x14 || readyWith op (fmtFields 5) [held 0 [1], held 1 [2]]) = true ∧
    readyWith 0x14 (fmtFields 5) (abc 1 2 3) = true ∧ ([0x1E, 0x1F, 0x22, 0x23].all fun op => readyWith op (fmtFields 6) [held 0 [1]]) = true ∧
    ((List.range 6).all fun c => readyWith 0x20 (fmtFields 5 (BitVec.ofNat 16 c)) [held 0 [1], held 1 [2]]) = true ∧ readyWith 0x21 (fmtFields 7) (abc 1 2 3) = true ∧
    ([0x24, 0x25, 0x26, 0x2A].all fun op => readyWith op (fmtFields 5) [held 0 [1], held 1 [2]]) = true ∧
    ([0x05, 0x25, 0x45].all fun q => readyWith 0x27 (fmtFields q) [held 0 [1], held 1 [2]]) = true ∧ readyWith 0x28 (fmtFields 5 (1 * 32 + 31)) [held 0 [1]] = true ∧
    readyWith 0x29 (fmtFields 5 (32 * 32)) [held 0 [1], held 1 [2]] = true ∧ readyWith 0x2B (fmtFields 5 1) [held 0 [1]] = true ∧ readyWith 0x2B (fmtFields 5 32) [held 0 [1]] = true := by
  decide +kernel

/-- The same of the floating-point opcodes. -/
theorem witness_FloatLanesCompute :
    ([0x30, 0x31, 0x32, 0x34, 0x35].all fun op => readyWith op (fmtFields 7) [held 0 [1], held 1 [2]]) = true ∧ readyWith 0x33 (fmtFields 7) (abc 1 2 3) = true ∧
    ([0x36, 0x37, 0x39, 0x3A, 0x3B, 0x3C, 0x3D, 0x3E, 0x3F].all fun op => readyWith op (fmtFields 7) [held 0 [1]]) = true ∧
    readyWith 0x38 (fmtFields 7 6) [held 0 [1], held 1 [2]] = true := by
  decide +kernel

/-- Ordinary values, the largest finite one and one beyond; NaN, infinity, zero. -/
theorem witness_FloatResultsAreRoundedOnce :
    fmtF32.decode 0x3F800000 = .fin false 0x800000 (-23) ∧ (∃ n m e, fmtF32.decode fmtF32.maxCode = .fin n m e) ∧ (∃ n m e, fmtF16.decode fmtF16.maxCode = .fin n m e) ∧
    (∃ n m e, fmtBf16.decode fmtBf16.maxCode = .fin n m e) ∧ (fmtF32.round .rne false false 1 128).bits = 0x7F800000 ∧
    (fmtF32.round .rne false false 0x1000001 0).bits = 0x4B800000 ∧ (fmtF32.round .rne false false 0x1000001 0).flags = 16 ∧
    (fmtF32.round .rup false false 0x1000001 0).bits = 0x4B800001 := by
  refine ⟨by decide +kernel, ⟨false, 0xFFFFFF, 104, by decide +kernel⟩, ⟨false, 0x7FF, 5, by decide +kernel⟩, ⟨false, 0xFF, 120, by decide +kernel⟩, by decide +kernel,
    by decide +kernel, by decide +kernel, by decide +kernel⟩

theorem witness_SpecialFunctionsKeepTheirTable :
    fmtF32.decode 0x7F800001 = .nan false true ∧ fmtF32.decode 0xFFC00000 = .nan true false ∧ fmtF32.decode 0xBF800000 = .fin true 0x800000 (-23) ∧
    fmtF32.decode 0x40000000 = .fin false 0x800000 (-22) ∧ fmtF32.decode 0x41200000 = .fin false 0xA00000 (-20) ∧ (1 : Nat) ≤ 253 := by
  decide +kernel

/-- R138 to R142: PACKQ of e4m3 in its first and last group, PLANE, HAD at both ends of their ranges. -/
theorem witness_ConversionSlotsCompute :
    readyWith 0x40 (fmtFields 7 5) [held 0 [1]] = true ∧ readyCheck (planted [] [held 0 [1], held 1 [2]]) 0x41 (fmtFields 0x0A 3) (setOf 0x41 (fmtFields 0x0A 3) [held 0 [1], held 1 [2]]) = true ∧
    32 * 3 + 32 ≤ 1024 / 8 ∧ readyCheck (planted [] [held 0 [1]]) 0x42 (fmtFields 0x0A 3) (setOf 0x42 (fmtFields 0x0A 3) [held 0 [1]]) = true ∧
    readyWith 0x43 (fmtFields 5 (31 * 256 + 2 * 16 + 1)) [held 0 [1], held 1 [2]] = true ∧ readyWith 0x44 (fmtFields 5 0 4) [held 0 [1]] = true ∧ 2 * 2 ^ 4 ≤ 1024 / 32 ∧
    ([0x45, 0x46, 0x47].all fun op => readyCheck (planted [] [held 0 [1]]) op (fmtFields 0 5) (setOf op (fmtFields 0 5) [held 0 [1]])) = true ∧
    (let s := planted [] [held 0 [1]]; let f := { fmtFields 0 5 with action := 2 }; let g := setOf 0x45 f [held 0 [1]];
      (s.resultTag g g.width).toOption.isSome = true) ∧
    ((planted [] [held 0 [1]]).elem 0).floatDone 0 = true ∧ (((planted [] [held 0 [1]]).modElem 0 fun x => { x with fpDone := 1 }).elem 0).floatDone 0 = false ∧
    ([Instr.getfpf (fmtFields 0 5), .clrfpf (fmtFields 0 5)].all fun i => refuses (exec i ((planted [] [held 0 [1]]).modElem 0 fun x => { x with fpDone := 1 }))) = true := by
  decide +kernel

/-- Integers at the ends of their range and beyond, and powers of two for e8m0. -/
theorem witness_ConversionsFollowTheirTable :
    convertTo 1 .rne false (.fin false 127 0) = { bits := 127, flags := 0 } ∧ convertTo 1 .rne false (.fin false 255 (-1)) = { bits := 127, flags := 1 } ∧
    convertTo 1 .rtz false (.fin false 255 (-1)) = { bits := 127, flags := 16 } ∧ convertTo 2 .rne false (.fin true 1 0) = { bits := 0, flags := 1 } ∧
    convertTo 0x0D .rne false (.fin false 1 (-128)) = { bits := 0, flags := 8 } ∧ convertTo 0x0D .rne false (.fin false 3 126) = { bits := 0xFE, flags := 4 } ∧
    convertTo 0x0D .rne false (.fin false 3 0) = { bits := 129, flags := 16 } := by
  decide +kernel

theorem witness_LaneMovementSlotsCompute :
    ([0x50, 0x52, 0x53].all fun op => readyWith op (fmtFields 5) [held 0 [1], held 1 [0]]) = true ∧ readyWith 0x51 (fmtFields 0x17 0 3) [held 0 [1, 0], held 1 [2, 0]] = true ∧ 2 * 2 ^ 3 ≤ 16 ∧
    ([0x56, 0x57, 0x58, 0x59].all fun op => readyWith op (fmtFields 5) [held 0 [1]]) = true ∧ readyWith 0x57 (fmtFields 7) [held 0 []] = true ∧
    ([0x57, 0x58, 0x5A].all fun op => readyWith op (fmtFields 7) [held 0 [0x7F800001, 1]]) = true ∧ readyWith 0x57 (fmtFields 7) [held 0 [0x7FC00000]] = true ∧
    ([0x54, 0x55].all fun op => readyCheck (planted [] [held 0 [1]]) op (fmtFields 0 1) (setOf op (fmtFields 0 1) [held 0 [1]])) = true ∧
    (let s := (planted [] []).setColour 0 0 (.context 0 4 false); s.colourTenant 0 0 = some (s.elem 0).owner ∧ s.colourWidth 0 0 = some 4) ∧
    (planted [] []).colourWidth 0 0 = none := by
  decide +kernel

theorem witness_ModularSlotsReduceExactly :
    ([0x60, 0x61, 0x62].all fun op => readyWith op (fmtFields 0x17) [held 0 [1, 0], held 1 [2, 0]]) = true ∧
    ([0x63, 0x64, 0x65].all fun op => readyWith op (fmtFields 0x37 15) [held 0 [1, 0], held 1 [2, 0], held 2 [3, 0]]) = true ∧
    ([0x66, 0x67].all fun op => readyWith op (fmtFields 0x17) [held 0 [1, 0]]) = true := by
  decide +kernel

/-- R127: what each forwarding opcode sends. -/
theorem test_forwarding :
    gives .copy (fmtFields 0) [held 0 [5]] (one 1 5) ∧ gives .copy (fmtFields 0) [held 0 [] 2] (some ([(2, 0, 0)], 0)) ∧
    gives .steer (fmtFields 0) (abc 5 1) (one 1 5) ∧ gives .steer (fmtFields 0) (abc 5 0) (some ([], 0)) ∧ gives .merge (fmtFields 0) [held 1 [6]] (one 1 6) ∧
    gives .gate (fmtFields 0) (abc 5 0 1) (one 1 5) ∧ gives .gate (fmtFields 0) (abc 5 0 0) (some ([], 0)) ∧ gives .sink (fmtFields 0) [held 0 [5]] (some ([], 0)) ∧
    (sent .const { fmtFields 0 with srcB := 4 } [held 0 [5]]).map (·.1.map fun x => (x.2.1, x.2.2 % 2 ^ 64)) = some [(32, 2 + 2 ^ 32 * 2)] ∧
    (sent .tagix (fmtFields 0 7) [held 0 [5]]).map (·.1.map fun x => (x.2.1, x.2.2 % 2 ^ 32)) = some [(32, 7)] ∧ gives .eos (fmtFields 0) [held 0 [5]] (some ([(2, 0, 0)], 0)) := by
  decide +kernel

theorem witness_ForwardingSlotsCompute :
    ([0x01, 0x05, 0x06, 0x0B, 0x0D].all fun op => readyCheck (planted [] [held 0 [5]]) op { fmtFields 0 with srcB := 4 } (setOf op { fmtFields 0 with srcB := 4 } [held 0 [5]])) = true ∧
    readyCheck (planted [] [held 0 [5], held 1 [] 2]) 0x02 (fmtFields 0) (setOf 0x02 (fmtFields 0) [held 0 [5], held 1 [] 2]) = true ∧
    readyCheck (planted [] [held 0 [5], held 2 [] 2]) 0x04 { fmtFields 0 with srcB := 3 } (setOf 0x04 { fmtFields 0 with srcB := 3 } [held 0 [5], held 2 [] 2]) = true ∧
    (let x := (planted [] [held 1 [6], { held 0 [5] with stamp := 2 }]).elem 0; oldestAt x 0 1 (some tag7) = some (held 1 [6]) ∧
      oldestAt x 0 0 (some tag7) = some { held 0 [5] with stamp := 2 }) ∧ oldestAt ((planted [] []).elem 0) 0 0 (some tag7) = none ∧
    gives .merge (fmtFields 0) [held 1 [6], { held 0 [5] with stamp := 2 }] (one 1 6) := by
  decide +kernel

/-- R128 to R133, R237: ITER issues and emits under pushed tags; COUNT reports its increment; REAP of window 2 sends its reap token to the one element
of its bed; MAIL. -/
theorem test_stateful :
    got (exec (.iter (fmtFields 0)) (planted [] (abc 5 3))) (fun t => (t.elem 0).iter.map fun x => (x.k, x.n, x.token.payload)) = some (some (0, 3, 5)) ∧
    got (exec (.count { fmtFields 5 0xFFFF with dst1 := 35 }) (planted [] (abc 5 0))) (fun t => (t.elem 0).outq.map fun o => (o.dst, o.token.payload.toNat)) =
      some [(34, 5), (35, 0xFFFFFFFF)] ∧
    got (exec (.reap (fmtFields 0 0 1)) (planted [] [held 0 [5]])) (fun t => (t.flights.map fun x => (x.2.token.kind, x.2.token.tag, x.2.token.payload.toNat), (t.elem 0).outq.length)) =
      some ([(4, 0x0071020000000000, 1)], 1) ∧
    got (exec (.mail (fmtFields 0)) (planted [] [held 0 [5]])) (fun t => (t.elem 0).outq.map fun o => (o.dst, o.token.kind)) = some [(48, 6)] := by
  decide +kernel

/-- R130, R131, R133, R237: ORD waits; COMB releases at its count; LOOP admits iteration 2 and finishes it. -/
theorem test_waiting :
    got (exec (.ord (fmtFields 0)) (planted [] (abc 5 6))) (fun t => (Table.find? (t.elem 0).pend 0).map fun p => (p.isOrd, p.at_)) = some (some (true, 2)) ∧
    gives (fun f => .comb f) (fmtFields 5 2) [] (one 1 9) (fun x => { x with combs := [{ slot := 0, tag := tag7, width := 5, taken := 2, valid := 1, payload := 9, allEos := false, stamp := 0 }] }) ∧
    got (exec (.loop (fmtFields 0)) ((planted [] [held 0 [5]]).modElem 0 fun x => { x with loops := [{ slot := 0, key := tagOuter tag7, i := 2, x := 2 }] }))
      (fun t => ((t.elem 0).loops.map fun l => (l.i, l.x), (t.elem 0).outq.map fun o => o.token.payload)) = some ([(2, 3)], [5]) ∧
    got (exec (.loop (fmtFields 0)) ((planted [] [held 1 [5]]).modElem 0 fun x => { x with loops := [{ slot := 0, key := tagOuter tag7, i := 2, x := 3 }] }))
      (fun t => ((t.elem 0).loops, (t.elem 0).outq)) = some ([], []) := by
  decide +kernel

/-- Element 0 with slot 0 the ITER or ORD of this word, in the state `f`. -/
def running (word : Word) (f : ElemSt → ElemSt) (cycle : Nat := 0) : State :=
  { (planted [(0, word)] []).modElem 0 f with cycle := cycle }

/-- An ITER on its way, at its iteration `k` of three. -/
def iterating (k : Nat) : State :=
  running 0x072018BF fun x => { x with iter := some { slot := 0, tag := tag7, k := k, n := 3, token := (held 0 [5]).token, at_ := 0 } }

/-- An ORD that waits for memory operations performed by cycle 9. -/
def ordering (cycle : Nat) : State :=
  running 0x0F0018BF (fun x => { x with pend := [(0, { tag := tag7, width := 5, isOrd := true, value := none, at_ := 9, issued := 0 })] }) cycle

theorem witness_StatefulSlotsCompute :
    (let t : Tag := 0x0076000000000000; (t.extractLsb' 48 4).toNat = 6 ∧
      readyCheck { planted [] [held 0 [5] 0 t, held 1 [3] 0 t] with focus := { tag := t } } 0x07 (fmtFields 0) { setOf 0x07 (fmtFields 0) [held 0 [5] 0 t, held 1 [3] 0 t] with tag := t } = true) ∧
    readyCheck (planted [] (abc 5 256).dropLast) 0x07 (fmtFields 0) (setOf 0x07 (fmtFields 0) (abc 5 256).dropLast) = true ∧
    got (exec (.iter (fmtFields 0)) (planted [] (abc 5 257))) (fun t => ((t.field 0).fault.map (·.1), (t.elem 0).iter)) = some (some 8, none) ∧
    readyCheck (planted [] [held 0 [5]]) 0x08 (fmtFields 5 1) (setOf 0x08 (fmtFields 5 1) [held 0 [5]]) = true ∧
    ([0x0A, 0x0E].all fun op => readyCheck (planted [] [held 0 [5]]) op (fmtFields 0) (setOf op (fmtFields 0) [held 0 [5]])) = true ∧
    readyCheck (planted [] [held 0 [5], held 1 [5]]) 0x0F (fmtFields 0) (setOf 0x0F (fmtFields 0) [held 0 [5], held 1 [5]]) = true ∧
    refuses (exec (.ord (fmtFields 0)) ((planted [] (abc 5 6)).modElem 0 fun x => { x with pend := [(0, { tag := 0, width := 5, isOrd := true, value := none, at_ := 0, issued := 0 })] })) = true ∧
    refuses (exec (.comb (fmtFields 5 3)) (planted [] [])) = true ∧ refuses (exec (.loop (fmtFields 0)) (planted [] [held 0 [5]])) = true ∧
    got (exec (.loop (fmtFields 0)) (planted [] [held 0 [] 5])) (fun t => (t.field 0).fault.map (·.1)) = some (some 8) ∧
    (let s := iterating 2; s.iterDue 0 = true ∧ (s.elem 0).active.slotAt 0 = some (7, .iter { fmtFields 0 with action := 2 }, { fmtFields 0 with action := 2 }) ∧
      got (exec .iterEmit s) (fun t => ((t.elem 0).iter.map (·.k), (t.elem 0).outq.map fun o => (o.token.kind, o.token.tag))) = some (some 3, [(0, 0x0072020200000000)])) ∧
    got (exec .iterEmit (iterating 3)) (fun t => ((t.elem 0).iter, (t.elem 0).vcFree)) = some (none, 1) ∧
    ((iterating 0).modElem 0 fun x => { x with iter := x.iter.map fun i => { i with at_ := 1 } }).iterDue 0 = false ∧ (ordering 6).ordDue 0 0 = false ∧ (ordering 7).ordDue 0 0 = true ∧
    got (exec .ordArcSend (ordering 7)) (fun t => ((t.elem 0).pend, (t.elem 0).outq.map fun o => o.token.kind)) = some ([], [5]) := by
  decide +kernel

/-! ### The matrix port -/

/-- A token of 16-bit lanes. -/
def half (pos : Nat) (v : Nat) (kind : Nat := 0) : StoreTok := { held pos [] kind with token := { (held pos [] kind).token with valid := 1, width := 4, payload := BitVec.ofNat 1024 v } }

/-- MMA of bf16 with three firings, waiting for the one of index `next`. -/
def multiplying (toks : List StoreTok) (next : Nat := 2) : State := (planted [] toks).modElem 0 fun x => { x with accs := [(0, { next := next })] }

/-- 1.5 × 2.0 in cell (0, 0). -/
theorem test_mma :
    got (exec (.mma (fmtFields 9 2)) (multiplying [half 0 0x3FC0, half 1 0x4000])) (fun t => ((t.acc 0 0).cells, (t.acc 0 0).next, (t.elem 0).mmaFree)) = some ([(0, 0x40400000)], 0, 4) := by
  decide +kernel

/-- 3.0 × 2.0 of e2m1 under the scales 2.0 and 1.0 of e5m2. -/
theorem test_mmas :
    got (exec (.mmas (fmtFields 0x0E 2)) (multiplying [{ half 0 0x5 with token := { (half 0 0x5).token with width := 2 } }, { half 1 0x4 with token := { (half 1 0x4).token with width := 2 } },
      { held 2 [] 3 0x0071020000000000 with token := { (held 2 [] 3).token with valid := 64, width := 3, payload := 0x40 + 2 ^ 256 * 0x3C } }]))
      (fun t => (t.acc 0 0).cells) = some [(0, 0x40C00000 + 0x800000)] := by
  decide +kernel

/-- R154 to R158. -/
theorem test_matrix_others :
    got (exec (.accrd (fmtFields 0x27)) (planted [] [held 0 [5], held 1 [6]])) (fun t => (t.elem 0).accrd.map fun r => (r.row, r.clear, r.at_)) = some (some (0, true, 4)) ∧
    got (exec (.accclr (fmtFields 0 0 2)) ((planted [] [held 0 [5]]).modElem 0 fun x => { x with accs := [(0, { next := 1 }), (1, { next := 2 })] })) (fun t => (t.elem 0).accs) = some [] ∧
    got (exec (.cturn (fmtFields 0 1)) (planted [] [held 0 [5, 6]])) (fun t => (Memory.read t.mem (scratchBase 0 + 128 + 2 * 128) 8, (t.elem 0).cturn.map fun c => c.2.rows)) =
      some (5 + 2 ^ 32 * 6, [4]) := by
  decide +kernel

/-- An ACCRD of accumulator 0 in f32 at row `r`. -/
def draining (r : Nat) : State :=
  let rd : AccrdSt := { slot := 0, tag := tag7, row := r, fpc := 0, scale := none, fmt := 7, acc := 0, clear := true, at_ := 0 }
  running 0x07000000722038BF fun x => { x with accs := [(0, { cells := [(0, 0x3F800000)] })], accrd := some rd }

/-- A corner-turn buffer of 32-bit lanes with its first row in, emitting token `n`. -/
def turning (n : Nat) (eos : Option Token := none) : State :=
  running 0x740038BF (fun x => { x with cturn := [(0, { slot := 0, key := 0x0070000000000000, tile := 0, rows := 1, emitting := true, next := n, width := 5, at_ := 0, eos := eos })] }) 1

theorem witness_MatrixSlotsAccumulate :
    oldestAt ((multiplying [half 0 1, half 1 1]).elem 0) 0 0 (some tag7) = some (half 0 1) ∧ slotPositions 0x70 (fmtFields 9 2) = [0, 1] ∧
    refuses (exec (.mma (fmtFields 9 2)) (multiplying [half 0 1, half 1 1] 1)) = true ∧
    got (exec (.mma (fmtFields 9 1)) (multiplying [half 0 1, half 1 1] 0)) (fun t => (t.field 0).fault.map (·.1)) = some (some 8) ∧
    got (exec (.mma (fmtFields 9 2)) (multiplying [half 0 1 2, half 1 1])) (fun t => (t.field 0).fault.map (·.1)) = some (some 8) ∧
    got (exec (.mma (fmtFields 9 2)) (multiplying [half 0 1 2, half 1 1 2])) (fun t => (t.elem 0).outq.map fun o => o.token.kind) = some [2] ∧
    got (exec (.mma (fmtFields 9 2)) (multiplying [held 0 [1], half 1 1])) (fun t => (t.field 0).fault.map (·.1)) = some (some 8) ∧
    readyCheck (planted [] [held 0 [5], held 1 [6]]) 0x72 (fmtFields 0x27) (setOf 0x72 (fmtFields 0x27) [held 0 [5], held 1 [6]]) = true ∧
    readyCheck (planted [] [held 0 [5]]) 0x73 (fmtFields 0) (setOf 0x73 (fmtFields 0) [held 0 [5]]) = true ∧
    ((draining 0).accrdDue 0 = true ∧ got (exec .accrdRow (draining 0)) (fun t => ((t.elem 0).outq.map fun o => o.token.payload, (t.elem 0).accrd.map (·.row))) = some ([0x3F800000], some 1)) ∧
    got (exec .accrdRow (draining 32)) (fun t => ((t.elem 0).accs, (t.elem 0).accrd)) = some ([], none) ∧
    readyCheck (planted [] [held 0 [5]]) 0x74 (fmtFields 0 0xFE0) (setOf 0x74 (fmtFields 0 0xFE0) [held 0 [5]]) = true ∧
    got (exec (.cturn (fmtFields 0 0xFE1)) (planted [] [held 0 [5]])) (fun t => (t.field 0).fault.map (·.1)) = some (some 6) ∧
    ((turning 0).cturnDue 0 0 = true ∧ ((turning 0).elem 0).active.slotAt 0 = some (0x74, .cturn { fmtFields 0 with srcB := 3 }, { fmtFields 0 with srcB := 3 }) ∧
      got (exec .cturnEmit (turning 0)) (fun t => ((t.elem 0).cturn.map fun c => c.2.next, (t.elem 0).outq.map fun o => o.token.tag)) = some ([1], [0x0071000000000000])) ∧
    got (exec .cturnEmit (turning 31)) (fun t => (t.elem 0).cturn.length) = some 0 ∧
    got (exec .cturnEmit (turning 32 (some (held 0 [] 2).token))) (fun t => ((t.elem 0).cturn.length, (t.elem 0).outq.map fun o => o.token.kind)) = some (0, [2]) := by
  decide +kernel

/-! ### Slot memory -/

/-- Words of element 0's scratchpad at offsets 0, 4 and 8, and of the north stream store of its column at 0. -/
def scratched (toks : List StoreTok) : State :=
  { planted [] toks with mem := Memory.write (Memory.write [] (scratchBase 0) 12 (7 + 2 ^ 32 * (8 + 2 ^ 32 * 9))) (streamBase 0) 8 21 }

/-- A slot memory operation sends these tokens (kind, VALID, payload) and leaves these 12 bytes of the scratchpad and 8 of the stream store. -/
def touches (mk : SlotFields → Instr) (f : SlotFields) (toks : List StoreTok) (sends : List (Nat × Nat × Nat)) (pad stream : Nat) : Bool :=
  got (exec (mk f) (scratched toks)) (fun t => decide ((t.elem 0).outq.map (fun o => (o.token.kind, o.token.valid, o.token.payload.toNat)) = sends) &&
    Memory.read t.mem (scratchBase 0) 12 == pad && Memory.read t.mem (streamBase 0) 8 == stream) == some true

/-- The scratchpad as it was. -/
def was : Nat := 7 + 2 ^ 32 * (8 + 2 ^ 32 * 9)

/-- R232 to R234: gathers, scatters, whole vectors, atomics. -/
theorem test_slot_memory :
    touches .lds (fmtFields 5) [held 0 [2, 0]] [(0, 2, 9 + 2 ^ 32 * 7)] was 21 ∧
    touches .sts (fmtFields 5) [held 0 [1], held 1 [5]] [(5, 0, 0)] (7 + 2 ^ 32 * (5 + 2 ^ 32 * 9)) 21 ∧
    touches .ldsv (fmtFields 0) [held 0 [0]] [(0, 32, was)] was 21 ∧ touches .stsv (fmtFields 0) [held 0 [0], held 1 [1]] [(5, 0, 0)] (1 + 2 ^ 32 * (8 + 2 ^ 32 * 9)) 21 ∧
    touches .atoms (fmtFields 5) [held 0 [0, 0], held 1 [1, 2]] [(0, 2, 7 + 2 ^ 32 * 8)] (10 + 2 ^ 32 * (8 + 2 ^ 32 * 9)) 21 := by
  decide +kernel

/-- R235, R236. -/
theorem test_slot_buffers_and_edges :
    touches .bufw (fmtFields 0) [held 0 [4]] [(0, 1, 0)] 4 21 ∧ touches .bufr (fmtFields 0) [held 0 [4]] [(0, 1, 7)] was 21 ∧
    touches .etld (fmtFields 0x17) [held 0 [0, 0]] [(0, 2, 21)] was 21 ∧ touches .etst (fmtFields 0x17) [held 0 [0, 0], held 1 [5, 0]] [(5, 0, 0)] was 5 ∧
    touches .etas (fmtFields 0x17) [held 0 [0, 0], held 1 [5, 0]] [(0, 2, 21)] was 26 := by
  decide +kernel

/-- The last word and vector of the scratchpad and the first beyond, a bad word, a buffer that another tag holds, the end of the stream store. -/
theorem witness_SlotMemoryOperationsCompute :
    readyWith 0x80 (fmtFields 5) [held 0 [0x1FFFF]] = true ∧ ((scratched []).scratchWin 0).2 = 4 * 0x1FFFF + 4 ∧
    got (exec (.lds (fmtFields 5)) (scratched [held 0 [0x20000]])) (fun t => (t.field 0).fault.map (·.1)) = some (some 6) ∧
    got (exec (.lds (fmtFields 5)) { scratched [held 0 [1]] with badWords := [scratchBase 0 / 8] }) (fun t => (t.field 0).fault.map (·.1)) = some (some 0x11) ∧
    readyWith 0x81 (fmtFields 1) [] = false ∧ readyWith 0x81 (fmtFields 5) [held 0 [1], held 1 [2]] = true ∧ readyWith 0x82 (fmtFields 0) [held 0 [0xFFF]] = true ∧
    got (exec (.ldsv (fmtFields 0)) (scratched [held 0 [0x1000]])) (fun t => (t.field 0).fault.map (·.1)) = some (some 6) ∧
    readyWith 0x83 (fmtFields 0) [held 0 [0xFFF], held 1 [1]] = true ∧ readyWith 0x84 (fmtFields 5) [held 0 [0], held 1 [1]] = true ∧
    readyWith 0x84 (fmtFields 0x17) [held 0 [0, 0], held 1 [1, 0]] = true ∧ atomOfCode 0 = some .add ∧
    readyCheck (planted [] [held 0 [4]]) 0x85 (fmtFields 0) (setOf 0x85 (fmtFields 0) [held 0 [4]]) = true ∧
    refuses (exec (.bufw (fmtFields 0)) ((planted [] [held 0 [4]]).modElem 0 fun x => { x with bufs := [(0, 0)] })) = true ∧
    readyCheck (planted [] [held 0 [] 2]) 0x86 (fmtFields 0) (setOf 0x86 (fmtFields 0) [held 0 [] 2]) = true ∧
    readyWith 0x91 (fmtFields 0x17) [held 0 [0x7BFFF, 0]] = true ∧ ((scratched []).streamWin 0 0).2 = 8 * 0x7BFFF + 8 ∧
    got (exec (.etld (fmtFields 0x17)) (scratched [held 0 [0x7C000, 0]])) (fun t => (t.field 0).fault.map (·.1)) = some (some 6) ∧
    readyWith 0x92 (fmtFields 0x17) [held 0 [0, 0], held 1 [1, 0]] = true ∧ readyWith 0x90 (fmtFields 0x17) [held 0 [0, 0], held 1 [1, 0]] = true := by
  decide +kernel

/-! ### Riders and norm registers -/

/-- The words of a card of one plot, 1 × 1 at the origin of die 0, of rank 0 and the bytes 0 to `last` (R212): KIND, OP, FMT, LAYERS, the word-0
bits above them, and words 2 to 6. -/
def card (kind op fmt layers flags : Nat) (last : Nat := 7) (rest : List Nat := []) : List Nat :=
  [kind + 2 ^ 4 * op + 2 ^ 10 * fmt + 2 ^ 17 * layers + 2 ^ 36 + flags, 2 ^ 12 + 2 ^ 36 * last] ++ rest

/-- Words from an address up. -/
def wordsAt (a : Nat) (l : List Nat) : List Host.Cell := (l.zipIdx.foldl (fun m w => Memory.write m (a + 8 * w.2) 8 w.1) [])

/-- The supervisor's thread 0 with a card at 0x1000 of local memory, `v` in g2, the page at 0x4000_0000 in the first-level TLB, and colour 7. -/
def boarding (c : List Nat) (v : Word := 9) (off : Word := 0x1000) : State :=
  { ((regs [(1, off), (2, v)]).modPart 0 fun p => { p with colours := [(7, .context 0 5 false)] }).modCore 0 fun k =>
      { k with tlb := [{ part := 0, asid := 0, vpn := 1, level := 1, ppn := 4, perms := 0x17 }] }
    with mem := wordsAt (localBase 0 + 0x1000) c }

/-- The instruction joins the queue with a request of this kind, as rider 0 with the id of thread 0 of core 0, and the thread waits. -/
def joins (i : Instr) (c : List Nat) (kind : Nat) : Bool :=
  got (exec i (boarding c)) (fun t => decide (t.cur.run = .waiting ∧ t.cur.wait.code = .admission ∧ t.pc = 0 ∧ t.gpr 3 = 0 ∧ t.cur.seq = 1) &&
    t.riders.map (fun r => (r.1, r.2.kind, r.2.id.toNat, r.2.value.toNat)) == [(0, kind, 0, 9)]) == some true

/-- The instruction gives a refusal with this reason, and the thread goes on. -/
def turnedAway (i : Instr) (s : State) (reason : Nat) : Bool :=
  got (exec i s) (fun t => decide (t.pc = 4) && t.riders.isEmpty && (t.gpr 3).toNat == 2 ^ 63 + 256 * reason + 15) == some true

/-- R215 to R220, R298 to R304: one good card of each kind. -/
theorem test_boards :
    joins (.boardRead 3 1 2) (card 0 0 0 1 0) 0 ∧ joins (.boardFilter 3 1 2) (card 1 0 5 1 0 7 [0, 0, 2 ^ 38 * 8]) 1 ∧ joins (.boardSum 3 1 2) (card 2 0 5 1 0) 2 ∧
    joins (.boardFeed 3 1 2) (card 3 0 0 1 (2 ^ 32) 7 [tag7.toNat]) 3 ∧ joins (.boardUpdate 3 1 2) (card 4 0 5 1 (2 ^ 32 * 3)) 4 ∧
    joins (.boardAtom 3 1 2) (card 5 0 5 1 (2 ^ 32 * 3)) 5 ∧ joins (.boardFill 3 1 2) (card 6 0 0 1 (2 ^ 33) 7 [0, 0, 0, 0x40000000]) 6 ∧
    joins (.boardDrain 3 1 2) (card 7 0 0 1 (2 ^ 33) 7 [0, 0, 0, 0x40000000]) 7 ∧ joins (.boardDigest 3 1 2) (card 8 0 0 1 (2 ^ 32 * 3 + 2 ^ 31)) 8 := by
  decide +kernel

/-- R215: each reason at a card that fails its check first: a card's place, the last place in local memory, and the reasons 2 to 14. -/
theorem test_board_reasons :
    turnedAway (.boardRead 3 1 2) (boarding (card 0 0 0 1 0) 9 0x1020) 1 ∧ turnedAway (.boardRead 3 1 2) (boarding (card 0 0 0 1 0) 9 0x80000) 1 ∧
    turnedAway (.boardRead 3 1 2) (boarding (card 0 0 0 1 0) 9 0x7FFC0) 4 ∧ turnedAway (.boardRead 3 1 2) (boarding (card 1 0 0 1 0)) 2 ∧
    turnedAway (.boardRead 3 1 2) (boarding (card 0 1 0 1 0)) 3 ∧ turnedAway (.boardRead 3 1 2) (boarding (card 0 0 0 1 (2 ^ 50 + 2 ^ 40 * 31))) 4 ∧
    turnedAway (.boardRead 3 1 2) (boarding ((card 0 0 0 1 0).take 1)) 5 ∧ turnedAway (.boardRead 3 1 2) (boarding (card 0 0 0 0 0)) 6 ∧
    turnedAway (.boardRead 3 1 2) (boarding (card 0 0 0 1 0 7 [0, 0, 0, 0x7FFFF])) 7 ∧ turnedAway (.boardRead 3 1 2) (boarding (card 0 0 0 1 (2 ^ 32))) 8 ∧
    turnedAway (.boardRead 3 1 2) (boarding (card 0 0 0 1 0 7 [0, 0, 0, 0, 4])) 9 ∧
    turnedAway (.boardDrain 3 1 2) (boarding (card 7 0 0 1 (2 ^ 33) 7 [0, 0, 0, 0x80000000])) 10 ∧ turnedAway (.boardRead 3 1 2) (boarding (card 0 0 0 1 (2 ^ 29))) 14 := by
  decide +kernel

/-- R307: a card outside local memory, no rank, no layer or an odd layer, a good one; R308. -/
theorem test_twins_and_norms :
    got (exec (.tcommit 3 1) (boarding (card 0 0 0 1 0) 9 0x80000)) (·.gpr 3) = some 1 ∧ got (exec (.tabort 3 1) (boarding ((card 0 0 0 1 0).take 1))) (·.gpr 3) = some 2 ∧
    got (exec (.tcommit 3 1) (boarding (card 0 0 0 0 0))) (·.gpr 3) = some 3 ∧ got (exec (.tcommit 3 1) (boarding (card 0 0 0 3 0))) (·.gpr 3) = some 3 ∧
    got (exec (.tcommit 3 1) (boarding (card 0 0 0 5 0))) (fun t => (t.cur.run, t.riders.map fun r => r.2.kind)) = some (.waiting, [10]) ∧
    got (exec (.tabort 3 1) (boarding (card 0 0 0 1 0))) (fun t => t.riders.map fun r => r.2.kind) = some [11] := by
  decide +kernel

/-- The norm registers 3 and 4 and their digests, for the supervisor, and for a tenant that holds register 4. -/
def normed (s : State) : State := s.modPart 0 fun p => { p with norms := [(3, { value := 2 ^ 70 + 5 }), (4, { value := 7 })], digests := [(3, 11), (4, 12)] }

/-- A rider of the supervisor's thread 0, of the card at 0x1000. -/
def rider (id : Word) (phase : RiderPhase) (s0 : Nat := 0) : RiderSt :=
  { kind := 0, part := 0, tenant := 0, place := 0, core := 0, source := 0, id := id, cardAt := localBase 0 + 0x1000, cardVa := 0x1000,
    card := (card 0 0 0 1 0).map (BitVec.ofNat 64 ·), value := 0, done := .direct 0, phase := phase, s0 := s0 }

/-- Riders 0 waiting, 1 aboard, 2 aboard and ending at the next boundary, and g1. -/
def queued (v : Word) : State :=
  { regs [(1, v)] with riders := [(0, rider 5 .waiting), (1, rider 6 .aboard 100), (2, rider 7 .aboard 1)], riderNext := 3, passNo := 1 }

/-- R220: by id, by the card's address, and a name that fits none. -/
theorem test_cancel :
    got (exec (.boardCancel 3 1) (queued 5)) (fun t => (t.gpr 3, t.riders.map fun r => (r.1, r.2.cancelled))) = some (1, [(1, false), (2, false)]) ∧
    got (exec (.boardCancel 3 1) (queued 0x4000000000001000)) (fun t => (t.gpr 3, t.riders.map fun r => (r.1, r.2.cancelled))) = some (2, [(1, true), (2, false)]) ∧
    got (exec (.boardCancel 3 1) (queued 8)) (fun t => (t.gpr 3, t.pc)) = some (0, 4) := by
  decide +kernel

/-- Slot 0 as BOARDS of the card at offset 0 of the scratchpad, its pending result and the queue after it. -/
def slotBoarding (kind : BitVec 8) (c : List Nat) (value : Option Word) (queue : List (Nat × Word)) : Bool :=
  got (exec (.boards { fmtFields 5 with extra := kind }) { planted [] [held 0 [9, 1]] with mem := wordsAt (scratchBase 0) c }) (fun t =>
    (t.elem 0).pend.map (fun p => (p.1, p.2.value)) == [(0, value)] && t.riders.map (fun r => (r.2.kind, r.2.value)) == queue) == some true

/-- R221: a good card of kind READ with its completion word in the scratchpad, one whose word is a thread's, a CANCEL. -/
theorem test_boards_slot :
    slotBoarding 0 (card 0 0 0 1 (2 ^ 35)) none [(0, 0x100000009)] ∧ slotBoarding 0 (card 0 0 0 1 0) (some 0x800000000000090F) [] ∧
    slotBoarding 9 [] (some 0) [] := by
  decide +kernel

theorem witness_RequestsJoinTheAdmissionQueue :
    readyCheck (planted [] [held 0 [9, 1]]) 0x93 (fmtFields 5) (setOf 0x93 (fmtFields 5) [held 0 [9, 1]]) = true ∧ readyWith 0x93 (fmtFields 5) [held 0 [9, 1]] = true ∧
    refuses (exec (.boards (fmtFields 5)) ((planted [] [held 0 [9, 1]]).modElem 0 fun x => { x with pend := [(0, { tag := tag7, width := 5, isOrd := false, value := none, at_ := 0, issued := 0 })] })) = true ∧
    (let s := boarding (card 0 0 0 1 0); s.cur.run = .ready ∧ (let q := s.threadAsker s.me; let c := s.threadCard s.me (q.winAt + 0x1000);
      0x1000 % 64 = 0 ∧ 0x1000 + 64 ≤ q.winSize ∧ s.cardReasonA q 0 c = 0 ∧ hubRanges 0 c = [] ∧ ((s.checkCard q 0 c).2.toOption.map List.length) = some 0)) ∧
    Table.sorted (queued 0).riders = true ∧ (queued 0).cur.run = .ready ∧
    (let s := normed (regs []); s.cur.mode = true ∧ got (exec (.normrd true 3 3) s) (·.gpr 3) = some 64 ∧ got (exec (.normrd false 3 3) s) (·.gpr 3) = some 5 ∧
      got (exec (.normclr 3) s) (fun t => ((t.part 0).norms.map (·.1), (t.part 0).digests)) = some ([4], [(4, 12)])) ∧
    (let s := (normed tenanted).modPlace 0 1 fun x => { x with tassign := 2 ^ 20 }; s.cur.mode = false ∧ s.holds 0 1 (16 + 3) = false ∧
      s.holds 0 1 (16 + 4) = true ∧
      got (exec (.normrd false 3 3) s) (·.gpr 3) = some 0 ∧ got (exec (.normrd false 4 3) s) (·.gpr 3) = some 7 ∧ got (exec (.normclr 3) s) (fun t => (t.part 0).digests.length) = some 2) := by
  decide +kernel

/-! ### Cache maintenance -/

/-- Line 0x200_0000, the first of the mapped page, dirty in its first byte: in the data cache with 5 there, in a way of its slice set with 6, and in
the instruction cache; the next page's line, and another tenant's copy. -/
def cached (v n : Word) : State :=
  let l : LineSt := { line := 0x2000000, tenant := 0, data := 5, dirty := 1 };
  let w : WaySt := { way := 0, line := 0x2000000, tenant := 0, data := 6, dirty := 1 };
  let s := boarding [] n v;
  { s.modCore 0 fun k => { k with tlb := [{ part := 0, asid := 0, vpn := 1, level := 1, ppn := 4, perms := 7 }], l1d := [l, { l with line := 0x2000020 }, { l with tenant := 3 }], l1i := [l] }
    with slices := [(0, [w, { w with way := 1, line := 0x2000020 }, { w with way := 2, tenant := 3 }])] }

/-- The dirty bytes that remain in the data cache and the number of its lines, of the slice set's, and the instruction cache's; byte 0 of the line
in hub memory. -/
def remains (i : Instr) (v n : Word) (l1 edge : Nat × Nat) (code byte : Nat) : Bool :=
  got (exec i (cached v n)) (fun t => ((t.core 0).l1d.map (·.dirty)).sum == l1.1 && (t.core 0).l1d.length == l1.2 &&
    ((Table.getD t.slices 0 []).map (·.dirty)).sum == edge.1 && (Table.getD t.slices 0 []).length == edge.2 && (t.core 0).l1i.length == code &&
    Memory.read t.mem 0x100000000 1 == byte && decide (t.pc = 4)) == some true

/-- R231: the first and last byte of the line; no byte. -/
theorem test_cache :
    remains (.clean .edge 1 2) 0x4000007F 1 (3, 3) (2, 3) 1 6 ∧ remains (.inval .edge 1 2) 0x40000000 128 (3, 3) (2, 2) 1 0 ∧
    remains (.clinv .edge 1 2) 0x40000000 1 (3, 3) (2, 2) 1 6 ∧ remains (.inval .l1 1 2) 0x40000000 1 (2, 2) (3, 3) 0 0 ∧
    remains (.clean .all 1 2) 0x40000000 1 (2, 3) (2, 3) 1 5 ∧ remains (.clinv .all 1 2) 0x40000000 0 (3, 3) (3, 3) 1 0 := by
  decide +kernel

theorem witness_CacheMaintenanceCompletes :
    (0 : Word).toNat = 0 ∧ (2 : Nat) ^ 57 ≤ (0x1FFFFFFFFFFFFFF : Word).toNat + 2 - 1 ∧
    got (exec (.clean .all 1 2) (cached 0x1FFFFFFFFFFFFFF 2)) (fun t => (t.cur.scause, t.cur.seval)) = some (4, 0x200000000000000) ∧
    got (exec (.inval .all 1 2) (cached 0x1FFFFFFFFFFFFFF 1)) (·.pc) = some 4 ∧ got (exec (.clinv .all 1 2) (cached 0xFF000 0x1000)) (fun t => t.pc) = some 4 ∧
    (0x100000 ≤ (0x40000000 : Nat) ∧ 0x40000000 / 4096 = 0x40000FFF / 4096) ∧
    (let s := cached 0x40000000 1; let r := s.findLeaf 0 (s.lineTenant 0) (s.placeOfThread 0) (s.rootOf 0) (s.asidOf 0) 0x40000000;
      (r.2.toOption.map fun e => e.perms / 16 % 2) = some 0 ∧ s.partOf (0 / 512) = s.partOf 0 ∧ s.partOf 0 < numParts) ∧
    (let s := boarding []; let r := s.findLeaf 0 (s.lineTenant 0) (s.placeOfThread 0) (s.rootOf 0) (s.asidOf 0) 0x40000000; (r.2.toOption.map fun e => e.perms / 16 % 2) = some 1) ∧
    ((boarding []).findLeaf 0 0 0 0 0 0x80000000).2.toOption.isNone = true := by
  decide +kernel

/-! ### Generators -/

/-- A generator card (R309): generator, mode and flags; word 1; counts; strides; word 5. Its completion word is local 0. -/
def gcard (w0 w1 counts : Nat) (w5 : Nat) (stride : Nat := 128) (w6 : Nat := 0) : List Nat := [w0, w1, counts, stride, 0, w5, w6, 0]

/-- The good cards of the four modes for generator 0: PUSH to slot 1, PULL, HUBIN and HUBOUT, two blocks each. -/
def pushCard : List Nat := gcard 0 (2 ^ 48) 1 tag7.toNat
def pullCard : List Nat := gcard 0x800 0 1 0
def hubInCard : List Nat := gcard 0x1000 0 1 0x40000000
def hubOutCard : List Nat := gcard 0x1800 0 1 0x40000000

/-- gd of GSTART of this card. -/
def starts (c : List Nat) (off : Word := 0x1000) (f : State → State := id) : Option Nat := got (exec (.gstart 3 1) (f (boarding c 9 off))) fun t => (t.gpr 3).toNat

/-- R310: four starts, and the reasons 1 to 10. -/
theorem test_gstart :
    ([pushCard, pullCard, hubInCard, hubOutCard].all fun c => got (exec (.gstart 3 1) (boarding c)) (fun t => (t.gpr 3, (t.gen 0).state, (t.gen 0).i0)) == some (0, 1, 0)) = true ∧
    starts pushCard 0x1020 = some (2 ^ 63 + 1) ∧ starts (pushCard.take 7 ++ [1]) = some (2 ^ 63 + 2) ∧ starts pushCard 0x1000 (fun s => s.setGen 0 { state := 1 }) = some (2 ^ 63 + 4) ∧
    starts (gcard 0x800 0x3E0000 1 0) = some (2 ^ 63 + 5) ∧ starts (gcard 0 (2 ^ 48) 1 0x0080000000000000) = some (2 ^ 63 + 6) ∧ starts (gcard 0x1000 0 1 0x80000000) = some (2 ^ 63 + 7) ∧
    starts (gcard 0x800 0 1 0 128 4) = some (2 ^ 63 + 10) := by
  decide +kernel

/-- Generator 0 running on this card in cycle 5, changed by `f`; 21 in the first word of its stream store, 7 in the mapped page's. -/
def generating (c : List Nat) (f : GenSt → GenSt := id) : State :=
  let pin : PinSt := { part := 0, asid := 0, va := 0x40000000, level := 1, pa := 0x100000000, perms := 0x17 };
  let s := boarding c;
  { (planted [] []) with parts := s.parts, gens := [(0, f { card := c.map (BitVec.ofNat 64 ·), state := 1, pins := [pin], done := .direct (localBase 0) })], cycle := 5
                         mem := Memory.write (Memory.write [] (streamBase 0) 8 21) 0x100000000 8 7 }

/-- A token at the port of generator 0. -/
def atPort (kind : Nat := 0) : FlightSt := { src := 0, bound := .tile 0 0, token := (held 0 [3, 4] kind).token, at_ := 2 }

/-- R286, R287: a PUSH of the first block; the end of an inner run, its EOS, and the end of the nest. -/
theorem test_generator_push :
    got (exec .generatorBlock (generating pushCard)) (fun t => ((t.gen 0).i0, (t.gen 0).blocks, t.flights.map fun f => (f.2.token.tag.toNat, f.2.token.payload.toNat))) =
      some (1, 1, [(0x0071000000000000, 21)]) ∧
    got (exec .generatorBlock (generating (gcard 0x2000 (2 ^ 48) 0 tag7.toNat))) (fun t => ((t.gen 0).eosDue, (t.gen 0).state)) = some (true, 1) ∧
    got (exec .generatorBlock (generating (gcard 0x2000 (2 ^ 48) 0 tag7.toNat) fun g => { g with blocks := 1, eosDue := true })) (fun t => ((t.gen 0).owed, t.flights.map fun f => f.2.token.kind)) =
      some (some 3, [2]) := by
  decide +kernel

/-- R286, R287: a PULL of a token of two lanes and of an EOS; HUBIN and HUBOUT. -/
theorem test_generator_moves :
    got (exec .generatorBlock { generating pullCard with flights := [(4, atPort)] }) (fun t => (t.flights.length, Memory.read t.mem (streamBase 0) 8, (t.gen 0).i0)) = some (0, 3 + 2 ^ 32 * 4, 1) ∧
    got (exec .generatorBlock { generating pullCard with flights := [(4, atPort 2)] }) (fun t => (t.flights.length, Memory.read t.mem (streamBase 0) 8, (t.gen 0).i0)) = some (0, 21, 0) ∧
    got (exec .generatorBlock (generating hubInCard)) (fun t => Memory.read t.mem (streamBase 0) 8) = some 7 ∧
    got (exec .generatorBlock (generating hubOutCard fun g => { g with i0 := 1, blocks := 1 })) (fun t => (Memory.read t.mem 0x100000080 8, (t.gen 0).state, Memory.read t.mem (localBase 0) 8)) =
      some (0, 3, 0x2000030) := by
  decide +kernel

theorem witness_GeneratorsMoveTheirBlocks :
    ((boarding pushCard).genMine 0 0 = true ∧ tenanted.genMine 1 0 = false ∧ got (exec (.gstat 3 1) (withRegs tenanted [(1, 0)])) (·.gpr 3) = some 0x8000000000000003) ∧
    (let s := generating pushCard; s.genMine 0 0 = true ∧ got (exec (.gstat 3 0) s) (·.gpr 3) = some 0x10 ∧ s.genDue 0 = true) ∧
    got (exec (.gstop 3 0) (generating pushCard)) (fun t => (t.gpr 3, (t.gen 0).state, Memory.read t.mem (localBase 0) 8)) = some (0x40, 4, 0x40) ∧
    got (exec (.gstop 3 0) (generating pushCard fun g => { g with state := 3 })) (·.gpr 3) = some 0x30 ∧
    (let s := generating (gcard 0x2000 (2 ^ 48) 1 tag7.toNat) fun g => { g with i1 := 0, blocks := 2, eosDue := true }; (s.gen 0).eosDue = true ∧
      got (exec (.gstop 3 0) s) (fun t => (t.flights.map (·.2.token.kind), (t.gen 0).owed)) = some ([2], some 4)) ∧
    (let s := { generating pushCard with flights := [(0, { src := 2 ^ 17, bound := .elem 0 1 0, token := (held 0 [1]).token, at_ := 9 })] }; s.genFlying 0 = true ∧
      got (exec (.gstop 3 0) s) (fun t => (t.gen 0).owed) = some (some 4)) ∧
    (let s := generating pushCard fun g => { g with state := 4, owed := some 4 }; s.genDue 0 = true ∧ got (exec .generatorBlock s) (fun t => ((t.gen 0).owed, Memory.read t.mem (localBase 0) 8)) = some (none, 0x40)) ∧
    got (exec .generatorBlock (generating pushCard fun g => { g with tenant := 3 })) (·.pc) = none ∧
    got (exec .generatorBlock (generating (gcard 0x800 0x3DFF80 1 0) fun g => { g with i0 := 1 })) (fun t => (t.gen 0).state) = some 5 ∧
    got (exec .generatorBlock (generating pullCard)) (·.pc) = none ∧
    (let s := { generating (gcard 0x800 0x3DFF80 1 0) (fun g => { g with i0 := 1 }) with flights := [(4, atPort)] }; s.genDue 0 = true ∧ s.portToken 0 = some (4, atPort) ∧
      got (exec .generatorBlock s) (fun t => (t.gen 0).state) = some 5) ∧
    (let s := { generating hubInCard with retired := [0x100000] }; s.hubBad 0x100000000 = true ∧ got (exec .generatorBlock s) (fun t => (t.gen 0).state) = some 6) ∧
    got (exec .generatorBlock (generating hubInCard fun g => { g with pins := [] })) (fun t => (t.gen 0).state) = some 6 ∧
    (generating pushCard).colourWidth 0 (0x007 : BitVec 12).toNat = some 5 ∧ (generating pushCard).gcPages ((generating pushCard).threadAsker 0) (pushCard.map (BitVec.ofNat 64 ·)) = (generating pushCard, .ok []) := by
  decide +kernel

/-! ### Collectives -/

/-- A group of two members, this partition and partition 0 of device 1, that traffic reaches over link 2. -/
def pair : GroupSt := { tenant := 0, key := 1, rank := 0, members := [(0, 0), (1, 0)], tree := [[0, 1]], links := [2] }

/-- A descriptor (R384) on element 0, from offset 0 to offset 128 of its scratchpad, with the completion word at local 0. -/
def descr (kind fmt n : Nat) (op : Nat := 0) (more : Nat := 0) (w4 : Nat := 0) (w6 : Nat := 0) : List Nat :=
  [kind + 2 ^ 3 * op + 2 ^ 5 * fmt + 2 ^ 10 * fmt + more, 1, 2 ^ 20 * 128, n, w4, 0, w6, 0]

/-- The descriptor at 0x1000, the group in entry 0, and norm register 3 with its digest. -/
def grouped (c : List Nat) (off : Word := 0x1000) : State :=
  { (boarding c 9 off).modPart 0 fun p => { p with norms := [(3, { value := 5, sat := true })], digests := [(3, 11)] } with groups := [(0, pair)] }

/-- The instruction joins with id 0, and the member's count goes on. -/
def enters (i : Instr) (c : List Nat) (kind : Nat) : Bool :=
  got (exec i (grouped c)) (fun t => decide (t.pc = 4) && (t.gpr 3).toNat == 0 && t.colls.map (·.2.kind) == [kind] && (t.group 0 0).map (·.seq) == some 1) == some true

/-- gd of a refusal. -/
def shut (i : Instr) (c : List Nat) (reason : Nat) (off : Word := 0x1000) : Bool :=
  got (exec i (grouped c off)) (fun t => (t.gpr 3).toNat == 2 ^ 63 + reason && t.colls.isEmpty && decide (t.pc = 4)) == some true

/-- R385: each form with a good descriptor; R388: a harvest slot, STATUS and the completion value. -/
theorem test_coll_issue :
    enters (.allredOrd 3 1 2) (descr 0 5 4 2) 0 ∧ enters (.allredExact 3 1 2) (descr 0 7 4) 0 ∧ enters (.bcast 3 1 2) (descr 1 0xA 8 0 (2 ^ 23)) 1 ∧
    enters (.allgath 3 1 2) (descr 2 5 4) 2 ∧ enters (.redscatOrd 3 1 2) (descr 3 5 4) 3 ∧ enters (.redscatExact 3 1 2) (descr 3 7 4) 3 ∧ enters (.digcmp 3 1 2) (descr 5 0 0) 5 ∧
    got (exec (.digset 3 1 2) (grouped (descr 4 0 0 0 0 (2 ^ 32 * 8 + 16 * 2 + 3)))) (fun t => (t.gpr 3, (t.place 0 0).harvest, Memory.read t.mem (localBase 0) 8)) =
      some (0, [(2, { step := 8, digest := 11, norm := 5, sat := true })], 9) := by
  decide +kernel

/-- R385: the reasons 1 to 8. -/
theorem test_coll_reasons :
    shut (.bcast 3 1 2) (descr 1 5 4) 1 0x1008 ∧ shut (.bcast 3 1 2) (descr 2 5 4) 2 ∧ shut (.allredOrd 3 1 2) (descr 0 5 4 0 (2 ^ 23)) 2 ∧ shut (.bcast 3 1 2) (descr 1 5 4 0 (2 ^ 15)) 3 ∧
    shut (.allredExact 3 1 2) (descr 0 5 4) 4 ∧ shut (.allredOrd 3 1 2) (descr 0 5 4 3) 4 ∧ shut (.bcast 3 1 2) (descr 1 5 131041) 5 ∧ shut (.bcast 3 1 2) (descr 1 5 4 0 (2 ^ 24)) 6 ∧
    shut (.bcast 3 1 2) (descr 1 5 0) 6 ∧ shut (.redscatOrd 3 1 2) (descr 3 5 3) 6 ∧ shut (.bcast 3 1 2) (descr 1 5 4 0 0 0 4) 7 := by
  decide +kernel

/-- A collective of this descriptor with the local vector 5. -/
def member (c : List Nat) (exact : Bool := false) : CollSt :=
  { part := 0, tenant := 0, place := 0, core := 0, thread := 0, kind := c.headD 0 % 8, exact := exact, group := 0, index := 0,
    descr := c.map (BitVec.ofNat 64 ·), descrAt := localBase 0 + 0x1000, conf := pair, elems := [0],
    mine := { rank := 0, descr := [1], vector := [5] }, value := 77, done := .direct (localBase 0) }

/-- It is in flight as 0; its member on device 1 brings `theirs`. -/
def meeting (c : List Nat) (theirs : Nat) (exact : Bool := false) (f : CollSt → CollSt := id) (g : Focus → Focus := id) : State :=
  { regs [] with colls := [(0, f (member c exact))], hub := { masks := [(2, 1)] }, focus := g { remote := [{ rank := 1, descr := [1], vector := [theirs] }] } }

/-- The destination's bytes, STATUS, the completion value and the traps queued. -/
def ends (s : State) (dest : Nat) (status value : Nat) (traps : List Nat := []) : Bool :=
  got (exec .collectiveComplete s) (fun t => Memory.read t.mem (scratchBase 0 + 128) 8 == dest && Memory.read t.mem (localBase 0 + 0x1038) 8 == status &&
    Memory.read t.mem (localBase 0) 8 == value && t.colls.isEmpty && (t.thread 0).pend.map (·.code) == traps) == some true

/-- R385, R387: a sum of integers, of f32 in exact mode, a broadcast from rank 1, a gathering, the first half of a scattered maximum. -/
theorem test_coll_results :
    ends (meeting (descr 0 5 1) 6) 11 0 77 ∧ ends (meeting (descr 0 7 1) 0x3F800000 true fun x => { x with mine := { x.mine with vector := [0x40000000] } }) 0x40400000 0 77 ∧
    ends (meeting (descr 1 5 1 0 (2 ^ 23)) 6) 6 0 77 ∧ ends (meeting (descr 2 5 1) 6) (5 + 2 ^ 32 * 6) 0 77 ∧ ends (meeting (descr 3 5 2 2) 6) 6 0 77 := by
  decide +kernel

/-- R386, R389: descriptors that differ; a vote that agrees, and one without a majority. -/
theorem test_coll_outcomes :
    ends (meeting (descr 0 5 1) 6 false fun x => { x with mine := { x.mine with descr := [2] } }) 0 0x100 77 ∧
    ends (meeting (descr 5 0 0) 5) 0 0x200000000 77 ∧ ends (meeting (descr 5 0 0) 6) 0 0x500 77 [0x12] := by
  decide +kernel

/-- Eight collectives in flight; a tenant that does not run; a result that waits; outcomes 2 and 3; a missing member; the minority of three. -/
theorem witness_CollectivesMatchAndComplete :
    (let s := grouped (descr 1 5 4); s.group 0 0 = some pair ∧ pair.members[pair.rank]? = some (s.hub.device.toNat, 0) ∧ cdFormsOk 1 false ((descr 1 5 4).map (BitVec.ofNat 64 ·)) = true ∧
      (s.cdDone (s.threadAsker 0) ((descr 1 5 4).map (BitVec.ofNat 64 ·))).2 = some (.direct (localBase 0)) ∧ (s.cdDone (s.threadAsker 0) ((descr 1 5 4 0 0 0 4).map (BitVec.ofNat 64 ·))).2 = none) ∧
    (let s := { grouped (descr 1 5 4) with colls := (List.range 8).map fun n => (n, member (descr 1 5 4)) };
      got (exec (.bcast 3 1 2) s) (fun t => (t.cur.run, t.pc, t.colls.length)) = some (.waiting, 0, 8)) ∧
    (let q := { boarding [] 9 0 with mem := wordsAt (localBase 0 + 0x10000) (descr 4 0 0 0 0 3), groups := [(0, { pair with tenant := 1 })] };
      let s := { tenanted with mem := q.mem, groups := q.groups }; (s.threadAsker 1).place = 1 ∧ s.holds 0 1 (16 + 3) = false ∧
      got (exec (.digset 3 0 0) s) (·.gpr 3) = some 0x8000000000000008) ∧
    (let s := meeting (descr 0 5 1) 6 false fun x => { x with tenant := 4 }; s.tenantActive 0 4 = false ∧ refuses (exec .collectiveComplete s) = true) ∧
    ends (meeting (descr 0 5 1) 6 false fun x => { x with result := some { outcome := 0, maj := 0, flags := 3, vector := [9], detail := 0 } }) 9 3 77 ∧
    (let s := meeting (descr 5 0 0) 6 false (fun x => { x with elems := [] }) fun g => { g with flag := true, layer := 2, link := 2 }; (s.thread 0).run ≠ .free ∧ (s.thread 0).pend.length < 4 ∧
      got (exec .collectiveComplete s) (fun t => (Memory.read t.mem (localBase 0 + 0x1038) 8, (t.thread 0).pend.map (·.code))) = some (0x200, [0x13])) ∧
    (let s := meeting (descr 0 5 1) 6 false id fun g => { g with remote := [] }; s.memberOf (member (descr 0 5 1)) s.focus.remote 1 = none ∧ refuses (exec .collectiveComplete s) = true) ∧
    (let three := { pair with members := [(0, 0), (1, 0), (2, 0)] };
      let s := meeting (descr 5 0 0) 6 false (fun x => { x with conf := three }) fun g => { g with remote := g.remote ++ [{ rank := 2, descr := [1], vector := [6] }] };
      ends s 0 0x200000400 77 [0x12] = true ∧ got (exec .collectiveComplete s) (fun t => (t.place 0 0).divmark) = some true) ∧
    (let s := { grouped (descr 1 5 4) with hub := { links := [(2, { up := true, peer := 1 })] } }; ∀ l ∈ pair.links, (Table.getD s.hub.links l {}).up = true ∧
      got (exec (.bcast 3 1 2) s) (fun t => t.colls.map (·.2.result)) = some [none]) ∧
    got (exec (.bcast 3 1 2) (grouped (descr 1 5 4))) (fun t => t.colls.map fun y => y.2.result.map (·.outcome)) = some [some 2] ∧
    (let s := { meeting (descr 0 5 1) 6 with hub := {} }; Table.getD s.hub.masks 2 0 = 0 ∧ refuses (exec .collectiveComplete s) = true) ∧
    (let s := meeting (descr 0 5 1) 6 false fun x => { x with before := [(9, 0)], mine := { x.mine with descr := [2] } }; [(9, 0)][0]? = some (9, 0) ∧ ends s 9 0x100 77 = true) := by
  decide +kernel

/-! ### Tokens at an element -/

/-- The tag of iteration `k` below `tag7`'s colour, one level deep. -/
def iter7 (k : Nat) : Tag := BitVec.ofNat 64 (0x0071000000000000 + k * 2 ^ 40)

/-- `n` tokens of slot 1, each of its own activation. -/
def crowd (n : Nat) : List StoreTok := (List.range n).map fun k => { slot := 1, pos := 0, token := { (held 0 [1]).token with tag := iter7 k }, stamp := k }

/-- Slot 1 as COPY, slot 3 as COMB of two 32-bit words with addition, slot 4 as LOOP. -/
def mixedSlots : Table Word := copySlot ++ [(3, 0x05000002090038BF), (4, 0x0C0038BF)]

/-- Token `t`, bound for position 0 of slot 1, reaches element 0 in cycle 3, and the element has a spill area of two records. -/
def arriving (toks : List StoreTok) (t : Token := (held 0 [9]).token) (f : FlightSt → FlightSt := id) (g : ElemSt → ElemSt := id) : State :=
  { (planted mixedSlots toks).modElem 0 g with flights := [(4, f { src := 5, bound := .elem 0 1 0, token := t, at_ := 2 })], cycle := 3, focus := { index := 4 },
                                               windows := [(0, { spillbase := 0x1000, spilllim := 0x1200 })] }

/-- After an arrival: tokens in the store, spilled, on the network, and the field's fault. -/
def after (s : State) (store spills flights : Nat) (fault : Option Nat := none) : Bool :=
  got (exec .tokenArrival s) (fun t => (t.elem 0).store.length == store && (t.elem 0).spills.length == spills && t.flights.length == flights &&
    (t.field 0).fault.map (·.1) == fault) == some true

/-- A filter for the fields 5 and 6 of the loops of colour 7 at level 0. -/
def filter7 : ReapSt := { key := 0x0070000000000000, first := 5, count := 2, level := 0 }

/-- R96, R97: room, the oldest activation's 57th, a local result and a network token that meet 56 entries, a token that has evicted, a full area. -/
theorem test_arrival_gate :
    after (arriving []) 1 0 0 ∧ after (arriving (crowd 56) { (held 0 [9]).token with tag := iter7 0 }) 57 0 0 ∧
    after (arriving (crowd 56) { (held 0 [9]).token with tag := iter7 1 } fun f => { f with isLocal := true }) 56 1 0 ∧
    after (arriving (crowd 56) { (held 0 [9]).token with tag := iter7 1 }) 55 1 1 ∧
    refuses (exec .tokenArrival (arriving (crowd 56) { (held 0 [9]).token with tag := iter7 1 } fun f => { f with evicted := true })) = true ∧
    refuses (exec .tokenArrival (arriving (crowd 56) { (held 0 [9]).token with tag := iter7 1 } id fun x => { x with spills := [{ record := 0, since := 0 }, { record := 1, since := 0 }] })) = true := by
  decide +kernel

/-- R90, R95, R130, R132, R415: a filter, an empty slot, COMB twice and a wrong width, LOOP. -/
theorem test_arrival_places :
    after (arriving [] { (held 0 [9]).token with tag := iter7 6 } id fun x => { x with reaps := [filter7] }) 0 0 0 ∧
    after (arriving [] { (held 0 [9]).token with tag := iter7 7 } id fun x => { x with reaps := [filter7] }) 1 0 0 ∧
    after (arriving [] (held 0 [9]).token fun f => { f with bound := .elem 0 2 0 }) 1 0 0 (some 0x0B) ∧
    got (exec .tokenArrival (arriving [] (held 0 [9]).token (fun f => { f with bound := .elem 0 3 0 }) fun x =>
      { x with combs := [{ slot := 3, tag := tag7, width := 5, taken := 1, valid := 1, payload := 4, allEos := false, stamp := 0 }] }))
      (fun t => (t.elem 0).combs.map fun c => (c.taken, c.payload)) = some [(2, 13)] ∧
    after (arriving [] { (held 0 [9]).token with width := 4 } fun f => { f with bound := .elem 0 3 0 }) 1 0 0 (some 8) ∧
    got (exec .tokenArrival (arriving [] { (held 0 [9]).token with tag := iter7 5 } fun f => { f with bound := .elem 0 4 0 }))
      (fun t => (t.elem 0).loops.map fun l => (l.i, l.x)) = some [(5, 5)] := by
  decide +kernel

/-- A FEED token of rider 0, plot 0, rank 3. -/
def fed (toks : List StoreTok) (second : Bool := false) (slot : Nat := 1) (g : ElemSt → ElemSt := id) : State :=
  { arriving toks { (held 0 [9]).token with tag := iter7 6 } (fun f => { f with feed := some (0, 0, 3, 1), bound := .elem 0 slot 0 }) g with
    riders := [(0, { rider 5 .aboard with second := second })] }

/-- R196, R219: accepted, refused on the first and second pass, dropped, destroyed. -/
theorem test_feed_arrival :
    after (fed []) 1 0 0 ∧ got (exec .tokenArrival (fed (crowd 56))) (fun t => t.riders.map fun r => r.2.refused) = some [[(0, 3, 1)]] ∧
    got (exec .tokenArrival (fed (crowd 56) true)) (fun t => t.riders.map fun r => r.2.again) = some [[(0, 3)]] ∧
    got (exec .tokenArrival (fed [] false 2)) (fun t => t.riders.map fun r => r.2.dropped) = some [[(0, 3)]] ∧ after (fed [] false 1 fun x => { x with reaps := [filter7] }) 0 0 0 := by
  decide +kernel

/-- Element 0 with `n` tokens and record 1 of its area holding the token (9) of `tag7` for slot 1. -/
def spilled (n : Nat) (f : ElemSt → ElemSt := id) : State :=
  let s := arriving (crowd n) (held 0 [9]).token id fun x => f { x with spills := [{ record := 1, since := 3 }] };
  { s with flights := [], mem := Memory.write [] (scratchBase 0 + 0x1100) 256 (tokenRecord (held 0 [9]).token 1 0 0 2 0) }

/-- R97: 47 entries, 48, 48 with the record asked for, a busy port. -/
theorem test_reload :
    got (exec .reload (spilled 47)) (fun t => ((t.elem 0).spills.length, (t.elem 0).store.length, ((t.elem 0).store.drop 2).head?.map fun u => (u.slot, u.stamp, u.token.payload.toNat))) =
      some (0, 48, some (1, 1, 9)) ∧
    refuses (exec .reload (spilled 48)) = true ∧ got (exec .reload (spilled 48 fun x => { x with reloadNext := [1] })) (fun t => (t.elem 0).store.length) = some 49 ∧
    refuses (exec .reload (spilled 0 fun x => { x with spFree := 4 })) = true := by
  decide +kernel

/-- A token for COMB arrives while record 1 holds its key; the record, as token and as COMB entry, comes back. -/
theorem witness_TokensArriveSpillAndAreReaped_comb :
    (let s := arriving [] (held 0 [9]).token (fun f => { f with bound := .elem 0 3 0 }) fun x => { x with spills := [{ record := 1, since := 3 }] };
      let r := tokenRecord (held 0 [4]).token 3 0 0 2 0; let u := { s with mem := Memory.write [] (scratchBase 0 + 0x1100) 256 r }; u.spilledKey 0 3 0 tag7 = some 1 ∧
      got (exec .tokenArrival u) (fun t => ((t.elem 0).reloadNext, t.flights.length)) = some ([1], 1) ∧
      refuses (exec .tokenArrival (u.modElem 0 fun x => { x with reloadNext := [1] })) = true ∧
      got (exec .reload (u.modElem 0 fun x => { x with reloadNext := [1] })) (fun t => (t.elem 0).combs.map fun c => (c.slot, c.taken, c.payload)) = some [(3, 1, 4)] ∧
      got (exec .reload ({ u with mem := Memory.write [] (scratchBase 0 + 0x1100) 256 (r + 2 ^ 113 + 2 ^ 192) }.modElem 0 fun x => { x with reloadNext := [1] }))
        (fun t => (t.elem 0).combs.map fun c => (c.slot, c.taken, c.payload)) = some [(3, 1, 4)]) := by
  decide +kernel

/-- A reap token of iteration 4 that destroys two fields. -/
def reaping (toks : List StoreTok) (g : ElemSt → ElemSt := id) : State :=
  arriving toks { (held 0 [2] 4).token with tag := iter7 4 } id g

theorem witness_TokensArriveSpillAndAreReaped :
    (Table.sorted (fed []).flights = true ∧ ∃ x, Table.find? (fed []).flights 4 = some x ∧ x.feed = some (0, 0, 3, 1) ∧ x.at_ ≤ 3) ∧
    ((arriving []).atInput 4 { src := 5, bound := .elem 0 1 0, token := (held 0 [9]).token, at_ := 2 } = true ∧
      (arriving []).atInput 4 { src := 5, bound := .elem 0 1 0, token := (held 0 [9]).token, at_ := 4 } = false) ∧
    refuses (exec .tokenArrival (arriving [] (held 0 [9]).token fun f => { f with at_ := 4 })) = true ∧
    ((arriving []).freeSpill 0 = some 0 ∧ (arriving [] (held 0 [9]).token id fun x => { x with spills := [{ record := 0, since := 0 }] }).freeSpill 0 = some 1) ∧
    (let s := arriving [] (held 0 [9]).token fun f => { f with bound := .share 0 }; s.elemActive 0 = true ∧ got (exec .tokenArrival s) (·.flights.length) = some 0) ∧
    (let s := spilled 0; (s.elem 0).spFree ≤ s.cycle ∧ s.elemActive 0 = true) ∧
    got (exec .tokenArrival ((fed []).modField 0 fun f => { f with halted := true })) (fun t => (t.riders.map fun r => r.2.again, t.flights.length)) = some ([[(0, 3)]], 0) ∧
    got (exec .reapToken (reaping (crowd 8))) (fun t => ((t.elem 0).reaps == [filter7], (t.elem 0).store.length)) = some (true, 6) ∧
    refuses (exec .reapToken (reaping [] fun x => { x with reaps := List.replicate 8 filter7 })) = true ∧
    (let s := { arriving [] (held 0 [9]).token id fun x => { x with reaps := [filter7] } with flights := [], focus := { index := 0 } }; s.bedClean 0 filter7 = true ∧
      got (exec .reapFilterRetire s) (fun t => (t.elem 0).reaps.length) = some 0) ∧
    (let s := { arriving (crowd 6) (held 0 [9]).token id fun x => { x with reaps := [filter7] } with flights := [], focus := { index := 0 } }; refuses (exec .reapFilterRetire s) = true) ∧
    (let s := (arriving [] (held 0 [9]).token id fun x => { x with spills := [{ record := 0, since := 0 }, { record := 1, since := 0 }] }).modField 0 fun f => { f with fullSince := some 3, lastIssue := 7 };
      s.spillFull 0 = true ∧ (let u := { s with focus := { index := 0 }, cycle := 65542 }; refuses (exec .matchExhausted u) = true) ∧
      (let u := { s with focus := { index := 0 }, cycle := 65543 }; got (exec .matchExhausted u) (fun t => (t.field 0).fault.map (·.1)) = some (some 9))) := by
  decide +kernel

/-! ### Boundaries -/

/-- The end of a step at this cursor. -/
def ending (cursor : Nat := 7) (l : Table RiderSt := []) : State := { regs [] with cursor := cursor, stepCyc := 768, riders := l, cycle := 800, passNo := 1 }

/-- R186, R187, R191: within a pass; at a wrap, with sweep states that are due and not yet; a ride at its end, one that is not, a request admitted 16 cycles ago, one admitted later. -/
theorem test_step_boundary :
    refuses (exec .stepBoundary { ending with stepCyc := 767 }) = true ∧
    got (exec .stepBoundary ending) (fun t => (t.cursor, t.passNo, t.stepCyc)) = some (8, 1, 0) ∧
    got (exec .stepBoundary { ending 4095 with sweepNext := some .p2 }) (fun t => (t.cursor, t.passNo, t.sweep)) = some (0, 2, .p2) ∧
    got (exec .stepBoundary { ending 4095 with sweepNext := some .p2, sweepPass := 3 }) (fun t => (t.sweep, t.sweepNext)) = some (.p0, some .p2) ∧
    got (exec .stepBoundary (ending 7 [(0, rider 5 .aboard 8), (1, rider 6 .aboard 9), (2, { rider 7 .admitted with admittedAt := 784 }), (3, { rider 8 .admitted with admittedAt := 785 })]))
      (fun t => t.riders.map fun r => (r.1, r.2.phase, r.2.s0)) = some [(1, .aboard, 9), (2, .aboard, 4104), (3, .admitted, 0)] := by
  decide +kernel

/-- The state of a ride's end: STATUS, the completion value, norm register 3 and its digest. -/
def landed (f : RiderSt → RiderSt) : Option (Nat × Nat × Nat × Bool × Nat) :=
  let r := f { rider 5 .aboard with value := 9, card := [2 ^ 25 * 3 + 2 ^ 29 + 2 ^ 31], done := .direct (localBase 0), status := 2, normPart := 4, digPart := 6 };
  let t := (normed (regs [])).endRide 0 r;
  some (Memory.read t.mem (localBase 0 + 0x1038) 8, Memory.read t.mem (localBase 0) 8, ((t.part 0).norm 3).value, ((t.part 0).norm 3).sat, (t.part 0).digest 3)

/-- R197, R213, R281, R283: a full ride with norm and digest, an overflow of the norm, a cancelled ride without either. -/
theorem test_end_of_ride :
    landed id = some (2, 9, 2 ^ 70 + 9, false, 17) ∧ (landed fun r => { r with normPart := 2 ^ 128 }).map (fun x => (x.2.2.1, x.2.2.2.1)) = some (2 ^ 128 - 1, true) ∧
    landed (fun r => { r with cancelled := true, card := [2 ^ 25 * 3] }) = some (2 ^ 11 + 2, 9, 2 ^ 70 + 5, false, 11) := by
  decide +kernel

/-- The rotation of two tenants, `c` cycles after the cycle before the edge's guard; thread 1 of tenant 1 runs with a hold and a load. -/
def rotatingAt (c : Nat) (f : ThreadSt → ThreadSt := id) : State :=
  { (rotating.modThread 1 fun t => f { t with hold := some 0, loads := fourLoads }) with cursor := 2046, stepCyc := 511 + c, elems := [(0, { owner := 1, activeOf := some 0 })] }

/-- The thread of a request that waits for admission, or for a twin operation, as request `n`. -/
def asking (code : WaitCode) (n : Nat) : State := thr fun t => { t with run := .waiting, wait := { code := code, id := n, gd := 5 } }

theorem witness_StepsEndAndSlotsChange :
    (ending.stepLen ≤ ending.stepCyc ∧ Table.sorted (ending 7 [(0, rider 5 .aboard 8), (2, { rider 7 .admitted with admittedAt := 784 })]).riders = true) ∧
    (let s := (regs []).modMe fun t => { t with boardGd := some (5, 4) }; let t := s.boardOne (4, rider 6 .admitted);
      (s.thread 0).boardGd = some (5, 4) ∧ (s.thread 0).run ≠ .resting ∧ t.gpr 5 = 6 ∧ (t.riders.map fun r => (r.1, r.2.phase)) = [(4, .aboard)]) ∧
    (let s := asking .admission 4; let t := s.admitRider 4 (rider 6 .waiting); (s.thread 0).wait.id = 4 ∧ t.cur.run = .ready ∧ t.pc = 4 ∧ t.cur.boardGd = some (0, 4)) ∧
    ((rotatingAt 0).guardDue 0 = false ∧ refuses (exec .guard (rotatingAt 0)) = true) ∧
    (let s := rotatingAt 1; s.guardDue 0 = true ∧ s.guardSkips 0 = false ∧ s.running 0 = 1 ∧ Table.sorted s.threads = true ∧ s.elemPart 0 = 0 ∧
      got (exec .guard s) (fun t => ((t.thread 1).run, (t.thread 1).hold.isSome, (t.thread 1).loads.length, (t.part 0).inGuard, t.elems.length)) = some (.resting, false, 0, true, 0)) ∧
    got (exec .guard (rotatingAt 1 fun t => { t with run := .stopped })) (fun t => (t.thread 1).run) = some .stopped ∧
    (let s := { regs [] with rowBufs := [(3, 4)], cursor := 5, focus := { index := 3 } }; got (exec .rowCommit s) (·.rowBufs) = some [] ∧
      got (exec .rowCommit { s with rowBufs := [], parkedRows := [7, 3] }) (·.parkedRows) = some [7] ∧ refuses (exec .rowCommit { s with cursor := 4 }) = true ∧ refuses (exec .rowCommit { s with layers := [(0, { mode := .parked })] }) = true) := by
  decide +kernel

/-- The selector and the pending bit of pair 0 of ranks 0 and 1 of plot 0 and of rank 0 of plot 1, and g5, after a TCOMMIT or TABORT of rank 0 of plot 0. -/
def twinned (kind : Nat) (mark : Bool) : List (Bool × Bool) × Word :=
  let s : State := { asking .twin 4 with twins := [(twinKey 0 0 0, { pend := true }), (twinKey 0 0 1, { pend := true }), (twinKey 1 0 0, { pend := true })] };
  let r : RiderSt := { rider 6 .admitted with kind := kind, card := (card 10 0 0 1 0).map (BitVec.ofNat 64 ·) };
  let t := (s.modPlace 0 0 fun x => { x with divmark := mark }).boardTwin 4 r;
  ([t.twin 0 0 0, t.twin 0 0 1, t.twin 1 0 0].map fun x => (x.sel, x.pend), t.gpr 5)

/-- R279, R390: a TCOMMIT, one under DIVMARK, a TABORT. -/
theorem test_twin_operations :
    twinned 10 false = ([(true, false), (false, true), (false, true)], 0) ∧ twinned 10 true = ([(false, false), (false, true), (false, true)], 0) ∧
    twinned 11 false = ([(false, false), (false, true), (false, true)], 0) ∧ ((asking .twin 4).thread 0).boardGd = none ∧
    Table.sorted [(twinKey 0 0 0, ()), (twinKey 0 0 1, ()), (twinKey 1 0 0, ())] = true := by
  decide +kernel

/-- A write of TLBI that waits, on an invalidation of all; an entry that it covers is pinned. -/
theorem witness_StepsEndAndSlotsChange_invalidation :
    (let s := (asking .none 0).modPart 0 fun p => { p with tlbi := some { op := 2, asid := 0, vpn := 0 } }; s.tlbiPinned 0 { op := 2, asid := 0, vpn := 0 } = false ∧
      (s.thread 0).run = .waiting ∧ (s.thread 0).wait.code = .none ∧ got (exec .tlbInvalidationDone s) (fun t => ((t.part 0).tlbi, t.cur.run, t.pc)) = some (none, .ready, 0)) ∧
    (let e : TlbEntry := { part := 0, asid := 0, vpn := 1, level := 1, ppn := 4, perms := 7, pins := 1, stale := true };
      let s := { (asking .none 0).modPart 0 fun p => { p with tlbi := some { op := 2, asid := 0, vpn := 0 } } with llTlb := [(0, [e])] };
      s.tlbiPinned 0 { op := 2, asid := 0, vpn := 0 } = true ∧ refuses (exec .tlbInvalidationDone s) = true) ∧
    refuses (exec .tlbInvalidationDone (regs [])) = true := by
  decide +kernel

/-! ### Heat, power and errors -/

/-- What the governor reports: a temperature of layer 2 of die 1 in quarters of a degree, in this sweep state, with layer 2 as given. -/
def heated (temp : Nat) (x : SweepState := .p0) (l : LayerSt := {}) (flag : Bool := false) : State :=
  { regs [] with sweep := x, layers := [(10, l)], focus := { die := 1, layer := 2, index := temp, flag := flag }, passNo := 20, rowBufs := [(4096 * (8 * 1024 + 2) + 5, 1), (7, 1)] }

/-- The same device in its domain's lock. -/
def locked (s : State) : State := { s with hub := { s.hub with locked := true } }

/-- R362, R382: the states asked for, free and locked, at and beyond each bound. -/
theorem test_sweep_states :
    got (exec .thermalSlowdown (heated 361)) (fun t => (t.sweepNext, t.hub.hotPass, (t.layer 1 2).temp)) = some (some .p1, 20, 361) ∧
    got (exec .thermalSlowdown (locked (heated 361))) (fun t => (t.sweepNext, t.hub.asked)) = some (none, some .p1) ∧
    ([heated 360, heated 361 .p4, { heated 361 with focus := { die := 4, layer := 2, index := 361 } }].all fun s => refuses (exec .thermalSlowdown s)) = true ∧
    got (exec .thermalSpeedup { heated 319 .p4 with hub := { hotPass := 4 } }) (·.sweepNext) = some (some .p3) ∧
    got (exec .thermalSpeedup (heated 320 .p4)) (fun t => (t.sweepNext, t.hub.hotPass, (t.layer 1 2).temp)) = some (none, 20, 320) ∧
    ([heated 319, { heated 320 with focus := { die := 4, layer := 2, index := 320 } }, { heated 319 .p4 with hub := { hotPass := 5 } }].all fun s => refuses (exec .thermalSpeedup s)) = true ∧
    got (exec .sweepStateAnnounce { locked (heated 0) with focus := { sweep := .p3 } }) (fun t => (t.sweepNext, t.sweepPass)) = some (some .p3, 22) ∧
    refuses (exec .sweepStateAnnounce (heated 0)) = true := by
  decide +kernel

/-- R344, R362, R364. -/
theorem test_layers :
    got (exec .layerPark (heated 393)) (fun t => ((t.layer 1 2).mode, t.parkedRows, t.rowBufs, t.notices.length)) = some (.parked, [4096 * (8 * 1024 + 2) + 5], [(7, 1)], 8) ∧
    got (exec .layerPark (heated 381 .p4)) (fun t => ((t.layer 1 2).mode, (t.layer 1 2).parkNext)) = some (.swept, true) ∧
    ([heated 392, heated 380 .p4, heated 393 .p0 { mode := .off }].all fun s => refuses (exec .layerPark s)) = true ∧
    (heated 339).stepNo = 81920 ∧ got (exec .layerUnpark (heated 339 .p0 { mode := .parked, coolFrom := some 77824 })) (fun t => (t.layer 1 2).unparkNext) = some true ∧
    got (exec .layerUnpark (heated 339 .p0 { mode := .parked, coolFrom := some 77825 })) (fun t => (t.layer 1 2).unparkNext) = some false ∧
    got (exec .layerUnpark (heated 340 .p0 { mode := .parked, coolFrom := some 7 })) (fun t => ((t.layer 1 2).coolFrom, (t.layer 1 2).unparkNext)) = some (none, false) ∧
    refuses (exec .layerUnpark (heated 339)) = true := by
  decide +kernel

/-- R364. -/
theorem test_layers_off :
    got (exec .layerPowerOff { heated 400 .p0 { mode := .parked } with parkedRows := [4096 * (8 * 1024 + 2) + 5, 7] }) (fun t => ((t.layer 1 2).mode, t.parkedRows, t.notices.map fun n => n.detail0.toNat)) =
      some (.off, [7], List.replicate 8 1) ∧
    got (exec .layerPowerOff (heated 0 .p0 { mode := .parked, parkedNs := 50000000 })) (fun t => (t.layer 1 2).mode) = some .off ∧
    ([heated 399 .p0 { mode := .parked, parkedNs := 49999999 }, heated 400].all fun s => refuses (exec .layerPowerOff s)) = true := by
  decide +kernel

/-- What plot 3's memory controller asks for. -/
def plotted (p : PlotSt) (x : PowerState) (flag : Bool := false) (n : Nat := 3) : State :=
  { regs [] with plots := [(3, p)], focus := { index := n, power := x, flag := flag }, rowBufs := [(4096 * 8 * 3 + 5, 1), (7, 1)], cursor := 9 }

/-- A SUM with accumulators in plot 3 is aboard. -/
def busy (s : State) : State :=
  { s with riders := [(0, { rider 5 .aboard with kind := 2, card := (card 2 0 5 1 (2 ^ 40 * 3)).map (BitVec.ofNat 64 ·) })] }

/-- Core 0's BEAT holds 5, and its next sample is due. -/
def beating (same : Nat) (last : Word := 5) : State :=
  { (withLocal (regs []) 0x7F010 5).modCore 0 fun c => { c with beatArmed := true, beatAt := 100, beatLast := last, beatSame := same } with cycle := 100 }

/-- The line of tenant 0 at 0x1_0000_0000, in way 0 of its set on core 0, dirty or clean, and the hub's report. -/
def broken (dirty : Nat) (flag : Bool) (addr : Nat := 0x100000000) : State :=
  { regs [] with slices := [(0, [{ way := 0, line := 0x2000000, tenant := 0, data := 6, dirty := dirty }])], focus := { addr := addr, flag := flag }, mem := Memory.write [] 0x100000000 1 9 }

theorem witness_HeatPowerAndErrorsAreHandled :
    got (exec .powerRequest (plotted {} .selfRefresh)) (fun t => ((t.plot 3).power, t.rowBufs)) = some (.selfRefresh, [(7, 1)]) ∧
    ((busy (plotted {} .powerDown)).liveAccs 3 = true ∧ (plotted {} .powerDown).liveAccs 3 = false ∧
      got (exec .powerRequest (busy (plotted {} .powerDown))) (fun t => ((t.plot 3).power, (t.plot 3).deferred)) = some (.active, some (.powerDown, 9)) ∧
      got (exec .powerRequest (busy (plotted {} .powerDown true))) (fun t => ((t.plot 3).power, t.parkedRows, t.riders.map fun r => r.2.status)) = some (.powerDown, [], [2 ^ 9])) ∧
    (let s := plotted {} .powerDown true; let u := { s with focus := { s.focus with slot := 1 } }; got (exec .powerRequest u) (fun t => (t.parkedRows, t.rowBufs)) = some ([4096 * 8 * 3 + 5], [(7, 1)])) ∧
    (let s := { plotted {} .powerDown with riders := [(0, { rider 5 .aboard with held := [(3, 0)] })] }; s.heldIn 3 = true ∧
      got (exec .powerRequest s) (fun t => (t.plot 3).deferred) = some (some (.powerDown, 9))) ∧
    ([plotted { power := .selfRefresh } .powerDown, plotted {} .active, plotted {} .powerDown false 4096].all fun s => refuses (exec .powerRequest s)) = true ∧
    got (exec .plotWake (plotted { power := .powerDown } .active)) (fun t => (t.plot 3).power) = some .active ∧ refuses (exec .plotWake (plotted {} .active)) = true ∧
    refuses (exec .coreWatchdog { beating 3 with cycle := 99 }) = true ∧ got (exec .coreWatchdog (beating 2)) (fun t => ((t.core 0).beatSame, t.notices.length)) = some (3, 0) ∧
    got (exec .coreWatchdog (beating 3)) (fun t => ((t.core 0).beatSame, t.notices.map fun n => n.word0.toNat % 65536)) = some (0, [0x140B]) ∧
    got (exec .coreWatchdog (beating 3 4)) (fun t => ((t.core 0).beatSame, (t.core 0).beatLast, (t.core 0).beatAt)) = some (0, 5, 100 + 2 ^ 24) := by
  decide +kernel

theorem witness_HeatPowerAndErrorsAreHandled_lines :
    ((broken 1 false).sliceFind 0 0 0x2000000).isSome = true ∧ refuses (exec .edgeLineError (broken 1 false 0x100000080)) = true ∧
    got (exec .edgeLineError (broken 1 false)) (fun t => ((t.set 0 0x2000000).length, t.poisoned, t.retired)) = some (0, [0x2000000], []) ∧
    got (exec .edgeLineError (broken 0 true)) (fun t => ((t.set 0 0x2000000).length, t.retired, t.notices.map fun n => n.word0.toNat % 65536)) = some (0, [0x100000], [0x1105, 0x1106]) ∧
    got (exec .edgeLineError (broken 0 false)) (fun t => ((t.set 0 0x2000000).map (·.data), t.notices.map fun n => n.word0.toNat % 65536)) = some ([9], [0x1105]) := by
  decide +kernel

/-! ### Links, the host and the management controller -/

/-- Link 2 of device 4, up with `peer` or down, in rank 9 of pass 1 and cycle 100 of its step. -/
def linked (up : Bool) (peer : Nat := 1) (f : Focus := { link := 2, index := 7 }) : State :=
  { regs [] with hub := { device := 4, links := [(2, { up := up, peer := peer, low := peer })], locked := true }, focus := f, cursor := 9, passNo := 1, stepCyc := 100 }

/-- R283, R400: the digests D3 of replicas 0 and 2, whose window of 16 bytes stands in word 8 of the card as R212 lays it out. -/
theorem test_digest :
    let card : List Word := [0x00000013C6221C74, 0x000000F000001000, 0x3F000000, 0x40200000, 0, 0, 0, 0]
    rowDigest card 0 0 1 0x3F000000BF8000003F8000003E800000 = 0x4E2E69A6C6B074E5159CDCA64F259364 ∧
    rowDigest card 0 0 1 0x3F000000BF8000003F8000003E800004 = 0x4E2E69A6C6B074E78E7AC38C4C4F83B8 := by
  decide +kernel

/-- R380, R382, R386. -/
theorem test_links :
    got (exec .linkUp (linked false)) (fun t => ((t.link 2).up, (t.link 2).peer)) = some (true, 7) ∧
    ([linked true, linked false 1 { link := 16 }, linked false 1 { link := 2, index := 1024 }].all fun s => refuses (exec .linkUp s)) = true ∧
    got (exec .linkDown { linked true with colls := [(0, member (descr 5 0 0))] }) (fun t => ((t.link 2).up, t.hub.locked, t.colls.map fun c => (c.2.result.map fun r => (r.outcome, r.detail.toNat)))) =
      some (false, false, [some (2, 0x10002)]) ∧
    refuses (exec .linkDown (linked false)) = true ∧
    got (exec .passMarker (linked true 1 { link := 2, index := 1, slot := 10, place := 8, src := 1 })) (fun t => (t.stepCyc, t.hub.trimmed, (t.link 2).cursor, (t.link 2).low)) = some (108, true, 10, 1) ∧
    got (exec .passMarker (linked true 1 { link := 2, index := 1, slot := 9, place := 8, src := 1 })) (·.stepCyc) = some 92 ∧
    got (exec .passMarker (linked true 4 { link := 2, index := 1, slot := 10, place := 8, src := 4 })) (fun t => (t.stepCyc, t.hub.trimmed)) = some (100, false) ∧
    got (exec .passMarker { linked true 3 { link := 2, index := 1, slot := 10, place := 8, src := 3 } with hub := { device := 4, links := [(0, { up := true, peer := 1, low := 1 }), (2, { up := true, peer := 3, low := 3 })] } })
      (fun t => (t.stepCyc, t.hub.trimmed)) = some (100, false) ∧
    got (exec .passMarker { linked true 4 { link := 2, index := 0, slot := 4095, src := 1 } with cursor := 0, hub := { device := 4, links := [(2, { up := true, peer := 1 })] } }) (·.hub.locked) = some true ∧
    ([linked false 1 { link := 2 }, linked true 1 { link := 2, slot := 4096 }, linked true 1 { link := 2, place := 9 }].all fun s => refuses (exec .passMarker s)) = true := by
  decide +kernel

/-- R382, R386: the lowest device joins; a marker of the master that is far off, and one of another device, with a collective in flight. -/
theorem test_domain_lock :
    got (exec .passMarker { linked true 1 { link := 2, index := 0, slot := 4095, src := 1 } with cursor := 0, hub := { links := [(2, { up := true, peer := 1, low := 1 })] } }) (·.hub.locked) = some true ∧
    got (exec .passMarker { linked true 1 { link := 2, index := 5, src := 1 } with colls := [(0, member (descr 5 0 0))] }) (fun t => (t.hub.locked, t.colls.map fun c => (c.2.result.map fun r => (r.outcome, r.detail.toNat)))) =
      some (false, [some (2, 0x10002)]) ∧
    got (exec .passMarker { linked true 1 { link := 2, index := 5, src := 1 } with colls := [(0, member (descr 5 0 0))], hub := { links := [(2, { up := true, peer := 1, low := 1 })], locked := true } })
      (fun t => (t.hub.locked, t.colls.map fun c => (c.2.result.map fun r => r.outcome))) = some (true, [some 2]) := by
  decide +kernel

/-- An event of the host or the runtime about the focus. -/
def asked (f : Focus) : State := { regs [] with focus := f, groups := [(5, pair)], retired := [0x100], poisoned := [0x3000], mem := Memory.write [] 0x1000 2 0x0605 }

/-- R254, R361, R377, R378, R381, R383. -/
theorem test_host :
    got (exec .groupTableWrite (asked { index := 6, group := some { pair with seq := 3 } })) (fun t => (t.group 0 6).map (·.seq)) = some (some 0) ∧
    got (exec .groupTableWrite (asked { index := 5 })) (·.groups.length) = some 0 ∧
    ([{ index := 256 }, { part := 1 }, { group := some { pair with rank := 1 } }, { group := some { pair with tree := [[0, 3]] } }, { group := some { pair with links := [] } }, { part := numParts }].all fun f => refuses (exec .groupTableWrite (asked f))) = true ∧
    got (exec .frameMaskWrite (asked { part := 0, link := 15, addr := 2 ^ 62 })) (·.hub.masks) = some [(15, 2 ^ 62)] ∧
    ([{ link := 16 }, { addr := 2 ^ 63 }, { part := numParts }].all fun f => refuses (exec .frameMaskWrite (asked f))) = true ∧
    refuses (exec .frameMaskWrite { asked { part := 1, link := 2, addr := 6 } with hub := { masks := [(2, 4)] } }) = true := by
  decide +kernel

/-- R377, R378. -/
theorem test_host_memory :
    got (exec .startRecord (asked { words := 0x20305 :: List.replicate 7 7, addr := 0x2040 })) (fun t => ((t.core 0).starts.map fun r => (r.place, r.strip, r.thread, r.entry), Memory.read t.mem 0x2048 8)) =
      some ([(5, 3, 2, 7)], 7) ∧
    got (exec .startRecord (asked { words := List.replicate 8 7, addr := 0x100040 })) (fun t => (t.hub.refused, (t.core 0).starts.length)) = some (true, 0) ∧
    ([{ words := [7] }, { words := List.replicate 8 7, addr := 8 }, { words := List.replicate 8 7, addr := 2 ^ 37 }, { words := List.replicate 8 7, part := 1 }].all fun f => refuses (exec .startRecord (asked f))) = true ∧
    got (exec .hostMemoryAccess (asked { addr := 0x1000, index := 2 })) (·.hub.reply) = some [5, 6] ∧
    got (exec .hostMemoryAccess (asked { addr := 0x1001, bytes := [9, 8], flag := true })) (fun t => Memory.read t.mem 0x1000 3) = some 0x080905 := by
  decide +kernel

/-- A request of a master to the management controller. -/
def managing (m : Master) (f : Focus := {}) (h : HubSt := {}) : State := { regs [] with focus := { f with master := m }, hub := h }

/-- Core 0 under a claim of the host, with thread 1 stopped by BRK at resume address 0x40. -/
def claimed (m : Master) (f : Focus := {}) : State :=
  ((managing m { f with target := .core 0 }).modCore 0 fun c => { c with claim := some .host }).setThread 1 { run := .stopped, mode := true, brkStop := true, resume := 0x40 }

/-- The request is refused with the state otherwise as it was. -/
def denied (i : Instr) (s : State) : Bool := got (exec i s) (fun t => t.hub.refused && decide ({ t with hub := s.hub, freeCount := s.freeCount } = s)) == some true

/-- R356, R357, R379. -/
theorem test_claims :
    got (exec .breakClaim (managing .host { target := .core 0 })) (fun t => (t.core 0).claim) = some (some .host) ∧ denied .breakClaim (claimed .sideBand) = true ∧
    denied .breakClaim (managing .host { target := .core numCores }) = true ∧ denied .breakRelease (claimed .sideBand) = true ∧
    got (exec .breakRelease (claimed .host)) (fun t => ((t.core 0).claim, (t.thread 1).brkStop)) = some (none, false) ∧
    got (exec .breakResume (claimed .host { thread := 1 })) (fun t => ((t.thread 1).pc, (t.thread 1).run)) = some (0x40, .ready) ∧
    got (exec .breakResume (claimed .host { thread := 1, pc := 0x80 })) (fun t => (t.thread 1).pc) = some 0x80 ∧ denied .breakResume (claimed .host { thread := 0 }) = true := by
  decide +kernel

/-- R367, R379, R392, R393. -/
theorem test_management :
    got (exec .takeResetLock (managing .host {} { sideLock := true })) (fun t => (t.hub.hostLock, t.hub.sideLock, t.hub.refused)) = some (true, true, false) ∧
    got (exec .takeResetLock (managing .sideBand)) (fun t => (t.hub.hostLock, t.hub.sideLock)) = some (false, true) ∧
    got (exec .dropResetLock (managing .host {} { hostLock := true, sideLock := true })) (fun t => (t.hub.hostLock, t.hub.sideLock)) = some (false, true) ∧
    denied .dropResetLock (managing .host {} { sideLock := true }) = true ∧
    got (exec .loadFirmware (managing .sideBand { index := 5, flag := true })) (·.hub.firmware) = some 5 ∧ denied .loadFirmware (managing .host { index := 5, flag := true }) = true ∧
    got (exec .loadFirmware (managing .host { index := 5, flag := true } { phase := .recovery })) (·.hub.firmware) = some 5 ∧
    denied .powerOn (managing .sideBand) = true ∧ got (exec .powerOff (managing .sideBand)) (·.powered) = some false ∧ denied .powerOff (managing .host) = true ∧
    got (exec .checkpoint (managing .host { index := 0x103 })) (fun t => (t.hub.ckpt, t.hub.copy.mask, t.hub.copy.share)) = some (.asked, 3, 1) ∧ denied .checkpoint (managing .host {} { ckpt := .frozen }) = true ∧
    got (exec .checkpointRelease (managing .host {} { ckpt := .frozen, copy := { rank := 4096, piece := 4096 } })) (·.hub.ckpt) = some .acked ∧
    ([{}, { ckpt := .frozen, copy := { rank := 4095, piece := 4096 } }, { ckpt := .frozen, copy := { rank := 4096, piece := 4095 } }].all fun h => refuses (exec .checkpointRelease (managing .host {} h))) = true ∧
    (let s := { managing .host {} { ckpt := .frozen, copy := { left := 1 } } with mem := [(5, 6), (2 ^ 25, 7)] }; let c := s.tierStep.hub.copy; (c.rank, c.left, c.piece, c.mem) = (1, 0, 1, [(5, 6)])) := by
  decide +kernel

/-- A start: of two partitions, of the default one, the third failure, a failure, none. -/
theorem test_boot :
    (let f : Focus := { flag := true, words := [0x101, 0x202], images := [[6], [7]], index := 5, links := [(2, { peer := 1, low := 1 })] };
      got (exec .boot (managing .host f { phase := .starting })) (fun t => ((t.part 0).dies, (t.part 1).strips, t.hub.phase, Memory.get t.mem (localBase 0), Memory.get t.mem (localBase 9))) = some (1, 2, .running, 6, 7) ∧
      got (exec .boot (managing .host f { phase := .starting })) (fun t => (t.hub.device, t.hub.locked, (t.link 2).up, Memory.get t.mem (localBase 1))) = some (5, true, true, 0)) ∧
    got (exec .boot (managing .host { index := 7 } { phase := .starting, failures := 2 })) (fun t => (t.hub.phase, t.hub.reason)) = some (.recovery, 7) ∧
    got (exec .startTimeout (managing .host {} { phase := .starting })) (fun t => (t.hub.phase, t.hub.reason)) = some (.starting, 8) ∧
    refuses (exec .boot (managing .host)) = true ∧ refuses (exec .startTimeout (managing .host)) = true ∧ (shapeOk 0x101 = true ∧ shapesApart [0x101, 0x102] = true ∧ shapesApart [0x101, 0x103] = false) := by
  decide +kernel

theorem witness_LinksAndHostReachTheDevice :
    (let s := asked { addr := 0x100000, index := 1 }; got (exec .hostMemoryAccess s) (·.hub.refused) = some true) ∧
    got (exec .hostMemoryAccess (asked { addr := 0x17FFFF, index := 1 })) (·.hub.refused) = some false ∧ got (exec .hostMemoryAccess (asked { addr := 0x180000, index := 1 })) (·.hub.refused) = some true ∧
    refuses (exec .hostMemoryAccess (asked { addr := 2 ^ 52, index := 1 })) = true ∧ got (exec .hostMemoryAccess (asked { addr := 0x100001 })) (fun t => (t.hub.refused, t.hub.reply)) = some (false, []) ∧ got (exec .hostMemoryAccess (asked { addr := 2 ^ 37 - 1, index := 1 })) (·.hub.reply) = some [0] ∧
    got (exec .poisonMarkClear (asked { addr := 0x100FFF, flag := true })) (·.retired) = some [] ∧ got (exec .poisonMarkClear (asked { addr := 0x180010 })) (·.poisoned) = some [] ∧
    groupLegal 0 0 pair = true ∧ groupLegal 0 1 pair = false := by
  decide +kernel

theorem witness_ManagementRequestsAreServed :
    got (exec .readNotices (managing .host { index := 2 })) (·.hub.reply) = some [768] ∧
    (let s := managing .host {} { hostLock := true }; s.lockedOut .host = false ∧ (s.part 0).dies ≠ 0 ∧
      got (exec .partitionReset (s.modPart 0 fun p => { p with on := true })) (fun t => ((t.part 0).on, (t.part 0).dies)) = some (false, 0xF)) ∧
    denied .partitionReset (managing .host { part := 1 }) = true ∧
    got (exec .partitionReset (managing .host { bytes := [7] })) (fun t => (Memory.get t.mem (localBase 9), (t.core 9).inReset)) = some (7, false) ∧
    got (exec .partitionReset (managing .host { bytes := [7] } { phase := .recovery })) (fun t => (Memory.get t.mem (localBase 9), (t.core 9).inReset)) = some (0, true) ∧
    got (exec .breakResume (claimed .host { thread := 1, pc := 0x83 })) (fun t => (t.thread 1).pc) = some 0x80 ∧
    got (exec .deviceReset { managing .host with cycle := 8, cursor := 3 }) (fun t => (t.cycle, t.cursor, t.hub.phase, (t.core 9).inReset)) = some (0, 0, .starting, true) ∧
    denied .deviceReset (managing .host {} { sideLock := true }) = true ∧ denied .partitionReset (managing .sideBand {} { hostLock := true }) = true ∧
    got (exec .deviceReset { managing .sideBand {} { sideLock := true } with powered := false }) (fun t => (t.hub.sideLock, t.powered)) = some (false, false) ∧
    (let s := { managing .sideBand with powered := false }; got (exec .powerOn s) (fun t => (t.powered, t.hub.phase)) = some (true, .starting)) ∧
    (let s := (managing .host { thread := 1 }).setThread 1 { run := .stopped, mode := true, resume := 0x40 };
      got (exec .runtimeThreadRestart s) (fun t => ((t.thread 1).pc, (t.thread 1).run)) = some (0x40, .ready) ∧
      got (exec .runtimeThreadRestart { s with focus := { thread := 1, pc := 0x83 } }) (fun t => (t.thread 1).pc) = some 0x80 ∧
      got (exec .runtimeThreadRestart { s with focus := { thread := 0 } }) (fun t => (t.thread 0).run) = some .ready ∧
      refuses (exec .runtimeThreadRestart { s with focus := { thread := numThreads } }) = true) ∧
    (let f : Focus := { master := .sideBand }; let g : Focus := { master := .host }; sideBandRequest .powerOn f = true ∧ sideBandRequest .powerOn g = false ∧ { State.reset with powered := false }.agenda = []) := by
  decide +kernel

/-! ### Encodings, the invariant and the step -/

/-- A headland instruction, a slot operation and a step of another agent: their words, if they have them. -/
theorem witness_EncodedInstructionsDecodeToThemselves :
    (Instr.addi 12 12 1).wf = true ∧ encode (.addi 12 12 1) = some 0x058C0001 ∧ encodeSlot (.addi 12 12 1) = none ∧
    (let f : SlotFields := { action := 1, srcA := 0, srcB := 1, dst0 := 5, dst1 := 63, qual := 0x05, extra := 0, ext := 0 };
      (Instr.slotAdd f).wf = true ∧ encodeSlot (.slotAdd f) = some (0x1010117F, 0x05000000) ∧ encode (.slotAdd f) = none) ∧
    Instr.stepBoundary.wf = true ∧ encode .stepBoundary = none ∧ encodeSlot .stepBoundary = none := by
  decide +kernel

/-- A word of each kind that decodes. -/
theorem witness_DecodedWordsEncodeBack :
    decodeWord 0x058C0001 = .ok (.addi 12 12 1) ∧
    decodeSlot 0x1010117F 0x05000000 = .ok (.slotAdd { action := 1, srcA := 0, srcB := 1, dst0 := 5, dst1 := 63, qual := 0x05, extra := 0, ext := 0 }) := by
  decide +kernel

/-- R42: an unassigned word, an illegal function code and a reserved bit; R43, R46, R48: an opcode, a source, a destination and an action that name nothing. -/
theorem test_reserved_words :
    (decodeWord 0xFFFFFFFF).toOption = none ∧ (decodeWord 0x00000600).toOption = none ∧ (decodeWord 0x1CA60040).toOption = none ∧ (decodeWord 0xFC030001).toOption = none ∧
    (decodeSlot 0x5B0018BF 0).toOption = none ∧ (decodeSlot 0x10077FFF 0).toOption = none ∧ (decodeSlot 0x10A018BF 0).toOption = none := by
  decide +kernel

/-- After reset memory is canonical, and a step that stores goes on: the store that thread 0 of core 0 has buffered is performed. -/
theorem witness_EveryStepKeepsMemoryCanonical : State.reset.memOk ∧
    got (step { State.reset.modCore 0 fun c => { c with stores := [stored (localBase 0) 5] } with agenda := [.event .storeBufferDrain {}] }) (fun t => t.mem) = some [(localBase 0, 5)] := by
  refine ⟨?_, ?_⟩
  · unfold State.memOk; decide
  · decide +kernel

/-- With nothing due, thread 0 is picked, its fetch succeeds, and ADDI decodes; a pc outside local memory; the last core's turn; a thread that waits. -/
theorem witness_AStepRunsTheDecodedInstruction :
    (let s := State.reset.withFetchWord 32 0x04200005; s.powered = true ∧ s.agenda = [.issue 0] ∧ s.pick 0 = some 0 ∧
      (let v := { s.setCore 0 { s.core 0 with issuePtr := 1 } with focus := { thread := 0 } }; let r := fetchTarget v 0;
        r.2.toOption.isSome = true ∧ (r.2.toOption.map fun g => decodeWord (r.1.fetchWord 0 g).2) = some (.ok (.addi 1 0 5))) ∧
      got (step s) (fun t => (t.gpr 1, t.pc, t.turn, (t.core 0).issuePtr)) = some (5, 4, 1, 1)) ∧
    (let s := State.reset.modPart 0 fun p => { p with reported := true }; s.agenda = [] ∧ s.due = none ∧ s.pick 0 = some 0 ∧ got (step s) (·.turn) = some 1) ∧
    (let s := thr fun t => { t with pc := 0x80000 }; (fetchTarget { s with focus := { thread := 0 } } 0).2.toOption = none) ∧
    (asleep .pause 0 0).pick 0 = none ∧ numCores ≤ ({ State.reset with turn := 31 } : State).turn + 1 ∧
    (let s := ending; s.due = some (.stepBoundary, {}) ∧ got (step s) (·.cursor) = some 8) ∧
    (let s := (planted copySlot [{ held 0 [5] with slot := 1 }]); (slotInstr s 0 1).isSome = true ∧ got (step { s with agenda := [.fire 0 1 tag7] }) (fun t => (t.elem 0).outq.length) = some 1) ∧
    got (step { State.reset with agenda := [.event .linkUp { link := 2, index := 7 }] }) (fun t => (t.link 2).peer) = some 7 := by
  decide +kernel

/-- In one cycle core 0's thread arrives at barrier 0 and core 1's writes its BARCFG: the writer goes first, and its core's turn then only goes on. -/
def racing : State :=
  { State.reset.modPart 0 fun p => { p with reported := true } with
    mem := Memory.write (Memory.write [] (localBase 0) 4 ((encode (.bar 5 6)).getD 0).toNat) (localBase 1) 4 ((encode (.barcfgWrite .write 0 5 6)).getD 0).toNat }

theorem witness_AStepRunsTheDecodedInstruction_writer :
    racing.due = none ∧ racing.pick 0 = some 0 ∧ racing.writerFirst 0 = some 4 ∧ got (step racing) (fun t => ((t.thread 4).pc, (t.core 1).ahead, t.turn)) = some (4, 1, 0) ∧
    (let s := { racing.modCore 1 fun c => { c with ahead := 1 } with turn := 1 }; (s.core 1).ahead = s.cycle + 1 ∧ got (step s) (·.turn) = some 2) := by
  decide +kernel

/-- A word that names no instruction raises the trap of R42. -/
theorem test_unassigned_word : got (step (State.reset.withFetchWord 32 0xFFFFFFFF)) (fun t => (t.gpr 1, (t.thread 0).scause)) = some (0, 1) := by
  decide +kernel


/-! ### More witnesses -/

/-- An atomic on translated memory that holds 5: through the coherent path, and at the hub. -/
theorem witness_AtomicsReadAndWriteAsOneAction_translated :
    let s := withRegs (loading []) [(2, 3)]; let u := { s with mem := Memory.write s.mem 0x100000000 8 5 };
    (u.resolve 0 (u.gpr 1) .atomic).2 = .ok hubTarget ∧
    got (exec (.amoAdd .plot .dword 3 1 2) u) (fun t => (t.gpr 3, (t.coherentRead 0 0 0x100000000 8).2)) = some (5, 8) ∧
    got (exec (.amoAdd .device .dword 3 1 2) u) (fun t => (t.gpr 3, Memory.read t.mem 0x100000000 8)) = some (5, 8) := by
  decide +kernel

/-- A table that may still be withdrawn within the last 1024 cycles: it lets this wrap go by. -/
theorem witness_PlaceAndRotationWrites_skip :
    (let s := ({ sup2 1 with cursor := 4094, stepCyc := 536 }).modPart 0 fun p => { p with arm := true, armSkip := some 0 }; s.wrapIn ≤ 1024 ∧ (s.part 0).armSkip = some s.passNo ∧
      got (exec (.armWithdraw 3 6) s) (fun t => (t.part 0).arm) = some false) ∧
    (let s := ({ sup2 1 with cursor := 4094, stepCyc := 536 }).modPart 0 fun p => { p with arm := true }; s.wrapHeldUp 0 = false ∧
      got (exec (.armWithdraw 3 6) s) (fun t => (t.part 0).arm) = some true) := by
  decide +kernel

/-- An asynchronous trap without any vector; a held SOW. -/
theorem witness_FetchFaultsAndPendingTraps_stop :
    (let s := tenanted.modMe fun t => { t with pend := [watchdog], ae := true, tvec := 0 }; s.asyncDue 1 = true ∧ (s.thread 1).mode = false ∧ (s.core 0).stvec = 0 ∧
      got (exec .asyncTrapEntry s) (fun t => (t.cur.run, t.cur.scause, t.notices.length)) = some (.stopped, 0x8000000000000014, 1)) ∧
    (let s := tenanted.modMe fun t => { t with pend := [watchdog], ae := true, wait := { code := .sow } }; s.cur.run = .ready ∧ refuses (exec .asyncTrapEntry s) = true) := by
  decide +kernel

/-- R215, R295: the reason of BOARD READ of this card. -/
def reasonOf (c : List Nat) : Option Nat := got (exec (.boardRead 3 1 2) (boarding c)) fun t => ((t.gpr 3).toNat - 2 ^ 63) / 256

theorem witness_RequestsJoinTheAdmissionQueue_reasons :
    reasonOf (card 1 0 0 1 0) = some 2 ∧ reasonOf [2 ^ 17, 2 ^ 12 + 2 ^ 36 * 7] = some 4 ∧ reasonOf [2 ^ 17 + 2 ^ 36, 2 ^ 36 * 7] = some 5 ∧ reasonOf (card 0 0 0 0 0) = some 6 ∧
    reasonOf (card 0 0 0 1 (2 ^ 32)) = some 8 ∧ reasonOf (card 0 0 0 1 (2 ^ 35)) = some 9 := by
  decide +kernel

/-- A line that the data cache alone holds dirty, cleaned to the slice and to hub memory. -/
theorem witness_CacheMaintenanceCompletes_lines :
    let s := { cached 0x40000000 1 with slices := [] };
    ((s.maintainPage 0 0x40000000 0x4000007F .l1 { clean := true, drop := false }).sliceFind 0 0 0x2000000).map (fun w => (w.data % 256, w.dirty)) = some (5, 1) ∧
    Memory.get (s.maintainPage 0 0x40000000 0x4000007F .all { clean := true, drop := false }).mem 0x100000000 = 5 ∧ s.partOf 0 < numParts := by
  decide +kernel

/-- A generator that has ended but whose completion is owed: GSTART runs again. -/
theorem witness_GeneratorsMoveTheirBlocks_owed :
    (let s := (boarding pushCard).setGen 0 { state := 1, owed := some 3 }; (s.gen 0).owed.isSome = true ∧ got (exec (.gstart 3 1) s) (fun t => decide (t = s)) = some true) := by
  decide +kernel

/-- Tenant 2's slot alone, in the gap before it; tenant 1's slot of a whole pass, with a table that waits and a hold. -/
def inGap : State := (rotatingAt 1 fun t => { t with predictor := [(3, 1)] }).modPart 0 fun p => { p with active := [(1, 0x8000000200FFF800)] }
def waitingTable : State :=
  { (rotatingAt 1).modPart 0 fun p => { p with active := [(0, 0x8000000100FFF000)], arm := true, armed := [(0, 0x8000000200FFF000)] } with cursor := 4094 }

/-- R330, R331: the record of thread 1 and the mark of its place; the guard out of a gap; a wrap passed over; the edge. -/
theorem witness_StepsEndAndSlotsChange_guard :
    (let s := rotatingAt 1; let a := localBase 0 + 0x11400; s.recordAt 1 = some a ∧ s.placeOf 0 1 = some 1 ∧
      got (exec .guard s) (fun t => (Memory.read t.mem a 8, Memory.read t.mem (a + 8) 8, (t.place 0 1).saved, (t.thread 1).savedRun)) = some (1, 0, true, .ready)) ∧
    (inGap.running 0 = 0 ∧ inGap.guardDue 0 = true ∧ inGap.guardSkips 0 = false ∧
      got (exec .guard inGap) (fun t => ((t.part 0).inGuard, (t.thread 1).predictor, t.elems.length)) = some (true, [], 1)) ∧
    (waitingTable.guardDue 0 = true ∧ waitingTable.guardSkips 0 = true ∧ got (exec .guard waitingTable) (fun t => ((t.part 0).armSkip, (t.part 0).inGuard)) = some (some 0, false)) ∧
    (let s := { rotating.modPart 0 fun p => { p with inGuard := true } with cursor := 2047, stepCyc := 768 }; let u := s.modPlace 0 2 fun x => { x with saved := true }; u.edgeIn 0 = some 0 ∧
      got (exec .stepBoundary u) (fun t => ((t.part 0).inGuard, t.running 0, (t.place 0 2).saved)) = some (false, 2, false)) := by
  decide +kernel

/-- R331, R354, R355: the element's area, what comes back from it and from where there is none; a thread's record. -/
theorem witness_StepsEndAndSlotsChange_restore :
    (let x : ElemSt := { fpf := 9, modq := [(3, 97)] }; let v := saveArea x 5 7 0 fun _ => 0;
      (v % 2 ^ 64, v / 2 ^ (8 * 0x504) % 2 ^ 32, v / 2 ^ (8 * 0x520) % 2 ^ 64) = (5, 9, 97)) ∧
    (tenanted.saveAt 0 1 = none ∧ (tenanted.elem 0).activeOf = none ∧ ((tenanted.restoreElem 1 (1, { fpf := 9 })).elem 0).fpf = 9) ∧
    (let s := { tenanted with windows := [(1, { scrbase := 0, scrlim := 0x80000 })] }; let a := scratchBase 0 + 0x78000; s.saveAt 0 1 = some a ∧
      (({ s with mem := Memory.write s.mem (a + 0x504) 4 9 }.restoreElem 1 (1, {})).elem 0).fpf = 9) ∧
    (let s := tenanted.modThread 1 fun t => { t with run := .resting, savedRun := .ready }; let a := localBase 0 + 0x11400;
      let u := { s with mem := Memory.write (Memory.write s.mem a 8 1) (a + 8) 8 0x40 }; u.recordAt 1 = some a ∧
      ((u.restoreThread 1).thread 1).run = .ready ∧ ((u.restoreThread 1).thread 1).pc = 0x40) := by
  decide +kernel

/-- R379: both masters' requests in one cycle. -/
theorem witness_AStepRunsTheDecodedInstruction_masters :
    got (step { State.reset with agenda := [.event .takeResetLock { master := .sideBand }, .event .poisonMarkClear {}, .event .takeResetLock {}] })
      (fun t => (t.hub.hostLock, t.hub.sideLock, t.agenda.length)) = some (true, false, 2) ∧
    got (step { State.reset with agenda := [.event .takeResetLock { master := .sideBand }, .issue 0, .event .takeResetLock {}] }) (fun t => (t.hub.hostLock, t.hub.sideLock)) = some (false, true) := by
  decide +kernel
end Sys2Proof.Tests
end

section
/-! O57: the canonical form of memory is kept by every step. The laws say it of each meaning; here they are put together over the dispatch, an
activity, a core's turn and the step. -/

namespace Sys2Proof.Machine

/-! ### What each activity does, one equation for each kind -/

theorem runAct_event (i : Instr) (f : Focus) (s : State) :
    runAct (.event i f) s = if s.powered || sideBandRequest i f then exec i { s with focus := f } else .fault .poweredOff := rfl

theorem runAct_fire (e n : Nat) (g : Tag) (s : State) :
    runAct (.fire e n g) s = if !s.powered then .fault .poweredOff else match slotInstr s e n with
      | some i => exec i { s with focus := { elem := e, slot := n, tag := g } }
      | none => .refused .notEnabled := rfl

theorem runAct_issue (c : Nat) (s : State) : runAct (.issue c) s = if s.powered then issueCore s c else .fault .poweredOff := rfl

/-- Every instruction, and every step of another agent, keeps the canonical form of memory. -/
theorem exec_keeps_memory_wf (i : Instr) (s : State) (hs : Memory.wf s.mem = true) : Out.All (fun t => Memory.wf t.mem = true) (exec i s) :=
  match i with
  | .add d a b => (execAdd_mem d a b s).mem_wf hs
  | .sub d a b => (execSub_mem d a b s).mem_wf hs
  | .and d a b => (execAnd_mem d a b s).mem_wf hs
  | .or d a b => (execOr_mem d a b s).mem_wf hs
  | .xor d a b => (execXor_mem d a b s).mem_wf hs
  | .andn d a b => (execAndn_mem d a b s).mem_wf hs
  | .shl d a b => (execShl_mem d a b s).mem_wf hs
  | .shr d a b => (execShr_mem d a b s).mem_wf hs
  | .sar d a b => (execSar_mem d a b s).mem_wf hs
  | .slt d a b => (execSlt_mem d a b s).mem_wf hs
  | .sltu d a b => (execSltu_mem d a b s).mem_wf hs
  | .min d a b => (execMin_mem d a b s).mem_wf hs
  | .max d a b => (execMax_mem d a b s).mem_wf hs
  | .minu d a b => (execMinu_mem d a b s).mem_wf hs
  | .maxu d a b => (execMaxu_mem d a b s).mem_wf hs
  | .mul d a b => (execMul_mem d a b s).mem_wf hs
  | .mulh d a b => (execMulh_mem d a b s).mem_wf hs
  | .mulhu d a b => (execMulhu_mem d a b s).mem_wf hs
  | .mulhsu d a b => (execMulhsu_mem d a b s).mem_wf hs
  | .div d a b => (execDiv_mem d a b s).mem_wf hs
  | .divu d a b => (execDivu_mem d a b s).mem_wf hs
  | .rem d a b => (execRem_mem d a b s).mem_wf hs
  | .remu d a b => (execRemu_mem d a b s).mem_wf hs
  | .clz d a => (execClz_mem d a s).mem_wf hs
  | .ctz d a => (execCtz_mem d a s).mem_wf hs
  | .popc d a => (execPopc_mem d a s).mem_wf hs
  | .bswap d a => (execBswap_mem d a s).mem_wf hs
  | .sextb d a => (execSextb_mem d a s).mem_wf hs
  | .sexth d a => (execSexth_mem d a s).mem_wf hs
  | .sextw d a => (execSextw_mem d a s).mem_wf hs
  | .zextb d a => (execZextb_mem d a s).mem_wf hs
  | .zexth d a => (execZexth_mem d a s).mem_wf hs
  | .zextw d a => (execZextw_mem d a s).mem_wf hs
  | .addi d a imm => (execAddi_mem d a imm s).mem_wf hs
  | .andi d a imm => (execAndi_mem d a imm s).mem_wf hs
  | .ori d a imm => (execOri_mem d a imm s).mem_wf hs
  | .xori d a imm => (execXori_mem d a imm s).mem_wf hs
  | .slti d a imm => (execSlti_mem d a imm s).mem_wf hs
  | .sltiu d a imm => (execSltiu_mem d a imm s).mem_wf hs
  | .shli d a amt => (execShli_mem d a amt s).mem_wf hs
  | .shri d a amt => (execShri_mem d a amt s).mem_wf hs
  | .sari d a amt => (execSari_mem d a amt s).mem_wf hs
  | .lui d imm => (execLui_mem d imm s).mem_wf hs
  | .lus d imm => (execLus_mem d imm s).mem_wf hs
  | .addpc d imm => (execAddpc_mem d imm s).mem_wf hs
  | .ld sz sx d a off => execLd_wf sz sx d a off s hs
  | .st sz d a off => execSt_wf sz d a off s hs
  | .amoAdd sc sz d a b => execAmoAdd_wf sc sz d a b s hs
  | .amoAnd sc sz d a b => execAmoAnd_wf sc sz d a b s hs
  | .amoOr sc sz d a b => execAmoOr_wf sc sz d a b s hs
  | .amoXor sc sz d a b => execAmoXor_wf sc sz d a b s hs
  | .amoMin sc sz d a b => execAmoMin_wf sc sz d a b s hs
  | .amoMax sc sz d a b => execAmoMax_wf sc sz d a b s hs
  | .amoMinu sc sz d a b => execAmoMinu_wf sc sz d a b s hs
  | .amoMaxu sc sz d a b => execAmoMaxu_wf sc sz d a b s hs
  | .amoSwap sc sz d a b => execAmoSwap_wf sc sz d a b s hs
  | .amoIncw sc sz d a b => execAmoIncw_wf sc sz d a b s hs
  | .amoBfadd sc sz d a b => execAmoBfadd_wf sc sz d a b s hs
  | .amoFmin sc d a b => execAmoFmin_wf sc d a b s hs
  | .amoFmax sc d a b => execAmoFmax_wf sc d a b s hs
  | .amoFadd sc d a b => execAmoFadd_wf sc d a b s hs
  | .cas sc sz d a b => execCas_wf sc sz d a b s hs
  | .beq a b off => (execBeq_mem a b off s).mem_wf hs
  | .bne a b off => (execBne_mem a b off s).mem_wf hs
  | .blt a b off => (execBlt_mem a b off s).mem_wf hs
  | .bge a b off => (execBge_mem a b off s).mem_wf hs
  | .bltu a b off => (execBltu_mem a b off s).mem_wf hs
  | .bgeu a b off => (execBgeu_mem a b off s).mem_wf hs
  | .jal d off => (execJal_mem d off s).mem_wf hs
  | .jalr d a imm => execJalr_wf d a imm s hs
  | .csrr d n => execCsrr_wf d n s hs
  | .csrw d a n => execCsrw_wf d a n s hs
  | .csrs d a n => execCsrs_wf d a n s hs
  | .csrc d a n => execCsrc_wf d a n s hs
  | .tstatWrite k d a => execTstatWrite_wf k d a s hs
  | .tlbiWrite k d a => execTlbiWrite_wf k d a s hs
  | .trunWrite k d a => execTrunWrite_wf k d a s hs
  | .rotctlArm d a => execRotctlArm_wf d a s hs
  | .armWithdraw d a => execArmWithdraw_wf d a s hs
  | .soleWrite d a => execSoleWrite_wf d a s hs
  | .barcfgWrite k n d a => execBarcfgWrite_wf k n d a s hs
  | .occWrite k n d a => execOccWrite_wf k n d a s hs
  | .placeRegisterWrite k r d a => execPlaceRegisterWrite_wf k r d a s hs
  | .twaysWrite k d a => execTwaysWrite_wf k d a s hs
  | .fenceAcq sc => (execFenceAcq_mem sc s).mem_wf hs
  | .fenceRel sc => execFenceRel_wf sc s hs
  | .fenceFull sc => execFenceFull_wf sc s hs
  | .wait d a b => execWait_wf d a b s hs
  | .waite d a b => execWaite_wf d a b s hs
  | .bar d a => (execBar_mem d a s).mem_wf hs
  | .barw d a => (execBarw_mem d a s).mem_wf hs
  | .barq d a => (execBarq_mem d a s).mem_wf hs
  | .hold d => (execHold_mem d s).mem_wf hs
  | .unhold => (execUnhold_mem s).mem_wf hs
  | .spawn d a b => execSpawn_wf d a b s hs
  | .exit => execExit_wf s hs
  | .yield => (execYield_mem s).mem_wf hs
  | .pause a => (execPause_mem a s).mem_wf hs
  | .inj d a b => execInj_wf d a b s hs
  | .recv d => (execRecv_mem d s).mem_wf hs
  | .ctxa d a => execCtxa_wf d a s hs
  | .ctxf a => execCtxf_wf a s hs
  | .sow d a b => execSow_wf d a b s hs
  | .swap d a => (execSwap_mem d a s).mem_wf hs
  | .fallow lvl d a => (execFallow_mem lvl d a s).mem_wf hs
  | .haltr d a => execHaltr_wf d a s hs
  | .resumer d a => execResumer_wf d a s hs
  | .ecfgw d a b => (execEcfgw_mem d a b s).mem_wf hs
  | .ecfgr d a => (execEcfgr_mem d a s).mem_wf hs
  | .boardRead d a b => execBoardRead_wf d a b s hs
  | .boardFilter d a b => execBoardFilter_wf d a b s hs
  | .boardSum d a b => execBoardSum_wf d a b s hs
  | .boardFeed d a b => execBoardFeed_wf d a b s hs
  | .boardUpdate d a b => execBoardUpdate_wf d a b s hs
  | .boardAtom d a b => execBoardAtom_wf d a b s hs
  | .boardFill d a b => execBoardFill_wf d a b s hs
  | .boardDrain d a b => execBoardDrain_wf d a b s hs
  | .boardDigest d a b => execBoardDigest_wf d a b s hs
  | .boardCancel d a => (execBoardCancel_mem d a s).mem_wf hs
  | .clean lvl a b => execClean_wf lvl a b s hs
  | .inval lvl a b => execInval_wf lvl a b s hs
  | .clinv lvl a b => execClinv_wf lvl a b s hs
  | .gstart d a => execGstart_wf d a s hs
  | .gstop d a => execGstop_wf d a s hs
  | .gstat d a => (execGstat_mem d a s).mem_wf hs
  | .allredOrd d a b => execAllredOrd_wf d a b s hs
  | .allredExact d a b => execAllredExact_wf d a b s hs
  | .bcast d a b => execBcast_wf d a b s hs
  | .allgath d a b => execAllgath_wf d a b s hs
  | .redscatOrd d a b => execRedscatOrd_wf d a b s hs
  | .redscatExact d a b => execRedscatExact_wf d a b s hs
  | .digset d a b => execDigset_wf d a b s hs
  | .digcmp d a b => execDigcmp_wf d a b s hs
  | .tcommit d a => (execTcommit_mem d a s).mem_wf hs
  | .tabort d a => (execTabort_mem d a s).mem_wf hs
  | .normrd high n d => (execNormrd_mem high n d s).mem_wf hs
  | .normclr n => (execNormclr_mem n s).mem_wf hs
  | .trap imm => execTrap_wf imm s hs
  | .svc imm => execSvc_wf imm s hs
  | .eret => execEret_wf s hs
  | .halt => execHalt_wf s hs
  | .brk => execBrk_wf s hs
  | .donate => (execDonate_mem s).mem_wf hs
  | .copy f => execCopy_wf f s hs
  | .steer f => execSteer_wf f s hs
  | .merge f => execMerge_wf f s hs
  | .gate f => execGate_wf f s hs
  | .sink f => execSink_wf f s hs
  | .const f => execConst_wf f s hs
  | .iter f => execIter_wf f s hs
  | .count f => execCount_wf f s hs
  | .comb f => execComb_wf f s hs
  | .reap f => execReap_wf f s hs
  | .tagix f => execTagix_wf f s hs
  | .loop f => execLoop_wf f s hs
  | .eos f => execEos_wf f s hs
  | .mail f => execMail_wf f s hs
  | .ord f => execOrd_wf f s hs
  | .slotAdd f => execSlotAdd_wf f s hs
  | .slotSub f => execSlotSub_wf f s hs
  | .slotMul f => execSlotMul_wf f s hs
  | .slotMulh f => execSlotMulh_wf f s hs
  | .mad f => execMad_wf f s hs
  | .slotAnd f => execSlotAnd_wf f s hs
  | .slotOr f => execSlotOr_wf f s hs
  | .slotXor f => execSlotXor_wf f s hs
  | .slotAndn f => execSlotAndn_wf f s hs
  | .slotShl f => execSlotShl_wf f s hs
  | .slotShr f => execSlotShr_wf f s hs
  | .slotSar f => execSlotSar_wf f s hs
  | .slotMin f => execSlotMin_wf f s hs
  | .slotMax f => execSlotMax_wf f s hs
  | .abs f => execAbs_wf f s hs
  | .neg f => execNeg_wf f s hs
  | .cmp f => execCmp_wf f s hs
  | .sel f => execSel_wf f s hs
  | .slotClz f => execSlotClz_wf f s hs
  | .slotPopc f => execSlotPopc_wf f s hs
  | .adds f => execAdds_wf f s hs
  | .subs f => execSubs_wf f s hs
  | .avg f => execAvg_wf f s hs
  | .dot4 f => execDot4_wf f s hs
  | .bext f => execBext_wf f s hs
  | .bins f => execBins_wf f s hs
  | .rotl f => execRotl_wf f s hs
  | .satn f => execSatn_wf f s hs
  | .fadd f => execFadd_wf f s hs
  | .fsub f => execFsub_wf f s hs
  | .fmul f => execFmul_wf f s hs
  | .ffma f => execFfma_wf f s hs
  | .fmin f => execFmin_wf f s hs
  | .fmax f => execFmax_wf f s hs
  | .fabs f => execFabs_wf f s hs
  | .fneg f => execFneg_wf f s hs
  | .fcmp f => execFcmp_wf f s hs
  | .fclass f => execFclass_wf f s hs
  | .frcp f => execFrcp_wf f s hs
  | .frsq f => execFrsq_wf f s hs
  | .fsqrt f => execFsqrt_wf f s hs
  | .fexp2 f => execFexp2_wf f s hs
  | .flog2 f => execFlog2_wf f s hs
  | .ftanh f => execFtanh_wf f s hs
  | .cvt f => execCvt_wf f s hs
  | .packq f => execPackq_wf f s hs
  | .unpackq f => execUnpackq_wf f s hs
  | .plane f => execPlane_wf f s hs
  | .had f => execHad_wf f s hs
  | .setfpc f => execSetfpc_wf f s hs
  | .getfpf f => execGetfpf_wf f s hs
  | .clrfpf f => execClrfpf_wf f s hs
  | .perm f => execPerm_wf f s hs
  | .bfly f => execBfly_wf f s hs
  | .rot f => execRot_wf f s hs
  | .slotBcast f => execSlotBcast_wf f s hs
  | .join f => execJoin_wf f s hs
  | .split f => execSplit_wf f s hs
  | .rsum f => execRsum_wf f s hs
  | .rmax f => execRmax_wf f s hs
  | .rmin f => execRmin_wf f s hs
  | .laneix f => execLaneix_wf f s hs
  | .frsum f => execFrsum_wf f s hs
  | .madd f => execMadd_wf f s hs
  | .msub f => execMsub_wf f s hs
  | .mmul f => execMmul_wf f s hs
  | .mmac f => execMmac_wf f s hs
  | .mct f => execMct_wf f s hs
  | .mgs f => execMgs_wf f s hs
  | .mred f => execMred_wf f s hs
  | .mneg f => execMneg_wf f s hs
  | .mma f => execMma_wf f s hs
  | .mmas f => execMmas_wf f s hs
  | .accrd f => execAccrd_wf f s hs
  | .accclr f => execAccclr_wf f s hs
  | .cturn f => execCturn_wf f s hs
  | .lds f => execLds_wf f s hs
  | .sts f => execSts_wf f s hs
  | .ldsv f => execLdsv_wf f s hs
  | .stsv f => execStsv_wf f s hs
  | .atoms f => execAtoms_wf f s hs
  | .bufw f => execBufw_wf f s hs
  | .bufr f => execBufr_wf f s hs
  | .etas f => execEtas_wf f s hs
  | .etld f => execEtld_wf f s hs
  | .etst f => execEtst_wf f s hs
  | .boards f => execBoards_wf f s hs
  | .tokenArrival => execTokenArrival_wf s hs
  | .reload => execReload_wf s hs
  | .reapToken => execReapToken_wf s hs
  | .reapFilterRetire => (execReapFilterRetire_mem s).mem_wf hs
  | .fallowReport => (execFallowReport_mem s).mem_wf hs
  | .matchExhausted => execMatchExhausted_wf s hs
  | .mailboxAccept => (execMailboxAccept_mem s).mem_wf hs
  | .injectionRelease => (execInjectionRelease_mem s).mem_wf hs
  | .iterEmit => (execIterEmit_mem s).mem_wf hs
  | .accrdRow => (execAccrdRow_mem s).mem_wf hs
  | .cturnEmit => (execCturnEmit_mem s).mem_wf hs
  | .ordArcSend => (execOrdArcSend_mem s).mem_wf hs
  | .swapActivate => (execSwapActivate_mem s).mem_wf hs
  | .swapTimeout => (execSwapTimeout_mem s).mem_wf hs
  | .stepBoundary => execStepBoundary_wf s hs
  | .guard => execGuard_wf s hs
  | .rowCommit => (execRowCommit_mem s).mem_wf hs
  | .tlbInvalidationDone => (execTlbInvalidationDone_mem s).mem_wf hs
  | .loadReturn => (execLoadReturn_mem s).mem_wf hs
  | .dividerDone => (execDividerDone_mem s).mem_wf hs
  | .storeBufferDrain => execStoreBufferDrain_wf s hs
  | .waitWake => execWaitWake_wf s hs
  | .waitTimeout => execWaitTimeout_wf s hs
  | .pauseExpiry => (execPauseExpiry_mem s).mem_wf hs
  | .holdExpiry => (execHoldExpiry_mem s).mem_wf hs
  | .asyncTrapEntry => execAsyncTrapEntry_wf s hs
  | .generatorBlock => execGeneratorBlock_wf s hs
  | .collectiveComplete => execCollectiveComplete_wf s hs
  | .linkDown => (execLinkDown_mem s).mem_wf hs
  | .passMarker => (execPassMarker_mem s).mem_wf hs
  | .sweepStateAnnounce => (execSweepStateAnnounce_mem s).mem_wf hs
  | .thermalSlowdown => (execThermalSlowdown_mem s).mem_wf hs
  | .thermalSpeedup => (execThermalSpeedup_mem s).mem_wf hs
  | .layerPark => execLayerPark_wf s hs
  | .layerUnpark => (execLayerUnpark_mem s).mem_wf hs
  | .layerPowerOff => execLayerPowerOff_wf s hs
  | .powerRequest => (execPowerRequest_mem s).mem_wf hs
  | .plotWake => (execPlotWake_mem s).mem_wf hs
  | .coreWatchdog => execCoreWatchdog_wf s hs
  | .edgeLineError => execEdgeLineError_wf s hs
  | .startRecord => execStartRecord_wf s hs
  | .readNotices => (execReadNotices_mem s).mem_wf hs
  | .breakClaim => (execBreakClaim_mem s).mem_wf hs
  | .breakRelease => (execBreakRelease_mem s).mem_wf hs
  | .breakResume => execBreakResume_wf s hs
  | .partitionReset => execPartitionReset_wf s hs
  | .deviceReset => (execDeviceReset_mem s).mem_wf hs
  | .takeResetLock => (execTakeResetLock_mem s).mem_wf hs
  | .dropResetLock => (execDropResetLock_mem s).mem_wf hs
  | .loadFirmware => (execLoadFirmware_mem s).mem_wf hs
  | .powerOn => execPowerOn_wf s hs
  | .powerOff => (execPowerOff_mem s).mem_wf hs
  | .checkpoint => (execCheckpoint_mem s).mem_wf hs
  | .checkpointRelease => (execCheckpointRelease_mem s).mem_wf hs
  | .boot => execBoot_wf s hs
  | .startTimeout => (execStartTimeout_mem s).mem_wf hs
  | .unassignedHeadlandWord => execUnassignedHeadlandWord_wf s hs
  | .fetchFault => execFetchFault_wf s hs
  | .ucPageReread => execUcPageReread_wf s hs
  | .runtimeThreadRestart => execRuntimeThreadRestart_wf s hs
  | .poisonMarkClear => (execPoisonMarkClear_mem s).mem_wf hs
  | .groupTableWrite => (execGroupTableWrite_mem s).mem_wf hs
  | .frameMaskWrite => (execFrameMaskWrite_mem s).mem_wf hs
  | .linkUp => (execLinkUp_mem s).mem_wf hs
  | .hostMemoryAccess => execHostMemoryAccess_wf s hs

theorem runThread_keeps_memory_wf (s : State) (k : Nat) (hs : Memory.wf s.mem = true) : Out.All (fun t => Memory.wf t.mem = true) (runThread s k) :=
  exec_keeps_memory_wf _ _ (issueOf_wf s k hs)

theorem issueCore_keeps_memory_wf (s : State) (c : Nat) (hs : Memory.wf s.mem = true) : Out.All (fun t => Memory.wf t.mem = true) (issueCore s c) := by
  unfold issueCore
  split
  · exact s.tick_wf hs
  · exact mapNext_wf _ _ State.tick_wf (runThread_keeps_memory_wf s _ hs)

theorem turnOf_keeps_memory_wf (s : State) (c : Nat) (hs : Memory.wf s.mem = true) : Out.All (fun t => Memory.wf t.mem = true) (turnOf s c) := by
  unfold turnOf
  split
  · exact s.tick_wf hs
  · split
    · exact runThread_keeps_memory_wf _ _ hs
    · exact issueCore_keeps_memory_wf s c hs

theorem runAct_keeps_memory_wf (a : Act) (s : State) (hs : Memory.wf s.mem = true) : Out.All (fun t => Memory.wf t.mem = true) (runAct a s) := by
  cases a with
  | event i f =>
    rw [runAct_event]
    split
    · exact exec_keeps_memory_wf _ _ hs
    · trivial
  | fire e n g =>
    rw [runAct_fire]
    split
    · trivial
    · split
      · exact exec_keeps_memory_wf _ _ hs
      · trivial
  | issue c =>
    rw [runAct_issue]
    split
    · exact issueCore_keeps_memory_wf s c hs
    · trivial

theorem step_keeps_memory_wf (s : State) (hs : Memory.wf s.mem = true) : Out.All (fun t => Memory.wf t.mem = true) (step s) := by
  unfold step
  split
  · exact runAct_keeps_memory_wf _ _ hs
  · split
    · trivial
    · split
      · exact exec_keeps_memory_wf _ _ hs
      · exact turnOf_keeps_memory_wf s _ hs

/-- Settles O57: whatever the step does, its outcome keeps the canonical form, by the case of the activity that it takes. -/
theorem everyStepKeepsMemoryCanonical : Obligations.EveryStepKeepsMemoryCanonical := by
  intro s t hs hst
  have h : Out.All (fun t => Memory.wf t.mem = true) (step s) := step_keeps_memory_wf s hs
  rw [hst] at h
  exact h

end Sys2Proof.Machine
end

section
/-! O59: what one step runs (R17, R18, R61), and what the end of a cycle counts (R22, R23). -/

namespace Sys2Proof.Machine

/-! ### The end of a cycle leaves the two cycle counters to `endCycle` -/

namespace State

/-- R22, R23: the two counters of cycles. -/
def clock (s : State) : Nat × Nat := (s.cycle, s.stepCyc)

theorem clock_foldl {α : Type} (f : State → α → State) (l : List α) (s : State) (hf : ∀ st x, (f st x).clock = st.clock) :
    (l.foldl f s).clock = s.clock := by
  induction l generalizing s with
  | nil => rfl
  | cons a l ih => exact (ih _).trans (hf _ _)

@[simp] theorem clock_setElem (s : State) (e : Nat) (x : ElemSt) : (s.setElem e x).clock = s.clock := rfl
@[simp] theorem clock_setField (s : State) (k : Nat) (x : FieldSt) : (s.setField k x).clock = s.clock := rfl
@[simp] theorem clock_setPart (s : State) (p : Nat) (x : PartSt) : (s.setPart p x).clock = s.clock := rfl
@[simp] theorem clock_setColour (s : State) (p c : Nat) (x : ColourSt) : (s.setColour p c x).clock = s.clock := rfl
@[simp] theorem clock_postAsync (s : State) (k code : Nat) (r : FaultRec) (b : Bool) : (s.postAsync k code r b).clock = s.clock := rfl
@[simp] theorem clock_notice (s : State) (c kind code tenant x y layer thread : Nat) (d0 d1 : Word) :
    (s.notice c kind code tenant x y layer thread d0 d1).clock = s.clock := rfl

@[simp] theorem clock_settleColour (s : State) (p c : Nat) : (s.settleColour p c).clock = s.clock := by
  simp only [settleColour, apply_ite clock, clock_setColour, ite_self]

@[simp] theorem clock_unreport (s : State) (e : Nat) : (s.unreport e).clock = s.clock := by
  unfold unreport
  split <;> (dsimp only; split <;> simp)

@[simp] theorem clock_launch (s : State) (f : FlightSt) : (s.launch f).clock = s.clock := by
  unfold launch
  split
  · exact clock_unreport _ _
  · exact clock_unreport _ _
  · rfl

@[simp] theorem clock_send (s : State) (e slot code : Nat) (t : Token) (ready : Nat) : (s.send e slot code t ready).clock = s.clock := by
  unfold send
  split
  · rfl
  · split
    · exact clock_launch _ _
    · dsimp only
      split <;> simp

@[simp] theorem clock_leave (s : State) (e : Nat) (o : OutTok) : (s.leave e o).clock = s.clock := by
  unfold leave
  split <;> simp

theorem clock_pumpQueue (s : State) (e n : Nat) (l : List OutTok) : (s.pumpQueue e n l).1.clock = s.clock := by
  induction n generalizing s l with
  | zero => rfl
  | succ n ih =>
    unfold pumpQueue
    split
    · split
      · rw [ih, clock_leave]
      · rfl
    · rfl

@[simp] theorem clock_pumpElem (s : State) (e : Nat) : (s.pumpElem e).clock = s.clock := by
  simp only [pumpElem, modElem_eq, clock_setElem, clock_pumpQueue]

theorem clock_pump (s : State) : s.pump.clock = s.clock := clock_foldl _ _ _ fun _ _ => clock_pumpElem _ _

theorem clock_sendBoards (s : State) (e : Nat) (p : Nat × PendSt) : (s.sendBoards e p).clock = s.clock := by
  unfold sendBoards
  split
  · rfl
  · rw [clock_settleColour, modElem_eq, clock_setElem]
    exact clock_foldl _ _ _ fun _ _ => clock_send _ _ _ _ _ _

theorem clock_flushBoards (s : State) : s.flushBoards.clock = s.clock := by
  refine clock_foldl _ _ _ fun st e => clock_foldl _ _ _ fun u p => ?_
  split
  · exact clock_sendBoards _ _ _
  · rfl

theorem clock_postFault (s : State) (k : Nat) : (s.postFault k).clock = s.clock := by
  unfold postFault
  dsimp only
  split
  · rfl
  · split
    · rfl
    · split <;> simp

theorem clock_postFaults (s : State) : s.postFaults.clock = s.clock := clock_foldl _ _ _ fun _ _ => clock_postFault _ _

/-- R22, R23: the end of a cycle gives the turn to core 0 and counts the cycle, of the device and of the step. -/
theorem endCycle_counts (s : State) : s.endCycle.turn = 0 ∧ s.endCycle.cycle = s.cycle + 1 ∧ s.endCycle.stepCyc = s.stepCyc + 1 := by
  have h : s.pump.flushBoards.postFaults.clock = s.clock := by rw [clock_postFaults, clock_flushBoards, clock_pump]
  obtain ⟨hcycle, hstep⟩ := Prod.mk.inj h
  exact ⟨rfl, congrArg (· + 1) hcycle, congrArg (· + 1) hstep⟩

/-! ### The threads that the issue rule picks -/

/-- R18: the thread picked for a core is one of its own. -/
theorem coreOf_of_pick {s : State} {c k : Nat} (h : s.pick c = some k) : coreOf k = c := by
  unfold pick at h
  split at h
  · cases h
  · obtain ⟨i, -, rfl⟩ := List.mem_map.1 (List.mem_of_find?_eq_some h)
    unfold coreOf
    omega

/-- R228: a thread that goes before thread `k` writes the barrier at which `k` arrives, and is the one picked for a later core of the partition. -/
theorem writerFirst_spec {s : State} {k j : Nat} (h : s.writerFirst k = some j) :
    coreOf k < coreOf j ∧ s.pick (coreOf j) = some j ∧ s.partOf (coreOf j) = s.partOf (coreOf k) ∧
      ∃ b, s.arrivesAt k = some b ∧ s.writesBarrier j = some b := by
  unfold writerFirst at h
  split at h
  · cases h
  · next b harrives =>
    obtain ⟨c, hc, hfound⟩ := List.exists_of_findSome?_eq_some h
    split at hfound
    · next i hpick =>
      split at hfound
      · next hcond =>
        cases hfound
        simp only [Bool.and_eq_true, beq_iff_eq] at hcond
        obtain ⟨⟨hwrites, hpart⟩, -⟩ := hcond
        have hcore := coreOf_of_pick hpick
        have hlater := (List.mem_range'_1.1 hc).1
        exact ⟨by omega, hcore ▸ hpick, hcore ▸ hpart, b, harrives, hwrites⟩
      · cases hfound
    · cases hfound

end State

/-! ### What an issue runs: the three cases of the fetch -/

/-- R18: the state in which thread `k` fetches: the issue pointer of its core has moved on, and the thread acts. -/
def fetching (s : State) (k : Nat) : State := { s.movePtr k with focus := { thread := k } }

theorem issueOf_fetchFault {s : State} {k x : Nat} (h : (fetchTarget (fetching s k) k).2 = .error x) : issueOf s k = (.fetchFault, fetching s k) := by
  unfold issueOf
  rw [show ({ s.movePtr k with focus := { thread := k } } : State) = fetching s k from rfl]
  simp only [h]

theorem issueOf_fetched {s : State} {k : Nat} {g : Target} (h : (fetchTarget (fetching s k) k).2 = .ok g) :
    let y := (fetchTarget (fetching s k) k).1.fetchWord k g
    (∀ i, decodeWord y.2 = .ok i → issueOf s k = (i, y.1)) ∧
      ∀ x, decodeWord y.2 = .error x → issueOf s k = (.unassignedHeadlandWord, { y.1 with focus := { thread := k, word := y.2 } }) := by
  unfold issueOf
  rw [show ({ s.movePtr k with focus := { thread := k } } : State) = fetching s k from rfl]
  simp only [h]
  exact ⟨fun i hi => by rw [hi], fun x hx => by rw [hx]⟩

/-! ### The head of the agenda (R379) -/

/-- R379: with no request of the host behind it, or no request of the side-band, the head of the agenda is taken. -/
theorem hostFirst_head (i : Instr) (f : Focus) (rest : List Act) (h : f.master = .host ∨ managed i = false ∨ hostRequest rest = none) :
    hostFirst (.event i f :: rest) = .event i f :: rest := by
  rcases h with h | h | h
  · simp [hostFirst, requestOf, h]
  · simp [hostFirst, requestOf, h]
  · simp only [hostFirst, h, ite_self]

/-- R379: the first request of the host is found behind events that are none. -/
theorem hostRequest_append (l r : List Act) (j : Instr) (g : Focus) (hg : g.master = .host) (hj : managed j = true)
    (hl : ∀ a ∈ l, ∃ k u, a = .event k u ∧ (u.master = .sideBand ∨ managed k = false)) :
    hostRequest (l ++ .event j g :: r) = some (.event j g, l ++ r) := by
  induction l with
  | nil => simp [hostRequest, requestOf, hg, hj]
  | cons a l ih =>
    obtain ⟨k, u, rfl, hu⟩ := hl a List.mem_cons_self
    have hnone : requestOf .host (.event k u) = false := by
      rcases hu with h | h <;> simp [requestOf, h]
    simp [hostRequest, hnone, ih fun a ha => hl a (List.mem_cons_of_mem _ ha)]

/-- R379: of the two masters' requests of one cycle, the host's is taken first. -/
theorem hostFirst_swap (i j : Instr) (f g : Focus) (l r : List Act) (hf : f.master = .sideBand) (hi : managed i = true) (hg : g.master = .host)
    (hj : managed j = true) (hl : ∀ a ∈ l, ∃ k u, a = .event k u ∧ (u.master = .sideBand ∨ managed k = false)) :
    hostFirst (.event i f :: (l ++ .event j g :: r)) = .event j g :: .event i f :: (l ++ r) := by
  simp [hostFirst, requestOf, hf, hi, hostRequest_append l r j g hg hj hl]

/-! ### One step, by what the agenda holds -/

theorem step_of_head {s : State} {a : Act} {rest : List Act} (h : hostFirst s.agenda = a :: rest) : step s = runAct a { s with agenda := rest } := by
  unfold step
  rw [h]

theorem step_of_event {s : State} {i : Instr} {f : Focus} {rest : List Act} (hon : s.powered = true) (h : hostFirst s.agenda = .event i f :: rest) :
    step s = exec i { s with agenda := rest, focus := f } := by
  rw [step_of_head h, runAct_event, if_pos (by simp [hon])]

theorem step_of_empty {s : State} (hon : s.powered = true) (h : s.agenda = []) :
    step s = match s.due with
      | some d => exec d.1 { s with focus := d.2 }
      | none => turnOf s s.turn := by
  unfold step
  rw [h]
  simp only [hostFirst, hon]
  rfl

/-- R18: the issue of a core where no thread can issue. -/
theorem issueCore_none {s : State} {c : Nat} (h : s.pick c = none) : issueCore s c = .next s.tick := by
  unfold issueCore
  rw [h]

theorem issueCore_some {s : State} {c k : Nat} (h : s.pick c = some k) : issueCore s c = mapNext State.tick (exec (issueOf s k).1 (issueOf s k).2) := by
  unfold issueCore
  rw [h]
  rfl

theorem mapNext_tick (o : Out) : mapNext State.tick o = match o with
    | .next t => .next t.tick
    | x => x := by
  cases o <;> rfl

/-- R228: the turn of a core that has issued before its turn. -/
theorem turnOf_ahead {s : State} {c : Nat} (h : (s.core c).ahead = s.cycle + 1) : turnOf s c = .next s.tick := by
  unfold turnOf
  rw [if_pos h]

theorem turnOf_writer {s : State} {c k j : Nat} (h : (s.core c).ahead ≠ s.cycle + 1) (hk : s.pick c = some k) (hj : s.writerFirst k = some j) :
    turnOf s c = runThread (s.modCore (coreOf j) fun x => { x with ahead := s.cycle + 1 }) j := by
  unfold turnOf
  rw [if_neg h, hk]
  simp only [Option.bind_some, hj]

theorem turnOf_issue {s : State} {c : Nat} (h : (s.core c).ahead ≠ s.cycle + 1) (hw : ∀ k j, s.pick c = some k → s.writerFirst k ≠ some j) :
    turnOf s c = issueCore s c := by
  have hnone : (s.pick c).bind s.writerFirst = none := by
    cases hk : s.pick c with
    | none => rfl
    | some k => exact Option.eq_none_iff_forall_ne_some.2 fun j => hw k j hk
  unfold turnOf
  rw [if_neg h, hnone]

/-- Settles O59: the agenda's head, the step that is due, or the turn of a core, each by its equation. -/
theorem aStepRunsTheDecodedInstruction : Obligations.AStepRunsTheDecodedInstruction := by
  intro s hon goes issues early
  have hissues : ∀ (u : State) (c : Nat), issues u c (issueCore u c) := by
    intro u c
    refine ⟨issueCore_none, fun k hk => ?_⟩
    have hrun : issueCore u c = goes (exec (issueOf u k).1 (issueOf u k).2) := (issueCore_some hk).trans (mapNext_tick _)
    refine ⟨fun x hx => ?_, fun g hg => ⟨fun i hi => ?_, fun x hx => ?_⟩⟩
    · rw [hrun, issueOf_fetchFault (s := u) hx]
      rfl
    · rw [hrun, (issueOf_fetched (s := u) hg).1 i hi]
      rfl
    · rw [hrun, (issueOf_fetched (s := u) hg).2 x hx]
      rfl
  refine ⟨fun hempty => ⟨fun i f hdue => ?_, fun hdue => ?_⟩, fun _ _ => State.writerFirst_spec, fun i f rest hagenda hhead => ?_,
    fun i f l j g r hagenda hf hi hg hj hl => ?_, fun e n g rest i hagenda hslot => ?_, fun c rest hagenda => ?_, fun hturn => ?_, fun hturn => ?_⟩
  · rw [step_of_empty hon hempty, hdue]
  · have hstep : step s = turnOf s s.turn := by rw [step_of_empty hon hempty, hdue]
    refine ⟨fun hahead => ?_, fun hahead => ⟨fun k j hk hj => ?_, fun hw => ?_⟩⟩
    · rw [hstep, turnOf_ahead hahead]
    · rw [hstep, turnOf_writer hahead hk hj]
      rfl
    · rw [hstep, turnOf_issue hahead hw]
      exact hissues s s.turn
  · exact step_of_event hon (by rw [hagenda, hostFirst_head i f rest hhead])
  · exact step_of_event hon (by rw [hagenda, hostFirst_swap i j f g l r hf hi hg hj hl])
  · rw [step_of_head (a := .fire e n g) (rest := rest) (by rw [hagenda]; rfl), runAct_fire, if_neg (by simp [hon])]
    simp only [show slotInstr { s with agenda := rest } e n = some i from hslot]
  · rw [step_of_head (a := .issue c) (rest := rest) (by rw [hagenda]; rfl), runAct_issue, if_pos hon]
    exact hissues _ c
  · unfold State.tick
    rw [if_pos hturn]
  · unfold State.tick
    rw [if_neg (by omega)]
    exact s.endCycle_counts

end Sys2Proof.Machine
end

section
/-! O58: the state right after reset (R29, R22, R23, R186). -/

namespace Sys2Proof.Machine

/-! ### What a lookup in the empty tables gives -/

@[simp] theorem thread_reset (k : Nat) : State.reset.thread k = ThreadSt.reset k := rfl
@[simp] theorem core_reset (c : Nat) : State.reset.core c = {} := rfl
@[simp] theorem part_reset (p : Nat) : State.reset.part p = PartSt.reset p := rfl
@[simp] theorem place_reset (p n : Nat) : State.reset.place p n = {} := rfl
@[simp] theorem corePlace_reset (c n : Nat) : State.reset.corePlace c n = {} := rfl
@[simp] theorem elem_reset (e : Nat) : State.reset.elem e = {} := rfl

/-- R29: thread 0 of every core is READY in supervisor mode. -/
theorem threadReset_zero (c : Nat) : ThreadSt.reset (4 * c) = { run := .ready, mode := true } := by
  unfold ThreadSt.reset
  rw [if_pos (by omega)]

/-- R29: threads 1 to 3 of every core are FREE, with every register at its default. -/
theorem threadReset_other (c j : Nat) (hj : j < 4) (h0 : j ≠ 0) : ThreadSt.reset (4 * c + j) = {} := by
  unfold ThreadSt.reset
  rw [if_neg (by omega)]

/-- R29, R22: what every thread holds after reset, whatever its number: the two cases of a thread differ in status and mode alone. -/
theorem threadReset_cases (k : Nat) : ThreadSt.reset k = { run := .ready, mode := true } ∨ ThreadSt.reset k = {} := by
  unfold ThreadSt.reset
  split
  · exact .inl rfl
  · exact .inr rfl

theorem gprOf_reset (k : Nat) (r : Reg) : State.reset.gprOf k r = 0 := by
  rw [State.gprOf_eq, thread_reset]
  rcases threadReset_cases k with h | h <;> rw [h] <;> exact ite_self _

/-- R321: every core belongs to partition 0, which the search meets first. -/
theorem partOf_reset (c : Nat) (hc : c < numCores) : State.reset.partOf c = 0 := by
  have hcore : ∀ d < numCores, (PartSt.reset 0).hasCore d = true := by decide
  unfold State.partOf
  rw [show List.range numParts = 0 :: List.range' 1 31 from rfl, List.find?_cons_of_pos (by simpa using hcore c hc)]
  rfl

/-- R329: no tenant but 0, the supervisor, runs. -/
theorem tenantRuns_reset (n : Nat) : State.reset.tenantRuns 0 n = true ↔ n = 0 := by
  have h : State.reset.tenantRuns 0 n = (0 == n && !false) := rfl
  rw [h, Bool.not_false, Bool.and_true, beq_iff_eq, eq_comm]

/-- Settles O58: each table is empty, so every lookup gives the default of its kind. -/
theorem resetLeavesTheMachineAsStated : Obligations.ResetLeavesTheMachineAsStated := by
  refine ⟨rfl, fun c _ => ?_, fun k => ?_, fun _ => rfl, rfl, rfl, rfl, rfl, rfl, fun _ => rfl, rfl, rfl, rfl, rfl, fun _ => rfl, rfl,
    fun _ _ => ⟨rfl, rfl⟩, partOf_reset, tenantRuns_reset⟩
  · rw [thread_reset, threadReset_zero]
    refine ⟨rfl, rfl, rfl, rfl, fun j hj h0 => ?_⟩
    rw [thread_reset, threadReset_other c j hj h0]
  · rw [thread_reset]
    have hg := gprOf_reset k
    rcases threadReset_cases k with h | h <;> rw [h] <;> simp [hg]

end Sys2Proof.Machine
end

section
/-! O8: the addresses below 0x10_0000 (R21, R59), and those beyond the virtual range (R206). -/

namespace Sys2Proof.Machine

/-- R21, R59: below 0x10_0000 an address resolves to the byte at that offset of the region that the thread may use, or fails with BOUND. -/
theorem resolve_local (s : State) (k : Nat) (va : Word) (need : Need) (h : va.toNat < 0x100000) :
    s.resolve k va need = (s,
      if va.toNat < (if (s.thread k).mode then localBytes else (s.window (coreOf k) (s.placeOfThread k)).2) then
        .ok { addr := localBase (coreOf k) + (if (s.thread k).mode then 0 else (s.window (coreOf k) (s.placeOfThread k)).1) + va.toNat,
              isLocal := true, uncached := false }
      else .error codeBOUND) := by
  unfold State.resolve
  simp only [if_pos h]
  cases (s.thread k).mode with
  | true => by_cases hin : va.toNat < localBytes <;> simp [hin]
  | false => by_cases hin : va.toNat < (s.window (coreOf k) (s.placeOfThread k)).2 <;> simp [hin]

/-- R206: an address with a bit above 56 set has no leaf, and no lookup is made. -/
theorem findLeaf_beyond (s : State) (c tenant place root asid va : Nat) (h : 2 ^ 57 ≤ va) :
    s.findLeaf c tenant place root asid va = (s, .error codePAGE) := by
  unfold State.findLeaf
  rw [if_pos h]

theorem resolve_beyond (s : State) (k : Nat) (va : Word) (need : Need) (h : 2 ^ 57 ≤ va.toNat) : s.resolve k va need = (s, .error codePAGE) := by
  unfold State.resolve State.translate
  simp only [if_neg (show ¬ va.toNat < 0x100000 by omega), findLeaf_beyond _ _ _ _ _ _ _ h]
  rfl

/-- Settles O8, by the two ranges of addresses. -/
theorem localAddressesAreChecked : Obligations.LocalAddressesAreChecked := by
  intro s k va need
  exact ⟨fun h => resolve_local s k va need h, fun h => resolve_beyond s k va need h⟩

end Sys2Proof.Machine
end

section
/-! Synchronous traps that an instruction raises: what they keep, and the form in which the statements say it (R25, R26). -/

namespace Sys2Proof.Machine

namespace State

/-! ### General registers through an update of a thread and through a trap -/

theorem sameRegs_trans {s t u : State} (h : s.sameRegs t) (h' : t.sameRegs u) : s.sameRegs u := fun j r => (h' j r).trans (h j r)

/-- An update of a thread that keeps its registers keeps every register of every thread. -/
theorem sameRegs_setThread {s : State} {k : Nat} {t : ThreadSt} (h : t.gpr = (s.thread k).gpr) : s.sameRegs (s.setThread k t) := by
  intro j r
  have hgpr : ((s.setThread k t).thread j).gpr = (s.thread j).gpr := by
    rw [thread_setThread]
    split
    · next hk => rw [h, hk]
    · rfl
  rw [gprOf_eq, gprOf_eq, hgpr]

theorem sameRegs_modThread {s : State} {k : Nat} {f : ThreadSt → ThreadSt} (h : (f (s.thread k)).gpr = (s.thread k).gpr) :
    s.sameRegs (s.modThread k f) := sameRegs_setThread h

theorem sameRegs_stopThread (s : State) (k : Nat) (at_ : Word) : s.sameRegs (s.stopThread k at_) := sameRegs_modThread rfl

theorem sameRegs_threadNotice (s : State) (k kind code : Nat) (d0 d1 : Word) : s.sameRegs (s.threadNotice k kind code d0 d1) := fun _ _ => rfl

/-- A thread that stops with a notice keeps its registers. -/
theorem sameRegs_stopThread_threadNotice (s : State) (k kind code : Nat) (at_ d0 d1 : Word) :
    s.sameRegs ((s.stopThread k at_).threadNotice k kind code d0 d1) :=
  sameRegs_trans (sameRegs_stopThread s k at_) (sameRegs_threadNotice _ k kind code d0 d1)

theorem sameRegs_toSupervisor (s : State) (k : Nat) (async : Bool) (code : Nat) (value : Word) (r : FaultRec) (fabric : Bool) :
    s.sameRegs (s.toSupervisor k async code value r fabric) := by
  unfold toSupervisor
  dsimp only
  split
  · exact sameRegs_stopThread_threadNotice _ k 2 code _ _ _
  · split
    · exact sameRegs_trans (sameRegs_setThread (by rfl)) (sameRegs_stopThread_threadNotice _ k 2 code _ _ _)
    · exact sameRegs_trans (sameRegs_setThread (by rfl)) (sameRegs_modThread (by rfl))

/-- R26: taking a trap writes no general register. -/
theorem sameRegs_trapThread (s : State) (k : Nat) (async : Bool) (code : Nat) (value : Word) (r : FaultRec) (fabric : Bool) :
    s.sameRegs (s.trapThread k async code value r fabric) := by
  unfold trapThread
  dsimp only
  split
  · exact s.sameRegs_toSupervisor k async code value r fabric
  · exact sameRegs_setThread rfl

end State

/-- R25: an instruction whose meaning is to raise a trap takes it, and writes no register. -/
theorem traps_of_raise {i : Instr} {s : State} {code : Nat} {value : Word} (h : exec i s = s.raise (wordOf i) code value) : Traps i s s code value :=
  ⟨_, h, rfl, s.sameRegs_trapThread _ _ _ _ _ _⟩

end Sys2Proof.Machine
end

section
/-! O13: the index checks of the CSR words, and the registers that CSRR reads (R20, R22, R66, R323). -/

namespace Sys2Proof.Machine

/-! ### The words that write a CSR -/

/-- R66: a CSR word that writes accesses the CSR at its index, whichever constructor it is. -/
theorem exec_decodeCsrWrite (k : CsrOp) (d a : Reg) (n : BitVec 12) (s : State) :
    exec (decodeCsrWrite k d a n) s = s.csrAccess (wordOf (decodeCsrWrite k d a n)) k d a n.toNat := by
  unfold decodeCsrWrite
  split
  case h_1 => cases k <;> rfl
  case h_11 hspecial _ _ _ _ _ _ _ _ _ =>
    have hlow : n.toNat = n.toNat / 16 * 16 + (n.extractLsb' 0 4).toNat := by
      rw [BitVec.extractLsb'_toNat, Nat.shiftRight_zero]
      omega
    split
    · next h5 => exact congrArg (s.csrAccess _ k d a) (by omega)
    · next h5 =>
      have h7 : n.toNat / 16 = 7 := by
        have hhigh : (n.extractLsb' 4 8).toNat = n.toNat / 16 := by
          rw [BitVec.extractLsb'_toNat, Nat.shiftRight_eq_div_pow]
          omega
        simp only [isSpecialCsr, Bool.or_eq_true, beq_iff_eq, ← BitVec.toNat_inj, hhigh, BitVec.reduceToNat] at hspecial
        grind
      exact congrArg (s.csrAccess _ k d a) (by omega)
  case h_3 _ hn => rw [hn]; cases k <;> rfl
  all_goals next hn => rw [hn]; rfl

/-- R20: where the index check of a CSR word fails, it raises the check's trap with the word as its value. -/
theorem traps_of_csrFault {i : Instr} {s : State} {d a : Reg} {k : CsrOp} {n : BitVec 12} {code : Nat}
    (hi : i = .csrr d n ∨ ∃ w, encode i = some w ∧ i = decodeCsrWrite k d a n) (h : csrFault s.cur.mode n.toNat = some code) :
    Traps i s s code (((encode i).getD 0).setWidth 64) := by
  refine traps_of_raise ?_
  rcases hi with rfl | ⟨_, -, rfl⟩
  · show execCsrr d n s = _
    unfold execCsrr
    simp only [h]
    rfl
  · rw [exec_decodeCsrWrite]
    unfold State.csrAccess
    simp only [h]
    rfl

/-! ### The index check (R20) -/

theorem csrFault_priv {m : Nat} (h1 : 0x100 ≤ m) (h2 : m ≤ 0x1FF) : csrFault false m = some codePRIV := by
  simp [csrFault, h1, h2]

theorem csrFault_illegal {mode : Bool} {m : Nat} (hrange : ¬(mode = false ∧ 0x100 ≤ m ∧ m ≤ 0x1FF)) (htenant : tenantCsr m = false)
    (hsup : mode = true → supervisorCsr m = false) : csrFault mode m = some codeILLEGAL := by
  unfold csrFault
  rw [if_neg (by simpa using hrange), if_neg]
  cases mode with
  | false => simp [htenant]
  | true => simp [htenant, hsup rfl]

/-- R22: the indices of tenant mode's registers are those below 0x100 that the table lists. -/
theorem tenantCsr_iff (m : Nat) : tenantCsr m = true ↔ m ≤ 0x005 ∨ (0x010 ≤ m ∧ m ≤ 0x014) ∨ (0x020 ≤ m ∧ m ≤ 0x027) ∨ m = 0x030 ∨ m = 0x031 ∨
    m = 0x040 ∨ (0x050 ≤ m ∧ m ≤ 0x060) ∨ (0x070 ≤ m ∧ m ≤ 0x07F) := by
  simp [tenantCsr, or_assoc]

theorem supervisorCsr_iff (m : Nat) : supervisorCsr m = true ↔ (0x100 ≤ m ∧ m ≤ 0x105) ∨ (0x108 ≤ m ∧ m ≤ 0x114) ∨ m = 0x118 ∨ m = 0x119 ∨
    (0x120 ≤ m ∧ m ≤ 0x129) ∨ (0x140 ≤ m ∧ m ≤ 0x17F) := by
  simp [supervisorCsr, or_assoc]

theorem tenantCsr_high {m : Nat} (h : 0x100 ≤ m) : tenantCsr m = false := by
  rw [Bool.eq_false_iff, Ne, tenantCsr_iff]
  omega

/-! ### Reading -/

/-- R66: where its index check passes, CSRR completes with the register's value. -/
theorem writes_csrr (s : State) (d : Reg) (n : BitVec 12) (h : csrFault s.cur.mode n.toNat = none) : Writes (.csrr d n) s d (s.readCsr s.me n.toNat) := by
  have hexec : exec (.csrr d n) s = s.finish d (s.readCsr s.me n.toNat) := by
    show execCsrr d n s = _
    unfold execCsrr
    simp only [h]
  obtain ⟨t, ht, hd, hpc, hframe⟩ := s.finish_next d (s.readCsr s.me n.toNat)
  exact ⟨t, hexec.trans ht, hd, hpc, hframe⟩

/-- The same for an index that is given as a number. -/
theorem writes_csrr_of_read {s : State} {n : Nat} {v : Word} (d : Reg) (hn : n < 2 ^ 12) (hv : s.readCsr s.me n = v)
    (h : csrFault s.cur.mode n = none) : Writes (.csrr d (BitVec.ofNat 12 n)) s d v := by
  have hnat : (BitVec.ofNat 12 n).toNat = n := by rw [BitVec.toNat_ofNat, Nat.mod_eq_of_lt hn]
  have hw := writes_csrr s d (BitVec.ofNat 12 n) (by rw [hnat]; exact h)
  rw [hnat, hv] at hw
  exact hw

/-- R324: ROT0 to ROT63 are the shadow table. -/
theorem readCsr_shadow (s : State) (k i : Nat) (hi : i < 64) :
    s.readCsr k (0x140 + i) = Table.getD (s.part (s.partOf (coreOf k))).shadow i 0 := by
  unfold State.readCsr
  dsimp only
  repeat rw [if_neg (by omega)]
  rw [if_pos (by omega), show (0x140 + i) % 64 = i by omega]

/-- R24: FREC0 to FREC7 and SFREC0 to SFREC7 are the words of the two records. -/
theorem readCsr_frec (s : State) (k i : Nat) (hi : i < 8) :
    s.readCsr k (0x020 + i) = State.frecWord (s.thread k).frec i ∧ s.readCsr k (0x108 + i) = State.frecWord (s.thread k).sfrec i := by
  unfold State.readCsr
  dsimp only
  constructor
  · repeat rw [if_neg (by omega)]
    rw [if_pos (by omega), show (0x020 + i) % 8 = i by omega]
  · repeat rw [if_neg (by omega)]
    rw [if_pos (by omega), show (0x108 + i) % 8 = i by omega]

theorem frecWord_eq_getD (f : FaultRec) (i : Nat) (hi : i < 8) : State.frecWord f i = [f.f0, f.f1, f.f2, f.f3, f.f4, f.f5, f.f6, f.f7].getD i 0 := by
  match i, hi with
  | 0, _ | 1, _ | 2, _ | 3, _ | 4, _ | 5, _ | 6, _ | 7, _ => rfl

/-- Settles O13: the check is the table of R20, and each register is read by its line of R22 and R323. -/
theorem csrWordsAreCheckedAndRead : Obligations.CsrWordsAreCheckedAndRead := by
  refine ⟨fun s d a k n => let m := n.toNat; fun i hi => ⟨fun hmode h1 h2 => ?_, fun hm => ?_, fun hmode h1 h2 hm => ?_⟩, ?_⟩
  · exact traps_of_csrFault hi (by rw [hmode]; exact csrFault_priv h1 h2)
  · have htenant : tenantCsr m = false := by
      rw [Bool.eq_false_iff, Ne, tenantCsr_iff]
      rcases hm with ⟨-, hm⟩ | hm
      · exact hm
      · omega
    have hsup : supervisorCsr m = false := by
      rw [Bool.eq_false_iff, Ne, supervisorCsr_iff]
      omega
    exact traps_of_csrFault hi (csrFault_illegal (by omega) htenant fun _ => hsup)
  · have hsup : supervisorCsr m = false := by
      rw [Bool.eq_false_iff, Ne, supervisorCsr_iff]
      exact hm
    exact traps_of_csrFault hi (csrFault_illegal (by simp [hmode]) (tenantCsr_high h1) fun _ => hsup)
  · intro s d t c p b reads frec pl perPlace
    have read : ∀ (n : Nat) (v : Word), n < 2 ^ 12 → s.readCsr s.me n = v → reads n v := fun n v hn hv => writes_csrr_of_read d hn hv
    refine ⟨writes_csrr s d, ?_⟩
    refine ⟨read _ _ (by decide) rfl, read _ _ (by decide) rfl, read _ _ (by decide) rfl, read _ _ (by decide) rfl, read _ _ (by decide) rfl,
      read _ _ (by decide) rfl, read _ _ (by decide) rfl, read _ _ (by decide) rfl, read _ _ (by decide) rfl, read _ _ (by decide) rfl,
      fun i hi => ?_, read _ _ (by decide) rfl, read _ _ (by decide) rfl, read _ _ (by decide) rfl, read _ _ (by decide) rfl,
      read _ _ (by decide) rfl, read _ _ (by decide) rfl, read _ _ (by decide) rfl, read _ _ (by decide) rfl, read _ _ (by decide) rfl,
      read _ _ (by decide) rfl, read _ _ (by decide) rfl, read _ _ (by decide) rfl, read _ _ (by decide) rfl, fun i hi => ?_,
      read _ _ (by decide) rfl, read _ _ (by decide) rfl, read _ _ (by decide) rfl, read _ _ (by decide) rfl, read _ _ (by decide) rfl,
      read _ _ (by decide) rfl, read _ _ (by decide) rfl, read _ _ (by decide) rfl, read _ _ (by decide) rfl⟩
    · obtain ⟨hfrec, hsfrec⟩ := readCsr_frec s s.me i hi
      exact ⟨read _ _ (by omega) (hfrec.trans (frecWord_eq_getD _ i hi)), read _ _ (by omega) (hsfrec.trans (frecWord_eq_getD _ i hi))⟩
    · exact read _ _ (by omega) (readCsr_shadow s s.me i hi)

end Sys2Proof.Machine
end

section
/-! Notices and trap entry (R26, R326, R343, R344, R356): what each leaves behind, by its cases. -/

namespace Sys2Proof.Machine

/-! ### Bytes read after a write elsewhere -/

namespace Memory

theorem read_congr {m m' : List Host.Cell} {a n : Nat} (h : ∀ b, a ≤ b → b < a + n → get m b = get m' b) : read m a n = read m' a n := by
  induction n generalizing a with
  | zero => rfl
  | succ n ih =>
    rw [read, read, h a (by omega) (by omega), ih fun b h1 h2 => h b (by omega) (by omega)]

/-- A read of bytes that a write does not touch. -/
theorem read_write_other (m : List Host.Cell) {a n b k : Nat} (v : Nat) (h : a + n ≤ b ∨ b + k ≤ a) : read (write m a n v) b k = read m b k :=
  read_congr fun c h1 h2 => get_write_other m n a v c (by omega)

end Memory

namespace State

/-! ### A notice about a thread (R343, R344) -/

/-- R343: four doublewords stored at `a`. -/
def recordMem (m : List Host.Cell) (a w0 w1 w2 w3 : Nat) : List Host.Cell :=
  Memory.write (Memory.write (Memory.write (Memory.write m a 8 w0) (a + 8) 8 w1) (a + 16) 8 w2) (a + 24) 8 w3

theorem word_toNat_mod (w : Word) : w.toNat % 2 ^ 64 = w.toNat := by
  have := w.isLt
  omega

/-- A doubleword reads as it was written. -/
theorem read_write_dword (m : List Host.Cell) (a v : Nat) : Memory.read (Memory.write m a 8 v) a 8 = v % 2 ^ 64 := by
  rw [Memory.read_write, show (256 : Nat) ^ 8 = 2 ^ 64 by norm_num]

theorem read_recordMem (m : List Host.Cell) (a w0 w1 w2 w3 : Nat) :
    Memory.read (recordMem m a w0 w1 w2 w3) a 8 = w0 % 2 ^ 64 ∧ Memory.read (recordMem m a w0 w1 w2 w3) (a + 8) 8 = w1 % 2 ^ 64 ∧
      Memory.read (recordMem m a w0 w1 w2 w3) (a + 16) 8 = w2 % 2 ^ 64 ∧ Memory.read (recordMem m a w0 w1 w2 w3) (a + 24) 8 = w3 % 2 ^ 64 := by
  unfold recordMem
  refine ⟨?_, ?_, ?_, read_write_dword _ _ _⟩
  · rw [Memory.read_write_other _ _ (by omega), Memory.read_write_other _ _ (by omega), Memory.read_write_other _ _ (by omega), read_write_dword]
  · rw [Memory.read_write_other _ _ (by omega), Memory.read_write_other _ _ (by omega), read_write_dword]
  · rw [Memory.read_write_other _ _ (by omega), read_write_dword]

theorem get_recordMem_outside (m : List Host.Cell) {a b : Nat} (w0 w1 w2 w3 : Nat) (hb : b < a ∨ a + 32 ≤ b) :
    Memory.get (recordMem m a w0 w1 w2 w3) b = Memory.get m b := by
  unfold recordMem
  rw [Memory.get_write_other _ _ _ _ _ (by omega), Memory.get_write_other _ _ _ _ _ (by omega), Memory.get_write_other _ _ _ _ _ (by omega),
    Memory.get_write_other _ _ _ _ _ (by omega)]

/-- R343: where the next record of a ring stands. -/
def slotAddr (m : List Host.Cell) (ring : Nat) : Nat := ring + 0x20 + 32 * (Memory.read m ring 8 % 127)

theorem slotAddr_bounds (m : List Host.Cell) (ring : Nat) : ring + 0x20 ≤ slotAddr m ring ∧ slotAddr m ring + 32 ≤ ring + 0x1000 := by
  have hslot : Memory.read m ring 8 % 127 < 127 := Nat.mod_lt _ (by decide)
  unfold slotAddr
  omega

/-- R343: LOST is counted where the ring is full. -/
def countLost (m old : List Host.Cell) (ring : Nat) : List Host.Cell :=
  let full := decide (127 ≤ (Memory.read old ring 8 + 2 ^ 64 - Memory.read old (ring + 0x18) 8) % 2 ^ 64)
  if full then Memory.write m (ring + 8) 8 (Memory.read old (ring + 8) 8 + 1) else m

theorem get_countLost (m old : List Host.Cell) {ring b : Nat} (hb : b < ring + 8 ∨ ring + 16 ≤ b) : Memory.get (countLost m old ring) b = Memory.get m b := by
  unfold countLost
  dsimp only
  split
  · exact Memory.get_write_other _ _ _ _ _ (by omega)
  · rfl

/-- R343: what a notice does to memory: the record, LOST where the ring is full, and WRIDX. -/
def noticeMem (m : List Host.Cell) (ring w0 w1 w2 w3 : Nat) : List Host.Cell :=
  Memory.write (countLost (recordMem m (slotAddr m ring) w0 w1 w2 w3) m ring) ring 8 (Memory.read m ring 8 + 1)

/-- R344: the first word of a notice about a thread of core `c`. -/
def noticeWord (c kind code tenant thread : Nat) : Nat :=
  kind + code * 2 ^ 8 + tenant * 2 ^ 16 + dieOfCore c * 2 ^ 24 + stripOfCore c * 2 ^ 40 + thread * 2 ^ 43

/-- R343: the notice ring of a core. -/
def ringOf (c : Nat) : Nat := localBase c + 0x7F000

/-- R343: the first word of a notice about any unit. -/
def unitNoticeWord (c kind code tenant x y layer thread : Nat) : Nat :=
  kind + code * 2 ^ 8 + tenant * 2 ^ 16 + dieOfCore c * 2 ^ 24 + x * 2 ^ 26 + y * 2 ^ 31 + layer * 2 ^ 36 + stripOfCore c * 2 ^ 40 + thread * 2 ^ 43

theorem unitNoticeWord_thread (c kind code tenant thread : Nat) : unitNoticeWord c kind code tenant 0 0 0 thread = noticeWord c kind code tenant thread := by
  unfold unitNoticeWord noticeWord
  generalize dieOfCore c = d, stripOfCore c = p
  omega

theorem notice_mem (s : State) (c kind code tenant x y layer thread : Nat) (d0 d1 : Word) : (s.notice c kind code tenant x y layer thread d0 d1).mem =
    noticeMem s.mem (ringOf c) (unitNoticeWord c kind code tenant x y layer thread) s.when.toNat d0.toNat d1.toNat := by
  unfold notice noticeMem countLost recordMem slotAddr ringOf unitNoticeWord
  dsimp only

/-- R343: a notice changes memory and the list of notices alone. -/
theorem notice_frame (s : State) (c kind code tenant x y layer thread : Nat) (d0 d1 : Word) :
    s.notice c kind code tenant x y layer thread d0 d1 =
      { s with mem := (s.notice c kind code tenant x y layer thread d0 d1).mem,
               notices := s.notices ++ [{ core := c, word0 := wd (unitNoticeWord c kind code tenant x y layer thread), word1 := s.when,
                                          detail0 := d0, detail1 := d1 }] } := rfl

theorem notice_eq (s : State) (c kind code tenant thread : Nat) (d0 d1 : Word) :
    s.notice c kind code tenant 0 0 0 thread d0 d1 =
      { s with mem := noticeMem s.mem (ringOf c) (noticeWord c kind code tenant thread) s.when.toNat d0.toNat d1.toNat,
               notices := s.notices ++ [{ core := c, word0 := wd (noticeWord c kind code tenant thread), word1 := s.when, detail0 := d0, detail1 := d1 }] } := by
  rw [notice_frame, notice_mem, unitNoticeWord_thread]

theorem threadNotice_eq (s : State) (k kind code : Nat) (d0 d1 : Word) :
    s.threadNotice k kind code d0 d1 = s.notice (coreOf k) kind code (s.thread k).tenant 0 0 0 (k % 4) d0 d1 := rfl

/-- R343: a notice changes no byte outside the ring's 4 KiB. -/
theorem get_noticeMem_outside (m : List Host.Cell) {ring b : Nat} (w0 w1 w2 w3 : Nat) (hb : b < ring ∨ ring + 0x1000 ≤ b) :
    Memory.get (noticeMem m ring w0 w1 w2 w3) b = Memory.get m b := by
  have hslot := slotAddr_bounds m ring
  unfold noticeMem
  rw [Memory.get_write_other _ _ _ _ _ (by omega), get_countLost _ _ (by omega), get_recordMem_outside _ _ _ _ _ (by omega)]

/-- R343: the record's words stand in the ring after the notice. -/
theorem read_noticeMem_record (m : List Host.Cell) {ring b : Nat} (w0 w1 w2 w3 : Nat) (hb : slotAddr m ring ≤ b) :
    Memory.read (noticeMem m ring w0 w1 w2 w3) b 8 = Memory.read (recordMem m (slotAddr m ring) w0 w1 w2 w3) b 8 := by
  have hslot := slotAddr_bounds m ring
  unfold noticeMem
  rw [Memory.read_write_other _ _ (by omega)]
  exact Memory.read_congr fun c h1 h2 => get_countLost _ _ (by omega)

/-- R343: WRIDX is raised by one. -/
theorem read_noticeMem_wridx (m : List Host.Cell) (ring w0 w1 w2 w3 : Nat) :
    Memory.read (noticeMem m ring w0 w1 w2 w3) ring 8 = (Memory.read m ring 8 + 1) % 2 ^ 64 := read_write_dword _ _ _

/-- R343, R344: the notice of a thread whose state has changed since `s` in what a notice does not say. -/
theorem notified_threadNotice {s u : State} {k : Nat} (kind code : Nat) (d0 d1 : Word) (hmem : u.mem = s.mem) (hnotices : u.notices = s.notices)
    (hwhen : u.when = s.when) (htenant : (u.thread k).tenant = (s.thread k).tenant) : Notified s (u.threadNotice k kind code d0 d1) k kind code d0 d1 := by
  rw [threadNotice_eq, notice_eq, hmem, hnotices, hwhen, htenant]
  have hrecord := read_recordMem s.mem (slotAddr s.mem (ringOf (coreOf k)))
    (noticeWord (coreOf k) kind code (s.thread k).tenant (k % 4)) s.when.toNat d0.toNat d1.toNat
  unfold Notified
  dsimp only
  rw [show BitVec.ofNat 64 (kind + code * 2 ^ 8 + (s.thread k).tenant * 2 ^ 16 + dieOfCore (coreOf k) * 2 ^ 24 + stripOfCore (coreOf k) * 2 ^ 40 + k % 4 * 2 ^ 43) =
      wd (noticeWord (coreOf k) kind code (s.thread k).tenant (k % 4)) from rfl, show localBase (coreOf k) + 0x7F000 = ringOf (coreOf k) from rfl]
  generalize noticeWord (coreOf k) kind code (s.thread k).tenant (k % 4) = w0 at hrecord ⊢
  generalize ringOf (coreOf k) = ring at hrecord ⊢
  obtain ⟨h0, h1, h2, h3⟩ := hrecord
  have hat : ∀ d e, e = 0x20 + d → Memory.read (noticeMem s.mem ring w0 s.when.toNat d0.toNat d1.toNat) (ring + e + 32 * (Memory.read s.mem ring 8 % 127)) 8 =
      Memory.read (recordMem s.mem (slotAddr s.mem ring) w0 s.when.toNat d0.toNat d1.toNat) (slotAddr s.mem ring + d) 8 := by
    intro d e he
    rw [show ring + e + 32 * (Memory.read s.mem ring 8 % 127) = slotAddr s.mem ring + d by unfold slotAddr; omega]
    exact read_noticeMem_record _ _ _ _ _ (Nat.le_add_right _ _)
  refine ⟨rfl, read_noticeMem_wridx _ _ _ _ _ _, ?_, ?_, ?_, ?_, fun b hb => get_noticeMem_outside _ _ _ _ _ hb⟩
  · rw [wd, BitVec.toNat_ofNat, hat 0 0x20 rfl, Nat.add_zero, h0]
  · exact (hat 8 0x28 rfl).trans (h1.trans (word_toNat_mod s.when))
  · exact (hat 16 0x30 rfl).trans (h2.trans (word_toNat_mod d0))
  · exact (hat 24 0x38 rfl).trans (h3.trans (word_toNat_mod d1))

/-! ### Taking a trap, by its cases -/

/-- R26: trap entry to the tenant's own handler. -/
theorem trapThread_enter {s : State} {k code : Nat} (value : Word) (r : FaultRec) (hmode : (s.thread k).mode = false) (hcode : code ≠ codeSVC)
    (htvec : (s.thread k).tvec ≠ 0) (hexl : (s.thread k).exl = false) :
    s.trapThread k false code value r false = s.setThread k
      { s.thread k with epc := (s.thread k).pc, ecause := wd code, eval := value, frec := r, pmode := false, exl := true,
                        pc := (s.thread k).tvec ++ 0#2, run := .ready, wait := {}, notBefore := s.cycle + trapGap } := by
  unfold trapThread
  dsimp only
  rw [if_neg (by simpa [hmode, hcode, hexl] using htvec)]
  simp [b2n]

/-- R326: a trap that the tenant's handler does not take goes to the supervisor. -/
theorem trapThread_escalate {s : State} {k code : Nat} (value : Word) (r : FaultRec)
    (h : (s.thread k).mode = true ∨ code = codeSVC ∨ (s.thread k).tvec = 0 ∨ (s.thread k).exl = true) :
    s.trapThread k false code value r false = s.toSupervisor k false code value r false := by
  unfold trapThread
  dsimp only
  rw [if_pos]
  rcases h with h | h | h | h <;> simp [h]

/-- R326: what a trap to the supervisor writes in the thread before it enters or stops. -/
def supervisorTrap (s : State) (k code : Nat) (value : Word) (r : FaultRec) : ThreadSt :=
  { s.thread k with sepc := (s.thread k).pc, scause := wd code, seval := value, sfrec := if (s.thread k).mode then r else r.flag flagESC,
                    run := .ready, wait := {}, notBefore := s.cycle + trapGap }

/-- R326: entry at the supervisor's vector. -/
theorem toSupervisor_enter {s : State} {k code : Nat} (value : Word) (r : FaultRec) (hsexl : (s.thread k).sexl = false)
    (h : (s.thread k).mode = true ∨ (s.core (coreOf k)).stvec ≠ 0) :
    s.toSupervisor k false code value r false = (s.setThread k (s.supervisorTrap k code value r)).setThread k
      { s.supervisorTrap k code value r with spmode := (s.thread k).mode, sexl := true, mode := true, pc := (s.core (coreOf k)).stvec ++ 0#2 } := by
  unfold toSupervisor
  dsimp only
  rw [if_neg (by simp [hsexl]), if_neg]
  · simp [supervisorTrap, b2n]
  · rcases h with h | h
    · simp [h]
    · simpa using fun _ => h

/-- R326, R356: an escalation without a supervisor's vector stops the thread. -/
theorem toSupervisor_stop {s : State} {k code : Nat} (value : Word) (r : FaultRec) (hsexl : (s.thread k).sexl = false)
    (hmode : (s.thread k).mode = false) (hstvec : (s.core (coreOf k)).stvec = 0) :
    s.toSupervisor k false code value r false =
      ((s.setThread k (s.supervisorTrap k code value r)).stopThread k (s.thread k).pc).threadNotice k 2 code (s.thread k).pc (wd code) := by
  unfold toSupervisor
  dsimp only
  rw [if_neg (by simp [hsexl]), if_pos (by simp [hmode, hstvec])]
  simp [supervisorTrap, b2n, hmode]

/-- R326, R356: a trap within the supervisor's handler stops the thread. -/
theorem toSupervisor_double {s : State} {k code : Nat} (value : Word) (r : FaultRec) (hsexl : (s.thread k).sexl = true) :
    s.toSupervisor k false code value r false = (s.stopThread k (s.thread k).pc).threadNotice k 2 code (s.thread k).pc (wd code) := by
  unfold toSupervisor
  dsimp only
  rw [if_pos hsexl]
  simp [b2n]

/-- R340: ESC set in a record whose FREC0 is a code below bit 24. -/
theorem flagESC_eq {r : FaultRec} {code : Nat} (hf0 : r.f0 = wd code) (hcode : code < 2 ^ 24) :
    r.flag flagESC = { r with f0 := BitVec.ofNat 64 (code + 2 ^ 24) } := by
  have hbits : bits code 24 1 = 0 := by
    unfold bits
    omega
  have hnat : (wd code).toNat = code := by
    rw [wd, BitVec.toNat_ofNat, Nat.mod_eq_of_lt (by omega)]
  simp [FaultRec.flag, setFld, flagESC, hf0, hnat, hbits]

/-- R24, R341: the record of a headland fault whose code carries no SOURCE. -/
theorem trapRec_headland {code : Nat} (s : State) (k : Nat) (word : Word32) (value : Word) (hcode : code < 2 ^ 8) :
    s.trapRec k code word value = s.headlandRec k code 0 word value := by
  unfold trapRec
  rw [if_neg]
  unfold bits sourceEdge
  omega

end State

/-! ### Frames of the trap's cases -/

theorem State.otherThreads_setThread (s : State) (k : Nat) (x : ThreadSt) : s.otherThreads (s.setThread k x) k := fun j hj => by
  rw [State.thread_setThread, if_neg (Ne.symm hj)]

theorem State.otherThreads_trans {s t u : State} {k : Nat} (h : s.otherThreads t k) (h' : t.otherThreads u k) : s.otherThreads u k :=
  fun j hj => (h' j hj).trans (h j hj)

theorem State.thread_stopThread (s : State) (k : Nat) (at_ : Word) :
    (s.stopThread k at_).thread k = { s.thread k with run := .stopped, wait := {}, resume := at_, pc := at_ } := by
  rw [State.stopThread, State.modThread, State.thread_setThread, if_pos rfl]

theorem State.cur_setThread (s : State) (x : ThreadSt) : (s.setThread s.me x).cur = x := by
  show (s.setThread s.me x).thread s.me = x
  rw [State.thread_setThread, if_pos rfl]

end Sys2Proof.Machine
end

section
/-! O17: TRAP, SVC, BRK and words that name nothing (R26, R42, R72, R74, R326, R356). -/

namespace Sys2Proof.Machine

/-- R42: `takes` of the statement for one instruction: its trap is raised with a code of 8 bits. -/
theorem raise_eq_trapThread {s : State} {code : Nat} (word : Word32) (value : Word) (hcode : code < 2 ^ 8) :
    s.raise word code value = .next (s.trapThread s.me false code value (s.headlandRec s.me code 0 word value) false) := by
  unfold State.raise State.trapAt
  rw [State.trapRec_headland s s.me word value hcode, show code % 256 = code from Nat.mod_eq_of_lt hcode]

theorem exec_brk (s : State) : exec .brk s = execBrk s := rfl

theorem State.me_stopThread (s : State) (k : Nat) (at_ : Word) : (s.stopThread k at_).me = s.me := rfl

/-- R72: BRK under a claim of the side-band stops the thread. -/
theorem execBrk_claimed {s : State} (h : breakClaimed s = true) :
    execBrk s = .next ((s.stopThread s.me s.pc).modMe fun t => { t with frec := s.headlandRec s.me codeBREAK 0 (wordOf .brk) 0, brkStop := true }) := by
  rw [execBrk, if_pos h]

/-- Settles O17, by the cases of the trap: the tenant's handler, the supervisor's, no vector, and a trap in the supervisor's handler. -/
theorem trapEntryAndEscalation : Obligations.TrapEntryAndEscalation := by
  intro s x k stvec takes
  have htakes : ∀ (i : Instr) (code : Nat) (value : Word) (word : Word32) (always : Bool), code < 2 ^ 8 → (always = true ↔ code = codeSVC) →
      exec i s = s.raise word code value → takes i code value word always := by
    intro i code value word always hcode halways hexec
    rw [raise_eq_trapThread word value hcode] at hexec
    let r := s.headlandRec k code 0 word value
    have hup : (if (s.thread k).mode then r else r.flag flagESC) =
        if x.mode then r else { r with f0 := BitVec.ofNat 64 (code + 2 ^ 24) } := by rw [State.flagESC_eq rfl (by omega)]; rfl
    have htrap : s.supervisorTrap k code value r =
        { x with sepc := x.pc, scause := BitVec.ofNat 64 code, seval := value, sfrec := if x.mode then r else { r with f0 := BitVec.ofNat 64 (code + 2 ^ 24) },
                 run := .ready, wait := {}, notBefore := s.cycle + 3 } :=
      congrArg (fun f : FaultRec => { x with sepc := x.pc, scause := BitVec.ofNat 64 code, seval := value, sfrec := f, run := .ready, wait := {}, notBefore := s.cycle + 3 }) hup
    have hescalate : ¬ (x.mode = false ∧ always = false ∧ x.tvec ≠ 0 ∧ x.exl = false) →
        exec i s = .next (s.toSupervisor k false code value r false) := by
      intro h
      rw [hexec, State.trapThread_escalate]
      by_contra hcon
      push Not at hcon
      obtain ⟨h1, h2, h3, h4⟩ := hcon
      exact h ⟨Bool.eq_false_of_not_eq_true h1, by simpa using mt halways.mp h2, h3, Bool.eq_false_of_not_eq_true h4⟩
    refine ⟨fun ⟨hmode, halw, htvec, hexl⟩ => ?_, fun hentry hsexl h => ?_, fun hentry hsexl hmode hstvec => ?_, fun hentry hsexl => ?_⟩
    · have hsvc : code ≠ codeSVC := fun h => by simp [halways.mpr h] at halw
      refine ⟨_, hexec.trans (congrArg Host.Outcome.next (State.trapThread_enter value _ hmode hsvc htvec hexl)), ?_, State.otherThreads_setThread _ _ _, rfl, fun _ => rfl⟩
      exact State.cur_setThread _ _
    · refine ⟨_, (hescalate hentry).trans (congrArg Host.Outcome.next (State.toSupervisor_enter value _ hsexl h)), ?_,
        State.otherThreads_trans (State.otherThreads_setThread _ _ _) (State.otherThreads_setThread _ _ _), rfl, fun _ => rfl⟩
      rw [htrap]
      exact State.cur_setThread _ _
    · refine ⟨_, (hescalate hentry).trans (congrArg Host.Outcome.next (State.toSupervisor_stop value _ hsexl hmode hstvec)), ?_, ?_,
        State.otherThreads_trans (State.otherThreads_setThread _ _ _) (State.otherThreads_setThread _ _ _), rfl⟩
      · rw [htrap]
        refine (State.thread_stopThread _ _ _).trans ?_
        rw [State.thread_setThread, if_pos rfl]
        rfl
      · refine State.notified_threadNotice _ _ _ _ rfl rfl rfl ?_
        rw [State.thread_stopThread, State.thread_setThread, if_pos rfl]
        rfl
    · refine ⟨_, (hescalate hentry).trans (congrArg Host.Outcome.next (State.toSupervisor_double value _ hsexl)), ?_, ?_, State.otherThreads_setThread _ _ _, rfl⟩
      · exact State.thread_stopThread _ _ _
      · refine State.notified_threadNotice _ _ _ _ rfl rfl rfl ?_
        rw [State.thread_stopThread]
  refine ⟨fun imm => ?_, fun imm => ?_, fun hclaim => ?_, ?_, fun hclaim => ?_⟩
  · exact htakes _ _ _ _ _ (by decide) (by decide) rfl
  · exact htakes _ _ _ _ _ (by decide) (by decide) rfl
  · refine htakes _ _ _ _ _ (by decide) (by decide) ?_
    rw [exec_brk, execBrk, if_neg (by simp [hclaim])]
    rfl
  · exact htakes _ _ _ _ _ (by decide) (by decide) rfl
  · refine ⟨_, (exec_brk s).trans (execBrk_claimed hclaim), ?_,
      State.otherThreads_trans (State.otherThreads_setThread _ _ _) (State.otherThreads_setThread _ _ _), rfl, fun _ => rfl⟩
    refine (State.cur_setThread _ _).trans ?_
    rw [State.me_stopThread, State.thread_stopThread]
    rfl

end Sys2Proof.Machine
end

section
/-! Performing buffered stores (R205, R227, R243): what the coherent path leaves as it was in threads, cores and notices. -/

namespace Sys2Proof.Machine

/-- A lookup in a table whose values are mapped and whose keys stay. -/
theorem Table.find?_map {α : Type} {g : Nat × α → Nat × α} (hg : ∀ e, (g e).1 = e.1) (m : Table α) (k : Nat) :
    Table.find? (m.map g) k = (Table.find? m k).map fun v => (g (k, v)).2 := by
  induction m with
  | nil => rfl
  | cons e m ih =>
    obtain ⟨j, v⟩ := e
    have hpair : g (j, v) = (j, (g (j, v)).2) := Prod.ext (hg (j, v)) rfl
    rw [List.map_cons, hpair, Table.find?, Table.find?, ih]
    split
    · next hjk => rw [hjk]; rfl
    · rfl

/-! ### Threads that a write may wake (R227) -/

theorem WokenAs.refl (x : ThreadSt) : WokenAs x x := .inl rfl

theorem WokenAs.trans {x y z : ThreadSt} (h : WokenAs x y) (h' : WokenAs y z) : WokenAs x z := by
  rcases h with rfl | ⟨hx, rfl⟩
  · exact h'
  · rcases h' with rfl | ⟨-, rfl⟩ <;> exact .inr ⟨hx, rfl⟩

/-- R205, R227: what the coherent path keeps: threads but for the woken sleepers, the cores' buffered stores, the notices and the focus. -/
structure PathFrame (s t : State) : Prop where
  threads : ∀ j, WokenAs (s.thread j) (t.thread j)
  stores : ∀ c, (t.core c).stores = (s.core c).stores
  notices : t.notices = s.notices
  focus : t.focus = s.focus

namespace PathFrame

theorem refl (s : State) : PathFrame s s := ⟨fun _ => .refl _, fun _ => rfl, rfl, rfl⟩

theorem trans {s t u : State} (h : PathFrame s t) (h' : PathFrame t u) : PathFrame s u :=
  ⟨fun j => (h.threads j).trans (h'.threads j), fun c => (h'.stores c).trans (h.stores c), h'.notices.trans h.notices, h'.focus.trans h.focus⟩

/-- A state that differs in other fields alone. -/
theorem of_eq {s t : State} (hthreads : t.threads = s.threads) (hcores : t.cores = s.cores) (hnotices : t.notices = s.notices)
    (hfocus : t.focus = s.focus) : PathFrame s t :=
  ⟨fun j => .inl (by rw [State.thread, State.thread, hthreads]), fun c => by rw [State.core, State.core, hcores], hnotices, hfocus⟩

theorem modCore {s : State} {c : Nat} {f : CoreSt → CoreSt} (hf : ∀ x, (f x).stores = x.stores) : PathFrame s (s.modCore c f) :=
  ⟨fun _ => .refl _, fun j => by
    rw [State.modCore, State.core_setCore]
    split
    · next h => rw [hf, h]
    · rfl, rfl, rfl⟩

theorem ite {s t u : State} {p : Prop} [Decidable p] (h : PathFrame s t) (h' : PathFrame s u) : PathFrame s (if p then t else u) := by
  split
  · exact h
  · exact h'

theorem foldl {α : Type} {f : State → α → State} (hf : ∀ st x, PathFrame st (f st x)) (l : List α) (s : State) : PathFrame s (l.foldl f s) := by
  induction l generalizing s with
  | nil => exact refl s
  | cons x l ih => exact (hf s x).trans (ih _)

theorem foldl_pair {α β : Type} {f : State × β → α → State × β} (hf : ∀ a x, PathFrame a.1 (f a x).1) (l : List α) (a : State × β) :
    PathFrame a.1 (l.foldl f a).1 := by
  induction l generalizing a with
  | nil => exact refl a.1
  | cons x l ih => exact (hf a x).trans (ih _)

end PathFrame

namespace State

variable (s : State) (c : Nat)

theorem pathFrame_mem (m : List Host.Cell) : PathFrame s { s with mem := m } := .of_eq rfl rfl rfl rfl

theorem pathFrame_setSet (line : Nat) (l : List WaySt) : PathFrame s (s.setSet c line l) := .of_eq rfl rfl rfl rfl

theorem pathFrame_hubWriteBack (line data mask : Nat) : PathFrame s (s.hubWriteBack line data mask) := .of_eq rfl rfl rfl rfl

theorem pathFrame_sliceTouch (w : WaySt) : PathFrame s (s.sliceTouch c w) := s.pathFrame_setSet c _ _

theorem pathFrame_sliceFill (tenant line data dirty : Nat) : PathFrame s (s.sliceFill c tenant line data dirty).1 := by
  unfold sliceFill
  dsimp only
  split
  · exact .refl s
  · refine PathFrame.trans ?_ (pathFrame_setSet _ _ _ _)
    split
    · split
      · exact .refl s
      · exact s.pathFrame_hubWriteBack _ _ _
    · exact .refl s

theorem pathFrame_countLookup (tenant line : Nat) (hit : Bool) : PathFrame s (s.countLookup c tenant line hit) := by
  unfold countLookup
  dsimp only
  split
  · exact .refl s
  · exact .of_eq rfl rfl rfl rfl

theorem pathFrame_takeCopies (keeper : Option Nat) (line : Nat) (all : Bool) : PathFrame s (s.takeCopies c keeper line all).1 := by
  unfold takeCopies
  refine PathFrame.foldl_pair (fun acc x => ?_) _ (s, 0, 0)
  dsimp only
  split
  · exact .refl _
  · exact PathFrame.trans (.ite (.refl _) (pathFrame_setSet _ x line _)) (.ite (.refl _) (.modCore (by intro _; rfl)))

theorem pathFrame_l1WriteBack (l : LineSt) : PathFrame s (s.l1WriteBack c l) := by
  unfold l1WriteBack
  dsimp only
  split
  · exact .refl s
  · split
    · exact s.pathFrame_sliceTouch c _
    · split
      · exact s.pathFrame_sliceFill c _ _ _ _
      · exact (s.pathFrame_sliceFill c _ _ _ _).trans (pathFrame_hubWriteBack _ _ _ _)

theorem pathFrame_l1Put (l : LineSt) : PathFrame s (s.l1Put c l) := by
  unfold l1Put
  dsimp only
  split
  · exact .modCore (by intro _; rfl)
  · split
    · exact .modCore (by intro _; rfl)
    · exact PathFrame.trans (.modCore (by intro _; rfl)) (pathFrame_l1WriteBack _ _ _)

theorem pathFrame_sliceAccess (tenant line : Nat) (forStore : Bool) : PathFrame s (s.sliceAccess c tenant line forStore).1 := by
  unfold sliceAccess
  dsimp only
  split
  · exact ((s.pathFrame_countLookup c _ _ _).trans (pathFrame_takeCopies _ c _ _ _)).trans (pathFrame_sliceTouch _ c _)
  · exact ((s.pathFrame_countLookup c _ _ _).trans (pathFrame_takeCopies _ c _ _ _)).trans (pathFrame_sliceFill _ c _ _ _ _)

theorem pathFrame_l1Access (tenant line : Nat) (forStore : Bool) : PathFrame s (s.l1Access c tenant line forStore).1 := by
  unfold l1Access
  dsimp only
  split
  · split
    · exact (s.pathFrame_takeCopies c _ _ _).trans (pathFrame_l1Put _ c _)
    · exact s.pathFrame_l1Put c _
  · exact (s.pathFrame_sliceAccess c _ _ _).trans (pathFrame_l1Put _ c _)

/-- R227: a write of a line wakes sleepers and changes nothing else. -/
theorem pathFrame_wakeLine (line : Nat) : PathFrame s (s.wakeLine c line) := by
  refine ⟨fun j => ?_, fun _ => rfl, rfl, rfl⟩
  unfold wakeLine thread Table.getD
  rw [Table.find?_map (by intro e; dsimp only; split <;> rfl)]
  cases Table.find? s.threads j with
  | none => exact .refl _
  | some x =>
    rw [Option.map_some, Option.getD_some, Option.getD_some]
    dsimp only
    split
    · next h =>
      refine .inr ⟨?_, rfl⟩
      simp only [Bool.and_eq_true] at h
      rw [asleep, h.1.1.1, h.1.1.2]
      rfl
    · exact .refl _

theorem pathFrame_coherentWrite (tenant pa n v : Nat) : PathFrame s (s.coherentWrite c tenant pa n v) :=
  ((s.pathFrame_wakeLine c _).trans (pathFrame_l1Access _ c _ _ _)).trans (pathFrame_l1Put _ c _)

theorem pathFrame_armBeat (t : Target) (n : Nat) : PathFrame s (s.armBeat c t n) := by
  unfold armBeat
  dsimp only
  split
  · exact .modCore (by intro _; rfl)
  · exact .refl s

theorem pathFrame_writeTarget (tenant : Nat) (t : Target) (n v : Nat) : PathFrame s (s.writeTarget c tenant t n v) := by
  unfold writeTarget
  dsimp only
  have hwake : PathFrame s (if t.uncached then s.wakeLine c (t.addr / 128) else s) := .ite (s.pathFrame_wakeLine c _) (.refl s)
  generalize (if t.uncached then s.wakeLine c (t.addr / 128) else s) = s0 at hwake ⊢
  have harm := (hwake.trans (s0.pathFrame_mem (Memory.write s0.mem t.addr n v))).trans (pathFrame_armBeat _ c t n)
  generalize armBeat _ c t n = s1 at harm ⊢
  exact .ite (.ite (harm.trans (.of_eq rfl rfl rfl rfl)) harm) (s.pathFrame_coherentWrite c _ _ _ _)

/-- R243: the buffered stores of a core are performed from an empty buffer. -/
theorem pathFrame_drainCore : PathFrame (s.modCore c fun x => { x with stores := [] }) (s.drainCore c) :=
  .foldl (fun st _ => st.pathFrame_writeTarget c _ _ _ _) _ _

/-- Where nothing is buffered, nothing is performed. -/
theorem drainCore_of_empty {s : State} {c : Nat} (h : (s.core c).stores = []) : s.drainCore c = s.modCore c fun x => { x with stores := [] } := by
  rw [drainCore, h]
  rfl

theorem stores_drainCore : ((s.drainCore c).core c).stores = [] := by
  rw [(s.pathFrame_drainCore c).stores, modCore, core_setCore, if_pos rfl]

/-- R227: performing a core's stores may wake sleepers. -/
theorem wokenAs_drainCore (j : Nat) : WokenAs (s.thread j) ((s.drainCore c).thread j) := (s.pathFrame_drainCore c).threads j

theorem notices_drainCore : (s.drainCore c).notices = s.notices := (s.pathFrame_drainCore c).notices

theorem me_drainCore : (s.drainCore c).me = s.me := congrArg Focus.thread (s.pathFrame_drainCore c).focus

end State

end Sys2Proof.Machine
end

section
/-! Saving a thread: its record, and what else it keeps (R354, R416). -/

namespace Sys2Proof.Machine

namespace State

/-! ### A thread that is saved (R354, R416) -/

theorem get_writeWords_outside (m : List Host.Cell) {a b : Nat} (l : List Word) (hb : b < a ∨ a + 8 * l.length ≤ b) :
    Memory.get (writeWords m a l) b = Memory.get m b := by
  induction l generalizing m a with
  | nil => rfl
  | cons w l ih =>
    rw [List.length_cons] at hb
    rw [writeWords, ih _ (by omega), Memory.get_write_other _ _ _ _ _ (by omega)]

/-- The first doubleword of a record. -/
theorem read_writeWords_head (m : List Host.Cell) (a : Nat) (w : Word) (l : List Word) : Memory.read (writeWords m a (w :: l)) a 8 = w.toNat := by
  rw [writeWords, Memory.read_congr (m' := Memory.write m a 8 w.toNat) fun b h1 h2 => get_writeWords_outside _ _ (by omega), read_write_dword, word_toNat_mod]

/-- R354: a record is 60 doublewords. -/
theorem length_recordWords (s : State) (k : Nat) : (s.recordWords k).length = 60 := by
  have hflat : ∀ l : List PendTrap, (l.flatMap fun p => [wd (2 ^ 63 + p.code), p.frec.f0]).length = 2 * l.length := by
    intro l
    induction l with
    | nil => rfl
    | cons p l ih => rw [List.flatMap_cons, List.length_append, ih, List.length_cons, List.length_cons, List.length_cons, List.length_nil]; omega
  unfold recordWords recordCsrs
  simp only [List.length_append, List.length_map, List.length_range', List.length_replicate, List.length_cons, List.length_nil, hflat, List.length_take]
  omega

/-- R354: the words of a READY thread's record begin with its state and its pc. -/
theorem recordWords_of_ready {s : State} {k : Nat} (h : (s.thread k).run = .ready) : ∃ l, s.recordWords k = 1 :: (s.thread k).pc :: l := by
  unfold recordWords
  dsimp only
  have hword : wd (runNumber (s.thread k).run + (if (s.thread k).run == .waiting then waitNumber (s.thread k).wait.code else 0) * 256) = 1 := by
    rw [h, if_neg (by decide)]
    rfl
  rw [hword]
  simp only [List.cons_append]
  exact ⟨_, rfl⟩

/-- R416: what saving a thread that waits for no load and no division does to memory. -/
def savedMem (s : State) (k : Nat) : List Host.Cell :=
  match s.recordAt k with
  | some a => writeWords s.mem a (s.recordWords k ++ List.replicate 68 0)
  | none => s.mem

theorem divideDone_of_not {s : State} {k : Nat} (h : ∀ v, (s.core (coreOf k)).divider = some v → v.thread ≠ k) : s.divideDone k = s := by
  unfold divideDone
  split
  · next v hv => rw [if_neg (h v hv)]
  · rfl

/-- Thread `k` may have other general registers; the other threads and the buffered stores are as before. -/
structure RegsFrame (k : Nat) (s t : State) : Prop where
  thread : ∃ g, t.thread k = { s.thread k with gpr := g }
  others : s.otherThreads t k
  stores : ∀ c, (t.core c).stores = (s.core c).stores
  focus : t.focus = s.focus

theorem RegsFrame.refl (k : Nat) (s : State) : RegsFrame k s s := ⟨⟨_, rfl⟩, fun _ _ => rfl, fun _ => rfl, rfl⟩

theorem RegsFrame.trans {k : Nat} {s t u : State} (h : RegsFrame k s t) (h' : RegsFrame k t u) : RegsFrame k s u := by
  obtain ⟨g, hg⟩ := h.thread
  obtain ⟨g', hg'⟩ := h'.thread
  exact ⟨⟨g', by rw [hg', hg]⟩, otherThreads_trans h.others h'.others, fun c => (h'.stores c).trans (h.stores c), h'.focus.trans h.focus⟩

theorem regsFrame_setGprOf (s : State) (k : Nat) (r : Reg) (v : Word) : RegsFrame k s (s.setGprOf k r v) := by
  unfold setGprOf
  split
  · exact .refl k s
  · exact ⟨⟨_, by rw [modThread, thread_setThread, if_pos rfl]⟩, otherThreads_setThread _ _ _, fun _ => rfl, rfl⟩

theorem regsFrame_divideDone (s : State) (k : Nat) : RegsFrame k s (s.divideDone k) := by
  unfold divideDone
  split
  · split
    · refine (s.regsFrame_setGprOf k _ _).trans ⟨⟨_, rfl⟩, fun _ _ => rfl, fun c => ?_, rfl⟩
      rw [modCore, core_setCore]
      split
      · next h => rw [← h]
      · rfl
    · exact .refl k s
  · exact .refl k s

/-- R354: the loads of a thread return. -/
def returnLoads (s : State) (k : Nat) : State :=
  ((s.thread k).loads.foldl (fun st l => st.setGprOf k l.gd l.value) (s.divideDone k)).modThread k fun t => { t with loads := [], busy := [] }

theorem regsFrame_foldl_setGprOf (k : Nat) (l : List LoadSt) (s : State) : RegsFrame k s (l.foldl (fun st x => st.setGprOf k x.gd x.value) s) := by
  induction l generalizing s with
  | nil => exact .refl k s
  | cons x l ih => exact (s.regsFrame_setGprOf k _ _).trans (ih _)

/-- R354, R357: a saved thread rests unless it is STOPPED. -/
def restedThread (t : ThreadSt) (at_ : Nat) : ThreadSt :=
  { t with run := if t.run = .stopped then .stopped else .resting, savedRun := t.run, savedAt := at_, predictor := [], returns := [] }

theorem saveThread_eq (s : State) (k : Nat) : s.saveThread k =
    State.setThread { s.returnLoads k with mem := (s.returnLoads k).savedMem k } k (restedThread ((s.returnLoads k).thread k) s.cycle) := by
  unfold saveThread savedMem returnLoads
  dsimp only
  generalize recordAt _ k = place
  cases place <;> rfl

/-- R354, R416: what a saved thread holds. -/
theorem thread_saveThread (s : State) (k : Nat) :
    ∃ g, (s.saveThread k).thread k = restedThread { s.thread k with gpr := g, loads := [], busy := [] } s.cycle := by
  obtain ⟨g, hg⟩ := ((s.regsFrame_divideDone k).trans (regsFrame_foldl_setGprOf k (s.thread k).loads _)).thread
  refine ⟨g, ?_⟩
  rw [saveThread_eq, thread_setThread, if_pos rfl, returnLoads, modThread, thread_setThread, if_pos rfl, hg]

theorem otherThreads_saveThread (s : State) (k : Nat) : s.otherThreads (s.saveThread k) k := by
  rw [saveThread_eq]
  exact otherThreads_trans (otherThreads_trans ((s.regsFrame_divideDone k).trans (regsFrame_foldl_setGprOf k (s.thread k).loads _)).others
    (otherThreads_setThread _ _ _)) (otherThreads_setThread _ _ _)

theorem stores_saveThread (s : State) (k c : Nat) : ((s.saveThread k).core c).stores = (s.core c).stores := by
  rw [saveThread_eq]
  exact ((s.regsFrame_divideDone k).trans (regsFrame_foldl_setGprOf k (s.thread k).loads _)).stores c

theorem me_saveThread (s : State) (k : Nat) : (s.saveThread k).me = s.me := by
  rw [saveThread_eq]
  exact congrArg Focus.thread ((s.regsFrame_divideDone k).trans (regsFrame_foldl_setGprOf k (s.thread k).loads _)).focus

/-- A thread that waits for no load and no division has nothing to return. -/
theorem returnLoads_of_none {s : State} {k : Nat} (hloads : (s.thread k).loads = [])
    (hdiv : ∀ v, (s.core (coreOf k)).divider = some v → v.thread ≠ k) : s.returnLoads k = s.modThread k fun t => { t with loads := [], busy := [] } := by
  rw [returnLoads, hloads, divideDone_of_not hdiv]
  rfl

theorem sameRegs_saveThread {s : State} {k : Nat} (hloads : (s.thread k).loads = [])
    (hdiv : ∀ v, (s.core (coreOf k)).divider = some v → v.thread ≠ k) : s.sameRegs (s.saveThread k) := by
  rw [saveThread_eq, returnLoads_of_none hloads hdiv]
  exact sameRegs_trans (sameRegs_modThread (s := s) (k := k) (f := fun t => { t with loads := [], busy := [] }) rfl) (sameRegs_setThread rfl)

/-- R354: where a thread's record stands depends on its tenant, its core's partition and the place's window. -/
theorem recordAt_setThread {s : State} {k : Nat} {x : ThreadSt} (h : x.tenant = (s.thread k).tenant) : (s.setThread k x).recordAt k = s.recordAt k := by
  unfold recordAt
  rw [thread_setThread, if_pos rfl, h]
  rfl

/-- R354: the memory after a READY thread that waits for nothing has been saved. -/
theorem bytes_saveThread {s : State} {k : Nat} (hloads : (s.thread k).loads = []) (hdiv : ∀ v, (s.core (coreOf k)).divider = some v → v.thread ≠ k)
    (hrun : (s.thread k).run = .ready) :
    match s.recordAt k with
    | some a => s.sameBytesBut (s.saveThread k) a 1024 ∧ Memory.read (s.saveThread k).mem a 8 = 1 ∧
        Memory.read (s.saveThread k).mem (a + 8) 8 = (s.thread k).pc.toNat
    | none => s.sameBytes (s.saveThread k) := by
  have hmem : (s.saveThread k).mem = (s.modThread k fun t => { t with loads := [], busy := [] }).savedMem k := by
    rw [saveThread_eq, returnLoads_of_none hloads hdiv]
    rfl
  have hthread : (s.modThread k fun t => { t with loads := [], busy := [] }).thread k = { s.thread k with loads := [], busy := [] } := by
    rw [modThread, thread_setThread, if_pos rfl]
  have hrecord : (s.modThread k fun t => { t with loads := [], busy := [] }).recordAt k = s.recordAt k := recordAt_setThread rfl
  obtain ⟨l, hl⟩ := recordWords_of_ready (s := s.modThread k fun t => { t with loads := [], busy := [] }) (k := k) (by rw [hthread]; exact hrun)
  have hlength := (s.modThread k fun t => { t with loads := [], busy := [] }).length_recordWords k
  rw [hthread] at hl
  rw [savedMem, hrecord, hl] at hmem
  rw [hl] at hlength
  cases hat : s.recordAt k with
  | none =>
    intro b
    rw [hmem, hat]
    rfl
  | some a =>
    rw [hat] at hmem
    dsimp only at hmem ⊢
    rw [hmem]
    refine ⟨fun b hb => ?_, ?_, ?_⟩
    · rw [hmem]
      refine get_writeWords_outside _ _ ?_
      rw [List.length_append, hlength, List.length_replicate]
      omega
    · rw [List.cons_append, read_writeWords_head]
      rfl
    · rw [List.cons_append, writeWords, List.cons_append, read_writeWords_head]

end State

end Sys2Proof.Machine
end

section
/-! O18: ERET, HALT and DONATE (R27, R73, R75, R76, R326, R333, R416). -/

namespace Sys2Proof.Machine

theorem exec_eret (s : State) : exec .eret s = execEret s := rfl

theorem exec_donate (s : State) : exec .donate s = execDonate s := rfl

/-! ### ERET by its cases -/

/-- R326: the thread that ERET leaves in the way back from the supervisor's handler. -/
def returned (s : State) : State :=
  s.setThread s.me { s.cur with pc := s.cur.sepc &&& ~~~3#64, mode := s.cur.spmode, sexl := false, notBefore := s.cycle + State.trapGap }

theorem execEret_tenant {s : State} (hmode : s.cur.mode = false) (hexl : s.cur.exl = true) :
    execEret s = .next (s.setThread s.me { s.cur with pc := s.cur.epc &&& ~~~3#64, mode := s.cur.pmode, exl := false, notBefore := s.cycle + State.trapGap }) := by
  rw [execEret, if_neg (by simp [hmode]), if_neg (by simp [hexl])]

theorem execEret_supervisor {s : State} (hmode : s.cur.mode = true) (hsexl : s.cur.sexl = true)
    (h : s.cur.spmode = true ∨ (s.running s.myPart = s.cur.tenant ∧ (s.part s.myPart).inGuard = false)) : execEret s = .next (returned s) := by
  rw [execEret, if_pos hmode, if_neg (by simp [hsexl])]
  dsimp only
  rw [if_pos (by rcases h with h | ⟨h, hguard⟩ <;> simp [State.tenantRuns, *])]
  rfl

theorem execEret_resting {s : State} (hmode : s.cur.mode = true) (hsexl : s.cur.sexl = true) (hspmode : s.cur.spmode = false)
    (h : s.running s.myPart ≠ s.cur.tenant ∨ (s.part s.myPart).inGuard = true) :
    execEret s = .next (((returned s).drainCore s.myCore).saveThread s.me) := by
  rw [execEret, if_pos hmode, if_neg (by simp [hsexl])]
  dsimp only
  rw [if_neg (by rcases h with h | h <;> simp [State.tenantRuns, h, hspmode])]
  rfl

theorem execEret_illegal {s : State} (h : (s.cur.mode = false ∧ s.cur.exl = false) ∨ (s.cur.mode = true ∧ s.cur.sexl = false)) :
    execEret s = s.raiseIllegal (wordOf .eret) := by
  rcases h with ⟨hmode, hexl⟩ | ⟨hmode, hsexl⟩
  · rw [execEret, if_neg (by simp [hmode]), if_pos (by simp [hexl])]
  · rw [execEret, if_pos hmode, if_pos (by simp [hsexl])]

theorem thread_returned (s : State) : (returned s).thread s.me =
    { s.cur with pc := s.cur.sepc &&& ~~~3#64, mode := s.cur.spmode, sexl := false, notBefore := s.cycle + State.trapGap } := by
  rw [returned, State.thread_setThread, if_pos rfl]

/-- A READY thread is not asleep: a write changes nothing in it. -/
theorem WokenAs.eq_of_ready {x y : ThreadSt} (h : WokenAs x y) (hrun : x.run = .ready) : y = x := by
  rcases h with h | ⟨hasleep, -⟩
  · exact h
  · rw [asleep, hrun] at hasleep
    exact absurd hasleep (by simp)

/-- R416: the bytes and registers that ERET to a rest leaves, where the core has no buffered store and the thread waits for nothing. -/
theorem savedThread_of_empty {s : State} (hrun : s.cur.run = .ready) (hstores : (s.core s.myCore).stores = []) (hloads : s.cur.loads = [])
    (hdiv : ∀ v, (s.core s.myCore).divider = some v → v.thread ≠ s.me) :
    let t := ((returned s).drainCore s.myCore).saveThread s.me
    s.sameRegs t ∧ s.otherThreads t s.me ∧
      match s.recordAt s.me with
      | some a => s.sameBytesBut t a 1024 ∧ Memory.read t.mem a 8 = 1 ∧ Memory.read t.mem (a + 8) 8 = (s.cur.sepc &&& ~~~3).toNat
      | none => s.sameBytes t := by
  dsimp only
  rw [show (returned s).drainCore s.myCore = (returned s).modCore s.myCore fun x => { x with stores := [] } from State.drainCore_of_empty hstores]
  have hcore : (((returned s).modCore s.myCore fun x => { x with stores := [] }).core (coreOf s.me)).divider = (s.core s.myCore).divider := by
    rw [State.modCore, State.core_setCore, if_pos (show s.myCore = coreOf s.me from rfl)]
    rfl
  have hthread : ((returned s).modCore s.myCore fun x => { x with stores := [] }).thread s.me = _ := thread_returned s
  have hrecord : ((returned s).modCore s.myCore fun x => { x with stores := [] }).recordAt s.me = s.recordAt s.me := State.recordAt_setThread rfl
  have hregs : s.sameRegs ((returned s).modCore s.myCore fun x => { x with stores := [] }) := State.sameRegs_setThread rfl
  have hothers : s.otherThreads ((returned s).modCore s.myCore fun x => { x with stores := [] }) s.me := State.otherThreads_setThread _ _ _
  have hmem : ((returned s).modCore s.myCore fun x => { x with stores := [] }).mem = s.mem := rfl
  generalize (returned s).modCore s.myCore (fun x => { x with stores := [] }) = u at hcore hthread hrecord hregs hothers hmem ⊢
  have hl : (u.thread s.me).loads = [] := by rw [hthread]; exact hloads
  have hd : ∀ v, (u.core (coreOf s.me)).divider = some v → v.thread ≠ s.me := by rw [hcore]; exact hdiv
  have hbytes := State.bytes_saveThread hl hd (by rw [hthread]; exact hrun)
  rw [hrecord, hthread] at hbytes
  refine ⟨State.sameRegs_trans hregs (State.sameRegs_saveThread hl hd), State.otherThreads_trans hothers (State.otherThreads_saveThread _ _), ?_⟩
  simp only [State.sameBytesBut, State.sameBytes, hmem] at hbytes ⊢
  exact hbytes

/-! ### HALT -/

/-- R227: a thread that stops leaves no trace of having been woken. -/
theorem WokenAs.stopped_eq {x y : ThreadSt} (h : WokenAs x y) (at_ : Word) :
    { y with run := .stopped, wait := {}, resume := at_, pc := at_ } = { x with run := .stopped, wait := {}, resume := at_, pc := at_ } := by
  rcases h with rfl | ⟨-, rfl⟩ <;> rfl

/-- R73: the thread of HALT after its core's stores, before the notice. -/
def halted (s : State) : State := (s.drainCore s.myCore).stopThread s.me (s.pc + 4)

theorem thread_halted (s : State) : (halted s).thread s.me = { s.cur with run := .stopped, wait := {}, resume := s.pc + 4, pc := s.pc + 4 } := by
  rw [halted, State.thread_stopThread]
  exact (s.wokenAs_drainCore s.myCore s.me).stopped_eq _

theorem wokenAs_halted (s : State) {j : Nat} (hj : j ≠ s.me) : WokenAs (s.thread j) ((halted s).thread j) := by
  rw [halted, State.stopThread, State.modThread, State.thread_setThread, if_neg (Ne.symm hj)]
  exact s.wokenAs_drainCore s.myCore j

theorem halted_of_empty {s : State} (h : (s.core s.myCore).stores = []) :
    halted s = (s.modCore s.myCore fun x => { x with stores := [] }).stopThread s.me (s.pc + 4) := by
  rw [halted, State.drainCore_of_empty h]

/-! ### DONATE -/

/-- A field of a word, as the statements write it. -/
theorem fld_eq_extractLsb' (w : Word) (lo n : Nat) : fld w lo n = (w.extractLsb' lo n).toNat := by
  rw [BitVec.extractLsb'_toNat, Nat.shiftRight_eq_div_pow]
  rfl

theorem State.stepLen_pos (s : State) : 0 < s.stepLen := by
  unfold State.stepLen
  cases s.sweep <;> decide

/-- R333: the edge of a donation is at least 1024 cycles away. -/
theorem le_donationSteps (s : State) : s.stepCyc + 1024 ≤ donationSteps s * s.stepLen := by
  have hpos := s.stepLen_pos
  have hlt := Nat.lt_div_mul_add hpos (a := s.stepCyc + 1024 + s.stepLen - 1)
  show s.stepCyc + 1024 ≤ (s.stepCyc + 1024 + s.stepLen - 1) / s.stepLen * s.stepLen
  omega

/-- R333: the edge of a donation is the first one. -/
theorem donationSteps_le {s : State} {m : Nat} (h : s.stepCyc + 1024 ≤ m * s.stepLen) : donationSteps s ≤ m := by
  have hpos := s.stepLen_pos
  refine Nat.le_of_lt_succ ((Nat.div_lt_iff_lt_mul hpos).mpr ?_)
  rw [Nat.succ_mul]
  show s.stepCyc + 1024 + s.stepLen - 1 < _
  omega

/-- R333: what lets the DONATE of the slot of entry `i`, `w` book its edge. -/
def booksEdge (s : State) (i : Nat) (w : Word) : Prop :=
  s.entryAt s.myPart s.cursor = some (i, w) ∧ s.cur.mode = false ∧ s.cur.tenant ≠ 0 ∧ s.running s.myPart = s.cur.tenant ∧
    s.donated s.myPart i = false ∧ (w.extractLsb' 32 8).toNat = s.cur.tenant ∧ w.extractLsb' 40 8 ≠ 0 ∧ (s.part s.myPart).donation = none ∧
    donationSteps s * s.stepLen + 1024 < ((w.extractLsb' 12 12).toNat + 1 - s.cursor) * s.stepLen

/-- R76: DONATE with its edge booked. -/
def booked (s : State) (i : Nat) : State :=
  let at_ := s.passNo * 4096 + s.cursor + donationSteps s
  (s.modPart s.myPart fun x => { x with donation := some { entry := i, pass := at_ / 4096, cursor := at_ % 4096, inForce := false } }).advance

theorem execDonate_eq {s : State} {i : Nat} {w : Word} (hentry : s.entryAt s.myPart s.cursor = some (i, w)) [Decidable (booksEdge s i w)] :
    execDonate s = .next (if booksEdge s i w then booked s i else s.advance) := by
  have hat : State.guardCycles = 1024 := rfl
  have hlen := le_donationSteps s
  have howner : State.rotOwner w = (w.extractLsb' 32 8).toNat := fld_eq_extractLsb' w 32 8
  have hend : State.rotEnd w = (w.extractLsb' 12 12).toNat := fld_eq_extractLsb' w 12 12
  have hdonee : State.rotDonee w ≠ 0 ↔ w.extractLsb' 40 8 ≠ 0 := by
    rw [State.rotDonee, fld_eq_extractLsb', ne_eq, ne_eq, ← BitVec.toNat_inj]
    rfl
  have hearly : s.cyclesTo (donationSteps s) < s.cyclesTo ((w.extractLsb' 12 12).toNat + 1 - s.cursor) - State.guardCycles ↔
      donationSteps s * s.stepLen + 1024 < ((w.extractLsb' 12 12).toNat + 1 - s.cursor) * s.stepLen := by
    unfold State.cyclesTo
    rw [hat]
    omega
  have hbooks : booksEdge s i w ↔ (!s.cur.mode && s.cur.tenant != 0 && s.running s.myPart == s.cur.tenant && !s.donated s.myPart i &&
      State.rotOwner w == s.cur.tenant && State.rotDonee w != 0 && (s.part s.myPart).donation.isNone &&
      decide (s.cyclesTo (donationSteps s) < s.cyclesTo (State.rotEnd w + 1 - s.cursor) - State.guardCycles)) = true := by
    simp only [booksEdge, hentry, howner, hend, hdonee, hearly, Bool.and_eq_true, bne_iff_ne, beq_iff_eq, Bool.not_eq_true', decide_eq_true_eq,
      Option.isNone_iff_eq_none, and_assoc, true_and]
  unfold execDonate
  dsimp only
  rw [hentry]
  dsimp only
  by_cases h : booksEdge s i w
  · rw [if_pos (hbooks.mp h), if_pos h]
    rfl
  · rw [if_neg (mt hbooks.mpr h), if_neg h]

theorem execDonate_books {s : State} {i : Nat} {w : Word} (h : booksEdge s i w) : execDonate s = .next (booked s i) := by
  classical
  rw [execDonate_eq h.1, if_pos h]

theorem execDonate_nop {s : State} (h : ∀ i w, ¬ booksEdge s i w) : execDonate s = .next s.advance := by
  classical
  cases hentry : s.entryAt s.myPart s.cursor with
  | some e => rw [execDonate_eq (i := e.1) (w := e.2) hentry, if_neg (h _ _)]
  | none => rw [execDonate, hentry]

/-- Settles O18, by the cases of each of the three instructions. -/
theorem returnHaltAndDonate : Obligations.ReturnHaltAndDonate := by
  intro s x k c p
  refine ⟨fun hmode hexl => ?_, fun hmode hsexl h => ?_, fun hmode hsexl hspmode h hrun => ?_, fun h => ?_, ?_, ?_⟩
  · exact ⟨_, (exec_eret s).trans (execEret_tenant hmode hexl), State.cur_setThread _ _, State.otherThreads_setThread _ _ _, rfl, fun _ => rfl⟩
  · exact ⟨_, (exec_eret s).trans (execEret_supervisor hmode hsexl h), State.cur_setThread _ _, State.otherThreads_setThread _ _ _, rfl, fun _ => rfl⟩
  · have hthread : ((returned s).drainCore c).thread k = (returned s).thread k :=
      ((returned s).wokenAs_drainCore c k).eq_of_ready (by rw [thread_returned]; exact hrun)
    rw [thread_returned] at hthread
    obtain ⟨g, hg⟩ := ((returned s).drainCore c).thread_saveThread k
    rw [hthread] at hg
    have hcur : (((returned s).drainCore c).saveThread k).cur = _ := (congrArg _ ((State.me_saveThread _ _).trans (State.me_drainCore _ _))).trans hg
    refine ⟨_, (exec_eret s).trans (execEret_resting hmode hsexl hspmode h), ?_, ?_, ?_, ?_, ?_, fun j hj => ?_, ?_, fun hstores hloads hdiv => ?_⟩
    · rw [hcur]
      exact if_neg (by rw [hrun]; decide)
    · rw [hcur]
      exact hrun
    · rw [hcur]
      exact hspmode
    · rw [hcur]
      rfl
    · rw [State.pc, hcur]
      rfl
    · rw [State.otherThreads_saveThread _ _ j hj]
      refine WokenAs.trans ?_ ((returned s).wokenAs_drainCore c j)
      rw [returned, State.thread_setThread, if_neg (Ne.symm hj)]
      exact .refl _
    · rw [State.stores_saveThread]
      exact State.stores_drainCore _ _
    · exact savedThread_of_empty hrun hstores hloads hdiv
  · exact traps_of_raise ((exec_eret s).trans (execEret_illegal h))
  · have hexec : exec .halt s = .next (if x.mode then halted s else (halted s).threadNotice k 1 0 (s.pc + 4) 0) := rfl
    have hcur : (halted s).thread (halted s).me = _ := (congrArg _ (State.me_drainCore s c)).trans (thread_halted s)
    by_cases hmode : x.mode = true
    · rw [if_pos hmode] at hexec
      refine ⟨_, hexec, hcur, fun j hj => wokenAs_halted s hj, State.stores_drainCore s c, fun _ => State.notices_drainCore s c, fun hstores => ?_⟩
      rw [halted_of_empty hstores]
      exact ⟨State.otherThreads_setThread _ _ _, fun _ _ => rfl, fun h => absurd hmode (by rw [h]; decide)⟩
    · rw [if_neg hmode] at hexec
      refine ⟨_, hexec, hcur, fun j hj => wokenAs_halted s hj, State.stores_drainCore s c, fun h => absurd h hmode, fun hstores => ?_⟩
      rw [halted_of_empty hstores]
      refine ⟨State.otherThreads_setThread _ _ _, fun h => absurd h hmode, fun _ => State.notified_threadNotice _ _ _ _ rfl rfl rfl ?_⟩
      rw [State.thread_stopThread]
      rfl
  · by_cases h : ∃ i w, booksEdge s i w
    · obtain ⟨i, w, hbooks⟩ := h
      refine ⟨_, donationSteps s, (exec_donate s).trans (execDonate_books hbooks), State.cur_setThread _ _, State.otherThreads_setThread _ _ _, fun _ => rfl, rfl,
        fun q hq => ?_, le_donationSteps s, fun m hm => donationSteps_le hm, fun j v hacts => ?_, fun hno => absurd hbooks (hno i w)⟩
      · exact (State.part_setPart _ _ _ _).trans (if_neg (Ne.symm hq))
      · have hij : i = j := congrArg Prod.fst (Option.some.inj (hbooks.1.symm.trans hacts.1))
        subst hij
        exact (State.part_setPart _ _ _ _).trans (if_pos rfl)
    · have hnone : ∀ i w, ¬ booksEdge s i w := fun i w hb => h ⟨i, w, hb⟩
      exact ⟨_, donationSteps s, (exec_donate s).trans (execDonate_nop hnone), State.cur_setThread _ _, State.otherThreads_setThread _ _ _, fun _ => rfl, rfl,
        fun _ _ => rfl, le_donationSteps s, fun m hm => donationSteps_le hm, fun j v hacts => absurd hacts (hnone j v), fun _ => rfl⟩

end Sys2Proof.Machine
end

section
/-! The management controller (R379): how a request is answered, and the requests of one step each. -/

namespace Sys2Proof.Machine

/-- R379: a request that its rule allows is granted with its effect; any other is refused and changes nothing but the answer. -/
def Serves (s : State) (i : Instr) (ok : Prop) (eff : State → Prop) : Prop :=
  (ok → ∃ t, exec i s = .next t ∧ eff t) ∧
    (¬ ok → ∃ t v, exec i s = .next t ∧ t.hub = { s.hub with refused := true, reply := [v] } ∧ { t with hub := s.hub, freeCount := s.freeCount } = s)

theorem serves_of_manage {s : State} {i : Instr} {ok : Bool} {f : State → State} {allowed : Prop} {eff : State → Prop}
    (hexec : exec i s = s.manage ok f) (hok : ok = true ↔ allowed) (heff : allowed → eff (f (s.grantRequest []))) : Serves s i allowed eff := by
  unfold State.manage at hexec
  refine ⟨fun h => ⟨_, ?_, heff h⟩, fun h => ⟨s.refuseRequest, s.drawFree.1, ?_, rfl, rfl⟩⟩
  · rw [hexec, if_pos (hok.mpr h)]
  · rw [hexec, if_neg (mt hok.mp h)]

/-! ### Claims (R356, R379) -/

theorem fld_bit_iff (w : Word) (n : Nat) : (fld w n 1 == 1) = w.getLsbD n := by
  rw [BitVec.getLsbD, Nat.testBit_eq_decide_div_mod_eq, fld, bits]
  rfl

namespace State

theorem mem_partCores {s : State} {p c : Nat} : c ∈ s.partCores p ↔ c < numCores ∧ (s.part p).hasCore c = true := by
  rw [partCores, List.mem_filter, List.mem_range]

theorem any_place_claim (s : State) (p : Nat) :
    ((List.range' 1 15).any fun n => (s.place p n).claim.isSome) = true ↔ ∃ n, 1 ≤ n ∧ n < 16 ∧ (s.place p n).claim ≠ none := by
  simp only [List.any_eq_true, List.mem_range'_1, Option.isSome_iff_ne_none]
  exact ⟨fun ⟨n, ⟨h1, h2⟩, h⟩ => ⟨n, h1, by omega, h⟩, fun ⟨n, h1, h2, h⟩ => ⟨n, ⟨h1, by omega⟩, h⟩⟩

theorem any_core_claim (s : State) (p : Nat) :
    ((s.partCores p).any fun c => (s.core c).claim.isSome) = true ↔ ∃ c < numCores, (s.part p).hasCore c = true ∧ (s.core c).claim ≠ none := by
  simp only [List.any_eq_true, mem_partCores, Option.isSome_iff_ne_none, and_assoc]

/-- R356: the claim on a target after it is set. -/
theorem claimOf_setClaim (s : State) (x : ClaimTarget) (m : Option Master) : (s.setClaim x m).claimOf x = m := by
  cases x with
  | tenant p n => simp only [setClaim, claimOf, place, modPlace, setPlace, Table.getD_put, if_true]
  | core c => simp only [setClaim, claimOf, modCore, core_setCore, if_true]

/-- A claim is a mark of a place or a core: nothing else changes. -/
theorem setClaim_frame (s : State) (x : ClaimTarget) (m : Option Master) :
    (s.setClaim x m).threads = s.threads ∧ (s.setClaim x m).mem = s.mem ∧ (s.setClaim x m).hub = s.hub := by
  cases x <;> exact ⟨rfl, rfl, rfl⟩

/-- R357: a thread that the release frees from its mark. -/
theorem find?_unmarkStops (s : State) (x : ClaimTarget) (k : Nat) :
    Table.find? (s.unmarkStops x).threads k = (Table.find? s.threads k).map fun y => if s.underClaim k x then { y with brkStop := false } else y := by
  unfold unmarkStops
  rw [Table.find?_map (by intro e; dsimp only; split <;> rfl)]
  congr 1
  funext y
  dsimp only
  split <;> rfl

theorem sameRegs_unmarkStops (s : State) (x : ClaimTarget) : s.sameRegs (s.unmarkStops x) := by
  intro k r
  have hgpr : ((s.unmarkStops x).thread k).gpr = (s.thread k).gpr := by
    rw [thread, thread, Table.getD, Table.getD, find?_unmarkStops]
    cases Table.find? s.threads k with
    | none => rfl
    | some y =>
      rw [Option.map_some, Option.getD_some, Option.getD_some]
      split <;> rfl
  rw [gprOf_eq, gprOf_eq, hgpr]

end State

/-- R379: the target of a claim exists. -/
def realTarget (s : State) : ClaimTarget → Prop
  | .tenant p n => p < numParts ∧ 1 ≤ n ∧ n < 16 ∧ (s.place p n).tcfg.getLsbD 63 = true
  | .core c => c < numCores

theorem targetOk_iff (s : State) (x : ClaimTarget) : s.targetOk x = true ↔ realTarget s x := by
  cases x with
  | tenant p n => simp only [State.targetOk, realTarget, fld_bit_iff, Bool.and_eq_true, decide_eq_true_eq, and_assoc]
  | core c => simp only [State.targetOk, realTarget, decide_eq_true_eq]

/-- R379: a claim covers a core of the target. -/
def claimCovers (s : State) : ClaimTarget → Prop
  | .tenant p _ => (∃ n, 1 ≤ n ∧ n < 16 ∧ (s.place p n).claim ≠ none) ∨ ∃ c < numCores, (s.part p).hasCore c = true ∧ (s.core c).claim ≠ none
  | .core c => (s.core c).claim ≠ none ∨ ∃ n, 1 ≤ n ∧ n < 16 ∧ (s.place (s.partOf c) n).claim ≠ none

theorem claimStands_iff (s : State) (x : ClaimTarget) : s.claimStands x = true ↔ claimCovers s x := by
  cases x with
  | tenant p n => simp only [State.claimStands, claimCovers, Bool.or_eq_true, State.any_place_claim, State.any_core_claim]
  | core c => simp only [State.claimStands, claimCovers, Bool.or_eq_true, State.any_place_claim, Option.isSome_iff_ne_none]

/-- R356: the thread lies under a claim on the target. -/
def liesUnder (s : State) (k : Nat) : ClaimTarget → Prop
  | .tenant p n => s.partOf (coreOf k) = p ∧ s.placeOf p (s.thread k).tenant = some n
  | .core c => coreOf k = c

theorem underClaim_iff (s : State) (k : Nat) (x : ClaimTarget) : s.underClaim k x = true ↔ liesUnder s k x := by
  cases x with
  | tenant p n => simp only [State.underClaim, liesUnder, Bool.and_eq_true, beq_iff_eq]
  | core c => simp only [State.underClaim, liesUnder, beq_iff_eq]

/-- R356, R379. -/
theorem breakClaim_served (s : State) : Serves s .breakClaim (realTarget s s.focus.target ∧ ¬ claimCovers s s.focus.target) fun t =>
    t.claimOf s.focus.target = some s.focus.master ∧ t.threads = s.threads ∧ t.mem = s.mem ∧ t.hub = { s.hub with refused := false, reply := [] } := by
  refine serves_of_manage (f := fun st => st.setClaim s.focus.target (some s.focus.master)) rfl ?_ fun _ => ⟨State.claimOf_setClaim _ _ _, State.setClaim_frame _ _ _⟩
  rw [Bool.and_eq_true, targetOk_iff, Bool.not_eq_true', ← Bool.not_eq_true, claimStands_iff]

/-- R357, R379: a release frees the threads that BRK stopped under the claim from their mark. -/
theorem breakRelease_served (s : State) : Serves s .breakRelease (s.claimOf s.focus.target = some s.focus.master) fun t =>
    t.claimOf s.focus.target = none ∧ s.sameRegs t ∧ t.mem = s.mem ∧ ∀ k x, Table.find? s.threads k = some x →
      ∃ z, Table.find? t.threads k = some z ∧ (liesUnder s k s.focus.target → z = { x with brkStop := false }) ∧ (¬ liesUnder s k s.focus.target → z = x) := by
  refine serves_of_manage (f := fun st => (st.unmarkStops s.focus.target).setClaim s.focus.target none) rfl beq_iff_eq fun _ => ?_
  obtain ⟨hthreads, hmem, -⟩ := State.setClaim_frame ((s.grantRequest []).unmarkStops s.focus.target) s.focus.target none
  refine ⟨State.claimOf_setClaim _ _ _, ?_, hmem, fun k x hx => ⟨if s.underClaim k s.focus.target then { x with brkStop := false } else x, ?_, fun h => ?_, fun h => ?_⟩⟩
  · refine State.sameRegs_trans (State.sameRegs_unmarkStops (s.grantRequest []) s.focus.target) fun k r => ?_
    rw [State.gprOf, State.gprOf, State.thread, State.thread, hthreads]
  · rw [hthreads, State.find?_unmarkStops]
    exact congrArg (Option.map _) hx
  · exact if_pos ((underClaim_iff s k _).mpr h)
  · exact if_neg (mt (underClaim_iff s k _).mp h)

/-! ### A stopped thread goes on (R356, R357) -/

namespace State

theorem threads_resumeStopped (s : State) (k : Nat) (pc : Word) : (s.resumeStopped k pc).threads =
    (s.modThread k fun x => { x with run := s.readyOrResting k, savedRun := .ready, wait := {}, pc := pc, brkStop := false }).threads := by
  unfold resumeStopped
  dsimp only
  split <;> rfl

theorem thread_resumeStopped (s : State) (k : Nat) (pc : Word) : (s.resumeStopped k pc).thread k =
    { s.thread k with run := s.readyOrResting k, savedRun := .ready, wait := {}, pc := pc, brkStop := false } := by
  rw [thread, threads_resumeStopped]
  exact (thread_setThread _ _ _ _).trans (if_pos rfl)

theorem otherThreads_resumeStopped (s : State) (k : Nat) (pc : Word) : s.otherThreads (s.resumeStopped k pc) k := by
  intro j hj
  rw [thread, threads_resumeStopped]
  exact (thread_setThread _ _ _ _).trans (if_neg (Ne.symm hj))

theorem sameRegs_resumeStopped (s : State) (k : Nat) (pc : Word) : s.sameRegs (s.resumeStopped k pc) := by
  intro j r
  have hgpr : ((s.resumeStopped k pc).thread j).gpr = (s.thread j).gpr := by
    by_cases hj : j = k
    · rw [hj, thread_resumeStopped]
    · rw [s.otherThreads_resumeStopped k pc j hj]
  rw [gprOf_eq, gprOf_eq, hgpr]

theorem readyOrResting_eq (s : State) (k : Nat) [Decidable ((s.thread k).mode = true ∨ s.tenantRuns (s.partOf (coreOf k)) (s.thread k).tenant = true)] :
    s.readyOrResting k = if (s.thread k).mode = true ∨ s.tenantRuns (s.partOf (coreOf k)) (s.thread k).tenant = true then .ready else .resting := by
  unfold readyOrResting
  simp only [Bool.or_eq_true]

end State

/-- R356, R379. -/
theorem breakResume_served (s : State) : Serves s .breakResume (s.claimOf s.focus.target = some s.focus.master ∧ liesUnder s s.focus.thread s.focus.target ∧
      (s.thread s.focus.thread).run = .stopped ∧ (s.thread s.focus.thread).brkStop = true) fun t => s.sameRegs t ∧ s.otherThreads t s.focus.thread ∧
    let z := t.thread s.focus.thread; z.pc = (if s.focus.pc / 4 = 0 then (s.thread s.focus.thread).resume else s.focus.pc / 4 * 4) ∧ z.brkStop = false ∧
      z.run = if (s.thread s.focus.thread).mode = true ∨ s.tenantRuns (s.partOf (coreOf s.focus.thread)) (s.thread s.focus.thread).tenant = true then .ready else .resting := by
  refine serves_of_manage (f := fun st => st.resumeStopped s.focus.thread (if s.focus.pc / 4 = 0 then (s.thread s.focus.thread).resume else s.focus.pc / 4 * 4)) rfl ?_
    fun _ => ⟨State.sameRegs_resumeStopped _ _ _, State.otherThreads_resumeStopped _ _ _, ?_⟩
  · simp only [Bool.and_eq_true, beq_iff_eq, underClaim_iff, and_assoc]
  · dsimp only
    rw [State.thread_resumeStopped]
    exact ⟨rfl, rfl, State.readyOrResting_eq _ _⟩

/-- R357: the hub runtime restarts a thread as TRUN does. -/
theorem runtimeThreadRestart_served (s : State) :
    (numThreads ≤ s.focus.thread → exec .runtimeThreadRestart s = .refused .notEnabled) ∧ (s.focus.thread < numThreads →
      ((s.thread s.focus.thread).run ≠ .stopped ∨ (s.thread s.focus.thread).brkStop = true → exec .runtimeThreadRestart s = .next s) ∧
      ((s.thread s.focus.thread).run = .stopped → (s.thread s.focus.thread).brkStop = false → ∃ t, exec .runtimeThreadRestart s = .next t ∧ s.sameRegs t ∧
        s.otherThreads t s.focus.thread ∧ let z := t.thread s.focus.thread
          z.pc = (if s.focus.pc.toNat / 4 = 0 then (s.thread s.focus.thread).resume else BitVec.ofNat 64 (s.focus.pc.toNat / 4 * 4)) ∧
          z.run = if (s.thread s.focus.thread).mode = true ∨ s.tenantRuns (s.partOf (coreOf s.focus.thread)) (s.thread s.focus.thread).tenant = true then .ready else .resting)) := by
  have hexec : exec .runtimeThreadRestart s = execRuntimeThreadRestart s := rfl
  rw [hexec]
  unfold execRuntimeThreadRestart
  refine ⟨fun h => if_neg (Nat.not_lt.mpr h), fun h => ?_⟩
  rw [if_pos h]
  unfold State.restartThread
  refine ⟨fun hrun => ?_, fun hrun hbrk => ⟨_, rfl, ?_⟩⟩
  · dsimp only
    rw [if_neg]
    rcases hrun with hrun | hrun <;> simp [hrun]
  · dsimp only
    rw [if_pos (by simp [hrun, hbrk])]
    refine ⟨State.sameRegs_resumeStopped _ _ _, State.otherThreads_resumeStopped _ _ _, ?_⟩
    rw [State.thread_resumeStopped]
    exact ⟨rfl, State.readyOrResting_eq _ _⟩

end Sys2Proof.Machine
end

section
/-! The management controller (R356, R367, R379, R392): answers, locks, firmware, power, the reset of the device and checkpoints. -/

namespace Sys2Proof.Machine

theorem exec_readNotices (s : State) : exec .readNotices s = execReadNotices s := rfl

/-- R379: what READ_NOTICES answers. -/
def noticesRead (s : State) : List Word :=
  if s.focus.index = 0 then s.notices.flatMap (fun n => [n.word0, n.word1, n.detail0, n.detail1])
  else if s.focus.index = 1 then (List.range 32).map (fun j => BitVec.ofNat 64 (s.layer (j / 8) (j % 8)).temp)
  else if s.focus.index = 2 then [BitVec.ofNat 64 s.stepLen] else [BitVec.ofNat 64 s.hub.reason]

/-- R379. -/
theorem readNotices_answers (s : State) : exec .readNotices s = .next { s with hub := { s.hub with refused := false, reply := noticesRead s } } := by
  rw [exec_readNotices]
  unfold execReadNotices noticesRead State.grantRequest State.modHub
  match s.focus.index with
  | 0 => rfl
  | 1 => rfl
  | 2 => rfl
  | n + 3 =>
    rw [if_neg (by omega), if_neg (by omega), if_neg (by omega)]
    rfl

/-! ### Reset locks and firmware -/

/-- R379: a master's lock after it takes or drops it, and the other's. -/
theorem setLock_locks (s : State) (m : Master) (on : Bool) : (s.setLock m on).lockOf m = on ∧ (s.setLock m on).lockedOut m = s.lockedOut m := by
  cases m <;> exact ⟨rfl, rfl⟩

/-- A request that concerns the hub alone changes nothing else. -/
theorem hub_setLock (s : State) (m : Master) (on : Bool) (h : HubSt) : { s.setLock m on with hub := h } = { s with hub := h } := rfl

theorem lockedOut_grantRequest (s : State) (m : Master) : (s.grantRequest []).lockedOut m = s.lockedOut m := by cases m <;> rfl

/-- R379. -/
theorem takeResetLock_served (s : State) : ∃ t, exec .takeResetLock s = .next t ∧ t.lockOf s.focus.master = true ∧
    t.lockedOut s.focus.master = s.lockedOut s.focus.master ∧ { t with hub := s.hub } = s := by
  obtain ⟨hown, hother⟩ := setLock_locks (s.grantRequest []) s.focus.master true
  exact ⟨_, rfl, hown, hother.trans (lockedOut_grantRequest _ _), hub_setLock _ _ _ _⟩

/-- R379. -/
theorem dropResetLock_served (s : State) : Serves s .dropResetLock (s.lockOf s.focus.master = true) fun t => t.lockOf s.focus.master = false ∧
    t.lockedOut s.focus.master = s.lockedOut s.focus.master ∧ { t with hub := s.hub } = s := by
  obtain ⟨hown, hother⟩ := setLock_locks (s.grantRequest []) s.focus.master false
  exact serves_of_manage (f := fun st => st.setLock s.focus.master false) rfl Iff.rfl fun _ => ⟨hown, hother.trans (lockedOut_grantRequest _ _), hub_setLock _ _ _ _⟩

/-- R367, R379. -/
theorem loadFirmware_served (s : State) : Serves s .loadFirmware (s.focus.flag = true ∧ (s.focus.master = .sideBand ∨ s.hub.phase = .recovery)) fun t =>
    t.hub.firmware = s.focus.index ∧ t.hub.phase = s.hub.phase ∧ { t with hub := s.hub } = s := by
  refine serves_of_manage (f := fun st => st.modHub fun h => { h with firmware := s.focus.index }) rfl ?_ fun _ => ⟨rfl, rfl, rfl⟩
  rw [Bool.and_eq_true, Bool.or_eq_true, beq_iff_eq, beq_iff_eq]

/-! ### Cores held in reset, the reset of the device, and power -/

namespace State

/-- What holding cores in reset leaves as it was. -/
theorem holdCores_frame (s : State) (cs : List Nat) (m : Table CoreSt) : { s.holdCores cs with cores := m } = { s with cores := m } := by
  unfold holdCores
  induction cs generalizing s with
  | nil => rfl
  | cons c cs ih => exact (ih _).trans rfl

/-- R29: a core that is held is in reset; another is as it was. -/
theorem core_holdCores (s : State) (cs : List Nat) (c : Nat) : (s.holdCores cs).core c = if c ∈ cs then { s.core c with inReset := true } else s.core c := by
  unfold holdCores
  induction cs generalizing s with
  | nil => rfl
  | cons d cs ih =>
    rw [List.foldl_cons, ih, modCore, core_setCore]
    by_cases hc : d = c
    · rw [if_pos hc, hc, if_pos (List.mem_cons_self ..)]
      split <;> rfl
    · rw [if_neg hc]
      simp only [List.mem_cons, Ne.symm hc, false_or]

theorem inReset_holdCores_range (s : State) {c : Nat} (hc : c < numCores) : ((s.holdCores (List.range numCores)).core c).inReset = true := by
  rw [core_holdCores, if_pos (List.mem_range.mpr hc)]

/-- R379: the reset of the device, but for the cores. -/
theorem resetDevice_frame (s : State) : { s.resetDevice with cores := [] } =
    { State.reset with
      mem := s.mem, retired := s.retired, poisoned := s.poisoned, badWords := s.badWords, shared := s.shared,
      rowErrors := s.rowErrors, rowPoison := s.rowPoison, layers := List.filter (fun l : Nat × LayerSt => l.2.mode == .off) s.layers,
      freeCount := s.freeCount, powered := s.powered,
      hub := { phase := .starting, failures := s.hub.failures, reason := s.hub.reason, firmware := s.hub.firmware, device := s.hub.device } } :=
  holdCores_frame _ _ []

/-- R379: power on, but for the cores. -/
theorem powerUp_frame (s : State) : { s.powerUp with cores := [] } =
    { State.reset with
      freeCount := s.freeCount,
      hub := { phase := .starting, failures := s.hub.failures, reason := s.hub.reason, firmware := s.hub.firmware,
               hostLock := s.hub.hostLock, sideLock := s.hub.sideLock, device := s.hub.device } } :=
  holdCores_frame _ _ []

end State

theorem lockedOut_iff (s : State) (m : Master) : (!s.lockedOut m) = true ↔ s.lockedOut m = false := Bool.not_eq_true' _ ▸ Iff.rfl

/-- R379. -/
theorem deviceReset_served (s : State) : Serves s .deviceReset (s.lockedOut s.focus.master = false) fun t =>
    t.mem = s.mem ∧ t.twins = [] ∧ t.cycle = 0 ∧ t.cursor = 0 ∧ t.passNo = 0 ∧ t.threads = [] ∧ t.elems = [] ∧ t.riders = [] ∧ t.parts = [] ∧
      t.hub.phase = .starting ∧ t.hub.hostLock = false ∧ t.hub.sideLock = false ∧ t.powered = s.powered ∧ (∀ c < numCores, (t.core c).inReset = true) ∧
      t.hub.failures = s.hub.failures := by
  refine serves_of_manage (f := State.resetDevice) rfl (lockedOut_iff _ _) fun _ => ?_
  have hframe := (s.grantRequest []).resetDevice_frame
  have hheld : ∀ c < numCores, ((s.grantRequest []).resetDevice.core c).inReset = true := fun _ => State.inReset_holdCores_range _
  generalize (s.grantRequest []).resetDevice = t at hframe hheld ⊢
  exact ⟨(congrArg State.mem hframe :), congrArg State.twins hframe, congrArg State.cycle hframe, congrArg State.cursor hframe, congrArg State.passNo hframe,
    congrArg State.threads hframe, congrArg State.elems hframe, congrArg State.riders hframe, congrArg State.parts hframe,
    congrArg (fun t : State => t.hub.phase) hframe, congrArg (fun t : State => t.hub.hostLock) hframe, congrArg (fun t : State => t.hub.sideLock) hframe,
    (congrArg State.powered hframe :), hheld, (congrArg (fun t : State => t.hub.failures) hframe :)⟩

/-- R379: power is the side-band's. -/
theorem powerOn_served (s : State) : Serves s .powerOn (s.focus.master = .sideBand ∧ s.powered = false) fun t =>
    t.powered = true ∧ t.mem = [] ∧ t.threads = [] ∧ t.hub.phase = .starting ∧ ∀ c < numCores, (t.core c).inReset = true := by
  refine serves_of_manage (f := State.powerUp) rfl (by rw [Bool.and_eq_true, beq_iff_eq, Bool.not_eq_true']) fun _ => ?_
  have hframe := (s.grantRequest []).powerUp_frame
  have hheld : ∀ c < numCores, ((s.grantRequest []).powerUp.core c).inReset = true := fun _ => State.inReset_holdCores_range _
  generalize (s.grantRequest []).powerUp = t at hframe hheld ⊢
  exact ⟨congrArg State.powered hframe, congrArg State.mem hframe, congrArg State.threads hframe, congrArg (fun t : State => t.hub.phase) hframe, hheld⟩

/-- R379. -/
theorem powerOff_served (s : State) : Serves s .powerOff (s.focus.master = .sideBand ∧ s.powered = true) fun t =>
    t.powered = false ∧ { t with powered := true } = { s with hub := { s.hub with refused := false, reply := [] } } := by
  refine serves_of_manage (f := fun st => { st with powered := false }) rfl (by rw [Bool.and_eq_true, beq_iff_eq]) fun ⟨_, hon⟩ => ⟨rfl, ?_⟩
  rw [← hon]
  rfl

/-! ### Checkpoints (R392) -/

/-- R392. -/
theorem checkpoint_served (s : State) : Serves s .checkpoint (s.hub.ckpt = .none) fun t =>
    t.hub.ckpt = .asked ∧ t.hub.copy = { mask := s.focus.index % 256, share := max 1 s.focus.slot } ∧ { t with hub := s.hub } = s :=
  serves_of_manage (f := fun st => st.modHub fun h => { h with ckpt := .asked, copy := { mask := s.focus.index % 256, share := max 1 s.focus.slot } }) rfl beq_iff_eq
    fun _ => ⟨rfl, rfl, rfl⟩

/-- R392: both parts of the copy are there. -/
def wholeCopy (s : State) : Prop := s.hub.ckpt = .frozen ∧ 4096 ≤ s.hub.copy.rank ∧ 4096 ≤ s.hub.copy.piece

/-- R392. -/
theorem checkpointRelease_served (s : State) :
    (wholeCopy s → ∃ t, exec .checkpointRelease s = .next t ∧ t.hub = { s.hub with ckpt := .acked } ∧ { t with hub := s.hub } = s) ∧
      (¬ wholeCopy s → exec .checkpointRelease s = .refused .notEnabled) := by
  have hexec : exec .checkpointRelease s = execCheckpointRelease s := rfl
  rw [hexec]
  unfold execCheckpointRelease
  exact ⟨fun h => ⟨_, if_pos h, rfl, rfl⟩, fun h => if_neg h⟩

/-- R392: outside a checkpoint the tier takes nothing. -/
theorem tierStep_of_not_frozen {s : State} (h : s.hub.ckpt ≠ .frozen) : s.tierStep = s := by
  unfold State.tierStep
  dsimp only
  rw [if_pos (bne_iff_ne.mpr h)]

/-- R392: the copy of hub memory after a step. -/
def copyPiece (s : State) (c : CopySt) : CopySt :=
  if c.piece = s.cursor then
    { c with piece := c.piece + 1, mem := c.mem ++ s.mem.filter fun x => decide (c.piece * 2 ^ 25 ≤ x.1) && decide (x.1 < (c.piece + 1) * 2 ^ 25) }
  else c

/-- R392: the copy of ranks after a step. -/
def copyRank (s : State) (c : CopySt) : CopySt :=
  if c.rank = s.cursor ∧ 0 < c.left then { c with rank := c.rank + 1, left := c.left - 1, rows := c.rows ++ s.currentRows c.mask s.cursor } else c

theorem tierStep_of_frozen {s : State} (h : s.hub.ckpt = .frozen) : s.tierStep = { s with hub := { s.hub with copy := copyRank s (copyPiece s s.hub.copy) } } := by
  unfold State.tierStep
  dsimp only
  rw [if_neg (by simp [h])]
  rfl

/-- R392: what the step of the tier takes. -/
theorem tierStep_copies {s : State} (h : s.hub.ckpt = .frozen) : let c := s.hub.copy; let t := s.tierStep; let d := t.hub.copy
    t.hub = { s.hub with copy := d } ∧ { t with hub := s.hub } = s ∧
      (c.rank = s.cursor ∧ 0 < c.left → d.rank = c.rank + 1 ∧ d.left = c.left - 1 ∧ d.rows = c.rows ++ s.currentRows c.mask s.cursor) ∧
      (c.rank ≠ s.cursor ∨ c.left = 0 → d.rank = c.rank ∧ d.left = c.left ∧ d.rows = c.rows) ∧
      (c.piece ≠ s.cursor → d.piece = c.piece ∧ d.mem = c.mem) ∧ (c.piece = s.cursor → d.piece = c.piece + 1 ∧
        ∀ x, x ∈ d.mem ↔ x ∈ c.mem ∨ (x ∈ s.mem ∧ c.piece * 2 ^ 25 ≤ x.1 ∧ x.1 < (c.piece + 1) * 2 ^ 25)) := by
  intro c t d
  have ht : t = _ := tierStep_of_frozen h
  have hd : d = copyRank s (copyPiece s c) := congrArg (fun u : State => u.hub.copy) ht
  have hpiece : (copyPiece s c).rank = c.rank ∧ (copyPiece s c).left = c.left ∧ (copyPiece s c).rows = c.rows ∧ (copyPiece s c).mask = c.mask := by
    unfold copyPiece
    split <;> exact ⟨rfl, rfl, rfl, rfl⟩
  have hrank : d.piece = (copyPiece s c).piece ∧ d.mem = (copyPiece s c).mem := by
    rw [hd, copyRank]
    split <;> exact ⟨rfl, rfl⟩
  obtain ⟨hr, hl, hrows, hmask⟩ := hpiece
  refine ⟨?_, ?_, fun hnext => ?_, fun hnext => ?_, fun hnext => ?_, fun hnext => ?_⟩
  · rw [hd, ht]
  · rw [ht]
  · rw [hd, copyRank, if_pos (by rw [hr, hl]; exact hnext), hr, hl, hrows, hmask]
    exact ⟨rfl, rfl, rfl⟩
  · rw [hd, copyRank, if_neg (by rw [hr, hl]; omega)]
    exact ⟨hr, hl, hrows⟩
  · rw [hrank.1, hrank.2, copyPiece, if_neg hnext]
    exact ⟨rfl, rfl⟩
  · rw [hrank.1, hrank.2, copyPiece, if_pos hnext]
    refine ⟨rfl, fun x => ?_⟩
    rw [List.mem_append, List.mem_filter, Bool.and_eq_true, decide_eq_true_eq, decide_eq_true_eq]

/-! ### Without power (R379) -/

/-- R379: what is found as a request of the host is one. -/
theorem host_of_hostRequest {l r : List Act} {a : Act} (h : hostRequest l = some (a, r)) : ∃ j g, a = .event j g ∧ g.master = .host := by
  induction l generalizing r with
  | nil => exact nomatch h
  | cons b l ih =>
    cases b with
    | event j g =>
      rw [hostRequest] at h
      split at h
      · next hreq =>
        obtain ⟨rfl, -⟩ := Prod.mk.inj (Option.some.inj h)
        rw [requestOf, Bool.and_eq_true, beq_iff_eq] at hreq
        exact ⟨j, g, rfl, hreq.1⟩
      · obtain ⟨x, hx, heq⟩ := Option.map_eq_some_iff.mp h
        obtain ⟨rfl, -⟩ := Prod.mk.inj heq
        exact ih (r := x.2) hx
    | fire e n g => exact nomatch h
    | issue c => exact nomatch h

/-- R379: without power an event is taken only where it is a request of the side-band. -/
theorem runAct_event_unpowered {s : State} (hoff : s.powered = false) (i : Instr) (f : Focus) (h : sideBandRequest i f = false) :
    runAct (.event i f) s = .fault .poweredOff := by
  rw [runAct_event, hoff, h]
  rfl

/-- R379: without power a step takes a request of the side-band alone, and a request of the host in the same cycle goes first and faults. -/
theorem unpoweredSteps {s : State} (hoff : s.powered = false) : (s.agenda = [] → step s = .fault .poweredOff) ∧
    (∀ c rest, s.agenda = .issue c :: rest → step s = .fault .poweredOff) ∧ (∀ e n g rest, s.agenda = .fire e n g :: rest → step s = .fault .poweredOff) ∧
    ∀ i f rest, s.agenda = .event i f :: rest → (sideBandRequest i f = false → step s = .fault .poweredOff) ∧
      (sideBandRequest i f = true → hostRequest rest = none → step s = exec i { s with agenda := rest, focus := f }) ∧
      (hostRequest rest ≠ none → step s = .fault .poweredOff) := by
  have hhead : ∀ i f rest, s.agenda = .event i f :: rest → sideBandRequest i f = false → step s = .fault .poweredOff := by
    intro i f rest hagenda hnone
    have hfirst : hostFirst s.agenda = .event i f :: rest := by
      rw [hagenda, hostFirst, if_neg]
      exact Bool.not_eq_true _ ▸ hnone
    rw [step_of_head hfirst]
    exact runAct_event_unpowered (s := { s with agenda := rest }) hoff i f hnone
  refine ⟨fun h => ?_, fun c rest h => ?_, fun e n g rest h => ?_, fun i f rest h => ⟨hhead i f rest h, fun hside hnone => ?_, fun hhost => ?_⟩⟩
  · unfold step
    rw [h]
    simp only [hostFirst, hoff]
    rfl
  · rw [step_of_head (a := .issue c) (rest := rest) (by rw [h]; rfl), runAct_issue, hoff]
    rfl
  · rw [step_of_head (a := .fire e n g) (rest := rest) (by rw [h]; rfl), runAct_fire, hoff]
    rfl
  · have hfirst : hostFirst s.agenda = .event i f :: rest := h ▸ hostFirst_head i f rest (.inr (.inr hnone))
    rw [step_of_head hfirst, runAct_event, hside, Bool.or_true]
    rfl
  · by_cases hside : sideBandRequest i f = true
    · obtain ⟨⟨a, r⟩, hsome⟩ := Option.ne_none_iff_exists'.mp hhost
      obtain ⟨j, g, rfl, hg⟩ := host_of_hostRequest hsome
      have hfirst : hostFirst s.agenda = .event j g :: .event i f :: r := by
        rw [h, hostFirst, hsome, if_pos (show requestOf .sideBand (.event i f) = true from hside)]
      rw [step_of_head hfirst]
      exact runAct_event_unpowered (s := { s with agenda := .event i f :: r }) hoff j g (by rw [sideBandRequest, hg]; rfl)
    · exact hhead i f rest h (Bool.eq_false_of_not_eq_true hside)

end Sys2Proof.Machine
end

section
/-! The reset of a partition (R29, R379, R386): what it empties, what it keeps, and the image that the boot firmware places. -/

namespace Sys2Proof.Machine

/-! ### Tables with keys dropped -/

namespace Table

theorem mem_of_find? {α : Type} {m : Table α} {k : Nat} {v : α} (h : find? m k = some v) : (k, v) ∈ m := by
  induction m with
  | nil => exact nomatch h
  | cons e m ih =>
    obtain ⟨j, w⟩ := e
    rw [find?] at h
    split at h
    · next hjk => rw [← hjk, ← Option.some.inj h]; exact List.mem_cons_self
    · exact List.mem_cons_of_mem _ (ih h)

theorem find?_dropKeys {α : Type} (m : Table α) (gone : Nat → Bool) (k : Nat) : find? (State.dropKeys m gone) k = if gone k then none else find? m k := by
  unfold State.dropKeys
  induction m with
  | nil => simp [find?]
  | cons e m ih =>
    obtain ⟨j, w⟩ := e
    rw [List.filter_cons]
    by_cases hjk : j = k
    · subst hjk
      by_cases hgone : gone j = true
      · rw [if_neg (by simp [hgone]), ih, if_pos hgone, if_pos hgone]
      · rw [if_pos (by simp [hgone]), if_neg hgone, find?, find?, if_pos rfl, if_pos rfl]
    · have hcons : ∀ l : Table α, find? ((j, w) :: l) k = find? l k := fun l => by rw [find?, if_neg hjk]
      split
      · rw [hcons, hcons, ih]
      · rw [hcons, ih]

theorem getD_dropKeys {α : Type} (m : Table α) (gone : Nat → Bool) (k : Nat) (d : α) : getD (State.dropKeys m gone) k d = if gone k then d else getD m k d := by
  rw [getD, find?_dropKeys]
  split <;> rfl

end Table

/-! ### Images in local memory (R29) -/

namespace Memory

/-- The bytes of a block that has been stored. -/
theorem get_writeBytes_inside (m : List Host.Cell) (l : List Byte) (a j : Nat) (hj : j < l.length) : get (writeBytes m a l) (a + j) = l.getD j 0 := by
  induction l generalizing m a j with
  | nil => exact absurd hj (Nat.not_lt_zero _)
  | cons b l ih =>
    rw [writeBytes]
    cases j with
    | zero => 
      show get (writeBytes (set m a b) (a + 1) l) a = b
      rw [get_writeBytes_other _ _ _ a (.inl (Nat.lt_add_one a)), get_set, if_pos rfl]
    | succ j =>
      rw [show a + (j + 1) = a + 1 + j by omega, ih _ _ _ (Nat.lt_of_succ_lt_succ hj)]
      rfl

end Memory

/-- A quantity that each step of a fold keeps. -/
theorem foldl_keeps {α β : Type} {g : State → β} {f : State → α → State} (hf : ∀ st x, g (f st x) = g st) (l : List α) (s : State) : g (l.foldl f s) = g s := by
  induction l generalizing s with
  | nil => rfl
  | cons x l ih => exact (ih _).trans (hf s x)

namespace State

/-- R29: what the release of cores leaves as it was. -/
theorem releaseCores_frame (s : State) (image : List Byte) (cs : List Nat) (m : List Host.Cell) (k : Table CoreSt) :
    { s.releaseCores image cs with mem := m, cores := k } = { s with mem := m, cores := k } :=
  foldl_keeps (g := fun st => { st with mem := m, cores := k }) (by intro _ _; rfl) cs s

theorem core_releaseCores (s : State) (image : List Byte) (cs : List Nat) (c : Nat) :
    (s.releaseCores image cs).core c = if c ∈ cs then { s.core c with inReset := false } else s.core c := by
  unfold releaseCores
  induction cs generalizing s with
  | nil => rfl
  | cons d cs ih =>
    rw [List.foldl_cons, ih, modCore, core_setCore]
    by_cases hc : d = c
    · rw [if_pos hc, hc, if_pos (List.mem_cons_self ..)]
      split <;> rfl
    · rw [if_neg hc]
      simp only [List.mem_cons, Ne.symm hc, false_or]
      rfl

/-- R29: bytes outside the images stay. -/
theorem get_releaseCores_outside (s : State) {image : List Byte} {cs : List Nat} {a : Nat} (h : ∀ c ∈ cs, a < localBase c ∨ localBase c + image.length ≤ a) :
    Memory.get (s.releaseCores image cs).mem a = Memory.get s.mem a := by
  unfold releaseCores
  induction cs generalizing s with
  | nil => rfl
  | cons d cs ih =>
    rw [List.foldl_cons, ih _ fun c hc => h c (List.mem_cons_of_mem _ hc)]
    exact Memory.get_writeBytes_other _ _ _ _ (h d List.mem_cons_self)

/-- R29: the image stands at the start of each released core's local memory. -/
theorem get_releaseCores_inside (s : State) {image : List Byte} (hlength : image.length ≤ localBytes) {cs : List Nat} {c j : Nat} (hc : c ∈ cs)
    (hj : j < image.length) : Memory.get (s.releaseCores image cs).mem (localBase c + j) = image.getD j 0 := by
  unfold localBytes at hlength
  induction cs generalizing s with
  | nil => exact absurd hc List.not_mem_nil
  | cons d cs ih =>
    by_cases hmem : c ∈ cs
    · exact ih _ hmem
    · obtain rfl : c = d := (List.mem_cons.mp hc).resolve_right hmem
      refine (get_releaseCores_outside (cs := cs) _ fun e he => ?_).trans ?_
      · have hne : e ≠ c := fun h => hmem (h ▸ he)
        unfold localBase
        omega
      · exact Memory.get_writeBytes_inside s.mem image (localBase c) j hj

/-! ### What belongs to a partition's engines (R193, R208, R210, R383, R386) -/

/-- The state but for collectives, caches of translations, riders, generators and the partitions' own fields. -/
def apart (s : State) : State := { s with colls := [], cores := [], llTlb := [], riders := [], gens := [], parts := [] }

theorem apart_resetColls (s : State) (p : Nat) : (s.resetColls p).apart = s.apart := rfl

theorem unpin_frame (s : State) (die : Nat) (qs : List PinSt) (m : Table (List TlbEntry)) : { s.unpin die qs with llTlb := m } = { s with llTlb := m } :=
  foldl_keeps (g := fun st => { st with llTlb := m }) (by intro _ _; rfl) qs s

/-- R210: releasing the pins of riders and generators changes cached translations alone. -/
theorem resetEngines_frame (s : State) (p : Nat) : { s.resetEngines p with llTlb := [] } =
    { s with llTlb := [], riders := List.filter (fun x : Nat × RiderSt => x.2.part != p) s.riders, gens := dropKeys s.gens fun k => s.genPart k == p } := by
  have hriders : ∀ l : List (Nat × RiderSt), { l.foldl (fun st x => if x.2.pinned then st.unpin (dieOfCore x.2.core) x.2.pins else st) s with llTlb := [] } =
      { s with llTlb := [] } := fun l => foldl_keeps (g := fun st => { st with llTlb := [] }) (fun st x => by
    split
    · exact unpin_frame _ _ _ _
    · rfl) l s
  have hgens : ∀ (l : List (Nat × GenSt)) (u : State), { l.foldl (fun st x => st.unpin (dieOfCore x.2.core) x.2.pins) u with llTlb := [] } = { u with llTlb := [] } :=
    fun l u => foldl_keeps (g := fun st => { st with llTlb := [] }) (fun st x => unpin_frame _ _ _ _) l u
  have hboth := (hgens (List.filter (fun x : Nat × GenSt => s.genPart x.1 == p) s.gens) _).trans
    (hriders (List.filter (fun x : Nat × RiderSt => x.2.part == p) s.riders))
  exact congrArg (fun st : State => { st with riders := List.filter (fun x : Nat × RiderSt => x.2.part != p) st.riders, gens := dropKeys st.gens fun k => s.genPart k == p }) hboth

/-- R193, R386: the collectives and engines of a partition are reset apart from the rest of the state. -/
theorem apart_resetEngines (s : State) (p : Nat) : (s.resetEngines p).apart = s.apart :=
  congrArg (fun st : State => { st with colls := [], cores := [], riders := [], gens := [], parts := [] }) (s.resetEngines_frame p)

/-- R193: no rider of the partition is left. -/
theorem riders_resetEngines (s : State) (p : Nat) : (s.resetEngines p).riders = List.filter (fun x : Nat × RiderSt => x.2.part != p) s.riders :=
  congrArg State.riders (s.resetEngines_frame p)

theorem parts_resetEngines (s : State) (p : Nat) : (s.resetEngines p).parts = s.parts := (congrArg State.parts (s.resetEngines_frame p) :)

/-- R208: a TLB invalidation changes cached translations, the pins of riders and generators, and the invalidation under way. -/
theorem startTlbi_frame (s : State) (p : Nat) (v : Word) : (s.startTlbi p v).apart = s.apart ∧
    (∀ q, ((s.startTlbi p v).part q).dies = (s.part q).dies ∧ ((s.startTlbi p v).part q).strips = (s.part q).strips) ∧
    (∀ n r, Table.find? (s.startTlbi p v).riders n = some r → ∃ r0, Table.find? s.riders n = some r0 ∧ r.part = r0.part) := by
  unfold startTlbi
  dsimp only
  split
  · exact ⟨rfl, fun _ => ⟨rfl, rfl⟩, fun n r h => ⟨r, h, rfl⟩⟩
  · generalize hs1 : List.foldl _ s (List.range numCores) = s1
    generalize hs2 : List.foldl _ s1 (s.partDies p) = s2
    have h1 : { s1 with cores := [], llTlb := [] } = { s with cores := [], llTlb := [] } := by
      rw [← hs1]
      refine foldl_keeps (g := fun st => { st with cores := [], llTlb := [] }) (fun st x => ?_) _ s
      split <;> rfl
    have h2 : { s2 with cores := [], llTlb := [] } = { s1 with cores := [], llTlb := [] } := by
      rw [← hs2]
      refine foldl_keeps (g := fun st => { st with cores := [], llTlb := [] }) (fun st x => ?_) _ s1
      rfl
    have hframe := h2.trans h1
    have hparts : s2.parts = s.parts := (congrArg State.parts hframe :)
    have hriders : s2.riders = s.riders := (congrArg State.riders hframe :)
    refine ⟨(congrArg (fun st : State => st.apart) hframe :), fun q => ?_, fun n r h => ?_⟩
    · rw [modPart, part_setPart]
      by_cases hq : p = q
      · rw [if_pos hq, part, part, hparts, hq]
        exact ⟨rfl, rfl⟩
      · rw [if_neg hq, part, part, hparts]
        exact ⟨rfl, rfl⟩
    · rw [modPart, setPart, Table.find?_map (by intro _; rfl), hriders] at h
      obtain ⟨r0, hr0, rfl⟩ := Option.map_eq_some_iff.mp h
      exact ⟨r0, hr0, rfl⟩

end State

/-! ### The partition after its reset -/

/-- R379: what the reset of partition `p` leaves, before an image is placed: its memories and twin states stay. -/
structure PartitionReset (s t : State) (p : Nat) : Prop where
  twins : t.twins = s.twins
  memory : t.mem = s.mem
  hub : t.hub = s.hub
  core : ∀ c < numCores, (s.part p).hasCore c = true → t.core c = { ({} : CoreSt) with inReset := true }
  part : t.part p = { dies := (s.part p).dies, strips := (s.part p).strips }
  shapes : ∀ q, q ≠ p → (t.part q).dies = (s.part q).dies ∧ (t.part q).strips = (s.part q).strips
  ownThreads : ∀ k, (s.part p).hasCore (coreOf k) = true → t.thread k = ThreadSt.reset k
  registers : ∀ k, (s.part p).hasCore (coreOf k) = false → t.gprOf k = s.gprOf k
  elems : ∀ e, (s.part p).hasCore (coreOfElem e) = true → t.elem e = {}
  places : ∀ n, t.place p n = {} ∨ 16 ≤ n
  riders : ∀ n r, Table.find? t.riders n = some r → r.part ≠ p

namespace State

/-- R379: the partition's fields with what belongs to its tenants dropped, its cores not yet held. -/
def emptied (s u : State) (p : Nat) : State :=
  let x := s.part p
  let mineCore := fun (c : Nat) => x.hasCore c
  let mineElem := fun (e : Nat) => x.hasCore (coreOfElem e)
  { u with
    threads := dropKeys u.threads fun k => mineCore (coreOf k), cores := dropKeys u.cores mineCore,
    corePlaces := dropKeys u.corePlaces fun k => mineCore (k / 16), places := dropKeys u.places fun k => k / 16 == p,
    slices := dropKeys u.slices fun k => mineCore (k / 512), windows := dropKeys u.windows fun k => mineElem (k / 16),
    elems := dropKeys u.elems mineElem, savedElems := dropKeys u.savedElems fun k => mineElem (k / 16),
    haltElems := dropKeys u.haltElems fun k => mineElem (k / 16), fields := dropKeys u.fields fun k => mineElem (k / 256),
    flights := List.filter (fun f : Nat × FlightSt => s.boundPart f.2.bound != p) u.flights, groups := dropKeys u.groups fun k => k / 256 == p,
    parts := Table.put u.parts p { dies := x.dies, strips := x.strips } }

theorem resetPartition_eq (s : State) (p : Nat) : s.resetPartition p =
    (s.emptied (((s.resetColls p).resetEngines p).startTlbi p (wd (2 * 2 ^ 62))) p).holdCores ((List.range numCores).filter (s.part p).hasCore) := rfl

end State

/-- R379: the reset of a partition. -/
theorem resetPartition_effects (s : State) (p : Nat) : PartitionReset s (s.resetPartition p) p := by
  rw [State.resetPartition_eq]
  generalize hu : ((s.resetColls p).resetEngines p).startTlbi p (wd (2 * 2 ^ 62)) = u
  obtain ⟨htlbi, hshapes, hmarked⟩ := ((s.resetColls p).resetEngines p).startTlbi_frame p (wd (2 * 2 ^ 62))
  rw [hu] at htlbi hshapes hmarked
  have happart : u.apart = s.apart := htlbi.trans (((s.resetColls p).apart_resetEngines p).trans (s.apart_resetColls p))
  have hframe := (s.emptied u p).holdCores_frame ((List.range numCores).filter (s.part p).hasCore) []
  have hthreads : u.threads = s.threads := (congrArg State.threads happart :)
  generalize ht : (s.emptied u p).holdCores ((List.range numCores).filter (s.part p).hasCore) = t at hframe
  have hthread : ∀ k, t.thread k = if (s.part p).hasCore (coreOf k) then ThreadSt.reset k else s.thread k := fun k => by
    rw [State.thread, show t.threads = State.dropKeys u.threads fun k => (s.part p).hasCore (coreOf k) from (congrArg State.threads hframe :),
      Table.getD_dropKeys, hthreads]
    rfl
  refine ⟨(congrArg State.twins hframe :).trans (congrArg State.twins happart :), (congrArg State.mem hframe :).trans (congrArg State.mem happart :),
    (congrArg State.hub hframe :).trans (congrArg State.hub happart :), fun c hc hmine => ?_, ?_, fun q hq => ?_, fun k hk => ?_, fun k hk => ?_, fun e he => ?_,
    fun n => ?_, fun n r hr => ?_⟩
  · rw [← ht, State.core_holdCores, if_pos (List.mem_filter.mpr ⟨List.mem_range.mpr hc, hmine⟩), State.core,
      show (s.emptied u p).cores = State.dropKeys u.cores (s.part p).hasCore from rfl, Table.getD_dropKeys, if_pos hmine]
  · rw [State.part, show t.parts = Table.put u.parts p { dies := (s.part p).dies, strips := (s.part p).strips } from (congrArg State.parts hframe :), Table.getD_put, if_pos rfl]
  · rw [State.part, show t.parts = Table.put u.parts p { dies := (s.part p).dies, strips := (s.part p).strips } from (congrArg State.parts hframe :), Table.getD_put,
      if_neg (Ne.symm hq)]
    refine ⟨(hshapes q).1.trans ?_, (hshapes q).2.trans ?_⟩ <;> rw [State.part, State.parts_resetEngines] <;> rfl
  · rw [hthread, if_pos hk]
  · funext r
    rw [State.gprOf_eq, State.gprOf_eq, (hthread k).trans (if_neg (by rw [hk]; decide))]
  · rw [State.elem, show t.elems = State.dropKeys u.elems fun e => (s.part p).hasCore (coreOfElem e) from (congrArg State.elems hframe :), Table.getD_dropKeys, if_pos he]
  · rcases Nat.lt_or_ge n 16 with hn | hn
    · refine .inl ?_
      rw [State.place, show t.places = State.dropKeys u.places fun k => k / 16 == p from (congrArg State.places hframe :), Table.getD_dropKeys, if_pos]
      rw [beq_iff_eq]
      omega
    · exact .inr hn
  · rw [show t.riders = u.riders from (congrArg State.riders hframe :)] at hr
    obtain ⟨r0, hr0, hpart⟩ := hmarked n r hr
    rw [State.riders_resetEngines] at hr0
    rw [hpart]
    exact bne_iff_ne.mp (List.mem_filter.mp (Table.mem_of_find? hr0)).2

/-- R29, R379: a partition that a master resets while the device runs gets its image, and its cores go on. -/
theorem restartPartition_effects (s : State) (p : Nat) {image : List Byte} (hlength : image.length ≤ localBytes) :
    let t := s.restartPartition p image; let x := s.part p; t.twins = s.twins ∧
      (s.hub.phase ≠ .running → t.mem = s.mem) ∧
      (∀ a, (∀ c < numCores, x.hasCore c = true → a < localBase c ∨ localBase c + image.length ≤ a) → Memory.get t.mem a = Memory.get s.mem a) ∧
      (∀ c < numCores, x.hasCore c = true → t.core c = { ({} : CoreSt) with inReset := decide (s.hub.phase ≠ .running) } ∧
        (s.hub.phase = .running → ∀ j < image.length, Memory.get t.mem (localBase c + j) = image.getD j 0)) ∧
      t.part p = { dies := x.dies, strips := x.strips } ∧ (∀ q, q ≠ p → (t.part q).dies = (s.part q).dies ∧ (t.part q).strips = (s.part q).strips) ∧
      (∀ k, x.hasCore (coreOf k) = true → t.thread k = ThreadSt.reset k) ∧ (∀ k, x.hasCore (coreOf k) = false → t.gprOf k = s.gprOf k) ∧
      (∀ e, x.hasCore (coreOfElem e) = true → t.elem e = {}) ∧ (∀ n, t.place p n = {} ∨ 16 ≤ n) ∧
      (∀ n r, Table.find? t.riders n = some r → r.part ≠ p) := by
  intro t x
  obtain ⟨htwins, hmem, -, hcore, hpart, hshapes, hthreads, hregs, helems, hplaces, hriders⟩ := resetPartition_effects s p
  have hcores : ∀ c, c ∈ (List.range numCores).filter (s.part p).hasCore ↔ c < numCores ∧ x.hasCore c = true := fun c => by
    rw [List.mem_filter, List.mem_range]
  have ht : t = if s.hub.phase = .running then (s.resetPartition p).releaseCores image ((List.range numCores).filter (s.part p).hasCore) else s.resetPartition p := rfl
  by_cases hrun : s.hub.phase = .running
  · rw [if_pos hrun] at ht
    have hframe := (s.resetPartition p).releaseCores_frame image ((List.range numCores).filter (s.part p).hasCore) [] []
    rw [← ht] at hframe
    have hbytes : ∀ a, (∀ c < numCores, x.hasCore c = true → a < localBase c ∨ localBase c + image.length ≤ a) → Memory.get t.mem a = Memory.get s.mem a := by
      intro a ha
      rw [ht, State.get_releaseCores_outside _ fun c hc => ha c ((hcores c).mp hc).1 ((hcores c).mp hc).2, hmem]
    have hreleased : ∀ c < numCores, x.hasCore c = true → t.core c = { ({} : CoreSt) with inReset := decide (s.hub.phase ≠ .running) } ∧
        (s.hub.phase = .running → ∀ j < image.length, Memory.get t.mem (localBase c + j) = image.getD j 0) := by
      intro c hc hmine
      rw [ht]
      refine ⟨?_, fun _ j hj => State.get_releaseCores_inside _ hlength ((hcores c).mpr ⟨hc, hmine⟩) hj⟩
      rw [State.core_releaseCores, if_pos ((hcores c).mpr ⟨hc, hmine⟩), hcore c hc hmine, hrun]
      rfl
    have hparts : t.part = (s.resetPartition p).part := (congrArg State.part hframe :)
    have hthread : t.thread = (s.resetPartition p).thread := (congrArg State.thread hframe :)
    have hgpr : t.gprOf = (s.resetPartition p).gprOf := (congrArg State.gprOf hframe :)
    have helem : t.elem = (s.resetPartition p).elem := (congrArg State.elem hframe :)
    have hplace : t.place = (s.resetPartition p).place := (congrArg State.place hframe :)
    have hrider : t.riders = (s.resetPartition p).riders := (congrArg State.riders hframe :)
    rw [hparts, hthread, hgpr, helem, hplace, hrider]
    exact ⟨(congrArg State.twins hframe :).trans htwins, fun h => absurd hrun h, hbytes, hreleased, hpart, hshapes, hthreads, hregs, helems, hplaces, hriders⟩
  · rw [if_neg hrun] at ht
    rw [ht]
    refine ⟨htwins, fun _ => hmem, fun a _ => by rw [hmem], fun c hc hmine => ⟨?_, fun h => absurd h hrun⟩, hpart, hshapes, hthreads, hregs, helems, hplaces, hriders⟩
    rw [hcore c hc hmine, decide_eq_true hrun]

/-- R379. -/
theorem partitionReset_served (s : State) : Serves s .partitionReset
    (s.lockedOut s.focus.master = false ∧ s.focus.part < numParts ∧ (s.part s.focus.part).dies ≠ 0 ∧ s.focus.bytes.length ≤ localBytes) fun t =>
    let p := s.focus.part; let x := s.part p; t.twins = s.twins ∧
      (s.hub.phase ≠ .running → t.mem = s.mem) ∧
      (∀ a, (∀ c < numCores, x.hasCore c = true → a < localBase c ∨ localBase c + s.focus.bytes.length ≤ a) → Memory.get t.mem a = Memory.get s.mem a) ∧
      (∀ c < numCores, x.hasCore c = true → t.core c = { ({} : CoreSt) with inReset := decide (s.hub.phase ≠ .running) } ∧
        (s.hub.phase = .running → ∀ j < s.focus.bytes.length, Memory.get t.mem (localBase c + j) = s.focus.bytes.getD j 0)) ∧
      t.part p = { dies := x.dies, strips := x.strips } ∧ (∀ q, q ≠ p → (t.part q).dies = (s.part q).dies ∧ (t.part q).strips = (s.part q).strips) ∧
      (∀ k, x.hasCore (coreOf k) = true → t.thread k = ThreadSt.reset k) ∧ (∀ k, x.hasCore (coreOf k) = false → t.gprOf k = s.gprOf k) ∧
      (∀ e, x.hasCore (coreOfElem e) = true → t.elem e = {}) ∧ (∀ n, t.place p n = {} ∨ 16 ≤ n) ∧
      (∀ n r, Table.find? t.riders n = some r → r.part ≠ p) := by
  refine serves_of_manage (f := fun st => st.restartPartition s.focus.part s.focus.bytes) rfl ?_ fun ⟨_, _, _, hlength⟩ =>
    restartPartition_effects (s.grantRequest []) s.focus.part hlength
  rw [Bool.and_eq_true, Bool.and_eq_true, Bool.and_eq_true, lockedOut_iff, decide_eq_true_eq, decide_eq_true_eq, bne_iff_ne, and_assoc, and_assoc]

end Sys2Proof.Machine
end

section
/-! BOOT (R29, R321, R367, R382, R393): the partitions made, the images placed, the clock started and the domain lock joined. -/

namespace Sys2Proof.Machine

/-! ### The partitions that the runtime creates (R321) -/

/-- A lookup in a table of the positions of a list. -/
theorem Table.find?_zipIdx {α β : Type} (f : α → β) (l : List α) (n k : Nat) :
    Table.find? ((l.zipIdx n).map fun x => (x.2, f x.1)) k = if n ≤ k then (l[k - n]?).map f else none := by
  induction l generalizing n with
  | nil => simp [Table.find?]
  | cons a l ih =>
    rw [List.zipIdx_cons, List.map_cons, Table.find?, ih]
    by_cases hnk : n = k
    · subst hnk
      simp
    · rw [if_neg hnk]
      by_cases hle : n + 1 ≤ k
      · rw [if_pos hle, if_pos (by omega), show k - n = k - (n + 1) + 1 by omega, List.getElem?_cons_succ]
      · rw [if_neg hle, if_neg (by omega)]

/-- Of a list in which at most one entry passes a test, two entries that pass it are the same one. -/
theorem index_unique_of_filter {α : Type} {f : α → Bool} {l : List α} (hone : (l.filter f).length ≤ 1) {p q : Nat} {a b : α} (hp : l[p]? = some a)
    (hq : l[q]? = some b) (ha : f a = true) (hb : f b = true) : p = q := by
  have hpos : ∀ {m : List α} {i : Nat} {x : α}, m[i]? = some x → f x = true → 0 < (m.filter f).length := fun hi hx =>
    List.length_pos_of_mem (List.mem_filter.mpr ⟨List.mem_of_getElem? hi, hx⟩)
  induction l generalizing p q with
  | nil => simp at hp
  | cons x l ih =>
    rw [List.filter_cons] at hone
    match p, q with
    | 0, 0 => rfl
    | 0, j + 1 =>
      obtain rfl : x = a := Option.some.inj hp
      rw [if_pos ha, List.length_cons] at hone
      have := hpos (m := l) hq hb
      omega
    | i + 1, 0 =>
      obtain rfl : x = b := Option.some.inj hq
      rw [if_pos hb, List.length_cons] at hone
      have := hpos (m := l) hp ha
      omega
    | i + 1, j + 1 =>
      refine congrArg (· + 1) (ih ?_ hp hq)
      split at hone
      · rw [List.length_cons] at hone; omega
      · exact hone

/-- R321: the PART words of a boot: one of all dies where the host lists none. -/
def partWords (ws : List Word) : List Word := if ws.isEmpty then [wd 0xFFF] else ws

/-- R321: the partition of a PART word. -/
def partOfWord (w : Word) : PartSt := { dies := BitVec.ofNat 4 (fld w 8 4), strips := BitVec.ofNat 8 (fld w 0 8) }

theorem partWords_ne_nil (ws : List Word) : 0 < (partWords ws).length := by
  unfold partWords
  split
  · exact Nat.one_pos
  · next h => exact List.length_pos_iff.mpr (mt List.isEmpty_iff.mpr h)

/-- R321: the partitions after they have been created. -/
theorem part_createParts (s : State) (ws : List Word) (p : Nat) : (s.createParts ws).part p = (((partWords ws)[p]?).map partOfWord).getD {} := by
  have hfind := Table.find?_zipIdx partOfWord (partWords ws) 0 p
  rw [if_pos (Nat.zero_le p), Nat.sub_zero] at hfind
  rw [State.part, Table.getD]
  refine (congrArg (Option.getD · (PartSt.reset p)) hfind).trans ?_
  cases hp : (partWords ws)[p]? with
  | some w => rfl
  | none =>
    have hlen := List.getElem?_eq_none_iff.mp hp
    have hpos := partWords_ne_nil ws
    exact if_neg (by omega)

/-- A bit of a field of a word. -/
theorem getLsbD_ofNat_fld (w : Word) (lo n i : Nat) (hi : i < n) : (BitVec.ofNat n (fld w lo n)).getLsbD i = (fld w (lo + i) 1 == 1) := by
  rw [fld_bit_iff, BitVec.getLsbD_ofNat, fld, bits, Nat.testBit_mod_two_pow, Nat.testBit_div_two_pow, BitVec.getLsbD]
  simp [hi, Nat.add_comm]

theorem hasCore_partOfWord (w : Word) {c : Nat} (hc : c < numCores) :
    (partOfWord w).hasCore c = (fld w (8 + dieOfCore c) 1 == 1 && fld w (stripOfCore c) 1 == 1) := by
  have hdie : dieOfCore c < 4 := by
    unfold dieOfCore numCores at *
    omega
  have hstrip : stripOfCore c < 8 := Nat.mod_lt _ (by decide)
  rw [PartSt.hasCore, partOfWord]
  dsimp only
  rw [getLsbD_ofNat_fld _ _ _ _ hdie, getLsbD_ofNat_fld _ _ _ _ hstrip, Nat.zero_add]

/-- R321: a core belongs to the partition of the word at its index alone. -/
theorem hasCore_createParts {s : State} {ws : List Word} {p c : Nat} (h : ((s.createParts ws).part p).hasCore c = true) :
    ∃ w, (partWords ws)[p]? = some w ∧ (partOfWord w).hasCore c = true := by
  rw [part_createParts] at h
  cases hp : (partWords ws)[p]? with
  | some w => exact ⟨w, rfl, by rwa [hp] at h⟩
  | none =>
    rw [hp] at h
    have hzero : ∀ i, (0 : BitVec 4).getLsbD i = false := fun i => BitVec.getLsbD_zero
    rw [Option.map_none, Option.getD_none, PartSt.hasCore, hzero, Bool.false_and] at h
    exact nomatch h

/-- R321: partitions that share no strip: a core belongs to one. -/
theorem part_unique_of_shapesApart {s : State} {ws : List Word} (hapart : shapesApart ws = true) {p q c : Nat} (hc : c < numCores)
    (hp : ((s.createParts ws).part p).hasCore c = true) (hq : ((s.createParts ws).part q).hasCore c = true) : p = q := by
  obtain ⟨w, hw, hwc⟩ := hasCore_createParts hp
  obtain ⟨v, hv, hvc⟩ := hasCore_createParts hq
  rw [hasCore_partOfWord _ hc] at hwc hvc
  refine index_unique_of_filter (f := fun w => fld w (8 + dieOfCore c) 1 == 1 && fld w (stripOfCore c) 1 == 1) (l := partWords ws) ?_ hw hv hwc hvc
  unfold partWords
  split
  · exact (List.length_filter_le _ _).trans (Nat.le_refl 1)
  · have hall := List.all_eq_true.mp hapart c (List.mem_range.mpr hc)
    exact decide_eq_true_eq.mp hall

/-- R321: a partition that has a core is live. -/
theorem mem_liveParts {s : State} {ws : List Word} (hlen : ws.length ≤ numParts) {p c : Nat} (h : ((s.createParts ws).part p).hasCore c = true) :
    p ∈ (s.createParts ws).liveParts := by
  obtain ⟨w, hw, -⟩ := hasCore_createParts h
  have hp : p < (partWords ws).length := (List.getElem?_eq_some_iff.mp hw).1
  have hwords : (partWords ws).length ≤ numParts := by
    unfold partWords
    split
    · decide
    · exact hlen
  refine List.mem_filter.mpr ⟨List.mem_range.mpr (hp.trans_le hwords), bne_iff_ne.mpr fun hzero => ?_⟩
  rw [PartSt.hasCore, hzero, show (0 : BitVec 4).getLsbD (dieOfCore c) = false from BitVec.getLsbD_zero, Bool.false_and] at h
  exact nomatch h

/-! ### The images of the partitions (R29) -/

namespace State

/-- R29: each partition of a list gets its image, and its cores are released. -/
def releaseParts (s : State) (image : Nat → List Byte) (ps : List Nat) : State := ps.foldl (fun st p => st.releaseCores (image p) (st.partCores p)) s

variable {s : State} {image : Nat → List Byte} {ps : List Nat}

theorem releaseParts_frame (s : State) (image : Nat → List Byte) (ps : List Nat) (m : List Host.Cell) (k : Table CoreSt) :
    { s.releaseParts image ps with mem := m, cores := k } = { s with mem := m, cores := k } :=
  foldl_keeps (g := fun st => { st with mem := m, cores := k }) (by intro st p; exact releaseCores_frame _ _ _ _ _) ps s

theorem partCores_releaseCores (s : State) (im : List Byte) (cs : List Nat) : (s.releaseCores im cs).partCores = s.partCores :=
  (congrArg State.partCores (s.releaseCores_frame im cs [] []) :)

theorem get_releaseParts_outside {a : Nat} (h : ∀ p ∈ ps, ∀ c ∈ s.partCores p, a < localBase c ∨ localBase c + (image p).length ≤ a) :
    Memory.get (s.releaseParts image ps).mem a = Memory.get s.mem a := by
  unfold releaseParts
  induction ps generalizing s with
  | nil => rfl
  | cons p ps ih =>
    rw [List.foldl_cons, ih fun q hq c hc => h q (List.mem_cons_of_mem _ hq) c (by rwa [partCores_releaseCores] at hc),
      get_releaseCores_outside _ (h p List.mem_cons_self)]

/-- R29: a partition's image stands in its cores, where no other partition has the core. -/
theorem get_releaseParts_inside (hlength : ∀ p, (image p).length ≤ localBytes) {p c j : Nat} (hp : p ∈ ps) (hc : c ∈ s.partCores p)
    (honly : ∀ q, c ∈ s.partCores q → q = p) (hj : j < (image p).length) :
    Memory.get (s.releaseParts image ps).mem (localBase c + j) = (image p).getD j 0 := by
  unfold releaseParts
  induction ps generalizing s with
  | nil => exact absurd hp List.not_mem_nil
  | cons q ps ih =>
    rw [List.foldl_cons]
    by_cases hmem : p ∈ ps
    · exact ih hmem (by rwa [partCores_releaseCores]) (by rwa [partCores_releaseCores])
    · obtain rfl : p = q := (List.mem_cons.mp hp).resolve_right hmem
      refine (get_releaseParts_outside (ps := ps) fun r hr d hd => ?_).trans (get_releaseCores_inside _ (hlength p) hc hj)
      rw [partCores_releaseCores] at hd
      have hne : d ≠ c := fun h => hmem (honly r (h ▸ hd) ▸ hr)
      have hlp := hlength p
      have hlr := hlength r
      unfold localBytes at hlp hlr
      unfold localBase
      omega

/-- R29: the cores of the partitions are released. -/
theorem core_releaseParts_of_mem {p c : Nat} (hp : p ∈ ps) (hc : c ∈ s.partCores p) : ((s.releaseParts image ps).core c).inReset = false := by
  have hkeep : ∀ (u : State) (qs : List Nat), (u.core c).inReset = false → ((u.releaseParts image qs).core c).inReset = false := by
    intro u qs h
    unfold releaseParts
    induction qs generalizing u with
    | nil => exact h
    | cons q qs ih =>
      refine ih _ ?_
      rw [core_releaseCores]
      split
      · rfl
      · exact h
  unfold releaseParts
  induction ps generalizing s with
  | nil => exact absurd hp List.not_mem_nil
  | cons q ps ih =>
    rw [List.foldl_cons]
    rcases List.mem_cons.mp hp with rfl | hmem
    · exact hkeep _ _ (by rw [core_releaseCores, if_pos hc])
    · exact ih hmem (by rwa [partCores_releaseCores])

theorem core_releaseParts_of_not {c : Nat} (h : ∀ p ∈ ps, c ∉ s.partCores p) : (s.releaseParts image ps).core c = s.core c := by
  unfold releaseParts
  induction ps generalizing s with
  | nil => rfl
  | cons q ps ih =>
    rw [List.foldl_cons, ih fun p hp => by rw [partCores_releaseCores]; exact h p (List.mem_cons_of_mem _ hp), core_releaseCores,
      if_neg (h q List.mem_cons_self)]

end State

/-! ### The links that have come up (R382) -/

/-- R382: the links after a boot. -/
def linksUp (l : Table LinkSt) (m : Table LinkSt) : Table LinkSt := l.foldl (fun t x => Table.put t x.1 { x.2 with up := true }) m

theorem getD_linksUp_of_not {l : Table LinkSt} {n : Nat} (h : ∀ y, (n, y) ∉ l) (m : Table LinkSt) (d : LinkSt) :
    Table.getD (linksUp l m) n d = Table.getD m n d := by
  unfold linksUp
  induction l generalizing m with
  | nil => rfl
  | cons x l ih =>
    rw [List.foldl_cons, ih (fun y hy => h y (List.mem_cons_of_mem _ hy)), Table.getD_put, if_neg]
    exact fun hx => h x.2 (hx ▸ List.mem_cons_self)

/-- R382: of the entries of one link, the last counts. -/
theorem getD_linksUp_last (l1 l2 : Table LinkSt) (n : Nat) (x : LinkSt) (h : ∀ y, (n, y) ∉ l2) (m : Table LinkSt) (d : LinkSt) :
    Table.getD (linksUp (l1 ++ (n, x) :: l2) m) n d = { x with up := true } := by
  have hsplit : linksUp (l1 ++ (n, x) :: l2) m = linksUp l2 (Table.put (linksUp l1 m) n { x with up := true }) := by
    unfold linksUp
    rw [List.foldl_append, List.foldl_cons]
  rw [hsplit, getD_linksUp_of_not h, Table.getD_put, if_pos rfl]

/-! ### The boot (R367, R393) -/

/-- R367: the rules of a boot's parts. -/
def goodBoot (f : Focus) : Prop :=
  f.words.length ≤ numParts ∧ (∀ w ∈ f.words, shapeOk w = true) ∧ shapesApart f.words = true ∧ (∀ b ∈ f.images, b.length ≤ localBytes) ∧
    f.index < 1024 ∧ ∀ l ∈ f.links, l.1 < 16 ∧ l.2.peer < 1024 ∧ l.2.low ≤ l.2.peer

/-- R367: a start fails for a reason. -/
def FailedStart (s : State) (i : Instr) (r : Nat) : Prop :=
  ∃ t, exec i s = .next t ∧ { t with hub := s.hub } = s ∧
    t.hub = { s.hub with failures := s.hub.failures + 1, reason := r, phase := if 3 ≤ s.hub.failures + 1 then .recovery else .starting }

theorem exec_boot (s : State) : exec .boot s = execBoot s := rfl

theorem exec_startTimeout (s : State) : exec .startTimeout s = execStartTimeout s := rfl

theorem failedStart_of_exec {s : State} {i : Instr} {r : Nat} (h : exec i s = .next (s.failStart r)) : FailedStart s i r := by
  refine ⟨_, h, rfl, ?_⟩
  unfold State.failStart State.modHub
  simp only [Nat.reduceLeDiff]

theorem boot_refused {s : State} (h : s.hub.phase ≠ .starting) : exec .boot s = .refused .notEnabled ∧ exec .startTimeout s = .refused .notEnabled := by
  rw [exec_boot, exec_startTimeout, execBoot, execStartTimeout]
  exact ⟨if_pos h, if_neg h⟩

theorem startTimeout_fails {s : State} (h : s.hub.phase = .starting) : FailedStart s .startTimeout 8 :=
  failedStart_of_exec ((exec_startTimeout s).trans (by rw [execStartTimeout, if_pos h]))

theorem boot_fails {s : State} (h : s.hub.phase = .starting) (hflag : s.focus.flag = false) (h1 : 1 ≤ s.focus.index) (h7 : s.focus.index ≤ 7) :
    FailedStart s .boot s.focus.index := by
  refine failedStart_of_exec ((exec_boot s).trans ?_)
  unfold execBoot
  dsimp only
  rw [if_neg (not_not_intro h), if_neg (by rw [hflag]; decide), if_pos ⟨h1, h7⟩]

/-- R393: the device with its partitions made and its clock started. -/
def partsMade (s : State) : State := (s.createParts s.focus.words).startClock

/-- R393: the image of a partition. -/
def imageOf (s : State) (p : Nat) : List Byte := s.focus.images.getD p []

/-- R393: the device with its images placed. -/
def partsBooted (s : State) : State := (partsMade s).releaseParts (imageOf s) (partsMade s).liveParts

/-- R393: the device after a boot. -/
def booted (s : State) : State :=
  ((partsBooted s).joinDomain s.focus.index s.focus.links).modHub fun h => { h with phase := .running, failures := 0, reason := 0 }

theorem boot_succeeds {s : State} (h : s.hub.phase = .starting) (hflag : s.focus.flag = true) (hgood : goodBoot s.focus) : exec .boot s = .next (booted s) := by
  obtain ⟨hlen, hshapes, hapart, himages, hindex, hlinks⟩ := hgood
  rw [exec_boot, execBoot]
  dsimp only
  rw [if_neg (not_not_intro h), if_pos hflag, if_pos]
  · rfl
  · refine ⟨hlen, List.all_eq_true.mpr hshapes, hapart, List.all_eq_true.mpr fun b hb => decide_eq_true (himages b hb), hindex, List.all_eq_true.mpr fun l hl => ?_⟩
    obtain ⟨h1, h2, h3⟩ := hlinks l hl
    simp only [h1, h2, h3, decide_true, Bool.and_self]

/-- R393: what placing the images keeps. -/
theorem partsBooted_frame (s : State) : { partsBooted s with mem := [], cores := [] } = { partsMade s with mem := [], cores := [] } :=
  State.releaseParts_frame _ _ _ _ _

theorem part_booted (s : State) (p : Nat) : (booted s).part p = (s.createParts s.focus.words).part p :=
  (congrArg (fun st : State => st.part p) (partsBooted_frame s) :)

/-- R382: joining the domain lock and the end of the boot change the hub alone. -/
theorem booted_frame (s : State) (h : HubSt) : { booted s with hub := h } = { partsBooted s with hub := h } := by
  unfold booted State.joinDomain State.modHub
  rfl

theorem core_booted (s : State) : (booted s).core = (partsBooted s).core := (congrArg State.core (booted_frame s {}) :)

theorem mem_booted (s : State) : (booted s).mem = (partsBooted s).mem := (congrArg State.mem (booted_frame s {}) :)

/-- R22, R23, R382, R393: clock, threads and hub after a boot. -/
theorem booted_counts (s : State) : (booted s).threads = s.threads ∧ (booted s).cycle = 0 ∧ (booted s).cursor = 0 ∧ (booted s).passNo = 0 ∧ (booted s).stepCyc = 0 ∧
    (booted s).sweep = .p0 ∧ (booted s).sweepNext = none := by
  have hframe := partsBooted_frame s
  exact ⟨(congrArg State.threads hframe :), (congrArg State.cycle hframe :), (congrArg State.cursor hframe :), (congrArg State.passNo hframe :),
    (congrArg State.stepCyc hframe :), (congrArg State.sweep hframe :), (congrArg State.sweepNext hframe :)⟩

theorem hub_partsBooted (s : State) : (partsBooted s).hub = { s.hub with hotPass := 0 } := (congrArg State.hub (partsBooted_frame s) :)

/-- R382, R393: the hub after a boot. -/
theorem hub_booted (s : State) : (booted s).hub =
    { s.hub with phase := .running, failures := 0, reason := 0, hotPass := 0, device := BitVec.ofNat 10 s.focus.index,
                 links := (booted s).hub.links, locked := (booted s).hub.locked } := by
  have hhub : (booted s).hub = { (partsBooted s).hub with
    phase := .running, failures := 0, reason := 0, device := BitVec.ofNat 10 s.focus.index, links := (booted s).hub.links, locked := (booted s).hub.locked } := rfl
  rw [hub_partsBooted] at hhub
  exact hhub

/-- R382: the links after a boot. -/
theorem links_booted (s : State) : (booted s).hub.links = linksUp s.focus.links s.hub.links := by
  have hlinks : (booted s).hub.links = linksUp s.focus.links (partsBooted s).hub.links := rfl
  rw [hlinks, hub_partsBooted]

/-- R382: right after the boot's start of the clock a marker is within one step where it names step 0 or 1. -/
theorem inStep_partsBooted (s : State) (pass cursor : Nat) : (partsBooted s).inStep pass cursor = decide (pass * 4096 + cursor ≤ 1) := by
  have hpass : (partsBooted s).passNo = 0 := (congrArg State.passNo (partsBooted_frame s) :)
  have hcursor : (partsBooted s).cursor = 0 := (congrArg State.cursor (partsBooted_frame s) :)
  unfold State.inStep State.stepNo State.stepOf
  rw [hpass, hcursor, Nat.zero_mul, Nat.zero_add, decide_eq_true (Nat.zero_le _), Bool.true_and, Nat.zero_add]

/-- R382, R393: the domain lock is joined where the links' markers are within one step. -/
theorem locked_booted (s : State) : (booted s).hub.locked = true ↔ s.focus.links ≠ [] ∧ ∀ l ∈ s.focus.links, l.2.pass * 4096 + l.2.cursor ≤ 1 := by
  have hlocked : (booted s).hub.locked = (!s.focus.links.isEmpty && s.focus.links.all fun l => (partsBooted s).inStep l.2.pass l.2.cursor) := rfl
  simp only [hlocked, inStep_partsBooted, Bool.and_eq_true, Bool.not_eq_true', List.isEmpty_eq_false_iff, List.all_eq_true, decide_eq_true_eq, ne_eq]

/-- R393: the length of each partition's image is that of an image of the boot, or 0. -/
theorem length_imageOf {s : State} (hgood : goodBoot s.focus) (p : Nat) : (imageOf s p).length ≤ localBytes := by
  obtain ⟨-, -, -, himages, -, -⟩ := hgood
  rw [imageOf, List.getD_eq_getElem?_getD]
  cases hp : s.focus.images[p]? with
  | none => exact Nat.zero_le _
  | some b => exact himages b (List.mem_of_getElem? hp)

theorem mem_partCores_partsMade {s : State} {p c : Nat} :
    c ∈ (partsMade s).partCores p ↔ c < numCores ∧ ((s.createParts s.focus.words).part p).hasCore c = true := State.mem_partCores

/-- R29, R393: the cores of a partition have its image, and are released. -/
theorem cores_partsBooted {s : State} (hgood : goodBoot s.focus) {p c : Nat} (hc : c < numCores)
    (hp : ((s.createParts s.focus.words).part p).hasCore c = true) : ((partsBooted s).core c).inReset = false ∧
      ∀ j < (imageOf s p).length, Memory.get (partsBooted s).mem (localBase c + j) = (imageOf s p).getD j 0 := by
  obtain ⟨hlen, -, hapart, -, -, -⟩ := id hgood
  have hlive : p ∈ (partsMade s).liveParts := mem_liveParts hlen hp
  have hmem : c ∈ (partsMade s).partCores p := mem_partCores_partsMade.mpr ⟨hc, hp⟩
  refine ⟨State.core_releaseParts_of_mem hlive hmem, fun j hj => State.get_releaseParts_inside (length_imageOf hgood) hlive hmem (fun q hq => ?_) hj⟩
  exact part_unique_of_shapesApart hapart hc (mem_partCores_partsMade.mp hq).2 hp

/-- R29: a core that no partition holds stays as it is. -/
theorem core_partsBooted_of_not {s : State} {c : Nat} (hnone : ∀ p, ((s.createParts s.focus.words).part p).hasCore c = false) :
    (partsBooted s).core c = s.core c := by
  have hcore : (partsMade s).core c = s.core c := rfl
  refine (State.core_releaseParts_of_not fun p _ hp => ?_).trans hcore
  have hhas := (mem_partCores_partsMade.mp hp).2
  rw [hnone p] at hhas
  exact nomatch hhas

/-- R393: bytes outside the images stay. -/
theorem get_partsBooted_outside {s : State} {a : Nat}
    (h : ∀ c < numCores, ∀ p, ((s.createParts s.focus.words).part p).hasCore c = true → a < localBase c ∨ localBase c + (imageOf s p).length ≤ a) :
    Memory.get (partsBooted s).mem a = Memory.get s.mem a := by
  have hmem : (partsMade s).mem = s.mem := rfl
  rw [partsBooted, State.get_releaseParts_outside, hmem]
  intro p _ c hc
  obtain ⟨hlt, hcore⟩ := mem_partCores_partsMade.mp hc
  exact h c hlt p hcore

/-- R321, R393: the shapes of the partitions after a boot. -/
theorem shapes_booted (s : State) :
    (∀ p w, s.focus.words[p]? = some w → ((booted s).part p).dies = w.extractLsb' 8 4 ∧ ((booted s).part p).strips = w.extractLsb' 0 8) ∧
      (s.focus.words = [] → ((booted s).part 0).dies = 0xF ∧ ((booted s).part 0).strips = 0xFF) := by
  refine ⟨fun p w hw => ?_, fun hnil => ?_⟩
  · have hwords : partWords s.focus.words = s.focus.words := if_neg fun hempty => by
      rw [List.isEmpty_iff.mp hempty] at hw
      exact nomatch hw
    rw [part_booted, part_createParts, hwords, hw]
    show BitVec.ofNat 4 (fld w 8 4) = _ ∧ BitVec.ofNat 8 (fld w 0 8) = _
    rw [fld_eq_extractLsb', fld_eq_extractLsb', BitVec.ofNat_toNat, BitVec.ofNat_toNat, BitVec.setWidth_eq, BitVec.setWidth_eq]
    exact ⟨rfl, rfl⟩
  · rw [part_booted, part_createParts, hnil]
    exact ⟨by decide, by decide⟩

end Sys2Proof.Machine
end

section
/-! O54: the management controller (R29, R356, R357, R367, R379, R392, R393), assembled from its requests. -/

namespace Sys2Proof.Machine

/-- R367, R393: a start that succeeds. -/
theorem boot_runs {s : State} (h : s.hub.phase = .starting) (hflag : s.focus.flag = true) (hgood : goodBoot s.focus) :
    ∃ t, exec .boot s = .next t ∧ t.hub = { s.hub with phase := .running, failures := 0, reason := 0, hotPass := 0, device := BitVec.ofNat 10 s.focus.index,
                                                       links := t.hub.links, locked := t.hub.locked } ∧
      (∀ l1 n x l2, s.focus.links = l1 ++ (n, x) :: l2 → (∀ y, (n, y) ∉ l2) → t.link n = { x with up := true }) ∧
      (∀ n, (∀ y, (n, y) ∉ s.focus.links) → t.link n = s.link n) ∧
      (t.hub.locked = true ↔ s.focus.links ≠ [] ∧ ∀ l ∈ s.focus.links, l.2.pass * 4096 + l.2.cursor ≤ 1) ∧
      t.threads = s.threads ∧ t.cycle = 0 ∧ t.cursor = 0 ∧ t.passNo = 0 ∧ t.stepCyc = 0 ∧ t.sweep = .p0 ∧ t.sweepNext = none ∧
      (∀ c < numCores, (∀ p, (t.part p).hasCore c = true → (t.core c).inReset = false ∧
          ∀ j < (imageOf s p).length, Memory.get t.mem (localBase c + j) = (imageOf s p).getD j 0) ∧ ((∀ p, (t.part p).hasCore c = false) → t.core c = s.core c)) ∧
      (∀ a, (∀ c < numCores, ∀ p, (t.part p).hasCore c = true → a < localBase c ∨ localBase c + (imageOf s p).length ≤ a) → Memory.get t.mem a = Memory.get s.mem a) ∧
      (∀ p w, s.focus.words[p]? = some w → (t.part p).dies = w.extractLsb' 8 4 ∧ (t.part p).strips = w.extractLsb' 0 8) ∧
      (s.focus.words = [] → (t.part 0).dies = 0xF ∧ (t.part 0).strips = 0xFF) := by
  obtain ⟨hthreads, hcycle, hcursor, hpass, hstep, hsweep, hnext⟩ := booted_counts s
  obtain ⟨hshapes, hall⟩ := shapes_booted s
  refine ⟨booted s, boot_succeeds h hflag hgood, hub_booted s, fun l1 n x l2 hl hlast => ?_, fun n hn => ?_, locked_booted s, hthreads, hcycle, hcursor, hpass, hstep,
    hsweep, hnext, fun c hc => ?_, fun a ha => ?_, hshapes, hall⟩
  · rw [State.link, links_booted, hl, getD_linksUp_last _ _ _ _ hlast]
  · rw [State.link, links_booted, getD_linksUp_of_not hn, State.link]
  · simp only [part_booted, core_booted, mem_booted]
    exact ⟨fun p hp => cores_partsBooted hgood hc hp, core_partsBooted_of_not⟩
  · simp only [part_booted] at ha
    rw [mem_booted, get_partsBooted_outside ha]

/-- Settles O54, request by request. -/
theorem managementRequestsAreServed : Obligations.ManagementRequestsAreServed := by
  refine ⟨fun s => ?_, fun s hoff => unpoweredSteps hoff⟩
  refine ⟨readNotices_answers s, breakClaim_served s, breakRelease_served s, breakResume_served s, takeResetLock_served s, dropResetLock_served s,
    loadFirmware_served s, partitionReset_served s, deviceReset_served s, powerOn_served s, powerOff_served s, checkpoint_served s, ?_, ?_,
    runtimeThreadRestart_served s⟩
  · obtain ⟨hrelease, hrefuse⟩ := checkpointRelease_served s
    exact ⟨hrelease, hrefuse, tierStep_of_not_frozen, tierStep_copies⟩
  · exact ⟨boot_refused, fun h => ⟨startTimeout_fails h, boot_fails h, boot_runs h⟩⟩

end Sys2Proof.Machine
end

section
/-! O55: a well-formed instruction is the decoding of its own words (R30, R43). The laws of the encodings say it of each constructor. -/

namespace Sys2Proof

/-- R30, R43: the words of a well-formed instruction decode to it, whatever its constructor. -/
theorem encodes : ∀ i : Instr, Laws.Encodes.Statement i
  | .add d a b => Laws.Encodes.add d a b
  | .sub d a b => Laws.Encodes.sub d a b
  | .and d a b => Laws.Encodes.and d a b
  | .or d a b => Laws.Encodes.or d a b
  | .xor d a b => Laws.Encodes.xor d a b
  | .andn d a b => Laws.Encodes.andn d a b
  | .shl d a b => Laws.Encodes.shl d a b
  | .shr d a b => Laws.Encodes.shr d a b
  | .sar d a b => Laws.Encodes.sar d a b
  | .slt d a b => Laws.Encodes.slt d a b
  | .sltu d a b => Laws.Encodes.sltu d a b
  | .min d a b => Laws.Encodes.min d a b
  | .max d a b => Laws.Encodes.max d a b
  | .minu d a b => Laws.Encodes.minu d a b
  | .maxu d a b => Laws.Encodes.maxu d a b
  | .mul d a b => Laws.Encodes.mul d a b
  | .mulh d a b => Laws.Encodes.mulh d a b
  | .mulhu d a b => Laws.Encodes.mulhu d a b
  | .mulhsu d a b => Laws.Encodes.mulhsu d a b
  | .div d a b => Laws.Encodes.div d a b
  | .divu d a b => Laws.Encodes.divu d a b
  | .rem d a b => Laws.Encodes.rem d a b
  | .remu d a b => Laws.Encodes.remu d a b
  | .clz d a => Laws.Encodes.clz d a
  | .ctz d a => Laws.Encodes.ctz d a
  | .popc d a => Laws.Encodes.popc d a
  | .bswap d a => Laws.Encodes.bswap d a
  | .sextb d a => Laws.Encodes.sextb d a
  | .sexth d a => Laws.Encodes.sexth d a
  | .sextw d a => Laws.Encodes.sextw d a
  | .zextb d a => Laws.Encodes.zextb d a
  | .zexth d a => Laws.Encodes.zexth d a
  | .zextw d a => Laws.Encodes.zextw d a
  | .addi d a imm => Laws.Encodes.addi d a imm
  | .andi d a imm => Laws.Encodes.andi d a imm
  | .ori d a imm => Laws.Encodes.ori d a imm
  | .xori d a imm => Laws.Encodes.xori d a imm
  | .slti d a imm => Laws.Encodes.slti d a imm
  | .sltiu d a imm => Laws.Encodes.sltiu d a imm
  | .shli d a amt => Laws.Encodes.shli d a amt
  | .shri d a amt => Laws.Encodes.shri d a amt
  | .sari d a amt => Laws.Encodes.sari d a amt
  | .lui d imm => Laws.Encodes.lui d imm
  | .lus d imm => Laws.Encodes.lus d imm
  | .addpc d imm => Laws.Encodes.addpc d imm
  | .ld sz sx d a off => Laws.Encodes.ld sz sx d a off
  | .st sz d a off => Laws.Encodes.st sz d a off
  | .amoAdd sc sz d a b => Laws.Encodes.amoAdd sc sz d a b
  | .amoAnd sc sz d a b => Laws.Encodes.amoAnd sc sz d a b
  | .amoOr sc sz d a b => Laws.Encodes.amoOr sc sz d a b
  | .amoXor sc sz d a b => Laws.Encodes.amoXor sc sz d a b
  | .amoMin sc sz d a b => Laws.Encodes.amoMin sc sz d a b
  | .amoMax sc sz d a b => Laws.Encodes.amoMax sc sz d a b
  | .amoMinu sc sz d a b => Laws.Encodes.amoMinu sc sz d a b
  | .amoMaxu sc sz d a b => Laws.Encodes.amoMaxu sc sz d a b
  | .amoSwap sc sz d a b => Laws.Encodes.amoSwap sc sz d a b
  | .amoIncw sc sz d a b => Laws.Encodes.amoIncw sc sz d a b
  | .amoBfadd sc sz d a b => Laws.Encodes.amoBfadd sc sz d a b
  | .amoFmin sc d a b => Laws.Encodes.amoFmin sc d a b
  | .amoFmax sc d a b => Laws.Encodes.amoFmax sc d a b
  | .amoFadd sc d a b => Laws.Encodes.amoFadd sc d a b
  | .cas sc sz d a b => Laws.Encodes.cas sc sz d a b
  | .beq a b off => Laws.Encodes.beq a b off
  | .bne a b off => Laws.Encodes.bne a b off
  | .blt a b off => Laws.Encodes.blt a b off
  | .bge a b off => Laws.Encodes.bge a b off
  | .bltu a b off => Laws.Encodes.bltu a b off
  | .bgeu a b off => Laws.Encodes.bgeu a b off
  | .jal d off => Laws.Encodes.jal d off
  | .jalr d a imm => Laws.Encodes.jalr d a imm
  | .csrr d n => Laws.Encodes.csrr d n
  | .csrw d a n => Laws.Encodes.csrw d a n
  | .csrs d a n => Laws.Encodes.csrs d a n
  | .csrc d a n => Laws.Encodes.csrc d a n
  | .tstatWrite k d a => Laws.Encodes.tstatWrite k d a
  | .tlbiWrite k d a => Laws.Encodes.tlbiWrite k d a
  | .trunWrite k d a => Laws.Encodes.trunWrite k d a
  | .rotctlArm d a => Laws.Encodes.rotctlArm d a
  | .armWithdraw d a => Laws.Encodes.armWithdraw d a
  | .soleWrite d a => Laws.Encodes.soleWrite d a
  | .barcfgWrite k n d a => Laws.Encodes.barcfgWrite k n d a
  | .occWrite k n d a => Laws.Encodes.occWrite k n d a
  | .placeRegisterWrite k r d a => Laws.Encodes.placeRegisterWrite k r d a
  | .twaysWrite k d a => Laws.Encodes.twaysWrite k d a
  | .fenceAcq sc => Laws.Encodes.fenceAcq sc
  | .fenceRel sc => Laws.Encodes.fenceRel sc
  | .fenceFull sc => Laws.Encodes.fenceFull sc
  | .wait d a b => Laws.Encodes.wait d a b
  | .waite d a b => Laws.Encodes.waite d a b
  | .bar d a => Laws.Encodes.bar d a
  | .barw d a => Laws.Encodes.barw d a
  | .barq d a => Laws.Encodes.barq d a
  | .hold d => Laws.Encodes.hold d
  | .spawn d a b => Laws.Encodes.spawn d a b
  | .pause a => Laws.Encodes.pause a
  | .inj d a b => Laws.Encodes.inj d a b
  | .recv d => Laws.Encodes.recv d
  | .ctxa d a => Laws.Encodes.ctxa d a
  | .ctxf a => Laws.Encodes.ctxf a
  | .sow d a b => Laws.Encodes.sow d a b
  | .swap d a => Laws.Encodes.swap d a
  | .fallow lvl d a => Laws.Encodes.fallow lvl d a
  | .haltr d a => Laws.Encodes.haltr d a
  | .resumer d a => Laws.Encodes.resumer d a
  | .ecfgw d a b => Laws.Encodes.ecfgw d a b
  | .ecfgr d a => Laws.Encodes.ecfgr d a
  | .boardRead d a b => Laws.Encodes.boardRead d a b
  | .boardFilter d a b => Laws.Encodes.boardFilter d a b
  | .boardSum d a b => Laws.Encodes.boardSum d a b
  | .boardFeed d a b => Laws.Encodes.boardFeed d a b
  | .boardUpdate d a b => Laws.Encodes.boardUpdate d a b
  | .boardAtom d a b => Laws.Encodes.boardAtom d a b
  | .boardFill d a b => Laws.Encodes.boardFill d a b
  | .boardDrain d a b => Laws.Encodes.boardDrain d a b
  | .boardDigest d a b => Laws.Encodes.boardDigest d a b
  | .boardCancel d a => Laws.Encodes.boardCancel d a
  | .clean lvl a b => Laws.Encodes.clean lvl a b
  | .inval lvl a b => Laws.Encodes.inval lvl a b
  | .clinv lvl a b => Laws.Encodes.clinv lvl a b
  | .gstart d a => Laws.Encodes.gstart d a
  | .gstop d a => Laws.Encodes.gstop d a
  | .gstat d a => Laws.Encodes.gstat d a
  | .allredOrd d a b => Laws.Encodes.allredOrd d a b
  | .allredExact d a b => Laws.Encodes.allredExact d a b
  | .bcast d a b => Laws.Encodes.bcast d a b
  | .allgath d a b => Laws.Encodes.allgath d a b
  | .redscatOrd d a b => Laws.Encodes.redscatOrd d a b
  | .redscatExact d a b => Laws.Encodes.redscatExact d a b
  | .digset d a b => Laws.Encodes.digset d a b
  | .digcmp d a b => Laws.Encodes.digcmp d a b
  | .tcommit d a => Laws.Encodes.tcommit d a
  | .tabort d a => Laws.Encodes.tabort d a
  | .normrd high n d => Laws.Encodes.normrd high n d
  | .normclr n => Laws.Encodes.normclr n
  | .trap imm => Laws.Encodes.trap imm
  | .svc imm => Laws.Encodes.svc imm
  | .copy f => Laws.Encodes.copy f
  | .steer f => Laws.Encodes.steer f
  | .merge f => Laws.Encodes.merge f
  | .gate f => Laws.Encodes.gate f
  | .sink f => Laws.Encodes.sink f
  | .const f => Laws.Encodes.const f
  | .iter f => Laws.Encodes.iter f
  | .count f => Laws.Encodes.count f
  | .comb f => Laws.Encodes.comb f
  | .reap f => Laws.Encodes.reap f
  | .tagix f => Laws.Encodes.tagix f
  | .loop f => Laws.Encodes.loop f
  | .eos f => Laws.Encodes.eos f
  | .mail f => Laws.Encodes.mail f
  | .ord f => Laws.Encodes.ord f
  | .slotAdd f => Laws.Encodes.slotAdd f
  | .slotSub f => Laws.Encodes.slotSub f
  | .slotMul f => Laws.Encodes.slotMul f
  | .slotMulh f => Laws.Encodes.slotMulh f
  | .mad f => Laws.Encodes.mad f
  | .slotAnd f => Laws.Encodes.slotAnd f
  | .slotOr f => Laws.Encodes.slotOr f
  | .slotXor f => Laws.Encodes.slotXor f
  | .slotAndn f => Laws.Encodes.slotAndn f
  | .slotShl f => Laws.Encodes.slotShl f
  | .slotShr f => Laws.Encodes.slotShr f
  | .slotSar f => Laws.Encodes.slotSar f
  | .slotMin f => Laws.Encodes.slotMin f
  | .slotMax f => Laws.Encodes.slotMax f
  | .abs f => Laws.Encodes.abs f
  | .neg f => Laws.Encodes.neg f
  | .cmp f => Laws.Encodes.cmp f
  | .sel f => Laws.Encodes.sel f
  | .slotClz f => Laws.Encodes.slotClz f
  | .slotPopc f => Laws.Encodes.slotPopc f
  | .adds f => Laws.Encodes.adds f
  | .subs f => Laws.Encodes.subs f
  | .avg f => Laws.Encodes.avg f
  | .dot4 f => Laws.Encodes.dot4 f
  | .bext f => Laws.Encodes.bext f
  | .bins f => Laws.Encodes.bins f
  | .rotl f => Laws.Encodes.rotl f
  | .satn f => Laws.Encodes.satn f
  | .fadd f => Laws.Encodes.fadd f
  | .fsub f => Laws.Encodes.fsub f
  | .fmul f => Laws.Encodes.fmul f
  | .ffma f => Laws.Encodes.ffma f
  | .fmin f => Laws.Encodes.fmin f
  | .fmax f => Laws.Encodes.fmax f
  | .fabs f => Laws.Encodes.fabs f
  | .fneg f => Laws.Encodes.fneg f
  | .fcmp f => Laws.Encodes.fcmp f
  | .fclass f => Laws.Encodes.fclass f
  | .frcp f => Laws.Encodes.frcp f
  | .frsq f => Laws.Encodes.frsq f
  | .fsqrt f => Laws.Encodes.fsqrt f
  | .fexp2 f => Laws.Encodes.fexp2 f
  | .flog2 f => Laws.Encodes.flog2 f
  | .ftanh f => Laws.Encodes.ftanh f
  | .cvt f => Laws.Encodes.cvt f
  | .packq f => Laws.Encodes.packq f
  | .unpackq f => Laws.Encodes.unpackq f
  | .plane f => Laws.Encodes.plane f
  | .had f => Laws.Encodes.had f
  | .setfpc f => Laws.Encodes.setfpc f
  | .getfpf f => Laws.Encodes.getfpf f
  | .clrfpf f => Laws.Encodes.clrfpf f
  | .perm f => Laws.Encodes.perm f
  | .bfly f => Laws.Encodes.bfly f
  | .rot f => Laws.Encodes.rot f
  | .slotBcast f => Laws.Encodes.slotBcast f
  | .join f => Laws.Encodes.join f
  | .split f => Laws.Encodes.split f
  | .rsum f => Laws.Encodes.rsum f
  | .rmax f => Laws.Encodes.rmax f
  | .rmin f => Laws.Encodes.rmin f
  | .laneix f => Laws.Encodes.laneix f
  | .frsum f => Laws.Encodes.frsum f
  | .madd f => Laws.Encodes.madd f
  | .msub f => Laws.Encodes.msub f
  | .mmul f => Laws.Encodes.mmul f
  | .mmac f => Laws.Encodes.mmac f
  | .mct f => Laws.Encodes.mct f
  | .mgs f => Laws.Encodes.mgs f
  | .mred f => Laws.Encodes.mred f
  | .mneg f => Laws.Encodes.mneg f
  | .mma f => Laws.Encodes.mma f
  | .mmas f => Laws.Encodes.mmas f
  | .accrd f => Laws.Encodes.accrd f
  | .accclr f => Laws.Encodes.accclr f
  | .cturn f => Laws.Encodes.cturn f
  | .lds f => Laws.Encodes.lds f
  | .sts f => Laws.Encodes.sts f
  | .ldsv f => Laws.Encodes.ldsv f
  | .stsv f => Laws.Encodes.stsv f
  | .atoms f => Laws.Encodes.atoms f
  | .bufw f => Laws.Encodes.bufw f
  | .bufr f => Laws.Encodes.bufr f
  | .etas f => Laws.Encodes.etas f
  | .etld f => Laws.Encodes.etld f
  | .etst f => Laws.Encodes.etst f
  | .boards f => Laws.Encodes.boards f
  | .tokenArrival => Laws.Encodes.tokenArrival
  | .reload => Laws.Encodes.reload
  | .reapToken => Laws.Encodes.reapToken
  | .reapFilterRetire => Laws.Encodes.reapFilterRetire
  | .fallowReport => Laws.Encodes.fallowReport
  | .matchExhausted => Laws.Encodes.matchExhausted
  | .mailboxAccept => Laws.Encodes.mailboxAccept
  | .injectionRelease => Laws.Encodes.injectionRelease
  | .iterEmit => Laws.Encodes.iterEmit
  | .accrdRow => Laws.Encodes.accrdRow
  | .cturnEmit => Laws.Encodes.cturnEmit
  | .ordArcSend => Laws.Encodes.ordArcSend
  | .swapActivate => Laws.Encodes.swapActivate
  | .swapTimeout => Laws.Encodes.swapTimeout
  | .stepBoundary => Laws.Encodes.stepBoundary
  | .guard => Laws.Encodes.guard
  | .rowCommit => Laws.Encodes.rowCommit
  | .tlbInvalidationDone => Laws.Encodes.tlbInvalidationDone
  | .loadReturn => Laws.Encodes.loadReturn
  | .dividerDone => Laws.Encodes.dividerDone
  | .storeBufferDrain => Laws.Encodes.storeBufferDrain
  | .waitWake => Laws.Encodes.waitWake
  | .waitTimeout => Laws.Encodes.waitTimeout
  | .pauseExpiry => Laws.Encodes.pauseExpiry
  | .holdExpiry => Laws.Encodes.holdExpiry
  | .asyncTrapEntry => Laws.Encodes.asyncTrapEntry
  | .generatorBlock => Laws.Encodes.generatorBlock
  | .collectiveComplete => Laws.Encodes.collectiveComplete
  | .linkDown => Laws.Encodes.linkDown
  | .passMarker => Laws.Encodes.passMarker
  | .sweepStateAnnounce => Laws.Encodes.sweepStateAnnounce
  | .thermalSlowdown => Laws.Encodes.thermalSlowdown
  | .thermalSpeedup => Laws.Encodes.thermalSpeedup
  | .layerPark => Laws.Encodes.layerPark
  | .layerUnpark => Laws.Encodes.layerUnpark
  | .layerPowerOff => Laws.Encodes.layerPowerOff
  | .powerRequest => Laws.Encodes.powerRequest
  | .plotWake => Laws.Encodes.plotWake
  | .coreWatchdog => Laws.Encodes.coreWatchdog
  | .edgeLineError => Laws.Encodes.edgeLineError
  | .startRecord => Laws.Encodes.startRecord
  | .readNotices => Laws.Encodes.readNotices
  | .breakClaim => Laws.Encodes.breakClaim
  | .breakRelease => Laws.Encodes.breakRelease
  | .breakResume => Laws.Encodes.breakResume
  | .partitionReset => Laws.Encodes.partitionReset
  | .deviceReset => Laws.Encodes.deviceReset
  | .takeResetLock => Laws.Encodes.takeResetLock
  | .dropResetLock => Laws.Encodes.dropResetLock
  | .loadFirmware => Laws.Encodes.loadFirmware
  | .powerOn => Laws.Encodes.powerOn
  | .powerOff => Laws.Encodes.powerOff
  | .checkpoint => Laws.Encodes.checkpoint
  | .checkpointRelease => Laws.Encodes.checkpointRelease
  | .boot => Laws.Encodes.boot
  | .startTimeout => Laws.Encodes.startTimeout
  | .unassignedHeadlandWord => Laws.Encodes.unassignedHeadlandWord
  | .fetchFault => Laws.Encodes.fetchFault
  | .ucPageReread => Laws.Encodes.ucPageReread
  | .runtimeThreadRestart => Laws.Encodes.runtimeThreadRestart
  | .poisonMarkClear => Laws.Encodes.poisonMarkClear
  | .groupTableWrite => Laws.Encodes.groupTableWrite
  | .frameMaskWrite => Laws.Encodes.frameMaskWrite
  | .linkUp => Laws.Encodes.linkUp
  | .hostMemoryAccess => Laws.Encodes.hostMemoryAccess
  | .unhold => Laws.Encodes.unhold
  | .exit => Laws.Encodes.exit
  | .yield => Laws.Encodes.yield
  | .eret => Laws.Encodes.eret
  | .halt => Laws.Encodes.halt
  | .brk => Laws.Encodes.brk
  | .donate => Laws.Encodes.donate

/-- R30, R43: a slot operation has no headland word. -/
theorem encode_of_slotOpcode {i : Instr} {p : BitVec 8 × SlotFields} (h : slotOpcode i = some p) : encode i = none := by
  unfold slotOpcode at h
  split at h <;> cases h <;> rfl

/-- Settles O55: the laws of all constructors, and a slot operation has no headland word. -/
theorem encodedInstructionsDecodeToThemselves : Obligations.EncodedInstructionsDecodeToThemselves := by
  intro i hwf
  obtain ⟨hword, hslot⟩ := encodes i hwf
  refine ⟨fun w hw => ⟨hword w hw, ?_⟩, hslot⟩
  cases hop : slotOpcode i with
  | none => rw [encodeSlot, hop, Option.map_none]
  | some p => exact nomatch hw.symm.trans (encode_of_slotOpcode hop)

end Sys2Proof
end

section
/-! O56: what decodes is well-formed and encodes back (R30, R42 to R49), group by group of the opcode map. -/

namespace Sys2Proof

/-! ### A word put together from its fields (R30) -/

section
variable {w : Word32} {op : BitVec 6}

theorem wordHR_fields (h : major w = op) : wordHR op (fieldD w) (fieldA w) (fieldB w) (fieldFunc w) = w := by
  unfold wordHR fieldD fieldA fieldB fieldFunc
  rw [← h, major]
  iterate 4 rw [BitVec.extractLsb'_append_extractLsb'_eq_extractLsb']
  · exact extract_all w
  all_goals rfl

theorem wordHI_fields (h : major w = op) : wordHI op (fieldD w) (fieldA w) (fieldImm w) = w := by
  unfold wordHI fieldD fieldA fieldImm
  rw [← h, major]
  iterate 3 rw [BitVec.extractLsb'_append_extractLsb'_eq_extractLsb']
  · exact extract_all w
  all_goals rfl

theorem wordHJ_fields (h : major w = op) : wordHJ op (fieldD w) (fieldOff21 w) = w := by
  unfold wordHJ fieldD fieldOff21
  rw [← h, major]
  iterate 2 rw [BitVec.extractLsb'_append_extractLsb'_eq_extractLsb']
  · exact extract_all w
  all_goals rfl

theorem wordHM_fields (h : major w = op) : wordHM op (fieldD w) (fieldA w) (fieldSize w) (fieldSx w) (fieldOff13 w) = w := by
  unfold wordHM fieldD fieldA fieldSize fieldSx fieldOff13
  rw [← h, major]
  iterate 5 rw [BitVec.extractLsb'_append_extractLsb'_eq_extractLsb']
  · exact extract_all w
  all_goals rfl

theorem wordHC_fields (h : major w = op) : wordHC op (fieldD w) (fieldA w) (fieldB w) (fieldKind w) (fieldQual w) = w := by
  unfold wordHC fieldD fieldA fieldB fieldKind fieldQual
  rw [← h, major]
  iterate 5 rw [BitVec.extractLsb'_append_extractLsb'_eq_extractLsb']
  · exact extract_all w
  all_goals rfl

theorem wordHS_fields (h : major w = 0x3F) : wordHS (fieldSys w) (fieldImm w) = w := by
  unfold wordHS fieldSys fieldImm
  rw [show (0x3F#6 : BitVec 6) = w.extractLsb' 26 6 from h.symm]
  iterate 2 rw [BitVec.extractLsb'_append_extractLsb'_eq_extractLsb']
  · exact extract_all w
  all_goals rfl

theorem wordAmo_fields (h : major w = op) {sc : Scope} (hsc : encodeScope sc = w.extractLsb' 8 3) :
    wordAmo op (fieldD w) (fieldA w) (fieldB w) sc (w.extractLsb' 6 2) (w.extractLsb' 0 6) = w := by
  unfold wordAmo fieldD fieldA fieldB
  rw [← h, major, hsc]
  iterate 6 rw [BitVec.extractLsb'_append_extractLsb'_eq_extractLsb']
  · exact extract_all w
  all_goals rfl

theorem wordCsr_fields (h : major w = 0x20) (hzero : w.extractLsb' 12 2 = 0) :
    wordCsr (fieldSize w) (fieldD w) (fieldA w) (w.extractLsb' 0 12) = w := by
  unfold wordCsr fieldSize fieldD fieldA
  rw [show (0x20#6 : BitVec 6) = w.extractLsb' 26 6 from h.symm, show (0#2 : BitVec 2) = w.extractLsb' 12 2 from hzero.symm]
  iterate 5 rw [BitVec.extractLsb'_append_extractLsb'_eq_extractLsb']
  · exact extract_all w
  all_goals rfl

theorem wordShift_fields (h : major w = op) (hzero : w.extractLsb' 6 10 = 0) : wordShift op (fieldD w) (fieldA w) (w.extractLsb' 0 6) = w := by
  unfold wordShift fieldD fieldA
  rw [← h, major, show (0#10 : BitVec 10) = w.extractLsb' 6 10 from hzero.symm]
  iterate 4 rw [BitVec.extractLsb'_append_extractLsb'_eq_extractLsb']
  · exact extract_all w
  all_goals rfl

end

/-- R38: a FENCE word in the format HR. -/
theorem fence_eq_wordHR : ∀ (kind : BitVec 2) (sc : BitVec 3),
    (0x21#6 ++ 0#15 ++ 0#6 ++ kind ++ sc : Word32) = wordHR 0x21 0 0 0 (0#6 ++ kind ++ sc) := by
  decide

theorem wordFence_eq_wordHR {func : BitVec 11} (h : func.toNat < 0x20) {sc : Scope} (hsc : encodeScope sc = func.extractLsb' 0 3) :
    wordFence (func.extractLsb' 3 2) sc = wordHR 0x21 0 0 0 func := by
  have hzero : (0#6 : BitVec 6) = func.extractLsb' 5 6 := BitVec.eq_of_toNat_eq (by
    rw [BitVec.extractLsb'_toNat, BitVec.toNat_ofNat, Nat.shiftRight_eq_div_pow]
    omega)
  unfold wordFence
  rw [hsc, fence_eq_wordHR, hzero]
  iterate 2 rw [BitVec.extractLsb'_append_extractLsb'_eq_extractLsb']
  · rw [extract_all func]
  all_goals rfl

/-! ### The codes of the operands (R35 to R39) -/

theorem encodeScope_of_decode : ∀ s : BitVec 3, ∀ sc ∈ decodeScope s, encodeScope sc = s := by decide

theorem encodeAmoSize_of_decode : ∀ z : BitVec 2, ∀ sz ∈ decodeAmoSize z, encodeAmoSize sz = z := by decide

theorem encodeCacheLevel_of_decode : ∀ q : BitVec 5, ∀ l ∈ decodeCacheLevel q, encodeCacheLevel l = q := by decide

theorem encodeMemSize_decode : ∀ z : BitVec 2, encodeMemSize (decodeMemSize z) = z := by decide

theorem bit1_beq_one : ∀ x : BitVec 1, bit1 (x == 1) = x := by decide

theorem twin_qual : ∀ q : BitVec 5, bit1 (q.extractLsb' 4 1 == 1) ++ q.extractLsb' 0 4 = q := by decide

/-! ### What a decoder's answer stands for -/

/-- R42: a decoder's answer, where it gives an instruction, stands for the word. -/
def Accepts (e : Except DecodeReject Instr) (w : Word32) : Prop := ∀ i, e = .ok i → i.wf = true ∧ encode i = some w

section
variable {i : Instr} {w : Word32}

theorem accepts_ok : Accepts (.ok i) w ↔ i.wf = true ∧ encode i = some w := by
  simp [Accepts]

theorem accepts_error {r : DecodeReject} : Accepts (.error r) w ↔ True := by
  simp [Accepts]

theorem accepts_needZero {zero : Bool} : Accepts (needZero zero i) w ↔ (zero = true → Accepts (.ok i) w) := by
  cases zero <;> simp [needZero, accepts_error]

theorem accepts_needQual0 {q : BitVec 5} {zero : Bool} : Accepts (needQual0 q zero i) w ↔ (q = 0 → zero = true → Accepts (.ok i) w) := by
  unfold needQual0
  split
  · next h => simp only [accepts_needZero, h, true_imp_iff]
  · next h => simp only [accepts_error, h, false_imp_iff]

theorem Accepts.of_word {v : Word32} (hwf : i.wf = true) (he : encode i = some v) (hv : v = w) : Accepts (.ok i) w :=
  accepts_ok.mpr ⟨hwf, hv ▸ he⟩

theorem Accepts.of_eq {e : Except DecodeReject Instr} {v : Word32} (h : Accepts e v) (hv : v = w) : Accepts e w := hv ▸ h

/-- The code in a word is the numeral that the decoder compares it with. -/
theorem Accepts.of_code {n : Nat} {e : Except DecodeReject Instr} (word : BitVec n → Word32) {x : BitVec n}
    (h : Accepts e (word (BitVec.ofNat n x.toNat))) : Accepts e (word x) :=
  h.of_eq (by rw [BitVec.ofNat_toNat, BitVec.setWidth_eq])

end

/-! ### The groups of the headland words -/

section
variable (d a b : Reg)

/-- R33: the ALU group. -/
theorem accepts_alu (func : BitVec 11) : Accepts (decodeAlu func d a b) (wordHR 0 d a b func) := by
  refine .of_code (wordHR 0 d a b) ?_
  unfold decodeAlu
  generalize func.toNat = n
  split <;> simp +contextual [accepts_ok, accepts_error, accepts_needZero, Instr.wf, encode]

/-- R36: the AMO group. -/
theorem accepts_amo (op : BitVec 6) (sc : Scope) (sz : AmoSize) : Accepts (decodeAmo op sc sz d a b) (wordAmo 0x12 d a b sc (encodeAmoSize sz) op) := by
  refine .of_code (wordAmo 0x12 d a b sc (encodeAmoSize sz)) ?_
  unfold decodeAmo
  generalize op.toNat = n
  split <;> cases sz <;> simp [accepts_ok, accepts_error, Instr.wf, encode, encodeAmoSize]

/-- R38: the FENCE words. -/
theorem accepts_fence {func : BitVec 11} (h : func.toNat < 0x20) : Accepts (decodeFence func) (wordHR 0x21 0 0 0 func) := by
  have word : ∀ {sc k}, decodeScope (func.extractLsb' 0 3) = some sc → (func.extractLsb' 3 2).toNat = k →
      wordFence (BitVec.ofNat 2 k) sc = wordHR 0x21 0 0 0 func := by
    rintro sc k hsc rfl
    rw [BitVec.ofNat_toNat, BitVec.setWidth_eq, wordFence_eq_wordHR h (encodeScope_of_decode _ _ hsc)]
  unfold decodeFence
  split
  · next hsc hk => exact accepts_ok.mpr ⟨rfl, congrArg some (word hsc hk)⟩
  · next hsc hk => exact accepts_ok.mpr ⟨rfl, congrArg some (word hsc hk)⟩
  · next hsc hk => exact accepts_ok.mpr ⟨rfl, congrArg some (word hsc hk)⟩
  · exact accepts_error.mpr trivial

/-- R38: the SYNC group. -/
theorem accepts_sync (func : BitVec 11) : Accepts (decodeSync func d a b) (wordHR 0x21 d a b func) := by
  refine .of_code (wordHR 0x21 d a b) ?_
  unfold decodeSync
  generalize hn : func.toNat = n
  split
  case h_8 =>
    split_ifs with hlt hzero
    · simp only [Bool.and_eq_true, beq_iff_eq] at hzero
      obtain ⟨⟨rfl, rfl⟩, rfl⟩ := hzero
      subst hn
      rw [BitVec.ofNat_toNat, BitVec.setWidth_eq]
      exact accepts_fence hlt
    · exact accepts_error.mpr trivial
    · exact accepts_error.mpr trivial
  all_goals simp +contextual [accepts_ok, accepts_needZero, Instr.wf, encode]

/-- R38: the THREAD group. -/
theorem accepts_thread (func : BitVec 11) : Accepts (decodeThread func d a b) (wordHR 0x22 d a b func) := by
  refine .of_code (wordHR 0x22 d a b) ?_
  unfold decodeThread
  generalize func.toNat = n
  split <;> simp +contextual [accepts_ok, accepts_error, accepts_needZero, Instr.wf, encode]

variable (kind : BitVec 6) (q : BitVec 5)

/-- R39: the FABRIC group. -/
theorem accepts_fabric : Accepts (decodeFabric kind q d a b) (wordHC 0x23 d a b kind q) := by
  refine .of_code (wordHC 0x23 d a b · q) ?_
  unfold decodeFabric
  generalize kind.toNat = n
  split
  case h_7 =>
    refine .of_code (wordHC 0x23 d a b 6) ?_
    generalize q.toNat = m
    split <;> simp +contextual [accepts_ok, accepts_error, accepts_needZero, Instr.wf, encode]
  all_goals simp +contextual [accepts_ok, accepts_error, accepts_needQual0, Instr.wf, encode]

/-- R39: the BOARD group. -/
theorem accepts_board : Accepts (decodeBoard kind q d a b) (wordHC 0x24 d a b kind q) := by
  refine .of_code (wordHC 0x24 d a b · q) ?_
  unfold decodeBoard
  generalize kind.toNat = n
  split <;> simp +contextual [accepts_ok, accepts_error, accepts_needQual0, Instr.wf, encode]

/-- R39: the CACHE group. -/
theorem accepts_cache : Accepts (decodeCache kind q d a b) (wordHC 0x25 d a b kind q) := by
  refine .of_code (wordHC 0x25 d a b · q) ?_
  unfold decodeCache
  generalize kind.toNat = n
  split
  case h_4 => exact accepts_error.mpr trivial
  all_goals
    next hl =>
      obtain rfl := encodeCacheLevel_of_decode _ _ hl
      simp +contextual [accepts_ok, accepts_needZero, Instr.wf, encode]

/-- R39: the GEN group. -/
theorem accepts_gen : Accepts (decodeGen kind q d a b) (wordHC 0x26 d a b kind q) := by
  refine .of_code (wordHC 0x26 d a b · q) ?_
  unfold decodeGen
  generalize kind.toNat = n
  split <;> simp +contextual [accepts_ok, accepts_error, accepts_needQual0, Instr.wf, encode]

/-- R39: the COLL group. -/
theorem accepts_coll : Accepts (decodeColl kind q d a b) (wordHC 0x27 d a b kind q) := by
  refine .of_code (wordHC 0x27 d a b · q) (.of_code (wordHC 0x27 d a b (BitVec.ofNat 6 kind.toNat)) ?_)
  unfold decodeColl
  generalize kind.toNat = n, q.toNat = m
  split <;> simp [accepts_ok, accepts_error, Instr.wf, encode]

/-- R39: the TWIN group. -/
theorem accepts_twin : Accepts (decodeTwin kind q d a b) (wordHC 0x28 d a b kind q) := by
  refine .of_code (wordHC 0x28 d a b · q) ?_
  unfold decodeTwin
  generalize kind.toNat = n
  have hq := twin_qual q
  split
  case h_3 =>
    refine accepts_needZero.mpr fun hzero => accepts_ok.mpr ⟨rfl, ?_⟩
    simp only [Bool.and_eq_true, beq_iff_eq] at hzero
    obtain ⟨rfl, rfl⟩ := hzero
    exact congrArg (fun q => some (wordHC 0x28 d 0 0 2 q)) hq
  case h_4 =>
    split
    · next hbit =>
      rw [eq_of_beq hbit] at hq
      have hq' : 0#1 ++ q.extractLsb' 0 4 = q := hq
      simp +contextual [accepts_ok, accepts_needZero, Instr.wf, encode, hq']
    · exact accepts_error.mpr trivial
  all_goals simp +contextual [accepts_ok, accepts_error, accepts_needQual0, Instr.wf, encode]

end

/-- R40: the SYS group. -/
theorem accepts_sys (func : BitVec 10) (imm : BitVec 16) : Accepts (decodeSys func imm) (wordHS func imm) := by
  refine .of_code (wordHS · imm) ?_
  unfold decodeSys
  generalize func.toNat = n
  split <;> simp +contextual [accepts_ok, accepts_error, accepts_needZero, Instr.wf, encode]

/-- R37: the registers whose writes are constructors of their own. -/
theorem isSpecialCsr_cases {n : BitVec 12} (h : isSpecialCsr n = true) :
    n = 0x001 ∨ n = 0x111 ∨ n = 0x118 ∨ n = 0x121 ∨ n = 0x123 ∨ n = 0x124 ∨ n = 0x125 ∨ n = 0x127 ∨ n = 0x129 ∨
      (∃ k : BitVec 4, n = 0x05#8 ++ k) ∨ ∃ k : BitVec 4, n = 0x07#8 ++ k := by
  have hsplit : n = n.extractLsb' 4 8 ++ n.extractLsb' 0 4 := by
    rw [BitVec.extractLsb'_append_extractLsb'_eq_extractLsb']
    · exact (extract_all n).symm
    · rfl
  have hhigh : ∀ {x : BitVec 8}, n.extractLsb' 4 8 = x → ∃ k : BitVec 4, n = x ++ k := fun hx => ⟨n.extractLsb' 0 4, hx ▸ hsplit⟩
  simp only [isSpecialCsr, Bool.or_eq_true, beq_iff_eq, or_assoc] at h
  exact h.imp_right <| .imp_right <| .imp_right <| .imp_right <| .imp_right <| .imp_right <| .imp_right <| .imp_right <| .imp_right <| .imp hhigh hhigh

/-- R37: a CSR word that writes. -/
theorem accepts_csrWrite (k : CsrOp) (d a : Reg) (n : BitVec 12) : Accepts (.ok (decodeCsrWrite k d a n)) (wordCsr (encodeCsrOp k) d a n) := by
  refine accepts_ok.mpr ?_
  cases hspecial : isSpecialCsr n with
  | false =>
    have hplain : (!isSpecialCsr n) = true := by rw [hspecial]; rfl
    rw [csrWrite_plain k d a n hplain]
    cases k <;> exact ⟨hplain, rfl⟩
  | true =>
    obtain rfl | rfl | rfl | rfl | rfl | rfl | rfl | rfl | rfl | ⟨m, rfl⟩ | ⟨m, rfl⟩ := isSpecialCsr_cases hspecial
    case inr.inl => cases k <;> exact ⟨rfl, rfl⟩
    case inr.inr.inr.inr.inr.inr.inr.inr.inr.inl => rw [barcfgWrite_csr]; exact ⟨rfl, rfl⟩
    case inr.inr.inr.inr.inr.inr.inr.inr.inr.inr => rw [occWrite_csr]; exact ⟨rfl, rfl⟩
    all_goals exact ⟨rfl, rfl⟩

/-- R37: the CSR group. -/
theorem accepts_csr {w : Word32} (h : major w = 0x20) : Accepts (decodeCsr w) w := by
  unfold decodeCsr
  dsimp only
  split_ifs with hzero
  · exact accepts_error.mpr trivial
  have word : ∀ {kind : BitVec 2}, (fieldSize w).toNat = kind.toNat → wordCsr kind (fieldD w) (fieldA w) (w.extractLsb' 0 12) = w := fun hk =>
    BitVec.eq_of_toNat_eq hk ▸ wordCsr_fields h (not_not.mp hzero)
  split
  · next hk =>
    refine accepts_needZero.mpr fun ha => .of_word rfl rfl ?_
    have hw := word (kind := 0) hk
    rwa [eq_of_beq ha] at hw
  · next hk => exact (accepts_csrWrite .write _ _ _).of_eq (word hk)
  · next hk => exact (accepts_csrWrite .set _ _ _).of_eq (word hk)
  · next h0 h1 h2 =>
    have hk : (fieldSize w).toNat = 3 := by
      have hlt := (fieldSize w).isLt
      simp only [imp_false] at h0 h1 h2
      omega
    exact (accepts_csrWrite .clear _ _ _).of_eq (word hk)

/-! ### The headland word (R32) -/

section
variable {w : Word32}

/-- R34: a shift by an immediate. -/
theorem accepts_shift {op : BitVec 6} (h : major w = op) {mk : Reg → Reg → BitVec 6 → Instr}
    (hmk : ∀ d a amt, (mk d a amt).wf = true ∧ encode (mk d a amt) = some (wordShift op d a amt)) : Accepts (decodeShift w mk) w := by
  refine accepts_needZero.mpr fun hzero => ?_
  obtain ⟨hwf, he⟩ := hmk (fieldD w) (fieldA w) (w.extractLsb' 0 6)
  exact .of_word hwf he (wordShift_fields h (eq_of_beq hzero))

/-- R34: LUI, LUS and ADDPC. -/
theorem accepts_upper {op : BitVec 6} (h : major w = op) {mk : Reg → BitVec 16 → Instr}
    (hmk : ∀ d imm, (mk d imm).wf = true ∧ encode (mk d imm) = some (wordHI op d 0 imm)) :
    Accepts (needZero (fieldA w == 0) (mk (fieldD w) (fieldImm w))) w := by
  refine accepts_needZero.mpr fun ha => ?_
  obtain ⟨hwf, he⟩ := hmk (fieldD w) (fieldImm w)
  have hw := wordHI_fields h
  rw [eq_of_beq ha] at hw
  exact .of_word hwf he hw

/-- R35: LD. -/
theorem accepts_ld (h : major w = 0x10) (hok : ¬ (decodeMemSize (fieldSize w) = .dword ∧ fieldSx w = 1)) :
    Accepts (.ok (.ld (decodeMemSize (fieldSize w)) (fieldSx w == 1) (fieldD w) (fieldA w) (fieldOff13 w))) w := by
  refine .of_word ?_ rfl ?_
  · simpa [Instr.wf, imp_iff_not_or] using hok
  · rw [encodeMemSize_decode, bit1_beq_one, wordHM_fields h]

/-- R35: ST. -/
theorem accepts_st (h : major w = 0x11) (hok : fieldSx w ≠ 1) :
    Accepts (.ok (.st (decodeMemSize (fieldSize w)) (fieldD w) (fieldA w) (fieldOff13 w))) w := by
  have hsx : fieldSx w = 0 := (by decide : ∀ x : BitVec 1, x ≠ 1 → x = 0) _ hok
  refine .of_word rfl rfl ?_
  rw [encodeMemSize_decode, ← hsx, wordHM_fields h]

/-- R36: the scope and the size of an AMO or CAS word. -/
theorem wordAmo_codes {op : BitVec 6} (h : major w = op) {sc : Scope} {sz : AmoSize} (hsc : decodeScope (w.extractLsb' 8 3) = some sc)
    (hsz : decodeAmoSize (w.extractLsb' 6 2) = some sz) :
    wordAmo op (fieldD w) (fieldA w) (fieldB w) sc (encodeAmoSize sz) (w.extractLsb' 0 6) = w := by
  rw [encodeAmoSize_of_decode _ _ hsz, wordAmo_fields h (encodeScope_of_decode _ _ hsc)]

/-- R36: CAS. -/
theorem accepts_cas (h : major w = 0x13) {sc : Scope} {sz : AmoSize} (hsc : decodeScope (w.extractLsb' 8 3) = some sc)
    (hsz : decodeAmoSize (w.extractLsb' 6 2) = some sz) :
    Accepts (needZero (w.extractLsb' 0 6 == 0) (.cas sc sz (fieldD w) (fieldA w) (fieldB w))) w := by
  refine accepts_needZero.mpr fun hzero => .of_word rfl rfl ?_
  have hw := wordAmo_codes h hsc hsz
  rwa [eq_of_beq hzero] at hw

theorem major_eq {op : BitVec 6} (h : (major w).toNat = op.toNat) : major w = op := BitVec.eq_of_toNat_eq h

/-- R32: a headland word, major by major. -/
theorem accepts_word (w : Word32) : Accepts (decodeWord w) w := by
  unfold decodeWord
  split
  · next h => exact (accepts_alu _ _ _ _).of_eq (wordHR_fields (major_eq h))
  · next h => exact .of_word rfl rfl (wordHI_fields (major_eq h))
  · next h => exact .of_word rfl rfl (wordHI_fields (major_eq h))
  · next h => exact .of_word rfl rfl (wordHI_fields (major_eq h))
  · next h => exact .of_word rfl rfl (wordHI_fields (major_eq h))
  · next h => exact .of_word rfl rfl (wordHI_fields (major_eq h))
  · next h => exact .of_word rfl rfl (wordHI_fields (major_eq h))
  · next h => exact accepts_shift (major_eq h) fun _ _ _ => ⟨rfl, rfl⟩
  · next h => exact accepts_shift (major_eq h) fun _ _ _ => ⟨rfl, rfl⟩
  · next h => exact accepts_shift (major_eq h) fun _ _ _ => ⟨rfl, rfl⟩
  · next h => exact accepts_upper (major_eq h) fun _ _ => ⟨rfl, rfl⟩
  · next h => exact accepts_upper (major_eq h) fun _ _ => ⟨rfl, rfl⟩
  · next h => exact accepts_upper (major_eq h) fun _ _ => ⟨rfl, rfl⟩
  · next h =>
    split_ifs with hbad
    · exact accepts_error.mpr trivial
    · exact accepts_ld (major_eq h) hbad
  · next h =>
    split_ifs with hbad
    · exact accepts_error.mpr trivial
    · exact accepts_st (major_eq h) hbad
  · next h =>
    split
    · next hsc hsz => exact (accepts_amo _ _ _ _ _ _).of_eq (wordAmo_codes (major_eq h) hsc hsz)
    · exact accepts_error.mpr trivial
  · next h =>
    split
    · next hsc hsz => exact accepts_cas (major_eq h) hsc hsz
    · exact accepts_error.mpr trivial
  · next h => exact .of_word rfl rfl (wordHI_fields (major_eq h))
  · next h => exact .of_word rfl rfl (wordHI_fields (major_eq h))
  · next h => exact .of_word rfl rfl (wordHI_fields (major_eq h))
  · next h => exact .of_word rfl rfl (wordHI_fields (major_eq h))
  · next h => exact .of_word rfl rfl (wordHI_fields (major_eq h))
  · next h => exact .of_word rfl rfl (wordHI_fields (major_eq h))
  · next h => exact .of_word rfl rfl (wordHJ_fields (major_eq h))
  · next h => exact .of_word rfl rfl (wordHI_fields (major_eq h))
  · next h => exact accepts_csr (major_eq h)
  · next h => exact (accepts_sync _ _ _ _).of_eq (wordHR_fields (major_eq h))
  · next h => exact (accepts_thread _ _ _ _).of_eq (wordHR_fields (major_eq h))
  · next h => exact (accepts_fabric _ _ _ _ _).of_eq (wordHC_fields (major_eq h))
  · next h => exact (accepts_board _ _ _ _ _).of_eq (wordHC_fields (major_eq h))
  · next h => exact (accepts_cache _ _ _ _ _).of_eq (wordHC_fields (major_eq h))
  · next h => exact (accepts_gen _ _ _ _ _).of_eq (wordHC_fields (major_eq h))
  · next h => exact (accepts_coll _ _ _ _ _).of_eq (wordHC_fields (major_eq h))
  · next h => exact (accepts_twin _ _ _ _ _).of_eq (wordHC_fields (major_eq h))
  · next h => exact (accepts_sys _ _).of_eq (wordHS_fields (major_eq h))
  · exact accepts_error.mpr trivial

end

/-! ### The slot word and its side word (R43 to R49) -/

/-- R49: the opcode map and the opcodes of the slot operations are inverse. -/
theorem slotOpcode_of_opcode {n : Nat} {f : SlotFields} {i : Instr} (h : slotOfOpcode n f = some i) :
    slotOpcode i = some (BitVec.ofNat 8 n, f) ∧ i.wf = f.wf := by
  unfold slotOfOpcode at h
  split at h <;> cases h <;> exact ⟨rfl, rfl⟩

/-- R43: a slot word put together from its fields. -/
theorem slot_fields (slot side : Word32) : let f := slotFieldsOf slot side
    (slot.extractLsb' 24 8 ++ f.action ++ f.srcA ++ f.srcB ++ f.dst0 ++ f.dst1 : Word32) = slot ∧ (f.qual ++ f.extra ++ f.ext : Word32) = side := by
  unfold slotFieldsOf
  dsimp only
  constructor
  · iterate 5 rw [BitVec.extractLsb'_append_extractLsb'_eq_extractLsb']
    · exact extract_all slot
    all_goals rfl
  · iterate 2 rw [BitVec.extractLsb'_append_extractLsb'_eq_extractLsb']
    · exact extract_all side
    all_goals rfl

/-- R45, R46, R48, R50: a slot word that decodes has an opcode of the map and lawful fields. -/
theorem decodeSlot_ok {slot side : Word32} {i : Instr} (h : decodeSlot slot side = .ok i) :
    slotOfOpcode (slot.extractLsb' 24 8).toNat (slotFieldsOf slot side) = some i ∧ (slotFieldsOf slot side).wf = true := by
  unfold decodeSlot at h
  dsimp only at h
  split at h
  · exact nomatch h
  next j hj =>
  split_ifs at h with hsrc hdst hact
  cases h
  refine ⟨hj, ?_⟩
  obtain ⟨hA, hB⟩ := not_or.mp hsrc
  obtain ⟨h0, h1⟩ := Bool.and_eq_true_iff.mp hdst
  simp only [SlotFields.wf, Nat.not_le.mp hact, bne_iff_ne.mpr hA, bne_iff_ne.mpr hB, h0, h1, decide_true, Bool.and_self]

/-- Settles O56: major by major for a headland word, through the opcode map for a slot word. -/
theorem decodedWordsEncodeBack : Obligations.DecodedWordsEncodeBack := by
  refine ⟨accepts_word, fun slot side i h => ?_⟩
  obtain ⟨hop, hwf⟩ := decodeSlot_ok h
  obtain ⟨hcode, hsame⟩ := slotOpcode_of_opcode hop
  obtain ⟨hslot, hside⟩ := slot_fields slot side
  rw [BitVec.ofNat_toNat, BitVec.setWidth_eq] at hcode
  refine ⟨hsame.trans hwf, ?_⟩
  rw [encodeSlot, hcode, Option.map_some, hslot, hside]

end Sys2Proof
end

section
/-! O60: words that the spec's examples write out (R31 to R41, R43). -/

namespace Sys2Proof

/-- Settles O60: each word decodes by computation. -/
theorem writtenOutWordsDecode : Obligations.WrittenOutWordsDecode := by
  unfold Obligations.WrittenOutWordsDecode
  decide

end Sys2Proof
end

section
/-! Sending from a slot (R46, R47, R85, R91): what leaves for where, and what sending leaves as it was. -/

namespace Sys2Proof.Machine

namespace State

/-- The machine but for what firings touch: elements, fields, partitions and the network. -/
def slotRest (s : State) : State := { s with elems := [], fields := [], parts := [], flights := [], flightNext := 0 }

theorem eq_of_slotRest {s t : State} (h : t.slotRest = s.slotRest) :
    { t with elems := s.elems, fields := s.fields, parts := s.parts, flights := s.flights, flightNext := s.flightNext } = s :=
  (congrArg (fun u : State => { u with elems := s.elems, fields := s.fields, parts := s.parts, flights := s.flights, flightNext := s.flightNext }) h :)

/-- R102: what the quiescence tree has reported stands with fields and partitions. -/
theorem unreport_eq (s : State) (e : Nat) : ∃ fs ps, s.unreport e = { s with fields := fs, parts := ps } ∧
    ∀ k, (Table.getD fs k {}).lastIssue = (s.field k).lastIssue := by
  unfold unreport
  cases s.fieldAt e with
  | none =>
    dsimp only
    split <;> exact ⟨_, _, rfl, fun _ => rfl⟩
  | some k =>
    have hfields : ∀ f : FieldSt, f.lastIssue = (s.field k).lastIssue → ∀ j, (Table.getD (Table.put s.fields k f) j {}).lastIssue = (s.field j).lastIssue := by
      intro f hf j
      rw [Table.getD_put]
      split
      · next h => rw [hf, h]
      · rfl
    dsimp only
    split <;> exact ⟨_, _, rfl, hfields _ rfl⟩

end State

/-! ### The queues and the network -/

/-- R91: an element with more tokens in its output queues. -/
def ElemSt.queued (x : ElemSt) (outs scales : List OutTok) : ElemSt := { x with outq := x.outq ++ outs, scaleq := x.scaleq ++ scales }

/-- R85, R91: tokens have left slots of element `e`: some stand in its two queues, some are on their way to local destinations; no field has issued. -/
structure Sent (s t : State) (e : Nat) (outs scales : List OutTok) (locals : List FlightSt) : Prop where
  elem : t.elem e = (s.elem e).queued outs scales
  others : ∀ d, d ≠ e → t.elem d = s.elem d
  issues : ∀ k, (t.field k).lastIssue = (s.field k).lastIssue
  rest : t.slotRest = s.slotRest
  next : t.flightNext = s.flightNext + locals.length
  old : ∀ k, k < s.flightNext → Table.find? t.flights k = Table.find? s.flights k
  new : ∀ n f, locals[n]? = some f → Table.find? t.flights (s.flightNext + n) = some f

namespace Sent

variable {s t u : State} {e : Nat} {outs outs' scales scales' : List OutTok} {locals locals' : List FlightSt}

theorem refl (s : State) (e : Nat) : Sent s s e [] [] [] where
  elem := by simp only [ElemSt.queued, List.append_nil]
  others _ _ := rfl
  issues _ := rfl
  rest := rfl
  next := rfl
  old _ _ := rfl
  new _ _ h := nomatch h

theorem trans (h : Sent s t e outs scales locals) (h' : Sent t u e outs' scales' locals') :
    Sent s u e (outs ++ outs') (scales ++ scales') (locals ++ locals') where
  elem := by rw [h'.elem, h.elem]; simp only [ElemSt.queued, List.append_assoc]
  others d hd := (h'.others d hd).trans (h.others d hd)
  issues k := (h'.issues k).trans (h.issues k)
  rest := h'.rest.trans h.rest
  next := by rw [h'.next, h.next, List.length_append, Nat.add_assoc]
  old k hk := (h'.old k (by rw [h.next]; omega)).trans (h.old k hk)
  new n f hn := by
    by_cases hlt : n < locals.length
    · rw [List.getElem?_append_left hlt] at hn
      rw [h'.old _ (by rw [h.next]; omega), h.new n f hn]
    · rw [List.getElem?_append_right (Nat.not_lt.mp hlt)] at hn
      have hat := h'.new _ f hn
      rwa [h.next, Nat.add_assoc, Nat.add_sub_cancel' (Nat.not_lt.mp hlt)] at hat

/-- Partitions take no part in sending. -/
theorem of_parts (h : Sent s t e outs scales locals) (hp : { u with parts := [] } = { t with parts := [] }) : Sent s u e outs scales locals := by
  have helem : ∀ d, u.elem d = t.elem d := fun d => (congrArg (State.elem · d) hp :)
  have hflights : u.flights = t.flights := (congrArg State.flights hp :)
  refine ⟨(helem e).trans h.elem, fun d hd => (helem d).trans (h.others d hd), fun k => ?_, ?_, ?_, fun k hk => ?_, fun n f hn => ?_⟩
  · exact (congrArg (fun v : State => (v.field k).lastIssue) hp :).trans (h.issues k)
  · exact (congrArg State.slotRest hp :).trans h.rest
  · exact (congrArg State.flightNext hp :).trans h.next
  · rw [hflights, h.old k hk]
  · rw [hflights, h.new n f hn]

/-- R85: a token on its way to a local destination. -/
theorem launch (s : State) (e : Nat) (f : FlightSt) {d slot pos : Nat} (hf : f.bound = .elem d slot pos) : Sent s (s.launch f) e [] [] [f] := by
  obtain ⟨fs, ps, heq, hissues⟩ := s.unreport_eq d
  have hlaunch : s.launch f = { s with fields := fs, parts := ps, flights := Table.put s.flights s.flightNext f, flightNext := s.flightNext + 1 } := by
    unfold State.launch
    simp only [hf, heq]
  rw [hlaunch]
  refine ⟨(refl s e).elem, fun _ _ => rfl, hissues, rfl, rfl, fun k hk => ?_, fun n g hn => ?_⟩
  · show Table.find? (Table.put _ _ _) k = _
    rw [Table.find?_put, if_neg (by omega)]
  · obtain ⟨rfl, rfl⟩ : n = 0 ∧ f = g := by
      cases n with
      | zero => exact ⟨rfl, Option.some.inj hn⟩
      | succ n => exact nomatch hn
    show Table.find? (Table.put _ _ _) _ = _
    rw [Table.find?_put, if_pos (by omega)]

/-- R91: a token that joins a queue of its element. -/
theorem queue (s : State) (e : Nat) (outs scales : List OutTok) : Sent s ((s.unreport e).modElem e fun y => y.queued outs scales) e outs scales [] := by
  obtain ⟨fs, ps, heq, hissues⟩ := s.unreport_eq e
  rw [heq]
  refine ⟨?_, fun d hd => ?_, hissues, rfl, rfl, fun _ _ => rfl, fun _ _ h => nomatch h⟩
  · rw [State.modElem_eq, State.elem_setElem, if_pos rfl]
    rfl
  · rw [State.modElem_eq, State.elem_setElem, if_neg hd.symm]
    rfl

end Sent

/-! ### Results to their destination codes (R46, R47) -/

section
variable (routes : Table Word) (e slot now ready : Nat)

/-- R46: of the results of a firing, those for the network or the mailbox. -/
def netSends (sends : List (Nat × Token)) : List (Nat × Token) := sends.filter fun d => decide (32 ≤ d.1) && d.1 != 63

/-- R46: of the results of a firing, those for a slot of its own element. -/
def localSends (sends : List (Nat × Token)) : List (Nat × Token) := sends.filter fun d => decide (d.1 < 32)

/-- R47: a code whose route is of type 3. -/
def onScale (c : Nat) : Bool := decide (c ≠ 48) && (Table.getD routes (c % 16) 0).extractLsb' 62 2 == 3

def outTok (c : Nat) (y : Token) : OutTok := { dst := c, token := y, readyAt := ready, slot := slot, issued := now }

/-- R47, R103: results that join the network output queue. -/
def outsOf (sends : List (Nat × Token)) : List OutTok :=
  ((netSends sends).filter fun d => !onScale routes d.1).map fun d => outTok slot now ready d.1 (if d.1 = 48 ∧ d.2.kind ≠ 2 then { d.2 with kind := 6 } else d.2)

/-- R47: results that join the scale queue. -/
def scalesOf (sends : List (Nat × Token)) : List OutTok :=
  ((netSends sends).filter fun d => onScale routes d.1).map fun d => outTok slot now ready d.1 { d.2 with kind := 3 }

/-- R46, R85: a result on its way to a slot of its own element. -/
def localFlight (d : Nat × Token) : FlightSt :=
  { src := e, bound := .elem e (d.1 % 16) (d.1 / 16), token := d.2, at_ := ready + 1, isLocal := true, issued := now }

theorem onScale_iff (c : Nat) : onScale routes c = true ↔ c ≠ 48 ∧ fld (Table.getD routes (c % 16) 0) 62 2 = 3 := by
  have hword : ∀ w : Word, (w.extractLsb' 62 2 == 3) = true ↔ fld w 62 2 = 3 := fun w => by
    rw [beq_iff_eq, fld_eq_extractLsb']
    exact BitVec.toNat_inj.symm
  rw [onScale, Bool.and_eq_true, decide_eq_true_eq, hword]

end

/-- R46, R47: one result is sent. -/
theorem send_sent (s : State) (e slot code : Nat) (t : Token) (ready : Nat) :
    Sent s (s.send e slot code t ready) e (outsOf (s.elem e).active.routes slot s.cycle ready [(code, t)])
      (scalesOf (s.elem e).active.routes slot s.cycle ready [(code, t)]) ((localSends [(code, t)]).map (localFlight e s.cycle ready)) := by
  unfold State.send outsOf scalesOf netSends localSends
  split
  · next h =>
    subst h
    exact .refl s e
  next h63 =>
  split
  · next hlt =>
    have h32 : ¬ 32 ≤ code := by omega
    simp only [List.filter_cons, List.filter_nil, h32, hlt, decide_true, decide_false, Bool.false_and, Bool.false_eq_true, if_true, if_false, List.map_nil, List.map_cons]
    exact .launch s e _ rfl
  next hlt =>
  have hnet : (decide (32 ≤ code) && code != 63) = true := by simp; omega
  cases hscale : onScale (s.elem e).active.routes code with
  | true =>
    rw [if_pos ((onScale_iff _ _).mp hscale)]
    simp only [List.filter_cons, List.filter_nil, hnet, hscale, hlt, decide_false, Bool.not_true, Bool.false_eq_true, if_true, if_false, List.map_nil, List.map_cons]
    have hq := Sent.queue s e [] [outTok slot s.cycle ready code { t with kind := 3 }]
    simp only [ElemSt.queued, List.append_nil] at hq
    exact hq
  | false =>
    rw [if_neg (mt (onScale_iff _ _).mpr (by simp [hscale]))]
    simp only [List.filter_cons, List.filter_nil, hnet, hscale, hlt, decide_false, Bool.not_false, Bool.false_eq_true, if_true, if_false, List.map_nil, List.map_cons]
    have hq := Sent.queue s e [outTok slot s.cycle ready code (if code = 48 ∧ t.kind ≠ 2 then { t with kind := 6 } else t)] []
    simp only [ElemSt.queued, List.append_nil] at hq
    exact hq

/-- R46, R47: the results of a firing are sent, in their order. -/
theorem foldl_send_sent (s : State) (e slot ready : Nat) (sends : List (Nat × Token)) :
    Sent s (sends.foldl (fun st d => st.send e slot d.1 d.2 ready) s) e (outsOf (s.elem e).active.routes slot s.cycle ready sends)
      (scalesOf (s.elem e).active.routes slot s.cycle ready sends) ((localSends sends).map (localFlight e s.cycle ready)) := by
  induction sends generalizing s with
  | nil => exact .refl s e
  | cons d sends ih =>
    have hfirst := send_sent s e slot d.1 d.2 ready
    have hroutes : ((s.send e slot d.1 d.2 ready).elem e).active.routes = (s.elem e).active.routes := by rw [hfirst.elem]; rfl
    have hcycle : (s.send e slot d.1 d.2 ready).cycle = s.cycle := (congrArg State.cycle hfirst.rest :)
    have hrest := ih (s.send e slot d.1 d.2 ready)
    rw [hroutes, hcycle] at hrest
    have hall := hfirst.trans hrest
    simp only [outsOf, scalesOf, netSends, localSends, ← List.map_append, ← List.filter_append, List.singleton_append] at hall ⊢
    exact hall

end Sys2Proof.Machine
end

section
/-! The end of a firing (R85, R90 to R92, R111, R112). -/

namespace Sys2Proof.Machine

/-! ### The matching store (R90) -/

theorem takenFrom_eraseToks (l taken : List StoreTok) : TakenFrom l taken (State.eraseToks l taken) := by
  unfold State.eraseToks
  induction taken generalizing l with
  | nil => exact ⟨.refl l, fun y => rfl⟩
  | cons t taken ih =>
    obtain ⟨hsub, hcount⟩ := ih (l.erase t)
    refine ⟨hsub.trans List.erase_sublist, fun y => (hcount y).trans ?_⟩
    rw [List.count_erase, List.count_cons, Nat.sub_sub, Nat.add_comm]

/-! ### FPF (R111, R112) -/

theorem testBit_dueFlags (l : List (Nat × Nat)) (now i : Nat) :
    (dueFlags l now).testBit i = l.any fun d => decide (d.1 ≤ now) && d.2.testBit i := by
  have hgen : ∀ m : Nat, (l.foldl (fun (m : Nat) d => if d.1 ≤ now then m ||| d.2 else m) m).testBit i =
      (m.testBit i || l.any fun d => decide (d.1 ≤ now) && d.2.testBit i) := by
    induction l with
    | nil => simp
    | cons d l ih =>
      intro m
      rw [List.foldl_cons, ih, List.any_cons]
      split
      · next h => rw [Nat.testBit_or, decide_eq_true h, Bool.true_and, Bool.or_assoc]
      · next h => rw [decide_eq_false h, Bool.false_and, Bool.false_or]
  exact (hgen 0).trans (by rw [Nat.zero_testBit, Bool.false_or])

/-- R112: the flags due before cycle `now`, put together with those due from then on, are the flags due. -/
theorem dueFlags_split (l : List (Nat × Nat)) {now c : Nat} (h : now ≤ c) :
    dueFlags l (now - 1) ||| dueFlags (l.filter fun d => decide (now ≤ d.1)) c = dueFlags l c := by
  refine Nat.eq_of_testBit_eq fun i => ?_
  rw [Nat.testBit_or, testBit_dueFlags, testBit_dueFlags, testBit_dueFlags, Bool.eq_iff_iff]
  simp only [Bool.or_eq_true, List.any_eq_true, List.mem_filter, Bool.and_eq_true, decide_eq_true_eq]
  constructor
  · rintro (⟨d, hd, hdue, hbit⟩ | ⟨d, ⟨hd, -⟩, hdue, hbit⟩)
    · exact ⟨d, hd, by omega, hbit⟩
    · exact ⟨d, hd, hdue, hbit⟩
  · rintro ⟨d, hd, hdue, hbit⟩
    by_cases hnow : now ≤ d.1
    · exact .inr ⟨d, ⟨hd, hnow⟩, hdue, hbit⟩
    · exact .inl ⟨d, hd, by omega, hbit⟩

theorem dueFlags_append (l l' : List (Nat × Nat)) (now : Nat) : dueFlags (l ++ l') now = dueFlags l now ||| dueFlags l' now := by
  refine Nat.eq_of_testBit_eq fun i => ?_
  rw [Nat.testBit_or, testBit_dueFlags, testBit_dueFlags, testBit_dueFlags, List.any_append]

/-- R112: a firing's flags stand in FPF from its completion on. -/
theorem fpfAt_raiseFlags (x : ElemSt) {now c : Nat} (done : Nat) (float : Bool) (flags : Nat) (h : now ≤ c) :
    (x.raiseFlags now done float flags).fpfAt c = x.fpfAt c ||| (if done ≤ c then flags else 0) := by
  have hown : dueFlags (if flags = 0 then [] else [(done, flags)]) c = if done ≤ c then flags else 0 := by
    split
    · next hzero => rw [hzero, ite_self]; rfl
    · simp [dueFlags]
  show x.fpf ||| dueFlags x.fpfDue (now - 1) ||| dueFlags (_ ++ _) c = x.fpf ||| dueFlags x.fpfDue c ||| _
  rw [dueFlags_append, hown, ← Nat.or_assoc, Nat.or_assoc x.fpf, dueFlags_split x.fpfDue h]

/-! ### Colours (R89) -/

namespace State

/-- R89: leaving a frame changes partitions alone. -/
theorem leaveFrame_frame (s : State) (g : Firing) (ps : Table PartSt) : { s.leaveFrame g with parts := ps } = { s with parts := ps } := by
  unfold leaveFrame
  dsimp only
  split
  · split <;> rfl
  · rfl

/-- R89: settling colours changes partitions alone. -/
theorem settleColours_frame (s : State) (p : Nat) (cs : List Nat) (ps : Table PartSt) : { s.settleColours p cs with parts := ps } = { s with parts := ps } := by
  refine foldl_keeps (g := fun st => { st with parts := ps }) (fun st c => ?_) cs s
  unfold settleColour
  dsimp only
  split_ifs <;> rfl

end State

/-! ### The firing itself -/

/-- R90, R92, R111: the element of a firing that has ended, before its results leave. -/
def ElemSt.fired (x : ElemSt) (g : Firing) (now : Nat) (taken : List StoreTok) (lat hold flags : Nat) : ElemSt :=
  { (x.raiseFlags now (now + lat) (isFloatFiring g.op g.f) flags) with
    store := State.eraseToks x.store taken, doneAt := max x.doneAt (now + lat),
    vcFree := if State.onMatrixPort g.op then x.vcFree else now + hold, mxFree := if State.onMatrixPort g.op then now + hold else x.mxFree }

/-- R91: the state of a firing that has ended, before its results leave: its element, and its field's last issue. -/
def State.firedAt (s : State) (g : Firing) (taken : List StoreTok) (lat hold flags : Nat) : State :=
  let s1 := s.modElem g.e fun x => x.fired g s.cycle taken lat hold flags
  match s1.fieldAt g.e with
  | some k => s1.modField k fun f => { f with lastIssue := s.cycle }
  | none => s1

section
variable (s : State) (g : Firing) (taken : List StoreTok) (lat hold flags : Nat)

theorem firedAt_eq : ∃ fs, s.firedAt g taken lat hold flags = { s.setElem g.e ((s.elem g.e).fired g s.cycle taken lat hold flags) with fields := fs } ∧
    ∀ k, s.fieldAt g.e = some k → (Table.getD fs k {}).lastIssue = s.cycle := by
  have hat : (s.modElem g.e fun x => x.fired g s.cycle taken lat hold flags).fieldAt g.e = s.fieldAt g.e := by
    simp only [State.fieldAt, State.modElem_eq, State.elem_setElem]
    rfl
  unfold State.firedAt
  dsimp only
  rw [hat]
  cases s.fieldAt g.e with
  | none => exact ⟨_, rfl, fun k hk => nomatch hk⟩
  | some k =>
    refine ⟨_, rfl, fun j hj => ?_⟩
    obtain rfl := Option.some.inj hj
    rw [Table.getD_put, if_pos rfl]

/-- R85, R89 to R92: the results of a firing leave once its tokens are taken; colours change with the partitions. -/
theorem endFiring_sent (sends : List (Nat × Token)) :
    Sent (s.firedAt g taken lat hold flags) (s.endFiring g taken sends lat hold flags) g.e
      (outsOf (s.elem g.e).active.routes g.slot s.cycle (s.cycle + lat) sends) (scalesOf (s.elem g.e).active.routes g.slot s.cycle (s.cycle + lat) sends)
      ((localSends sends).map (localFlight g.e s.cycle (s.cycle + lat))) := by
  have hsent := foldl_send_sent (s.firedAt g taken lat hold flags) g.e g.slot (s.cycle + lat) sends
  obtain ⟨fs, heq, -⟩ := firedAt_eq s g taken lat hold flags
  have hcycle : (s.firedAt g taken lat hold flags).cycle = s.cycle := by rw [heq]; rfl
  have hroutes : ((s.firedAt g taken lat hold flags).elem g.e).active.routes = (s.elem g.e).active.routes := by
    rw [heq]
    show ((s.setElem _ _).elem _).active.routes = _
    rw [State.elem_setElem, if_pos rfl]
    rfl
  rw [hcycle, hroutes] at hsent
  refine hsent.of_parts ?_
  refine (State.settleColours_frame _ _ _ _).trans ?_
  split
  · exact State.leaveFrame_frame _ _ _
  · rfl

end

end Sys2Proof.Machine
end

section
/-! A fault of a firing (R99, R340, R341, R345, R346): the operands held, and the record made. -/

namespace Sys2Proof.Machine

/-! ### The operands that a fault holds (R345) -/

/-- R345: a matching store with some of its tokens marked FAULTED, each once. -/
def heldStore (held l : List StoreTok) : List StoreTok := held.foldl (fun l t => l.replace t { t with faulted := true }) l

/-- R345: a token of the store is as it was, or it is one of those held and marked. -/
def HeldAs (held : List StoreTok) (y z : StoreTok) : Prop := z = y ∨ (y ∈ held ∧ z = { y with faulted := true })

theorem heldAs_replace (t : StoreTok) (l : List StoreTok) : List.Forall₂ (HeldAs [t]) l (l.replace t { t with faulted := true }) := by
  induction l with
  | nil => exact .nil
  | cons y l ih =>
    rw [List.replace_cons]
    split
    · next h =>
      obtain rfl := eq_of_beq h
      exact .cons (.inr ⟨List.mem_singleton_self _, rfl⟩) (List.forall₂_same.mpr fun y _ => .inl rfl)
    · exact .cons (.inl rfl) ih

/-- A mark is made once: marking a token again changes nothing. -/
theorem HeldAs.trans {t : StoreTok} {held : List StoreTok} {x y z : StoreTok} (h : HeldAs [t] x y) (h' : HeldAs held y z) : HeldAs (t :: held) x z := by
  obtain rfl | ⟨hx, rfl⟩ := h
  · exact h'.imp_right fun ⟨hmem, hz⟩ => ⟨List.mem_cons_of_mem _ hmem, hz⟩
  · have hmem : x ∈ t :: held := List.mem_cons.mpr (.inl (List.mem_singleton.mp hx))
    obtain rfl | ⟨-, rfl⟩ := h'
    · exact .inr ⟨hmem, rfl⟩
    · exact .inr ⟨hmem, rfl⟩

theorem forall₂_heldAs_trans {t : StoreTok} {held l m n : List StoreTok} (h : List.Forall₂ (HeldAs [t]) l m) (h' : List.Forall₂ (HeldAs held) m n) :
    List.Forall₂ (HeldAs (t :: held)) l n := by
  induction h generalizing n with
  | nil => obtain rfl := List.forall₂_nil_left_iff.mp h'; exact .nil
  | cons hxy _ ih =>
    obtain ⟨z, n', hyz, hrest, rfl⟩ := List.forall₂_cons_left_iff.mp h'
    exact .cons (hxy.trans hyz) (ih hrest)

theorem heldAs_heldStore (held l : List StoreTok) : List.Forall₂ (HeldAs held) l (heldStore held l) := by
  unfold heldStore
  induction held generalizing l with
  | nil => exact List.forall₂_same.mpr fun y _ => .inl rfl
  | cons t held ih => exact forall₂_heldAs_trans (heldAs_replace t l) (ih _)

theorem count_replace_marked (t : StoreTok) (l : List StoreTok) {y : StoreTok} (hy : y.faulted = false) :
    (l.replace t { t with faulted := true }).count y = (l.erase t).count y := by
  have hmarked : ({ t with faulted := true } : StoreTok) ≠ y := by
    rintro rfl
    exact nomatch hy
  induction l with
  | nil => rfl
  | cons x l ih =>
    rw [List.replace_cons]
    split
    · next h =>
      obtain rfl := eq_of_beq h
      rw [List.count_cons_of_ne hmarked, List.erase_cons_head]
    · next h =>
      have hne : t ≠ x := fun heq => by simp [heq] at h
      rw [List.count_cons, ih, List.erase_cons_tail (by simpa using hne.symm), List.count_cons]

/-- R345: each token held has lost its unmarked place once. -/
theorem count_heldStore (held l : List StoreTok) {y : StoreTok} (hy : y.faulted = false) : (heldStore held l).count y = l.count y - held.count y := by
  unfold heldStore
  induction held generalizing l with
  | nil => rfl
  | cons t held ih => rw [List.foldl_cons, ih, count_replace_marked t l hy, List.count_erase, Nat.sub_sub, List.count_cons, Nat.add_comm]

/-! ### The record (R340, R341) -/

/-- R340: RETRY set in a record whose FREC0 lies below it. -/
theorem flagRETRY_f0 {r : FaultRec} {n : Nat} (hf0 : r.f0 = wd n) (hn : n < 2 ^ 23) : (r.flag flagRETRY).f0 = wd (n + 0x800000) := by
  have hnat : (wd n).toNat = n := by
    rw [wd, BitVec.toNat_ofNat, Nat.mod_eq_of_lt (by omega)]
  have hbit : bits n 23 1 = 0 := by
    unfold bits
    omega
  show setFld r.f0 23 1 1 = _
  rw [hf0, setFld, hnat, hbit]
  exact congrArg wd (by omega)

namespace State

/-- R341, R346: the record of a fault of a firing. -/
def firingRec (s : State) (g : Firing) (k code pos : Nat) (op : Word) : FaultRec :=
  let r := s.elementRec g.e g.slot pos ((s.faultTarget (s.field k)).getD 0) code g.tag op
  if g.toks.any fun t => t.retry then r.flag flagRETRY else r

/-- R345: the element of a fault, its operands held. -/
def heldAt (s : State) (g : Firing) : State := s.modElem g.e fun x => { x with store := heldStore g.toks x.store }

variable (s : State) (g : Firing) (code pos : Nat) (op : Word)

theorem faultOp_eq : s.faultOp g code pos op = .next (s.faultHalt g.e g.slot pos code g.tag op g.toks) := rfl

theorem elem_heldAt (d : Nat) : (s.heldAt g).elem d = if g.e = d then { s.elem g.e with store := heldStore g.toks (s.elem g.e).store } else s.elem d := by
  rw [heldAt, modElem_eq, elem_setElem]

theorem fieldAt_heldAt (e : Nat) : (s.heldAt g).fieldAt e = s.fieldAt e := by
  unfold fieldAt
  rw [elem_heldAt]
  split
  · next h => rw [← h]
  · rfl

/-- R345: the first fault of a field. -/
theorem faultHalt_first {k : Nat} (hk : s.fieldAt g.e = some k) (hnone : (s.field k).fault = none) :
    s.faultHalt g.e g.slot pos code g.tag op g.toks =
      (s.heldAt g).setField k { s.field k with fault := some (code, (s.heldAt g).firingRec g k code pos op), faultAt := s.cycle, posted := false } := by
  have hat : (s.heldAt g).fieldAt g.e = some k := (s.fieldAt_heldAt g g.e).trans hk
  have hfield : ((s.heldAt g).field k).fault.isSome = false := by
    rw [show (s.heldAt g).field k = s.field k from rfl, hnone]; rfl
  unfold faultHalt
  dsimp only
  rw [show (s.modElem g.e fun x => { x with store := g.toks.foldl (fun l t => l.replace t { t with faulted := true }) x.store }) = s.heldAt g from rfl, hat]
  dsimp only
  rw [hfield]
  rfl

/-- R341: what the record of a firing's fault says. -/
theorem firingRec_says {s : State} {g : Firing} {k code pos : Nat} {op : Word} (hcode : code < 256) : let r := s.firingRec g k code pos op
    r.f0 = BitVec.ofNat 64 (code + 0x30100 + if g.toks.any (·.retry) then 0x800000 else 0) ∧ r.f2 = g.tag ∧ r.f5 = op ∧ r.f6 = s.when ∧
      r.f3 = ((s.elem g.e).active.slotWord g.slot).setWidth 64 ∧ r.f4 = ((s.elem g.e).active.sideWord g.slot).setWidth 64 := by
  have hf0 : (s.elementRec g.e g.slot pos ((s.faultTarget (s.field k)).getD 0) code g.tag op).f0 = wd (code + 0x30100) := by
    show wd (2 ^ 16 + 2 ^ 17 + 256 + code) = _
    exact congrArg wd (by omega)
  unfold firingRec
  dsimp only
  split
  · exact ⟨flagRETRY_f0 hf0 (by omega), rfl, rfl, rfl, rfl, rfl⟩
  · exact ⟨hf0, rfl, rfl, rfl, rfl, rfl⟩

/-- R346: a further fault of a field changes its record, in fields and threads, and no general register. -/
theorem rewriteFault_frame (k : Nat) (old new : FaultRec) : (s.rewriteFault k code old new).elem = s.elem ∧ s.sameRegs (s.rewriteFault k code old new) := by
  unfold rewriteFault
  dsimp only
  split
  · exact ⟨rfl, fun _ _ => rfl⟩
  · exact ⟨rfl, sameRegs_modThread (s := s.modField k _) rfl⟩

theorem addMulti_frame (k : Nat) (r : FaultRec) : (s.addMulti k code r).elem = s.elem ∧ s.sameRegs (s.addMulti k code r) := by
  unfold addMulti
  split
  · exact ⟨rfl, fun _ _ => rfl⟩
  · split
    · exact s.rewriteFault_frame _ _ _ _
    · exact s.rewriteFault_frame _ _ _ _

/-- R345, R346: a fault marks the operands it holds, and no general register. -/
theorem faultHalt_frame : (s.faultHalt g.e g.slot pos code g.tag op g.toks).elem = (s.heldAt g).elem ∧
    s.sameRegs (s.faultHalt g.e g.slot pos code g.tag op g.toks) := by
  unfold faultHalt
  dsimp only
  rw [show (s.modElem g.e fun x => { x with store := g.toks.foldl (fun l t => l.replace t { t with faulted := true }) x.store }) = s.heldAt g from rfl]
  split
  · exact ⟨rfl, fun _ _ => rfl⟩
  · split
    · exact addMulti_frame (s.heldAt g) _ _ _
    · exact ⟨rfl, fun _ _ => rfl⟩

end State

end Sys2Proof.Machine
end

section
/-! The delivery of a field's fault (R341, R342, R345). -/

namespace Sys2Proof.Machine

theorem toNat_setFld (w : Word) {lo n v : Nat} (h : w.toNat - bits w.toNat lo n * 2 ^ lo + v % 2 ^ n * 2 ^ lo < 2 ^ 64) :
    (setFld w lo n v).toNat = w.toNat - bits w.toNat lo n * 2 ^ lo + v % 2 ^ n * 2 ^ lo := by
  rw [setFld, BitVec.toNat_ofNat, Nat.mod_eq_of_lt h]

/-- R341: bits [21:17] of FREC1 with a strip and a thread. -/
theorem target_setFld (w : Word) (strip : Nat) {thread : Nat} (hthread : thread < 4) :
    (setFld (setFld w 19 3 strip) 17 2 thread).extractLsb' 17 5 = BitVec.ofNat 5 (strip * 4 + thread) := by
  have hlt := w.isLt
  have hinner := toNat_setFld w (lo := 19) (n := 3) (v := strip) (by unfold bits; omega)
  have houter := toNat_setFld (setFld w 19 3 strip) (lo := 17) (n := 2) (v := thread) (by rw [hinner]; unfold bits; omega)
  refine BitVec.eq_of_toNat_eq ?_
  rw [BitVec.extractLsb'_toNat, Nat.shiftRight_eq_div_pow, BitVec.toNat_ofNat]
  unfold bits at hinner houter
  omega

/-- R341: a record with its target differs in FREC1's strip and thread. -/
theorem withTarget_says (r : FaultRec) (k : Nat) : { State.withTarget r k with f1 := r.f1 } = r ∧
    (State.withTarget r k).f1.extractLsb' 17 5 = BitVec.ofNat 5 (stripOfCore (coreOf k) * 4 + k % 4) := by
  rw [State.withTarget]
  exact ⟨rfl, target_setFld r.f1 _ (Nat.mod_lt _ (by decide))⟩

/-- R343: KIND and CODE of a notice's first word. -/
theorem unitNoticeWord_kind (c code tenant x y layer thread : Nat) :
    (wd (State.unitNoticeWord c 3 code tenant x y layer thread)).extractLsb' 0 16 = BitVec.ofNat 16 (3 + code * 256) := by
  refine BitVec.eq_of_toNat_eq ?_
  rw [BitVec.extractLsb'_toNat, Nat.shiftRight_zero, wd, BitVec.toNat_ofNat, BitVec.toNat_ofNat]
  unfold State.unitNoticeWord
  generalize dieOfCore c = die, stripOfCore c = strip
  omega

namespace State

variable {s : State} {k code : Nat} {r : FaultRec}

/-- R345: a fault whose field has a target is queued to it. -/
theorem postFault_target {h : Nat} (hfault : (s.field k).fault = some (code, r)) (hposted : (s.field k).posted = false)
    (ht : s.faultTarget (s.field k) = some h) :
    s.postFault k = (s.setField k { s.field k with fault := some (code, withTarget r h), posted := true }).postAsync h code (withTarget r h) true := by
  unfold postFault
  simp only [hfault, hposted, ht, Bool.false_eq_true, if_false]

/-- R345: a fault whose field has no target gives notice KIND 3. -/
theorem postFault_notice (hfault : (s.field k).fault = some (code, r)) (hposted : (s.field k).posted = false)
    (ht : s.faultTarget (s.field k) = none) :
    s.postFault k = (s.setField k { s.field k with posted := true }).notice (s.field k).homeCore 3 code (s.field k).tenant (fld r.f1 33 5) (fld r.f1 28 5) 0 0
      r.f0 (s.field k).word := by
  unfold postFault
  simp only [hfault, hposted, ht, Bool.false_eq_true, if_false]

/-- R345: a fault that has been delivered is not delivered again. -/
theorem postFault_posted (hposted : (s.field k).posted = true) : s.postFault k = s := by
  unfold postFault
  dsimp only
  split
  · rfl
  · rw [if_pos hposted]

theorem postFault_none (hfault : (s.field k).fault = none) : s.postFault k = s := by
  unfold postFault
  simp only [hfault]

/-- R345: what delivering a fault does to the fields. -/
theorem field_postFault_ne {j : Nat} (hj : k ≠ j) : (s.postFault k).field j = s.field j := by
  cases hfault : (s.field k).fault with
  | none => rw [postFault_none hfault]
  | some f =>
    obtain ⟨code, r⟩ := f
    cases hposted : (s.field k).posted with
    | true => rw [postFault_posted hposted]
    | false =>
      cases ht : s.faultTarget (s.field k) with
      | some h =>
        rw [postFault_target hfault hposted ht]
        exact (field_setField _ _ _ _).trans (if_neg hj)
      | none =>
        rw [postFault_notice hfault hposted ht]
        exact (field_setField _ _ _ _).trans (if_neg hj)

theorem field_postFault_self (hfault : (s.field k).fault ≠ none) : ((s.postFault k).field k).posted = true ∧ ((s.postFault k).field k).fault ≠ none := by
  obtain ⟨⟨code, r⟩, hf⟩ := Option.ne_none_iff_exists'.mp hfault
  cases hposted : (s.field k).posted with
  | true => rw [postFault_posted hposted]; exact ⟨hposted, hfault⟩
  | false =>
    cases ht : s.faultTarget (s.field k) with
    | some h =>
      have hfield : (s.postFault k).field k = { s.field k with fault := some (code, withTarget r h), posted := true } := by
        rw [postFault_target hf hposted ht]
        exact (field_setField _ _ _ _).trans (if_pos rfl)
      rw [hfield]
      exact ⟨rfl, nofun⟩
    | none =>
      have hfield : (s.postFault k).field k = { s.field k with posted := true } := by
        rw [postFault_notice hf hposted ht]
        exact (field_setField _ _ _ _).trans (if_pos rfl)
      rw [hfield]
      exact ⟨rfl, hfault⟩

/-- R345: of a list of fields whose faults are delivered, each that has a fault has been told of it. -/
theorem posted_foldl_postFault (l : List (Nat × FieldSt)) (hfault : (s.field k).fault ≠ none) (h : (∃ f, (k, f) ∈ l) ∨ (s.field k).posted = true) :
    ((l.foldl (fun st x => st.postFault x.1) s).field k).posted = true := by
  induction l generalizing s with
  | nil => exact h.resolve_left fun ⟨f, hf⟩ => nomatch hf
  | cons x l ih =>
    rw [List.foldl_cons]
    by_cases hx : x.1 = k
    · obtain ⟨hposted, hstays⟩ := field_postFault_self (s := s) (k := x.1) (by rwa [hx])
      rw [hx] at hposted hstays ⊢
      exact ih hstays (.inr hposted)
    · have hsame := field_postFault_ne (s := s) hx
      refine ih (by rwa [hsame]) ?_
      rw [hsame]
      refine h.imp_left fun ⟨f, hf⟩ => ⟨f, ?_⟩
      obtain rfl | hmem := List.mem_cons.mp hf
      · exact absurd rfl hx
      · exact hmem

/-- R345: a field with a fault stands in the table of fields. -/
theorem mem_fields_of_fault (hfault : (s.field k).fault ≠ none) : (k, s.field k) ∈ s.fields := by
  unfold field at hfault ⊢
  unfold Table.getD at hfault ⊢
  cases hfind : Table.find? s.fields k with
  | none => rw [hfind] at hfault; exact absurd rfl hfault
  | some f => exact Table.mem_of_find? hfind

/-- R345: the fault of a field that has settled is delivered. -/
theorem posted_postFaults (hfault : (s.field k).fault ≠ none) (hsettled : s.faultSettled (s.field k) = true) : (s.postFaults.field k).posted = true := by
  refine posted_foldl_postFault _ hfault ?_
  cases hposted : (s.field k).posted with
  | true => exact .inr rfl
  | false =>
    refine .inl ⟨s.field k, List.mem_filter.mpr ⟨mem_fields_of_fault hfault, ?_⟩⟩
    simp only [Option.isSome_iff_ne_none.mpr hfault, hposted, hsettled, Bool.not_false, Bool.and_self]

/-- R345: a field has settled 384 cycles after its fault at the latest. -/
theorem faultSettled_of_late {f : FieldSt} (h : f.faultAt + 384 ≤ s.cycle) : s.faultSettled f = true := by
  rw [faultSettled, decide_eq_true h, Bool.true_or]

end State

end Sys2Proof.Machine
end

section
/-! O32: how a firing ends, and what a fault of one holds, records and delivers (R85, R91, R92, R99, R345). -/

namespace Sys2Proof.Machine

/-! ### The end of a firing -/

section
variable (s : State) (g : Firing) (taken : List StoreTok) (sends : List (Nat × Token)) (lat hold flags : Nat)

theorem firedAt_elem (d : Nat) : (s.firedAt g taken lat hold flags).elem d =
    if g.e = d then (s.elem g.e).fired g s.cycle taken lat hold flags else s.elem d := by
  obtain ⟨fs, heq, -⟩ := firedAt_eq s g taken lat hold flags
  rw [heq]
  exact State.elem_setElem _ _ _ _

/-- R85, R90, R91: the element of a firing that has ended. -/
theorem endFiring_elem : (s.endFiring g taken sends lat hold flags).elem g.e =
    ((s.elem g.e).fired g s.cycle taken lat hold flags).queued (outsOf (s.elem g.e).active.routes g.slot s.cycle (s.cycle + lat) sends)
      (scalesOf (s.elem g.e).active.routes g.slot s.cycle (s.cycle + lat) sends) := by
  rw [(endFiring_sent s g taken lat hold flags sends).elem, firedAt_elem, if_pos rfl]

/-- R78, R90, R91, R111: what a firing leaves of its element. -/
theorem queued_fired_frame (x : ElemSt) (now : Nat) (outs scales : List OutTok) :
    { (x.fired g now taken lat hold flags).queued outs scales with
      store := x.store, fpf := x.fpf, fpfDue := x.fpfDue, fpDone := x.fpDone, doneAt := x.doneAt, vcFree := x.vcFree, mxFree := x.mxFree,
      outq := x.outq, scaleq := x.scaleq } = x := by
  rw [ElemSt.queued, ElemSt.fired, ElemSt.raiseFlags]

/-- R90: what a firing leaves as it was. -/
theorem endFiring_frame : SlotFrame s (s.endFiring g taken sends lat hold flags) g.e := by
  have hsent := endFiring_sent s g taken lat hold flags sends
  obtain ⟨fs, heq, -⟩ := firedAt_eq s g taken lat hold flags
  refine ⟨fun d hd => ?_, ?_, State.eq_of_slotRest (hsent.rest.trans ?_)⟩
  · rw [hsent.others d hd, firedAt_elem, if_neg hd.symm]
  · rw [endFiring_elem]
    rfl
  · rw [heq]
    rfl

/-- R91: the field of a firing has issued. -/
theorem endFiring_lastIssue {k : Nat} (hk : s.fieldAt g.e = some k) : ((s.endFiring g taken sends lat hold flags).field k).lastIssue = s.cycle := by
  obtain ⟨fs, heq, hissue⟩ := firedAt_eq s g taken lat hold flags
  rw [(endFiring_sent s g taken lat hold flags sends).issues k, heq]
  exact hissue k hk

/-- R85: the tokens for local destinations are on their way, and those that were before still are. -/
theorem endFiring_flights : let t := s.endFiring g taken sends lat hold flags
    t.flightNext = s.flightNext + (localSends sends).length ∧ (∀ k, k < s.flightNext → Table.find? t.flights k = Table.find? s.flights k) ∧
      ∀ n d, (localSends sends)[n]? = some d → Table.find? t.flights (s.flightNext + n) = some (localFlight g.e s.cycle (s.cycle + lat) d) := by
  have hsent := endFiring_sent s g taken lat hold flags sends
  obtain ⟨fs, heq, -⟩ := firedAt_eq s g taken lat hold flags
  have hnext : (s.firedAt g taken lat hold flags).flightNext = s.flightNext := by rw [heq]; rfl
  have hflights : (s.firedAt g taken lat hold flags).flights = s.flights := by rw [heq]; rfl
  obtain ⟨-, -, -, -, hn, hold, hnew⟩ := hsent
  rw [hnext, List.length_map] at hn
  rw [hnext, hflights] at hold
  rw [hnext] at hnew
  exact ⟨hn, hold, fun n d hd => hnew n _ (by rw [List.getElem?_map, hd, Option.map_some])⟩

/-- R78: the port that a firing holds. -/
theorem endFiring_port : let t := s.endFiring g taken sends lat hold flags
    if 0x70 ≤ g.op ∧ g.op ≤ 0x74 then (t.elem g.e).mxFree = s.cycle + hold ∧ (t.elem g.e).vcFree = (s.elem g.e).vcFree
    else (t.elem g.e).vcFree = s.cycle + hold ∧ (t.elem g.e).mxFree = (s.elem g.e).mxFree := by
  have hport : State.onMatrixPort g.op = true ↔ 0x70 ≤ g.op ∧ g.op ≤ 0x74 := by simp [State.onMatrixPort]
  dsimp only
  rw [endFiring_elem]
  split
  · next h => exact ⟨if_pos (hport.mpr h), if_pos (hport.mpr h)⟩
  · next h => exact ⟨if_neg (mt hport.mp h), if_neg (mt hport.mp h)⟩

end

/-! ### The delivery of a fault -/

namespace State

variable {s : State} {k code : Nat} {r : FaultRec}

/-- R342, R345: the trap of a fault, queued to its target. -/
theorem postFault_queues {h : Nat} (hfault : (s.field k).fault = some (code, r)) (hposted : (s.field k).posted = false)
    (ht : s.faultTarget (s.field k) = some h) : let t := s.postFault k
    s.sameBytes t ∧ s.otherThreads t h ∧ t.thread h = let x := s.thread h; let p : PendTrap := { code := code, frec := withTarget r h, fabric := true }
      if 4 ≤ x.pend.length + x.late.length then { x with lost := true }
      else if s.recordKept h then { x with late := x.late ++ [p] } else { x with pend := x.pend ++ [p] } := by
  dsimp only
  rw [postFault_target hfault hposted ht]
  refine ⟨fun _ => rfl, fun j hj => (thread_setThread _ _ _ _).trans (if_neg hj.symm), (thread_setThread _ _ _ _).trans (if_pos rfl)⟩

/-- R343, R345: notice KIND 3 of a fault. -/
theorem postFault_notifies (hfault : (s.field k).fault = some (code, r)) (hposted : (s.field k).posted = false)
    (ht : s.faultTarget (s.field k) = none) : let t := s.postFault k
    t.threads = s.threads ∧ ∃ n, t.notices = s.notices ++ [n] ∧ n.core = (s.field k).homeCore ∧
      n.word0.extractLsb' 0 16 = BitVec.ofNat 16 (3 + code * 256) ∧ n.detail0 = r.f0 ∧ n.detail1 = (s.field k).word ∧
      s.sameBytesBut t (localBase (s.field k).homeCore + 0x7F000) 0x1000 := by
  dsimp only
  rw [postFault_notice hfault hposted ht]
  refine ⟨rfl, _, rfl, rfl, unitNoticeWord_kind _ _ _ _ _ _ _, rfl, rfl, fun b hb => ?_⟩
  rw [notice_mem]
  exact get_noticeMem_outside _ _ _ _ _ hb

end State

/-- Settles O32: the end of a firing, its fault, the fault's delivery, and when that is. -/
theorem firingsEndOrHoldTheirOperands : Obligations.FiringsEndOrHoldTheirOperands := by
  refine ⟨fun s g taken sends lat hold flags => ?_, fun s g code pos op hcode => ?_, fun s k code r _ hfault hposted => ?_, fun s k => ?_⟩
  · obtain ⟨hnext, hearlier, hnew⟩ := endFiring_flights s g taken sends lat hold flags
    have helem := endFiring_elem s g taken sends lat hold flags
    dsimp only
    refine ⟨endFiring_frame .., ?_, fun c hc => ?_, ?_, ?_, endFiring_port .., ?_, ?_, ?_, hnext, hearlier, hnew, fun k hk => endFiring_lastIssue _ _ _ _ _ _ _ hk⟩
    · rw [helem]
      exact takenFrom_eraseToks _ _
    · rw [helem]
      exact fpfAt_raiseFlags (s.elem g.e) _ (isFloatFiring g.op g.f) flags hc
    · rw [helem]
      rfl
    · rw [helem]
      rfl
    · rw [helem]
      rfl
    · rw [helem]
      rfl
    · rw [helem]
      exact queued_fired_frame g taken lat hold flags _ _ _ _
  · obtain ⟨helem, hregs⟩ := s.faultHalt_frame g code pos op
    have hat := congrFun helem g.e
    rw [State.elem_heldAt, if_pos rfl] at hat
    refine ⟨_, s.faultOp_eq g code pos op, fun d hd => ?_, hregs, ?_, fun y hy => ?_, ?_, fun k hk hnone => ?_⟩
    · rw [congrFun helem d, State.elem_heldAt, if_neg hd.symm]
    · rw [hat]
      exact heldAs_heldStore _ _
    · rw [hat]
      exact count_heldStore _ _ hy
    · rw [hat]
    · obtain ⟨hf0, hf2, hf5, hf6, hf3, hf4⟩ := State.firingRec_says (s := s.heldAt g) (g := g) (k := k) (pos := pos) (op := op) hcode
      rw [State.elem_heldAt, if_pos rfl] at hf3 hf4
      rw [s.faultHalt_first g code pos op hk hnone]
      exact ⟨_, (State.field_setField _ _ _ _).trans (if_pos rfl), hf0, hf2, hf5, hf6, hf3, hf4, rfl, rfl, rfl⟩
  · refine ⟨(State.field_postFault_self (by rw [hfault]; nofun)).1, fun h ht => ?_, State.postFault_notifies hfault hposted⟩
    obtain ⟨hbytes, hothers, hthread⟩ := State.postFault_queues hfault hposted ht
    obtain ⟨hsame, htarget⟩ := withTarget_says r h
    exact ⟨hbytes, hothers, _, hsame, htarget, hthread⟩
  · exact ⟨fun ⟨_, hlate⟩ => State.faultSettled_of_late hlate, State.posted_postFaults⟩

end Sys2Proof.Machine
end

section
/-! Values of the ALU group in plain arithmetic (R54, R57, R58). -/

namespace Sys2Proof.Machine

/-- R54: an instruction whose meaning is to end with a register result writes it. -/
theorem writes_of_finish {i : Instr} {s : State} {d : Reg} {v w : Word} (h : exec i s = s.finish d v) (hv : v = w) : Writes i s d w := by
  obtain ⟨t, ht, hd, hpc, hframe⟩ := s.finish_next d v
  exact ⟨t, h.trans ht, hv ▸ hd, hpc, hframe⟩

/-! ### Words and the numbers that they stand for -/

/-- A word is the number that it holds below 2^64. -/
theorem word_eq_ofNat {w : Word} {n : Nat} (h : w.toNat = n) : w = BitVec.ofNat 64 n := by
  rw [← h, BitVec.ofNat_toNat, BitVec.setWidth_eq]

theorem ofInt_natCast_toNat (x : Word) : BitVec.ofInt 64 x.toNat = x := by
  rw [BitVec.ofInt_natCast, ← word_eq_ofNat rfl]

/-! ### Three operands (R54) -/

theorem valueAdd_eq (x y : Word) : valueAdd x y = BitVec.ofNat 64 (x.toNat + y.toNat) := by
  rw [BitVec.ofNat_add, ← word_eq_ofNat rfl, ← word_eq_ofNat rfl]
  rfl

theorem valueSub_eq (x y : Word) : valueSub x y = BitVec.ofInt 64 (x.toNat - y.toNat) := by
  rw [Int.sub_eq_add_neg, BitVec.ofInt_add, BitVec.ofInt_neg, ofInt_natCast_toNat, ofInt_natCast_toNat, ← BitVec.sub_eq_add_neg]
  rfl

/-- The bits of `x` outside `y` and those inside it make up `x`. -/
theorem toNat_and_not_add_and (x y : Word) : (x &&& ~~~y).toNat + (x &&& y).toNat = x.toNat := by
  have hdisjoint : (x &&& ~~~y) &&& (x &&& y) = 0 := by
    ext i
    cases hy : y[i] <;> simp [hy]
  have hunion : (x &&& ~~~y) ||| (x &&& y) = x := by
    ext i
    cases hy : y[i] <;> simp [hy]
  rw [← BitVec.toNat_add_of_and_eq_zero hdisjoint, BitVec.add_eq_or_of_and_eq_zero _ _ hdisjoint, hunion]

theorem valueAndn_eq (x y : Word) : valueAndn x y = BitVec.ofNat 64 (x.toNat - (x.toNat &&& y.toNat)) := by
  have hsum := toNat_and_not_add_and x y
  rw [BitVec.toNat_and (x := x) (y := y)] at hsum
  exact word_eq_ofNat (Nat.eq_sub_of_add_eq hsum)

theorem shiftLeft_eq_ofNat (x : Word) (n : Nat) : x <<< n = BitVec.ofNat 64 (x.toNat * 2 ^ n) := by
  apply BitVec.eq_of_toNat_eq
  rw [BitVec.toNat_shiftLeft, BitVec.toNat_ofNat, Nat.shiftLeft_eq]

theorem ushiftRight_eq_ofNat (x : Word) (n : Nat) : x >>> n = BitVec.ofNat 64 (x.toNat / 2 ^ n) :=
  word_eq_ofNat (by rw [BitVec.toNat_ushiftRight, Nat.shiftRight_eq_div_pow])

theorem sshiftRight_eq_ofInt (x : Word) (n : Nat) : x.sshiftRight n = BitVec.ofInt 64 (x.toInt / 2 ^ n) := by
  rw [BitVec.sshiftRight, Int.shiftRight_eq_div_pow]
  rfl

theorem ofBool_slt (x y : Word) : ofBool (x.slt y) = if x.toInt < y.toInt then 1 else 0 := by
  simp [ofBool, BitVec.slt]

theorem ofBool_ult (x y : Word) : ofBool (x.ult y) = if x.toNat < y.toNat then 1 else 0 := by
  simp [ofBool, BitVec.ult]

theorem valueMin_eq (x y : Word) : valueMin x y = BitVec.ofInt 64 (min x.toInt y.toInt) := by
  simp only [valueMin, BitVec.slt, decide_eq_true_eq]
  split
  · rw [min_eq_right (by omega), BitVec.ofInt_toInt]
  · rw [min_eq_left (by omega), BitVec.ofInt_toInt]

theorem valueMax_eq (x y : Word) : valueMax x y = BitVec.ofInt 64 (max x.toInt y.toInt) := by
  simp only [valueMax, BitVec.slt, decide_eq_true_eq]
  split
  · rw [max_eq_right (by omega), BitVec.ofInt_toInt]
  · rw [max_eq_left (by omega), BitVec.ofInt_toInt]

theorem valueMinu_eq (x y : Word) : valueMinu x y = BitVec.ofNat 64 (min x.toNat y.toNat) := by
  simp only [valueMinu, BitVec.ult, decide_eq_true_eq]
  split
  · rw [min_eq_right (by omega), ← word_eq_ofNat rfl]
  · rw [min_eq_left (by omega), ← word_eq_ofNat rfl]

theorem valueMaxu_eq (x y : Word) : valueMaxu x y = BitVec.ofNat 64 (max x.toNat y.toNat) := by
  simp only [valueMaxu, BitVec.ult, decide_eq_true_eq]
  split
  · rw [max_eq_right (by omega), ← word_eq_ofNat rfl]
  · rw [max_eq_left (by omega), ← word_eq_ofNat rfl]

/-- Settles O1: each form ends with the value of its row. -/
theorem aluThreeOperandResults : Obligations.AluThreeOperandResults := by
  intro s d a b x y n word
  refine ⟨⟨writes_of_finish rfl (valueAdd_eq x y), rfl⟩, ⟨writes_of_finish rfl (valueSub_eq x y), rfl⟩,
    ⟨writes_of_finish rfl (word_eq_ofNat (BitVec.toNat_and ..)), rfl⟩, ⟨writes_of_finish rfl (word_eq_ofNat (BitVec.toNat_or ..)), rfl⟩,
    ⟨writes_of_finish rfl (word_eq_ofNat (BitVec.toNat_xor ..)), rfl⟩, ⟨writes_of_finish rfl (valueAndn_eq x y), rfl⟩,
    ⟨writes_of_finish rfl (shiftLeft_eq_ofNat x n), rfl⟩, ⟨writes_of_finish rfl (ushiftRight_eq_ofNat x n), rfl⟩,
    ⟨writes_of_finish rfl (sshiftRight_eq_ofInt x n), rfl⟩, ⟨writes_of_finish rfl (ofBool_slt x y), rfl⟩,
    ⟨writes_of_finish rfl (ofBool_ult x y), rfl⟩, ⟨writes_of_finish rfl (valueMin_eq x y), rfl⟩, ⟨writes_of_finish rfl (valueMax_eq x y), rfl⟩,
    ⟨writes_of_finish rfl (valueMinu_eq x y), rfl⟩, ⟨writes_of_finish rfl (valueMaxu_eq x y), rfl⟩⟩

/-! ### Two operands (R57) -/

/-- R57: the zero bits above the highest set bit and the size of the number fill the width. -/
theorem clzBits_eq (v n : Nat) (h : v < 2 ^ n) : clzBits v n = n - v.size := by
  induction n with
  | zero => simp [clzBits]
  | succ n ih =>
    rw [clzBits]
    split
    · next htop =>
      have hle : n < v.size := Nat.lt_size.mpr (by
        by_contra hlt
        rw [Nat.div_eq_of_lt (by omega)] at htop
        omega)
      omega
    · next htop =>
      have hlt : v < 2 ^ n := by
        by_contra hge
        rw [Nat.div_eq_of_lt_le (k := 1) (by omega) (by omega)] at htop
        omega
      have := Nat.size_le.mpr hlt
      rw [ih hlt]
      omega

/-- R57: what is counted below the lowest set bit. -/
theorem ctzBits_spec (v n : Nat) : ctzBits v n ≤ n ∧ v % 2 ^ ctzBits v n = 0 ∧ (ctzBits v n < n → v.testBit (ctzBits v n) = true) := by
  induction n generalizing v with
  | zero => exact ⟨le_rfl, Nat.mod_one v, fun h => absurd h (lt_irrefl 0)⟩
  | succ n ih =>
    rw [ctzBits]
    split
    · next h => exact ⟨by omega, Nat.mod_one v, fun _ => by rw [Nat.testBit_zero]; simpa using h⟩
    · next h =>
      obtain ⟨hle, hmod, hbit⟩ := ih (v / 2)
      refine ⟨by omega, ?_, fun hlt => ?_⟩
      · rw [Nat.pow_add, Nat.pow_one, Nat.mod_mul]
        omega
      · rw [Nat.add_comm, Nat.testBit_succ]
        exact hbit (by omega)

/-- R57: the set bits, bit by bit. -/
theorem popBits_eq (v n : Nat) : popBits v n = (List.range n).countP fun k => v.testBit k := by
  induction n generalizing v with
  | zero => rfl
  | succ n ih =>
    rw [popBits, ih, List.range_succ_eq_map, List.countP_cons, List.countP_map, Nat.add_comm]
    congr 1
    · simp [Function.comp_def, Nat.testBit_succ]
    · rw [Nat.testBit_zero]
      rcases Nat.mod_two_eq_zero_or_one v with h | h <;> simp [h]

theorem swapBytes_lt (v n : Nat) : swapBytes v n < 256 ^ n := by
  induction n generalizing v with
  | zero => exact Nat.one_pos
  | succ n ih =>
    have hrest := ih (v / 256)
    have hbyte : v % 256 ≤ 255 := by omega
    rw [swapBytes, Nat.pow_succ]
    nlinarith

/-- R57: byte `k` of the reversed bytes is byte `n - 1 - k`. -/
theorem byte_swapBytes (v n k : Nat) (h : k < n) : swapBytes v n / 256 ^ k % 256 = v / 256 ^ (n - 1 - k) % 256 := by
  induction n generalizing v with
  | zero => omega
  | succ n ih =>
    rw [swapBytes]
    by_cases hk : k = n
    · subst hk
      rw [Nat.mul_comm, Nat.mul_add_div (by positivity), Nat.div_eq_of_lt (swapBytes_lt _ _)]
      simp
    · obtain ⟨m, rfl⟩ : ∃ m, n = k + 1 + m := ⟨n - k - 1, by omega⟩
      have hhigh : (v % 256 * 256 ^ (k + 1 + m) + swapBytes (v / 256) (k + 1 + m)) / 256 ^ k =
          256 * (v % 256 * 256 ^ m) + swapBytes (v / 256) (k + 1 + m) / 256 ^ k := by
        rw [show v % 256 * 256 ^ (k + 1 + m) = 256 ^ k * (256 * (v % 256 * 256 ^ m)) by ring, Nat.mul_add_div (by positivity)]
      rw [hhigh, Nat.mul_add_mod, ih (v / 256) (by omega), Nat.div_div_eq_div_mul, ← Nat.pow_succ',
        show (k + 1 + m - 1 - k).succ = k + 1 + m + 1 - 1 - k by omega]

/-- R57: the bytes of a word reversed, byte by byte. -/
theorem valueBswap_byte (x : Word) {k : Nat} (hk : k < 8) : (valueBswap x).extractLsb' (8 * k) 8 = x.extractLsb' (8 * (7 - k)) 8 := by
  apply BitVec.eq_of_toNat_eq
  have hlt : swapBytes x.toNat 8 < 2 ^ 64 := swapBytes_lt x.toNat 8
  have hpow : ∀ j : Nat, 2 ^ (8 * j) = 256 ^ j := fun j => Nat.pow_mul 2 8 j
  rw [BitVec.extractLsb'_toNat, BitVec.extractLsb'_toNat, Nat.shiftRight_eq_div_pow, Nat.shiftRight_eq_div_pow, valueBswap, wd, BitVec.toNat_ofNat,
    Nat.mod_eq_of_lt hlt, hpow, hpow]
  exact byte_swapBytes x.toNat 8 k hk

/-- R57: a zero extension keeps the number modulo 2^n. -/
theorem zext_eq_ofNat (x : Word) {n : Nat} (hn : n ≤ 64) : (x.setWidth n).setWidth 64 = BitVec.ofNat 64 (x.toNat % 2 ^ n) := by
  apply word_eq_ofNat
  have hle : 2 ^ n ≤ 2 ^ 64 := Nat.pow_le_pow_right (by decide) hn
  have hlt := Nat.mod_lt x.toNat (Nat.two_pow_pos n)
  rw [BitVec.toNat_setWidth, BitVec.toNat_setWidth, Nat.mod_eq_of_lt (by omega)]

/-- R57: a sign extension starts from the low field. -/
theorem sext_eq_signExtend (x : Word) {n : Nat} (hn : n ≤ 64) : (x.setWidth n).signExtend 64 = (x.extractLsb' 0 n).signExtend 64 := by
  rw [BitVec.setWidth_eq_extractLsb' hn]

/-- Settles O4: the counts by their laws, the byte reversal byte by byte, and the extensions. -/
theorem aluTwoOperandResults : Obligations.AluTwoOperandResults := by
  intro s d a x word
  have hclz : clzBits x.toNat 64 = 64 - x.toNat.size := clzBits_eq _ _ x.isLt
  have hsize : x.toNat.size ≤ 64 := Nat.size_le.mpr x.isLt
  obtain ⟨hctz, hzeros, hone⟩ := ctzBits_spec x.toNat 64
  refine ⟨⟨clzBits x.toNat 64, by omega, writes_of_finish rfl rfl, ?_, fun h => ?_⟩, ⟨_, hctz, writes_of_finish rfl rfl, hzeros, hone⟩,
    writes_of_finish rfl (congrArg wd (popBits_eq x.toNat 64)), ⟨_, writes_of_finish rfl rfl, fun k hk => valueBswap_byte x hk⟩,
    writes_of_finish rfl (sext_eq_signExtend x (by decide)), writes_of_finish rfl (sext_eq_signExtend x (by decide)),
    writes_of_finish rfl (sext_eq_signExtend x (by decide)), writes_of_finish rfl (zext_eq_ofNat x (by decide)),
    writes_of_finish rfl (zext_eq_ofNat x (by decide)), writes_of_finish rfl (zext_eq_ofNat x (by decide)),
    rfl, rfl, rfl, rfl, rfl, rfl, rfl, rfl, rfl, rfl⟩
  · rw [hclz, show 64 - (64 - x.toNat.size) = x.toNat.size by omega]
    exact Nat.lt_size_self _
  · rw [hclz] at h ⊢
    exact Nat.lt_size.mp (by omega)

/-! ### The immediate group (R58) -/

theorem toInt_sext16 (imm : BitVec 16) : (sext16 imm).toInt = imm.toInt := BitVec.toInt_signExtend_of_le (by decide)

theorem sext16_eq_ofInt (imm : BitVec 16) : sext16 imm = BitVec.ofInt 64 imm.toInt := by
  rw [← toInt_sext16, BitVec.ofInt_toInt]

theorem toNat_zext16 (imm : BitVec 16) : (zext16 imm).toNat = imm.toNat := by
  have := imm.isLt
  rw [zext16, BitVec.toNat_setWidth, Nat.mod_eq_of_lt (by omega)]

theorem add_signExtend_eq (x : Word) {n : Nat} (imm : BitVec n) (hn : n ≤ 64) : x + imm.signExtend 64 = BitVec.ofInt 64 (x.toInt + imm.toInt) := by
  rw [BitVec.ofInt_add, BitVec.ofInt_toInt, ← BitVec.toInt_signExtend_of_le hn, BitVec.ofInt_toInt]

/-- R31, R58: a word offset from the pc. -/
theorem pc_add_words_eq (pc : Word) {n : Nat} (imm : BitVec n) (hn : n ≤ 64) :
    pc + imm.signExtend 64 * 4 = BitVec.ofInt 64 (pc.toNat + imm.toInt * 4) := by
  rw [BitVec.ofInt_add, BitVec.ofInt_mul, ofInt_natCast_toNat, ← BitVec.toInt_signExtend_of_le hn, BitVec.ofInt_toInt]
  rfl

theorem lui_eq (imm : BitVec 16) : sext16 imm <<< 16 = BitVec.ofInt 64 (imm.toInt * 2 ^ 16) := by
  rw [BitVec.ofInt_mul, ← sext16_eq_ofInt, BitVec.shiftLeft_eq_mul_twoPow]
  rfl

/-- R58: the 16 bits that LUS brings in lie below those that it keeps. -/
theorem lus_eq (x : Word) (imm : BitVec 16) : x <<< 16 ||| zext16 imm = BitVec.ofNat 64 (x.toNat * 2 ^ 16 + imm.toNat) := by
  have hdisjoint : x <<< 16 &&& zext16 imm = 0 := by
    ext i hi
    by_cases h : i < 16
    · simp [h]
    · simp [zext16, BitVec.getLsbD_of_ge imm i (Nat.le_of_not_lt h)]
  rw [← BitVec.add_eq_or_of_and_eq_zero _ _ hdisjoint, BitVec.ofNat_add, ← shiftLeft_eq_ofNat, ← toNat_zext16, ← word_eq_ofNat rfl]

/-- R34: a shift word with a bit of [15:6] set. -/
theorem decodeShift_reserved {w : Word32} (mk : Reg → Reg → BitVec 6 → Instr) (h : w.extractLsb' 6 10 ≠ 0) : decodeShift w mk = .error .mustBeZero := by
  rw [decodeShift, needZero, if_neg (by simpa using h)]

/-- R34: a word of LUI, LUS or ADDPC with a nonzero ga field. -/
theorem needZero_fieldA {w : Word32} (i : Instr) (h : w.extractLsb' 16 5 ≠ 0) : needZero (fieldA w == 0) i = .error .mustBeZero := by
  rw [needZero, fieldA, if_neg (by simpa using h)]

/-- Settles O5: each form ends with the value of its row; the reserved fields are checked major by major. -/
theorem immediateGroupResults : Obligations.ImmediateGroupResults := by
  refine ⟨fun s d a imm amt => ?_, fun w => ⟨fun hmajor hfield => ?_, fun hmajor hfield => ?_⟩⟩
  · intro x n word shift alone
    refine ⟨⟨writes_of_finish rfl (add_signExtend_eq x imm (by decide)), rfl⟩, ⟨writes_of_finish rfl (word_eq_ofNat ?_), rfl⟩,
      ⟨writes_of_finish rfl (word_eq_ofNat ?_), rfl⟩, ⟨writes_of_finish rfl (word_eq_ofNat ?_), rfl⟩, ⟨writes_of_finish rfl ?_, rfl⟩,
      ⟨writes_of_finish rfl ?_, rfl⟩, ⟨writes_of_finish rfl (shiftLeft_eq_ofNat x n), rfl⟩, ⟨writes_of_finish rfl (ushiftRight_eq_ofNat x n), rfl⟩,
      ⟨writes_of_finish rfl (sshiftRight_eq_ofInt x n), rfl⟩, ⟨writes_of_finish rfl (lui_eq imm), rfl⟩, ⟨writes_of_finish rfl (lus_eq _ imm), rfl⟩,
      ⟨writes_of_finish rfl (pc_add_words_eq s.pc imm (by decide)), rfl⟩⟩
    · rw [BitVec.toNat_and, toNat_zext16]
    · rw [BitVec.toNat_or, toNat_zext16]
    · rw [BitVec.toNat_xor, toNat_zext16]
    · rw [ofBool_slt, toInt_sext16]
    · rw [ofBool_ult, sext16_eq_ofInt]
  · unfold decodeWord
    rcases hmajor with h | h | h <;> rw [major, h] <;> exact decodeShift_reserved _ hfield
  · unfold decodeWord
    rcases hmajor with h | h | h <;> rw [major, h] <;> exact needZero_fieldA _ hfield

end Sys2Proof.Machine
end

section
/-! A step that changes one thread alone: its general registers, and the frames of the statements that follow from what it makes of its thread. -/

namespace Sys2Proof.Machine

namespace State

/-! ### General registers -/

theorem sameRegsBut_trans {s t u : State} {k : Nat} {d : Reg} (h : s.sameRegsBut t k d) (h' : t.sameRegsBut u k d) : s.sameRegsBut u k d :=
  fun j r hjr => (h' j r hjr).trans (h j r hjr)

theorem sameRegsBut_of_sameRegs {s t : State} (h : s.sameRegs t) (k : Nat) (d : Reg) : s.sameRegsBut t k d := fun j r _ => h j r

theorem sameRegsBut_setGprOf (s : State) (k : Nat) (d : Reg) (v : Word) : s.sameRegsBut (s.setGprOf k d v) k d := fun j r h => by
  rw [gprOf_setGprOf, if_neg fun hc => h ⟨hc.1, hc.2.1⟩]

/-- R16: the register written, g0 staying 0. -/
theorem gprOf_setGprOf_self (s : State) (k : Nat) (d : Reg) (v : Word) : (s.setGprOf k d v).gprOf k d = if d = 0 then 0 else v := by
  rw [gprOf_setGprOf]
  by_cases hd : d = 0
  · rw [if_neg fun hc => hc.2.2 hd, if_pos hd, gprOf_eq, if_pos hd]
  · rw [if_pos ⟨rfl, rfl, hd⟩, if_neg hd]

end State

/-! ### One thread changed -/

/-- Of the state `s` only thread `k` has changed, and is now `x`. -/
structure OnlyThread (s t : State) (k : Nat) (x : ThreadSt) : Prop where
  thread : t.thread k = x
  others : s.otherThreads t k
  machine : { t with threads := s.threads } = s

namespace OnlyThread

variable {s t u : State} {k : Nat} {x y : ThreadSt}

theorem refl (s : State) (k : Nat) : OnlyThread s s k (s.thread k) := ⟨rfl, fun _ _ => rfl, rfl⟩

theorem trans (h : OnlyThread s t k x) (h' : OnlyThread t u k y) : OnlyThread s u k y :=
  ⟨h'.thread, State.otherThreads_trans h.others h'.others,
    (congrArg (fun v : State => { v with threads := s.threads }) h'.machine :).trans h.machine⟩

theorem setThread (h : OnlyThread s t k x) (y : ThreadSt) : OnlyThread s (t.setThread k y) k y :=
  ⟨(t.thread_setThread k k y).trans (if_pos rfl), State.otherThreads_trans h.others (t.otherThreads_setThread k y), h.machine⟩

theorem modThread (h : OnlyThread s t k x) (f : ThreadSt → ThreadSt) : OnlyThread s (t.modThread k f) k (f x) :=
  h.thread ▸ h.setThread (f (t.thread k))

/-- R16: a register write changes the registers of its thread. -/
theorem setGprOf (h : OnlyThread s t k x) (d : Reg) (v : Word) : ∃ g, OnlyThread s (t.setGprOf k d v) k { x with gpr := g } := by
  rw [State.setGprOf_eq]
  split
  · exact ⟨x.gpr, h⟩
  · rw [h.thread]
    exact ⟨_, h.setThread { x with gpr := Table.putD x.gpr d.toNat v 0 }⟩

theorem cycle (h : OnlyThread s t k x) : t.cycle = s.cycle := (congrArg State.cycle h.machine :)

theorem focus (h : OnlyThread s t k x) : t.focus = s.focus := (congrArg State.focus h.machine :)

theorem me (h : OnlyThread s t k x) : t.me = s.me := congrArg Focus.thread h.focus

theorem cores (h : OnlyThread s t k x) : t.cores = s.cores := (congrArg State.cores h.machine :)

theorem sameBytes (h : OnlyThread s t k x) : s.sameBytes t := fun a => by
  rw [show t.mem = s.mem from (congrArg State.mem h.machine :)]

/-- The change keeps every general register where it keeps those of its thread. -/
theorem sameRegs (h : OnlyThread s t k x) (hx : x.gpr = (s.thread k).gpr) : s.sameRegs t := fun j r => by
  have hgpr : (t.thread j).gpr = (s.thread j).gpr := by
    by_cases hj : j = k
    · rw [hj, h.thread, hx]
    · rw [h.others j hj]
  rw [State.gprOf_eq, State.gprOf_eq, hgpr]

theorem cur (h : OnlyThread s t s.me x) : t.cur = x := by
  rw [State.cur, h.me, h.thread]

theorem pc (h : OnlyThread s t s.me x) : t.pc = x.pc := congrArg ThreadSt.pc h.cur

theorem gpr (h : OnlyThread s t s.me x) (d : Reg) : t.gpr d = t.gprOf s.me d := by
  rw [State.gpr, h.me]

theorem modMe (h : OnlyThread s t s.me x) (f : ThreadSt → ThreadSt) : OnlyThread s (t.modMe f) s.me (f x) := by
  rw [State.modMe, h.me]
  exact h.modThread f

theorem setPc (h : OnlyThread s t s.me x) (v : Word) : OnlyThread s (t.setPc v) s.me { x with pc := v } := h.modMe _

/-- The acting thread goes on to the next word. -/
theorem advance (h : OnlyThread s t s.me x) : OnlyThread s t.advance s.me { x with pc := x.pc + 4 } := by
  rw [State.advance, h.pc]
  exact h.setPc _

theorem registerFrame {d : Reg} (h : OnlyThread s t s.me x) (hx : { x with gpr := s.cur.gpr, pc := s.cur.pc } = s.cur)
    (hregs : s.sameRegsBut t s.me d) : RegisterFrame s t d := ⟨hregs, by rw [h.cur, hx], h.others, h.machine, h.sameBytes⟩

theorem controlFrame {d : Reg} (h : OnlyThread s t s.me x)
    (hx : { x with gpr := s.cur.gpr, pc := s.cur.pc, predictor := s.cur.predictor, returns := s.cur.returns, notBefore := s.cur.notBefore } = s.cur)
    (hregs : s.sameRegsBut t s.me d) : ControlFrame s t d := ⟨hregs, by rw [h.cur, hx], h.others, h.machine, h.sameBytes⟩

theorem threadFrame {d : Reg} (h : OnlyThread s t s.me x) (hx : { x with gpr := s.cur.gpr, pc := s.cur.pc, loads := s.cur.loads } = s.cur)
    (hregs : s.sameRegsBut t s.me d) : ThreadFrame s t d := ⟨hregs, by rw [h.cur, hx], h.others, h.focus⟩

end OnlyThread

theorem onlyThread_setThread (s : State) (k : Nat) (x : ThreadSt) : OnlyThread s (s.setThread k x) k x := (OnlyThread.refl s k).setThread x

theorem onlyThread_modThread (s : State) (k : Nat) (f : ThreadSt → ThreadSt) : OnlyThread s (s.modThread k f) k (f (s.thread k)) :=
  (OnlyThread.refl s k).modThread f

theorem onlyThread_setGprOf (s : State) (k : Nat) (d : Reg) (v : Word) : ∃ g, OnlyThread s (s.setGprOf k d v) k { s.thread k with gpr := g } :=
  (OnlyThread.refl s k).setGprOf d v

end Sys2Proof.Machine
end

section
/-! O2 and O3: the multiply forms (R55), and division through the core's divider (R53, R56). -/

namespace Sys2Proof.Machine

/-! ### A result that is ready later (R17, R53) -/

/-- R53: what the end of an instruction with a late result does. -/
theorem State.finishLate_next (s : State) (d : Reg) (v : Word) (lat : Nat) : ∃ t, s.finishLate d v lat = .next t ∧
    t.gpr d = (if d = 0 then 0 else v) ∧ t.pc = s.pc + 4 ∧ t.cur.busy.head? = some (d, s.cycle + lat) ∧
    (∀ b ∈ s.cur.busy, b.1 ≠ d → s.cycle < b.2 → b ∈ t.cur.busy) ∧ RegisterFrame s (t.modMe fun x => { x with busy := s.cur.busy }) d := by
  obtain ⟨g, hwrite⟩ := onlyThread_setGprOf s s.me d v
  have hmark := hwrite.modMe fun x =>
    { x with busy := (d, (s.setGpr d v).cycle + lat) :: x.busy.filter fun b => b.1 != d && decide ((s.setGpr d v).cycle < b.2) }
  have hend : OnlyThread s ((s.setGpr d v).mark d lat).advance s.me _ := hmark.advance
  rw [show (s.setGpr d v).cycle = s.cycle from hwrite.cycle] at hend
  have hback := hend.modMe fun x => { x with busy := s.cur.busy }
  have hregs : (s.setGprOf s.me d v).sameRegs ((s.setGpr d v).mark d lat).advance :=
    State.sameRegs_trans (State.sameRegs_modThread (by rfl)) (State.sameRegs_modThread (by rfl))
  refine ⟨_, rfl, ?_, hend.pc, ?_, fun b hb hne hlt => ?_, ?_⟩
  · rw [hend.gpr, hregs, State.gprOf_setGprOf_self]
  · rw [hend.cur]
    rfl
  · rw [hend.cur]
    exact List.mem_cons_of_mem _ (List.mem_filter.mpr ⟨hb, by simp [hne, hlt]⟩)
  · exact hback.registerFrame rfl (State.sameRegsBut_trans (s.sameRegsBut_setGprOf _ _ _)
      (State.sameRegsBut_of_sameRegs (State.sameRegs_trans hregs (State.sameRegs_modThread rfl)) _ _))

/-- R53: an instruction whose meaning is to end with a late result writes it late. -/
theorem writesLate_of_finishLate {i : Instr} {s : State} {d : Reg} {v w : Word} {lat : Nat} (h : exec i s = s.finishLate d v lat) (hv : v = w) :
    WritesLate i s d w lat := by
  obtain ⟨t, ht, hd, hpc, hbusy, hawaited, hframe⟩ := s.finishLate_next d v lat
  exact ⟨t, h.trans ht, hv ▸ hd, hpc, hbusy, hawaited, hframe⟩

/-! ### The halves of a product (R55) -/

/-- R55: the low half of a 128-bit value is its value modulo 2^64. -/
theorem low_ofInt (p : Int) : (BitVec.ofInt 128 p).extractLsb' 0 64 = BitVec.ofInt 64 p := by
  apply BitVec.eq_of_toNat_eq
  rw [BitVec.extractLsb'_toNat, BitVec.toNat_ofInt, BitVec.toNat_ofInt, Nat.shiftRight_zero]
  omega

theorem high_ofInt (p : Int) : (BitVec.ofInt 128 p).extractLsb' 64 64 = BitVec.ofInt 64 (p / 2 ^ 64) := by
  apply BitVec.eq_of_toNat_eq
  rw [BitVec.extractLsb'_toNat, BitVec.toNat_ofInt, BitVec.toNat_ofInt, Nat.shiftRight_eq_div_pow]
  omega

/-- Settles O2: the halves of the exact products. -/
theorem multiplyGivesTheExactProduct : Obligations.MultiplyGivesTheExactProduct := by
  intro s d a b x y signed unsigned mixed
  have hunsigned : unsigned = BitVec.ofInt 128 ((x.toNat * y.toNat : Nat) : Int) := (BitVec.ofInt_natCast ..).symm
  have hlow : signed.extractLsb' 0 64 = x * y := by
    rw [low_ofInt, BitVec.ofInt_mul, BitVec.ofInt_toInt, BitVec.ofInt_toInt]
  refine ⟨writesLate_of_finishLate rfl (low_ofInt _).symm, writesLate_of_finishLate rfl (high_ofInt _).symm, writesLate_of_finishLate rfl ?_,
    writesLate_of_finishLate rfl (high_ofInt _).symm, ?_, ?_⟩
  · rw [hunsigned, high_ofInt]
    exact (BitVec.ofInt_natCast ..).symm
  · rw [hlow, hunsigned, low_ofInt, Nat.cast_mul, BitVec.ofInt_mul, ofInt_natCast_toNat, ofInt_natCast_toNat]
  · rw [hlow, low_ofInt, BitVec.ofInt_mul, BitVec.ofInt_toInt, ofInt_natCast_toNat]

/-! ### Division (R53, R56) -/

/-- R56: the most negative dividend over -1. -/
theorem divide_corner_iff (x y : Word) : (x = BitVec.intMin 64 ∧ y = BitVec.allOnes 64) ↔ (x.toInt = -2 ^ 63 ∧ y.toInt = -1) := by
  rw [← BitVec.toInt_inj (x := x), ← BitVec.toInt_inj (x := y)]
  exact Iff.rfl

theorem divValue_eq (x y : Word) : divValue x y =
    if y = 0 then BitVec.allOnes 64 else if x.toInt = -2 ^ 63 ∧ y.toInt = -1 then x else BitVec.ofInt 64 (x.toInt.tdiv y.toInt) := by
  simp only [divValue, divide_corner_iff]

theorem remValue_eq (x y : Word) : remValue x y =
    if y = 0 then x else if x.toInt = -2 ^ 63 ∧ y.toInt = -1 then 0 else BitVec.ofInt 64 (x.toInt.tmod y.toInt) := by
  simp only [remValue, divide_corner_iff, Int.tmod_def]

/-- R53: the significant bits of a magnitude. -/
theorem divLatency_eq {m : Nat} (hm : m < 2 ^ 64) (y : Word) : divLatency m y = if y = 0 then 20 else 20 + 3 * ((Nat.size m + 3) / 4) := by
  have hsize : m.size ≤ 64 := Nat.size_le.mpr hm
  rw [divLatency, sigBits, clzBits_eq m 64 hm, show 64 - (64 - m.size) = m.size by omega]

theorem magnitude_lt (x : Word) : magnitude x < 2 ^ 64 := by
  have hlow := BitVec.le_toInt x
  have hhigh := BitVec.toInt_lt (x := x)
  unfold magnitude
  omega

/-- R53: a division of the acting thread has started: the divider holds `v`, due in `n` cycles, and the thread goes on. -/
structure DivisionStarts (s t : State) (d : Reg) (v : Word) (n : Nat) : Prop where
  pc : t.pc = s.pc + 4
  holds : (t.core s.myCore).divider = some { thread := s.me, gd := d, value := v, readyAt := s.cycle + n }
  core : { t.core s.myCore with divider := none } = s.core s.myCore
  cores : ∀ c, c ≠ s.myCore → t.core c = s.core c
  thread : { t.cur with pc := s.pc } = s.cur
  others : ∀ k, k ≠ s.me → t.thread k = s.thread k
  machine : { t with threads := s.threads, cores := s.cores } = s
  registers : s.sameRegs t
  memory : s.sameBytes t

/-- R53: an idle divider starts. -/
theorem startDivider_starts {s : State} (hidle : (s.core s.myCore).divider = none) (d : Reg) (v : Word) (n : Nat) :
    ∃ t, startDivider s d v n = .next t ∧ DivisionStarts s t d v n := by
  let u := s.modCore s.myCore fun c => { c with divider := some { thread := s.me, gd := d, value := v, readyAt := s.cycle + n } }
  have hexec : startDivider s d v n = .next u.advance := by
    unfold startDivider
    dsimp only
    rw [hidle]
  have hend : OnlyThread u u.advance s.me { s.cur with pc := s.pc + 4 } := (OnlyThread.refl u u.me).advance
  have hcore : ∀ c, u.advance.core c = if s.myCore = c then _ else s.core c := fun c => State.core_setCore s s.myCore c _
  refine ⟨_, hexec, hend.pc, ?_, ?_, fun c hc => ?_, ?_, hend.others, rfl, hend.sameRegs rfl, hend.sameBytes⟩
  · rw [hcore, if_pos rfl]
  · rw [hcore, if_pos rfl, ← hidle]
  · rw [hcore, if_neg (Ne.symm hc)]
  · rw [hend.cur]
    rfl

/-- Settles O3: the four forms start an idle divider, and DIVIDER_DONE writes its result. -/
theorem divideThroughTheDivider : Obligations.DivideThroughTheDivider := by
  refine ⟨fun s d a b hidle => ?_, fun s q hq => ?_⟩
  · intro x y starts cycles corner
    have hstarts : ∀ {i : Instr} {v w : Word} {m n : Nat}, exec i s = startDivider s d v m → v = w → m = n → starts i w n := by
      intro i v w m n hexec hv hn
      obtain ⟨t, ht, h⟩ := startDivider_starts hidle d v m
      subst hv hn
      exact ⟨t, hexec.trans ht, h.pc, h.holds, h.core, h.cores, h.thread, h.others, h.machine, h.registers, h.memory⟩
    exact ⟨hstarts rfl (divValue_eq x y) (divLatency_eq (magnitude_lt x) y), hstarts rfl rfl (divLatency_eq x.isLt y),
      hstarts rfl (remValue_eq x y) (divLatency_eq (magnitude_lt x) y), hstarts rfl rfl (divLatency_eq x.isLt y)⟩
  · obtain ⟨g, hwrite⟩ := onlyThread_setGprOf s q.thread q.gd q.value
    let u := s.setGprOf q.thread q.gd q.value
    have hexec : exec .dividerDone s = .next (u.modCore s.focus.core fun y => { y with divider := none }) := by
      show execDividerDone s = _
      unfold execDividerDone
      dsimp only
      rw [hq]
    have hcore : ∀ c, u.core c = s.core c := fun c => by rw [State.core, State.core, hwrite.cores]
    refine ⟨_, hexec, s.gprOf_setGprOf_self _ _ _, s.sameRegsBut_setGprOf _ _ _, ?_, ?_, fun c hc => ?_, ?_, hwrite.others, ?_, hwrite.sameBytes⟩
    · rw [State.modCore, State.core_setCore, if_pos rfl]
    · rw [State.modCore, State.core_setCore, if_pos rfl, hcore]
    · rw [State.modCore, State.core_setCore, if_neg (Ne.symm hc), hcore]
    · exact s.thread_setGprOf q.thread q.thread q.gd q.value
    · exact (congrArg (fun w : State => { w with cores := s.cores }) hwrite.machine :)

end Sys2Proof.Machine
end

section
/-! O6 and O7: branches and jumps (R63, R64), and the predictor and return stack (R65). -/

namespace Sys2Proof.Machine

/-! ### Branches (R63) -/

/-- R65: the predictor's guess at the pc. -/
def guessesTaken (s : State) : Bool := decide (2 ≤ (Table.getD s.cur.predictor (s.pc.toNat / 4 % 64) 0).toNat)

/-- R63, R65: what a branch leaves of its thread, whichever way it goes. -/
theorem branch_onlyThread (s : State) (taken : Bool) (off : BitVec 16) : ∃ t, branch s taken off = .next t ∧ ∃ counters,
    OnlyThread s t s.me { s.cur with pc := if taken then s.pc + off.signExtend 64 * 4 else s.pc + 4, predictor := counters,
                                     notBefore := afterJump s s.cur (guessesTaken s == taken) } :=
  ⟨_, rfl, _, onlyThread_modThread s s.me _⟩

/-- Settles O6: a branch changes its thread alone, and its target is the word offset's. -/
theorem branchesGoToTheirTargets : Obligations.BranchesGoToTheirTargets := by
  intro s a b off x y goes
  have hgoes : ∀ {i : Instr} {op : BitVec 6} {taken : Bool} {p : Prop}, encode i = some (op ++ a ++ b ++ off) → exec i s = branch s taken off →
      (taken = true ↔ p) → goes i op p := by
    intro i op taken p hword hexec hp
    obtain ⟨t, ht, counters, h⟩ := branch_onlyThread s taken off
    have hregs : s.sameRegs t := h.sameRegs rfl
    refine ⟨hword, t, hexec.trans ht, fun htaken => ?_, fun htaken => ?_, hregs, h.controlFrame rfl (State.sameRegsBut_of_sameRegs hregs _ _), ?_,
      fun hguess => ?_, fun hguess => ?_⟩
    · rw [h.pc, if_pos (hp.mpr htaken), pc_add_words_eq s.pc off (by decide)]
    · rw [h.pc, if_neg (mt hp.mp htaken)]
    · rw [h.cur]
    · rw [h.cur]
      exact if_pos (by rw [beq_iff_eq, Bool.eq_iff_iff, guessesTaken, decide_eq_true_eq]; exact hguess.trans hp.symm)
    · rw [h.cur]
      exact if_neg (by rw [beq_iff_eq, Bool.eq_iff_iff, guessesTaken, decide_eq_true_eq]; exact fun hc => hguess (hc.trans hp))
  refine ⟨hgoes rfl rfl beq_iff_eq, hgoes rfl rfl bne_iff_ne, hgoes rfl rfl ?_, hgoes rfl rfl ?_, hgoes rfl rfl ?_, hgoes rfl rfl ?_⟩
  · simp [BitVec.slt, x, y]
  · simp [BitVec.slt, x, y]
  · simp [BitVec.ult, x, y]
  · simp [BitVec.ult, x, y]

/-! ### Jumps (R64) -/

/-- R65: what a push leaves of its thread. -/
theorem pushReturn_onlyThread (s : State) (d : Reg) : ∃ stack, OnlyThread s (pushReturn s d) s.me { s.cur with returns := stack } := by
  unfold pushReturn
  split
  · exact ⟨_, onlyThread_modThread s s.me _⟩
  · exact ⟨_, OnlyThread.refl s s.me⟩

/-- R64: the link and the target, from a state `u` in which only the return stack and the cycle of the next issue differ from `s`. -/
theorem jumpTo_next {s u : State} {stack : List Word} {cycle : Nat} (h : OnlyThread s u s.me { s.cur with returns := stack, notBefore := cycle })
    (d : Reg) (target : Word) : ∃ t, jumpTo u d target = .next t ∧ t.pc = target ∧ t.gpr d = (if d = 0 then 0 else s.pc + 4) ∧ ControlFrame s t d ∧
      t.cur.predictor = s.cur.predictor ∧ t.cur.notBefore = cycle := by
  obtain ⟨stack', hpushed⟩ := pushReturn_onlyThread u d
  rw [h.me, h.cur] at hpushed
  have hpush := h.trans hpushed
  obtain ⟨g, hlink⟩ := hpush.setGprOf d (u.pc + 4)
  have hend := hlink.setPc target
  have hjump : jumpTo u d target = .next (((pushReturn u d).setGprOf s.me d (u.pc + 4)).setPc target) := by
    rw [jumpTo, State.setGpr, hpush.me]
  have hbefore : s.sameRegs (pushReturn u d) := hpush.sameRegs rfl
  have hafter : ((pushReturn u d).setGprOf s.me d (u.pc + 4)).sameRegs (((pushReturn u d).setGprOf s.me d (u.pc + 4)).setPc target) := State.sameRegs_modThread rfl
  refine ⟨_, hjump, hend.pc, ?_, hend.controlFrame rfl ?_, ?_, ?_⟩
  · rw [hend.gpr, hafter, State.gprOf_setGprOf_self, h.pc]
    rfl
  · exact State.sameRegsBut_trans (State.sameRegsBut_of_sameRegs hbefore _ _)
      (State.sameRegsBut_trans (State.sameRegsBut_setGprOf _ _ _ _) (State.sameRegsBut_of_sameRegs hafter _ _))
  · rw [hend.cur]
  · rw [hend.cur]

/-- R65: the return form of JALR to the top of the return stack is predicted. -/
def returnPredicted (s : State) (d a : Reg) (imm : BitVec 16) (target : Word) : Bool :=
  d == 0 && a == 1 && imm == 0 && s.cur.returns.head? == some target

theorem popReturn_onlyThread (s : State) (d a : Reg) (imm : BitVec 16) (target : Word) : ∃ stack, OnlyThread s (popReturn s d a imm target) s.me
    { s.cur with returns := stack, notBefore := afterJump s s.cur (returnPredicted s d a imm target) } := by
  unfold popReturn
  exact ⟨_, onlyThread_modThread s s.me _⟩

theorem afterJump_return (s : State) (d a : Reg) (imm : BitVec 16) (target : Word) : afterJump s s.cur (returnPredicted s d a imm target) =
    if d = 0 ∧ a = 1 ∧ imm = 0 ∧ s.cur.returns.head? = some target then s.cur.notBefore else s.cycle + 3 := by
  simp only [afterJump, returnPredicted, Bool.and_eq_true, beq_iff_eq, and_assoc]

/-- Settles O7: a jump links and goes; a target off the word boundary traps before anything is written. -/
theorem jumpsLinkAndTrapOnMisalignment : Obligations.JumpsLinkAndTrapOnMisalignment := by
  refine ⟨fun s d off => ⟨rfl, ?_⟩, fun s d a imm => ?_⟩
  · obtain ⟨t, ht, h⟩ := jumpTo_next (u := s) (OnlyThread.refl s s.me) d (s.pc + off.signExtend 64 * 4)
    rw [pc_add_words_eq s.pc off (by decide)] at h
    exact ⟨t, ht, h⟩
  · intro target
    have htarget : s.gpr a + imm.signExtend 64 = target := add_signExtend_eq _ imm (by decide)
    have hexec : exec (.jalr d a imm) s = if target.toNat % 4 ≠ 0 then s.raise (wordOf (.jalr d a imm)) codeMISALIGN target
        else jumpTo (popReturn s d a imm target) d target := by
      rw [← htarget]
      rfl
    refine ⟨rfl, fun haligned => ?_, fun hmisaligned => ?_⟩
    · rw [if_neg (not_not.mpr haligned)] at hexec
      obtain ⟨stack, hpop⟩ := popReturn_onlyThread s d a imm target
      obtain ⟨t, ht, hpc, hlink, hframe, hpredictor, hcycle⟩ := jumpTo_next hpop d target
      exact ⟨t, hexec.trans ht, hpc, hlink, hframe, hpredictor, hcycle.trans (afterJump_return s d a imm target)⟩
    · rw [if_pos hmisaligned, raise_eq_trapThread _ _ (by decide)] at hexec
      exact ⟨_, hexec, s.sameRegs_trapThread _ _ _ _ _ _, rfl⟩

end Sys2Proof.Machine
end

section
/-! Translation and reading through the coherent path (R203 to R208): what they leave as it was. -/

namespace Sys2Proof.Machine

/-- A quantity of the state that each step of a fold over a state and more keeps. -/
theorem foldl_fst_keeps {α β γ : Type} {g : State → β} {f : State × γ → α → State × γ} (hf : ∀ acc x, g (f acc x).1 = g acc.1) (l : List α)
    (acc : State × γ) : g (l.foldl f acc).1 = g acc.1 := by
  induction l generalizing acc with
  | nil => rfl
  | cons x l ih => exact (ih _).trans (hf acc x)

namespace State

/-- The state but for memory, caches, and what the cores, slices and TLBs hold: what an access that performs no store leaves as it was. -/
def offPath (s : State) : State := { s with mem := [], cores := [], corePlaces := [], slices := [], llTlb := [] }

variable (s : State) (c : Nat)

theorem offPath_setSet (line : Nat) (l : List WaySt) : (s.setSet c line l).offPath = s.offPath := rfl

theorem offPath_hubWriteBack (line data mask : Nat) : (s.hubWriteBack line data mask).offPath = s.offPath := rfl

theorem offPath_modCore (f : CoreSt → CoreSt) : (s.modCore c f).offPath = s.offPath := rfl

theorem offPath_sliceFill (tenant line data dirty : Nat) : (s.sliceFill c tenant line data dirty).1.offPath = s.offPath := by
  unfold sliceFill
  dsimp only
  split
  · rfl
  · refine (offPath_setSet _ c line _).trans ?_
    split
    · split <;> rfl
    · rfl

theorem offPath_countLookup (tenant line : Nat) (hit : Bool) : (s.countLookup c tenant line hit).offPath = s.offPath := by
  unfold countLookup
  dsimp only
  split <;> rfl

theorem offPath_takeCopies (keeper : Option Nat) (line : Nat) (all : Bool) : (s.takeCopies c keeper line all).1.offPath = s.offPath := by
  unfold takeCopies
  refine foldl_fst_keeps (g := offPath) (fun acc x => ?_) _ (s, 0, 0)
  dsimp only
  split
  · rfl
  · split
    · split <;> rfl
    · refine (offPath_modCore _ x _).trans ?_
      split <;> rfl

theorem offPath_l1WriteBack (l : LineSt) : (s.l1WriteBack c l).offPath = s.offPath := by
  unfold l1WriteBack
  dsimp only
  split
  · rfl
  · split
    · rfl
    · split
      · exact s.offPath_sliceFill c _ _ _ _
      · exact (offPath_hubWriteBack _ _ _ _).trans (s.offPath_sliceFill c _ _ _ _)

theorem offPath_l1Put (l : LineSt) : (s.l1Put c l).offPath = s.offPath := by
  unfold l1Put
  dsimp only
  split
  · rfl
  · split
    · rfl
    · exact (offPath_l1WriteBack _ c _).trans rfl

theorem offPath_sliceAccess (tenant line : Nat) (forStore : Bool) : (s.sliceAccess c tenant line forStore).1.offPath = s.offPath := by
  unfold sliceAccess
  dsimp only
  split
  · exact (offPath_setSet _ c _ _).trans ((offPath_takeCopies _ c _ _ _).trans (s.offPath_countLookup c _ _ _))
  · exact (offPath_sliceFill _ c _ _ _ _).trans ((offPath_takeCopies _ c _ _ _).trans (s.offPath_countLookup c _ _ _))

theorem offPath_lookupLine (tenant line : Nat) : (s.lookupLine c tenant line).1.offPath = s.offPath := by
  unfold lookupLine
  dsimp only
  split <;> exact s.offPath_sliceAccess c tenant line false

theorem offPath_l1Access (tenant line : Nat) (forStore : Bool) : (s.l1Access c tenant line forStore).1.offPath = s.offPath := by
  unfold l1Access
  dsimp only
  split
  · split
    · exact (offPath_l1Put _ c _).trans (s.offPath_takeCopies c _ _ _)
    · exact s.offPath_l1Put c _
  · exact (offPath_l1Put _ c _).trans (s.offPath_sliceAccess c _ _ _)

theorem offPath_readTarget (tenant : Nat) (t : Target) (n : Nat) : (s.readTarget c tenant t n).1.offPath = s.offPath := by
  unfold readTarget
  dsimp only
  split
  · rfl
  · exact s.offPath_l1Access c tenant _ false

theorem offPath_walk (tenant root asid va fuel level : Nat) : (s.walk c tenant root asid va fuel level).1.offPath = s.offPath := by
  induction fuel generalizing s root level with
  | zero => rfl
  | succ fuel ih =>
    unfold walk
    dsimp only
    split
    · rfl
    · have hread : ∀ line data mask : Nat, (if mask = 0 then (s.lookupLine c tenant line).1 else
          (s.lookupLine c tenant line).1.hubWriteBack line data mask).offPath = s.offPath := fun line data mask => by
        split
        · exact s.offPath_lookupLine c tenant line
        · exact (offPath_hubWriteBack _ _ _ _).trans (s.offPath_lookupLine c tenant line)
      split
      · exact hread _ _ _
      · split
        · split
          · exact hread _ _ _
          · exact (ih _ _ _).trans (hread _ _ _)
        · split <;> exact hread _ _ _

theorem offPath_llInsert (die quota : Nat) (e : TlbEntry) : (s.llInsert die quota e).offPath = s.offPath := by
  unfold llInsert
  dsimp only
  split <;> rfl

theorem offPath_findLeaf (tenant place root asid va : Nat) : (s.findLeaf c tenant place root asid va).1.offPath = s.offPath := by
  unfold findLeaf
  dsimp only
  split
  · rfl
  · split
    · rfl
    · split
      · rfl
      · split
        · exact s.offPath_walk c tenant root asid va 4 0
        · exact (offPath_modCore _ c _).trans ((offPath_llInsert _ _ _ _).trans (s.offPath_walk c tenant root asid va 4 0))

theorem offPath_translate (tenant place root asid va : Nat) (need : Need) : (s.translate c tenant place root asid va need).1.offPath = s.offPath := by
  unfold translate
  dsimp only
  split
  · exact s.offPath_findLeaf c tenant place root asid va
  · split <;> exact s.offPath_findLeaf c tenant place root asid va

/-- R206: resolving an address changes the path to memory alone. -/
theorem offPath_resolve (k : Nat) (va : Word) (need : Need) : (s.resolve k va need).1.offPath = s.offPath := by
  unfold resolve
  dsimp only
  split
  · split
    · split <;> rfl
    · split <;> rfl
  · exact s.offPath_translate _ _ _ _ _ _ _

/-! ### Reading what lies off the path -/

variable {s} {t : State} (h : t.offPath = s.offPath)
include h

theorem threads_of_offPath : t.threads = s.threads := (congrArg State.threads h :)

theorem thread_of_offPath (k : Nat) : t.thread k = s.thread k := congrArg (fun l => Table.getD l k (ThreadSt.reset k)) (threads_of_offPath h)

theorem focus_of_offPath : t.focus = s.focus := (congrArg State.focus h :)

theorem me_of_offPath : t.me = s.me := congrArg Focus.thread (focus_of_offPath h)

theorem cycle_of_offPath : t.cycle = s.cycle := (congrArg State.cycle h :)

theorem cur_of_offPath : t.cur = s.cur := by
  rw [cur, cur, me_of_offPath h, thread_of_offPath h]

theorem lineTenant_of_offPath (k : Nat) : t.lineTenant k = s.lineTenant k := by
  rw [lineTenant, lineTenant, thread_of_offPath h]

theorem gprOf_of_offPath (k : Nat) (r : Reg) : t.gprOf k r = s.gprOf k r := by
  rw [gprOf_eq, gprOf_eq, thread_of_offPath h]

theorem sameRegs_of_offPath : s.sameRegs t := fun k r => gprOf_of_offPath h k r

end State

/-- What a thread's step does from a state that an access has reached, it does from the state before the access. -/
theorem ThreadFrame.of_offPath {s u t : State} {d : Reg} (h : u.offPath = s.offPath) (hframe : ThreadFrame u t d) : ThreadFrame s t d where
  registers := by
    intro j r hjr
    rw [hframe.registers j r (by rw [State.me_of_offPath h]; exact hjr), State.gprOf_of_offPath h]
  thread := by
    have hthread := hframe.thread
    rw [State.cur_of_offPath h] at hthread
    exact hthread
  others := by
    intro k hk
    rw [hframe.others k (by rw [State.me_of_offPath h]; exact hk), State.thread_of_offPath h]
  focus := hframe.focus.trans (State.focus_of_offPath h)

/-- R25: an instruction whose checks have failed on the path to memory takes its trap. -/
theorem traps_of_raise_offPath {i : Instr} {s r : State} {code : Nat} {value : Word} (h : r.offPath = s.offPath)
    (hexec : exec i s = r.raise (wordOf i) code value) : Traps i s r code value := by
  refine ⟨_, hexec, ?_, State.sameRegs_trans (State.sameRegs_of_offPath h) (r.sameRegs_trapThread _ _ _ _ _ _)⟩
  rw [State.me_of_offPath h]
  rfl

/-- R21: an address that resolves to local memory has left the path as it was. -/
theorem resolve_of_isLocal {s : State} {k : Nat} {va : Word} {need : Need} {g : Target} (h : (s.resolve k va need).2 = .ok g) (hg : g.isLocal = true) :
    (s.resolve k va need).1 = s := by
  by_cases hva : va.toNat < 0x100000
  · rw [resolve_local s k va need hva]
  · exfalso
    unfold State.resolve at h
    rw [if_neg hva] at h
    dsimp only at h
    cases hx : (s.translate (coreOf k) (s.lineTenant k) (s.placeOfThread k) (s.rootOf k) (s.asidOf k) va.toNat need).2 with
    | error code =>
      rw [hx] at h
      cases h
    | ok x =>
      rw [hx] at h
      cases h
      cases hg

end Sys2Proof.Machine
end

section
/-! Bytes of a load: memory with the core's buffered stores over it, extended to a word (R59, R243). -/

namespace Sys2Proof.Machine

/-! ### Byte `j` of a number -/

/-- R59: byte `j` of a number. -/
def byteOf (v j : Nat) : Nat := v / 256 ^ j % 256

theorem byteOf_zero (v : Nat) : byteOf v 0 = v % 256 := by
  rw [byteOf, Nat.pow_zero, Nat.div_one]

theorem byteOf_succ (v j : Nat) : byteOf v (j + 1) = byteOf (v / 256) j := by
  rw [byteOf, byteOf, Nat.div_div_eq_div_mul, Nat.pow_succ']

theorem byteOf_cons {b : Nat} (hb : b < 256) (v j : Nat) : byteOf (b + 256 * v) j = if j = 0 then b else byteOf v (j - 1) := by
  cases j with
  | zero =>
    rw [byteOf_zero, if_pos rfl]
    omega
  | succ j =>
    rw [byteOf_succ, if_neg (Nat.succ_ne_zero j), Nat.add_sub_cancel, show (b + 256 * v) / 256 = v by omega]

theorem byteOf_read (m : List Host.Cell) (a n j : Nat) (hj : j < n) : byteOf (Memory.read m a n) j = (Memory.get m (a + j)).toNat := by
  induction n generalizing a j with
  | zero => omega
  | succ n ih =>
    rw [Memory.read, byteOf_cons (Memory.get m a).isLt]
    cases j with
    | zero => rfl
    | succ j =>
      rw [if_neg (Nat.succ_ne_zero j), Nat.add_sub_cancel, ih _ _ (by omega), show a + 1 + j = a + (j + 1) by omega]

theorem byteOf_mergeBytes (base data mask n j : Nat) (hj : j < n) :
    byteOf (mergeBytes base data mask n) j = if mask.testBit j then byteOf data j else byteOf base j := by
  induction n generalizing base data mask j with
  | zero => omega
  | succ n ih =>
    have hlow : (if mask % 2 = 1 then data % 256 else base % 256) < 256 := by split <;> exact Nat.mod_lt _ (by decide)
    rw [mergeBytes, byteOf_cons hlow]
    cases j with
    | zero => simp only [if_pos, byteOf_zero, Nat.testBit_zero, decide_eq_true_eq]
    | succ j =>
      rw [if_neg (Nat.succ_ne_zero j), Nat.add_sub_cancel, ih _ _ _ _ (by omega), Nat.testBit_succ, byteOf_succ, byteOf_succ]

/-! ### Buffered stores over memory (R243) -/

/-- R243: what one buffered store does to the bytes of a load. -/
def overlayOne (a n v : Nat) (e : StoreSt) : Nat :=
  (List.range e.size).foldl (fun v i =>
    let b := e.addr + i
    if a ≤ b ∧ b < a + n then mergeBytes v (bits e.value (8 * i) 8 * 256 ^ (b - a)) (2 ^ (b - a)) n else v) v

theorem overlay_eq (stores : List StoreSt) (a n base : Nat) : State.overlay stores a n base = stores.foldl (overlayOne a n) base := rfl

/-- R59: eight bits of a number from a multiple of eight are a byte of it. -/
theorem bits_eq_byteOf (v m : Nat) : bits v (8 * m) 8 = byteOf v m := by
  rw [bits, byteOf, Nat.pow_mul, show 2 ^ 8 = 256 from rfl]

theorem byteOf_shifted (v m j : Nat) : byteOf (byteOf v m * 256 ^ j) j = byteOf v m := by
  rw [byteOf, Nat.mul_div_cancel _ (by positivity), byteOf, Nat.mod_mod]

/-- R243: a store puts its byte over the load's byte at the same address. -/
theorem byteOf_overlayOne (a n v j : Nat) (e : StoreSt) (hj : j < n) : byteOf (overlayOne a n v e) j =
    if e.addr ≤ a + j ∧ a + j < e.addr + e.size then byteOf e.value (a + j - e.addr) else byteOf v j := by
  have hfold : ∀ m : Nat, byteOf ((List.range m).foldl (fun v i => if a ≤ e.addr + i ∧ e.addr + i < a + n then
      mergeBytes v (bits e.value (8 * i) 8 * 256 ^ (e.addr + i - a)) (2 ^ (e.addr + i - a)) n else v) v) j =
      if e.addr ≤ a + j ∧ a + j < e.addr + m then byteOf e.value (a + j - e.addr) else byteOf v j := by
    intro m
    induction m with
    | zero =>
      rw [if_neg (by omega)]
      rfl
    | succ m ih =>
      rw [List.range_succ, List.foldl_append, List.foldl_cons, List.foldl_nil]
      by_cases hat : e.addr + m = a + j
      · rw [if_pos (by omega), byteOf_mergeBytes _ _ _ _ _ hj, show e.addr + m - a = j by omega, Nat.testBit_two_pow_self, if_pos rfl,
          bits_eq_byteOf, byteOf_shifted, if_pos (by omega), show a + j - e.addr = m by omega]
      · have hiff : (e.addr ≤ a + j ∧ a + j < e.addr + (m + 1)) ↔ (e.addr ≤ a + j ∧ a + j < e.addr + m) := by omega
        simp only [hiff]
        split
        · next hin => rw [byteOf_mergeBytes _ _ _ _ _ hj, Nat.testBit_two_pow_of_ne (by omega), if_neg Bool.false_ne_true, ih]
        · exact ih
  exact hfold e.size

end Sys2Proof.Machine
end

section
/-! O9: loads from local memory and through an outstanding load, and LOAD_RETURN (R35, R59, R60). -/

namespace Sys2Proof.Machine

/-! ### The bytes that a load sees (R243) -/

/-- R243: over several buffered stores, the newest that covers a byte gives it. -/
theorem byteOf_overlay (stores : List StoreSt) (a n base j : Nat) (hj : j < n) : byteOf (State.overlay stores a n base) j =
    match stores.reverse.find? fun e => decide (e.addr ≤ a + j) && decide (a + j < e.addr + e.size) with
    | some e => byteOf e.value (a + j - e.addr)
    | none => byteOf base j := by
  rw [overlay_eq]
  induction stores using List.reverseRecOn with
  | nil => rfl
  | append_singleton stores e ih =>
    rw [List.foldl_append, List.foldl_cons, List.foldl_nil, byteOf_overlayOne _ _ _ _ _ hj, ih, List.reverse_append, List.reverse_singleton,
      List.singleton_append, List.find?_cons]
    by_cases hcover : e.addr ≤ a + j ∧ a + j < e.addr + e.size
    · rw [if_pos hcover, show (decide (e.addr ≤ a + j) && decide (a + j < e.addr + e.size)) = true by simp [hcover]]
    · rw [if_neg hcover, show (decide (e.addr ≤ a + j) && decide (a + j < e.addr + e.size)) = false by simpa using hcover]

/-- R243: a byte of local memory under the core's buffered stores is the byte that the core's threads see. -/
theorem ofNat_byteOf_overlay (s : State) (c a n j : Nat) (hj : j < n) :
    BitVec.ofNat 8 (byteOf (State.overlay (s.core c).stores a n (Memory.read s.mem a n)) j) = s.seenByte c (a + j) := by
  rw [byteOf_overlay _ _ _ _ _ hj, byteOf_read _ _ _ _ hj]
  unfold State.seenByte
  cases List.find? (fun e : StoreSt => decide (e.addr ≤ a + j) && decide (a + j < e.addr + e.size)) (s.core c).stores.reverse with
  | some e => exact BitVec.eq_of_toNat_eq (Nat.mod_mod _ _)
  | none => exact (BitVec.ofNat_toNat _ _).trans (BitVec.setWidth_eq _)

/-! ### The value of a load (R35) -/

/-- R35: the value of a load is the sign or zero extension of its bytes. -/
theorem extendLoad_eq (sx : Bool) (sz : MemSize) (w : Nat) : extendLoad sx (sizeBytes sz) w =
    if sx then (BitVec.ofNat (8 * sizeBytes sz) w).signExtend 64 else (BitVec.ofNat (8 * sizeBytes sz) w).setWidth 64 := by
  cases sx with
  | false => cases sz <;> exact BitVec.eq_of_toNat_eq (by simp [extendLoad, wd, sizeBytes])
  | true =>
    apply BitVec.eq_of_toNat_eq
    rw [if_pos rfl, BitVec.toNat_signExtend, BitVec.msb_eq_decide]
    cases sz with
    | dword => simp [extendLoad, wd, sizeBytes, bits]
    | byte | half | word =>
      simp only [extendLoad, wd, sizeBytes, bits, apply_ite BitVec.toNat, BitVec.toNat_setWidth, BitVec.toNat_ofNat, Bool.true_and, beq_iff_eq,
        decide_eq_true_eq]
      split <;> split <;> omega

theorem extendLoad_low (sx : Bool) (sz : MemSize) (w : Nat) :
    (extendLoad sx (sizeBytes sz) w).toNat % 256 ^ sizeBytes sz = w % 256 ^ sizeBytes sz := by
  rw [extendLoad_eq]
  cases sx with
  | false => cases sz <;> simp [sizeBytes]
  | true =>
    rw [if_pos rfl, BitVec.toNat_signExtend, BitVec.toNat_setWidth, BitVec.toNat_ofNat]
    split <;> cases sz <;> simp only [sizeBytes] <;> omega

/-- R35: above its bytes a load's value repeats their highest bit, or is 0. -/
theorem getLsbD_extendLoad (sx : Bool) (sz : MemSize) (w j : Nat) (hj : j < 64) (hn : 8 * sizeBytes sz ≤ j) :
    (extendLoad sx (sizeBytes sz) w).getLsbD j = (sx && (extendLoad sx (sizeBytes sz) w).getLsbD (8 * sizeBytes sz - 1)) := by
  have hpos : 0 < sizeBytes sz := by cases sz <;> decide
  rw [extendLoad_eq]
  cases sx with
  | false => simp [BitVec.getLsbD_setWidth, BitVec.getLsbD_of_ge _ _ hn]
  | true =>
    rw [if_pos rfl, BitVec.getLsbD_signExtend, BitVec.getLsbD_signExtend, if_neg (by omega), if_pos (by omega), BitVec.msb_eq_getLsbD_last]
    simp [hj, show 8 * sizeBytes sz - 1 < 64 by omega]

/-- R59: the low bytes of a number decide its low bytes. -/
theorem byteOf_mod (v n j : Nat) (hj : j < n) : byteOf (v % 256 ^ n) j = byteOf v j := by
  have hsplit : 256 ^ n = 256 ^ j * (256 * 256 ^ (n - j - 1)) := by
    rw [← Nat.pow_succ', ← Nat.pow_add]
    congr 1
    omega
  rw [byteOf, byteOf, hsplit, Nat.mod_mul_right_div_self, Nat.mod_mul_right_mod]

theorem extractLsb'_eq_byteOf (v : Word) (j : Nat) : v.extractLsb' (8 * j) 8 = BitVec.ofNat 8 (byteOf v.toNat j) := by
  apply BitVec.eq_of_toNat_eq
  rw [BitVec.extractLsb'_toNat, BitVec.toNat_ofNat, Nat.shiftRight_eq_div_pow, Nat.pow_mul]
  exact (Nat.mod_mod _ _).symm

/-- R35, R59: the bytes of a load's value are those that were read. -/
theorem extractLsb'_extendLoad (sx : Bool) (sz : MemSize) (w j : Nat) (hj : j < sizeBytes sz) :
    (extendLoad sx (sizeBytes sz) w).extractLsb' (8 * j) 8 = BitVec.ofNat 8 (byteOf w j) := by
  rw [extractLsb'_eq_byteOf, ← byteOf_mod _ _ _ hj, extendLoad_low, byteOf_mod _ _ _ hj]

/-! ### LD (R59, R60) -/

/-- R31, R59: the address of LD and ST. -/
theorem memAddr_eq (s : State) (a : Reg) (off : BitVec 13) : memAddr s a off = BitVec.ofInt 64 ((s.gpr a).toInt + off.toInt) :=
  add_signExtend_eq _ _ (by decide)

/-- R340: the code of POISON, below its flags and source. -/
theorem poisonAt_mod (s : State) (g : Target) : s.poisonAt g % 256 = 0x11 := by
  unfold State.poisonAt
  split
  · rfl
  · simp only [State.poisonCode, codePOISON, State.sourceEdge, flagRETIRED, flagSHARED]
    omega

variable {s : State} {sz : MemSize} {sx : Bool} {d a : Reg} {off : BitVec 13}

/-- R59: LD of an aligned address that resolves, with the rest of its checks and its two ends. -/
theorem exec_ld_of_resolved {g : Target} (haligned : (memAddr s a off).toNat % sizeBytes sz = 0)
    (h : (s.resolve s.me (memAddr s a off) .load).2 = .ok g) : exec (.ld sz sx d a off) s =
      let r := (s.resolve s.me (memAddr s a off) .load).1
      let x := r.readTarget s.myCore (s.lineTenant s.me) g (sizeBytes sz)
      let v := extendLoad sx (sizeBytes sz) x.2
      if r.loadPoisoned g (sizeBytes sz) then r.raisePoison (wordOf (.ld sz sx d a off)) (memAddr s a off) g
      else if g.isLocal then x.1.finishLate d v 2 else .next ((x.1.issueLoad d v 3).advance) := by
  refine (if_neg (not_not.mpr haligned)).trans ?_
  rw [h]
  rfl

theorem ld_of_misaligned (h : (memAddr s a off).toNat % sizeBytes sz ≠ 0) : Traps (.ld sz sx d a off) s s 0x03 (memAddr s a off) :=
  traps_of_raise (if_pos h)

theorem ld_of_unresolved {code : Nat} (haligned : (memAddr s a off).toNat % sizeBytes sz = 0)
    (h : (s.resolve s.me (memAddr s a off) .load).2 = .error code) :
    Traps (.ld sz sx d a off) s (s.resolve s.me (memAddr s a off) .load).1 code (memAddr s a off) := by
  refine traps_of_raise_offPath (s.offPath_resolve _ _ _) ((if_neg (not_not.mpr haligned)).trans ?_)
  rw [h]

/-- R361: a poisoned load. -/
theorem ld_of_poisoned {g : Target} (haligned : (memAddr s a off).toNat % sizeBytes sz = 0)
    (h : (s.resolve s.me (memAddr s a off) .load).2 = .ok g) (hpoison : (s.resolve s.me (memAddr s a off) .load).1.loadPoisoned g (sizeBytes sz) = true) :
    ∃ t f, exec (.ld sz sx d a off) s = .next t ∧
      t = (s.resolve s.me (memAddr s a off) .load).1.trapThread s.me false 0x11 (memAddr s a off) f false ∧ s.sameRegs t := by
  have hoff := s.offPath_resolve s.me (memAddr s a off) .load
  obtain ⟨t, ht, htrap, hregs⟩ := traps_of_raise_offPath hoff ((exec_ld_of_resolved haligned h).trans (if_pos hpoison))
  rw [poisonAt_mod] at htrap
  exact ⟨t, _, ht, htrap, hregs⟩

/-- R53, R59: a load from local memory. -/
theorem ld_of_local {g : Target} (haligned : (memAddr s a off).toNat % sizeBytes sz = 0)
    (h : (s.resolve s.me (memAddr s a off) .load).2 = .ok g) (hpoison : (s.resolve s.me (memAddr s a off) .load).1.loadPoisoned g (sizeBytes sz) = false)
    (hlocal : g.isLocal = true) : ∃ v, WritesLate (.ld sz sx d a off) s d v 2 ∧
      (∀ j < sizeBytes sz, v.extractLsb' (8 * j) 8 = s.seenByte s.myCore (g.addr + j)) ∧
      ∀ j < 64, 8 * sizeBytes sz ≤ j → v.getLsbD j = (sx && v.getLsbD (8 * sizeBytes sz - 1)) := by
  have hexec := exec_ld_of_resolved (sx := sx) (d := d) haligned h
  have hread : s.readTarget s.myCore (s.lineTenant s.me) g (sizeBytes sz) =
      (s, State.overlay (s.core s.myCore).stores g.addr (sizeBytes sz) (Memory.read s.mem g.addr (sizeBytes sz))) := by
    rw [State.readTarget, hlocal]
    rfl
  rw [resolve_of_isLocal h hlocal] at hexec hpoison
  dsimp only at hexec
  rw [hpoison, hlocal, hread, if_neg Bool.false_ne_true, if_pos rfl] at hexec
  exact ⟨_, writesLate_of_finishLate hexec rfl, fun j hj => (extractLsb'_extendLoad _ _ _ _ hj).trans (ofNat_byteOf_overlay _ _ _ _ _ hj),
    fun j hj hn => getLsbD_extendLoad _ _ _ _ hj hn⟩

/-! ### Outstanding loads (R60) -/

/-- R60: the oldest outstanding load of thread `k` has returned, and `rest` is left. -/
def State.popLoad (s : State) (k : Nat) (l : LoadSt) (rest : List LoadSt) : State :=
  (s.setGprOf k l.gd l.value).modThread k fun x => { x with loads := rest }

/-- R60: a load joins the outstanding ones. -/
def addLoad (e : LoadSt) (x : ThreadSt) : ThreadSt := { x with loads := x.loads ++ [e] }

theorem sameRegsBut_popLoad (s : State) (k : Nat) (l : LoadSt) (rest : List LoadSt) : s.sameRegsBut (s.popLoad k l rest) k l.gd :=
  State.sameRegsBut_trans (s.sameRegsBut_setGprOf _ _ _) (State.sameRegsBut_of_sameRegs (State.sameRegs_modThread rfl) _ _)

theorem gprOf_popLoad (s : State) (k : Nat) (l : LoadSt) (rest : List LoadSt) :
    (s.popLoad k l rest).gprOf k l.gd = if l.gd = 0 then 0 else l.value :=
  (State.sameRegs_modThread rfl _ _).trans (State.gprOf_setGprOf_self s k l.gd l.value)

theorem onlyThread_popLoad (s : State) (k : Nat) (l : LoadSt) (rest : List LoadSt) :
    ∃ g, OnlyThread s (s.popLoad k l rest) k { s.thread k with gpr := g, loads := rest } := by
  obtain ⟨g, hwrite⟩ := onlyThread_setGprOf s k l.gd l.value
  exact ⟨g, hwrite.modThread _⟩

theorem exec_loadReturn {s : State} {l : LoadSt} {rest : List LoadSt} (h : (s.thread s.focus.thread).loads = l :: rest) :
    exec .loadReturn s = .next (s.popLoad s.focus.thread l rest) := by
  change execLoadReturn s = _
  unfold execLoadReturn
  dsimp only
  rw [h]
  rfl

/-- R60: with fewer than four outstanding loads a further one joins them. -/
theorem issueLoad_of_room {s : State} (v : Word) (lat : Nat) (h : s.cur.loads.length < 4) :
    s.issueLoad d v lat = s.modMe (addLoad { gd := d, value := v, readyAt := s.cycle + lat }) := by
  rw [State.issueLoad, if_pos h]
  rfl

/-- R60: with four the oldest returns first. -/
theorem issueLoad_of_full {s : State} (v : Word) (lat : Nat) {l : LoadSt} {rest : List LoadSt} (h : s.cur.loads = l :: rest)
    (hfull : 3 ≤ rest.length) : s.issueLoad d v lat =
      (s.popLoad s.me l rest).modMe (addLoad { gd := d, value := v, readyAt := s.cycle + lat }) := by
  have hpop : s.popLoad s.me l rest = (s.setGpr l.gd l.value).modMe fun x => { x with loads := rest } := by
    obtain ⟨g, hwrite⟩ := onlyThread_setGprOf s s.me l.gd l.value
    rw [State.modMe, State.setGpr, hwrite.me]
    rfl
  have hcount : ¬ s.cur.loads.length < 4 := by
    rw [h, List.length_cons]
    omega
  rw [State.issueLoad, if_neg hcount, h, hpop]
  rfl

/-- R60: a load from translated memory becomes the newest outstanding one; a fifth lets the oldest return first. -/
theorem ld_of_translated {g : Target} (haligned : (memAddr s a off).toNat % sizeBytes sz = 0)
    (h : (s.resolve s.me (memAddr s a off) .load).2 = .ok g) (hpoison : (s.resolve s.me (memAddr s a off) .load).1.loadPoisoned g (sizeBytes sz) = false)
    (hfar : g.isLocal = false) : ∃ (u t : State) (v : Word), exec (.ld sz sx d a off) s = .next t ∧ u.offPath = s.offPath ∧ t = (u.issueLoad d v 3).advance ∧
      v = extendLoad sx (sizeBytes sz)
        ((s.resolve s.me (memAddr s a off) .load).1.readTarget s.myCore (s.lineTenant s.me) g (sizeBytes sz)).2 := by
  have hexec := exec_ld_of_resolved (sx := sx) (d := d) haligned h
  dsimp only at hexec
  rw [hpoison, hfar, if_neg Bool.false_ne_true, if_neg Bool.false_ne_true] at hexec
  exact ⟨_, _, _, hexec, (State.offPath_readTarget _ _ _ _ _).trans (s.offPath_resolve _ _ _), rfl, rfl⟩

theorem pc_issueLoad_advance (u : State) (d : Reg) (v : Word) : ((u.issueLoad d v 3).advance).pc = u.pc + 4 := by
  by_cases hroom : u.cur.loads.length < 4
  · rw [issueLoad_of_room v 3 hroom, ((OnlyThread.refl u u.me).modMe _).advance.pc]
    rfl
  · obtain ⟨l, rest, hloads⟩ : ∃ l rest, u.cur.loads = l :: rest := List.exists_cons_of_length_pos (by omega)
    have hfull : 3 ≤ rest.length := by
      rw [hloads, List.length_cons] at hroom
      omega
    obtain ⟨g, hpop⟩ := onlyThread_popLoad u u.me l rest
    rw [issueLoad_of_full v 3 hloads hfull, (hpop.modMe _).advance.pc]
    rfl

/-- R60: what the state is after a load has joined the outstanding ones. -/
theorem issueLoad_advance_of_room {u : State} (v : Word) (h : u.cur.loads.length < 4) :
    ((u.issueLoad d v 3).advance).cur.loads = u.cur.loads ++ [{ gd := d, value := v, readyAt := u.cycle + 3 }] ∧
      u.sameRegs (u.issueLoad d v 3).advance ∧ ThreadFrame u (u.issueLoad d v 3).advance 0 := by
  rw [issueLoad_of_room v 3 h]
  have hend := ((OnlyThread.refl u u.me).modMe (addLoad { gd := d, value := v, readyAt := u.cycle + 3 })).advance
  have hregs := hend.sameRegs rfl
  exact ⟨congrArg ThreadSt.loads hend.cur, hregs, hend.threadFrame rfl (State.sameRegsBut_of_sameRegs hregs _ _)⟩

/-- R60: what it is after a fifth load, the oldest having returned. -/
theorem issueLoad_advance_of_full {u : State} (v : Word) {l : LoadSt} {rest : List LoadSt} (h : u.cur.loads = l :: rest) (hfull : 3 ≤ rest.length) :
    ((u.issueLoad d v 3).advance).cur.loads = rest ++ [{ gd := d, value := v, readyAt := u.cycle + 3 }] ∧
      ((u.issueLoad d v 3).advance).gpr l.gd = (if l.gd = 0 then 0 else l.value) ∧ ThreadFrame u (u.issueLoad d v 3).advance l.gd := by
  obtain ⟨g, hpop⟩ := onlyThread_popLoad u u.me l rest
  rw [issueLoad_of_full v 3 h hfull]
  have hend := (hpop.modMe (addLoad { gd := d, value := v, readyAt := u.cycle + 3 })).advance
  have hregs := ((OnlyThread.refl (u.popLoad u.me l rest) _).modMe (addLoad { gd := d, value := v, readyAt := u.cycle + 3 })).advance.sameRegs rfl
  refine ⟨congrArg ThreadSt.loads hend.cur, ?_, hend.threadFrame rfl ?_⟩
  · rw [hend.gpr, ← gprOf_popLoad u u.me l rest]
    exact hregs _ _
  · exact State.sameRegsBut_trans (sameRegsBut_popLoad u u.me l rest) (State.sameRegsBut_of_sameRegs hregs _ _)

/-- R60: LOAD_RETURN. -/
theorem loadReturn_pops {s : State} {l : LoadSt} {rest : List LoadSt} (h : (s.thread s.focus.thread).loads = l :: rest) :
    let k := s.focus.thread
    ∃ t, exec .loadReturn s = .next t ∧ t.gprOf k l.gd = (if l.gd = 0 then 0 else l.value) ∧ (t.thread k).loads = rest ∧ s.sameRegsBut t k l.gd ∧
      { t.thread k with gpr := (s.thread k).gpr, loads := (s.thread k).loads } = s.thread k ∧ (∀ j, j ≠ k → t.thread j = s.thread j) ∧
      { t with threads := s.threads } = s ∧ s.sameBytes t := by
  obtain ⟨g, hpop⟩ := onlyThread_popLoad s s.focus.thread l rest
  refine ⟨_, exec_loadReturn h, gprOf_popLoad _ _ _ _, ?_, sameRegsBut_popLoad _ _ _ _, ?_, hpop.others, hpop.machine, hpop.sameBytes⟩
  · rw [hpop.thread]
  · rw [hpop.thread]

/-- Settles O9, by the checks of LD in their order, then by the memory that its address resolves to. -/
theorem loadsGiveTheBytesOrTrap : Obligations.LoadsGiveTheBytesOrTrap := by
  unfold Obligations.LoadsGiveTheBytesOrTrap
  refine ⟨fun s sz sx d a off => ?_, fun s l rest => loadReturn_pops⟩
  rw [← memAddr_eq]
  refine ⟨ld_of_misaligned, fun haligned code => ld_of_unresolved haligned, fun haligned g hg => ⟨ld_of_poisoned haligned hg, ?_, ?_⟩⟩
  · exact fun hpoison hlocal => ld_of_local haligned hg hpoison hlocal
  · intro hpoison hfar
    obtain ⟨u, t, v, hexec, hoff, rfl, hv⟩ := ld_of_translated (sx := sx) (d := d) haligned hg hpoison hfar
    have hcur := State.cur_of_offPath hoff
    have hcycle := State.cycle_of_offPath hoff
    refine ⟨_, v, hexec, ?_, ?_, ?_, fun hroom => ?_, fun l rest hloads hfull => ?_⟩
    · rw [pc_issueLoad_advance, State.pc, hcur]
      rfl
    · rw [hv]
      exact extendLoad_low sx sz _
    · rw [hv]
      exact fun j hj hn => getLsbD_extendLoad sx sz _ j hj hn
    · rw [← hcur] at hroom ⊢
      obtain ⟨hlist, hregs, hframe⟩ := issueLoad_advance_of_room (d := d) v hroom
      exact ⟨hcycle ▸ hlist, State.sameRegs_trans (State.sameRegs_of_offPath hoff) hregs, hframe.of_offPath hoff⟩
    · rw [← hcur] at hloads
      obtain ⟨hlist, hreturned, hframe⟩ := issueLoad_advance_of_full (d := d) v hloads hfull
      exact ⟨hcycle ▸ hlist, hreturned, hframe.of_offPath hoff⟩

end Sys2Proof.Machine
end

section
/-! O10: stores enter the core's store buffer (R59, R243). -/

namespace Sys2Proof.Machine

/-! ### Woken threads (R227) -/

namespace WokenAs

variable {x y : ThreadSt} (h : WokenAs x y)
include h

theorem gpr_eq : y.gpr = x.gpr := by
  rcases h with rfl | ⟨-, rfl⟩ <;> rfl

theorem pc_eq : y.pc = x.pc := by
  rcases h with rfl | ⟨-, rfl⟩ <;> rfl

theorem loads_eq : y.loads = x.loads := by
  rcases h with rfl | ⟨-, rfl⟩ <;> rfl

/-- R227: a thread that has gone on to the next word is, but for its pc, as it was, woken or not. -/
theorem of_advanced : WokenAs x { y with gpr := x.gpr, pc := x.pc, loads := x.loads } := by
  rcases h with rfl | ⟨hasleep, rfl⟩
  · exact .inl rfl
  · exact .inr ⟨hasleep, rfl⟩

end WokenAs

/-! ### Room in the buffer (R243) -/

/-- R243: the state in which core `c` has room for one more store: a full buffer has performed its oldest one. -/
def State.roomMade (s : State) (c : Nat) : State :=
  if (s.core c).stores.length < 8 then s
  else match (s.core c).stores with
    | [] => s
    | e :: rest => (s.modCore c fun x => { x with stores := rest }).performStore c e

/-- R243: the entry of a store of the acting thread. -/
def storeEntry (s : State) (g : Target) (n v : Nat) : StoreSt :=
  { thread := s.me, addr := g.addr, size := n, value := v % 256 ^ n, tenant := s.lineTenant s.me, uncached := g.uncached, since := s.cycle }

variable {s : State} {c : Nat}

theorem bufferStore_eq (s : State) (g : Target) (n v : Nat) : bufferStore s g n v =
    (s.roomMade s.myCore).modCore s.myCore fun x => { x with stores := x.stores ++ [storeEntry s g n v] } := rfl

theorem roomMade_of_room (h : (s.core c).stores.length < 8) : s.roomMade c = s := if_pos h

theorem roomMade_of_full {e : StoreSt} {rest : List StoreSt} (h : (s.core c).stores = e :: rest) (hfull : 7 ≤ rest.length) :
    s.roomMade c = (s.modCore c fun x => { x with stores := rest }).performStore c e := by
  have hcount : ¬ (s.core c).stores.length < 8 := by
    rw [h, List.length_cons]
    omega
  rw [State.roomMade, if_neg hcount, h]

theorem pathFrame_performStore (s : State) (c : Nat) (e : StoreSt) : PathFrame s (s.performStore c e) := by
  unfold State.performStore
  exact s.pathFrame_writeTarget c _ _ _ _

/-- R227, R243: making room wakes sleepers at most. -/
theorem wokenAs_roomMade (s : State) (c j : Nat) : WokenAs (s.thread j) ((s.roomMade c).thread j) := by
  unfold State.roomMade
  split
  · exact .refl _
  · split
    · exact .refl _
    · next e rest _ => exact (pathFrame_performStore (s.modCore c fun x => { x with stores := rest }) c e).threads j

theorem focus_roomMade (s : State) (c : Nat) : (s.roomMade c).focus = s.focus := by
  unfold State.roomMade
  split
  · rfl
  · split
    · rfl
    · next e rest _ => exact (pathFrame_performStore (s.modCore c fun x => { x with stores := rest }) c e).focus

theorem core_modCore (s : State) (c j : Nat) (f : CoreSt → CoreSt) : (s.modCore c f).core j = if c = j then f (s.core c) else s.core j :=
  State.core_setCore _ _ _ _

theorem core_of_cores {s t : State} (h : t.cores = s.cores) (c : Nat) : t.core c = s.core c := congrArg (fun l => (Table.getD l c {} : CoreSt)) h

theorem stores_bufferStore (s : State) (g : Target) (n v : Nat) :
    ((bufferStore s g n v).core s.myCore).stores = ((s.roomMade s.myCore).core s.myCore).stores ++ [storeEntry s g n v] := by
  rw [bufferStore_eq, core_modCore, if_pos rfl]

/-! ### ST -/

/-- What a store that has been buffered leaves as it was in the threads. -/
theorem bufferStore_advance (s : State) (g : Target) (n v : Nat) : let t := (bufferStore s g n v).advance
    t.pc = s.pc + 4 ∧ s.sameRegs t ∧ StoreFrame s t 0 ∧ t.cur.loads = s.cur.loads ∧ t.cores = (bufferStore s g n v).cores := by
  have hend := ((OnlyThread.refl (bufferStore s g n v) (bufferStore s g n v).me)).advance
  have hfocus : (bufferStore s g n v).focus = s.focus := focus_roomMade s s.myCore
  have hme : (bufferStore s g n v).me = s.me := congrArg Focus.thread hfocus
  have hwoken : ∀ j, WokenAs (s.thread j) ((bufferStore s g n v).thread j) := wokenAs_roomMade s s.myCore
  have hregs : s.sameRegs (bufferStore s g n v).advance := fun j r =>
    (hend.sameRegs rfl j r).trans (by rw [State.gprOf_eq, State.gprOf_eq, (hwoken j).gpr_eq])
  have hcur := hend.cur
  rw [hme] at hcur hend
  refine ⟨?_, hregs, ⟨State.sameRegsBut_of_sameRegs hregs _ _, ?_, fun j hj => ?_, hend.focus.trans hfocus⟩, ?_, hend.cores⟩
  · rw [State.pc, hcur]
    exact congrArg (· + 4) (hwoken s.me).pc_eq
  · rw [hcur]
    exact (hwoken s.me).of_advanced
  · rw [hend.others j hj]
    exact hwoken j
  · rw [hcur]
    exact (hwoken s.me).loads_eq

/-- R59: ST of an aligned address that resolves. -/
theorem exec_st_of_resolved {sz : MemSize} {d a : Reg} {off : BitVec 13} {g : Target} (haligned : (memAddr s a off).toNat % sizeBytes sz = 0)
    (h : (s.resolve s.me (memAddr s a off) .store).2 = .ok g) : exec (.st sz d a off) s =
      .next (bufferStore (s.resolve s.me (memAddr s a off) .store).1 g (sizeBytes sz) (s.gpr d).toNat).advance := by
  refine (if_neg (not_not.mpr haligned)).trans ?_
  rw [h]

theorem st_of_unresolved {sz : MemSize} {d a : Reg} {off : BitVec 13} {code : Nat} (haligned : (memAddr s a off).toNat % sizeBytes sz = 0)
    (h : (s.resolve s.me (memAddr s a off) .store).2 = .error code) :
    Traps (.st sz d a off) s (s.resolve s.me (memAddr s a off) .store).1 code (memAddr s a off) := by
  refine traps_of_raise_offPath (s.offPath_resolve _ _ _) ((if_neg (not_not.mpr haligned)).trans ?_)
  rw [h]

theorem StoreFrame.of_offPath {u t : State} {d : Reg} (h : u.offPath = s.offPath) (hframe : StoreFrame u t d) : StoreFrame s t d where
  registers := by
    rw [← State.me_of_offPath h]
    exact State.sameRegsBut_trans (State.sameRegsBut_of_sameRegs (State.sameRegs_of_offPath h) _ _) hframe.registers
  thread := by
    rw [← State.cur_of_offPath h]
    exact hframe.thread
  others := by
    intro k hk
    rw [← State.thread_of_offPath h]
    exact hframe.others k (by rwa [State.me_of_offPath h])
  focus := hframe.focus.trans (State.focus_of_offPath h)

theorem storeEntry_of_offPath {u : State} (h : u.offPath = s.offPath) (g : Target) (n v : Nat) : storeEntry u g n v = storeEntry s g n v := by
  rw [storeEntry, storeEntry, State.me_of_offPath h, State.lineTenant_of_offPath h, State.cycle_of_offPath h]

/-- R243: a store into a buffer with room changes that buffer and the acting thread's pc alone. -/
theorem bufferStore_of_room (g : Target) (n v : Nat) (h : (s.core s.myCore).stores.length < 8) : let t := (bufferStore s g n v).advance
    (t.core s.myCore).stores = (s.core s.myCore).stores ++ [storeEntry s g n v] ∧
      { t.core s.myCore with stores := (s.core s.myCore).stores } = s.core s.myCore ∧ (∀ x, x ≠ s.myCore → t.core x = s.core x) ∧ ThreadFrame s t 0 ∧
      { t with threads := s.threads, cores := s.cores } = s ∧ s.sameBytes t := by
  have hbuffer : bufferStore s g n v = s.modCore s.myCore fun x => { x with stores := x.stores ++ [storeEntry s g n v] } := by
    rw [bufferStore_eq, roomMade_of_room h]
  rw [hbuffer]
  have hend := (OnlyThread.refl (s.modCore s.myCore fun x => { x with stores := x.stores ++ [storeEntry s g n v] }) s.me).advance
  have hregs : s.sameRegs _ := hend.sameRegs rfl
  have hcore : ∀ x, _ = if s.myCore = x then { s.core s.myCore with stores := (s.core s.myCore).stores ++ [storeEntry s g n v] } else s.core x :=
    fun x => (core_of_cores hend.cores x).trans (core_modCore s s.myCore x _)
  refine ⟨?_, ?_, fun x hx => (hcore x).trans (if_neg (Ne.symm hx)), ?_, ?_, hend.sameBytes⟩
  · exact congrArg CoreSt.stores ((hcore s.myCore).trans (if_pos rfl))
  · exact congrArg (fun x : CoreSt => { x with stores := (s.core s.myCore).stores }) ((hcore s.myCore).trans (if_pos rfl))
  · exact ⟨State.sameRegsBut_of_sameRegs hregs _ _, by rw [hend.cur]; rfl, hend.others, hend.focus⟩
  · exact (congrArg (fun u : State => { u with cores := s.cores }) hend.machine :)

/-- R243: a store into a full buffer has its oldest store performed first. -/
theorem bufferStore_of_full (g : Target) (n v : Nat) {e : StoreSt} {rest : List StoreSt} (h : (s.core s.myCore).stores = e :: rest)
    (hfull : 7 ≤ rest.length) : let t := (bufferStore s g n v).advance
    (t.core s.myCore).stores = rest ++ [storeEntry s g n v] ∧
      t.mem = ((s.modCore s.myCore fun x => { x with stores := rest }).performStore s.myCore e).mem := by
  have hend := (OnlyThread.refl (bufferStore s g n v) (bufferStore s g n v).me).advance
  have hroom := roomMade_of_full h hfull
  constructor
  · rw [core_of_cores hend.cores, stores_bufferStore, hroom, (pathFrame_performStore _ _ _).stores, core_modCore, if_pos rfl]
  · rw [← hroom]
    exact (congrArg State.mem hend.machine :)

/-- Settles O10, by the checks of ST in their order, then by the room in the buffer. -/
theorem storesEnterTheStoreBuffer : Obligations.StoresEnterTheStoreBuffer := by
  unfold Obligations.StoresEnterTheStoreBuffer
  intro s sz d a off
  rw [← memAddr_eq]
  refine ⟨fun h => traps_of_raise (if_pos h), fun haligned code => st_of_unresolved haligned, fun haligned g hg => ?_⟩
  have hoff := s.offPath_resolve s.me (memAddr s a off) .store
  have hlocal := resolve_of_isLocal hg
  have hexec := exec_st_of_resolved (d := d) haligned hg
  generalize (s.resolve s.me (memAddr s a off) .store).1 = u at hoff hlocal hexec
  obtain ⟨hpc, hregs, hframe, hloads, hcores⟩ := bufferStore_advance u g (sizeBytes sz) (s.gpr d).toNat
  have hcore : u.myCore = s.myCore := congrArg coreOf (State.me_of_offPath hoff)
  refine ⟨_, hexec, ?_, State.sameRegs_trans (State.sameRegs_of_offPath hoff) hregs, hframe.of_offPath hoff, ?_, ?_, fun h => ?_, fun h => ?_⟩
  · rw [hpc, State.pc, State.cur_of_offPath hoff]
    rfl
  · rw [hloads, State.cur_of_offPath hoff]
  · rw [core_of_cores hcores, ← hcore, stores_bufferStore, List.getLast?_concat, storeEntry_of_offPath hoff]
    rfl
  · rw [hlocal h]
    exact bufferStore_of_room g (sizeBytes sz) (s.gpr d).toNat
  · rw [hlocal h]
    exact fun e rest => bufferStore_of_full g (sizeBytes sz) (s.gpr d).toNat

end Sys2Proof.Machine
end

section
/-! O14: the plain CSR writes (R66, R67, R323, R324). -/

namespace Sys2Proof.Machine

/-! ### CSRs whose writes have no effects of their own -/

/-- R66, R67: the indices that `isSpecialCsr` keeps out. -/
theorem ne_of_not_isSpecialCsr {n : BitVec 12} (h : isSpecialCsr n = false) :
    (n.toNat ≠ 0x001 ∧ n.toNat ≠ 0x111 ∧ n.toNat ≠ 0x118 ∧ n.toNat ≠ 0x121 ∧ n.toNat ≠ 0x123) ∧
      (n.toNat ≠ 0x124 ∧ n.toNat ≠ 0x125 ∧ n.toNat ≠ 0x127 ∧ n.toNat ≠ 0x129) ∧ n.toNat / 16 ≠ 5 ∧ n.toNat / 16 ≠ 7 := by
  have hhigh : (n.extractLsb' 4 8).toNat = n.toNat / 16 := by
    rw [BitVec.extractLsb'_toNat, Nat.shiftRight_eq_div_pow]
    omega
  simp only [isSpecialCsr, Bool.or_eq_false_iff, beq_eq_false_iff_ne, ne_eq, ← BitVec.toNat_inj, hhigh] at h
  simp only [BitVec.toNat_ofNat, BitVec.ofNat_eq_ofNat] at h
  omega

/-- R66: the instruction word that writes a CSR. -/
def csrWrite (k : CsrOp) (d a : Reg) (n : BitVec 12) : Instr :=
  match k with
  | .write => .csrw d a n
  | .set => .csrs d a n
  | .clear => .csrc d a n

/-- R66: the value that a writing CSR word makes of the old one. -/
def csrValue (s : State) (k : CsrOp) (a : Reg) (old : Word) : Word :=
  match k with
  | .write => s.gpr a
  | .set => old ||| s.gpr a
  | .clear => old &&& ~~~s.gpr a

theorem csrNew_of_writes (s : State) {k : CsrOp} {a : Reg} (old : Word) (h : k = .write ∨ a ≠ 0) :
    State.csrNew k old a (s.gpr a) = some (csrValue s k a old) := by
  cases k with
  | write => rfl
  | set => exact if_neg (h.resolve_left (by decide))
  | clear => exact if_neg (h.resolve_left (by decide))

theorem csrNew_of_reads (s : State) {k : CsrOp} {a : Reg} (old : Word) (h : ¬(k = .write ∨ a ≠ 0)) : State.csrNew k old a (s.gpr a) = none := by
  obtain ⟨hk, ha⟩ := not_or.mp h
  cases k with
  | write => exact absurd rfl hk
  | set => exact if_pos (not_not.mp ha)
  | clear => exact if_pos (not_not.mp ha)

theorem exec_csrWrite (k : CsrOp) (d a : Reg) (n : BitVec 12) (s : State) :
    exec (csrWrite k d a n) s = s.csrAccess (wordOf (csrWrite k d a n)) k d a n.toNat := by
  cases k <;> rfl

variable {s : State} {k : CsrOp} {d a : Reg} {n : BitVec 12}

/-- R20, R66: a CSR word that passes the check and writes nothing. -/
theorem exec_csrWrite_of_reads (hfault : csrFault s.cur.mode n.toNat = none) (h : ¬(k = .write ∨ a ≠ 0)) :
    exec (csrWrite k d a n) s = s.finish d (s.readCsr s.me n.toNat) := by
  rw [exec_csrWrite, State.csrAccess, hfault]
  dsimp only
  rw [csrNew_of_reads s _ h]

/-- R20, R66: an access that passes the check, writes and does not wait. -/
theorem csrAccess_of_writes {m : Nat} (word : Word32) (hfault : csrFault s.cur.mode m = none) (hwaits : s.tlbiWaits s.me m = false)
    (h : k = .write ∨ a ≠ 0) :
    s.csrAccess word k d a m = (s.writeCsr s.me m (csrValue s k a (s.readCsr s.me m))).finish d (s.readCsr s.me m) := by
  rw [State.csrAccess, hfault]
  dsimp only
  rw [csrNew_of_writes s _ h]
  dsimp only
  rw [hwaits, if_neg Bool.false_ne_true]

/-- R20, R66: a CSR word that passes the check and writes. -/
theorem exec_csrWrite_of_writes (hfault : csrFault s.cur.mode n.toNat = none) (hspecial : isSpecialCsr n = false) (h : k = .write ∨ a ≠ 0) :
    exec (csrWrite k d a n) s =
      (s.writeCsr s.me n.toNat (csrValue s k a (s.readCsr s.me n.toNat))).finish d (s.readCsr s.me n.toNat) := by
  obtain ⟨⟨-, -, htlbi, -⟩, -⟩ := ne_of_not_isSpecialCsr hspecial
  have hwaits : s.tlbiWaits s.me n.toNat = false := by rw [State.tlbiWaits, beq_false_of_ne htlbi, Bool.false_and, Bool.false_and]
  rw [exec_csrWrite, csrAccess_of_writes _ hfault hwaits h]

/-! ### What is written -/

/-- R323: the registers that take a write of a thread: with `pl` the place that TSEL names. -/
def csrWritten (sup : Bool) (pl m : Nat) : Prop :=
  m = 0x010 ∨ m = 0x011 ∨ m = 0x014 ∨ m = 0x040 ∨ (sup = true ∧ (m = 0x100 ∨ m = 0x101 ∨ m = 0x104 ∨ m = 0x112 ∨ m = 0x113 ∨
    m = 0x114 ∨ m = 0x120 ∨ (0x140 ≤ m ∧ m ≤ 0x17F) ∨ (pl ≠ 0 ∧ (m = 0x030 ∨ m = 0x031 ∨ m = 0x122 ∨ m = 0x126))))

/-- R20, R323: a write of any other register changes nothing. -/
theorem writeCsr_of_not_csrWritten (s : State) (v : Word) (hspecial : isSpecialCsr n = false) (h : ¬ csrWritten s.cur.mode s.cur.tsel.toNat n.toNat) :
    s.writeCsr s.me n.toNat v = s := by
  obtain ⟨⟨h001, h111, h118, h121, h123⟩, ⟨h124, h125, h127, h129⟩, hbar, hocc⟩ := ne_of_not_isSpecialCsr hspecial
  simp only [csrWritten, not_or] at h
  obtain ⟨h010, h011, h014, h040, hsup⟩ := h
  unfold State.writeCsr
  dsimp only
  rw [if_neg h001, if_neg h010, if_neg h011, if_neg h014, if_neg h040, if_neg hbar]
  cases hmode : (s.thread s.me).mode with
  | false => rfl
  | true =>
    obtain ⟨h100, h101, h104, h112, h113, h114, h120, hshadow, hplace⟩ := by simpa only [not_or] using (not_and.mp hsup) hmode
    rw [Bool.not_true, if_neg Bool.false_ne_true, if_neg hocc, if_neg h100, if_neg h101, if_neg h104, if_neg h111, if_neg h112, if_neg h113,
      if_neg h114, if_neg h118, if_neg h120, if_neg h121, if_neg h123, if_neg h124, if_neg h125, if_neg h127, if_neg h129,
      if_neg (by omega : ¬ n.toNat / 64 = 5)]
    rw [show s.csrPlace s.me = s.cur.tsel.toNat from if_pos hmode]
    by_cases hpl : s.cur.tsel.toNat = 0
    · simp only [hpl, if_true, ite_self]
    · obtain ⟨h030, h031, h122, h126⟩ := by simpa only [not_or] using (not_and.mp hplace) hpl
      rw [if_neg h030, if_neg h031, if_neg h122, if_neg h126]

/-- R324: the writes of the trap registers and of WAITTMO, in either mode. -/
theorem writeCsr_either (s : State) (k : Nat) (v : Word) :
    s.writeCsr k 0x010 v = s.setThread k { s.thread k with tvec := v.extractLsb' 2 62 } ∧
      s.writeCsr k 0x011 v = s.setThread k { s.thread k with epc := v } ∧
      s.writeCsr k 0x014 v = s.setThread k { s.thread k with escratch := v } ∧
      s.writeCsr k 0x040 v = s.setThread k { s.thread k with waittmo := v } := ⟨rfl, rfl, rfl, rfl⟩

section
variable {s : State} {k : Nat} (hmode : (s.thread k).mode = true) (v : Word)
include hmode

/-- R324: the writes of the supervisor's registers of a thread. -/
theorem writeCsr_supervisor :
    s.writeCsr k 0x101 v = s.setThread k { s.thread k with sepc := v } ∧
      s.writeCsr k 0x104 v = s.setThread k { s.thread k with sscratch := v } ∧
      s.writeCsr k 0x120 v = s.setThread k { s.thread k with tsel := v.extractLsb' 0 4 } := by
  unfold State.writeCsr
  dsimp only
  rw [hmode]
  exact ⟨rfl, rfl, rfl⟩

/-- R324: the writes of the supervisor's registers of a core and a partition. -/
theorem writeCsr_supervisor_shared : let p := s.partOf (coreOf k)
    s.writeCsr k 0x100 v = s.modCore (coreOf k) (fun x => { x with stvec := v.extractLsb' 2 62 }) ∧
      s.writeCsr k 0x112 v = s.modPart p (fun x => { x with sptbase := v &&& 0x000F_FFFF_FFE0_0000 }) ∧
      s.writeCsr k 0x113 v = s.modPart p (fun x => { x with sasid := v &&& 0x1FFF }) ∧
      s.writeCsr k 0x114 v = s.modPart p fun x => { x with sways := v &&& 0xFFFF } := by
  unfold State.writeCsr
  dsimp only
  rw [hmode]
  exact ⟨rfl, rfl, rfl, rfl⟩

/-- R324, R328: the writes of the rotation's shadow table. -/
theorem writeCsr_shadow {m : Nat} (hm : 0x140 ≤ m ∧ m ≤ 0x17F) : s.writeCsr k m v = s.modPart (s.partOf (coreOf k)) fun x =>
    { x with shadow := Table.put x.shadow (m - 0x140) (v &&& 0x8000_FFFF_00FF_FFFF) } := by
  unfold State.writeCsr
  dsimp only
  rw [hmode, Bool.not_true]
  iterate 6 rw [if_neg (by omega)]
  rw [if_neg Bool.false_ne_true]
  iterate 20 rw [if_neg (by omega)]
  rw [if_pos (by omega), show m % 64 = m - 0x140 by omega]
  rfl

/-- R324: the writes of the registers of a place and a core's part of it. -/
theorem writeCsr_place (hpl : (s.thread k).tsel.toNat ≠ 0) : let pl := (s.thread k).tsel.toNat
    s.writeCsr k 0x030 v = s.modCorePlace (coreOf k) pl (fun x => { x with asid := v &&& 0x1FFF }) ∧
      s.writeCsr k 0x031 v = s.modCorePlace (coreOf k) pl (fun x => { x with ptbase := v &&& 0x000F_FFFF_FFE0_0000 }) ∧
      s.writeCsr k 0x122 v = s.modCorePlace (coreOf k) pl (fun x => { x with tthr := v.extractLsb' 0 4 &&& 0b1110 }) ∧
      s.writeCsr k 0x126 v = s.modPlace (s.partOf (coreOf k)) pl fun x => { x with tquota := v &&& 0x1FFF_003F_1FFF } := by
  unfold State.writeCsr
  dsimp only
  rw [hmode, show s.csrPlace k = (s.thread k).tsel.toNat from if_pos hmode]
  refine ⟨(if_neg hpl :), (if_neg hpl :), (if_neg hpl :), (if_neg hpl :)⟩

/-- R324: a write of a partition's register. -/
theorem writeCsr_partition {m : Nat} (hm : m = 0x112 ∨ m = 0x113 ∨ m = 0x114 ∨ (0x140 ≤ m ∧ m ≤ 0x17F)) :
    ∃ f, s.writeCsr k m v = s.modPart (s.partOf (coreOf k)) f := by
  obtain ⟨-, h112, h113, h114⟩ := writeCsr_supervisor_shared hmode v
  rcases hm with rfl | rfl | rfl | hm
  · exact ⟨_, h112⟩
  · exact ⟨_, h113⟩
  · exact ⟨_, h114⟩
  · exact ⟨_, writeCsr_shadow hmode v hm⟩

/-- R324: a write of a register of a core's part of a place. -/
theorem writeCsr_corePlace (hpl : (s.thread k).tsel.toNat ≠ 0) {m : Nat} (hm : m = 0x030 ∨ m = 0x031 ∨ m = 0x122) :
    ∃ f, s.writeCsr k m v = s.modCorePlace (coreOf k) (s.thread k).tsel.toNat f := by
  obtain ⟨h030, h031, h122, -⟩ := writeCsr_place hmode v hpl
  rcases hm with rfl | rfl | rfl
  · exact ⟨_, h030⟩
  · exact ⟨_, h031⟩
  · exact ⟨_, h122⟩

end

/-! ### What a write leaves as it was -/

/-- R323: the registers of a thread itself. -/
def threadCsr (m : Nat) : Prop := m = 0x010 ∨ m = 0x011 ∨ m = 0x014 ∨ m = 0x040 ∨ m = 0x101 ∨ m = 0x104 ∨ m = 0x120

/-- R323: the registers of a core, a partition or a place. -/
def sharedCsr (m : Nat) : Prop := 0x100 ≤ m ∧ m ≠ 0x101 ∧ m ≠ 0x104 ∧ m ≠ 0x120 ∨ m = 0x030 ∨ m = 0x031

theorem threadCsr_or_sharedCsr {sup : Bool} {pl m : Nat} (h : csrWritten sup pl m) : threadCsr m ∨ sharedCsr m := by
  unfold csrWritten at h
  unfold threadCsr sharedCsr
  omega

/-- R20: a write beside those that either mode has is the supervisor's. -/
theorem sup_of_csrWritten {sup : Bool} {pl m : Nat} (h : csrWritten sup pl m) (hm : m ≠ 0x010 ∧ m ≠ 0x011 ∧ m ≠ 0x014 ∧ m ≠ 0x040) : sup = true := by
  obtain ⟨h010, h011, h014, h040⟩ := hm
  rcases h with h | h | h | h | ⟨hsup, -⟩
  · exact absurd h h010
  · exact absurd h h011
  · exact absurd h h014
  · exact absurd h h040
  · exact hsup

theorem place_of_csrWritten {sup : Bool} {pl m : Nat} (h : csrWritten sup pl m) (hm : m = 0x030 ∨ m = 0x031 ∨ m = 0x122 ∨ m = 0x126) : pl ≠ 0 := by
  unfold csrWritten at h
  omega

/-- R323: a write of a register of the thread itself. -/
theorem writeCsr_threadCsr {s : State} {m : Nat} (v : Word) (h : csrWritten s.cur.mode s.cur.tsel.toNat m) (hm : threadCsr m) :
    ∃ x, s.writeCsr s.me m v = s.setThread s.me x ∧ x.gpr = s.cur.gpr ∧ x.pc = s.cur.pc := by
  obtain ⟨h010, h011, h014, h040⟩ := writeCsr_either s s.me v
  rcases hm with rfl | rfl | rfl | rfl | hm
  · exact ⟨_, h010, rfl, rfl⟩
  · exact ⟨_, h011, rfl, rfl⟩
  · exact ⟨_, h014, rfl, rfl⟩
  · exact ⟨_, h040, rfl, rfl⟩
  · obtain ⟨h101, h104, h120⟩ := writeCsr_supervisor (sup_of_csrWritten h (by omega)) v
    rcases hm with rfl | rfl | rfl
    · exact ⟨_, h101, rfl, rfl⟩
    · exact ⟨_, h104, rfl, rfl⟩
    · exact ⟨_, h120, rfl, rfl⟩

/-- R323: a write of a register that is not the thread's own changes no thread. -/
theorem writeCsr_sharedCsr {s : State} {m : Nat} (v : Word) (h : csrWritten s.cur.mode s.cur.tsel.toNat m) (hm : sharedCsr m) :
    (s.writeCsr s.me m v).threads = s.threads ∧ (s.writeCsr s.me m v).focus = s.focus ∧ (s.writeCsr s.me m v).mem = s.mem := by
  unfold sharedCsr at hm
  have hsup : s.cur.mode = true := sup_of_csrWritten h (by omega)
  obtain ⟨h100, h112, h113, h114⟩ := writeCsr_supervisor_shared hsup v
  by_cases hplace : m = 0x030 ∨ m = 0x031 ∨ m = 0x122 ∨ m = 0x126
  · obtain ⟨h030, h031, h122, h126⟩ := writeCsr_place hsup v (place_of_csrWritten h hplace)
    rcases hplace with rfl | rfl | rfl | rfl
    · rw [h030]; exact ⟨rfl, rfl, rfl⟩
    · rw [h031]; exact ⟨rfl, rfl, rfl⟩
    · rw [h122]; exact ⟨rfl, rfl, rfl⟩
    · rw [h126]; exact ⟨rfl, rfl, rfl⟩
  · by_cases hshadow : 0x140 ≤ m ∧ m ≤ 0x17F
    · rw [writeCsr_shadow hsup v hshadow]; exact ⟨rfl, rfl, rfl⟩
    · obtain rfl | rfl | rfl | rfl : m = 0x100 ∨ m = 0x112 ∨ m = 0x113 ∨ m = 0x114 := by
        unfold csrWritten at h
        omega
      · rw [h100]; exact ⟨rfl, rfl, rfl⟩
      · rw [h112]; exact ⟨rfl, rfl, rfl⟩
      · rw [h113]; exact ⟨rfl, rfl, rfl⟩
      · rw [h114]; exact ⟨rfl, rfl, rfl⟩

section
variable {s t : State} {d : Reg}

/-- What a register write after a write of the acting thread's state makes of that thread and the machine. -/
theorem RegisterFrame.after_setThread {x : ThreadSt} (h : RegisterFrame (s.setThread s.me x) t d) :
    { t.cur with gpr := x.gpr, pc := x.pc } = x ∧ { t with threads := s.threads } = s := by
  have hcur : (s.setThread s.me x).cur = x := (s.thread_setThread s.me s.me x).trans (if_pos rfl)
  have hthread := h.thread
  rw [hcur] at hthread
  exact ⟨hthread, (congrArg (fun u : State => { u with threads := s.threads }) h.machine :)⟩

/-- What a register write after a change beside the threads makes of the acting thread and the machine. -/
theorem RegisterFrame.after_sameThreads {u : State} (h : RegisterFrame u t d) (hthreads : u.threads = s.threads) (hfocus : u.focus = s.focus) :
    { t.cur with gpr := s.cur.gpr, pc := s.pc } = s.cur ∧ { t with threads := s.threads } = u := by
  have hcur : u.cur = s.cur := by
    rw [State.cur, State.cur, State.me, State.me, State.thread, State.thread, hthreads, hfocus]
  have hthread := h.thread
  have hmachine := h.machine
  rw [hcur] at hthread
  rw [hthreads] at hmachine
  exact ⟨hthread, hmachine⟩

/-- What a register write after a change beside the threads leaves as it was of them. -/
theorem RegisterFrame.threads_of_sameThreads {u : State} (h : RegisterFrame u t d) (hthreads : u.threads = s.threads) (hfocus : u.focus = s.focus) :
    u.pc = s.pc ∧ s.sameRegsBut t s.me d ∧ ∀ j, j ≠ s.me → t.thread j = s.thread j := by
  have hme : u.me = s.me := congrArg Focus.thread hfocus
  have hthread : ∀ j, u.thread j = s.thread j := fun j => by rw [State.thread, State.thread, hthreads]
  have hregs : s.sameRegs u := fun j r => by rw [State.gprOf_eq, State.gprOf_eq, hthread]
  refine ⟨?_, ?_, fun j hj => (h.others j (hme ▸ hj)).trans (hthread j)⟩
  · rw [State.pc, State.pc, State.cur, State.cur, hme, hthread]
  · rw [← hme]
    exact State.sameRegsBut_trans (State.sameRegsBut_of_sameRegs hregs _ _) h.registers

/-- What every plain CSR write leaves as it was. -/
theorem csr_frame {m : Nat} {v : Word} (h : RegisterFrame (s.writeCsr s.me m v) t d) (hwritten : csrWritten s.cur.mode s.cur.tsel.toNat m) :
    (s.writeCsr s.me m v).pc = s.pc ∧ s.sameRegsBut t s.me d ∧ s.sameBytes t ∧ ∀ j, j ≠ s.me → t.thread j = s.thread j := by
  rcases threadCsr_or_sharedCsr hwritten with hm | hm
  · obtain ⟨x, hx, hgpr, hpc⟩ := writeCsr_threadCsr v hwritten hm
    rw [hx] at h ⊢
    have honly := onlyThread_setThread s s.me x
    exact ⟨honly.pc.trans hpc, State.sameRegsBut_trans (State.sameRegsBut_of_sameRegs (honly.sameRegs hgpr) _ _) h.registers, h.memory,
      fun j hj => (h.others j hj).trans (honly.others j hj)⟩
  · obtain ⟨hthreads, hfocus, hmem⟩ := writeCsr_sharedCsr v hwritten hm
    obtain ⟨hpc, hregs, hothers⟩ := h.threads_of_sameThreads hthreads hfocus
    exact ⟨hpc, hregs, fun b => (h.memory b).trans (by rw [hmem]), hothers⟩

end

/-! ### Reading what was written -/

theorem part_modPart (s : State) (p q : Nat) (f : PartSt → PartSt) : (s.modPart p f).part q = if p = q then f (s.part p) else s.part q :=
  State.part_setPart _ _ _ _

/-- R322: place numbers are below 16, so that no two places share a key. -/
theorem placeKey_inj {q j p n : Nat} (hj : j < 16) (hn : n < 16) : p * 16 + n = q * 16 + j ↔ q = p ∧ j = n := by omega

theorem place_modPlace (s : State) (p n q j : Nat) (f : PlaceSt → PlaceSt) (hj : j < 16) (hn : n < 16) :
    (s.modPlace p n f).place q j = if q = p ∧ j = n then f (s.place p n) else s.place q j := by
  refine (Table.getD_put _ _ _ _ _).trans ?_
  simp only [placeKey_inj hj hn]
  rfl

theorem corePlace_modCorePlace (s : State) (c n x j : Nat) (f : CorePlaceSt → CorePlaceSt) (hj : j < 16) (hn : n < 16) :
    (s.modCorePlace c n f).corePlace x j = if x = c ∧ j = n then f (s.corePlace c n) else s.corePlace x j := by
  refine (Table.getD_put _ _ _ _ _).trans ?_
  simp only [placeKey_inj hj hn]
  rfl

section
variable {s t : State} {d : Reg}

/-- What a register write after a change of one core makes of the cores and the machine. -/
theorem RegisterFrame.after_modCore {c : Nat} {f : CoreSt → CoreSt} (h : RegisterFrame (s.modCore c f) t d) :
    t.core c = f (s.core c) ∧ (∀ x, x ≠ c → t.core x = s.core x) ∧ { t with threads := s.threads, cores := s.cores } = s := by
  obtain ⟨-, hmachine⟩ := h.after_sameThreads (s := s) rfl rfl
  have hcore : ∀ x, t.core x = if c = x then f (s.core c) else s.core x := fun x =>
    (congrArg (fun u : State => u.core x) hmachine :).trans (core_modCore s c x f)
  exact ⟨(hcore c).trans (if_pos rfl), fun x hx => (hcore x).trans (if_neg (Ne.symm hx)), (congrArg (fun u : State => { u with cores := s.cores }) hmachine :)⟩

/-- The same of one partition. -/
theorem RegisterFrame.after_modPart {p : Nat} {f : PartSt → PartSt} (h : RegisterFrame (s.modPart p f) t d) :
    t.part p = f (s.part p) ∧ (∀ q, q ≠ p → t.part q = s.part q) ∧ { t with threads := s.threads, parts := s.parts } = s := by
  obtain ⟨-, hmachine⟩ := h.after_sameThreads (s := s) rfl rfl
  have hpart : ∀ q, t.part q = if p = q then f (s.part p) else s.part q := fun q =>
    (congrArg (fun u : State => u.part q) hmachine :).trans (part_modPart s p q f)
  exact ⟨(hpart p).trans (if_pos rfl), fun q hq => (hpart q).trans (if_neg (Ne.symm hq)), (congrArg (fun u : State => { u with parts := s.parts }) hmachine :)⟩

/-- The same of one place. -/
theorem RegisterFrame.after_modPlace {p n : Nat} {f : PlaceSt → PlaceSt} (h : RegisterFrame (s.modPlace p n f) t d) (hn : n < 16) :
    t.place p n = f (s.place p n) ∧ (∀ q j, j < 16 → ¬(q = p ∧ j = n) → t.place q j = s.place q j) ∧
      { t with threads := s.threads, places := s.places } = s := by
  obtain ⟨-, hmachine⟩ := h.after_sameThreads (s := s) rfl rfl
  have hplace : ∀ q j, j < 16 → t.place q j = if q = p ∧ j = n then f (s.place p n) else s.place q j := fun q j hj =>
    (congrArg (fun u : State => u.place q j) hmachine :).trans (place_modPlace s p n q j f hj hn)
  exact ⟨(hplace p n hn).trans (if_pos ⟨rfl, rfl⟩), fun q j hj hne => (hplace q j hj).trans (if_neg hne),
    (congrArg (fun u : State => { u with places := s.places }) hmachine :)⟩

/-- The same of a core's part of one place. -/
theorem RegisterFrame.after_modCorePlace {c n : Nat} {f : CorePlaceSt → CorePlaceSt} (h : RegisterFrame (s.modCorePlace c n f) t d) (hn : n < 16) :
    t.corePlace c n = f (s.corePlace c n) ∧ (∀ x j, j < 16 → ¬(x = c ∧ j = n) → t.corePlace x j = s.corePlace x j) ∧
      { t with threads := s.threads, corePlaces := s.corePlaces } = s := by
  obtain ⟨-, hmachine⟩ := h.after_sameThreads (s := s) rfl rfl
  have hplace : ∀ x j, j < 16 → t.corePlace x j = if x = c ∧ j = n then f (s.corePlace c n) else s.corePlace x j := fun x j hj =>
    (congrArg (fun u : State => u.corePlace x j) hmachine :).trans (corePlace_modCorePlace s c n x j f hj hn)
  exact ⟨(hplace c n hn).trans (if_pos ⟨rfl, rfl⟩), fun x j hj hne => (hplace x j hj).trans (if_neg hne),
    (congrArg (fun u : State => { u with corePlaces := s.corePlaces }) hmachine :)⟩

end

/-- Settles O14, by the register that is written: one of the thread, of its core, of its partition, of a place, or of a core's part of a place. -/
theorem csrWritesSetOnlyTheirFields : Obligations.CsrWritesSetOnlyTheirFields := by
  unfold Obligations.CsrWritesSetOnlyTheirFields
  intro s d a k n m p c sup hspecial hfault i old v writes pl written
  refine ⟨fun hwrites hunwritten => ?_, fun hreads => writes_of_finish (exec_csrWrite_of_reads hfault hreads) rfl, fun hwrites hwritten => ?_⟩
  · refine writes_of_finish ((exec_csrWrite_of_writes hfault hspecial hwrites).trans ?_) rfl
    rw [writeCsr_of_not_csrWritten s _ hspecial hunwritten]
  obtain ⟨t, ht, hd, hpc, hframe⟩ := State.finish_next (s.writeCsr s.me m v) d old
  have hexec : exec i s = .next t := (exec_csrWrite_of_writes hfault hspecial hwrites).trans ht
  obtain ⟨hpc', hregs, hbytes, hothers⟩ := csr_frame hframe hwritten
  have hpl : pl < 16 := s.cur.tsel.isLt
  have hsup := sup_of_csrWritten hwritten
  have hplace := place_of_csrWritten hwritten
  obtain ⟨h010, h011, h014, h040⟩ := writeCsr_either s s.me v
  clear_value m v
  refine ⟨t, hexec, hd, hpc.trans (congrArg (· + 4) hpc'), hregs, hbytes, hothers, ?_, ?_, ?_, ?_, ?_, ?_, ?_, fun hm => ?_, fun hm => ?_, ?_, ?_, ?_,
    ?_, fun hm => ?_, fun hm => ?_, ?_, ?_, ?_, ?_, ?_, fun hm => ?_⟩
  · rintro rfl
    rw [h010] at hframe
    obtain ⟨hcur, -⟩ := hframe.after_setThread
    exact ⟨(congrArg ThreadSt.tvec hcur :), (congrArg (fun x : ThreadSt => { x with tvec := s.cur.tvec }) hcur :)⟩
  · rintro rfl
    rw [h011] at hframe
    obtain ⟨hcur, -⟩ := hframe.after_setThread
    exact ⟨(congrArg ThreadSt.epc hcur :), (congrArg (fun x : ThreadSt => { x with epc := s.cur.epc }) hcur :)⟩
  · rintro rfl
    rw [h014] at hframe
    obtain ⟨hcur, -⟩ := hframe.after_setThread
    exact ⟨(congrArg ThreadSt.escratch hcur :), (congrArg (fun x : ThreadSt => { x with escratch := s.cur.escratch }) hcur :)⟩
  · rintro rfl
    rw [h040] at hframe
    obtain ⟨hcur, -⟩ := hframe.after_setThread
    exact ⟨(congrArg ThreadSt.waittmo hcur :), (congrArg (fun x : ThreadSt => { x with waittmo := s.cur.waittmo }) hcur :)⟩
  · rintro rfl
    obtain ⟨h101, -, -⟩ := writeCsr_supervisor (hsup (by decide)) v
    rw [h101] at hframe
    obtain ⟨hcur, -⟩ := hframe.after_setThread
    exact ⟨(congrArg ThreadSt.sepc hcur :), (congrArg (fun x : ThreadSt => { x with sepc := s.cur.sepc }) hcur :)⟩
  · rintro rfl
    obtain ⟨-, h104, -⟩ := writeCsr_supervisor (hsup (by decide)) v
    rw [h104] at hframe
    obtain ⟨hcur, -⟩ := hframe.after_setThread
    exact ⟨(congrArg ThreadSt.sscratch hcur :), (congrArg (fun x : ThreadSt => { x with sscratch := s.cur.sscratch }) hcur :)⟩
  · rintro rfl
    obtain ⟨-, -, h120⟩ := writeCsr_supervisor (hsup (by decide)) v
    rw [h120] at hframe
    obtain ⟨hcur, -⟩ := hframe.after_setThread
    exact ⟨(congrArg ThreadSt.tsel hcur :), (congrArg (fun x : ThreadSt => { x with tsel := s.cur.tsel }) hcur :)⟩
  · obtain ⟨x, hx, -, -⟩ := writeCsr_threadCsr v hwritten hm
    rw [hx] at hframe
    exact hframe.after_setThread.2
  · obtain ⟨hthreads, hfocus, -⟩ := writeCsr_sharedCsr v hwritten hm
    exact (hframe.after_sameThreads hthreads hfocus).1
  · rintro rfl
    obtain ⟨h100, -⟩ := writeCsr_supervisor_shared (hsup (by decide)) v
    rw [h100] at hframe
    obtain ⟨hcore, hcores, hmachine⟩ := hframe.after_modCore
    exact ⟨congrArg CoreSt.stvec hcore, congrArg (fun x : CoreSt => { x with stvec := (s.core c).stvec }) hcore, hcores, hmachine⟩
  · rintro rfl
    obtain ⟨-, h112, -, -⟩ := writeCsr_supervisor_shared (hsup (by decide)) v
    rw [h112] at hframe
    exact hframe.after_modPart.1
  · rintro rfl
    obtain ⟨-, -, h113, -⟩ := writeCsr_supervisor_shared (hsup (by decide)) v
    rw [h113] at hframe
    exact hframe.after_modPart.1
  · rintro rfl
    obtain ⟨-, -, -, h114⟩ := writeCsr_supervisor_shared (hsup (by decide)) v
    rw [h114] at hframe
    exact hframe.after_modPart.1
  · rw [writeCsr_shadow (hsup (by omega)) v hm] at hframe
    obtain ⟨hpart, -, -⟩ := hframe.after_modPart
    have hentry : ∀ j, Table.getD (t.part p).shadow j 0 = if m - 0x140 = j then v &&& 0x8000_FFFF_00FF_FFFF else Table.getD (s.part p).shadow j 0 :=
      fun j => (congrArg (fun x : PartSt => Table.getD x.shadow j 0) hpart).trans (Table.getD_put _ _ _ _ _)
    exact ⟨(hentry _).trans (if_pos rfl), fun j hj => (hentry j).trans (if_neg (Ne.symm hj)),
      congrArg (fun x : PartSt => { x with shadow := (s.part p).shadow }) hpart⟩
  · obtain ⟨f, hf⟩ := writeCsr_partition (hsup (by omega)) v hm
    rw [hf] at hframe
    exact hframe.after_modPart.2
  · rintro rfl
    obtain ⟨-, -, -, h126⟩ := writeCsr_place (hsup (by decide)) v (hplace (by decide))
    rw [h126] at hframe
    exact (hframe.after_modPlace hpl).1
  · rintro rfl
    obtain ⟨-, -, -, h126⟩ := writeCsr_place (hsup (by decide)) v (hplace (by decide))
    rw [h126] at hframe
    obtain ⟨-, hplaces, hmachine⟩ := hframe.after_modPlace hpl
    exact ⟨fun q j _ => hplaces q j, hmachine⟩
  · rintro rfl
    obtain ⟨h030, -⟩ := writeCsr_place (hsup (by decide)) v (hplace (by decide))
    rw [h030] at hframe
    exact (hframe.after_modCorePlace hpl).1
  · rintro rfl
    obtain ⟨-, h031, -, -⟩ := writeCsr_place (hsup (by decide)) v (hplace (by decide))
    rw [h031] at hframe
    exact (hframe.after_modCorePlace hpl).1
  · rintro rfl
    obtain ⟨-, -, h122, -⟩ := writeCsr_place (hsup (by decide)) v (hplace (by decide))
    rw [h122] at hframe
    exact (hframe.after_modCorePlace hpl).1
  · obtain ⟨f, hf⟩ := writeCsr_corePlace (hsup (by omega)) v (hplace (by omega)) hm
    rw [hf] at hframe
    exact (hframe.after_modCorePlace hpl).2

end Sys2Proof.Machine
end

section
/-! O15: the writes of TSTAT, TRUN and TLBI (R67, R209, R357). -/

namespace Sys2Proof.Machine

/-! ### TRUN (R357) -/

theorem focus_resumeStopped (s : State) (k : Nat) (pc : Word) : (s.resumeStopped k pc).focus = s.focus := by
  unfold State.resumeStopped
  dsimp only
  split <;> rfl

/-- R357: a thread that goes on at once leaves memory as it was. -/
theorem mem_resumeStopped_of_ready {s : State} {k : Nat} (pc : Word) (h : s.readyOrResting k = .ready) : (s.resumeStopped k pc).mem = s.mem := by
  unfold State.resumeStopped
  rw [h]
  rfl

theorem restartThread_of_stopped {s : State} {k : Nat} (pc62 : Nat) (h : (s.thread k).run = .stopped) (hbrk : (s.thread k).brkStop = false) :
    s.restartThread k pc62 = s.resumeStopped k (if pc62 = 0 then (s.thread k).resume else wd (pc62 * 4)) := by
  unfold State.restartThread
  dsimp only
  rw [h, hbrk]
  rfl

theorem restartThread_of_not_stopped {s : State} {k : Nat} (pc62 : Nat) (h : (s.thread k).run ≠ .stopped ∨ (s.thread k).brkStop = true) :
    s.restartThread k pc62 = s := by
  refine if_neg ?_
  rcases h with h | h
  · simp [h]
  · simp [h]

/-- R357: a PC field of 62 bits stands for a multiple of 4. -/
theorem wd_fld_mul_four (v : Word) : wd (fld v 2 62 * 4) = v.extractLsb' 2 62 ++ 0#2 := by
  rw [fld_eq_extractLsb']
  apply BitVec.eq_of_toNat_eq
  rw [BitVec.toNat_append, wd, BitVec.toNat_ofNat, Nat.shiftLeft_eq]
  have := (v.extractLsb' 2 62).isLt
  simp
  omega

/-! ### TLBI (R209) -/

/-- R209: the first-level TLB of core `c` loses what an invalidation covers. -/
def dropTlb (s : State) (p : Nat) (x : TlbiSt) (st : State) (c : Nat) : State :=
  if (s.part p).dies.getLsbD (dieOfCore c) && !(s.core c).tlb.isEmpty then
    st.modCore c fun k => { k with tlb := k.tlb.filter fun e => !s.tlbiCovers p x e }
  else st

/-- R209: the last-level TLB of die `d` loses what an invalidation covers, and pinned entries become stale. -/
def dropLlTlb (s : State) (p : Nat) (x : TlbiSt) (st : State) (d : Nat) : State :=
  let l := (Table.getD st.llTlb d []).filterMap fun e =>
    if s.tlbiCovers p x e then (if e.pins = 0 then none else some { e with stale := true }) else some e
  { st with llTlb := Table.put st.llTlb d l }

/-- R209: the request of an invalidation. -/
def tlbiOf (v : Word) : TlbiSt := { op := (v.extractLsb' 62 2).toNat, asid := (v.extractLsb' 49 13).toNat, vpn := (v.extractLsb' 0 45).toNat }

/-- R209: an invalidation empties the TLBs and is then in progress; the riders' and generators' pins that it covers become stale. -/
theorem startTlbi_eq {s : State} {p : Nat} {v : Word} (h : (tlbiOf v).op ≠ 3) : ∃ riders gens, s.startTlbi p v =
    State.modPart { (s.partDies p).foldl (dropLlTlb s p (tlbiOf v)) ((List.range numCores).foldl (dropTlb s p (tlbiOf v)) s) with
      riders := riders, gens := gens } p fun y => { y with tlbi := some (tlbiOf v) } := by
  unfold State.startTlbi
  simp only [fld_eq_extractLsb']
  exact ⟨_, _, if_neg h⟩

section
variable (s : State) (p : Nat) (x : TlbiSt)

/-- R209: no entry of core `q`'s first-level TLB is covered. -/
def tlbDropped (st : State) (q : Nat) : Prop := ∀ e ∈ (st.core q).tlb, s.tlbiCovers p x e = false

/-- R209: a covered entry of die `q`'s last-level TLB is pinned and stale. -/
def llTlbDropped (st : State) (q : Nat) : Prop := ∀ e ∈ Table.getD st.llTlb q [], s.tlbiCovers p x e = true → e.pins ≠ 0 ∧ e.stale = true

variable {s p x}

/-- R209: dropping never adds to a first-level TLB. -/
theorem tlb_dropTlb_subset (st : State) (c q : Nat) : ((dropTlb s p x st c).core q).tlb ⊆ (st.core q).tlb := by
  unfold dropTlb
  split
  · rw [core_modCore]
    split
    · next h =>
      rw [h]
      exact List.filter_subset_self _
    · exact List.Subset.refl _
  · exact List.Subset.refl _

theorem tlbDropped_dropTlb {st : State} {c : Nat} (hdie : (s.part p).dies.getLsbD (dieOfCore c) = true) (hst : (st.core c).tlb ⊆ (s.core c).tlb) :
    tlbDropped s p x (dropTlb s p x st c) c := by
  intro e he
  unfold dropTlb at he
  rw [hdie, Bool.true_and] at he
  cases hempty : (s.core c).tlb.isEmpty with
  | true =>
    rw [hempty, if_neg (by decide)] at he
    have hnone := hst he
    rw [List.isEmpty_iff.mp hempty] at hnone
    exact absurd hnone List.not_mem_nil
  | false =>
    rw [hempty, if_pos (by decide), core_modCore, if_pos rfl] at he
    simpa using (List.mem_filter.mp he).2

/-- R209: every core of a list that lies on a die of the partition has dropped what is covered. -/
theorem tlbDropped_foldl (l : List Nat) (st : State) (hst : ∀ q, (st.core q).tlb ⊆ (s.core q).tlb) {q : Nat} (hq : q ∈ l ∨ tlbDropped s p x st q)
    (hdie : (s.part p).dies.getLsbD (dieOfCore q) = true) : tlbDropped s p x (l.foldl (dropTlb s p x) st) q := by
  induction l generalizing st with
  | nil => exact hq.resolve_left List.not_mem_nil
  | cons c l ih =>
    refine ih _ (fun q => List.Subset.trans (tlb_dropTlb_subset st c q) (hst q)) ?_
    rw [List.mem_cons] at hq
    rcases hq with (rfl | hq) | hq
    · exact .inr (tlbDropped_dropTlb hdie (hst q))
    · exact .inl hq
    · exact .inr fun e he => hq e (tlb_dropTlb_subset st c q he)

theorem llTlbDropped_dropLlTlb {st : State} {d q : Nat} (hq : q = d ∨ llTlbDropped s p x st q) : llTlbDropped s p x (dropLlTlb s p x st d) q := by
  intro e he
  rw [dropLlTlb, Table.getD_put] at he
  by_cases hd : d = q
  · rw [if_pos hd] at he
    obtain ⟨e0, -, he0⟩ := List.mem_filterMap.mp he
    intro hcovers
    cases hcovers0 : s.tlbiCovers p x e0 with
    | false =>
      rw [hcovers0, if_neg (by decide), Option.some.injEq] at he0
      rw [← he0, hcovers0] at hcovers
      exact absurd hcovers (by decide)
    | true =>
      rw [hcovers0, if_pos rfl] at he0
      split at he0
      · exact absurd he0 (by simp)
      · next hpins =>
        rw [← Option.some.inj he0]
        exact ⟨hpins, rfl⟩
  · rw [if_neg hd] at he
    exact (hq.resolve_left (Ne.symm hd)) e he

theorem llTlbDropped_foldl (l : List Nat) (st : State) {q : Nat} (hq : q ∈ l ∨ llTlbDropped s p x st q) :
    llTlbDropped s p x (l.foldl (dropLlTlb s p x) st) q := by
  induction l generalizing st with
  | nil => exact hq.resolve_left List.not_mem_nil
  | cons d l ih =>
    refine ih _ ?_
    rw [List.mem_cons] at hq
    rcases hq with (rfl | hq) | hq
    · exact .inr (llTlbDropped_dropLlTlb (.inl rfl))
    · exact .inl hq
    · exact .inr (llTlbDropped_dropLlTlb (.inr hq))

theorem cores_foldl_dropLlTlb (l : List Nat) (st : State) : (l.foldl (dropLlTlb s p x) st).cores = st.cores :=
  foldl_keeps (g := State.cores) (f := dropLlTlb s p x) (fun _ _ => rfl) l st

end

/-- R209: after an invalidation has begun, it is in progress and no TLB of the partition's dies holds an unpinned entry that it covers. -/
theorem startTlbi_drops {s : State} {p : Nat} {v : Word} (h : (tlbiOf v).op ≠ 3) : let u := s.startTlbi p v
    (u.part p).tlbi = some (tlbiOf v) ∧
      (∀ q < numCores, (s.part p).dies.getLsbD (q / 8) = true → tlbDropped s p (tlbiOf v) u q) ∧
      ∀ q < 4, (s.part p).dies.getLsbD q = true → llTlbDropped s p (tlbiOf v) u q := by
  obtain ⟨riders, gens, hu⟩ := startTlbi_eq (s := s) (p := p) h
  dsimp only
  rw [hu]
  refine ⟨?_, fun q hq hdie => ?_, fun q hq hdie => ?_⟩
  · rw [part_modPart, if_pos rfl]
  · have hdropped := tlbDropped_foldl (s := s) (p := p) (x := tlbiOf v) (List.range numCores) s (fun _ => List.Subset.refl _) (.inl (List.mem_range.mpr hq)) hdie
    intro e he
    refine hdropped e ?_
    rwa [← core_of_cores (cores_foldl_dropLlTlb (s := s) (p := p) (x := tlbiOf v) (s.partDies p) _)]
  · exact llTlbDropped_foldl (s := s) (p := p) (x := tlbiOf v) (s.partDies p) _ (.inl (List.mem_filter.mpr ⟨List.mem_range.mpr hq, hdie⟩))

/-- R209: an invalidation changes no thread, no byte of memory and not the focus. -/
theorem startTlbi_apart (s : State) (p : Nat) (v : Word) :
    (s.startTlbi p v).threads = s.threads ∧ (s.startTlbi p v).focus = s.focus ∧ (s.startTlbi p v).mem = s.mem := by
  obtain ⟨hapart, -⟩ := s.startTlbi_frame p v
  exact ⟨(congrArg State.threads hapart :), (congrArg State.focus hapart :), (congrArg State.mem hapart :)⟩

/-! ### The accesses -/

section
variable {s : State} {k : CsrOp} {d a : Reg}

/-- R22: TRUN and TLBI read 0. -/
theorem readCsr_writeOnly (s : State) (k : Nat) : s.readCsr k 0x129 = 0 ∧ s.readCsr k 0x118 = 0 := ⟨ite_self 0, ite_self 0⟩

/-- R357: TSTAT_WRITE sets AE alone. -/
theorem tstatWrite_ends (hwrites : k = .write ∨ a ≠ 0) : let v := csrValue s k a (s.tstat s.me)
    ∃ t, exec (.tstatWrite k d a) s = .next t ∧ t.gpr d = (if d = 0 then 0 else s.tstat s.me) ∧ t.pc = s.pc + 4 ∧ s.sameRegsBut t s.me d ∧
      t.cur.ae = v.getLsbD 3 ∧ { t.cur with gpr := s.cur.gpr, pc := s.pc, ae := s.cur.ae } = s.cur ∧
      (∀ j, j ≠ s.me → t.thread j = s.thread j) ∧ { t with threads := s.threads } = s ∧ s.sameBytes t := by
  have hfault : csrFault s.cur.mode 0x001 = none := by cases s.cur.mode <;> rfl
  obtain ⟨t, ht, hd, hpc, hframe⟩ := State.finish_next (s.writeCsr s.me 0x001 (csrValue s k a (s.tstat s.me))) d (s.tstat s.me)
  have hexec : exec (.tstatWrite k d a) s = .next t := (csrAccess_of_writes _ hfault rfl hwrites).trans ht
  have honly := onlyThread_setThread s s.me { s.cur with ae := fld (csrValue s k a (s.tstat s.me)) 3 1 == 1 }
  obtain ⟨hcur, hmachine⟩ := RegisterFrame.after_setThread hframe
  refine ⟨t, hexec, hd, hpc.trans (congrArg (· + 4) honly.pc), ?_, ?_, ?_, fun j hj => ?_, hmachine, hframe.memory⟩
  · exact State.sameRegsBut_trans (State.sameRegsBut_of_sameRegs (honly.sameRegs rfl) _ _) hframe.registers
  · exact (congrArg ThreadSt.ae hcur :).trans (fld_bit_iff _ _)
  · exact (congrArg (fun x : ThreadSt => { x with ae := s.cur.ae }) hcur :)
  · exact (hframe.others j hj).trans (honly.others j hj)

/-- R209: TLBI_WRITE starts an invalidation. -/
theorem tlbiWrite_ends (hwrites : k = .write ∨ a ≠ 0) (hmode : s.cur.mode = true) (hidle : (s.part s.myPart).tlbi = none) :
    let v := csrValue s k a 0
    ∃ t, exec (.tlbiWrite k d a) s = .next t ∧ t.gpr d = 0 ∧ t.pc = s.pc + 4 ∧ s.sameRegsBut t s.me d ∧ s.sameBytes t ∧ ThreadFrame s t d ∧
      ((tlbiOf v).op = 3 → { t with threads := s.threads } = s) ∧
      ((tlbiOf v).op ≠ 3 → (t.part s.myPart).tlbi = some (tlbiOf v) ∧
        (∀ q < numCores, (s.part s.myPart).dies.getLsbD (q / 8) = true → tlbDropped s s.myPart (tlbiOf v) t q) ∧
        ∀ q < 4, (s.part s.myPart).dies.getLsbD q = true → llTlbDropped s s.myPart (tlbiOf v) t q) := by
  have hfault : csrFault s.cur.mode 0x118 = none := by rw [hmode]; rfl
  have hwaits : s.tlbiWaits s.me 0x118 = false := by
    rw [State.tlbiWaits, show (s.part (s.partOf (coreOf s.me))).tlbi = none from hidle, Option.isSome_none, Bool.and_false]
  have hwrite : s.writeCsr s.me 0x118 (csrValue s k a 0) = s.startTlbi s.myPart (csrValue s k a 0) := by
    unfold State.writeCsr
    dsimp only
    rw [show (s.thread s.me).mode = true from hmode]
    rfl
  obtain ⟨t, ht, hd, hpc, hframe⟩ := State.finish_next (s.startTlbi s.myPart (csrValue s k a 0)) d 0
  have hexec : exec (.tlbiWrite k d a) s = .next t := by
    refine (csrAccess_of_writes _ hfault hwaits hwrites).trans ?_
    rw [(readCsr_writeOnly s s.me).2, hwrite, ht]
  obtain ⟨hthreads, hfocus, hmem⟩ := startTlbi_apart s s.myPart (csrValue s k a 0)
  obtain ⟨hpc', hregs, hothers⟩ := hframe.threads_of_sameThreads hthreads hfocus
  obtain ⟨hcur, hmachine⟩ := hframe.after_sameThreads hthreads hfocus
  refine ⟨t, hexec, hd.trans (ite_self 0), hpc.trans (congrArg (· + 4) hpc'), hregs, fun b => (hframe.memory b).trans (by rw [hmem]),
    ⟨hregs, ?_, hothers, ?_⟩, fun hop => ?_, fun hop => ?_⟩
  · exact (congrArg (fun x : ThreadSt => { x with loads := s.cur.loads }) hcur :)
  · exact (congrArg State.focus hmachine :).trans hfocus
  · rw [hmachine]
    unfold State.startTlbi
    simp only [fld_eq_extractLsb']
    exact if_pos hop
  · obtain ⟨hstarted, htlb, hlltlb⟩ := startTlbi_drops (s := s) (p := s.myPart) hop
    rw [← hmachine] at hstarted htlb hlltlb
    exact ⟨hstarted, htlb, hlltlb⟩

/-- R209: TLBI_WRITE while an invalidation is in progress waits. -/
theorem tlbiWrite_waits (hwrites : k = .write ∨ a ≠ 0) (hmode : s.cur.mode = true) (hbusy : (s.part s.myPart).tlbi.isSome = true) :
    ∃ t, exec (.tlbiWrite k d a) s = .next t ∧ t.cur.run = .waiting ∧ t.pc = s.pc ∧ s.sameRegs t ∧ (∀ j, j ≠ s.me → t.thread j = s.thread j) ∧
      { t with threads := s.threads } = s ∧ s.sameBytes t := by
  have hfault : csrFault s.cur.mode 0x118 = none := by rw [hmode]; rfl
  have hwaits : s.tlbiWaits s.me 0x118 = true := by
    rw [State.tlbiWaits, show (s.thread s.me).mode = true from hmode, show (s.part (s.partOf (coreOf s.me))).tlbi.isSome = true from hbusy]
    rfl
  have hexec : exec (.tlbiWrite k d a) s =
      .next (s.modMe fun t => { t with run := .waiting, wait := { code := .none, word := wordOf (.tlbiWrite k d a) } }) := by
    change s.csrAccess _ k d a 0x118 = _
    rw [State.csrAccess, hfault]
    dsimp only
    rw [csrNew_of_writes s _ hwrites]
    dsimp only
    rw [hwaits, if_pos rfl]
  have hend := (OnlyThread.refl s s.me).modMe fun t => { t with run := .waiting, wait := { code := .none, word := wordOf (.tlbiWrite k d a) } }
  refine ⟨_, hexec, ?_, hend.pc, hend.sameRegs rfl, hend.others, hend.machine, hend.sameBytes⟩
  rw [hend.cur]

/-- R357, R416: the run state of a thread of core `c` that goes on. -/
theorem readyOrResting_of_core (s : State) (n c : Nat) (hn : n < 4) : let x := s.thread (c * 4 + n); let p := s.partOf c
    s.readyOrResting (c * 4 + n) = if x.mode || s.running p == x.tenant && !(s.part p).inGuard then .ready else .resting := by
  have hcore : coreOf (c * 4 + n) = c := by
    unfold coreOf
    omega
  unfold State.readyOrResting State.tenantRuns
  rw [hcore]

/-- R357: what a register write after another thread has gone on makes of the threads. -/
theorem RegisterFrame.after_resumeStopped {t : State} {j : Nat} {at_ : Word} (h : RegisterFrame (s.resumeStopped j at_) t d) (hj : j ≠ s.me) :
    (s.resumeStopped j at_).pc = s.pc ∧ s.sameRegsBut t s.me d ∧ { t.cur with gpr := s.cur.gpr, pc := s.pc } = s.cur ∧
      (∀ q, q ≠ s.me → q ≠ j → t.thread q = s.thread q) ∧
      t.thread j = { s.thread j with run := s.readyOrResting j, savedRun := .ready, wait := {}, pc := at_, brkStop := false } := by
  have hme : (s.resumeStopped j at_).me = s.me := congrArg Focus.thread (focus_resumeStopped s j at_)
  have hcur : (s.resumeStopped j at_).cur = s.cur := by
    rw [State.cur, hme]
    exact s.otherThreads_resumeStopped j at_ _ (Ne.symm hj)
  obtain ⟨hregs, hthread, hothers, -, -⟩ := h
  rw [hcur] at hthread
  rw [hme] at hregs hothers
  exact ⟨by rw [State.pc, hcur]; rfl, State.sameRegsBut_trans (State.sameRegsBut_of_sameRegs (s.sameRegs_resumeStopped j at_) _ _) hregs, hthread,
    fun q hq hqj => (hothers q hq).trans (s.otherThreads_resumeStopped j at_ q hqj), (hothers j hj).trans (s.thread_resumeStopped j at_)⟩

/-- R357: what a write of TRUN does to the thread that it names, and what it leaves. -/
theorem trunWrite_ends (hwrites : k = .write ∨ a ≠ 0) (hready : s.cur.run = .ready) (hmode : s.cur.mode = true) :
    let v := csrValue s k a 0; let j := s.myCore * 4 + (v.extractLsb' 0 2).toNat; let x := s.thread j; let p := s.myPart
    ∃ t, exec (.trunWrite k d a) s = .next t ∧ t.gpr d = 0 ∧ t.pc = s.pc + 4 ∧ s.sameRegsBut t s.me d ∧
      { t.cur with gpr := s.cur.gpr, pc := s.pc } = s.cur ∧ (∀ q, q ≠ s.me → q ≠ j → t.thread q = s.thread q) ∧
      (j ≠ s.me → x.run ≠ .stopped ∨ x.brkStop = true → t.thread j = x ∧ s.sameBytes t) ∧
      (x.run = .stopped → x.brkStop = false → (t.thread j).pc = (if v.extractLsb' 2 62 = 0 then x.resume else v.extractLsb' 2 62 ++ 0#2) ∧
        (t.thread j).run = (if x.mode || s.running p == x.tenant && !(s.part p).inGuard then .ready else .resting) ∧
        { t.thread j with pc := x.pc, run := x.run, savedRun := x.savedRun, wait := x.wait } = x ∧ ((t.thread j).run = .ready → s.sameBytes t)) := by
  intro v j x p
  have hfault : csrFault s.cur.mode 0x129 = none := by rw [hmode]; rfl
  have hwrite : s.writeCsr s.me 0x129 v = s.restartThread j (fld v 2 62) := by
    unfold State.writeCsr
    dsimp only
    rw [show (s.thread s.me).mode = true from hmode, fld_eq_extractLsb' v 0 2]
    rfl
  obtain ⟨t, ht, hd, hpc, hframe⟩ := State.finish_next (s.restartThread j (fld v 2 62)) d 0
  have hexec : exec (.trunWrite k d a) s = .next t := by
    refine (csrAccess_of_writes _ hfault rfl hwrites).trans ?_
    rw [(readCsr_writeOnly s s.me).1]
    exact (congrArg (fun u : State => u.finish d 0) hwrite).trans ht
  refine ⟨t, hexec, hd.trans (ite_self 0), ?_⟩
  by_cases hstopped : x.run = .stopped ∧ x.brkStop = false
  · obtain ⟨hrun, hbrk⟩ := hstopped
    have hj : j ≠ s.me := fun hj => absurd (hready.symm.trans ((congrArg (fun k => (s.thread k).run) hj.symm).trans hrun)) (by decide)
    rw [restartThread_of_stopped _ hrun hbrk] at hpc hframe
    obtain ⟨hpc', hregs, hthread, hothers, hnamed⟩ := hframe.after_resumeStopped hj
    refine ⟨hpc.trans (congrArg (· + 4) hpc'), hregs, hthread, hothers, fun _ hgoes => ?_, fun _ _ => ?_⟩
    · exact absurd hgoes (by simp [hrun, hbrk])
    · have hrunj : (t.thread j).run = s.readyOrResting j := (congrArg ThreadSt.run hnamed :)
      refine ⟨?_, hrunj.trans (readyOrResting_of_core s _ _ (v.extractLsb' 0 2).isLt), ?_, fun h b => ?_⟩
      · have hzero : (v.extractLsb' 2 62).toNat = 0 ↔ v.extractLsb' 2 62 = 0 := BitVec.toNat_inj (y := 0#62)
        rw [hnamed, wd_fld_mul_four, fld_eq_extractLsb']
        simp only [hzero]
        rfl
      · rw [hnamed, ← hbrk]
      · rw [hframe.memory b, mem_resumeStopped_of_ready _ (hrunj.symm.trans h)]
  · have hstays : x.run ≠ .stopped ∨ x.brkStop = true := by
      rw [not_and_or, Bool.not_eq_false] at hstopped
      exact hstopped
    rw [restartThread_of_not_stopped _ hstays] at hpc hframe
    exact ⟨hpc, hframe.registers, hframe.thread, fun q hq _ => hframe.others q hq, fun hj _ => ⟨hframe.others j hj, hframe.memory⟩,
      fun hrun hbrk => absurd ⟨hrun, hbrk⟩ hstopped⟩

end

/-- Settles O15, by the three registers; TLBI by whether an invalidation is in progress. -/
theorem threadControlWrites : Obligations.ThreadControlWrites := by
  unfold Obligations.ThreadControlWrites
  intro s k d a hwrites hready
  exact ⟨tstatWrite_ends hwrites, trunWrite_ends hwrites hready, tlbiWrite_ends hwrites, tlbiWrite_waits hwrites⟩

end Sys2Proof.Machine
end

section
/-! O19: a fetch that fails (R62), and the entry of a pending asynchronous trap (R25, R26, R71, R326, R342). -/

namespace Sys2Proof.Machine

/-! ### FETCH_FAULT (R62) -/

theorem offPath_fetchTarget (s : State) (k : Nat) : (fetchTarget s k).1.offPath = s.offPath := by
  unfold fetchTarget
  dsimp only
  split
  · split <;> exact s.offPath_resolve _ _ _
  · exact s.offPath_resolve _ _ _

theorem exec_fetchFault {s : State} {code : Nat} (h : (fetchTarget s s.me).2 = .error code) :
    exec .fetchFault s = (fetchTarget s s.me).1.raise 0 code s.pc := by
  change execFetchFault s = _
  unfold execFetchFault
  dsimp only
  rw [h]

/-- R26, R62: the trap of a fetch is taken at the pc, and in tenant mode with a handler enters there. -/
theorem fetchFault_traps {s : State} {code : Nat} (h : (fetchTarget s s.me).2 = .error code) : ∃ t, exec .fetchFault s = .next t ∧ s.sameRegs t ∧
    let r := (fetchTarget s s.me).1
    t = r.trapThread s.me false (code % 256) s.pc (r.trapRec s.me code 0 s.pc) false ∧
    (s.cur.mode = false → s.cur.tvec ≠ 0 → s.cur.exl = false → code % 256 ≠ 0x16 → t.cur.epc = s.pc ∧ t.cur.eval = s.pc ∧ t.pc = s.cur.tvec ++ 0#2) := by
  have hexec := exec_fetchFault h
  have hoff := offPath_fetchTarget s s.me
  generalize (fetchTarget s s.me).1 = r at hexec hoff
  have hme := State.me_of_offPath hoff
  have hcur : r.thread s.me = s.cur := State.thread_of_offPath hoff s.me
  refine ⟨r.trapThread s.me false (code % 256) s.pc (r.trapRec s.me code 0 s.pc) false, ?_, ?_, rfl, fun hmode htvec hexl hsvc => ?_⟩
  · rw [hexec, State.raise, State.trapAt, hme]
  · exact State.sameRegs_trans (State.sameRegs_of_offPath hoff) (r.sameRegs_trapThread _ _ _ _ _ _)
  · rw [State.trapThread_enter _ _ (by rwa [hcur]) hsvc (by rwa [hcur]) (by rwa [hcur]), hcur]
    have hend : ∀ x, (r.setThread s.me x).cur = x := fun x => hme ▸ r.cur_setThread x
    exact ⟨congrArg ThreadSt.epc (hend _), congrArg ThreadSt.eval (hend _), congrArg ThreadSt.pc (hend _)⟩

/-! ### The cases of an asynchronous trap (R26, R326) -/

section
variable {s : State} {k code : Nat} (value : Word) (r : FaultRec) (fabric : Bool)

/-- R26: entry to the tenant's own handler. -/
theorem trapThread_async_enter (hmode : (s.thread k).mode = false) (hcode : code ≠ codeSVC) (htvec : (s.thread k).tvec ≠ 0)
    (hexl : (s.thread k).exl = false) : s.trapThread k true code value r fabric = s.setThread k
      { s.thread k with epc := (s.thread k).pc, ecause := wd (2 ^ 63 + code), eval := if fabric then r.f0 else value, frec := r, pmode := false,
                        exl := true, pc := (s.thread k).tvec ++ 0#2, run := .ready, wait := {}, notBefore := s.cycle + State.trapGap } := by
  unfold State.trapThread
  dsimp only
  rw [if_neg (by simpa [hmode, hcode, hexl] using htvec)]
  rfl

/-- R326: a trap that the tenant's handler does not take goes to the supervisor. -/
theorem trapThread_async_escalate (h : (s.thread k).mode = true ∨ code = codeSVC ∨ (s.thread k).tvec = 0) :
    s.trapThread k true code value r fabric = s.toSupervisor k true code value r fabric := by
  unfold State.trapThread
  dsimp only
  rw [if_pos]
  rcases h with h | h | h <;> simp [h]

/-- R326: what an asynchronous trap to the supervisor writes in the thread before it enters or stops. -/
def asyncSupervisorTrap (s : State) (k code : Nat) (value : Word) (r : FaultRec) (fabric : Bool) : ThreadSt :=
  let up := if (s.thread k).mode then r else r.flag flagESC
  { s.thread k with sepc := (s.thread k).pc, scause := wd (2 ^ 63 + code), seval := if fabric then up.f0 else value, sfrec := up,
                    run := .ready, wait := {}, notBefore := s.cycle + State.trapGap }

theorem toSupervisor_async_enter (hsexl : (s.thread k).sexl = false) (h : (s.thread k).mode = true ∨ (s.core (coreOf k)).stvec ≠ 0) :
    s.toSupervisor k true code value r fabric = (s.setThread k (asyncSupervisorTrap s k code value r fabric)).modThread k fun x =>
      { x with spmode := (s.thread k).mode, sexl := true, mode := true, pc := (s.core (coreOf k)).stvec ++ 0#2 } := by
  unfold State.toSupervisor
  dsimp only
  rw [if_neg (by simp [hsexl]), if_neg]
  · rfl
  · rcases h with h | h
    · simp [h]
    · simpa using fun _ => h

theorem toSupervisor_async_stop (hsexl : (s.thread k).sexl = false) (hmode : (s.thread k).mode = false) (hstvec : (s.core (coreOf k)).stvec = 0) :
    s.toSupervisor k true code value r fabric =
      ((s.setThread k (asyncSupervisorTrap s k code value r fabric)).stopThread k (s.thread k).pc).threadNotice k 2 code (s.thread k).pc (wd (2 ^ 63 + code)) := by
  unfold State.toSupervisor
  dsimp only
  rw [if_neg (by simp [hsexl]), if_pos (by simp [hmode, hstvec])]
  rfl

end

/-! ### ASYNC_TRAP_ENTRY (R25, R342) -/

/-- R25, R71: the boundary at which a pending trap is taken: after a PAUSE, at the pc otherwise. -/
def boundaryPc (x : ThreadSt) : Word := if x.run = .waiting ∧ x.wait.code = .pause then x.pc + 4 else x.pc

/-- R342: the record of a pending trap, with LOST if one was dropped. -/
def pendingRecord (x : ThreadSt) (p : PendTrap) : FaultRec := if x.lost then p.frec.flag flagLOST else p.frec

/-- R25, R342: the thread at its boundary, the oldest pending trap taken from its queue. -/
def atBoundary (x : ThreadSt) (rest : List PendTrap) : ThreadSt :=
  { x with pend := rest, lost := false, pc := boundaryPc x, run := .ready, wait := {} }

/-- R25: what is so of a thread that can take a pending trap. -/
theorem takeable_of_asyncDue {s : State} {k : Nat} (h : s.asyncDue k = true) : (s.thread k).exl = false ∧ (s.thread k).sexl = false := by
  simp only [State.asyncDue, State.takeable, Bool.and_eq_true, Bool.not_eq_true'] at h
  obtain ⟨⟨⟨⟨-, hexl⟩, hsexl⟩, -⟩, -⟩ := h
  exact ⟨hexl, hsexl⟩

theorem exec_asyncTrapEntry {s : State} {p : PendTrap} {rest : List PendTrap} (hpend : (s.thread s.focus.thread).pend = p :: rest)
    (hdue : s.asyncDue s.focus.thread = true) : let x := s.thread s.focus.thread
    exec .asyncTrapEntry s = .next
      ((s.setThread s.focus.thread (atBoundary x rest)).trapThread s.focus.thread true p.code 0 (pendingRecord x p) p.fabric) := by
  change execAsyncTrapEntry s = _
  unfold execAsyncTrapEntry
  dsimp only
  rw [if_pos hdue]
  unfold State.takeAsync
  dsimp only
  rw [hpend]
  simp only [atBoundary, boundaryPc, pendingRecord, Bool.and_eq_true, beq_iff_eq]

section
variable {s : State} {k : Nat} {p : PendTrap} {rest : List PendTrap} (r : FaultRec)

theorem thread_setThread_self (s : State) (k : Nat) (x : ThreadSt) : (s.setThread k x).thread k = x := (s.thread_setThread k k x).trans (if_pos rfl)

/-- R342: the tenant's own handler takes a pending trap. -/
theorem pendingTrap_enter (hmode : (s.thread k).mode = false) (htvec : (s.thread k).tvec ≠ 0) (hexl : (s.thread k).exl = false) (hcode : p.code ≠ 0x16) :
    let x := s.thread k
    OnlyThread s ((s.setThread k (atBoundary x rest)).trapThread k true p.code 0 r p.fabric) k
      { atBoundary x rest with epc := boundaryPc x, ecause := wd (2 ^ 63 + p.code), eval := if p.fabric then r.f0 else 0, frec := r, pmode := false,
                               exl := true, pc := x.tvec ++ 0#2, notBefore := s.cycle + 3 } := by
  intro x
  have hx : (s.setThread k (atBoundary x rest)).thread k = atBoundary x rest := thread_setThread_self _ _ _
  rw [trapThread_async_enter _ _ _ (by rw [hx]; exact hmode) hcode (by rw [hx]; exact htvec) (by rw [hx]; exact hexl), hx]
  exact (onlyThread_setThread s k (atBoundary x rest)).setThread _

/-- R326, R342: what a pending trap that goes to the supervisor writes in the thread. -/
def pendingToSupervisor (x : ThreadSt) (rest : List PendTrap) (p : PendTrap) (r : FaultRec) (cycle : Nat) : ThreadSt :=
  let up := if x.mode then r else r.flag flagESC
  { atBoundary x rest with sepc := boundaryPc x, scause := wd (2 ^ 63 + p.code), seval := if p.fabric then up.f0 else 0, sfrec := up,
                           notBefore := cycle + 3 }

theorem pendingTrap_toSupervisor (hmode : (s.thread k).mode = true ∨ p.code = 0x16 ∨ (s.thread k).tvec = 0) (hsexl : (s.thread k).sexl = false)
    (h : (s.thread k).mode = true ∨ (s.core (coreOf k)).stvec ≠ 0) : let x := s.thread k
    OnlyThread s ((s.setThread k (atBoundary x rest)).trapThread k true p.code 0 r p.fabric) k
      { pendingToSupervisor x rest p r s.cycle with spmode := x.mode, sexl := true, mode := true, pc := (s.core (coreOf k)).stvec ++ 0#2 } := by
  intro x
  have hx : (s.setThread k (atBoundary x rest)).thread k = atBoundary x rest := thread_setThread_self _ _ _
  rw [trapThread_async_escalate _ _ _ (by rw [hx]; exact hmode), toSupervisor_async_enter _ _ _ (by rw [hx]; exact hsexl) (by rw [hx]; exact h),
    asyncSupervisorTrap, hx]
  exact ((onlyThread_setThread s k (atBoundary x rest)).setThread _).modThread _

/-- R326, R356: without a supervisor's vector the thread is STOPPED, with a notice. -/
theorem pendingTrap_stops (hmode : (s.thread k).mode = false) (hcode : p.code = 0x16 ∨ (s.thread k).tvec = 0) (hsexl : (s.thread k).sexl = false)
    (h : (s.core (coreOf k)).stvec = 0) : let x := s.thread k
    ∃ u, (s.setThread k (atBoundary x rest)).trapThread k true p.code 0 r p.fabric =
        u.threadNotice k 2 p.code (boundaryPc x) (wd (2 ^ 63 + p.code)) ∧
      OnlyThread s u k { pendingToSupervisor x rest p r s.cycle with run := .stopped, wait := {}, resume := boundaryPc x, pc := boundaryPc x } := by
  intro x
  have hx : (s.setThread k (atBoundary x rest)).thread k = atBoundary x rest := thread_setThread_self _ _ _
  rw [trapThread_async_escalate _ _ _ (by rw [hx]; exact .inr hcode),
    toSupervisor_async_stop (s := s.setThread k (atBoundary x rest)) _ _ _ (by rw [hx]; exact hsexl) (by rw [hx]; exact hmode) h, asyncSupervisorTrap, hx]
  exact ⟨_, rfl, ((onlyThread_setThread s k (atBoundary x rest)).setThread _).modThread _⟩

/-- R343: what a thread's notice leaves as it was. -/
theorem notice_after_onlyThread {u : State} {x : ThreadSt} (honly : OnlyThread s u k x) (htenant : x.tenant = (s.thread k).tenant)
    (kind code : Nat) (d0 d1 : Word) : let t := u.threadNotice k kind code d0 d1
    t.thread k = x ∧ Notified s t k kind code d0 d1 ∧ s.otherThreads t k ∧ { t with threads := s.threads, mem := s.mem, notices := s.notices } = s := by
  refine ⟨honly.thread, ?_, honly.others, (congrArg (fun v : State => { v with mem := s.mem, notices := s.notices }) honly.machine :)⟩
  refine State.notified_threadNotice kind code d0 d1 (congrArg State.mem honly.machine :) (congrArg State.notices honly.machine :)
    (congrArg State.when honly.machine :) ?_
  rw [honly.thread, htenant]

end

/-- R342: a held SOW completes before a pending trap is taken. -/
theorem asyncDue_of_sow {s : State} {k : Nat} (hrun : (s.thread k).run = .ready) (hsow : (s.thread k).wait.code = .sow) : s.asyncDue k = false := by
  unfold State.asyncDue
  dsimp only
  rw [hrun, hsow]
  exact Bool.and_false _

/-- Settles O19, by the trap of the fetch and by the cases of a pending trap: the tenant's handler, the supervisor's, and no vector. -/
theorem fetchFaultsAndPendingTraps : Obligations.FetchFaultsAndPendingTraps := by
  unfold Obligations.FetchFaultsAndPendingTraps
  refine ⟨fun s code => fetchFault_traps, fun s p rest hpend hdue => ?_, fun s hrun hsow => ?_⟩
  · have hexec := exec_asyncTrapEntry hpend hdue
    obtain ⟨hexl, hsexl⟩ := takeable_of_asyncDue hdue
    refine ⟨fun hmode htvec hcode => ?_, fun h => ?_, fun hmode h hstvec => ?_⟩
    · have honly := pendingTrap_enter (rest := rest) (pendingRecord (s.thread s.focus.thread) p) hmode htvec hexl hcode
      exact ⟨_, hexec, honly.thread, honly.others, honly.machine, honly.sameBytes⟩
    · have honly := pendingTrap_toSupervisor (rest := rest) (p := p) (pendingRecord (s.thread s.focus.thread) p)
        (h.imp_right fun h => Or.symm h.1) hsexl (h.imp_right And.right)
      exact ⟨_, hexec, honly.thread, honly.others, honly.machine, honly.sameBytes⟩
    · obtain ⟨u, hu, honly⟩ := pendingTrap_stops (rest := rest) (p := p) (pendingRecord (s.thread s.focus.thread) p) hmode (Or.symm h) hsexl hstvec
      exact ⟨_, hexec.trans (congrArg _ hu), notice_after_onlyThread honly rfl _ _ _ _⟩
  · change execAsyncTrapEntry s = _
    unfold execAsyncTrapEntry
    dsimp only
    rw [asyncDue_of_sow hrun hsow, if_neg Bool.false_ne_true]

end Sys2Proof.Machine
end

section
/-! O20: EXIT (R69, R229, R355), YIELD (R70) and PAUSE (R71). -/

namespace Sys2Proof.Machine

namespace State

/-! ### What barriers do to a thread (R229) -/

/-- What neither a barrier nor the release of a waiter changes: the focus, and how often thread `k` has issued. -/
def focusAndSeq (k : Nat) (s : State) : Focus × Nat := (s.focus, (s.thread k).seq)

variable (s : State) (k : Nat)

theorem focusAndSeq_modThread (j : Nat) (f : ThreadSt → ThreadSt) (hf : ∀ x, (f x).seq = x.seq) :
    focusAndSeq k (s.modThread j f) = focusAndSeq k s := by
  refine Prod.ext rfl ?_
  change ((s.setThread j (f (s.thread j))).thread k).seq = (s.thread k).seq
  rw [State.thread_setThread]
  split
  · next h => rw [hf, h]
  · rfl

theorem focusAndSeq_setGprOf (j : Nat) (d : Reg) (v : Word) : focusAndSeq k (s.setGprOf j d v) = focusAndSeq k s := by
  rw [State.setGprOf_eq]
  split
  · rfl
  · exact s.focusAndSeq_modThread k j (fun x => { x with gpr := Table.putD x.gpr d.toNat v 0 }) fun _ => rfl

theorem focusAndSeq_release (j : Nat) (v : Word) : focusAndSeq k (s.release j v) = focusAndSeq k s := by
  unfold State.release
  dsimp only
  split
  · exact s.focusAndSeq_modThread k j (fun x => { x with grant := some v }) fun _ => rfl
  · exact ((s.setGprOf j _ v).focusAndSeq_modThread k j _ (by intro _; rfl)).trans (s.focusAndSeq_setGprOf k j _ v)

theorem focusAndSeq_releaseWaiters (p b status : Nat) : focusAndSeq k (s.releaseWaiters p b status) = focusAndSeq k s :=
  foldl_keeps (g := focusAndSeq k) (fun st j => focusAndSeq_release st k j _) _ s

theorem focusAndSeq_openTest (p b : Nat) : focusAndSeq k (s.openTest p b) = focusAndSeq k s := by
  unfold openTest
  dsimp only
  split
  · exact focusAndSeq_releaseWaiters _ k p b 0
  · rfl

theorem focusAndSeq_leaveBarrier (p b j : Nat) : focusAndSeq k (s.leaveBarrier p b j) = focusAndSeq k s := focusAndSeq_openTest _ k p b

theorem focusAndSeq_breakBarrier (p b dead : Nat) : focusAndSeq k (s.breakBarrier p b dead) = focusAndSeq k s := by
  unfold breakBarrier
  refine (foldl_keeps (g := focusAndSeq k) (fun st j => ?_) _ _).trans (focusAndSeq_releaseWaiters _ k p b 3)
  exact st.focusAndSeq_modThread k j _ (by intro x; dsimp only; split <;> (try split) <;> rfl)

/-- A thread that no step of a fold touches. -/
theorem foldl_thread_of_not_mem {f : State → Nat → State} (hf : ∀ st j, j ≠ k → (f st j).thread k = st.thread k) (l : List Nat) (h : k ∉ l) :
    (l.foldl f s).thread k = s.thread k := by
  induction l generalizing s with
  | nil => rfl
  | cons j l ih =>
    rw [List.mem_cons, not_or] at h
    exact (ih (f s j) h.2).trans (hf s j (Ne.symm h.1))

theorem otherThreads_modThread (j : Nat) (f : ThreadSt → ThreadSt) : s.otherThreads (s.modThread j f) j := s.otherThreads_setThread j _

theorem otherThreads_release (j : Nat) (v : Word) : s.otherThreads (s.release j v) j := by
  unfold release
  dsimp only
  split
  · exact s.otherThreads_setThread j _
  · exact otherThreads_trans (fun i hi => s.thread_setGprOf_ne j i _ v hi) (otherThreads_modThread _ j _)

variable {s k}

/-- R229: only the threads that wait in BARW wait at a barrier. -/
theorem not_mem_barWaiters (p b : Nat) (h : (s.thread k).wait.code ≠ .barw) : k ∉ s.barWaiters p b := fun hk => by
  have hwaits := (List.mem_filter.mp hk).2
  simp only [Bool.and_eq_true, beq_iff_eq] at hwaits
  exact h hwaits.1.1.1.1

/-- R229: a barrier that breaks leaves a thread that does not wait in BARW as it was. -/
theorem thread_breakBarrier (p b dead : Nat) (h : (s.thread k).wait.code ≠ .barw) : (s.breakBarrier p b dead).thread k = s.thread k := by
  unfold breakBarrier releaseWaiters
  dsimp only
  refine (foldl_thread_of_not_mem _ k (fun st j hj => ?_) _ (not_mem_barWaiters p b h)).trans ?_
  · exact otherThreads_modThread st j _ k (Ne.symm hj)
  · exact foldl_thread_of_not_mem _ k (fun st j hj => otherThreads_release st j _ k (Ne.symm hj)) _ (not_mem_barWaiters p b h)

/-! ### EXIT -/

/-- R69: the state of EXIT before the thread's registers are reset. -/
def leaving (s : State) (k : Nat) (killed : Bool) : State :=
  let u := (s.drainCore (coreOf k)).dropDivide k
  if killed then u else (s.barriersOf k).foldl (fun st b => st.leaveBarrier (s.partOf (coreOf k)) b k) u

/-- R69: the state of EXIT with the thread FREE. -/
def left (s : State) (k : Nat) (killed : Bool) : State := (s.leaving k killed).setThread k { seq := ((s.leaving k killed).thread k).seq }

theorem endThread_eq (s : State) (k : Nat) (killed : Bool) : s.endThread k killed =
    if killed then (s.barriersOf k).foldl (fun st b => st.breakBarrier (s.partOf (coreOf k)) b (deadNumber k)) (s.left k killed) else s.left k killed := rfl

theorem focusAndSeq_leaving (s : State) (k : Nat) (killed : Bool) : focusAndSeq k (s.leaving k killed) = focusAndSeq k s := by
  have hdrained : focusAndSeq k ((s.drainCore (coreOf k)).dropDivide k) = focusAndSeq k s := by
    refine Prod.ext (s.pathFrame_drainCore (coreOf k)).focus ?_
    rcases s.wokenAs_drainCore (coreOf k) k with h | ⟨-, h⟩
    · exact (congrArg ThreadSt.seq h :)
    · exact (congrArg ThreadSt.seq h :)
  unfold leaving
  split
  · exact hdrained
  · exact (foldl_keeps (g := focusAndSeq k) (fun st b => focusAndSeq_leaveBarrier st k _ b k) _ _).trans hdrained

/-- R69, R355: the thread that ends is FREE, its registers and CSRs at reset. -/
theorem thread_endThread (s : State) (k : Nat) (killed : Bool) : (s.endThread k killed).thread k = { seq := (s.thread k).seq } := by
  have hleft : (s.left k killed).thread k = { seq := (s.thread k).seq } := by
    rw [left, thread_setThread, if_pos rfl, show ((s.leaving k killed).thread k).seq = (s.thread k).seq from
      congrArg Prod.snd (focusAndSeq_leaving s k killed)]
  rw [endThread_eq]
  split
  · have hbreaks : ∀ (l : List Nat) (st : State), st.thread k = { seq := (s.thread k).seq } →
        (l.foldl (fun st b => st.breakBarrier (s.partOf (coreOf k)) b (deadNumber k)) st).thread k = { seq := (s.thread k).seq } := by
      intro l
      induction l with
      | nil => exact fun _ h => h
      | cons b l ih => exact fun st h => ih _ ((thread_breakBarrier _ b _ (by rw [h]; exact (by decide : WaitCode.none ≠ .barw))).trans h)
    exact hbreaks _ _ hleft
  · exact hleft

theorem focus_endThread (s : State) (k : Nat) (killed : Bool) : (s.endThread k killed).focus = s.focus := by
  have hleft : (s.left k killed).focus = s.focus := congrArg Prod.fst (focusAndSeq_leaving s k killed)
  rw [endThread_eq]
  split
  · exact (congrArg Prod.fst (foldl_keeps (g := focusAndSeq k) (fun st b => focusAndSeq_breakBarrier st k _ b _) _ _)).trans hleft
  · exact hleft

/-- R69: with nothing buffered and no barrier that counts it, the thread's end changes that thread alone and no byte. -/
theorem endThread_of_quiet {s : State} {k : Nat} (killed : Bool) (hstores : (s.core (coreOf k)).stores = []) (hbarriers : s.barriersOf k = []) :
    s.otherThreads (s.endThread k killed) k ∧ s.sameBytes (s.endThread k killed) := by
  have hend : s.endThread k killed = s.left k killed := by
    rw [endThread_eq, hbarriers]
    exact ite_self _
  have hleaving : s.leaving k killed = (s.modCore (coreOf k) fun x => { x with stores := [] }).dropDivide k := by
    rw [leaving, hbarriers, drainCore_of_empty hstores]
    exact ite_self _
  rw [hend, left, hleaving]
  exact ⟨otherThreads_setThread _ _ _, fun _ => rfl⟩

end State

/-- R69, R73: EXIT of thread 0 in supervisor mode halts it. -/
theorem exec_exit_of_halt {s : State} (hmode : s.cur.mode = true) (hzero : s.me % 4 = 0) : exec .exit s = .next (halted s) := by
  change execExit s = _
  rw [execExit, if_pos (by simp [hmode, hzero]), haltThread, if_pos hmode]
  rfl

theorem exec_exit_of_end {s : State} (h : ¬(s.cur.mode = true ∧ s.me % 4 = 0)) : ∃ killed, exec .exit s = .next (s.endThread s.me killed) := by
  refine ⟨_, (if_neg ?_ : execExit s = _)⟩
  simpa only [Bool.and_eq_true, beq_iff_eq] using h

/-- R69, R73, R355: EXIT. -/
theorem exit_ends (s : State) : let k := s.me; let c := s.myCore
    (¬(s.cur.mode = true ∧ k % 4 = 0) → ∃ t, exec .exit s = .next t ∧ t.cur = { seq := s.cur.seq } ∧
      ((s.core c).stores = [] → s.barriersOf k = [] → s.otherThreads t k ∧ s.sameBytes t)) ∧
    (s.cur.mode = true → k % 4 = 0 → ∃ t, exec .exit s = .next t ∧ t.cur = { s.cur with run := .stopped, wait := {}, resume := s.pc + 4, pc := s.pc + 4 } ∧
      (t.core c).stores = [] ∧ ∀ j, j ≠ k → WokenAs (s.thread j) (t.thread j)) := by
  refine ⟨fun h => ?_, fun hmode hzero => ?_⟩
  · obtain ⟨killed, hexec⟩ := exec_exit_of_end h
    refine ⟨_, hexec, ?_, fun hstores hbarriers => State.endThread_of_quiet killed hstores hbarriers⟩
    have hme : (s.endThread s.me killed).me = s.me := congrArg Focus.thread (s.focus_endThread s.me killed)
    rw [State.cur, hme]
    exact s.thread_endThread s.me killed
  · refine ⟨_, exec_exit_of_halt hmode hzero, ?_, State.stores_drainCore s s.myCore, fun j hj => wokenAs_halted s hj⟩
    exact (congrArg (halted s).thread (State.me_drainCore s s.myCore)).trans (thread_halted s)

/-! ### YIELD and PAUSE -/

/-- R70: YIELD. -/
theorem yield_ends (s : State) : ∃ t, exec .yield s = .next t ∧ t.cur = { s.cur with pc := s.pc + 4, yieldUntil := s.cycle + 4 } ∧ s.otherThreads t s.me ∧
    { t with threads := s.threads } = s ∧ s.sameBytes t := by
  have hend := ((OnlyThread.refl s s.me).modMe fun x => { x with yieldUntil := s.cycle + 4 }).advance
  exact ⟨_, rfl, hend.cur, hend.others, hend.machine, hend.sameBytes⟩

/-- R71: PAUSE of 0 goes on, PAUSE of n waits. -/
theorem pause_ends (s : State) (a : Reg) : let n := (s.gpr a).toNat
    ∃ t, exec (.pause a) s = .next t ∧ s.sameRegs t ∧ s.otherThreads t s.me ∧ { t with threads := s.threads } = s ∧ s.sameBytes t ∧
      (n = 0 → t.cur = { s.cur with pc := s.pc + 4 }) ∧
      (n ≠ 0 → t.cur.run = .waiting ∧ t.cur.wait.code = .pause ∧ t.cur.wait.deadline = some (s.cycle + n) ∧
        { t.cur with run := s.cur.run, wait := s.cur.wait } = s.cur) := by
  dsimp only
  by_cases hn : (s.gpr a).toNat = 0
  · have hend := (OnlyThread.refl s s.me).advance
    exact ⟨_, (if_pos hn : execPause a s = _), hend.sameRegs rfl, hend.others, hend.machine, hend.sameBytes, fun _ => hend.cur, fun h => absurd hn h⟩
  · have hend := (OnlyThread.refl s s.me).modMe fun x =>
      { x with run := .waiting, wait := { code := .pause, deadline := some (s.cycle + (s.gpr a).toNat), word := wordOf (.pause a) } }
    refine ⟨_, (if_neg hn : execPause a s = _), hend.sameRegs rfl, hend.others, hend.machine, hend.sameBytes, fun h => absurd h hn, fun _ => ?_⟩
    rw [hend.cur]
    exact ⟨rfl, rfl, rfl, rfl⟩

/-- R71: PAUSE_EXPIRY of a count that has run out. -/
theorem pauseExpiry_ends (s : State) (n : Nat) : let k := s.focus.thread; let x := s.thread k
    x.run = .waiting → x.wait.code = .pause → x.wait.deadline = some n → n ≤ s.cycle →
    ∃ t, exec .pauseExpiry s = .next t ∧ t.thread k = { x with run := .ready, wait := {}, pc := x.pc + 4 } ∧ s.otherThreads t k ∧
      { t with threads := s.threads } = s ∧ s.sameBytes t := by
  intro k x hrun hcode hdeadline hdue
  have hexec : exec .pauseExpiry s = .next (s.setThread k { x with run := .ready, wait := {}, pc := x.pc + 4 }) := by
    change execPauseExpiry s = _
    unfold execPauseExpiry
    dsimp only
    rw [show (s.thread s.focus.thread).wait.deadline = some n from hdeadline]
    dsimp only
    rw [if_pos (by simp [show (s.thread s.focus.thread).run = .waiting from hrun, show (s.thread s.focus.thread).wait.code = .pause from hcode, hdue])]
  have hend := onlyThread_setThread s k { x with run := .ready, wait := {}, pc := x.pc + 4 }
  exact ⟨_, hexec, hend.thread, hend.others, hend.machine, hend.sameBytes⟩

end Sys2Proof.Machine
end

section
/-! O20: SPAWN (R68), by the first check that fails. -/

namespace Sys2Proof.Machine

/-! ### The checks -/

/-- R68: tenant `g` has been given thread `n` of the acting thread's core. -/
def givenThread (s : State) (n g : Nat) : Prop :=
  ∃ pl, s.placeOf s.myPart g = some pl ∧ pl ≠ 0 ∧ n ≠ 0 ∧ (s.corePlace s.myCore pl).tthr.getLsbD n = true

/-- R68: BADARG: a reserved field of the selector is not 0, or its tenant and mode do not go together. -/
def spawnBad (s : State) (v : Word) : Prop :=
  v.extractLsb' 24 40 ≠ 0 ∨ v.extractLsb' 9 7 ≠ 0 ∨ v.extractLsb' 2 6 ≠ 0 ∨ (v.getLsbD 8 = true ∧ (v.extractLsb' 16 8).toNat ≠ 0) ∨
    (s.cur.mode = true ∧ v.getLsbD 8 = false ∧ (v.extractLsb' 16 8).toNat = 0)

/-- R68: DENIED: the thread is not the tenant's to start. -/
def spawnDenied (s : State) (v : Word) : Prop :=
  (s.cur.mode = false ∧ ((v.extractLsb' 16 8).toNat ≠ 0 ∨ v.getLsbD 8 = true ∨ ¬ givenThread s (v.extractLsb' 0 2).toNat s.cur.tenant)) ∨
    (s.cur.mode = true ∧ v.getLsbD 8 = false ∧ ¬ givenThread s (v.extractLsb' 0 2).toNat (v.extractLsb' 16 8).toNat)

/-- R68: the thread that the selector names. -/
def spawned (s : State) (v : Word) : Nat := s.myCore * 4 + (v.extractLsb' 0 2).toNat

theorem fld_ne_zero_iff (v : Word) (lo n : Nat) : fld v lo n ≠ 0 ↔ v.extractLsb' lo n ≠ 0 := by
  rw [fld_eq_extractLsb', ne_eq, ne_eq, ← BitVec.toNat_inj]
  rfl

/-- R68: the mode bit of the selector. -/
theorem fld_mode_eq (v : Word) : fld v 8 1 = if v.getLsbD 8 then 1 else 0 := by
  have hlt : fld v 8 1 < 2 := Nat.mod_lt _ (by decide)
  rw [← fld_bit_iff]
  by_cases h : fld v 8 1 = 1
  · rw [h]; rfl
  · rw [show fld v 8 1 = 0 by omega]; rfl

/-- R68: the mask of tenant `g`'s place on the core holds thread `n`. -/
def grantsThread (s : State) (n g : Nat) : Bool :=
  match s.placeOf s.myPart g with
  | some pl => pl != 0 && n != 0 && (s.corePlace s.myCore pl).tthr.getLsbD n
  | none => false

theorem grantsThread_eq_false_iff (s : State) (n g : Nat) : grantsThread s n g = false ↔ ¬ givenThread s n g := by
  unfold givenThread grantsThread
  rw [← Bool.not_eq_true]
  cases s.placeOf s.myPart g with
  | none => simp
  | some pl => simp only [Bool.and_eq_true, bne_iff_ne, Option.some.injEq, exists_eq_left', and_assoc]

theorem spawnStatus_eq_of_fields (s : State) (e v : Word) : spawnStatus s e v =
    if fld v 24 40 ≠ 0 ∨ fld v 9 7 ≠ 0 ∨ fld v 2 6 ≠ 0 ∨ (fld v 8 1 = 1 ∧ fld v 16 8 ≠ 0) ∨ (s.cur.mode ∧ fld v 8 1 = 0 ∧ fld v 16 8 = 0) then 1
    else if e.toNat % 4 ≠ 0 then 2
    else if !s.cur.mode && (fld v 16 8 != 0 || fld v 8 1 != 0 || !grantsThread s (fld v 0 2) s.cur.tenant) then 3
    else if s.cur.mode && fld v 8 1 == 0 && !grantsThread s (fld v 0 2) (fld v 16 8) then 3
    else if (s.thread (s.myCore * 4 + fld v 0 2)).run != .free then 4
    else 0 := rfl

/-- R68: the checks of SPAWN in their order. -/
theorem spawnStatus_eq (s : State) (e v : Word) [Decidable (spawnBad s v)] [Decidable (spawnDenied s v)] : spawnStatus s e v =
    if spawnBad s v then 1 else if e.toNat % 4 ≠ 0 then 2 else if spawnDenied s v then 3 else if (s.thread (spawned s v)).run ≠ .free then 4 else 0 := by
  have hbad : (fld v 24 40 ≠ 0 ∨ fld v 9 7 ≠ 0 ∨ fld v 2 6 ≠ 0 ∨ (fld v 8 1 = 1 ∧ fld v 16 8 ≠ 0) ∨
      (s.cur.mode = true ∧ fld v 8 1 = 0 ∧ fld v 16 8 = 0)) ↔ spawnBad s v := by
    rw [spawnBad, fld_ne_zero_iff, fld_ne_zero_iff, fld_ne_zero_iff, fld_mode_eq, fld_eq_extractLsb' v 16 8]
    cases v.getLsbD 8 <;> simp
  have hdenied : (s.cur.mode = false ∧ ((fld v 16 8 ≠ 0 ∨ fld v 8 1 ≠ 0) ∨ ¬ givenThread s (fld v 0 2) s.cur.tenant)) ∨
      ((s.cur.mode = true ∧ fld v 8 1 = 0) ∧ ¬ givenThread s (fld v 0 2) (fld v 16 8)) ↔ spawnDenied s v := by
    rw [spawnDenied, fld_mode_eq, fld_eq_extractLsb' v 16 8, fld_eq_extractLsb' v 0 2]
    cases v.getLsbD 8 <;> simp
  rw [spawnStatus_eq_of_fields]
  simp only [hbad, Bool.and_eq_true, Bool.or_eq_true, bne_iff_ne, Bool.not_eq_true', beq_iff_eq, grantsThread_eq_false_iff, ← ite_or, hdenied]
  rw [fld_eq_extractLsb' v 0 2]
  rfl

/-! ### The thread that starts -/

variable {s : State}

/-- R68: the registers of the new thread. -/
def spawnedGprs (s : State) : Table Word :=
  [(2, s.gpr 4), (3, s.gpr 3), (30, s.gpr 30), (31, s.gpr 31)].foldl (fun g r => Table.putD g r.1 r.2 0) []

/-- R68: the tenant of the new thread. -/
def spawnedTenant (s : State) (v : Word) : Nat := if s.cur.mode then (v.extractLsb' 16 8).toNat else s.cur.tenant

/-- R68: the new thread. -/
def spawnedThread (s : State) (e v : Word) : ThreadSt :=
  { gpr := spawnedGprs s, pc := e, tenant := spawnedTenant s v, mode := v.getLsbD 8,
    run := if v.getLsbD 8 || s.tenantRuns s.myPart (spawnedTenant s v) then .ready else .resting,
    savedRun := .ready, seq := (s.thread (spawned s v)).seq, notBefore := s.cycle + 2 }

/-- R68, R354: the state with the new thread; one whose tenant does not run is saved. -/
def withSpawned (s : State) (e v : Word) : State :=
  let s1 := s.setThread (spawned s v) (spawnedThread s e v)
  if (spawnedThread s e v).run == .resting then (s1.modThread (spawned s v) fun x => { x with run := .ready }).saveThread (spawned s v) else s1

theorem exec_spawn_of_status {d a b : Reg} (h : spawnStatus s (s.gpr a) (s.gpr b) ≠ 0) :
    exec (.spawn d a b) s = s.finish d (wd (spawnStatus s (s.gpr a) (s.gpr b))) := if_pos h

theorem exec_spawn_of_start {d a b : Reg} (h : spawnStatus s (s.gpr a) (s.gpr b) = 0) :
    exec (.spawn d a b) s = (withSpawned s (s.gpr a) (s.gpr b)).finish d 0 := by
  refine (if_neg (not_not.mpr h) : execSpawn d a b s = _).trans ?_
  simp only [fld_bit_iff]
  simp only [fld_eq_extractLsb']
  rfl

/-- R68: g2 is the spawner's g4, g3, g30 and g31 are the spawner's, and every other register is 0. -/
theorem gprOf_spawned (s : State) (r : Reg) : (if r = 0 then 0 else Table.getD (spawnedGprs s) r.toNat 0) =
    if r = 2 then s.gpr 4 else if r = 3 ∨ r = 30 ∨ r = 31 then s.gpr r else 0 := by
  have hne : ∀ n : Reg, r ≠ n → n.toNat ≠ r.toNat := fun n h hn => h (BitVec.eq_of_toNat_eq hn.symm)
  simp only [spawnedGprs, List.foldl_cons, List.foldl_nil, Table.getD_putD]
  by_cases h31 : r = 31
  · subst h31; rfl
  by_cases h30 : r = 30
  · subst h30; rfl
  by_cases h3 : r = 3
  · subst h3; rfl
  by_cases h2 : r = 2
  · subst h2; rfl
  have n31 : 31 ≠ r.toNat := hne 31 h31
  have n30 : 30 ≠ r.toNat := hne 30 h30
  have n3 : 3 ≠ r.toNat := hne 3 h3
  have n2 : 2 ≠ r.toNat := hne 2 h2
  have hother : ¬(r = 3 ∨ r = 30 ∨ r = 31) := by simp only [h3, h30, h31, or_self, not_false_eq_true]
  rw [if_neg n31, if_neg n30, if_neg n3, if_neg n2, if_neg h2, if_neg hother]
  exact ite_self 0

/-- R354: saving a thread changes threads, memory and cores alone. -/
theorem machine_saveThread (s : State) (k : Nat) :
    { s.saveThread k with threads := [], mem := [], cores := [] } = { s with threads := [], mem := [], cores := [] } := by
  have hset : ∀ (st : State) (j : Nat) (d : Reg) (v : Word),
      { st.setGprOf j d v with threads := [], mem := [], cores := [] } = { st with threads := [], mem := [], cores := [] } := fun st j d v => by
    rw [State.setGprOf_eq]
    split <;> rfl
  have hdivide : { s.divideDone k with threads := [], mem := [], cores := [] } = { s with threads := [], mem := [], cores := [] } := by
    unfold State.divideDone
    split
    · split
      · exact hset _ _ _ _
      · rfl
    · rfl
  rw [State.saveThread_eq]
  exact (foldl_keeps (g := fun st => { st with threads := [], mem := [], cores := [] }) (fun st (l : LoadSt) => hset st k l.gd l.value) _ _).trans hdivide

/-- R68: what holds of the state with the new thread, before the status is written. -/
structure Spawned (s w : State) (e v : Word) : Prop where
  focus : w.focus = s.focus
  others : s.otherThreads w (spawned s v)
  thread : ∃ g at_, w.thread (spawned s v) = { spawnedThread s e v with gpr := g, savedAt := at_ }
  machine : { w with threads := s.threads, mem := s.mem, cores := s.cores } = s
  ready : (spawnedThread s e v).run = .ready → s.sameBytes w ∧ { w with threads := s.threads } = s
  registers : ((spawnedThread s e v).run = .ready ∨ ∀ q, (s.core s.myCore).divider = some q → q.thread ≠ spawned s v) →
    ∀ r : Reg, w.gprOf (spawned s v) r = if r = 2 then s.gpr 4 else if r = 3 ∨ r = 30 ∨ r = 31 then s.gpr r else 0

theorem spawned_of_ready {e v : Word} (h : (spawnedThread s e v).run = .ready) : Spawned s (withSpawned s e v) e v := by
  have hw : withSpawned s e v = s.setThread (spawned s v) (spawnedThread s e v) := by
    rw [withSpawned, h]
    rfl
  have honly := onlyThread_setThread s (spawned s v) (spawnedThread s e v)
  rw [hw]
  refine ⟨honly.focus, honly.others, ⟨_, _, honly.thread⟩, rfl, fun _ => ⟨honly.sameBytes, honly.machine⟩, fun _ r => ?_⟩
  rw [State.gprOf_eq, honly.thread]
  exact gprOf_spawned s r

theorem spawned_of_resting {e v : Word} (h : (spawnedThread s e v).run = .resting) : Spawned s (withSpawned s e v) e v := by
  have hw : withSpawned s e v =
      ((s.setThread (spawned s v) (spawnedThread s e v)).modThread (spawned s v) fun x => { x with run := .ready }).saveThread (spawned s v) := by
    rw [withSpawned, h]
    rfl
  have honly := (onlyThread_setThread s (spawned s v) (spawnedThread s e v)).modThread fun x => { x with run := .ready }
  rw [hw]
  generalize ((s.setThread (spawned s v) (spawnedThread s e v)).modThread (spawned s v) fun x => { x with run := .ready }) = u at honly
  have hmachine := machine_saveThread u (spawned s v)
  refine ⟨?_, State.otherThreads_trans honly.others (u.otherThreads_saveThread _), ?_, ?_, fun hready => ?_, fun hdivider r => ?_⟩
  · exact (congrArg State.focus hmachine :).trans honly.focus
  · obtain ⟨g, hg⟩ := u.thread_saveThread (spawned s v)
    rw [honly.thread] at hg
    refine ⟨g, u.cycle, hg.trans ?_⟩
    rw [State.restedThread, ← h]
    rfl
  · exact (congrArg (fun st : State => { st with threads := s.threads, mem := s.mem, cores := s.cores }) hmachine :).trans
      (congrArg (fun st : State => { st with mem := s.mem, cores := s.cores }) honly.machine :)
  · exact absurd (hready.symm.trans h) (by decide)
  · have hcore : coreOf (spawned s v) = s.myCore := by
      have := (v.extractLsb' 0 2).isLt
      unfold coreOf spawned
      omega
    have hdiv : ∀ q, (u.core (coreOf (spawned s v))).divider = some q → q.thread ≠ spawned s v := by
      rw [hcore, core_of_cores honly.cores]
      exact hdivider.resolve_left fun hready => absurd (hready.symm.trans h) (by decide)
    rw [State.sameRegs_saveThread (by rw [honly.thread]; rfl) hdiv, State.gprOf_eq, honly.thread]
    exact gprOf_spawned s r

theorem spawned_withSpawned (s : State) (e v : Word) : Spawned s (withSpawned s e v) e v := by
  have hrun : (spawnedThread s e v).run = if v.getLsbD 8 || s.tenantRuns s.myPart (spawnedTenant s v) then .ready else .resting := rfl
  split at hrun
  · exact spawned_of_ready hrun
  · exact spawned_of_resting hrun

/-- R68: the write of the status leaves the new thread and the machine as they were. -/
theorem Spawned.of_registerFrame {w t : State} {e v : Word} {d : Reg} (h : Spawned s w e v) (hframe : RegisterFrame w t d) (hj : spawned s v ≠ s.me) :
    (∃ g at_, t.thread (spawned s v) = { spawnedThread s e v with gpr := g, savedAt := at_ }) ∧
      { t with threads := s.threads, mem := s.mem, cores := s.cores } = s ∧
      ((spawnedThread s e v).run = .ready → s.sameBytes t ∧ { t with threads := s.threads } = s) ∧
      (((spawnedThread s e v).run = .ready ∨ ∀ q, (s.core s.myCore).divider = some q → q.thread ≠ spawned s v) →
        ∀ r : Reg, t.gprOf (spawned s v) r = if r = 2 then s.gpr 4 else if r = 3 ∨ r = 30 ∨ r = 31 then s.gpr r else 0) := by
  have hme : w.me = s.me := congrArg Focus.thread h.focus
  obtain ⟨g, at_, hthread⟩ := h.thread
  refine ⟨⟨g, at_, (hframe.others _ (hme ▸ hj)).trans hthread⟩, ?_, fun hready => ?_, fun hgoes r => ?_⟩
  · exact (congrArg (fun st : State => { st with threads := s.threads, mem := s.mem, cores := s.cores }) hframe.machine :).trans h.machine
  · obtain ⟨hbytes, hmachine⟩ := h.ready hready
    exact ⟨fun b => (hframe.memory b).trans (hbytes b), (congrArg (fun st : State => { st with threads := s.threads }) hframe.machine :).trans hmachine⟩
  · exact (hframe.registers _ r fun hr => hj (hr.1.trans hme)).trans (h.registers hgoes r)

/-- R68: and so does it leave the acting thread, but for the register and the pc. -/
theorem Spawned.acting {w t : State} {e v : Word} {d : Reg} (h : Spawned s w e v) (hframe : RegisterFrame w t d) (hj : spawned s v ≠ s.me) :
    w.pc = s.pc ∧ (∀ r, r ≠ d → t.gpr r = s.gpr r) ∧ { t.cur with gpr := s.cur.gpr, pc := s.cur.pc } = s.cur ∧
      ∀ q, q ≠ s.me → q ≠ spawned s v → t.thread q = s.thread q := by
  have hme : w.me = s.me := congrArg Focus.thread h.focus
  have hme' : t.me = s.me := (congrArg (fun st : State => st.me) hframe.machine :).trans hme
  have hcur : w.cur = s.cur := by
    rw [State.cur, hme]
    exact h.others s.me (Ne.symm hj)
  have hthread := hframe.thread
  rw [hcur] at hthread
  refine ⟨by rw [State.pc, hcur]; rfl, fun r hr => ?_, hthread, fun q hq hqj => (hframe.others q (hme ▸ hq)).trans (h.others q hqj)⟩
  have hkept := hframe.registers s.me r fun hc => hr hc.2
  rw [State.gpr, State.gpr, hme', hkept, State.gprOf_eq, State.gprOf_eq, h.others s.me (Ne.symm hj)]

/-- Settles O20: SPAWN by the first check that fails, then the thread that starts; EXIT, YIELD and PAUSE. -/
theorem spawnExitYieldPause : Obligations.SpawnExitYieldPause := by
  classical
  unfold Obligations.SpawnExitYieldPause
  refine ⟨fun s d a b hready => ?_, exit_ends, yield_ends, pause_ends, pauseExpiry_ends⟩
  have hstatus := spawnStatus_eq s (s.gpr a) (s.gpr b)
  have hreports : ∀ n, n ≠ 0 → spawnStatus s (s.gpr a) (s.gpr b) = n → Writes (.spawn d a b) s d (wd n) := fun n hn h =>
    writes_of_finish (exec_spawn_of_status (h ▸ hn)) (congrArg wd h)
  refine ⟨fun (hbad : spawnBad s (s.gpr b)) => ?_, fun (hbad : ¬ spawnBad s (s.gpr b)) halign => ?_,
    fun (hbad : ¬ spawnBad s (s.gpr b)) halign (hdenied : spawnDenied s (s.gpr b)) => ?_,
    fun (hbad : ¬ spawnBad s (s.gpr b)) halign (hdenied : ¬ spawnDenied s (s.gpr b)) (hbusy : (s.thread (spawned s (s.gpr b))).run ≠ .free) => ?_,
    fun (hbad : ¬ spawnBad s (s.gpr b)) halign (hdenied : ¬ spawnDenied s (s.gpr b)) (hfree : (s.thread (spawned s (s.gpr b))).run = .free) => ?_⟩
  · exact hreports 1 (by decide) (hstatus.trans (if_pos hbad))
  · rw [if_neg hbad, if_pos halign] at hstatus
    exact hreports 2 (by decide) hstatus
  · rw [if_neg hbad, if_neg (not_not.mpr halign), if_pos hdenied] at hstatus
    exact hreports 3 (by decide) hstatus
  · rw [if_neg hbad, if_neg (not_not.mpr halign), if_neg hdenied, if_pos hbusy] at hstatus
    exact hreports 4 (by decide) hstatus
  · rw [if_neg hbad, if_neg (not_not.mpr halign), if_neg hdenied, if_neg (not_not.mpr hfree)] at hstatus
    have hj : spawned s (s.gpr b) ≠ s.me := fun hj =>
      absurd (hready.symm.trans ((congrArg (fun k => (s.thread k).run) hj.symm).trans hfree)) (by decide)
    have hspawned := spawned_withSpawned s (s.gpr a) (s.gpr b)
    obtain ⟨t, ht, hd, hpc, hframe⟩ := State.finish_next (withSpawned s (s.gpr a) (s.gpr b)) d 0
    obtain ⟨hpc', hregs, hcur, hothers⟩ := hspawned.acting hframe hj
    obtain ⟨⟨g, at_, hthread⟩, hmachine, hrunning, hgprs⟩ := hspawned.of_registerFrame hframe hj
    refine ⟨t, (exec_spawn_of_start hstatus).trans ht, hd.trans (ite_self 0), hpc.trans (congrArg (· + 4) hpc'), hregs, hcur, hothers, ?_, hmachine⟩
    dsimp only
    rw [show t.thread (s.myCore * 4 + ((s.gpr b).extractLsb' 0 2).toNat) = _ from hthread]
    exact ⟨rfl, rfl, rfl, rfl, rfl, rfl, rfl, rfl, rfl, rfl, rfl, rfl, rfl, rfl, rfl, rfl, rfl, hgprs, hrunning⟩

end Sys2Proof.Machine
end

section
/-! O26: CTXA and CTXF (R88, R89, R166, R167). -/

namespace Sys2Proof.Machine

/-! ### Colours (R88, R89) -/

namespace State

variable {s : State} {p c : Nat}

/-- R88: a colour written; every other colour of the partition is as before. -/
theorem colour_setColour (s : State) (p c b : Nat) (x : ColourSt) : (s.setColour p c x).colour p b = if c = b then x else s.colour p b := by
  rw [colour, setColour, modPart_eq, part_setPart, if_pos rfl, Table.getD_putD]
  rfl

/-- R321: the partition of a core rests on the shapes of the partitions alone. -/
theorem partOf_setColour (s : State) (p c : Nat) (x : ColourSt) : (s.setColour p c x).partOf = s.partOf := by
  have hcore : ∀ q d, ((s.setColour p c x).part q).hasCore d = (s.part q).hasCore d := fun q d => by
    rw [setColour, modPart_eq, part_setPart]
    split
    · next h => rw [← h]; rfl
    · rfl
  funext d
  simp only [partOf, hcore]

/-- R89: writing a colour moves no token. -/
theorem liveCount_setColour (s : State) (p c : Nat) (x : ColourSt) (q b : Nat) : (s.setColour p c x).liveCount q b = s.liveCount q b := by
  have hpart := s.partOf_setColour p c x
  have hbound : ∀ y, (s.setColour p c x).boundPart y = s.boundPart y := fun y => by
    cases y <;> simp only [boundPart, elemPart, hpart]
  simp only [liveCount, hbound, spillCount, spillAddr, elemPlace, elemPart, hpart]
  rfl

/-- R88: the lowest-numbered free colour, where there is one. -/
theorem freeColour_eq_some (hc : c < 4096) (hfree : s.colour p c = .free) (hlow : ∀ b < c, s.colour p b ≠ .free) : s.freeColour p = some c := by
  rw [freeColour, List.find?_range_eq_some]
  exact ⟨by simp [hfree], List.mem_range.mpr hc, fun b hb => by simpa using hlow b hb⟩

theorem freeColour_eq_none (h : ∀ b < 4096, s.colour p b ≠ .free) : s.freeColour p = none := by
  rw [freeColour, List.find?_eq_none]
  exact fun b hb => by simpa using h b (List.mem_range.mp hb)

/-- R89, R167: a context that its tenant releases: free at once where no token carries its colour. -/
theorem settleColour_released (s : State) (p c g k : Nat) :
    (s.setColour p c (.context g k true)).settleColour p c = s.setColour p c (.context g k true) ∧ s.liveCount p c ≠ 0 ∨
      (s.setColour p c (.context g k true)).settleColour p c = (s.setColour p c (.context g k true)).setColour p c .free ∧ s.liveCount p c = 0 := by
  have hcolour := (s.colour_setColour p c c (.context g k true)).trans (if_pos rfl)
  simp only [settleColour, hcolour, Bool.true_and, beq_iff_eq, liveCount_setColour]
  split
  · next h => exact .inr ⟨rfl, h⟩
  · next h => exact .inl ⟨rfl, h⟩

/-- R16, R163: the tenant as which the acting thread acts. -/
theorem fabTenant_me (s : State) : s.fabTenant s.me = if s.cur.mode then 0 else s.cur.tenant := rfl

end State

/-- R83, R166: the width code granted is that of the smallest lane width that suffices. -/
theorem widthCode_smallest {w : Nat} (h : w ≤ 32) : w ≤ 2 ^ widthCode w ∧ (widthCode w = 0 ∨ 2 ^ (widthCode w - 1) < w) := by
  unfold widthCode
  split_ifs <;> simp <;> omega

/-! ### CTXA -/

section
variable {s : State} {d a : Reg}

theorem exec_ctxa (s : State) (d a : Reg) : exec (.ctxa d a) s = execCtxa d a s := rfl

/-- R166: CTXA fails with its reason in gd. -/
theorem ctxa_fails {r : Nat} (h : execCtxa d a s = s.finish d (wd (2 ^ 63 + r))) : Writes (.ctxa d a) s d (BitVec.ofNat 64 (2 ^ 63 + r)) :=
  writes_of_finish ((exec_ctxa s d a).trans h) rfl

/-- R88, R166: CTXA grants the lowest-numbered free colour. -/
theorem ctxa_grants {c : Nat} (hwidth : ¬((s.gpr a).toNat = 0 ∨ 32 < (s.gpr a).toNat)) (hquota : ¬ s.colourQuotaFull s.myPart (s.fabTenant s.me) = true)
    (hfree : s.freeColour s.myPart = some c) : let k := widthCode (s.gpr a).toNat; let p := s.myPart
    ∃ t, exec (.ctxa d a) s = .next t ∧ t.gpr d = (if d = 0 then 0 else BitVec.ofNat 64 (k * 2 ^ 12 + c)) ∧ t.pc = s.pc + 4 ∧ ThreadFrame s t d ∧
      s.sameBytes t ∧ t.colour p c = .context (s.fabTenant s.me) k false ∧ (∀ b, b ≠ c → t.colour p b = s.colour p b) ∧
      (∀ q, q ≠ p → t.part q = s.part q) ∧ { t with threads := s.threads, parts := s.parts } = s := by
  dsimp only
  obtain ⟨t, ht, hd, hpc, hframe⟩ := State.finish_next
    (s.setColour s.myPart c (.context (s.fabTenant s.me) (widthCode (s.gpr a).toNat) false)) d (wd (widthCode (s.gpr a).toNat * 2 ^ 12 + c))
  obtain ⟨hsame, hregs, hothers⟩ := hframe.threads_of_sameThreads (s := s) rfl rfl
  obtain ⟨hthread, hmachine⟩ := hframe.after_sameThreads (s := s) rfl rfl
  obtain ⟨-, hparts, hrest⟩ := RegisterFrame.after_modPart hframe
  have hcolour : ∀ b, t.colour s.myPart b = _ := fun b =>
    (congrArg (fun u : State => u.colour s.myPart b) hmachine :).trans (s.colour_setColour s.myPart c b _)
  refine ⟨t, ?_, hd, hpc.trans (congrArg (· + 4) hsame), ⟨hregs, ?_, hothers, (congrArg State.focus hmachine :)⟩, hframe.memory,
    (hcolour c).trans (if_pos rfl), fun b hb => (hcolour b).trans (if_neg (Ne.symm hb)), hparts, hrest⟩
  · rw [exec_ctxa, execCtxa, if_neg hwidth, if_neg hquota, hfree]
    exact ht
  · exact (congrArg (fun x : ThreadSt => { x with loads := s.cur.loads }) hthread :)

end

/-! ### CTXF -/

section
variable {s : State} {a : Reg}

theorem exec_ctxf (s : State) (a : Reg) : exec (.ctxf a) s = execCtxf a s := rfl

/-- R89, R167: CTXF of a context of the tenant releases it. -/
theorem ctxf_releases {g k c : Nat} {r : Bool} (hc : c = fld (s.gpr a) 0 12) (hg : g = s.fabTenant s.me) (h : s.colour s.myPart c = .context g k r) :
    let p := s.myPart
    ∃ t, exec (.ctxf a) s = .next t ∧ t.cur = { s.cur with pc := s.pc + 4 } ∧ s.otherThreads t s.me ∧ s.sameBytes t ∧
      t.colour p c = (if s.liveCount p c = 0 then .free else .context g k true) ∧ (∀ b, b ≠ c → t.colour p b = s.colour p b) ∧
      { t with threads := s.threads, parts := s.parts } = s := by
  dsimp only
  have hexec : exec (.ctxf a) s = .next ((s.setColour s.myPart c (.context g k true)).settleColour s.myPart c).advance := by
    rw [exec_ctxf, execCtxf, ← hc, h]
    exact if_pos hg
  have hset := fun b => s.colour_setColour s.myPart c b (.context g k true)
  obtain ⟨hsettle, hlive⟩ | ⟨hsettle, hlive⟩ := s.settleColour_released s.myPart c g k
  · rw [hsettle] at hexec
    refine ⟨_, hexec, State.cur_setThread _ _, State.otherThreads_setThread _ _ _, fun _ => rfl, ?_, fun b hb => (hset b).trans (if_neg (Ne.symm hb)), rfl⟩
    rw [if_neg hlive]
    exact (hset c).trans (if_pos rfl)
  · have hfree := fun b => State.colour_setColour (s.setColour s.myPart c (.context g k true)) s.myPart c b .free
    rw [hsettle] at hexec
    refine ⟨_, hexec, State.cur_setThread _ _, State.otherThreads_setThread _ _ _, fun _ => rfl, ?_,
      fun b hb => ((hfree b).trans (if_neg (Ne.symm hb))).trans ((hset b).trans (if_neg (Ne.symm hb))), rfl⟩
    rw [if_pos hlive]
    exact (hfree c).trans (if_pos rfl)

/-- R167, R334: CTXF of any other colour raises TAG_DEPTH. -/
theorem ctxf_traps (h : ∀ k r, s.colour s.myPart (fld (s.gpr a) 0 12) ≠ .context (s.fabTenant s.me) k r) :
    exec (.ctxf a) s = s.raiseFabric (wordOf (.ctxf a)) codeTAGDEPTH 0 (s.gpr a) := by
  rw [exec_ctxf, execCtxf]
  split
  · next g w r hcolour =>
    have hg : g ≠ s.fabTenant s.me := by
      rintro rfl
      exact h w r hcolour
    exact if_neg hg
  · rfl

end

/-- Settles O26: CTXA by its checks in their order, then CTXF by whose the colour is. -/
theorem coloursAreAllocatedAndReleased : Obligations.ColoursAreAllocatedAndReleased := by
  unfold Obligations.ColoursAreAllocatedAndReleased
  refine ⟨fun s d a => ⟨fun hw => ?_, fun h1 h32 (hfull : s.colourQuotaFull s.myPart (s.fabTenant s.me) = true) => ?_,
      fun h1 h32 (hfull : ¬ s.colourQuotaFull s.myPart (s.fabTenant s.me) = true) hnone => ?_,
      fun h1 h32 (hfull : ¬ s.colourQuotaFull s.myPart (s.fabTenant s.me) = true) c hc hfree hlow => ?_⟩,
    fun s a => ⟨fun k r h => ?_, fun (h : ∀ k r, s.colour s.myPart _ ≠ .context (s.fabTenant s.me) k r) => ?_⟩⟩
  · exact ctxa_fails (by rw [execCtxa, if_pos hw])
  · exact ctxa_fails (by rw [execCtxa, if_neg (by omega), if_pos hfull])
  · exact ctxa_fails (by rw [execCtxa, if_neg (by omega), if_neg hfull, State.freeColour_eq_none hnone])
  · obtain ⟨t, ht, hrest⟩ := ctxa_grants (a := a) (d := d) (by omega) hfull (State.freeColour_eq_some hc hfree hlow)
    obtain ⟨hfits, hsmallest⟩ := widthCode_smallest h32
    exact ⟨t, _, ht, hfits, hsmallest, hrest⟩
  · exact ctxf_releases (fld_eq_extractLsb' (s.gpr a) 0 12).symm s.fabTenant_me.symm h
  · exact ⟨_, _, ctxf_traps (by simpa only [fld_eq_extractLsb'] using h), rfl, rfl, rfl, rfl, s.sameRegs_trapThread _ _ _ _ _ _⟩

end Sys2Proof.Machine
end

section
/-! O29: what the quiescence tree reports, and what FALLOW reads of it (R102, R170, R171). -/

namespace Sys2Proof.Machine

/-! ### Words and lists -/

/-- R171: FALLOW.BED's word with the bed's number taken out. -/
theorem setFld_bed_zero (v : Word) : setFld v 32 4 0 = v &&& ~~~0xF_0000_0000 := by
  have hbed : (v &&& 0xF_0000_0000).toNat = bits v.toNat 32 4 * 2 ^ 32 := by
    rw [BitVec.toNat_and]
    refine Nat.eq_of_testBit_eq fun i => ?_
    rw [Nat.testBit_and, show (0xF_0000_0000 : Word).toNat = (2 ^ 4 - 1) * 2 ^ 32 from rfl, Nat.testBit_mul_two_pow, Nat.testBit_mul_two_pow,
      Nat.testBit_two_pow_sub_one, bits, Nat.testBit_mod_two_pow, Nat.testBit_div_two_pow]
    by_cases hi : 32 ≤ i
    · rw [Nat.sub_add_cancel hi, Bool.and_comm, Bool.and_assoc]
    · simp [hi]
  have hsplit := toNat_and_not_add_and v 0xF_0000_0000
  refine BitVec.eq_of_toNat_eq ?_
  rw [toNat_setFld _ (by omega)]
  omega

/-- Two marks as FALLOW puts them into gd. -/
theorem fallowBits_eq (x y : Bool) : wd (b2n x + 2 * b2n y) = BitVec.ofNat 64 ((if x then 1 else 0) + if y then 2 else 0) := by
  cases x <;> cases y <;> rfl

/-! ### FALLOW -/

section
variable {s : State} {d a : Reg}

theorem exec_fallow (lvl : FallowLevel) (s : State) (d a : Reg) : exec (.fallow lvl d a) s = execFallow lvl d a s := rfl

/-- R171: FALLOW.FIELD and FALLOW.BED find no active field. -/
theorem fallow_bed_none (h : activeField s (setFld (s.gpr a) 32 4 0) = none) : Writes (.fallow .bed d a) s d (BitVec.ofNat 64 (2 ^ 63)) := by
  refine writes_of_finish (v := wd (2 ^ 63)) ?_ rfl
  rw [exec_fallow, execFallow]
  simp only [h]

theorem fallow_bed_some {k : Nat} (h : activeField s (setFld (s.gpr a) 32 4 0) = some k) : let b := fld (s.gpr a) 32 4
    Writes (.fallow .bed d a) s d (BitVec.ofNat 64 ((if (s.field k).bedsReported.contains b || (bedElems s (setFld (s.gpr a) 32 4 0) b).isEmpty then 1 else 0) +
      if s.fieldGated k then 2 else 0)) := by
  refine writes_of_finish ?_ (fallowBits_eq _ _)
  rw [exec_fallow, execFallow]
  simp only [h]

theorem fallow_field_none (h : activeField s (s.gpr a) = none) : Writes (.fallow .field d a) s d (BitVec.ofNat 64 (2 ^ 63)) := by
  refine writes_of_finish (v := wd (2 ^ 63)) ?_ rfl
  rw [exec_fallow, execFallow]
  simp only [h]

theorem fallow_field_some {k : Nat} (h : activeField s (s.gpr a) = some k) :
    Writes (.fallow .field d a) s d (BitVec.ofNat 64 ((if (s.field k).reported then 1 else 0) + if s.fieldGated k then 2 else 0)) := by
  refine writes_of_finish ?_ (fallowBits_eq _ _)
  rw [exec_fallow, execFallow]
  simp only [h]

/-- R171: some field of the acting thread's partition is halted. -/
def partHalted (s : State) : Bool :=
  (s.elems.filterMap fun e => if s.elemPart e.1 = s.myPart then s.fieldAt e.1 else none).dedup.any fun k => s.fieldGated k

theorem partHalted_iff (s : State) : partHalted s = true ↔
    ∃ x ∈ s.elems, s.elemPart x.1 = s.myPart ∧ ∃ k, s.fieldAt x.1 = some k ∧ s.fieldGated k = true := by
  simp only [partHalted, List.any_eq_true, List.mem_dedup, List.mem_filterMap]
  constructor
  · rintro ⟨k, ⟨x, hx, hk⟩, hgated⟩
    by_cases hpart : s.elemPart x.1 = s.myPart
    · rw [if_pos hpart] at hk
      exact ⟨x, hx, hpart, k, hk, hgated⟩
    · rw [if_neg hpart] at hk
      exact nomatch hk
  · rintro ⟨x, hx, hpart, k, hk, hgated⟩
    exact ⟨k, ⟨x, hx, (if_pos hpart).trans hk⟩, hgated⟩

theorem fallow_part (s : State) (d a : Reg) : Writes (.fallow .part d a) s d
    (BitVec.ofNat 64 ((if (s.part s.myPart).reported then 1 else 0) + if partHalted s then 2 else 0)) :=
  writes_of_finish (exec_fallow .part s d a) (fallowBits_eq _ _)

end

/-! ### FALLOW_REPORT -/

/-- R102: an element holds nothing, nothing of it fires, and nothing on the network is bound for it. -/
def QuietAt (s : State) (e : Nat) : Prop := State.elemQuiet (s.elem e) s.cycle = true ∧ ∀ g ∈ s.flights, State.boundFor g.2 e = false

theorem elemFallow_iff (s : State) (e : Nat) : s.elemFallow e = true ↔ QuietAt s e := by
  simp only [State.elemFallow, QuietAt, Bool.and_eq_true, List.all_eq_true, Bool.not_eq_true']

theorem all_elemFallow_iff (s : State) (l : List Nat) : (l.all fun e => s.elemFallow e) = true ↔ ∀ e ∈ l, QuietAt s e := by
  simp only [List.all_eq_true, elemFallow_iff]

theorem bed_elemFallow_iff (s : State) (w : Word) (b : Nat) :
    ((bedElems s w b).all fun e => s.elemFallow e) = true ↔ ∀ e ∈ planeElems w, (s.elem e).active.bed = b → QuietAt s e := by
  simp only [bedElems, List.all_filter, List.all_eq_true, Bool.or_eq_true, Bool.not_eq_true', beq_eq_false_iff_ne, elemFallow_iff,
    ← imp_iff_not_or]

theorem partFallow_iff (s : State) (p : Nat) : partFallow s p = true ↔ ∀ y ∈ s.elems, s.elemPart y.1 = p → QuietAt s y.1 := by
  simp only [partFallow, List.all_filter, List.all_eq_true, Bool.or_eq_true, Bool.not_eq_true', beq_eq_false_iff_ne, elemFallow_iff,
    ← imp_iff_not_or]

theorem exec_fallowReport (s : State) : exec .fallowReport s = execFallowReport s := rfl

section
variable {s : State}

/-- R170: the report to a SWAP that waits. -/
theorem fallowReport_swap (hflag : s.focus.flag = true) (hswap : inSwap (s.thread s.focus.thread) 0 = true) : exec .fallowReport s =
    if (planeElems (s.thread s.focus.thread).wait.addr).all fun e => s.elemFallow e then
      .next (s.modThread s.focus.thread fun x => { x with wait := { x.wait with id := 1, deadline := some (s.cycle + 4) } })
    else .refused .notEnabled := by
  rw [exec_fallowReport, execFallowReport]
  simp only [hflag, hswap, if_true, Bool.true_and]

/-- R102: the report of a partition. -/
theorem fallowReport_part (hflag : s.focus.flag = false) (hlayer : s.focus.layer = 1) : exec .fallowReport s =
    if partFallow s s.focus.part then .next (s.modPart s.focus.part fun p => { p with reported := true }) else .refused .notEnabled := by
  rw [exec_fallowReport, execFallowReport]
  simp only [hflag, hlayer, Bool.false_eq_true, if_false, if_true]

/-- R102, R171: the report of a bed of an active field. -/
theorem fallowReport_bed {q : FieldSt} (hflag : s.focus.flag = false) (hlayer : s.focus.layer ≠ 1) (hq : Table.find? s.fields s.focus.index = some q)
    (hactive : activeField s q.word = some s.focus.index) (htag : s.focus.tag ≠ 0) : exec .fallowReport s =
    if (bedElems s q.word s.focus.slot).all fun e => s.elemFallow e then
      .next (s.modField s.focus.index fun x => { x with bedsReported := s.focus.slot :: x.bedsReported })
    else .refused .notEnabled := by
  rw [exec_fallowReport, execFallowReport]
  simp only [hflag, hlayer, hq, hactive, htag, Bool.false_eq_true, if_false, if_true, ne_eq, not_true_eq_false, not_false_eq_true]

/-- R102, R171: the report of an active field. -/
theorem fallowReport_field {q : FieldSt} (hflag : s.focus.flag = false) (hlayer : s.focus.layer ≠ 1) (hq : Table.find? s.fields s.focus.index = some q)
    (hactive : activeField s q.word = some s.focus.index) (htag : s.focus.tag = 0) : exec .fallowReport s =
    if (planeElems q.word).all fun e => s.elemFallow e then .next (s.modField s.focus.index fun x => { x with reported := true })
    else .refused .notEnabled := by
  rw [exec_fallowReport, execFallowReport]
  simp only [hflag, hlayer, hq, hactive, htag, Bool.false_eq_true, if_false, ne_eq, not_true_eq_false]

/-- R101: a field that the table lists. -/
theorem State.field_of_find? {k : Nat} {q : FieldSt} (hq : Table.find? s.fields k = some q) : s.field k = q := by
  rw [State.field, Table.getD, hq]
  rfl

/-- A mark on a field changes that field alone. -/
theorem field_marked {k : Nat} {q : FieldSt} (hq : Table.find? s.fields k = some q) (f : FieldSt → FieldSt) :
    (s.modField k f).field k = f q ∧ { s.modField k f with fields := s.fields } = s := by
  refine ⟨?_, rfl⟩
  rw [State.modField_eq, State.field_setField, if_pos rfl, State.field_of_find? hq]

end

/-- Settles O29: FALLOW by its level, and FALLOW_REPORT by the region that it is about. -/
theorem fallowIsReportedOnlyWhenItHolds : Obligations.FallowIsReportedOnlyWhenItHolds := by
  unfold Obligations.FallowIsReportedOnlyWhenItHolds
  refine ⟨fun s d a => ?_, fun s => ⟨fun hflag hswap => ?_, fun hflag hlayer => ?_, fun hflag hlayer q hq hactive => ?_⟩⟩
  · simp only [← setFld_bed_zero, ← fld_eq_extractLsb']
    exact ⟨fallow_bed_none, fun k => fallow_bed_some, fallow_field_none, fun k => fallow_field_some, partHalted s, fallow_part s d a, partHalted_iff s⟩
  · rw [fallowReport_swap hflag hswap]
    have honly := onlyThread_modThread s s.focus.thread fun x => { x with wait := { x.wait with id := 1, deadline := some (s.cycle + 4) } }
    exact ⟨fun h => ⟨_, if_pos ((all_elemFallow_iff s _).mpr h), honly.sameRegs rfl, honly.others, honly.thread, honly.machine⟩,
      fun h => if_neg (mt (all_elemFallow_iff s _).mp h)⟩
  · rw [fallowReport_part hflag hlayer]
    exact ⟨fun h => ⟨_, if_pos ((partFallow_iff s _).mpr h), (part_modPart s _ _ _).trans (if_pos rfl), rfl⟩,
      fun h => if_neg (mt (partFallow_iff s _).mp h)⟩
  · refine ⟨fun htag h => ?_, fun htag h => ?_, fun htag h => ?_, fun htag h => ?_⟩
    · exact ⟨_, (fallowReport_field hflag hlayer hq hactive htag).trans (if_pos ((all_elemFallow_iff s _).mpr h)), field_marked hq _⟩
    · exact ⟨_, (fallowReport_bed hflag hlayer hq hactive htag).trans (if_pos ((bed_elemFallow_iff s _ _).mpr h)), field_marked hq _⟩
    · exact (fallowReport_field hflag hlayer hq hactive htag).trans (if_neg (mt (all_elemFallow_iff s _).mp h))
    · exact (fallowReport_bed hflag hlayer hq hactive htag).trans (if_neg (mt (bed_elemFallow_iff s _ _).mp h))

end Sys2Proof.Machine
end

section
/-! O28: SWAP, its exchange and its timeout (R80, R82, R118, R163, R170). -/

namespace Sys2Proof.Machine

/-! ### The rectangle of a legal plane word (R163) -/

/-- R163: the elements of a rectangle whose columns lie on the die are distinct. -/
theorem nodup_planeElems {w : Word} (h : pwX w + pwCols w ≤ 32) : (planeElems w).Nodup := by
  have hkey : ∀ r c r' c', c < pwCols w → c' < pwCols w →
      elemKey (pwDie w) (pwX w + c) (pwY w + r) = elemKey (pwDie w) (pwX w + c') (pwY w + r') → r = r' ∧ c = c' := by
    intro r c r' c' hc hc' heq
    unfold elemKey at heq
    omega
  rw [planeElems, List.nodup_flatMap]
  constructor
  · intro r _
    refine List.Nodup.map_on (fun c hc c' hc' heq => ?_) List.nodup_range
    exact (hkey r c r c' (List.mem_range.mp hc) (List.mem_range.mp hc') heq).2
  · refine List.nodup_range.imp fun {r r'} hne => ?_
    intro e he he'
    obtain ⟨c, hc, rfl⟩ := List.mem_map.mp he
    obtain ⟨c', hc', heq⟩ := List.mem_map.mp he'
    exact hne (hkey r c r' c' (List.mem_range.mp hc) (List.mem_range.mp hc') heq.symm).1

theorem columns_of_planeLegal {s : State} {p : Nat} {w : Word} (h : s.planeLegal p w = true) : pwX w + pwCols w ≤ 32 := by
  simp only [State.planeLegal, Bool.and_eq_true, decide_eq_true_eq] at h
  obtain ⟨⟨⟨-, hcols⟩, -⟩, -⟩ := h
  exact hcols

/-! ### SWAP before it waits -/

section
variable {s : State} {d a : Reg} {w : Word}

/-- R170: an element of the rectangle belongs to a halted field. -/
def overHalted (s : State) (w : Word) : Prop := ∃ e ∈ planeElems w, ∃ k, s.fieldAt e = some k ∧ s.fieldGated k = true

/-- R170: an active plane that shares an element with the rectangle reaches outside it. -/
def reachesOutside (s : State) (w : Word) : Prop :=
  ∃ e ∈ planeElems w, ∃ v, (s.elem e).activeOf = some v ∧ v ≠ w ∧ ∃ x ∈ planeElems v, inPlane w x = false

/-- R170: every element of the rectangle was sown under its plane word. -/
def sownWhole (s : State) (w : Word) : Prop := ∀ e ∈ planeElems w, (s.elem e).shadowOf = some w

theorem overHalted_iff (s : State) (w : Word) : ((planeElems w).any fun e => match s.fieldAt e with
    | some k => s.fieldGated k
    | none => false) = true ↔ overHalted s w := by
  simp only [List.any_eq_true, overHalted]
  refine exists_congr fun e => and_congr_right fun _ => ?_
  cases s.fieldAt e <;> simp

theorem reachesOutside_iff (s : State) (w : Word) : ((planeElems w).any fun e => match (s.elem e).activeOf with
    | some v => v != w && (planeElems v).any fun x => !inPlane w x
    | none => false) = true ↔ reachesOutside s w := by
  simp only [List.any_eq_true, reachesOutside]
  refine exists_congr fun e => and_congr_right fun _ => ?_
  cases (s.elem e).activeOf <;> simp

theorem sownWhole_iff (s : State) (w : Word) : ((planeElems w).all fun e => (s.elem e).shadowOf == some w) = true ↔ sownWhole s w := by
  simp only [List.all_eq_true, sownWhole, beq_iff_eq]

open Classical in
/-- R170: the status of SWAP by the first check that fails. -/
theorem swapStatus_eq (s : State) (w : Word) : swapStatus s w =
    if s.planeLegal s.myPart w = false then 3 else if overHalted s w then 4 else if reachesOutside s w then 5 else if sownWhole s w then 0 else 1 := by
  rw [swapStatus]
  simp only [Bool.not_eq_true']
  refine if_congr Iff.rfl rfl (if_congr ?_ rfl (if_congr ?_ rfl (if_congr ?_ rfl rfl)))
  · exact overHalted_iff s w
  · exact reachesOutside_iff s w
  · exact sownWhole_iff s w

theorem exec_swap (s : State) (d a : Reg) : exec (.swap d a) s = execSwap d a s := rfl

/-- R170: SWAP reports a status and ends. -/
theorem swap_reports {n : Nat} (h : swapStatus s (s.gpr a) = n) (hn : n ≠ 0) : Writes (.swap d a) s d (wd n) := by
  refine writes_of_finish (v := wd n) ?_ rfl
  rw [exec_swap, execSwap, h]
  exact if_pos hn

/-- R170: SWAP waits at its own word for the fallow report of its rectangle. -/
theorem swap_waits (h : swapStatus s (s.gpr a) = 0) : ∃ t, exec (.swap d a) s = .next t ∧ t.cur.run = .waiting ∧ t.cur.wait.code = .swap ∧
    t.cur.wait.addr = s.gpr a ∧ t.cur.wait.gd = d ∧
    t.cur.wait.deadline = (if s.cur.waittmo = 0 then none else some (s.cycle + s.cur.waittmo.toNat)) ∧ t.pc = s.pc ∧
    s.sameRegs t ∧ s.otherThreads t s.me ∧ { t with threads := s.threads } = s := by
  have honly := fun f => (OnlyThread.refl s s.me).modMe f
  refine ⟨_, (exec_swap s d a).trans (if_neg (not_not.mpr h)), ?_⟩
  rw [(honly _).cur]
  exact ⟨rfl, rfl, rfl, rfl, rfl, (honly _).pc, (honly _).sameRegs rfl, (honly _).others, (honly _).machine⟩

end

/-! ### The exchange (R82) -/

/-- R118: of the modulus entries that a plane carries for an index, the last one counts. -/
theorem getD_loadedModuli (l : Table Nat) (m : Table Nat) (n : Nat) :
    Table.getD (l.foldl (fun (m : Table Nat) e => Table.putD m e.1 e.2 0) m) n 0 = (l.reverse.find? fun e => e.1 == n).elim (Table.getD m n 0) Prod.snd := by
  induction l using List.reverseRecOn with
  | nil => rfl
  | append_singleton l x ih =>
    rw [List.foldl_concat, Table.getD_putD, ih, List.reverse_concat, List.find?_cons]
    by_cases h : x.1 = n
    · simp [h]
    · rw [if_neg h, beq_false_of_ne h]

/-- An update of distinct elements, one after the other. -/
theorem elem_foldl_modElem (f : ElemSt → ElemSt) {l : List Nat} (hl : l.Nodup) (s : State) (d : Nat) :
    (l.foldl (fun st e => st.modElem e f) s).elem d = if d ∈ l then f (s.elem d) else s.elem d := by
  induction l generalizing s with
  | nil => rfl
  | cons e l ih =>
    obtain ⟨he, hl⟩ := List.nodup_cons.mp hl
    rw [List.foldl_cons, ih hl, State.modElem_eq, State.elem_setElem]
    by_cases hd : e = d
    · subst hd
      simp [he]
    · simp [hd, Ne.symm hd]

/-- R163: ending home planes changes fields and home planes alone. -/
theorem dropHomes_frame (s : State) (p : Nat) (olds : List (Word × Nat)) :
    { dropHomes s p olds with fields := [], corePlaces := [] } = { s with fields := [], corePlaces := [] } := by
  refine foldl_keeps (g := fun st => { st with fields := [], corePlaces := [] }) (fun st o => ?_) olds s
  dsimp only
  split
  · rfl
  · refine (foldl_keeps (g := fun st => { st with fields := [], corePlaces := [] }) (fun y c => ?_) _ _).trans rfl
    split <;> rfl

section
variable (s : State) (k : Nat) (w : Word)

/-- R82, R163: the exchange changes elements, fields and home planes alone. -/
theorem activate_frame : { activate s k w with elems := s.elems, fields := s.fields, corePlaces := s.corePlaces } = s := by
  have helems := foldl_keeps (g := fun st : State => { st with elems := [] }) (f := fun st e => st.modElem e (swapElem w (s.fabTenant k)))
    (fun _ _ => rfl) (planeElems w)
  have hhomes := dropHomes_frame s (s.partOf (coreOf k)) (((planeElems w).filterMap fun e => (s.elem e).activeOf.map fun v => (v, (s.elem e).owner)).dedup)
  unfold activate
  dsimp only
  refine ((congrArg (fun u : State => { u with elems := s.elems, fields := s.fields, corePlaces := s.corePlaces }) (helems _) :)).trans ?_
  exact (congrArg (fun u : State => { u with elems := s.elems, fields := s.fields, corePlaces := s.corePlaces }) hhomes :)

/-- R82: in the rectangle, and nowhere else, the copies of the elements trade places. -/
theorem elem_activate (hcols : pwX w + pwCols w ≤ 32) (e : Nat) :
    (activate s k w).elem e = if e ∈ planeElems w then swapElem w (s.fabTenant k) (s.elem e) else s.elem e := by
  have hhomes := dropHomes_frame s (s.partOf (coreOf k)) (((planeElems w).filterMap fun e => (s.elem e).activeOf.map fun v => (v, (s.elem e).owner)).dedup)
  unfold activate
  dsimp only
  refine (elem_foldl_modElem (swapElem w (s.fabTenant k)) (nodup_planeElems hcols) _ e).trans ?_
  rw [show (dropHomes s _ _).elem = s.elem from (congrArg State.elem hhomes :)]

end

/-! ### A SWAP that ends (R169, R170) -/

/-- A waiting thread that is released goes on with the value in the register of its wait. -/
theorem release_waiting {s : State} {k : Nat} (v : Word) (h : (s.thread k).run = .waiting) :
    ∃ g, OnlyThread s (s.release k v) k { s.thread k with gpr := g, wait := {}, pc := (s.thread k).pc + 4, grant := none, run := .ready } ∧
      (s.release k v).gprOf k (s.thread k).wait.gd = (if (s.thread k).wait.gd = 0 then 0 else v) ∧ s.sameRegsBut (s.release k v) k (s.thread k).wait.gd := by
  obtain ⟨g, hset⟩ := onlyThread_setGprOf s k (s.thread k).wait.gd v
  have hregs := State.sameRegs_modThread (s := s.setGprOf k (s.thread k).wait.gd v) (k := k)
    (f := fun x => { x with wait := {}, pc := x.pc + 4, grant := none, run := if x.run == .waiting then .ready else x.run }) rfl
  have hrelease : s.release k v = (s.setGprOf k (s.thread k).wait.gd v).modThread k fun x =>
      { x with wait := {}, pc := x.pc + 4, grant := none, run := if x.run == .waiting then .ready else x.run } := by
    rw [State.release, if_neg (by simp [h])]
  have honly := hset.modThread fun x => { x with wait := {}, pc := x.pc + 4, grant := none, run := if x.run == .waiting then .ready else x.run }
  rw [h] at honly
  rw [hrelease]
  exact ⟨g, honly, (hregs _ _).trans (s.gprOf_setGprOf_self k _ v),
    State.sameRegsBut_trans (s.sameRegsBut_setGprOf k _ v) (State.sameRegsBut_of_sameRegs hregs _ _)⟩

/-- R169: a held thread of the kind runs again. -/
def retryThread (code : WaitCode) (s : State) (k : Nat) : State :=
  if (s.thread k).run == .waiting && (s.thread k).wait.code == code then
    s.modThread k fun t => { t with run := .ready, wait := if code = .sow then t.wait else {} }
  else s

theorem retryThread_cases (code : WaitCode) (s : State) (k : Nat) : retryThread code s k = s ∨
    (s.thread k).run = .waiting ∧ ∃ x, x.gpr = (s.thread k).gpr ∧ OnlyThread s (retryThread code s k) k x := by
  unfold retryThread
  split
  · next h =>
    rw [Bool.and_eq_true, beq_iff_eq] at h
    refine .inr ⟨h.1, _, ?_, onlyThread_modThread s k _⟩
    rfl
  · exact .inl rfl

/-- R169: letting held threads run again changes no register, no thread that does not wait, and nothing beside the threads. -/
theorem retryWaiters_keeps (s : State) (code : WaitCode) : s.sameRegs (s.retryWaiters code) ∧ { s.retryWaiters code with threads := s.threads } = s ∧
    ∀ k, (s.thread k).run ≠ .waiting → (s.retryWaiters code).thread k = s.thread k := by
  rw [show s.retryWaiters code = (List.range numThreads).foldl (retryThread code) s from rfl]
  generalize List.range numThreads = l
  induction l generalizing s with
  | nil => exact ⟨fun _ _ => rfl, rfl, fun _ _ => rfl⟩
  | cons j l ih =>
    rw [List.foldl_cons]
    obtain heq | ⟨hj, x, hx, honly⟩ := retryThread_cases code s j
    · rw [heq]
      exact ih s
    · obtain ⟨hregs, hmachine, hthread⟩ := ih (retryThread code s j)
      refine ⟨State.sameRegs_trans (honly.sameRegs hx) hregs,
        (congrArg (fun u : State => { u with threads := s.threads }) hmachine :).trans honly.machine, fun k hk => ?_⟩
      have hsame := honly.others k fun hkj => hk (hkj ▸ hj)
      exact (hthread k (hsame ▸ hk)).trans hsame

/-- R169, R170: the SWAP of thread `k` ends with a status, and the SOWs that it held run. -/
theorem release_retryWaiters {s : State} {k : Nat} (v : Word) (h : (s.thread k).run = .waiting) : let x := s.thread k
    ∃ t, (s.release k v).retryWaiters .sow = t ∧ t.gprOf k x.wait.gd = (if x.wait.gd = 0 then 0 else v) ∧ s.sameRegsBut t k x.wait.gd ∧
      (t.thread k).run = .ready ∧ (t.thread k).pc = x.pc + 4 ∧ { t with threads := s.threads } = s := by
  dsimp only
  obtain ⟨g, honly, hgd, hregs⟩ := release_waiting v h
  obtain ⟨hsame, hmachine, hthread⟩ := retryWaiters_keeps (s.release k v) .sow
  have hk := hthread k (by rw [honly.thread]; nofun)
  rw [honly.thread] at hk
  generalize (s.release k v).retryWaiters .sow = t at hsame hmachine hk
  refine ⟨t, rfl, (hsame _ _).trans hgd, State.sameRegsBut_trans hregs (State.sameRegsBut_of_sameRegs hsame _ _), by rw [hk], by rw [hk], ?_⟩
  exact (congrArg (fun u : State => { u with threads := s.threads }) hmachine :).trans honly.machine

theorem run_of_inSwap {x : ThreadSt} {n : Nat} (h : inSwap x n = true) : x.run = .waiting := by
  simp only [inSwap, Bool.and_eq_true, beq_iff_eq] at h
  exact h.1.1

section
variable {s : State} {n : Nat}

theorem exec_swapActivate (hdue : (s.thread s.focus.thread).wait.deadline = some n) (hn : n ≤ s.cycle) (h : inSwap (s.thread s.focus.thread) 1 = true) :
    exec .swapActivate s = .next (((activate s s.focus.thread (s.thread s.focus.thread).wait.addr).release s.focus.thread 0).retryWaiters .sow) := by
  show execSwapActivate s = _
  rw [execSwapActivate]
  simp only [hdue, h, hn, decide_true, Bool.and_self, if_true]

theorem exec_swapTimeout (hdue : (s.thread s.focus.thread).wait.deadline = some n) (hn : n ≤ s.cycle) (h : inSwap (s.thread s.focus.thread) 0 = true) :
    exec .swapTimeout s = .next ((s.release s.focus.thread 2).retryWaiters .sow) := by
  show execSwapTimeout s = _
  rw [execSwapTimeout]
  simp only [hdue, h, hn, decide_true, Bool.and_self, if_true]

/-- R82, R170: the exchange, and the SWAP done. -/
theorem swapActivate_exchanges (hdue : (s.thread s.focus.thread).wait.deadline = some n) (hn : n ≤ s.cycle)
    (h : inSwap (s.thread s.focus.thread) 1 = true) : let k := s.focus.thread; let x := s.thread k; let w := x.wait.addr
    ∃ t, exec .swapActivate s = .next t ∧ s.sameBytes t ∧ t.elem = (activate s k w).elem ∧ t.gprOf k x.wait.gd = 0 ∧ s.sameRegsBut t k x.wait.gd ∧
      (t.thread k).run = .ready ∧ (t.thread k).pc = x.pc + 4 := by
  dsimp only
  have hframe := activate_frame s s.focus.thread (s.thread s.focus.thread).wait.addr
  have hthread : (activate s s.focus.thread (s.thread s.focus.thread).wait.addr).thread = s.thread := (congrArg State.thread hframe :)
  have hregs : s.sameRegs (activate s s.focus.thread (s.thread s.focus.thread).wait.addr) := fun j r => by
    rw [State.gprOf_eq, State.gprOf_eq, hthread]
  obtain ⟨t, ht, hgd, hbut, hrun, hpc, hmachine⟩ := release_retryWaiters (s := activate s s.focus.thread (s.thread s.focus.thread).wait.addr)
    (k := s.focus.thread) 0 (by rw [hthread]; exact run_of_inSwap h)
  rw [hthread] at hgd hbut hpc
  refine ⟨t, (exec_swapActivate hdue hn h).trans (congrArg _ ht), fun b => ?_, (congrArg State.elem hmachine :), hgd.trans (ite_self 0),
    State.sameRegsBut_trans (State.sameRegsBut_of_sameRegs hregs _ _) hbut, hrun, hpc⟩
  exact congrArg (fun m => Memory.get m b) ((congrArg State.mem hmachine :).trans (congrArg State.mem hframe :))

/-- R170: a SWAP whose time has come without a report. -/
theorem swapTimeout_ends (hdue : (s.thread s.focus.thread).wait.deadline = some n) (hn : n ≤ s.cycle)
    (h : inSwap (s.thread s.focus.thread) 0 = true) : let k := s.focus.thread; let x := s.thread k
    ∃ t, exec .swapTimeout s = .next t ∧ s.sameBytes t ∧ t.elems = s.elems ∧ t.gprOf k x.wait.gd = (if x.wait.gd = 0 then 0 else 2) ∧
      s.sameRegsBut t k x.wait.gd ∧ (t.thread k).run = .ready ∧ (t.thread k).pc = x.pc + 4 := by
  dsimp only
  obtain ⟨t, ht, hgd, hbut, hrun, hpc, hmachine⟩ := release_retryWaiters 2 (run_of_inSwap h)
  exact ⟨t, (exec_swapTimeout hdue hn h).trans (congrArg _ ht), fun b => congrArg (fun m => Memory.get m b) (congrArg State.mem hmachine :), (congrArg State.elems hmachine :),
    hgd, hbut, hrun, hpc⟩

end

/-- Settles O28: SWAP by the first check that fails, the exchange of its rectangle, and its timeout. -/
theorem swapExchangesThePlanes : Obligations.SwapExchangesThePlanes := by
  classical
  unfold Obligations.SwapExchangesThePlanes
  refine ⟨fun s d a => ?_, fun s n hdue hn => ⟨fun hswap hlegal => ?_, swapTimeout_ends hdue hn⟩⟩
  · have hstatus := swapStatus_eq s (s.gpr a)
    refine ⟨fun hlegal => ?_, fun hlegal => ?_⟩
    · exact swap_reports (hstatus.trans (if_pos hlegal)) (by decide)
    rw [if_neg (by simp [hlegal])] at hstatus
    refine ⟨fun (hgated : overHalted s (s.gpr a)) => ?_, fun (hgated : ¬ overHalted s (s.gpr a)) => ?_,
      fun (hgated : ¬ overHalted s (s.gpr a)) => ?_, fun (hgated : ¬ overHalted s (s.gpr a)) => ?_⟩
    · exact swap_reports (hstatus.trans (if_pos hgated)) (by decide)
    all_goals rw [if_neg hgated] at hstatus
    · exact fun (houtside : reachesOutside s (s.gpr a)) => swap_reports (hstatus.trans (if_pos houtside)) (by decide)
    · intro (houtside : ¬ reachesOutside s (s.gpr a)) (hsown : ¬ sownWhole s (s.gpr a))
      exact swap_reports (hstatus.trans ((if_neg houtside).trans (if_neg hsown))) (by decide)
    · intro (houtside : ¬ reachesOutside s (s.gpr a)) (hsown : sownWhole s (s.gpr a))
      exact swap_waits (hstatus.trans ((if_neg houtside).trans (if_pos hsown)))
  · obtain ⟨t, ht, hbytes, helem, hrest⟩ := swapActivate_exchanges hdue hn hswap
    have hat := elem_activate s s.focus.thread (s.thread s.focus.thread).wait.addr (columns_of_planeLegal hlegal)
    refine ⟨t, ht, hbytes, fun e he => ?_, fun e he => ?_, hrest⟩
    · rw [helem, hat, if_pos he]
      refine ⟨rfl, rfl, rfl, rfl, rfl, rfl, rfl, fun m => ?_⟩
      refine (getD_loadedModuli (s.elem e).shadow.mods (s.elem e).modq m).trans ?_
      cases (s.elem e).shadow.mods.reverse.find? fun z => z.1 == m <;> rfl
    · rw [helem, hat, if_neg he]

end Sys2Proof.Machine
end

section
/-! What a firing does first (R90, R94, R99, R122, R123): the rules of its matched set, its arcs and its gate. -/

namespace Sys2Proof.Machine

namespace State

variable {s : State} {op : Nat} {f : SlotFields} {g : Firing} {act : Firing → Out}

/-- R90: what a matched set fires. -/
theorem matchedSet_says (h : s.matchedSet op f = some g) : g.op = op ∧ g.f = f ∧ g.e = s.focus.elem ∧ g.slot = s.focus.slot := by
  unfold matchedSet at h
  split at h
  · obtain rfl := Option.some.inj h
    exact ⟨rfl, rfl, rfl, rfl⟩
  · exact nomatch h

/-- R90: without a matched set there is no firing. -/
theorem fire_of_unmatched (h : s.matchedSet op f = none) : s.fire op f act = .refused .notEnabled := by
  unfold matchedSet at h
  unfold fire
  dsimp only
  split at h
  · exact nomatch h
  · next hnone =>
    split
    · rfl
    · rfl
    · next t ts heq => exact absurd heq (hnone t ts)

/-- R122, R123: a matched set by its arcs and its gate. -/
theorem fire_of_matched (h : s.matchedSet op f = some g) : s.fire op f act = match arcAt g with
    | some p => s.fault g codeTAGDEPTH p
    | none => if gatedOf f && !gateOpens g then s.gateClosed g else act g := by
  unfold matchedSet at h
  unfold fire
  dsimp only
  split at h
  · next heq =>
    obtain rfl := Option.some.inj h
    rw [heq] <;> rfl
  · exact nomatch h

/-- R123: an arc token that the slot does not take. -/
theorem fire_of_arc {p : Nat} (h : s.matchedSet op f = some g) (harc : arcAt g = some p) : s.fire op f act = s.fault g codeTAGDEPTH p := by
  rw [fire_of_matched h, harc]

/-- R94, R122: a gate that is closed. -/
theorem fire_of_closed (h : s.matchedSet op f = some g) (harc : arcAt g = none) (hgated : gatedOf f = true) (hclosed : gateOpens g = false) :
    s.fire op f act = .next (s.endFiring g g.toks [] 0 1 0) := by
  rw [fire_of_matched h, harc, hgated, hclosed]
  rfl

/-- R90, R122: a matched set that lets its slot act. -/
theorem fire_of_ready (h : Ready s op f g) : s.fire op f act = act g := by
  obtain ⟨hset, harc, hgate⟩ := h
  rw [fire_of_matched hset, harc]
  exact if_neg fun hclosed => by
    rw [Bool.and_eq_true, Bool.not_eq_true'] at hclosed
    exact absurd (hgate hclosed.1) (by simp [hclosed.2])

/-- R123: of the opcodes below 0x80 only EOS, ORD and ACCRD take arcs. -/
theorem arcAt_value (hlow : g.op < 0x80) (heos : g.op ≠ 0x0D) (hord : g.op ≠ 0x0F) (hrd : g.op ≠ 0x72) :
    arcAt g = (g.toks.find? fun t => t.token.kind == kArc).map (·.pos) := by
  have hnotEos : (g.op == 0x0D) = false := beq_false_of_ne heos
  have hnotRd : (g.op == 0x72) = false := beq_false_of_ne hrd
  rw [arcAt, if_neg (not_or.mpr ⟨hord, by omega⟩)]
  simp only [hnotEos, hnotRd, Bool.or_self, Bool.false_and, Bool.not_false, Bool.and_true]

theorem arcAt_isSome_iff (hlow : g.op < 0x80) (heos : g.op ≠ 0x0D) (hord : g.op ≠ 0x0F) (hrd : g.op ≠ 0x72) :
    (∃ t ∈ g.toks, t.token.kind = 5) ↔ ∃ t ∈ g.toks, t.token.kind = 5 ∧ arcAt g = some t.pos := by
  rw [arcAt_value hlow heos hord hrd]
  refine ⟨fun ⟨t, ht, harc⟩ => ?_, fun ⟨t, ht, harc, _⟩ => ⟨t, ht, harc⟩⟩
  obtain ⟨u, hu⟩ := Option.isSome_iff_exists.mp (List.find?_isSome (p := fun t : StoreTok => t.token.kind == kArc).mpr ⟨t, ht, beq_iff_eq.mpr harc⟩)
  have hkind := List.find?_some hu
  exact ⟨u, List.mem_of_find?_eq_some hu, beq_iff_eq.mp hkind, by rw [hu, Option.map_some]⟩

/-- R94, R122: a gate token that is EOS or has lane 0 equal to 0 keeps the slot shut. -/
theorem gateOpens_eq_false (hlow : g.op < 0x80) (h : ∀ t, g.at_ 2 = some t → t.token.kind = 2 ∨ t.token.lane 0 = 0) : gateOpens g = false := by
  unfold gateOpens
  split
  · next t ht =>
    have hop : decide (0x80 ≤ g.op) = false := decide_eq_false (by omega)
    rcases h t ht with hkind | hlane
    · simp [hop, hkind, kEos]
    · simp [hop, hlane]
  · rfl

end State

end Sys2Proof.Machine
end

section
/-! O33: the checks of the value opcodes (R90, R94, R99, R105, R122, R123). -/

namespace Sys2Proof.Machine

/-! ### The EOS rule and the width check -/

namespace State

variable {s : State} {op lat hold : Nat} {f : SlotFields} {g : Firing} {act : Firing → Out}

/-- R105: the width check finds a token of another width, where there is one. -/
theorem widthMismatch_of_exists {w : Nat} (h : ∃ t ∈ g.checked, t.token.width ≠ w) :
    ∃ t ∈ g.checked, t.token.width ≠ w ∧ widthMismatch g w = some t.pos := by
  obtain ⟨t, ht, hw⟩ := h
  obtain ⟨u, hu⟩ := Option.isSome_iff_exists.mp (List.find?_isSome (p := fun t : StoreTok => t.token.width != w).mpr ⟨t, ht, bne_iff_ne.mpr hw⟩)
  exact ⟨u, List.mem_of_find?_eq_some hu, by simpa using List.find?_some hu, congrArg (Option.map fun t : StoreTok => t.pos) hu⟩

theorem widthMismatch_of_forall {w : Nat} (h : ∀ t ∈ g.checked, t.token.width = w) : widthMismatch g w = none := by
  have hfind : (g.checked.find? fun t => t.token.width != w) = none := List.find?_eq_none.mpr fun t ht => by simp [h t ht]
  exact congrArg (Option.map (·.pos)) hfind

theorem eosCase_all (hne : g.operands ≠ []) (h : ∀ t ∈ g.operands, t.token.kind = 2) : eosCase g = .all := by
  obtain ⟨t, ht⟩ := List.exists_mem_of_ne_nil _ hne
  have hsome : ¬ (g.operands.all fun t => t.token.kind != kEos) = true := fun hall => by
    have := List.all_eq_true.mp hall t ht
    simp [h t ht, kEos] at this
  have hall : (g.operands.all fun t => t.token.kind == kEos) = true := List.all_eq_true.mpr fun t ht => beq_iff_eq.mpr (h t ht)
  unfold eosCase
  dsimp only
  rw [if_neg hsome, if_pos hall]

theorem eosCase_mixed (heos : ∃ t ∈ g.operands, t.token.kind = 2) (hdata : ∃ t ∈ g.operands, ¬ t.token.kind = 2) : eosCase g = .mixed := by
  obtain ⟨t, ht, hkind⟩ := heos
  obtain ⟨u, hu, hother⟩ := hdata
  have hsome : ¬ (g.operands.all fun t => t.token.kind != kEos) = true := fun hall => by
    have := List.all_eq_true.mp hall t ht
    simp [hkind, kEos] at this
  have hnotall : ¬ (g.operands.all fun t => t.token.kind == kEos) = true := fun hall => hother (beq_iff_eq.mp (List.all_eq_true.mp hall u hu))
  unfold eosCase
  dsimp only
  rw [if_neg hsome, if_neg hnotall]

/-- R123: mixed EOS operands fault at one of them. -/
theorem eosPos_of_exists (h : ∃ t ∈ g.operands, t.token.kind = 2) : ∃ t ∈ g.operands, t.token.kind = 2 ∧ eosPos g = t.pos := by
  obtain ⟨t, ht, hkind⟩ := h
  obtain ⟨u, hu⟩ := Option.isSome_iff_exists.mp (List.find?_isSome (p := fun t : StoreTok => t.token.kind == kEos).mpr ⟨t, ht, beq_iff_eq.mpr hkind⟩)
  have hfound := List.find?_some hu
  refine ⟨u, List.mem_of_find?_eq_some hu, beq_iff_eq.mp hfound, ?_⟩
  rw [eosPos, hu]

/-- R105: an operand of another width faults. -/
theorem value_of_mismatch {w p : Nat} (h : Ready s op f g) (hw : fmtWidth (fmtOf f) = some w) (hp : widthMismatch g w = some p) :
    s.value op f lat hold act = s.fault g codeTAGDEPTH p := by
  rw [value, fire_of_ready h]
  simp only [hw, hp]

/-- R105: operands of the format's width come to the EOS rule. -/
theorem value_of_widths (h : Ready s op f g) (hw : ∀ w, fmtWidth (fmtOf f) = some w → ∀ t ∈ g.checked, t.token.width = w) :
    s.value op f lat hold act = s.eosRule g lat hold act := by
  rw [value, fire_of_ready h]
  cases hfmt : fmtWidth (fmtOf f) with
  | none => rfl
  | some w => simp only [widthMismatch_of_forall (hw w hfmt)]

/-- R87, R123: an EOS result leaves for both destinations with the result tag. -/
theorem sendResult_eos (hf : g.f = f) : s.sendResult g kEos 0 g.width 0 lat hold 0 = match s.resultTag g g.width with
    | .error code => s.fault g code (tagPos g)
    | .ok r => .next (r.1.endFiring g g.toks [(f.dst0.toNat, eosToken r.2 g.width), (f.dst1.toNat, eosToken r.2 g.width)] lat hold 0) := by
  subst hf
  rw [sendResult]
  cases s.resultTag g g.width <;> rfl

end State

/-! ### The value opcodes -/

/-- A slot operation is a value opcode: its meaning runs under the checks of the value opcodes. -/
def IsValueOp (op : Nat) (mk : SlotFields → Instr) : Prop :=
  ∀ s f, ∃ lat hold act, exec (mk f) s = State.value s op f lat hold act

section
variable {s : State} {op : Nat} {mk : SlotFields → Instr} {f : SlotFields} {g : Firing}

theorem valueOp_unmatched (hmk : IsValueOp op mk) (h : s.matchedSet op f = none) : exec (mk f) s = .refused .notEnabled := by
  obtain ⟨lat, hold, act, hexec⟩ := hmk s f
  exact hexec.trans (State.fire_of_unmatched h)

/-- R123: an arc token faults a value opcode. -/
theorem valueOp_arc (hmk : IsValueOp op mk) (hop : 0x10 ≤ op ∧ op ≤ 0x67) (h : s.matchedSet op f = some g) (harc : ∃ t ∈ g.toks, t.token.kind = 5) :
    ∃ t ∈ g.toks, t.token.kind = 5 ∧ exec (mk f) s = s.fault g 0x08 t.pos := by
  obtain ⟨lat, hold, act, hexec⟩ := hmk s f
  obtain ⟨rfl, -⟩ := State.matchedSet_says h
  obtain ⟨t, ht, hkind, hat⟩ := (State.arcAt_isSome_iff (by omega) (by omega) (by omega) (by omega)).mp harc
  exact ⟨t, ht, hkind, hexec.trans (State.fire_of_arc h hat)⟩

/-- R94, R122: a closed gate ends the firing of a value opcode. -/
theorem valueOp_closed (hmk : IsValueOp op mk) (hop : 0x10 ≤ op ∧ op ≤ 0x67) (h : s.matchedSet op f = some g) (harc : ∀ t ∈ g.toks, t.token.kind ≠ 5)
    (hgated : gatedOf f = true) (hgate : ∀ t, g.at_ 2 = some t → t.token.kind = 2 ∨ t.token.lane 0 = 0) :
    exec (mk f) s = .next (s.endFiring g g.toks [] 0 1 0) := by
  obtain ⟨lat, hold, act, hexec⟩ := hmk s f
  obtain ⟨rfl, -⟩ := State.matchedSet_says h
  refine hexec.trans (State.fire_of_closed h ?_ hgated (State.gateOpens_eq_false (by omega) hgate))
  rw [State.arcAt_value (by omega) (by omega) (by omega) (by omega), Option.map_eq_none_iff, List.find?_eq_none]
  exact fun t ht => by simpa [kArc] using harc t ht

/-- R105: an operand of another width than the format's faults a value opcode. -/
theorem valueOp_mismatch (hmk : IsValueOp op mk) (h : Ready s op f g) {w : Nat} (hw : fmtWidth (fmtOf f) = some w)
    (hne : ∃ t ∈ g.checked, t.token.width ≠ w) : ∃ t ∈ g.checked, t.token.width ≠ w ∧ exec (mk f) s = s.fault g 0x08 t.pos := by
  obtain ⟨lat, hold, act, hexec⟩ := hmk s f
  obtain ⟨t, ht, hwidth, hat⟩ := State.widthMismatch_of_exists hne
  exact ⟨t, ht, hwidth, hexec.trans (State.value_of_mismatch h hw hat)⟩

/-- R123: EOS at every operand gives EOS at both destinations. -/
theorem valueOp_eos (hmk : IsValueOp op mk) (h : Ready s op f g) (hw : ∀ w, fmtWidth (fmtOf f) = some w → ∀ t ∈ g.checked, t.token.width = w)
    (hne : g.operands ≠ []) (heos : ∀ t ∈ g.operands, t.token.kind = 2) :
    ∃ lat hold, FiresWith (mk f) s g g.width lat hold 0 fun _ tag l => l = [(f.dst0.toNat, eosToken tag g.width), (f.dst1.toNat, eosToken tag g.width)] := by
  obtain ⟨lat, hold, act, hexec⟩ := hmk s f
  obtain ⟨-, hf, -⟩ := State.matchedSet_says h.set
  rw [State.value_of_widths h hw, State.eosRule, State.eosCase_all hne heos] at hexec
  have hsends := hexec.trans (State.sendResult_eos hf)
  refine ⟨lat, hold, fun r hr => ⟨_, rfl, ?_⟩, fun c hc => ?_⟩
  · rw [hsends, hr]
  · rw [hsends, hc]

/-- R123: EOS at some operands and not at others faults a value opcode. -/
theorem valueOp_mixed (hmk : IsValueOp op mk) (h : Ready s op f g) (hw : ∀ w, fmtWidth (fmtOf f) = some w → ∀ t ∈ g.checked, t.token.width = w)
    (heos : ∃ t ∈ g.operands, t.token.kind = 2) (hdata : ∃ t ∈ g.operands, ¬ t.token.kind = 2) :
    ∃ t ∈ g.operands, t.token.kind = 2 ∧ exec (mk f) s = s.fault g 0x08 t.pos := by
  obtain ⟨lat, hold, act, hexec⟩ := hmk s f
  rw [State.value_of_widths h hw, State.eosRule, State.eosCase_mixed heos hdata] at hexec
  obtain ⟨t, ht, hkind, hat⟩ := State.eosPos_of_exists heos
  exact ⟨t, ht, hkind, hat ▸ hexec⟩

end

/-- Settles O33: every opcode of the list is a value opcode, and each check in its turn. -/
theorem valueSlotsCheckTheirOperands : Obligations.ValueSlotsCheckTheirOperands := by
  unfold Obligations.ValueSlotsCheckTheirOperands
  intro ops o ho s f
  have hrange : ∀ o ∈ ops, 0x10 ≤ o.1 ∧ o.1 ≤ 0x67 := by
    intro o ho
    have hcode : o.1 ∈ ops.map Prod.fst := List.mem_map_of_mem ho
    have hcodes : ∀ n ∈ ops.map Prod.fst, 0x10 ≤ n ∧ n ≤ 0x67 := by decide
    exact hcodes o.1 hcode
  have hvalue : ∀ o ∈ ops, IsValueOp o.1 o.2 := by
    simp only [ops, List.forall_mem_cons, List.not_mem_nil, false_implies, implies_true, and_true]
    repeat' apply And.intro
    all_goals exact fun _ _ => ⟨_, _, _, rfl⟩
  have hmk := hvalue o ho
  refine ⟨valueOp_unmatched hmk, fun g hg => ⟨valueOp_arc hmk (hrange o ho) hg, valueOp_closed hmk (hrange o ho) hg, fun hready => ?_⟩⟩
  exact ⟨fun w => valueOp_mismatch hmk hready, fun hw => ⟨valueOp_eos hmk hready hw, valueOp_mixed hmk hready hw⟩⟩

end Sys2Proof.Machine
end

section
/-! Tags and sources (R79, R86, R124): the fields of a word that has one of them set, and the token that a source stands for. -/

namespace Sys2Proof.Machine

/-! ### Fields of a word -/

section
variable (w : Word) {lo n lo' n' : Nat} (v : Nat)

theorem getLsbD_setFld (h : lo + n ≤ 64) (i : Nat) :
    (setFld w lo n v).getLsbD i = if lo ≤ i ∧ i < lo + n then v.testBit (i - lo) else w.getLsbD i := by
  have hword := w.isLt
  have hlow : w.toNat % 2 ^ lo < 2 ^ lo := Nat.mod_lt _ (Nat.two_pow_pos lo)
  have hfield : ∀ m : Nat, m % 2 ^ n < 2 ^ n := fun m => Nat.mod_lt _ (Nat.two_pow_pos n)
  have hsplit : w.toNat = 2 ^ lo * (2 ^ n * (w.toNat / 2 ^ lo / 2 ^ n) + w.toNat / 2 ^ lo % 2 ^ n) + w.toNat % 2 ^ lo := by
    rw [Nat.div_add_mod, Nat.div_add_mod]
  have hvalue : w.toNat - bits w.toNat lo n * 2 ^ lo + v % 2 ^ n * 2 ^ lo =
      2 ^ lo * (2 ^ n * (w.toNat / 2 ^ lo / 2 ^ n) + v % 2 ^ n) + w.toNat % 2 ^ lo := by
    rw [Nat.mul_add] at hsplit
    rw [bits, Nat.mul_comm _ (2 ^ lo), Nat.mul_comm (v % 2 ^ n), Nat.mul_add]
    omega
  have hbits : ∀ m i, (2 ^ lo * (2 ^ n * (w.toNat / 2 ^ lo / 2 ^ n) + m % 2 ^ n) + w.toNat % 2 ^ lo).testBit i =
      if i < lo then w.toNat.testBit i else if i < lo + n then m.testBit (i - lo) else w.toNat.testBit i := by
    intro m i
    rw [Nat.testBit_two_pow_mul_add _ hlow, Nat.testBit_two_pow_mul_add _ (hfield m)]
    simp only [Nat.testBit_mod_two_pow, Nat.testBit_div_two_pow]
    by_cases h1 : i < lo
    · simp [h1]
    · by_cases h2 : i < lo + n
      · simp [h1, h2, show i - lo < n by omega]
      · simp [h1, h2, show ¬ i - lo < n by omega, show i - lo - n + n + lo = i by omega]
  rw [setFld, hvalue, BitVec.getLsbD_ofNat, hbits]
  by_cases hi : i < 64
  · simp only [hi, decide_true, Bool.true_and, BitVec.getLsbD]
    by_cases h1 : i < lo
    · rw [if_pos h1, if_neg (by omega)]
    · by_cases h2 : i < lo + n
      · rw [if_neg h1, if_pos h2, if_pos (by omega)]
      · rw [if_neg h1, if_neg h2, if_neg (by omega)]
  · rw [BitVec.getLsbD_of_ge w i (by omega), if_neg (show ¬ (lo ≤ i ∧ i < lo + n) by omega), decide_eq_false hi, Bool.false_and]

theorem extractLsb'_setFld_same (h : lo + n ≤ 64) : (setFld w lo n v).extractLsb' lo n = BitVec.ofNat n v := by
  refine BitVec.eq_of_getLsbD_eq fun i hi => ?_
  rw [BitVec.getLsbD_extractLsb', getLsbD_setFld w v h, if_pos (by omega), BitVec.getLsbD_ofNat, Nat.add_sub_cancel_left]

theorem extractLsb'_setFld_other (h : lo + n ≤ 64) (hapart : lo' + n' ≤ lo ∨ lo + n ≤ lo') :
    (setFld w lo n v).extractLsb' lo' n' = w.extractLsb' lo' n' := by
  refine BitVec.eq_of_getLsbD_eq fun i hi => ?_
  rw [BitVec.getLsbD_extractLsb', BitVec.getLsbD_extractLsb', getLsbD_setFld w v h, if_neg (by omega)]

end

/-! ### Tags (R86) -/

theorem tagDepth_eq (t : Tag) : tagDepth t = (t.extractLsb' 48 4).toNat := fld_eq_extractLsb' t 48 4

section
variable {t : Tag} (v : Nat)

/-- R128: a tag with one more field is a level deeper. -/
theorem depth_tagPush (h : (t.extractLsb' 48 4).toNat < 6) : ((tagPush t v).extractLsb' 48 4).toNat = (t.extractLsb' 48 4).toNat + 1 := by
  rw [tagPush, setTagDepth, extractLsb'_setFld_same _ _ (by omega), tagDepth_eq, BitVec.toNat_ofNat, Nat.mod_eq_of_lt (by omega)]

theorem colour_tagPush (h : (t.extractLsb' 48 4).toNat < 6) : (tagPush t v).extractLsb' 52 12 = t.extractLsb' 52 12 := by
  rw [tagPush, setTagDepth, extractLsb'_setFld_other _ _ (by omega) (by omega), setTagField, tagDepth_eq, extractLsb'_setFld_other _ _ (by omega) (by omega)]

/-- R128: the new field is the innermost one. -/
theorem field_tagPush (h : (t.extractLsb' 48 4).toNat < 6) {k : Nat} (hk : k < 6) : (tagPush t v).extractLsb' (40 - 8 * k) 8 =
    if k = (t.extractLsb' 48 4).toNat then BitVec.ofNat 8 v else t.extractLsb' (40 - 8 * k) 8 := by
  rw [tagPush, setTagDepth, extractLsb'_setFld_other _ _ (by omega) (by omega), setTagField, tagDepth_eq]
  split
  · next hat => rw [hat, extractLsb'_setFld_same _ _ (by omega)]
  · next hne => rw [extractLsb'_setFld_other _ _ (by omega) (by omega)]

end

/-! ### Lanes (R83, R84) -/

theorem packLanes_lt (w : Nat) (k : Nat → Nat) (n : Nat) : packLanes w k n < 2 ^ (w * n) := by
  induction n with
  | zero => exact Nat.one_pos
  | succ n ih =>
    have hlane : k n % 2 ^ w + 1 ≤ 2 ^ w := Nat.mod_lt _ (Nat.two_pow_pos w)
    calc packLanes w k n + k n % 2 ^ w * 2 ^ (w * n)
        < 2 ^ (w * n) + k n % 2 ^ w * 2 ^ (w * n) := Nat.add_lt_add_right ih _
      _ = (k n % 2 ^ w + 1) * 2 ^ (w * n) := by rw [Nat.add_mul, Nat.one_mul, Nat.add_comm]
      _ ≤ 2 ^ w * 2 ^ (w * n) := Nat.mul_le_mul_right _ hlane
      _ = 2 ^ (w * (n + 1)) := by rw [← Nat.pow_add, Nat.mul_succ, Nat.add_comm]

/-- R84: the lanes of a packed payload. -/
theorem bits_packLanes (w : Nat) (k : Nat → Nat) (n i : Nat) : bits (packLanes w k n) (w * i) w = if i < n then k i % 2 ^ w else 0 := by
  induction n with
  | zero => rw [packLanes, bits, Nat.zero_div, Nat.zero_mod, if_neg (Nat.not_lt_zero i)]
  | succ n ih =>
    rw [packLanes, Nat.add_comm, Nat.mul_comm, bits]
    rcases Nat.lt_trichotomy i n with hlt | rfl | hgt
    · have hle : w * i + w ≤ w * n := by rw [← Nat.mul_succ]; exact Nat.mul_le_mul_left w hlt
      have hsplit : 2 ^ (w * n) * (k n % 2 ^ w) = 2 ^ (w * i) * (2 ^ w * (2 ^ (w * n - w * i - w) * (k n % 2 ^ w))) := by
        rw [← Nat.mul_assoc, ← Nat.mul_assoc, ← Nat.pow_add, ← Nat.pow_add]
        congr 2
        omega
      rw [hsplit, Nat.mul_add_div (Nat.two_pow_pos _), Nat.mul_add_mod, if_pos (by omega)]
      rw [bits, if_pos hlt] at ih
      exact ih
    · rw [Nat.mul_add_div (Nat.two_pow_pos _), Nat.div_eq_of_lt (packLanes_lt w k i), Nat.add_zero, Nat.mod_mod, if_pos (Nat.lt_succ_self i)]
    · have hbound : 2 ^ (w * n) * (k n % 2 ^ w) + packLanes w k n < 2 ^ (w * i) := by
        refine lt_of_lt_of_le ?_ (Nat.pow_le_pow_right (by omega) (Nat.mul_le_mul_left w hgt))
        rw [Nat.add_comm, Nat.mul_comm]
        exact packLanes_lt w k (n + 1)
      rw [Nat.div_eq_of_lt hbound, Nat.zero_mod, if_neg (by omega)]

theorem two_pow_mul_lanesOf {w : Nat} (h : w ≤ 5) : 2 ^ w * (1024 / 2 ^ w) = 1024 :=
  Nat.mul_div_cancel' (Nat.pow_dvd_pow (n := 10) 2 (by omega))

theorem toNat_maskPayload_full {w : Nat} (h : w ≤ 5) (p : Nat) : (maskPayload w (1024 / 2 ^ w) p).toNat = p % 2 ^ 1024 := by
  rw [maskPayload, laneWidth, two_pow_mul_lanesOf h, BitVec.toNat_ofNat, Nat.mod_mod]

/-! ### Sources (R79, R124) -/

theorem Src.isEos_iff (x : Src) : x.isEos = true ↔ ∃ t, x.tok = some t ∧ t.kind = 2 := by
  rw [Src.isEos]
  cases x.tok with
  | none => exact ⟨fun h => (nomatch h), fun ⟨t, h, _⟩ => (nomatch h)⟩
  | some t => exact ⟨fun h => ⟨t, rfl, eq_of_beq h⟩, fun ⟨u, hu, h⟩ => Option.some.inj hu ▸ beq_iff_eq.mpr h⟩

/-- R79, R124: the token that the machine makes of a source. -/
theorem Src.stands_asToken (x : Src) (tag : Tag) {w : Nat} (h : w ≤ 5) : x.stands tag w (x.asToken tag w) := by
  rw [Src.stands, Src.asToken]
  cases x.tok with
  | some t => rfl
  | none =>
    refine ⟨_, fun i => ?_, rfl⟩
    have hlt := packLanes_lt (2 ^ w) (fun _ => x.val) (1024 / 2 ^ w)
    rw [two_pow_mul_lanesOf h] at hlt
    show bits (maskPayload w (1024 / 2 ^ w) (packLanes (2 ^ w) (fun _ => x.val) (1024 / 2 ^ w))).toNat _ _ = _
    rw [toNat_maskPayload_full h, Nat.mod_eq_of_lt hlt, bits_packLanes]

end Sys2Proof.Machine
end

section
/-! What sending and the end of a firing keep, and that two states send alike (R46, R85, R89 to R91). -/

namespace Sys2Proof.Machine

namespace State

/-! ### The cores of the partitions -/

/-- R408: which cores are each partition's. -/
def ownCores (s : State) (p c : Nat) : Bool := (s.part p).hasCore c

variable (s : State) (p c e : Nat)

theorem ownCores_modPart {k : PartSt → PartSt} (h : ∀ x c, (k x).hasCore c = x.hasCore c) : (s.modPart p k).ownCores = s.ownCores := by
  funext q d
  rw [ownCores, part_modPart]
  split
  · next hq => rw [h, hq]; rfl
  · rfl

theorem ownCores_setColour (x : ColourSt) : (s.setColour p c x).ownCores = s.ownCores := ownCores_modPart s p fun _ _ => rfl

theorem ownCores_settleColour : (s.settleColour p c).ownCores = s.ownCores := by
  simp only [settleColour, apply_ite ownCores, ownCores_setColour, ite_self]

theorem ownCores_settleColours (cs : List Nat) : (s.settleColours p cs).ownCores = s.ownCores :=
  foldl_keeps (g := ownCores) (fun st c => st.ownCores_settleColour p c) cs s

theorem ownCores_leaveFrame (g : Firing) : (s.leaveFrame g).ownCores = s.ownCores := by
  unfold leaveFrame
  dsimp only
  split
  · split
    · exact ownCores_setColour _ _ _ _
    · rfl
  · rfl

theorem ownCores_unreport : (s.unreport e).ownCores = s.ownCores := by
  have hreport : ∀ (u : State) q, (u.modPart q fun x => { x with reported := false }).ownCores = u.ownCores := fun u q => ownCores_modPart u q fun _ _ => rfl
  unfold unreport
  cases s.fieldAt e <;> simp only [apply_ite ownCores, hreport, ite_self]
  rfl

theorem ownCores_launch (f : FlightSt) : (s.launch f).ownCores = s.ownCores := by
  unfold launch
  split
  · exact ownCores_unreport s _
  · exact ownCores_unreport s _
  · rfl

theorem ownCores_send (slot code : Nat) (t : Token) (ready : Nat) : (s.send e slot code t ready).ownCores = s.ownCores := by
  unfold send
  split
  · rfl
  · split
    · exact ownCores_launch _ _
    · dsimp only
      split
      · exact ownCores_unreport s e
      · exact ownCores_unreport s e

theorem ownCores_foldl_send (s : State) (e slot ready : Nat) (sends : List (Nat × Token)) :
    (sends.foldl (fun st d => st.send e slot d.1 d.2 ready) s).ownCores = s.ownCores := by
  induction sends generalizing s with
  | nil => rfl
  | cons d sends ih => exact (ih _).trans (s.ownCores_send e slot d.1 d.2 ready)

end State

/-! ### The frame of a slot's step -/

namespace SlotFrame

variable {s t u : State} {e : Nat}

theorem rest (h : SlotFrame s t e) : t.slotRest = s.slotRest := (congrArg State.slotRest h.machine :)

theorem trans (h : SlotFrame s t e) (h' : SlotFrame t u e) : SlotFrame s u e :=
  ⟨fun d hd => (h'.elems d hd).trans (h.elems d hd), h'.plane.trans h.plane, State.eq_of_slotRest (h'.rest.trans h.rest)⟩

/-- Fields, colours and the network are no part of the frame. -/
theorem of_elems (helems : t.elems = s.elems) (hrest : t.slotRest = s.slotRest) : SlotFrame s t e :=
  have helem : ∀ d, t.elem d = s.elem d := fun d => congrArg (fun l => (Table.getD l d {} : ElemSt)) helems
  ⟨fun d _ => helem d, by rw [helem], State.eq_of_slotRest hrest⟩

theorem modElem (s : State) (e : Nat) {k : ElemSt → ElemSt} (h : (k (s.elem e)).active = (s.elem e).active) : SlotFrame s (s.modElem e k) e := by
  refine ⟨fun d hd => ?_, ?_, rfl⟩
  · rw [State.modElem_eq, State.elem_setElem, if_neg hd.symm]
  · rw [State.modElem_eq, State.elem_setElem, if_pos rfl, h]

end SlotFrame

theorem Sent.frame {s t : State} {e : Nat} {outs scales : List OutTok} {locals : List FlightSt} (h : Sent s t e outs scales locals) : SlotFrame s t e :=
  ⟨h.others, by rw [h.elem]; rfl, State.eq_of_slotRest h.rest⟩

namespace State

variable (s : State)

theorem elem_modElem_same (e : Nat) (k : ElemSt → ElemSt) : (s.modElem e k).elem e = k (s.elem e) := by
  rw [modElem_eq, elem_setElem, if_pos rfl]

/-- R87: a tag action changes one colour or nothing. -/
theorem resultTag_cases {g : Firing} {w : Nat} {r : State × Tag} (h : s.resultTag g w = .ok r) : r.1 = s ∨ ∃ p c x, r.1 = s.setColour p c x := by
  unfold resultTag at h
  dsimp only at h
  repeat' split at h
  all_goals cases h
  iterate 6 exact .inl rfl
  · exact .inr ⟨_, _, _, rfl⟩
  iterate 3 exact .inl rfl

theorem resultTag_parts {g : Firing} {w : Nat} {r : State × Tag} (h : s.resultTag g w = .ok r) :
    (∃ ps, r.1 = { s with parts := ps }) ∧ r.1.ownCores = s.ownCores := by
  rcases s.resultTag_cases h with heq | ⟨p, c, x, heq⟩
  · exact ⟨⟨s.parts, heq⟩, by rw [heq]⟩
  · exact ⟨⟨_, heq⟩, by rw [heq, ownCores_setColour]⟩

end State

/-! ### Two states that send alike -/

/-- R46, R47: what the tokens sent from element `e` depend on: the cycle, its routes, its queues and the network. -/
structure State.SendsAlike (u t : State) (e : Nat) : Prop where
  sent : u.sentAs t e
  cycle : t.cycle = u.cycle
  routes : (t.elem e).active.routes = (u.elem e).active.routes

namespace State

theorem launch_eq (s : State) (f : FlightSt) : ∃ fs ps, s.launch f =
    { s with fields := fs, parts := ps, flights := Table.put s.flights s.flightNext f, flightNext := s.flightNext + 1 } := by
  unfold launch
  split
  · next d _ _ _ =>
    obtain ⟨fs, ps, heq, -⟩ := s.unreport_eq d
    exact ⟨fs, ps, by simp only [heq]⟩
  · next d _ _ _ =>
    obtain ⟨fs, ps, heq, -⟩ := s.unreport_eq d
    exact ⟨fs, ps, by simp only [heq]⟩
  · exact ⟨s.fields, s.parts, rfl⟩

/-- R46, R85: of the results only a local one is on the network at once. -/
theorem send_flights (s : State) (e slot code : Nat) (t : Token) (ready : Nat) : (s.send e slot code t ready).flights =
    if code < 32 then Table.put s.flights s.flightNext (localFlight e s.cycle ready (code, t)) else s.flights := by
  unfold send
  split
  · next h => rw [if_neg (by omega)]
  · split
    · obtain ⟨fs, ps, heq⟩ := s.launch_eq { src := e, bound := .elem e (code % 16) (code / 16), token := t, at_ := ready + 1, isLocal := true, issued := s.cycle }
      rw [heq]
      rfl
    · obtain ⟨fs, ps, heq, -⟩ := s.unreport_eq e
      dsimp only
      rw [heq]
      split
      · rfl
      · rfl

theorem SendsAlike.send {u t : State} {e : Nat} (h : u.SendsAlike t e) (slot code : Nat) (y : Token) (ready : Nat) :
    (u.send e slot code y ready).SendsAlike (t.send e slot code y ready) e := by
  obtain ⟨⟨hflights, hnext, houtq, hscaleq⟩, hcycle, hroutes⟩ := h
  have hu := send_sent u e slot code y ready
  have ht := send_sent t e slot code y ready
  rw [hroutes, hcycle] at ht
  refine ⟨⟨?_, ?_, ?_, ?_⟩, ?_, ?_⟩
  · rw [send_flights, send_flights, hflights, hnext, hcycle]
  · rw [ht.next, hu.next, hnext]
  · rw [ht.elem, hu.elem]
    exact congrArg (· ++ _) houtq
  · rw [ht.elem, hu.elem]
    exact congrArg (· ++ _) hscaleq
  · exact ((congrArg State.cycle ht.rest :).trans hcycle).trans (congrArg State.cycle hu.rest :).symm
  · rw [ht.elem, hu.elem]
    exact hroutes

theorem SendsAlike.foldl_send {u t : State} {e : Nat} (h : u.SendsAlike t e) (slot ready : Nat) (sends : List (Nat × Token)) :
    (sends.foldl (fun st d => st.send e slot d.1 d.2 ready) u).SendsAlike (sends.foldl (fun st d => st.send e slot d.1 d.2 ready) t) e := by
  induction sends generalizing u t with
  | nil => exact h
  | cons d sends ih => exact ih (h.send slot d.1 d.2 ready)

theorem SendsAlike.of_parts {u t u' t' : State} {e : Nat} (h : u.SendsAlike t e) (hu : { u' with parts := [] } = { u with parts := [] })
    (ht : { t' with parts := [] } = { t with parts := [] }) : u'.SendsAlike t' e := by
  obtain ⟨⟨hflights, hnext, houtq, hscaleq⟩, hcycle, hroutes⟩ := h
  refine ⟨⟨?_, ?_, ?_, ?_⟩, ?_, ?_⟩
  · exact ((congrArg State.flights ht :).trans hflights).trans (congrArg State.flights hu :).symm
  · exact ((congrArg State.flightNext ht :).trans hnext).trans (congrArg State.flightNext hu :).symm
  · exact ((congrArg (fun v : State => (v.elem e).outq) ht :).trans houtq).trans (congrArg (fun v : State => (v.elem e).outq) hu :).symm
  · exact ((congrArg (fun v : State => (v.elem e).scaleq) ht :).trans hscaleq).trans (congrArg (fun v : State => (v.elem e).scaleq) hu :).symm
  · exact ((congrArg State.cycle ht :).trans hcycle).trans (congrArg State.cycle hu :).symm
  · exact ((congrArg (fun v : State => (v.elem e).active.routes) ht :).trans hroutes).trans (congrArg (fun v : State => (v.elem e).active.routes) hu :).symm

section
variable (s : State) (g : Firing) (taken : List StoreTok) (sends : List (Nat × Token)) (lat hold flags : Nat)

/-- R85, R89, R90: a firing ends with its tokens taken and its results sent; leaving a frame and settling colours change partitions alone. -/
theorem endFiring_parts : { s.endFiring g taken sends lat hold flags with parts := [] } =
    { sends.foldl (fun st d => st.send g.e g.slot d.1 d.2 (s.cycle + lat)) (s.firedAt g taken lat hold flags) with parts := [] } := by
  refine (settleColours_frame _ _ _ _).trans ?_
  split
  · exact leaveFrame_frame _ _ _
  · rfl

theorem ownCores_firedAt : (s.firedAt g taken lat hold flags).ownCores = s.ownCores := by
  obtain ⟨fs, heq, -⟩ := firedAt_eq s g taken lat hold flags
  rw [heq]
  rfl

theorem ownCores_endFiring : (s.endFiring g taken sends lat hold flags).ownCores = s.ownCores := by
  refine (ownCores_settleColours _ _ _).trans ?_
  have hsends := ownCores_foldl_send (s.firedAt g taken lat hold flags) g.e g.slot (s.cycle + lat) sends
  split
  · exact (ownCores_leaveFrame _ _).trans (hsends.trans (ownCores_firedAt _ _ _ _ _ _))
  · exact hsends.trans (ownCores_firedAt _ _ _ _ _ _)

variable {s} in
/-- R85: results of like states leave alike. -/
theorem SendsAlike.endFiring {t : State} (h : s.SendsAlike t g.e) (taken' : List StoreTok) :
    (s.endFiring g taken sends lat hold flags).SendsAlike (t.endFiring g taken' sends lat hold flags) g.e := by
  have hfired : (s.firedAt g taken lat hold flags).SendsAlike (t.firedAt g taken' lat hold flags) g.e := by
    obtain ⟨⟨hflights, hnext, houtq, hscaleq⟩, hcycle, hroutes⟩ := h
    have hs := firedAt_elem s g taken lat hold flags g.e
    have ht := firedAt_elem t g taken' lat hold flags g.e
    rw [if_pos rfl] at hs ht
    obtain ⟨fs, hseq, -⟩ := firedAt_eq s g taken lat hold flags
    obtain ⟨ft, hteq, -⟩ := firedAt_eq t g taken' lat hold flags
    refine ⟨⟨?_, ?_, ?_, ?_⟩, ?_, ?_⟩
    · rw [hseq, hteq]
      exact hflights
    · rw [hseq, hteq]
      exact hnext
    · rw [hs, ht]
      exact houtq
    · rw [hs, ht]
      exact hscaleq
    · rw [hseq, hteq]
      exact hcycle
    · rw [hs, ht]
      exact hroutes
  have hsends := hfired.foldl_send g.slot (s.cycle + lat) sends
  refine hsends.of_parts (endFiring_parts s g taken sends lat hold flags) ?_
  rw [← h.cycle]
  exact endFiring_parts t g taken' sends lat hold flags

end

end State

end Sys2Proof.Machine
end

section
/-! O43, the slots that fire on a matched set: ITER, COUNT, REAP, MAIL and ORD (R95, R128, R129, R131, R133, R237). -/

namespace Sys2Proof.Machine

section
variable {s : State} {f : SlotFields} {g : Firing}

/-! ### ITER (R128) -/

/-- R128: how many tokens an ITER sends before its EOS. -/
def iterCount (s : State) (g : Firing) : Nat :=
  if (s.srcA g).isEos || (s.srcB g).isEos then 0 else (s.srcB g).lane (2 ^ g.width) 0

/-- R128: the emission that an ITER of `n` tokens starts. -/
def iterStart (s : State) (g : Firing) (n : Nat) : IterSt :=
  { slot := g.slot, tag := g.tag, k := 0, n := n, token := (s.srcA g).asToken g.tag g.width, at_ := s.cycle }

theorem eos_or_eos_iff : ((s.srcA g).isEos || (s.srcB g).isEos) = true ↔
    (∃ t, (s.srcA g).tok = some t ∧ t.kind = 2) ∨ ∃ t, (s.srcB g).tok = some t ∧ t.kind = 2 := by
  rw [Bool.or_eq_true, Src.isEos_iff, Src.isEos_iff]

/-- R128: an EOS at either source makes an emission of no tokens. -/
theorem iterCount_eq {n : Nat} (heos : ((∃ t, (s.srcA g).tok = some t ∧ t.kind = 2) ∨ ∃ t, (s.srcB g).tok = some t ∧ t.kind = 2) → n = 0)
    (hdata : ¬((∃ t, (s.srcA g).tok = some t ∧ t.kind = 2) ∨ ∃ t, (s.srcB g).tok = some t ∧ t.kind = 2) → n = (s.srcB g).lane (2 ^ g.width) 0) :
    iterCount s g = n := by
  rw [iterCount]
  split
  · next h => exact (heos (eos_or_eos_iff.mp h)).symm
  · next h => exact (hdata (mt eos_or_eos_iff.mpr h)).symm

theorem iter_of_ready (h : Ready s 0x07 f g) : exec (.iter f) s =
    if tagDepth g.tag = 6 then s.fault g 0x08 (State.tagPos g)
    else if 256 < iterCount s g then s.fault g 0x08 (if f.srcB.toNat ≤ 2 then f.srcB.toNat else 3)
    else .next ((s.modElem g.e fun x => { x with iter := some (iterStart s g (iterCount s g)) }).endFiring g g.toks [] 2 1 0) := by
  show execIter f s = _
  rw [execIter, State.fire_of_ready h] <;> rfl

/-- R128: ITER's checks, and the emission that it starts. -/
theorem iter_starts (hw : g.width ≤ 5) (h : Ready s 0x07 f g) (hdepth : (g.tag.extractLsb' 48 4).toNat ≠ 6) :
    (256 < iterCount s g → ∃ p, exec (.iter f) s = s.fault g 0x08 p) ∧
    (iterCount s g ≤ 256 → ∃ y, (s.srcA g).stands g.tag g.width y ∧
      exec (.iter f) s = .next ((s.setElem g.e { s.elem g.e with iter := some { slot := g.slot, tag := g.tag, k := 0, n := iterCount s g, token := y, at_ := s.cycle } }).endFiring g g.toks [] 2 1 0)) := by
  rw [iter_of_ready h, if_neg (by rwa [tagDepth_eq])]
  refine ⟨fun hmany => ⟨_, if_pos hmany⟩, fun hfew => ⟨_, (s.srcA g).stands_asToken g.tag hw, if_neg (Nat.not_lt.mpr hfew)⟩⟩

/-! ### COUNT (R129) -/

/-- R129: lane 0 of the token that a COUNT sends. -/
def countValue (f : SlotFields) (y : Token) : Nat :=
  if modeOf f = 0 then (f.ext.signExtend 64).toNat else y.valid * (f.ext.signExtend 64).toNat

theorem fmtWidth_of_count (h : fmtOf f = 1 ∨ fmtOf f = 3 ∨ fmtOf f = 5) : (fmtWidth (fmtOf f)).getD 5 = fmtCode f ∧ fmtCode f ≤ 5 := by
  refine ⟨rfl, ?_⟩
  rw [fmtCode]
  rcases h with h | h | h <;> rw [h] <;> decide

/-- R129: COUNT's count is a signed number, of any lane width. -/
theorem toNat_ofInt_mul_ext (b : BitVec 16) (m : Nat) {n : Nat} (hn : n ≤ 64) :
    (BitVec.ofInt n (m * b.toInt)).toNat = m * (b.signExtend 64).toNat % 2 ^ n := by
  have hext : b.toInt = (b.signExtend 64).toInt := (BitVec.toInt_signExtend_of_le (by omega)).symm
  have hdvd : ((2 ^ n : Nat) : Int) ∣ ((2 ^ 64 : Nat) : Int) := Int.natCast_dvd_natCast.mpr (Nat.pow_dvd_pow 2 hn)
  have hmod : ((b.signExtend 64).toInt : Int) % (2 ^ n : Nat) = (b.signExtend 64).toNat % (2 ^ n : Nat) := by
    rw [BitVec.toInt_eq_toNat_bmod, ← Int.emod_emod_of_dvd _ hdvd, Int.bmod_emod, Int.emod_emod_of_dvd _ hdvd]
  rw [BitVec.toNat_ofInt, hext, Int.mul_emod, hmod, ← Int.mul_emod]
  norm_cast

theorem two_pow_width_le {code : Nat} (h : code ≤ 5) : 2 ^ code ≤ 32 := Nat.pow_le_pow_right (n := 2) (j := 5) (by omega) h

theorem toNat_maskPayload_one {code : Nat} (h : code ≤ 5) (v : Nat) : (maskPayload code 1 (v % 2 ^ 2 ^ code)).toNat = v % 2 ^ 2 ^ code := by
  have hle : 2 ^ 2 ^ code ≤ 2 ^ 32 := Nat.pow_le_pow_right (by omega) (two_pow_width_le h)
  have hlt : v % 2 ^ 2 ^ code < 2 ^ 2 ^ code := Nat.mod_lt _ (Nat.two_pow_pos _)
  rw [maskPayload, laneWidth, Nat.mul_one, Nat.mod_mod, BitVec.toNat_ofNat, Nat.mod_eq_of_lt]
  exact lt_of_lt_of_le hlt (hle.trans (Nat.pow_le_pow_right (by omega) (by omega)))

/-- R84: a payload of one lane. -/
theorem lanes_one {p : Payload} {w v : Nat} (h : p.toNat = v % 2 ^ w) : Lanes p w 1 fun _ => v % 2 ^ w := by
  intro i
  have hlt : v % 2 ^ w < 2 ^ w := Nat.mod_lt _ (Nat.two_pow_pos w)
  rw [h, bits]
  cases i with
  | zero => rw [Nat.mul_zero, Nat.pow_zero, Nat.div_one, Nat.mod_mod, if_pos Nat.one_pos]
  | succ i =>
    have hle : 2 ^ w ≤ 2 ^ (w * (i + 1)) := Nat.pow_le_pow_right (by omega) (Nat.le_mul_of_pos_right w (Nat.succ_pos i))
    rw [Nat.div_eq_of_lt (lt_of_lt_of_le hlt hle), Nat.zero_mod, if_neg (by omega)]

theorem count_of_ready (h : Ready s 0x08 f g) (hwidths : ∀ t ∈ g.checked, t.token.width = fmtCode f) : exec (.count f) s =
    sendTokens s g (fmtCode f) fun tag => [(f.dst0.toNat, { (s.srcA g).asToken g.tag (fmtCode f) with tag := tag }),
      (f.dst1.toNat, mkToken tag kData 1 (fmtCode f) (countValue f ((s.srcA g).asToken g.tag (fmtCode f)) % 2 ^ 2 ^ fmtCode f))] := by
  show execCount f s = _
  rw [execCount, State.fire_of_ready h]
  have hnone : State.widthMismatch g ((fmtWidth (fmtOf f)).getD 5) = none := State.widthMismatch_of_forall hwidths
  simp only [hnone]
  rfl

theorem countValue_eq (y : Token) {n : Nat} (hn : n ≤ 64) :
    (BitVec.ofInt n (if modeOf f = 0 then f.ext.toInt else y.valid * f.ext.toInt)).toNat = countValue f y % 2 ^ n := by
  rw [countValue]
  split
  · have h := toNat_ofInt_mul_ext f.ext 1 hn
    rwa [Nat.cast_one, one_mul, one_mul] at h
  · exact toNat_ofInt_mul_ext f.ext y.valid hn

/-- R87, R90: a firing that sends made tokens. -/
theorem firesWith_of_sendTokens {i : Instr} {width : Nat} {mk : Tag → List (Nat × Token)} {P : State → Tag → List (Nat × Token) → Prop}
    (hexec : exec i s = sendTokens s g width mk) (hP : ∀ u tag, P u tag (mk tag)) : FiresWith i s g width 2 1 0 P := by
  rw [sendTokens] at hexec
  refine ⟨fun r hr => ⟨mk r.2, hP _ _, ?_⟩, fun c hc => ?_⟩
  · rw [hexec, hr]
  · rw [hexec, hc]

/-- R129: COUNT sends A unchanged, and its count. -/
theorem count_sends (h : Ready s 0x08 f g) (hfmt : fmtOf f = 1 ∨ fmtOf f = 3 ∨ fmtOf f = 5) (hwidths : ∀ t ∈ g.checked, t.token.width = fmtCode f) :
    ∃ y, (s.srcA g).stands g.tag (fmtCode f) y ∧ FiresWith (.count f) s g (fmtCode f) 2 1 0 fun _ tag l => ∃ p : Payload,
      Lanes p (2 ^ fmtCode f) 1 (fun _ => (BitVec.ofInt (2 ^ fmtCode f) (if modeOf f = 0 then f.ext.toInt else y.valid * f.ext.toInt)).toNat) ∧
      l = [(f.dst0.toNat, { y with tag := tag }), (f.dst1.toNat, { tag := tag, kind := 0, valid := 1, width := fmtCode f, payload := p })] := by
  obtain ⟨-, hcode⟩ := fmtWidth_of_count hfmt
  have hlane : 2 ^ fmtCode f ≤ 64 := (two_pow_width_le hcode).trans (by omega)
  refine ⟨_, (s.srcA g).stands_asToken g.tag hcode, firesWith_of_sendTokens (count_of_ready h hwidths) fun _ tag => ⟨_, ?_, rfl⟩⟩
  simp only [countValue_eq _ hlane]
  exact lanes_one (toNat_maskPayload_one hcode _)

/-! ### REAP (R95, R131) -/

theorem reap_of_ready (h : Ready s 0x0A f g) : exec (.reap f) s =
    if tagDepth g.tag = 0 then s.fault g 0x08 (State.tagPos g)
    else match s.resultTag g ((s.srcA g).asToken g.tag g.width).width with
      | .error code => s.fault g code (State.tagPos g)
      | .ok r => .next ((if f.extra.toNat = 0 then r.1 else reapAll r.1 g.e (tagOuter g.tag) (tagIx g.tag) f.extra.toNat).endFiring g g.toks
          [(f.dst0.toNat, { (s.srcA g).asToken g.tag g.width with tag := r.2 })] 2 1 0) := by
  show execReap f s = _
  rw [execReap, State.fire_of_ready h] <;> rfl

/-- R131: the reap token of an exit on its way to element `d`. -/
def reapFlight (s : State) (e : Nat) (key : Tag) (last count d : Nat) : FlightSt :=
  { src := e, bound := .elem d 0 3, token := { mkToken (tagPush key last) kReap 0 5 0 with payload := BitVec.ofNat 1024 count },
    at_ := s.cycle + 2 + State.hops e (.elem d 0 3) + 1, issued := s.cycle }

theorem reapAll_eq (s : State) (e : Nat) (key : Tag) (last count : Nat) :
    reapAll s e key last count = (bedElems s (s.planeAt e) (s.elem e).active.bed).foldl (fun st d => st.launch (reapFlight s e key last count d)) s := rfl

theorem launch_frame (s : State) (y : FlightSt) (fs : Table FieldSt) (ps : Table PartSt) (fl : Table FlightSt) (n : Nat) :
    { s.launch y with flights := fl, flightNext := n, fields := fs, parts := ps } = { s with flights := fl, flightNext := n, fields := fs, parts := ps } := by
  obtain ⟨fs', ps', heq⟩ := s.launch_eq y
  rw [heq]

/-- R131: reap tokens change the network alone, and what has been reported of where they go. -/
theorem reapAll_frame (s : State) (e : Nat) (key : Tag) (last count : Nat) (fs : Table FieldSt) (ps : Table PartSt) (fl : Table FlightSt) (n : Nat) :
    { reapAll s e key last count with flights := fl, flightNext := n, fields := fs, parts := ps } = { s with flights := fl, flightNext := n, fields := fs, parts := ps } := by
  rw [reapAll_eq]
  exact foldl_keeps (g := fun st : State => { st with flights := fl, flightNext := n, fields := fs, parts := ps })
    (f := fun st d => st.launch (reapFlight s e key last count d)) (fun st d => launch_frame st _ fs ps fl n) (bedElems s (s.planeAt e) (s.elem e).active.bed) s

theorem foldl_launch_sent (e : Nat) (y : Nat → FlightSt) (hy : ∀ d, ∃ slot pos, (y d).bound = .elem d slot pos) (l : List Nat) (s : State) :
    Sent s (l.foldl (fun st d => st.launch (y d)) s) e [] [] (l.map y) := by
  induction l generalizing s with
  | nil => exact .refl s e
  | cons d l ih =>
    obtain ⟨slot, pos, hbound⟩ := hy d
    exact (Sent.launch s e (y d) hbound).trans (ih _)

/-- R131: every element of the bed has a reap token on its way. -/
theorem reapAll_launches (s : State) (e : Nat) (key : Tag) (last count : Nat) {d : Nat} (hd : d ∈ bedElems s (s.planeAt e) (s.elem e).active.bed) :
    ∃ k, s.flightNext ≤ k ∧ Table.find? (reapAll s e key last count).flights k = some (reapFlight s e key last count d) := by
  obtain ⟨n, hn⟩ := List.mem_iff_getElem?.mp hd
  refine ⟨s.flightNext + n, Nat.le_add_right _ _, ?_⟩
  rw [reapAll_eq]
  exact (foldl_launch_sent e (reapFlight s e key last count) (fun d => ⟨0, 3, rfl⟩) (bedElems s (s.planeAt e) (s.elem e).active.bed) s).new n _ (by rw [List.getElem?_map, hn, Option.map_some])

/-- R131: where a firing's exit leaves the network. -/
theorem reap_reaps {r : State × Tag} {w : Nat} (hr : s.resultTag g w = .ok r) (key : Tag) (last count : Nat) : let u := reapAll r.1 g.e key last count
    { u with flights := s.flights, flightNext := s.flightNext, fields := s.fields, parts := s.parts } =
        { r.1 with flights := s.flights, flightNext := s.flightNext, fields := s.fields, parts := s.parts } ∧
      ∀ d ∈ planeElems (s.planeAt g.e), (s.elem d).active.bed = (s.elem g.e).active.bed → ∃ k h, Table.find? u.flights k = some h ∧ s.flightNext ≤ k ∧
        h.src = g.e ∧ h.bound = .elem d 0 3 ∧ h.at_ = s.cycle + State.hops g.e (.elem d 0 3) + 3 ∧ h.token.kind = 4 ∧
        h.token.tag = tagPush key last ∧ h.token.payload = BitVec.ofNat 1024 count := by
  refine ⟨reapAll_frame r.1 g.e key last count _ _ _ _, fun d hd hbed => ?_⟩
  obtain ⟨⟨ps, heq⟩, -⟩ := s.resultTag_parts hr
  obtain ⟨u, tag⟩ := r
  dsimp only at heq ⊢
  subst heq
  obtain ⟨k, hk, hat⟩ := reapAll_launches { s with parts := ps } g.e key last count (d := d) (List.mem_filter.mpr ⟨hd, beq_iff_eq.mpr hbed⟩)
  exact ⟨k, _, hat, hk, rfl, rfl, by rw [reapFlight]; dsimp only; omega, rfl, rfl, rfl⟩

/-! ### MAIL (R133) -/

theorem mail_of_ready (h : Ready s 0x0E f g) : exec (.mail f) s =
    match s.resultTag g ((s.srcA g).asToken g.tag g.width).width with
    | .error code => s.fault g code (State.tagPos g)
    | .ok r => .next (r.1.endFiring g g.toks [(48, { (s.srcA g).asToken g.tag g.width with tag := r.2, kind := kMail })] 2 1 0) := by
  show execMail f s = _
  rw [execMail, State.fire_of_ready h] <;> rfl

/-- R91: tokens for the network leave what is on it as it was. -/
theorem endFiring_flights_of_remote (s : State) (g : Firing) (taken : List StoreTok) (lat hold flags : Nat) {sends : List (Nat × Token)}
    (h : ∀ d ∈ sends, 32 ≤ d.1) : (s.endFiring g taken sends lat hold flags).flights = s.flights := by
  have hsends : ∀ (l : List (Nat × Token)) (u : State), (∀ d ∈ l, 32 ≤ d.1) →
      (l.foldl (fun st d => st.send g.e g.slot d.1 d.2 (s.cycle + lat)) u).flights = u.flights := by
    intro l
    induction l with
    | nil => exact fun _ _ => rfl
    | cons d l ih =>
      intro u hl
      obtain ⟨hd, hrest⟩ := List.forall_mem_cons.mp hl
      rw [List.foldl_cons, ih _ hrest, State.send_flights, if_neg (by omega)]
  obtain ⟨fs, heq, -⟩ := firedAt_eq s g taken lat hold flags
  refine (congrArg State.flights (State.endFiring_parts s g taken sends lat hold flags) :).trans ((hsends sends _ h).trans ?_)
  rw [heq]
  rfl

/-- R133: MAIL's token joins the output queue. -/
theorem mail_sends (h : Ready s 0x0E f g) {r : State × Tag} {y : Token} (hy : y = (s.srcA g).asToken g.tag g.width) (hr : s.resultTag g y.width = .ok r) :
    ∃ t u, exec (.mail f) s = .next t ∧ u = r.1.endFiring g g.toks [] 2 1 0 ∧ SlotFrame s t g.e ∧
      t.flights = s.flights ∧ (t.elem g.e).store = (u.elem g.e).store ∧
      (t.elem g.e).outq = (s.elem g.e).outq ++ [{ dst := 48, token := { y with tag := r.2, kind := 6 }, readyAt := s.cycle + 2, slot := g.slot, issued := s.cycle }] := by
  subst hy
  have hexec := mail_of_ready h
  rw [hr] at hexec
  obtain ⟨⟨ps, heq⟩, -⟩ := s.resultTag_parts hr
  obtain ⟨u, tag⟩ := r
  dsimp only at heq hexec ⊢
  subst heq
  have hpart : SlotFrame s { s with parts := ps } g.e := .of_elems rfl rfl
  refine ⟨_, _, hexec, rfl, hpart.trans (endFiring_frame _ _ _ _ _ _ _), endFiring_flights_of_remote _ _ _ _ _ _ ?_, ?_, ?_⟩
  · simp
  · rw [endFiring_elem, endFiring_elem]
    rfl
  · rw [endFiring_elem]
    rfl

/-! ### ORD (R237) -/

theorem leaveFrame_parts (s : State) (g : Firing) : ∃ ps, s.leaveFrame g = { s with parts := ps } :=
  ⟨(s.leaveFrame g).parts, s.leaveFrame_frame g (s.leaveFrame g).parts⟩

/-- R237: what an ORD keeps until it sends its arcs. -/
def ordPend (s : State) (g : Firing) (tag : Tag) : PendSt :=
  { tag := tag, width := g.width, isOrd := true, value := none, at_ := max s.cycle (s.elem g.e).memDone + 2, issued := s.cycle }

theorem ord_of_ready (h : Ready s 0x0F f g) : exec (.ord f) s =
    if (Table.find? (s.elem g.e).pend g.slot).isSome then .refused .notEnabled
    else match s.resultTag g g.width with
      | .error code => s.fault g code (State.tagPos g)
      | .ok r => .next ((((if (State.dsts f).any fun d => d != 63 then r.1.leaveFrame g else r.1).modElem g.e fun x =>
          { x with pend := Table.put x.pend g.slot (ordPend s g r.2) }).endFiring g g.toks [] 2 1 0)) := by
  show execOrd f s = _
  rw [execOrd, State.fire_of_ready h] <;> rfl

/-- R237: an ORD keeps its operation pending. -/
theorem ord_pends (h : Ready s 0x0F f g) (hfree : Table.find? (s.elem g.e).pend g.slot = none) {r : State × Tag} (hr : s.resultTag g g.width = .ok r) :
    ∃ t, exec (.ord f) s = .next t ∧ SlotFrame s t g.e ∧ t.flights = s.flights ∧ TakenFrom (s.elem g.e).store g.toks (t.elem g.e).store ∧
      (t.elem g.e).outq = (s.elem g.e).outq ∧ (t.elem g.e).scaleq = (s.elem g.e).scaleq ∧
      ∀ k, Table.find? (t.elem g.e).pend k = if k = g.slot then some (ordPend s g r.2) else Table.find? (s.elem g.e).pend k := by
  have hexec := ord_of_ready h
  rw [hfree, hr, Option.isSome_none, if_neg Bool.false_ne_true] at hexec
  obtain ⟨ps, heq⟩ : ∃ ps, (if (State.dsts f).any fun d => d != 63 then r.1.leaveFrame g else r.1) = { s with parts := ps } := by
    obtain ⟨⟨ps, heq⟩, -⟩ := s.resultTag_parts hr
    split
    · obtain ⟨ps', hleft⟩ := leaveFrame_parts r.1 g
      exact ⟨ps', by rw [hleft, heq]⟩
    · exact ⟨ps, heq⟩
  dsimp only at hexec
  rw [heq] at hexec
  have hpart : SlotFrame s { s with parts := ps } g.e := .of_elems rfl rfl
  have hmod : SlotFrame { s with parts := ps } _ g.e := .modElem { s with parts := ps } g.e (k := fun x => { x with pend := Table.put x.pend g.slot (ordPend s g r.2) }) rfl
  refine ⟨_, hexec, (hpart.trans hmod).trans (endFiring_frame _ _ _ _ _ _ _), endFiring_flights_of_remote _ _ _ _ _ _ (by simp), ?_⟩
  rw [endFiring_elem, State.elem_modElem_same]
  refine ⟨takenFrom_eraseToks _ _, List.append_nil _, List.append_nil _, fun k => ?_⟩
  show Table.find? (Table.put _ _ _) k = _
  rw [Table.find?_put]
  simp only [eq_comm]
  rfl

end

end Sys2Proof.Machine
end

section
/-! O43, the rest: the release of COMB, LOOP, ITER's emission and ORD's arcs (R100, R128, R130, R132, R237). -/

namespace Sys2Proof.Machine

section
variable {s : State} {f : SlotFields}

theorem slotFrame_settleColour (s : State) (p c e : Nat) : SlotFrame s (s.settleColour p c) e :=
  .of_elems (congrArg State.elems (State.settleColours_frame s p [c] []) :) (congrArg State.slotRest (State.settleColours_frame s p [c] []) :)

/-- R89: a colour that is settled leaves elements and the network as they were. -/
theorem elem_settleColour (s : State) (p c d : Nat) : (s.settleColour p c).elem d = s.elem d :=
  (congrArg (State.elem · d) (State.settleColours_frame s p [c] []) :)

theorem sentAs_settleColour {u t : State} {e : Nat} (h : u.sentAs t e) (p c : Nat) : u.sentAs (t.settleColour p c) e := by
  obtain ⟨hflights, hnext, houtq, hscaleq⟩ := h
  have hframe := State.settleColours_frame t p [c] []
  refine ⟨(congrArg State.flights hframe :).trans hflights, (congrArg State.flightNext hframe :).trans hnext, ?_, ?_⟩
  · rw [elem_settleColour, houtq]
  · rw [elem_settleColour, hscaleq]

/-! ### COMB (R100, R130) -/

/-- R130: the entry of a COMB that has taken its count of tokens. -/
def fullComb (s : State) (f : SlotFields) : Option CombSt :=
  (s.elem s.focus.elem).combs.find? fun c => c.slot == s.focus.slot && c.tag == s.focus.tag && decide (f.ext.toNat ≤ c.taken)

/-- R130: the firing of a COMB's release: no operand stands at a position. -/
def combFiring (s : State) (f : SlotFields) (c : CombSt) : Firing := { e := s.focus.elem, slot := c.slot, op := 9, f := f, tag := c.tag, toks := [] }

/-- R100, R130: the token that a COMB releases. -/
def combToken (c : CombSt) (tag : Tag) : Token := if c.allEos then eosToken tag c.width else mkToken tag kData c.valid c.width c.payload

theorem exec_comb_none (h : fullComb s f = none) : exec (.comb f) s = .refused .notEnabled := by
  show execComb f s = _
  unfold execComb
  rw [fullComb] at h
  simp only [h]

theorem exec_comb_some {c : CombSt} (h : fullComb s f = some c) : exec (.comb f) s = match s.resultTag (combFiring s f c) c.width with
    | .error q => s.fault (combFiring s f c) q (State.tagPos (combFiring s f c))
    | .ok r => .next ((((r.1.modElem s.focus.elem fun x => { x with combs := x.combs.erase c }).endFiring (combFiring s f c) []
        [(f.dst0.toNat, combToken c r.2), (f.dst1.toNat, combToken c r.2)] 2 1 0)).settleColour (s.elemPart s.focus.elem) (tagColour c.tag)) := by
  show execComb f s = _
  unfold execComb
  rw [fullComb] at h
  simp only [h] <;> rfl

/-- R46: changing what sending does not read lets a state send alike. -/
theorem State.sendsAlike_modElem (s : State) (e : Nat) {k : ElemSt → ElemSt} (houtq : (k (s.elem e)).outq = (s.elem e).outq)
    (hscaleq : (k (s.elem e)).scaleq = (s.elem e).scaleq) (hactive : (k (s.elem e)).active = (s.elem e).active) : s.SendsAlike (s.modElem e k) e := by
  refine ⟨⟨rfl, rfl, ?_, ?_⟩, rfl, ?_⟩ <;> rw [State.elem_modElem_same]
  · exact houtq
  · exact hscaleq
  · exact congrArg _ hactive

theorem combToken_of_eos {c : CombSt} (tag : Tag) (h : c.allEos = true) : (combToken c tag).kind = 2 ∧ (combToken c tag).valid = 0 ∧ (combToken c tag).payload = 0 := by
  rw [combToken, if_pos h]
  refine ⟨rfl, rfl, ?_⟩
  show maskPayload c.width 0 0 = 0
  rw [maskPayload, Nat.zero_mod]
  rfl

theorem combToken_of_data {c : CombSt} (tag : Tag) (h : c.allEos = false) : (combToken c tag).kind = 0 ∧ (combToken c tag).valid = c.valid ∧
    (combToken c tag).payload = BitVec.ofNat 1024 (c.payload % 2 ^ (2 ^ c.width * c.valid)) := by
  rw [combToken, if_neg (by rw [h]; exact Bool.false_ne_true)]
  exact ⟨rfl, rfl, rfl⟩

theorem combToken_says (c : CombSt) (tag : Tag) : (combToken c tag).tag = tag ∧ (combToken c tag).width = c.width := by
  rw [combToken]
  split
  · exact ⟨rfl, rfl⟩
  · exact ⟨rfl, rfl⟩

/-- R100, R130: COMB releases its entry. -/
theorem comb_releases {c : CombSt} (h : fullComb s f = some c) {r : State × Tag} (hr : s.resultTag (combFiring s f c) c.width = .ok r) :
    ∃ t, exec (.comb f) s = .next t ∧ SlotFrame s t s.focus.elem ∧ (t.elem s.focus.elem).store = (s.elem s.focus.elem).store ∧
      (t.elem s.focus.elem).combs = (s.elem s.focus.elem).combs.erase c ∧
      (r.1.endFiring (combFiring s f c) [] [(f.dst0.toNat, combToken c r.2), (f.dst1.toNat, combToken c r.2)] 2 1 0).sentAs t s.focus.elem := by
  have hexec := exec_comb_some h
  rw [hr] at hexec
  obtain ⟨⟨ps, heq⟩, -⟩ := s.resultTag_parts hr
  obtain ⟨u, tag⟩ := r
  dsimp only at heq hexec ⊢
  subst heq
  have hpart : SlotFrame s { s with parts := ps } s.focus.elem := .of_elems rfl rfl
  have hmod : SlotFrame { s with parts := ps } _ s.focus.elem := .modElem { s with parts := ps } s.focus.elem (k := fun x => { x with combs := x.combs.erase c }) rfl
  have halike := State.sendsAlike_modElem { s with parts := ps } s.focus.elem (k := fun x => { x with combs := x.combs.erase c }) rfl rfl rfl
  have hend := endFiring_frame (State.modElem { s with parts := ps } s.focus.elem fun x => { x with combs := x.combs.erase c }) (combFiring s f c) []
    [(f.dst0.toNat, combToken c tag), (f.dst1.toNat, combToken c tag)] 2 1 0
  have helem := endFiring_elem (State.modElem { s with parts := ps } s.focus.elem fun x => { x with combs := x.combs.erase c }) (combFiring s f c) []
    [(f.dst0.toNat, combToken c tag), (f.dst1.toNat, combToken c tag)] 2 1 0
  have hfocus : (combFiring s f c).e = s.focus.elem := rfl
  rw [hfocus, State.elem_modElem_same] at helem
  refine ⟨_, hexec, ((hpart.trans hmod).trans hend).trans (slotFrame_settleColour _ _ _ _), ?_, ?_, ?_⟩
  · rw [elem_settleColour, helem]
    rfl
  · rw [elem_settleColour, helem]
    rfl
  · exact sentAs_settleColour (State.SendsAlike.endFiring (combFiring s f c) [] _ 2 1 0 halike []).sent _ _

/-! ### ITER's emission (R128) -/

/-- R128: an emission's step. -/
theorem exec_iterEmit_refused {it : IterSt} {op : Nat} {i : Instr} (hit : (s.elem s.focus.elem).iter = some it)
    (hslot : (s.elem s.focus.elem).active.slotAt it.slot = some (op, i, f)) (hdue : s.iterDue s.focus.elem = false) : exec .iterEmit s = .refused .notEnabled := by
  show execIterEmit s = _
  unfold execIterEmit
  simp only [hit, hslot, hdue, Bool.not_false, if_true]

/-- R91: the state of an emission that has sent a token: its field has issued. -/
def emitted (s : State) (f : SlotFields) (it : IterSt) : State :=
  let s1 := s.send s.focus.elem it.slot (iterNext f it).1 (iterNext f it).2 (s.cycle + 2)
  match s1.fieldAt s.focus.elem with
  | some k => s1.modField k fun y => { y with lastIssue := s.cycle }
  | none => s1

theorem exec_iterEmit_due {it : IterSt} {op : Nat} {i : Instr} (hit : (s.elem s.focus.elem).iter = some it)
    (hslot : (s.elem s.focus.elem).active.slotAt it.slot = some (op, i, f)) (hdue : s.iterDue s.focus.elem = true) : exec .iterEmit s =
    if it.k < it.n then .next ((emitted s f it).modElem s.focus.elem fun x => { x with iter := some { it with k := it.k + 1, at_ := s.cycle + 1 } })
    else .next (((emitted s f it).modElem s.focus.elem fun x => { x with iter := none, vcFree := s.cycle + 1 }).settleColour (s.elemPart s.focus.elem) (tagColour it.tag)) := by
  show execIterEmit s = _
  unfold execIterEmit
  simp only [hit, hslot, hdue, Bool.not_true, Bool.false_eq_true, if_false] <;> rfl

theorem emitted_fields (s : State) (f : SlotFields) (it : IterSt) : ∃ fs, emitted s f it =
    { s.send s.focus.elem it.slot (iterNext f it).1 (iterNext f it).2 (s.cycle + 2) with fields := fs } := by
  unfold emitted
  dsimp only
  split
  · exact ⟨_, rfl⟩
  · exact ⟨_, rfl⟩

/-- R128: an emission sends its next token; other elements and the rest are as before. -/
theorem emitted_says (s : State) (f : SlotFields) (it : IterSt) : SlotFrame s (emitted s f it) s.focus.elem ∧
    (s.send s.focus.elem it.slot (iterNext f it).1 (iterNext f it).2 (s.cycle + 2)).sentAs (emitted s f it) s.focus.elem ∧
    ((emitted s f it).elem s.focus.elem).vcFree = (s.elem s.focus.elem).vcFree := by
  obtain ⟨fs, heq⟩ := emitted_fields s f it
  have hsent := send_sent s s.focus.elem it.slot (iterNext f it).1 (iterNext f it).2 (s.cycle + 2)
  rw [heq]
  refine ⟨hsent.frame.trans (.of_elems rfl rfl), ⟨rfl, rfl, rfl, rfl⟩, ?_⟩
  exact (congrArg ElemSt.vcFree hsent.elem :)

theorem sentAs_modElem {u t : State} {e : Nat} {k : ElemSt → ElemSt} (h : u.sentAs t e) (houtq : (k (t.elem e)).outq = (t.elem e).outq)
    (hscaleq : (k (t.elem e)).scaleq = (t.elem e).scaleq) : u.sentAs (t.modElem e k) e := by
  obtain ⟨hflights, hnext, hout, hscale⟩ := h
  refine ⟨hflights, hnext, ?_, ?_⟩
  · rw [State.elem_modElem_same, houtq, hout]
  · rw [State.elem_modElem_same, hscaleq, hscale]

theorem maskPayload_zero (code valid : Nat) : maskPayload code valid 0 = 0 := by
  rw [maskPayload, Nat.zero_mod]
  rfl

theorem iterNext_code (f : SlotFields) (it : IterSt) : (iterNext f it).1 = if it.k < it.n then f.dst0.toNat else f.dst1.toNat := by
  rw [iterNext]
  split
  · rfl
  · rfl

theorem iterNext_token (f : SlotFields) (it : IterSt) : (iterNext f it).2 =
    if it.k < it.n then { it.token with tag := tagPush it.tag (it.k % 256) }
    else { tag := tagPush it.tag (it.n % 256), kind := 2, valid := 0, width := it.token.width, payload := 0 } := by
  rw [iterNext]
  split
  · rfl
  · show eosToken _ _ = _
    rw [eosToken, mkToken, maskPayload_zero]
    rfl

/-- R128: an emission that is due sends its next token; the last one frees the port. -/
theorem iterEmit_sends {it : IterSt} {op : Nat} {i : Instr} (hit : (s.elem s.focus.elem).iter = some it)
    (hslot : (s.elem s.focus.elem).active.slotAt it.slot = some (op, i, f)) (hdue : s.iterDue s.focus.elem = true) :
    ∃ t, exec .iterEmit s = .next t ∧ SlotFrame s t s.focus.elem ∧
      (s.send s.focus.elem it.slot (iterNext f it).1 (iterNext f it).2 (s.cycle + 2)).sentAs t s.focus.elem ∧
      (it.k < it.n → (t.elem s.focus.elem).iter = some { it with k := it.k + 1, at_ := s.cycle + 1 } ∧ (t.elem s.focus.elem).vcFree = (s.elem s.focus.elem).vcFree) ∧
      (it.n ≤ it.k → (t.elem s.focus.elem).iter = none ∧ (t.elem s.focus.elem).vcFree = s.cycle + 1) := by
  have hexec := exec_iterEmit_due hit hslot hdue
  obtain ⟨hframe, hsent, hport⟩ := emitted_says s f it
  by_cases hmore : it.k < it.n
  · rw [if_pos hmore] at hexec
    refine ⟨_, hexec, hframe.trans (.modElem _ _ rfl), sentAs_modElem hsent rfl rfl, fun _ => ?_, fun hdone => absurd hmore (by omega)⟩
    rw [State.elem_modElem_same]
    exact ⟨rfl, hport⟩
  · rw [if_neg hmore] at hexec
    refine ⟨_, hexec, (hframe.trans (.modElem _ _ rfl)).trans (slotFrame_settleColour _ _ _ _), sentAs_settleColour (sentAs_modElem hsent rfl rfl) _ _,
      fun h => absurd h hmore, fun _ => ?_⟩
    rw [elem_settleColour, State.elem_modElem_same]
    exact ⟨rfl, rfl⟩

/-! ### ORD's arcs (R237) -/

theorem exec_ordArcSend {p : PendSt} {op : Nat} {i : Instr} (hp : Table.find? (s.elem s.focus.elem).pend s.focus.slot = some p)
    (hslot : (s.elem s.focus.elem).active.slotAt s.focus.slot = some (op, i, f)) : exec .ordArcSend s =
    if !s.ordDue s.focus.elem s.focus.slot then .refused .notEnabled
    else .next (((((s.send s.focus.elem s.focus.slot f.dst0.toNat (mkToken p.tag kArc 0 p.width 0) (max p.at_ s.cycle)).send s.focus.elem s.focus.slot f.dst1.toNat
      (mkToken p.tag kArc 0 p.width 0) (max p.at_ s.cycle)).modElem s.focus.elem fun x => { x with pend := Table.erase x.pend s.focus.slot })).settleColour
        (s.elemPart s.focus.elem) (tagColour p.tag)) := by
  show execOrdArcSend s = _
  unfold execOrdArcSend
  simp only [hp, hslot] <;> rfl

theorem arcToken_eq (tag : Tag) (width : Nat) : mkToken tag kArc 0 width 0 = { tag := tag, kind := 5, valid := 0, width := width, payload := 0 } := by
  rw [mkToken, maskPayload_zero]
  rfl

/-- R237: an ORD that is due sends its arcs. -/
theorem ordArcSend_sends {p : PendSt} {op : Nat} {i : Instr} (hp : Table.find? (s.elem s.focus.elem).pend s.focus.slot = some p)
    (hslot : (s.elem s.focus.elem).active.slotAt s.focus.slot = some (op, i, f)) (hdue : s.ordDue s.focus.elem s.focus.slot = true) :
    ∃ t, exec .ordArcSend s = .next t ∧ SlotFrame s t s.focus.elem ∧
      (∀ j, Table.find? (t.elem s.focus.elem).pend j = if j = s.focus.slot then none else Table.find? (s.elem s.focus.elem).pend j) ∧
      ((s.send s.focus.elem s.focus.slot f.dst0.toNat (mkToken p.tag kArc 0 p.width 0) (max p.at_ s.cycle)).send s.focus.elem s.focus.slot f.dst1.toNat
        (mkToken p.tag kArc 0 p.width 0) (max p.at_ s.cycle)).sentAs t s.focus.elem := by
  have hexec := exec_ordArcSend hp hslot
  rw [hdue, Bool.not_true, if_neg Bool.false_ne_true] at hexec
  have hfirst := send_sent s s.focus.elem s.focus.slot f.dst0.toNat (mkToken p.tag kArc 0 p.width 0) (max p.at_ s.cycle)
  have hboth := hfirst.trans (send_sent _ s.focus.elem s.focus.slot f.dst1.toNat (mkToken p.tag kArc 0 p.width 0) (max p.at_ s.cycle))
  refine ⟨_, hexec, (hboth.frame.trans (.modElem _ _ rfl)).trans (slotFrame_settleColour _ _ _ _), fun j => ?_,
    sentAs_settleColour (sentAs_modElem ⟨rfl, rfl, rfl, rfl⟩ rfl rfl) _ _⟩
  rw [elem_settleColour, State.elem_modElem_same, hboth.elem]
  show Table.find? (Table.erase (s.elem s.focus.elem).pend s.focus.slot) j = _
  rw [Table.find?_erase]
  simp only [eq_comm]

end

end Sys2Proof.Machine
end

section
/-! O43: LOOP (R132): what it takes for a tag, and what an admission or a finish leaves of the run's entry. -/

namespace Sys2Proof.Machine

/-! ### What a LOOP takes -/

section
variable {x : ElemSt} {slot w pos : Nat} {tag : Tag}

theorem oldestAt_says {t : StoreTok} (h : oldestAt x slot pos (some tag) = some t) : t ∈ x.store ∧ t.token.tag = tag := by
  have hmatch := List.find?_some h
  simp only [Bool.and_eq_true, beq_iff_eq] at hmatch
  exact ⟨List.mem_of_find?_eq_some h, hmatch.2⟩

/-- R132: a token of the tag at A or B. -/
def AtLoop (x : ElemSt) (slot : Nat) (tag : Tag) (t : StoreTok) : Prop := oldestAt x slot 0 (some tag) = some t ∨ oldestAt x slot 1 (some tag) = some t

theorem AtLoop.says {t : StoreTok} (h : AtLoop x slot tag t) : t ∈ x.store ∧ t.token.tag = tag := by
  rcases h with h | h
  · exact oldestAt_says h
  · exact oldestAt_says h

theorem loopArc_iff : loopArc x slot tag = true ↔ ∃ t, AtLoop x slot tag t ∧ t.token.kind = 5 := by
  unfold loopArc AtLoop
  simp only [List.any_append, Bool.or_eq_true, List.any_eq_true, Option.mem_toList, beq_iff_eq]
  constructor
  · rintro (⟨t, ht, hkind⟩ | ⟨t, ht, hkind⟩)
    · exact ⟨t, .inl ht, hkind⟩
    · exact ⟨t, .inr ht, hkind⟩
  · rintro ⟨t, ht | ht, hkind⟩
    · exact .inl ⟨t, ht, hkind⟩
    · exact .inr ⟨t, ht, hkind⟩

/-- R123: an arc token at A or B is taken at once. -/
theorem loopTakes_arc (h : loopArc x slot tag = true) : ∃ t b, loopTakes x slot w tag = some (t, b) ∧ AtLoop x slot tag t ∧ t.token.kind = 5 := by
  obtain ⟨u, hu, hkind⟩ := loopArc_iff.mp h
  unfold loopTakes
  rw [if_pos h]
  unfold AtLoop at hu ⊢
  cases ha : oldestAt x slot 0 (some tag) with
  | none =>
    rw [ha] at hu
    obtain hb := hu.resolve_left nofun
    rw [hb]
    exact ⟨u, false, rfl, .inr rfl, hkind⟩
  | some a =>
    rw [ha] at hu
    cases hb : oldestAt x slot 1 (some tag) with
    | none =>
      rw [hb] at hu
      obtain rfl := Option.some.inj (hu.resolve_right nofun)
      exact ⟨a, true, rfl, .inl rfl, hkind⟩
    | some b =>
      rw [hb] at hu
      by_cases harc : a.token.kind = kArc
      · exact ⟨a, true, by simp only [if_pos harc], .inl rfl, harc⟩
      · refine ⟨b, false, by simp only [if_neg harc], .inr rfl, ?_⟩
        rcases hu with hu | hu
        · exact absurd (Option.some.inj hu ▸ hkind) harc
        · exact Option.some.inj hu ▸ hkind

/-- R132: at depth 0 the token at A is taken, or else the one at B. -/
theorem loopTakes_outermost (harc : ¬ loopArc x slot tag = true) (hdepth : tagDepth tag = 0) {t : StoreTok}
    (h : oldestAt x slot 0 (some tag) = some t ∨ (oldestAt x slot 0 (some tag) = none ∧ oldestAt x slot 1 (some tag) = some t)) :
    ∃ b, loopTakes x slot w tag = some (t, b) := by
  unfold loopTakes
  rw [if_neg harc, if_pos hdepth]
  rcases h with ha | ⟨ha, hb⟩
  · rw [ha]
    exact ⟨true, rfl⟩
  · rw [ha, hb]
    exact ⟨false, rfl⟩

/-- R132: the admission that a tag makes possible. -/
def Admits (x : ElemSt) (slot w : Nat) (tag : Tag) (l : LoopSt) (t : StoreTok) : Prop :=
  oldestAt x slot 0 (some tag) = some t ∧ tagIx tag = l.x ∧ (tagIx tag + 256 - l.i) % 256 < w

/-- R132: the finish that a tag makes possible. -/
def Finishes (x : ElemSt) (slot : Nat) (tag : Tag) (l : LoopSt) (t : StoreTok) : Prop := oldestAt x slot 1 (some tag) = some t ∧ tagIx tag = l.i

variable {l : LoopSt}

theorem loopAdmits_iff (hl : loopEntry x slot (tagOuter tag) = some l) (t : StoreTok) : loopAdmits x slot w tag = some t ↔ Admits x slot w tag l t := by
  unfold loopAdmits Admits
  rw [hl]
  cases oldestAt x slot 0 (some tag) with
  | none => simp
  | some u => simp only [Option.ite_none_right_eq_some, Option.some.injEq]; tauto

theorem loopFinishes_iff (hl : loopEntry x slot (tagOuter tag) = some l) (t : StoreTok) : loopFinishes x slot tag = some t ↔ Finishes x slot tag l t := by
  unfold loopFinishes Finishes
  rw [hl]
  cases oldestAt x slot 1 (some tag) with
  | none => simp
  | some u => simp only [Option.ite_none_right_eq_some, Option.some.injEq]; tauto

section
variable (harc : ¬ loopArc x slot tag = true) (hdepth : tagDepth tag ≠ 0)
include harc hdepth

theorem loopTakes_noEntry (hl : loopEntry x slot (tagOuter tag) = none) : loopTakes x slot w tag = none := by
  have hadmits : loopAdmits x slot w tag = none := by unfold loopAdmits; rw [hl]
  have hfinishes : loopFinishes x slot tag = none := by unfold loopFinishes; rw [hl]
  unfold loopTakes
  rw [if_neg harc, if_neg hdepth, hadmits, hfinishes]

variable (hl : loopEntry x slot (tagOuter tag) = some l)
include hl

theorem loopTakes_nothing (h : ∀ t, ¬ Admits x slot w tag l t ∧ ¬ Finishes x slot tag l t) : loopTakes x slot w tag = none := by
  have hadmits : loopAdmits x slot w tag = none := Option.eq_none_iff_forall_ne_some.mpr fun t ht => (h t).1 ((loopAdmits_iff hl t).mp ht)
  have hfinishes : loopFinishes x slot tag = none := Option.eq_none_iff_forall_ne_some.mpr fun t ht => (h t).2 ((loopFinishes_iff hl t).mp ht)
  unfold loopTakes
  rw [if_neg harc, if_neg hdepth, hadmits, hfinishes]

/-- R132: an admission is taken that came no later than any finish. -/
theorem loopTakes_admission {t : StoreTok} (ht : Admits x slot w tag l t) (hfirst : ∀ u, Finishes x slot tag l u → t.stamp ≤ u.stamp) :
    loopTakes x slot w tag = some (t, true) := by
  unfold loopTakes
  rw [if_neg harc, if_neg hdepth, (loopAdmits_iff hl t).mpr ht]
  cases hu : loopFinishes x slot tag with
  | none => rfl
  | some u => simp only [if_neg (Nat.not_lt.mpr (hfirst u ((loopFinishes_iff hl u).mp hu)))]

/-- R132: a finish is taken that came before any admission. -/
theorem loopTakes_finish {t : StoreTok} (ht : Finishes x slot tag l t) (hfirst : ∀ u, Admits x slot w tag l u → t.stamp < u.stamp) :
    loopTakes x slot w tag = some (t, false) := by
  unfold loopTakes
  rw [if_neg harc, if_neg hdepth, (loopFinishes_iff hl t).mpr ht]
  cases hu : loopAdmits x slot w tag with
  | none => rfl
  | some u => simp only [if_pos (hfirst u ((loopAdmits_iff hl u).mp hu))]

end

end

/-! ### The entry of a run -/

/-- R132: an entry of a run, changed. -/
def loopSet (loops : List LoopSt) (slot : Nat) (key : Tag) (k : LoopSt → LoopSt) : List LoopSt :=
  loops.map fun m => if m.slot == slot && m.key == key then k m else m

section
variable {loops : List LoopSt} {slot : Nat} {key : Tag} {l : LoopSt} {k : LoopSt → LoopSt}

theorem isEntry_iff (m : LoopSt) : (m.slot == slot && m.key == key) = true ↔ m.slot = slot ∧ m.key = key := by
  rw [Bool.and_eq_true, beq_iff_eq, beq_iff_eq]

variable (hl : loops.find? (fun m => m.slot == slot && m.key == key) = some l) (honly : ∀ m ∈ loops, m.slot = slot → m.key = key → m = l)
include hl

theorem entry_says : l.slot = slot ∧ l.key = key := by
  have hentry := List.find?_some hl
  exact (isEntry_iff l).mp hentry

section
include honly

/-- R132: where one entry is the run's, it alone changes. -/
theorem loopSet_eq : loopSet loops slot key k = loops.map fun m => if m = l then k l else m := by
  refine List.map_congr_left fun m hm => ?_
  by_cases h : m = l
  · rw [if_pos h, h, if_pos ((isEntry_iff l).mpr (entry_says hl))]
  · rw [if_neg h, if_neg fun hentry => h (honly m hm ((isEntry_iff m).mp hentry).1 ((isEntry_iff m).mp hentry).2)]

end

variable (hk : ∀ m, (k m).slot = m.slot ∧ (k m).key = m.key)
include hk

theorem find?_loopSet : (loopSet loops slot key k).find? (fun m => m.slot == slot && m.key == key) = some (k l) := by
  have hkeeps : ∀ m : LoopSt, ((if m.slot == slot && m.key == key then k m else m).slot == slot &&
      (if m.slot == slot && m.key == key then k m else m).key == key) = (m.slot == slot && m.key == key) := fun m => by
    split
    · rw [(hk m).1, (hk m).2]
    · rfl
  rw [loopSet, List.find?_map, Function.comp_def]
  simp only [hkeeps, hl, Option.map_some]
  rw [if_pos ((isEntry_iff l).mpr (entry_says hl))]

include honly in
/-- R132: closing the changed entry leaves the others. -/
theorem filter_loopSet : (loopSet loops slot key k).filter (fun m => m != k l) = loops.filter fun m => m != l := by
  rw [loopSet_eq hl honly, List.filter_map]
  have hne : ∀ m ∈ loops, ((fun y => y != k l) ∘ fun m => if m = l then k l else m) m = (m != l) := fun m hm => by
    rw [Function.comp_apply]
    split
    · next h => rw [h, bne_self_eq_false, bne_self_eq_false]
    · next h =>
      rw [bne_iff_ne.mpr h, bne_iff_ne]
      rintro rfl
      obtain ⟨hslot, hkey⟩ := entry_says hl
      exact h (honly _ hm ((hk l).1.trans hslot) ((hk l).2.trans hkey))
  rw [List.filter_congr hne]
  refine (List.map_congr_left fun m hm => ?_).trans (List.map_id' _)
  rw [if_neg (bne_iff_ne.mp (List.mem_filter.mp hm).2)]

end

/-! ### Where spilled tokens stand -/

section
variable {s t : State} {e : Nat}

/-- R350: what the place of spill records depends on. -/
theorem spillAddr_congr (hrest : t.slotRest = s.slotRest) (hcores : t.ownCores = s.ownCores) (howner : (t.elem e).owner = (s.elem e).owner) (r : Nat) :
    t.spillAddr e r = s.spillAddr e r := by
  have hpart : t.elemPart e = s.elemPart e :=
    congrArg (fun own : Nat → Nat → Bool => ((List.range numParts).find? fun p => own p (coreOfElem e)).getD numParts) hcores
  have hplaces : t.places = s.places := (congrArg State.places hrest :)
  have hplace : t.elemPlace e = s.elemPlace e := by
    rw [State.elemPlace, State.elemPlace, hpart, howner]
    simp only [State.placeOf, State.place, hplaces]
  have hwindows : t.windows = s.windows := (congrArg State.windows hrest :)
  rw [State.spillAddr, State.spillAddr, hplace, hwindows]

theorem loopSpilled_congr (hrest : t.slotRest = s.slotRest) (hcores : t.ownCores = s.ownCores) (howner : (t.elem e).owner = (s.elem e).owner)
    (hspills : (t.elem e).spills = (s.elem e).spills) (slot : Nat) (key : Tag) : loopSpilled t e slot key = loopSpilled s e slot key := by
  have hmem : t.mem = s.mem := (congrArg State.mem hrest :)
  simp only [loopSpilled, spillAddr_congr hrest hcores howner, hmem, hspills]

end

/-! ### The step -/

section
variable {s : State} {f : SlotFields}

/-- R132: the firing of a LOOP on one token. -/
def loopFiring (s : State) (f : SlotFields) (t : StoreTok) : Firing :=
  { e := s.focus.elem, slot := s.focus.slot, op := 0x0C, f := f, tag := t.token.tag, toks := [t] }

theorem exec_loop_none (h : loopTakes (s.elem s.focus.elem) s.focus.slot (f.extra.toNat + 1) s.focus.tag = none) : exec (.loop f) s = .refused .notEnabled := by
  show execLoop f s = _
  unfold execLoop
  simp only [h]

/-- R132: the entry of the run of a LOOP's token changes, and closes when its iterations are done. -/
def loopAdvanced (u : State) (e slot : Nat) (key : Tag) (k : LoopSt → LoopSt) : State := loopClose (loopMod u e slot key k) e slot key

theorem exec_loop_some {t : StoreTok} {b : Bool} (h : loopTakes (s.elem s.focus.elem) s.focus.slot (f.extra.toNat + 1) s.focus.tag = some (t, b)) :
    exec (.loop f) s =
      if t.token.kind = kArc ∨ tagDepth t.token.tag = 0 then s.fault (loopFiring s f t) 0x08 t.pos
      else if b then match s.resultTag (loopFiring s f t) t.token.width with
        | .error code => s.fault (loopFiring s f t) code (State.tagPos (loopFiring s f t))
        | .ok r => .next (loopAdvanced (r.1.endFiring (loopFiring s f t) [t]
            [(f.dst0.toNat, { t.token with tag := r.2 }), (f.dst1.toNat, { t.token with tag := r.2 })] 2 1 0) s.focus.elem s.focus.slot (tagOuter t.token.tag)
            fun l => { l with x := (l.x + 1) % 256 })
      else .next (loopAdvanced (s.endFiring (loopFiring s f t) [t] [] 2 1 0) s.focus.elem s.focus.slot (tagOuter t.token.tag) fun l => { l with i := (l.i + 1) % 256 }) := by
  show execLoop f s = _
  unfold execLoop
  simp only [h] <;> rfl

/-- R132: what a LOOP's step has left of the entry of its run. -/
theorem loopAdvanced_says {u : State} {e slot : Nat} {key : Tag} {l : LoopSt} {k : LoopSt → LoopSt} (hl : loopEntry (u.elem e) slot key = some l)
    (honly : ∀ m ∈ (u.elem e).loops, m.slot = slot → m.key = key → m = l) (hk : ∀ m, (k m).slot = m.slot ∧ (k m).key = m.key) :
    ∃ t, loopAdvanced u e slot key k = t ∧ SlotFrame u t e ∧ u.sentAs t e ∧ (t.elem e).store = (u.elem e).store ∧
      (t.elem e).loops = (if (k l).i = (k l).x ∧ (∀ y ∈ (u.elem e).store, y.slot = slot → tagOuter y.token.tag ≠ key) ∧ loopSpilled u e slot key = false
        then (u.elem e).loops.filter (fun y => y != l) else (u.elem e).loops.map fun y => if y = l then k l else y) := by
  have hmod : loopMod u e slot key k = u.modElem e fun x => { x with loops := loopSet x.loops slot key k } := rfl
  have hframe : SlotFrame u (u.modElem e fun x => { x with loops := loopSet x.loops slot key k }) e := .modElem u e rfl
  have helem := u.elem_modElem_same e fun x => { x with loops := loopSet x.loops slot key k }
  have hsent : u.sentAs (u.modElem e fun x => { x with loops := loopSet x.loops slot key k }) e := sentAs_modElem ⟨rfl, rfl, rfl, rfl⟩ rfl rfl
  have hspilled := loopSpilled_congr hframe.rest (t := u.modElem e fun x => { x with loops := loopSet x.loops slot key k }) rfl (by rw [helem]) (by rw [helem]) slot key
  rw [loopAdvanced, hmod]
  generalize (u.modElem e fun x => { x with loops := loopSet x.loops slot key k }) = v at hframe helem hsent hspilled ⊢
  have hentry : loopEntry (v.elem e) slot key = some (k l) := by
    rw [helem]
    exact find?_loopSet hl hk
  have hstore : ((v.elem e).store.all fun y => y.slot != slot || tagOuter y.token.tag != key) = true ↔
      ∀ y ∈ (u.elem e).store, y.slot = slot → tagOuter y.token.tag ≠ key := by
    rw [helem, List.all_eq_true]
    refine forall₂_congr fun y hy => ?_
    rw [Bool.or_eq_true, bne_iff_ne, bne_iff_ne]
    exact imp_iff_not_or.symm
  unfold loopClose
  simp only [hentry, hstore, hspilled, Bool.not_eq_true']
  split
  · refine ⟨_, rfl, hframe.trans (.modElem v e rfl), sentAs_modElem hsent rfl rfl, ?_, ?_⟩
    · rw [State.elem_modElem_same, helem]
    · rw [State.elem_modElem_same, helem]
      exact filter_loopSet hl honly hk
  · refine ⟨_, rfl, hframe, hsent, ?_, ?_⟩
    · rw [helem]
    · rw [helem]
      exact loopSet_eq hl honly

/-- R132: what a LOOP's step leaves of its element: the token it took is gone, and its run's entry is changed or closed. -/
def LoopLeaves (s t : State) (l m : LoopSt) (took : StoreTok) : Prop :=
  SlotFrame s t s.focus.elem ∧ TakenFrom (s.elem s.focus.elem).store [took] (t.elem s.focus.elem).store ∧
  (t.elem s.focus.elem).loops = (if m.i = m.x ∧ (∀ y ∈ (t.elem s.focus.elem).store, y.slot = s.focus.slot → tagOuter y.token.tag ≠ tagOuter s.focus.tag) ∧
      loopSpilled s s.focus.elem s.focus.slot (tagOuter s.focus.tag) = false
    then (s.elem s.focus.elem).loops.filter (fun y => y != l) else (s.elem s.focus.elem).loops.map fun y => if y = l then m else y)

/-- R132: a LOOP's firing ends, and its run's entry advances. -/
theorem loopAdvanced_endFiring {ps : Table PartSt} {l : LoopSt} {k : LoopSt → LoopSt} {took : StoreTok} (sends : List (Nat × Token))
    (htag : took.token.tag = s.focus.tag) (hcores : State.ownCores { s with parts := ps } = s.ownCores)
    (hl : loopEntry (s.elem s.focus.elem) s.focus.slot (tagOuter s.focus.tag) = some l)
    (honly : ∀ m ∈ (s.elem s.focus.elem).loops, m.slot = s.focus.slot → m.key = tagOuter s.focus.tag → m = l)
    (hk : ∀ m, (k m).slot = m.slot ∧ (k m).key = m.key) :
    ∃ t, loopAdvanced (State.endFiring { s with parts := ps } (loopFiring s f took) [took] sends 2 1 0) s.focus.elem s.focus.slot (tagOuter took.token.tag) k = t ∧
      LoopLeaves s t l (k l) took ∧ (State.endFiring { s with parts := ps } (loopFiring s f took) [took] sends 2 1 0).sentAs t s.focus.elem := by
  have hpart : SlotFrame s { s with parts := ps } s.focus.elem := .of_elems rfl rfl
  have hframe := hpart.trans (endFiring_frame { s with parts := ps } (loopFiring s f took) [took] sends 2 1 0)
  have helem := endFiring_elem { s with parts := ps } (loopFiring s f took) [took] sends 2 1 0
  have hown := (State.ownCores_endFiring { s with parts := ps } (loopFiring s f took) [took] sends 2 1 0).trans hcores
  have hfocus : (loopFiring s f took).e = s.focus.elem := rfl
  rw [hfocus] at helem
  generalize State.endFiring { s with parts := ps } (loopFiring s f took) [took] sends 2 1 0 = u at hframe helem hown ⊢
  have hloops : (u.elem s.focus.elem).loops = (s.elem s.focus.elem).loops := by rw [helem]; rfl
  have hstore : (u.elem s.focus.elem).store = State.eraseToks (s.elem s.focus.elem).store [took] := by rw [helem]; rfl
  have hspilled := loopSpilled_congr hframe.rest hown (by rw [helem]; rfl) (by rw [helem]; rfl) s.focus.slot (tagOuter s.focus.tag)
  rw [htag]
  obtain ⟨t, ht, hafter, hsent, hkept, hentries⟩ := loopAdvanced_says (u := u) (e := s.focus.elem) (slot := s.focus.slot) (key := tagOuter s.focus.tag) (l := l) (k := k)
    (by rw [loopEntry, hloops]; exact hl) (by rw [hloops]; exact honly) hk
  refine ⟨t, ht, ⟨hframe.trans hafter, ?_, ?_⟩, hsent⟩
  · rw [hkept, hstore]
    exact takenFrom_eraseToks _ _
  · rw [hentries, hloops, hspilled, hkept]

end

end Sys2Proof.Machine
end

section
/-! O43: the statement, from what each slot does. -/

namespace Sys2Proof.Machine

section
variable {s : State} {f : SlotFields} {g : Firing}

/-- R131: REAP sends A on, and its reap tokens. -/
theorem reap_sends (hw : g.width ≤ 5) (h : Ready s 0x0A f g) (hdepth : (g.tag.extractLsb' 48 4).toNat ≠ 0) : ∃ y, (s.srcA g).stands g.tag g.width y ∧
    (∀ c, s.resultTag g y.width = .error c → exec (.reap f) s = s.fault g c (State.tagPos g)) ∧
    ∀ r, s.resultTag g y.width = .ok r → ∃ u, exec (.reap f) s = .next (u.endFiring g g.toks [(f.dst0.toNat, { y with tag := r.2 })] 2 1 0) ∧
      (f.extra = 0 → u = r.1) ∧ (f.extra ≠ 0 → u = reapAll r.1 g.e (tagOuter g.tag) (tagIx g.tag) f.extra.toNat) := by
  have hexec := reap_of_ready h
  rw [if_neg (by rwa [tagDepth_eq])] at hexec
  have hzero : f.extra.toNat = 0 ↔ f.extra = 0 := BitVec.toNat_inj (y := 0)
  refine ⟨_, (s.srcA g).stands_asToken g.tag hw, fun c hc => ?_, fun r hr =>
    ⟨if f.extra.toNat = 0 then r.1 else reapAll r.1 g.e (tagOuter g.tag) (tagIx g.tag) f.extra.toNat, ?_, fun h0 => ?_, fun hne => ?_⟩⟩
  · rw [hexec, hc]
  · rw [hexec, hr]
  · exact if_pos (hzero.mpr h0)
  · exact if_neg (mt hzero.mp hne)

theorem ord_of_free (h : Ready s 0x0F f g) (hfree : Table.find? (s.elem g.e).pend g.slot = none) {c : Nat} (hc : s.resultTag g g.width = .error c) :
    exec (.ord f) s = s.fault g c (State.tagPos g) := by
  rw [ord_of_ready h, hfree, hc]
  rfl

theorem ord_of_pending (h : Ready s 0x0F f g) {q : PendSt} (hq : Table.find? (s.elem g.e).pend g.slot = some q) : exec (.ord f) s = .refused .notEnabled := by
  rw [ord_of_ready h, hq]
  rfl

/-! ### LOOP (R132) -/

theorem loop_faults {t : StoreTok} {b : Bool} (h : loopTakes (s.elem s.focus.elem) s.focus.slot (f.extra.toNat + 1) s.focus.tag = some (t, b))
    (hfault : t.token.kind = kArc ∨ tagDepth t.token.tag = 0) : exec (.loop f) s = s.fault (loopFiring s f t) 0x08 t.pos := by
  rw [exec_loop_some h, if_pos hfault]

theorem loop_arc (h : ∃ t, AtLoop (s.elem s.focus.elem) s.focus.slot s.focus.tag t ∧ t.token.kind = 5) :
    ∃ t, AtLoop (s.elem s.focus.elem) s.focus.slot s.focus.tag t ∧ t.token.kind = 5 ∧ exec (.loop f) s = s.fault (loopFiring s f t) 0x08 t.pos := by
  obtain ⟨t, b, htakes, hat, hkind⟩ := loopTakes_arc (w := f.extra.toNat + 1) (loopArc_iff.mpr h)
  exact ⟨t, hat, hkind, loop_faults htakes (.inl hkind)⟩

section
variable (harc : ¬ ∃ t, AtLoop (s.elem s.focus.elem) s.focus.slot s.focus.tag t ∧ t.token.kind = 5)
include harc

theorem loop_outermost (hdepth : (s.focus.tag.extractLsb' 48 4).toNat = 0) {t : StoreTok}
    (h : oldestAt (s.elem s.focus.elem) s.focus.slot 0 (some s.focus.tag) = some t ∨
      (oldestAt (s.elem s.focus.elem) s.focus.slot 0 (some s.focus.tag) = none ∧ oldestAt (s.elem s.focus.elem) s.focus.slot 1 (some s.focus.tag) = some t)) :
    exec (.loop f) s = s.fault (loopFiring s f t) 0x08 t.pos := by
  rw [← tagDepth_eq] at hdepth
  obtain ⟨b, htakes⟩ := loopTakes_outermost (w := f.extra.toNat + 1) (mt loopArc_iff.mp harc) hdepth h
  have htag : t.token.tag = s.focus.tag := (AtLoop.says (h.imp id And.right)).2
  exact loop_faults htakes (.inr (by rw [htag, hdepth]))

variable (hdepth : (s.focus.tag.extractLsb' 48 4).toNat ≠ 0)
include hdepth

theorem loop_noEntry (hl : loopEntry (s.elem s.focus.elem) s.focus.slot (tagOuter s.focus.tag) = none) : exec (.loop f) s = .refused .notEnabled :=
  exec_loop_none (loopTakes_noEntry (mt loopArc_iff.mp harc) (by rwa [tagDepth_eq]) hl)

/-- R132: a token that LOOP takes below the outermost level does not fault. -/
theorem not_faults {t : StoreTok} (ht : AtLoop (s.elem s.focus.elem) s.focus.slot s.focus.tag t) : ¬ (t.token.kind = kArc ∨ tagDepth t.token.tag = 0) := by
  rintro (hkind | hzero)
  · exact harc ⟨t, ht, hkind⟩
  · rw [ht.says.2, tagDepth_eq] at hzero
    exact hdepth hzero

variable {l : LoopSt} (hl : loopEntry (s.elem s.focus.elem) s.focus.slot (tagOuter s.focus.tag) = some l)
include hl

theorem loop_waits (h : ∀ t, ¬ Admits (s.elem s.focus.elem) s.focus.slot (f.extra.toNat + 1) s.focus.tag l t ∧ ¬ Finishes (s.elem s.focus.elem) s.focus.slot s.focus.tag l t) :
    exec (.loop f) s = .refused .notEnabled :=
  exec_loop_none (loopTakes_nothing (mt loopArc_iff.mp harc) (by rwa [tagDepth_eq]) hl h)

variable (honly : ∀ m ∈ (s.elem s.focus.elem).loops, m.slot = s.focus.slot → m.key = tagOuter s.focus.tag → m = l) {t : StoreTok}
include honly

/-- R132: LOOP admits an iteration. -/
theorem loop_admits (ht : Admits (s.elem s.focus.elem) s.focus.slot (f.extra.toNat + 1) s.focus.tag l t)
    (hfirst : ∀ u, Finishes (s.elem s.focus.elem) s.focus.slot s.focus.tag l u → t.stamp ≤ u.stamp) :
    (∀ c, s.resultTag (loopFiring s f t) t.token.width = .error c → exec (.loop f) s = s.fault (loopFiring s f t) c (State.tagPos (loopFiring s f t))) ∧
    ∀ r, s.resultTag (loopFiring s f t) t.token.width = .ok r → ∃ u, exec (.loop f) s = .next u ∧ LoopLeaves s u l { l with x := (l.x + 1) % 256 } t ∧
      (r.1.endFiring (loopFiring s f t) [t] [(f.dst0.toNat, { t.token with tag := r.2 }), (f.dst1.toNat, { t.token with tag := r.2 })] 2 1 0).sentAs u s.focus.elem := by
  have hat : AtLoop (s.elem s.focus.elem) s.focus.slot s.focus.tag t := .inl ht.1
  have hexec := exec_loop_some (loopTakes_admission (mt loopArc_iff.mp harc) (by rwa [tagDepth_eq]) hl ht hfirst)
  rw [if_neg (not_faults harc hdepth hat), if_pos rfl] at hexec
  refine ⟨fun c hc => ?_, fun r hr => ?_⟩
  · rw [hexec, hc]
  · rw [hr] at hexec
    obtain ⟨⟨ps, heq⟩, hcores⟩ := s.resultTag_parts hr
    obtain ⟨v, tag⟩ := r
    dsimp only at heq hcores hexec ⊢
    subst heq
    obtain ⟨u, hu, hleaves, hsent⟩ := loopAdvanced_endFiring (f := f) (k := fun m => { m with x := (m.x + 1) % 256 })
      [(f.dst0.toNat, { t.token with tag := tag }), (f.dst1.toNat, { t.token with tag := tag })] hat.says.2 hcores hl honly fun _ => ⟨rfl, rfl⟩
    exact ⟨u, hu ▸ hexec, hleaves, hsent⟩

/-- R132: LOOP finishes an iteration: it sends nothing. -/
theorem loop_finishes (ht : Finishes (s.elem s.focus.elem) s.focus.slot s.focus.tag l t)
    (hfirst : ∀ u, Admits (s.elem s.focus.elem) s.focus.slot (f.extra.toNat + 1) s.focus.tag l u → t.stamp < u.stamp) :
    ∃ u, exec (.loop f) s = .next u ∧ LoopLeaves s u l { l with i := (l.i + 1) % 256 } t ∧ s.sentAs u s.focus.elem := by
  have hat : AtLoop (s.elem s.focus.elem) s.focus.slot s.focus.tag t := .inr ht.1
  have hexec := exec_loop_some (loopTakes_finish (mt loopArc_iff.mp harc) (by rwa [tagDepth_eq]) hl ht hfirst)
  rw [if_neg (not_faults harc hdepth hat), if_neg Bool.false_ne_true] at hexec
  obtain ⟨u, hu, hleaves, hsent⟩ := loopAdvanced_endFiring (f := f) (ps := s.parts) (k := fun m => { m with i := (m.i + 1) % 256 }) [] hat.says.2 rfl hl honly fun _ => ⟨rfl, rfl⟩
  refine ⟨u, hu ▸ hexec, hleaves, ?_⟩
  obtain ⟨hflights, hnext, houtq, hscaleq⟩ := hsent
  obtain ⟨hsame, -, -⟩ := endFiring_flights { s with parts := s.parts } (loopFiring s f t) [t] [] 2 1 0
  have helem := endFiring_elem { s with parts := s.parts } (loopFiring s f t) [t] [] 2 1 0
  have hfocus : (loopFiring s f t).e = s.focus.elem := rfl
  rw [hfocus] at helem
  refine ⟨hflights.trans (endFiring_flights_of_remote _ _ _ _ _ _ (by simp)), hnext.trans hsame, houtq.trans ?_, hscaleq.trans ?_⟩
  · rw [helem]
    exact List.append_nil _
  · rw [helem]
    exact List.append_nil _

end

end

/-- Settles O43: each clause by the lemma of its slot. -/
theorem statefulSlotsCompute : Obligations.StatefulSlotsCompute := by
  unfold Obligations.StatefulSlotsCompute
  refine ⟨fun t v hdepth => ⟨depth_tagPush v hdepth, colour_tagPush v hdepth, fun k hk => field_tagPush v hdepth hk⟩, ?_, ?_⟩
  · intro s f g d0 d1 e x a b eos hw
    refine ⟨fun h => ⟨fun hdepth => ?_, fun hdepth n heos hdata => ?_⟩, fun h hfmt _ hwidths => count_sends h hfmt hwidths,
      fun h => ⟨fun hdepth => ?_, fun hdepth => ?_⟩, fun h => ?_, fun h => ⟨fun q hq => ord_of_pending h hq, fun hfree => ⟨fun c hc => ord_of_free h hfree hc, fun r hr => ord_pends h hfree hr⟩⟩⟩
    · rw [iter_of_ready h, if_pos (by rw [tagDepth_eq]; exact hdepth)]
    · obtain rfl := iterCount_eq heos hdata
      obtain ⟨hmany, hfew⟩ := iter_starts hw h hdepth
      exact ⟨hmany, hfew⟩
    · rw [reap_of_ready h, if_pos (by rw [tagDepth_eq]; exact hdepth)]
    · obtain ⟨y, hy, herr, hok⟩ := reap_sends hw h hdepth
      refine ⟨y, hy, herr, fun r hr => ?_⟩
      obtain ⟨u, hexec, hzero, hreaps⟩ := hok r hr
      refine ⟨u, hexec, hzero, fun hne => ?_⟩
      rw [hreaps hne]
      exact reap_reaps hr _ _ _
    · refine ⟨_, (s.srcA g).stands_asToken g.tag hw, fun c hc => ?_, fun r hr => mail_sends h rfl hr⟩
      rw [mail_of_ready h, hc]
  · intro s f e k x tag d0 d1
    refine ⟨⟨exec_comb_none, fun c hc => ⟨fun q hq => ?_, fun r hr => ?_⟩⟩, ⟨fun harc => loop_arc harc, fun harc => ⟨fun hdepth t ht => loop_outermost harc hdepth ht,
      loop_noEntry harc, fun l hl hdepth honly => ⟨fun hwaits => loop_waits harc hdepth hl hwaits, fun t ht hfirst => ?_, fun t ht hfirst => ?_⟩⟩⟩, ?_⟩
    · have hexec := exec_comb_some hc
      rw [combFiring, hq] at hexec
      exact hexec
    · obtain ⟨t, hexec, hframe, hstore, hcombs, hsent⟩ := comb_releases hc hr
      obtain ⟨htag, hwidth⟩ := combToken_says c r.2
      exact ⟨t, combToken c r.2, hexec, hframe, hstore, hcombs, hsent, htag, hwidth, combToken_of_eos r.2, combToken_of_data r.2⟩
    · obtain ⟨herr, hok⟩ := loop_admits harc hdepth hl honly ht hfirst
      refine ⟨herr, fun r hr => ?_⟩
      obtain ⟨u, hexec, hleaves, hsent⟩ := hok r hr
      exact ⟨u, hexec, hleaves, hsent⟩
    · obtain ⟨u, hexec, hleaves, hsent⟩ := loop_finishes harc hdepth hl honly ht hfirst
      exact ⟨u, hexec, hleaves, hsent⟩
    intro s op i f e x
    refine ⟨fun it hit hslot => ⟨exec_iterEmit_refused hit hslot, fun hdue => ?_⟩, fun p hp hslot => ⟨fun hdue => ?_, fun hdue => ?_⟩⟩
    · obtain ⟨t, hexec, hframe, hsent, hmore, hdone⟩ := iterEmit_sends hit hslot hdue
      rw [iterNext_code, iterNext_token] at hsent
      exact ⟨t, hexec, hframe, hsent, hmore, hdone⟩
    · rw [exec_ordArcSend hp hslot, hdue]
      rfl
    · obtain ⟨t, hexec, hframe, hpend, hsent⟩ := ordArcSend_sends hp hslot hdue
      rw [arcToken_eq] at hsent
      exact ⟨t, hexec, hframe, hpend, hsent⟩

end Sys2Proof.Machine
end

section
/-! Store pressure (R96, R97): the gate of a matching store, what it evicts, and the records of its spill area. -/

namespace Sys2Proof.Machine

/-! ### The best of a list -/

section
variable {α : Type} {step : Option α → α → Option α} {le : α → α → Prop}

/-- A list folded by keeping the better of two. -/
theorem foldl_best_some (hle : ∀ x, le x x) (htrans : ∀ x y z, le x y → le y z → le x z)
    (hstep : ∀ b y, (step (some b) y = some y ∧ le y b) ∨ (step (some b) y = some b ∧ le b y)) (l : List α) (b : α) :
    ∃ r, l.foldl step (some b) = some r ∧ r ∈ b :: l ∧ ∀ z ∈ b :: l, le r z := by
  induction l generalizing b with
  | nil => exact ⟨b, rfl, List.mem_singleton_self b, fun z hz => List.mem_singleton.mp hz ▸ hle b⟩
  | cons y l ih =>
    rw [List.foldl_cons]
    obtain ⟨heq, hbest⟩ | ⟨heq, hbest⟩ := hstep b y
    · rw [heq]
      obtain ⟨r, hr, hmem, hall⟩ := ih y
      refine ⟨r, hr, List.mem_cons_of_mem b hmem, fun z hz => ?_⟩
      obtain rfl | hz := List.mem_cons.mp hz
      · exact htrans _ _ _ (hall y List.mem_cons_self) hbest
      · exact hall z hz
    · rw [heq]
      obtain ⟨r, hr, hmem, hall⟩ := ih b
      obtain ⟨hb, hl⟩ := List.forall_mem_cons.mp hall
      refine ⟨r, hr, ?_, List.forall_mem_cons.mpr ⟨hb, List.forall_mem_cons.mpr ⟨htrans _ _ _ hb hbest, hl⟩⟩⟩
      obtain rfl | hmem := List.mem_cons.mp hmem
      · exact List.mem_cons_self
      · exact List.mem_cons_of_mem _ (List.mem_cons_of_mem _ hmem)

variable (hnone : ∀ y, step none y = some y) (hle : ∀ x, le x x) (htrans : ∀ x y z, le x y → le y z → le x z)
  (hstep : ∀ b y, (step (some b) y = some y ∧ le y b) ∨ (step (some b) y = some b ∧ le b y))
include hnone hle htrans hstep

theorem foldl_best {l : List α} {r : α} (h : l.foldl step none = some r) : r ∈ l ∧ ∀ z ∈ l, le r z := by
  cases l with
  | nil => exact nomatch h
  | cons y l =>
    rw [List.foldl_cons, hnone] at h
    obtain ⟨r', hr', hmem, hall⟩ := foldl_best_some hle htrans hstep l y
    obtain rfl := Option.some.inj (h.symm.trans hr')
    exact ⟨hmem, hall⟩

theorem foldl_best_ne_none {l : List α} (h : l ≠ []) : ∃ r, l.foldl step none = some r := by
  cases l with
  | nil => exact absurd rfl h
  | cons y l =>
    rw [List.foldl_cons, hnone]
    obtain ⟨r, hr, -⟩ := foldl_best_some hle htrans hstep l y
    exact ⟨r, hr⟩

end

namespace State

/-! ### What a store evicts (R97) -/

/-- The step that keeps the greater of two, the later of equals. -/
def maxStep (key : Spillable → Nat) (best : Option Spillable) (y : Spillable) : Option Spillable :=
  match best with
  | none => some y
  | some b => if key b ≤ key y then some y else some b

theorem lastMax_eq (key : Spillable → Nat) (l : List Spillable) : lastMax key l = l.foldl (maxStep key) none := rfl

theorem lastMax_says {key : Spillable → Nat} {l : List Spillable} {v : Spillable} (h : lastMax key l = some v) : v ∈ l ∧ ∀ u ∈ l, key u ≤ key v := by
  refine foldl_best (step := maxStep key) (le := fun v u => key u ≤ key v) (fun _ => rfl) (fun _ => Nat.le_refl _) (fun _ _ _ hxy hyz => hyz.trans hxy) (fun b y => ?_) h
  by_cases hkey : key b ≤ key y
  · exact .inl ⟨if_pos hkey, hkey⟩
  · exact .inr ⟨if_neg hkey, (Nat.not_le.mp hkey).le⟩

theorem le_foldl_max (l : List Spillable) (m : Nat) : m ≤ l.foldl (fun m y => max m y.stamp) m ∧ ∀ u ∈ l, u.stamp ≤ l.foldl (fun m y => max m y.stamp) m := by
  induction l generalizing m with
  | nil => exact ⟨Nat.le_refl m, fun u hu => nomatch hu⟩
  | cons y l ih =>
    rw [List.foldl_cons]
    obtain ⟨hm, hl⟩ := ih (max m y.stamp)
    exact ⟨(Nat.le_max_left _ _).trans hm, List.forall_mem_cons.mpr ⟨(Nat.le_max_right _ _).trans hm, hl⟩⟩

theorem foldl_min_le (l : List Spillable) (m : Nat) : l.foldl (fun m y => min m y.stamp) m ≤ m ∧ ∀ u ∈ l, l.foldl (fun m y => min m y.stamp) m ≤ u.stamp := by
  induction l generalizing m with
  | nil => exact ⟨Nat.le_refl m, fun u hu => nomatch hu⟩
  | cons y l ih =>
    rw [List.foldl_cons]
    obtain ⟨hm, hl⟩ := ih (min m y.stamp)
    exact ⟨hm.trans (Nat.min_le_left _ _), List.forall_mem_cons.mpr ⟨hm.trans (Nat.min_le_right _ _), hl⟩⟩

theorem foldl_min_attained (l : List Spillable) (m : Nat) :
    l.foldl (fun m y => min m y.stamp) m = m ∨ ∃ u ∈ l, u.stamp = l.foldl (fun m y => min m y.stamp) m := by
  induction l generalizing m with
  | nil => exact .inl rfl
  | cons y l ih =>
    rw [List.foldl_cons]
    obtain heq | ⟨u, hu, heq⟩ := ih (min m y.stamp)
    · rw [heq]
      obtain hle | hle := Nat.le_total m y.stamp
      · exact .inl (Nat.min_eq_left hle)
      · exact .inr ⟨y, List.mem_cons_self, (Nat.min_eq_right hle).symm⟩
    · exact .inr ⟨u, List.mem_cons_of_mem y hu, heq⟩

/-- R96: an activation's stamp is that of its earliest member. -/
theorem activationStamp_le {l : List Spillable} {z : Spillable} (hz : z ∈ l) : activationStamp l z.tag ≤ z.stamp :=
  (foldl_min_le _ _).2 z (List.mem_filter.mpr ⟨hz, beq_self_eq_true _⟩)

theorem activationStamp_attained {l : List Spillable} {u : Spillable} (hu : u ∈ l) : ∃ w ∈ l, w.tag = u.tag ∧ w.stamp = activationStamp l u.tag := by
  obtain heq | ⟨w, hw, heq⟩ := foldl_min_attained (l.filter fun y => y.tag == u.tag) (l.foldl (fun m y => max m y.stamp) 0)
  · refine ⟨u, hu, rfl, Nat.le_antisymm ?_ (activationStamp_le hu)⟩
    exact ((le_foldl_max l 0).2 u hu).trans heq.symm.le
  · obtain ⟨hwl, htag⟩ := List.mem_filter.mp hw
    exact ⟨w, hwl, beq_iff_eq.mp htag, heq⟩

/-- R97, R345: an entry that may be evicted: a token that no fault holds, or a COMB entry. -/
def MayLeave (y : ElemSt) (u : Spillable) : Prop := (∃ w ∈ y.store, w.faulted = false ∧ u = .tok w) ∨ ∃ c ∈ y.combs, u = .comb c

theorem mem_spillables {y : ElemSt} {u : Spillable} : u ∈ spillables y ↔ MayLeave y u := by
  simp only [spillables, MayLeave, List.mem_append, List.mem_map, List.mem_filter, Bool.not_eq_true', and_assoc, eq_comm (b := u)]

/-- R97: the latest member of the youngest activation. -/
theorem evictee_says {y : ElemSt} {v : Spillable} (h : evictee y = some v) : MayLeave y v ∧ (∀ u, MayLeave y u → u.tag = v.tag → u.stamp ≤ v.stamp) ∧
    ∀ u, MayLeave y u → ∃ w, MayLeave y w ∧ w.tag = u.tag ∧ ∀ z, MayLeave y z → z.tag = v.tag → w.stamp ≤ z.stamp := by
  simp only [← mem_spillables]
  unfold evictee at h
  dsimp only at h
  split at h
  · exact nomatch h
  · next a ha =>
    obtain ⟨hal, hyoungest⟩ := lastMax_says ha
    obtain ⟨hv, hlatest⟩ := lastMax_says h
    obtain ⟨hvl, htag⟩ := List.mem_filter.mp hv
    have htag : v.tag = a.tag := beq_iff_eq.mp htag
    refine ⟨hvl, fun u hu hutag => hlatest u (List.mem_filter.mpr ⟨hu, beq_iff_eq.mpr (hutag.trans htag)⟩), fun u hu => ?_⟩
    obtain ⟨w, hw, hwtag, hstamp⟩ := activationStamp_attained hu
    refine ⟨w, hw, hwtag, fun z hz hztag => ?_⟩
    calc w.stamp = activationStamp (spillables y) u.tag := hstamp
      _ ≤ activationStamp (spillables y) a.tag := hyoungest u hu
      _ = activationStamp (spillables y) z.tag := by rw [hztag, htag]
      _ ≤ z.stamp := activationStamp_le hz

/-! ### The earliest record (R97) -/

/-- The step that keeps the record whose token arrived first. -/
def earlierStep (s : State) (e : Nat) (best : Option SpillSt) (r : SpillSt) : Option SpillSt :=
  match best with
  | none => some r
  | some b => if s.spillStamp e r < s.spillStamp e b then some r else some b

theorem earliestSpill_eq (s : State) (e : Nat) (l : List SpillSt) : s.earliestSpill e l = l.foldl (s.earlierStep e) none := rfl

theorem earlierStep_cases (s : State) (e : Nat) (b r : SpillSt) :
    (s.earlierStep e (some b) r = some r ∧ s.spillStamp e r ≤ s.spillStamp e b) ∨ (s.earlierStep e (some b) r = some b ∧ s.spillStamp e b ≤ s.spillStamp e r) := by
  by_cases h : s.spillStamp e r < s.spillStamp e b
  · exact .inl ⟨if_pos h, h.le⟩
  · exact .inr ⟨if_neg h, Nat.not_lt.mp h⟩

theorem earliestSpill_says {s : State} {e : Nat} {l : List SpillSt} {r : SpillSt} (h : s.earliestSpill e l = some r) :
    r ∈ l ∧ ∀ z ∈ l, s.spillStamp e r ≤ s.spillStamp e z :=
  foldl_best (step := s.earlierStep e) (le := fun x y => s.spillStamp e x ≤ s.spillStamp e y) (fun _ => rfl) (fun _ => Nat.le_refl _) (fun _ _ _ => Nat.le_trans)
    (s.earlierStep_cases e) h

theorem earliestSpill_of_ne_nil (s : State) (e : Nat) {l : List SpillSt} (h : l ≠ []) : ∃ r, s.earliestSpill e l = some r :=
  foldl_best_ne_none (step := s.earlierStep e) (le := fun x y => s.spillStamp e x ≤ s.spillStamp e y) (fun _ => rfl) (fun _ => Nat.le_refl _)
    (fun _ _ _ => Nat.le_trans) (s.earlierStep_cases e) h

/-! ### Arrival order (R90) -/

/-- R90: a token takes its place by its stamp, after those of its cycle. -/
theorem insertTok_says (v : StoreTok) (l : List StoreTok) : ∃ A B, l = A ++ B ∧ insertTok v l = A ++ v :: B ∧ (∀ u ∈ A, u.stamp ≤ v.stamp) ∧
    ∀ u ∈ B.head?, v.stamp < u.stamp := by
  induction l with
  | nil => exact ⟨[], [], rfl, rfl, fun _ h => (nomatch h), fun _ h => (nomatch h)⟩
  | cons y l ih =>
    by_cases h : v.stamp < y.stamp
    · refine ⟨[], y :: l, rfl, if_pos h, fun _ h => (nomatch h), fun u hu => ?_⟩
      exact Option.some.inj hu ▸ h
    · obtain ⟨A, B, hl, hins, hA, hB⟩ := ih
      refine ⟨y :: A, B, by rw [hl]; rfl, ?_, List.forall_mem_cons.mpr ⟨Nat.not_lt.mp h, hA⟩, hB⟩
      rw [insertTok, if_neg h, hins]
      rfl

/-! ### The gate (R96, R132) -/

/-- R132: a token at A of a loop run without an entry. -/
def Opens (y : ElemSt) (slot pos : Nat) (x : Token) : Prop := y.active.opcode slot = 0x0C ∧ pos = 0 ∧ tagDepth x.tag ≠ 0 ∧ x.kind ≠ kArc ∧
  ∀ l ∈ y.loops, ¬(l.slot = slot ∧ l.key = tagOuter x.tag)

theorem opensLoop_iff (y : ElemSt) (slot pos : Nat) (x : Token) : opensLoop y slot pos x = true ↔ Opens y slot pos x := by
  simp only [opensLoop, Opens, loopEntry, Bool.and_eq_true, decide_eq_true_eq, Option.isNone_iff_eq_none, List.find?_eq_none, beq_iff_eq, and_assoc]

/-- R96: a matching store has an entry for a token. -/
def Takes (y : ElemSt) (slot pos : Nat) (x : Token) : Prop := let n := y.store.length + y.combs.length + y.loops.length
  n < 56 ∨ (n < 64 ∧ (Opens y slot pos x → n < 63) ∧ (y.store = [] ∨ ∃ h r, y.store = h :: r ∧ h.token.tag = x.tag))

/-- R91, R96: the gate takes a token, with the places kept that local results have. -/
def Gate (s : State) (e slot pos : Nat) (x : Token) (near : Bool) : Prop := let y := s.elem e; Takes y slot pos x ∧ (near = true ∨
  ((Opens y slot pos x → State.spillNeed y 2 (s.localTags e) ≤ s.spillsFree e) ∧ (¬ Opens y slot pos x → State.spillNeed y 1 (s.localTags e) ≤ s.spillsFree e)))

theorem oldest_iff (y : ElemSt) (g : Tag) : (oldest y == some g || y.store.isEmpty) = true ↔ (y.store = [] ∨ ∃ h r, y.store = h :: r ∧ h.token.tag = g) := by
  rw [oldest]
  cases y.store with
  | nil => simp
  | cons h r => simp

theorem storeTakes_iff (y : ElemSt) (slot pos : Nat) (x : Token) : storeTakes y x.tag (b2n (opensLoop y slot pos x)) = true ↔ Takes y slot pos x := by
  have hopens := opensLoop_iff y slot pos x
  rw [storeTakes, Bool.or_eq_true, Bool.and_eq_true, oldest_iff, decide_eq_true_eq, decide_eq_true_eq]
  simp only [Takes, occupied]
  cases h : opensLoop y slot pos x with
  | true =>
    rw [h] at hopens
    simp only [hopens.mp rfl, true_implies, b2n, if_true]
    constructor
    · rintro (hfew | ⟨hroom, hfirst⟩)
      · exact .inl hfew
      · exact .inr ⟨by omega, by omega, hfirst⟩
    · rintro (hfew | ⟨-, hroom, hfirst⟩)
      · exact .inl hfew
      · exact .inr ⟨by omega, hfirst⟩
  | false =>
    rw [h] at hopens
    have hnot : ¬ Opens y slot pos x := fun ho => nomatch hopens.mpr ho
    simp only [hnot, false_implies, true_and, b2n, Bool.false_eq_true, if_false, Nat.add_zero]

theorem gateTakes_iff (s : State) (e slot pos : Nat) (x : Token) (near : Bool) : s.gateTakes e slot pos x near = true ↔ Gate s e slot pos x near := by
  have hopens := opensLoop_iff (s.elem e) slot pos x
  have htakes := storeTakes_iff (s.elem e) slot pos x
  simp only [gateTakes, Gate, Bool.and_eq_true, Bool.or_eq_true, decide_eq_true_eq, htakes]
  refine and_congr_right fun _ => or_congr_right ?_
  cases h : opensLoop (s.elem e) slot pos x with
  | true =>
    rw [h] at hopens
    have ho := hopens.mp rfl
    exact ⟨fun hneed => ⟨fun _ => hneed, fun hnot => absurd ho hnot⟩, fun hneed => hneed.1 ho⟩
  | false =>
    rw [h] at hopens
    have hnot : ¬ Opens (s.elem e) slot pos x := fun ho => nomatch hopens.mpr ho
    exact ⟨fun hneed => ⟨fun ho => absurd ho hnot, fun _ => hneed⟩, fun hneed => hneed.2 hnot⟩

/-! ### Eviction (R97) -/

/-- R97: a store that has lost what is evicted. -/
def Lacks (y : ElemSt) (v : Spillable) (z : ElemSt) : Prop :=
  (∀ u, v = .tok u → z.store = y.store.erase u ∧ z.combs = y.combs) ∧ ∀ c, v = .comb c → z.store = y.store ∧ z.combs = y.combs.erase c

/-- R97: a store without what is evicted. -/
def lacking (y : ElemSt) (v : Spillable) : ElemSt :=
  match v with
  | .tok u => { y with store := y.store.erase u }
  | .comb c => { y with combs := y.combs.erase c }

theorem lacks_lacking (y : ElemSt) (v : Spillable) : Lacks y v (lacking y v) := by
  cases v with
  | tok u => exact ⟨fun w h => by obtain rfl := Spillable.tok.inj h; exact ⟨rfl, rfl⟩, fun c h => nomatch h⟩
  | comb c => exact ⟨fun w h => (nomatch h), fun d h => by obtain rfl := Spillable.comb.inj h; exact ⟨rfl, rfl⟩⟩

theorem lacking_loops (y : ElemSt) (v : Spillable) : (lacking y v).loops = y.loops := by
  cases v with
  | tok u => rfl
  | comb c => rfl

/-- R97: but for its store and its COMB entries an element that evicts is as before. -/
theorem lacking_frame (y : ElemSt) (v : Spillable) : { lacking y v with store := y.store, combs := y.combs } = y := by
  cases v with
  | tok u => rfl
  | comb c => rfl

theorem lacks_unique {y z z' : ElemSt} {v : Spillable} (h : Lacks y v z) (h' : Lacks y v z') : z.store = z'.store ∧ z.combs = z'.combs := by
  obtain ⟨htok, hcomb⟩ := h
  obtain ⟨htok', hcomb'⟩ := h'
  cases v with
  | tok u => exact ⟨(htok u rfl).1.trans (htok' u rfl).1.symm, (htok u rfl).2.trans (htok' u rfl).2.symm⟩
  | comb c => exact ⟨(hcomb c rfl).1.trans (hcomb' c rfl).1.symm, (hcomb c rfl).2.trans (hcomb' c rfl).2.symm⟩

theorem spillNeed_congr {y z : ElemSt} (hstore : z.store = y.store) (hcombs : z.combs = y.combs) (hloops : z.loops = y.loops) (more : Nat) (tags : List Tag) :
    spillNeed z more tags = spillNeed y more tags := by
  simp only [spillNeed, occupied, oldest, hstore, hcombs, hloops]

/-- R91: what is evicted leaves records for the local results that have reserved them. -/
def Room (s : State) (e : Nat) (v : Spillable) : Prop :=
  ∀ z : ElemSt, Lacks (s.elem e) v z → z.loops = (s.elem e).loops → State.spillNeed z 0 (s.localTags e) + 1 ≤ s.spillsFree e

theorem room_iff (s : State) (e : Nat) (v : Spillable) : Room s e v ↔ State.spillNeed (lacking (s.elem e) v) 0 (s.localTags e) + 1 ≤ s.spillsFree e := by
  refine ⟨fun h => h _ (lacks_lacking _ v) (lacking_loops _ v), fun h z hz hloops => ?_⟩
  obtain ⟨hstore, hcombs⟩ := lacks_unique hz (lacks_lacking (s.elem e) v)
  rwa [spillNeed_congr hstore hcombs (hloops.trans (lacking_loops _ v).symm)]

theorem mayEvict_of_evictee {s : State} {e : Nat} {v : Spillable} (h : evictee (s.elem e) = some v) : s.mayEvict e =
    (decide ((s.elem e).spFree ≤ s.cycle) && decide (spillNeed (lacking (s.elem e) v) 0 (s.localTags e) + 1 ≤ s.spillsFree e)) := by
  unfold mayEvict
  simp only [h]
  cases v <;> rfl

theorem mayEvict_iff (s : State) (e : Nat) : s.mayEvict e = true ↔ ∃ v, evictee (s.elem e) = some v ∧ (s.elem e).spFree ≤ s.cycle ∧ Room s e v := by
  cases h : evictee (s.elem e) with
  | none =>
    have hnone : s.mayEvict e = false := by
      unfold mayEvict
      simp only [h]
    rw [hnone]
    exact ⟨fun h => (nomatch h), fun ⟨v, h, _⟩ => (nomatch h)⟩
  | some v =>
    rw [mayEvict_of_evictee h, Bool.and_eq_true, decide_eq_true_eq, decide_eq_true_eq, ← room_iff]
    constructor
    · exact fun h => ⟨v, rfl, h⟩
    · rintro ⟨w, hw, h⟩
      obtain rfl := Option.some.inj hw
      exact h

theorem freeSpill_of_spillsFree {s : State} {e : Nat} (h : 1 ≤ s.spillsFree e) : ∃ r, s.freeSpill e = some r := by
  rw [spillsFree] at h
  obtain ⟨r, hr⟩ := List.exists_mem_of_length_pos h
  obtain ⟨hrange, hfree⟩ := List.mem_filter.mp hr
  exact Option.isSome_iff_exists.mp (List.find?_isSome.mpr ⟨r, hrange, hfree⟩)

end State

end Sys2Proof.Machine
end

section
/-! Steps at the input of an element (R96, R97, R99, R130, R132): what each changes, and what an accepted token leaves. -/

namespace Sys2Proof.Machine

namespace State

/-- The machine but for elements, fields, partitions and threads. -/
def inputRest (s : State) : State := { s with elems := [], fields := [], parts := [], threads := [] }

/-- What a step at the input of element `e` leaves as it was: every other element, every general register, and the machine but for fields, partitions
and threads. -/
structure InputStep (s t : State) (e : Nat) : Prop where
  others : ∀ d, d ≠ e → t.elem d = s.elem d
  regs : s.sameRegs t
  rest : t.inputRest = s.inputRest

namespace InputStep

variable {s t u : State} {e : Nat}

theorem trans (h : InputStep s t e) (h' : InputStep t u e) : InputStep s u e :=
  ⟨fun d hd => (h'.others d hd).trans (h.others d hd), State.sameRegs_trans h.regs h'.regs, h'.rest.trans h.rest⟩

theorem flights (h : InputStep s t e) : t.flights = s.flights := (congrArg State.flights h.rest :)
theorem mem (h : InputStep s t e) : t.mem = s.mem := (congrArg State.mem h.rest :)

theorem sameBytes (h : InputStep s t e) : s.sameBytes t := fun a => by rw [h.mem]

theorem modElem (s : State) (e : Nat) (k : ElemSt → ElemSt) : InputStep s (s.modElem e k) e :=
  ⟨fun d hd => by rw [State.modElem_eq, State.elem_setElem, if_neg hd.symm], fun _ _ => rfl, rfl⟩

theorem of_parts (h : { t with parts := [] } = { s with parts := [] }) : InputStep s t e :=
  ⟨fun d _ => (congrArg (State.elem · d) h :), fun j r => (congrArg (fun v : State => v.gprOf j r) h :), (congrArg inputRest h :)⟩

end InputStep

/-! ### Full spill areas (R98) -/

/-- R98: noting since when a spill area is full changes that alone. -/
theorem noteFull_eq (s : State) (e : Nat) : ∃ fs, s.noteFull e = { s with fields := fs } ∧ ∀ q, (Table.getD fs q {}).fault = (s.field q).fault := by
  unfold noteFull
  split
  · exact ⟨s.fields, rfl, fun _ => rfl⟩
  · next k _ =>
    refine ⟨_, rfl, fun q => ?_⟩
    rw [Table.getD_put]
    split
    · next h => rw [← h]
    · rfl

theorem elem_noteFull (s : State) (e d : Nat) : (s.noteFull e).elem d = s.elem d := by
  obtain ⟨fs, heq, -⟩ := s.noteFull_eq e
  rw [heq]
  rfl

theorem inputStep_noteFull (s : State) (e : Nat) : InputStep s (s.noteFull e) e := by
  obtain ⟨fs, heq, -⟩ := s.noteFull_eq e
  rw [heq]
  exact ⟨fun _ _ => rfl, fun _ _ => rfl, rfl⟩

/-! ### Spilling and reloading (R97, R350) -/

/-- R350: what a step that spills leaves: the record, and the port held. -/
def Recorded (s t : State) (e r : Nat) (v : Spillable) : Prop := let a := s.spillAddr e r
  s.sameBytesBut t a 256 ∧ Memory.read t.mem a 256 = v.record s.cycle % 2 ^ 2048 ∧
  (t.elem e).spills = (s.elem e).spills ++ [{ record := r, since := s.cycle, retry := v.retry }] ∧ (t.elem e).spFree = max (s.elem e).spFree s.cycle + 2

/-- R350: memory with a record written. -/
def recordWritten (s : State) (e r : Nat) (v : Spillable) : State := { s with mem := Memory.write s.mem (s.spillAddr e r) 256 (v.record s.cycle) }

theorem inputStep_spillTok (s : State) (e r : Nat) (v : Spillable) : InputStep (s.recordWritten e r v) (s.spillTok e r v) e :=
  (InputStep.modElem (s.recordWritten e r v) e _).trans (inputStep_noteFull _ e)

theorem elem_spillTok (s : State) (e r : Nat) (v : Spillable) : (s.spillTok e r v).elem e =
    { s.elem e with spills := (s.elem e).spills ++ [{ record := r, since := s.cycle, retry := v.retry }], spFree := max (s.elem e).spFree s.cycle + 2 } :=
  (elem_noteFull _ e e).trans (elem_modElem_same (s.recordWritten e r v) e _)

theorem recorded_spillTok (s : State) (e r : Nat) (v : Spillable) : Recorded s (s.spillTok e r v) e r v := by
  have hmem : (s.spillTok e r v).mem = Memory.write s.mem (s.spillAddr e r) 256 (v.record s.cycle) := by
    rw [(inputStep_spillTok s e r v).mem, recordWritten]
  have hsize : 256 ^ 256 = 2 ^ 2048 := (Nat.pow_mul 2 8 256).symm
  refine ⟨fun b hb => ?_, ?_, ?_, ?_⟩
  · rw [hmem]
    exact Memory.get_write_other _ _ _ _ _ hb
  · rw [hmem, Memory.read_write, hsize]
  · rw [elem_spillTok]
  · rw [elem_spillTok]

theorem elem_askReload (s : State) (e : Nat) (r : Option Nat) : (s.askReload e r).elem e = { s.elem e with reloadNext :=
    match r with
    | some n => if n ∈ (s.elem e).reloadNext then (s.elem e).reloadNext else (s.elem e).reloadNext ++ [n]
    | none => (s.elem e).reloadNext } := by
  cases r with
  | none => rfl
  | some n =>
    refine (elem_modElem_same s e _).trans ?_
    simp only [List.contains_iff_mem]

theorem inputStep_askReload (s : State) (e : Nat) (r : Option Nat) : InputStep s (s.askReload e r) e := by
  cases r with
  | none => exact ⟨fun _ _ => rfl, fun _ _ => rfl, rfl⟩
  | some n =>
    show InputStep s (s.modElem e fun x => { x with reloadNext := if x.reloadNext.contains n then x.reloadNext else x.reloadNext ++ [n] }) e
    exact .modElem s e _

theorem inputStep_unspill (s : State) (e : Nat) (r : SpillSt) : InputStep s (s.unspill e r) e := (InputStep.modElem s e _).trans (inputStep_noteFull _ e)

theorem elem_unspill (s : State) (e : Nat) (r : SpillSt) : (s.unspill e r).elem e =
    { s.elem e with spills := (s.elem e).spills.filter (fun z => z.record != r.record), reloadNext := (s.elem e).reloadNext.filter (fun n => n != r.record),
                    spFree := max (s.elem e).spFree s.cycle + 2 } :=
  (elem_noteFull _ e e).trans (elem_modElem_same s e _)

theorem fault_unspill (s : State) (e : Nat) (r : SpillSt) (q : Nat) : ((s.unspill e r).field q).fault = (s.field q).fault := by
  unfold unspill
  obtain ⟨fs, heq, hfault⟩ := noteFull_eq (s.modElem e fun x : ElemSt =>
    { x with spills := x.spills.filter fun y => y.record != r.record, reloadNext := x.reloadNext.filter fun n => n != r.record, spFree := max x.spFree s.cycle + 2 }) e
  rw [heq]
  exact hfault q

theorem ownCores_unspill (s : State) (e : Nat) (r : SpillSt) : (s.unspill e r).ownCores = s.ownCores := by
  unfold unspill
  obtain ⟨fs, heq, -⟩ := noteFull_eq (s.modElem e fun x : ElemSt =>
    { x with spills := x.spills.filter fun y => y.record != r.record, reloadNext := x.reloadNext.filter fun n => n != r.record, spFree := max x.spFree s.cycle + 2 }) e
  rw [heq]
  rfl

/-! ### A fault at the input (R99, R345) -/

/-- R345: a fault changes fields, threads and the tokens held. -/
theorem rewriteFault_rest (s : State) (k code : Nat) (old new : FaultRec) : (s.rewriteFault k code old new).inputRest = s.inputRest := by
  unfold rewriteFault
  dsimp only
  split
  · rfl
  · rfl

theorem addMulti_rest (s : State) (k code : Nat) (r : FaultRec) : (s.addMulti k code r).inputRest = s.inputRest := by
  unfold addMulti
  split
  · rfl
  · split
    · exact rewriteFault_rest _ _ _ _ _
    · exact rewriteFault_rest _ _ _ _ _

theorem faultHalt_rest (s : State) (e slot pos code : Nat) (tag : Tag) (op : Word) (held : List StoreTok) :
    (s.faultHalt e slot pos code tag op held).inputRest = s.inputRest := by
  unfold faultHalt
  dsimp only
  split
  · rfl
  · split
    · exact addMulti_rest _ _ _ _
    · rfl

/-- R99: a token at the input that faults, and the fault's record. -/
def Faulted (s t : State) (e code : Nat) (v : StoreTok) : Prop := (t.elem e).store = ((s.elem e).store ++ [v]).replace v { v with faulted := true } ∧
  (∀ q, s.fieldAt e = some q → (s.field q).fault = none → ∃ r, (t.field q).fault = some (code, r) ∧ r.f2 = v.token.tag ∧ r.f5 = v.token.payload.setWidth 64)

/-- R90: a store with one more token. -/
def withTok (s : State) (e : Nat) (v : StoreTok) : State := s.modElem e fun y => { y with store := y.store ++ [v] }

theorem elem_withTok (s : State) (e : Nat) (v : StoreTok) : (s.withTok e v).elem e = { s.elem e with store := (s.elem e).store ++ [v] } :=
  elem_modElem_same s e _

/-- R415: an accepted token that faults. -/
def failed (s : State) (e code : Nat) (v : StoreTok) : State :=
  (s.withTok e v).faultHalt e v.slot v.pos code v.token.tag (v.token.payload.setWidth 64) [v]

/-- R99: the token that faults, as a firing of its own. -/
def inputFiring (e : Nat) (v : StoreTok) : Firing :=
  { e := e, slot := v.slot, op := 0, f := { action := 0, srcA := 0, srcB := 0, dst0 := 0, dst1 := 0, qual := 0, extra := 0, ext := 0 }, tag := v.token.tag, toks := [v] }

theorem failed_eq (s : State) (e code : Nat) (v : StoreTok) : s.failed e code v =
    (s.withTok e v).faultHalt (inputFiring e v).e (inputFiring e v).slot v.pos code (inputFiring e v).tag (v.token.payload.setWidth 64) (inputFiring e v).toks := rfl

theorem elem_failed (s : State) (e code d : Nat) (v : StoreTok) : (s.failed e code v).elem d =
    if e = d then { s.elem e with store := ((s.elem e).store ++ [v]).replace v { v with faulted := true } } else s.elem d := by
  rw [failed_eq, congrFun ((s.withTok e v).faultHalt_frame (inputFiring e v) code v.pos (v.token.payload.setWidth 64)).1 d, elem_heldAt]
  show (if e = d then { (s.withTok e v).elem e with store := heldStore [v] ((s.withTok e v).elem e).store } else (s.withTok e v).elem d) = _
  rw [elem_withTok]
  split
  · rfl
  · next hd => exact (InputStep.modElem s e _).others d (Ne.symm hd)

theorem inputStep_failed (s : State) (e code : Nat) (v : StoreTok) : InputStep s (s.failed e code v) e := by
  refine ⟨fun d hd => ?_, ?_, ?_⟩
  · rw [elem_failed, if_neg hd.symm]
  · rw [failed_eq]
    exact State.sameRegs_trans (InputStep.modElem s e _).regs ((s.withTok e v).faultHalt_frame (inputFiring e v) code v.pos (v.token.payload.setWidth 64)).2
  · exact faultHalt_rest _ _ _ _ _ _ _ _

theorem faulted_failed (s : State) (e : Nat) {code : Nat} (v : StoreTok) (hcode : code < 256) : Faulted s (s.failed e code v) e code v := by
  refine ⟨by rw [elem_failed, if_pos rfl], fun q hq hnone => ?_⟩
  have hat : (s.withTok e v).fieldAt e = some q := by
    rw [← hq]
    unfold fieldAt withTok
    rw [elem_modElem_same]
  obtain ⟨-, hf2, hf5, -⟩ := firingRec_says (s := (s.withTok e v).heldAt (inputFiring e v)) (g := inputFiring e v) (k := q) (code := code) (pos := v.pos)
    (op := v.token.payload.setWidth 64) hcode
  rw [failed_eq, (s.withTok e v).faultHalt_first (inputFiring e v) code v.pos (v.token.payload.setWidth 64) hat hnone]
  exact ⟨_, congrArg FieldSt.fault ((field_setField _ _ _ _).trans (if_pos rfl)), hf2, hf5⟩

/-! ### COMB (R100, R130) -/

/-- R100: the entry that a COMB slot's token goes to. -/
def openComb (y : ElemSt) (slot : Nat) (x : Token) (c : CombSt) : Bool := c.slot == slot && c.tag == x.tag && decide (c.taken < (y.active.fields slot).ext.toNat)

/-- R100: that entry, or a new one. -/
def combBase (y : ElemSt) (slot : Nat) (x : Token) (stamp : Nat) : CombSt :=
  (y.combs.find? (openComb y slot x)).getD { slot := slot, tag := x.tag, width := x.width, taken := 0, valid := 0, payload := 0, allEos := true, stamp := stamp }

/-- R130: two contributions to a lane. -/
def mixLane (op : Nat) (sg : Bool) (w a b : Nat) : Nat :=
  if op = 0 then (a + b) % 2 ^ w else if op = 1 then a &&& b else if op = 2 then a ||| b else if op = 3 then a ^^^ b
  else if op = 4 then (if laneInt sg w b < laneInt sg w a then b else a) else if op = 5 then (if laneInt sg w a < laneInt sg w b then b else a) else (a + 1) % 2 ^ w

theorem combLane_eq {op : Nat} (h : op < 8) (sg : Bool) (w a b : Nat) : combLane op sg w a b = mixLane op sg w a b := by
  interval_cases op <;> rfl

/-- R130: an entry that has taken a token. -/
def TakenBy (f : SlotFields) (base c : CombSt) (x : Token) (stamp : Nat) : Prop := let op := f.extra.toNat % 8
  let w := 2 ^ base.width; let v := if x.kind = kEos then 0 else x.valid; let sg := isSignedFmt (fmtOf f)
  c.slot = base.slot ∧ c.tag = base.tag ∧ c.width = base.width ∧ c.taken = base.taken + 1 ∧ c.valid = max base.valid v ∧
  (c.allEos = true ↔ base.allEos = true ∧ x.kind = kEos) ∧ c.stamp = max base.stamp stamp ∧
  ∀ i < max base.valid v, let a := bits base.payload (w * i) w; let b := bits x.payload.toNat (2 ^ x.width * i) (2 ^ x.width)
    bits c.payload (w * i) w = (if i < v then if i < base.valid then mixLane op sg w a b else if op = 6 then 1 else b else a) % 2 ^ w

theorem takenBy_combTake (f : SlotFields) (base : CombSt) (x : Token) (stamp : Nat) : TakenBy f base (combTake f base x stamp) x stamp := by
  have hop : bits f.extra.toNat 0 3 = f.extra.toNat % 8 := by rw [bits, Nat.pow_zero, Nat.div_one]; rfl
  refine ⟨rfl, rfl, rfl, rfl, rfl, ?_, rfl, fun i hi => ?_⟩
  · show (base.allEos && x.kind == kEos) = true ↔ _
    rw [Bool.and_eq_true, beq_iff_eq]
  · refine (bits_packLanes _ _ _ i).trans ((if_pos hi).trans ?_)
    simp only [hop, combLane_eq (Nat.mod_lt f.extra.toNat (by omega : 0 < 8))]
    rfl

/-- R100, R130: what a COMB slot's token leaves of its element. -/
def Combined (s t : State) (e slot : Nat) (x : Token) (stamp : Nat) : Prop := let y := s.elem e
  ∃ c : CombSt, (t.elem e).combs = (if y.combs.any (openComb y slot x) then y.combs.map (fun z => if z = combBase y slot x stamp then c else z) else y.combs ++ [c]) ∧
    (t.elem e).store = y.store ∧ TakenBy (y.active.fields slot) (combBase y slot x stamp) c x stamp

/-- R100, R130: the entries of a COMB slot's element that has taken a token. -/
def combsAfter (y : ElemSt) (slot : Nat) (x : Token) (stamp : Nat) : List CombSt :=
  if y.combs.any (openComb y slot x) then y.combs.map fun z => if z = combBase y slot x stamp then combTake (y.active.fields slot) (combBase y slot x stamp) x stamp else z
  else y.combs ++ [combTake (y.active.fields slot) (combBase y slot x stamp) x stamp]

theorem elem_combine (s : State) (e slot : Nat) (x : Token) (stamp : Nat) : (s.combine e slot ((s.elem e).active.fields slot) x stamp).elem e =
    { s.elem e with combs := combsAfter (s.elem e) slot x stamp } := by
  refine (elem_modElem_same s e _).trans ?_
  have hopen : (fun c : CombSt => c.slot == slot && c.tag == x.tag && decide (c.taken < ((s.elem e).active.fields slot).ext.toNat)) = openComb (s.elem e) slot x := rfl
  unfold combsAfter combBase
  rw [hopen]
  cases h : (s.elem e).combs.find? (openComb (s.elem e) slot x) with
  | none =>
    have hnone : (s.elem e).combs.any (openComb (s.elem e) slot x) = false := by
      rw [List.any_eq_false]
      exact List.find?_eq_none.mp h
    rw [hnone]
    rfl
  | some c =>
    have hsome : (s.elem e).combs.any (openComb (s.elem e) slot x) = true :=
      List.any_eq_true.mpr ⟨c, List.mem_of_find?_eq_some h, List.find?_some h⟩
    rw [hsome]
    rfl

theorem combined_combine (s : State) (e slot : Nat) (x : Token) (stamp : Nat) : Combined s (s.combine e slot ((s.elem e).active.fields slot) x stamp) e slot x stamp := by
  refine ⟨_, ?_, ?_, takenBy_combTake _ _ _ _⟩
  · rw [elem_combine]
    rfl
  · rw [elem_combine]

theorem inputStep_combine (s : State) (e slot : Nat) (f : SlotFields) (x : Token) (stamp : Nat) : InputStep s (s.combine e slot f x stamp) e := by
  unfold combine
  exact .modElem s e _

/-! ### LOOP's entries (R132) -/

/-- R350: the tag of a spill record. -/
def recordTag (s : State) (e : Nat) (r : SpillSt) : Tag := BitVec.ofNat 64 (Memory.read s.mem (s.spillAddr e r.record) 8)

/-- R132: a record of a list that holds a token of the run of a token at A. -/
def Mate (s : State) (e slot : Nat) (x : Token) (l : List SpillSt) (r : SpillSt) : Prop :=
  r ∈ l ∧ Memory.read s.mem (s.spillAddr e r.record + 12) 2 = slot ∧ tagOuter (recordTag s e r) = tagOuter x.tag ∧
    tagDepth (recordTag s e r) = tagDepth x.tag ∧ bits (Memory.read s.mem (s.spillAddr e r.record + 8) 4) 14 3 ≠ kArc

/-- R132: what a token that is not combined leaves of the LOOP entries of its element. -/
def Looped (s t : State) (e slot pos : Nat) (x : Token) (stamp : Nat) (l : List SpillSt) : Prop := let y := s.elem e; let z := t.elem e
  (¬ Opens y slot pos x → z.loops = y.loops) ∧ (Opens y slot pos x → ∃ i, z.loops = y.loops ++ [{ slot := slot, key := tagOuter x.tag, i := i, x := i }] ∧
    ((∀ r, Mate s e slot x l r → stamp ≤ s.spillStamp e r) → i = tagIx x.tag) ∧
    ((∃ r, Mate s e slot x l r ∧ s.spillStamp e r < stamp) → ∃ r, Mate s e slot x l r ∧ (∀ q, Mate s e slot x l q → s.spillStamp e r ≤ s.spillStamp e q) ∧
      i = tagIx (recordTag s e r)))

/-- R132: the records of a run that the machine looks for. -/
def isMate (s : State) (e slot : Nat) (x : Token) (r : SpillSt) : Bool :=
  Memory.read s.mem (s.spillAddr e r.record + 12) 2 == slot && tagOuter (recordTag s e r) == tagOuter x.tag && decide (tagDepth (recordTag s e r) = tagDepth x.tag) &&
    bits (Memory.read s.mem (s.spillAddr e r.record + 8) 4) 14 3 != kArc

theorem mem_filter_isMate {s : State} {e slot : Nat} {x : Token} {l : List SpillSt} {r : SpillSt} : r ∈ l.filter (isMate s e slot x) ↔ Mate s e slot x l r := by
  simp only [List.mem_filter, isMate, Mate, Bool.and_eq_true, beq_iff_eq, decide_eq_true_eq, bne_iff_ne, and_assoc]

theorem firstField_eq (s : State) (e slot stamp : Nat) (x : Token) : s.firstField e slot stamp x =
    match s.earliestSpill e ((s.elem e).spills.filter (isMate s e slot x)) with
    | some r => if s.spillStamp e r < stamp then tagIx (recordTag s e r) else tagIx x.tag
    | none => tagIx x.tag := rfl

/-- R132: the field of the first token to arrive at A. -/
theorem firstField_says (s : State) (e slot stamp : Nat) (x : Token) : let l := (s.elem e).spills
    ((∀ r, Mate s e slot x l r → stamp ≤ s.spillStamp e r) → s.firstField e slot stamp x = tagIx x.tag) ∧
    ((∃ r, Mate s e slot x l r ∧ s.spillStamp e r < stamp) → ∃ r, Mate s e slot x l r ∧ (∀ q, Mate s e slot x l q → s.spillStamp e r ≤ s.spillStamp e q) ∧
      s.firstField e slot stamp x = tagIx (recordTag s e r)) := by
  intro l
  rw [firstField_eq]
  cases h : s.earliestSpill e ((s.elem e).spills.filter (isMate s e slot x)) with
  | none =>
    refine ⟨fun _ => rfl, fun ⟨r, hr, _⟩ => ?_⟩
    obtain ⟨q, hq⟩ := s.earliestSpill_of_ne_nil e (List.ne_nil_of_mem (mem_filter_isMate.mpr hr))
    exact nomatch h.symm.trans hq
  | some r =>
    obtain ⟨hr, hfirst⟩ := earliestSpill_says h
    refine ⟨fun hlate => if_neg (Nat.not_lt.mpr (hlate r (mem_filter_isMate.mp hr))), fun ⟨q, hq, hearly⟩ => ?_⟩
    have hle := hfirst q (mem_filter_isMate.mpr hq)
    exact ⟨r, mem_filter_isMate.mp hr, fun z hz => hfirst z (mem_filter_isMate.mpr hz), if_pos (lt_of_le_of_lt hle hearly)⟩

theorem openLoop_of_not {s : State} {e slot pos : Nat} {x : Token} (stamp : Nat) (h : ¬ Opens (s.elem e) slot pos x) : s.openLoop e slot pos x stamp = s :=
  if_neg (mt (opensLoop_iff _ _ _ _).mp h)

theorem openLoop_of_opens {s : State} {e slot pos : Nat} {x : Token} (stamp : Nat) (h : Opens (s.elem e) slot pos x) : s.openLoop e slot pos x stamp =
    s.modElem e fun y => { y with loops := y.loops ++ [{ slot := slot, key := tagOuter x.tag, i := s.firstField e slot stamp x, x := s.firstField e slot stamp x }] } :=
  if_pos ((opensLoop_iff _ _ _ _).mpr h)

theorem inputStep_openLoop (s : State) (e slot pos : Nat) (x : Token) (stamp : Nat) : InputStep s (s.openLoop e slot pos x stamp) e := by
  by_cases h : Opens (s.elem e) slot pos x
  · rw [openLoop_of_opens stamp h]
    exact .modElem s e _
  · rw [openLoop_of_not stamp h]
    exact ⟨fun _ _ => rfl, fun _ _ => rfl, rfl⟩

theorem looped_openLoop (s : State) (e slot pos : Nat) (x : Token) (stamp : Nat) : Looped s (s.openLoop e slot pos x stamp) e slot pos x stamp (s.elem e).spills ∧
    { (s.openLoop e slot pos x stamp).elem e with loops := (s.elem e).loops } = s.elem e := by
  obtain ⟨hown, hearlier⟩ := s.firstField_says e slot stamp x
  by_cases h : Opens (s.elem e) slot pos x
  · have helem := elem_modElem_same s e fun y =>
      { y with loops := y.loops ++ [{ slot := slot, key := tagOuter x.tag, i := s.firstField e slot stamp x, x := s.firstField e slot stamp x }] }
    rw [openLoop_of_opens stamp h]
    refine ⟨⟨fun hnot => absurd h hnot, fun _ => ⟨_, ?_, hown, hearlier⟩⟩, ?_⟩
    · rw [helem]
    · rw [helem]
  · rw [openLoop_of_not stamp h]
    exact ⟨⟨fun _ => rfl, fun ho => absurd ho h⟩, rfl⟩

/-! ### An accepted token (R90, R415) -/

/-- R90, R130, R132, R415: what an accepted token leaves. -/
def Accepted (s t : State) (e slot pos : Nat) (x : Token) (stamp : Nat) (retry : Bool) (l : List SpillSt) : Prop :=
  let y := s.elem e; let p := y.active
  let v : StoreTok := { slot := slot, pos := pos, token := x, stamp := stamp, retry := retry }
  (p.reads slot pos = false → Faulted s t e 0x0B v) ∧
  (p.reads slot pos = true → p.opcode slot = 0x09 →
    ((x.kind = kArc ∨ some x.width ≠ fmtWidth (fmtOf (p.fields slot))) → Faulted s t e 0x08 v) ∧
    (¬(x.kind = kArc ∨ some x.width ≠ fmtWidth (fmtOf (p.fields slot))) → Combined s t e slot x stamp ∧ s.sameBytes t)) ∧
  (p.reads slot pos = true → p.opcode slot ≠ 0x09 → (t.elem e).store = y.store ++ [v] ∧ (t.elem e).combs = y.combs ∧ s.sameBytes t ∧
    Looped s t e slot pos x stamp l)

/-- Two states of an element that open LOOP entries alike. -/
structure LoopAlike (s u : State) (e : Nat) : Prop where
  active : (u.elem e).active = (s.elem e).active
  loops : (u.elem e).loops = (s.elem e).loops
  mem : u.mem = s.mem
  records : ∀ r, u.spillAddr e r = s.spillAddr e r

theorem Looped.of_alike {s u t : State} {e slot pos stamp : Nat} {x : Token} {l : List SpillSt} (h : LoopAlike s u e) (hlooped : Looped u t e slot pos x stamp l) :
    Looped s t e slot pos x stamp l := by
  obtain ⟨hactive, hloops, hmem, hrecords⟩ := h
  simp only [Looped, Opens, Mate, recordTag, spillStamp, spillWord, hactive, hloops, hmem, hrecords] at hlooped ⊢
  exact hlooped

/-- Two states of an element that accept a token alike. -/
structure InputAlike (s u : State) (e : Nat) : Prop extends LoopAlike s u e where
  store : (u.elem e).store = (s.elem e).store
  combs : (u.elem e).combs = (s.elem e).combs
  place : u.fieldAt e = s.fieldAt e
  faults : ∀ q, (u.field q).fault = (s.field q).fault

theorem Accepted.of_alike {s u t : State} {e slot pos stamp : Nat} {x : Token} {retry : Bool} {l : List SpillSt} (h : InputAlike s u e)
    (hacc : Accepted u t e slot pos x stamp retry l) : Accepted s t e slot pos x stamp retry l := by
  obtain ⟨hunread, hcomb, hplain⟩ := hacc
  obtain ⟨hloop, hstore, hcombs, hplace, hfaults⟩ := h
  have hactive := hloop.active
  have hmem := hloop.mem
  refine ⟨?_, ?_, fun hreads hop => ?_⟩
  · simp only [Faulted, hactive, hstore, hplace, hfaults] at hunread ⊢
    exact hunread
  · have hopen : openComb (u.elem e) slot x = openComb (s.elem e) slot x := by
      funext c
      rw [openComb, openComb, hactive]
    simp only [Faulted, Combined, combBase, sameBytes, hopen, hactive, hstore, hcombs, hmem, hplace, hfaults] at hcomb ⊢
    exact hcomb
  · rw [hactive] at hplain
    obtain ⟨hkept, hsame, hbytes, hlooped⟩ := hplain hreads hop
    exact ⟨hkept.trans (by rw [hstore]), hsame.trans hcombs, fun a => by rw [hbytes a, hmem], hlooped.of_alike hloop⟩

section
variable (s : State) (e slot pos : Nat) (x : Token) (stamp : Nat) (retry : Bool)

/-- R90: the token as it stands in the store. -/
def storeTok : StoreTok := { slot := slot, pos := pos, token := x, stamp := stamp, retry := retry }

variable {s e slot pos x}

theorem accept_unread (h : (s.elem e).active.reads slot pos = false) : s.accept e slot pos x stamp retry = s.failed e 0x0B (storeTok slot pos x stamp retry) := by
  unfold accept
  simp only [h, Bool.not_false, if_true]
  rfl

theorem accept_combRefused (h : (s.elem e).active.reads slot pos = true) (hop : (s.elem e).active.opcode slot = 0x09)
    (hbad : x.kind = kArc ∨ some x.width ≠ fmtWidth (fmtOf ((s.elem e).active.fields slot))) :
    s.accept e slot pos x stamp retry = s.failed e 0x08 (storeTok slot pos x stamp retry) := by
  unfold accept
  simp only [h, hop, Bool.not_true, Bool.false_eq_true, if_false, if_true, if_pos hbad]
  rfl

theorem accept_comb (h : (s.elem e).active.reads slot pos = true) (hop : (s.elem e).active.opcode slot = 0x09)
    (hgood : ¬ (x.kind = kArc ∨ some x.width ≠ fmtWidth (fmtOf ((s.elem e).active.fields slot)))) :
    s.accept e slot pos x stamp retry = s.combine e slot ((s.elem e).active.fields slot) x stamp := by
  unfold accept
  simp only [h, hop, Bool.not_true, Bool.false_eq_true, if_false, if_true, if_neg hgood]

theorem accept_plain (h : (s.elem e).active.reads slot pos = true) (hop : (s.elem e).active.opcode slot ≠ 0x09) :
    s.accept e slot pos x stamp retry = (s.withTok e (storeTok slot pos x stamp retry)).openLoop e slot pos x stamp := by
  unfold accept
  simp only [h, if_neg hop, Bool.not_true, Bool.false_eq_true, if_false]
  rfl

/-- R90: a store with one more token opens LOOP entries as before. -/
theorem loopAlike_modElem {k : ElemSt → ElemSt} (hactive : (k (s.elem e)).active = (s.elem e).active) (hloops : (k (s.elem e)).loops = (s.elem e).loops)
    (howner : (k (s.elem e)).owner = (s.elem e).owner) : LoopAlike s (s.modElem e k) e := by
  have helem := elem_modElem_same s e k
  exact ⟨by rw [helem, hactive], by rw [helem, hloops], rfl, spillAddr_congr rfl rfl (by rw [helem, howner])⟩

variable (s e slot pos x)

theorem inputStep_accept : InputStep s (s.accept e slot pos x stamp retry) e := by
  cases hreads : (s.elem e).active.reads slot pos with
  | false =>
    rw [accept_unread stamp retry hreads]
    exact inputStep_failed _ _ _ _
  | true =>
    by_cases hop : (s.elem e).active.opcode slot = 0x09
    · by_cases hbad : x.kind = kArc ∨ some x.width ≠ fmtWidth (fmtOf ((s.elem e).active.fields slot))
      · rw [accept_combRefused stamp retry hreads hop hbad]
        exact inputStep_failed _ _ _ _
      · rw [accept_comb stamp retry hreads hop hbad]
        exact inputStep_combine _ _ _ _ _ _
    · rw [accept_plain stamp retry hreads hop]
      exact (InputStep.modElem s e _).trans (inputStep_openLoop _ _ _ _ _ _)

theorem accepted_accept : Accepted s (s.accept e slot pos x stamp retry) e slot pos x stamp retry (s.elem e).spills := by
  refine ⟨fun hreads => ?_, fun hreads hop => ⟨fun hbad => ?_, fun hgood => ?_⟩, fun hreads hop => ?_⟩
  · rw [accept_unread stamp retry hreads]
    exact faulted_failed s e _ (by omega)
  · rw [accept_combRefused stamp retry hreads hop hbad]
    exact faulted_failed s e _ (by omega)
  · rw [accept_comb stamp retry hreads hop hgood]
    exact ⟨combined_combine s e slot x stamp, (inputStep_combine _ _ _ _ _ _).sameBytes⟩
  · rw [accept_plain stamp retry hreads hop]
    have helem := elem_withTok s e (storeTok slot pos x stamp retry)
    have halike : LoopAlike s (s.withTok e (storeTok slot pos x stamp retry)) e := loopAlike_modElem rfl rfl rfl
    obtain ⟨hlooped, hkept⟩ := looped_openLoop (s.withTok e (storeTok slot pos x stamp retry)) e slot pos x stamp
    have hbytes := ((InputStep.modElem s e _).trans (inputStep_openLoop (s.withTok e (storeTok slot pos x stamp retry)) e slot pos x stamp)).sameBytes
    have hspills : ((s.withTok e (storeTok slot pos x stamp retry)).elem e).spills = (s.elem e).spills := (congrArg ElemSt.spills helem :)
    rw [hspills] at hlooped
    refine ⟨?_, ?_, hbytes, hlooped.of_alike halike⟩
    · exact (congrArg ElemSt.store hkept :).trans (congrArg ElemSt.store helem :)
    · exact (congrArg ElemSt.combs hkept :).trans (congrArg ElemSt.combs helem :)

/-- R90: an accepted token changes of its element only the store and the entries of COMB and LOOP. -/
theorem elem_accept : { (s.accept e slot pos x stamp retry).elem e with store := (s.elem e).store, combs := (s.elem e).combs, loops := (s.elem e).loops } = s.elem e := by
  cases hreads : (s.elem e).active.reads slot pos with
  | false => rw [accept_unread stamp retry hreads, elem_failed, if_pos rfl]
  | true =>
    by_cases hop : (s.elem e).active.opcode slot = 0x09
    · by_cases hbad : x.kind = kArc ∨ some x.width ≠ fmtWidth (fmtOf ((s.elem e).active.fields slot))
      · rw [accept_combRefused stamp retry hreads hop hbad, elem_failed, if_pos rfl]
      · rw [accept_comb stamp retry hreads hop hbad, elem_combine]
    · rw [accept_plain stamp retry hreads hop]
      have helem := elem_withTok s e (storeTok slot pos x stamp retry)
      obtain ⟨-, hkept⟩ := looped_openLoop (s.withTok e (storeTok slot pos x stamp retry)) e slot pos x stamp
      have hall := hkept.trans helem
      exact (congrArg (fun z : ElemSt => { z with store := (s.elem e).store, combs := (s.elem e).combs, loops := (s.elem e).loops }) hall :)

end

end State

end Sys2Proof.Machine
end

section
/-! A token of the network or of a slot reaching an element (R90, R95 to R97, R415), and a FEED's (R196, R198, R219). -/

namespace Sys2Proof.Machine

namespace State

/-! ### Leaving the network (R85, R89) -/

theorem landed_eq (s : State) (k : Nat) (f : FlightSt) : (∃ th, s.landed k f = { s with flights := Table.erase s.flights k, threads := th }) ∧
    s.sameRegs (s.landed k f) := by
  unfold landed
  dsimp only
  split
  · obtain ⟨hregs, hmachine, -⟩ := retryWaiters_keeps { s with flights := Table.erase s.flights k } .fence
    generalize retryWaiters { s with flights := Table.erase s.flights k } .fence = t at hregs hmachine
    refine ⟨⟨t.threads, ?_⟩, hregs⟩
    exact (congrArg (fun u : State => { u with threads := t.threads }) hmachine :)
  · exact ⟨⟨s.threads, rfl⟩, fun _ _ => rfl⟩

theorem elem_landed (s : State) (k : Nat) (f : FlightSt) (d : Nat) : (s.landed k f).elem d = s.elem d := by
  obtain ⟨⟨th, heq⟩, -⟩ := s.landed_eq k f
  rw [heq]
  rfl

theorem inputAlike_landed (s : State) (k : Nat) (f : FlightSt) (e : Nat) : InputAlike s (s.landed k f) e := by
  obtain ⟨⟨th, heq⟩, -⟩ := s.landed_eq k f
  rw [heq]
  exact ⟨⟨rfl, rfl, rfl, fun _ => rfl⟩, rfl, rfl, rfl, fun _ => rfl⟩

/-- R85: the token has left the network, and a step at its element has followed. -/
theorem landed_step {s t : State} {k e : Nat} {f : FlightSt} (h : InputStep (s.landed k f) t e) :
    t.flights = Table.erase s.flights k ∧ (∀ d, d ≠ e → t.elem d = s.elem d) ∧ s.sameRegs t := by
  obtain ⟨⟨th, heq⟩, hregs⟩ := s.landed_eq k f
  refine ⟨h.flights.trans ?_, fun d hd => (h.others d hd).trans (s.elem_landed k f d), State.sameRegs_trans hregs h.regs⟩
  rw [heq]

/-- R89: a token that is gone, with nothing else changed but colours and threads that wait. -/
def Dropped (s t : State) (k : Nat) : Prop := t.flights = Table.erase s.flights k ∧ t.elems = s.elems ∧ s.sameBytes t ∧ s.sameRegs t

theorem Dropped.of_parts {s t u : State} {k : Nat} (h : Dropped s t k) (hu : { u with parts := [] } = { t with parts := [] }) : Dropped s u k := by
  obtain ⟨hflights, helems, hbytes, hregs⟩ := h
  refine ⟨(congrArg State.flights hu :).trans hflights, (congrArg State.elems hu :).trans helems, fun a => ?_, fun j r => ?_⟩
  · exact (congrArg (fun v : State => Memory.get v.mem a) hu :).trans (hbytes a)
  · exact (congrArg (fun v : State => v.gprOf j r) hu :).trans (hregs j r)

theorem Dropped.settleColour {s t : State} {k : Nat} (h : Dropped s t k) (p c : Nat) : Dropped s (t.settleColour p c) k := h.of_parts (settleColours_frame t p [c] [])

theorem dropped_landed (s : State) (k : Nat) (f : FlightSt) : Dropped s (s.landed k f) k := by
  obtain ⟨⟨th, heq⟩, hregs⟩ := s.landed_eq k f
  refine ⟨?_, ?_, fun a => ?_, hregs⟩ <;> rw [heq]

theorem dropped_erase (s : State) (k : Nat) : Dropped s { s with flights := Table.erase s.flights k } k := ⟨rfl, rfl, fun _ => rfl, fun _ _ => rfl⟩

/-! ### What a token at the input does (R95 to R97) -/

section
variable {s : State} {k e slot pos : Nat} {f : FlightSt} (hb : boundElem f.bound = some (e, slot, pos)) (hkind : f.token.kind ≠ kReap)
include hb hkind

theorem arrive_reaped (h : ((s.elem e).reaps.any fun r => reaps r f.token.tag) = true) :
    s.arrive k f = some ((s.landed k f).settleColour (s.elemPart e) (tagColour f.token.tag)) := by
  unfold arrive
  simp only [hb, if_neg hkind, h, if_true]

variable (hreaps : ((s.elem e).reaps.any fun r => reaps r f.token.tag) = false)
include hreaps

theorem arrive_back {r : Nat} (hback : s.spilledComb e slot pos f.token = some r) :
    s.arrive k f = if (s.elem e).reloadNext.contains r then none else some (s.askReload e (some r)) := by
  unfold arrive
  simp only [hb, if_neg hkind, hreaps, Bool.false_eq_true, if_false, hback]

variable (hback : s.spilledComb e slot pos f.token = none)
include hback

theorem arrive_taken (hgate : s.gateTakes e slot pos f.token f.isLocal = true) :
    s.arrive k f = some (((s.landed k f).accept e slot pos f.token s.cycle).askReload e (s.spilledKey e slot pos f.token.tag)) := by
  unfold arrive
  simp only [hb, if_neg hkind, hreaps, Bool.false_eq_true, if_false, hback, hgate, if_true]

variable (hgate : s.gateTakes e slot pos f.token f.isLocal = false)
include hgate

theorem arrive_spilled (hlocal : f.isLocal = true) {r : Nat} (hfree : s.freeSpill e = some r) : s.arrive k f =
    some (((s.landed k f).spillTok e r (.tok { slot := slot, pos := pos, token := f.token, stamp := s.cycle })).askReload e (s.spilledKey e slot pos f.token.tag)) := by
  rw [hlocal] at hgate
  unfold arrive
  simp only [hb, if_neg hkind, hreaps, Bool.false_eq_true, if_false, hback, hgate, hlocal, if_true, hfree]

theorem arrive_full (hlocal : f.isLocal = true) (hfree : s.freeSpill e = none) : s.arrive k f = none := by
  rw [hlocal] at hgate
  unfold arrive
  simp only [hb, if_neg hkind, hreaps, Bool.false_eq_true, if_false, hback, hgate, hlocal, if_true, hfree]

theorem arrive_network (hlocal : f.isLocal = false) : s.arrive k f =
    if !f.evicted && s.mayEvict e then some { s.evict e with flights := Table.put s.flights k { f with evicted := true } } else none := by
  rw [hlocal] at hgate
  unfold arrive
  simp only [hb, if_neg hkind, hreaps, Bool.false_eq_true, if_false, hback, hgate, hlocal]

end

/-! ### The step (R90) -/

/-- R85: a token for an element is on the lane channel or on the scale channel. -/
theorem bound_of_boundElem {b : Bound} {e slot pos : Nat} (h : boundElem b = some (e, slot, pos)) : b = .elem e slot pos ∨ b = .scale e slot pos := by
  cases b with
  | elem d a c =>
    obtain ⟨rfl, rfl, rfl⟩ : d = e ∧ a = slot ∧ c = pos := by simpa [boundElem] using h
    exact .inl rfl
  | scale d a c =>
    obtain ⟨rfl, rfl, rfl⟩ : d = e ∧ a = slot ∧ c = pos := by simpa [boundElem] using h
    exact .inr rfl
  | tile t a => exact nomatch h
  | share d => exact nomatch h

section
variable {s : State} {f : FlightSt} (hf : Table.find? s.flights s.focus.index = some f) (hfeed : f.feed = none) {e slot pos : Nat}
  (hb : boundElem f.bound = some (e, slot, pos)) (hkind : f.token.kind ≠ kReap)
include hf hfeed hb hkind

omit hkind in
theorem exec_arrival_waits (h : s.atInput s.focus.index f = false) : exec .tokenArrival s = .refused .notEnabled := by
  show execTokenArrival s = _
  unfold execTokenArrival
  simp only [hf, hfeed, h, Bool.not_false, or_true, if_true]
  obtain hbound | hbound := bound_of_boundElem hb
  · rw [hbound]
  · rw [hbound]

theorem exec_arrival (h : s.atInput s.focus.index f = true) : exec .tokenArrival s = match s.arrive s.focus.index f with
    | some t => .next t
    | none => .refused .notEnabled := by
  show execTokenArrival s = _
  unfold execTokenArrival
  simp only [hf, hfeed, h, hkind, Bool.not_true, Bool.false_eq_true, or_false, if_false]
  obtain hbound | hbound := bound_of_boundElem hb
  · rw [hbound] <;> rfl
  · rw [hbound] <;> rfl

theorem exec_arrival_some (h : s.atInput s.focus.index f = true) {t : State} (ht : s.arrive s.focus.index f = some t) : exec .tokenArrival s = .next t := by
  rw [exec_arrival hf hfeed hb hkind h, ht]

theorem exec_arrival_none (h : s.atInput s.focus.index f = true) (ht : s.arrive s.focus.index f = none) : exec .tokenArrival s = .refused .notEnabled := by
  rw [exec_arrival hf hfeed hb hkind h, ht]

end

/-! ### An evicting element (R97, R100) -/

theorem evict_eq {s : State} {e r : Nat} {v : Spillable} (hfree : s.freeSpill e = some r) (hv : evictee (s.elem e) = some v) :
    s.evict e = (s.modElem e fun y => lacking y v).spillTok e r v := by
  unfold evict
  simp only [hfree, hv]
  cases v <;> rfl

/-- R97: an element that evicts loses what it evicts, and writes its record. -/
theorem evict_says {s : State} {e r : Nat} {v : Spillable} (hfree : s.freeSpill e = some r) (hv : evictee (s.elem e) = some v) :
    (∀ d, d ≠ e → (s.evict e).elem d = s.elem d) ∧ s.sameRegs (s.evict e) ∧ Recorded s (s.evict e) e r v ∧ Lacks (s.elem e) v ((s.evict e).elem e) := by
  have helem := elem_modElem_same s e fun y => lacking y v
  have hframe := lacking_frame (s.elem e) v
  have hrecord := recorded_spillTok (s.modElem e fun y => lacking y v) e r v
  have hstep := inputStep_spillTok (s.modElem e fun y => lacking y v) e r v
  have hat := elem_spillTok (s.modElem e fun y => lacking y v) e r v
  have haddr : (s.modElem e fun y => lacking y v).spillAddr e r = s.spillAddr e r :=
    spillAddr_congr (s := s) (t := s.modElem e fun y => lacking y v) rfl rfl ((congrArg ElemSt.owner helem :).trans (congrArg ElemSt.owner hframe :)) r
  rw [evict_eq hfree hv]
  obtain ⟨hbytes, hread, hspills, hfreeAt⟩ := hrecord
  rw [haddr] at hbytes hread
  rw [helem] at hspills hfreeAt hat
  refine ⟨fun d hd => ?_, hstep.regs, ⟨hbytes, hread, hspills.trans ?_, hfreeAt.trans ?_⟩, ?_⟩
  · exact (hstep.others d hd).trans ((InputStep.modElem s e fun y => lacking y v).others d hd)
  · exact congrArg (· ++ _) (congrArg ElemSt.spills hframe :)
  · exact congrArg (fun n => max n s.cycle + 2) (congrArg ElemSt.spFree hframe :)
  · rw [hat]
    exact lacks_lacking (s.elem e) v

end State

end Sys2Proof.Machine
end

section
/-! What the arrival of a token leaves, case by case (R90, R96, R97). -/

namespace Sys2Proof.Machine

namespace State

/-- R97: the records asked for, with one more. -/
def asked (l : List Nat) (r : Option Nat) : List Nat :=
  match r with
  | some n => if n ∈ l then l else l ++ [n]
  | none => l

theorem elem_askReload_asked (s : State) (e : Nat) (r : Option Nat) : (s.askReload e r).elem e = { s.elem e with reloadNext := asked (s.elem e).reloadNext r } := by
  rw [elem_askReload]
  cases r <;> rfl

theorem fields_askReload (s : State) (e : Nat) (r : Option Nat) : (s.askReload e r).fields = s.fields := by
  cases r <;> rfl

section
variable {s t : State} {e slot pos stamp : Nat} {x : Token} {retry : Bool} {l : List SpillSt}

theorem Accepted.askReload (h : Accepted s t e slot pos x stamp retry l) (r : Option Nat) : Accepted s (t.askReload e r) e slot pos x stamp retry l := by
  have helem := t.elem_askReload_asked e r
  have hmem : (t.askReload e r).mem = t.mem := (t.inputStep_askReload e r).mem
  have hfield : ∀ q, (t.askReload e r).field q = t.field q := fun q => congrArg (fun m => (Table.getD m q {} : FieldSt)) (t.fields_askReload e r)
  simp only [Accepted, Faulted, Combined, Looped, sameBytes, helem, hmem, hfield] at h ⊢
  exact h

theorem Recorded.askReload {r : Nat} {v : Spillable} (h : Recorded s t e r v) (q : Option Nat) : Recorded s (t.askReload e q) e r v := by
  have helem := t.elem_askReload_asked e q
  have hmem : (t.askReload e q).mem = t.mem := (t.inputStep_askReload e q).mem
  simp only [Recorded, sameBytesBut, helem, hmem] at h ⊢
  exact h

theorem Recorded.of_landed {k r : Nat} {f : FlightSt} {v : Spillable} (h : Recorded (s.landed k f) t e r v) : Recorded s t e r v := by
  obtain ⟨⟨th, heq⟩, -⟩ := s.landed_eq k f
  rw [heq] at h
  exact h

theorem cycle_landed (s : State) (k : Nat) (f : FlightSt) : (s.landed k f).cycle = s.cycle := by
  obtain ⟨⟨th, heq⟩, -⟩ := s.landed_eq k f
  rw [heq]

end

section
variable {s : State} {f : FlightSt} {e slot pos : Nat}

theorem reaps_any_iff (y : ElemSt) (g : Tag) : (y.reaps.any fun r => reaps r g) = true ↔ ∃ r ∈ y.reaps, reaps r g = true := List.any_eq_true

theorem reaps_any_false {y : ElemSt} {g : Tag} (h : ∀ r ∈ y.reaps, reaps r g = false) : (y.reaps.any fun r => reaps r g) = false := by
  rw [List.any_eq_false]
  exact fun r hr => by rw [h r hr]; exact Bool.false_ne_true

/-- R90: a token that lands and is accepted. -/
theorem landed_accept (k : Nat) (stamp : Nat) (again : Option Nat) : let t := ((s.landed k f).accept e slot pos f.token stamp).askReload e again
    t.flights = Table.erase s.flights k ∧ ((∀ d, d ≠ e → t.elem d = s.elem d) ∧ s.sameRegs t) ∧ Accepted s t e slot pos f.token stamp false (s.elem e).spills ∧
      (t.elem e).reloadNext = asked (s.elem e).reloadNext again := by
  obtain ⟨hflights, hothers, hregs⟩ := landed_step (((s.landed k f).inputStep_accept e slot pos f.token stamp false).trans (inputStep_askReload _ e again))
  have hacc := (s.landed k f).accepted_accept e slot pos f.token stamp false
  have helem := (s.landed k f).elem_accept e slot pos f.token stamp false
  rw [s.elem_landed k f e] at hacc helem
  refine ⟨hflights, ⟨hothers, hregs⟩, (hacc.of_alike (s.inputAlike_landed k f e)).askReload again, ?_⟩
  rw [elem_askReload_asked]
  exact congrArg (fun l => asked l again) (congrArg ElemSt.reloadNext helem :)

/-- R97: a local result that lands in the spill area. -/
theorem landed_spill (k r : Nat) (v : Spillable) (again : Option Nat) : let t := ((s.landed k f).spillTok e r v).askReload e again
    t.flights = Table.erase s.flights k ∧ ((∀ d, d ≠ e → t.elem d = s.elem d) ∧ s.sameRegs t) ∧ Recorded s t e r v ∧ (t.elem e).store = (s.elem e).store ∧
      (t.elem e).reloadNext = asked (s.elem e).reloadNext again := by
  have hstep := ((s.landed k f).inputStep_spillTok e r v).trans (inputStep_askReload _ e again)
  have hwritten : InputStep (s.landed k f) { s.landed k f with mem := (s.landed k f).mem } e := ⟨fun _ _ => rfl, fun _ _ => rfl, rfl⟩
  have hrecord := ((s.landed k f).recorded_spillTok e r v).of_landed.askReload again
  obtain ⟨hflights, hothers, hregs⟩ := landed_step hwritten
  refine ⟨hstep.flights.trans hflights, ⟨fun d hd => (hstep.others d hd).trans (s.elem_landed k f d), State.sameRegs_trans hregs hstep.regs⟩, hrecord, ?_, ?_⟩
  · rw [elem_askReload_asked, elem_spillTok, elem_landed]
  · rw [elem_askReload_asked, elem_spillTok, elem_landed]

end

theorem gateTakes_false {s : State} {e slot pos : Nat} {x : Token} {near : Bool} (h : ¬ Gate s e slot pos x near) : s.gateTakes e slot pos x near = false :=
  Bool.eq_false_iff.mpr (mt (gateTakes_iff _ _ _ _ _ _).mp h)

/-! ### A token that is not a FEED's -/

section
variable {s : State} {f : FlightSt} (hf : Table.find? s.flights s.focus.index = some f) (hfeed : f.feed = none) {e slot pos : Nat}
  (hb : boundElem f.bound = some (e, slot, pos)) (hkind : f.token.kind ≠ kReap) (hat : s.atInput s.focus.index f = true)
include hf hfeed hb hkind hat

/-- R95: a token that a filter names is destroyed. -/
theorem arrival_reaped (h : ∃ r ∈ (s.elem e).reaps, reaps r f.token.tag = true) : ∃ t, exec .tokenArrival s = .next t ∧ Dropped s t s.focus.index :=
  ⟨_, exec_arrival_some hf hfeed hb hkind hat (arrive_reaped hb hkind ((reaps_any_iff _ _).mpr h)), (dropped_landed _ _ _).settleColour _ _⟩

variable (hreaps : ∀ r ∈ (s.elem e).reaps, reaps r f.token.tag = false)
include hreaps

/-- R97, R100: a token of COMB waits for its entry's record. -/
theorem arrival_back {r : Nat} (hback : s.spilledComb e slot pos f.token = some r) :
    (r ∈ (s.elem e).reloadNext → exec .tokenArrival s = .refused .notEnabled) ∧
    (r ∉ (s.elem e).reloadNext → ∃ t, exec .tokenArrival s = .next t ∧ ((∀ d, d ≠ e → t.elem d = s.elem d) ∧ s.sameRegs t) ∧
      t.elem e = { s.elem e with reloadNext := (s.elem e).reloadNext ++ [r] } ∧ { t with elems := s.elems } = s) := by
  have harrive := arrive_back (k := s.focus.index) hb hkind (reaps_any_false hreaps) hback
  refine ⟨fun hmem => exec_arrival_none hf hfeed hb hkind hat ?_, fun hnot => ⟨s.askReload e (some r), exec_arrival_some hf hfeed hb hkind hat ?_, ?_, ?_, rfl⟩⟩
  · rw [harrive, if_pos (List.contains_iff_mem.mpr hmem)]
  · rw [harrive, if_neg (mt List.contains_iff_mem.mp hnot)]
  · exact ⟨(inputStep_askReload s e _).others, (inputStep_askReload s e _).regs⟩
  · rw [elem_askReload_asked, asked, if_neg hnot]

variable (hback : s.spilledComb e slot pos f.token = none)
include hback

theorem arrival_taken (hgate : Gate s e slot pos f.token f.isLocal) : ∃ t, exec .tokenArrival s = .next t ∧ t.flights = Table.erase s.flights s.focus.index ∧
    ((∀ d, d ≠ e → t.elem d = s.elem d) ∧ s.sameRegs t) ∧ Accepted s t e slot pos f.token s.cycle false (s.elem e).spills ∧
    (t.elem e).reloadNext = asked (s.elem e).reloadNext (s.spilledKey e slot pos f.token.tag) :=
  ⟨_, exec_arrival_some hf hfeed hb hkind hat (arrive_taken hb hkind (reaps_any_false hreaps) hback ((gateTakes_iff _ _ _ _ _ _).mpr hgate)), landed_accept _ _ _⟩

variable (hgate : ¬ Gate s e slot pos f.token f.isLocal)
include hgate

/-- R97: a local result that the gate keeps out is spilled. -/
theorem arrival_local (hlocal : f.isLocal = true) :
    (∀ r, s.freeSpill e = some r → ∃ t, exec .tokenArrival s = .next t ∧ t.flights = Table.erase s.flights s.focus.index ∧
      ((∀ d, d ≠ e → t.elem d = s.elem d) ∧ s.sameRegs t) ∧ Recorded s t e r (.tok { slot := slot, pos := pos, token := f.token, stamp := s.cycle }) ∧
      (t.elem e).store = (s.elem e).store ∧ (t.elem e).reloadNext = asked (s.elem e).reloadNext (s.spilledKey e slot pos f.token.tag)) ∧
    (s.freeSpill e = none → exec .tokenArrival s = .refused .notEnabled) := by
  have hshut := gateTakes_false hgate
  have hnone := reaps_any_false hreaps
  refine ⟨fun r hfree => ⟨_, exec_arrival_some hf hfeed hb hkind hat (arrive_spilled hb hkind hnone hback hshut hlocal hfree), landed_spill _ _ _ _⟩,
    fun hfull => exec_arrival_none hf hfeed hb hkind hat (arrive_full hb hkind hnone hback hshut hlocal hfull)⟩

/-- R97: a network token that the gate keeps out makes its element evict, once. -/
theorem arrival_network (hlocal : f.isLocal = false) :
    ((f.evicted = true ∨ s.cycle < (s.elem e).spFree ∨ State.evictee (s.elem e) = none ∨ (∃ v, State.evictee (s.elem e) = some v ∧ ¬ Room s e v)) →
      exec .tokenArrival s = .refused .notEnabled) ∧
    (f.evicted = false → (s.elem e).spFree ≤ s.cycle → ∀ v, State.evictee (s.elem e) = some v → Room s e v →
      ∃ t r, exec .tokenArrival s = .next t ∧ s.freeSpill e = some r ∧ ((∀ d, d ≠ e → t.elem d = s.elem d) ∧ s.sameRegs t) ∧ Recorded s t e r v ∧
        Lacks (s.elem e) v (t.elem e) ∧ Table.find? t.flights s.focus.index = some { f with evicted := true }) := by
  have hshut := gateTakes_false hgate
  have harrive := arrive_network (k := s.focus.index) hb hkind (reaps_any_false hreaps) hback hshut hlocal
  refine ⟨fun hwaits => exec_arrival_none hf hfeed hb hkind hat ?_, fun hfirst hport v hv hroom => ?_⟩
  · rw [harrive, if_neg]
    rw [Bool.and_eq_true, Bool.not_eq_true', mayEvict_iff]
    rintro ⟨hfirst, v, hv, hport, hroom⟩
    rcases hwaits with h | h | h | ⟨w, hw, hnoroom⟩
    · exact nomatch hfirst.symm.trans h
    · omega
    · exact nomatch hv.symm.trans h
    · obtain rfl := Option.some.inj (hv.symm.trans hw)
      exact hnoroom hroom
  · have hneed := (room_iff s e v).mp hroom
    obtain ⟨r, hfree⟩ := freeSpill_of_spillsFree (s := s) (e := e) (by omega)
    obtain ⟨hothers, hregs, hrecord, hlacks⟩ := evict_says hfree hv
    have hmay : (!f.evicted && s.mayEvict e) = true := by
      rw [hfirst, (mayEvict_iff s e).mpr ⟨v, hv, hport, hroom⟩]
      rfl
    refine ⟨_, r, exec_arrival_some hf hfeed hb hkind hat (harrive.trans (if_pos hmay)), hfree, ⟨hothers, hregs⟩, hrecord, hlacks, ?_⟩
    show Table.find? (Table.put _ _ _) _ = _
    rw [Table.find?_put, if_pos rfl]

end

/-! ### A token for a share unit (R47) -/

theorem arrival_share {s : State} {f : FlightSt} {e : Nat} (hf : Table.find? s.flights s.focus.index = some f) (hb : f.bound = .share e) (hfeed : f.feed = none)
    (hat : f.at_ ≤ s.cycle) (horder : s.overtakes s.focus.index f = false) (hactive : s.elemActive e = true) :
    ∃ t, exec .tokenArrival s = .next t ∧ Dropped s t s.focus.index := by
  have htakes : s.shareTakes s.focus.index e f = some (State.settleColour { s with flights := Table.erase s.flights s.focus.index } (s.elemPart e) (tagColour f.token.tag)) :=
    if_pos ⟨hat, by rw [horder]; rfl, hactive⟩
  have hexec : exec .tokenArrival s = .next (State.settleColour { s with flights := Table.erase s.flights s.focus.index } (s.elemPart e) (tagColour f.token.tag)) := by
    show execTokenArrival s = _
    unfold execTokenArrival
    simp only [hf, hfeed, hb, htakes]
  exact ⟨_, hexec, (dropped_erase s s.focus.index).settleColour _ _⟩

end State

end Sys2Proof.Machine
end

section
/-! The arrival of a FEED's token (R196, R198, R219). -/

namespace Sys2Proof.Machine

namespace Table

variable {α : Type} {m : Table α} {k : Nat} {v : α}

/-- In a sorted table every entry is found. -/
theorem find?_iff_mem (h : sorted m = true) : find? m k = some v ↔ (k, v) ∈ m := by
  refine ⟨mem_of_find?, fun hmem => ?_⟩
  rw [sorted_iff] at h
  induction m with
  | nil => exact nomatch hmem
  | cons p m ih =>
    obtain ⟨j, w⟩ := p
    obtain ⟨hfirst, hrest⟩ := List.pairwise_cons.mp h
    obtain heq | hmem := List.mem_cons.mp hmem
    · obtain ⟨rfl, rfl⟩ := Prod.mk.inj heq
      exact if_pos rfl
    · have hlt : j < k := hfirst _ hmem
      exact (if_neg (by omega)).trans (ih hrest hmem)

theorem sorted_filter (p : Nat × α → Bool) (h : sorted m = true) : sorted (m.filter p) = true := by
  rw [sorted_iff] at h ⊢
  exact h.filter p

theorem find?_filter (p : Nat × α → Bool) (h : sorted m = true) : find? (m.filter p) k = some v ↔ find? m k = some v ∧ p (k, v) = true := by
  rw [find?_iff_mem (sorted_filter p h), find?_iff_mem h]
  exact List.mem_filter

end Table

namespace State

/-! ### A rank that stops (R196) -/

/-- R196: a token of a FEED's rank. -/
def ofRank (n plot rank : Nat) (g : FlightSt) : Bool :=
  match g.feed with
  | some (m, p, r, _) => m == n && p == plot && r == rank
  | none => false

theorem ofRank_false_iff (n plot rank : Nat) (g : FlightSt) : (!ofRank n plot rank g) = true ↔ ∀ l, g.feed ≠ some (n, plot, rank, l) := by
  rw [ofRank]
  cases g.feed with
  | none => exact ⟨fun _ l h => (nomatch h), fun _ => rfl⟩
  | some q =>
    obtain ⟨m, p, r, j⟩ := q
    simp only [Bool.not_eq_true', Bool.and_eq_false_iff, beq_eq_false_iff_ne, Option.some.injEq, Prod.mk.injEq, ne_eq]
    constructor
    · rintro h l ⟨rfl, rfl, rfl, -⟩
      simp at h
    · intro h
      by_contra hnot
      simp only [not_or, not_not] at hnot
      exact h j ⟨hnot.1.1, hnot.1.2, hnot.2, rfl⟩

/-- R196: the rider of a FEED whose rank is refused. -/
def rankRefused (r : RiderSt) (plot rank j : Nat) : RiderSt :=
  if r.refused.any fun x => x.1 == plot && x.2.1 == rank then { r with twice := (plot, rank) :: r.twice }
  else { r with refused := (plot, rank, j) :: r.refused, again := (plot, rank) :: r.again }

/-- R196: the network without a rank's tokens, their colours settled. -/
def rankGone (s : State) (n plot rank : Nat) : State :=
  (s.flights.filter fun g => ofRank n plot rank g.2).foldl (fun st g => st.settleColour (s.boundPart g.2.bound) (tagColour g.2.token.tag))
    { s with flights := s.flights.filter fun g => !ofRank n plot rank g.2 }

theorem rankGone_frame (s : State) (n plot rank : Nat) : { s.rankGone n plot rank with parts := [] } =
    { s with flights := s.flights.filter fun g => !ofRank n plot rank g.2, parts := [] } :=
  foldl_keeps (g := fun st : State => { st with parts := [] }) (f := fun st (g : Nat × FlightSt) => st.settleColour (s.boundPart g.2.bound) (tagColour g.2.token.tag))
    (fun st _ => settleColours_frame st _ [_] []) _ _

theorem refuseFeed_eq (s : State) (n plot rank j : Nat) : s.refuseFeed n plot rank j = match Table.find? (s.rankGone n plot rank).riders n with
    | none => s.rankGone n plot rank
    | some r => { s.rankGone n plot rank with riders := Table.put (s.rankGone n plot rank).riders n (rankRefused r plot rank j) } := rfl

/-- R196: a refusal takes the rank's tokens off the network, and notes it with the rider. -/
theorem refuseFeed_says (s : State) (n plot rank j : Nat) : let t := s.refuseFeed n plot rank j
    t.elems = s.elems ∧ s.sameBytes t ∧ t.flights = (s.flights.filter fun g => !ofRank n plot rank g.2) ∧
      ∀ r, Table.find? s.riders n = some r → Table.find? t.riders n = some (rankRefused r plot rank j) := by
  have hframe := s.rankGone_frame n plot rank
  have helems : (s.rankGone n plot rank).elems = s.elems := (congrArg State.elems hframe :)
  have hbytes : s.sameBytes (s.rankGone n plot rank) := fun a => (congrArg (fun v : State => Memory.get v.mem a) hframe :)
  have hflights : (s.rankGone n plot rank).flights = s.flights.filter fun g => !ofRank n plot rank g.2 := (congrArg State.flights hframe :)
  have hriders : (s.rankGone n plot rank).riders = s.riders := (congrArg State.riders hframe :)
  rw [refuseFeed_eq, hriders]
  cases h : Table.find? s.riders n with
  | none => exact ⟨helems, hbytes, hflights, fun r hr => nomatch hr⟩
  | some r =>
    refine ⟨helems, hbytes, hflights, fun q hq => ?_⟩
    obtain rfl := Option.some.inj hq
    show Table.find? (Table.put _ _ _) n = _
    rw [Table.find?_put, if_pos rfl]

theorem refused_any_iff (r : RiderSt) (plot rank : Nat) : (r.refused.any fun x => x.1 == plot && x.2.1 == rank) = true ↔ ∃ l, (plot, rank, l) ∈ r.refused := by
  simp only [List.any_eq_true, Bool.and_eq_true, beq_iff_eq, Prod.exists]
  constructor
  · rintro ⟨_, _, l, hmem, rfl, rfl⟩
    exact ⟨l, hmem⟩
  · rintro ⟨l, hmem⟩
    exact ⟨_, _, l, hmem, rfl, rfl⟩

/-- R196: what the refusal of a FEED's token leaves. -/
def Refused (s t : State) (k n plot rank j : Nat) : Prop :=
  t.elems = s.elems ∧ s.sameBytes t ∧ (∀ m z, Table.find? t.flights m = some z ↔ m ≠ k ∧ Table.find? s.flights m = some z ∧
      ∀ l, z.feed ≠ some (n, plot, rank, l)) ∧ ∀ r, Table.find? s.riders n = some r → let before := ∃ l, (plot, rank, l) ∈ r.refused
    (before → Table.find? t.riders n = some { r with twice := (plot, rank) :: r.twice }) ∧
    (¬ before → Table.find? t.riders n = some { r with refused := (plot, rank, j) :: r.refused, again := (plot, rank) :: r.again })

/-- R89: the state of a FEED's token that is gone. -/
def feedGone (s : State) (k e : Nat) (f : FlightSt) : State :=
  State.settleColour { s with flights := Table.erase s.flights k } (s.elemPart e) (tagColour f.token.tag)

theorem feedGone_frame (s : State) (k e : Nat) (f : FlightSt) : { s.feedGone k e f with parts := [] } = { s with flights := Table.erase s.flights k, parts := [] } :=
  settleColours_frame { s with flights := Table.erase s.flights k } _ [_] []

theorem dropped_feedGone (s : State) (k e : Nat) (f : FlightSt) : Dropped s (s.feedGone k e f) k := (dropped_erase s k).settleColour _ _

theorem refused_refuseFeed {s : State} {k e n plot rank j : Nat} {f : FlightSt} (hsorted : Table.sorted s.flights = true) :
    Refused s ((s.feedGone k e f).refuseFeed n plot rank j) k n plot rank j := by
  have hframe := s.feedGone_frame k e f
  have hflights : (s.feedGone k e f).flights = Table.erase s.flights k := (congrArg State.flights hframe :)
  have hriders : (s.feedGone k e f).riders = s.riders := (congrArg State.riders hframe :)
  have helems : (s.feedGone k e f).elems = s.elems := (congrArg State.elems hframe :)
  have hmem : (s.feedGone k e f).mem = s.mem := (congrArg State.mem hframe :)
  obtain ⟨hkept, hbytes, hleft, hnoted⟩ := (s.feedGone k e f).refuseFeed_says n plot rank j
  rw [hflights] at hleft
  rw [hriders] at hnoted
  refine ⟨hkept.trans helems, fun a => (hbytes a).trans (by rw [hmem]), fun m z => ?_, fun r hr => ⟨fun hbefore => ?_, fun hfirst => ?_⟩⟩
  · rw [hleft, Table.find?_filter _ (Table.sorted_erase hsorted), ofRank_false_iff, Table.find?_erase]
    by_cases hm : k = m
    · simp [hm]
    · simp [hm, Ne.symm hm]
  · rw [hnoted r hr, rankRefused, if_pos ((refused_any_iff _ _ _).mpr hbefore)]
  · rw [hnoted r hr, rankRefused, if_neg (mt (refused_any_iff _ _ _).mp hfirst)]

/-- R219: a dropped rank is noted with the rider, once. -/
theorem dropFeed_says (s : State) (n plot rank : Nat) : ∃ rs, s.dropFeed n plot rank = { s with riders := rs } ∧
    ∀ r, Table.find? s.riders n = some r → ∃ z, Table.find? rs n = some z ∧ (plot, rank) ∈ z.dropped ∧ { z with dropped := r.dropped } = r := by
  unfold dropFeed
  cases h : Table.find? s.riders n with
  | none => exact ⟨s.riders, rfl, fun r hr => nomatch hr⟩
  | some r =>
    dsimp only
    split
    · next hin =>
      refine ⟨s.riders, rfl, fun q hq => ?_⟩
      obtain rfl := Option.some.inj hq
      exact ⟨r, h, List.contains_iff_mem.mp hin, rfl⟩
    · refine ⟨_, rfl, fun q hq => ?_⟩
      obtain rfl := Option.some.inj hq
      exact ⟨_, (Table.find?_put _ _ _ _).trans (if_pos rfl), List.mem_cons_self, rfl⟩

/-! ### The step (R196, R198, R219) -/

/-- R196, R198: a FEED's token is refused, for its element's tenant, its input or its field. -/
def feedStopped (s : State) (e n : Nat) : Bool :=
  !s.feedOpen e n || s.inputClosed e || match s.fieldAt e with
    | some q => s.fieldGated q
    | none => false

theorem feedStopped_iff (s : State) (e n : Nat) : s.feedStopped e n = true ↔ s.elemActive e = false ∨
    (∃ r, Table.find? s.riders n = some r ∧ (s.elem e).owner ≠ r.tenant) ∨ s.inputClosed e = true ∨ ∃ q, s.fieldAt e = some q ∧ s.fieldGated q = true := by
  have hopen : (!s.feedOpen e n) = true ↔ s.elemActive e = false ∨ ∃ r, Table.find? s.riders n = some r ∧ (s.elem e).owner ≠ r.tenant := by
    rw [feedOpen, Bool.not_and, Bool.or_eq_true, Bool.not_eq_true']
    refine or_congr_right ?_
    cases Table.find? s.riders n with
    | none => exact ⟨fun h => (nomatch h), fun ⟨r, h, _⟩ => (nomatch h)⟩
    | some r => simp
  have hfield : (match s.fieldAt e with
      | some q => s.fieldGated q
      | none => false) = true ↔ ∃ q, s.fieldAt e = some q ∧ s.fieldGated q = true := by
    cases s.fieldAt e with
    | none => exact ⟨fun h => (nomatch h), fun ⟨r, h, _⟩ => (nomatch h)⟩
    | some q => simp
  rw [feedStopped, Bool.or_eq_true, Bool.or_eq_true, hopen, hfield, or_assoc, or_assoc]

section
variable {s : State} {k e slot pos n plot rank j : Nat} {f : FlightSt} (hb : boundElem f.bound = some (e, slot, pos))
include hb

theorem feedArrive_stopped (h : s.feedStopped e n = true) : s.feedArrive k f n plot rank j = (s.feedGone k e f).refuseFeed n plot rank j := by
  unfold feedArrive
  simp only [hb]
  exact if_pos h

variable (hruns : s.feedStopped e n = false)
include hruns

theorem feedArrive_runs : s.feedArrive k f n plot rank j =
    if !(s.elem e).active.reads slot pos then (s.feedGone k e f).dropFeed n plot rank
    else if (s.elem e).reaps.any fun r => reaps r f.token.tag then s.feedGone k e f
    else if s.gateTakes e slot pos f.token false then State.accept { s with flights := Table.erase s.flights k } e slot pos f.token s.cycle
    else (s.feedGone k e f).refuseFeed n plot rank j := by
  unfold feedArrive
  simp only [hb]
  exact if_neg (Bool.eq_false_iff.mp hruns)

end

section
variable {s : State} {e slot pos n plot rank j : Nat} {f : FlightSt} (hf : Table.find? s.flights s.focus.index = some f)
  (hfeed : f.feed = some (n, plot, rank, j)) (hat : f.at_ ≤ s.cycle) (horder : s.overtakes s.focus.index f = false)
include hf hfeed hat horder

theorem exec_feedArrival : exec .tokenArrival s = .next (s.feedArrive s.focus.index f n plot rank j) := by
  show execTokenArrival s = _
  unfold execTokenArrival
  simp only [hf, hfeed]
  exact if_pos ⟨hat, by rw [horder]; rfl⟩

variable (hb : boundElem f.bound = some (e, slot, pos))
include hb

theorem feed_stopped (hsorted : Table.sorted s.flights = true) (h : s.feedStopped e n = true) :
    ∃ t, exec .tokenArrival s = .next t ∧ Refused s t s.focus.index n plot rank j := by
  refine ⟨_, exec_feedArrival hf hfeed hat horder, ?_⟩
  rw [feedArrive_stopped hb h]
  exact refused_refuseFeed hsorted

variable (hruns : s.feedStopped e n = false)
include hruns

/-- R219: a FEED's token for a position that is not read. -/
theorem feed_unread (hreads : (s.elem e).active.reads slot pos = false) : ∃ t, exec .tokenArrival s = .next t ∧ Dropped s t s.focus.index ∧
    ∀ r, Table.find? s.riders n = some r → ∃ z, Table.find? t.riders n = some z ∧ (plot, rank) ∈ z.dropped ∧ { z with dropped := r.dropped } = r := by
  obtain ⟨rs, heq, hriders⟩ := (s.feedGone s.focus.index e f).dropFeed_says n plot rank
  have hsame : (s.feedGone s.focus.index e f).riders = s.riders := (congrArg State.riders (s.feedGone_frame s.focus.index e f) :)
  rw [hsame] at hriders
  refine ⟨_, exec_feedArrival hf hfeed hat horder, ?_⟩
  rw [feedArrive_runs hb hruns, hreads, Bool.not_false, if_pos rfl, heq]
  exact ⟨dropped_feedGone _ _ _ _, hriders⟩

variable (hreads : (s.elem e).active.reads slot pos = true)
include hreads

theorem feed_reaped (h : ∃ r ∈ (s.elem e).reaps, reaps r f.token.tag = true) : ∃ t, exec .tokenArrival s = .next t ∧ Dropped s t s.focus.index := by
  refine ⟨_, exec_feedArrival hf hfeed hat horder, ?_⟩
  rw [feedArrive_runs hb hruns, hreads, Bool.not_true, if_neg Bool.false_ne_true, if_pos ((reaps_any_iff _ _).mpr h)]
  exact dropped_feedGone _ _ _ _

variable (hreaps : ∀ r ∈ (s.elem e).reaps, reaps r f.token.tag = false)
include hreaps

omit hf hfeed hat horder in
theorem feedArrive_unreaped : s.feedArrive s.focus.index f n plot rank j =
    if s.gateTakes e slot pos f.token false then State.accept { s with flights := Table.erase s.flights s.focus.index } e slot pos f.token s.cycle
    else (s.feedGone s.focus.index e f).refuseFeed n plot rank j := by
  rw [feedArrive_runs hb hruns, hreads, Bool.not_true, if_neg Bool.false_ne_true, reaps_any_false hreaps, if_neg Bool.false_ne_true]

/-- R219: a FEED's token that the gate takes. -/
theorem feed_taken (hgate : Gate s e slot pos f.token false) : ∃ t, exec .tokenArrival s = .next t ∧ t.flights = Table.erase s.flights s.focus.index ∧
    ((∀ d, d ≠ e → t.elem d = s.elem d) ∧ s.sameRegs t) ∧ Accepted s t e slot pos f.token s.cycle false (s.elem e).spills := by
  have hstep := inputStep_accept { s with flights := Table.erase s.flights s.focus.index } e slot pos f.token s.cycle false
  have hacc := accepted_accept { s with flights := Table.erase s.flights s.focus.index } e slot pos f.token s.cycle false
  refine ⟨_, exec_feedArrival hf hfeed hat horder, ?_⟩
  rw [feedArrive_unreaped hb hruns hreads hreaps, if_pos ((gateTakes_iff _ _ _ _ _ _).mpr hgate)]
  exact ⟨hstep.flights, ⟨hstep.others, hstep.regs⟩, hacc⟩

/-- R196: a FEED's token that the gate keeps out. -/
theorem feed_refused (hsorted : Table.sorted s.flights = true) (hgate : ¬ Gate s e slot pos f.token false) :
    ∃ t, exec .tokenArrival s = .next t ∧ Refused s t s.focus.index n plot rank j := by
  refine ⟨_, exec_feedArrival hf hfeed hat horder, ?_⟩
  rw [feedArrive_unreaped hb hruns hreads hreaps, gateTakes_false hgate, if_neg Bool.false_ne_true]
  exact refused_refuseFeed hsorted

end

end State

end Sys2Proof.Machine
end

section
/-! Reloading (R97, R100, R132), reap tokens and their filters (R95, R131), and MATCH_EXHAUSTED (R98). -/

namespace Sys2Proof.Machine

namespace State

/-! ### RELOAD (R97) -/

/-- R350: the token that a spill record holds, as it stands in the store. -/
def recordTok (s : State) (e : Nat) (r : SpillSt) : StoreTok := let w := Memory.read s.mem (s.spillAddr e r.record) 256
  { slot := bits w 96 4, pos := bits w 104 8, token := recordToken w, stamp := r.since - bits w 128 64, faulted := w.testBit 112, retry := r.retry }

/-- R350: the COMB entry that a spill record holds. -/
def recordComb (s : State) (e : Nat) (r : SpillSt) : CombSt := let v := s.recordTok e r
  { slot := v.slot, tag := v.token.tag, width := v.token.width, taken := bits (Memory.read s.mem (s.spillAddr e r.record) 256) 192 16, valid := v.token.valid,
    payload := v.token.payload.toNat, allEos := v.token.kind == kEos, stamp := v.stamp }

/-- R97, R100, R132: what the reload of a record leaves. -/
def Reloaded (s t : State) (e : Nat) (r : SpillSt) : Prop :=
  let y := s.elem e; let w := Memory.read s.mem (s.spillAddr e r.record) 256; let v := s.recordTok e r
  let rest := y.spills.filter (fun z => z.record != r.record)
  ((∀ d, d ≠ e → t.elem d = s.elem d) ∧ s.sameRegs t) ∧ (w.testBit 113 = true → s.sameBytes t ∧ (t.elem e).store = y.store ∧ (t.elem e).combs = y.combs ++ [s.recordComb e r]) ∧
    (w.testBit 113 = false → y.active.opcode v.slot = 0x09 → Accepted s t e v.slot v.pos v.token v.stamp v.retry rest) ∧
    (w.testBit 113 = false → y.active.opcode v.slot ≠ 0x09 → s.sameBytes t ∧ Looped s t e v.slot v.pos v.token v.stamp rest ∧ ∃ A B, y.store = A ++ B ∧
      (t.elem e).store = A ++ v :: B ∧ (∀ u ∈ A, u.stamp ≤ v.stamp) ∧ (∀ u ∈ B.head?, v.stamp < u.stamp)) ∧ (t.elem e).spills = rest ∧
    (t.elem e).reloadNext = y.reloadNext.filter (fun m => m != r.record) ∧
    (t.elem e).spFree = max y.spFree s.cycle + 2

theorem bits_one_eq (w n : Nat) : (bits w n 1 = 1) = (w.testBit n = true) := by
  rw [Nat.testBit_eq_decide_div_mod_eq, decide_eq_true_eq]
  rfl

theorem bits_one_beq (w n : Nat) : (bits w n 1 == 1) = w.testBit n := by
  rw [Bool.eq_iff_iff, beq_iff_eq, bits_one_eq]

theorem inputAlike_unspill (s : State) (e : Nat) (r : SpillSt) : InputAlike s (s.unspill e r) e := by
  have helem := s.elem_unspill e r
  have hstep := s.inputStep_unspill e r
  have hrest : (s.unspill e r).slotRest = s.slotRest := by
    unfold unspill
    obtain ⟨fs, heq, -⟩ := noteFull_eq (s.modElem e fun x : ElemSt =>
      { x with spills := x.spills.filter fun y => y.record != r.record, reloadNext := x.reloadNext.filter fun n => n != r.record, spFree := max x.spFree s.cycle + 2 }) e
    rw [heq]
    rfl
  refine ⟨⟨by rw [helem], by rw [helem], hstep.mem, spillAddr_congr hrest (s.ownCores_unspill e r) (by rw [helem])⟩, by rw [helem], by rw [helem], ?_, s.fault_unspill e r⟩
  rw [fieldAt, helem, fieldAt]

/-- R97: a record that comes back as a COMB entry, as a token for COMB, or as another token. -/
theorem reloadRecord_entry {s : State} {e : Nat} {r : SpillSt} (h : (s.spillWord e r).testBit 113 = true) : s.reloadRecord e r =
    (s.unspill e r).modElem e fun x => { x with combs := x.combs ++ [s.recordComb e r] } :=
  if_pos ((bits_one_eq _ _).mpr h)

theorem reloadRecord_comb {s : State} {e : Nat} {r : SpillSt} (h : (s.spillWord e r).testBit 113 = false)
    (hop : (s.elem e).active.opcode (s.recordTok e r).slot = 0x09) : s.reloadRecord e r =
      (s.unspill e r).accept e (s.recordTok e r).slot (s.recordTok e r).pos (s.recordTok e r).token (s.recordTok e r).stamp r.retry :=
  (if_neg (by rw [bits_one_eq, h]; exact Bool.false_ne_true)).trans (if_pos hop)

theorem reloadRecord_token {s : State} {e : Nat} {r : SpillSt} (h : (s.spillWord e r).testBit 113 = false)
    (hop : (s.elem e).active.opcode (s.recordTok e r).slot ≠ 0x09) : s.reloadRecord e r =
      openLoop ((s.unspill e r).modElem e fun x => { x with store := insertTok (s.recordTok e r) x.store }) e (s.recordTok e r).slot (s.recordTok e r).pos
        (s.recordTok e r).token (s.recordTok e r).stamp := by
  refine (if_neg (by rw [bits_one_eq, h]; exact Bool.false_ne_true)).trans ((if_neg hop).trans ?_)
  rw [bits_one_beq]
  rfl

theorem reloaded_entry {s : State} {e : Nat} {r : SpillSt} (h : (s.spillWord e r).testBit 113 = true) : Reloaded s (s.reloadRecord e r) e r := by
  have hstep := s.inputStep_unspill e r
  rw [reloadRecord_entry h]
  have hboth := hstep.trans (.modElem _ e fun x => { x with combs := x.combs ++ [s.recordComb e r] })
  have helem := elem_modElem_same (s.unspill e r) e fun x => { x with combs := x.combs ++ [s.recordComb e r] }
  rw [elem_unspill] at helem
  refine ⟨⟨hboth.others, hboth.regs⟩, fun _ => ⟨hboth.sameBytes, ?_, ?_⟩, fun hno => (nomatch hno.symm.trans h), fun hno => (nomatch hno.symm.trans h), ?_, ?_, ?_⟩
  · rw [helem]
  · rw [helem]
  · rw [helem]
  · rw [helem]
  · rw [helem]

theorem reloaded_comb {s : State} {e : Nat} {r : SpillSt} (h : (s.spillWord e r).testBit 113 = false)
    (hop : (s.elem e).active.opcode (s.recordTok e r).slot = 0x09) : Reloaded s (s.reloadRecord e r) e r := by
  have hboth := (s.inputStep_unspill e r).trans (inputStep_accept _ e (s.recordTok e r).slot (s.recordTok e r).pos (s.recordTok e r).token (s.recordTok e r).stamp r.retry)
  have hacc := (accepted_accept (s.unspill e r) e (s.recordTok e r).slot (s.recordTok e r).pos (s.recordTok e r).token (s.recordTok e r).stamp r.retry).of_alike
    (s.inputAlike_unspill e r)
  have hkept := elem_accept (s.unspill e r) e (s.recordTok e r).slot (s.recordTok e r).pos (s.recordTok e r).token (s.recordTok e r).stamp r.retry
  rw [elem_unspill] at hacc hkept
  rw [reloadRecord_comb h hop]
  exact ⟨⟨hboth.others, hboth.regs⟩, fun hno => (nomatch hno.symm.trans h), fun _ _ => hacc, fun _ hne => absurd hop hne, (congrArg ElemSt.spills hkept :),
    (congrArg ElemSt.reloadNext hkept :), (congrArg ElemSt.spFree hkept :)⟩

theorem reloaded_token {s : State} {e : Nat} {r : SpillSt} (h : (s.spillWord e r).testBit 113 = false)
    (hop : (s.elem e).active.opcode (s.recordTok e r).slot ≠ 0x09) : Reloaded s (s.reloadRecord e r) e r := by
  have hunspill := s.elem_unspill e r
  have halike := s.inputAlike_unspill e r
  obtain ⟨A, B, hsplit, hins, hA, hB⟩ := insertTok_says (s.recordTok e r) (s.elem e).store
  have helem := elem_modElem_same (s.unspill e r) e fun x => { x with store := insertTok (s.recordTok e r) x.store }
  have hplaced : LoopAlike (s.unspill e r) ((s.unspill e r).modElem e fun x => { x with store := insertTok (s.recordTok e r) x.store }) e := loopAlike_modElem rfl rfl rfl
  have hstep := ((s.inputStep_unspill e r).trans (.modElem _ e fun x => { x with store := insertTok (s.recordTok e r) x.store })).trans
    (inputStep_openLoop _ e (s.recordTok e r).slot (s.recordTok e r).pos (s.recordTok e r).token (s.recordTok e r).stamp)
  obtain ⟨hlooped, hkept⟩ := looped_openLoop ((s.unspill e r).modElem e fun x => { x with store := insertTok (s.recordTok e r) x.store }) e (s.recordTok e r).slot
    (s.recordTok e r).pos (s.recordTok e r).token (s.recordTok e r).stamp
  have hown := (hlooped.of_alike hplaced).of_alike halike.toLoopAlike
  rw [helem, hunspill] at hown hkept
  rw [reloadRecord_token h hop]
  refine ⟨⟨hstep.others, hstep.regs⟩, fun hno => (nomatch hno.symm.trans h), fun _ hcomb => absurd hcomb hop,
    fun _ _ => ⟨hstep.sameBytes, hown, A, B, hsplit, (congrArg ElemSt.store hkept :).trans hins, hA, hB⟩,
    (congrArg ElemSt.spills hkept :), (congrArg ElemSt.reloadNext hkept :), (congrArg ElemSt.spFree hkept :)⟩

/-- R97: a record that reloads. -/
theorem reloaded_reloadRecord (s : State) (e : Nat) (r : SpillSt) : Reloaded s (s.reloadRecord e r) e r := by
  cases h : (s.spillWord e r).testBit 113 with
  | true => exact reloaded_entry h
  | false =>
    by_cases hop : (s.elem e).active.opcode (s.recordTok e r).slot = 0x09
    · exact reloaded_comb h hop
    · exact reloaded_token h hop

section
variable {s : State}

theorem exec_reload_some {r : SpillSt} (h : s.reloadPick s.focus.elem = some r) : exec .reload s = .next (s.reloadRecord s.focus.elem r) := by
  show execReload s = _
  unfold execReload
  simp only [h]

theorem exec_reload_none (h : s.reloadPick s.focus.elem = none) : exec .reload s = .refused .notEnabled := by
  show execReload s = _
  unfold execReload
  simp only [h]

variable {e : Nat}

theorem reloadPick_waits (h : s.cycle < (s.elem e).spFree ∨ s.elemActive e = false) : s.reloadPick e = none := by
  refine if_pos ?_
  rw [Bool.not_eq_true']
  exact h

section
variable (hport : (s.elem e).spFree ≤ s.cycle) (hactive : s.elemActive e = true)
include hport hactive

/-- R97: a record that was asked for goes first. -/
theorem reloadPick_asked {q : Nat} {l : List Nat} (h : (s.elem e).reloadNext = q :: l) :
    s.reloadPick e = if occupied (s.elem e) < 64 then (s.elem e).spills.find? (fun z => z.record == q) else none := by
  unfold reloadPick
  dsimp only
  rw [h, hactive]
  exact if_neg (by simp; omega)

theorem reloadPick_earliest (h : (s.elem e).reloadNext = []) :
    s.reloadPick e = if 47 < occupied (s.elem e) then none else s.earliestSpill e (s.elem e).spills := by
  unfold reloadPick
  dsimp only
  rw [h, hactive]
  exact if_neg (by simp; omega)

end

end

/-! ### Reap filters (R95) -/

theorem reaps_iff (f : ReapSt) (g : Tag) : reaps f g = true ↔ g.extractLsb' 52 12 = f.key.extractLsb' 52 12 ∧ f.level < (g.extractLsb' 48 4).toNat ∧
    (∀ k < f.level, tagField g k = tagField f.key k) ∧ (tagField g f.level + 256 - f.first) % 256 < f.count := by
  have hcolour : tagColour g = tagColour f.key ↔ g.extractLsb' 52 12 = f.key.extractLsb' 52 12 := by
    rw [show tagColour g = (g.extractLsb' 52 12).toNat from fld_eq_extractLsb' g 52 12,
      show tagColour f.key = (f.key.extractLsb' 52 12).toNat from fld_eq_extractLsb' f.key 52 12, BitVec.toNat_inj]
  simp only [reaps, Bool.and_eq_true, beq_iff_eq, decide_eq_true_eq, List.all_eq_true, List.mem_range, hcolour, tagDepth_eq, and_assoc]

/-- R132: entries that are closed are of runs that are done and have no token left. -/
def Closes (y z : ElemSt) : Prop := z.store = y.store ∧ ∀ l ∈ y.loops, l ∉ z.loops → l.i = l.x ∧ ∀ u ∈ y.store, u.slot = l.slot → tagOuter u.token.tag ≠ l.key

theorem loopClose_cases (s : State) (e slot : Nat) (key : Tag) : loopClose s e slot key = s ∨ ∃ l, l.i = l.x ∧
    (∀ u ∈ (s.elem e).store, u.slot = l.slot → tagOuter u.token.tag ≠ l.key) ∧
    loopClose s e slot key = s.modElem e fun y => { y with loops := y.loops.filter fun m => m != l } := by
  unfold loopClose
  dsimp only
  split
  · exact .inl rfl
  · next l hl =>
    split
    · next h =>
      obtain ⟨hdone, hnone, -⟩ := h
      have hentry := List.find?_some hl
      obtain ⟨hslot, hkey⟩ := (isEntry_iff l).mp hentry
      refine .inr ⟨l, hdone, fun u hu huslot hukey => ?_, rfl⟩
      have hu := List.all_eq_true.mp hnone u hu
      rw [hslot] at huslot
      rw [hkey] at hukey
      simp [huslot, hukey] at hu
    · exact .inl rfl

theorem inputStep_loopClose (s : State) (e slot : Nat) (key : Tag) : InputStep s (loopClose s e slot key) e := by
  obtain heq | ⟨l, -, -, heq⟩ := loopClose_cases s e slot key
  · rw [heq]
    exact ⟨fun _ _ => rfl, fun _ _ => rfl, rfl⟩
  · rw [heq]
    exact .modElem s e _

/-- R132: closing a run leaves the element but for its entry. -/
theorem closes_loopClose (s : State) (e slot : Nat) (key : Tag) : Closes (s.elem e) ((loopClose s e slot key).elem e) ∧
    { (loopClose s e slot key).elem e with loops := (s.elem e).loops } = s.elem e := by
  obtain heq | ⟨l, hdone, hnone, heq⟩ := loopClose_cases s e slot key
  · rw [heq]
    exact ⟨⟨rfl, fun l hl hnot => absurd hl hnot⟩, rfl⟩
  · have helem := elem_modElem_same s e fun y => { y with loops := y.loops.filter fun m => m != l }
    rw [heq, helem]
    refine ⟨⟨rfl, fun m hm hnot => ?_⟩, rfl⟩
    have hml : m = l := by
      by_contra hne
      exact hnot (List.mem_filter.mpr ⟨hm, bne_iff_ne.mpr hne⟩)
    rw [hml]
    exact ⟨hdone, hnone⟩

/-- R132: the runs of a list of entries, each closed if it is done. -/
def closeAll (s : State) (e : Nat) (ls : List LoopSt) : State := ls.foldl (fun st l => loopClose st e l.slot l.key) s

theorem inputStep_closeAll (s : State) (e : Nat) (ls : List LoopSt) : InputStep s (closeAll s e ls) e := by
  unfold closeAll
  induction ls generalizing s with
  | nil => exact ⟨fun _ _ => rfl, fun _ _ => rfl, rfl⟩
  | cons l ls ih => exact (inputStep_loopClose s e l.slot l.key).trans (ih _)

theorem closes_closeAll (s : State) (e : Nat) (ls : List LoopSt) : Closes (s.elem e) ((closeAll s e ls).elem e) ∧
    { (closeAll s e ls).elem e with loops := (s.elem e).loops } = s.elem e := by
  unfold closeAll
  induction ls generalizing s with
  | nil => exact ⟨⟨rfl, fun l hl hnot => absurd hl hnot⟩, rfl⟩
  | cons l ls ih =>
    obtain ⟨⟨hstore, hfirst⟩, hkept⟩ := closes_loopClose s e l.slot l.key
    obtain ⟨⟨hstores, hothers⟩, hall⟩ := ih (loopClose s e l.slot l.key)
    rw [List.foldl_cons]
    refine ⟨⟨hstores.trans hstore, fun m hm hnot => ?_⟩, ?_⟩
    · by_cases hmid : m ∈ ((loopClose s e l.slot l.key).elem e).loops
      · obtain ⟨hdone, hnone⟩ := hothers m hmid hnot
        exact ⟨hdone, fun u hu => hnone u (by rwa [hstore])⟩
      · exact hfirst m hm hmid
    · exact (congrArg (fun z : ElemSt => { z with loops := (s.elem e).loops }) hall :).trans hkept

end State

end Sys2Proof.Machine
end

section
/-! Reap tokens and their filters (R95, R131), and MATCH_EXHAUSTED (R98). -/

namespace Sys2Proof.Machine

namespace State

/-! ### What a reap token destroys (R95) -/

/-- R95: the records of an element that a filter names. -/
def reapedRecords (s : State) (e : Nat) (f : ReapSt) : List SpillSt := (s.elem e).spills.filter fun r => reaps f (s.recordTag e r)

/-- R95: an element without the tokens, entries and records that a filter names. -/
def reapedElem (f : ReapSt) (gone : List SpillSt) (y : ElemSt) : ElemSt :=
  { y with store := y.store.filter fun t => !reaps f t.token.tag, combs := y.combs.filter fun c => !reaps f c.tag, spills := y.spills.filter fun r => !gone.contains r }

/-- R97: a record that is gone no longer reloads next. -/
def askedKept (y : ElemSt) : ElemSt := { y with reloadNext := y.reloadNext.filter fun (r : Nat) => y.spills.any fun z => z.record == r }

theorem destroy_eq (s : State) (e : Nat) (f : ReapSt) : ∃ p cs, s.destroy e f =
    ((closeAll ((s.modElem e (reapedElem f (s.reapedRecords e f))).modElem e askedKept) e (s.elem e).loops).noteFull e).settleColours p cs := ⟨_, _, rfl⟩

theorem mem_reapedElem_spills (s : State) (e : Nat) (f : ReapSt) (r : SpillSt) :
    r ∈ (reapedElem f (s.reapedRecords e f) (s.elem e)).spills ↔ r ∈ (s.elem e).spills ∧ reaps f (s.recordTag e r) = false := by
  show r ∈ (s.elem e).spills.filter (fun r => !(s.reapedRecords e f).contains r) ↔ _
  simp only [List.mem_filter, Bool.not_eq_true', List.contains_eq_mem, decide_eq_false_iff_not, reapedRecords, not_and, Bool.not_eq_true]
  exact and_congr_right fun hr => ⟨fun h => h hr, fun h _ => h⟩

/-- R95, R132: what a filter leaves of an element. -/
structure Reaped (s t : State) (e : Nat) (f : ReapSt) : Prop where
  step : InputStep s t e
  store : (t.elem e).store = (s.elem e).store.filter fun u => !reaps f u.token.tag
  combs : (t.elem e).combs = (s.elem e).combs.filter fun c => !reaps f c.tag
  loops : ∀ l ∈ (s.elem e).loops, l ∉ (t.elem e).loops → l.i = l.x ∧ ∀ u ∈ (t.elem e).store, u.slot = l.slot → tagOuter u.token.tag ≠ l.key
  spills : ∀ r, r ∈ (t.elem e).spills ↔ r ∈ (s.elem e).spills ∧ reaps f (s.recordTag e r) = false
  reaps : (t.elem e).reaps = (s.elem e).reaps

theorem reaped_destroy (s : State) (e : Nat) (f : ReapSt) : Reaped s (s.destroy e f) e f := by
  obtain ⟨p, cs, heq⟩ := s.destroy_eq e f
  have hfirst := elem_modElem_same s e (reapedElem f (s.reapedRecords e f))
  have helem := elem_modElem_same (s.modElem e (reapedElem f (s.reapedRecords e f))) e askedKept
  rw [hfirst] at helem
  have hgone := s.mem_reapedElem_spills e f
  have hstep := (InputStep.modElem s e (reapedElem f (s.reapedRecords e f))).trans (.modElem _ e askedKept)
  generalize (s.modElem e (reapedElem f (s.reapedRecords e f))).modElem e askedKept = u at heq helem hstep
  obtain ⟨⟨hstore, hloops⟩, hkept⟩ := closes_closeAll u e (s.elem e).loops
  have hclosed := (inputStep_closeAll u e (s.elem e).loops).trans (inputStep_noteFull _ e)
  have hat := elem_noteFull (closeAll u e (s.elem e).loops) e e
  rw [heq]
  generalize (closeAll u e (s.elem e).loops).noteFull e = v at hclosed hat
  have hframe := settleColours_frame v p cs []
  have hlast : (v.settleColours p cs).elem e = (closeAll u e (s.elem e).loops).elem e := (congrArg (State.elem · e) hframe :).trans hat
  rw [helem] at hkept hstore hloops
  refine ⟨(hstep.trans hclosed).trans (.of_parts hframe), ?_, ?_, ?_, ?_, ?_⟩ <;> rw [hlast]
  · exact hstore
  · exact (congrArg ElemSt.combs hkept :)
  · rw [hstore]
    exact hloops
  · rw [show ((closeAll u e (s.elem e).loops).elem e).spills = (reapedElem f (s.reapedRecords e f) (s.elem e)).spills from (congrArg ElemSt.spills hkept :)]
    exact hgone
  · exact (congrArg ElemSt.reaps hkept :)

theorem takeReap_eq (s : State) (e : Nat) (x : Token) : s.takeReap e x =
    ((s.destroy e (filterOf x)).modElem e fun y => { y with reaps := y.reaps ++ [filterOf x] }).settleColour (s.elemPart e) (tagColour x.tag) := rfl

/-- R95: an element that takes a reap token. -/
theorem takeReap_says (s : State) (e : Nat) (x : Token) : ∃ t, s.takeReap e x = t ∧ InputStep s t e ∧ (t.elem e).reaps = (s.elem e).reaps ++ [filterOf x] ∧
      (t.elem e).store = (s.elem e).store.filter (fun u => !reaps (filterOf x) u.token.tag) ∧
      (t.elem e).combs = (s.elem e).combs.filter (fun c => !reaps (filterOf x) c.tag) ∧
      (∀ l ∈ (s.elem e).loops, l ∉ (t.elem e).loops → l.i = l.x ∧ ∀ u ∈ (t.elem e).store, u.slot = l.slot → tagOuter u.token.tag ≠ l.key) ∧
      ∀ r, r ∈ (t.elem e).spills ↔ r ∈ (s.elem e).spills ∧ reaps (filterOf x) (s.recordTag e r) = false := by
  obtain ⟨hstep, hstore, hcombs, hloops, hspills, hreaps⟩ := s.reaped_destroy e (filterOf x)
  rw [takeReap_eq]
  generalize s.destroy e (filterOf x) = u at hstep hstore hcombs hloops hspills hreaps
  generalize filterOf x = f at hstep hstore hcombs hloops hspills hreaps
  have helem := elem_modElem_same u e fun y => { y with reaps := y.reaps ++ [f] }
  have hset := hstep.trans (.modElem u e fun y => { y with reaps := y.reaps ++ [f] })
  generalize (u.modElem e fun y => { y with reaps := y.reaps ++ [f] }) = v at helem hset
  refine ⟨_, rfl, hset.trans (.of_parts (settleColours_frame v (s.elemPart e) [tagColour x.tag] [])), ?_⟩
  rw [elem_settleColour, helem]
  exact ⟨by rw [hreaps], hstore, hcombs, hloops, hspills⟩

theorem recordTag_landed (s : State) (k : Nat) (f : FlightSt) (e : Nat) (r : SpillSt) : (s.landed k f).recordTag e r = s.recordTag e r := by
  obtain ⟨⟨th, heq⟩, -⟩ := s.landed_eq k f
  rw [heq]
  rfl

section
variable {s : State} {f : FlightSt} {e slot pos : Nat} (hf : Table.find? s.flights s.focus.index = some f) (hb : boundElem f.bound = some (e, slot, pos))
  (hkind : f.token.kind = kReap)
include hf hb hkind

theorem exec_reapToken_waits (h : s.atInput s.focus.index f = false ∨ 8 ≤ (s.elem e).reaps.length) : exec .reapToken s = .refused .notEnabled := by
  show execReapToken s = _
  unfold execReapToken
  simp only [hf]
  by_cases hat : s.atInput s.focus.index f = true
  · have hfull := h.resolve_left fun hno => nomatch hno.symm.trans hat
    have harrive : s.arrive s.focus.index f = none := by
      unfold arrive
      simp only [hb, if_pos hkind, if_neg (Nat.not_lt.mpr hfull)]
    rw [harrive]
    exact ite_self _
  · exact if_pos (.inr (by rw [Bool.eq_false_iff.mpr hat]; rfl))

theorem exec_reapToken_takes (hat : s.atInput s.focus.index f = true) (hroom : (s.elem e).reaps.length < 8) :
    exec .reapToken s = .next ((s.landed s.focus.index f).takeReap e f.token) := by
  have harrive : s.arrive s.focus.index f = some ((s.landed s.focus.index f).takeReap e f.token) := by
    unfold arrive
    simp only [hb, if_pos hkind, if_pos hroom]
  show execReapToken s = _
  unfold execReapToken
  simp only [hf, harrive]
  exact if_neg (by rw [hat]; simp [hkind])

/-- R95: a reap token that an element takes. -/
theorem reapToken_takes (hat : s.atInput s.focus.index f = true) (hroom : (s.elem e).reaps.length < 8) : let c := filterOf f.token
    ∃ t, exec .reapToken s = .next t ∧ t.flights = Table.erase s.flights s.focus.index ∧ ((∀ d, d ≠ e → t.elem d = s.elem d) ∧ s.sameRegs t) ∧ s.sameBytes t ∧
      (t.elem e).reaps = (s.elem e).reaps ++ [c] ∧
      (t.elem e).store = (s.elem e).store.filter (fun u => !reaps c u.token.tag) ∧ (t.elem e).combs = (s.elem e).combs.filter (fun q => !reaps c q.tag) ∧
      (∀ l ∈ (s.elem e).loops, l ∉ (t.elem e).loops → l.i = l.x ∧ ∀ u ∈ (t.elem e).store, u.slot = l.slot → tagOuter u.token.tag ≠ l.key) ∧
      ∀ r, r ∈ (t.elem e).spills ↔ r ∈ (s.elem e).spills ∧ reaps c (s.recordTag e r) = false := by
  obtain ⟨t, ht, hstep, htaken⟩ := (s.landed s.focus.index f).takeReap_says e f.token
  obtain ⟨hflights, hothers, hregs⟩ := landed_step hstep
  have hmem := (s.inputAlike_landed s.focus.index f e).mem
  rw [elem_landed] at htaken
  simp only [recordTag_landed] at htaken
  exact ⟨t, ht ▸ exec_reapToken_takes hf hb hkind hat hroom, hflights, ⟨hothers, hregs⟩, fun a => by rw [hstep.mem, hmem], htaken⟩

end

/-! ### REAP_FILTER_RETIRE (R95) -/

/-- R95: in a clean bed nothing is left that the filter names. -/
theorem bedClean_says {s : State} {e d : Nat} {f : ReapSt} (h : s.bedClean e f = true) (hd : d ∈ planeElems (s.planeAt e))
    (hbed : (s.elem d).active.bed = (s.elem e).active.bed) : (∀ u ∈ (s.elem d).store, reaps f u.token.tag = false) ∧ (∀ c ∈ (s.elem d).combs, reaps f c.tag = false) ∧
      (∀ o ∈ (s.elem d).outq ++ (s.elem d).scaleq ++ (s.elem d).mailq, reaps f o.token.tag = false) ∧
      ∀ g ∈ s.flights, ∀ n m, boundElem g.2.bound = some (d, n, m) → reaps f g.2.token.tag = false := by
  have hin : d ∈ (planeElems (s.planeAt e)).filter fun d => (s.elem d).active.bed == (s.elem e).active.bed := List.mem_filter.mpr ⟨hd, beq_iff_eq.mpr hbed⟩
  unfold bedClean at h
  dsimp only at h
  rw [Bool.and_eq_true] at h
  obtain ⟨helems, hflights⟩ := h
  have hclean := List.all_eq_true.mp helems d hin
  simp only [Bool.and_eq_true, List.all_eq_true, Bool.not_eq_true'] at hclean
  obtain ⟨⟨⟨⟨⟨⟨⟨⟨hstore, hcombs⟩, houtq⟩, hscaleq⟩, hmailq⟩, -⟩, -⟩, -⟩, -⟩ := hclean
  refine ⟨hstore, hcombs, fun o ho => ?_, fun g hg n m hb => ?_⟩
  · simp only [List.mem_append] at ho
    rcases ho with (ho | ho) | ho
    · exact houtq o ho
    · exact hscaleq o ho
    · exact hmailq o ho
  · have hflight := List.all_eq_true.mp hflights g hg
    rw [hb] at hflight
    simp only [List.contains_iff_mem.mpr hin, Bool.not_true, Bool.false_or, Bool.not_eq_true', Bool.or_eq_false_iff] at hflight
    exact hflight.1

section
variable {s : State} {f : ReapSt} (hf : (s.elem s.focus.elem).reaps[s.focus.index]? = some f)
include hf

theorem exec_retire : exec .reapFilterRetire s = if s.bedClean s.focus.elem f then
    .next (s.modElem s.focus.elem fun x => { x with reaps := x.reaps.eraseIdx s.focus.index }) else .refused .notEnabled := by
  show execReapFilterRetire s = _
  unfold execReapFilterRetire
  simp only [hf]

theorem retire_clean (h : s.bedClean s.focus.elem f = true) : ∃ t, exec .reapFilterRetire s = .next t ∧
    (t.elem s.focus.elem) = { s.elem s.focus.elem with reaps := (s.elem s.focus.elem).reaps.eraseIdx s.focus.index } ∧
    ((∀ d, d ≠ s.focus.elem → t.elem d = s.elem d) ∧ s.sameRegs t) ∧ { t with elems := s.elems } = s := by
  have hstep := InputStep.modElem s s.focus.elem fun x => { x with reaps := x.reaps.eraseIdx s.focus.index }
  have hexec := exec_retire hf
  rw [if_pos h] at hexec
  exact ⟨_, hexec, elem_modElem_same _ _ _, ⟨hstep.others, hstep.regs⟩, rfl⟩

theorem retire_waits (h : ¬ s.bedClean s.focus.elem f = true) : exec .reapFilterRetire s = .refused .notEnabled := by
  rw [exec_retire hf, if_neg h]

end

/-! ### MATCH_EXHAUSTED (R98) -/

/-- R98: a field is exhausted. -/
theorem exhausted_iff (s : State) (k : Nat) : s.exhausted k = true ↔
    (s.field k).halted = false ∧ (s.field k).fault = none ∧ ∃ c, (s.field k).fullSince = some c ∧ max c (s.field k).lastIssue + 65536 ≤ s.cycle := by
  unfold exhausted fieldGated
  cases h : (s.field k).fullSince with
  | none => simp [h]
  | some c => simp [h, and_assoc]

/-- R98: the firing in whose name MATCH_EXHAUSTED is raised: no slot fires, so slot 0 and tag 0. -/
def exhaustedFiring (e : Nat) : Firing :=
  { e := e, slot := 0, op := 0, f := { action := 0, srcA := 0, srcB := 0, dst0 := 0, dst1 := 0, qual := 0, extra := 0, ext := 0 }, tag := 0, toks := [] }

theorem exec_matchExhausted_waits {s : State} (h : ¬ s.exhausted s.focus.index = true) : exec .matchExhausted s = .refused .notEnabled := by
  show execMatchExhausted s = _
  unfold execMatchExhausted
  dsimp only
  rw [Bool.eq_false_iff.mpr h]
  rfl

theorem exec_matchExhausted {s : State} {e : Nat} {A B : List Nat} (h : s.exhausted s.focus.index = true) (hsplit : planeElems (s.field s.focus.index).word = A ++ e :: B)
    (hA : ∀ d ∈ A, s.spillFull d = false) (he : s.spillFull e = true) : exec .matchExhausted s =
      .next (s.faultHalt (exhaustedFiring e).e (exhaustedFiring e).slot 3 0x09 (exhaustedFiring e).tag 0 (exhaustedFiring e).toks) := by
  have hfirst : (A ++ e :: B).find? (fun d => s.spillFull d) = some e := by
    rw [List.find?_append, List.find?_eq_none.mpr fun d hd => by rw [hA d hd]; exact Bool.false_ne_true]
    exact List.find?_cons_of_pos he
  show execMatchExhausted s = _
  unfold execMatchExhausted
  simp only [h, hsplit, hfirst, Bool.not_true, Bool.false_eq_true, if_false]
  rfl

/-- R341: the position, the row and the column in FREC1. -/
theorem elementRec_place (s : State) (e target code : Nat) (tag : Tag) (op : Word) : let r := s.elementRec e 0 3 target code tag op
    r.f1.extractLsb' 28 5 = BitVec.ofNat 5 (elemY e) ∧ r.f1.extractLsb' 33 5 = BitVec.ofNat 5 (elemX e) ∧ r.f1.extractLsb' 22 2 = 3 := by
  have hx : elemX e < 32 := Nat.mod_lt _ (by omega)
  have hy : elemY e < 32 := Nat.mod_lt _ (by omega)
  have hstrip : stripOfCore (coreOf target) < 8 := Nat.mod_lt _ (by omega)
  have hf1 : (s.elementRec e 0 3 target code tag op).f1.toNat =
      (elemDie e * 2 ^ 38 + elemX e * 2 ^ 33 + elemY e * 2 ^ 28 + 0 * 2 ^ 24 + 3 * 2 ^ 22 + stripOfCore (coreOf target) * 2 ^ 19 + target % 4 * 2 ^ 17) % 2 ^ 64 :=
    BitVec.toNat_ofNat _ _
  generalize stripOfCore (coreOf target) = strip at hf1 hstrip
  generalize elemX e = x at hf1 hx ⊢
  generalize elemY e = y at hf1 hy ⊢
  refine ⟨BitVec.eq_of_toNat_eq ?_, BitVec.eq_of_toNat_eq ?_, BitVec.eq_of_toNat_eq ?_⟩ <;>
    rw [BitVec.extractLsb'_toNat, Nat.shiftRight_eq_div_pow, hf1]
  · rw [BitVec.toNat_ofNat]; omega
  · rw [BitVec.toNat_ofNat]; omega
  · show _ = 3
    omega

/-- R98: the record of MATCH_EXHAUSTED. -/
theorem exhausted_faults {s : State} {k e : Nat} (hk : s.fieldAt e = some k) (hnone : (s.field k).fault = none) :
    ∃ r, ((s.faultHalt (exhaustedFiring e).e (exhaustedFiring e).slot 3 0x09 (exhaustedFiring e).tag 0 (exhaustedFiring e).toks).field k).fault = some (0x09, r) ∧
      r.f1.extractLsb' 28 5 = BitVec.ofNat 5 (elemY e) ∧ r.f1.extractLsb' 33 5 = BitVec.ofNat 5 (elemX e) ∧ r.f1.extractLsb' 22 2 = 3 := by
  rw [s.faultHalt_first (exhaustedFiring e) 0x09 3 0 hk hnone]
  exact ⟨_, congrArg FieldSt.fault ((field_setField _ _ _ _).trans (if_pos rfl)), elementRec_place _ e _ _ _ _⟩

end State

end Sys2Proof.Machine
end

section
/-! O50: the statement, from what each step does. -/

namespace Sys2Proof.Machine

/-- Settles O50: each clause by the lemma of its step. -/
theorem tokensArriveSpillAndAreReaped : Obligations.TokensArriveSpillAndAreReaped := by
  unfold Obligations.TokensArriveSpillAndAreReaped
  intro erased opens takes gate came ask looped others record faulted combined accepted dropped
  refine ⟨State.reaps_iff, fun v now => ?_, fun y v => State.evictee_says, ?_, ?_, ?_, ?_, ?_, ?_⟩
  · cases v with
    | mk slot pos token stamp flag retry => cases flag <;> rfl
  · intro s x e slot pos k y i g hf hb
    refine ⟨fun hfeed _ hwaits => State.exec_arrival_waits hf hfeed hb hwaits, fun hfeed hkind hat => ⟨State.arrival_reaped hf hfeed hb hkind hat, fun hreaps =>
      ⟨fun r hback => State.arrival_back hf hfeed hb hkind hat hreaps hback, fun hback => ⟨State.arrival_taken hf hfeed hb hkind hat hreaps hback,
        State.arrival_local hf hfeed hb hkind hat hreaps hback, State.arrival_network hf hfeed hb hkind hat hreaps hback⟩⟩⟩, fun n plot rank j hsorted hfeed hat horder => ?_⟩
    intro stopped refused
    have hstopped := s.feedStopped_iff e n
    refine ⟨fun h => State.feed_stopped hf hfeed hat horder hb hsorted (hstopped.mpr h), fun h => ?_⟩
    have hruns : s.feedStopped e n = false := Bool.eq_false_iff.mpr (mt hstopped.mp h)
    refine ⟨State.feed_unread hf hfeed hat horder hb hruns, fun hreads => ⟨State.feed_reaped hf hfeed hat horder hb hruns hreads, fun hreaps =>
      ⟨State.feed_taken hf hfeed hat horder hb hruns hreads hreaps, State.feed_refused hf hfeed hat horder hb hruns hreads hreaps hsorted⟩⟩⟩
  · intro s x e k hf hb hfeed hat horder hactive
    exact State.arrival_share hf hb hfeed hat horder hactive
  · intro s e y i reloads n
    have hreloads : ∀ r, s.reloadPick e = some r → reloads r := fun r hr => ⟨_, State.exec_reload_some hr, s.reloaded_reloadRecord e r⟩
    refine ⟨fun hwaits => State.exec_reload_none (State.reloadPick_waits hwaits), fun hport hactive => ⟨fun q l hasked => ?_, fun hnone hfew hspills => ?_, fun hnone hwaits => ?_⟩⟩
    · have hpick := State.reloadPick_asked hport hactive hasked
      refine ⟨fun r hroom hr => hreloads r ?_, fun hfull => State.exec_reload_none ?_⟩
      · rw [hpick]
        exact (if_pos hroom).trans hr
      · rw [hpick]
        exact if_neg (Nat.not_lt.mpr hfull)
    · obtain ⟨r, hr⟩ := s.earliestSpill_of_ne_nil e hspills
      obtain ⟨hmem, hfirst⟩ := State.earliestSpill_says hr
      refine ⟨r, hmem, hfirst, hreloads r ?_⟩
      rw [State.reloadPick_earliest hport hactive hnone]
      exact (if_neg (Nat.not_lt.mpr hfew)).trans hr
    · refine State.exec_reload_none ?_
      rw [State.reloadPick_earliest hport hactive hnone]
      obtain hmany | hempty := hwaits
      · exact if_pos hmany
      · rw [show (s.elem e).spills = [] from hempty]
        exact ite_self _
  · intro s x e slot pos k y i hf hb hkind
    exact ⟨State.exec_reapToken_waits hf hb hkind, fun hat hroom => State.reapToken_takes hf hb hkind hat hroom⟩
  · intro s f e y i hf inBed
    refine ⟨State.retire_clean hf, fun ⟨d, ⟨hd, hbed⟩, hleft⟩ => State.retire_waits hf fun hclean => ?_⟩
    obtain ⟨hstore, hcombs, hqueues, hflights⟩ := State.bedClean_says hclean hd hbed
    rcases hleft with ⟨u, hu, hr⟩ | ⟨c, hc, hr⟩ | ⟨o, ho, hr⟩ | ⟨g, hg, n, m, hb, hr⟩
    · exact nomatch (hstore u hu).symm.trans hr
    · exact nomatch (hcombs c hc).symm.trans hr
    · exact nomatch (hqueues o ho).symm.trans hr
    · exact nomatch (hflights g hg n m hb).symm.trans hr
  · intro s k f i due
    have hdue := s.exhausted_iff k
    refine ⟨fun hnot => State.exec_matchExhausted_waits (mt hdue.mp hnot), fun hyes A e B hsplit hA he => ?_⟩
    refine ⟨_, State.exec_matchExhausted (hdue.mpr hyes) hsplit hA he, (s.faultHalt_frame (State.exhaustedFiring e) 0x09 3 0).2, fun hk => ?_⟩
    exact State.exhausted_faults hk hyes.2.1

end Sys2Proof.Machine
end

section
/-! O41: the modular opcodes (R117 to R119, R159, R160). -/

namespace Sys2Proof.Machine

/-! ### What a value opcode does with its data (R105, R123, R124) -/

section
variable {s : State} {op lat hold : Nat} {f : SlotFields} {g : Firing} {act : Firing → Out}

theorem eosCase_data (h : ∀ t ∈ g.operands, t.token.kind ≠ kEos) : State.eosCase g = .none := by
  unfold State.eosCase
  dsimp only
  rw [if_pos (List.all_eq_true.mpr fun t ht => bne_iff_ne.mpr (h t ht))]

/-- R105, R123: operands of the format's width and no EOS among them let a value opcode act. -/
theorem value_of_data (h : ReadyData s op f g) : s.value op f lat hold act = act g := by
  rw [State.value_of_widths h.toReady h.widths, State.eosRule, eosCase_data h.data]

/-- R117: the pair count of the statements. -/
theorem minPairs_eq (g : Firing) : State.minPairs g = (g.operands.map fun t => t.token.valid / 2).foldl min 16 := by
  rw [List.foldl_map]
  rfl

theorem foldl_min_le (l : List Nat) (m : Nat) : l.foldl min m ≤ m := by
  induction l generalizing m with
  | nil => exact le_rfl
  | cons a l ih => exact (ih _).trans (min_le_left m a)

theorem minPairs_le (g : Firing) : State.minPairs g ≤ 16 := by
  rw [minPairs_eq]
  exact foldl_min_le _ _

/-- R84: a payload that holds `n` packed units, where these fit its lanes. -/
theorem lanes_maskPayload {code valid w n : Nat} (k : Nat → Nat) (hfit : 2 ^ code * valid = w * n) (hmax : w * n ≤ 1024) :
    Lanes (maskPayload code valid (packLanes w k n)) w n fun i => k i % 2 ^ w := by
  intro i
  have hlt := packLanes_lt w k n
  rw [maskPayload, laneWidth, hfit, Nat.mod_eq_of_lt hlt, BitVec.toNat_ofNat, Nat.mod_eq_of_lt (hlt.trans_le (Nat.pow_le_pow_right (by omega) hmax)), bits_packLanes]

end

/-! ### The modulus of a pair (R118, R159) -/

section
variable {s : State} {op lat : Nat} {f : SlotFields} {g : Firing} {i : Instr} {k : (q a b c : Int) → Int × Int}

/-- R159: the modulus that pair `i` of a firing uses. -/
def pairModulus (s : State) (e : Nat) (f : SlotFields) (i : Nat) : Nat := modulus s e (modIndex f i)

theorem modIndex_eq (f : SlotFields) (i : Nat) : modIndex f i = ((f.ext.extractLsb' 0 4).toNat + if modeOf f = 1 then i else 0) % 16 := by
  have hfield : bits f.ext.toNat 0 4 = (f.ext.extractLsb' 0 4).toNat := by rw [bits, BitVec.extractLsb'_toNat, Nat.shiftRight_eq_div_pow]
  have hlt := (f.ext.extractLsb' 0 4).isLt
  rw [modIndex, hfield]
  split
  · rfl
  · rw [Nat.add_zero, Nat.mod_eq_of_lt hlt]

theorem pairModulus_eq (s : State) (e : Nat) (f : SlotFields) (i : Nat) : pairModulus s e f i =
    Table.getD (s.elem e).modq (((f.ext.extractLsb' 0 4).toNat + if modeOf f = 1 then i else 0) % 16) 0 := by
  rw [pairModulus, modulus, modIndex_eq]

/-- R159: the lowest pair whose entry is empty. -/
theorem find?_emptyPair {q : Nat → Nat} {n j : Nat} (hj : j < n) (hempty : q j = 0) (hlower : ∀ i < j, q i ≠ 0) :
    (List.range n).find? (fun i => q i == 0) = some j := by
  rw [List.find?_range_eq_some]
  refine ⟨beq_iff_eq.mpr hempty, List.mem_range.mpr hj, fun i hi => ?_⟩
  simpa using hlower i hi

theorem find?_noEmptyPair {q : Nat → Nat} {n : Nat} (h : ∀ i < n, q i ≠ 0) : (List.range n).find? (fun i => q i == 0) = none :=
  List.find?_eq_none.mpr fun i hi => by simpa using h i (List.mem_range.mp hi)

/-! ### The slots -/

/-- R160: an opcode is modular with two results for each pair: modulo the pair's modulus they are `h0` and `h1` of its operands. -/
def IsModular (mk : SlotFields → Instr) (op lat : Nat) (h0 h1 : (a b c : Int) → Int) : Prop :=
  ∃ k : (q a b c : Int) → Int × Int, (∀ f s, exec (mk f) s = modular s op f lat k) ∧ ∀ q a b c, (k q a b c).1 % q = h0 a b c % q ∧ (k q a b c).2 % q = h1 a b c % q

/-- R159: an empty entry raises MODQ with the lowest such pair's a. -/
theorem modular_empty {j : Nat} (h : ReadyData s op f g) (hj : j < State.minPairs g) (hempty : pairModulus s g.e f j = 0)
    (hlower : ∀ i < j, pairModulus s g.e f i ≠ 0) :
    modular s op f lat k = s.faultOp g 0x0C 0 (BitVec.ofNat 64 ((s.srcA g).lane 64 j)) := by
  have hfind : ((List.range (State.minPairs g)).find? fun i => modulus s g.e (modIndex f i) == 0) = some j := find?_emptyPair hj hempty hlower
  rw [modular, value_of_data h]
  simp only [hfind]
  rfl

/-- R160: the pairs of one destination: exact values reduced by their moduli. -/
def pairPayload (s : State) (g : Firing) (f : SlotFields) (v : Nat → Int) : Payload :=
  maskPayload 5 (2 * State.minPairs g) (packLanes 64 (fun i => (v i % (pairModulus s g.e f i : Int)).toNat) (State.minPairs g))

theorem lanes_pairPayload (s : State) (g : Firing) (f : SlotFields) (v : Nat → Int) :
    Lanes (pairPayload s g f v) 64 (State.minPairs g) fun i => (v i % (pairModulus s g.e f i : Int)).toNat % 2 ^ 64 := by
  have hle := minPairs_le g
  exact lanes_maskPayload _ (by omega) (by omega)

/-- R159, R160: with every entry filled the slot fires with the reduced results. -/
theorem modular_fires {mk : SlotFields → Instr} {h0 h1 : (a b c : Int) → Int} (hmk : IsModular mk op lat h0 h1) (h : ReadyData s op f g)
    (hfull : ∀ i < State.minPairs g, pairModulus s g.e f i ≠ 0) :
    let v := fun (h : (a b c : Int) → Int) (i : Nat) => h ((s.srcA g).lane 64 i) ((s.srcB g).lane 64 i) ((s.srcC g).lane 64 i)
    FiresWith (mk f) s g 5 lat 1 0 fun _ tag l =>
      l = [(f.dst0.toNat, { tag := tag, kind := 0, valid := 2 * State.minPairs g, width := 5, payload := pairPayload s g f (v h0) }),
           (f.dst1.toNat, { tag := tag, kind := 0, valid := 2 * State.minPairs g, width := 5, payload := pairPayload s g f (v h1) })] := by
  intro v
  obtain ⟨k, hexec, hk⟩ := hmk
  have hfind : ((List.range (State.minPairs g)).find? fun i => modulus s g.e (modIndex f i) == 0) = none := find?_noEmptyPair hfull
  have hrun := hexec f s
  rw [modular, value_of_data h] at hrun
  simp only [hfind] at hrun
  refine ⟨fun r hr => ⟨_, rfl, ?_⟩, fun c hc => ?_⟩
  · rw [hrun, hr]
    simp only [(hk _ _ _ _).1, (hk _ _ _ _).2]
    rfl
  · rw [hrun, hc]

/-- R159, R160: what a modular slot does with its data. -/
theorem modular_settles {mk : SlotFields → Instr} {h0 h1 : (a b c : Int) → Int} (hmk : IsModular mk op lat h0 h1) (h : ReadyData s op f g) :
    (∀ i < State.minPairs g, pairModulus s g.e f i = 0 → (∀ j < i, pairModulus s g.e f j ≠ 0) →
      exec (mk f) s = s.faultOp g 0x0C 0 (BitVec.ofNat 64 ((s.srcA g).lane 64 i))) ∧
    ((∀ i < State.minPairs g, pairModulus s g.e f i ≠ 0) → FiresWith (mk f) s g 5 lat 1 0 fun _ tag l => ∃ p0 p1 : Payload,
      let value := fun (h : (a b c : Int) → Int) (i : Nat) =>
        (h ((s.srcA g).lane 64 i) ((s.srcB g).lane 64 i) ((s.srcC g).lane 64 i) % (pairModulus s g.e f i : Int)).toNat % 2 ^ 64
      Lanes p0 64 (State.minPairs g) (value h0) ∧ Lanes p1 64 (State.minPairs g) (value h1) ∧
      l = [(f.dst0.toNat, { tag := tag, kind := 0, valid := 2 * State.minPairs g, width := 5, payload := p0 }),
           (f.dst1.toNat, { tag := tag, kind := 0, valid := 2 * State.minPairs g, width := 5, payload := p1 })]) := by
  refine ⟨fun i hi hempty hlower => ?_, fun hfull => ?_⟩
  · obtain ⟨k, hexec, -⟩ := hmk
    rw [hexec, modular_empty h hi hempty hlower]
  · obtain ⟨hok, herr⟩ := modular_fires hmk h hfull
    refine ⟨fun r hr => ?_, herr⟩
    obtain ⟨l, hl, hnext⟩ := hok r hr
    exact ⟨l, ⟨_, _, lanes_pairPayload s g f _, lanes_pairPayload s g f _, hl⟩, hnext⟩

end

/-- R160: an opcode whose two results are computed as they stand. -/
theorem isModular_of_exec {mk : SlotFields → Instr} {op lat : Nat} {h0 h1 : (a b c : Int) → Int}
    (hexec : ∀ f s, exec (mk f) s = modular s op f lat fun _ a b c => (h0 a b c, h1 a b c)) : IsModular mk op lat h0 h1 :=
  ⟨_, hexec, fun _ _ _ _ => ⟨rfl, rfl⟩⟩

/-- R160: MGS reduces its difference before the product and the product after it. -/
theorem isModular_mgs : IsModular .mgs 0x65 6 (fun a b _ => a + b) fun a b c => (a - b) * c := by
  refine ⟨fun q a b c => (a + b, ((a - b) % q) * c), fun f s => ?_, fun q a b c => ⟨rfl, ?_⟩⟩
  · show execMgs f s = _
    rfl
  · rw [Int.mul_emod, Int.emod_emod_of_dvd _ (dvd_refl q), ← Int.mul_emod]

/-- Settles O41: each opcode of the list is modular, with the values that the list gives. -/
theorem modularSlotsReduceExactly : Obligations.ModularSlotsReduceExactly := by
  unfold Obligations.ModularSlotsReduceExactly
  intro ops
  have hops : ∀ o ∈ ops, IsModular o.2.1 o.1 o.2.2.1 o.2.2.2.1 o.2.2.2.2 := by
    simp only [ops, List.forall_mem_cons, List.not_mem_nil, false_implies, implies_true, and_true]
    refine ⟨isModular_of_exec fun f s => ?_, isModular_of_exec fun f s => ?_, isModular_of_exec fun f s => ?_, isModular_of_exec fun f s => ?_,
      isModular_of_exec fun f s => ?_, isModular_mgs, isModular_of_exec fun f s => ?_, isModular_of_exec fun f s => ?_⟩
    · exact (rfl : exec (.madd f) s = execMadd f s)
    · exact (rfl : exec (.msub f) s = execMsub f s)
    · exact (rfl : exec (.mmul f) s = execMmul f s)
    · exact (rfl : exec (.mmac f) s = execMmac f s)
    · exact (rfl : exec (.mct f) s = execMct f s)
    · exact (rfl : exec (.mred f) s = execMred f s)
    · exact (rfl : exec (.mneg f) s = execMneg f s)
  intro o ho s f g hready _ _ n q pair
  have hn : State.minPairs g = n := minPairs_eq g
  have hq : pairModulus s g.e f = q := funext (pairModulus_eq s g.e f)
  have hsettles := modular_settles (hops o ho) hready
  rw [hn, hq] at hsettles
  exact hsettles

end Sys2Proof.Machine
end

section
/-! Rounding to a whole number (R110): what `roundAt` gives, in the rational value that it rounds. -/

namespace Sys2Proof.Machine

/-! ### A magnitude rounded to a whole number -/

/-- R110: `k` is the whole number that the mode names of the magnitude `x` of a value with the given sign. -/
def RoundedTo (rm : Rounding) (neg : Bool) (x : ℚ) (k : ℕ) : Prop :=
  match rm, neg with
  | .rne, _ => |x - k| ≤ 1 / 2 ∧ (|x - k| = 1 / 2 → k % 2 = 0)
  | .rtz, _ | .rup, true | .rdn, false => (k : ℚ) ≤ x ∧ x < k + 1
  | .rup, false | .rdn, true => (k : ℚ) - 1 < x ∧ x ≤ k

/-- R110: a whole number is its own rounding. -/
theorem RoundedTo.self (rm : Rounding) (neg : Bool) (k : ℕ) : RoundedTo rm neg k k := by
  have hzero : |(k : ℚ) - k| = 0 := by rw [sub_self, abs_zero]
  have hnear : |(k : ℚ) - k| ≤ 1 / 2 ∧ (|(k : ℚ) - k| = 1 / 2 → k % 2 = 0) := by
    rw [hzero]
    exact ⟨by norm_num, fun h => absurd h (by norm_num)⟩
  have hbelow : (k : ℚ) ≤ k ∧ (k : ℚ) < k + 1 := ⟨le_rfl, lt_add_one _⟩
  have habove : (k : ℚ) - 1 < k ∧ (k : ℚ) ≤ k := ⟨sub_one_lt _, le_rfl⟩
  cases rm with
  | rne => exact hnear
  | rtz => exact hbelow
  | rup => cases neg with
    | true => exact hbelow
    | false => exact habove
  | rdn => cases neg with
    | true => exact habove
    | false => exact hbelow

/-- R110: the roundings of a value between two whole numbers: down, or up. -/
theorem RoundedTo.down {rm : Rounding} {neg : Bool} {q r d : ℕ} (hr : r < d) (hrne : rm = .rne → 2 * r < d ∨ (2 * r = d ∧ q % 2 = 0))
    (hrup : rm = .rup → neg = true) (hrdn : rm = .rdn → neg = false) : RoundedTo rm neg (q + r / d) q := by
  have hd : (0 : ℚ) < d := by exact_mod_cast (Nat.zero_le r).trans_lt hr
  have hlow : (0 : ℚ) ≤ r / d := by positivity
  have hhigh : (r : ℚ) / d < 1 := (div_lt_one hd).mpr (by exact_mod_cast hr)
  have hbelow : (q : ℚ) ≤ q + r / d ∧ (q : ℚ) + r / d < q + 1 := ⟨by linarith, by linarith⟩
  cases rm with
  | rne =>
    show |(q : ℚ) + r / d - q| ≤ 1 / 2 ∧ _
    rw [add_sub_cancel_left, abs_of_nonneg hlow, div_le_div_iff₀ hd two_pos, div_eq_div_iff hd.ne' two_ne_zero]
    refine ⟨?_, fun htie => ?_⟩
    · have hle : r * 2 ≤ 1 * d := by rcases hrne rfl with h | h <;> omega
      exact_mod_cast hle
    · have htie' : r * 2 = 1 * d := by exact_mod_cast htie
      rcases hrne rfl with h | h
      · omega
      · exact h.2
  | rtz => exact hbelow
  | rup => rw [hrup rfl]; exact hbelow
  | rdn => rw [hrdn rfl]; exact hbelow

theorem RoundedTo.up {rm : Rounding} {neg : Bool} {q r d : ℕ} (hpos : 0 < r) (hr : r < d) (hrne : rm = .rne → d < 2 * r ∨ (2 * r = d ∧ q % 2 = 1))
    (hrtz : rm ≠ .rtz) (hrup : rm = .rup → neg = false) (hrdn : rm = .rdn → neg = true) : RoundedTo rm neg (q + r / d) (q + 1 : ℕ) := by
  have hd : (0 : ℚ) < d := by exact_mod_cast (Nat.zero_le r).trans_lt hr
  have hlow : (0 : ℚ) < r / d := div_pos (by exact_mod_cast hpos) hd
  have hhigh : (r : ℚ) / d < 1 := (div_lt_one hd).mpr (by exact_mod_cast hr)
  have habove : ((q + 1 : ℕ) : ℚ) - 1 < q + r / d ∧ (q : ℚ) + r / d ≤ (q + 1 : ℕ) := by
    push_cast
    exact ⟨by linarith, by linarith⟩
  cases rm with
  | rne =>
    show |(q : ℚ) + r / d - (q + 1 : ℕ)| ≤ 1 / 2 ∧ _
    have hdist : |(q : ℚ) + r / d - (q + 1 : ℕ)| = 1 - r / d := by
      push_cast
      rw [add_sub_add_left_eq_sub, abs_of_neg (by linarith), neg_sub]
    have hhalf : 1 - (r : ℚ) / d = 1 / 2 ↔ (r : ℚ) / d = 1 / 2 := ⟨fun h => by linarith, fun h => by linarith⟩
    rw [hdist, hhalf, sub_le_comm, show (1 : ℚ) - 1 / 2 = 1 / 2 by norm_num, div_le_div_iff₀ two_pos hd, div_eq_div_iff hd.ne' two_ne_zero]
    refine ⟨?_, fun htie => ?_⟩
    · have hle : 1 * d ≤ r * 2 := by rcases hrne rfl with h | h <;> omega
      exact_mod_cast hle
    · have htie' : r * 2 = 1 * d := by exact_mod_cast htie
      rcases hrne rfl with h | h <;> omega
  | rtz => exact absurd rfl hrtz
  | rup => rw [hrup rfl]; exact habove
  | rdn => rw [hrdn rfl]; exact habove

/-- R110: whether the mode rounds `q + r / d` up to `q + 1`, for a remainder that is not 0. -/
def roundsUp (rm : Rounding) (neg : Bool) (q r d : ℕ) : Bool :=
  match rm with
  | .rne => decide (d / 2 < r) || (decide (r = d / 2) && q % 2 == 1)
  | .rtz => false
  | .rup => !neg
  | .rdn => neg

theorem roundShift_whole (rm : Rounding) (neg : Bool) {m n : ℕ} (h : m % 2 ^ n = 0) : roundShift rm neg m n = (m / 2 ^ n, false) := if_pos h

theorem roundShift_rest (rm : Rounding) (neg : Bool) {m n : ℕ} (h : m % 2 ^ n ≠ 0) :
    roundShift rm neg m n = (if roundsUp rm neg (m / 2 ^ n) (m % 2 ^ n) (2 ^ n) then m / 2 ^ n + 1 else m / 2 ^ n, true) := by
  have hbne : (m % 2 ^ n != 0) = true := bne_iff_ne.mpr h
  refine (if_neg h).trans ?_
  cases rm with
  | rne => rfl
  | rtz => rfl
  | rup =>
    simp only [roundsUp, hbne, Bool.and_true]
    rfl
  | rdn =>
    simp only [roundsUp, hbne, Bool.and_true]
    rfl

/-- R110: a value between two whole numbers is rounded to the one that `roundsUp` says. -/
theorem roundedTo_roundsUp (rm : Rounding) (neg : Bool) (q : ℕ) {r d : ℕ} (hpos : 0 < r) (hr : r < d) (heven : d % 2 = 0) :
    RoundedTo rm neg (q + r / d) (if roundsUp rm neg q r d then q + 1 else q : ℕ) := by
  have hhalf : d = 2 * (d / 2) := by omega
  generalize d / 2 = half at *
  cases hup : roundsUp rm neg q r d with
  | true =>
    rw [if_pos rfl]
    refine .up hpos hr (fun h => ?_) (fun h => ?_) (fun h => ?_) fun h => ?_
    · subst h
      simp only [roundsUp, Bool.or_eq_true, Bool.and_eq_true, decide_eq_true_eq, beq_iff_eq] at hup
      omega
    · subst h
      exact absurd hup Bool.false_ne_true
    · subst h
      exact Bool.not_eq_true' _ ▸ hup
    · subst h
      exact hup
  | false =>
    rw [if_neg Bool.false_ne_true]
    refine .down hr (fun h => ?_) (fun h => ?_) fun h => ?_
    · subst h
      simp only [roundsUp, Bool.or_eq_false_iff, Bool.and_eq_false_iff, decide_eq_false_iff_not, beq_eq_false_iff_ne] at hup
      omega
    · subst h
      simpa [roundsUp] using hup
    · subst h
      exact hup

/-- R110: what `roundShift` gives, and when it differs from what it rounds. -/
theorem roundShift_says (rm : Rounding) (neg : Bool) (m n : ℕ) : let p := roundShift rm neg m n
    RoundedTo rm neg (m / 2 ^ n) p.1 ∧ (p.2 = true ↔ (p.1 : ℚ) ≠ m / 2 ^ n) := by
  intro p
  have hd : 0 < 2 ^ n := Nat.two_pow_pos n
  have hr : m % 2 ^ n < 2 ^ n := Nat.mod_lt _ hd
  have hcast : (0 : ℚ) < (2 ^ n : ℕ) := by exact_mod_cast hd
  have hx : (m : ℚ) / 2 ^ n = (m / 2 ^ n : ℕ) + (m % 2 ^ n : ℕ) / (2 ^ n : ℕ) := by
    rw [← Nat.cast_ofNat, ← Nat.cast_pow, div_eq_iff hcast.ne', add_mul, div_mul_cancel₀ _ hcast.ne']
    exact_mod_cast (Nat.div_add_mod' m (2 ^ n)).symm
  have hfrac : (m % 2 ^ n : ℕ) ≠ 0 → (0 : ℚ) < (m % 2 ^ n : ℕ) / (2 ^ n : ℕ) ∧ ((m % 2 ^ n : ℕ) : ℚ) / (2 ^ n : ℕ) < 1 := fun h =>
    ⟨div_pos (by exact_mod_cast Nat.pos_of_ne_zero h) hcast, (div_lt_one hcast).mpr (by exact_mod_cast hr)⟩
  rw [hx]
  by_cases hrem : m % 2 ^ n = 0
  · have hp : p = (m / 2 ^ n, false) := roundShift_whole rm neg hrem
    rw [hp, hrem, Nat.cast_zero, zero_div, add_zero]
    exact ⟨.self rm neg _, by simp⟩
  · have hp : p = _ := roundShift_rest rm neg hrem
    obtain ⟨hlow, hhigh⟩ := hfrac hrem
    have heven : 2 ^ n % 2 = 0 := by
      cases n with
      | zero => simp [Nat.mod_one] at hrem
      | succ n => rw [Nat.pow_succ]; omega
    rw [hp]
    refine ⟨roundedTo_roundsUp rm neg _ (Nat.pos_of_ne_zero hrem) hr heven, ?_⟩
    dsimp only
    split
    · push_cast at hhigh ⊢
      exact ⟨fun _ h => by linarith, fun _ => rfl⟩
    · exact ⟨fun _ h => by linarith, fun _ => rfl⟩

/-- R110: what `roundAt` gives: the value in units of 2^lsb, rounded to a whole number. -/
theorem roundAt_says (rm : Rounding) (neg : Bool) (m : ℕ) (e lsb : ℤ) : let p := roundAt rm neg m e lsb
    RoundedTo rm neg (m * 2 ^ (e - lsb)) p.1 ∧ (p.2 = true ↔ (p.1 : ℚ) ≠ m * 2 ^ (e - lsb)) := by
  intro p
  unfold p roundAt
  split
  · next hle =>
    obtain ⟨n, hn⟩ := Int.eq_ofNat_of_zero_le (sub_nonneg.mpr hle)
    have hx : (m : ℚ) * 2 ^ (e - lsb) = (m * 2 ^ n : ℕ) := by rw [hn, zpow_natCast]; push_cast; rfl
    rw [hx, hn, Int.toNat_natCast]
    exact ⟨.self rm neg _, by simp⟩
  · next hlt =>
    obtain ⟨n, hn⟩ := Int.eq_ofNat_of_zero_le (show 0 ≤ lsb - e by omega)
    have hx : (m : ℚ) * 2 ^ (e - lsb) = m / 2 ^ n := by
      rw [show e - lsb = -(n : ℤ) by omega, zpow_neg, zpow_natCast, div_eq_mul_inv]
    rw [hx, hn, Int.toNat_natCast]
    exact roundShift_says rm neg m n

/-! ### Signed values -/

/-- The value of a sign, a magnitude and an exponent. -/
def finValue (neg : Bool) (m : ℕ) (e : ℤ) : ℚ := (if neg then -1 else 1) * (m : ℚ) * 2 ^ e

theorem finValue_false (m : ℕ) (e : ℤ) : finValue false m e = m * 2 ^ e := by rw [finValue, if_neg Bool.false_ne_true, one_mul]

theorem finValue_true (m : ℕ) (e : ℤ) : finValue true m e = -(m * 2 ^ e) := by rw [finValue, if_pos rfl, neg_one_mul, neg_mul]

theorem abs_finValue (neg : Bool) (m : ℕ) (e : ℤ) : |finValue neg m e| = m * 2 ^ e := by
  have hmag : (0 : ℚ) ≤ m * 2 ^ e := by positivity
  cases neg with
  | true => rw [finValue_true, abs_neg, abs_of_nonneg hmag]
  | false => rw [finValue_false, abs_of_nonneg hmag]

theorem finValue_eq_zero_iff (neg : Bool) (m : ℕ) (e : ℤ) : finValue neg m e = 0 ↔ m = 0 := by
  have hpow : (2 : ℚ) ^ e ≠ 0 := by positivity
  rw [← abs_eq_zero, abs_finValue, mul_eq_zero, or_iff_left hpow, Nat.cast_eq_zero]

end Sys2Proof.Machine
end

section
/-! O39: conversions (R108, R109). -/

namespace Sys2Proof.Machine

/-! ### To integers -/

/-- R109, R110: `z` is the integer that the mode names of `q`. -/
def RoundedInt (rm : Rounding) (q : ℚ) (z : ℤ) : Prop :=
  match rm with
  | .rdn => (z : ℚ) ≤ q ∧ q < z + 1
  | .rup => (z : ℚ) - 1 < q ∧ q ≤ z
  | .rtz => |(z : ℚ)| ≤ |q| ∧ |q| < |(z : ℚ)| + 1 ∧ 0 ≤ q * z
  | .rne => |q - z| ≤ 1 / 2 ∧ (|q - z| = 1 / 2 → z % 2 = 0)

/-- R110: a rounded magnitude with its sign is the rounded value. -/
theorem RoundedTo.toInt {rm : Rounding} {neg : Bool} {m k : ℕ} {e : ℤ} (h : RoundedTo rm neg (m * 2 ^ e) k) :
    RoundedInt rm (finValue neg m e) (signedMant neg k) := by
  have hx : (0 : ℚ) ≤ m * 2 ^ e := by positivity
  have hk : (0 : ℚ) ≤ k := Nat.cast_nonneg k
  rw [signedMant]
  cases neg with
  | false =>
    rw [finValue_false, if_neg Bool.false_ne_true]
    generalize (m : ℚ) * 2 ^ e = x at *
    cases rm with
    | rne => exact ⟨h.1, fun htie => by have := h.2 htie; omega⟩
    | rtz =>
      show |((k : ℤ) : ℚ)| ≤ |x| ∧ |x| < |((k : ℤ) : ℚ)| + 1 ∧ _
      rw [Int.cast_natCast, abs_of_nonneg hk, abs_of_nonneg hx]
      exact ⟨h.1, h.2, mul_nonneg hx hk⟩
    | rup => exact h
    | rdn => exact h
  | true =>
    rw [finValue_true, if_pos rfl]
    generalize (m : ℚ) * 2 ^ e = x at *
    cases rm with
    | rne =>
      have hdist : |-x - ((-(k : ℤ) : ℤ) : ℚ)| = |x - k| := by push_cast; rw [← neg_sub', abs_neg]
      show |-x - ((-(k : ℤ) : ℤ) : ℚ)| ≤ 1 / 2 ∧ (|-x - ((-(k : ℤ) : ℤ) : ℚ)| = 1 / 2 → _)
      rw [hdist]
      exact ⟨h.1, fun htie => by have := h.2 htie; omega⟩
    | rtz =>
      show |((-(k : ℤ) : ℤ) : ℚ)| ≤ |-x| ∧ |-x| < |((-(k : ℤ) : ℤ) : ℚ)| + 1 ∧ 0 ≤ -x * ((-(k : ℤ) : ℤ) : ℚ)
      push_cast
      rw [abs_neg, abs_neg, abs_of_nonneg hk, abs_of_nonneg hx, neg_mul_neg]
      exact ⟨h.1, h.2, mul_nonneg hx hk⟩
    | rup =>
      show ((-(k : ℤ) : ℤ) : ℚ) - 1 < -x ∧ -x ≤ ((-(k : ℤ) : ℤ) : ℚ)
      push_cast
      exact ⟨by linarith [h.2], neg_le_neg h.1⟩
    | rdn =>
      show ((-(k : ℤ) : ℤ) : ℚ) ≤ -x ∧ -x < ((-(k : ℤ) : ℤ) : ℚ) + 1
      push_cast
      exact ⟨neg_le_neg h.2, by linarith [h.1]⟩

/-- R109: the bounds of an integer format. -/
def intLow (sg : Bool) (w : ℕ) : ℤ := if sg then -2 ^ (w - 1) else 0
def intHigh (sg : Bool) (w : ℕ) : ℤ := if sg then 2 ^ (w - 1) - 1 else 2 ^ w - 1

section
variable (sg : Bool) (w : ℕ) {z : ℤ}

theorem intLow_le_intHigh : intLow sg w ≤ intHigh sg w := by
  have hone : ∀ n : ℕ, (1 : ℤ) ≤ 2 ^ n := fun n => one_le_pow₀ one_le_two
  have h1 := hone w
  have h2 := hone (w - 1)
  rw [intLow, intHigh]
  split <;> omega

theorem clampInt_eq_clamp : clampInt sg w z = max (intLow sg w) (min (intHigh sg w) z) := rfl

theorem clampInt_within (hlow : intLow sg w ≤ z) (hhigh : z ≤ intHigh sg w) : clampInt sg w z = z := by
  rw [clampInt_eq_clamp, min_eq_right hhigh, max_eq_right hlow]

theorem clampInt_below (h : z ≤ intLow sg w) : clampInt sg w z = intLow sg w := by
  rw [clampInt_eq_clamp, min_eq_right (h.trans (intLow_le_intHigh sg w)), max_eq_left h]

theorem clampInt_above (h : intHigh sg w ≤ z) : clampInt sg w z = intHigh sg w := by
  rw [clampInt_eq_clamp, min_eq_left h, max_eq_right (intLow_le_intHigh sg w)]

end

theorem toBits_eq_ofInt (w : ℕ) (z : ℤ) : toBits w z = (BitVec.ofInt w z).toNat := by
  rw [toBits, BitVec.toNat_ofInt]
  push_cast
  rfl

theorem finValue_signedMant {neg : Bool} {m k : ℕ} {e : ℤ} : (signedMant neg k : ℚ) = finValue neg m e ↔ (k : ℚ) = m * 2 ^ e := by
  rw [signedMant]
  cases neg with
  | false => rw [finValue_false, if_neg Bool.false_ne_true, Int.cast_natCast]
  | true => rw [finValue_true, if_pos rfl, Int.cast_neg, Int.cast_natCast, neg_inj]

section
variable (rm : Rounding) (sg : Bool) (w : ℕ)

/-- R109: a finite value as an integer, by where its rounding lies in the format's range. -/
theorem toIntRes_fin (n : Bool) (m : ℕ) (e : ℤ) : ∃ z, RoundedInt rm (finValue n m e) z ∧
    (intLow sg w ≤ z → z ≤ intHigh sg w →
      toIntRes rm sg w (.fin n m e) = { bits := (BitVec.ofInt w z).toNat, flags := if (z : ℚ) = finValue n m e then 0 else 16 }) ∧
    (z < intLow sg w → toIntRes rm sg w (.fin n m e) = { bits := (BitVec.ofInt w (intLow sg w)).toNat, flags := 1 }) ∧
    (intHigh sg w < z → toIntRes rm sg w (.fin n m e) = { bits := (BitVec.ofInt w (intHigh sg w)).toNat, flags := 1 }) := by
  obtain ⟨hround, hexact⟩ := roundAt_says rm n m e 0
  rw [sub_zero] at hround hexact
  refine ⟨_, hround.toInt, fun hlow hhigh => ?_, fun hbelow => ?_, fun habove => ?_⟩
  · rw [toIntRes, if_pos (clampInt_within sg w hlow hhigh), toBits_eq_ofInt]
    congr 1
    by_cases heq : (signedMant n (roundAt rm n m e 0).1 : ℚ) = finValue n m e
    · rw [if_pos heq, if_neg fun hinexact => hexact.mp hinexact (finValue_signedMant.mp heq)]
    · rw [if_neg heq, if_pos (hexact.mpr (mt finValue_signedMant.mpr heq))]
      rfl
  · have hclamp := clampInt_below sg w hbelow.le
    rw [toIntRes, hclamp, if_neg hbelow.ne', toBits_eq_ofInt]
    rfl
  · have hclamp := clampInt_above sg w habove.le
    rw [toIntRes, hclamp, if_neg habove.ne, toBits_eq_ofInt]
    rfl

/-- R109: an infinity is clamped to the bound of its sign. -/
theorem toIntRes_inf (hw : w ≤ 64) (n : Bool) :
    toIntRes rm sg w (.inf n) = { bits := (BitVec.ofInt w (if n then intLow sg w else intHigh sg w)).toNat, flags := 1 } := by
  have hpow : (2 : ℤ) ^ w ≤ 2 ^ 64 := pow_le_pow_right₀ one_le_two hw
  have hpow' : (2 : ℤ) ^ (w - 1) ≤ 2 ^ 64 := pow_le_pow_right₀ one_le_two (by omega)
  have hlow : -(2 : ℤ) ^ 64 ≤ intLow sg w := by rw [intLow]; split <;> omega
  have hhigh : intHigh sg w ≤ (2 : ℤ) ^ 64 := by rw [intHigh]; split <;> omega
  rw [toIntRes, toBits_eq_ofInt]
  cases n with
  | true => rw [if_pos rfl, if_pos rfl, clampInt_below sg w hlow]; rfl
  | false => rw [if_neg Bool.false_ne_true, if_neg Bool.false_ne_true, clampInt_above sg w hhigh]; rfl

end

/-! ### To .e8m0 -/

/-- The number of significant bits, by the powers of two that it lies between. -/
theorem bitLen_says {m : ℕ} (h : m ≠ 0) : ∃ l : ℕ, bitLen m = l + 1 ∧ 2 ^ l ≤ m ∧ m < 2 ^ (l + 1) :=
  ⟨m.log2, if_neg h, Nat.log2_self_le h, Nat.lt_log2_self⟩

/-- The logarithm of a finite value's magnitude, rounded down. -/
theorem zpow_log_le {m : ℕ} (h : m ≠ 0) (e : ℤ) :
    (2 : ℚ) ^ ((bitLen m : ℤ) - 1 + e) ≤ m * 2 ^ e ∧ (m : ℚ) * 2 ^ e < 2 ^ ((bitLen m : ℤ) - 1 + e + 1) := by
  obtain ⟨l, hl, hlow, hhigh⟩ := bitLen_says h
  have hpow : (0 : ℚ) < 2 ^ e := by positivity
  have hexp : (bitLen m : ℤ) - 1 = (l : ℤ) := by omega
  rw [hexp, add_right_comm, zpow_add₀ two_ne_zero, zpow_add₀ two_ne_zero _ e]
  refine ⟨mul_le_mul_of_nonneg_right ?_ hpow.le, mul_lt_mul_of_pos_right ?_ hpow⟩
  · rw [zpow_natCast]
    exact_mod_cast hlow
  · rw [show (l : ℤ) + 1 = ((l + 1 : ℕ) : ℤ) by push_cast; rfl, zpow_natCast]
    exact_mod_cast hhigh

/-- A magnitude whose top bit is its only one is a power of two, and conversely. -/
theorem isPow2_iff {m : ℕ} (h : m ≠ 0) (e : ℤ) : 2 ^ (bitLen m - 1) = m ↔ ∃ j : ℤ, (m : ℚ) * 2 ^ e = 2 ^ j := by
  obtain ⟨l, hl, hlow, hhigh⟩ := bitLen_says h
  rw [hl, Nat.add_sub_cancel]
  constructor
  · intro hm
    refine ⟨l + e, ?_⟩
    rw [← hm, zpow_add₀ two_ne_zero]
    push_cast
    rw [zpow_natCast]
  · rintro ⟨j, hj⟩
    have hm : (m : ℚ) = 2 ^ (j - e) := by
      rw [zpow_sub₀ two_ne_zero, ← hj, mul_div_cancel_right₀ _ (by positivity)]
    have hle : (2 : ℚ) ^ (l : ℤ) ≤ 2 ^ (j - e) := by rw [← hm, zpow_natCast]; exact_mod_cast hlow
    have hlt : (2 : ℚ) ^ (j - e) < 2 ^ ((l + 1 : ℕ) : ℤ) := by rw [← hm, zpow_natCast]; exact_mod_cast hhigh
    rw [zpow_le_zpow_iff_right₀ one_lt_two] at hle
    rw [zpow_lt_zpow_iff_right₀ one_lt_two] at hlt
    have hexp : j - e = (l : ℤ) := by omega
    rw [hexp, zpow_natCast] at hm
    exact_mod_cast hm.symm

section
variable (rm : Rounding) (n : Bool) {m : ℕ} {e : ℤ}

/-- R109: a magnitude below 2^-127. -/
theorem toE8m0_tiny (h : (m : ℚ) * 2 ^ e < 2 ^ (-127 : ℤ)) : toE8m0 rm (.fin n m e) = { bits := 0, flags := 8 } := by
  by_cases hm : m = 0
  · rw [toE8m0, if_pos hm]
    rfl
  · have hlog := (zpow_log_le hm e).1.trans_lt h
    rw [zpow_lt_zpow_iff_right₀ one_lt_two] at hlog
    rw [toE8m0, if_neg hm]
    dsimp only
    rw [if_neg (by simp only [Bool.or_eq_true, Bool.and_eq_true, decide_eq_true_eq]; omega), if_pos hlog]
    rfl

/-- R109: a magnitude above 2^127. -/
theorem toE8m0_huge (h : (2 : ℚ) ^ (127 : ℤ) < m * 2 ^ e) : toE8m0 rm (.fin n m e) = { bits := 0xFE, flags := 4 } := by
  have hm : m ≠ 0 := by
    rintro rfl
    rw [Nat.cast_zero, zero_mul] at h
    exact absurd h (not_lt.mpr (by positivity))
  have hlog := h.trans (zpow_log_le hm e).2
  rw [zpow_lt_zpow_iff_right₀ one_lt_two] at hlog
  rw [toE8m0, if_neg hm]
  dsimp only
  rw [if_pos]
  · rfl
  simp only [Bool.or_eq_true, Bool.and_eq_true, decide_eq_true_eq, Bool.not_eq_true', decide_eq_false_iff_not]
  by_cases htop : 127 < (bitLen m : ℤ) - 1 + e
  · exact .inl htop
  · have hexp : (bitLen m : ℤ) - 1 + e = 127 := by omega
    refine .inr ⟨hexp, fun hpow => h.ne ?_⟩
    obtain ⟨l, hl, -⟩ := bitLen_says hm
    rw [← hexp, hl, zpow_add₀ two_ne_zero]
    congr 1
    rw [hl, Nat.add_sub_cancel] at hpow
    rw [← hpow]
    push_cast
    rw [add_sub_cancel_right, zpow_natCast]

/-- R109: the whole logarithm that the mode names of a magnitude, from its logarithm rounded down. -/
def e8m0Log (rm : Rounding) (m : ℕ) (e : ℤ) : ℤ := (bitLen m : ℤ) - 1 + e + if 2 ^ (bitLen m - 1) ≠ m ∧ (rm = .rne ∨ rm = .rup) then 1 else 0

/-- R109: a magnitude from 2^-127 to 2^127. -/
theorem toE8m0_between (hlow : (2 : ℚ) ^ (-127 : ℤ) ≤ m * 2 ^ e) (hhigh : (m : ℚ) * 2 ^ e ≤ 2 ^ (127 : ℤ)) : m ≠ 0 ∧ -127 ≤ (bitLen m : ℤ) - 1 + e ∧
    toE8m0 rm (.fin n m e) = { bits := (e8m0Log rm m e + 127).toNat, flags := if 2 ^ (bitLen m - 1) = m then 0 else 16 } := by
  have hm : m ≠ 0 := by
    rintro rfl
    rw [Nat.cast_zero, zero_mul] at hlow
    exact absurd hlow (not_le.mpr (by positivity))
  obtain ⟨hfloor, hnext⟩ := zpow_log_le hm e
  have hmin := hlow.trans_lt hnext
  have hmax := hfloor.trans hhigh
  rw [zpow_lt_zpow_iff_right₀ one_lt_two] at hmin
  rw [zpow_le_zpow_iff_right₀ one_lt_two] at hmax
  have htop : (bitLen m : ℤ) - 1 + e = 127 → 2 ^ (bitLen m - 1) = m := fun hexp =>
    (isPow2_iff hm e).mpr ⟨127, le_antisymm hhigh (hexp ▸ hfloor)⟩
  refine ⟨hm, by omega, ?_⟩
  rw [toE8m0, if_neg hm]
  dsimp only
  rw [if_neg, if_neg (by omega), e8m0Log]
  · simp only [Bool.and_eq_true, Bool.or_eq_true, Bool.not_eq_true', decide_eq_false_iff_not, beq_iff_eq, decide_eq_true_eq, add_right_comm _ (127 : ℤ), fNX, ne_eq]
  · simp only [Bool.or_eq_true, Bool.and_eq_true, decide_eq_true_eq, Bool.not_eq_true', decide_eq_false_iff_not]
    rintro (h | ⟨hexp, hpow⟩)
    · omega
    · exact hpow (htop hexp)

/-- R109: that logarithm is the floor under RTZ and RDN and the ceiling under RNE and RUP. -/
theorem e8m0Log_says (hm : m ≠ 0) : (rm = .rtz ∨ rm = .rdn → (2 : ℚ) ^ e8m0Log rm m e ≤ m * 2 ^ e ∧ (m : ℚ) * 2 ^ e < 2 ^ (e8m0Log rm m e + 1)) ∧
    (rm = .rne ∨ rm = .rup → (2 : ℚ) ^ (e8m0Log rm m e - 1) < m * 2 ^ e ∧ (m : ℚ) * 2 ^ e ≤ 2 ^ e8m0Log rm m e) := by
  obtain ⟨hfloor, hnext⟩ := zpow_log_le hm e
  refine ⟨fun hdown => ?_, fun hup => ?_⟩
  · have hstay : ¬(2 ^ (bitLen m - 1) ≠ m ∧ (rm = .rne ∨ rm = .rup)) := by rcases hdown with rfl | rfl <;> simp
    rw [e8m0Log, if_neg hstay, add_zero]
    exact ⟨hfloor, hnext⟩
  · by_cases hpow : 2 ^ (bitLen m - 1) = m
    · rw [e8m0Log, if_neg fun h => h.1 hpow, add_zero]
      obtain ⟨j, hj⟩ := (isPow2_iff hm e).mp hpow
      rw [hj] at hfloor hnext ⊢
      rw [zpow_le_zpow_iff_right₀ one_lt_two] at hfloor
      rw [zpow_lt_zpow_iff_right₀ one_lt_two] at hnext
      have hexp : (bitLen m : ℤ) - 1 + e = j := by omega
      rw [hexp]
      exact ⟨zpow_lt_zpow_right₀ one_lt_two (sub_one_lt j), le_rfl⟩
    · rw [e8m0Log, if_pos ⟨hpow, hup⟩, add_sub_cancel_right]
      exact ⟨hfloor.lt_of_ne fun heq => hpow ((isPow2_iff hm e).mpr ⟨_, heq.symm⟩), hnext.le⟩

end

/-! ### The formats of CVT -/

/-- R104: the width of an integer format. -/
def intWidth (fmt : ℕ) : ℕ := if fmt ≤ 2 then 8 else if fmt ≤ 4 then 16 else 32

theorem convertTo_int {fmt : ℕ} (hlow : 1 ≤ fmt) (hhigh : fmt ≤ 6) (rm : Rounding) (ftz : Bool) (v : FVal) :
    convertTo fmt rm ftz v = toIntRes rm (fmt == 1 || fmt == 3 || fmt == 5) (intWidth fmt) v := by
  interval_cases fmt <;> rfl

theorem convertTo_e8m0 (rm : Rounding) (ftz : Bool) (v : FVal) : convertTo 0x0D rm ftz v = toE8m0 rm v := rfl

/-- Settles O39: each format by the lemmas of its conversion. -/
theorem conversionsFollowTheirTable : Obligations.ConversionsFollowTheirTable := by
  unfold Obligations.ConversionsFollowTheirTable
  intro rm ftz num rounds
  refine ⟨?_, fun n q => rfl, fun n => rfl, ?_, fun n => ?_, fun n q => ?_⟩
  · intro fmt hlow hhigh sg w lo hi bits
    refine ⟨fun n m e => ?_, fun n q => ?_, fun n => ?_⟩
    · obtain ⟨z, hround, hin, hbelow, habove⟩ := toIntRes_fin rm sg w n m e
      exact ⟨z, hround, (convertTo_int hlow hhigh rm ftz _).symm ▸ hin, (convertTo_int hlow hhigh rm ftz _).symm ▸ hbelow,
        (convertTo_int hlow hhigh rm ftz _).symm ▸ habove⟩
    · rw [convertTo_int hlow hhigh]
      rfl
    · have hw : w ≤ 64 := by simp only [w]; split_ifs <;> omega
      rw [convertTo_int hlow hhigh]
      exact toIntRes_inf rm sg w hw n
  · intro n m e q r
    refine ⟨toE8m0_tiny rm n, toE8m0_huge rm n, fun hlow hhigh => ?_⟩
    obtain ⟨hm, hmin, hres⟩ := toE8m0_between rm n hlow hhigh
    obtain ⟨hdown, hup⟩ := e8m0Log_says rm (e := e) hm
    have hr : r = _ := hres
    have hlog : -127 ≤ e8m0Log rm m e := by rw [e8m0Log]; split <;> omega
    rw [hr]
    exact ⟨_, rfl, hlog, hdown, hup, fun hpow => if_pos ((isPow2_iff hm e).mpr hpow), fun hpow => if_neg (mt (isPow2_iff hm e).mp hpow)⟩
  · cases n with
    | true => exact ⟨rfl, rfl, rfl⟩
    | false => exact ⟨rfl, rfl, rfl⟩
  · cases n with
    | true => exact ⟨rfl, rfl, rfl, rfl, rfl, rfl⟩
    | false => exact ⟨rfl, rfl, rfl, rfl, rfl, rfl⟩

end Sys2Proof.Machine
end

section
/-! Codes of a floating-point format and their magnitudes (R108), and rounding to a format (R109, R110). -/

namespace Sys2Proof.Machine

/-! ### Magnitudes of codes (R108) -/

/-- R108: the formats of IEEE form: their highest exponent field is that of infinity and the NaNs. -/
structure FloatFmt.IsIeee (f : FloatFmt) : Prop where
  special : f.special = .ieee
  ebits : 2 ≤ f.ebits
  mbits : 1 ≤ f.mbits

/-- R108: the whole significand of a code without its sign. -/
def FloatFmt.significand (f : FloatFmt) (c : ℕ) : ℕ := if c / 2 ^ f.mbits = 0 then c % 2 ^ f.mbits else 2 ^ f.mbits + c % 2 ^ f.mbits

/-- R108: the exponent of the last place of a code without its sign: subnormal codes share that of the least normal ones. -/
def FloatFmt.place (f : FloatFmt) (c : ℕ) : ℤ := ((c / 2 ^ f.mbits - 1 : ℕ) : ℤ) + (1 - f.bias - f.mbits)

/-- R108: the magnitude of a code without its sign. -/
def FloatFmt.magnitude (f : FloatFmt) (c : ℕ) : ℚ := f.significand c * 2 ^ f.place c

namespace FloatFmt

variable (f : FloatFmt)

/-- R108: the code of `k` units of the place `b` above the least: a carry into the next exponent field is no exception. -/
theorem magnitude_of_parts {b k : ℕ} (hk : k ≤ 2 ^ (f.mbits + 1)) (hb : b = 0 ∨ 2 ^ f.mbits ≤ k) :
    f.magnitude (b * 2 ^ f.mbits + k) = k * 2 ^ ((b : ℤ) + (1 - f.bias - f.mbits)) := by
  have hpos := Nat.two_pow_pos f.mbits
  rw [Nat.pow_succ] at hk
  unfold magnitude significand place
  generalize 2 ^ f.mbits = d at *
  rcases Nat.lt_trichotomy k (2 * d) with hlt | heq | hgt
  · by_cases hsub : k < d
    · obtain rfl : b = 0 := hb.resolve_right (by omega)
      rw [Nat.zero_mul, Nat.zero_add, Nat.div_eq_of_lt hsub, if_pos rfl, Nat.mod_eq_of_lt hsub]
    · obtain ⟨r, rfl⟩ := Nat.exists_eq_add_of_le (Nat.not_lt.mp hsub)
      have hr : r < d := by omega
      have hcode : b * d + (d + r) = d * (b + 1) + r := by ring
      rw [hcode, Nat.mul_add_div hpos, Nat.mul_add_mod, Nat.div_eq_of_lt hr, Nat.mod_eq_of_lt hr, if_neg (by omega), Nat.add_zero, Nat.add_sub_cancel]
  · subst heq
    have hcode : b * d + 2 * d = d * (b + 2) := by ring
    rw [hcode, Nat.mul_div_cancel_left _ hpos, Nat.mul_mod_right, if_neg (by omega), Nat.add_zero, show b + 2 - 1 = b + 1 by omega]
    push_cast
    rw [add_right_comm (b : ℤ), zpow_add_one₀ two_ne_zero]
    ring
  · omega

/-- R108: every code has such parts. -/
theorem code_parts (c : ℕ) : ∃ b k, c = b * 2 ^ f.mbits + k ∧ k < 2 ^ (f.mbits + 1) ∧ (b = 0 ∨ 2 ^ f.mbits ≤ k) := by
  have hpos := Nat.two_pow_pos f.mbits
  have hlt := Nat.mod_lt c hpos
  have hsplit := Nat.div_add_mod' c (2 ^ f.mbits)
  rw [Nat.pow_succ]
  cases hexp : c / 2 ^ f.mbits with
  | zero =>
    rw [hexp] at hsplit
    exact ⟨0, c % 2 ^ f.mbits, hsplit.symm, by omega, .inl rfl⟩
  | succ b =>
    rw [hexp, Nat.succ_mul] at hsplit
    exact ⟨b, 2 ^ f.mbits + c % 2 ^ f.mbits, by omega, by omega, .inr (by omega)⟩

theorem magnitude_strictMono : StrictMono f.magnitude := by
  refine strictMono_nat_of_lt_succ fun c => ?_
  obtain ⟨b, k, rfl, hk, hb⟩ := f.code_parts c
  rw [Nat.add_assoc, f.magnitude_of_parts hk.le hb, f.magnitude_of_parts hk (hb.imp_right fun h => by omega)]
  push_cast
  exact mul_lt_mul_of_pos_right (lt_add_one _) (by positivity)

theorem magnitude_nonneg (c : ℕ) : 0 ≤ f.magnitude c := by
  unfold magnitude
  positivity

/-- R108: between two neighbouring multiples of a place there is no code's magnitude, if the lower one fills the significand or the place is the least. -/
theorem magnitude_not_between (c : ℕ) {b k : ℕ} (hb : b = 0 ∨ 2 ^ f.mbits ≤ k) {l : ℤ} (hl : l = (b : ℤ) + (1 - f.bias - f.mbits)) :
    f.magnitude c ≤ k * 2 ^ l ∨ ((k + 1 : ℕ) : ℚ) * 2 ^ l ≤ f.magnitude c := by
  obtain ⟨b', k', rfl, hk', hb'⟩ := f.code_parts c
  rw [f.magnitude_of_parts hk'.le hb']
  have hpow : (0 : ℚ) < 2 ^ l := by positivity
  rcases Nat.lt_or_ge b' b with hbelow | habove
  · left
    have hk : (k' : ℚ) ≤ 2 * k := by
      have hfull : 2 ^ f.mbits ≤ k := hb.resolve_left (by omega)
      rw [Nat.pow_succ] at hk'
      have hle : k' ≤ 2 * k := by omega
      exact_mod_cast hle
    have hexp : (2 : ℚ) ^ ((b' : ℤ) + (1 - f.bias - f.mbits)) ≤ 2 ^ (l - 1) := zpow_le_zpow_right₀ one_le_two (by omega)
    calc (k' : ℚ) * 2 ^ ((b' : ℤ) + (1 - f.bias - f.mbits)) ≤ 2 * k * 2 ^ (l - 1) := mul_le_mul hk hexp (by positivity) (by positivity)
      _ = k * 2 ^ l := by rw [zpow_sub_one₀ two_ne_zero]; ring
  · obtain ⟨d, rfl⟩ := Nat.exists_eq_add_of_le habove
    have hunits : (k' : ℚ) * 2 ^ (((b + d : ℕ) : ℤ) + (1 - f.bias - f.mbits)) = (k' * 2 ^ d : ℕ) * 2 ^ l := by
      rw [hl]
      push_cast
      rw [add_right_comm, zpow_add₀ two_ne_zero _ (d : ℤ), zpow_natCast]
      ring
    rw [hunits, mul_le_mul_iff_left₀ hpow, mul_le_mul_iff_left₀ hpow, Nat.cast_le, Nat.cast_le]
    omega

/-! ### Values of codes (R108) -/

variable {f}

/-- R108: the value of a code, as the statements read it. -/
def finiteValue (f : FloatFmt) (c : ℕ) : Option ℚ :=
  match f.decode c with
  | .fin n m e => some (finValue n m e)
  | _ => none

/-- A code without its sign. -/
def unsignedCode (f : FloatFmt) (c : ℕ) : ℕ := c % 2 ^ (f.ebits + f.mbits)

theorem infCode_lt (f : FloatFmt) : f.infCode < 2 ^ (f.ebits + f.mbits) := by
  have hone : 2 ^ f.ebits - 1 < 2 ^ f.ebits := Nat.sub_lt (Nat.two_pow_pos _) Nat.one_pos
  rw [infCode, Nat.pow_add]
  exact Nat.mul_lt_mul_of_pos_right hone (Nat.two_pow_pos _)

theorem maxCode_lt_infCode (hf : f.IsIeee) : f.maxCode + 1 = f.infCode := by
  have hmul : 0 < f.infCode := Nat.mul_pos (Nat.sub_pos_of_lt (Nat.one_lt_two_pow (by have := hf.ebits; omega))) (Nat.two_pow_pos _)
  rw [maxCode, hf.special]
  dsimp only
  omega

theorem exponent_eq (f : FloatFmt) (c : ℕ) : c / 2 ^ f.mbits % 2 ^ f.ebits = f.unsignedCode c / 2 ^ f.mbits := by
  rw [unsignedCode, Nat.pow_add, Nat.mod_mul_left_div_self]

theorem fraction_eq (f : FloatFmt) (c : ℕ) : c % 2 ^ f.mbits = f.unsignedCode c % 2 ^ f.mbits := by
  rw [unsignedCode, Nat.mod_mod_of_dvd _ (Nat.pow_dvd_pow 2 (by omega))]

theorem unsignedCode_lt_infCode_iff (f : FloatFmt) (c : ℕ) : f.unsignedCode c < f.infCode ↔ c / 2 ^ f.mbits % 2 ^ f.ebits ≠ 2 ^ f.ebits - 1 := by
  have hlt : c / 2 ^ f.mbits % 2 ^ f.ebits < 2 ^ f.ebits := Nat.mod_lt _ (Nat.two_pow_pos _)
  rw [infCode, ← Nat.div_lt_iff_lt_mul (Nat.two_pow_pos _), ← exponent_eq]
  omega

/-- R108: what a code below infinity's stands for. -/
theorem decode_finite (hf : f.IsIeee) {c : ℕ} (h : f.unsignedCode c < f.infCode) :
    f.decode c = .fin (f.sign c) (f.significand (f.unsignedCode c)) (f.place (f.unsignedCode c)) := by
  have hexp := (f.unsignedCode_lt_infCode_iff c).mp h
  rw [decode, hf.special]
  simp only [if_neg hexp]
  rw [exponent_eq, fraction_eq, significand, place]
  by_cases hzero : f.unsignedCode c / 2 ^ f.mbits = 0
  · rw [if_pos hzero, if_pos hzero, hzero, Nat.zero_sub, Nat.cast_zero, zero_add]
  · have hplace : ((f.unsignedCode c / 2 ^ f.mbits : ℕ) : ℤ) - f.bias - f.mbits = ((f.unsignedCode c / 2 ^ f.mbits - 1 : ℕ) : ℤ) + (1 - f.bias - f.mbits) := by
      generalize f.unsignedCode c / 2 ^ f.mbits = x at *
      omega
    rw [if_neg hzero, if_neg hzero, hplace]

theorem finiteValue_finite (hf : f.IsIeee) {c : ℕ} (h : f.unsignedCode c < f.infCode) :
    f.finiteValue c = some ((if f.sign c then -1 else 1) * f.magnitude (f.unsignedCode c)) := by
  rw [finiteValue, decode_finite hf h, magnitude, ← mul_assoc]
  rfl

theorem finiteValue_special (hf : f.IsIeee) {c : ℕ} (h : f.infCode ≤ f.unsignedCode c) : f.finiteValue c = none := by
  have hexp : c / 2 ^ f.mbits % 2 ^ f.ebits = 2 ^ f.ebits - 1 := not_not.mp (mt (f.unsignedCode_lt_infCode_iff c).mpr (Nat.not_lt.mpr h))
  rw [finiteValue, decode, hf.special]
  simp only [if_pos hexp]
  by_cases hinf : c % 2 ^ f.mbits = 0
  · rw [if_pos hinf]
  · rw [if_neg hinf]

/-- R108: every finite value is a signed magnitude. -/
theorem finiteValue_some (hf : f.IsIeee) {c : ℕ} {u : ℚ} (h : f.finiteValue c = some u) :
    ∃ c', u = f.magnitude c' ∨ u = -f.magnitude c' := by
  rcases Nat.lt_or_ge (f.unsignedCode c) f.infCode with hlt | hge
  · rw [finiteValue_finite hf hlt, Option.some.injEq] at h
    refine ⟨f.unsignedCode c, ?_⟩
    rw [← h]
    split
    · exact .inr (neg_one_mul _)
    · exact .inl (one_mul _)
  · rw [finiteValue_special hf hge] at h
    exact nomatch h

theorem withSign_says (neg : Bool) {c : ℕ} (h : c < 2 ^ (f.ebits + f.mbits)) : f.unsignedCode (f.withSign neg c) = c ∧ f.sign (f.withSign neg c) = neg := by
  have hpos := Nat.two_pow_pos (f.ebits + f.mbits)
  rw [withSign, unsignedCode, sign]
  cases neg with
  | false => rw [if_neg Bool.false_ne_true, Nat.add_zero, Nat.mod_eq_of_lt h, Nat.div_eq_of_lt h]; exact ⟨rfl, rfl⟩
  | true => rw [if_pos rfl, Nat.add_mod_right, Nat.mod_eq_of_lt h, Nat.add_div_right _ hpos, Nat.div_eq_of_lt h]; exact ⟨rfl, rfl⟩

theorem finiteValue_withSign (hf : f.IsIeee) (neg : Bool) {c : ℕ} (h : c < f.infCode) :
    f.finiteValue (f.withSign neg c) = some ((if neg then -1 else 1) * f.magnitude c) := by
  obtain ⟨hcode, hsign⟩ := withSign_says (f := f) neg (h.trans f.infCode_lt)
  rw [finiteValue_finite hf (by rwa [hcode]), hcode, hsign]

/-- R108: the largest finite value. -/
theorem finiteValue_maxCode (hf : f.IsIeee) : f.finiteValue f.maxCode = some (f.magnitude f.maxCode) := by
  have hlt := maxCode_lt_infCode hf
  have h := finiteValue_withSign hf false (c := f.maxCode) (by omega)
  rwa [withSign, if_neg Bool.false_ne_true, Nat.add_zero, if_neg Bool.false_ne_true, one_mul] at h

end FloatFmt

/-! ### The best of the representable values (R110) -/

/-- R110: the mode that rounds the negated value to the negated result. -/
def Rounding.mirror : Rounding → Rounding
  | .rup => .rdn
  | .rdn => .rup
  | rm => rm

/-- R110: of `v` and another value `u`, `v` is the one that the mode names of `q`; `even` is what a tie asks. -/
def IsBest (rm : Rounding) (q v u : ℚ) (even : Prop) : Prop :=
  match rm with
  | .rdn => v ≤ q ∧ (u ≤ q → u ≤ v)
  | .rup => q ≤ v ∧ (q ≤ u → v ≤ u)
  | .rtz => |v| ≤ |q| ∧ (|u| ≤ |q| → |u| ≤ |v|)
  | .rne => |v - q| ≤ |u - q| ∧ (|v - q| = |u - q| → u ≠ v → even)

section
variable {rm : Rounding} {q v u : ℚ} {even : Prop}

/-- R110: a representable value is its own best. -/
theorem IsBest.self (rm : Rounding) (q u : ℚ) (even : Prop) : IsBest rm q q u even := by
  cases rm with
  | rne =>
    show |q - q| ≤ |u - q| ∧ (|q - q| = |u - q| → u ≠ q → even)
    rw [sub_self, abs_zero]
    exact ⟨abs_nonneg _, fun heq hne => absurd (sub_eq_zero.mp (abs_eq_zero.mp heq.symm)) hne⟩
  | rtz => exact ⟨le_rfl, id⟩
  | rup => exact ⟨le_rfl, id⟩
  | rdn => exact ⟨le_rfl, id⟩

theorem IsBest.neg (h : IsBest rm.mirror q v u even) : IsBest rm (-q) (-v) (-u) even := by
  cases rm with
  | rne =>
    show |-v - -q| ≤ |-u - -q| ∧ (|-v - -q| = |-u - -q| → -u ≠ -v → even)
    rw [neg_sub_neg, neg_sub_neg, abs_sub_comm q v, abs_sub_comm q u, ne_eq, neg_inj]
    exact h
  | rtz =>
    show |-v| ≤ |-q| ∧ (|-u| ≤ |-q| → |-u| ≤ |-v|)
    rw [abs_neg, abs_neg, abs_neg]
    exact h
  | rup => exact ⟨neg_le_neg h.1, fun hle => neg_le_neg (h.2 (neg_le_neg_iff.mp hle))⟩
  | rdn => exact ⟨neg_le_neg h.1, fun hle => neg_le_neg (h.2 (neg_le_neg_iff.mp hle))⟩

theorem IsBest.scale (h : IsBest rm q v u even) {a : ℚ} (ha : 0 < a) : IsBest rm (q * a) (v * a) (u * a) even := by
  have hle : ∀ x y : ℚ, x * a ≤ y * a ↔ x ≤ y := fun x y => mul_le_mul_iff_left₀ ha
  have hinj : ∀ x y : ℚ, x * a = y * a ↔ x = y := fun x y => mul_left_inj' ha.ne'
  have habs : ∀ x : ℚ, |x * a| = |x| * a := fun x => by rw [abs_mul, abs_of_pos ha]
  cases rm with
  | rne =>
    show |v * a - q * a| ≤ |u * a - q * a| ∧ (|v * a - q * a| = |u * a - q * a| → u * a ≠ v * a → even)
    rw [← sub_mul, ← sub_mul, habs, habs, hle, hinj, ne_eq, hinj]
    exact h
  | rtz =>
    show |v * a| ≤ |q * a| ∧ (|u * a| ≤ |q * a| → |u * a| ≤ |v * a|)
    rw [habs, habs, habs, hle, hle, hle]
    exact h
  | rup =>
    show q * a ≤ v * a ∧ (q * a ≤ u * a → v * a ≤ u * a)
    rw [hle, hle, hle]
    exact h
  | rdn =>
    show v * a ≤ q * a ∧ (u * a ≤ q * a → u * a ≤ v * a)
    rw [hle, hle, hle]
    exact h

end

section
variable {rm : Rounding} {neg : Bool} {x u : ℚ} {k : ℕ}

theorem RoundedTo.mirror (h : RoundedTo rm true x k) : RoundedTo rm.mirror false x k := by
  cases rm <;> exact h

/-- R110: a rounding lies less than a unit away. -/
theorem RoundedTo.near (h : RoundedTo rm neg x k) : x - 1 < k ∧ (k : ℚ) < x + 1 := by
  have hbelow : (k : ℚ) ≤ x ∧ x < k + 1 → x - 1 < k ∧ (k : ℚ) < x + 1 := fun h => ⟨by linarith [h.2], by linarith [h.1]⟩
  have habove : (k : ℚ) - 1 < x ∧ x ≤ k → x - 1 < k ∧ (k : ℚ) < x + 1 := fun h => ⟨by linarith [h.2], by linarith [h.1]⟩
  cases rm with
  | rne =>
    obtain ⟨hlow, hhigh⟩ := abs_le.mp h.1
    exact ⟨by linarith, by linarith⟩
  | rtz => exact hbelow h
  | rup => cases neg with
    | true => exact hbelow h
    | false => exact habove h
  | rdn => cases neg with
    | true => exact habove h
    | false => exact hbelow h

theorem RoundedTo.le_of_le (h : RoundedTo rm neg x k) {j : ℕ} (hj : (j : ℚ) ≤ x) : j ≤ k := by
  have hlt : (j : ℚ) < (k + 1 : ℕ) := by push_cast; linarith [h.near.1]
  exact Nat.lt_succ_iff.mp (by exact_mod_cast hlt)

theorem RoundedTo.ge_of_ge (h : RoundedTo rm neg x k) {j : ℕ} (hj : x ≤ j) : k ≤ j := by
  have hlt : (k : ℚ) < (j + 1 : ℕ) := by push_cast; linarith [h.near.2]
  exact Nat.lt_succ_iff.mp (by exact_mod_cast hlt)

/-- R110: the best of two neighbours in distance: of a value from `l` to below `l + 1`, no value outside the gap is nearer than its nearest whole number. -/
theorem nearest_best {l : ℕ} (hk : k = l ∨ k = l + 1) (hnear : |x - k| ≤ 1 / 2) (htie : |x - k| = 1 / 2 → k % 2 = 0) (hl : (l : ℚ) ≤ x)
    (hx : x < l + 1) (hu : u ≤ l ∨ (l : ℚ) + 1 ≤ u) : |(k : ℚ) - x| ≤ |u - x| ∧ (|(k : ℚ) - x| = |u - x| → u ≠ k → k % 2 = 0) := by
  have hdist : |u - x| = if u ≤ l then x - u else u - x := by
    split
    · next h => rw [abs_sub_comm, abs_of_nonneg (by linarith)]
    · next h => exact abs_of_nonneg (by linarith [hu.resolve_left h])
  rw [abs_sub_comm (k : ℚ) x, hdist]
  rcases hk with rfl | rfl
  · rw [abs_of_nonneg (by linarith)] at hnear htie ⊢
    split
    · exact ⟨by linarith, fun heq hne => absurd (by linarith) hne⟩
    · next h =>
      have hge := hu.resolve_left h
      exact ⟨by linarith, fun heq _ => htie (by linarith)⟩
  · push_cast at hnear htie ⊢
    rw [abs_of_nonpos (by linarith)] at hnear htie ⊢
    split
    · exact ⟨by linarith, fun heq _ => htie (by linarith)⟩
    · next h =>
      have hge := hu.resolve_left h
      exact ⟨by linarith, fun heq hne => absurd (by linarith) hne⟩

/-- R110: of a value from `l` to below `l + 1` the rounding is the best among the values whose magnitudes do not lie strictly between these two. -/
theorem RoundedTo.best_pos {l : ℕ} (h : RoundedTo rm false x k) (hl : (l : ℚ) ≤ x) (hx : x < l + 1) (habs : |u| ≤ l ∨ (l : ℚ) + 1 ≤ |u|) :
    IsBest rm x k u (k % 2 = 0) := by
  have hlow : l ≤ k := h.le_of_le hl
  have hhigh : k ≤ l + 1 := h.ge_of_ge (by push_cast; exact hx.le)
  have hk : k = l ∨ k = l + 1 := by omega
  have hl0 : (0 : ℚ) ≤ l := Nat.cast_nonneg l
  have hu : u ≤ l ∨ (l : ℚ) + 1 ≤ u := by
    rcases le_or_gt 0 u with hpos | hneg
    · rwa [abs_of_nonneg hpos] at habs
    · exact .inl (by linarith)
  have hdown : ∀ y : ℚ, y ≤ l ∨ (l : ℚ) + 1 ≤ y → y ≤ x → y ≤ k := fun y hy hle =>
    (hy.resolve_right fun hge => by linarith).trans (by exact_mod_cast hlow)
  cases rm with
  | rne => exact nearest_best hk h.1 h.2 hl hx hu
  | rtz =>
    show |(k : ℚ)| ≤ |x| ∧ (|u| ≤ |x| → |u| ≤ |(k : ℚ)|)
    rw [abs_of_nonneg (Nat.cast_nonneg k), abs_of_nonneg (hl0.trans hl)]
    exact ⟨h.1, hdown _ habs⟩
  | rup =>
    refine ⟨h.2, fun hle => ?_⟩
    rcases hu with hu | hu
    · exact (Nat.cast_le.mpr (h.ge_of_ge (hle.trans hu))).trans (hl.trans hle)
    · exact (Nat.cast_le.mpr hhigh).trans (by push_cast; exact hu)
  | rdn => exact ⟨h.1, hdown _ hu⟩

/-- R110: the same of a value of either sign. -/
theorem RoundedTo.best {l : ℕ} (h : RoundedTo rm neg x k) (hl : (l : ℚ) ≤ x) (hx : x < l + 1) (habs : |u| ≤ l ∨ (l : ℚ) + 1 ≤ |u|) :
    IsBest rm ((if neg then -1 else 1) * x) ((if neg then -1 else 1) * k) u (k % 2 = 0) := by
  cases neg with
  | false =>
    rw [if_neg Bool.false_ne_true, one_mul, one_mul]
    exact h.best_pos hl hx habs
  | true =>
    rw [if_pos rfl, neg_one_mul, neg_one_mul, ← neg_neg u]
    exact (h.mirror.best_pos hl hx (by rwa [abs_neg])).neg

end

/-! ### Rounding to a format (R109, R110) -/

namespace FloatFmt

variable (f : FloatFmt) (rm : Rounding) (neg : Bool) (m : ℕ) (e : ℤ)

/-- R109: the place of the last bit of a result: the value's own, or the least of the format. -/
def roundPlace : ℤ := max ((bitLen m : ℤ) - 1 + e) (1 - f.bias) - f.mbits

/-- R109: how far that place lies above the least. -/
def roundField : ℕ := (f.roundPlace m e + f.mbits + f.bias - 1).toNat

/-- R109: the code that a rounding makes, before its range is looked at. -/
def roundCode : ℕ := f.roundField m e * 2 ^ f.mbits + (roundAt rm neg m e (f.roundPlace m e)).1

theorem round_zero (ftz : Bool) : f.round rm ftz neg 0 e = { bits := f.withSign neg 0, flags := 0 } := if_pos rfl

variable {m}

/-- R109: a rounding that stays within the format. -/
theorem round_within (hm : m ≠ 0) (h : f.roundCode rm neg m e ≤ f.maxCode) :
    (f.round rm false neg m e).bits = f.withSign neg (f.roundCode rm neg m e) ∧
      (f.round rm false neg m e).flags.testBit 4 = (roundAt rm neg m e (f.roundPlace m e)).2 := by
  have hcode : ¬ f.maxCode < (max ((bitLen m : ℤ) - 1 + e) (1 - f.bias) - f.mbits + f.mbits + f.bias - 1).toNat * 2 ^ f.mbits +
      (roundAt rm neg m e (max ((bitLen m : ℤ) - 1 + e) (1 - f.bias) - f.mbits)).1 := Nat.not_lt.mpr h
  rw [round, if_neg hm]
  dsimp only
  rw [if_neg hcode, Bool.false_and, Bool.false_and, if_neg Bool.false_ne_true]
  refine ⟨rfl, ?_⟩
  rw [Nat.testBit_or, ← roundPlace]
  cases (roundAt rm neg m e (f.roundPlace m e)).2 with
  | true => rfl
  | false => rw [Bool.and_false]; rfl

/-- R109: a rounding that leaves the format. -/
theorem round_beyond (hm : m ≠ 0) (h : f.maxCode < f.roundCode rm neg m e) (ftz : Bool) : f.round rm ftz neg m e = f.overflow rm neg := by
  have hcode : f.maxCode < (max ((bitLen m : ℤ) - 1 + e) (1 - f.bias) - f.mbits + f.mbits + f.bias - 1).toNat * 2 ^ f.mbits +
      (roundAt rm neg m e (max ((bitLen m : ℤ) - 1 + e) (1 - f.bias) - f.mbits)).1 := h
  rw [round, if_neg hm]
  dsimp only
  rw [if_pos hcode]

theorem overflow_bits : (f.overflow rm neg).bits = f.withSign neg f.maxCode ∨ (f.overflow rm neg).bits = f.withSign neg f.infCode := by
  have hcases : ∀ inf : Bool, f.withSign neg (if inf then f.infCode else f.maxCode) = f.withSign neg f.maxCode ∨
      f.withSign neg (if inf then f.infCode else f.maxCode) = f.withSign neg f.infCode := fun inf => by
    cases inf with
    | true => exact .inr rfl
    | false => exact .inl rfl
  exact hcases _

theorem roundPlace_eq : f.roundPlace m e = (f.roundField m e : ℤ) + (1 - f.bias - f.mbits) := by
  rw [roundField, roundPlace]
  omega

/-- R109: a value in units of its rounding's place: below twice the significand's range, and within it unless the place is the least. -/
theorem roundUnits_range (hm : m ≠ 0) : (m : ℚ) * 2 ^ (e - f.roundPlace m e) < (2 ^ (f.mbits + 1) : ℕ) ∧
    (f.roundField m e = 0 ∨ ((2 ^ f.mbits : ℕ) : ℚ) ≤ m * 2 ^ (e - f.roundPlace m e)) := by
  have hlog := zpow_log_le hm (e - f.roundPlace m e)
  have hplace : f.roundPlace m e = max ((bitLen m : ℤ) - 1 + e) (1 - f.bias) - f.mbits := rfl
  have hfield := f.roundPlace_eq e (m := m)
  push_cast
  rw [← zpow_natCast, ← zpow_natCast]
  refine ⟨hlog.2.trans_le (zpow_le_zpow_right₀ one_le_two (by push_cast; omega)), ?_⟩
  by_cases hmin : f.roundField m e = 0
  · exact .inl hmin
  · exact .inr ((zpow_le_zpow_right₀ one_le_two (by omega)).trans hlog.1)

/-- R109: the magnitude of the code that a rounding makes. -/
theorem magnitude_roundCode (hm : m ≠ 0) :
    f.magnitude (f.roundCode rm neg m e) = (roundAt rm neg m e (f.roundPlace m e)).1 * 2 ^ f.roundPlace m e := by
  obtain ⟨hround, -⟩ := roundAt_says rm neg m e (f.roundPlace m e)
  obtain ⟨hhigh, hlow⟩ := f.roundUnits_range e hm
  rw [roundCode, f.magnitude_of_parts (hround.ge_of_ge hhigh.le) (hlow.imp_right hround.le_of_le), ← roundPlace_eq]

theorem finValue_units : finValue neg m e = (if neg then -1 else 1) * (m * 2 ^ (e - f.roundPlace m e)) * 2 ^ f.roundPlace m e := by
  rw [finValue, mul_assoc, mul_assoc, mul_assoc, ← zpow_add₀ two_ne_zero, sub_add_cancel]

/-- R109: the code's magnitudes lie outside the gap between the whole multiples of the place next to a value. -/
theorem magnitude_gap (hm : m ≠ 0) (c : ℕ) {l : ℕ} (hl : l = ⌊(m : ℚ) * 2 ^ (e - f.roundPlace m e)⌋₊) :
    f.magnitude c / 2 ^ f.roundPlace m e ≤ l ∨ (l : ℚ) + 1 ≤ f.magnitude c / 2 ^ f.roundPlace m e := by
  have hpow : (0 : ℚ) < 2 ^ f.roundPlace m e := by positivity
  obtain ⟨-, hlow⟩ := f.roundUnits_range e hm
  have hfull : f.roundField m e = 0 ∨ 2 ^ f.mbits ≤ l := hlow.imp_right fun h => hl ▸ Nat.le_floor h
  rw [div_le_iff₀ hpow, le_div_iff₀ hpow]
  have hgap := f.magnitude_not_between c hfull (f.roundPlace_eq e)
  push_cast at hgap
  exact hgap

/-- R109: a result is no larger than the least representable magnitude not below the value, and no smaller than the largest not above it. -/
theorem roundCode_le_of_le (hm : m ≠ 0) {c : ℕ} (h : (m : ℚ) * 2 ^ e ≤ f.magnitude c) : f.roundCode rm neg m e ≤ c := by
  obtain ⟨hround, -⟩ := roundAt_says rm neg m e (f.roundPlace m e)
  have hpow : (0 : ℚ) < 2 ^ f.roundPlace m e := by positivity
  have hunits : (m : ℚ) * 2 ^ (e - f.roundPlace m e) ≤ f.magnitude c / 2 ^ f.roundPlace m e := by
    rw [le_div_iff₀ hpow, mul_assoc, ← zpow_add₀ two_ne_zero, sub_add_cancel]
    exact h
  have hx : (0 : ℚ) ≤ m * 2 ^ (e - f.roundPlace m e) := by positivity
  rw [← f.magnitude_strictMono.le_iff_le, f.magnitude_roundCode rm neg e hm, ← le_div_iff₀ hpow]
  rcases f.magnitude_gap e hm c rfl with hle | hge
  · have hwhole := hround.ge_of_ge (hunits.trans hle)
    exact (Nat.cast_le.mpr hwhole).trans ((Nat.floor_le hx).trans hunits)
  · have hwhole : _ ≤ ⌊(m : ℚ) * 2 ^ (e - f.roundPlace m e)⌋₊ + 1 := hround.ge_of_ge (by push_cast; exact (Nat.lt_floor_add_one _).le)
    exact (Nat.cast_le.mpr hwhole).trans (by push_cast; exact hge)

theorem le_roundCode_of_le (hm : m ≠ 0) {c : ℕ} (h : f.magnitude c ≤ (m : ℚ) * 2 ^ e) : c ≤ f.roundCode rm neg m e := by
  obtain ⟨hround, -⟩ := roundAt_says rm neg m e (f.roundPlace m e)
  have hpow : (0 : ℚ) < 2 ^ f.roundPlace m e := by positivity
  have hunits : f.magnitude c / 2 ^ f.roundPlace m e ≤ (m : ℚ) * 2 ^ (e - f.roundPlace m e) := by
    rw [div_le_iff₀ hpow, mul_assoc, ← zpow_add₀ two_ne_zero, sub_add_cancel]
    exact h
  have hx : (0 : ℚ) ≤ m * 2 ^ (e - f.roundPlace m e) := by positivity
  rw [← f.magnitude_strictMono.le_iff_le, f.magnitude_roundCode rm neg e hm, ← div_le_iff₀ hpow]
  rcases f.magnitude_gap e hm c rfl with hle | hge
  · exact hle.trans (Nat.cast_le.mpr (hround.le_of_le (Nat.floor_le hx)))
  · exact absurd (hge.trans hunits) (not_le.mpr (Nat.lt_floor_add_one _))

variable {f}

theorem withSign_mod_two (hf : f.IsIeee) (c : ℕ) : f.withSign neg c % 2 = c % 2 := by
  obtain ⟨n, hn⟩ := Nat.exists_eq_add_of_lt hf.mbits
  rw [withSign, hn]
  split
  · rw [← Nat.add_assoc, Nat.pow_succ]
    omega
  · rfl

/-- The parity of a code is that of its significand, or of the units that it was made of. -/
theorem roundCode_mod_two (hf : f.IsIeee) : f.roundCode rm neg m e % 2 = (roundAt rm neg m e (f.roundPlace m e)).1 % 2 := by
  obtain ⟨n, hn⟩ := Nat.exists_eq_add_of_lt hf.mbits
  rw [roundCode, hn, Nat.pow_succ, ← Nat.mul_assoc]
  omega

/-- R110: the magnitude of a rounding with its sign is the best among the representable values. -/
theorem roundCode_best (hf : f.IsIeee) (hm : m ≠ 0) {c : ℕ} {u : ℚ} (hu : f.finiteValue c = some u) :
    IsBest rm (finValue neg m e) ((if neg then -1 else 1) * f.magnitude (f.roundCode rm neg m e)) u (f.roundCode rm neg m e % 2 = 0) := by
  obtain ⟨hround, -⟩ := roundAt_says rm neg m e (f.roundPlace m e)
  have hpow : (0 : ℚ) < 2 ^ f.roundPlace m e := by positivity
  have hx : (0 : ℚ) ≤ m * 2 ^ (e - f.roundPlace m e) := by positivity
  obtain ⟨c', hc'⟩ := finiteValue_some hf hu
  have habs : |u / 2 ^ f.roundPlace m e| = f.magnitude c' / 2 ^ f.roundPlace m e := by
    rw [abs_div, abs_of_pos hpow]
    rcases hc' with rfl | rfl
    · rw [abs_of_nonneg (f.magnitude_nonneg c')]
    · rw [abs_neg, abs_of_nonneg (f.magnitude_nonneg c')]
  have hbest := (hround.best (Nat.floor_le hx) (Nat.lt_floor_add_one _) (habs ▸ f.magnitude_gap e hm c' rfl)).scale hpow
  rw [div_mul_cancel₀ _ hpow.ne', ← finValue_units, mul_assoc, ← f.magnitude_roundCode rm neg e hm, ← roundCode_mod_two rm neg e hf] at hbest
  exact hbest

/-- R109, R110: a value within the largest finite magnitude is rounded to the best representable one. -/
theorem round_best (hf : f.IsIeee) (h : |finValue neg m e| ≤ f.magnitude f.maxCode) : ∃ v, let r := f.round rm false neg m e
    f.finiteValue r.bits = some v ∧ f.sign r.bits = neg ∧ (r.flags.testBit 4 = true ↔ v ≠ finValue neg m e) ∧
      ∀ c u, f.finiteValue c = some u → IsBest rm (finValue neg m e) v u (r.bits % 2 = 0) := by
  have hinf := maxCode_lt_infCode hf
  by_cases hm : m = 0
  · subst hm
    have hzero : f.magnitude 0 = 0 := by rw [magnitude, significand, Nat.zero_div, if_pos rfl, Nat.zero_mod, Nat.cast_zero, zero_mul]
    have hvalue := finiteValue_withSign hf neg (c := 0) (by omega)
    rw [hzero, mul_zero] at hvalue
    rw [round_zero, (finValue_eq_zero_iff neg 0 e).mpr rfl]
    exact ⟨0, hvalue, (withSign_says neg (Nat.two_pow_pos _)).2, by simp, fun c u _ => .self ..⟩
  · rw [abs_finValue] at h
    have hcode := f.roundCode_le_of_le rm neg e hm h
    obtain ⟨hbits, hflag⟩ := f.round_within rm neg e hm hcode
    have hlt : f.roundCode rm neg m e < f.infCode := by omega
    have hpow : (2 : ℚ) ^ f.roundPlace m e ≠ 0 := by positivity
    refine ⟨_, by rw [hbits]; exact finiteValue_withSign hf neg hlt, by rw [hbits]; exact (withSign_says neg (hlt.trans f.infCode_lt)).2, ?_, fun c u hu => ?_⟩
    · rw [hflag, (roundAt_says rm neg m e (f.roundPlace m e)).2, f.magnitude_roundCode rm neg e hm, f.finValue_units neg e, ← mul_assoc]
      have hsign : (if neg then (-1 : ℚ) else 1) ≠ 0 := by split <;> norm_num
      rw [ne_eq, ne_eq, mul_left_inj' hpow, mul_right_inj' hsign]
    · rw [hbits, withSign_mod_two neg hf]
      exact roundCode_best rm neg e hf hm hu

/-- R109: a value beyond the largest finite magnitude becomes that or an infinity. -/
theorem round_large (h : f.magnitude f.maxCode < |finValue neg m e|) : let r := f.round rm false neg m e
    r.bits = f.withSign neg f.maxCode ∨ r.bits = f.withSign neg f.infCode := by
  have hm : m ≠ 0 := by
    rintro rfl
    rw [(finValue_eq_zero_iff neg 0 e).mpr rfl, abs_zero] at h
    exact absurd (f.magnitude_nonneg _) (not_le.mpr h)
  rw [abs_finValue] at h
  have hge := f.le_roundCode_of_le rm neg e hm h.le
  rcases hge.eq_or_lt with heq | hlt
  · exact .inl (heq ▸ (f.round_within rm neg e hm heq.ge).1)
  · intro r
    have hr : r = f.overflow rm neg := f.round_beyond rm neg e hm hlt false
    rw [hr]
    exact f.overflow_bits rm neg

end FloatFmt

end Sys2Proof.Machine
end

section
/-! O36: sums, products and fused sums (R136), each one rounding of the exact result. -/

namespace Sys2Proof.Machine

/-! ### Exact sums and products -/

/-- A signed whole number of a place is the value of its sign and magnitude. -/
theorem finValue_signed (n : Bool) (m : ℕ) (e : ℤ) : finValue n m e = (signedMant n m : ℚ) * 2 ^ e := by
  rw [signedMant]
  cases n with
  | true => rw [finValue_true, if_pos rfl, Int.cast_neg, Int.cast_natCast, neg_mul]
  | false => rw [finValue_false, if_neg Bool.false_ne_true, Int.cast_natCast]

theorem signedMant_natAbs (v : ℤ) : signedMant (decide (v < 0)) v.natAbs = v := by
  rw [signedMant]
  split
  · next h =>
    have hneg := of_decide_eq_true h
    omega
  · next h =>
    have hpos := not_lt.mp (mt decide_eq_true h)
    omega

/-- A value in units of a lower place. -/
theorem finValue_lower (n : Bool) (m : ℕ) {e l : ℤ} (h : l ≤ e) : finValue n m e = ((signedMant n m * 2 ^ (e - l).toNat : ℤ) : ℚ) * 2 ^ l := by
  rw [finValue_signed]
  push_cast
  rw [mul_assoc, ← zpow_natCast, Int.toNat_of_nonneg (sub_nonneg.mpr h), ← zpow_add₀ two_ne_zero, sub_add_cancel]

section
variable (rm : Rounding) (na : Bool) (ma : ℕ) (ea : ℤ) (nb : Bool) (mb : ℕ) (eb : ℤ)

/-- The exact sum in units of the lower place of its two terms. -/
def sumUnits : ℤ := signedMant na ma * 2 ^ (ea - min ea eb).toNat + signedMant nb mb * 2 ^ (eb - min ea eb).toNat

theorem sumUnits_value : finValue na ma ea + finValue nb mb eb = (sumUnits na ma ea nb mb eb : ℚ) * 2 ^ min ea eb := by
  rw [sumUnits, Int.cast_add, add_mul, ← finValue_lower na ma (min_le_left ea eb), ← finValue_lower nb mb (min_le_right ea eb)]

theorem sumFin_of_zero (h : sumUnits na ma ea nb mb eb = 0) :
    sumFin rm na ma ea nb mb eb = (if ma = 0 ∧ mb = 0 then zeroSign rm na nb else rm == .rdn, 0, min ea eb) := by
  refine (if_pos h).trans ?_
  congr 1
  split
  · rfl
  · cases rm <;> rfl

theorem sumFin_of_ne_zero (h : sumUnits na ma ea nb mb eb ≠ 0) :
    sumFin rm na ma ea nb mb eb = (decide (sumUnits na ma ea nb mb eb < 0), (sumUnits na ma ea nb mb eb).natAbs, min ea eb) := if_neg h

/-- R136: `sumFin` is exact. -/
theorem finValue_sumFin : let r := sumFin rm na ma ea nb mb eb
    finValue r.1 r.2.1 r.2.2 = finValue na ma ea + finValue nb mb eb := by
  rw [sumUnits_value]
  by_cases h : sumUnits na ma ea nb mb eb = 0
  · rw [sumFin_of_zero _ _ _ _ _ _ _ h, h, Int.cast_zero, zero_mul]
    exact (finValue_eq_zero_iff _ _ _).mpr rfl
  · rw [sumFin_of_ne_zero _ _ _ _ _ _ _ h]
    dsimp only
    rw [finValue_signed, signedMant_natAbs]

/-- R136: two terms of one sign cancel only where both are zero. -/
theorem sumUnits_same_sign (n : Bool) (h : sumUnits n ma ea n mb eb = 0) : ma = 0 ∧ mb = 0 := by
  have hsum := sumUnits_value n ma ea n mb eb
  rw [h, Int.cast_zero, zero_mul] at hsum
  have ha : (0 : ℚ) ≤ ma * 2 ^ ea := by positivity
  have hb : (0 : ℚ) ≤ mb * 2 ^ eb := by positivity
  have hboth : (ma : ℚ) * 2 ^ ea = 0 ∧ (mb : ℚ) * 2 ^ eb = 0 := by
    cases n with
    | true => rw [finValue_true, finValue_true] at hsum; constructor <;> linarith
    | false => rw [finValue_false, finValue_false] at hsum; constructor <;> linarith
  exact ⟨(finValue_eq_zero_iff false ma ea).mp (finValue_false ma ea ▸ hboth.1), (finValue_eq_zero_iff false mb eb).mp (finValue_false mb eb ▸ hboth.2)⟩

/-- R136: the sign of an exact zero sum. -/
theorem sumFin_sign_of_zero (h : finValue na ma ea + finValue nb mb eb = 0) :
    (sumFin rm na ma ea nb mb eb).1 = if na = nb then na else rm == .rdn := by
  have hunits : sumUnits na ma ea nb mb eb = 0 := by
    rw [sumUnits_value, mul_eq_zero, or_iff_left (by positivity)] at h
    exact_mod_cast h
  rw [sumFin_of_zero _ _ _ _ _ _ _ hunits]
  dsimp only
  by_cases hsign : na = nb
  · subst hsign
    rw [if_pos (sumUnits_same_sign ma ea mb eb na hunits), zeroSign]
  · rw [if_neg hsign, zeroSign, if_neg hsign, ite_self]

/-- R136: an exact product. -/
theorem finValue_mul : finValue (na != nb) (ma * mb) (ea + eb) = finValue na ma ea * finValue nb mb eb := by
  have hsign : (if (na != nb) = true then (-1 : ℚ) else 1) = (if na then -1 else 1) * (if nb then -1 else 1) := by
    cases na <;> cases nb <;> norm_num
  rw [finValue, finValue, finValue, hsign, zpow_add₀ two_ne_zero]
  push_cast
  ring

end

/-! ### The operations (R136) -/

section
variable {f : FloatFmt} (rm : Rounding) (ftz : Bool)

/-- R136: a NaN operand makes the canonical NaN, with NV where the first operand signals. -/
theorem fAddV_nan (n sig : Bool) (y : FVal) : (fAddV f rm ftz (.nan n sig) y).bits = f.nan ∧ (fAddV f rm ftz y (.nan n sig)).bits = f.nan ∧
    (sig = true → (fAddV f rm ftz (.nan n sig) y).flags.testBit 0 = true) := by
  refine ⟨rfl, ?_, fun hsig => ?_⟩
  · cases y <;> rfl
  · rw [hsig]
    show ((1 : ℕ) ||| nvOf y).testBit 0 = true
    rw [Nat.testBit_or]
    rfl

theorem mulV_nan (n sig : Bool) (y : FVal) : mulV (.nan n sig) y = (.nan n false, nvOf (.nan n sig) ||| nvOf y) ∧
    ∃ k fl, mulV y (.nan n sig) = (.nan k false, fl) := by
  refine ⟨rfl, ?_⟩
  cases y with
  | nan k q => exact ⟨_, _, rfl⟩
  | inf k => exact ⟨_, _, rfl⟩
  | fin k m e => exact ⟨_, _, rfl⟩

theorem fMulV_nan (n sig : Bool) (y : FVal) : (fMulV f rm ftz (.nan n sig) y).bits = f.nan ∧ (fMulV f rm ftz y (.nan n sig)).bits = f.nan ∧
    (sig = true → (fMulV f rm ftz (.nan n sig) y).flags.testBit 0 = true) := by
  obtain ⟨k, fl, hright⟩ := (mulV_nan n sig y).2
  refine ⟨rfl, ?_, fun hsig => ?_⟩
  · rw [fMulV, hright]
    rfl
  · rw [hsig]
    show ((0 : ℕ) ||| (1 ||| nvOf y)).testBit 0 = true
    rw [Nat.testBit_or, Nat.testBit_or]
    rfl

/-- R136: infinities of opposite sign, and of one. -/
theorem fAddV_inf (hf : f.special = .ieee) (n : Bool) : fAddV f rm ftz (.inf n) (.inf !n) = { bits := f.nan, flags := 1 } ∧
    fAddV f rm ftz (.inf n) (.inf n) = { bits := f.withSign n f.infCode, flags := 0 } := by
  have hinf : f.infinity n = { bits := f.withSign n f.infCode, flags := 0 } := by rw [FloatFmt.infinity, hf]
  exact ⟨if_neg (by cases n <;> decide), (if_pos rfl).trans hinf⟩

theorem mulV_zero_inf (n k : Bool) (e : ℤ) : mulV (.fin n 0 e) (.inf k) = (.nan false false, 1) := by
  simp only [mulV, if_true, fNV]

/-- R136: 0 x infinity, alone and with an addend. -/
theorem zeroTimesInfinity (n k : Bool) (e : ℤ) : fMulV f rm ftz (.fin n 0 e) (.inf k) = { bits := f.nan, flags := 1 } ∧
    ∀ z : FVal, (fFmaV f rm ftz (.fin n 0 e) (.inf k) z).bits = f.nan ∧ (fFmaV f rm ftz (.fin n 0 e) (.inf k) z).flags.testBit 0 = true := by
  refine ⟨?_, fun z => ?_⟩
  · rw [fMulV, mulV_zero_inf]
    simp only [FloatFmt.ofVal, FloatFmt.nanRes, Bool.false_eq_true, if_false, Nat.zero_or]
  · rw [fFmaV, mulV_zero_inf]
    refine ⟨rfl, ?_⟩
    show (((0 : ℕ) ||| nvOf z) ||| 1 ||| nvOf z).testBit 0 = true
    simp only [Nat.testBit_or, Nat.testBit_one_zero, Bool.or_true, Bool.true_or]

theorem fMulV_fin (na : Bool) (ma : ℕ) (ea : ℤ) (nb : Bool) (mb : ℕ) (eb : ℤ) :
    fMulV f rm ftz (.fin na ma ea) (.fin nb mb eb) = f.round rm ftz (na != nb) (ma * mb) (ea + eb) := by
  show ({ f.round rm ftz (na != nb) (ma * mb) (ea + eb) with flags := (f.round rm ftz (na != nb) (ma * mb) (ea + eb)).flags ||| 0 } : FRes) = _
  rw [Nat.or_zero]

theorem fFmaV_fin (na : Bool) (ma : ℕ) (ea : ℤ) (nb : Bool) (mb : ℕ) (eb : ℤ) (nc : Bool) (mc : ℕ) (ec : ℤ) :
    fFmaV f rm ftz (.fin na ma ea) (.fin nb mb eb) (.fin nc mc ec) = fAddV f rm ftz (.fin (na != nb) (ma * mb) (ea + eb)) (.fin nc mc ec) := by
  rw [fFmaV]
  simp only [mulV, nvOf, Nat.or_zero]

end

theorem isIeee_of_mem {ff : FloatFmt} (h : ff ∈ [fmtF32, fmtF16, fmtBf16]) : ff.IsIeee := by
  simp only [List.mem_cons, List.not_mem_nil, or_false] at h
  rcases h with rfl | rfl | rfl
  · exact ⟨rfl, by decide, by decide⟩
  · exact ⟨rfl, by decide, by decide⟩
  · exact ⟨rfl, by decide, by decide⟩

/-- Settles O36: rounding by its best approximation, and each operation by its exact value. -/
theorem floatResultsAreRoundedOnce : Obligations.FloatResultsAreRoundedOnce := by
  unfold Obligations.FloatResultsAreRoundedOnce
  intro ff hff rm num val
  have hf := isIeee_of_mem hff
  have hval : val = ff.finiteValue := by
    funext c
    simp only [val, FloatFmt.finiteValue]
    cases ff.decode c <;> rfl
  have htop : ∀ top, val ff.maxCode = some top → ff.magnitude ff.maxCode = top := fun top h => by
    rw [hval, FloatFmt.finiteValue_maxCode hf] at h
    exact Option.some.inj h
  refine ⟨?_, fun ftz => ⟨?_, fun n sig y => ?_, fAddV_inf rm ftz hf.special, zeroTimesInfinity rm ftz⟩⟩
  · intro neg m e q r
    refine ⟨fun top hmax hle => ?_, fun top hmax hlt => ?_⟩
    · obtain rfl := htop top hmax
      obtain ⟨v, hv, hsign, hnx, hbest⟩ := FloatFmt.round_best rm neg e hf (m := m) hle
      exact ⟨v, hval ▸ hv, hsign, hnx, fun c u _ hu => hbest c u (hval ▸ hu)⟩
    · obtain rfl := htop top hmax
      exact FloatFmt.round_large rm neg e hlt
  · intro na ma ea nb mb eb
    have hsum := fun na ma ea nb mb eb => finValue_sumFin rm na ma ea nb mb eb
    refine ⟨⟨_, _, _, rfl, hsum na ma ea nb mb eb, fun hzero => ?_⟩, ⟨_, _, fMulV_fin rm ftz na ma ea nb mb eb, finValue_mul na ma ea nb mb eb⟩, fun nc mc ec => ?_⟩
    · exact sumFin_sign_of_zero rm na ma ea nb mb eb ((hsum na ma ea nb mb eb).symm.trans hzero)
    · refine ⟨_, _, _, fFmaV_fin rm ftz na ma ea nb mb eb nc mc ec, (hsum _ _ _ nc mc ec).trans ?_⟩
      exact congrArg (· + finValue nc mc ec) (finValue_mul na ma ea nb mb eb)
  · obtain ⟨haL, haR, haF⟩ := fAddV_nan (f := ff) rm ftz n sig y
    obtain ⟨hmL, hmR, hmF⟩ := fMulV_nan (f := ff) rm ftz n sig y
    exact ⟨haL, haR, hmL, hmR, fun hsig => ⟨haF hsig, hmF hsig⟩⟩

end Sys2Proof.Machine
end

section
/-! Exact product sums and cells (R113, R114, R150). -/

namespace Sys2Proof.Machine

/-! ### Exact sums of finite values -/

/-- A finite value without flags, of the given rational value. -/
def IsFinite (p : FVal × ℕ) (q : ℚ) : Prop := ∃ n m e, p = (.fin n m e, 0) ∧ finValue n m e = q

theorem IsFinite.addExact {p p' : FVal × ℕ} {q q' : ℚ} (h : IsFinite p q) (h' : IsFinite p' q') : IsFinite (addExact p p') (q + q') := by
  obtain ⟨na, ma, ea, rfl, rfl⟩ := h
  obtain ⟨nb, mb, eb, rfl, rfl⟩ := h'
  refine ⟨_, _, _, ?_, finValue_sumFin .rne na ma ea nb mb eb⟩
  simp only [Machine.addExact, Nat.or_zero]

theorem IsFinite.foldl_addExact {l : List (FVal × ℕ)} {qs : List ℚ} (h : List.Forall₂ IsFinite l qs) :
    ∀ {p : FVal × ℕ} {q : ℚ}, IsFinite p q → IsFinite (l.foldl Machine.addExact p) (q + qs.sum) := by
  induction h with
  | nil => exact fun hp => by rwa [List.foldl_nil, List.sum_nil, add_zero]
  | cons hhead _ ih => exact fun hp => by rw [List.foldl_cons, List.sum_cons, ← add_assoc]; exact ih (hp.addExact hhead)

theorem no_infinity_of_finite {l : List (FVal × ℕ)} {qs : List ℚ} (h : List.Forall₂ IsFinite l qs) (n : Bool) : (l.any fun x => x.1 == .inf n) = false := by
  induction h with
  | nil => rfl
  | cons hhead _ ih =>
    obtain ⟨_, _, _, rfl, -⟩ := hhead
    rw [List.any_cons, ih]
    rfl

/-- R113: a sum of finite values is exact and without flags. -/
theorem IsFinite.sumExact {l : List (FVal × ℕ)} {qs : List ℚ} (h : List.Forall₂ IsFinite l qs) : IsFinite (sumExact l) qs.sum := by
  have hinf := no_infinity_of_finite h false
  cases h with
  | nil => exact ⟨false, 0, 0, rfl, (finValue_eq_zero_iff _ _ _).mpr rfl⟩
  | cons hhead hrest =>
    rw [Machine.sumExact, hinf, Bool.false_and, if_neg Bool.false_ne_true, List.sum_cons]
    exact IsFinite.foldl_addExact hrest hhead

/-- The sum over the indices that are on. -/
theorem forall₂_filterMap {on : ℕ → Prop} [DecidablePred on] {v : ℕ → FVal × ℕ} {r : ℕ → ℚ} (ks : List ℕ) (h : ∀ k ∈ ks, on k → IsFinite (v k) (r k)) :
    ∃ qs, List.Forall₂ IsFinite (ks.filterMap fun k => if on k then some (v k) else none) qs ∧ qs.sum = (ks.map fun k => if on k then r k else 0).sum := by
  induction ks with
  | nil => exact ⟨[], .nil, rfl⟩
  | cons k ks ih =>
    obtain ⟨hk, hks⟩ := List.forall_mem_cons.mp h
    obtain ⟨qs, hqs, hsum⟩ := ih hks
    by_cases hon : on k
    · refine ⟨r k :: qs, ?_, ?_⟩
      · rw [List.filterMap_cons, if_pos hon]
        exact .cons (hk hon) hqs
      · rw [List.sum_cons, List.map_cons, List.sum_cons, if_pos hon, hsum]
    · refine ⟨qs, ?_, ?_⟩
      · rw [List.filterMap_cons, if_neg hon]
        exact hqs
      · rw [List.map_cons, List.sum_cons, if_neg hon, zero_add, hsum]

/-- R113, R150: the product sum of a cell whose lanes are finite. -/
theorem cellProducts_finite (fmt fpc : ℕ) (a b : Token) (i n : ℕ) {ra rb : ℕ → ℚ}
    (h : ∀ k < 32 / laneWidth (matrixWidth fmt), 32 * k + i < a.valid ∧ 32 * k + n < b.valid →
      (∃ x y z, matrixValue fmt fpc (bits a.payload.toNat (laneWidth (matrixWidth fmt) * (32 * k + i)) (laneWidth (matrixWidth fmt))) = .fin x y z ∧ finValue x y z = ra k) ∧
      ∃ x y z, matrixValue fmt fpc (bits b.payload.toNat (laneWidth (matrixWidth fmt) * (32 * k + n)) (laneWidth (matrixWidth fmt))) = .fin x y z ∧ finValue x y z = rb k) :
    IsFinite (cellProducts fmt fpc a b i n)
      ((List.range (32 / laneWidth (matrixWidth fmt))).map fun k => if 32 * k + i < a.valid ∧ 32 * k + n < b.valid then ra k * rb k else 0).sum := by
  obtain ⟨qs, hqs, hsum⟩ := forall₂_filterMap (on := fun k => 32 * k + i < a.valid ∧ 32 * k + n < b.valid) (r := fun k => ra k * rb k)
    (v := fun k => mulV (matrixValue fmt fpc (bits a.payload.toNat (laneWidth (matrixWidth fmt) * (32 * k + i)) (laneWidth (matrixWidth fmt))))
      (matrixValue fmt fpc (bits b.payload.toNat (laneWidth (matrixWidth fmt) * (32 * k + n)) (laneWidth (matrixWidth fmt)))))
    (List.range (32 / laneWidth (matrixWidth fmt))) fun k hk hon => by
      obtain ⟨⟨na, ma, ea, hva, hra⟩, nb, mb, eb, hvb, hrb⟩ := h k (List.mem_range.mp hk) hon
      rw [hva, hvb, ← hra, ← hrb]
      exact ⟨_, _, _, rfl, finValue_mul na ma ea nb mb eb⟩
  rw [← hsum]
  exact IsFinite.sumExact hqs

/-! ### One cell (R113) -/

/-- R113: a cell after a firing: the rounded sum with a subnormal one flushed, and the flags that MMA raises. -/
theorem accumulate_says (acc : ℕ) (v : FVal) (fl : ℕ) : let r := fAddV fmtF32 .rne false (fmtF32.decode acc) v; let q := accumulate acc (v, fl)
    let tiny := r.bits / 2 ^ 23 % 256 = 0 ∧ r.bits % 2 ^ 23 ≠ 0
    q.bits = (if tiny then r.bits / 2 ^ 31 * 2 ^ 31 else r.bits) ∧ (q.flags.testBit 5 = true ↔ tiny) ∧
      (q.flags.testBit 0 = true ↔ r.flags.testBit 0 = true ∨ fl.testBit 0 = true) ∧ (q.flags.testBit 2 = true ↔ r.flags.testBit 2 = true ∨ fl.testBit 2 = true) ∧
      q.flags.testBit 4 = false ∧ q.flags.testBit 3 = false ∧ q.flags.testBit 1 = false := by
  intro r q tiny
  have hq : q = if tiny then { bits := r.bits / 2 ^ 31 * 2 ^ 31, flags := ((r.flags ||| fl) &&& (fNV ||| fOF)) ||| fUFS }
      else { bits := r.bits, flags := (r.flags ||| fl) &&& (fNV ||| fOF) } := by
    simp only [q, accumulate, bits, Nat.pow_zero, Nat.div_one]
    rfl
  have hbit : ∀ j, q.flags.testBit j = (((r.flags.testBit j || fl.testBit j) && (decide (0 = j) || decide (2 = j))) || (decide (5 = j) && decide tiny)) := by
    intro j
    have hmask : (fNV ||| fOF).testBit j = (decide (0 = j) || decide (2 = j)) := by
      rw [Nat.testBit_or, show fNV = 2 ^ 0 from rfl, show fOF = 2 ^ 2 from rfl, Nat.testBit_two_pow, Nat.testBit_two_pow]
    by_cases htiny : tiny
    · rw [hq, if_pos htiny, Nat.testBit_or, Nat.testBit_and, Nat.testBit_or, hmask, show fUFS = 2 ^ 5 from rfl, Nat.testBit_two_pow, decide_eq_true htiny, Bool.and_true]
    · rw [hq, if_neg htiny, Nat.testBit_and, Nat.testBit_or, hmask, decide_eq_false htiny, Bool.and_false, Bool.or_false]
  refine ⟨?_, ?_, ?_, ?_, ?_, ?_, ?_⟩
  · rw [hq]
    split
    · rfl
    · rfl
  all_goals
    rw [hbit]
    simp [-Nat.testBit_zero]

/-! ### The cells of an accumulator -/

theorem find?_append {α : Type} (l l' : Table α) (j : ℕ) : Table.find? (l ++ l') j = (Table.find? l j).or (Table.find? l' j) := by
  induction l with
  | nil => rfl
  | cons p l ih =>
    show (if p.1 = j then some p.2 else Table.find? (l ++ l') j) = _
    rw [ih]
    show _ = ((if p.1 = j then some p.2 else Table.find? l j).or _)
    split
    · rfl
    · rfl

/-- A table of the values of 0 to n - 1 that are not 0. -/
theorem find?_nonzero (v : ℕ → ℕ) (n j : ℕ) : Table.find? (((List.range n).map fun c => (c, v c)).filter fun r => r.2 != 0) j =
    if j < n ∧ v j ≠ 0 then some (v j) else none := by
  induction n with
  | zero => simp [Table.find?]
  | succ n ih =>
    rw [List.range_succ, List.map_append, List.filter_append, find?_append, ih]
    by_cases hj : j = n
    · subst hj
      by_cases hv : v j = 0
      · simp [hv, Table.find?]
      · simp [hv, Table.find?]
    · have hne : n ≠ j := fun h => hj h.symm
      have hlast : Table.find? ((List.map (fun c => (c, v c)) [n]).filter fun r => r.2 != 0) j = none := by
        by_cases hv : v n = 0
        · simp [hv, Table.find?]
        · simp [hv, Table.find?, hne]
      rw [hlast, Option.or_none]
      by_cases hlt : j < n
      · simp [hlt, hlt.trans n.lt_succ_self]
      · simp [hlt, show ¬ j < n + 1 by omega]

theorem getD_nonzero (v : ℕ → ℕ) {n j : ℕ} (hj : j < n) : Table.getD (((List.range n).map fun c => (c, v c)).filter fun r => r.2 != 0) j 0 = v j := by
  rw [Table.getD, find?_nonzero]
  by_cases hv : v j = 0
  · rw [if_neg fun h => h.2 hv, hv]
    rfl
  · rw [if_pos ⟨hj, hv⟩]
    rfl

theorem testBit_foldl_or {α : Type} (k : α → ℕ) (l : List α) (m j : ℕ) :
    (l.foldl (fun fl r => fl ||| k r) m).testBit j = true ↔ m.testBit j = true ∨ ∃ r ∈ l, (k r).testBit j = true := by
  induction l generalizing m with
  | nil => simp
  | cons r l ih =>
    rw [List.foldl_cons, ih, Nat.testBit_or, Bool.or_eq_true, List.exists_mem_cons_iff, or_assoc]

section
variable (acc : AccSt) (sum : ℕ → ℕ → FVal × ℕ)

/-- R113: cell `j` after a firing. -/
def cellAfter (j : ℕ) : FRes := accumulate (Table.getD acc.cells j 0) (sum (j / 32) (j % 32))

theorem applyFiring_cells {j : ℕ} (hj : j < 1024) : Table.getD (applyFiring acc sum).1 j 0 = (cellAfter acc sum j).bits := by
  have hcells : (applyFiring acc sum).1 = (((List.range 1024).map fun c => (c, (cellAfter acc sum c).bits)).filter fun r => r.2 != 0) := by
    rw [applyFiring]
    dsimp only
    rw [List.map_map]
    rfl
  rw [hcells, getD_nonzero (fun c => (cellAfter acc sum c).bits) hj]

theorem applyFiring_flags (j : ℕ) : (applyFiring acc sum).2.testBit j = true ↔ ∃ q < 1024, (cellAfter acc sum q).flags.testBit j = true := by
  rw [applyFiring]
  dsimp only
  rw [testBit_foldl_or fun r : ℕ × FRes => r.2.flags, Nat.zero_testBit]
  simp only [Bool.false_eq_true, false_or, List.mem_map, List.mem_range, exists_exists_and_eq_and, cellAfter]

end

end Sys2Proof.Machine
end

section
/-! MMA and MMAS (R113, R114, R149 to R153, R156): their matched sets, their checks and their firings. -/

namespace Sys2Proof.Machine

/-! ### Firings that send alike -/

namespace State

theorem SendsAlike.trans {s t u : State} {e : Nat} (h : s.SendsAlike t e) (h' : t.SendsAlike u e) : s.SendsAlike u e := by
  obtain ⟨⟨hflights, hnext, houtq, hscaleq⟩, hcycle, hroutes⟩ := h
  obtain ⟨⟨hflights', hnext', houtq', hscaleq'⟩, hcycle', hroutes'⟩ := h'
  exact ⟨⟨hflights'.trans hflights, hnext'.trans hnext, houtq'.trans houtq, hscaleq'.trans hscaleq⟩, hcycle'.trans hcycle, hroutes'.trans hroutes⟩

/-- R85, R111: neither the tokens taken nor the port nor the flags of a firing change what it sends. -/
theorem endFiring_sendsAlike (s : State) (g : Firing) (taken taken' : List StoreTok) (sends : List (Nat × Token)) (lat hold hold' flags flags' : Nat) :
    (s.endFiring g taken sends lat hold flags).SendsAlike (s.endFiring g taken' sends lat hold' flags') g.e := by
  have hfired : (s.firedAt g taken lat hold flags).SendsAlike (s.firedAt g taken' lat hold' flags') g.e := by
    obtain ⟨fs, heq, -⟩ := firedAt_eq s g taken lat hold flags
    obtain ⟨fs', heq', -⟩ := firedAt_eq s g taken' lat hold' flags'
    have helem := firedAt_elem s g taken lat hold flags g.e
    have helem' := firedAt_elem s g taken' lat hold' flags' g.e
    rw [if_pos rfl] at helem helem'
    refine ⟨⟨?_, ?_, ?_, ?_⟩, ?_, ?_⟩
    · rw [heq, heq']
      rfl
    · rw [heq, heq']
      rfl
    · rw [helem, helem']; rfl
    · rw [helem, helem']; rfl
    · rw [heq, heq']
      rfl
    · rw [helem, helem']; rfl
  exact (hfired.foldl_send g.slot (s.cycle + lat) sends).of_parts (endFiring_parts s g taken sends lat hold flags)
    (endFiring_parts s g taken' sends lat hold' flags')

end State

/-! ### Tokens of a matched set (R90, R153) -/

theorem oldestAt_pos {x : ElemSt} {slot pos : Nat} {tag : Option Tag} {t : StoreTok} (h : oldestAt x slot pos tag = some t) : t.pos = pos := by
  have hmatch := List.find?_some h
  simp only [Bool.and_eq_true, beq_iff_eq] at hmatch
  exact hmatch.1.1.2

theorem scaleTok_says {x : ElemSt} {slot : Nat} {tag : Tag} {t : StoreTok} (h : scaleTok x slot tag = some t) : t.pos = 2 ∧ t.token.kind = 3 := by
  have hmatch := List.find?_some h
  simp only [Bool.and_eq_true, beq_iff_eq] at hmatch
  exact ⟨hmatch.1.1.1.2, hmatch.1.2⟩

theorem bits_eq_extractLsb' {w : Nat} (v : BitVec w) (lo n : Nat) : bits v.toNat lo n = (v.extractLsb' lo n).toNat := by
  rw [bits, BitVec.extractLsb'_toNat, Nat.shiftRight_eq_div_pow]

/-- R151, R153: the tokens of a matrix firing: a at A, b at B and, under MMAS, a scale token at C. -/
structure MatrixSet (g : Firing) (a b : StoreTok) (c : Option StoreTok) : Prop where
  toks : g.toks = [a, b] ++ c.toList
  posA : a.pos = 0
  posB : b.pos = 1
  posC : ∀ t ∈ c, t.pos = 2

namespace MatrixSet

variable {g : Firing} {a b : StoreTok} {c : Option StoreTok}

theorem at_A (h : MatrixSet g a b c) : g.at_ 0 = some a := by
  rw [Firing.at_, h.toks, List.cons_append, List.find?_cons_of_pos (by rw [h.posA]; rfl)]

theorem at_B (h : MatrixSet g a b c) : g.at_ 1 = some b := by
  rw [Firing.at_, h.toks, List.cons_append, List.find?_cons_of_neg (by rw [h.posA]; decide), List.cons_append, List.find?_cons_of_pos (by rw [h.posB]; rfl)]

theorem at_C (h : MatrixSet g a b c) : g.at_ 2 = c := by
  rw [Firing.at_, h.toks, List.cons_append, List.find?_cons_of_neg (by rw [h.posA]; decide), List.cons_append, List.find?_cons_of_neg (by rw [h.posB]; decide)]
  cases c with
  | none => rfl
  | some t => exact List.find?_cons_of_pos (by rw [h.posC t rfl]; rfl)

/-- R153: the tokens of a set that are not at C. -/
theorem filter_notC (h : MatrixSet g a b c) : (g.toks.filter fun t => t.pos != 2) = [a, b] := by
  rw [h.toks, List.filter_append, List.filter_cons_of_pos (by rw [h.posA]; rfl), List.filter_cons_of_pos (by rw [h.posB]; rfl)]
  cases c with
  | none => rfl
  | some t => rw [Option.toList_some, List.filter_cons_of_neg (by rw [h.posC t rfl]; decide)]; rfl

/-- R123: no token of the set is an arc. -/
theorem arcAt_none (h : MatrixSet g a b c) (hop : g.op = 0x70 ∨ g.op = 0x71) (ha : a.token.kind ≠ 5) (hb : b.token.kind ≠ 5) (hc : ∀ t ∈ c, t.token.kind ≠ 5) :
    State.arcAt g = none := by
  rw [State.arcAt_value (by omega) (by omega) (by omega) (by omega), Option.map_eq_none_iff, List.find?_eq_none, h.toks]
  intro t ht hkind
  simp only [List.cons_append, List.nil_append, List.mem_cons, Option.mem_toList] at ht
  rw [beq_iff_eq] at hkind
  rcases ht with rfl | rfl | ht
  · exact ha hkind
  · exact hb hkind
  · exact hc t ht hkind

/-- R151: whether a set passes EOS on. -/
theorem any_eos (h : MatrixSet g a b c) : (g.toks.any fun t => t.pos != 2 && t.token.kind == kEos) = true ↔ a.token.kind = 2 ∨ b.token.kind = 2 := by
  rw [← List.any_filter, h.filter_notC]
  simp [kEos]

end MatrixSet

/-! ### The order of firings and the checks (R151, R152) -/

section
variable {s : State} {g : Firing} {a b : StoreTok} {c : Option StoreTok}

/-- R151: an ix that the accumulation does not have. -/
abbrev IxBeyond (g : Firing) : Prop :=
  (g.f.ext.extractLsb' 0 8).toNat + 1 ≤ tagIx g.tag ∨ ((g.tag.extractLsb' 48 4).toNat = 0 ∧ 1 < (g.f.ext.extractLsb' 0 8).toNat + 1)

/-- R152: a set of ordered mode waits for its turn. -/
theorem matrixOrder_false_iff (h : MatrixSet g a b c) : (!matrixOrder s g) = true ↔
    modeOf g.f = 0 ∧ tagIx g.tag ≠ (s.acc g.e (g.f.extra.extractLsb' 0 1).toNat).next ∧ ¬ IxBeyond g ∧ ¬ a.token.kind = 2 ∧ ¬ b.token.kind = 2 := by
  have heos := h.any_eos
  rw [matrixOrder, Bool.not_eq_true', ← Bool.not_eq_true]
  simp only [Bool.or_eq_true, heos, bne_iff_ne, beq_iff_eq, decide_eq_true_eq, Bool.and_eq_true, accOf, bits_eq_extractLsb', tagDepth_eq, IxBeyond]
  tauto

variable {taken : List StoreTok} {sum : Nat → Token → Token → Nat → Nat → FVal × Nat}

/-- R151: the accumulator that a firing names. -/
def matrixReg (g : Firing) : Nat := (g.f.extra.extractLsb' 0 1).toNat

/-- R151: the FPC under which a firing works: that of the accumulation's first firing. -/
def matrixFpc (s : State) (g : Firing) : Nat := if (s.acc g.e (matrixReg g)).sampled then (s.acc g.e (matrixReg g)).fpc else (s.elem g.e).active.fpc

/-- R113: the accumulator after a firing, and the flags that the firing raises. -/
def matrixAcc (s : State) (g : Firing) (sum : Nat → Nat → FVal × Nat) : AccSt :=
  { cells := (applyFiring (s.acc g.e (matrixReg g)) sum).1,
    next := if modeOf g.f = 0 then (tagIx g.tag + 1) % ((g.f.ext.extractLsb' 0 8).toNat + 1) else (s.acc g.e (matrixReg g)).next,
    sampled := true, fpc := matrixFpc s g, appliedAt := s.cycle + 8 }

def matrixFlags (s : State) (g : Firing) (sum : Nat → Nat → FVal × Nat) : Nat := (applyFiring (s.acc g.e (matrixReg g)) sum).2

/-- R151: the state in which the cells of a firing have received their sums, before the firing ends. -/
def matrixApplied (s : State) (g : Firing) (sum : Nat → Nat → FVal × Nat) : State :=
  (s.setAcc g.e (matrixReg g) (matrixAcc s g sum)).modElem g.e fun x => { (x.raiseFlags s.cycle (s.cycle + 8) true (matrixFlags s g sum)) with mmaFree := s.cycle + 4 }

/-- R151: what a matched set does, check after check. -/
theorem matrixFire_eq (h : MatrixSet g a b c) : matrixFire s g taken sum =
    if a.token.width ≠ matrixWidth (fmtOf g.f) then s.fault g 0x08 0
    else if b.token.width ≠ matrixWidth (fmtOf g.f) then s.fault g 0x08 1
    else if a.token.kind = 2 ∧ b.token.kind = 2 then .next (s.endFiring g [a, b] [(g.f.dst0.toNat, a.token), (g.f.dst1.toNat, b.token)] 2 1 0)
    else if a.token.kind = 2 then s.fault g 0x08 0
    else if b.token.kind = 2 then s.fault g 0x08 1
    else if IxBeyond g then s.fault g 0x08 (State.tagPos g)
    else .next ((matrixApplied s g (sum (matrixFpc s g) a.token b.token)).endFiring g taken [(g.f.dst0.toNat, a.token), (g.f.dst1.toNat, b.token)] 2 1 0) := by
  unfold matrixFire
  rw [h.at_A, h.at_B]
  dsimp only
  simp only [accOf, bits_eq_extractLsb', tagDepth_eq]
  rfl

end

/-! ### What a firing leaves of the accumulators and the port (R149, R156) -/

namespace State

variable (s : State) (e m j : Nat)

theorem acc_modElem {k : ElemSt → ElemSt} (h : (k (s.elem e)).accs = (s.elem e).accs) : (s.modElem e k).acc e j = s.acc e j := by
  rw [acc, elem_modElem_same, h, acc]

theorem acc_setAcc (x : AccSt) : (s.setAcc e m x).acc e j = if m = j then x else s.acc e j := by
  rw [acc, setAcc, elem_modElem_same, Table.getD_putD, acc]

theorem acc_endFiring (g : Firing) (taken : List StoreTok) (sends : List (Nat × Token)) (lat hold flags : Nat) :
    (s.endFiring g taken sends lat hold flags).acc g.e j = s.acc g.e j := by
  rw [acc, endFiring_elem]
  rfl

/-- R111, R112: FPF after a firing. -/
theorem fpfAt_endFiring (g : Firing) (taken : List StoreTok) (sends : List (Nat × Token)) (lat hold flags : Nat) {c : Nat} (h : s.cycle ≤ c) :
    ((s.endFiring g taken sends lat hold flags).elem g.e).fpfAt c = (s.elem g.e).fpfAt c ||| (if s.cycle + lat ≤ c then flags else 0) := by
  rw [endFiring_elem]
  exact fpfAt_raiseFlags (s.elem g.e) (s.cycle + lat) (isFloatFiring g.op g.f) flags h

theorem slotFrame_setAcc (x : AccSt) : SlotFrame s (s.setAcc e m x) e := .modElem s e rfl

theorem sendsAlike_setAcc (x : AccSt) : s.SendsAlike (s.setAcc e m x) e := State.sendsAlike_modElem s e rfl rfl rfl

end State

section
variable (s : State) (g : Firing) (sum : Nat → Nat → FVal × Nat)

theorem matrixApplied_frame : SlotFrame s (matrixApplied s g sum) g.e := by
  rw [matrixApplied]
  exact (s.slotFrame_setAcc _ _ _).trans (.modElem _ _ rfl)

theorem matrixApplied_sendsAlike : s.SendsAlike (matrixApplied s g sum) g.e := by
  rw [matrixApplied]
  exact (s.sendsAlike_setAcc _ _ _).trans (State.sendsAlike_modElem _ _ rfl rfl rfl)

theorem matrixApplied_acc (j : Nat) : (matrixApplied s g sum).acc g.e j = if matrixReg g = j then matrixAcc s g sum else s.acc g.e j := by
  rw [matrixApplied]
  refine (State.acc_modElem (s.setAcc g.e (matrixReg g) (matrixAcc s g sum)) g.e j ?_).trans (s.acc_setAcc g.e (matrixReg g) j _)
  rfl

theorem matrixApplied_elem : (matrixApplied s g sum).elem g.e =
    { (({ s.elem g.e with accs := Table.putD (s.elem g.e).accs (matrixReg g) (matrixAcc s g sum) {} } : ElemSt).raiseFlags s.cycle (s.cycle + 8) true
        (matrixFlags s g sum)) with mmaFree := s.cycle + 4 } := by
  rw [matrixApplied, State.elem_modElem_same, State.setAcc, State.elem_modElem_same]

/-- R112: FPF of an element whose cells are applied. -/
theorem fpfAt_applied (x : ElemSt) (accs : Table AccSt) {now c : Nat} (done free flags : Nat) (h : now ≤ c) :
    ({ (({ x with accs := accs } : ElemSt).raiseFlags now done true flags) with mmaFree := free } : ElemSt).fpfAt c = x.fpfAt c ||| (if done ≤ c then flags else 0) :=
  fpfAt_raiseFlags { x with accs := accs } done true flags h

variable (taken : List StoreTok) (sends : List (Nat × Token))

/-- R151, R156: a firing whose cells are applied ends as one that raises its flags 8 cycles after issue. -/
theorem matrix_ends (hop : g.op = 0x70 ∨ g.op = 0x71) : let t := (matrixApplied s g sum).endFiring g taken sends 2 1 0
    let u := s.endFiring g taken sends 2 1 (matrixFlags s g sum)
    SlotFrame s t g.e ∧ u.sentAs t g.e ∧ (t.elem g.e).store = (u.elem g.e).store ∧
      (∀ h, s.cycle ≤ h → (t.elem g.e).fpfAt h = (s.elem g.e).fpfAt h ||| (if s.cycle + 8 ≤ h then matrixFlags s g sum else 0)) ∧
      (t.elem g.e).mmaFree = s.cycle + 4 ∧ (t.elem g.e).mxFree = s.cycle + 1 ∧
      ∀ j, t.acc g.e j = if matrixReg g = j then matrixAcc s g sum else s.acc g.e j := by
  intro t u
  have halike : u.SendsAlike t g.e := (State.endFiring_sendsAlike s g taken taken sends 2 1 1 (matrixFlags s g sum) 0).trans
    ((matrixApplied_sendsAlike s g sum).endFiring g taken sends 2 1 0 taken)
  have hport : State.onMatrixPort g.op = true := by rcases hop with h | h <;> rw [h] <;> rfl
  have helem : t.elem g.e = _ := endFiring_elem (matrixApplied s g sum) g taken sends 2 1 0
  refine ⟨(matrixApplied_frame s g sum).trans (endFiring_frame _ _ _ _ _ _ _), halike.sent, ?_, fun h hh => ?_, ?_, ?_, fun j => ?_⟩
  · rw [helem, endFiring_elem, matrixApplied_elem]
    rfl
  · refine (State.fpfAt_endFiring (matrixApplied s g sum) g taken sends 2 1 0 hh).trans ?_
    rw [ite_self, Nat.or_zero, matrixApplied_elem]
    exact fpfAt_applied (s.elem g.e) _ _ _ _ hh
  · rw [helem, matrixApplied_elem]
    rfl
  · rw [helem]
    exact if_pos hport
  · rw [State.acc_endFiring, matrixApplied_acc]

end

/-! ### The matched sets of the two opcodes (R90, R151, R153) -/

/-- R153: the block scale at place `j` of a scale token. -/
def blockScale (f : SlotFields) (c : Option StoreTok) (j : Nat) : FVal :=
  let code := match c with
    | some t => (t.token.payload.extractLsb' (8 * j) 8).toNat
    | none => 0
  if fmtOf f = 0x0E then fmtE5m2.decode code else decodeE8m0 code

/-- R113, R114: the sum that cell (r, q) receives. -/
def matrixSum (f : SlotFields) (scaled : Bool) (c : Option StoreTok) (fpc : Nat) (a b : Token) (r q : Nat) : FVal × Nat :=
  let p := cellProducts (fmtOf f) fpc a b r q
  if scaled then scaleBlock p (blockScale f c r) (blockScale f c (32 + q)) else p

/-- R153: the firing of a set of MMA or MMAS. -/
def matrixFiring (s : State) (f : SlotFields) (scaled : Bool) (a b : StoreTok) (c : Option StoreTok) : Firing :=
  { e := s.focus.elem, slot := s.focus.slot, op := if scaled then 0x71 else 0x70, f := f, tag := s.focus.tag, toks := [a, b] ++ c.toList }

/-- R153: what a firing takes: the scale token stays until its block's last firing. -/
def matrixTaken (f : SlotFields) (tag : Tag) (scaled : Bool) (a b : StoreTok) (c : Option StoreTok) : List StoreTok :=
  let rho := if fmtOf f = 0x0E then 1 else 8
  [a, b] ++ if scaled = false ∨ tagIx tag % rho = rho - 1 ∨ tagIx tag = (f.ext.extractLsb' 0 8).toNat + 1 - 1 then c.toList else []

section
variable {s : State} {f : SlotFields} {a b : StoreTok}

theorem matrixSet_of_oldest {c : Option StoreTok} (scaled : Bool) (ha : oldestAt (s.elem s.focus.elem) s.focus.slot 0 (some s.focus.tag) = some a)
    (hb : oldestAt (s.elem s.focus.elem) s.focus.slot 1 (some s.focus.tag) = some b) (hc : ∀ t ∈ c, t.pos = 2) : MatrixSet (matrixFiring s f scaled a b c) a b c :=
  ⟨rfl, oldestAt_pos ha, oldestAt_pos hb, hc⟩

/-- R151: MMA on its matched set. -/
theorem exec_mma (ha : oldestAt (s.elem s.focus.elem) s.focus.slot 0 (some s.focus.tag) = some a)
    (hb : oldestAt (s.elem s.focus.elem) s.focus.slot 1 (some s.focus.tag) = some b) (hka : a.token.kind ≠ 5) (hkb : b.token.kind ≠ 5)
    (hpos : slotPositions 0x70 f = [0, 1]) (haction : f.action.toNat ≠ 8) (hgate : f.qual.getLsbD 7 = false) : let g := matrixFiring s f false a b none
    exec (.mma f) s = if !matrixOrder s g then .refused .notEnabled else matrixFire s g (matrixTaken f s.focus.tag false a b none) (matrixSum f false none) := by
  intro g
  have hset : s.matchedSet 0x70 f = some g := by
    rw [State.matchedSet, if_neg haction, hpos, matchedAt, ha, matchedAt, hb, matchedAt]
    dsimp only
    rw [(oldestAt_says ha).2]
    rfl
  have hready : Ready s 0x70 f g := by
    refine ⟨hset, (matrixSet_of_oldest false ha hb (by simp)).arcAt_none (.inl rfl) hka hkb (by simp), fun hgated => ?_⟩
    rw [gatedOf, hgate] at hgated
    exact absurd hgated Bool.false_ne_true
  show execMma f s = _
  rw [execMma, State.fire_of_ready hready]
  rfl

/-- R153: MMAS on the set that it matches, without arcs. -/
theorem execMmas_of_set {toks : List StoreTok} (h : mmasSet (s.elem s.focus.elem) s.focus.slot (fmtOf f) s.focus.tag = some toks) : let g : Firing :=
      { e := s.focus.elem, slot := s.focus.slot, op := 0x71, f := f, tag := s.focus.tag, toks := toks }
    State.arcAt g = none → execMmas f s = if !matrixOrder s g then .refused .notEnabled
      else matrixFire s g (if decide (tagIx g.tag % blockSpan (fmtOf f) = blockSpan (fmtOf f) - 1) || decide (tagIx g.tag = bits f.ext.toNat 0 8 + 1 - 1) then toks
        else toks.filter fun t => t.pos != 2) fun fpc a b i k =>
          let c := match g.at_ 2 with
            | some t => t.token.payload.toNat
            | none => 0
          scaleBlock (cellProducts (fmtOf f) fpc a b i k) (scaleValue (fmtOf f) (bits c (8 * i) 8)) (scaleValue (fmtOf f) (bits c (256 + 8 * k) 8)) := by
  intro g harc
  unfold execMmas
  simp only [h]
  split
  · next p hp => exact nomatch harc.symm.trans hp
  · rfl

/-- R114, R153: the block scales of a set are those of its scale token. -/
theorem scaleBlock_eq_matrixSum (f : SlotFields) (c : StoreTok) (fpc : Nat) (a b : Token) (i k : Nat) :
    scaleBlock (cellProducts (fmtOf f) fpc a b i k) (scaleValue (fmtOf f) (bits c.token.payload.toNat (8 * i) 8))
      (scaleValue (fmtOf f) (bits c.token.payload.toNat (256 + 8 * k) 8)) = matrixSum f true (some c) fpc a b i k := by
  rw [show 256 + 8 * k = 8 * (32 + k) by omega, bits_eq_extractLsb', bits_eq_extractLsb']
  rfl

/-- R153: MMAS on its matched set. -/
theorem exec_mmas {c : StoreTok} (ha : oldestAt (s.elem s.focus.elem) s.focus.slot 0 (some s.focus.tag) = some a)
    (hb : oldestAt (s.elem s.focus.elem) s.focus.slot 1 (some s.focus.tag) = some b) (hka : a.token.kind ≠ 5) (hkb : b.token.kind ≠ 5)
    (hc : scaleTok (s.elem s.focus.elem) s.focus.slot (setTagIx s.focus.tag (tagIx s.focus.tag / if fmtOf f = 0x0E then 1 else 8)) = some c) :
    let g := matrixFiring s f true a b (some c)
    exec (.mmas f) s = if !matrixOrder s g then .refused .notEnabled else matrixFire s g (matrixTaken f s.focus.tag true a b (some c)) (matrixSum f true (some c)) := by
  intro g
  obtain ⟨hposC, hkind⟩ := scaleTok_says hc
  have hset : MatrixSet g a b (some c) := matrixSet_of_oldest true ha hb (by simpa using hposC)
  have harc : State.arcAt g = none := hset.arcAt_none (.inr rfl) hka hkb (by simp [hkind])
  have htoks : mmasSet (s.elem s.focus.elem) s.focus.slot (fmtOf f) s.focus.tag = some g.toks := by
    have hblock : scaleTok (s.elem s.focus.elem) s.focus.slot (blockTag (fmtOf f) s.focus.tag) = some c := hc
    rw [mmasSet, ha, hb, hblock]
    rfl
  have htaken : (if decide (tagIx g.tag % blockSpan (fmtOf f) = blockSpan (fmtOf f) - 1) || decide (tagIx g.tag = bits f.ext.toNat 0 8 + 1 - 1) then g.toks
      else g.toks.filter fun t => t.pos != 2) = matrixTaken f s.focus.tag true a b (some c) := by
    have hlast : (decide (tagIx g.tag % blockSpan (fmtOf f) = blockSpan (fmtOf f) - 1) || decide (tagIx g.tag = (f.ext.extractLsb' 0 8).toNat + 1 - 1)) = true ↔
        (true = false ∨ tagIx g.tag % blockSpan (fmtOf f) = blockSpan (fmtOf f) - 1 ∨ tagIx g.tag = (f.ext.extractLsb' 0 8).toNat + 1 - 1) := by
      rw [Bool.or_eq_true, decide_eq_true_eq, decide_eq_true_eq, or_iff_right Bool.false_ne_true.symm]
    rw [hset.filter_notC, bits_eq_extractLsb']
    by_cases h : true = false ∨ tagIx g.tag % blockSpan (fmtOf f) = blockSpan (fmtOf f) - 1 ∨ tagIx g.tag = (f.ext.extractLsb' 0 8).toNat + 1 - 1
    · rw [if_pos (hlast.mpr h)]
      exact (congrArg ([a, b] ++ ·) (if_pos h)).symm
    · rw [if_neg (mt hlast.mp h)]
      exact (congrArg ([a, b] ++ ·) (if_neg h)).symm
  refine (execMmas_of_set htoks harc).trans
    (congrArg₂ (fun taken sum => if !matrixOrder s g then Host.Outcome.refused Refusal.notEnabled else matrixFire s g taken sum) htaken ?_)
  funext fpc a' b' i k
  have hat : g.at_ 2 = some c := hset.at_C
  exact (congrArg (fun o : Option StoreTok => let c := match o with
      | some t => t.token.payload.toNat
      | none => 0
    scaleBlock (cellProducts (fmtOf f) fpc a' b' i k) (scaleValue (fmtOf f) (bits c (8 * i) 8)) (scaleValue (fmtOf f) (bits c (256 + 8 * k) 8))) hat).trans
      (scaleBlock_eq_matrixSum f c fpc a' b' i k)

end

end Sys2Proof.Machine
end

section
/-! MMA and MMAS (R151 to R153): what a matched set does, check by check, and what its firing leaves. -/

namespace Sys2Proof.Machine

section
variable {s : State} {f : SlotFields} {scaled : Bool} {a b : StoreTok} {c : Option StoreTok} {i : Instr}

/-- R152: a matched set of ordered mode that waits for its turn. -/
abbrev MatrixWaits (s : State) (g : Firing) (a b : StoreTok) : Prop :=
  modeOf g.f = 0 ∧ tagIx g.tag ≠ (s.acc g.e (matrixReg g)).next ∧ ¬ IxBeyond g ∧ ¬ a.token.kind = 2 ∧ ¬ b.token.kind = 2

/-- R151, R153: an opcode that runs a matched set of the matrix port. -/
def RunsMatrix (i : Instr) (s : State) (f : SlotFields) (scaled : Bool) (a b : StoreTok) (c : Option StoreTok) : Prop :=
  exec i s = if !matrixOrder s (matrixFiring s f scaled a b c) then .refused .notEnabled
    else matrixFire s (matrixFiring s f scaled a b c) (matrixTaken f s.focus.tag scaled a b c) (matrixSum f scaled c)

variable (hset : MatrixSet (matrixFiring s f scaled a b c) a b c) (hruns : RunsMatrix i s f scaled a b c)
include hset hruns

theorem matrix_waits (h : MatrixWaits s (matrixFiring s f scaled a b c) a b) : exec i s = .refused .notEnabled :=
  hruns.trans (if_pos ((matrixOrder_false_iff hset).mpr h))

variable (h : ¬ MatrixWaits s (matrixFiring s f scaled a b c) a b)
include h

theorem matrix_checks : exec i s = let g := matrixFiring s f scaled a b c
    if a.token.width ≠ matrixWidth (fmtOf f) then s.fault g 0x08 0
    else if b.token.width ≠ matrixWidth (fmtOf f) then s.fault g 0x08 1
    else if a.token.kind = 2 ∧ b.token.kind = 2 then .next (s.endFiring g [a, b] [(f.dst0.toNat, a.token), (f.dst1.toNat, b.token)] 2 1 0)
    else if a.token.kind = 2 then s.fault g 0x08 0
    else if b.token.kind = 2 then s.fault g 0x08 1
    else if IxBeyond g then s.fault g 0x08 (State.tagPos g)
    else .next ((matrixApplied s g (matrixSum f scaled c (matrixFpc s g) a.token b.token)).endFiring g (matrixTaken f s.focus.tag scaled a b c)
      [(f.dst0.toNat, a.token), (f.dst1.toNat, b.token)] 2 1 0) :=
  (hruns.trans (if_neg (mt (matrixOrder_false_iff hset).mp h))).trans (matrixFire_eq hset)

/-- R151: a set that passes every check fires. -/
theorem matrix_fires (hwa : a.token.width = matrixWidth (fmtOf f)) (hwb : b.token.width = matrixWidth (fmtOf f)) (ha : ¬ a.token.kind = 2) (hb : ¬ b.token.kind = 2)
    (hix : ¬ IxBeyond (matrixFiring s f scaled a b c)) : exec i s = let g := matrixFiring s f scaled a b c
      .next ((matrixApplied s g (matrixSum f scaled c (matrixFpc s g) a.token b.token)).endFiring g (matrixTaken f s.focus.tag scaled a b c)
        [(f.dst0.toNat, a.token), (f.dst1.toNat, b.token)] 2 1 0) := by
  rw [matrix_checks hset hruns h]
  dsimp only
  rw [if_neg (not_not.mpr hwa), if_neg (not_not.mpr hwb), if_neg fun hboth => ha hboth.1, if_neg ha, if_neg hb, if_neg hix]

end

/-- R151, R153: the hypotheses on a matched set say that its opcode runs it. -/
theorem runsMatrix_of_oldest {s : State} {f : SlotFields} {scaled : Bool} {a b : StoreTok} {c : Option StoreTok}
    (ha : oldestAt (s.elem s.focus.elem) s.focus.slot 0 (some s.focus.tag) = some a)
    (hb : oldestAt (s.elem s.focus.elem) s.focus.slot 1 (some s.focus.tag) = some b) (hka : a.token.kind ≠ 5) (hkb : b.token.kind ≠ 5)
    (hscaled : scaled = true → ∃ t, c = some t ∧
      scaleTok (s.elem s.focus.elem) s.focus.slot (setTagIx s.focus.tag (tagIx s.focus.tag / if fmtOf f = 0x0E then 1 else 8)) = some t)
    (hplain : scaled = false → c = none ∧ slotPositions 0x70 f = [0, 1] ∧ f.action.toNat ≠ 8 ∧ f.qual.getLsbD 7 = false) :
    MatrixSet (matrixFiring s f scaled a b c) a b c ∧ RunsMatrix (if scaled then .mmas f else .mma f) s f scaled a b c := by
  cases scaled with
  | true =>
    obtain ⟨t, rfl, ht⟩ := hscaled rfl
    exact ⟨matrixSet_of_oldest true ha hb (by simpa using (scaleTok_says ht).1), exec_mmas ha hb hka hkb ht⟩
  | false =>
    obtain ⟨rfl, hpos, haction, hgate⟩ := hplain rfl
    exact ⟨matrixSet_of_oldest false ha hb (by simp), exec_mma ha hb hka hkb hpos haction hgate⟩

end Sys2Proof.Machine
end

section
/-! ACCRD, its rows, and ACCCLR (R154, R155). -/

namespace Sys2Proof.Machine

section
variable {s : State} {f : SlotFields} {g : Firing}

/-! ### ACCRD -/

theorem slot_ge_eight {v : BitVec 4} (h : ¬ v.toNat < 8) : ∃ n, v.toNat = n + 8 := ⟨v.toNat - 8, by omega⟩

/-- R79: a select from 8 on supplies a literal. -/
theorem source_literal {sel : BitVec 4} (h : ¬ sel.toNat < 8) : (s.source g sel).val = (Table.getD (s.elem g.e).active.lits (sel.toNat - 8) 0).toNat := by
  obtain ⟨n, hn⟩ := slot_ge_eight h
  rw [State.source, if_neg (by omega), hn]
  rfl

/-- R154: the reading that an ACCRD starts. -/
def accrdStart (s : State) (f : SlotFields) (g : Firing) : AccrdSt :=
  let acc := s.acc g.e (f.extra.extractLsb' 0 1).toNat
  { slot := g.slot, tag := g.tag, row := 0, fpc := if acc.sampled then acc.fpc else (s.elem g.e).active.fpc,
    scale := if f.srcB.toNat < 8 then none else some (s.srcB g).val, fmt := fmtOf f, acc := (f.extra.extractLsb' 0 1).toNat,
    clear := f.qual.getLsbD 5, at_ := max (s.cycle + 4) acc.appliedAt }

theorem accrdOf_eq (hf : g.f = f) : accrdOf (s.elem g.e).active f g.slot g.tag 0
    (if (s.acc g.e (accOf f)).sampled then (s.acc g.e (accOf f)).fpc else fpcAt s g) (max (s.cycle + 4) (s.acc g.e (accOf f)).appliedAt) = accrdStart s f g := by
  have hreg : accOf f = (f.extra.extractLsb' 0 1).toNat := bits_eq_extractLsb' _ _ _
  have hscale : (if f.srcB.toNat < 8 then none else some (Table.getD (s.elem g.e).active.lits (f.srcB.toNat - 8) 0).toNat) =
      if f.srcB.toNat < 8 then none else some (s.srcB g).val := by
    split
    · rfl
    · next h => rw [State.srcB, hf, source_literal h]
  rw [accrdOf, hscale, hreg, State.bits_one_beq, BitVec.testBit_toNat, accrdStart]
  rfl

/-- R105, R154: ACCRD on operands of its format's width. -/
theorem accrd_of_ready (h : Ready s 0x72 f g) (hwidths : ∀ t ∈ g.checked, t.token.width = (fmtWidth (fmtOf f)).getD 5) : exec (.accrd f) s =
    if tagDepth g.tag = 6 then s.fault g 0x08 (State.tagPos g)
    else .next ((s.setElem g.e { s.elem g.e with accrd := some (accrdStart s f g) }).endFiring g g.toks [] 4 1 0) := by
  have hnone : State.widthMismatch g ((fmtWidth (fmtOf f)).getD 5) = none := State.widthMismatch_of_forall hwidths
  obtain ⟨-, hf, -⟩ := State.matchedSet_says h.set
  show execAccrd f s = _
  rw [execAccrd, State.fire_of_ready h]
  simp only [hnone, accrdOf_eq hf]
  rfl

/-! ### ACCCLR -/

/-- R155: the accumulators that an ACCCLR clears, cleared. -/
def accsCleared (s : State) (f : SlotFields) (g : Firing) : State :=
  if f.extra.getLsbD 1 then (s.setAcc g.e 0 {}).setAcc g.e 1 {} else s.setAcc g.e (f.extra.extractLsb' 0 1).toNat {}

/-- R155: how long an ACCCLR holds the port: until the last firing on what it clears is applied. -/
def clearHold (s : State) (f : SlotFields) (g : Firing) : Nat :=
  max 1 ((if f.extra.getLsbD 1 then max (s.acc g.e 0).appliedAt (s.acc g.e 1).appliedAt else (s.acc g.e (f.extra.extractLsb' 0 1).toNat).appliedAt) - s.cycle)

theorem accclr_of_ready (h : Ready s 0x73 f g) : exec (.accclr f) s =
    match s.resultTag g ((s.srcA g).asToken g.tag g.width).width with
    | .error code => s.fault g code (State.tagPos g)
    | .ok r => .next ((accsCleared r.1 f g).endFiring g g.toks [(f.dst0.toNat, { (s.srcA g).asToken g.tag g.width with tag := r.2 }),
        (f.dst1.toNat, { (s.srcA g).asToken g.tag g.width with tag := r.2 })] (max 2 (clearHold s f g)) (clearHold s f g) 0) := by
  have hreg : accOf f = (f.extra.extractLsb' 0 1).toNat := bits_eq_extractLsb' _ _ _
  show execAccclr f s = _
  rw [execAccclr, State.fire_of_ready h]
  simp only [hreg, State.bits_one_beq, BitVec.testBit_toNat]
  rfl

theorem accsCleared_acc {j : Nat} (hj : j ≤ 1) : (accsCleared s f g).acc g.e j =
    if f.extra.getLsbD 1 = true ∨ j = (f.extra.extractLsb' 0 1).toNat then {} else s.acc g.e j := by
  rw [accsCleared]
  by_cases hboth : f.extra.getLsbD 1 = true
  · rw [if_pos hboth, if_pos (.inl hboth), State.acc_setAcc, State.acc_setAcc]
    split
    · rfl
    · rw [if_pos (by omega)]
  · rw [if_neg hboth, State.acc_setAcc]
    by_cases hm : (f.extra.extractLsb' 0 1).toNat = j
    · rw [if_pos hm, if_pos (.inr hm.symm)]
    · rw [if_neg hm, if_neg (not_or.mpr ⟨hboth, fun h => hm h.symm⟩)]

theorem accsCleared_frame : SlotFrame s (accsCleared s f g) g.e := by
  rw [accsCleared]
  split
  · exact (s.slotFrame_setAcc _ _ _).trans (State.slotFrame_setAcc _ _ _ _)
  · exact s.slotFrame_setAcc _ _ _

theorem accsCleared_sendsAlike : s.SendsAlike (accsCleared s f g) g.e := by
  rw [accsCleared]
  split
  · exact (s.sendsAlike_setAcc _ _ _).trans (State.sendsAlike_setAcc _ _ _ _)
  · exact s.sendsAlike_setAcc _ _ _

/-- R155: what an ACCCLR that fires leaves. -/
theorem accclr_clears (h : Ready s 0x73 f g) {r : State × Tag} {y : Token} (hy : y = (s.srcA g).asToken g.tag g.width) (hr : s.resultTag g y.width = .ok r) :
    ∃ t, exec (.accclr f) s = .next t ∧ SlotFrame s t g.e ∧
      (r.1.endFiring g g.toks [(f.dst0.toNat, { y with tag := r.2 }), (f.dst1.toNat, { y with tag := r.2 })] (max 2 (clearHold s f g)) (clearHold s f g) 0).sentAs t g.e ∧
      ∀ j, j ≤ 1 → t.acc g.e j = if f.extra.getLsbD 1 = true ∨ j = (f.extra.extractLsb' 0 1).toNat then {} else s.acc g.e j := by
  subst hy
  have hexec := accclr_of_ready h
  rw [hr] at hexec
  obtain ⟨⟨ps, heq⟩, -⟩ := s.resultTag_parts hr
  have hpart : SlotFrame s r.1 g.e := by rw [heq]; exact .of_elems rfl rfl
  have hacc : ∀ j, r.1.acc g.e j = s.acc g.e j := fun j => by rw [heq]; rfl
  refine ⟨_, hexec, (hpart.trans accsCleared_frame).trans (endFiring_frame _ _ _ _ _ _ _), (accsCleared_sendsAlike.endFiring g g.toks _ _ _ _ g.toks).sent, fun j hj => ?_⟩
  rw [State.acc_endFiring, accsCleared_acc hj, hacc]

end

end Sys2Proof.Machine
end

section
/-! ACCRD_ROW (R91, R154): the rows of a reading, and the EOS that ends it. -/

namespace Sys2Proof.Machine

/-! ### The token of a row (R154) -/

theorem testBit_orLanes (k : Nat → Nat) (n j : Nat) : (orLanes k n).testBit j = true ↔ ∃ i < n, (k i).testBit j = true := by
  induction n with
  | zero => simp [orLanes]
  | succ n ih => rw [orLanes, Nat.testBit_or, Bool.or_eq_true, ih, Nat.exists_lt_succ_right]

theorem fmtWidth_getD_le (fmt : Nat) : (fmtWidth fmt).getD 5 ≤ 5 := by
  unfold fmtWidth
  split_ifs <;> decide

section
variable (acc : AccSt) (f : SlotFields) {r : AccrdSt}

/-- R154: lane `n` of the row that a reading sends next. -/
def rowLane (acc : AccSt) (r : AccrdSt) (n : Nat) : FRes := accLane r (Table.getD acc.cells (32 * r.row + n) 0)

theorem accrdNext_row (h : r.row < 32) : accrdNext acc f r = (f.dst0.toNat, mkToken (tagPush r.tag r.row) kData 32 ((fmtWidth r.fmt).getD 5)
    (packLanes (2 ^ (fmtWidth r.fmt).getD 5) (fun n => (rowLane acc r n).bits) 32), orLanes (fun n => (rowLane acc r n).flags) 32) := if_pos h

theorem accrdNext_eos (h : 32 ≤ r.row) : accrdNext acc f r = (f.dst1.toNat, eosToken (tagPush r.tag 32) ((fmtWidth r.fmt).getD 5), 0) := if_neg (Nat.not_lt.mpr h)

theorem accrdNext_code : (accrdNext acc f r).1 = if r.row < 32 then f.dst0.toNat else f.dst1.toNat := by
  rcases Nat.lt_or_ge r.row 32 with h | h
  · rw [accrdNext_row acc f h, if_pos h]
  · rw [accrdNext_eos acc f h, if_neg (Nat.not_lt.mpr h)]

theorem accrdNext_width : (accrdNext acc f r).2.1.width = (fmtWidth r.fmt).getD 5 := by
  rcases Nat.lt_or_ge r.row 32 with h | h
  · rw [accrdNext_row acc f h]
    rfl
  · rw [accrdNext_eos acc f h]
    rfl

/-- R154: the lanes of a row. -/
theorem lanes_accrdNext (h : r.row < 32) : Lanes (accrdNext acc f r).2.1.payload (2 ^ (fmtWidth r.fmt).getD 5) 32
    fun n => (rowLane acc r n).bits % 2 ^ 2 ^ (fmtWidth r.fmt).getD 5 := by
  have hle := two_pow_width_le (fmtWidth_getD_le r.fmt)
  rw [accrdNext_row acc f h]
  exact lanes_maskPayload (fun n => (rowLane acc r n).bits) rfl (by omega)

end

/-! ### The step -/

section
variable {s : State} {f : SlotFields} {r : AccrdSt} {op : Nat} {i : Instr}

/-- R91, R154: the state of a reading that has sent its next token and raised its flags. -/
def accrdRaised (s : State) (f : SlotFields) (r : AccrdSt) : State :=
  (s.send s.focus.elem r.slot (accrdNext (s.acc s.focus.elem r.acc) f r).1 (accrdNext (s.acc s.focus.elem r.acc) f r).2.1 s.cycle).modElem s.focus.elem
    fun x => x.raiseFlags s.cycle s.cycle true (accrdNext (s.acc s.focus.elem r.acc) f r).2.2

/-- R91, R154: the same state, its field marked as having issued. -/
def accrdSent (s : State) (f : SlotFields) (r : AccrdSt) : State :=
  match (accrdRaised s f r).fieldAt s.focus.elem with
  | some k => (accrdRaised s f r).modField k fun y => { y with lastIssue := s.cycle }
  | none => accrdRaised s f r

theorem accrdRaised_elem : (accrdRaised s f r).elem s.focus.elem =
    ((s.send s.focus.elem r.slot (accrdNext (s.acc s.focus.elem r.acc) f r).1 (accrdNext (s.acc s.focus.elem r.acc) f r).2.1 s.cycle).elem
      s.focus.elem).raiseFlags s.cycle s.cycle true (accrdNext (s.acc s.focus.elem r.acc) f r).2.2 :=
  State.elem_modElem_same _ _ _

theorem accrdRaised_frame : SlotFrame s (accrdRaised s f r) s.focus.elem := (send_sent _ _ _ _ _ _).frame.trans (.modElem _ _ rfl)

theorem accrdRaised_sentAs : (s.send s.focus.elem r.slot (accrdNext (s.acc s.focus.elem r.acc) f r).1 (accrdNext (s.acc s.focus.elem r.acc) f r).2.1 s.cycle).sentAs
    (accrdRaised s f r) s.focus.elem := by
  refine sentAs_modElem (k := fun x => x.raiseFlags s.cycle s.cycle true (accrdNext (s.acc s.focus.elem r.acc) f r).2.2) ⟨rfl, rfl, rfl, rfl⟩ ?_ ?_
  · rfl
  · rfl

theorem accrdSent_fields (s : State) (f : SlotFields) (r : AccrdSt) : ∃ fs, accrdSent s f r = { accrdRaised s f r with fields := fs } := by
  unfold accrdSent
  split
  · exact ⟨_, rfl⟩
  · exact ⟨_, rfl⟩

/-- R91, R154: what sending a reading's next token leaves. -/
theorem accrdSent_says (s : State) (f : SlotFields) (r : AccrdSt) : let e := s.focus.elem; let o := accrdNext (s.acc e r.acc) f r
    SlotFrame s (accrdSent s f r) e ∧ (s.send e r.slot o.1 o.2.1 s.cycle).sentAs (accrdSent s f r) e ∧
      ((accrdSent s f r).elem e).accs = (s.elem e).accs ∧
      ∀ h, s.cycle ≤ h → ((accrdSent s f r).elem e).fpfAt h = (s.elem e).fpfAt h ||| o.2.2 := by
  intro e o
  obtain ⟨fs, heq⟩ := accrdSent_fields s f r
  have helem : (accrdSent s f r).elem e = (accrdRaised s f r).elem e := by
    rw [heq]
    rfl
  refine ⟨?_, ?_, ?_, fun h hh => ?_⟩
  · rw [heq]
    exact accrdRaised_frame.trans (.of_elems rfl rfl)
  · rw [heq]
    exact accrdRaised_sentAs
  · rw [helem, accrdRaised_elem, (send_sent _ _ _ _ _ _).elem]
    rfl
  · rw [helem, accrdRaised_elem, (send_sent _ _ _ _ _ _).elem]
    refine (fpfAt_raiseFlags _ s.cycle true o.2.2 hh).trans ?_
    rw [if_pos hh]
    rfl

section
variable (hr : (s.elem s.focus.elem).accrd = some r) (hslot : (s.elem s.focus.elem).active.slotAt r.slot = some (op, i, f))
include hr hslot

theorem exec_accrdRow_refused (hdue : s.accrdDue s.focus.elem = false) : exec .accrdRow s = .refused .notEnabled := by
  show execAccrdRow s = _
  unfold execAccrdRow
  simp only [hr, hslot, hdue, Bool.not_false, if_true]

theorem exec_accrdRow_due (hdue : s.accrdDue s.focus.elem = true) : exec .accrdRow s =
    if r.row < 32 then .next ((accrdSent s f r).modElem s.focus.elem fun x => { x with accrd := some { r with row := r.row + 1, at_ := s.cycle + 1 } })
    else .next (((if r.clear then (accrdSent s f r).setAcc s.focus.elem r.acc {} else accrdSent s f r).modElem s.focus.elem fun x =>
      { x with accrd := none, mxFree := s.cycle + 1 }).settleColour (s.elemPart s.focus.elem) (tagColour r.tag)) := by
  show execAccrdRow s = _
  unfold execAccrdRow
  simp only [hr, hslot, hdue, Bool.not_true, Bool.false_eq_true, if_false]
  rfl

/-- R154: a row of a reading. -/
theorem accrdRow_sends (hdue : s.accrdDue s.focus.elem = true) (hrow : r.row < 32) : ∃ t, exec .accrdRow s = .next t ∧ SlotFrame s t s.focus.elem ∧
    (s.send s.focus.elem r.slot (accrdNext (s.acc s.focus.elem r.acc) f r).1 (accrdNext (s.acc s.focus.elem r.acc) f r).2.1 s.cycle).sentAs t s.focus.elem ∧
    (∀ h, s.cycle ≤ h → (t.elem s.focus.elem).fpfAt h = (s.elem s.focus.elem).fpfAt h ||| (accrdNext (s.acc s.focus.elem r.acc) f r).2.2) ∧
    (t.elem s.focus.elem).accrd = some { r with row := r.row + 1, at_ := s.cycle + 1 } ∧ (t.elem s.focus.elem).accs = (s.elem s.focus.elem).accs := by
  have hexec := exec_accrdRow_due hr hslot hdue
  rw [if_pos hrow] at hexec
  obtain ⟨hframe, hsent, haccs, hfpf⟩ := accrdSent_says s f r
  refine ⟨_, hexec, hframe.trans (.modElem _ _ rfl), sentAs_modElem hsent rfl rfl, ?_⟩
  rw [State.elem_modElem_same]
  exact ⟨hfpf, rfl, haccs⟩

/-- R154: the EOS that ends a reading. -/
theorem accrdRow_ends (hdue : s.accrdDue s.focus.elem = true) (hrow : 32 ≤ r.row) : ∃ t, exec .accrdRow s = .next t ∧ SlotFrame s t s.focus.elem ∧
    (s.send s.focus.elem r.slot (accrdNext (s.acc s.focus.elem r.acc) f r).1 (accrdNext (s.acc s.focus.elem r.acc) f r).2.1 s.cycle).sentAs t s.focus.elem ∧
    (t.elem s.focus.elem).accrd = none ∧ (t.elem s.focus.elem).mxFree = s.cycle + 1 ∧
    t.acc s.focus.elem r.acc = if r.clear then {} else s.acc s.focus.elem r.acc := by
  have hexec := exec_accrdRow_due hr hslot hdue
  rw [if_neg (Nat.not_lt.mpr hrow)] at hexec
  obtain ⟨hframe, hsent, haccs, -⟩ := accrdSent_says s f r
  have hcleared : SlotFrame s (if r.clear then (accrdSent s f r).setAcc s.focus.elem r.acc {} else accrdSent s f r) s.focus.elem ∧
      (s.send s.focus.elem r.slot (accrdNext (s.acc s.focus.elem r.acc) f r).1 (accrdNext (s.acc s.focus.elem r.acc) f r).2.1 s.cycle).sentAs
        (if r.clear then (accrdSent s f r).setAcc s.focus.elem r.acc {} else accrdSent s f r) s.focus.elem ∧
      (if r.clear then (accrdSent s f r).setAcc s.focus.elem r.acc {} else accrdSent s f r).acc s.focus.elem r.acc =
        if r.clear then {} else s.acc s.focus.elem r.acc := by
    split
    · exact ⟨hframe.trans (State.slotFrame_setAcc _ _ _ _), sentAs_modElem hsent rfl rfl, (State.acc_setAcc _ _ _ _ _).trans (if_pos rfl)⟩
    · exact ⟨hframe, hsent, by rw [State.acc, haccs, State.acc]⟩
  obtain ⟨hframe', hsent', hacc⟩ := hcleared
  refine ⟨_, hexec, (hframe'.trans (.modElem _ _ rfl)).trans (slotFrame_settleColour _ _ _ _), sentAs_settleColour (sentAs_modElem hsent' rfl rfl) _ _, ?_⟩
  rw [State.acc, elem_settleColour, State.elem_modElem_same]
  exact ⟨rfl, rfl, hacc⟩

end

end

end Sys2Proof.Machine
end

section
/-! CTURN (R157, R158): a row into its buffer, an EOS, and the tokens of a tile. -/

namespace Sys2Proof.Machine

theorem State.sentAs_trans {s t u : State} {e : Nat} (h : s.sentAs t e) (h' : t.sentAs u e) : s.sentAs u e := by
  obtain ⟨hflights, hnext, houtq, hscaleq⟩ := h
  obtain ⟨hflights', hnext', houtq', hscaleq'⟩ := h'
  exact ⟨hflights'.trans hflights, hnext'.trans hnext, houtq'.trans houtq, hscaleq'.trans hscaleq⟩

/-- R85: a firing without results sends nothing. -/
theorem State.endFiring_sends_nothing (s : State) (g : Firing) (taken : List StoreTok) (lat hold flags : Nat) : s.sentAs (s.endFiring g taken [] lat hold flags) g.e := by
  obtain ⟨hnext, -, -⟩ := endFiring_flights s g taken [] lat hold flags
  have helem := endFiring_elem s g taken [] lat hold flags
  refine ⟨endFiring_flights_of_remote _ _ _ _ _ _ (by simp), hnext, ?_, ?_⟩
  · rw [helem]
    exact List.append_nil _
  · rw [helem]
    exact List.append_nil _

/-! ### What a set of CTURN does, check after check (R157, R158) -/

section
variable {s : State} {f : SlotFields} {g : Firing} {y : Token}

/-- R157: the buffer of a firing's tile, if its rows are those of the firing's tile. -/
def cturnOwn (s : State) (g : Firing) : Option CturnSt :=
  (Table.find? (s.elem g.e).cturn (2 * g.slot + tagIx g.tag / 32 % 2)).filter fun c => c.key == tagOuter g.tag && c.tile == tagIx g.tag / 32

/-- R158: an EOS that passes on leaves the buffers of its tag empty. -/
def cturnPassed (s : State) (g : Firing) : State :=
  s.modElem g.e fun x => { x with cturn := x.cturn.filter fun q => q.1 / 2 != g.slot || q.2.key != tagOuter g.tag }

/-- R157: the firing's buffer is replaced. -/
def cturnPut (s : State) (g : Firing) (c : CturnSt) : State :=
  s.modElem g.e fun x => { x with cturn := Table.put x.cturn (2 * g.slot + tagIx g.tag / 32 % 2) c }

/-- R158: a buffer that an EOS ends. -/
def cturnEnded (s : State) (y : Token) (c : CturnSt) : CturnSt :=
  { c with emitting := true, at_ := if c.emitting then c.at_ else s.cycle, eos := some y }

/-- R157: the bytes that a row's tile takes up in the window. -/
def cturnRoomOff (f : SlotFields) (tile : Nat) : Nat := 128 * (f.ext.extractLsb' 0 12).toNat + 4096 * (tile % 2)

/-- R157: where a row is stored. -/
def cturnRowAt (s : State) (f : SlotFields) (g : Firing) : Nat :=
  scratchBase g.e + (s.scratchWin g.e).1 + cturnRoomOff f (tagIx g.tag / 32) + 128 * (tagIx g.tag % 32)

/-- R157: the buffer of a tile before the row that the firing stores. -/
def cturnOld (s : State) (g : Firing) (y : Token) : CturnSt :=
  (cturnOwn s g).getD { slot := g.slot, key := tagOuter g.tag, tile := tagIx g.tag / 32, rows := 0, emitting := false, next := 0, width := y.width, at_ := 0, eos := none }

/-- R157: the buffer with that row in; a full one emits. -/
def cturnFilled (s : State) (g : Firing) (y : Token) : CturnSt :=
  let old := cturnOld s g y
  let rows := old.rows ||| 2 ^ (tagIx g.tag % 32)
  let full := decide (rows = 2 ^ 32 - 1)
  { old with rows := rows, emitting := full, at_ := if full then s.cycle else old.at_, spoiled := old.spoiled.filter fun o => o / 128 != tagIx g.tag % 32 }

/-- R157: the state with the row stored. -/
def cturnStored (s : State) (f : SlotFields) (g : Firing) (y : Token) : State :=
  State.modElem { s with mem := Memory.write s.mem (cturnRowAt s f g) 128 (maskPayload y.width y.valid y.payload.toNat).toNat } g.e fun x =>
    { x with cturn := Table.put x.cturn (2 * g.slot + tagIx g.tag / 32 % 2) (cturnFilled s g y), spFree := max x.spFree s.cycle + 1 }

theorem cturnOff_eq (f : SlotFields) (tile : Nat) : cturnOff f tile = cturnRoomOff f tile := by rw [cturnOff, bits_eq_extractLsb', cturnRoomOff]

/-- R157, R158: CTURN on its matched set. -/
theorem cturn_of_ready (h : Ready s 0x74 f g) (hy : (s.srcA g).tok = some y) : exec (.cturn f) s =
    if tagDepth g.tag = 0 then s.fault g 0x08 (State.tagPos g)
    else if !cturnOpen (s.elem g.e) g then .refused .notEnabled
    else if y.kind = 2 then
      match cturnOwn s g with
      | none => .next (((cturnPassed s g).endFiring g g.toks [(f.dst0.toNat, y), (f.dst1.toNat, y)] 2 1 0).settleColour (s.elemPart g.e) (tagColour g.tag))
      | some c => .next ((cturnPut s g (cturnEnded s y c)).endFiring g g.toks [] 2 1 0)
    else if (s.scratchWin g.e).2 < cturnRoomOff f (tagIx g.tag / 32) + 4096 then s.fault g 0x06 (State.firstPos g)
    else .next ((cturnStored s f g y).endFiring g g.toks [] 2 1 0) := by
  have htok : (s.srcA g).asToken g.tag g.width = y := by rw [Src.asToken, hy]
  show execCturn f s = _
  rw [execCturn, State.fire_of_ready h]
  simp only [htok, cturnOff_eq]
  rfl

/-! ### An EOS (R158) -/

/-- R90: what a firing leaves of the matching store. -/
theorem takenFrom_endFiring (s : State) (g : Firing) (taken : List StoreTok) (sends : List (Nat × Token)) (lat hold flags : Nat) :
    TakenFrom (s.elem g.e).store taken ((s.endFiring g taken sends lat hold flags).elem g.e).store := by
  rw [endFiring_elem]
  exact takenFrom_eraseToks _ _

theorem cturn_endFiring (s : State) (g : Firing) (taken : List StoreTok) (sends : List (Nat × Token)) (lat hold flags : Nat) :
    ((s.endFiring g taken sends lat hold flags).elem g.e).cturn = (s.elem g.e).cturn := by
  rw [endFiring_elem]
  rfl

/-- R158: an EOS of a tile without rows passes on. -/
theorem cturn_passes (h : Ready s 0x74 f g) (hy : (s.srcA g).tok = some y) (hdepth : tagDepth g.tag ≠ 0) (hopen : cturnOpen (s.elem g.e) g = true)
    (hkind : y.kind = 2) (hown : cturnOwn s g = none) : ∃ t, exec (.cturn f) s = .next t ∧ SlotFrame s t g.e ∧ TakenFrom (s.elem g.e).store g.toks (t.elem g.e).store ∧
      (s.endFiring g g.toks [(f.dst0.toNat, y), (f.dst1.toNat, y)] 2 1 0).sentAs t g.e ∧
      (t.elem g.e).cturn = (s.elem g.e).cturn.filter fun q => q.1 / 2 != g.slot || q.2.key != tagOuter g.tag := by
  have hexec := cturn_of_ready h hy
  rw [if_neg hdepth, hopen, if_neg (by decide), if_pos hkind, hown] at hexec
  have hframe : SlotFrame s (cturnPassed s g) g.e := .modElem _ _ rfl
  have halike : s.SendsAlike (cturnPassed s g) g.e := State.sendsAlike_modElem _ _ rfl rfl rfl
  have helem : (cturnPassed s g).elem g.e = _ := State.elem_modElem_same _ _ _
  refine ⟨_, hexec, (hframe.trans (endFiring_frame _ _ _ _ _ _ _)).trans (slotFrame_settleColour _ _ _ _), ?_,
    sentAs_settleColour (halike.endFiring g g.toks _ 2 1 0 g.toks).sent _ _, ?_⟩
  · rw [elem_settleColour]
    have htaken := takenFrom_endFiring (cturnPassed s g) g g.toks [(f.dst0.toNat, y), (f.dst1.toNat, y)] 2 1 0
    rwa [helem] at htaken
  · rw [elem_settleColour, cturn_endFiring, helem]

/-- R158: an EOS of a tile with rows ends it. -/
theorem cturn_endsTile (h : Ready s 0x74 f g) (hy : (s.srcA g).tok = some y) (hdepth : tagDepth g.tag ≠ 0) (hopen : cturnOpen (s.elem g.e) g = true)
    (hkind : y.kind = 2) {c : CturnSt} (hown : cturnOwn s g = some c) : ∃ t, exec (.cturn f) s = .next t ∧ SlotFrame s t g.e ∧ s.sentAs t g.e ∧
      TakenFrom (s.elem g.e).store g.toks (t.elem g.e).store ∧
      Table.find? (t.elem g.e).cturn (2 * g.slot + tagIx g.tag / 32 % 2) = some (cturnEnded s y c) := by
  have hexec := cturn_of_ready h hy
  rw [if_neg hdepth, hopen, if_neg (by decide), if_pos hkind, hown] at hexec
  have hframe : SlotFrame s (cturnPut s g (cturnEnded s y c)) g.e := .modElem _ _ rfl
  have halike : s.SendsAlike (cturnPut s g (cturnEnded s y c)) g.e := State.sendsAlike_modElem _ _ rfl rfl rfl
  have helem : (cturnPut s g (cturnEnded s y c)).elem g.e = _ := State.elem_modElem_same _ _ _
  refine ⟨_, hexec, hframe.trans (endFiring_frame _ _ _ _ _ _ _), ?_, ?_, ?_⟩
  · exact State.sentAs_trans halike.sent (State.endFiring_sends_nothing _ _ _ _ _ _)
  · have htaken := takenFrom_endFiring (cturnPut s g (cturnEnded s y c)) g g.toks [] 2 1 0
    rwa [helem] at htaken
  · rw [cturn_endFiring, helem]
    exact (Table.find?_put _ _ _ _).trans (if_pos rfl)

/-! ### A row (R157) -/

theorem toNat_maskPayload_payload (code valid : Nat) (p : Payload) : (maskPayload code valid p.toNat).toNat = p.toNat % 2 ^ (2 ^ code * valid) := by
  rw [maskPayload, laneWidth, BitVec.toNat_ofNat, Nat.mod_eq_of_lt ((Nat.mod_le _ _).trans_lt p.isLt)]

/-- R157: what storing a row leaves. -/
theorem cturnStored_says (s : State) (f : SlotFields) (g : Firing) (y : Token) :
    (cturnStored s f g y).mem = Memory.write s.mem (cturnRowAt s f g) 128 (maskPayload y.width y.valid y.payload.toNat).toNat ∧
    (cturnStored s f g y).threads = s.threads ∧ (∀ d, d ≠ g.e → (cturnStored s f g y).elem d = s.elem d) ∧ s.sentAs (cturnStored s f g y) g.e ∧
    (cturnStored s f g y).elem g.e =
      { s.elem g.e with cturn := Table.put (s.elem g.e).cturn (2 * g.slot + tagIx g.tag / 32 % 2) (cturnFilled s g y), spFree := max (s.elem g.e).spFree s.cycle + 1 } := by
  have helem : (cturnStored s f g y).elem g.e = _ := State.elem_modElem_same _ _ _
  refine ⟨rfl, rfl, fun d hd => ?_, ⟨rfl, rfl, ?_, ?_⟩, helem⟩
  · rw [cturnStored, State.modElem_eq, State.elem_setElem, if_neg hd.symm]
    rfl
  · rw [helem]
    rfl
  · rw [helem]
    rfl

theorem pow_256_128 : (256 : Nat) ^ 128 = 2 ^ 1024 := by rw [show 256 = 2 ^ 8 by rfl, ← Nat.pow_mul]

/-- R157: a row is stored in its buffer. -/
theorem cturn_storesRow (h : Ready s 0x74 f g) (hy : (s.srcA g).tok = some y) (hdepth : tagDepth g.tag ≠ 0) (hopen : cturnOpen (s.elem g.e) g = true)
    (hkind : y.kind ≠ 2) (hroom : cturnRoomOff f (tagIx g.tag / 32) + 4096 ≤ (s.scratchWin g.e).2) :
    ∃ t, exec (.cturn f) s = .next t ∧ t.threads = s.threads ∧ (∀ d, d ≠ g.e → t.elem d = s.elem d) ∧ s.sentAs t g.e ∧
      TakenFrom (s.elem g.e).store g.toks (t.elem g.e).store ∧ (t.elem g.e).spFree = max (s.elem g.e).spFree s.cycle + 1 ∧
      Memory.read t.mem (cturnRowAt s f g) 128 = y.payload.toNat % 2 ^ (2 ^ y.width * y.valid) ∧ s.sameBytesBut t (cturnRowAt s f g) 128 ∧
      Table.find? (t.elem g.e).cturn (2 * g.slot + tagIx g.tag / 32 % 2) = some (cturnFilled s g y) := by
  have hexec := cturn_of_ready h hy
  rw [if_neg hdepth, hopen, if_neg (by decide), if_neg hkind, if_neg (Nat.not_lt.mpr hroom)] at hexec
  obtain ⟨hmem, hthreads, hothers, hsent, helem⟩ := cturnStored_says s f g y
  have hend := endFiring_frame (cturnStored s f g y) g g.toks [] 2 1 0
  have hmem' : ((cturnStored s f g y).endFiring g g.toks [] 2 1 0).mem = _ := (congrArg State.mem hend.machine :).trans hmem
  have hbits := toNat_maskPayload_payload y.width y.valid y.payload
  refine ⟨_, hexec, (congrArg State.threads hend.machine :).trans hthreads, fun d hd => (hend.elems d hd).trans (hothers d hd),
    State.sentAs_trans hsent (State.endFiring_sends_nothing _ _ _ _ _ _), ?_, ?_, ?_, fun b hb => ?_, ?_⟩
  · have htaken := takenFrom_endFiring (cturnStored s f g y) g g.toks [] 2 1 0
    rwa [helem] at htaken
  · rw [endFiring_elem, helem]
    rfl
  · rw [hmem', Memory.read_write, hbits, pow_256_128, Nat.mod_eq_of_lt]
    exact (Nat.mod_le _ _).trans_lt y.payload.isLt
  · rw [hmem', Memory.get_write_other _ _ _ _ _ hb]
  · rw [cturn_endFiring, helem]
    exact (Table.find?_put _ _ _ _).trans (if_pos rfl)

/-- R157: the buffer that a row finds: the tile's own, or an empty one. -/
theorem cturnOld_says (s : State) (g : Firing) (y : Token) : (cturnOld s g y).key = ((cturnOwn s g).map (·.key)).getD (tagOuter g.tag) ∧
    (cturnOld s g y).tile = tagIx g.tag / 32 ∧ (cturnOld s g y).rows = ((cturnOwn s g).map (·.rows)).getD 0 ∧
    (cturnOwn s g = none → (cturnOld s g y).next = 0 ∧ (cturnOld s g y).width = y.width) := by
  rw [cturnOld]
  cases hown : cturnOwn s g with
  | none => exact ⟨rfl, rfl, rfl, fun _ => ⟨rfl, rfl⟩⟩
  | some c =>
    obtain ⟨-, hmine⟩ := Option.filter_eq_some_iff.mp hown
    rw [Bool.and_eq_true, beq_iff_eq, beq_iff_eq] at hmine
    exact ⟨rfl, hmine.2, rfl, nofun⟩

/-- R157: the buffer that a row leaves. -/
theorem cturnFilled_says (s : State) (g : Firing) (y : Token) : let c := cturnFilled s g y
    c.key = ((cturnOwn s g).map (·.key)).getD (tagOuter g.tag) ∧ c.tile = tagIx g.tag / 32 ∧
      c.rows = (((cturnOwn s g).map (·.rows)).getD 0 ||| 2 ^ (tagIx g.tag % 32)) ∧ (c.emitting = true ↔ c.rows = 2 ^ 32 - 1) ∧
      (cturnOwn s g = none → c.next = 0 ∧ c.width = y.width) := by
  obtain ⟨hkey, htile, hrows, hnew⟩ := cturnOld_says s g y
  exact ⟨hkey, htile, congrArg (· ||| 2 ^ (tagIx g.tag % 32)) hrows, decide_eq_true_iff, hnew⟩

end

end Sys2Proof.Machine
end

section
/-! CTURN_EMIT (R157, R158): the transposed tokens of a tile, and the EOS after them. -/

namespace Sys2Proof.Machine

/-! ### A stored row as lanes of bytes -/

theorem Memory.read_succ_last (m : List Host.Cell) (a n : Nat) : Memory.read m a (n + 1) = Memory.read m a n + 256 ^ n * (Memory.get m (a + n)).toNat := by
  induction n generalizing a with
  | zero => rw [read, read, read, Nat.pow_zero, Nat.one_mul, Nat.mul_zero, Nat.zero_add, Nat.add_zero, Nat.add_zero]
  | succ n ih =>
    rw [read, ih, read, Nat.add_right_comm a 1 n, Nat.add_assoc a n 1, Nat.pow_succ]
    ring

/-- R59: bytes packed in order are what a read of them gives. -/
theorem packLanes_get (m : List Host.Cell) (a n : Nat) : packLanes 8 (fun b => (Memory.get m (a + b)).toNat) n = Memory.read m a n := by
  induction n with
  | zero => rfl
  | succ n ih =>
    rw [packLanes, ih, Memory.read_succ_last, Nat.mod_eq_of_lt (Memory.get m (a + n)).isLt, Nat.pow_mul, Nat.mul_comm]

section
variable {s : State} {f : SlotFields} {c : CturnSt} {op : Nat} {i : Instr}

/-! ### The token of a tile (R157) -/

/-- R157: a bit of the rows that are in. -/
theorem rows_bit (rows r : Nat) : rows / 2 ^ r % 2 = 0 ↔ rows.testBit r = false := by
  rw [Nat.testBit_eq_decide_div_mod_eq, decide_eq_false_iff_not]
  omega

/-- R157: element (row, col) of a tile no byte of which is a free value. -/
theorem cturnElem_eq (base row col : Nat) (hspoiled : c.spoiled = []) : cturnElem s base c row col =
    if c.rows.testBit row then Memory.read s.mem (base + 128 * row) 128 / 2 ^ (2 ^ c.width * col) % 2 ^ 2 ^ c.width else 0 := by
  rw [cturnElem, hspoiled]
  by_cases hrow : c.rows.testBit row = true
  · rw [if_neg (by rw [rows_bit, hrow]; decide), if_pos hrow]
    simp only [List.contains_nil, Bool.false_eq_true, if_false, packLanes_get, laneWidth, bits]
  · rw [if_pos ((rows_bit _ _).mpr (Bool.eq_false_iff.mpr hrow)), if_neg hrow]

/-- R157: the lanes of a tile's token: a column, row after row. -/
theorem lanes_cturnToken (base : Nat) (hspoiled : c.spoiled = []) (hwidth : c.width ≤ 5) : let w := 2 ^ c.width; let n := 1024 / w
    Lanes (cturnToken s base c).payload w n fun j => if c.rows.testBit (j % 32) then
      Memory.read s.mem (base + 128 * (j % 32)) 128 / 2 ^ (w * (c.next * (n / 32) + j / 32)) % 2 ^ w else 0 := by
  intro w n
  have hlanes := lanes_maskPayload (code := c.width) (valid := n) (w := w) (n := n) (fun j => cturnElem s base c (j % 32) (c.next * (n / 32) + j / 32)) rfl
    (two_pow_mul_lanesOf hwidth).le
  intro j
  refine (hlanes j).trans ?_
  simp only [cturnElem_eq base _ _ hspoiled]
  split
  · split
    · exact Nat.mod_mod _ _
    · exact Nat.zero_mod _
  · rfl

/-! ### The step (R158) -/

/-- R157, R158: a token of the buffer sent to both destinations. -/
def cturnSends (s : State) (f : SlotFields) (c : CturnSt) (y : Token) : State :=
  (s.send s.focus.elem c.slot f.dst0.toNat y (s.cycle + 1)).send s.focus.elem c.slot f.dst1.toNat y (s.cycle + 1)

theorem cturnSends_sent (s : State) (f : SlotFields) (c : CturnSt) (y : Token) : ∃ outs scales locals, Sent s (cturnSends s f c y) s.focus.elem outs scales locals :=
  ⟨_, _, _, (send_sent s _ _ _ _ _).trans (send_sent _ _ _ _ _ _)⟩

theorem cturnSends_freeCount (s : State) (f : SlotFields) (c : CturnSt) (y : Token) : { cturnSends s f c y with freeCount := s.freeCount } = cturnSends s f c y := by
  obtain ⟨outs, scales, locals, hsent⟩ := cturnSends_sent s f c y
  have hfree : (cturnSends s f c y).freeCount = s.freeCount := (congrArg State.freeCount hsent.rest :)
  rw [← hfree]

/-- R157: where a tile's buffer begins. -/
def cturnBase (s : State) (f : SlotFields) (c : CturnSt) : Nat :=
  scratchBase s.focus.elem + (s.scratchWin s.focus.elem).1 + 128 * (f.ext.extractLsb' 0 12).toNat + 4096 * (c.tile % 2)

/-- R158: what an emission leaves of the element: its port, and the buffers after the token. -/
def cturnLeft (s : State) (f : SlotFields) (c : CturnSt) (y : Token) (k : ElemSt → ElemSt) : State :=
  ((cturnSends s f c y).modElem s.focus.elem k).settleColour (s.elemPart s.focus.elem) (tagColour c.key)

theorem cturnLeft_says (y : Token) {k : ElemSt → ElemSt} (hactive : ∀ x, (k x).active = x.active) (houtq : ∀ x, (k x).outq = x.outq)
    (hscaleq : ∀ x, (k x).scaleq = x.scaleq) (hcturn : ∀ x z, x.cturn = z.cturn → (k x).cturn = (k z).cturn) :
    SlotFrame s (cturnLeft s f c y k) s.focus.elem ∧ (cturnSends s f c y).sentAs (cturnLeft s f c y k) s.focus.elem ∧
      ((cturnLeft s f c y k).elem s.focus.elem).cturn = (k (s.elem s.focus.elem)).cturn ∧
      ∃ x, (cturnLeft s f c y k).elem s.focus.elem = k x := by
  obtain ⟨outs, scales, locals, hsent⟩ := cturnSends_sent s f c y
  have helem : (cturnLeft s f c y k).elem s.focus.elem = k ((cturnSends s f c y).elem s.focus.elem) :=
    (elem_settleColour _ _ _ _).trans (State.elem_modElem_same _ _ _)
  refine ⟨(hsent.frame.trans (.modElem _ _ (hactive _))).trans (slotFrame_settleColour _ _ _ _),
    sentAs_settleColour (sentAs_modElem ⟨rfl, rfl, rfl, rfl⟩ (houtq _) (hscaleq _)) _ _, ?_, _, helem⟩
  rw [helem]
  refine hcturn _ _ ?_
  rw [hsent.elem]
  rfl

/-- R158: the buffers after a token of a tile. -/
def cturnAdvanced (now k : Nat) (c : CturnSt) (x : ElemSt) : ElemSt :=
  { x with spFree := now + 1,
           cturn := if decide (c.next = 31) && c.eos.isNone then Table.erase x.cturn k else Table.put x.cturn k { c with next := c.next + 1 } }

/-- R158: the buffers after the EOS of a tile. -/
def cturnDone (k : Nat) (c : CturnSt) (x : ElemSt) : ElemSt :=
  { x with cturn := x.cturn.filter fun q => q.1 / 2 != c.slot || q.2.key != c.key || (q.1 != k && q.2.emitting) }

section
variable (hc : Table.find? (s.elem s.focus.elem).cturn s.focus.index = some c) (hslot : (s.elem s.focus.elem).active.slotAt c.slot = some (op, i, f))
include hc hslot

theorem exec_cturnEmit_refused (hdue : s.cturnDue s.focus.elem s.focus.index = false) : exec .cturnEmit s = .refused .notEnabled := by
  show execCturnEmit s = _
  unfold execCturnEmit
  simp only [hc, hslot, hdue, Bool.not_false, if_true]

/-- R157: a token of a tile no byte of which is a free value. -/
theorem exec_cturnEmit_token (hdue : s.cturnDue s.focus.elem s.focus.index = true) (hnext : c.next < 32) (hspoiled : c.spoiled = []) :
    exec .cturnEmit s = .next (cturnLeft s f c (cturnToken s (cturnBase s f c) c) (cturnAdvanced s.cycle s.focus.index c)) := by
  have hempty : c.spoiled.isEmpty = true := by rw [hspoiled, List.isEmpty_nil]
  have hbase : scratchBase s.focus.elem + (s.scratchWin s.focus.elem).1 + cturnOff f c.tile = cturnBase s f c := by
    rw [cturnOff_eq, cturnRoomOff, cturnBase, Nat.add_assoc _ (128 * _)]
  show execCturnEmit s = _
  unfold execCturnEmit
  simp only [hc, hslot, hdue, Bool.not_true, Bool.false_eq_true, if_false, if_pos hnext, hempty, if_true, hbase]
  generalize cturnToken s (cturnBase s f c) c = y
  rw [cturnLeft, ← cturnSends_freeCount]
  rfl

theorem exec_cturnEmit_eos (hdue : s.cturnDue s.focus.elem s.focus.index = true) (hnext : 32 ≤ c.next) {y : Token} (heos : c.eos = some y) :
    exec .cturnEmit s = .next (cturnLeft s f c y (cturnDone s.focus.index c)) := by
  show execCturnEmit s = _
  unfold execCturnEmit
  simp only [hc, hslot, hdue, Bool.not_true, Bool.false_eq_true, if_false, if_neg (Nat.not_lt.mpr hnext), heos]
  rfl

/-- R157: a tile's next token. -/
theorem cturnEmit_sends (hdue : s.cturnDue s.focus.elem s.focus.index = true) (hnext : c.next < 32) (hspoiled : c.spoiled = []) : ∃ t, exec .cturnEmit s = .next t ∧
    SlotFrame s t s.focus.elem ∧ (cturnSends s f c (cturnToken s (cturnBase s f c) c)).sentAs t s.focus.elem ∧ (t.elem s.focus.elem).spFree = s.cycle + 1 ∧
    Table.find? (t.elem s.focus.elem).cturn s.focus.index = if c.next = 31 ∧ c.eos = none then none else some { c with next := c.next + 1 } := by
  obtain ⟨hframe, hsent, hcturn, x, helem⟩ := cturnLeft_says (s := s) (f := f) (c := c) (cturnToken s (cturnBase s f c) c)
    (k := cturnAdvanced s.cycle s.focus.index c) (fun _ => rfl) (fun _ => rfl) (fun _ => rfl) (fun x z h => by rw [cturnAdvanced, cturnAdvanced, h])
  refine ⟨_, exec_cturnEmit_token hc hslot hdue hnext hspoiled, hframe, hsent, ?_, ?_⟩
  · rw [helem]
    rfl
  · have hlast : (decide (c.next = 31) && c.eos.isNone) = true ↔ c.next = 31 ∧ c.eos = none := by
      rw [Bool.and_eq_true, decide_eq_true_eq, Option.isNone_iff_eq_none]
    rw [hcturn, cturnAdvanced]
    simp only [hlast]
    split
    · exact (Table.find?_erase _ _ _).trans (if_pos rfl)
    · exact (Table.find?_put _ _ _ _).trans (if_pos rfl)

/-- R158: the EOS after a tile. -/
theorem cturnEmit_ends (hdue : s.cturnDue s.focus.elem s.focus.index = true) (hnext : 32 ≤ c.next) {y : Token} (heos : c.eos = some y) : ∃ t,
    exec .cturnEmit s = .next t ∧ SlotFrame s t s.focus.elem ∧ (cturnSends s f c y).sentAs t s.focus.elem ∧
    (t.elem s.focus.elem).cturn = (s.elem s.focus.elem).cturn.filter fun q => q.1 / 2 != c.slot || q.2.key != c.key || (q.1 != s.focus.index && q.2.emitting) := by
  obtain ⟨hframe, hsent, hcturn, -⟩ := cturnLeft_says (s := s) (f := f) (c := c) y (k := cturnDone s.focus.index c)
    (fun _ => rfl) (fun _ => rfl) (fun _ => rfl) (fun x z h => by rw [cturnDone, cturnDone, h])
  exact ⟨_, exec_cturnEmit_eos hc hslot hdue hnext heos, hframe, hsent, hcturn⟩

end

end

end Sys2Proof.Machine
end

section
/-! O44: the matrix port (R149 to R158). -/

namespace Sys2Proof.Machine

/-- R113: the cells of an accumulator after a firing. -/
theorem matrixAcc_cells (s : State) (g : Firing) (sum : Nat → Nat → FVal × Nat) {j : Nat} (hj : j < 1024) :
    Table.getD (matrixAcc s g sum).cells j 0 = (cellAfter (s.acc g.e (matrixReg g)) sum j).bits := by
  have hcells := applyFiring_cells (s.acc g.e (matrixReg g)) sum hj
  rw [matrixAcc, hcells]

section
variable {s : State} {f : SlotFields} {scaled : Bool} {a b : StoreTok} {c : Option StoreTok} {i : Instr}
variable (hset : MatrixSet (matrixFiring s f scaled a b c) a b c) (hruns : RunsMatrix i s f scaled a b c)
  (h : ¬ MatrixWaits s (matrixFiring s f scaled a b c) a b)
include hset hruns h

/-! ### The checks of a matched set, one by one (R151) -/

theorem matrix_widthA (hwa : a.token.width ≠ matrixWidth (fmtOf f)) : exec i s = s.fault (matrixFiring s f scaled a b c) 0x08 0 :=
  (matrix_checks hset hruns h).trans (if_pos hwa)

variable (hwa : a.token.width = matrixWidth (fmtOf f))
include hwa

theorem matrix_widthB (hwb : b.token.width ≠ matrixWidth (fmtOf f)) : exec i s = s.fault (matrixFiring s f scaled a b c) 0x08 1 :=
  (matrix_checks hset hruns h).trans ((if_neg (not_not.mpr hwa)).trans (if_pos hwb))

variable (hwb : b.token.width = matrixWidth (fmtOf f))
include hwb

theorem matrix_ofWidth : exec i s = let g := matrixFiring s f scaled a b c
    if a.token.kind = 2 ∧ b.token.kind = 2 then .next (s.endFiring g [a, b] [(f.dst0.toNat, a.token), (f.dst1.toNat, b.token)] 2 1 0)
    else if a.token.kind = 2 then s.fault g 0x08 0
    else if b.token.kind = 2 then s.fault g 0x08 1
    else if IxBeyond g then s.fault g 0x08 (State.tagPos g)
    else .next ((matrixApplied s g (matrixSum f scaled c (matrixFpc s g) a.token b.token)).endFiring g (matrixTaken f s.focus.tag scaled a b c)
      [(f.dst0.toNat, a.token), (f.dst1.toNat, b.token)] 2 1 0) :=
  (matrix_checks hset hruns h).trans ((if_neg (not_not.mpr hwa)).trans (if_neg (not_not.mpr hwb)))

theorem matrix_passesEos (hea : a.token.kind = 2) (heb : b.token.kind = 2) : exec i s =
    .next (s.endFiring (matrixFiring s f scaled a b c) [a, b] [(f.dst0.toNat, a.token), (f.dst1.toNat, b.token)] 2 1 0) :=
  (matrix_ofWidth hset hruns h hwa hwb).trans (if_pos ⟨hea, heb⟩)

theorem matrix_eosA (hea : a.token.kind = 2) (heb : ¬ b.token.kind = 2) : exec i s = s.fault (matrixFiring s f scaled a b c) 0x08 0 :=
  (matrix_ofWidth hset hruns h hwa hwb).trans ((if_neg fun hboth => heb hboth.2).trans (if_pos hea))

variable (hea : ¬ a.token.kind = 2)
include hea

theorem matrix_eosB (heb : b.token.kind = 2) : exec i s = s.fault (matrixFiring s f scaled a b c) 0x08 1 :=
  (matrix_ofWidth hset hruns h hwa hwb).trans ((if_neg fun hboth => hea hboth.1).trans ((if_neg hea).trans (if_pos heb)))

theorem matrix_ixBeyond (heb : ¬ b.token.kind = 2) (hix : IxBeyond (matrixFiring s f scaled a b c)) :
    exec i s = s.fault (matrixFiring s f scaled a b c) 0x08 (State.tagPos (matrixFiring s f scaled a b c)) :=
  (matrix_ofWidth hset hruns h hwa hwb).trans ((if_neg fun hboth => hea hboth.1).trans ((if_neg hea).trans ((if_neg heb).trans (if_pos hix))))

/-- R149 to R152: what a set that passes every check leaves. -/
theorem matrix_accumulates (heb : ¬ b.token.kind = 2) (hix : ¬ IxBeyond (matrixFiring s f scaled a b c)) : let g := matrixFiring s f scaled a b c
    let sum := matrixSum f scaled c (matrixFpc s g) a.token b.token
    let u := s.endFiring g (matrixTaken f s.focus.tag scaled a b c) [(f.dst0.toNat, a.token), (f.dst1.toNat, b.token)] 2 1 (matrixFlags s g sum)
    ∃ t, exec i s = .next t ∧ SlotFrame s t g.e ∧ u.sentAs t g.e ∧ (t.elem g.e).store = (u.elem g.e).store ∧
      (∀ h, s.cycle ≤ h → (t.elem g.e).fpfAt h = (s.elem g.e).fpfAt h ||| (if s.cycle + 8 ≤ h then matrixFlags s g sum else 0)) ∧
      (t.elem g.e).mmaFree = s.cycle + 4 ∧ (t.elem g.e).mxFree = s.cycle + 1 ∧
      (∀ j, j ≠ matrixReg g → t.acc g.e j = s.acc g.e j) ∧ t.acc g.e (matrixReg g) = matrixAcc s g sum := by
  intro g sum u
  have hop : g.op = 0x70 ∨ g.op = 0x71 := by
    cases scaled with
    | true => exact .inr rfl
    | false => exact .inl rfl
  obtain ⟨hframe, hsent, hstore, hfpf, hmma, hmx, haccs⟩ := matrix_ends s g sum (matrixTaken f s.focus.tag scaled a b c)
    [(f.dst0.toNat, a.token), (f.dst1.toNat, b.token)] hop
  exact ⟨_, matrix_fires hset hruns h hwa hwb hea heb hix, hframe, hsent, hstore, hfpf, hmma, hmx,
    fun j hj => (haccs j).trans (if_neg hj.symm), (haccs _).trans (if_pos rfl)⟩

end


/-- Settles O44: each clause by the lemma of its opcode. -/
theorem matrixSlotsAccumulate : Obligations.MatrixSlotsAccumulate := by
  unfold Obligations.MatrixSlotsAccumulate
  intro num depth cells
  refine ⟨?_, accumulate_says, ?_, ?_, ?_, ?_, ?_⟩
  · intro fmt fpc a b i n w va vb on ra rb hvalues
    have hon : ∀ k, on k = true ↔ 32 * k + i < a.valid ∧ 32 * k + n < b.valid := fun k => by
      rw [Bool.and_eq_true, decide_eq_true_eq, decide_eq_true_eq]
    obtain ⟨x, y, z, heq, hsum⟩ := cellProducts_finite fmt fpc a b i n (ra := ra) (rb := rb) fun k hk hvalid => hvalues k hk ((hon k).mpr hvalid)
    refine ⟨x, y, z, heq, hsum.trans ?_⟩
    simp only [hon]
    rfl
  · intro s f scaled a b c e x k i fmt rho n m tag ix g ha hb hka hkb hscaled hplain acc w eosA eosB beyond waits sends
    obtain ⟨hset, hruns⟩ := runsMatrix_of_oldest ha hb hka hkb hscaled hplain
    refine ⟨fun h => matrix_waits hset hruns h, fun h => ?_⟩
    refine ⟨fun hwa => matrix_widthA hset hruns h hwa, fun hwa hwb => matrix_widthB hset hruns h hwa hwb,
      fun hwa hwb => ⟨fun hea heb => matrix_passesEos hset hruns h hwa hwb hea heb, fun hea heb => matrix_eosA hset hruns h hwa hwb hea heb,
        fun hea heb => matrix_eosB hset hruns h hwa hwb hea heb⟩, fun hea heb hwa hwb hix => matrix_ixBeyond hset hruns h hwa hwb hea heb hix, ?_⟩
    intro hea heb hwa hwb hix fpc code scale sum cell
    obtain ⟨t, hexec, hframe, hsent, hstore, hfpf, hmma, hmx, hothers, hacc⟩ := matrix_accumulates hset hruns h hwa hwb hea heb hix
    have hcell : ∀ j, cellAfter (s.acc e m) (matrixSum f scaled c fpc a.token b.token) j = cell j := fun _ => rfl
    refine ⟨t, matrixFlags s g (matrixSum f scaled c fpc a.token b.token), hexec, hframe, fun j => ?_, hsent, hstore, hfpf, hmma, hmx, hothers, fun j hj => ?_, ?_⟩
    · refine (applyFiring_flags _ _ j).trans ?_
      simp only [← hcell]
      rfl
    · rw [← hcell]
      exact (congrArg (fun q : AccSt => Table.getD q.cells j 0) hacc).trans (matrixAcc_cells s g _ hj)
    · rw [show t.acc e m = _ from hacc]
      exact ⟨rfl, rfl, rfl, rfl⟩
  · intro s f g m e x acc code
    refine ⟨fun h hwidths => ?_, fun h hwidth => ?_⟩
    · have hexec := accrd_of_ready h hwidths
      rw [tagDepth_eq] at hexec
      refine ⟨fun hdepth => hexec.trans (if_pos hdepth), fun hdepth => hexec.trans (if_neg hdepth)⟩
    · refine ⟨(s.srcA g).asToken g.tag g.width, Src.stands_asToken _ _ hwidth, fun c hc => ?_, fun r hr => accclr_clears h rfl hr⟩
      have hexec := accclr_of_ready h
      rw [hc] at hexec
      exact hexec
  · intro s op i f r e x acc haccrd hslot
    refine ⟨exec_accrdRow_refused haccrd hslot, fun hdue => ?_⟩
    rcases Nat.lt_or_ge r.row 32 with hrow | hrow
    · obtain ⟨t, hexec, hframe, hsent, hfpf, hnext, haccs⟩ := accrdRow_sends haccrd hslot hdue hrow
      refine ⟨t, (accrdNext acc f r).2.1, hexec, hframe, ?_, accrdNext_width acc f, fun _ => ?_, fun h => absurd hrow (by omega)⟩
      · rw [← accrdNext_code acc f]
        exact hsent
      · have hlanes := lanes_accrdNext acc f hrow
        have hflags := fun h hh j => (congrArg (Nat.testBit · j) (hfpf h hh)).trans (Nat.testBit_or _ _ j)
        rw [accrdNext_row acc f hrow] at hlanes hflags ⊢
        refine ⟨rfl, rfl, rfl, hlanes, fun h hh j => ?_, hnext, haccs⟩
        rw [hflags h hh j, Bool.or_eq_true, testBit_orLanes]
        rfl
    · obtain ⟨t, hexec, hframe, hsent, hends, hport, hacc⟩ := accrdRow_ends haccrd hslot hdue hrow
      refine ⟨t, (accrdNext acc f r).2.1, hexec, hframe, ?_, accrdNext_width acc f, fun h => absurd h (by omega), fun _ => ?_⟩
      · rw [← accrdNext_code acc f]
        exact hsent
      · rw [accrdNext_eos acc f hrow]
        exact ⟨rfl, rfl, rfl, hends, hport, hacc⟩
  · intro s f g e x ix tile row win off at_ room key own y h hy hwidth
    have hexec := cturn_of_ready h hy
    rw [tagDepth_eq] at hexec
    refine ⟨fun hdepth => hexec.trans (if_pos hdepth), fun hdepth hclosed => ?_, fun hdepth hopen => ?_⟩
    · rw [if_neg hdepth, hclosed] at hexec
      exact hexec
    · have hdepth' : tagDepth g.tag ≠ 0 := by rwa [tagDepth_eq]
      refine ⟨fun hkind hown => cturn_passes h hy hdepth' hopen hkind hown, fun hkind c hown => cturn_endsTile h hy hdepth' hopen hkind hown,
        fun hkind hroom => ?_, fun hkind hroom => ?_⟩
      · rw [if_neg hdepth, hopen, if_neg (by decide), if_neg hkind] at hexec
        exact hexec.trans (if_pos (Nat.lt_of_not_le hroom))
      · obtain ⟨t, hfires, hthreads, hothers, hsent, htaken, hport, hread, hbytes, hfind⟩ := cturn_storesRow h hy hdepth' hopen hkind hroom
        exact ⟨t, cturnFilled s g y, hfires, hthreads, hothers, hsent, htaken, hport, hread, hbytes, hfind, cturnFilled_says s g y⟩
  · intro s op i f c e x k at_ hc hslot
    refine ⟨exec_cturnEmit_refused hc hslot, fun hdue hnext hspoiled hwidth => ?_, fun hdue hnext y heos => cturnEmit_ends hc hslot hdue hnext heos⟩
    obtain ⟨t, hexec, hframe, hsent, hport, hfind⟩ := cturnEmit_sends hc hslot hdue hnext hspoiled
    exact ⟨t, _, hexec, hframe, ⟨rfl, rfl, rfl, rfl, lanes_cturnToken _ hspoiled hwidth⟩, hsent, hport, hfind⟩

end Sys2Proof.Machine
end
